-- ==== Sys2Proof/Syntax.lean ====
section
/-! DEFINITION. The syntax of the RY4: the header of a syllable, one operand record for each assembly form, and `Instr`
with one constructor for each row of the opcode table (spec 03 R63 to R74 and the encoding rules of 04, 05, 08, 09,
11, 14, 16, 18 and 23). Register numbers, offsets and immediates are natural numbers with the bounds of
`Sys2Proof.WellFormed`; they are the raw values of their fields. -/

namespace Sys2Proof

/-- The header fields of a syllable (R63): PROT, S, GN and GP. -/
structure Hdr where
  prot : Nat
  slot : Nat
  gneg : Nat
  gp : Nat
deriving DecidableEq, Repr

/-- Integer comparison conditions, codes 0 to 9 (R95). -/
inductive IntCond where
  | eq | ne | ltS | geS | gtS | leS | ltZ | geZ | gtZ | leZ
deriving DecidableEq, Repr

/-- FP comparison conditions, codes 0 to 7 (R104). -/
inductive FpCond where
  | eq | ne | lt | le | gt | ge | un | ord
deriving DecidableEq, Repr

/-- Logic functions of PLOG and MLOG, codes 0 to 7 (R96). -/
inductive LogicFn where
  | and | or | xor | andn | nand | nor | xnor | orn
deriving DecidableEq, Repr

/-- Unsigned conditions of ACMP, codes 0 to 3 (R98). -/
inductive AddrCond where
  | eq | ne | lt | ge
deriving DecidableEq, Repr

/-- Sign functions of FSGN and VFSGN (R106). -/
inductive SignFn where
  | cpy | neg | xor
deriving DecidableEq, Repr

/-- Integer element widths of the vector block (R128). -/
inductive VWidth where
  | w32 | w16 | w8
deriving DecidableEq, Repr

/-- FP element formats of the vector block (R128). -/
inductive VFloat where
  | f32 | bf16 | f16
deriving DecidableEq, Repr

/-- Reduction operations (R152). -/
inductive RedOp where
  | add | min | max
deriving DecidableEq, Repr

/-- Reduction element types (R152). -/
inductive RedTy where
  | i32 | u32 | f32
deriving DecidableEq, Repr

/-- Element types of VDOT (R160). -/
inductive DotTy where
  | bf16 | f16 | e4m3 | e5m2 | i8 | u8 | i16 | u16
deriving DecidableEq, Repr

/-- Block formats of VQENC, VQDEC (R149) and XREQ (R346). -/
inductive QFmt where
  | e4m3 | e5m2 | i8 | l4x
deriving DecidableEq, Repr

/-- Scopes of atomics and fences (R296). -/
inductive Scope where
  | part | core | clus | die | pkg | dom
deriving DecidableEq, Repr

/-- Orders of atomics (R296). -/
inductive MemOrder where
  | rlx | acq | rel | ar
deriving DecidableEq, Repr

/-- Operations of AMO (R298). -/
inductive AmoOp where
  | add | and | or | xor | min | max | exch | fadd
deriving DecidableEq, Repr

/-- Operations of VAMO (R300). -/
inductive VamoOp where
  | addI32 | addF32 | maxS32 | minS32 | addI16 | addBf16 | addF16 | exch32
deriving DecidableEq, Repr

/-- Engine classes of KMODE, codes 0 to 3 (R223). -/
inductive EngClass where
  | vector | matrix | transpose | copy
deriving DecidableEq, Repr

/-- Rounding modes in the coding of FCSR.RM, codes 0 to 4 (R12). -/
inductive RoundMode where
  | rne | rtz | rdn | rup | rna
deriving DecidableEq, Repr

/-- Element formats of MMA, MBLK and SCACC, codes 0 to 8 (R331). -/
inductive MFmt where
  | e4m3 | e4m3e5m2 | e5m2e4m3 | e5m2 | i8 | bf16 | f16 | i4 | l4x
deriving DecidableEq, Repr

/-- Element widths of XPOSE (R344). -/
inductive XWidth where
  | w8 | w16 | w32
deriving DecidableEq, Repr

/-- Scratchpad tile layouts of XLAY (R345). -/
inductive Layout where
  | lin | blk | rot
deriving DecidableEq, Repr

/-- Combinations of CRED (R354). -/
inductive CredOp where
  | addF32 | addBf16 | maxF32 | maxBf16
deriving DecidableEq, Repr

/-- RMODE (R100): `dyn` is FCSR.RM under R13. -/
inductive RMode where
  | dyn | rne | rtz | rdn | rup
deriving DecidableEq, Repr

/-- The number formats of FCVT and VCVT (R107); the `u` codes are the unsigned forms. -/
inductive NumFmt where
  | f32 | bf16 | f16 | e4m3 | e5m2 | e8 | i32 | i16 | i8 | i4 | u32 | u16 | u8 | u4
deriving DecidableEq, Repr

/-- The output formats of ASTORE (R339). -/
inductive StFmt where
  | f32 | bf16 | f16 | e4m3 | e5m2 | i32 | i8 | e4m3s | e5m2s | i8s | l4x
deriving DecidableEq, Repr

/-- The second operand of the F3 and F2I scalar opcodes (R70, R83): a g register, the 16-bit immediate field
or the 32-bit payload of an E32 extension. -/
inductive Src2 where
  | reg (n : Nat)
  | imm (v : Nat)
  | ext (v : Nat)
deriving DecidableEq, Repr

/-- An operand marked "imm" (R71, R202): a g register or the payload of an E32 extension. -/
inductive RegImm where
  | reg (n : Nat)
  | imm (v : Nat)
deriving DecidableEq, Repr

/-- A byte offset of format FM (R69, R124): the raw 16-bit field or the payload of an E32 extension. -/
inductive Off where
  | field16 (v : Nat)
  | ext (v : Nat)
deriving DecidableEq, Repr

/-- A lane stride (R162): the raw 13-bit field or the payload of an E32 extension. -/
inductive Stride where
  | field13 (v : Nat)
  | ext (v : Nat)
deriving DecidableEq, Repr

/-- The second source of a vector instruction (R131): a v register, a broadcast g register or a broadcast
immediate. -/
inductive VSrc where
  | vec (n : Nat)
  | gs (n : Nat)
  | imm (v : Nat)
deriving DecidableEq, Repr

/-- The source of VBCST (R156). -/
inductive BcstSrc where
  | elem (a idx : Nat)
  | gs (n : Nat)
  | imm (v : Nat)
deriving DecidableEq, Repr

/-- The element index of VEXT and VINS (R156). -/
inductive VIdx where
  | imm (n : Nat)
  | gs (n : Nat)
deriving DecidableEq, Repr

/-- The immediate of MOVI (R93): `low` is sign-extended, `high` replaces the upper half, `ext` is 32 bits. -/
inductive MoviImm where
  | low (v : Nat)
  | high (v : Nat)
  | ext (v : Nat)
deriving DecidableEq, Repr

/-- The forms of MOV (R92). -/
inductive MovArgs where
  | fromG (d a : Nat)
  | fromB (d b : Nat)
deriving DecidableEq, Repr

/-- The forms of PMOV (R97). -/
inductive PmovArgs where
  | pp (p a : Nat)
  | gAll (d : Nat)
  | allG (a : Nat)
  | pg (p a : Nat)
deriving DecidableEq, Repr

/-- The forms of AMOV (R98). -/
inductive AmovArgs where
  | fromA (d a : Nat)
  | fromG (d a : Nat)
  | fromGG (d a b : Nat)
  | imm (d v : Nat)
deriving DecidableEq, Repr

/-- The forms of MMOV (R161). -/
inductive MmovArgs where
  | mm (m a : Nat)
  | mg (m a : Nat)
  | gm (d a : Nat)
  | imm (m v : Nat)
deriving DecidableEq, Repr

/-- The destination of a transpose instruction (R343): the a register with a local address, or a ring. -/
inductive XDst where
  | addr (n : Nat)
  | ring (n : Nat)
deriving DecidableEq, Repr

/-- `op gd, ga, b` of F3 or F2I without a `.z` form (R83, R85). -/
structure BinArgs where
  (d a : Nat)
  b : Src2
deriving DecidableEq, Repr

/-- `op.s|.z gd, ga, b` of F3 or F2I (R83, R85). -/
structure BinZArgs where
  (d a : Nat)
  b : Src2
  z : Bool
deriving DecidableEq, Repr

/-- `op gd, ga` of F3 (R88). -/
structure UnArgs where
  (d a : Nat)
deriving DecidableEq, Repr

/-- `movx gd, ga`, the source in the other cluster (R94). -/
structure MovxArgs where
  (d a : Nat)
deriving DecidableEq, Repr

/-- `bfx[.s] gd, ga, pos, width`, with the width minus 1 (R89). -/
structure BfxArgs where
  (d a pos wm1 : Nat)
  sgn : Bool
deriving DecidableEq, Repr

/-- `bfi gd, ga, pos, width`, with the width minus 1 (R89). -/
structure BfiArgs where
  (d a pos wm1 : Nat)
deriving DecidableEq, Repr

/-- `sel gd, [!]pk, ga, gb` (R91). -/
structure SelArgs where
  (d a b k : Nat)
  n : Bool
deriving DecidableEq, Repr

/-- `movi[.h] gd, imm` (R93). -/
structure MoviArgs where
  d : Nat
  imm : MoviImm
deriving DecidableEq, Repr

/-- `cmp.cond pd, ga, b` (R95). -/
structure CmpArgs where
  (p a : Nat)
  b : RegImm
  cond : IntCond
deriving DecidableEq, Repr

/-- `plog.f pd, pa, pb` (R96). -/
structure PlogArgs where
  (p a b : Nat)
  f : LogicFn
deriving DecidableEq, Repr

/-- `aadd[.z] ad, aa, b` (R98). -/
structure AaddArgs where
  (d a : Nat)
  b : RegImm
  z : Bool
deriving DecidableEq, Repr

/-- `alea[.z] ad, aa, gb, sh` (R98). -/
structure AleaArgs where
  (d a b sh : Nat)
  z : Bool
deriving DecidableEq, Repr

/-- `aget[.h] gd, aa` (R98). -/
structure AgetArgs where
  (d a : Nat)
  h : Bool
deriving DecidableEq, Repr

/-- `acmp.cond pd, aa, ab` (R98). -/
structure AcmpArgs where
  (p a b : Nat)
  cond : AddrCond
deriving DecidableEq, Repr

/-- `op[.rm] gd, ga, gb` (R100). -/
structure FpArgs where
  (d a b : Nat)
  rm : RMode
deriving DecidableEq, Repr

/-- `fma[.rm] gd, ga, gb`, reading gd (R100, R101). -/
structure FmaArgs where
  (d a b : Nat)
  rm : RMode
deriving DecidableEq, Repr

/-- `fmin|fmax gd, ga, gb` (R100). -/
structure FminArgs where
  (d a b : Nat)
deriving DecidableEq, Repr

/-- `fsqrt[.rm] gd, ga` (R100). -/
structure FsqrtArgs where
  (d a : Nat)
  rm : RMode
deriving DecidableEq, Repr

/-- `fcmp.cond pd, ga, gb` (R104). -/
structure FcmpArgs where
  (p a b : Nat)
  cond : FpCond
deriving DecidableEq, Repr

/-- `fcvt.to.from[.rm][.sat] gd, ga` (R107). -/
structure FcvtArgs where
  (d a : Nat)
  (dto frm : NumFmt)
  rm : RMode
  sat : Bool
deriving DecidableEq, Repr

/-- `fsgn.f gd, ga, gb` (R106). -/
structure FsgnArgs where
  (d a b : Nat)
  f : SignFn
deriving DecidableEq, Repr

/-- `fcls.fmt gd, ga`, format codes 0 to 4 (R105). -/
structure FclsArgs where
  (d a : Nat)
  fmt : NumFmt
deriving DecidableEq, Repr

/-- `pbr[.tk] bd, label`, the raw 24-bit line offset and the slot (R111, R72). -/
structure PbrArgs where
  (b loff slot : Nat)
  h : Bool
deriving DecidableEq, Repr

/-- `pbrg[.tk] bd, ga` (R112). -/
structure PbrgArgs where
  (b g : Nat)
  h : Bool
deriving DecidableEq, Repr

/-- `br bs` and `ret bs` (R113, R115). -/
structure BrArgs where
  b : Nat
deriving DecidableEq, Repr

/-- `call bd, bs` (R114). -/
structure CallArgs where
  (d b : Nat)
deriving DecidableEq, Repr

/-- `loop lcN, gc, be` (R118). -/
structure LoopArgs where
  (lc g b : Nat)
deriving DecidableEq, Repr

/-- `ldlt lcN, aj, v` (R121). -/
structure LdltArgs where
  (lc a : Nat)
  v : RegImm
deriving DecidableEq, Repr

/-- `ldlt.clr lcN` (R121). -/
structure LdltClrArgs where
  lc : Nat
deriving DecidableEq, Repr

/-- `lbrk lcN` (R122). -/
structure LbrkArgs where
  lc : Nat
deriving DecidableEq, Repr

/-- An instruction without operands in F3, such as `end` (R123). -/
structure NoArgs where
deriving DecidableEq, Repr

/-- `ld.sz[.z] gd, an[!], off` (R124). -/
structure LdArgs where
  (d a sz : Nat)
  (z m : Bool)
  off : Off
deriving DecidableEq, Repr

/-- `st.sz gs, an[!], off` (R124). -/
structure StArgs where
  (g a sz : Nat)
  m : Bool
  off : Off
deriving DecidableEq, Repr

/-- `lda ad, an[!], off` (R124). -/
structure LdaArgs where
  (d a : Nat)
  m : Bool
  off : Off
deriving DecidableEq, Repr

/-- `sta as, an[!], off` (R124). -/
structure StaArgs where
  (s a : Nat)
  m : Bool
  off : Off
deriving DecidableEq, Repr

/-- A full/empty instruction that writes gd (R281). -/
structure FeLdArgs where
  (d a : Nat)
  m : Bool
  off : Off
deriving DecidableEq, Repr

/-- A full/empty instruction that reads g (R281). -/
structure FeStArgs where
  (g a : Nat)
  m : Bool
  off : Off
deriving DecidableEq, Repr

/-- `barr[.sp] gt, an[!], off` (R282). -/
structure BarrArgs where
  (g a : Nat)
  (sp m : Bool)
  off : Nat
deriving DecidableEq, Repr

/-- `bwait[.par][.sp] gd, an[!], off` (R282). -/
structure BwaitArgs where
  (g a : Nat)
  (sp par m : Bool)
  off : Nat
deriving DecidableEq, Repr

/-- `notify an, gv` (R285). -/
structure NotifyArgs where
  (a g : Nat)
deriving DecidableEq, Repr

/-- `waitn[.nb] gd, n, gm` (R286). -/
structure WaitnArgs where
  (d n g : Nat)
  nb : Bool
deriving DecidableEq, Repr

/-- `qpop|qpeek gd|vd, qs` (R288). -/
structure QpopArgs where
  (d q : Nat)
  v : Bool
deriving DecidableEq, Repr

/-- `qpush qd, gs|vs` (R288). -/
structure QpushArgs where
  (q s : Nat)
  v : Bool
deriving DecidableEq, Repr

/-- `qstat gd, qs` (R288). -/
structure QstatArgs where
  (d q : Nat)
deriving DecidableEq, Repr

/-- `qclr qs` (R288). -/
structure QclrArgs where
  q : Nat
deriving DecidableEq, Repr

/-- `qst kn, qs` (R288). -/
structure QstArgs where
  (k q : Nat)
deriving DecidableEq, Repr

/-- `ldq.sz[.z][.s] qd, an[!], off` (R292). -/
structure LdqArgs where
  (q a sz : Nat)
  (z s m : Bool)
  off : Off
deriving DecidableEq, Repr

/-- `ldqs[.s] qd, an, stride[, mk]` (R292). -/
structure LdqsArgs where
  (q a km : Nat)
  s : Bool
  stride : Stride
deriving DecidableEq, Repr

/-- `ldqx[.z][.s] qd, an, vi, sh[, mk]` (R292). -/
structure LdqxArgs where
  (q a vi sh km : Nat)
  (z s : Bool)
deriving DecidableEq, Repr

/-- `stf.sz gs|vs, an[!], off` (R294). -/
structure StfArgs where
  (s a sz : Nat)
  m : Bool
  off : Off
deriving DecidableEq, Repr

/-- `stfs|vsts vs, an, stride[, mk]` (R294, R162). -/
structure StfsArgs where
  (v a km : Nat)
  stride : Stride
deriving DecidableEq, Repr

/-- `stfx|vstx[.z] vs, an, vi, sh[, mk]` (R294, R162). -/
structure StfxArgs where
  (v a vi sh km : Nat)
  z : Bool
deriving DecidableEq, Repr

/-- `pref[.l2] an, off` (R295). -/
structure PrefArgs where
  a : Nat
  l2 : Bool
  off : Nat
deriving DecidableEq, Repr

/-- `cwb|cinv gn, an, off` (R295). -/
structure CwbArgs where
  (g a : Nat)
  off : Nat
deriving DecidableEq, Repr

/-- `amo.op[.nr].ord.scope[.sp] [qd,] an, gs` (R296). -/
structure AmoArgs where
  (q a g : Nat)
  (nr sp : Bool)
  scope : Scope
  ord : MemOrder
  op : AmoOp
deriving DecidableEq, Repr

/-- `acas.ord.ford.scope[.sp] qd, an, ge` (R296). -/
structure AcasArgs where
  (q a g : Nat)
  sp : Bool
  scope : Scope
  (ord ford : MemOrder)
deriving DecidableEq, Repr

/-- `vamo.op[.nr].ord.scope[.sp] [qd,] an, vs` (R296). -/
structure VamoArgs where
  (q a v : Nat)
  (nr sp : Bool)
  scope : Scope
  ord : MemOrder
  op : VamoOp
deriving DecidableEq, Repr

/-- `fence.scope` (R301). -/
structure FenceArgs where
  scope : Scope
deriving DecidableEq, Repr

/-- `xfer an, gc` (R302). -/
structure XferArgs where
  (a g : Nat)
deriving DecidableEq, Repr

/-- `rclaim pd, an` (R303). -/
structure RclaimArgs where
  (p a : Nat)
deriving DecidableEq, Repr

/-- `rshare an` (R303). -/
structure RshareArgs where
  a : Nat
deriving DecidableEq, Repr

/-- `op.w[.zm] vd, va, b[, mk]` with Z = 0 (R136). -/
structure VIntArgs where
  (d a : Nat)
  b : VSrc
  km : Nat
  mz : Bool
  w : VWidth
deriving DecidableEq, Repr

/-- `vmad.w[.zm] vd, va, b[, mk]`, reading vd (R136). -/
structure VMadArgs where
  (d a : Nat)
  b : VSrc
  km : Nat
  mz : Bool
  w : VWidth
deriving DecidableEq, Repr

/-- `op.s|.z.w[.zm] vd, va, b[, mk]` (R136). -/
structure VIntZArgs where
  (d a : Nat)
  b : VSrc
  km : Nat
  mz : Bool
  w : VWidth
  z : Bool
deriving DecidableEq, Repr

/-- `vabs.w[.zm] vd, va[, mk]` (R136). -/
structure VabsArgs where
  (d a km : Nat)
  mz : Bool
  w : VWidth
deriving DecidableEq, Repr

/-- `vcmp.cond md, va, vb[, mk]` (R138). -/
structure VcmpArgs where
  (m a b km : Nat)
  mz : Bool
  cond : IntCond
deriving DecidableEq, Repr

/-- `vsel[.w] vd, va, b, ms` (R139). -/
structure VselArgs where
  (d a : Nat)
  b : VSrc
  ms : Nat
  w : VWidth
deriving DecidableEq, Repr

/-- `op.F[.zm] vd, va, b[, mk]` (R140). -/
structure VFBinArgs where
  (d a : Nat)
  b : VSrc
  km : Nat
  mz : Bool
  f : VFloat
deriving DecidableEq, Repr

/-- `vfma.F[.zm] vd, va, b[, mk]`, reading vd (R140). -/
structure VFmaArgs where
  (d a : Nat)
  b : VSrc
  km : Nat
  mz : Bool
  f : VFloat
deriving DecidableEq, Repr

/-- `op.F[.zm] vd, va[, mk]` (R140). -/
structure VFUnArgs where
  (d a km : Nat)
  mz : Bool
  f : VFloat
deriving DecidableEq, Repr

/-- `vfcmp.cond md, va, vb[, mk]` (R145). -/
structure VfcmpArgs where
  (m a b km : Nat)
  mz : Bool
  cond : FpCond
deriving DecidableEq, Repr

/-- `vfsgn.op.F[.zm] vd, va, vb[, mk]` (R146). -/
structure VfsgnArgs where
  (d a b km : Nat)
  mz : Bool
  f : VFloat
  op : SignFn
deriving DecidableEq, Repr

/-- `vcvt.to.from[.rm][.sat] vd, va, P` (R147). -/
structure VcvtArgs where
  (d a part : Nat)
  (dto frm : NumFmt)
  rm : RMode
  sat : Bool
deriving DecidableEq, Repr

/-- `vqenc.fmt vd, gd, va, k`, with g = 0 for l4x (R149). -/
structure VqencArgs where
  (d a g k : Nat)
  fmt : QFmt
deriving DecidableEq, Repr

/-- `vqdec.fmt vd, va, k, gs`, with g = 0 for l4x (R150). -/
structure VqdecArgs where
  (d a g k : Nat)
  fmt : QFmt
deriving DecidableEq, Repr

/-- `vscl.F[.zm] vd, va, b[, mk]`, an immediate scale of 8 bits (R151). -/
structure VsclArgs where
  (d a : Nat)
  b : VSrc
  km : Nat
  mz : Bool
  f : VFloat
deriving DecidableEq, Repr

/-- `vred.op.ty gd, va[, mk]` (R152). -/
structure VredArgs where
  (d a km : Nat)
  op : RedOp
  ty : RedTy
deriving DecidableEq, Repr

/-- `vscan.op.ty[.zm] vd, va[, mk]` (R153). -/
structure VscanArgs where
  (d a km : Nat)
  mz : Bool
  op : RedOp
  ty : RedTy
deriving DecidableEq, Repr

/-- `vsort.ty[.dn] vd, va, vb[, mk]`, vd even (R154). -/
structure VsortArgs where
  (d a b km : Nat)
  ty : RedTy
  dn : Bool
deriving DecidableEq, Repr

/-- `vperm.w[.zm] vd, va, vb[, mk]` (R155). -/
structure VpermArgs where
  (d a b km : Nat)
  mz : Bool
  w : VWidth
deriving DecidableEq, Repr

/-- `vshuf.w[.zm] vd, va, vb[, mk]`, reading vd (R155). -/
structure VshufArgs where
  (d a b km : Nat)
  mz : Bool
  w : VWidth
deriving DecidableEq, Repr

/-- `vbcst.w[.zm] vd, src[, mk]` (R156). -/
structure VbcstArgs where
  d : Nat
  src : BcstSrc
  km : Nat
  mz : Bool
  w : VWidth
deriving DecidableEq, Repr

/-- `vext.w[.z] gd, va, idx` (R156). -/
structure VextArgs where
  (d a : Nat)
  idx : VIdx
  w : VWidth
  z : Bool
deriving DecidableEq, Repr

/-- `vins.w vd, ga, idx` (R156). -/
structure VinsArgs where
  (d g : Nat)
  idx : VIdx
  w : VWidth
deriving DecidableEq, Repr

/-- `viota[.zm] vd[, mk]` (R157). -/
structure ViotaArgs where
  (d km : Nat)
  mz : Bool
deriving DecidableEq, Repr

/-- `vcmprs|vexpnd[.zm] vd, va, mk` (R157). -/
structure VcmprsArgs where
  (d a km : Nat)
  mz : Bool
deriving DecidableEq, Repr

/-- `vmovx[.zm] vd, va[, mk]`, the source in the other cluster (R158). -/
structure VmovxArgs where
  (d a km : Nat)
  mz : Bool
deriving DecidableEq, Repr

/-- `vrnd.i|.f[.zm] vd, va, key[, mk]` (R159). -/
structure VrndArgs where
  (d a : Nat)
  key : RegImm
  km : Nat
  (mz f : Bool)
deriving DecidableEq, Repr

/-- `vdot.ty[.zm] vd, va, vb[, mk]`, reading vd (R160). -/
structure VdotArgs where
  (d a b km : Nat)
  mz : Bool
  ty : DotTy
deriving DecidableEq, Repr

/-- `mlog.f md, ma, mb` (R161). -/
structure MlogArgs where
  (m a b : Nat)
  f : LogicFn
deriving DecidableEq, Repr

/-- `mpop gd, ma` (R161). -/
structure MpopArgs where
  (d m : Nat)
deriving DecidableEq, Repr

/-- `mff[.last] gd, ma` (R161). -/
structure MffArgs where
  (d m : Nat)
  last : Bool
deriving DecidableEq, Repr

/-- `vld vd, an[!], off` (R162). -/
structure VldArgs where
  (v a : Nat)
  m : Bool
  off : Off
deriving DecidableEq, Repr

/-- `vst vs, an[!], off` (R162). -/
structure VstArgs where
  (v a : Nat)
  m : Bool
  off : Off
deriving DecidableEq, Repr

/-- `vlds vd, an, stride[, mk]` (R162). -/
structure VldsArgs where
  (v a km : Nat)
  stride : Stride
deriving DecidableEq, Repr

/-- `vldx[.z] vd, an, vi, sh[, mk]` (R162). -/
structure VldxArgs where
  (v a vi sh km : Nat)
  z : Bool
deriving DecidableEq, Repr

/-- `post[.nb][.s] [gd,] [pe,] ab` (R212). -/
structure PostArgs where
  a : Nat
  hw : Option Nat
  nb : Option Nat
  s : Bool
deriving DecidableEq, Repr

/-- `postx qd, ab, gc` (R215). -/
structure PostxArgs where
  (q a g : Nat)
deriving DecidableEq, Repr

/-- `fdef n, ab` (R207). -/
structure FdefArgs where
  (n a : Nat)
deriving DecidableEq, Repr

/-- `frel n` (R209). -/
structure FrelArgs where
  n : Nat
deriving DecidableEq, Repr

/-- `rinit kn, ab` (R210). -/
structure RinitArgs where
  (k a : Nat)
deriving DecidableEq, Repr

/-- `cwait cn, t` (R218). -/
structure CwaitArgs where
  c : Nat
  t : RegImm
deriving DecidableEq, Repr

/-- `cwait.nb pd, cn, t` (R218). -/
structure CwaitNbArgs where
  (p c : Nat)
  t : RegImm
deriving DecidableEq, Repr

/-- `csig cn, i` and `cset cn, v` (R218). -/
structure CsigArgs where
  c : Nat
  v : RegImm
deriving DecidableEq, Repr

/-- `csig.r cn, i, gc` (R218). -/
structure CsigRArgs where
  c : Nat
  v : RegImm
  g : Nat
deriving DecidableEq, Repr

/-- `crd gd, cn` (R218). -/
structure CrdArgs where
  (d c : Nat)
deriving DecidableEq, Repr

/-- `tagw.any|.all gm` (R220). -/
structure TagwArgs where
  g : Nat
  all : Bool
deriving DecidableEq, Repr

/-- `tagw.any|.all.nb pd, gm` (R220). -/
structure TagwNbArgs where
  (p g : Nat)
  all : Bool
deriving DecidableEq, Repr

/-- `tagff gd, gm` (R220). -/
structure TagffArgs where
  (d g : Nat)
deriving DecidableEq, Repr

/-- `tagclr gm` (R220). -/
structure TagclrArgs where
  g : Nat
deriving DecidableEq, Repr

/-- `kmode cls, rm` (R223). -/
structure KmodeArgs where
  cls : EngClass
  rm : RoundMode
deriving DecidableEq, Repr

/-- `kqry.st gd, gh` (R217). -/
structure KqryStArgs where
  (d g : Nat)
deriving DecidableEq, Repr

/-- `kqry.occ gd` (R217). -/
structure KqryOccArgs where
  d : Nat
deriving DecidableEq, Repr

/-- `kqry.ver gd, n` (R217). -/
structure KqryVerArgs where
  (d n : Nat)
deriving DecidableEq, Repr

/-- `nest pd, ap, ar` (R221). -/
structure NestArgs where
  (p ap ar : Nat)
deriving DecidableEq, Repr

/-- `settag t` (R222). -/
structure SettagArgs where
  t : RegImm
deriving DecidableEq, Repr

/-- `csrr gd, csr` (R224). -/
structure CsrrArgs where
  (d csr : Nat)
deriving DecidableEq, Repr

/-- `csrw csr, v` (R224). -/
structure CsrwArgs where
  csr : Nat
  v : RegImm
deriving DecidableEq, Repr

/-- `csrx gd, csr, gs` (R224). -/
structure CsrxArgs where
  (d csr s : Nat)
deriving DecidableEq, Repr

/-- `yield.f pd` (R226). -/
structure YieldFArgs where
  p : Nat
deriving DecidableEq, Repr

/-- `xlate.r pd, ab` (R227). -/
structure XlateRArgs where
  (p a : Nat)
deriving DecidableEq, Repr

/-- `xlate.w pd, ab` (R227). -/
structure XlateWArgs where
  (p a : Nat)
deriving DecidableEq, Repr

/-- `xlate.p ad, ab` (R227). -/
structure XlatePArgs where
  (d a : Nat)
deriving DecidableEq, Repr

/-- `trap imm` and `abort imm` (R372, R375). -/
structure TrapArgs where
  code : Nat
deriving DecidableEq, Repr

/-- A form with FN4 = 1 and no operand: `rett.nx` (R373), `purge.l` (R382). -/
structure Form1Args where
deriving DecidableEq, Repr

/-- `rett.res gs` (R373). -/
structure RettResArgs where
  g : Nat
deriving DecidableEq, Repr

/-- `rett.ref gs` (R373). -/
structure RettRefArgs where
  g : Nat
deriving DecidableEq, Repr

/-- `chk gs` (R374). -/
structure ChkArgs where
  g : Nat
deriving DecidableEq, Repr

/-- `chk qs` (R374). -/
structure ChkQArgs where
  q : Nat
deriving DecidableEq, Repr

/-- `chk.nb pd, gs` (R374). -/
structure ChkNbArgs where
  (p g : Nat)
deriving DecidableEq, Repr

/-- `abort.req imm` (R375). -/
structure AbortReqArgs where
  code : Nat
deriving DecidableEq, Repr

/-- `fshare n`, n from 1 to 32 (R499). -/
structure FshareArgs where
  n : Nat
deriving DecidableEq, Repr

/-- `fwswap pd, ah` (R501). -/
structure FwswapArgs where
  (p a : Nat)
deriving DecidableEq, Repr

/-- `ptw ae, av` (R247). -/
structure PtwArgs where
  (ae av : Nat)
deriving DecidableEq, Repr

/-- `ptw.nb pd, ae, av` (R247). -/
structure PtwNbArgs where
  (p ae av : Nat)
deriving DecidableEq, Repr

/-- `tlbi.va vd, ab, gn` (R248). -/
structure TlbiVaArgs where
  (vd a g : Nat)
deriving DecidableEq, Repr

/-- `tlbi.vd vd` (R248). -/
structure TlbiVdArgs where
  vd : Nat
deriving DecidableEq, Repr

/-- A form with FN4 = 2 and no operand: `tlbi.all` (R248). -/
structure Form2Args where
deriving DecidableEq, Repr

/-- `purge gt` (R382). -/
structure PurgeArgs where
  g : Nat
deriving DecidableEq, Repr

/-- `purge.clr gt` (R382). -/
structure PurgeClrArgs where
  g : Nat
deriving DecidableEq, Repr

/-- `shrd ab` (R397). -/
structure ShrdArgs where
  a : Nat
deriving DecidableEq, Repr

/-- `frz.arm pd, gl, ab` (R424). -/
structure FrzArmArgs where
  (p g a : Nat)
deriving DecidableEq, Repr

/-- `frz.res pd, gl, ab` (R424). -/
structure FrzResArgs where
  (p g a : Nat)
deriving DecidableEq, Repr

/-- `frz.dirty pd, gl, ab` (R424). -/
structure FrzDirtyArgs where
  (p g a : Nat)
deriving DecidableEq, Repr

/-- `frz.y pd, gl` (R424). -/
structure FrzYArgs where
  (p g : Nat)
deriving DecidableEq, Repr

/-- `frz pd, gl` (R424). -/
structure FrzArgs where
  (p g : Nat)
deriving DecidableEq, Repr

/-- `frz.go pd, gl` (R424). -/
structure FrzGoArgs where
  (p g : Nat)
deriving DecidableEq, Repr

/-- `frz.dis gl` (R424). -/
structure FrzDisArgs where
  g : Nat
deriving DecidableEq, Repr

/-- `mma.fmt[.keep][.ta][.tb] td, ka, kb, K`, with K/32 − 1 (R332). -/
structure MmaArgs where
  (t ka kb k1 : Nat)
  (keep ta tb : Bool)
  fmt : MFmt
deriving DecidableEq, Repr

/-- `mblk.fmt[.keep].tb td, ka, kb, K`, with K/32 − 1 (R332). -/
structure MblkArgs where
  (t ka kb k1 : Nat)
  keep : Bool
  fmt : MFmt
deriving DecidableEq, Repr

/-- `scacc.fmt td, ts, nb, aa, ab`, with nb − 1 (R335). -/
structure ScaccArgs where
  (td ts nb1 aa ab : Nat)
  fmt : MFmt
deriving DecidableEq, Repr

/-- `azero td` (R337). -/
structure AzeroArgs where
  t : Nat
deriving DecidableEq, Repr

/-- `aload[.s] td, aa[, gs]` (R337). -/
structure AloadArgs where
  (t a : Nat)
  stride : Option Nat
deriving DecidableEq, Repr

/-- `astore.fmt[.i][.sat][.s] aa, ts[, gs]` (R339). -/
structure AstoreArgs where
  (t a : Nat)
  stride : Option Nat
  (sat i : Bool)
  fmt : StFmt
deriving DecidableEq, Repr

/-- `acopy td, ts` (R337). -/
structure AcopyArgs where
  (td ts : Nat)
deriving DecidableEq, Repr

/-- `rpop kn, n`, with n − 1 (R341). -/
structure RpopArgs where
  (k n1 : Nat)
deriving DecidableEq, Repr

/-- `xpose.w ad|kn, as, gd` (R343). -/
structure XposeArgs where
  dst : XDst
  (a g : Nat)
  w : XWidth
deriving DecidableEq, Repr

/-- `xreq.fmt ad|kn, as, gd` (R343). -/
structure XreqArgs where
  dst : XDst
  (a g : Nat)
  fmt : QFmt
deriving DecidableEq, Repr

/-- `xlay.from.to ad|kn, as, gd` (R345). -/
structure XlayArgs where
  dst : XDst
  (a g : Nat)
  (frm dto : Layout)
deriving DecidableEq, Repr

/-- `copy[.l] [ct,] ad` (R350). -/
structure CopyArgs where
  ct : Nat
  te : Bool
  a : Nat
  l : Bool
deriving DecidableEq, Repr

/-- `copyg|copys[.l] [ct,] ad, ai` (R350). -/
structure CopygArgs where
  ct : Nat
  te : Bool
  (a ai : Nat)
  l : Bool
deriving DecidableEq, Repr

/-- `cfill[.l] [ct,] ad, gv` and `cland[.inc] [ct,] as, gv` (R350). -/
structure CfillArgs where
  ct : Nat
  te : Bool
  (a g : Nat)
  l : Bool
deriving DecidableEq, Repr

/-- `cred.op[.l] [ct,] ad` (R350). -/
structure CredArgs where
  ct : Nat
  te : Bool
  a : Nat
  l : Bool
  op : CredOp
deriving DecidableEq, Repr

/-! ## What the outside of a core supplies to the hardware steps -/

/-- The units that a physical error can strike (R388 to R392), each with the physical core or die and a place in it.
`sram` is a bank of the pool, `l2` a bank of a cluster's slice, `hbm` a pseudo-channel. -/
inductive FaultSite where
  | poolWord (core addr : Nat)
  | l1Line (core line : Nat)
  | l2Line (core line : Nat)
  | lineStore (core line : Nat)
  | hbmWord (addr : Nat)
  | kilnEntry (core slot : Nat) (tagGood : Bool)
  | queueEntry (core unit queue : Nat) (tagGood : Bool)
  | wheelRecord (die launch : Nat) (tagGood : Bool)
  | frameDescriptor (core frame : Nat)
  | cone (core index : Nat)
  | ringPointer (pkg vdev ring : Nat)
  | lane (core partition lane : Nat)
deriving DecidableEq, Repr

/-- The units with live spares (R393): a lane of a vector partition, the row of the matrix engine, a pool bank. -/
inductive SpareUnit where
  | lane (partition : Nat)
  | row
  | bank
deriving DecidableEq, Repr

/-- The AtomicOps that a host can send (R254, R478). -/
inductive HostAtomic where
  | fetchAdd | swap | cas
deriving DecidableEq, Repr

/-- The device registers without a behaviour of their own (R476, R392, R456, R500): a BAR0 register of a virtual function,
a register of a die's block, or the command register of a package's mailbox. -/
inductive DevReg where
  | bar0 (pkg vdev offset : Nat)
  | dieReg (die offset : Nat)
  | mailbox (pkg : Nat)
deriving DecidableEq, Repr

/-- The controllers that the MC replaces alone (R508). -/
inductive Controller where
  | wheel | fabricManager | mc
deriving DecidableEq, Repr

/-! ## The instructions -/


/-- One constructor for each row of spec/opcode_table.json: the 228 instructions with their header and operands, then
the unassigned encodings, then the hardware steps of the table, each with what the outside of the core supplies. -/
inductive Instr where
  | nop (h : Hdr) (o : NoArgs)
  | add (h : Hdr) (o : BinArgs)
  | sub (h : Hdr) (o : BinArgs)
  | mul (h : Hdr) (o : BinArgs)
  | mulh (h : Hdr) (o : BinZArgs)
  | div (h : Hdr) (o : BinZArgs)
  | rem (h : Hdr) (o : BinZArgs)
  | and (h : Hdr) (o : BinArgs)
  | or (h : Hdr) (o : BinArgs)
  | xor (h : Hdr) (o : BinArgs)
  | andn (h : Hdr) (o : BinArgs)
  | shl (h : Hdr) (o : BinArgs)
  | shr (h : Hdr) (o : BinArgs)
  | sar (h : Hdr) (o : BinArgs)
  | rot (h : Hdr) (o : BinArgs)
  | min (h : Hdr) (o : BinZArgs)
  | max (h : Hdr) (o : BinZArgs)
  | adds (h : Hdr) (o : BinZArgs)
  | subs (h : Hdr) (o : BinZArgs)
  | abs (h : Hdr) (o : UnArgs)
  | clz (h : Hdr) (o : UnArgs)
  | ctz (h : Hdr) (o : UnArgs)
  | popc (h : Hdr) (o : UnArgs)
  | brev (h : Hdr) (o : UnArgs)
  | bfx (h : Hdr) (o : BfxArgs)
  | bfi (h : Hdr) (o : BfiArgs)
  | sel (h : Hdr) (o : SelArgs)
  | mov (h : Hdr) (o : MovArgs)
  | movi (h : Hdr) (o : MoviArgs)
  | movx (h : Hdr) (o : MovxArgs)
  | cmp (h : Hdr) (o : CmpArgs)
  | plog (h : Hdr) (o : PlogArgs)
  | pmov (h : Hdr) (o : PmovArgs)
  | aadd (h : Hdr) (o : AaddArgs)
  | alea (h : Hdr) (o : AleaArgs)
  | amov (h : Hdr) (o : AmovArgs)
  | aget (h : Hdr) (o : AgetArgs)
  | acmp (h : Hdr) (o : AcmpArgs)
  | fadd (h : Hdr) (o : FpArgs)
  | fsub (h : Hdr) (o : FpArgs)
  | fmul (h : Hdr) (o : FpArgs)
  | fma (h : Hdr) (o : FmaArgs)
  | fmin (h : Hdr) (o : FminArgs)
  | fmax (h : Hdr) (o : FminArgs)
  | fdiv (h : Hdr) (o : FpArgs)
  | fsqrt (h : Hdr) (o : FsqrtArgs)
  | fcmp (h : Hdr) (o : FcmpArgs)
  | fcvt (h : Hdr) (o : FcvtArgs)
  | fsgn (h : Hdr) (o : FsgnArgs)
  | fcls (h : Hdr) (o : FclsArgs)
  | pbr (h : Hdr) (o : PbrArgs)
  | pbrg (h : Hdr) (o : PbrgArgs)
  | br (h : Hdr) (o : BrArgs)
  | call (h : Hdr) (o : CallArgs)
  | ret (h : Hdr) (o : BrArgs)
  | loop (h : Hdr) (o : LoopArgs)
  | ldlt (h : Hdr) (o : LdltArgs)
  | ldltClr (h : Hdr) (o : LdltClrArgs)
  | lbrk (h : Hdr) (o : LbrkArgs)
  | endOp (h : Hdr) (o : NoArgs)
  | ld (h : Hdr) (o : LdArgs)
  | st (h : Hdr) (o : StArgs)
  | lda (h : Hdr) (o : LdaArgs)
  | sta (h : Hdr) (o : StaArgs)
  | ldfe (h : Hdr) (o : FeLdArgs)
  | ldff (h : Hdr) (o : FeLdArgs)
  | stef (h : Hdr) (o : FeStArgs)
  | stff (h : Hdr) (o : FeStArgs)
  | fest (h : Hdr) (o : FeLdArgs)
  | feclr (h : Hdr) (o : FeStArgs)
  | barr (h : Hdr) (o : BarrArgs)
  | bwait (h : Hdr) (o : BwaitArgs)
  | notify (h : Hdr) (o : NotifyArgs)
  | waitn (h : Hdr) (o : WaitnArgs)
  | qpop (h : Hdr) (o : QpopArgs)
  | qpeek (h : Hdr) (o : QpopArgs)
  | qpush (h : Hdr) (o : QpushArgs)
  | qstat (h : Hdr) (o : QstatArgs)
  | qclr (h : Hdr) (o : QclrArgs)
  | qst (h : Hdr) (o : QstArgs)
  | ldq (h : Hdr) (o : LdqArgs)
  | ldqs (h : Hdr) (o : LdqsArgs)
  | ldqx (h : Hdr) (o : LdqxArgs)
  | stf (h : Hdr) (o : StfArgs)
  | stfs (h : Hdr) (o : StfsArgs)
  | stfx (h : Hdr) (o : StfxArgs)
  | pref (h : Hdr) (o : PrefArgs)
  | cwb (h : Hdr) (o : CwbArgs)
  | cinv (h : Hdr) (o : CwbArgs)
  | amo (h : Hdr) (o : AmoArgs)
  | acas (h : Hdr) (o : AcasArgs)
  | vamo (h : Hdr) (o : VamoArgs)
  | fence (h : Hdr) (o : FenceArgs)
  | xfer (h : Hdr) (o : XferArgs)
  | rclaim (h : Hdr) (o : RclaimArgs)
  | rshare (h : Hdr) (o : RshareArgs)
  | vadd (h : Hdr) (o : VIntArgs)
  | vsub (h : Hdr) (o : VIntArgs)
  | vmul (h : Hdr) (o : VIntArgs)
  | vmulh (h : Hdr) (o : VIntZArgs)
  | vmad (h : Hdr) (o : VMadArgs)
  | vmin (h : Hdr) (o : VIntZArgs)
  | vmax (h : Hdr) (o : VIntZArgs)
  | vabs (h : Hdr) (o : VabsArgs)
  | vand (h : Hdr) (o : VIntArgs)
  | vor (h : Hdr) (o : VIntArgs)
  | vxor (h : Hdr) (o : VIntArgs)
  | vshl (h : Hdr) (o : VIntArgs)
  | vshr (h : Hdr) (o : VIntArgs)
  | vsar (h : Hdr) (o : VIntArgs)
  | vadds (h : Hdr) (o : VIntZArgs)
  | vsubs (h : Hdr) (o : VIntZArgs)
  | vcmp (h : Hdr) (o : VcmpArgs)
  | vsel (h : Hdr) (o : VselArgs)
  | vfadd (h : Hdr) (o : VFBinArgs)
  | vfsub (h : Hdr) (o : VFBinArgs)
  | vfmul (h : Hdr) (o : VFBinArgs)
  | vfma (h : Hdr) (o : VFmaArgs)
  | vfmin (h : Hdr) (o : VFBinArgs)
  | vfmax (h : Hdr) (o : VFBinArgs)
  | vfdiv (h : Hdr) (o : VFBinArgs)
  | vfsqrt (h : Hdr) (o : VFUnArgs)
  | vfexp2 (h : Hdr) (o : VFUnArgs)
  | vflog2 (h : Hdr) (o : VFUnArgs)
  | vfcmp (h : Hdr) (o : VfcmpArgs)
  | vfsgn (h : Hdr) (o : VfsgnArgs)
  | vcvt (h : Hdr) (o : VcvtArgs)
  | vqenc (h : Hdr) (o : VqencArgs)
  | vqdec (h : Hdr) (o : VqdecArgs)
  | vscl (h : Hdr) (o : VsclArgs)
  | vred (h : Hdr) (o : VredArgs)
  | vscan (h : Hdr) (o : VscanArgs)
  | vperm (h : Hdr) (o : VpermArgs)
  | vshuf (h : Hdr) (o : VshufArgs)
  | vbcst (h : Hdr) (o : VbcstArgs)
  | vext (h : Hdr) (o : VextArgs)
  | vins (h : Hdr) (o : VinsArgs)
  | viota (h : Hdr) (o : ViotaArgs)
  | vcmprs (h : Hdr) (o : VcmprsArgs)
  | vexpnd (h : Hdr) (o : VcmprsArgs)
  | vsort (h : Hdr) (o : VsortArgs)
  | vrnd (h : Hdr) (o : VrndArgs)
  | vdot (h : Hdr) (o : VdotArgs)
  | mlog (h : Hdr) (o : MlogArgs)
  | mpop (h : Hdr) (o : MpopArgs)
  | mff (h : Hdr) (o : MffArgs)
  | mmov (h : Hdr) (o : MmovArgs)
  | vld (h : Hdr) (o : VldArgs)
  | vlds (h : Hdr) (o : VldsArgs)
  | vldx (h : Hdr) (o : VldxArgs)
  | vst (h : Hdr) (o : VstArgs)
  | vsts (h : Hdr) (o : StfsArgs)
  | vstx (h : Hdr) (o : StfxArgs)
  | vmovx (h : Hdr) (o : VmovxArgs)
  | post (h : Hdr) (o : PostArgs)
  | postx (h : Hdr) (o : PostxArgs)
  | fdef (h : Hdr) (o : FdefArgs)
  | frel (h : Hdr) (o : FrelArgs)
  | rinit (h : Hdr) (o : RinitArgs)
  | cwait (h : Hdr) (o : CwaitArgs)
  | cwaitNb (h : Hdr) (o : CwaitNbArgs)
  | csig (h : Hdr) (o : CsigArgs)
  | csigR (h : Hdr) (o : CsigRArgs)
  | cset (h : Hdr) (o : CsigArgs)
  | crd (h : Hdr) (o : CrdArgs)
  | tagw (h : Hdr) (o : TagwArgs)
  | tagwNb (h : Hdr) (o : TagwNbArgs)
  | tagff (h : Hdr) (o : TagffArgs)
  | tagclr (h : Hdr) (o : TagclrArgs)
  | kmode (h : Hdr) (o : KmodeArgs)
  | kqrySt (h : Hdr) (o : KqryStArgs)
  | kqryOcc (h : Hdr) (o : KqryOccArgs)
  | kqryVer (h : Hdr) (o : KqryVerArgs)
  | nest (h : Hdr) (o : NestArgs)
  | settag (h : Hdr) (o : SettagArgs)
  | csrr (h : Hdr) (o : CsrrArgs)
  | csrw (h : Hdr) (o : CsrwArgs)
  | csrx (h : Hdr) (o : CsrxArgs)
  | yield (h : Hdr) (o : NoArgs)
  | yieldF (h : Hdr) (o : YieldFArgs)
  | trap (h : Hdr) (o : TrapArgs)
  | rett (h : Hdr) (o : NoArgs)
  | rettNx (h : Hdr) (o : Form1Args)
  | rettRes (h : Hdr) (o : RettResArgs)
  | rettRef (h : Hdr) (o : RettRefArgs)
  | chk (h : Hdr) (o : ChkArgs)
  | chkQ (h : Hdr) (o : ChkQArgs)
  | chkNb (h : Hdr) (o : ChkNbArgs)
  | abort (h : Hdr) (o : TrapArgs)
  | abortReq (h : Hdr) (o : AbortReqArgs)
  | xlateR (h : Hdr) (o : XlateRArgs)
  | xlateW (h : Hdr) (o : XlateWArgs)
  | xlateP (h : Hdr) (o : XlatePArgs)
  | fshare (h : Hdr) (o : FshareArgs)
  | fwswap (h : Hdr) (o : FwswapArgs)
  | ptw (h : Hdr) (o : PtwArgs)
  | ptwNb (h : Hdr) (o : PtwNbArgs)
  | tlbiVa (h : Hdr) (o : TlbiVaArgs)
  | tlbiVd (h : Hdr) (o : TlbiVdArgs)
  | tlbiAll (h : Hdr) (o : Form2Args)
  | purge (h : Hdr) (o : PurgeArgs)
  | purgeL (h : Hdr) (o : Form1Args)
  | purgeClr (h : Hdr) (o : PurgeClrArgs)
  | shrd (h : Hdr) (o : ShrdArgs)
  | frzArm (h : Hdr) (o : FrzArmArgs)
  | frzY (h : Hdr) (o : FrzYArgs)
  | frz (h : Hdr) (o : FrzArgs)
  | frzRes (h : Hdr) (o : FrzResArgs)
  | frzDirty (h : Hdr) (o : FrzDirtyArgs)
  | frzGo (h : Hdr) (o : FrzGoArgs)
  | frzDis (h : Hdr) (o : FrzDisArgs)
  | mma (h : Hdr) (o : MmaArgs)
  | mblk (h : Hdr) (o : MblkArgs)
  | scacc (h : Hdr) (o : ScaccArgs)
  | azero (h : Hdr) (o : AzeroArgs)
  | aload (h : Hdr) (o : AloadArgs)
  | astore (h : Hdr) (o : AstoreArgs)
  | acopy (h : Hdr) (o : AcopyArgs)
  | rpop (h : Hdr) (o : RpopArgs)
  | xpose (h : Hdr) (o : XposeArgs)
  | xreq (h : Hdr) (o : XreqArgs)
  | xlay (h : Hdr) (o : XlayArgs)
  | copy (h : Hdr) (o : CopyArgs)
  | copyg (h : Hdr) (o : CopygArgs)
  | copys (h : Hdr) (o : CopygArgs)
  | cfill (h : Hdr) (o : CfillArgs)
  | cred (h : Hdr) (o : CredArgs)
  | cland (h : Hdr) (o : CfillArgs)
  | unassignedOpcode (word : Nat)
  | endComplete
  | fwhbHeartbeat (value : Nat)
  | resultLanding
  | waitComplete
  | queueDataArrival (req : Nat)
  | taskRelease (core : Nat)
  | taskRetire (core slot : Nat)
  | kilnDeadlock (core : Nat)
  | iterationStart (core : Nat)
  | wheelPlace (die launch : Nat)
  | wheelSteal (die launch : Nat)
  | nestRecordStart (launch : Nat)
  | launchComplete (launch : Nat)
  | accumulatorWrite
  | passSlotPop
  | slotPublish (core ring : Nat)
  | copyChunkIssue (core copy : Nat)
  | copyComplete (core copy : Nat)
  | lineEviction (core line : Nat) (l2 : Bool)
  | eccCorrected (site : FaultSite)
  | eccUncorrectable (site : FaultSite)
  | bucketLeak (die : Nat)
  | spareSubstitution (core : Nat) (unit : SpareUnit) (index spare : Nat)
  | coreUngate (core : Nat)
  | fwShareWindow (core : Nat)
  | forcedSave (core : Nat)
  | corePark (core : Nat)
  | coreSwap (core : Nat)
  | freezeReceive (die launch : Nat)
  | farStore (msg : Nat)
  | atomicRequest (msg : Nat)
  | atomicReply (msg : Nat)
  | loadData (msg : Nat)
  | loadRequest (msg : Nat)
  | postxRecord (msg : Nat)
  | postxReply (msg : Nat)
  | remoteConeSignal (msg : Nat)
  | notifyMessage (msg : Nat)
  | copyChunk (msg : Nat) (crcOk : Bool)
  | landingUpdate (msg : Nat)
  | barrierRequest (msg : Nat)
  | barrierReply (msg : Nat)
  | acknowledgement (msg : Nat)
  | cutMarker (msg : Nat)
  | purgeMessage (msg : Nat)
  | launchPacketMessage (msg : Nat)
  | startArrival (msg : Nat)
  | startRelease (msg : Nat)
  | parityUpdate (msg : Nat)
  | sequenceSkip (msg : Nat)
  | requestTimeout (req : Nat)
  | linkDown (die dim : Nat)
  | dieLinkFailure (die dim : Nat)
  | launchArrivalTimeout (launch : Nat)
  | spareInstallation (lost pser : Nat)
  | stripeRebuild (group stripe member spare : Nat)
  | reserve (pkg vdev ring addend : Nat)
  | bar2AtomicRefused (pkg vdev offset : Nat)
  | hostNotifyWrite (pkg vdev offset size value : Nat)
  | hostMemoryAccess (pkg vdev offset size : Nat) (write : Option (List (BitVec 8)))
  | hostAtomicop (pkg vdev offset : Nat) (op : HostAtomic) (size operand compare : Nat)
  | registerWrite (reg : DevReg) (value : Nat)
  | cqctlWrite (pkg vdev value : Nat)
  | cqheadWrite (pkg vdev value : Nat)
  | rstopWrite (die vdev value : Nat)
  | nopPacket (pkg vdev ring : Nat)
  | linkPacket (pkg vdev ring : Nat)
  | launchPacket (pkg vdev ring : Nat)
  | launchStart (pkg vdev ring : Nat)
  | barePacket (pkg vdev ring : Nat)
  | invokePacket (pkg vdev ring : Nat)
  | slotldPacket (pkg vdev ring : Nat)
  | slotrmPacket (pkg vdev ring : Nat)
  | purgePacket (pkg vdev ring : Nat)
  | killPacket (pkg vdev ring : Nat)
  | ringSlotTimeout (pkg vdev ring : Nat)
  | completionRecordWrite (pkg vdev : Nat)
  | fwWatchdogExpiry (core : Nat)
  | fwCommit (die : Nat)
  | fwRevert (die : Nat)
  | commitDeadlineExpiry (pkg : Nat)
  | controllerReplacement (ctl : Controller) (die ident : Nat) (alive : Bool)
  | packageReset (pkg failStep failReason : Nat)
  | attest (pkg : Nat) (request : List (BitVec 8))
  | bootreport (pkg : Nat)
  | leaves (pkg : Nat)
  | railSample (die milliamps : Nat)
  | thermalLimit (die celsius : Nat)
  | powerCeilingUpdate (die ceiling : Nat)
  | flitArrival (msg : Nat) (lcrcOk : Bool)
  | coreGate (core : Nat)
  | powerLoss (pkg : Nat)
deriving DecidableEq, Repr

end Sys2Proof
end

