-- ==== Sys2Proof/WellFormed.lean ====
section
/-! DEFINITION. Well-formed syntax: the bounds that the encoding rules of the spec set on each operand record (R68 to
R71, R75 and the entries of 04, 05, 08, 09, 11, 14, 16, 18 and 23), as far as they do not depend on the executing
stream. What depends on the stream (engine class, N, T, clusters, slots, CSR map) is `legal` of
`Sys2Proof.Machine.Operands`. -/

namespace Sys2Proof

/-- Bits of an integer element (R128). -/
def VWidth.bits : VWidth → Nat
  | .w32 => 32
  | .w16 => 16
  | .w8 => 8

/-- Bits of an FP element (R128). -/
def VFloat.bits : VFloat → Nat
  | .f32 => 32
  | .bf16 => 16
  | .f16 => 16

/-- Bits of a number format (R107). -/
def NumFmt.bits : NumFmt → Nat
  | .f32 | .i32 | .u32 => 32
  | .bf16 | .f16 | .i16 | .u16 => 16
  | .e4m3 | .e5m2 | .e8 | .i8 | .u8 => 8
  | .i4 | .u4 => 4

/-- The float formats of codes 0 to 4 (R105, R107). -/
def NumFmt.isFloat : NumFmt → Bool
  | .f32 | .bf16 | .f16 | .e4m3 | .e5m2 => true
  | _ => false

/-- Legal TO and FROM pairs (R107, R147): E8 only as a source of FP32. -/
def cvtPair (dto frm : NumFmt) : Bool := dto != .e8 && (frm != .e8 || dto == .f32)

/-- The largest K of a pass (R311). -/
def MFmt.maxK : MFmt → Nat
  | .bf16 | .f16 => 256
  | .i4 | .l4x => 1024
  | _ => 512

/-- The formats that MBLK and SCACC take (R331). -/
def MFmt.blockScaled : MFmt → Bool
  | .bf16 | .f16 | .i4 => false
  | _ => true

/-- The block-scaled output formats of ASTORE (R339). -/
def StFmt.blockScaled : StFmt → Bool
  | .e4m3s | .e5m2s | .i8s | .l4x => true
  | _ => false

/-- AREG of format FM with M (R124, R163): a16 to a31 are not updated. -/
def areg (a : Nat) (m : Bool) : Bool := a < 32 && !(m && 16 ≤ a)

/-- The legal headers (R25, R66, R75). -/
def Hdr.ok (h : Hdr) : Bool := h.prot < 3 && h.slot < 2 && h.gneg < 2 && h.gp < 8 && !(h.gneg == 1 && h.gp == 0)

/-- The header of a NOP (R67): only S may be 1. -/
def Hdr.nopOk (h : Hdr) : Bool := h.prot == 0 && h.slot < 2 && h.gneg == 0 && h.gp == 0

def Src2.ok : Src2 → Bool
  | .reg n => n < 64
  | .imm v => v < 0x10000
  | .ext v => v < 0x100000000

/-- A register of a kind with `regs` numbers, or an immediate below `lim` (R202). -/
def RegImm.ok (regs lim : Nat) : RegImm → Bool
  | .reg n => n < regs
  | .imm v => v < lim

def Off.ok : Off → Bool
  | .field16 v => v < 0x10000
  | .ext v => v < 0x100000000

def Stride.ok : Stride → Bool
  | .field13 v => v < 0x2000
  | .ext v => v < 0x100000000

def VSrc.ok (bits : Nat) : VSrc → Bool
  | .vec n => n < 256
  | .gs n => n < 64
  | .imm v => v < 2 ^ bits

def BcstSrc.ok (bits : Nat) : BcstSrc → Bool
  | .elem a i => a < 256 && i < 256 && i * bits < 1024
  | .gs n => n < 64
  | .imm v => v < 2 ^ bits

def VIdx.ok (bits : Nat) : VIdx → Bool
  | .imm n => n < 256 && n * bits < 1024
  | .gs n => n < 64

def MoviImm.ok : MoviImm → Bool
  | .low v => v < 0x10000
  | .high v => v < 0x10000
  | .ext v => v < 0x100000000

def MovArgs.ok : MovArgs → Bool
  | .fromG d a => d < 64 && a < 64
  | .fromB d b => d < 64 && b < 8

def PmovArgs.ok : PmovArgs → Bool
  | .pp p a => p < 8 && a < 8
  | .gAll d => d < 64
  | .allG a => a < 64
  | .pg p a => p < 8 && a < 64

def AmovArgs.ok : AmovArgs → Bool
  | .fromA d a => d < 16 && a < 32
  | .fromG d a => d < 16 && a < 64
  | .fromGG d a b => d < 16 && a < 64 && b < 64
  | .imm d v => d < 16 && v < 0x1000000000000

def MmovArgs.ok : MmovArgs → Bool
  | .mm m a => m < 8 && a < 8
  | .mg m a => m < 8 && a < 64
  | .gm d a => d < 64 && a < 8
  | .imm m v => m < 8 && v < 0x100000000

def XDst.ok : XDst → Bool
  | .addr n => n < 8
  | .ring n => n < 8

def BinArgs.ok (o : BinArgs) : Bool := o.d < 64 && o.a < 64 && o.b.ok

def BinZArgs.ok (o : BinZArgs) : Bool := o.d < 64 && o.a < 64 && o.b.ok

def UnArgs.ok (o : UnArgs) : Bool := o.d < 64 && o.a < 64

def MovxArgs.ok (o : MovxArgs) : Bool := o.d < 64 && o.a < 64

def BfxArgs.ok (o : BfxArgs) : Bool := o.d < 64 && o.a < 64 && o.pos < 32 && o.wm1 < 32

def BfiArgs.ok (o : BfiArgs) : Bool := o.d < 64 && o.a < 64 && o.pos < 32 && o.wm1 < 32

def SelArgs.ok (o : SelArgs) : Bool := o.d < 64 && o.a < 64 && o.b < 64 && o.k < 8

def MoviArgs.ok (o : MoviArgs) : Bool := o.d < 64 && o.imm.ok

def CmpArgs.ok (o : CmpArgs) : Bool := o.p < 8 && o.a < 64 && o.b.ok 64 0x100000000

def PlogArgs.ok (o : PlogArgs) : Bool := o.p < 8 && o.a < 8 && o.b < 8

def AaddArgs.ok (o : AaddArgs) : Bool := o.d < 16 && o.a < 32 && o.b.ok 64 0x100000000

def AleaArgs.ok (o : AleaArgs) : Bool := o.d < 16 && o.a < 32 && o.b < 64 && o.sh < 8

def AgetArgs.ok (o : AgetArgs) : Bool := o.d < 64 && o.a < 32

def AcmpArgs.ok (o : AcmpArgs) : Bool := o.p < 8 && o.a < 32 && o.b < 32

def FpArgs.ok (o : FpArgs) : Bool := o.d < 64 && o.a < 64 && o.b < 64

def FmaArgs.ok (o : FmaArgs) : Bool := o.d < 64 && o.a < 64 && o.b < 64

def FminArgs.ok (o : FminArgs) : Bool := o.d < 64 && o.a < 64 && o.b < 64

def FsqrtArgs.ok (o : FsqrtArgs) : Bool := o.d < 64 && o.a < 64

def FcmpArgs.ok (o : FcmpArgs) : Bool := o.p < 8 && o.a < 64 && o.b < 64

def FcvtArgs.ok (o : FcvtArgs) : Bool := o.d < 64 && o.a < 64 && cvtPair o.dto o.frm

def FsgnArgs.ok (o : FsgnArgs) : Bool := o.d < 64 && o.a < 64 && o.b < 64

def FclsArgs.ok (o : FclsArgs) : Bool := o.d < 64 && o.a < 64 && o.fmt.isFloat

def PbrArgs.ok (o : PbrArgs) : Bool := o.b < 8 && o.loff < 0x1000000 && o.slot < 10

def PbrgArgs.ok (o : PbrgArgs) : Bool := o.b < 8 && o.g < 64

def BrArgs.ok (o : BrArgs) : Bool := o.b < 8

def CallArgs.ok (o : CallArgs) : Bool := o.d < 8 && o.b < 8

def LoopArgs.ok (o : LoopArgs) : Bool := o.lc < 3 && o.g < 64 && o.b < 8

def LdltArgs.ok (o : LdltArgs) : Bool := o.lc < 3 && o.a < 16 && o.v.ok 64 0x100000000

def LdltClrArgs.ok (o : LdltClrArgs) : Bool := o.lc < 3

def LbrkArgs.ok (o : LbrkArgs) : Bool := o.lc < 3

def NoArgs.ok (_o : NoArgs) : Bool := true

def LdArgs.ok (o : LdArgs) : Bool := o.d < 64 && areg o.a o.m && o.sz < 3 && (o.sz < 2 || !o.z) && o.off.ok

def StArgs.ok (o : StArgs) : Bool := o.g < 64 && areg o.a o.m && o.sz < 3 && o.off.ok

def LdaArgs.ok (o : LdaArgs) : Bool := o.d < 16 && areg o.a o.m && o.off.ok

def StaArgs.ok (o : StaArgs) : Bool := o.s < 32 && areg o.a o.m && o.off.ok

def FeLdArgs.ok (o : FeLdArgs) : Bool := o.d < 64 && areg o.a o.m && o.off.ok

def FeStArgs.ok (o : FeStArgs) : Bool := o.g < 64 && areg o.a o.m && o.off.ok

def BarrArgs.ok (o : BarrArgs) : Bool := o.g < 64 && areg o.a o.m && !(o.sp && o.m) && o.off < 0x10000

def BwaitArgs.ok (o : BwaitArgs) : Bool := o.g < 64 && areg o.a o.m && !(o.sp && o.m) && o.off < 0x10000

def NotifyArgs.ok (o : NotifyArgs) : Bool := o.a < 32 && o.g < 64

def WaitnArgs.ok (o : WaitnArgs) : Bool := o.d < 64 && o.n < 16 && o.g < 64

def QpopArgs.ok (o : QpopArgs) : Bool := (if o.v then o.d < 256 else o.d < 64) && o.q < 8

def QpushArgs.ok (o : QpushArgs) : Bool := (if o.v then o.s < 256 else o.s < 64) && o.q < 8

def QstatArgs.ok (o : QstatArgs) : Bool := o.d < 64 && o.q < 8

def QclrArgs.ok (o : QclrArgs) : Bool := o.q < 8

def QstArgs.ok (o : QstArgs) : Bool := o.k < 8 && o.q < 8

def LdqArgs.ok (o : LdqArgs) : Bool := o.q < 8 && areg o.a o.m && o.sz < 4 && (o.sz < 3 || !o.z) && o.off.ok

def LdqsArgs.ok (o : LdqsArgs) : Bool := o.q < 8 && o.a < 32 && o.km < 8 && o.stride.ok

def LdqxArgs.ok (o : LdqxArgs) : Bool := o.q < 8 && o.a < 32 && o.vi < 256 && o.sh < 4 && o.km < 8

def StfArgs.ok (o : StfArgs) : Bool := (if o.sz = 3 then o.s < 256 else o.s < 64) && areg o.a o.m && o.sz < 4 && o.off.ok

def StfsArgs.ok (o : StfsArgs) : Bool := o.v < 256 && o.a < 32 && o.km < 8 && o.stride.ok

def StfxArgs.ok (o : StfxArgs) : Bool := o.v < 256 && o.a < 32 && o.vi < 256 && o.sh < 4 && o.km < 8

def PrefArgs.ok (o : PrefArgs) : Bool := o.a < 32 && o.off < 0x10000

def CwbArgs.ok (o : CwbArgs) : Bool := o.g < 64 && o.a < 32 && o.off < 0x10000

def AmoArgs.ok (o : AmoArgs) : Bool := o.q < 8 && !(o.nr && o.q != 0) && o.a < 32 && o.g < 64

def AcasArgs.ok (o : AcasArgs) : Bool := o.q < 8 && o.a < 32 && o.g < 64 && o.g % 2 == 0 && (o.ford == .rlx || o.ford == .acq) && !(o.ford == .acq && (o.ord == .rlx || o.ord == .rel))

def VamoArgs.ok (o : VamoArgs) : Bool := o.q < 8 && !(o.nr && o.q != 0) && o.a < 32 && o.v < 256

def FenceArgs.ok (_o : FenceArgs) : Bool := true

def XferArgs.ok (o : XferArgs) : Bool := o.a < 32 && o.g < 64

def RclaimArgs.ok (o : RclaimArgs) : Bool := o.p < 8 && o.a < 32

def RshareArgs.ok (o : RshareArgs) : Bool := o.a < 32

def VIntArgs.ok (o : VIntArgs) : Bool := o.d < 256 && o.a < 256 && o.km < 8 && o.b.ok o.w.bits

def VMadArgs.ok (o : VMadArgs) : Bool := o.d < 256 && o.a < 256 && o.km < 8 && o.b.ok o.w.bits

def VIntZArgs.ok (o : VIntZArgs) : Bool := o.d < 256 && o.a < 256 && o.km < 8 && o.b.ok o.w.bits

def VabsArgs.ok (o : VabsArgs) : Bool := o.d < 256 && o.a < 256 && o.km < 8

def VcmpArgs.ok (o : VcmpArgs) : Bool := o.m < 8 && o.a < 256 && o.b < 256 && o.km < 8

def VselArgs.ok (o : VselArgs) : Bool := o.d < 256 && o.a < 256 && o.ms < 8 && o.b.ok o.w.bits

def VFBinArgs.ok (o : VFBinArgs) : Bool := o.d < 256 && o.a < 256 && o.km < 8 && o.b.ok o.f.bits

def VFmaArgs.ok (o : VFmaArgs) : Bool := o.d < 256 && o.a < 256 && o.km < 8 && o.b.ok o.f.bits

def VFUnArgs.ok (o : VFUnArgs) : Bool := o.d < 256 && o.a < 256 && o.km < 8

def VfcmpArgs.ok (o : VfcmpArgs) : Bool := o.m < 8 && o.a < 256 && o.b < 256 && o.km < 8

def VfsgnArgs.ok (o : VfsgnArgs) : Bool := o.d < 256 && o.a < 256 && o.b < 256 && o.km < 8

def VcvtArgs.ok (o : VcvtArgs) : Bool := o.d < 256 && o.a < 256 && cvtPair o.dto o.frm && o.part * min o.dto.bits o.frm.bits < 32

def VqencArgs.ok (o : VqencArgs) : Bool := o.d < 256 && o.a < 256 && o.g < 64 && o.k < 4 && (o.fmt != .l4x || o.g == 0)

def VqdecArgs.ok (o : VqdecArgs) : Bool := o.d < 256 && o.a < 256 && o.g < 64 && o.k < 4 && (o.fmt != .l4x || o.g == 0)

def VsclArgs.ok (o : VsclArgs) : Bool := o.d < 256 && o.a < 256 && o.km < 8 && o.b.ok 8

def VredArgs.ok (o : VredArgs) : Bool := o.d < 64 && o.a < 256 && o.km < 8

def VscanArgs.ok (o : VscanArgs) : Bool := o.d < 256 && o.a < 256 && o.km < 8

def VsortArgs.ok (o : VsortArgs) : Bool := o.d < 256 && o.d % 2 == 0 && o.a < 256 && o.b < 256 && o.km < 8

def VpermArgs.ok (o : VpermArgs) : Bool := o.d < 256 && o.a < 256 && o.b < 256 && o.km < 8

def VshufArgs.ok (o : VshufArgs) : Bool := o.d < 256 && o.a < 256 && o.b < 256 && o.km < 8

def VbcstArgs.ok (o : VbcstArgs) : Bool := o.d < 256 && o.km < 8 && o.src.ok o.w.bits

def VextArgs.ok (o : VextArgs) : Bool := o.d < 64 && o.a < 256 && o.idx.ok o.w.bits && !(o.w == .w32 && o.z)

def VinsArgs.ok (o : VinsArgs) : Bool := o.d < 256 && o.g < 64 && o.idx.ok o.w.bits

def ViotaArgs.ok (o : ViotaArgs) : Bool := o.d < 256 && o.km < 8

def VcmprsArgs.ok (o : VcmprsArgs) : Bool := o.d < 256 && o.a < 256 && o.km < 8

def VmovxArgs.ok (o : VmovxArgs) : Bool := o.d < 256 && o.a < 256 && o.km < 8

def VrndArgs.ok (o : VrndArgs) : Bool := o.d < 256 && o.a < 256 && o.km < 8 && o.key.ok 64 0x100000000

def VdotArgs.ok (o : VdotArgs) : Bool := o.d < 256 && o.a < 256 && o.b < 256 && o.km < 8

def MlogArgs.ok (o : MlogArgs) : Bool := o.m < 8 && o.a < 8 && o.b < 8

def MpopArgs.ok (o : MpopArgs) : Bool := o.d < 64 && o.m < 8

def MffArgs.ok (o : MffArgs) : Bool := o.d < 64 && o.m < 8

def VldArgs.ok (o : VldArgs) : Bool := o.v < 256 && areg o.a o.m && o.off.ok

def VstArgs.ok (o : VstArgs) : Bool := o.v < 256 && areg o.a o.m && o.off.ok

def VldsArgs.ok (o : VldsArgs) : Bool := o.v < 256 && o.a < 32 && o.km < 8 && o.stride.ok

def VldxArgs.ok (o : VldxArgs) : Bool := o.v < 256 && o.a < 32 && o.vi < 256 && o.sh < 4 && o.km < 8

def PostArgs.ok (o : PostArgs) : Bool := o.a < 32 && o.hw.all (· < 64) && o.nb.all (· < 8) && !(o.s && o.hw.isNone)

def PostxArgs.ok (o : PostxArgs) : Bool := o.q < 8 && o.a < 32 && o.g < 64

def FdefArgs.ok (o : FdefArgs) : Bool := o.n < 64 && o.a < 32

def FrelArgs.ok (o : FrelArgs) : Bool := o.n < 64

def RinitArgs.ok (o : RinitArgs) : Bool := o.k < 8 && o.a < 32

def CwaitArgs.ok (o : CwaitArgs) : Bool := o.c < 256 && o.t.ok 64 0x10000

def CwaitNbArgs.ok (o : CwaitNbArgs) : Bool := o.p < 8 && o.c < 256 && o.t.ok 64 0x10000

def CsigArgs.ok (o : CsigArgs) : Bool := o.c < 256 && o.v.ok 64 0x10000

def CsigRArgs.ok (o : CsigRArgs) : Bool := o.c < 256 && o.v.ok 64 0x10000 && o.g < 64

def CrdArgs.ok (o : CrdArgs) : Bool := o.d < 64 && o.c < 256

def TagwArgs.ok (o : TagwArgs) : Bool := o.g < 64 && o.g % 2 == 0

def TagwNbArgs.ok (o : TagwNbArgs) : Bool := o.p < 8 && o.g < 64 && o.g % 2 == 0

def TagffArgs.ok (o : TagffArgs) : Bool := o.d < 64 && o.g < 64 && o.g % 2 == 0

def TagclrArgs.ok (o : TagclrArgs) : Bool := o.g < 64 && o.g % 2 == 0

def KmodeArgs.ok (_o : KmodeArgs) : Bool := true

def KqryStArgs.ok (o : KqryStArgs) : Bool := o.d < 64 && o.g < 64

def KqryOccArgs.ok (o : KqryOccArgs) : Bool := o.d < 64

def KqryVerArgs.ok (o : KqryVerArgs) : Bool := o.d < 64 && o.n < 64

def NestArgs.ok (o : NestArgs) : Bool := o.p < 8 && o.ap < 32 && o.ar < 32

def SettagArgs.ok (o : SettagArgs) : Bool := o.t.ok 64 0x10000

def CsrrArgs.ok (o : CsrrArgs) : Bool := o.d < 64 && o.csr < 0x1000

def CsrwArgs.ok (o : CsrwArgs) : Bool := o.csr < 0x1000 && o.v.ok 64 0x100000000

def CsrxArgs.ok (o : CsrxArgs) : Bool := o.d < 64 && o.csr < 0x1000 && o.s < 64

def YieldFArgs.ok (o : YieldFArgs) : Bool := o.p < 8

def XlateRArgs.ok (o : XlateRArgs) : Bool := o.p < 8 && o.a < 32

def XlateWArgs.ok (o : XlateWArgs) : Bool := o.p < 8 && o.a < 32

def XlatePArgs.ok (o : XlatePArgs) : Bool := o.d < 16 && o.a < 32

def TrapArgs.ok (o : TrapArgs) : Bool := o.code < 0x1000

def Form1Args.ok (_o : Form1Args) : Bool := true

def RettResArgs.ok (o : RettResArgs) : Bool := o.g < 64

def RettRefArgs.ok (o : RettRefArgs) : Bool := o.g < 64

def ChkArgs.ok (o : ChkArgs) : Bool := o.g < 64

def ChkQArgs.ok (o : ChkQArgs) : Bool := o.q < 8

def ChkNbArgs.ok (o : ChkNbArgs) : Bool := o.p < 8 && o.g < 64

def AbortReqArgs.ok (o : AbortReqArgs) : Bool := o.code < 0x1000

def FshareArgs.ok (o : FshareArgs) : Bool := 1 ≤ o.n && o.n ≤ 32

def FwswapArgs.ok (o : FwswapArgs) : Bool := o.p < 8 && o.a < 32

def PtwArgs.ok (o : PtwArgs) : Bool := o.ae < 32 && o.av < 32

def PtwNbArgs.ok (o : PtwNbArgs) : Bool := o.p < 8 && o.ae < 32 && o.av < 32

def TlbiVaArgs.ok (o : TlbiVaArgs) : Bool := o.vd < 16 && o.a < 32 && o.g < 64

def TlbiVdArgs.ok (o : TlbiVdArgs) : Bool := o.vd < 16

def Form2Args.ok (_o : Form2Args) : Bool := true

def PurgeArgs.ok (o : PurgeArgs) : Bool := o.g < 64

def PurgeClrArgs.ok (o : PurgeClrArgs) : Bool := o.g < 64

def ShrdArgs.ok (o : ShrdArgs) : Bool := o.a < 32

def FrzArmArgs.ok (o : FrzArmArgs) : Bool := o.p < 8 && o.g < 64 && o.a < 32

def FrzResArgs.ok (o : FrzResArgs) : Bool := o.p < 8 && o.g < 64 && o.a < 32

def FrzDirtyArgs.ok (o : FrzDirtyArgs) : Bool := o.p < 8 && o.g < 64 && o.a < 32

def FrzYArgs.ok (o : FrzYArgs) : Bool := o.p < 8 && o.g < 64

def FrzArgs.ok (o : FrzArgs) : Bool := o.p < 8 && o.g < 64

def FrzGoArgs.ok (o : FrzGoArgs) : Bool := o.p < 8 && o.g < 64

def FrzDisArgs.ok (o : FrzDisArgs) : Bool := o.g < 64

def MmaArgs.ok (o : MmaArgs) : Bool := o.t < 32 && o.ka < 8 && o.kb < 8 && o.k1 < 32 && o.fmt.maxK > 32 * o.k1 && o.fmt != .l4x

def MblkArgs.ok (o : MblkArgs) : Bool := o.t < 32 && o.ka < 8 && o.kb < 8 && o.k1 < 32 && o.fmt.maxK > 32 * o.k1 && o.fmt.blockScaled

def ScaccArgs.ok (o : ScaccArgs) : Bool := o.td < 32 && o.ts < 32 && o.nb1 < 32 && o.aa < 8 && o.ab < 8 && o.fmt.blockScaled && !(o.ts ≤ o.td && o.td ≤ o.ts + o.nb1)

def AzeroArgs.ok (o : AzeroArgs) : Bool := o.t < 32

def AloadArgs.ok (o : AloadArgs) : Bool := o.t < 32 && o.a < 8 && o.stride.all (· < 16)

def AstoreArgs.ok (o : AstoreArgs) : Bool := o.t < 32 && o.a < 8 && o.stride.all (· < 16) && !(o.fmt.blockScaled && (o.i || o.sat))

def AcopyArgs.ok (o : AcopyArgs) : Bool := o.td < 32 && o.ts < 32

def RpopArgs.ok (o : RpopArgs) : Bool := o.k < 8 && o.n1 < 256

def XposeArgs.ok (o : XposeArgs) : Bool := o.dst.ok && o.a < 8 && o.g < 16

def XreqArgs.ok (o : XreqArgs) : Bool := o.dst.ok && o.a < 8 && o.g < 16

def XlayArgs.ok (o : XlayArgs) : Bool := o.dst.ok && o.a < 8 && o.g < 16

def CopyArgs.ok (o : CopyArgs) : Bool := o.ct < 64 && o.a < 8

def CopygArgs.ok (o : CopygArgs) : Bool := o.ct < 64 && o.a < 8 && o.ai < 8

def CfillArgs.ok (o : CfillArgs) : Bool := o.ct < 64 && o.a < 8 && o.g < 16

def CredArgs.ok (o : CredArgs) : Bool := o.ct < 64 && o.a < 8

/-- The well-formed instructions: a legal header and legal operands. An unassigned encoding and a hardware step are no
encoded instruction, and have no operand to check. -/
def Instr.wf : Instr → Bool
  | .nop h o => h.nopOk && o.ok
  | .add h o => h.ok && o.ok
  | .sub h o => h.ok && o.ok
  | .mul h o => h.ok && o.ok
  | .mulh h o => h.ok && o.ok
  | .div h o => h.ok && o.ok
  | .rem h o => h.ok && o.ok
  | .and h o => h.ok && o.ok
  | .or h o => h.ok && o.ok
  | .xor h o => h.ok && o.ok
  | .andn h o => h.ok && o.ok
  | .shl h o => h.ok && o.ok
  | .shr h o => h.ok && o.ok
  | .sar h o => h.ok && o.ok
  | .rot h o => h.ok && o.ok
  | .min h o => h.ok && o.ok
  | .max h o => h.ok && o.ok
  | .adds h o => h.ok && o.ok
  | .subs h o => h.ok && o.ok
  | .abs h o => h.ok && o.ok
  | .clz h o => h.ok && o.ok
  | .ctz h o => h.ok && o.ok
  | .popc h o => h.ok && o.ok
  | .brev h o => h.ok && o.ok
  | .bfx h o => h.ok && o.ok
  | .bfi h o => h.ok && o.ok
  | .sel h o => h.ok && o.ok
  | .mov h o => h.ok && o.ok
  | .movi h o => h.ok && o.ok
  | .movx h o => h.ok && o.ok
  | .cmp h o => h.ok && o.ok
  | .plog h o => h.ok && o.ok
  | .pmov h o => h.ok && o.ok
  | .aadd h o => h.ok && o.ok
  | .alea h o => h.ok && o.ok
  | .amov h o => h.ok && o.ok
  | .aget h o => h.ok && o.ok
  | .acmp h o => h.ok && o.ok
  | .fadd h o => h.ok && o.ok
  | .fsub h o => h.ok && o.ok
  | .fmul h o => h.ok && o.ok
  | .fma h o => h.ok && o.ok
  | .fmin h o => h.ok && o.ok
  | .fmax h o => h.ok && o.ok
  | .fdiv h o => h.ok && o.ok
  | .fsqrt h o => h.ok && o.ok
  | .fcmp h o => h.ok && o.ok
  | .fcvt h o => h.ok && o.ok
  | .fsgn h o => h.ok && o.ok
  | .fcls h o => h.ok && o.ok
  | .pbr h o => h.ok && o.ok
  | .pbrg h o => h.ok && o.ok
  | .br h o => h.ok && o.ok
  | .call h o => h.ok && o.ok
  | .ret h o => h.ok && o.ok
  | .loop h o => h.ok && o.ok
  | .ldlt h o => h.ok && o.ok
  | .ldltClr h o => h.ok && o.ok
  | .lbrk h o => h.ok && o.ok
  | .endOp h o => h.ok && o.ok
  | .ld h o => h.ok && o.ok
  | .st h o => h.ok && o.ok
  | .lda h o => h.ok && o.ok
  | .sta h o => h.ok && o.ok
  | .ldfe h o => h.ok && o.ok
  | .ldff h o => h.ok && o.ok
  | .stef h o => h.ok && o.ok
  | .stff h o => h.ok && o.ok
  | .fest h o => h.ok && o.ok
  | .feclr h o => h.ok && o.ok
  | .barr h o => h.ok && o.ok
  | .bwait h o => h.ok && o.ok
  | .notify h o => h.ok && o.ok
  | .waitn h o => h.ok && o.ok
  | .qpop h o => h.ok && o.ok
  | .qpeek h o => h.ok && o.ok
  | .qpush h o => h.ok && o.ok
  | .qstat h o => h.ok && o.ok
  | .qclr h o => h.ok && o.ok
  | .qst h o => h.ok && o.ok
  | .ldq h o => h.ok && o.ok
  | .ldqs h o => h.ok && o.ok
  | .ldqx h o => h.ok && o.ok
  | .stf h o => h.ok && o.ok
  | .stfs h o => h.ok && o.ok
  | .stfx h o => h.ok && o.ok
  | .pref h o => h.ok && o.ok
  | .cwb h o => h.ok && o.ok
  | .cinv h o => h.ok && o.ok
  | .amo h o => h.ok && o.ok
  | .acas h o => h.ok && o.ok
  | .vamo h o => h.ok && o.ok
  | .fence h o => h.ok && o.ok
  | .xfer h o => h.ok && o.ok
  | .rclaim h o => h.ok && o.ok
  | .rshare h o => h.ok && o.ok
  | .vadd h o => h.ok && o.ok
  | .vsub h o => h.ok && o.ok
  | .vmul h o => h.ok && o.ok
  | .vmulh h o => h.ok && o.ok
  | .vmad h o => h.ok && o.ok
  | .vmin h o => h.ok && o.ok
  | .vmax h o => h.ok && o.ok
  | .vabs h o => h.ok && o.ok
  | .vand h o => h.ok && o.ok
  | .vor h o => h.ok && o.ok
  | .vxor h o => h.ok && o.ok
  | .vshl h o => h.ok && o.ok
  | .vshr h o => h.ok && o.ok
  | .vsar h o => h.ok && o.ok
  | .vadds h o => h.ok && o.ok
  | .vsubs h o => h.ok && o.ok
  | .vcmp h o => h.ok && o.ok
  | .vsel h o => h.ok && o.ok
  | .vfadd h o => h.ok && o.ok
  | .vfsub h o => h.ok && o.ok
  | .vfmul h o => h.ok && o.ok
  | .vfma h o => h.ok && o.ok
  | .vfmin h o => h.ok && o.ok
  | .vfmax h o => h.ok && o.ok
  | .vfdiv h o => h.ok && o.ok
  | .vfsqrt h o => h.ok && o.ok
  | .vfexp2 h o => h.ok && o.ok
  | .vflog2 h o => h.ok && o.ok
  | .vfcmp h o => h.ok && o.ok
  | .vfsgn h o => h.ok && o.ok
  | .vcvt h o => h.ok && o.ok
  | .vqenc h o => h.ok && o.ok
  | .vqdec h o => h.ok && o.ok
  | .vscl h o => h.ok && o.ok
  | .vred h o => h.ok && o.ok
  | .vscan h o => h.ok && o.ok
  | .vperm h o => h.ok && o.ok
  | .vshuf h o => h.ok && o.ok
  | .vbcst h o => h.ok && o.ok
  | .vext h o => h.ok && o.ok
  | .vins h o => h.ok && o.ok
  | .viota h o => h.ok && o.ok
  | .vcmprs h o => h.ok && o.ok
  | .vexpnd h o => h.ok && o.ok
  | .vsort h o => h.ok && o.ok
  | .vrnd h o => h.ok && o.ok
  | .vdot h o => h.ok && o.ok
  | .mlog h o => h.ok && o.ok
  | .mpop h o => h.ok && o.ok
  | .mff h o => h.ok && o.ok
  | .mmov h o => h.ok && o.ok
  | .vld h o => h.ok && o.ok
  | .vlds h o => h.ok && o.ok
  | .vldx h o => h.ok && o.ok
  | .vst h o => h.ok && o.ok
  | .vsts h o => h.ok && o.ok
  | .vstx h o => h.ok && o.ok
  | .vmovx h o => h.ok && o.ok
  | .post h o => h.ok && o.ok
  | .postx h o => h.ok && o.ok
  | .fdef h o => h.ok && o.ok
  | .frel h o => h.ok && o.ok
  | .rinit h o => h.ok && o.ok
  | .cwait h o => h.ok && o.ok
  | .cwaitNb h o => h.ok && o.ok
  | .csig h o => h.ok && o.ok
  | .csigR h o => h.ok && o.ok
  | .cset h o => h.ok && o.ok
  | .crd h o => h.ok && o.ok
  | .tagw h o => h.ok && o.ok
  | .tagwNb h o => h.ok && o.ok
  | .tagff h o => h.ok && o.ok
  | .tagclr h o => h.ok && o.ok
  | .kmode h o => h.ok && o.ok
  | .kqrySt h o => h.ok && o.ok
  | .kqryOcc h o => h.ok && o.ok
  | .kqryVer h o => h.ok && o.ok
  | .nest h o => h.ok && o.ok
  | .settag h o => h.ok && o.ok
  | .csrr h o => h.ok && o.ok
  | .csrw h o => h.ok && o.ok
  | .csrx h o => h.ok && o.ok
  | .yield h o => h.ok && o.ok
  | .yieldF h o => h.ok && o.ok
  | .trap h o => h.ok && o.ok
  | .rett h o => h.ok && o.ok
  | .rettNx h o => h.ok && o.ok
  | .rettRes h o => h.ok && o.ok
  | .rettRef h o => h.ok && o.ok
  | .chk h o => h.ok && o.ok
  | .chkQ h o => h.ok && o.ok
  | .chkNb h o => h.ok && o.ok
  | .abort h o => h.ok && o.ok
  | .abortReq h o => h.ok && o.ok
  | .xlateR h o => h.ok && o.ok
  | .xlateW h o => h.ok && o.ok
  | .xlateP h o => h.ok && o.ok
  | .fshare h o => h.ok && o.ok
  | .fwswap h o => h.ok && o.ok
  | .ptw h o => h.ok && o.ok
  | .ptwNb h o => h.ok && o.ok
  | .tlbiVa h o => h.ok && o.ok
  | .tlbiVd h o => h.ok && o.ok
  | .tlbiAll h o => h.ok && o.ok
  | .purge h o => h.ok && o.ok
  | .purgeL h o => h.ok && o.ok
  | .purgeClr h o => h.ok && o.ok
  | .shrd h o => h.ok && o.ok
  | .frzArm h o => h.ok && o.ok
  | .frzY h o => h.ok && o.ok
  | .frz h o => h.ok && o.ok
  | .frzRes h o => h.ok && o.ok
  | .frzDirty h o => h.ok && o.ok
  | .frzGo h o => h.ok && o.ok
  | .frzDis h o => h.ok && o.ok
  | .mma h o => h.ok && o.ok
  | .mblk h o => h.ok && o.ok
  | .scacc h o => h.ok && o.ok
  | .azero h o => h.ok && o.ok
  | .aload h o => h.ok && o.ok
  | .astore h o => h.ok && o.ok
  | .acopy h o => h.ok && o.ok
  | .rpop h o => h.ok && o.ok
  | .xpose h o => h.ok && o.ok
  | .xreq h o => h.ok && o.ok
  | .xlay h o => h.ok && o.ok
  | .copy h o => h.ok && o.ok
  | .copyg h o => h.ok && o.ok
  | .copys h o => h.ok && o.ok
  | .cfill h o => h.ok && o.ok
  | .cred h o => h.ok && o.ok
  | .cland h o => h.ok && o.ok
  | .unassignedOpcode _ => true
  | .endComplete => true
  | .fwhbHeartbeat _ => true
  | .resultLanding => true
  | .waitComplete => true
  | .queueDataArrival _ => true
  | .taskRelease _ => true
  | .taskRetire _ _ => true
  | .kilnDeadlock _ => true
  | .iterationStart _ => true
  | .wheelPlace _ _ => true
  | .wheelSteal _ _ => true
  | .nestRecordStart _ => true
  | .launchComplete _ => true
  | .accumulatorWrite => true
  | .passSlotPop => true
  | .slotPublish _ _ => true
  | .copyChunkIssue _ _ => true
  | .copyComplete _ _ => true
  | .lineEviction _ _ _ => true
  | .eccCorrected _ => true
  | .eccUncorrectable _ => true
  | .bucketLeak _ => true
  | .spareSubstitution _ _ _ _ => true
  | .coreUngate _ => true
  | .fwShareWindow _ => true
  | .forcedSave _ => true
  | .corePark _ => true
  | .coreSwap _ => true
  | .freezeReceive _ _ => true
  | .farStore _ => true
  | .atomicRequest _ => true
  | .atomicReply _ => true
  | .loadData _ => true
  | .loadRequest _ => true
  | .postxRecord _ => true
  | .postxReply _ => true
  | .remoteConeSignal _ => true
  | .notifyMessage _ => true
  | .copyChunk _ _ => true
  | .landingUpdate _ => true
  | .barrierRequest _ => true
  | .barrierReply _ => true
  | .acknowledgement _ => true
  | .cutMarker _ => true
  | .purgeMessage _ => true
  | .launchPacketMessage _ => true
  | .startArrival _ => true
  | .startRelease _ => true
  | .parityUpdate _ => true
  | .sequenceSkip _ => true
  | .requestTimeout _ => true
  | .linkDown _ _ => true
  | .dieLinkFailure _ _ => true
  | .launchArrivalTimeout _ => true
  | .spareInstallation _ _ => true
  | .stripeRebuild _ _ _ _ => true
  | .reserve _ _ _ _ => true
  | .bar2AtomicRefused _ _ _ => true
  | .hostNotifyWrite _ _ _ _ _ => true
  | .hostMemoryAccess _ _ _ _ _ => true
  | .hostAtomicop _ _ _ _ _ _ _ => true
  | .registerWrite _ _ => true
  | .cqctlWrite _ _ _ => true
  | .cqheadWrite _ _ _ => true
  | .rstopWrite _ _ _ => true
  | .nopPacket _ _ _ => true
  | .linkPacket _ _ _ => true
  | .launchPacket _ _ _ => true
  | .launchStart _ _ _ => true
  | .barePacket _ _ _ => true
  | .invokePacket _ _ _ => true
  | .slotldPacket _ _ _ => true
  | .slotrmPacket _ _ _ => true
  | .purgePacket _ _ _ => true
  | .killPacket _ _ _ => true
  | .ringSlotTimeout _ _ _ => true
  | .completionRecordWrite _ _ => true
  | .fwWatchdogExpiry _ => true
  | .fwCommit _ => true
  | .fwRevert _ => true
  | .commitDeadlineExpiry _ => true
  | .controllerReplacement _ _ _ _ => true
  | .packageReset _ _ _ => true
  | .attest _ _ => true
  | .bootreport _ => true
  | .leaves _ => true
  | .railSample _ _ => true
  | .thermalLimit _ _ => true
  | .powerCeilingUpdate _ _ => true
  | .flitArrival _ _ => true
  | .coreGate _ => true
  | .powerLoss _ => true

end Sys2Proof
end

