-- ==== Sys2Proof/Decode.lean ====
section
/-! DEFINITION. Decoding and encoding of syllables (spec 03 R63 to R75): the layouts of the operand formats, for every
operand record its words and the decoder that reads them back, the opcode map, the decoder of any bytes, and the encoder.
A decoder accepts a record only if the record is legal (`ok`) and its own words are the words read: every reserved bit,
unused field, qualifier or unused payload bit that is set makes the two differ, and the syllable is rejected (R75). -/

namespace Sys2Proof

/-- Why a syllable is rejected (R75), each a case of ILLEGAL_OP. `unassigned`: the opcode. `header`: PROT = 11, or GN = 1
with GP = 0. `code`: a reserved function, type or format code. `operand`: a register number or value out of range.
`reserved`: a reserved or unused bit, or an extension that the entry does not define. `truncated`: the bytes end within
the instruction. -/
inductive DecodeErr where
  | unassigned | header | code | operand | reserved | truncated
deriving DecidableEq, Repr

/-! ## Operand formats (R69) -/

/-- F3: DST, SA, SB, FN. -/
def f3 (d a b fn : Nat) : Nat := d * 0x1000000 + a * 0x10000 + b * 0x100 + fn

/-- F2I: I = 1, QD, DST, SA, IMM16. -/
def f2i (qd d a imm : Nat) : Nat := 0x80000000 + qd * 0x40000000 + d * 0x1000000 + a * 0x10000 + imm

/-- FM: DATA, AREG, M, SZ, OFF. -/
def fm (data a m sz off : Nat) : Nat := data * 0x1000000 + a * 0x80000 + m * 0x40000 + sz * 0x10000 + off

/-- FB: BREG, H, LOFF, SLOT. -/
def fb (b h loff slot : Nat) : Nat := b * 0x20000000 + h * 0x10000000 + loff * 16 + slot

/-- FK: K1, K2, FN4, IMM12. -/
def fk (k1 k2 fn imm : Nat) : Nat := k1 * 0x1000000 + k2 * 0x10000 + fn * 0x1000 + imm

/-- FE: E1, E2, E3, FMT, MOD. -/
def fe (e1 e2 e3 fmt md : Nat) : Nat := e1 * 0x1000000 + e2 * 0x10000 + e3 * 0x100 + fmt * 16 + md

def fDst (w : Nat) : Nat := w / 0x1000000 % 256
def fSa (w : Nat) : Nat := w / 0x10000 % 256
def fSb (w : Nat) : Nat := w / 0x100 % 256
def fFn (w : Nat) : Nat := w % 256
/-- F2I: the I bit, the QD bit and the 6-bit register numbers. -/
def fI (w : Nat) : Bool := w / 0x80000000 % 2 == 1
def fQd (w : Nat) : Bool := w / 0x40000000 % 2 == 1
def regNum (w : Nat) : Nat := if fI w then w / 0x1000000 % 64 else fDst w
def srcNum (w : Nat) : Nat := if fI w then w / 0x10000 % 256 else fSa w
/-- Bit `i` of a word. -/
def bit (w i : Nat) : Bool := w / 2 ^ i % 2 == 1
/-- FM: AREG and SZ. -/
def memA (w : Nat) : Nat := w / 0x80000 % 32
def memSz (w : Nat) : Nat := w / 0x10000 % 4

/-! ## Codes -/

/-- Integer comparison conditions, codes 0 to 9 (R95). -/
def IntCond.code : IntCond → Nat
  | .eq => 0
  | .ne => 1
  | .ltS => 2
  | .geS => 3
  | .gtS => 4
  | .leS => 5
  | .ltZ => 6
  | .geZ => 7
  | .gtZ => 8
  | .leZ => 9

def IntCond.ofCode : Nat → Option IntCond
  | 0 => some .eq
  | 1 => some .ne
  | 2 => some .ltS
  | 3 => some .geS
  | 4 => some .gtS
  | 5 => some .leS
  | 6 => some .ltZ
  | 7 => some .geZ
  | 8 => some .gtZ
  | 9 => some .leZ
  | _ => none

/-- FP comparison conditions, codes 0 to 7 (R104). -/
def FpCond.code : FpCond → Nat
  | .eq => 0
  | .ne => 1
  | .lt => 2
  | .le => 3
  | .gt => 4
  | .ge => 5
  | .un => 6
  | .ord => 7

def FpCond.ofCode : Nat → Option FpCond
  | 0 => some .eq
  | 1 => some .ne
  | 2 => some .lt
  | 3 => some .le
  | 4 => some .gt
  | 5 => some .ge
  | 6 => some .un
  | 7 => some .ord
  | _ => none

/-- Logic functions of PLOG and MLOG, codes 0 to 7 (R96). -/
def LogicFn.code : LogicFn → Nat
  | .and => 0
  | .or => 1
  | .xor => 2
  | .andn => 3
  | .nand => 4
  | .nor => 5
  | .xnor => 6
  | .orn => 7

def LogicFn.ofCode : Nat → Option LogicFn
  | 0 => some .and
  | 1 => some .or
  | 2 => some .xor
  | 3 => some .andn
  | 4 => some .nand
  | 5 => some .nor
  | 6 => some .xnor
  | 7 => some .orn
  | _ => none

/-- Unsigned conditions of ACMP, codes 0 to 3 (R98). -/
def AddrCond.code : AddrCond → Nat
  | .eq => 0
  | .ne => 1
  | .lt => 2
  | .ge => 3

def AddrCond.ofCode : Nat → Option AddrCond
  | 0 => some .eq
  | 1 => some .ne
  | 2 => some .lt
  | 3 => some .ge
  | _ => none

/-- Sign functions of FSGN and VFSGN (R106). -/
def SignFn.code : SignFn → Nat
  | .cpy => 0
  | .neg => 1
  | .xor => 2

def SignFn.ofCode : Nat → Option SignFn
  | 0 => some .cpy
  | 1 => some .neg
  | 2 => some .xor
  | _ => none

/-- Integer element widths of the vector block (R128). -/
def VWidth.code : VWidth → Nat
  | .w32 => 0
  | .w16 => 1
  | .w8 => 2

def VWidth.ofCode : Nat → Option VWidth
  | 0 => some .w32
  | 1 => some .w16
  | 2 => some .w8
  | _ => none

/-- FP element formats of the vector block (R128). -/
def VFloat.code : VFloat → Nat
  | .f32 => 0
  | .bf16 => 1
  | .f16 => 2

def VFloat.ofCode : Nat → Option VFloat
  | 0 => some .f32
  | 1 => some .bf16
  | 2 => some .f16
  | _ => none

/-- Reduction operations (R152). -/
def RedOp.code : RedOp → Nat
  | .add => 0
  | .min => 1
  | .max => 2

def RedOp.ofCode : Nat → Option RedOp
  | 0 => some .add
  | 1 => some .min
  | 2 => some .max
  | _ => none

/-- Reduction element types (R152). -/
def RedTy.code : RedTy → Nat
  | .i32 => 0
  | .u32 => 1
  | .f32 => 2

def RedTy.ofCode : Nat → Option RedTy
  | 0 => some .i32
  | 1 => some .u32
  | 2 => some .f32
  | _ => none

/-- Element types of VDOT (R160). -/
def DotTy.code : DotTy → Nat
  | .bf16 => 0
  | .f16 => 1
  | .e4m3 => 2
  | .e5m2 => 3
  | .i8 => 4
  | .u8 => 5
  | .i16 => 6
  | .u16 => 7

def DotTy.ofCode : Nat → Option DotTy
  | 0 => some .bf16
  | 1 => some .f16
  | 2 => some .e4m3
  | 3 => some .e5m2
  | 4 => some .i8
  | 5 => some .u8
  | 6 => some .i16
  | 7 => some .u16
  | _ => none

/-- Block formats of VQENC, VQDEC (R149) and XREQ (R346). -/
def QFmt.code : QFmt → Nat
  | .e4m3 => 0
  | .e5m2 => 1
  | .i8 => 2
  | .l4x => 3

def QFmt.ofCode : Nat → Option QFmt
  | 0 => some .e4m3
  | 1 => some .e5m2
  | 2 => some .i8
  | 3 => some .l4x
  | _ => none

/-- Scopes of atomics and fences (R296). -/
def Scope.code : Scope → Nat
  | .part => 0
  | .core => 1
  | .clus => 2
  | .die => 3
  | .pkg => 4
  | .dom => 5

def Scope.ofCode : Nat → Option Scope
  | 0 => some .part
  | 1 => some .core
  | 2 => some .clus
  | 3 => some .die
  | 4 => some .pkg
  | 5 => some .dom
  | _ => none

/-- Orders of atomics (R296). -/
def MemOrder.code : MemOrder → Nat
  | .rlx => 0
  | .acq => 1
  | .rel => 2
  | .ar => 3

def MemOrder.ofCode : Nat → Option MemOrder
  | 0 => some .rlx
  | 1 => some .acq
  | 2 => some .rel
  | 3 => some .ar
  | _ => none

/-- Operations of AMO (R298). -/
def AmoOp.code : AmoOp → Nat
  | .add => 0
  | .and => 1
  | .or => 2
  | .xor => 3
  | .min => 4
  | .max => 5
  | .exch => 6
  | .fadd => 7

def AmoOp.ofCode : Nat → Option AmoOp
  | 0 => some .add
  | 1 => some .and
  | 2 => some .or
  | 3 => some .xor
  | 4 => some .min
  | 5 => some .max
  | 6 => some .exch
  | 7 => some .fadd
  | _ => none

/-- Operations of VAMO (R300). -/
def VamoOp.code : VamoOp → Nat
  | .addI32 => 0
  | .addF32 => 1
  | .maxS32 => 2
  | .minS32 => 3
  | .addI16 => 4
  | .addBf16 => 5
  | .addF16 => 6
  | .exch32 => 7

def VamoOp.ofCode : Nat → Option VamoOp
  | 0 => some .addI32
  | 1 => some .addF32
  | 2 => some .maxS32
  | 3 => some .minS32
  | 4 => some .addI16
  | 5 => some .addBf16
  | 6 => some .addF16
  | 7 => some .exch32
  | _ => none

/-- Engine classes of KMODE, codes 0 to 3 (R223). -/
def EngClass.code : EngClass → Nat
  | .vector => 0
  | .matrix => 1
  | .transpose => 2
  | .copy => 3

def EngClass.ofCode : Nat → Option EngClass
  | 0 => some .vector
  | 1 => some .matrix
  | 2 => some .transpose
  | 3 => some .copy
  | _ => none

/-- Rounding modes in the coding of FCSR.RM, codes 0 to 4 (R12). -/
def RoundMode.code : RoundMode → Nat
  | .rne => 0
  | .rtz => 1
  | .rdn => 2
  | .rup => 3
  | .rna => 4

def RoundMode.ofCode : Nat → Option RoundMode
  | 0 => some .rne
  | 1 => some .rtz
  | 2 => some .rdn
  | 3 => some .rup
  | 4 => some .rna
  | _ => none

/-- Element formats of MMA, MBLK and SCACC, codes 0 to 8 (R331). -/
def MFmt.code : MFmt → Nat
  | .e4m3 => 0
  | .e4m3e5m2 => 1
  | .e5m2e4m3 => 2
  | .e5m2 => 3
  | .i8 => 4
  | .bf16 => 5
  | .f16 => 6
  | .i4 => 7
  | .l4x => 8

def MFmt.ofCode : Nat → Option MFmt
  | 0 => some .e4m3
  | 1 => some .e4m3e5m2
  | 2 => some .e5m2e4m3
  | 3 => some .e5m2
  | 4 => some .i8
  | 5 => some .bf16
  | 6 => some .f16
  | 7 => some .i4
  | 8 => some .l4x
  | _ => none

/-- Element widths of XPOSE (R344). -/
def XWidth.code : XWidth → Nat
  | .w8 => 0
  | .w16 => 1
  | .w32 => 2

def XWidth.ofCode : Nat → Option XWidth
  | 0 => some .w8
  | 1 => some .w16
  | 2 => some .w32
  | _ => none

/-- Scratchpad tile layouts of XLAY (R345). -/
def Layout.code : Layout → Nat
  | .lin => 0
  | .blk => 1
  | .rot => 2

def Layout.ofCode : Nat → Option Layout
  | 0 => some .lin
  | 1 => some .blk
  | 2 => some .rot
  | _ => none

/-- Combinations of CRED (R354). -/
def CredOp.code : CredOp → Nat
  | .addF32 => 0
  | .addBf16 => 1
  | .maxF32 => 2
  | .maxBf16 => 3

def CredOp.ofCode : Nat → Option CredOp
  | 0 => some .addF32
  | 1 => some .addBf16
  | 2 => some .maxF32
  | 3 => some .maxBf16
  | _ => none

/-- Codes of RMode. -/
def RMode.code : RMode → Nat
  | .dyn => 0
  | .rne => 8
  | .rtz => 9
  | .rdn => 10
  | .rup => 11

def RMode.ofCode : Nat → Option RMode
  | 0 => some .dyn
  | 8 => some .rne
  | 9 => some .rtz
  | 10 => some .rdn
  | 11 => some .rup
  | _ => none

/-- Codes of NumFmt. -/
def NumFmt.code : NumFmt → Nat
  | .f32 => 0
  | .bf16 => 1
  | .f16 => 2
  | .e4m3 => 3
  | .e5m2 => 4
  | .e8 => 5
  | .i32 => 8
  | .i16 => 9
  | .i8 => 10
  | .i4 => 11
  | .u32 => 12
  | .u16 => 13
  | .u8 => 14
  | .u4 => 15

def NumFmt.ofCode : Nat → Option NumFmt
  | 0 => some .f32
  | 1 => some .bf16
  | 2 => some .f16
  | 3 => some .e4m3
  | 4 => some .e5m2
  | 5 => some .e8
  | 8 => some .i32
  | 9 => some .i16
  | 10 => some .i8
  | 11 => some .i4
  | 12 => some .u32
  | 13 => some .u16
  | 14 => some .u8
  | 15 => some .u4
  | _ => none

/-- Codes of StFmt. -/
def StFmt.code : StFmt → Nat
  | .f32 => 0
  | .bf16 => 1
  | .f16 => 2
  | .e4m3 => 3
  | .e5m2 => 4
  | .i32 => 5
  | .i8 => 6
  | .e4m3s => 8
  | .e5m2s => 9
  | .i8s => 10
  | .l4x => 11

def StFmt.ofCode : Nat → Option StFmt
  | 0 => some .f32
  | 1 => some .bf16
  | 2 => some .f16
  | 3 => some .e4m3
  | 4 => some .e5m2
  | 5 => some .i32
  | 6 => some .i8
  | 8 => some .e4m3s
  | 9 => some .e5m2s
  | 10 => some .i8s
  | 11 => some .l4x
  | _ => none

/-! ## Operand records -/

/-- The record `o`, if it is legal and its words are the words read. -/
def accept {α : Type} (o : α) (ok : Bool) (enc : Nat × Option Nat) (w : Nat) (x : Option Nat) : Except DecodeErr α :=
  if ok then (if enc = (w, x) then .ok o else .error .reserved) else .error .operand

/-- Go on with the meaning of a code, or reject a reserved one. -/
def operand {α β : Type} (c : Option α) (k : α → Except DecodeErr β) : Except DecodeErr β :=
  match c with
  | some v => k v
  | none => .error .code

def Src2.dec (w : Nat) (x : Option Nat) : Src2 :=
  if fI w then (match x with
    | some v => .ext v
    | none => .imm (w % 0x10000))
  else .reg (fSb w)

def RegImm.field : RegImm → Nat
  | .reg n => n
  | .imm _ => 0
def RegImm.pay : RegImm → Option Nat
  | .reg _ => none
  | .imm v => some v
def RegImm.dec (field : Nat) : Option Nat → RegImm
  | none => .reg field
  | some v => .imm v

def Off.field : Off → Nat
  | .field16 v => v
  | .ext _ => 0
def Off.pay : Off → Option Nat
  | .field16 _ => none
  | .ext v => some v
def Off.dec (w : Nat) : Option Nat → Off
  | none => .field16 (w % 0x10000)
  | some v => .ext v

def Stride.field : Stride → Nat
  | .field13 v => v
  | .ext _ => 0
def Stride.pay : Stride → Option Nat
  | .field13 _ => none
  | .ext v => some v
def Stride.dec (w : Nat) : Option Nat → Stride
  | none => .field13 (w % 0x2000)
  | some v => .ext v

def VSrc.field : VSrc → Nat
  | .vec n => n
  | .gs n => n
  | .imm _ => 0
def VSrc.sc : VSrc → Nat
  | .vec _ => 0
  | _ => 1
def VSrc.pay : VSrc → Option Nat
  | .imm v => some v
  | _ => none
/-- SC is bit 3 of T (R131). -/
def VSrc.dec (w : Nat) (x : Option Nat) : VSrc :=
  if bit w 3 then (match x with
    | some v => .imm v
    | none => .gs (fSb w))
  else .vec (fSb w)

def BcstSrc.dec (w : Nat) (x : Option Nat) : BcstSrc :=
  if bit w 3 then (match x with
    | some v => .imm v
    | none => .gs (fSb w))
  else .elem (fSa w) (fSb w)

def VIdx.field : VIdx → Nat
  | .imm n => n
  | .gs n => n
def VIdx.sc : VIdx → Nat
  | .imm _ => 0
  | .gs _ => 1
def VIdx.dec (w : Nat) : VIdx := if bit w 3 then .gs (fSb w) else .imm (fSb w)

def MovArgs.enc : MovArgs → Nat × Option Nat
  | .fromG d a => (f3 d a 0 0, none)
  | .fromB d b => (f3 d b 0 1, none)
def MovArgs.dec (w : Nat) (x : Option Nat) : Except DecodeErr MovArgs :=
  let o : MovArgs := if bit w 0 then .fromB (fDst w) (fSa w) else .fromG (fDst w) (fSa w)
  accept o o.ok o.enc w x

def PmovArgs.enc : PmovArgs → Nat × Option Nat
  | .pp p a => (f3 p a 0 0, none)
  | .gAll d => (f3 d 0 0 1, none)
  | .allG a => (f3 0 a 0 2, none)
  | .pg p a => (f3 p a 0 3, none)
def PmovArgs.dec (w : Nat) (x : Option Nat) : Except DecodeErr PmovArgs :=
  let o : PmovArgs := match w % 4 with
    | 0 => .pp (fDst w) (fSa w)
    | 1 => .gAll (fDst w)
    | 2 => .allG (fSa w)
    | _ => .pg (fDst w) (fSa w)
  accept o o.ok o.enc w x

def AmovArgs.enc : AmovArgs → Nat × Option Nat
  | .fromA d a => (f3 d a 0 0, none)
  | .fromG d a => (f3 d a 0 1, none)
  | .fromGG d a b => (f3 d a b 2, none)
  | .imm d v => (f3 d 0 0 3, some v)
def AmovArgs.dec (w : Nat) (x : Option Nat) : Except DecodeErr AmovArgs :=
  let o : AmovArgs := match w % 4 with
    | 0 => .fromA (fDst w) (fSa w)
    | 1 => .fromG (fDst w) (fSa w)
    | 2 => .fromGG (fDst w) (fSa w) (fSb w)
    | _ => .imm (fDst w) (x.getD 0)
  accept o o.ok o.enc w x

def MmovArgs.enc : MmovArgs → Nat × Option Nat
  | .mm m a => (f3 m a 0 0, none)
  | .mg m a => (f3 m a 0 1, none)
  | .gm d a => (f3 d a 0 2, none)
  | .imm m v => (f3 m 0 0 3, some v)
def MmovArgs.dec (w : Nat) (x : Option Nat) : Except DecodeErr MmovArgs :=
  let o : MmovArgs := match w % 4 with
    | 0 => .mm (fDst w) (fSa w)
    | 1 => .mg (fDst w) (fSa w)
    | 2 => .gm (fDst w) (fSa w)
    | _ => .imm (fDst w) (x.getD 0)
  accept o o.ok o.enc w x

/-- E1 of a transpose instruction (R343): bit 3 is D. -/
def XDst.field : XDst → Nat
  | .addr n => n
  | .ring n => n + 8
def XDst.dec (w : Nat) : XDst := if bit w 27 then .ring (fDst w % 8) else .addr (fDst w)

/-- E1 of a copy instruction (R350): CT, and TE in bit 6. -/
def ctField (ct : Nat) (te : Bool) : Nat := ct + 64 * te.toNat

def BinArgs.enc (o : BinArgs) : Nat × Option Nat :=
  match o.b with
  | .reg n => (f3 o.d o.a n 0, none)
  | .imm v => (f2i 0 o.d o.a v, none)
  | .ext v => (f2i 0 o.d o.a 0, some v)

def BinArgs.dec (w : Nat) (x : Option Nat) : Except DecodeErr BinArgs :=
  let o : BinArgs := ⟨regNum w, srcNum w, Src2.dec w x⟩
  accept o o.ok o.enc w x

def BinZArgs.enc (o : BinZArgs) : Nat × Option Nat :=
  match o.b with
  | .reg n => (f3 o.d o.a n o.z.toNat, none)
  | .imm v => (f2i o.z.toNat o.d o.a v, none)
  | .ext v => (f2i o.z.toNat o.d o.a 0, some v)

def BinZArgs.dec (w : Nat) (x : Option Nat) : Except DecodeErr BinZArgs :=
  let o : BinZArgs := ⟨regNum w, srcNum w, Src2.dec w x, if fI w then fQd w else bit w 0⟩
  accept o o.ok o.enc w x

def UnArgs.enc (o : UnArgs) : Nat × Option Nat := (f3 o.d o.a 0 0, none)

def UnArgs.dec (w : Nat) (x : Option Nat) : Except DecodeErr UnArgs :=
  let o : UnArgs := ⟨fDst w, fSa w⟩
  accept o o.ok o.enc w x

def MovxArgs.enc (o : MovxArgs) : Nat × Option Nat := (f3 o.d o.a 0 0, none)

def MovxArgs.dec (w : Nat) (x : Option Nat) : Except DecodeErr MovxArgs :=
  let o : MovxArgs := ⟨fDst w, fSa w⟩
  accept o o.ok o.enc w x

def BfxArgs.enc (o : BfxArgs) : Nat × Option Nat := (f3 o.d o.a o.pos (o.wm1 + 32 * o.sgn.toNat), none)

def BfxArgs.dec (w : Nat) (x : Option Nat) : Except DecodeErr BfxArgs :=
  let o : BfxArgs := ⟨fDst w, fSa w, fSb w, w % 32, bit w 5⟩
  accept o o.ok o.enc w x

def BfiArgs.enc (o : BfiArgs) : Nat × Option Nat := (f3 o.d o.a o.pos o.wm1, none)

def BfiArgs.dec (w : Nat) (x : Option Nat) : Except DecodeErr BfiArgs :=
  let o : BfiArgs := ⟨fDst w, fSa w, fSb w, fFn w⟩
  accept o o.ok o.enc w x

def SelArgs.enc (o : SelArgs) : Nat × Option Nat := (f3 o.d o.a o.b (o.k + 8 * o.n.toNat), none)

def SelArgs.dec (w : Nat) (x : Option Nat) : Except DecodeErr SelArgs :=
  let o : SelArgs := ⟨fDst w, fSa w, fSb w, w % 8, bit w 3⟩
  accept o o.ok o.enc w x

def MoviArgs.enc (o : MoviArgs) : Nat × Option Nat :=
  match o.imm with
  | .low v => (f2i 0 o.d 0 v, none)
  | .high v => (f2i 1 o.d 0 v, none)
  | .ext v => (f2i 0 o.d 0 0, some v)

def MoviArgs.dec (w : Nat) (x : Option Nat) : Except DecodeErr MoviArgs :=
  let o : MoviArgs := ⟨regNum w, match x with
    | some v => .ext v
    | none => if fQd w then .high (w % 0x10000) else .low (w % 0x10000)⟩
  accept o o.ok o.enc w x

def CmpArgs.enc (o : CmpArgs) : Nat × Option Nat := (f3 o.p o.a o.b.field o.cond.code, o.b.pay)

def CmpArgs.dec (w : Nat) (x : Option Nat) : Except DecodeErr CmpArgs :=
  operand (IntCond.ofCode (fFn w)) fun c =>
  let o : CmpArgs := ⟨fDst w, fSa w, RegImm.dec (fSb w) x, c⟩
  accept o o.ok o.enc w x

def PlogArgs.enc (o : PlogArgs) : Nat × Option Nat := (f3 o.p o.a o.b o.f.code, none)

def PlogArgs.dec (w : Nat) (x : Option Nat) : Except DecodeErr PlogArgs :=
  operand (LogicFn.ofCode (fFn w)) fun c =>
  let o : PlogArgs := ⟨fDst w, fSa w, fSb w, c⟩
  accept o o.ok o.enc w x

def AaddArgs.enc (o : AaddArgs) : Nat × Option Nat := (f3 o.d o.a o.b.field o.z.toNat, o.b.pay)

def AaddArgs.dec (w : Nat) (x : Option Nat) : Except DecodeErr AaddArgs :=
  let o : AaddArgs := ⟨fDst w, fSa w, RegImm.dec (fSb w) x, bit w 0⟩
  accept o o.ok o.enc w x

def AleaArgs.enc (o : AleaArgs) : Nat × Option Nat := (f3 o.d o.a o.b (o.sh + 8 * o.z.toNat), none)

def AleaArgs.dec (w : Nat) (x : Option Nat) : Except DecodeErr AleaArgs :=
  let o : AleaArgs := ⟨fDst w, fSa w, fSb w, w % 8, bit w 3⟩
  accept o o.ok o.enc w x

def AgetArgs.enc (o : AgetArgs) : Nat × Option Nat := (f3 o.d o.a 0 o.h.toNat, none)

def AgetArgs.dec (w : Nat) (x : Option Nat) : Except DecodeErr AgetArgs :=
  let o : AgetArgs := ⟨fDst w, fSa w, bit w 0⟩
  accept o o.ok o.enc w x

def AcmpArgs.enc (o : AcmpArgs) : Nat × Option Nat := (f3 o.p o.a o.b o.cond.code, none)

def AcmpArgs.dec (w : Nat) (x : Option Nat) : Except DecodeErr AcmpArgs :=
  operand (AddrCond.ofCode (fFn w)) fun c =>
  let o : AcmpArgs := ⟨fDst w, fSa w, fSb w, c⟩
  accept o o.ok o.enc w x

def FpArgs.enc (o : FpArgs) : Nat × Option Nat := (f3 o.d o.a o.b o.rm.code, none)

def FpArgs.dec (w : Nat) (x : Option Nat) : Except DecodeErr FpArgs :=
  operand (RMode.ofCode (fFn w)) fun c =>
  let o : FpArgs := ⟨fDst w, fSa w, fSb w, c⟩
  accept o o.ok o.enc w x

def FmaArgs.enc (o : FmaArgs) : Nat × Option Nat := (f3 o.d o.a o.b o.rm.code, none)

def FmaArgs.dec (w : Nat) (x : Option Nat) : Except DecodeErr FmaArgs :=
  operand (RMode.ofCode (fFn w)) fun c =>
  let o : FmaArgs := ⟨fDst w, fSa w, fSb w, c⟩
  accept o o.ok o.enc w x

def FminArgs.enc (o : FminArgs) : Nat × Option Nat := (f3 o.d o.a o.b 0, none)

def FminArgs.dec (w : Nat) (x : Option Nat) : Except DecodeErr FminArgs :=
  let o : FminArgs := ⟨fDst w, fSa w, fSb w⟩
  accept o o.ok o.enc w x

def FsqrtArgs.enc (o : FsqrtArgs) : Nat × Option Nat := (f3 o.d o.a 0 o.rm.code, none)

def FsqrtArgs.dec (w : Nat) (x : Option Nat) : Except DecodeErr FsqrtArgs :=
  operand (RMode.ofCode (fFn w)) fun c =>
  let o : FsqrtArgs := ⟨fDst w, fSa w, c⟩
  accept o o.ok o.enc w x

def FcmpArgs.enc (o : FcmpArgs) : Nat × Option Nat := (f3 o.p o.a o.b o.cond.code, none)

def FcmpArgs.dec (w : Nat) (x : Option Nat) : Except DecodeErr FcmpArgs :=
  operand (FpCond.ofCode (fFn w)) fun c =>
  let o : FcmpArgs := ⟨fDst w, fSa w, fSb w, c⟩
  accept o o.ok o.enc w x

def FcvtArgs.enc (o : FcvtArgs) : Nat × Option Nat := (f3 o.d o.a (o.rm.code + 16 * o.sat.toNat) (16 * o.dto.code + o.frm.code), none)

def FcvtArgs.dec (w : Nat) (x : Option Nat) : Except DecodeErr FcvtArgs :=
  operand (NumFmt.ofCode (fFn w / 16)) fun t =>
  operand (NumFmt.ofCode (w % 16)) fun f =>
  operand (RMode.ofCode (fSb w % 16)) fun c =>
  let o : FcvtArgs := ⟨fDst w, fSa w, t, f, c, bit w 12⟩
  accept o o.ok o.enc w x

def FsgnArgs.enc (o : FsgnArgs) : Nat × Option Nat := (f3 o.d o.a o.b o.f.code, none)

def FsgnArgs.dec (w : Nat) (x : Option Nat) : Except DecodeErr FsgnArgs :=
  operand (SignFn.ofCode (fFn w)) fun c =>
  let o : FsgnArgs := ⟨fDst w, fSa w, fSb w, c⟩
  accept o o.ok o.enc w x

def FclsArgs.enc (o : FclsArgs) : Nat × Option Nat := (f3 o.d o.a 0 o.fmt.code, none)

def FclsArgs.dec (w : Nat) (x : Option Nat) : Except DecodeErr FclsArgs :=
  operand (NumFmt.ofCode (fFn w)) fun c =>
  let o : FclsArgs := ⟨fDst w, fSa w, c⟩
  accept o o.ok o.enc w x

def PbrArgs.enc (o : PbrArgs) : Nat × Option Nat := (fb o.b o.h.toNat o.loff o.slot, none)

def PbrArgs.dec (w : Nat) (x : Option Nat) : Except DecodeErr PbrArgs :=
  let o : PbrArgs := ⟨w / 0x20000000 % 8, w / 16 % 0x1000000, w % 16, bit w 28⟩
  accept o o.ok o.enc w x

def PbrgArgs.enc (o : PbrgArgs) : Nat × Option Nat := (fb o.b o.h.toNat (0x40000 * o.g) 0, none)

def PbrgArgs.dec (w : Nat) (x : Option Nat) : Except DecodeErr PbrgArgs :=
  let o : PbrgArgs := ⟨w / 0x20000000 % 8, w / 0x400000 % 64, bit w 28⟩
  accept o o.ok o.enc w x

def BrArgs.enc (o : BrArgs) : Nat × Option Nat := (f3 0 o.b 0 0, none)

def BrArgs.dec (w : Nat) (x : Option Nat) : Except DecodeErr BrArgs :=
  let o : BrArgs := ⟨fSa w⟩
  accept o o.ok o.enc w x

def CallArgs.enc (o : CallArgs) : Nat × Option Nat := (f3 o.d o.b 0 0, none)

def CallArgs.dec (w : Nat) (x : Option Nat) : Except DecodeErr CallArgs :=
  let o : CallArgs := ⟨fDst w, fSa w⟩
  accept o o.ok o.enc w x

def LoopArgs.enc (o : LoopArgs) : Nat × Option Nat := (f3 o.lc o.g o.b 0, none)

def LoopArgs.dec (w : Nat) (x : Option Nat) : Except DecodeErr LoopArgs :=
  let o : LoopArgs := ⟨fDst w, fSa w, fSb w⟩
  accept o o.ok o.enc w x

def LdltArgs.enc (o : LdltArgs) : Nat × Option Nat := (f3 o.lc o.a o.v.field 0, o.v.pay)

def LdltArgs.dec (w : Nat) (x : Option Nat) : Except DecodeErr LdltArgs :=
  let o : LdltArgs := ⟨fDst w, fSa w, RegImm.dec (fSb w) x⟩
  accept o o.ok o.enc w x

def LdltClrArgs.enc (o : LdltClrArgs) : Nat × Option Nat := (f3 o.lc 0 0 1, none)

def LdltClrArgs.dec (w : Nat) (x : Option Nat) : Except DecodeErr LdltClrArgs :=
  let o : LdltClrArgs := ⟨fDst w⟩
  accept o o.ok o.enc w x

def LbrkArgs.enc (o : LbrkArgs) : Nat × Option Nat := (f3 o.lc 0 0 0, none)

def LbrkArgs.dec (w : Nat) (x : Option Nat) : Except DecodeErr LbrkArgs :=
  let o : LbrkArgs := ⟨fDst w⟩
  accept o o.ok o.enc w x

def NoArgs.enc (_o : NoArgs) : Nat × Option Nat := (0, none)

def NoArgs.dec (w : Nat) (x : Option Nat) : Except DecodeErr NoArgs :=
  let o : NoArgs := ⟨⟩
  accept o o.ok o.enc w x

def LdArgs.enc (o : LdArgs) : Nat × Option Nat := (fm (o.d + 64 * o.z.toNat) o.a o.m.toNat o.sz o.off.field, o.off.pay)

def LdArgs.dec (w : Nat) (x : Option Nat) : Except DecodeErr LdArgs :=
  let o : LdArgs := ⟨fDst w % 64, memA w, memSz w, bit w 30, bit w 18, Off.dec w x⟩
  accept o o.ok o.enc w x

def StArgs.enc (o : StArgs) : Nat × Option Nat := (fm o.g o.a o.m.toNat o.sz o.off.field, o.off.pay)

def StArgs.dec (w : Nat) (x : Option Nat) : Except DecodeErr StArgs :=
  let o : StArgs := ⟨fDst w, memA w, memSz w, bit w 18, Off.dec w x⟩
  accept o o.ok o.enc w x

def LdaArgs.enc (o : LdaArgs) : Nat × Option Nat := (fm o.d o.a o.m.toNat 3 o.off.field, o.off.pay)

def LdaArgs.dec (w : Nat) (x : Option Nat) : Except DecodeErr LdaArgs :=
  let o : LdaArgs := ⟨fDst w, memA w, bit w 18, Off.dec w x⟩
  accept o o.ok o.enc w x

def StaArgs.enc (o : StaArgs) : Nat × Option Nat := (fm o.s o.a o.m.toNat 3 o.off.field, o.off.pay)

def StaArgs.dec (w : Nat) (x : Option Nat) : Except DecodeErr StaArgs :=
  let o : StaArgs := ⟨fDst w, memA w, bit w 18, Off.dec w x⟩
  accept o o.ok o.enc w x

def FeLdArgs.enc (o : FeLdArgs) : Nat × Option Nat := (fm o.d o.a o.m.toNat 2 o.off.field, o.off.pay)

def FeLdArgs.dec (w : Nat) (x : Option Nat) : Except DecodeErr FeLdArgs :=
  let o : FeLdArgs := ⟨fDst w, memA w, bit w 18, Off.dec w x⟩
  accept o o.ok o.enc w x

def FeStArgs.enc (o : FeStArgs) : Nat × Option Nat := (fm o.g o.a o.m.toNat 2 o.off.field, o.off.pay)

def FeStArgs.dec (w : Nat) (x : Option Nat) : Except DecodeErr FeStArgs :=
  let o : FeStArgs := ⟨fDst w, memA w, bit w 18, Off.dec w x⟩
  accept o o.ok o.enc w x

def BarrArgs.enc (o : BarrArgs) : Nat × Option Nat := (fm (o.g + 64 * o.sp.toNat) o.a o.m.toNat 3 o.off, none)

def BarrArgs.dec (w : Nat) (x : Option Nat) : Except DecodeErr BarrArgs :=
  let o : BarrArgs := ⟨fDst w % 64, memA w, bit w 30, bit w 18, w % 0x10000⟩
  accept o o.ok o.enc w x

def BwaitArgs.enc (o : BwaitArgs) : Nat × Option Nat := (fm (o.g + 64 * o.sp.toNat + 128 * o.par.toNat) o.a o.m.toNat 3 o.off, none)

def BwaitArgs.dec (w : Nat) (x : Option Nat) : Except DecodeErr BwaitArgs :=
  let o : BwaitArgs := ⟨fDst w % 64, memA w, bit w 30, bit w 31, bit w 18, w % 0x10000⟩
  accept o o.ok o.enc w x

def NotifyArgs.enc (o : NotifyArgs) : Nat × Option Nat := (f3 0 o.a o.g 0, none)

def NotifyArgs.dec (w : Nat) (x : Option Nat) : Except DecodeErr NotifyArgs :=
  let o : NotifyArgs := ⟨fSa w, fSb w⟩
  accept o o.ok o.enc w x

def WaitnArgs.enc (o : WaitnArgs) : Nat × Option Nat := (f3 o.d 0 o.g (o.n + 16 * o.nb.toNat), none)

def WaitnArgs.dec (w : Nat) (x : Option Nat) : Except DecodeErr WaitnArgs :=
  let o : WaitnArgs := ⟨fDst w, w % 16, fSb w, bit w 4⟩
  accept o o.ok o.enc w x

def QpopArgs.enc (o : QpopArgs) : Nat × Option Nat := (f3 o.d o.q 0 o.v.toNat, none)

def QpopArgs.dec (w : Nat) (x : Option Nat) : Except DecodeErr QpopArgs :=
  let o : QpopArgs := ⟨fDst w, fSa w, bit w 0⟩
  accept o o.ok o.enc w x

def QpushArgs.enc (o : QpushArgs) : Nat × Option Nat := (f3 o.q o.s 0 o.v.toNat, none)

def QpushArgs.dec (w : Nat) (x : Option Nat) : Except DecodeErr QpushArgs :=
  let o : QpushArgs := ⟨fDst w, fSa w, bit w 0⟩
  accept o o.ok o.enc w x

def QstatArgs.enc (o : QstatArgs) : Nat × Option Nat := (f3 o.d o.q 0 0, none)

def QstatArgs.dec (w : Nat) (x : Option Nat) : Except DecodeErr QstatArgs :=
  let o : QstatArgs := ⟨fDst w, fSa w⟩
  accept o o.ok o.enc w x

def QclrArgs.enc (o : QclrArgs) : Nat × Option Nat := (f3 0 o.q 0 0, none)

def QclrArgs.dec (w : Nat) (x : Option Nat) : Except DecodeErr QclrArgs :=
  let o : QclrArgs := ⟨fSa w⟩
  accept o o.ok o.enc w x

def QstArgs.enc (o : QstArgs) : Nat × Option Nat := (f3 o.k o.q 0 0, none)

def QstArgs.dec (w : Nat) (x : Option Nat) : Except DecodeErr QstArgs :=
  let o : QstArgs := ⟨fDst w, fSa w⟩
  accept o o.ok o.enc w x

def LdqArgs.enc (o : LdqArgs) : Nat × Option Nat := (fm (o.q + 64 * o.z.toNat + 128 * o.s.toNat) o.a o.m.toNat o.sz o.off.field, o.off.pay)

def LdqArgs.dec (w : Nat) (x : Option Nat) : Except DecodeErr LdqArgs :=
  let o : LdqArgs := ⟨fDst w % 64, memA w, memSz w, bit w 30, bit w 31, bit w 18, Off.dec w x⟩
  accept o o.ok o.enc w x

def LdqsArgs.enc (o : LdqsArgs) : Nat × Option Nat := (fm (o.q + 128 * o.s.toNat) o.a 0 2 (o.stride.field + 0x2000 * o.km), o.stride.pay)

def LdqsArgs.dec (w : Nat) (x : Option Nat) : Except DecodeErr LdqsArgs :=
  let o : LdqsArgs := ⟨fDst w % 64, memA w, w / 0x2000 % 8, bit w 31, Stride.dec w x⟩
  accept o o.ok o.enc w x

def LdqxArgs.enc (o : LdqxArgs) : Nat × Option Nat := (fm (o.q + 128 * o.s.toNat) o.a 0 2 (o.vi + 0x400 * o.z.toNat + 0x800 * o.sh + 0x2000 * o.km), none)

def LdqxArgs.dec (w : Nat) (x : Option Nat) : Except DecodeErr LdqxArgs :=
  let o : LdqxArgs := ⟨fDst w % 64, memA w, w % 256, w / 0x800 % 4, w / 0x2000 % 8, bit w 10, bit w 31⟩
  accept o o.ok o.enc w x

def StfArgs.enc (o : StfArgs) : Nat × Option Nat := (fm o.s o.a o.m.toNat o.sz o.off.field, o.off.pay)

def StfArgs.dec (w : Nat) (x : Option Nat) : Except DecodeErr StfArgs :=
  let o : StfArgs := ⟨fDst w, memA w, memSz w, bit w 18, Off.dec w x⟩
  accept o o.ok o.enc w x

def StfsArgs.enc (o : StfsArgs) : Nat × Option Nat := (fm o.v o.a 0 2 (o.stride.field + 0x2000 * o.km), o.stride.pay)

def StfsArgs.dec (w : Nat) (x : Option Nat) : Except DecodeErr StfsArgs :=
  let o : StfsArgs := ⟨fDst w, memA w, w / 0x2000 % 8, Stride.dec w x⟩
  accept o o.ok o.enc w x

def StfxArgs.enc (o : StfxArgs) : Nat × Option Nat := (fm o.v o.a 0 2 (o.vi + 0x400 * o.z.toNat + 0x800 * o.sh + 0x2000 * o.km), none)

def StfxArgs.dec (w : Nat) (x : Option Nat) : Except DecodeErr StfxArgs :=
  let o : StfxArgs := ⟨fDst w, memA w, w % 256, w / 0x800 % 4, w / 0x2000 % 8, bit w 10⟩
  accept o o.ok o.enc w x

def PrefArgs.enc (o : PrefArgs) : Nat × Option Nat := (fm (64 * o.l2.toNat) o.a 0 0 o.off, none)

def PrefArgs.dec (w : Nat) (x : Option Nat) : Except DecodeErr PrefArgs :=
  let o : PrefArgs := ⟨memA w, bit w 30, w % 0x10000⟩
  accept o o.ok o.enc w x

def CwbArgs.enc (o : CwbArgs) : Nat × Option Nat := (fm o.g o.a 0 0 o.off, none)

def CwbArgs.dec (w : Nat) (x : Option Nat) : Except DecodeErr CwbArgs :=
  let o : CwbArgs := ⟨fDst w, memA w, w % 0x10000⟩
  accept o o.ok o.enc w x

def AmoArgs.enc (o : AmoArgs) : Nat × Option Nat := (f3 (o.q + 64 * o.nr.toNat) (o.a + 64 * o.sp.toNat) o.g (32 * o.scope.code + 8 * o.ord.code + o.op.code), none)

def AmoArgs.dec (w : Nat) (x : Option Nat) : Except DecodeErr AmoArgs :=
  operand (Scope.ofCode (fFn w / 32)) fun sc =>
  operand (MemOrder.ofCode (fFn w / 8 % 4)) fun od =>
  operand (AmoOp.ofCode (w % 8)) fun c =>
  let o : AmoArgs := ⟨fDst w % 64, fSa w % 64, fSb w, bit w 30, bit w 22, sc, od, c⟩
  accept o o.ok o.enc w x

def AcasArgs.enc (o : AcasArgs) : Nat × Option Nat := (f3 o.q (o.a + 64 * o.sp.toNat) o.g (32 * o.scope.code + 8 * o.ord.code + 2 * o.ford.code), none)

def AcasArgs.dec (w : Nat) (x : Option Nat) : Except DecodeErr AcasArgs :=
  operand (Scope.ofCode (fFn w / 32)) fun sc =>
  operand (MemOrder.ofCode (fFn w / 8 % 4)) fun od =>
  operand (MemOrder.ofCode (w / 2 % 4)) fun c =>
  let o : AcasArgs := ⟨fDst w, fSa w % 64, fSb w, bit w 22, sc, od, c⟩
  accept o o.ok o.enc w x

def VamoArgs.enc (o : VamoArgs) : Nat × Option Nat := (f3 (o.q + 64 * o.nr.toNat) (o.a + 64 * o.sp.toNat) o.v (32 * o.scope.code + 8 * o.ord.code + o.op.code), none)

def VamoArgs.dec (w : Nat) (x : Option Nat) : Except DecodeErr VamoArgs :=
  operand (Scope.ofCode (fFn w / 32)) fun sc =>
  operand (MemOrder.ofCode (fFn w / 8 % 4)) fun od =>
  operand (VamoOp.ofCode (w % 8)) fun c =>
  let o : VamoArgs := ⟨fDst w % 64, fSa w % 64, fSb w, bit w 30, bit w 22, sc, od, c⟩
  accept o o.ok o.enc w x

def FenceArgs.enc (o : FenceArgs) : Nat × Option Nat := (f3 0 0 0 (32 * o.scope.code), none)

def FenceArgs.dec (w : Nat) (x : Option Nat) : Except DecodeErr FenceArgs :=
  operand (Scope.ofCode (fFn w / 32)) fun sc =>
  let o : FenceArgs := ⟨sc⟩
  accept o o.ok o.enc w x

def XferArgs.enc (o : XferArgs) : Nat × Option Nat := (f3 0 o.a o.g 0, none)

def XferArgs.dec (w : Nat) (x : Option Nat) : Except DecodeErr XferArgs :=
  let o : XferArgs := ⟨fSa w, fSb w⟩
  accept o o.ok o.enc w x

def RclaimArgs.enc (o : RclaimArgs) : Nat × Option Nat := (f3 o.p o.a 0 0, none)

def RclaimArgs.dec (w : Nat) (x : Option Nat) : Except DecodeErr RclaimArgs :=
  let o : RclaimArgs := ⟨fDst w, fSa w⟩
  accept o o.ok o.enc w x

def RshareArgs.enc (o : RshareArgs) : Nat × Option Nat := (f3 0 o.a 0 0, none)

def RshareArgs.dec (w : Nat) (x : Option Nat) : Except DecodeErr RshareArgs :=
  let o : RshareArgs := ⟨fSa w⟩
  accept o o.ok o.enc w x

def VIntArgs.enc (o : VIntArgs) : Nat × Option Nat := (f3 o.d o.a o.b.field (32 * o.km + 16 * o.mz.toNat + 8 * o.b.sc + o.w.code), o.b.pay)

def VIntArgs.dec (w : Nat) (x : Option Nat) : Except DecodeErr VIntArgs :=
  operand (VWidth.ofCode (w % 4)) fun vw =>
  let o : VIntArgs := ⟨fDst w, fSa w, VSrc.dec w x, fFn w / 32, bit w 4, vw⟩
  accept o o.ok o.enc w x

def VMadArgs.enc (o : VMadArgs) : Nat × Option Nat := (f3 o.d o.a o.b.field (32 * o.km + 16 * o.mz.toNat + 8 * o.b.sc + o.w.code), o.b.pay)

def VMadArgs.dec (w : Nat) (x : Option Nat) : Except DecodeErr VMadArgs :=
  operand (VWidth.ofCode (w % 4)) fun vw =>
  let o : VMadArgs := ⟨fDst w, fSa w, VSrc.dec w x, fFn w / 32, bit w 4, vw⟩
  accept o o.ok o.enc w x

def VIntZArgs.enc (o : VIntZArgs) : Nat × Option Nat := (f3 o.d o.a o.b.field (32 * o.km + 16 * o.mz.toNat + 8 * o.b.sc + 4 * o.z.toNat + o.w.code), o.b.pay)

def VIntZArgs.dec (w : Nat) (x : Option Nat) : Except DecodeErr VIntZArgs :=
  operand (VWidth.ofCode (w % 4)) fun vw =>
  let o : VIntZArgs := ⟨fDst w, fSa w, VSrc.dec w x, fFn w / 32, bit w 4, vw, bit w 2⟩
  accept o o.ok o.enc w x

def VabsArgs.enc (o : VabsArgs) : Nat × Option Nat := (f3 o.d o.a 0 (32 * o.km + 16 * o.mz.toNat + o.w.code), none)

def VabsArgs.dec (w : Nat) (x : Option Nat) : Except DecodeErr VabsArgs :=
  operand (VWidth.ofCode (w % 4)) fun vw =>
  let o : VabsArgs := ⟨fDst w, fSa w, fFn w / 32, bit w 4, vw⟩
  accept o o.ok o.enc w x

def VcmpArgs.enc (o : VcmpArgs) : Nat × Option Nat := (f3 o.m o.a o.b (32 * o.km + 16 * o.mz.toNat + o.cond.code), none)

def VcmpArgs.dec (w : Nat) (x : Option Nat) : Except DecodeErr VcmpArgs :=
  operand (IntCond.ofCode (w % 16)) fun c =>
  let o : VcmpArgs := ⟨fDst w, fSa w, fSb w, fFn w / 32, bit w 4, c⟩
  accept o o.ok o.enc w x

def VselArgs.enc (o : VselArgs) : Nat × Option Nat := (f3 o.d o.a o.b.field (32 * o.ms + 8 * o.b.sc + o.w.code), o.b.pay)

def VselArgs.dec (w : Nat) (x : Option Nat) : Except DecodeErr VselArgs :=
  operand (VWidth.ofCode (w % 4)) fun vw =>
  let o : VselArgs := ⟨fDst w, fSa w, VSrc.dec w x, fFn w / 32, vw⟩
  accept o o.ok o.enc w x

def VFBinArgs.enc (o : VFBinArgs) : Nat × Option Nat := (f3 o.d o.a o.b.field (32 * o.km + 16 * o.mz.toNat + 8 * o.b.sc + o.f.code), o.b.pay)

def VFBinArgs.dec (w : Nat) (x : Option Nat) : Except DecodeErr VFBinArgs :=
  operand (VFloat.ofCode (w % 4)) fun vf =>
  let o : VFBinArgs := ⟨fDst w, fSa w, VSrc.dec w x, fFn w / 32, bit w 4, vf⟩
  accept o o.ok o.enc w x

def VFmaArgs.enc (o : VFmaArgs) : Nat × Option Nat := (f3 o.d o.a o.b.field (32 * o.km + 16 * o.mz.toNat + 8 * o.b.sc + o.f.code), o.b.pay)

def VFmaArgs.dec (w : Nat) (x : Option Nat) : Except DecodeErr VFmaArgs :=
  operand (VFloat.ofCode (w % 4)) fun vf =>
  let o : VFmaArgs := ⟨fDst w, fSa w, VSrc.dec w x, fFn w / 32, bit w 4, vf⟩
  accept o o.ok o.enc w x

def VFUnArgs.enc (o : VFUnArgs) : Nat × Option Nat := (f3 o.d o.a 0 (32 * o.km + 16 * o.mz.toNat + o.f.code), none)

def VFUnArgs.dec (w : Nat) (x : Option Nat) : Except DecodeErr VFUnArgs :=
  operand (VFloat.ofCode (w % 4)) fun vf =>
  let o : VFUnArgs := ⟨fDst w, fSa w, fFn w / 32, bit w 4, vf⟩
  accept o o.ok o.enc w x

def VfcmpArgs.enc (o : VfcmpArgs) : Nat × Option Nat := (f3 o.m o.a o.b (32 * o.km + 16 * o.mz.toNat + o.cond.code), none)

def VfcmpArgs.dec (w : Nat) (x : Option Nat) : Except DecodeErr VfcmpArgs :=
  operand (FpCond.ofCode (w % 8)) fun c =>
  let o : VfcmpArgs := ⟨fDst w, fSa w, fSb w, fFn w / 32, bit w 4, c⟩
  accept o o.ok o.enc w x

def VfsgnArgs.enc (o : VfsgnArgs) : Nat × Option Nat := (f3 o.d o.a o.b (32 * o.km + 16 * o.mz.toNat + 4 * o.op.code + o.f.code), none)

def VfsgnArgs.dec (w : Nat) (x : Option Nat) : Except DecodeErr VfsgnArgs :=
  operand (VFloat.ofCode (w % 4)) fun vf =>
  operand (SignFn.ofCode (w / 4 % 4)) fun c =>
  let o : VfsgnArgs := ⟨fDst w, fSa w, fSb w, fFn w / 32, bit w 4, vf, c⟩
  accept o o.ok o.enc w x

def VcvtArgs.enc (o : VcvtArgs) : Nat × Option Nat := (f3 o.d o.a (o.rm.code + 16 * o.sat.toNat + 32 * o.part) (16 * o.dto.code + o.frm.code), none)

def VcvtArgs.dec (w : Nat) (x : Option Nat) : Except DecodeErr VcvtArgs :=
  operand (NumFmt.ofCode (fFn w / 16)) fun t =>
  operand (NumFmt.ofCode (w % 16)) fun f =>
  operand (RMode.ofCode (fSb w % 16)) fun c =>
  let o : VcvtArgs := ⟨fDst w, fSa w, fSb w / 32, t, f, c, bit w 12⟩
  accept o o.ok o.enc w x

def VqencArgs.enc (o : VqencArgs) : Nat × Option Nat := (f3 o.d o.a o.g (4 * o.k + o.fmt.code), none)

def VqencArgs.dec (w : Nat) (x : Option Nat) : Except DecodeErr VqencArgs :=
  operand (QFmt.ofCode (w % 4)) fun c =>
  let o : VqencArgs := ⟨fDst w, fSa w, fSb w, w / 4 % 4, c⟩
  accept o o.ok o.enc w x

def VqdecArgs.enc (o : VqdecArgs) : Nat × Option Nat := (f3 o.d o.a o.g (4 * o.k + o.fmt.code), none)

def VqdecArgs.dec (w : Nat) (x : Option Nat) : Except DecodeErr VqdecArgs :=
  operand (QFmt.ofCode (w % 4)) fun c =>
  let o : VqdecArgs := ⟨fDst w, fSa w, fSb w, w / 4 % 4, c⟩
  accept o o.ok o.enc w x

def VsclArgs.enc (o : VsclArgs) : Nat × Option Nat := (f3 o.d o.a o.b.field (32 * o.km + 16 * o.mz.toNat + 8 * o.b.sc + o.f.code), o.b.pay)

def VsclArgs.dec (w : Nat) (x : Option Nat) : Except DecodeErr VsclArgs :=
  operand (VFloat.ofCode (w % 4)) fun vf =>
  let o : VsclArgs := ⟨fDst w, fSa w, VSrc.dec w x, fFn w / 32, bit w 4, vf⟩
  accept o o.ok o.enc w x

def VredArgs.enc (o : VredArgs) : Nat × Option Nat := (f3 o.d o.a 0 (32 * o.km + 4 * o.op.code + o.ty.code), none)

def VredArgs.dec (w : Nat) (x : Option Nat) : Except DecodeErr VredArgs :=
  operand (RedOp.ofCode (w / 4 % 4)) fun ro =>
  operand (RedTy.ofCode (w % 4)) fun rt =>
  let o : VredArgs := ⟨fDst w, fSa w, fFn w / 32, ro, rt⟩
  accept o o.ok o.enc w x

def VscanArgs.enc (o : VscanArgs) : Nat × Option Nat := (f3 o.d o.a 0 (32 * o.km + 16 * o.mz.toNat + 4 * o.op.code + o.ty.code), none)

def VscanArgs.dec (w : Nat) (x : Option Nat) : Except DecodeErr VscanArgs :=
  operand (RedOp.ofCode (w / 4 % 4)) fun ro =>
  operand (RedTy.ofCode (w % 4)) fun rt =>
  let o : VscanArgs := ⟨fDst w, fSa w, fFn w / 32, bit w 4, ro, rt⟩
  accept o o.ok o.enc w x

def VsortArgs.enc (o : VsortArgs) : Nat × Option Nat := (f3 o.d o.a o.b (32 * o.km + 4 * o.dn.toNat + o.ty.code), none)

def VsortArgs.dec (w : Nat) (x : Option Nat) : Except DecodeErr VsortArgs :=
  operand (RedTy.ofCode (w % 4)) fun rt =>
  let o : VsortArgs := ⟨fDst w, fSa w, fSb w, fFn w / 32, rt, bit w 2⟩
  accept o o.ok o.enc w x

def VpermArgs.enc (o : VpermArgs) : Nat × Option Nat := (f3 o.d o.a o.b (32 * o.km + 16 * o.mz.toNat + o.w.code), none)

def VpermArgs.dec (w : Nat) (x : Option Nat) : Except DecodeErr VpermArgs :=
  operand (VWidth.ofCode (w % 4)) fun vw =>
  let o : VpermArgs := ⟨fDst w, fSa w, fSb w, fFn w / 32, bit w 4, vw⟩
  accept o o.ok o.enc w x

def VshufArgs.enc (o : VshufArgs) : Nat × Option Nat := (f3 o.d o.a o.b (32 * o.km + 16 * o.mz.toNat + o.w.code), none)

def VshufArgs.dec (w : Nat) (x : Option Nat) : Except DecodeErr VshufArgs :=
  operand (VWidth.ofCode (w % 4)) fun vw =>
  let o : VshufArgs := ⟨fDst w, fSa w, fSb w, fFn w / 32, bit w 4, vw⟩
  accept o o.ok o.enc w x

def VbcstArgs.enc (o : VbcstArgs) : Nat × Option Nat :=
  match o.src with
  | .elem a i => (f3 o.d a i (32 * o.km + 16 * o.mz.toNat + o.w.code), none)
  | .gs n => (f3 o.d 0 n (32 * o.km + 16 * o.mz.toNat + 8 + o.w.code), none)
  | .imm v => (f3 o.d 0 0 (32 * o.km + 16 * o.mz.toNat + 8 + o.w.code), some v)

def VbcstArgs.dec (w : Nat) (x : Option Nat) : Except DecodeErr VbcstArgs :=
  operand (VWidth.ofCode (w % 4)) fun vw =>
  let o : VbcstArgs := ⟨fDst w, BcstSrc.dec w x, fFn w / 32, bit w 4, vw⟩
  accept o o.ok o.enc w x

def VextArgs.enc (o : VextArgs) : Nat × Option Nat := (f3 o.d o.a o.idx.field (8 * o.idx.sc + 4 * o.z.toNat + o.w.code), none)

def VextArgs.dec (w : Nat) (x : Option Nat) : Except DecodeErr VextArgs :=
  operand (VWidth.ofCode (w % 4)) fun vw =>
  let o : VextArgs := ⟨fDst w, fSa w, VIdx.dec w, vw, bit w 2⟩
  accept o o.ok o.enc w x

def VinsArgs.enc (o : VinsArgs) : Nat × Option Nat := (f3 o.d o.g o.idx.field (8 * o.idx.sc + o.w.code), none)

def VinsArgs.dec (w : Nat) (x : Option Nat) : Except DecodeErr VinsArgs :=
  operand (VWidth.ofCode (w % 4)) fun vw =>
  let o : VinsArgs := ⟨fDst w, fSa w, VIdx.dec w, vw⟩
  accept o o.ok o.enc w x

def ViotaArgs.enc (o : ViotaArgs) : Nat × Option Nat := (f3 o.d 0 0 (32 * o.km + 16 * o.mz.toNat + 0), none)

def ViotaArgs.dec (w : Nat) (x : Option Nat) : Except DecodeErr ViotaArgs :=
  let o : ViotaArgs := ⟨fDst w, fFn w / 32, bit w 4⟩
  accept o o.ok o.enc w x

def VcmprsArgs.enc (o : VcmprsArgs) : Nat × Option Nat := (f3 o.d o.a 0 (32 * o.km + 16 * o.mz.toNat + 0), none)

def VcmprsArgs.dec (w : Nat) (x : Option Nat) : Except DecodeErr VcmprsArgs :=
  let o : VcmprsArgs := ⟨fDst w, fSa w, fFn w / 32, bit w 4⟩
  accept o o.ok o.enc w x

def VmovxArgs.enc (o : VmovxArgs) : Nat × Option Nat := (f3 o.d o.a 0 (32 * o.km + 16 * o.mz.toNat + 0), none)

def VmovxArgs.dec (w : Nat) (x : Option Nat) : Except DecodeErr VmovxArgs :=
  let o : VmovxArgs := ⟨fDst w, fSa w, fFn w / 32, bit w 4⟩
  accept o o.ok o.enc w x

def VrndArgs.enc (o : VrndArgs) : Nat × Option Nat := (f3 o.d o.a o.key.field (32 * o.km + 16 * o.mz.toNat + o.f.toNat), o.key.pay)

def VrndArgs.dec (w : Nat) (x : Option Nat) : Except DecodeErr VrndArgs :=
  let o : VrndArgs := ⟨fDst w, fSa w, RegImm.dec (fSb w) x, fFn w / 32, bit w 4, bit w 0⟩
  accept o o.ok o.enc w x

def VdotArgs.enc (o : VdotArgs) : Nat × Option Nat := (f3 o.d o.a o.b (32 * o.km + 16 * o.mz.toNat + o.ty.code), none)

def VdotArgs.dec (w : Nat) (x : Option Nat) : Except DecodeErr VdotArgs :=
  operand (DotTy.ofCode (w % 16)) fun c =>
  let o : VdotArgs := ⟨fDst w, fSa w, fSb w, fFn w / 32, bit w 4, c⟩
  accept o o.ok o.enc w x

def MlogArgs.enc (o : MlogArgs) : Nat × Option Nat := (f3 o.m o.a o.b o.f.code, none)

def MlogArgs.dec (w : Nat) (x : Option Nat) : Except DecodeErr MlogArgs :=
  operand (LogicFn.ofCode (fFn w)) fun c =>
  let o : MlogArgs := ⟨fDst w, fSa w, fSb w, c⟩
  accept o o.ok o.enc w x

def MpopArgs.enc (o : MpopArgs) : Nat × Option Nat := (f3 o.d o.m 0 0, none)

def MpopArgs.dec (w : Nat) (x : Option Nat) : Except DecodeErr MpopArgs :=
  let o : MpopArgs := ⟨fDst w, fSa w⟩
  accept o o.ok o.enc w x

def MffArgs.enc (o : MffArgs) : Nat × Option Nat := (f3 o.d o.m 0 o.last.toNat, none)

def MffArgs.dec (w : Nat) (x : Option Nat) : Except DecodeErr MffArgs :=
  let o : MffArgs := ⟨fDst w, fSa w, bit w 0⟩
  accept o o.ok o.enc w x

def VldArgs.enc (o : VldArgs) : Nat × Option Nat := (fm o.v o.a o.m.toNat 2 o.off.field, o.off.pay)

def VldArgs.dec (w : Nat) (x : Option Nat) : Except DecodeErr VldArgs :=
  let o : VldArgs := ⟨fDst w, memA w, bit w 18, Off.dec w x⟩
  accept o o.ok o.enc w x

def VstArgs.enc (o : VstArgs) : Nat × Option Nat := (fm o.v o.a o.m.toNat 2 o.off.field, o.off.pay)

def VstArgs.dec (w : Nat) (x : Option Nat) : Except DecodeErr VstArgs :=
  let o : VstArgs := ⟨fDst w, memA w, bit w 18, Off.dec w x⟩
  accept o o.ok o.enc w x

def VldsArgs.enc (o : VldsArgs) : Nat × Option Nat := (fm o.v o.a 0 2 (o.stride.field + 0x2000 * o.km), o.stride.pay)

def VldsArgs.dec (w : Nat) (x : Option Nat) : Except DecodeErr VldsArgs :=
  let o : VldsArgs := ⟨fDst w, memA w, w / 0x2000 % 8, Stride.dec w x⟩
  accept o o.ok o.enc w x

def VldxArgs.enc (o : VldxArgs) : Nat × Option Nat := (fm o.v o.a 0 2 (o.vi + 0x400 * o.z.toNat + 0x800 * o.sh + 0x2000 * o.km), none)

def VldxArgs.dec (w : Nat) (x : Option Nat) : Except DecodeErr VldxArgs :=
  let o : VldxArgs := ⟨fDst w, memA w, w % 256, w / 0x800 % 4, w / 0x2000 % 8, bit w 10⟩
  accept o o.ok o.enc w x

def PostArgs.enc (o : PostArgs) : Nat × Option Nat := (fk (o.hw.getD 0) o.a (o.nb.isSome.toNat + 2 * o.s.toNat + 4 * o.hw.isSome.toNat) (o.nb.getD 0), none)

def PostArgs.dec (w : Nat) (x : Option Nat) : Except DecodeErr PostArgs :=
  let o : PostArgs := ⟨fSa w, if bit w 14 then some (fDst w) else none, if bit w 12 then some (w % 0x1000) else none, bit w 13⟩
  accept o o.ok o.enc w x

def PostxArgs.enc (o : PostxArgs) : Nat × Option Nat := (fk o.q o.a 0 o.g, none)

def PostxArgs.dec (w : Nat) (x : Option Nat) : Except DecodeErr PostxArgs :=
  let o : PostxArgs := ⟨fDst w, fSa w, w % 0x1000⟩
  accept o o.ok o.enc w x

def FdefArgs.enc (o : FdefArgs) : Nat × Option Nat := (fk 0 o.a 0 o.n, none)

def FdefArgs.dec (w : Nat) (x : Option Nat) : Except DecodeErr FdefArgs :=
  let o : FdefArgs := ⟨w % 0x1000, fSa w⟩
  accept o o.ok o.enc w x

def FrelArgs.enc (o : FrelArgs) : Nat × Option Nat := (fk 0 0 0 o.n, none)

def FrelArgs.dec (w : Nat) (x : Option Nat) : Except DecodeErr FrelArgs :=
  let o : FrelArgs := ⟨w % 0x1000⟩
  accept o o.ok o.enc w x

def RinitArgs.enc (o : RinitArgs) : Nat × Option Nat := (fk o.k o.a 0 0, none)

def RinitArgs.dec (w : Nat) (x : Option Nat) : Except DecodeErr RinitArgs :=
  let o : RinitArgs := ⟨fDst w, fSa w⟩
  accept o o.ok o.enc w x

def CwaitArgs.enc (o : CwaitArgs) : Nat × Option Nat := (fk 0 o.t.field 0 o.c, o.t.pay)

def CwaitArgs.dec (w : Nat) (x : Option Nat) : Except DecodeErr CwaitArgs :=
  let o : CwaitArgs := ⟨w % 0x1000, RegImm.dec (fSa w) x⟩
  accept o o.ok o.enc w x

def CwaitNbArgs.enc (o : CwaitNbArgs) : Nat × Option Nat := (fk o.p o.t.field 1 o.c, o.t.pay)

def CwaitNbArgs.dec (w : Nat) (x : Option Nat) : Except DecodeErr CwaitNbArgs :=
  let o : CwaitNbArgs := ⟨fDst w, w % 0x1000, RegImm.dec (fSa w) x⟩
  accept o o.ok o.enc w x

def CsigArgs.enc (o : CsigArgs) : Nat × Option Nat := (fk 0 o.v.field 0 o.c, o.v.pay)

def CsigArgs.dec (w : Nat) (x : Option Nat) : Except DecodeErr CsigArgs :=
  let o : CsigArgs := ⟨w % 0x1000, RegImm.dec (fSa w) x⟩
  accept o o.ok o.enc w x

def CsigRArgs.enc (o : CsigRArgs) : Nat × Option Nat := (fk o.g o.v.field 1 o.c, o.v.pay)

def CsigRArgs.dec (w : Nat) (x : Option Nat) : Except DecodeErr CsigRArgs :=
  let o : CsigRArgs := ⟨w % 0x1000, RegImm.dec (fSa w) x, fDst w⟩
  accept o o.ok o.enc w x

def CrdArgs.enc (o : CrdArgs) : Nat × Option Nat := (fk o.d 0 0 o.c, none)

def CrdArgs.dec (w : Nat) (x : Option Nat) : Except DecodeErr CrdArgs :=
  let o : CrdArgs := ⟨fDst w, w % 0x1000⟩
  accept o o.ok o.enc w x

def TagwArgs.enc (o : TagwArgs) : Nat × Option Nat := (fk 0 o.g o.all.toNat 0, none)

def TagwArgs.dec (w : Nat) (x : Option Nat) : Except DecodeErr TagwArgs :=
  let o : TagwArgs := ⟨fSa w, bit w 12⟩
  accept o o.ok o.enc w x

def TagwNbArgs.enc (o : TagwNbArgs) : Nat × Option Nat := (fk 0 o.g (2 + o.all.toNat) o.p, none)

def TagwNbArgs.dec (w : Nat) (x : Option Nat) : Except DecodeErr TagwNbArgs :=
  let o : TagwNbArgs := ⟨w % 0x1000, fSa w, bit w 12⟩
  accept o o.ok o.enc w x

def TagffArgs.enc (o : TagffArgs) : Nat × Option Nat := (fk o.d o.g 0 0, none)

def TagffArgs.dec (w : Nat) (x : Option Nat) : Except DecodeErr TagffArgs :=
  let o : TagffArgs := ⟨fDst w, fSa w⟩
  accept o o.ok o.enc w x

def TagclrArgs.enc (o : TagclrArgs) : Nat × Option Nat := (fk 0 o.g 0 0, none)

def TagclrArgs.dec (w : Nat) (x : Option Nat) : Except DecodeErr TagclrArgs :=
  let o : TagclrArgs := ⟨fSa w⟩
  accept o o.ok o.enc w x

def KmodeArgs.enc (o : KmodeArgs) : Nat × Option Nat := (fk 0 0 0 (o.cls.code + 4 * o.rm.code), none)

def KmodeArgs.dec (w : Nat) (x : Option Nat) : Except DecodeErr KmodeArgs :=
  operand (EngClass.ofCode (w % 4)) fun c =>
  operand (RoundMode.ofCode (w / 4 % 0x400)) fun r =>
  let o : KmodeArgs := ⟨c, r⟩
  accept o o.ok o.enc w x

def KqryStArgs.enc (o : KqryStArgs) : Nat × Option Nat := (fk o.d o.g 0 0, none)

def KqryStArgs.dec (w : Nat) (x : Option Nat) : Except DecodeErr KqryStArgs :=
  let o : KqryStArgs := ⟨fDst w, fSa w⟩
  accept o o.ok o.enc w x

def KqryOccArgs.enc (o : KqryOccArgs) : Nat × Option Nat := (fk o.d 0 1 0, none)

def KqryOccArgs.dec (w : Nat) (x : Option Nat) : Except DecodeErr KqryOccArgs :=
  let o : KqryOccArgs := ⟨fDst w⟩
  accept o o.ok o.enc w x

def KqryVerArgs.enc (o : KqryVerArgs) : Nat × Option Nat := (fk o.d 0 2 o.n, none)

def KqryVerArgs.dec (w : Nat) (x : Option Nat) : Except DecodeErr KqryVerArgs :=
  let o : KqryVerArgs := ⟨fDst w, w % 0x1000⟩
  accept o o.ok o.enc w x

def NestArgs.enc (o : NestArgs) : Nat × Option Nat := (fk o.ap o.ar 0 o.p, none)

def NestArgs.dec (w : Nat) (x : Option Nat) : Except DecodeErr NestArgs :=
  let o : NestArgs := ⟨w % 0x1000, fDst w, fSa w⟩
  accept o o.ok o.enc w x

def SettagArgs.enc (o : SettagArgs) : Nat × Option Nat := (fk 0 o.t.field 0 0, o.t.pay)

def SettagArgs.dec (w : Nat) (x : Option Nat) : Except DecodeErr SettagArgs :=
  let o : SettagArgs := ⟨RegImm.dec (fSa w) x⟩
  accept o o.ok o.enc w x

def CsrrArgs.enc (o : CsrrArgs) : Nat × Option Nat := (fk o.d 0 0 o.csr, none)

def CsrrArgs.dec (w : Nat) (x : Option Nat) : Except DecodeErr CsrrArgs :=
  let o : CsrrArgs := ⟨fDst w, w % 0x1000⟩
  accept o o.ok o.enc w x

def CsrwArgs.enc (o : CsrwArgs) : Nat × Option Nat := (fk 0 o.v.field 0 o.csr, o.v.pay)

def CsrwArgs.dec (w : Nat) (x : Option Nat) : Except DecodeErr CsrwArgs :=
  let o : CsrwArgs := ⟨w % 0x1000, RegImm.dec (fSa w) x⟩
  accept o o.ok o.enc w x

def CsrxArgs.enc (o : CsrxArgs) : Nat × Option Nat := (fk o.d o.s 0 o.csr, none)

def CsrxArgs.dec (w : Nat) (x : Option Nat) : Except DecodeErr CsrxArgs :=
  let o : CsrxArgs := ⟨fDst w, w % 0x1000, fSa w⟩
  accept o o.ok o.enc w x

def YieldFArgs.enc (o : YieldFArgs) : Nat × Option Nat := (fk o.p 0 1 0, none)

def YieldFArgs.dec (w : Nat) (x : Option Nat) : Except DecodeErr YieldFArgs :=
  let o : YieldFArgs := ⟨fDst w⟩
  accept o o.ok o.enc w x

def XlateRArgs.enc (o : XlateRArgs) : Nat × Option Nat := (fk o.p o.a 0 0, none)

def XlateRArgs.dec (w : Nat) (x : Option Nat) : Except DecodeErr XlateRArgs :=
  let o : XlateRArgs := ⟨fDst w, fSa w⟩
  accept o o.ok o.enc w x

def XlateWArgs.enc (o : XlateWArgs) : Nat × Option Nat := (fk o.p o.a 1 0, none)

def XlateWArgs.dec (w : Nat) (x : Option Nat) : Except DecodeErr XlateWArgs :=
  let o : XlateWArgs := ⟨fDst w, fSa w⟩
  accept o o.ok o.enc w x

def XlatePArgs.enc (o : XlatePArgs) : Nat × Option Nat := (fk o.d o.a 2 0, none)

def XlatePArgs.dec (w : Nat) (x : Option Nat) : Except DecodeErr XlatePArgs :=
  let o : XlatePArgs := ⟨fDst w, fSa w⟩
  accept o o.ok o.enc w x

def TrapArgs.enc (o : TrapArgs) : Nat × Option Nat := (fk 0 0 0 o.code, none)

def TrapArgs.dec (w : Nat) (x : Option Nat) : Except DecodeErr TrapArgs :=
  let o : TrapArgs := ⟨w % 0x1000⟩
  accept o o.ok o.enc w x

def Form1Args.enc (_o : Form1Args) : Nat × Option Nat := (fk 0 0 1 0, none)

def Form1Args.dec (w : Nat) (x : Option Nat) : Except DecodeErr Form1Args :=
  let o : Form1Args := ⟨⟩
  accept o o.ok o.enc w x

def RettResArgs.enc (o : RettResArgs) : Nat × Option Nat := (fk o.g 0 2 0, none)

def RettResArgs.dec (w : Nat) (x : Option Nat) : Except DecodeErr RettResArgs :=
  let o : RettResArgs := ⟨fDst w⟩
  accept o o.ok o.enc w x

def RettRefArgs.enc (o : RettRefArgs) : Nat × Option Nat := (fk o.g 0 3 0, none)

def RettRefArgs.dec (w : Nat) (x : Option Nat) : Except DecodeErr RettRefArgs :=
  let o : RettRefArgs := ⟨fDst w⟩
  accept o o.ok o.enc w x

def ChkArgs.enc (o : ChkArgs) : Nat × Option Nat := (fk o.g 0 0 0, none)

def ChkArgs.dec (w : Nat) (x : Option Nat) : Except DecodeErr ChkArgs :=
  let o : ChkArgs := ⟨fDst w⟩
  accept o o.ok o.enc w x

def ChkQArgs.enc (o : ChkQArgs) : Nat × Option Nat := (fk o.q 0 1 0, none)

def ChkQArgs.dec (w : Nat) (x : Option Nat) : Except DecodeErr ChkQArgs :=
  let o : ChkQArgs := ⟨fDst w⟩
  accept o o.ok o.enc w x

def ChkNbArgs.enc (o : ChkNbArgs) : Nat × Option Nat := (fk o.g 0 2 o.p, none)

def ChkNbArgs.dec (w : Nat) (x : Option Nat) : Except DecodeErr ChkNbArgs :=
  let o : ChkNbArgs := ⟨w % 0x1000, fDst w⟩
  accept o o.ok o.enc w x

def AbortReqArgs.enc (o : AbortReqArgs) : Nat × Option Nat := (fk 0 0 1 o.code, none)

def AbortReqArgs.dec (w : Nat) (x : Option Nat) : Except DecodeErr AbortReqArgs :=
  let o : AbortReqArgs := ⟨w % 0x1000⟩
  accept o o.ok o.enc w x

def FshareArgs.enc (o : FshareArgs) : Nat × Option Nat := (fk 0 0 0 o.n, none)

def FshareArgs.dec (w : Nat) (x : Option Nat) : Except DecodeErr FshareArgs :=
  let o : FshareArgs := ⟨w % 0x1000⟩
  accept o o.ok o.enc w x

def FwswapArgs.enc (o : FwswapArgs) : Nat × Option Nat := (fk 0 o.a 0 o.p, none)

def FwswapArgs.dec (w : Nat) (x : Option Nat) : Except DecodeErr FwswapArgs :=
  let o : FwswapArgs := ⟨w % 0x1000, fSa w⟩
  accept o o.ok o.enc w x

def PtwArgs.enc (o : PtwArgs) : Nat × Option Nat := (fk o.ae o.av 0 0, none)

def PtwArgs.dec (w : Nat) (x : Option Nat) : Except DecodeErr PtwArgs :=
  let o : PtwArgs := ⟨fDst w, fSa w⟩
  accept o o.ok o.enc w x

def PtwNbArgs.enc (o : PtwNbArgs) : Nat × Option Nat := (fk o.ae o.av 1 o.p, none)

def PtwNbArgs.dec (w : Nat) (x : Option Nat) : Except DecodeErr PtwNbArgs :=
  let o : PtwNbArgs := ⟨w % 0x1000, fDst w, fSa w⟩
  accept o o.ok o.enc w x

def TlbiVaArgs.enc (o : TlbiVaArgs) : Nat × Option Nat := (fk o.a o.g 0 o.vd, none)

def TlbiVaArgs.dec (w : Nat) (x : Option Nat) : Except DecodeErr TlbiVaArgs :=
  let o : TlbiVaArgs := ⟨w % 0x1000, fDst w, fSa w⟩
  accept o o.ok o.enc w x

def TlbiVdArgs.enc (o : TlbiVdArgs) : Nat × Option Nat := (fk 0 0 1 o.vd, none)

def TlbiVdArgs.dec (w : Nat) (x : Option Nat) : Except DecodeErr TlbiVdArgs :=
  let o : TlbiVdArgs := ⟨w % 0x1000⟩
  accept o o.ok o.enc w x

def Form2Args.enc (_o : Form2Args) : Nat × Option Nat := (fk 0 0 2 0, none)

def Form2Args.dec (w : Nat) (x : Option Nat) : Except DecodeErr Form2Args :=
  let o : Form2Args := ⟨⟩
  accept o o.ok o.enc w x

def PurgeArgs.enc (o : PurgeArgs) : Nat × Option Nat := (fk o.g 0 0 0, none)

def PurgeArgs.dec (w : Nat) (x : Option Nat) : Except DecodeErr PurgeArgs :=
  let o : PurgeArgs := ⟨fDst w⟩
  accept o o.ok o.enc w x

def PurgeClrArgs.enc (o : PurgeClrArgs) : Nat × Option Nat := (fk o.g 0 2 0, none)

def PurgeClrArgs.dec (w : Nat) (x : Option Nat) : Except DecodeErr PurgeClrArgs :=
  let o : PurgeClrArgs := ⟨fDst w⟩
  accept o o.ok o.enc w x

def ShrdArgs.enc (o : ShrdArgs) : Nat × Option Nat := (fk 0 o.a 0 0, none)

def ShrdArgs.dec (w : Nat) (x : Option Nat) : Except DecodeErr ShrdArgs :=
  let o : ShrdArgs := ⟨fSa w⟩
  accept o o.ok o.enc w x

def FrzArmArgs.enc (o : FrzArmArgs) : Nat × Option Nat := (fk o.g o.a 0 o.p, none)

def FrzArmArgs.dec (w : Nat) (x : Option Nat) : Except DecodeErr FrzArmArgs :=
  let o : FrzArmArgs := ⟨w % 0x1000, fDst w, fSa w⟩
  accept o o.ok o.enc w x

def FrzResArgs.enc (o : FrzResArgs) : Nat × Option Nat := (fk o.g o.a 3 o.p, none)

def FrzResArgs.dec (w : Nat) (x : Option Nat) : Except DecodeErr FrzResArgs :=
  let o : FrzResArgs := ⟨w % 0x1000, fDst w, fSa w⟩
  accept o o.ok o.enc w x

def FrzDirtyArgs.enc (o : FrzDirtyArgs) : Nat × Option Nat := (fk o.g o.a 4 o.p, none)

def FrzDirtyArgs.dec (w : Nat) (x : Option Nat) : Except DecodeErr FrzDirtyArgs :=
  let o : FrzDirtyArgs := ⟨w % 0x1000, fDst w, fSa w⟩
  accept o o.ok o.enc w x

def FrzYArgs.enc (o : FrzYArgs) : Nat × Option Nat := (fk o.g 0 1 o.p, none)

def FrzYArgs.dec (w : Nat) (x : Option Nat) : Except DecodeErr FrzYArgs :=
  let o : FrzYArgs := ⟨w % 0x1000, fDst w⟩
  accept o o.ok o.enc w x

def FrzArgs.enc (o : FrzArgs) : Nat × Option Nat := (fk o.g 0 2 o.p, none)

def FrzArgs.dec (w : Nat) (x : Option Nat) : Except DecodeErr FrzArgs :=
  let o : FrzArgs := ⟨w % 0x1000, fDst w⟩
  accept o o.ok o.enc w x

def FrzGoArgs.enc (o : FrzGoArgs) : Nat × Option Nat := (fk o.g 0 5 o.p, none)

def FrzGoArgs.dec (w : Nat) (x : Option Nat) : Except DecodeErr FrzGoArgs :=
  let o : FrzGoArgs := ⟨w % 0x1000, fDst w⟩
  accept o o.ok o.enc w x

def FrzDisArgs.enc (o : FrzDisArgs) : Nat × Option Nat := (fk o.g 0 6 0, none)

def FrzDisArgs.dec (w : Nat) (x : Option Nat) : Except DecodeErr FrzDisArgs :=
  let o : FrzDisArgs := ⟨fDst w⟩
  accept o o.ok o.enc w x

def MmaArgs.enc (o : MmaArgs) : Nat × Option Nat := (fe o.t (o.ka + 8 * o.kb) o.k1 o.fmt.code (o.keep.toNat + 2 * o.ta.toNat + 4 * o.tb.toNat), none)

def MmaArgs.dec (w : Nat) (x : Option Nat) : Except DecodeErr MmaArgs :=
  operand (MFmt.ofCode (w / 16 % 16)) fun c =>
  let o : MmaArgs := ⟨fDst w, fSa w % 8, fSa w / 8, fSb w, bit w 0, bit w 1, bit w 2, c⟩
  accept o o.ok o.enc w x

def MblkArgs.enc (o : MblkArgs) : Nat × Option Nat := (fe o.t (o.ka + 8 * o.kb) o.k1 o.fmt.code (o.keep.toNat + 4), none)

def MblkArgs.dec (w : Nat) (x : Option Nat) : Except DecodeErr MblkArgs :=
  operand (MFmt.ofCode (w / 16 % 16)) fun c =>
  let o : MblkArgs := ⟨fDst w, fSa w % 8, fSa w / 8, fSb w, bit w 0, c⟩
  accept o o.ok o.enc w x

def ScaccArgs.enc (o : ScaccArgs) : Nat × Option Nat := (fe o.td o.ts (o.nb1 + 32 * o.aa) o.fmt.code o.ab, none)

def ScaccArgs.dec (w : Nat) (x : Option Nat) : Except DecodeErr ScaccArgs :=
  operand (MFmt.ofCode (w / 16 % 16)) fun c =>
  let o : ScaccArgs := ⟨fDst w, fSa w, fSb w % 32, fSb w / 32, w % 16, c⟩
  accept o o.ok o.enc w x

def AzeroArgs.enc (o : AzeroArgs) : Nat × Option Nat := (fe o.t 0 0 0 0, none)

def AzeroArgs.dec (w : Nat) (x : Option Nat) : Except DecodeErr AzeroArgs :=
  let o : AzeroArgs := ⟨fDst w⟩
  accept o o.ok o.enc w x

def AloadArgs.enc (o : AloadArgs) : Nat × Option Nat := (fe o.t o.a (o.stride.getD 0) 0 o.stride.isSome.toNat, none)

def AloadArgs.dec (w : Nat) (x : Option Nat) : Except DecodeErr AloadArgs :=
  let o : AloadArgs := ⟨fDst w, fSa w, if bit w 0 then some (fSb w) else none⟩
  accept o o.ok o.enc w x

def AstoreArgs.enc (o : AstoreArgs) : Nat × Option Nat := (fe o.t o.a (o.stride.getD 0) o.fmt.code (o.stride.isSome.toNat + 2 * o.sat.toNat + 4 * o.i.toNat), none)

def AstoreArgs.dec (w : Nat) (x : Option Nat) : Except DecodeErr AstoreArgs :=
  operand (StFmt.ofCode (w / 16 % 16)) fun c =>
  let o : AstoreArgs := ⟨fDst w, fSa w, if bit w 0 then some (fSb w) else none, bit w 1, bit w 2, c⟩
  accept o o.ok o.enc w x

def AcopyArgs.enc (o : AcopyArgs) : Nat × Option Nat := (fe o.td o.ts 0 0 0, none)

def AcopyArgs.dec (w : Nat) (x : Option Nat) : Except DecodeErr AcopyArgs :=
  let o : AcopyArgs := ⟨fDst w, fSa w⟩
  accept o o.ok o.enc w x

def RpopArgs.enc (o : RpopArgs) : Nat × Option Nat := (fe o.k o.n1 0 0 0, none)

def RpopArgs.dec (w : Nat) (x : Option Nat) : Except DecodeErr RpopArgs :=
  let o : RpopArgs := ⟨fDst w, fSa w⟩
  accept o o.ok o.enc w x

def XposeArgs.enc (o : XposeArgs) : Nat × Option Nat := (fe o.dst.field o.a o.g o.w.code 0, none)

def XposeArgs.dec (w : Nat) (x : Option Nat) : Except DecodeErr XposeArgs :=
  operand (XWidth.ofCode (w / 16 % 16)) fun c =>
  let o : XposeArgs := ⟨XDst.dec w, fSa w, fSb w, c⟩
  accept o o.ok o.enc w x

def XreqArgs.enc (o : XreqArgs) : Nat × Option Nat := (fe o.dst.field o.a o.g o.fmt.code 0, none)

def XreqArgs.dec (w : Nat) (x : Option Nat) : Except DecodeErr XreqArgs :=
  operand (QFmt.ofCode (w / 16 % 16)) fun c =>
  let o : XreqArgs := ⟨XDst.dec w, fSa w, fSb w, c⟩
  accept o o.ok o.enc w x

def XlayArgs.enc (o : XlayArgs) : Nat × Option Nat := (fe o.dst.field o.a o.g (o.frm.code + 4 * o.dto.code) 0, none)

def XlayArgs.dec (w : Nat) (x : Option Nat) : Except DecodeErr XlayArgs :=
  operand (Layout.ofCode (w / 16 % 4)) fun c =>
  operand (Layout.ofCode (w / 64 % 4)) fun t =>
  let o : XlayArgs := ⟨XDst.dec w, fSa w, fSb w, c, t⟩
  accept o o.ok o.enc w x

def CopyArgs.enc (o : CopyArgs) : Nat × Option Nat := (fe (ctField o.ct o.te) o.a 0 0 o.l.toNat, none)

def CopyArgs.dec (w : Nat) (x : Option Nat) : Except DecodeErr CopyArgs :=
  let o : CopyArgs := ⟨fDst w % 64, bit w 30, fSa w, bit w 0⟩
  accept o o.ok o.enc w x

def CopygArgs.enc (o : CopygArgs) : Nat × Option Nat := (fe (ctField o.ct o.te) o.a o.ai 0 o.l.toNat, none)

def CopygArgs.dec (w : Nat) (x : Option Nat) : Except DecodeErr CopygArgs :=
  let o : CopygArgs := ⟨fDst w % 64, bit w 30, fSa w, fSb w, bit w 0⟩
  accept o o.ok o.enc w x

def CfillArgs.enc (o : CfillArgs) : Nat × Option Nat := (fe (ctField o.ct o.te) o.a o.g 0 o.l.toNat, none)

def CfillArgs.dec (w : Nat) (x : Option Nat) : Except DecodeErr CfillArgs :=
  let o : CfillArgs := ⟨fDst w % 64, bit w 30, fSa w, fSb w, bit w 0⟩
  accept o o.ok o.enc w x

def CredArgs.enc (o : CredArgs) : Nat × Option Nat := (fe (ctField o.ct o.te) o.a 0 o.op.code o.l.toNat, none)

def CredArgs.dec (w : Nat) (x : Option Nat) : Except DecodeErr CredArgs :=
  operand (CredOp.ofCode (w / 16 % 16)) fun c =>
  let o : CredArgs := ⟨fDst w % 64, bit w 30, fSa w, bit w 0, c⟩
  accept o o.ok o.enc w x

/-- The decoder of opcodes 0x00 to 0x25 (R73). -/
def decodeScalar (h : Hdr) (op w : Nat) (x : Option Nat) : Except DecodeErr Instr :=
  match op with
  | 0x00 => if h.nopOk then (NoArgs.dec w x).map (Instr.nop h) else .error .reserved
  | 0x01 => (BinArgs.dec w x).map (Instr.add h)
  | 0x02 => (BinArgs.dec w x).map (Instr.sub h)
  | 0x03 => (BinArgs.dec w x).map (Instr.mul h)
  | 0x04 => (BinZArgs.dec w x).map (Instr.mulh h)
  | 0x05 => (BinZArgs.dec w x).map (Instr.div h)
  | 0x06 => (BinZArgs.dec w x).map (Instr.rem h)
  | 0x07 => (BinArgs.dec w x).map (Instr.and h)
  | 0x08 => (BinArgs.dec w x).map (Instr.or h)
  | 0x09 => (BinArgs.dec w x).map (Instr.xor h)
  | 0x0A => (BinArgs.dec w x).map (Instr.andn h)
  | 0x0B => (BinArgs.dec w x).map (Instr.shl h)
  | 0x0C => (BinArgs.dec w x).map (Instr.shr h)
  | 0x0D => (BinArgs.dec w x).map (Instr.sar h)
  | 0x0E => (BinArgs.dec w x).map (Instr.rot h)
  | 0x0F => (BinZArgs.dec w x).map (Instr.min h)
  | 0x10 => (BinZArgs.dec w x).map (Instr.max h)
  | 0x11 => (UnArgs.dec w x).map (Instr.abs h)
  | 0x12 => (UnArgs.dec w x).map (Instr.clz h)
  | 0x13 => (UnArgs.dec w x).map (Instr.ctz h)
  | 0x14 => (UnArgs.dec w x).map (Instr.popc h)
  | 0x15 => (UnArgs.dec w x).map (Instr.brev h)
  | 0x16 => (BfxArgs.dec w x).map (Instr.bfx h)
  | 0x17 => (BfiArgs.dec w x).map (Instr.bfi h)
  | 0x18 => (BinZArgs.dec w x).map (Instr.adds h)
  | 0x19 => (BinZArgs.dec w x).map (Instr.subs h)
  | 0x1A => (SelArgs.dec w x).map (Instr.sel h)
  | 0x1B => (MovArgs.dec w x).map (Instr.mov h)
  | 0x1C => (MoviArgs.dec w x).map (Instr.movi h)
  | 0x1D => (MovxArgs.dec w x).map (Instr.movx h)
  | 0x1E => (CmpArgs.dec w x).map (Instr.cmp h)
  | 0x1F => (PlogArgs.dec w x).map (Instr.plog h)
  | 0x20 => (PmovArgs.dec w x).map (Instr.pmov h)
  | 0x21 => (AaddArgs.dec w x).map (Instr.aadd h)
  | 0x22 => (AleaArgs.dec w x).map (Instr.alea h)
  | 0x23 => (AmovArgs.dec w x).map (Instr.amov h)
  | 0x24 => (AgetArgs.dec w x).map (Instr.aget h)
  | 0x25 => (AcmpArgs.dec w x).map (Instr.acmp h)
  | _ => .error .unassigned

/-- The decoder of opcodes 0x28 to 0x33 (R73). -/
def decodeFp (h : Hdr) (op w : Nat) (x : Option Nat) : Except DecodeErr Instr :=
  match op with
  | 0x28 => (FpArgs.dec w x).map (Instr.fadd h)
  | 0x29 => (FpArgs.dec w x).map (Instr.fsub h)
  | 0x2A => (FpArgs.dec w x).map (Instr.fmul h)
  | 0x2B => (FmaArgs.dec w x).map (Instr.fma h)
  | 0x2C => (FminArgs.dec w x).map (Instr.fmin h)
  | 0x2D => (FminArgs.dec w x).map (Instr.fmax h)
  | 0x2E => (FpArgs.dec w x).map (Instr.fdiv h)
  | 0x2F => (FsqrtArgs.dec w x).map (Instr.fsqrt h)
  | 0x30 => (FcmpArgs.dec w x).map (Instr.fcmp h)
  | 0x31 => (FcvtArgs.dec w x).map (Instr.fcvt h)
  | 0x32 => (FsgnArgs.dec w x).map (Instr.fsgn h)
  | 0x33 => (FclsArgs.dec w x).map (Instr.fcls h)
  | _ => .error .unassigned

/-- The decoder of opcodes 0x38 to 0x40 (R73). -/
def decodeFlow (h : Hdr) (op w : Nat) (x : Option Nat) : Except DecodeErr Instr :=
  match op with
  | 0x38 => (PbrArgs.dec w x).map (Instr.pbr h)
  | 0x39 => (PbrgArgs.dec w x).map (Instr.pbrg h)
  | 0x3A => (BrArgs.dec w x).map (Instr.br h)
  | 0x3B => (CallArgs.dec w x).map (Instr.call h)
  | 0x3C => (BrArgs.dec w x).map (Instr.ret h)
  | 0x3D => (LoopArgs.dec w x).map (Instr.loop h)
  | 0x3E => if fFn w = 0 then (LdltArgs.dec w x).map (Instr.ldlt h) else (LdltClrArgs.dec w x).map (Instr.ldltClr h)
  | 0x3F => (LbrkArgs.dec w x).map (Instr.lbrk h)
  | 0x40 => (NoArgs.dec w x).map (Instr.endOp h)
  | _ => .error .unassigned

/-- The decoder of opcodes 0x44 to 0x51 (R73). -/
def decodeLocal (h : Hdr) (op w : Nat) (x : Option Nat) : Except DecodeErr Instr :=
  match op with
  | 0x44 => (LdArgs.dec w x).map (Instr.ld h)
  | 0x45 => (StArgs.dec w x).map (Instr.st h)
  | 0x46 => (LdaArgs.dec w x).map (Instr.lda h)
  | 0x47 => (StaArgs.dec w x).map (Instr.sta h)
  | 0x48 => (FeLdArgs.dec w x).map (Instr.ldfe h)
  | 0x49 => (FeLdArgs.dec w x).map (Instr.ldff h)
  | 0x4A => (FeStArgs.dec w x).map (Instr.stef h)
  | 0x4B => (FeStArgs.dec w x).map (Instr.stff h)
  | 0x4C => (FeLdArgs.dec w x).map (Instr.fest h)
  | 0x4D => (FeStArgs.dec w x).map (Instr.feclr h)
  | 0x4E => (BarrArgs.dec w x).map (Instr.barr h)
  | 0x4F => (BwaitArgs.dec w x).map (Instr.bwait h)
  | 0x50 => (NotifyArgs.dec w x).map (Instr.notify h)
  | 0x51 => (WaitnArgs.dec w x).map (Instr.waitn h)
  | _ => .error .unassigned

/-- The decoder of opcodes 0x54 to 0x6E (R73). -/
def decodeFar (h : Hdr) (op w : Nat) (x : Option Nat) : Except DecodeErr Instr :=
  match op with
  | 0x54 => (QpopArgs.dec w x).map (Instr.qpop h)
  | 0x55 => (QpopArgs.dec w x).map (Instr.qpeek h)
  | 0x56 => (QpushArgs.dec w x).map (Instr.qpush h)
  | 0x57 => (QstatArgs.dec w x).map (Instr.qstat h)
  | 0x58 => (QclrArgs.dec w x).map (Instr.qclr h)
  | 0x59 => (QstArgs.dec w x).map (Instr.qst h)
  | 0x5C => (LdqArgs.dec w x).map (Instr.ldq h)
  | 0x5D => (LdqsArgs.dec w x).map (Instr.ldqs h)
  | 0x5E => (LdqxArgs.dec w x).map (Instr.ldqx h)
  | 0x5F => (StfArgs.dec w x).map (Instr.stf h)
  | 0x60 => (StfsArgs.dec w x).map (Instr.stfs h)
  | 0x61 => (StfxArgs.dec w x).map (Instr.stfx h)
  | 0x62 => (PrefArgs.dec w x).map (Instr.pref h)
  | 0x63 => (CwbArgs.dec w x).map (Instr.cwb h)
  | 0x64 => (CwbArgs.dec w x).map (Instr.cinv h)
  | 0x68 => (AmoArgs.dec w x).map (Instr.amo h)
  | 0x69 => (AcasArgs.dec w x).map (Instr.acas h)
  | 0x6A => (VamoArgs.dec w x).map (Instr.vamo h)
  | 0x6B => (FenceArgs.dec w x).map (Instr.fence h)
  | 0x6C => (XferArgs.dec w x).map (Instr.xfer h)
  | 0x6D => (RclaimArgs.dec w x).map (Instr.rclaim h)
  | 0x6E => (RshareArgs.dec w x).map (Instr.rshare h)
  | _ => .error .unassigned

/-- The decoder of opcodes 0x80 to 0x9D (R73). -/
def decodeVecA (h : Hdr) (op w : Nat) (x : Option Nat) : Except DecodeErr Instr :=
  match op with
  | 0x80 => (VIntArgs.dec w x).map (Instr.vadd h)
  | 0x81 => (VIntArgs.dec w x).map (Instr.vsub h)
  | 0x82 => (VIntArgs.dec w x).map (Instr.vmul h)
  | 0x83 => (VIntZArgs.dec w x).map (Instr.vmulh h)
  | 0x84 => (VMadArgs.dec w x).map (Instr.vmad h)
  | 0x85 => (VIntZArgs.dec w x).map (Instr.vmin h)
  | 0x86 => (VIntZArgs.dec w x).map (Instr.vmax h)
  | 0x87 => (VabsArgs.dec w x).map (Instr.vabs h)
  | 0x88 => (VIntArgs.dec w x).map (Instr.vand h)
  | 0x89 => (VIntArgs.dec w x).map (Instr.vor h)
  | 0x8A => (VIntArgs.dec w x).map (Instr.vxor h)
  | 0x8B => (VIntArgs.dec w x).map (Instr.vshl h)
  | 0x8C => (VIntArgs.dec w x).map (Instr.vshr h)
  | 0x8D => (VIntArgs.dec w x).map (Instr.vsar h)
  | 0x8E => (VIntZArgs.dec w x).map (Instr.vadds h)
  | 0x8F => (VIntZArgs.dec w x).map (Instr.vsubs h)
  | 0x90 => (VcmpArgs.dec w x).map (Instr.vcmp h)
  | 0x91 => (VselArgs.dec w x).map (Instr.vsel h)
  | 0x92 => (VFBinArgs.dec w x).map (Instr.vfadd h)
  | 0x93 => (VFBinArgs.dec w x).map (Instr.vfsub h)
  | 0x94 => (VFBinArgs.dec w x).map (Instr.vfmul h)
  | 0x95 => (VFmaArgs.dec w x).map (Instr.vfma h)
  | 0x96 => (VFBinArgs.dec w x).map (Instr.vfmin h)
  | 0x97 => (VFBinArgs.dec w x).map (Instr.vfmax h)
  | 0x98 => (VFBinArgs.dec w x).map (Instr.vfdiv h)
  | 0x99 => (VFUnArgs.dec w x).map (Instr.vfsqrt h)
  | 0x9A => (VFUnArgs.dec w x).map (Instr.vfexp2 h)
  | 0x9B => (VFUnArgs.dec w x).map (Instr.vflog2 h)
  | 0x9C => (VfcmpArgs.dec w x).map (Instr.vfcmp h)
  | 0x9D => (VfsgnArgs.dec w x).map (Instr.vfsgn h)
  | _ => .error .unassigned

/-- The decoder of opcodes 0x9E to 0xB9 (R73). -/
def decodeVecB (h : Hdr) (op w : Nat) (x : Option Nat) : Except DecodeErr Instr :=
  match op with
  | 0x9E => (VcvtArgs.dec w x).map (Instr.vcvt h)
  | 0x9F => (VqencArgs.dec w x).map (Instr.vqenc h)
  | 0xA0 => (VqdecArgs.dec w x).map (Instr.vqdec h)
  | 0xA1 => (VsclArgs.dec w x).map (Instr.vscl h)
  | 0xA2 => (VredArgs.dec w x).map (Instr.vred h)
  | 0xA3 => (VscanArgs.dec w x).map (Instr.vscan h)
  | 0xA4 => (VpermArgs.dec w x).map (Instr.vperm h)
  | 0xA5 => (VshufArgs.dec w x).map (Instr.vshuf h)
  | 0xA6 => (VbcstArgs.dec w x).map (Instr.vbcst h)
  | 0xA7 => (VextArgs.dec w x).map (Instr.vext h)
  | 0xA8 => (VinsArgs.dec w x).map (Instr.vins h)
  | 0xA9 => (ViotaArgs.dec w x).map (Instr.viota h)
  | 0xAA => (VcmprsArgs.dec w x).map (Instr.vcmprs h)
  | 0xAB => (VcmprsArgs.dec w x).map (Instr.vexpnd h)
  | 0xAC => (VsortArgs.dec w x).map (Instr.vsort h)
  | 0xAD => (VrndArgs.dec w x).map (Instr.vrnd h)
  | 0xAE => (VdotArgs.dec w x).map (Instr.vdot h)
  | 0xAF => (MlogArgs.dec w x).map (Instr.mlog h)
  | 0xB0 => (MpopArgs.dec w x).map (Instr.mpop h)
  | 0xB1 => (MffArgs.dec w x).map (Instr.mff h)
  | 0xB2 => (MmovArgs.dec w x).map (Instr.mmov h)
  | 0xB3 => (VldArgs.dec w x).map (Instr.vld h)
  | 0xB4 => (VldsArgs.dec w x).map (Instr.vlds h)
  | 0xB5 => (VldxArgs.dec w x).map (Instr.vldx h)
  | 0xB6 => (VstArgs.dec w x).map (Instr.vst h)
  | 0xB7 => (StfsArgs.dec w x).map (Instr.vsts h)
  | 0xB8 => (StfxArgs.dec w x).map (Instr.vstx h)
  | 0xB9 => (VmovxArgs.dec w x).map (Instr.vmovx h)
  | _ => .error .unassigned

/-- The decoder of opcodes 0xC0 to 0xE2 (R73). -/
def decodeCtl (h : Hdr) (op w : Nat) (x : Option Nat) : Except DecodeErr Instr :=
  match op with
  | 0xC0 => (PostArgs.dec w x).map (Instr.post h)
  | 0xC1 => (PostxArgs.dec w x).map (Instr.postx h)
  | 0xC2 => (FdefArgs.dec w x).map (Instr.fdef h)
  | 0xC3 => (FrelArgs.dec w x).map (Instr.frel h)
  | 0xC4 => (RinitArgs.dec w x).map (Instr.rinit h)
  | 0xC5 =>
    match w / 0x1000 % 16 with
    | 0 => (CwaitArgs.dec w x).map (Instr.cwait h)
    | _ => (CwaitNbArgs.dec w x).map (Instr.cwaitNb h)
  | 0xC6 =>
    match w / 0x1000 % 16 with
    | 0 => (CsigArgs.dec w x).map (Instr.csig h)
    | _ => (CsigRArgs.dec w x).map (Instr.csigR h)
  | 0xC7 => (CsigArgs.dec w x).map (Instr.cset h)
  | 0xC8 => (CrdArgs.dec w x).map (Instr.crd h)
  | 0xC9 =>
    match w / 0x1000 % 16 with
    | 0 | 1 => (TagwArgs.dec w x).map (Instr.tagw h)
    | _ => (TagwNbArgs.dec w x).map (Instr.tagwNb h)
  | 0xCA => (TagffArgs.dec w x).map (Instr.tagff h)
  | 0xCB => (TagclrArgs.dec w x).map (Instr.tagclr h)
  | 0xCC => (KmodeArgs.dec w x).map (Instr.kmode h)
  | 0xCD =>
    match w / 0x1000 % 16 with
    | 0 => (KqryStArgs.dec w x).map (Instr.kqrySt h)
    | 1 => (KqryOccArgs.dec w x).map (Instr.kqryOcc h)
    | _ => (KqryVerArgs.dec w x).map (Instr.kqryVer h)
  | 0xCE => (NestArgs.dec w x).map (Instr.nest h)
  | 0xCF => (SettagArgs.dec w x).map (Instr.settag h)
  | 0xD0 => (CsrrArgs.dec w x).map (Instr.csrr h)
  | 0xD1 => (CsrwArgs.dec w x).map (Instr.csrw h)
  | 0xD2 => (CsrxArgs.dec w x).map (Instr.csrx h)
  | 0xD3 =>
    match w / 0x1000 % 16 with
    | 0 => (NoArgs.dec w x).map (Instr.yield h)
    | _ => (YieldFArgs.dec w x).map (Instr.yieldF h)
  | 0xD4 => (TrapArgs.dec w x).map (Instr.trap h)
  | 0xD5 =>
    match w / 0x1000 % 16 with
    | 0 => (NoArgs.dec w x).map (Instr.rett h)
    | 1 => (Form1Args.dec w x).map (Instr.rettNx h)
    | 2 => (RettResArgs.dec w x).map (Instr.rettRes h)
    | _ => (RettRefArgs.dec w x).map (Instr.rettRef h)
  | 0xD6 =>
    match w / 0x1000 % 16 with
    | 0 => (ChkArgs.dec w x).map (Instr.chk h)
    | 1 => (ChkQArgs.dec w x).map (Instr.chkQ h)
    | _ => (ChkNbArgs.dec w x).map (Instr.chkNb h)
  | 0xD7 =>
    match w / 0x1000 % 16 with
    | 0 => (TrapArgs.dec w x).map (Instr.abort h)
    | _ => (AbortReqArgs.dec w x).map (Instr.abortReq h)
  | 0xD8 =>
    match w / 0x1000 % 16 with
    | 0 => (XlateRArgs.dec w x).map (Instr.xlateR h)
    | 1 => (XlateWArgs.dec w x).map (Instr.xlateW h)
    | _ => (XlatePArgs.dec w x).map (Instr.xlateP h)
  | 0xDC => (FshareArgs.dec w x).map (Instr.fshare h)
  | 0xDD => (FwswapArgs.dec w x).map (Instr.fwswap h)
  | 0xDE =>
    match w / 0x1000 % 16 with
    | 0 => (PtwArgs.dec w x).map (Instr.ptw h)
    | _ => (PtwNbArgs.dec w x).map (Instr.ptwNb h)
  | 0xDF =>
    match w / 0x1000 % 16 with
    | 0 => (TlbiVaArgs.dec w x).map (Instr.tlbiVa h)
    | 1 => (TlbiVdArgs.dec w x).map (Instr.tlbiVd h)
    | _ => (Form2Args.dec w x).map (Instr.tlbiAll h)
  | 0xE0 =>
    match w / 0x1000 % 16 with
    | 0 => (PurgeArgs.dec w x).map (Instr.purge h)
    | 1 => (Form1Args.dec w x).map (Instr.purgeL h)
    | _ => (PurgeClrArgs.dec w x).map (Instr.purgeClr h)
  | 0xE1 => (ShrdArgs.dec w x).map (Instr.shrd h)
  | 0xE2 =>
    match w / 0x1000 % 16 with
    | 0 => (FrzArmArgs.dec w x).map (Instr.frzArm h)
    | 1 => (FrzYArgs.dec w x).map (Instr.frzY h)
    | 2 => (FrzArgs.dec w x).map (Instr.frz h)
    | 3 => (FrzResArgs.dec w x).map (Instr.frzRes h)
    | 4 => (FrzDirtyArgs.dec w x).map (Instr.frzDirty h)
    | 5 => (FrzGoArgs.dec w x).map (Instr.frzGo h)
    | _ => (FrzDisArgs.dec w x).map (Instr.frzDis h)
  | _ => .error .unassigned

/-- The decoder of opcodes 0xE8 to 0xF9 (R73). -/
def decodeEng (h : Hdr) (op w : Nat) (x : Option Nat) : Except DecodeErr Instr :=
  match op with
  | 0xE8 => (MmaArgs.dec w x).map (Instr.mma h)
  | 0xE9 => (MblkArgs.dec w x).map (Instr.mblk h)
  | 0xEA => (ScaccArgs.dec w x).map (Instr.scacc h)
  | 0xEB => (AzeroArgs.dec w x).map (Instr.azero h)
  | 0xEC => (AloadArgs.dec w x).map (Instr.aload h)
  | 0xED => (AstoreArgs.dec w x).map (Instr.astore h)
  | 0xEE => (AcopyArgs.dec w x).map (Instr.acopy h)
  | 0xEF => (RpopArgs.dec w x).map (Instr.rpop h)
  | 0xF0 => (XposeArgs.dec w x).map (Instr.xpose h)
  | 0xF1 => (XreqArgs.dec w x).map (Instr.xreq h)
  | 0xF2 => (XlayArgs.dec w x).map (Instr.xlay h)
  | 0xF4 => (CopyArgs.dec w x).map (Instr.copy h)
  | 0xF5 => (CopygArgs.dec w x).map (Instr.copyg h)
  | 0xF6 => (CopygArgs.dec w x).map (Instr.copys h)
  | 0xF7 => (CfillArgs.dec w x).map (Instr.cfill h)
  | 0xF8 => (CredArgs.dec w x).map (Instr.cred h)
  | 0xF9 => (CfillArgs.dec w x).map (Instr.cland h)
  | _ => .error .unassigned

/-- The decoder of one instruction from its header, opcode, operand bits and extension payload: the operand forms of
the opcode map (R73), or the reason of rejection (R75). -/
def decodeOp (h : Hdr) (op w : Nat) (x : Option Nat) : Except DecodeErr Instr :=
  if op < 0x28 then decodeScalar h op w x
  else if op < 0x38 then decodeFp h op w x
  else if op < 0x44 then decodeFlow h op w x
  else if op < 0x54 then decodeLocal h op w x
  else if op < 0x80 then decodeFar h op w x
  else if op < 0x9E then decodeVecA h op w x
  else if op < 0xC0 then decodeVecB h op w x
  else if op < 0xE8 then decodeCtl h op w x
  else decodeEng h op w x

/-- The header of a 48-bit syllable (R63). -/
def sylHdr (s : Nat) : Hdr :=
  ⟨s / 0x400000000000 % 4, s / 0x200000000000 % 2, s / 0x80000000000 % 2, s / 0x10000000000 % 8⟩

/-- The X bit and the opcode of a syllable (R63). -/
def sylX (s : Nat) : Bool := s / 0x100000000000 % 2 == 1
def sylOp (s : Nat) : Nat := s / 0x100000000 % 256

/-- Decode a syllable with the payload of its extension, which is present exactly if X = 1 (R64). -/
def decodeSyl (s : Nat) (x : Option Nat) : Except DecodeErr Instr :=
  if (sylHdr s).ok then
    if sylX s == x.isSome then decodeOp (sylHdr s) (sylOp s) (s % 0x100000000) x else .error .truncated
  else .error .header

/-- The number that bytes hold, the first byte least significant (R3). -/
def bytesNat : List (BitVec 8) → Nat
  | [] => 0
  | b :: bs => b.toNat + 256 * bytesNat bs

/-- The `n` bytes of a number, least significant first (R3). -/
def natBytes : Nat → Nat → List (BitVec 8)
  | 0, _ => []
  | n + 1, v => BitVec.ofNat 8 v :: natBytes n (v / 256)

/-- Decode the instruction at the head of any bytes: six bytes of syllable, six more of extension if X = 1 (R58, R64).
The answer holds the bytes that follow. Bytes that are no instruction are rejected by name. -/
def decode (bs : List (BitVec 8)) : Except DecodeErr (Instr × List (BitVec 8)) :=
  if bs.length < 6 then .error .truncated
  else
    let s := bytesNat (bs.take 6)
    if sylX s then
      if bs.length < 12 then .error .truncated
      else (decodeSyl s (some (bytesNat ((bs.drop 6).take 6)))).map fun i => (i, bs.drop 12)
    else (decodeSyl s none).map fun i => (i, bs.drop 6)

/-- The syllable as an instruction of `Instr`: what `decodeSyl` reads, or `UNASSIGNED_OPCODE` with the offending
syllable, which raises ILLEGAL_OP (R75). -/
def decodeTotal (s : Nat) (x : Option Nat) : Instr :=
  match decodeSyl s x with
  | .ok i => i
  | .error _ => .unassignedOpcode s

/-- The decoder on a table word: `w` holds the syllable in bits 47:0 and an extension in bits 95:48; the bits above
`nbits` are zero. It lays the words out in memory order and decodes the bytes. -/
def decodeTableWord (nbits w : Nat) : Option Instr :=
  match decode (natBytes 12 (w % 2 ^ nbits)) with
  | .ok (i, _) => some i
  | .error .truncated => none
  | .error _ => some (.unassignedOpcode (w % 2 ^ nbits % 0x1000000000000))

/-! ## The encoder -/

/-- An encoded instruction before its fields are packed. -/
structure Syl where
  h : Hdr
  op : Nat
  w : Nat
  x : Option Nat
deriving DecidableEq, Repr

/-- The 48-bit syllable (R63). -/
def Syl.word (y : Syl) : Nat :=
  y.h.prot * 0x400000000000 + y.h.slot * 0x200000000000 + y.x.isSome.toNat * 0x100000000000 +
    y.h.gneg * 0x80000000000 + y.h.gp * 0x10000000000 + y.op * 0x100000000 + y.w

/-- The header, the major opcode, the operand bits and the extension payload of an encoded instruction (R63, R73). -/
def Instr.syl : Instr → Option Syl
  | .nop h o => some ⟨h, 0x00, o.enc.1, o.enc.2⟩
  | .add h o => some ⟨h, 0x01, o.enc.1, o.enc.2⟩
  | .sub h o => some ⟨h, 0x02, o.enc.1, o.enc.2⟩
  | .mul h o => some ⟨h, 0x03, o.enc.1, o.enc.2⟩
  | .mulh h o => some ⟨h, 0x04, o.enc.1, o.enc.2⟩
  | .div h o => some ⟨h, 0x05, o.enc.1, o.enc.2⟩
  | .rem h o => some ⟨h, 0x06, o.enc.1, o.enc.2⟩
  | .and h o => some ⟨h, 0x07, o.enc.1, o.enc.2⟩
  | .or h o => some ⟨h, 0x08, o.enc.1, o.enc.2⟩
  | .xor h o => some ⟨h, 0x09, o.enc.1, o.enc.2⟩
  | .andn h o => some ⟨h, 0x0A, o.enc.1, o.enc.2⟩
  | .shl h o => some ⟨h, 0x0B, o.enc.1, o.enc.2⟩
  | .shr h o => some ⟨h, 0x0C, o.enc.1, o.enc.2⟩
  | .sar h o => some ⟨h, 0x0D, o.enc.1, o.enc.2⟩
  | .rot h o => some ⟨h, 0x0E, o.enc.1, o.enc.2⟩
  | .min h o => some ⟨h, 0x0F, o.enc.1, o.enc.2⟩
  | .max h o => some ⟨h, 0x10, o.enc.1, o.enc.2⟩
  | .adds h o => some ⟨h, 0x18, o.enc.1, o.enc.2⟩
  | .subs h o => some ⟨h, 0x19, o.enc.1, o.enc.2⟩
  | .abs h o => some ⟨h, 0x11, o.enc.1, o.enc.2⟩
  | .clz h o => some ⟨h, 0x12, o.enc.1, o.enc.2⟩
  | .ctz h o => some ⟨h, 0x13, o.enc.1, o.enc.2⟩
  | .popc h o => some ⟨h, 0x14, o.enc.1, o.enc.2⟩
  | .brev h o => some ⟨h, 0x15, o.enc.1, o.enc.2⟩
  | .bfx h o => some ⟨h, 0x16, o.enc.1, o.enc.2⟩
  | .bfi h o => some ⟨h, 0x17, o.enc.1, o.enc.2⟩
  | .sel h o => some ⟨h, 0x1A, o.enc.1, o.enc.2⟩
  | .mov h o => some ⟨h, 0x1B, o.enc.1, o.enc.2⟩
  | .movi h o => some ⟨h, 0x1C, o.enc.1, o.enc.2⟩
  | .movx h o => some ⟨h, 0x1D, o.enc.1, o.enc.2⟩
  | .cmp h o => some ⟨h, 0x1E, o.enc.1, o.enc.2⟩
  | .plog h o => some ⟨h, 0x1F, o.enc.1, o.enc.2⟩
  | .pmov h o => some ⟨h, 0x20, o.enc.1, o.enc.2⟩
  | .aadd h o => some ⟨h, 0x21, o.enc.1, o.enc.2⟩
  | .alea h o => some ⟨h, 0x22, o.enc.1, o.enc.2⟩
  | .amov h o => some ⟨h, 0x23, o.enc.1, o.enc.2⟩
  | .aget h o => some ⟨h, 0x24, o.enc.1, o.enc.2⟩
  | .acmp h o => some ⟨h, 0x25, o.enc.1, o.enc.2⟩
  | .fadd h o => some ⟨h, 0x28, o.enc.1, o.enc.2⟩
  | .fsub h o => some ⟨h, 0x29, o.enc.1, o.enc.2⟩
  | .fmul h o => some ⟨h, 0x2A, o.enc.1, o.enc.2⟩
  | .fma h o => some ⟨h, 0x2B, o.enc.1, o.enc.2⟩
  | .fmin h o => some ⟨h, 0x2C, o.enc.1, o.enc.2⟩
  | .fmax h o => some ⟨h, 0x2D, o.enc.1, o.enc.2⟩
  | .fdiv h o => some ⟨h, 0x2E, o.enc.1, o.enc.2⟩
  | .fsqrt h o => some ⟨h, 0x2F, o.enc.1, o.enc.2⟩
  | .fcmp h o => some ⟨h, 0x30, o.enc.1, o.enc.2⟩
  | .fcvt h o => some ⟨h, 0x31, o.enc.1, o.enc.2⟩
  | .fsgn h o => some ⟨h, 0x32, o.enc.1, o.enc.2⟩
  | .fcls h o => some ⟨h, 0x33, o.enc.1, o.enc.2⟩
  | .pbr h o => some ⟨h, 0x38, o.enc.1, o.enc.2⟩
  | .pbrg h o => some ⟨h, 0x39, o.enc.1, o.enc.2⟩
  | .br h o => some ⟨h, 0x3A, o.enc.1, o.enc.2⟩
  | .call h o => some ⟨h, 0x3B, o.enc.1, o.enc.2⟩
  | .ret h o => some ⟨h, 0x3C, o.enc.1, o.enc.2⟩
  | .loop h o => some ⟨h, 0x3D, o.enc.1, o.enc.2⟩
  | .ldlt h o => some ⟨h, 0x3E, o.enc.1, o.enc.2⟩
  | .ldltClr h o => some ⟨h, 0x3E, o.enc.1, o.enc.2⟩
  | .lbrk h o => some ⟨h, 0x3F, o.enc.1, o.enc.2⟩
  | .endOp h o => some ⟨h, 0x40, o.enc.1, o.enc.2⟩
  | .ld h o => some ⟨h, 0x44, o.enc.1, o.enc.2⟩
  | .st h o => some ⟨h, 0x45, o.enc.1, o.enc.2⟩
  | .lda h o => some ⟨h, 0x46, o.enc.1, o.enc.2⟩
  | .sta h o => some ⟨h, 0x47, o.enc.1, o.enc.2⟩
  | .ldfe h o => some ⟨h, 0x48, o.enc.1, o.enc.2⟩
  | .ldff h o => some ⟨h, 0x49, o.enc.1, o.enc.2⟩
  | .stef h o => some ⟨h, 0x4A, o.enc.1, o.enc.2⟩
  | .stff h o => some ⟨h, 0x4B, o.enc.1, o.enc.2⟩
  | .fest h o => some ⟨h, 0x4C, o.enc.1, o.enc.2⟩
  | .feclr h o => some ⟨h, 0x4D, o.enc.1, o.enc.2⟩
  | .barr h o => some ⟨h, 0x4E, o.enc.1, o.enc.2⟩
  | .bwait h o => some ⟨h, 0x4F, o.enc.1, o.enc.2⟩
  | .notify h o => some ⟨h, 0x50, o.enc.1, o.enc.2⟩
  | .waitn h o => some ⟨h, 0x51, o.enc.1, o.enc.2⟩
  | .qpop h o => some ⟨h, 0x54, o.enc.1, o.enc.2⟩
  | .qpeek h o => some ⟨h, 0x55, o.enc.1, o.enc.2⟩
  | .qpush h o => some ⟨h, 0x56, o.enc.1, o.enc.2⟩
  | .qstat h o => some ⟨h, 0x57, o.enc.1, o.enc.2⟩
  | .qclr h o => some ⟨h, 0x58, o.enc.1, o.enc.2⟩
  | .qst h o => some ⟨h, 0x59, o.enc.1, o.enc.2⟩
  | .ldq h o => some ⟨h, 0x5C, o.enc.1, o.enc.2⟩
  | .ldqs h o => some ⟨h, 0x5D, o.enc.1, o.enc.2⟩
  | .ldqx h o => some ⟨h, 0x5E, o.enc.1, o.enc.2⟩
  | .stf h o => some ⟨h, 0x5F, o.enc.1, o.enc.2⟩
  | .stfs h o => some ⟨h, 0x60, o.enc.1, o.enc.2⟩
  | .stfx h o => some ⟨h, 0x61, o.enc.1, o.enc.2⟩
  | .pref h o => some ⟨h, 0x62, o.enc.1, o.enc.2⟩
  | .cwb h o => some ⟨h, 0x63, o.enc.1, o.enc.2⟩
  | .cinv h o => some ⟨h, 0x64, o.enc.1, o.enc.2⟩
  | .amo h o => some ⟨h, 0x68, o.enc.1, o.enc.2⟩
  | .acas h o => some ⟨h, 0x69, o.enc.1, o.enc.2⟩
  | .vamo h o => some ⟨h, 0x6A, o.enc.1, o.enc.2⟩
  | .fence h o => some ⟨h, 0x6B, o.enc.1, o.enc.2⟩
  | .xfer h o => some ⟨h, 0x6C, o.enc.1, o.enc.2⟩
  | .rclaim h o => some ⟨h, 0x6D, o.enc.1, o.enc.2⟩
  | .rshare h o => some ⟨h, 0x6E, o.enc.1, o.enc.2⟩
  | .vadd h o => some ⟨h, 0x80, o.enc.1, o.enc.2⟩
  | .vsub h o => some ⟨h, 0x81, o.enc.1, o.enc.2⟩
  | .vmul h o => some ⟨h, 0x82, o.enc.1, o.enc.2⟩
  | .vmulh h o => some ⟨h, 0x83, o.enc.1, o.enc.2⟩
  | .vmad h o => some ⟨h, 0x84, o.enc.1, o.enc.2⟩
  | .vmin h o => some ⟨h, 0x85, o.enc.1, o.enc.2⟩
  | .vmax h o => some ⟨h, 0x86, o.enc.1, o.enc.2⟩
  | .vabs h o => some ⟨h, 0x87, o.enc.1, o.enc.2⟩
  | .vand h o => some ⟨h, 0x88, o.enc.1, o.enc.2⟩
  | .vor h o => some ⟨h, 0x89, o.enc.1, o.enc.2⟩
  | .vxor h o => some ⟨h, 0x8A, o.enc.1, o.enc.2⟩
  | .vshl h o => some ⟨h, 0x8B, o.enc.1, o.enc.2⟩
  | .vshr h o => some ⟨h, 0x8C, o.enc.1, o.enc.2⟩
  | .vsar h o => some ⟨h, 0x8D, o.enc.1, o.enc.2⟩
  | .vadds h o => some ⟨h, 0x8E, o.enc.1, o.enc.2⟩
  | .vsubs h o => some ⟨h, 0x8F, o.enc.1, o.enc.2⟩
  | .vcmp h o => some ⟨h, 0x90, o.enc.1, o.enc.2⟩
  | .vsel h o => some ⟨h, 0x91, o.enc.1, o.enc.2⟩
  | .vfadd h o => some ⟨h, 0x92, o.enc.1, o.enc.2⟩
  | .vfsub h o => some ⟨h, 0x93, o.enc.1, o.enc.2⟩
  | .vfmul h o => some ⟨h, 0x94, o.enc.1, o.enc.2⟩
  | .vfma h o => some ⟨h, 0x95, o.enc.1, o.enc.2⟩
  | .vfmin h o => some ⟨h, 0x96, o.enc.1, o.enc.2⟩
  | .vfmax h o => some ⟨h, 0x97, o.enc.1, o.enc.2⟩
  | .vfdiv h o => some ⟨h, 0x98, o.enc.1, o.enc.2⟩
  | .vfsqrt h o => some ⟨h, 0x99, o.enc.1, o.enc.2⟩
  | .vfexp2 h o => some ⟨h, 0x9A, o.enc.1, o.enc.2⟩
  | .vflog2 h o => some ⟨h, 0x9B, o.enc.1, o.enc.2⟩
  | .vfcmp h o => some ⟨h, 0x9C, o.enc.1, o.enc.2⟩
  | .vfsgn h o => some ⟨h, 0x9D, o.enc.1, o.enc.2⟩
  | .vcvt h o => some ⟨h, 0x9E, o.enc.1, o.enc.2⟩
  | .vqenc h o => some ⟨h, 0x9F, o.enc.1, o.enc.2⟩
  | .vqdec h o => some ⟨h, 0xA0, o.enc.1, o.enc.2⟩
  | .vscl h o => some ⟨h, 0xA1, o.enc.1, o.enc.2⟩
  | .vred h o => some ⟨h, 0xA2, o.enc.1, o.enc.2⟩
  | .vscan h o => some ⟨h, 0xA3, o.enc.1, o.enc.2⟩
  | .vperm h o => some ⟨h, 0xA4, o.enc.1, o.enc.2⟩
  | .vshuf h o => some ⟨h, 0xA5, o.enc.1, o.enc.2⟩
  | .vbcst h o => some ⟨h, 0xA6, o.enc.1, o.enc.2⟩
  | .vext h o => some ⟨h, 0xA7, o.enc.1, o.enc.2⟩
  | .vins h o => some ⟨h, 0xA8, o.enc.1, o.enc.2⟩
  | .viota h o => some ⟨h, 0xA9, o.enc.1, o.enc.2⟩
  | .vcmprs h o => some ⟨h, 0xAA, o.enc.1, o.enc.2⟩
  | .vexpnd h o => some ⟨h, 0xAB, o.enc.1, o.enc.2⟩
  | .vsort h o => some ⟨h, 0xAC, o.enc.1, o.enc.2⟩
  | .vrnd h o => some ⟨h, 0xAD, o.enc.1, o.enc.2⟩
  | .vdot h o => some ⟨h, 0xAE, o.enc.1, o.enc.2⟩
  | .mlog h o => some ⟨h, 0xAF, o.enc.1, o.enc.2⟩
  | .mpop h o => some ⟨h, 0xB0, o.enc.1, o.enc.2⟩
  | .mff h o => some ⟨h, 0xB1, o.enc.1, o.enc.2⟩
  | .mmov h o => some ⟨h, 0xB2, o.enc.1, o.enc.2⟩
  | .vld h o => some ⟨h, 0xB3, o.enc.1, o.enc.2⟩
  | .vlds h o => some ⟨h, 0xB4, o.enc.1, o.enc.2⟩
  | .vldx h o => some ⟨h, 0xB5, o.enc.1, o.enc.2⟩
  | .vst h o => some ⟨h, 0xB6, o.enc.1, o.enc.2⟩
  | .vsts h o => some ⟨h, 0xB7, o.enc.1, o.enc.2⟩
  | .vstx h o => some ⟨h, 0xB8, o.enc.1, o.enc.2⟩
  | .vmovx h o => some ⟨h, 0xB9, o.enc.1, o.enc.2⟩
  | .post h o => some ⟨h, 0xC0, o.enc.1, o.enc.2⟩
  | .postx h o => some ⟨h, 0xC1, o.enc.1, o.enc.2⟩
  | .fdef h o => some ⟨h, 0xC2, o.enc.1, o.enc.2⟩
  | .frel h o => some ⟨h, 0xC3, o.enc.1, o.enc.2⟩
  | .rinit h o => some ⟨h, 0xC4, o.enc.1, o.enc.2⟩
  | .cwait h o => some ⟨h, 0xC5, o.enc.1, o.enc.2⟩
  | .cwaitNb h o => some ⟨h, 0xC5, o.enc.1, o.enc.2⟩
  | .csig h o => some ⟨h, 0xC6, o.enc.1, o.enc.2⟩
  | .csigR h o => some ⟨h, 0xC6, o.enc.1, o.enc.2⟩
  | .cset h o => some ⟨h, 0xC7, o.enc.1, o.enc.2⟩
  | .crd h o => some ⟨h, 0xC8, o.enc.1, o.enc.2⟩
  | .tagw h o => some ⟨h, 0xC9, o.enc.1, o.enc.2⟩
  | .tagwNb h o => some ⟨h, 0xC9, o.enc.1, o.enc.2⟩
  | .tagff h o => some ⟨h, 0xCA, o.enc.1, o.enc.2⟩
  | .tagclr h o => some ⟨h, 0xCB, o.enc.1, o.enc.2⟩
  | .kmode h o => some ⟨h, 0xCC, o.enc.1, o.enc.2⟩
  | .kqrySt h o => some ⟨h, 0xCD, o.enc.1, o.enc.2⟩
  | .kqryOcc h o => some ⟨h, 0xCD, o.enc.1, o.enc.2⟩
  | .kqryVer h o => some ⟨h, 0xCD, o.enc.1, o.enc.2⟩
  | .nest h o => some ⟨h, 0xCE, o.enc.1, o.enc.2⟩
  | .settag h o => some ⟨h, 0xCF, o.enc.1, o.enc.2⟩
  | .csrr h o => some ⟨h, 0xD0, o.enc.1, o.enc.2⟩
  | .csrw h o => some ⟨h, 0xD1, o.enc.1, o.enc.2⟩
  | .csrx h o => some ⟨h, 0xD2, o.enc.1, o.enc.2⟩
  | .yield h o => some ⟨h, 0xD3, o.enc.1, o.enc.2⟩
  | .yieldF h o => some ⟨h, 0xD3, o.enc.1, o.enc.2⟩
  | .trap h o => some ⟨h, 0xD4, o.enc.1, o.enc.2⟩
  | .rett h o => some ⟨h, 0xD5, o.enc.1, o.enc.2⟩
  | .rettNx h o => some ⟨h, 0xD5, o.enc.1, o.enc.2⟩
  | .rettRes h o => some ⟨h, 0xD5, o.enc.1, o.enc.2⟩
  | .rettRef h o => some ⟨h, 0xD5, o.enc.1, o.enc.2⟩
  | .chk h o => some ⟨h, 0xD6, o.enc.1, o.enc.2⟩
  | .chkQ h o => some ⟨h, 0xD6, o.enc.1, o.enc.2⟩
  | .chkNb h o => some ⟨h, 0xD6, o.enc.1, o.enc.2⟩
  | .abort h o => some ⟨h, 0xD7, o.enc.1, o.enc.2⟩
  | .abortReq h o => some ⟨h, 0xD7, o.enc.1, o.enc.2⟩
  | .xlateR h o => some ⟨h, 0xD8, o.enc.1, o.enc.2⟩
  | .xlateW h o => some ⟨h, 0xD8, o.enc.1, o.enc.2⟩
  | .xlateP h o => some ⟨h, 0xD8, o.enc.1, o.enc.2⟩
  | .fshare h o => some ⟨h, 0xDC, o.enc.1, o.enc.2⟩
  | .fwswap h o => some ⟨h, 0xDD, o.enc.1, o.enc.2⟩
  | .ptw h o => some ⟨h, 0xDE, o.enc.1, o.enc.2⟩
  | .ptwNb h o => some ⟨h, 0xDE, o.enc.1, o.enc.2⟩
  | .tlbiVa h o => some ⟨h, 0xDF, o.enc.1, o.enc.2⟩
  | .tlbiVd h o => some ⟨h, 0xDF, o.enc.1, o.enc.2⟩
  | .tlbiAll h o => some ⟨h, 0xDF, o.enc.1, o.enc.2⟩
  | .purge h o => some ⟨h, 0xE0, o.enc.1, o.enc.2⟩
  | .purgeL h o => some ⟨h, 0xE0, o.enc.1, o.enc.2⟩
  | .purgeClr h o => some ⟨h, 0xE0, o.enc.1, o.enc.2⟩
  | .shrd h o => some ⟨h, 0xE1, o.enc.1, o.enc.2⟩
  | .frzArm h o => some ⟨h, 0xE2, o.enc.1, o.enc.2⟩
  | .frzY h o => some ⟨h, 0xE2, o.enc.1, o.enc.2⟩
  | .frz h o => some ⟨h, 0xE2, o.enc.1, o.enc.2⟩
  | .frzRes h o => some ⟨h, 0xE2, o.enc.1, o.enc.2⟩
  | .frzDirty h o => some ⟨h, 0xE2, o.enc.1, o.enc.2⟩
  | .frzGo h o => some ⟨h, 0xE2, o.enc.1, o.enc.2⟩
  | .frzDis h o => some ⟨h, 0xE2, o.enc.1, o.enc.2⟩
  | .mma h o => some ⟨h, 0xE8, o.enc.1, o.enc.2⟩
  | .mblk h o => some ⟨h, 0xE9, o.enc.1, o.enc.2⟩
  | .scacc h o => some ⟨h, 0xEA, o.enc.1, o.enc.2⟩
  | .azero h o => some ⟨h, 0xEB, o.enc.1, o.enc.2⟩
  | .aload h o => some ⟨h, 0xEC, o.enc.1, o.enc.2⟩
  | .astore h o => some ⟨h, 0xED, o.enc.1, o.enc.2⟩
  | .acopy h o => some ⟨h, 0xEE, o.enc.1, o.enc.2⟩
  | .rpop h o => some ⟨h, 0xEF, o.enc.1, o.enc.2⟩
  | .xpose h o => some ⟨h, 0xF0, o.enc.1, o.enc.2⟩
  | .xreq h o => some ⟨h, 0xF1, o.enc.1, o.enc.2⟩
  | .xlay h o => some ⟨h, 0xF2, o.enc.1, o.enc.2⟩
  | .copy h o => some ⟨h, 0xF4, o.enc.1, o.enc.2⟩
  | .copyg h o => some ⟨h, 0xF5, o.enc.1, o.enc.2⟩
  | .copys h o => some ⟨h, 0xF6, o.enc.1, o.enc.2⟩
  | .cfill h o => some ⟨h, 0xF7, o.enc.1, o.enc.2⟩
  | .cred h o => some ⟨h, 0xF8, o.enc.1, o.enc.2⟩
  | .cland h o => some ⟨h, 0xF9, o.enc.1, o.enc.2⟩
  | .unassignedOpcode _ => none
  | .endComplete => none
  | .fwhbHeartbeat _ => none
  | .resultLanding => none
  | .waitComplete => none
  | .queueDataArrival _ => none
  | .taskRelease _ => none
  | .taskRetire _ _ => none
  | .kilnDeadlock _ => none
  | .iterationStart _ => none
  | .wheelPlace _ _ => none
  | .wheelSteal _ _ => none
  | .nestRecordStart _ => none
  | .launchComplete _ => none
  | .accumulatorWrite => none
  | .passSlotPop => none
  | .slotPublish _ _ => none
  | .copyChunkIssue _ _ => none
  | .copyComplete _ _ => none
  | .lineEviction _ _ _ => none
  | .eccCorrected _ => none
  | .eccUncorrectable _ => none
  | .bucketLeak _ => none
  | .spareSubstitution _ _ _ _ => none
  | .coreUngate _ => none
  | .fwShareWindow _ => none
  | .forcedSave _ => none
  | .corePark _ => none
  | .coreSwap _ => none
  | .freezeReceive _ _ => none
  | .farStore _ => none
  | .atomicRequest _ => none
  | .atomicReply _ => none
  | .loadData _ => none
  | .loadRequest _ => none
  | .postxRecord _ => none
  | .postxReply _ => none
  | .remoteConeSignal _ => none
  | .notifyMessage _ => none
  | .copyChunk _ _ => none
  | .landingUpdate _ => none
  | .barrierRequest _ => none
  | .barrierReply _ => none
  | .acknowledgement _ => none
  | .cutMarker _ => none
  | .purgeMessage _ => none
  | .launchPacketMessage _ => none
  | .startArrival _ => none
  | .startRelease _ => none
  | .parityUpdate _ => none
  | .sequenceSkip _ => none
  | .requestTimeout _ => none
  | .linkDown _ _ => none
  | .dieLinkFailure _ _ => none
  | .launchArrivalTimeout _ => none
  | .spareInstallation _ _ => none
  | .stripeRebuild _ _ _ _ => none
  | .reserve _ _ _ _ => none
  | .bar2AtomicRefused _ _ _ => none
  | .hostNotifyWrite _ _ _ _ _ => none
  | .hostMemoryAccess _ _ _ _ _ => none
  | .hostAtomicop _ _ _ _ _ _ _ => none
  | .registerWrite _ _ => none
  | .cqctlWrite _ _ _ => none
  | .cqheadWrite _ _ _ => none
  | .rstopWrite _ _ _ => none
  | .nopPacket _ _ _ => none
  | .linkPacket _ _ _ => none
  | .launchPacket _ _ _ => none
  | .launchStart _ _ _ => none
  | .barePacket _ _ _ => none
  | .invokePacket _ _ _ => none
  | .slotldPacket _ _ _ => none
  | .slotrmPacket _ _ _ => none
  | .purgePacket _ _ _ => none
  | .killPacket _ _ _ => none
  | .ringSlotTimeout _ _ _ => none
  | .completionRecordWrite _ _ => none
  | .fwWatchdogExpiry _ => none
  | .fwCommit _ => none
  | .fwRevert _ => none
  | .commitDeadlineExpiry _ => none
  | .controllerReplacement _ _ _ _ => none
  | .packageReset _ _ _ => none
  | .attest _ _ => none
  | .bootreport _ => none
  | .leaves _ => none
  | .railSample _ _ => none
  | .thermalLimit _ _ => none
  | .powerCeilingUpdate _ _ => none
  | .flitArrival _ _ => none
  | .coreGate _ => none
  | .powerLoss _ => none

/-- The encoder: the syllable of an encoded instruction and the payload of its extension. A hardware step has none. -/
def encode (i : Instr) : Option (Nat × Option Nat) := i.syl.map fun y => (y.word, y.x)

/-- The bytes of an encoded instruction in memory order (R58). -/
def encodeBytes (i : Instr) : List (BitVec 8) :=
  match encode i with
  | none => []
  | some (s, none) => natBytes 6 s
  | some (s, some x) => natBytes 6 s ++ natBytes 6 x

end Sys2Proof
end

