-- ==== Sys2Proof/Word.lean ====
section
/-! DEFINITION. The word types of the RY4 and their plainest arithmetic (spec 00 R3 to R6). -/

namespace Sys2Proof

/-- A byte of memory. -/
abbrev Byte := BitVec 8

/-- A g register, an m register, a CSR. -/
abbrev Word := BitVec 32

/-- An address register. -/
abbrev Addr := BitVec 64

/-- A v register: 32 lanes of 32 bits (R127). -/
abbrev VReg := BitVec 1024

/-- The signed value of the low `n` bits of a number, `sext` of R6. -/
def sextNat (n v : Nat) : Int :=
  let u := v % 2 ^ n
  if 2 ^ n ≤ 2 * u then (u : Int) - (2 ^ n : Nat) else (u : Int)

/-- An integer modulo `2 ^ n`, as a number. -/
def wrap (n : Nat) (i : Int) : Nat := (i % ((2 ^ n : Nat) : Int)).toNat

/-- The bits `hi : lo` of a number, as R4 writes them. -/
def bitsOf (v hi lo : Nat) : Nat := v / 2 ^ lo % 2 ^ (hi + 1 - lo)

end Sys2Proof
end

