-- ==== Sys2Proof/Machine/Store.lean ====
section
/-! DEFINITION. Sparse maps as plain data: a list of key and value pairs with keys strictly rising and no entry equal to
what an unlisted key reads as, so that equal maps are equal lists. Register files, local memory, HBM, caches and the
tables of the device are such maps. A map of bytes is a list of `Host.Cell`. -/

namespace Sys2Proof.Machine

/-- A sparse map from numbers. -/
abbrev SMap (α : Type) := List (Nat × α)

/-- Memory: a map of bytes in the canonical form of `Memory.wf`. -/
abbrev Memory := List Host.Cell

namespace SMap

variable {α : Type}

/-- The value at a key, or `d` where the key is not listed. -/
def get (d : α) (k : Nat) : SMap α → α
  | [] => d
  | (j, v) :: t => if j = k then v else get d k t

/-- Put an entry before the first larger key, or over an equal one. -/
def insert (k : Nat) (v : α) : SMap α → SMap α
  | [] => [(k, v)]
  | (j, w) :: t =>
    if j < k then (j, w) :: insert k v t else if j = k then (k, v) :: t else (k, v) :: (j, w) :: t

/-- Remove every entry of a key. -/
def erase (k : Nat) : SMap α → SMap α
  | [] => []
  | (j, w) :: t => if j = k then erase k t else (j, w) :: erase k t

/-- Write a key: the value that an unlisted key reads as removes the entry. -/
def set [DecidableEq α] (d : α) (k : Nat) (v : α) (m : SMap α) : SMap α :=
  if v = d then erase k m else insert k v m

/-- The canonical form above a bound: keys strictly rising from `lo`, no value equal to `d`. -/
def wfFrom [DecidableEq α] (d : α) (lo : Nat) : SMap α → Bool
  | [] => true
  | (j, v) :: t => lo ≤ j && v ≠ d && wfFrom d (j + 1) t

/-- The canonical form of a map whose unlisted keys read as `d`. -/
def wf [DecidableEq α] (d : α) (m : SMap α) : Bool := wfFrom d 0 m

/-- Update the value at a key. -/
def modify [DecidableEq α] (d : α) (k : Nat) (f : α → α) (m : SMap α) : SMap α := set d k (f (get d k m)) m

/-- The listed keys. -/
def keys (m : SMap α) : List Nat := m.map Prod.fst

end SMap

namespace Memory

/-- What an unlisted address of any memory of the model reads as: local memory is scrubbed to zero at launch start (R168),
and for HBM the value is the model's choice (log 3). -/
def blank : Byte := 0

/-- The canonical form of a memory. -/
def wf (m : Memory) : Bool := SMap.wf blank m

def read (m : Memory) (a : Nat) : Byte := SMap.get blank a m

def write (a : Nat) (b : Byte) (m : Memory) : Memory := SMap.set blank a b m

/-- The `n` bytes from `a`. -/
def readBytes (m : Memory) : Nat → Nat → List Byte
  | _, 0 => []
  | a, n + 1 => read m a :: readBytes m (a + 1) n

/-- Write bytes from `a` on. -/
def writeBytes : Nat → List Byte → Memory → Memory
  | _, [], m => m
  | a, b :: bs, m => writeBytes (a + 1) bs (write a b m)

/-- The little-endian number in the `n` bytes from `a` (R3). -/
def readNat (m : Memory) : Nat → Nat → Nat
  | _, 0 => 0
  | a, n + 1 => (read m a).toNat + 256 * readNat m (a + 1) n

/-- Write the low `n` bytes of a number from `a` on, little-endian (R3). -/
def writeNat : Nat → Nat → Nat → Memory → Memory
  | _, 0, _, m => m
  | a, n + 1, v, m => writeNat (a + 1) n (v / 256) (write a (BitVec.ofNat 8 v) m)

/-- Fill `n` bytes from `a` with a byte. -/
def fill : Nat → Nat → Byte → Memory → Memory
  | _, 0, _, m => m
  | a, n + 1, b, m => fill (a + 1) n b (write a b m)

end Memory

end Sys2Proof.Machine
end

