-- ==== Sys2Proof/Machine/State.lean ====
section
/-! DEFINITION. The state of the device as plain data: the issuing stream and its core, every other stream and core, and
the rest of the device and of the domain (dies, packages, launches, HBM, messages). INVENTORY.md lists each field with the
rule of the spec that names it and its reset value. A physical core has the key `64 × rank + core in die`; a stream has the
key `16 × core key + unit`, with the unit as in TINFO.STREAM (R370): 0 to 3 VP0 to VP3, 4 CU program, 5 ME, 6 XE, 7 CE,
8 CU firmware. -/

namespace Sys2Proof.Machine

/-! ## Streams -/

/-- Engine classes, in the coding of the link word (R57). -/
inductive Cls where
  | control | vector | matrix | transpose | copy | firmware
deriving DecidableEq, Repr

/-- What a stream is doing. `off`: no task, iteration or image. `running`. `ending`: END has issued and waits for landings
and queue data (R123). `aborting`: ABORT waits for the task's accesses (R375). `faulted`: it waits for the firmware to
decide a system fault (R369). `yielded`: it stopped after YIELD (R418). `saved`: it stopped by a forced save (R419).
`returning`: RETT waits for the handler's landings (R373). `failed`: the firmware context stopped (R368). -/
inductive Run where
  | off | running | ending | aborting | faulted | yielded | saved | returning (next : Bool) | failed
deriving DecidableEq, Repr

/-- A position: line and slot, packed as line × 16 + slot (R109). -/
structure Pos where
  line : Nat
  slot : Nat
deriving DecidableEq, Repr

/-- The mark of a g register, a queue entry or a result (R376): a deferred fault with its cause and the value that TVAL will
hold (R371, log 18), or poison. -/
inductive Mark where
  | none | deferred (cause val : Nat) | poison
deriving DecidableEq, Repr

/-- A b register (R109, R111): target, hint, and the issue cycle in which the value landed (none: before any landing). -/
structure BReg where
  target : Pos
  hint : Bool
  landed : Option Nat
deriving DecidableEq, Repr

/-- A hardware loop level (R117). -/
structure Loop where
  active : Bool
  count : Word
  first : Pos
  last : Pos
  delta : SMap Word
deriving DecidableEq, Repr

/-- A queue entry (R287): its request, the data once it has arrived, the ac from which it can be popped, its mark, whether
it is discarded on arrival (R290), whether a speculative load allocated it (R305), the class and position of a protected load, and
the governing mask where its data lies in lanes (R410). -/
structure QEntry where
  req : Nat
  data : Option VReg
  readyAt : Nat
  mark : Mark
  drop : Bool
  spec : Bool
  prot : Nat
  pos : Pos
  mask : Option Word
deriving DecidableEq, Repr

/-- The destination of a result in flight. `csr`, `delta` and `deltaClr` take effect at the next issue cycle (R224, R121). -/
inductive Dst where
  | g (n : Nat) | v (n : Nat) | a (n : Nat) | p (n : Nat) | m (n : Nat) | b (n : Nat)
  | csr (n : Nat) | delta (lc j : Nat) | deltaClr (lc : Nat)
deriving DecidableEq, Repr

/-- One copy of a result (R398, R413): value, sticky flags in FCSR's places, mark, the bits of the register that it writes (R130), the
governing mask that it read, and whether it read the guard as on. -/
structure RCopy where
  val : VReg
  flags : Word
  mark : Mark
  bits : VReg
  gmask : Word
  on : Bool
deriving DecidableEq, Repr

/-- A result in flight (R16, R23, R413): destination, issue cycles left, its copies, and for the records of R414 the position, class,
slot and plain latency of its instruction, and whether that is of the vector block. -/
structure Flight where
  dst : Dst
  k : Nat
  copies : List RCopy
  pos : Pos
  prot : Nat
  slot : Nat
  lat : Nat
  vec : Bool
deriving DecidableEq, Repr

/-- How a tile write meets the tile's values: it replaces them, or adds to them. -/
inductive TileMode where
  | put | addFloat | addInt
deriving DecidableEq, Repr

/-- What a physical error strikes in one copy of an instruction (R398): a register as the copy reads it, a byte of local memory or
the head of a queue or a loop level as it reads them, the result that it forms, the bits of the register that it writes, its flags,
or its mark; a cell of a matrix partial or of a tile as the engine reads it (counted on through the tiles of the instruction; copy 3
is the spare row); an element that an engine writes; the data of a queue load on its way to the entry (R410); a chunk that a copy
reads back (R411). -/
inductive Site where
  | g (n : Nat) | a (n : Nat) | v (n : Nat) | p (n : Nat) | m (n : Nat) | b (n : Nat)
  | mem (addr : Nat) | queue (n : Nat) | loop (n : Nat)
  | result | bits | flags | mark
  | cell (n : Nat) | elem (n : Nat) | data | chunk
deriving DecidableEq, Repr

/-- A physical error in the copies of an instruction: the model's input from outside (log 12). It strikes the next instruction that
has its site: copy number, site, bits flipped. `live` is set in the copy that is being executed. -/
structure Upset where
  copy : Nat
  site : Site
  flip : VReg
  live : Bool
deriving DecidableEq, Repr

/-- Tile writes of one instruction that will perform at their offset (R275, R314): the issue cycle, each tile with one list of 16384
cells for each value to add or put, how the values meet the tile's, the flags of forming them, the source rows of an ALOAD, the
result of the spare-row check, the errors in its copies with the stall of a tie-break and whether that has run (R405, R408), the
class and position of its instruction, and the sequence number of its task. -/
structure TileWrite where
  at_ : Nat
  parts : List (Nat × List (List Word))
  mode : TileMode
  flags : Word
  load : Option (Nat × Nat)
  spareRow : Option (Nat × List Nat)
  errors : List Upset
  tie : Nat
  tied : Bool
  prot : Nat
  pos : Pos
  own : Nat
deriving DecidableEq, Repr

/-- A row that ASTORE will write, or that ALOAD will read into the tile write due at `into_` (R338, R340); flags due; a ring
slot that a transpose has wholly written (R343). -/
inductive RowTask where
  | store (at_ addr : Nat) (bytes : List Byte) (own : Nat)
  | load (at_ addr row into_ : Nat) (own : Nat)
  | flags (at_ : Nat) (fl : Word) (own : Nat)
  | slot (at_ ring n own : Nat)
deriving DecidableEq, Repr

/-- The matrix and transpose engines' own state (R312, R322, R338, R343): the issue cycle from which the array is free, the
cycles at which held tile buffers are released, pending tile writes and rows, the cycle from which the scratchpad port is
free, pops due (cycle, ring, slots), and the busy tiles with the
sequence numbers of the tasks that name them. -/
structure Engine where
  arrayFree : Nat
  buffers : List Nat
  writes : List TileWrite
  rows : List RowTask
  portFree : Nat
  pops : List (Nat × Nat × Nat)
  tiles : List (Nat × Nat)
deriving DecidableEq, Repr

/-- How the last issue attempt ended, for the step to read: the model's own, cleared at each attempt (log 1). -/
structure Latch where
  wait : Bool
  cycleWait : Bool
  trapped : Bool
  extra : Nat
  taken : Option Pos
  prepared : Bool
  ended : Bool
  stopAfter : Bool
  trapAfter : Option Nat
  lcNew : List Nat
  b2 : Bool
  issued : Bool
deriving DecidableEq, Repr

/-- A VAMO to the stream's own core or package whose elements have not all performed (R267, R300): the request that its old values
fill (0: none), whether it is to the scratchpad, the address and the virtual address, its operation, its operand bytes, the old
bytes so far, and whether a poisoned word was read. -/
structure VamoRun where
  req : Nat
  sp : Bool
  addr : Nat
  va : Nat
  op : Nat
  operand : List Byte
  old : List Byte
  bad : Bool
deriving DecidableEq, Repr

/-- A remote barrier request of the stream (R283, R284, R419): sent and awaited, or answered with a value or a status. -/
inductive RBar where
  | none | sent (req : Nat) | answered (val : Word) | refused (cause val : Nat)
deriving DecidableEq, Repr

/-- A stream: a partition, a control-unit context, a matrix, transpose or copy engine (R4, R57, R370). Engine class, what it is
doing and its position; the registers g, v, a, p, m, b, q and lc with the marks of g (R9, R10, R109, R117, R287, R376); the CSRs FCSR,
CYCHI, ICNT, TAGR, SLOT, PCTL, TCAUSE, TPC, TVAL, TINFO, YCTL, FWREV, FWVD and ITERH's ordinal (R11, R12, R225, R370, R511); handler
mode (R367). Then its issue: results in flight (R16), those about to land in this cycle, whether the issue cycle's results have
landed, whether END has issued (R123), the number of issue cycles, clocks and issue cycles still to pass before a bundle (R15, R110,
R403), the clock of its last attempt, the last use of its divide units (R18), the return predictor (R116). Requests lost or refused
and not yet raised (R459), its remote barrier, its VAMO in progress (R267), whether a system fault of it is pending (R369), the cause
of the trap by which it entered its handler (R368), its engine, physical errors to come (log 12), whether the tie-break copy of
its bundle has run (R408), and a TRAP that has issued and not yet stopped the stream (code, slot, class and mode, R372). -/
structure Stream where
  cls : Cls
  run : Run
  pos : Pos
  g : SMap Word
  gMark : SMap Mark
  v : SMap VReg
  a : SMap Addr
  p : SMap Bool
  m : SMap Word
  b : SMap BReg
  q : SMap (List QEntry)
  lc : SMap Loop
  fcsr : Word
  cychi : Word
  icnt : Word
  tagr : BitVec 16
  slot : Nat
  pctl : Word
  tcause : Word
  tpc : Word
  tval : Addr
  tinfo : Word
  handler : Bool
  yctl : Word
  fwrev : Word
  fwvd : Word
  ordinal : BitVec 48
  flight : List Flight
  landing : List Flight
  fresh : Bool
  endWait : Bool
  cyc : Nat
  stall : Nat
  hold : Nat
  acAt : Option Nat
  divAt : Option Nat
  vdivAt : Option Nat
  predictor : List Pos
  lost : List (Nat × Nat)
  rbar : RBar
  vamo : Option VamoRun
  sysf : Bool
  first : Nat
  eng : Engine
  upsets : List Upset
  tied : Bool
  trapDue : Option Nat
  unit : Nat
  latch : Latch
deriving DecidableEq, Repr

/-! ## Cores -/

/-- Kiln entry states (R184), coded 1 to 5 as KQRY.st reads them (R217). -/
inductive KState where
  | waiting | ready | running | draining | held
deriving DecidableEq, Repr

/-- An entry of the Kiln window (R184, R434): the sixteen words of the record, the sequence number, the state, effective
priority, pass count, bound versions of the references, whether the cone wait is satisfied, the slots with an edge to it,
whether the core's own CU posted it, whether it is speculative, the order of entry, the unit that runs it, the pages that
it pins (virtual device and page), the cause and value recorded for a Held task, its retries, the requests that its poster had
outstanding at the POST (R271), and sticky flags of its late writes that its stream's FCSR no longer takes (R225). -/
structure KEntry where
  words : List Word
  seq : Nat
  state : KState
  prio : Nat
  passes : Nat
  vers : List Nat
  waitOk : Bool
  edges : List Nat
  ownPost : Bool
  spec : Bool
  age : Nat
  unit : Option Nat
  pages : List (Nat × Nat)
  heldCause : Option (Nat × Nat)
  retries : Nat
  after : List Nat
  flags : Word
deriving DecidableEq, Repr

/-- A defined frame (R178, R208): the eight words of its descriptor, current version, whether it is writable, the pages it
pins, and the version before the first speculative rename (R183). -/
structure Frame where
  words : List Word
  cur : Nat
  writable : Bool
  pages : List (Nat × Nat)
  before : Option Nat
deriving DecidableEq, Repr

/-- A slot of a ring that a producer has reserved (R321): who, whether its bytes have performed, poison. -/
structure RingRes where
  owner : Nat
  tag : Nat
  done : Bool
  poison : Bool
deriving DecidableEq, Repr

/-- A ring descriptor (R320) with the reservations of its producers in order, the slots claimed and not popped, the
published slots with poison, whether RINIT has set it since the launch started, and the slots popped in this clock (R322). HEAD and TAIL are CCNT and PCNT modulo
NSLOT (R320). -/
structure Ring where
  init : Bool
  base : Nat
  slotsz : Nat
  nslot : Nat
  fill : Nat
  pcnt : Nat
  ccnt : Nat
  reserved : List RingRes
  claimed : Nat
  poison : List Nat
  freed : Nat
deriving DecidableEq, Repr

/-- Updates of cones that the current ac makes (R193): CSETs in order, then increments. -/
inductive ConeUpd where
  | set (c v : Nat)
  | add (c v : Nat)
deriving DecidableEq, Repr

/-- An update or message that waits until earlier accesses of a stream have performed (R219, R259, R271): the stream, the
requests it awaits, and what it then does; `own` is the sequence number of the task, and `from_` the first ac in which it may act. -/
inductive Deferred where
  | cone (waits : List Nat) (u : ConeUpd) (from_ tag own : Nat)
  | csigR (sid : Nat) (waits : List Nat) (dst cone inc tag own : Nat)
  | postx (sid : Nat) (waits : List Nat) (dst queue req tag own : Nat) (words : List Word)
  | notify (sid : Nat) (waits : List Nat) (dst n value tag own : Nat)
  | tags (mask : Nat)
  | kmode (cls rm : Nat)
deriving DecidableEq, Repr

/-- A queued iteration (R172, R196). -/
structure Iter where
  idx : List Word
  ord : Nat
  tag : Nat
  entry : Nat
  param : Addr
  nest : Nat
deriving DecidableEq, Repr

/-- A message in flight (R448 to R450): kind, source and destination rank, the rank where it now is, tag, launch, sequence
number and incarnations (none: not sequenced), logical cores, address, payload, operand fields, the requester's request,
status and cause of a reply, poison. -/
structure Msg where
  kind : Nat
  src : Nat
  dst : Nat
  here : Nat
  tag : Nat
  launch : Nat
  seq : Option (Nat × Nat × Nat)
  slc : Nat
  dlc : Nat
  addr : Nat
  data : List Byte
  op : Nat
  args : List Nat
  req : Nat
  status : Nat
  cause : Nat
  poison : Bool
deriving DecidableEq, Repr

/-- A copy in progress (R348 to R357, R436): its identifier, syllable and opcode, the combination and rounding mode of a CRED
or the INC bit of a CLAND, the task's window slot and sequence number, request tag, the descriptor words, value and list
address or name read at issue, tag to set, whether a landing update is owed and whether it has been made, the first ring slot
reserved, chunks issued, performed and outstanding, sticky flags, class and position of its instruction, and a fault. -/
structure CopyProg where
  id : Nat
  syl : Nat
  opc : Nat
  mode : Nat
  tslot : Nat
  tseq : Nat
  tag : Nat
  words : List Word
  gval : Nat
  alist : Nat
  ct : Option Nat
  land_ : Bool
  ringFirst : Nat
  issued : Nat
  performed : List Nat
  pending : List Nat
  flags : Word
  landed : Bool
  prot : Nat
  pos : Pos
  fault : Option (Nat × Nat)
deriving DecidableEq, Repr

/-- The run-ahead of the CU program context (R377, R378): the shadow stream, its unknown registers (kind and number: 0 g, 1 a,
2 p, 3 b), bundles run (65: it has ended), the predicted branch as the number of bundles that issue before its own and its
direction, whether it has been predicted, and the speculative posts (slot, handle, record words) and queue loads (queue,
request) not yet adopted. -/
structure Ahead where
  shadow : Stream
  unknown : List (Nat × Nat)
  count : Nat
  branch : Option (Nat × Bool)
  past : Bool
  posts : List (Nat × Nat × List Word)
  loads : List (Nat × Nat)
deriving DecidableEq, Repr

/-- The firmware replacement state of a context (R500 to R505), in the coding of FWSST. -/
inductive FwState where
  | current | probation | alive | reverted
deriving DecidableEq, Repr

/-- An event or fault for the firmware context of a core (R369, R419): stream unit, cause, value, TPC, TINFO bits, and the
copy for an asynchronous fault. -/
structure SysEvent where
  unit : Nat
  cause : Nat
  dflag : Bool
  val : Nat
  pos : Nat
  info : Nat
  copyId : Option Nat
deriving DecidableEq, Repr

/-- A cached byte (R236): its value, whether it is dirty, and whether it is poisoned (R238). -/
structure CByte where
  val : Byte
  dirty : Bool
  poison : Bool
deriving DecidableEq, Repr

/-- A TLB entry (R244): the physical page address and the attributes, with the address of the leaf it came from. -/
structure Tlb where
  phys : Nat
  w : Bool
  nc : Bool
  sa : Bool
  leaf : Nat
  path : List Nat
deriving DecidableEq, Repr

/-- A core: its launch, pool and local memory, its code images, its synchronising registers with the partitions that they and the
banks served last (R231, R286), its Kiln with the ac of the last release of each class (R189), its caches, its repair maps and the
state of its firmware context. `commitFe` holds the full/empty bits that speculative tasks have changed (R273), `bwDone` the remote
BWAITs whose condition has held, with their values (R284), `fwWin` the ac in which the last share window began (R170), and `sysOver`
the system faults beyond the eight that may be pending (R369). -/
structure Core where
  launch : Nat
  lcore : Nat
  pool : Word
  ac : Nat
  loc : Memory
  feEmpty : SMap Bool
  poison : SMap Bool
  code : Memory
  codeLen : Nat
  fwCode : Memory
  fwLen : Nat
  cones : SMap (BitVec 17)
  conePend : List ConeUpd
  deferred : List Deferred
  tags : BitVec 64
  tagSet : BitVec 64
  tagClr : BitVec 64
  notify : SMap Word
  notifyOr : List (Nat × Word)
  latches : SMap Word
  bankLast : SMap Nat
  waitnLast : SMap Nat
  gated : Bool
  frames : SMap (Option Frame)
  rings : SMap Ring
  window : SMap (Option KEntry)
  kseq : Nat
  age : Nat
  occSeen : Nat × Nat
  kSeen : SMap Nat
  verSeen : SMap (Option Nat)
  deadlock : Nat
  kmodes : SMap Nat
  kmodePend : List (Nat × Nat)
  engfl : Word
  iterQ : List Iter
  iter : Option Iter
  inbound : List Msg
  commit : SMap (SMap (Option Byte))
  l1 : SMap (Option CByte)
  tlb : SMap (Option Tlb)
  copies : List CopyProg
  copyId : Nat
  passes : Nat
  rowOff : Option Nat
  laneMap : SMap (Option Nat)
  bankMap : SMap (Option Nat)
  buckets : SMap (BitVec 16)
  marked : SMap Bool
  yreq : Bool
  yrem : Word
  fshare : Nat
  fwUsed : Nat
  cuAc : Option Nat
  fwst : FwState
  fwShadow : Option Stream
  fwDue : Nat
  fwBundles : Nat
  fwRecord : Option (Nat × Nat)
  fwOldRev : Word
  fwOldCode : Memory
  fwOldLen : Nat
  fwPd : Nat
  sysQ : List SysEvent
  sysCur : List SysEvent
  heldBw : List Msg
  bwDone : List (Msg × Nat)
  commitFe : SMap (SMap (Option Bool))
  relAc : SMap (Option Nat)
  fwWin : Nat
  sysOver : List SysEvent
  ahead : Option Ahead
  parking : Bool
deriving DecidableEq, Repr

/-! ## The device and the domain -/

/-- What a request fills or acknowledges when its answer arrives. -/
inductive Wait where
  | store
  | entry (queue : Nat)
  | part (main at_ : Nat)
  | atomic (queue : Nat) (vec : Bool) (dst : Nat)
  | noReturn
  | postx (queue : Nat)
  | barrier
  | chunk (copy chunk : Nat)
  | chunkRead (copy chunk : Nat)
  | copyLand (copy : Nat)
  | purge
  | launch
  | skip
  | parity
deriving DecidableEq, Repr

/-- An outstanding request (R269, R297, R454, R457): its identifier, the stream and core that made it, what it waits for,
the message as first sent, the die cycle of the last transmission, the tries, whether it is ready to perform, the
pages it holds counts on, the data that has arrived, whether that data is poisoned, the lines for which it holds L1 miss entries
(R237), the class of its instruction, the sequence number of the task that made it, and whether it is an acquire
(R259). -/
structure Req where
  id : Nat
  sid : Nat
  wait : Wait
  msg : Option Msg
  sentAt : Nat
  tries : Nat
  ready : Bool
  pages : List (Nat × Nat)
  data : Memory
  poison : Bool
  misses : List Nat
  prot : Nat
  own : Nat
  acq : Bool
deriving DecidableEq, Repr

/-- A replay window (R455): the source's incarnation, the next number, applied or skipped numbers above it, the replies
kept, and requests held or in progress. -/
structure Window where
  sinc : Nat
  next : Nat
  applied : List Nat
  replies : List (Nat × Msg)
  held : List Msg
  progress : List Nat
deriving DecidableEq, Repr

/-- A link (R449): consecutive failures of the flit at its head, down. -/
structure Link where
  fails : Nat
  down : Bool
deriving DecidableEq, Repr

/-- A protected partition (R469): base offset and size on this die, the member's number, and the group's ranks. -/
structure Parity where
  group : Nat
  base : Nat
  size : Nat
  member : Nat
  ranks : List Nat
  blocked : List Nat
  ready : Bool
deriving DecidableEq, Repr

/-- A die. Its fabric node: incarnation, the sequence number towards each rank, dead ranks, replay windows, rank table, links and FTMO
(R449 to R466). Its L2, pin table (R236, R246), sherd ring (base, size, records written, records that firmware has
taken, SEQ, records lost: R396, log 19), leaky buckets, those
above their mark, LEAK and MARK (R392); the live-replacement registers with the die cycle of arming (R500, R505); RSTOP of each virtual
device (R513); granule counters and those whose home hint is given (R252); its parity partition (R469); clock step and ceiling in
sixteenths, the rail monitor's counts and the accumulator of the clock step (R522), the arithmetic clocks that it has made, and the
one in which its Wheel last handed out an iteration, plus one (R197); the die cycle in which its cycle counter started (R2, log 93);
whether it is powered; the identities of its Wheel and fabric-manager firmware (R508); the bytes of its register block to which the
spec gives no meaning (log 19). -/
structure Die where
  inc : Nat
  seqs : SMap Nat
  dead : SMap Bool
  windows : SMap (Option Window)
  rankTab : SMap (BitVec 64)
  links : SMap Link
  ftmo : Word
  l2 : SMap (Option CByte)
  pins : SMap Nat
  logBase : Nat
  logSize : Nat
  logHead : Nat
  logTail : Nat
  logSeq : Nat
  logLost : Bool
  buckets : SMap (BitVec 16)
  marked : SMap Bool
  leak : SMap Nat
  mark : SMap Nat
  fwstby : Addr
  fwsent : Addr
  fwwd : Addr
  fwsst : SMap Nat
  armedAt : Nat
  rstop : SMap Bool
  granules : SMap (BitVec 24)
  hinted : SMap Bool
  parity : Option Parity
  step : Nat
  ceiling : Nat
  hot : Nat
  calm : Nat
  acc : Nat
  acs : Nat
  handed : Nat
  origin : Nat
  powered : Bool
  wheelImg : Nat
  fmImg : Nat
  regs : Memory
deriving DecidableEq, Repr

/-- An entry of a launch's nest list (R188, R221): the words of its record, its parameter block, the base of its iteration space,
and the pages that its table pins. -/
structure Nest where
  words : List Word
  param : Addr
  base : Addr
  tab : List (Nat × Nat)
deriving DecidableEq, Repr

/-- A nest being processed (R195 to R199): its record, index and parameter block, the range of each die, forwarded
iterations of each die, iterations handed out and not ended, and the tags purged while it runs (R380). -/
structure NestRun where
  nest : Nest
  ranges : SMap (Nat × Nat)
  fwd : SMap (List Nat)
  inFlight : Nat
  gone : List Nat
deriving DecidableEq, Repr

/-- An armed save area (R425): descriptor fields, the saved translations, the pages that it pins, and the offset of its
dirty-page section in the section table of arming. -/
structure Area where
  base : Nat
  length : Nat
  required : Nat
  vdev : Nat
  trans : SMap Nat
  pages : List (Nat × Nat)
  dirtyOff : Nat
deriving DecidableEq, Repr

/-- A saved core context section of an image (R433): the core and the streams of its units. -/
structure Section where
  core : Core
  streams : List (Nat × Stream)
deriving DecidableEq, Repr

/-- The fields of a bare launch (R28): partition, request tag, and the output window. -/
structure Bare where
  partition : Nat
  tag : Nat
  outOff : Nat
  outLen : Nat
  outVa : Nat
deriving DecidableEq, Repr

/-- What a launch is doing on its package: it waits for cores, waits for the start release (R463), runs, stands frozen in
its image (R427), or has ended. -/
inductive LPhase where
  | waiting | starting | running | frozen | ended
deriving DecidableEq, Repr

/-- A launch on one package (R166 to R169, R383 to R386, R417 to R441, R462 to R464, R488 to R494), keyed by package ×
2^32 + identifier. `cores` counts the logical cores of each logical die, `ranks` is the rank list, `maps` gives the
physical core of a logical core of this package; `parked` gives for a parked logical core the die rank that keeps its section
and the die cycle in which it was parked; `goes` says that FRZ.go or FRZ.res has continued the launch since its last yield
request, so that parked cores return to their physical cores (R438); `purgeOut` holds the purges (tag, cause, package from which each came) still to be sent on to its other packages (R461). -/
structure Launch where
  vdev : Nat
  pkg : Nat
  phase : LPhase
  prio : Nat
  pool : Word
  image : Nat
  param : Addr
  lb : SMap Addr
  repl : Bool
  tbrk : Bool
  tpol : Nat
  multi : Bool
  spanBase : Nat
  dmask : Nat
  cores : List Nat
  ranks : List Nat
  maps : SMap (Option Nat)
  nests : List Nest
  nest0 : List Nest
  run : Option NestRun
  nestIdx : Nat
  filters : SMap (List Nat)
  purgeList : List Nat
  npurge : Nat
  purgeOut : List (Nat × Nat × Nat)
  replays : Nat
  bare : Option Bare
  ring : Nat
  cookie : Nat
  pseq : Nat
  slot : Option Nat
  lent : List (Nat × Nat)
  pages : List (Nat × Nat)
  relocs : List (Nat × Nat)
  saggar : SMap (Option Nat)
  sagPool : List Nat
  paramCopy : Memory
  dirty : SMap Bool
  area : Option Area
  parked : SMap (Option (Nat × Nat))
  cut : SMap (List Msg)
  freezing : SMap Nat
  gen : Nat
  arrivals : List Nat
  sentAt : Nat
  yieldAsked : List Nat
  goes : Bool
deriving DecidableEq, Repr

/-- A saved bisque image (R431 to R437): the bytes of its header and section table and of each section, with offset and size, and the data
that they hold, from which it is resumed (log 11). -/
structure Image where
  content : List (Nat × Nat × Memory)
  launch : Launch
  sections : SMap (Option Section)
  inflight : List (Nat × Msg)
  reqs : List Req
  regions : List (BitVec 128)
  ndie : Nat
deriving DecidableEq, Repr

/-- A command ring (R480 to R486): next to reserve, next to consume, RTEXP, the tail segment and slot, the consumer's
segment and slot, the segments in use, and the reservations not yet consumed (first number, slots, die cycle). -/
structure HRing where
  rseq : Nat
  rcons : Nat
  rto : Nat
  seg : Nat
  tail : Nat
  cseg : Nat
  cslot : Nat
  chain : List Nat
  resv : List (Nat × Nat × Nat)
deriving DecidableEq, Repr

/-- A resident slot (R492): generation, image, contents of its header, resident, refusing, running invocations. -/
structure RSlot where
  gen : Nat
  resident : Bool
  removing : Option (Nat × Nat × Nat)
  image : Nat
  running : Nat
  pages : List (Nat × Nat)
deriving DecidableEq, Repr

/-- A virtual device (R475 to R497): root table, core mask, the BAR0 registers of its work pool, command rings, free segments of the
pool, resident slots, the completion queue with the records held back and the drop count, the last launch identifier given, its
front-end core, MSI-X messages sent, the ring served last, its device-level save area with its dirty bitmap (R425), its free
virtual pages (log 32), and the pages of `.reloc` copies that a record to the host frees when it is written (R81). -/
structure Vdev where
  root : Nat
  cmask : Nat
  wbase : Nat
  poolb : Nat
  nseg : Nat
  rings : SMap HRing
  free : List Nat
  slots : SMap RSlot
  cqbase : Nat
  cqctl : Nat
  cqhead : Nat
  cqtail : Nat
  held : List (List Byte)
  ndrop : Nat
  lcount : Nat
  fe : Nat
  msix : Nat
  last : Nat
  devArea : Option Area
  devDirty : SMap Bool
  freeVa : List Nat
  copies : List (List Byte × List Nat)
deriving DecidableEq, Repr

/-- A package: service level and the outcome of its boot (R515, R519), serial number, working cores, region table (R249), virtual
devices, the launch generation counter and the generations given (R463), the MC's mailbox (R519), the index of the next LMS leaf, the
smallest versions that it accepts, its firmware images and manifest (R517, R518), the repair log (R520), the last answer to a host
access, and free physical pages. -/
structure Pkg where
  svcl : Nat
  bootStep : Nat
  bootReason : Nat
  bootMbst : Nat
  booted : Bool
  serial : Nat
  working : Nat
  regions : SMap (BitVec 128)
  vdevs : SMap Vdev
  genCtr : Nat
  gens : SMap Nat
  mbst : Nat
  mbrlen : Nat
  mbrsp : List Byte
  leafIdx : Nat
  minSvn : SMap Nat
  images : List (Nat × Nat × Nat × Nat)
  manifest : List Byte
  repairs : List Byte
  repairSkip : Bool
  hostReply : Option (Nat × List Byte)
  freePages : List Nat
deriving DecidableEq, Repr

/-- A companion switch plane (R467): the die that each of its ports faces, as serial number × 4 + die, where one is connected (ports 128
to 143 face spares), and its relabel table, the port of each logical rank that it serves. -/
structure Plane where
  faces : SMap (Option Nat)
  relabel : SMap (Option Nat)
deriving DecidableEq, Repr

/-- What the whole domain holds: HBM with its poisoned words (R239, R389), the host memory that the device has written, dies by rank,
packages, launches, saved images, messages in flight, outstanding requests with the number of the next one, sherd records written
(R394), purges that the current die cycle makes (launch, tag, cause, rank: R381), the table entries whose PTW waits, with its stream
(R247), the parity updates that their dies have still to send (R470), the switch planes and how each external dimension of a rank is wired (key 16 × rank + dimension: 0 by a direct cable, 1 not at all, as
the domain is smaller, else two more than the number of a plane: R467), and the die cycle (R2). -/
structure Sys where
  hbm : Memory
  hbmPoison : SMap Bool
  host : Memory
  dies : SMap Die
  pkgs : SMap Pkg
  launches : SMap (Option Launch)
  images : List Image
  msgs : List Msg
  reqs : List Req
  reqId : Nat
  sherds : List (Nat × List Byte)
  purges : List (Nat × Nat × Nat × Nat)
  ptwBusy : List (Nat × Nat)
  parityOut : List Msg
  planes : SMap Plane
  wiring : SMap Nat
  dc : Nat
deriving DecidableEq, Repr

/-- A turn of the agenda (log 1): an issue attempt of a stream, a hardware step of the opcode table, a bundle of the CU
program context's run-ahead (R377), the turns of all streams of a core in the order in which R231 serves them, or the end of an
arithmetic clock. -/
inductive Turn where
  | issue (sid : Nat)
  | streams (core : Nat)
  | event (i : Instr)
  | ahead (core : Nat)
  | tick
deriving DecidableEq, Repr

/-- The whole state. `sid` is the key of the issuing stream `strm`, and `core` is its core; `streams` and `cores` hold the
others. -/
structure State where
  sid : Nat
  strm : Stream
  core : Core
  streams : SMap Stream
  cores : SMap Core
  sys : Sys
  agenda : List Turn
  freeCtr : Nat
deriving DecidableEq, Repr

/-! ## How a step can stop -/

/-- Why the machine stops with a fault: no instruction and no hardware step of the spec is without an effect, so there is none. -/
inductive Fault where
deriving DecidableEq, Repr

/-- Why the model refuses an instruction. -/
inductive Refusal where
  /-- Raised by an arm of `exec` for an instruction that the model does not cover. Safe. -/
  | notModelled (mnemonic : String)
deriving DecidableEq, Repr

/-! ## Reset -/

def Pos.zero : Pos := ⟨0, 0⟩
def BReg.zero : BReg := ⟨Pos.zero, false, none⟩
def Loop.idle : Loop := ⟨false, 0, Pos.zero, Pos.zero, []⟩
def Engine.idle : Engine := ⟨0, [], [], [], 0, [], []⟩
def Latch.clear : Latch := ⟨false, false, false, 0, none, false, false, false, none, [], false, false⟩
def Ring.zero : Ring := ⟨false, 0, 0, 0, 0, 0, 0, [], 0, [], 0⟩

/-- A stream without work, its registers as R29 leaves them. YCTL is 0x8000 (R225) and FWVD has PHYS = 1 (R511). -/
def Stream.reset (unit : Nat) (cls : Cls) : Stream where
  cls := cls
  run := .off
  pos := Pos.zero
  g := []
  gMark := []
  v := []
  a := []
  p := []
  m := []
  b := []
  q := []
  lc := []
  fcsr := 0
  cychi := 0
  icnt := 0
  tagr := 0
  slot := 0
  pctl := 0
  tcause := 0
  tpc := 0
  tval := 0
  tinfo := 0
  handler := false
  yctl := 0x8000
  fwrev := 0
  fwvd := 0x10
  ordinal := 0
  flight := []
  landing := []
  fresh := false
  endWait := false
  cyc := 0
  stall := 0
  hold := 0
  acAt := none
  divAt := none
  vdivAt := none
  predictor := []
  lost := []
  rbar := .none
  vamo := none
  sysf := false
  first := 0
  eng := Engine.idle
  upsets := []
  tied := false
  trapDue := none
  unit := unit
  latch := Latch.clear

/-- The class of a unit (R370). -/
def unitCls (u : Nat) : Cls :=
  if u < 4 then .vector else if u = 4 then .control else if u = 5 then .matrix
  else if u = 6 then .transpose else if u = 7 then .copy else .firmware

/-- A core at reset: no launch, a scrubbed pool and an empty Kiln (R168), firmware share 4 (R170). -/
def Core.reset : Core where
  launch := 0
  lcore := 0
  pool := 0
  ac := 0
  loc := []
  feEmpty := []
  poison := []
  code := []
  codeLen := 0
  fwCode := []
  fwLen := 0
  cones := []
  conePend := []
  deferred := []
  tags := 0
  tagSet := 0
  tagClr := 0
  notify := []
  notifyOr := []
  latches := []
  bankLast := []
  waitnLast := []
  gated := false
  frames := []
  rings := []
  window := []
  kseq := 0
  age := 0
  occSeen := (0, 0)
  kSeen := []
  verSeen := []
  deadlock := 0
  kmodes := []
  kmodePend := []
  engfl := 0
  iterQ := []
  iter := none
  inbound := []
  commit := []
  l1 := []
  tlb := []
  copies := []
  copyId := 0
  passes := 0
  rowOff := none
  laneMap := []
  bankMap := []
  buckets := []
  marked := []
  yreq := false
  yrem := 0
  fshare := 4
  fwUsed := 0
  cuAc := none
  fwst := .current
  fwShadow := none
  fwDue := 0
  fwBundles := 0
  fwRecord := none
  fwOldRev := 0
  fwOldCode := []
  fwOldLen := 0
  fwPd := 0
  sysQ := []
  sysCur := []
  heldBw := []
  bwDone := []
  commitFe := []
  relAc := []
  fwWin := 0
  sysOver := []
  ahead := none
  parking := false

/-- A die at reset: FTMO and the live-replacement registers as R456 and R500 give them; incarnation 1, bucket parameters,
clock step and ceiling as log 2 names them. -/
def Die.reset : Die where
  inc := 1
  seqs := []
  dead := []
  windows := []
  rankTab := []
  links := []
  ftmo := 0x30000014
  l2 := []
  pins := []
  logBase := 0
  logSize := 0
  logHead := 0
  logTail := 0
  logSeq := 0
  logLost := false
  buckets := []
  marked := []
  leak := []
  mark := []
  fwstby := 0
  fwsent := 0
  fwwd := 0x1000000001000000
  fwsst := []
  armedAt := 0
  rstop := []
  granules := []
  hinted := []
  parity := none
  step := 16
  ceiling := 16
  hot := 0
  calm := 0
  acc := 0
  acs := 0
  handed := 0
  origin := 0
  powered := true
  wheelImg := 0
  fmImg := 0
  regs := []

/-- A command ring at reset (R476, R480): RTEXP 24; segment q for ring q. -/
def HRing.reset (q : Nat) : HRing := ⟨0, 0, 24, q, 0, q, 0, [q], []⟩

def RSlot.free : RSlot := ⟨0, false, none, 0, 0, []⟩

/-- A virtual device at reset (R476); the smallest pool of four segments (log 2). -/
def Vdev.reset : Vdev where
  root := 0
  cmask := 0
  wbase := 0
  poolb := 0
  nseg := 4
  rings := []
  free := []
  slots := []
  cqbase := 0
  cqctl := 0
  cqhead := 0
  cqtail := 0
  held := []
  ndrop := 0
  lcount := 0
  fe := 0
  msix := 0
  last := 3
  devArea := none
  devDirty := []
  freeVa := []
  copies := []

/-- A package at reset: service level 1 (R476), every core working, nothing booted. -/
def Pkg.reset : Pkg where
  svcl := 1
  bootStep := 0
  bootReason := 0
  bootMbst := 0
  booted := false
  serial := 0
  working := 2 ^ 256 - 1
  regions := []
  vdevs := []
  genCtr := 0
  gens := []
  mbst := 0
  mbrlen := 0
  mbrsp := []
  leafIdx := 0
  minSvn := []
  images := []
  manifest := []
  repairs := []
  repairSkip := false
  hostReply := none
  freePages := []

def Sys.reset : Sys where
  hbm := []
  hbmPoison := []
  host := []
  dies := []
  pkgs := []
  launches := []
  images := []
  msgs := []
  reqs := []
  reqId := 1
  sherds := []
  purges := []
  ptwBusy := []
  parityOut := []
  planes := []
  wiring := []
  dc := 0

/-- The device right after reset: no stream runs, and VP0 of core 0 of rank 0 is the issuing stream (log 6). -/
def State.reset : State where
  sid := 0
  strm := Stream.reset 0 .vector
  core := Core.reset
  streams := []
  cores := []
  sys := Sys.reset
  agenda := []
  freeCtr := 0

end Sys2Proof.Machine
end

