-- ==== Sys2Proof/Machine/Access.lean ====
section
/-! DEFINITION. Named access to the parts of the state: streams and cores by key, dies, packages, virtual devices and
launches, and the registers of the issuing stream. Special behaviour of a register lives here: p0 reads true and m0 reads
all ones, and writes to both are discarded (R10). -/

namespace Sys2Proof.Machine

/-! ## Keys -/

/-- The core of a stream, the unit of a stream, the stream of a core and unit. -/
def coreOfSid (sid : Nat) : Nat := sid / 16
def unitOfSid (sid : Nat) : Nat := sid % 16
def sidOf (core unit : Nat) : Nat := core * 16 + unit
/-- The die rank of a core, its package, its number in the die and in the package. -/
def rankOfCore (core : Nat) : Nat := core % 65536 / 64
def pkgOfCore (core : Nat) : Nat := core % 65536 / 256
/-- The key under which the saved section of a parked logical core stands among the cores (18 R421, R439): it holds the
launch, the logical core and the die rank that keeps it. -/
def parkKey (launch lcore rank : Nat) : Nat := (launch + 1) * 2 ^ 40 + lcore * 65536 + rank * 64
def isParkKey (core : Nat) : Bool := 2 ^ 40 ≤ core
def coreInDie (core : Nat) : Nat := core % 64
def coreInPkg (core : Nat) : Nat := core % 256

/-- What an unlisted stream is. -/
def Stream.blank (sid : Nat) : Stream := Stream.reset (unitOfSid sid) (unitCls (unitOfSid sid))

def Pos.packed (p : Pos) : Nat := p.line * 16 + p.slot
def Pos.ofPacked (n : Nat) : Pos := ⟨n / 16 % 0x10000000, n % 16⟩

namespace State

/-! ## Streams and cores -/

def strmOf (s : State) (sid : Nat) : Stream :=
  if sid = s.sid then s.strm else SMap.get (Stream.blank sid) sid s.streams

def putStrm (s : State) (sid : Nat) (x : Stream) : State :=
  if sid = s.sid then { s with strm := x } else { s with streams := SMap.set (Stream.blank sid) sid x s.streams }

def modStrm (s : State) (sid : Nat) (f : Stream → Stream) : State := s.putStrm sid (f (s.strmOf sid))

/-- The key of the issuing stream's core. -/
def ck (s : State) : Nat := coreOfSid s.sid

def coreOf (s : State) (k : Nat) : Core :=
  if k = s.ck then s.core else SMap.get Core.reset k s.cores

def putCore (s : State) (k : Nat) (c : Core) : State :=
  if k = s.ck then { s with core := c } else { s with cores := SMap.set Core.reset k c s.cores }

def modCore (s : State) (k : Nat) (f : Core → Core) : State := s.putCore k (f (s.coreOf k))

/-- Make a stream the issuing one: the stream and the core that held the place go back to the maps. -/
def focus (s : State) (sid : Nat) : State :=
  let streams := SMap.set (Stream.blank s.sid) s.sid s.strm s.streams
  let cores := SMap.set Core.reset s.ck s.core s.cores
  { s with
    sid := sid
    strm := SMap.get (Stream.blank sid) sid streams
    core := SMap.get Core.reset (coreOfSid sid) cores
    streams := SMap.erase sid streams
    cores := SMap.erase (coreOfSid sid) cores }

/-! ## Device -/

def dieOf (s : State) (rank : Nat) : Die := SMap.get Die.reset rank s.sys.dies
def putDie (s : State) (rank : Nat) (d : Die) : State :=
  { s with sys := { s.sys with dies := SMap.set Die.reset rank d s.sys.dies } }
def modDie (s : State) (rank : Nat) (f : Die → Die) : State := s.putDie rank (f (s.dieOf rank))

def pkgOf (s : State) (p : Nat) : Pkg := SMap.get Pkg.reset p s.sys.pkgs
def putPkg (s : State) (p : Nat) (x : Pkg) : State :=
  { s with sys := { s.sys with pkgs := SMap.set Pkg.reset p x s.sys.pkgs } }
def modPkg (s : State) (p : Nat) (f : Pkg → Pkg) : State := s.putPkg p (f (s.pkgOf p))

def vdevOf (s : State) (p v : Nat) : Vdev := SMap.get Vdev.reset v (s.pkgOf p).vdevs
def modVdev (s : State) (p v : Nat) (f : Vdev → Vdev) : State :=
  s.modPkg p fun x => { x with vdevs := SMap.modify Vdev.reset v f x.vdevs }

def launchOf (s : State) (l : Nat) : Option Launch := SMap.get none l s.sys.launches
def putLaunch (s : State) (l : Nat) (x : Option Launch) : State :=
  { s with sys := { s.sys with launches := SMap.set none l x s.sys.launches } }
def modLaunch (s : State) (l : Nat) (f : Launch → Launch) : State :=
  match s.launchOf l with
  | some x => s.putLaunch l (some (f x))
  | none => s

def setHbm (s : State) (m : Memory) : State := { s with sys := { s.sys with hbm := m } }

/-- The 64-bit cycle counter of a die (R2), which starts with the die (log 93). -/
def cycles (s : State) (rank : Nat) : Nat := (s.sys.dc - (s.dieOf rank).origin) % 2 ^ 64

/-- The die rank and the package of the issuing stream. -/
def rank (s : State) : Nat := rankOfCore s.ck
def pkg (s : State) : Nat := pkgOfCore s.ck

/-! ## Registers of the issuing stream (R9, R10) -/

/-- The bits that a physical error flips at a site in the copy that is being executed (log 12): none where the stream has none. -/
def struck (s : State) (site : Site) : VReg :=
  s.strm.upsets.foldl (fun v u => if u.live && u.site = site then v ^^^ u.flip else v) 0

def rdG (s : State) (n : Nat) : Word := SMap.get 0 n s.strm.g ^^^ (s.struck (.g n)).setWidth 32
def rdV (s : State) (n : Nat) : VReg := SMap.get 0 n s.strm.v ^^^ s.struck (.v n)
def rdA (s : State) (n : Nat) : Addr := SMap.get 0 n s.strm.a ^^^ (s.struck (.a n)).setWidth 64
def rdP (s : State) (n : Nat) : Bool := (if n = 0 then true else SMap.get false n s.strm.p) != (s.struck (.p n)).getLsbD 0
def rdM (s : State) (n : Nat) : Word :=
  (if n = 0 then BitVec.allOnes 32 else SMap.get 0 n s.strm.m) ^^^ (s.struck (.m n)).setWidth 32
def rdB (s : State) (n : Nat) : BReg :=
  let r := SMap.get BReg.zero n s.strm.b
  let f := (s.struck (.b n)).toNat % 0x100000000
  if f = 0 then r else { r with target := Pos.ofPacked (r.target.packed ^^^ f) }
def rdQ (s : State) (n : Nat) : List QEntry := SMap.get [] n s.strm.q
def rdLc (s : State) (n : Nat) : Loop :=
  let l := SMap.get Loop.idle n s.strm.lc
  let f := (s.struck (.loop n)).toNat % 0x100000000
  if f = 0 then l else { l with last := Pos.ofPacked (l.last.packed ^^^ f) }
def markG (s : State) (n : Nat) : Mark := SMap.get .none n s.strm.gMark

def setStrm (s : State) (f : Stream → Stream) : State := { s with strm := f s.strm }
def setCore (s : State) (f : Core → Core) : State := { s with core := f s.core }
def setLatch (s : State) (f : Latch → Latch) : State := { s with strm := { s.strm with latch := f s.strm.latch } }

def putQ (s : State) (n : Nat) (q : List QEntry) : State :=
  { s with strm := { s.strm with q := SMap.set [] n q s.strm.q } }
def putLc (s : State) (n : Nat) (l : Loop) : State :=
  { s with strm := { s.strm with lc := SMap.set Loop.idle n l s.strm.lc } }

end State

/-! ## The pool word (R26, R27) -/

/-- N, the v registers of a partition. -/
def poolN (w : Word) : Nat := match w.toNat % 4 with
  | 0 => 64
  | 1 => 128
  | _ => 256

/-- T, the accumulator tiles (R229). -/
def poolT (w : Word) : Nat := w.toNat / 4 % 64

/-- F of R27. -/
def poolF (w : Word) : Nat := match w.toNat % 4 with
  | 0 => 36
  | 1 => 68
  | _ => 132

/-- The window size in bytes (R27). -/
def winSize (w : Word) : Nat := (4096 - poolF w - 64 * poolT w) * 1024

/-- A legal pool word (R26). -/
def poolOk (w : Word) : Bool := w.toNat < 256 && w.toNat % 4 ≠ 3 && poolT w ≤ 32

/-- The ring descriptor, frame, Kiln entry of a core. -/
def Core.ring (c : Core) (k : Nat) : Ring := SMap.get Ring.zero k c.rings
def Core.setRing (c : Core) (k : Nat) (r : Ring) : Core := { c with rings := SMap.set Ring.zero k r c.rings }
def Core.frame (c : Core) (n : Nat) : Option Frame := SMap.get none n c.frames
def Core.setFrame (c : Core) (n : Nat) (f : Option Frame) : Core := { c with frames := SMap.set none n f c.frames }
def Core.entry (c : Core) (n : Nat) : Option KEntry := SMap.get none n c.window
def Core.setEntry (c : Core) (n : Nat) (e : Option KEntry) : Core := { c with window := SMap.set none n e c.window }
def Core.win (c : Core) : Nat := winSize c.pool

/-- A listed value of an optional map, or none. -/
def optGet {α : Type} (k : Nat) (m : SMap (Option α)) : Option α := SMap.get none k m

/-- Whether the package accepts an image of a class: none that it lists under that identity is below the class's minimum SVN (R517). The
verdict on the signatures is an input of the step that offers it (log 13). -/
def Pkg.admits (p : Pkg) (cls ident : Nat) : Bool :=
  p.images.all fun (c, svn, i, _) => c != cls || i != ident || SMap.get 0 cls p.minSvn ≤ svn

/-- An image of a class is accepted and runs in place of the one that ran, and the class's minimum SVN rises to its own (R517). -/
def Pkg.runs (p : Pkg) (cls ident : Nat) : Pkg :=
  match p.images.find? fun (c, _, i, _) => c = cls && i = ident with
  | none => p
  | some (_, svn, _, _) => { p with
    images := p.images.map fun (c, v, i, st) => (c, v, i, if c = cls then (if i = ident then 1 else if st = 1 then 2 else st) else st)
    minSvn := SMap.set 0 cls (max svn (SMap.get 0 cls p.minSvn)) p.minSvn }

/-- The sum of a list of numbers. -/
def natSum (l : List Nat) : Nat := l.foldl (· + ·) 0

end Sys2Proof.Machine
end

