-- ==== Sys2Proof/Machine/Far.lean ====
section
/-! DEFINITION. Far memory (spec 09): page-table walks and the TLB, region ownership, pins, the HBM of every die with its
granule counters, dirty marks and parity, and the L1 and L2 caches, which are not coherent. -/

namespace Sys2Proof.Machine

/-! ## Addresses (R239) -/

/-- Die rank and die offset of a global physical address. -/
def physRank (a : Nat) : Nat := a / 0x400000000000 % 1024
def physOff (a : Nat) : Nat := a % 0x400000000000
def physPkg (a : Nat) : Nat := physRank a / 4
/-- The two HBM stacks of a die. -/
def isHbm (a : Nat) : Bool := physOff a < 0x1800000000 && a < 0x100000000000000
/-- The die register block. -/
def isDieReg (a : Nat) : Bool := 0x3F0000000000 ≤ physOff a && physOff a < 0x3F0040000000

/-! ## Page tables (R241 to R243) -/

/-- The index bits of a level: shift and count of entries. -/
def levelShift : Nat → Nat
  | 4 => 39
  | 3 => 30
  | 2 => 21
  | _ => 16
def levelSize : Nat → Nat
  | 4 => 131072
  | 1 => 32
  | _ => 512
/-- The alignment of the table that a pointer of a level names. -/
def tableAlign : Nat → Nat
  | 2 => 256
  | _ => 4096

/-- An address to which R239 gives contents. -/
def isAssigned (a : Nat) : Bool := isHbm a || (isDieReg a && a < 0x100000000000000)

/-- The HBM stack of a die, and the pseudo-channel of the stack that serves a byte (R239). -/
def hbmStack (a : Nat) : Nat := physOff a / 0xC00000000
def pseudoChannel (a : Nat) : Nat :=
  let s := physOff a % 0xC00000000
  (s / 256 % 256) ^^^ (s / 65536 % 256)

/-- The addresses of the entries that a walk from the table of a level reads. -/
def walkReads (hbm : Memory) (va : Nat) : Nat → Nat → List Nat
  | 0, _ => []
  | l + 1, table =>
    let ea := table + 8 * (va / 2 ^ levelShift (l + 1) % levelSize (l + 1))
    let e := Memory.readNat hbm ea 8
    if bit e 0 && !(bit e 1) then ea :: walkReads hbm va l (e / 256 % 0x1000000000000 * 256) else [ea]

/-- One walk from the table of a level: the leaf with the AND of the W bits and the entries read, or none (PAGE_FAULT of
R243 for a read). -/
def walk (hbm : Memory) (pkg va : Nat) : Nat → Nat → Bool → List Nat → Option Tlb
  | 0, _, _, _ => none
  | l + 1, table, w, path =>
    let ea := table + 8 * (va / 2 ^ levelShift (l + 1) % levelSize (l + 1))
    let e := Memory.readNat hbm ea 8
    let w' := w && bit e 2
    let addr := e / 256 % 0x1000000000000 * 256
    if !(bit e 0) || e / 0x100000000000000 != 0 || e / 32 % 8 != 0 then none
    else if bit e 1 then
      if l + 1 = 4 || addr % 2 ^ levelShift (l + 1) != 0 || !(isAssigned addr) then none
      else some ⟨addr + va % 2 ^ levelShift (l + 1) / 0x10000 * 0x10000, w', bit e 3, bit e 4, ea, ea :: path⟩
    else if l + 1 = 1 || addr % tableAlign (l + 1) != 0 || physPkg addr != pkg then none
    else walk hbm pkg va l addr w' (ea :: path)

/-- The walk of a virtual address in a virtual device's tree. -/
def State.walkVa (s : State) (pkg vdev va : Nat) : Option Tlb :=
  walk s.sys.hbm pkg va 4 (s.vdevOf pkg vdev).root true []

/-- A translation of an address uses or reads a table entry that a PTW of another stream holds blocked (R247). -/
def State.walkBlocked (s : State) (core pkg vdev va : Nat) : Bool :=
  let busy := (s.sys.ptwBusy.filter (·.1 != s.sid)).map Prod.snd
  !busy.isEmpty && ((match optGet (vdev * 0x10000000000 + va / 0x10000 % 0x10000000000) (s.coreOf core).tlb with
    | some t => t.path
    | none => walkReads s.sys.hbm va 4 (s.vdevOf pkg vdev).root).any busy.contains)

/-- The PTW of a stream waits no more. -/
def State.ptwDone (s : State) (sid : Nat) : State :=
  if s.sys.ptwBusy.isEmpty then s else { s with sys := { s.sys with ptwBusy := s.sys.ptwBusy.filter (·.1 != sid) } }

/-- The key of a page of a virtual device. -/
def pageKey (vdev va : Nat) : Nat := vdev * 0x10000000000 + va / 0x10000 % 0x10000000000

/-- The indexes of a table whose entries stand in memory. -/
def tableIdx (hbm : Memory) (table n : Nat) : List Nat :=
  ((hbm.filter fun (a, _) => table ≤ a && a < table + 8 * n).map fun (a, _) => (a - table) / 8).eraseDups

/-- The mapped pages of the table of a level, in ascending order: virtual and physical address of each 64 KiB page. -/
def mappedIn (hbm : Memory) (pkg : Nat) : Nat → Nat → Nat → List (Nat × Nat)
  | 0, _, _ => []
  | l + 1, table, va => (tableIdx hbm table (levelSize (l + 1))).flatMap fun i =>
    let e := Memory.readNat hbm (table + 8 * i) 8
    let addr := e / 256 % 0x1000000000000 * 256
    let v := va + i * 2 ^ levelShift (l + 1)
    if !(bit e 0) || e / 0x100000000000000 != 0 || e / 32 % 8 != 0 then []
    else if bit e 1 then
      if l + 1 = 4 || addr % 2 ^ levelShift (l + 1) != 0 || !(isHbm addr) then []
      else (List.range (2 ^ levelShift (l + 1) / 0x10000)).map fun j => (v + j * 0x10000, addr + j * 0x10000)
    else if l + 1 = 1 || addr % tableAlign (l + 1) != 0 || physPkg addr != pkg then []
    else mappedIn hbm pkg l addr v

/-- The mapped pages of a virtual device. -/
def State.mappedPages (s : State) (pkg vdev : Nat) : List (Nat × Nat) :=
  mappedIn s.sys.hbm pkg 4 (s.vdevOf pkg vdev).root 0

/-! ## Who makes an access -/

/-- The translation context of far accesses: package, virtual device, launch, logical core, physical-address mode of the
firmware context, whether R250 applies (R511), and whether it is the firmware context, which alone reaches die registers (R239). -/
structure FarCtx where
  core : Nat
  pkg : Nat
  vdev : Nat
  launch : Nat
  lcore : Nat
  phys : Bool
  regions : Bool
  fw : Bool
deriving DecidableEq, Repr

/-- The context of a stream (R240, R511). -/
def State.farCtx (s : State) (sid : Nat) : FarCtx :=
  let k := coreOfSid sid
  let c := s.coreOf k
  let x := s.strmOf sid
  if x.cls = .firmware then ⟨k, pkgOfCore k, x.fwvd.toNat % 16, 0, c.lcore, bit x.fwvd.toNat 4, false, true⟩
  else ⟨k, pkgOfCore k, (match s.launchOf c.launch with
    | some l => l.vdev
    | none => 0), c.launch, c.lcore, false, true, false⟩

/-! ## Region ownership (R249, R250) -/

/-- The fields of a region entry. -/
structure Region where
  owner : Nat
  vdev : Nat
  launch : Nat
  base : Nat
  lsz : Nat
  state : Nat
  valid : Bool
deriving DecidableEq, Repr

def Region.of (e : BitVec 128) : Region :=
  let v := e.toNat
  ⟨bitsOf v 127 112, bitsOf v 99 96, bitsOf v 95 64, bitsOf v 55 16 * 0x10000, bitsOf v 15 10, bitsOf v 9 8, bit v 0⟩

def Region.bits (r : Region) : BitVec 128 :=
  BitVec.ofNat 128 (r.owner * 2 ^ 112 + r.vdev * 2 ^ 96 + r.launch * 2 ^ 64 + r.base / 0x10000 * 0x10000 + r.lsz * 1024 +
    r.state * 256 + r.valid.toNat)

/-- The entries that match an address (R250), with their indexes. -/
def State.regionMatch (s : State) (pkg vdev launch va : Nat) : List (Nat × Region) :=
  ((s.pkgOf pkg).regions.map fun (i, e) => (i, Region.of e)).filter fun (_, r) =>
    r.valid && r.vdev = vdev && (r.launch = launch || r.launch = 0) && r.base ≤ va && va < r.base + 2 ^ r.lsz

/-- Whether R250 allows an access. -/
def regionAllows (ms : List (Nat × Region)) (lcore : Nat) (write : Bool) : Bool :=
  match ms with
  | [] => !write
  | [(_, r)] => if r.state = 1 then r.owner = lcore else r.state = 2 && !write
  | _ => false

/-! ## Translation of one access (R240, R243, R244, R250) -/

/-- A translated access: the global physical address and whether it may be cached. -/
structure FarHit where
  addr : Nat
  cached : Bool
  sa : Bool
deriving DecidableEq, Repr

/-- The launch's redirection of a virtual page by its saggar pool (R383). -/
def State.saggarPage (s : State) (launch va : Nat) : Option Nat :=
  match s.launchOf launch with
  | some l => optGet (va / 0x10000) l.saggar
  | none => none

/-- The TLB entry of an address: the core's own, else a walk. -/
def State.tlbOf (s : State) (x : FarCtx) (va : Nat) : Option Tlb :=
  match optGet (pageKey x.vdev va) (s.coreOf x.core).tlb with
  | some t => some t
  | none => s.walkVa x.pkg x.vdev va

/-- Whether an address lies in a hand-over record that FWSWAP protects (R501). -/
def State.recordProtected (s : State) (a : Nat) : Bool :=
  (s.core :: s.cores.map Prod.snd).any fun c => match c.fwRecord with
    | some (b, n) => b ≤ a && a < b + n
    | none => false

/-- Translate and check one access that stays in a page: the hit, or the cause of R308's order with its value. -/
def State.farTranslate (s : State) (x : FarCtx) (va : Nat) (write : Bool) : Except (Nat × Nat) FarHit :=
  if x.phys then
    if 0x100000000000000 ≤ va || !(isHbm va || isDieReg va) then .error (17, va)
    else if write && s.recordProtected va then .error (18, va)
    else .ok ⟨va, false, false⟩
  else if 0x100000000000000 ≤ va then .error (18, va)
  else match s.tlbOf x va with
    | none => .error (18, va)
    | some t =>
      let a := (match s.saggarPage x.launch va with
        | some p => p
        | none => t.phys) + va % 0x10000
      if write && !t.w then .error (18, va)
      else if write && s.recordProtected a then .error (18, va)
      else if physPkg a ≠ x.pkg then .ok ⟨a, false, t.sa⟩
      else if x.regions && !(regionAllows (s.regionMatch x.pkg x.vdev (x.launch % 0x100000000) va) x.lcore write) then .error (19, va)
      else if isDieReg a && !(x.fw) then .error (18, va)
      else .ok ⟨a, !(t.nc || t.sa || isDieReg a), t.sa⟩

/-- Fill the core's TLB with the page of an address. -/
def State.tlbFill (s : State) (x : FarCtx) (va : Nat) : State :=
  if x.phys then s
  else match s.tlbOf x va with
    | none => s
    | some t => s.modCore x.core fun c => { c with tlb := SMap.set none (pageKey x.vdev va) (some t) c.tlb }

/-! ## Pins (R245, R246) -/

/-- The key of a page in a pin table: the package of its virtual device, the device and the page. -/
def pinKey (pkg vdev va : Nat) : Nat := pkg * 0x100000000000000 + pageKey vdev va

/-- The die on which a page is homed: the die of its physical page, of this package or of another (R243, R245). -/
def State.pageHome (s : State) (pkg vdev va : Nat) : Nat :=
  match s.walkVa pkg vdev va with
  | some t => physRank t.phys
  | none => 4 * pkg

/-- The in-flight count of a page: the sum over the dies. -/
def State.pinCount (s : State) (key : Nat) : Nat := natSum (s.sys.dies.map fun (_, d) => SMap.get 0 key d.pins)

/-- Room in the pin tables for one more count on each of these pages (R246). -/
def State.pinRoom (s : State) (pkg : Nat) (ps : List (Nat × Nat)) : Bool :=
  let new := (ps.map fun (v, a) => (s.pageHome pkg v a, pinKey pkg v a)).eraseDups.filter fun (r, key) => SMap.get 0 key (s.dieOf r).pins = 0
  new.all fun (r, _) => (s.dieOf r).pins.length + (new.filter (·.1 = r)).length ≤ 65536

def State.pin (s : State) (pkg vdev va : Nat) : State :=
  s.modDie (s.pageHome pkg vdev va) fun d => { d with pins := SMap.modify 0 (pinKey pkg vdev va) (· + 1) d.pins }

/-- Lower the count of a page on the die that holds it. -/
def State.unpin (s : State) (pkg vdev va : Nat) : State :=
  let key := pinKey pkg vdev va
  match s.sys.dies.find? fun (_, d) => SMap.get 0 key d.pins != 0 with
  | some (r, _) => s.modDie r fun x => { x with pins := SMap.modify 0 key (· - 1) x.pins }
  | none => s

def State.pinAll (s : State) (pkg : Nat) (ps : List (Nat × Nat)) : State :=
  ps.foldl (fun t (v, a) => t.pin pkg v a) s

def State.unpinAll (s : State) (pkg : Nat) (ps : List (Nat × Nat)) : State :=
  ps.foldl (fun t (v, a) => t.unpin pkg v a) s

/-- The 64 KiB pages that a byte range touches. -/
def pagesOf (vdev lo n : Nat) : List (Nat × Nat) :=
  if n = 0 then []
  else (List.range ((lo + n - 1) / 0x10000 + 1 - lo / 0x10000)).map fun i => (vdev, (lo / 0x10000 + i) * 0x10000)

/-! ## HBM (R252, R426, R470) -/

/-- Count an access of a die to a granule of the package (R252); the first hint of R253 is decided by its reader. -/
def State.granuleCount (s : State) (from_ a : Nat) : State :=
  if from_ / 4 ≠ physPkg a then s
  else s.modDie (physRank a) fun d =>
    let up : BitVec 24 → BitVec 24 := fun n => if n = BitVec.allOnes 24 then n else n + 1
    { d with granules := SMap.modify 0 (physOff a / 0x200000 * 4 + from_ % 4) up d.granules }

/-- The dirty bit of a launch's page (R426), set by a write of the launch. -/
def State.markDirty (s : State) (launch va : Nat) : State :=
  match s.launchOf launch with
  | some l =>
    if l.area.isSome || l.repl then s.putLaunch launch (some { l with dirty := SMap.set false (va / 0x10000) true l.dirty })
    else s
  | none => s

/-- The dirty bits of an armed device (R509, R512), set by every write that performs to its page. -/
def State.markDevDirty (s : State) (pkg vdev va : Nat) : State :=
  if (s.vdevOf pkg vdev).devArea.isSome then
    s.modVdev pkg vdev fun v => { v with devDirty := SMap.set false (va / 0x10000) true v.devDirty }
  else s

/-- The write-back of a dirty line to a page of an armed device sets the page's dirty bit (R512). -/
def State.backDirty (s : State) (core a : Nat) : State :=
  let pkg := pkgOfCore core
  let armed := (s.pkgOf pkg).vdevs.filter fun (_, v) => v.devArea.isSome
  armed.foldl (fun t (v, _) => (t.mappedPages pkg v).foldl (fun u (va, pa) =>
    if pa / 0x10000 = a / 0x10000 then u.markDevDirty pkg v va else u) t) s

/-- The message of a parity update (R470): the XOR of old and new bytes to the parity member of the stripe. -/
def parityMsg (p : Parity) (rank off : Nat) (old new : List Byte) : Option Msg :=
  let stripe := (off - p.base) / 0x10000
  let dst := p.ranks.getD (stripe % 8) rank
  if off < p.base || p.base + p.size ≤ off || dst = rank then none
  else some ⟨20, rank, dst, rank, 0, 0, none, 0, 0, off, List.zipWith (· ^^^ ·) old new, 0, [], 0, 0, 0, false⟩

/-- Write bytes of HBM at their perform point: the bytes, the poison of wholly written words cleared (R389), and the parity
update of a protected partition. -/
def State.hbmWrite (s : State) (a : Nat) (bs : List Byte) : State :=
  let old := Memory.readBytes s.sys.hbm a bs.length
  let words := (List.range (bs.length / 4 + 1)).filter fun i => (a + 3) / 4 * 4 + 4 * i + 4 ≤ a + bs.length
  let s1 := { s with sys := { s.sys with
    hbm := Memory.writeBytes a bs s.sys.hbm
    hbmPoison := words.foldl (fun m i => SMap.set false ((a + 3) / 4 + i) false m) s.sys.hbmPoison } }
  match (s.dieOf (physRank a)).parity with
  | some p =>
    match parityMsg p (physRank a) (physOff a) old bs with
    | some m => { s1 with sys := { s1.sys with parityOut := s1.sys.parityOut ++ [m] } }
    | none => s1
  | none => s1

/-- Whether any word of a range of HBM is poisoned. -/
def State.hbmPoisoned (s : State) (a n : Nat) : Bool :=
  (List.range ((a + n - 1) / 4 + 1 - a / 4)).any fun i => SMap.get false (a / 4 + i) s.sys.hbmPoison

/-- Poison marks of the words that a range of local memory or of HBM touches. -/
def Core.poison_ (c : Core) (a n : Nat) : Core :=
  { c with poison := (List.range ((a + n - 1) / 4 + 1 - a / 4)).foldl (fun m i => SMap.set false (a / 4 + i) true m) c.poison }
def State.poisonHbm (s : State) (a n : Nat) : State :=
  { s with sys := { s.sys with
    hbmPoison := (List.range ((a + n - 1) / 4 + 1 - a / 4)).foldl (fun m i => SMap.set false (a / 4 + i) true m) s.sys.hbmPoison } }

/-! ## Caches (R236) -/

/-- The key of a byte in the L2 slice of a core's cluster. -/
def l2Key (core a : Nat) : Nat := coreInDie core / 8 * 0x100000000000000 + a

/-- The lines that an L1 and an L2 slice hold (R1). -/
def l1Lines : Nat := 2048
def l2Lines : Nat := 32768

/-- A byte as a core reads it through its L1, the L2 slice of its cluster and HBM, with its poison (R238). -/
def State.cachedCell (s : State) (core a : Nat) : CByte :=
  match optGet a (s.coreOf core).l1 with
  | some b => b
  | none => match optGet (l2Key core a) (s.dieOf (rankOfCore core)).l2 with
    | some b => b
    | none => ⟨Memory.read s.sys.hbm a, false, SMap.get false (a / 4) s.sys.hbmPoison⟩

def State.cachedByte (s : State) (core a : Nat) : Byte := (s.cachedCell core a).val

def State.cachedBytes (s : State) (core a n : Nat) : List Byte :=
  (List.range n).map fun i => s.cachedByte core (a + i)

/-- Consecutive bytes joined into pieces: the address and the bytes of each. -/
def joinBytes : List (Nat × Byte) → List (Nat × List Byte)
  | [] => []
  | (a, b) :: t => match joinBytes t with
    | (c, bs) :: u => if c = a + 1 then (a, b :: bs) :: u else (a, [b]) :: (c, bs) :: u
    | [] => [(a, [b])]

/-- The dirty bytes of a line of an L2 slice go to HBM with their poison; the line stays, clean. -/
def State.l2Back (s : State) (core line : Nat) : State :=
  let d := s.dieOf (rankOfCore core)
  let dirty := (List.range 128).filterMap fun i => match optGet (l2Key core (128 * line + i)) d.l2 with
    | some b => if b.dirty then some (128 * line + i, b) else none
    | none => none
  let s1 := s.putDie (rankOfCore core) { d with
    l2 := dirty.foldl (fun m (a, b) => SMap.set none (l2Key core a) (some { b with dirty := false }) m) d.l2 }
  if dirty.isEmpty then s1
  else
    let s2 := (joinBytes (dirty.map fun (a, b) => (a, b.val))).foldl (fun t (a, bs) => t.hbmWrite a bs)
      ((s1.granuleCount (rankOfCore core) (128 * line)).backDirty core (128 * line))
    let bad := dirty.filter fun (_, b) => b.poison
    if bad.isEmpty then s2
    else { s2 with sys := { s2.sys with hbmPoison := bad.foldl (fun m (a, _) => SMap.set false (a / 4) true m) s2.sys.hbmPoison } }

/-- Drop a line of L1 and of the L2 slice. -/
def State.l1Drop (s : State) (core line : Nat) : State :=
  s.modCore core fun c => { c with l1 := c.l1.filter fun (a, _) => a / 128 != line }
def State.l2Drop (s : State) (core line : Nat) : State :=
  s.modDie (rankOfCore core) fun d => { d with l2 := d.l2.filter fun (a, _) => a / 128 != l2Key core (128 * line) / 128 }

/-- A line that leaves a full slice for a new one: the lowest-numbered other line (log 87). -/
def State.l2Evict (s : State) (core line : Nat) : State :=
  let base := l2Key core 0
  let held := ((s.dieOf (rankOfCore core)).l2.filterMap fun (p : Nat × Option CByte) =>
    if base ≤ p.1 && p.1 < base + 0x100000000000000 then some ((p.1 - base) / 128) else none).eraseDups
  match held.find? (· != line) with
  | some l => if l2Lines < held.length then (s.l2Back core l).l2Drop core l else s
  | none => s

/-- The dirty bytes of a line of L1 go to the L2 slice with their poison; the line stays, clean. -/
def State.l1Back (s : State) (core line : Nat) : State :=
  let c := s.coreOf core
  let dirty := (List.range 128).filterMap fun i => match optGet (128 * line + i) c.l1 with
    | some b => if b.dirty then some (128 * line + i, b) else none
    | none => none
  let s1 := s.putCore core { c with
    l1 := dirty.foldl (fun m (a, b) => SMap.set none a (some { b with dirty := false }) m) c.l1 }
  let s2 := s1.modDie (rankOfCore core) fun d =>
    { d with l2 := dirty.foldl (fun m (a, b) => SMap.set none (l2Key core a) (some b) m) d.l2 }
  if dirty.isEmpty then s2 else (s2.backDirty core (128 * line)).l2Evict core line

/-- Write a line of a core's caches back to HBM. -/
def State.lineBack (s : State) (core line : Nat) : State := (s.l1Back core line).l2Back core line

/-- A line that leaves a full L1 for a new one, likewise. -/
def State.l1Evict (s : State) (core line : Nat) : State :=
  let held := ((s.coreOf core).l1.map fun (p : Nat × Option CByte) => p.1 / 128).eraseDups
  match held.find? (· != line) with
  | some l => if l1Lines < held.length then (s.l1Back core l).l1Drop core l else s
  | none => s
/-- The lines that a core's L1 and its cluster's L2 slice hold. -/
def State.linesOf (s : State) (core : Nat) : List Nat :=
  let base := l2Key core 0
  let near := (s.coreOf core).l1.map fun (p : Nat × Option CByte) => p.1 / 128
  let slice := (s.dieOf (rankOfCore core)).l2.filterMap fun (p : Nat × Option CByte) =>
    if base ≤ p.1 && p.1 < base + 0x100000000000000 then some ((p.1 - base) / 128) else none
  (near ++ slice).eraseDups

/-- Fetch a 128-byte line into the L2 slice where it is not wholly there, which its home counts (R252), and into L1 where `l1` is set;
bytes already there stay. -/
def State.fillLine (s : State) (core a : Nat) (l1 : Bool) : State :=
  let line := a / 128 * 128
  let bytes := (List.range 128).map (line + ·)
  let near := l1 && bytes.all fun b => (optGet b (s.coreOf core).l1).isSome
  let mid := bytes.all fun b => (optGet (l2Key core b) (s.dieOf (rankOfCore core)).l2).isSome
  if near then s
  else
    let s1 := if mid then s else ((s.modDie (rankOfCore core) fun d =>
      { d with l2 := bytes.foldl (fun m b => if (optGet (l2Key core b) m).isSome then m
          else SMap.set none (l2Key core b) (some ⟨Memory.read s.sys.hbm b, false, SMap.get false (b / 4) s.sys.hbmPoison⟩) m) d.l2 }).granuleCount
      (rankOfCore core) line).l2Evict core (line / 128)
    if l1 then (s1.modCore core fun c =>
      { c with l1 := bytes.foldl (fun m b => if (optGet b m).isSome then m
          else SMap.set none b (some { s1.cachedCell core b with dirty := false }) m) c.l1 }).l1Evict core (line / 128)
    else s1

/-- Write bytes into a core's L1 as dirty data (write-allocate without fetch): a poisoned word that is written whole is clean data, one
that is written in part stays poisoned (R389). -/
def State.l1Write (s : State) (core a : Nat) (bs : List Byte) : State :=
  let whole := fun (b : Nat) => a ≤ b / 4 * 4 && b / 4 * 4 + 4 ≤ a + bs.length
  ((List.range ((a + bs.length - 1) / 128 + 1 - a / 128)).map (a / 128 + ·)).foldl (fun t l => t.l1Evict core l) (s.modCore core fun c =>
    { c with l1 := (bs.zipIdx.foldl (fun m (b, i) =>
        SMap.set none (a + i) (some ⟨b, true, !(whole (a + i)) && (s.cachedCell core (a + i)).poison⟩) m) c.l1) })

/-- Write back, and where `drop` is set invalidate, every line of a core's caches that meets a physical range. -/
def State.flushRange (s : State) (core lo n : Nat) (drop : Bool) : State :=
  ((s.linesOf core).filter fun l => 128 * l < lo + n && lo < 128 * l + 128).foldl
    (fun t l => let t1 := t.lineBack core l
      if drop then (t1.l1Drop core l).l2Drop core l else t1) s

/-- Every core of a package. -/
def coresOfPkg (pkg : Nat) : List Nat := (List.range 256).map (256 * pkg + ·)

/-- Write back and invalidate the cached lines of a virtual range in the core's caches, or in every core of the package
(R263, R303): page by page, skipping pages that are not mapped. -/
def State.flushVirtual (s : State) (cores : List Nat) (x : FarCtx) (va n : Nat) (drop : Bool) : State :=
  (pagesOf x.vdev va n).foldl (fun t (_, pv) =>
    match t.tlbOf x pv with
    | none => t
    | some e =>
      let lo := max va pv
      let hi := min (va + n) (pv + 0x10000)
      let base := (s.saggarPage x.launch pv).getD e.phys
      cores.foldl (fun u k => u.flushRange k (base + lo % 0x10000) (hi - lo) drop) t) s

/-- Bytes of a translated access as the core sees them. -/
def State.farBytes (s : State) (core : Nat) (h : FarHit) (n : Nat) : List Byte :=
  if h.cached then s.cachedBytes core h.addr n else Memory.readBytes s.sys.hbm h.addr n

/-- Whether any word that a translated access touches is poisoned, as the core sees it. -/
def State.farPoisoned (s : State) (core : Nat) (h : FarHit) (n : Nat) : Bool :=
  if h.cached then (List.range (4 * ((h.addr + n - 1) / 4 + 1 - h.addr / 4))).any fun i => (s.cachedCell core (h.addr / 4 * 4 + i)).poison
  else s.hbmPoisoned h.addr n

/-- A far write of this package at its perform point (R255): into L1 on a cached page, else to its home memory. -/
def State.farPut (s : State) (x : FarCtx) (va : Nat) (h : FarHit) (bs : List Byte) : State :=
  let s1 := if h.cached then s.l1Write x.core h.addr bs else s.hbmWrite h.addr bs
  if x.phys then s1 else (s1.markDirty x.launch va).markDevDirty x.pkg x.vdev va

/-- A far write whose home counts it where it is not cached (R252). -/
def State.farWrite (s : State) (x : FarCtx) (va : Nat) (h : FarHit) (bs : List Byte) : State :=
  let t := s.farPut x va h bs
  if h.cached then t else t.granuleCount (rankOfCore x.core) h.addr

/-- One chunk of a copy counts once at each granule of HBM that it reads or writes (R252, log 107). -/
def State.chunkCount (s : State) (from_ : Nat) (pas : List Nat) : State :=
  ((pas.map fun a => a / 0x200000).eraseDups).foldl (fun t g => t.granuleCount from_ (g * 0x200000)) s

/-- Bytes of a translated access become poisoned where they stand: in the core's L1, in its cluster's L2 slice, or in HBM. -/
def State.farPoison (s : State) (core : Nat) (h : FarHit) (n : Nat) : State :=
  let mark : Option CByte → Option CByte := Option.map fun b => { b with poison := true }
  let put := fun (t : State) (a : Nat) =>
    let d := t.dieOf (rankOfCore core)
    if !h.cached then t.poisonHbm a 1
    else if (optGet a (t.coreOf core).l1).isSome then t.modCore core fun c => { c with l1 := SMap.modify none a mark c.l1 }
    else if (optGet (l2Key core a) d.l2).isSome then t.putDie (rankOfCore core) { d with l2 := SMap.modify none (l2Key core a) mark d.l2 }
    else t.poisonHbm a 1
  (List.range n).foldl (fun t i => put t (h.addr + i)) s

/-- The bytes of a launch's virtual range as its front end reads them, uncached; an unmapped page reads as none. -/
def State.vaBytes (s : State) (pkg vdev : Nat) : Nat → Nat → Option (List Byte)
  | _, 0 => some []
  | va, n + 1 => match s.walkVa pkg vdev va, s.vaBytes pkg vdev (va + 1) n with
    | some t, some bs => some (Memory.read s.sys.hbm (t.phys + va % 0x10000) :: bs)
    | _, _ => none

end Sys2Proof.Machine
end

