-- ==== Sys2Proof/Machine/Launch.lean ====
section
/-! DEFINITION. Launches as a whole: logical cores, sherd records (16 R394 to R396), completion-queue records (22 R495),
removal of Kiln entries (07 R183), purges (16 R380, R381), the start and end of a launch on its cores, teardown and replay
(16 R383 to R387). -/

namespace Sys2Proof.Machine

/-! ## Identifiers and logical cores (R167, R452, R462) -/

def launchKey (pkg id : Nat) : Nat := pkg * 0x100000000 + id
def launchId (lk : Nat) : Nat := lk % 0x100000000
def launchPkg (lk : Nat) : Nat := lk / 0x100000000

/-- The logical die of a logical core and the first logical core of that die, from the counts of each die. -/
def lcoreDie : List Nat → Nat → Nat → Nat → Option (Nat × Nat)
  | [], _, _, _ => none
  | n :: t, c, i, base => if c < base + n then some (i, base) else lcoreDie t c (i + 1) (base + n)

/-- The number of logical cores of a launch. -/
def Launch.ncores (l : Launch) : Nat := natSum l.cores

/-- The logical rank that holds a logical core. -/
def Launch.lcoreRank (l : Launch) (c : Nat) : Option Nat :=
  match lcoreDie l.cores c 0 0 with
  | some (d, _) => l.ranks[d]?
  | none => none

/-- The key of a launch: its package and identifier. -/
def Launch.key (l : Launch) (id : Nat) : Nat := launchKey l.pkg id

/-- The core on which a logical core of this package stands: the physical core where it is resident, or the key of its saved
section (R439). -/
def Launch.coreAt (l : Launch) (lk c : Nat) : Option Nat :=
  match optGet c l.parked with
  | some (r, _) => some (parkKey lk c r)
  | none => optGet c l.maps

/-- The physical cores that a launch holds on its package, with their logical numbers: none while it waits for its cores or stands
in its image. -/
def Launch.residents (l : Launch) : List (Nat × Nat) :=
  if l.phase = .waiting || l.phase = .frozen then [] else l.maps.filterMap fun (c, k) => if (optGet c l.parked).isSome then none else k.map fun x => (c, x)

/-- The cores of a launch on its package, resident or parked. -/
def Launch.allCores (l : Launch) (lk : Nat) : List Nat :=
  l.residents.map Prod.snd ++ l.parked.filterMap fun (c, x) => x.map fun (r, _) => parkKey lk c r

/-- The keys of a launch's parts on every package. -/
def State.launchParts (s : State) (lk : Nat) : List Nat :=
  match s.launchOf lk with
  | some l => if l.multi then (s.sys.launches.map Prod.fst).filter fun j => launchId j = launchId lk else [lk]
  | none => []

/-! ## Little-endian bytes (R3) -/

def leBytes : Nat → Nat → List Byte
  | 0, _ => []
  | n + 1, v => BitVec.ofNat 8 v :: leBytes n (v / 256)

def natOfBytes : List Byte → Nat
  | [] => 0
  | b :: t => b.toNat + 256 * natOfBytes t

/-- Replace bytes of a record from an offset on. -/
def patch (off : Nat) (new old : List Byte) : List Byte := old.take off ++ new ++ old.drop (off + new.length)

/-! ## Sherd records (R394 to R396) -/

/-- The fields of a record that its event supplies. -/
structure Sherd where
  kind : Nat
  flags : Nat := 0
  tag : Nat := 0
  launch : Nat := 0
  core : Nat := 0
  unit : Nat := 0
  src1 : Nat := 0
  synd : Nat := 0
  addr : Nat := 0
  val0 : Nat := 0
  val1 : Nat := 0
  val2 : Nat := 0
deriving DecidableEq, Repr

def Sherd.bytes (r : Sherd) : List Byte :=
  leBytes 1 r.kind ++ leBytes 1 r.flags ++ leBytes 2 r.tag ++ leBytes 4 0 ++ leBytes 8 0 ++ leBytes 4 (launchId r.launch) ++
    leBytes 4 (rankOfCore r.core + coreInDie r.core / 8 * 1024 + r.core % 8 * 8192 + r.unit * 65536) ++
    leBytes 4 r.src1 ++ leBytes 4 r.synd ++ leBytes 8 r.addr ++ leBytes 8 r.val0 ++ leBytes 8 r.val1 ++ leBytes 8 r.val2

/-- Append a record to a die's log ring with the die's own SEQ, CYCLE and rank (R396, R397); a record that finds the ring
full of records that firmware has not taken is lost, and the next one written carries FLAGS bit 2. Answers the SEQ. -/
def State.logRecord (s : State) (rank : Nat) (rec : List Byte) : State × Nat :=
  let d := s.dieOf rank
  let seq := (d.logSeq + 1) % 0x100000000
  let src0 := natOfBytes ((rec.drop 20).take 4)
  let fl := natOfBytes ((rec.drop 1).take 1)
  let full := d.logHead - d.logTail ≥ d.logSize
  let bs := patch 20 (leBytes 4 (src0 / 1024 * 1024 + rank)) (patch 8 (leBytes 8 (s.cycles rank)) (patch 4 (leBytes 4 seq)
    (patch 1 (leBytes 1 (fl ||| if d.logLost then 4 else 0)) rec)))
  if full then (s.putDie rank { d with logSeq := seq, logLost := true }, seq)
  else
    let s1 := s.putDie rank { d with logSeq := seq, logLost := false, logHead := d.logHead + 1 }
    let s2 := s1.hbmWrite (d.logBase + 64 * (d.logHead % d.logSize)) bs
    ({ s2 with sys := { s2.sys with sherds := s2.sys.sherds ++ [(rank, bs)] } }, seq)

def State.sherdSeq (s : State) (rank : Nat) (r : Sherd) : State × Nat := s.logRecord rank r.bytes
def State.sherd (s : State) (rank : Nat) (r : Sherd) : State := (s.sherdSeq rank r).1

/-- Add to a leaky bucket, and write a record of kind 0x16 when its fill rises to MARK (R392). -/
def bucketAdd (b : BitVec 16) (n : Nat) : BitVec 16 := BitVec.ofNat 16 (min 65535 (b.toNat + n))

/-- The bucket classes: 0 SRAM bank, 1 vector lane, 2 systolic row, 3 systolic column, 4 L2 bank, 5 HBM pseudo-channel,
6 cluster; the key of a core's bucket is class × 65536 + index. MARK of a class, 65535 where none is set (log 2). -/
def Die.markOf (d : Die) (cls : Nat) : Nat := SMap.get 65535 cls d.mark
def Die.leakOf (d : Die) (cls : Nat) : Nat := SMap.get 31 cls d.leak

/-- The unit and SRC1 of a core's bucket (R394, log 97): a lane or a row in bits 7:0, a bank or a column in 15:8. -/
def bucketSite (cls ix : Nat) : Nat × Nat := match cls with
  | 0 => (4, ix * 256)
  | 1 => (ix / 64, ix % 64)
  | 2 => (5, ix)
  | _ => (5, ix * 256)

/-- Add to a bucket of a core. -/
def State.coreBucket (s : State) (k cls ix n : Nat) : State :=
  let c := s.coreOf k
  let key := cls * 65536 + ix
  let old := SMap.get 0 key c.buckets
  let new := bucketAdd old n
  let mark := (s.dieOf (rankOfCore k)).markOf cls
  let hit := new.toNat ≥ mark && old.toNat < mark && !(SMap.get false key c.marked)
  let s1 := s.putCore k { c with
    buckets := SMap.set 0 key new c.buckets
    marked := if hit then SMap.set false key true c.marked else c.marked }
  if hit then s1.sherd (rankOfCore k) {
    kind := 0x16, core := k, launch := c.launch, unit := (bucketSite cls ix).1, src1 := (bucketSite cls ix).2 + c.lcore * 65536
    synd := new.toNat }
  else s1

/-- The cluster, unit and SRC1 of a die's bucket (log 97): L2 banks count on through the clusters, 16 each, pseudo-channels through the
stacks. -/
def dieBucketSite (cls ix : Nat) : Nat × Nat × Nat := match cls with
  | 4 => (ix / 16, 9, ix % 16 * 256)
  | 5 => (0, 10, ix % 256 * 256 + ix / 256)
  | _ => (ix, 11, 0)

/-- Add to a bucket of a die (L2 banks, HBM pseudo-channels, clusters). -/
def State.dieBucket (s : State) (rank cls ix n : Nat) : State :=
  let d := s.dieOf rank
  let key := cls * 65536 + ix
  let old := SMap.get 0 key d.buckets
  let new := bucketAdd old n
  let hit := new.toNat ≥ d.markOf cls && old.toNat < d.markOf cls && !(SMap.get false key d.marked)
  let s1 := s.putDie rank { d with
    buckets := SMap.set 0 key new d.buckets
    marked := if hit then SMap.set false key true d.marked else d.marked }
  let (cluster, unit, src1) := dieBucketSite cls ix
  if hit then s1.sherd rank { kind := 0x16, core := rank * 64 + cluster * 8, unit := unit, src1 := src1, synd := new.toNat }
  else s1

/-! ## Records to the host (R495) -/

/-- A 64-byte record without its PHASE bit, which is set when the record is written. -/
structure HostRec where
  kind : Nat
  ring : Nat := 0
  tag : Nat := 0
  status : Nat := 0
  cookie : Nat := 0
  launch : Nat := 0
  seq : Nat := 0
  fcsr : Nat := 0
  icnt : Nat := 0
  shseq : Nat := 0
  replays : Nat := 0
  aux : Nat := 0
deriving DecidableEq, Repr

def HostRec.bytes (r : HostRec) : List Byte :=
  leBytes 1 r.kind ++ leBytes 1 r.ring ++ leBytes 2 r.tag ++ leBytes 4 r.status ++ leBytes 8 r.cookie ++
    leBytes 4 (launchId r.launch) ++ leBytes 4 r.seq ++ leBytes 4 r.fcsr ++ leBytes 4 r.icnt ++ leBytes 4 r.shseq ++
    leBytes 4 r.replays ++ leBytes 4 r.aux ++ leBytes 20 0

/-- Records wait in the device in the order of their events (R496, R497). -/
def State.pushRecord (s : State) (pkg vdev : Nat) (r : HostRec) : State :=
  s.modVdev pkg vdev fun v => { v with held := v.held ++ [r.bytes] }

/-! ## Streams and Kiln entries that end -/

/-- A stream that stops for good: its landing queue, queue entries and loop state are discarded (R380). -/
def Stream.discard (x : Stream) : Stream :=
  { x with
    run := .off, q := [], lc := [], flight := [], landing := [], fresh := false, endWait := false, stall := 0, hold := 0, handler := false
    predictor := [], lost := [], rbar := .none, vamo := none, sysf := false, first := 0, tied := false, trapDue := none, latch := Latch.clear }

/-! ## System faults (R369) -/

/-- Whether an event for the firmware is a fault of a stream or of a copy: KILN_DEADLOCK, a yield or freeze request and UNSAVEABLE are
events of the core. -/
def SysEvent.isFault (e : SysEvent) : Bool := e.cause != 27 && e.cause != 28 && e.cause != 32

/-- The system faults of a core that are pending. -/
def Core.pendingFaults (c : Core) : Nat := ((c.sysQ ++ c.sysCur).filter SysEvent.isFault).length

/-- Faults beyond the eight that may be pending wait until there is room (log 96). -/
def Core.refill (c : Core) : Core :=
  { c with sysQ := c.sysQ ++ c.sysOver.take (8 - c.pendingFaults), sysOver := c.sysOver.drop (8 - c.pendingFaults) }

/-- Events that a test names are gone. -/
def Core.forgetEvents (c : Core) (gone : SysEvent → Bool) : Core :=
  ({ c with
    sysQ := c.sysQ.filter fun e => !(gone e)
    sysCur := c.sysCur.filter fun e => !(gone e)
    sysOver := c.sysOver.filter fun e => !(gone e) }).refill

/-- The event of a fault that a discarded stream or a dropped copy had raised. -/
def SysEvent.of (units copies : List Nat) (e : SysEvent) : Bool :=
  e.isFault && match e.copyId with
    | some id => copies.contains id
    | none => units.contains e.unit

/-- The tag under which a deferred update or send was made, none where a purge leaves it (a POSTX is answered by its receiver). -/
def Deferred.tag : Deferred → Option Nat
  | .cone _ _ _ t _ | .csigR _ _ _ _ _ t _ | .notify _ _ _ _ _ t _ => some t
  | .postx _ _ _ _ _ _ _ _ | .tags _ | .kmode _ _ => none

/-- Fields of a task record (R173). -/
def recTag (ws : List Word) : Nat := (ws.getD 0 0).toNat / 65536
def recKind (ws : List Word) : Nat := (ws.getD 0 0).toNat % 16
def recNreg (ws : List Word) : Nat := (ws.getD 0 0).toNat / 4096 % 8
def KEntry.tag (e : KEntry) : Nat := recTag e.words

/-- The sequence number of the task that made a deferred update or send, 0 for the control unit. -/
def Deferred.owner : Deferred → Option Nat
  | .cone _ _ _ _ o | .csigR _ _ _ _ _ _ o | .notify _ _ _ _ _ _ o | .postx _ _ _ _ _ _ o _ => some o
  | .tags _ | .kmode _ _ => none

/-- Remove an entry: its slot is free and every edge from it is gone (R183, R185). -/
def Core.dropEntry (c : Core) (n : Nat) : Core :=
  { c with window := (SMap.set none n none c.window).map fun (j, e) =>
      (j, e.map fun x => { x with edges := x.edges.filter (· != n) }) }

/-- The work of a task that a removed entry leaves in its core: pending tile writes and rows, and its copies (R380). -/
def Engine.dropTask (e : Engine) (seq : Nat) : Engine :=
  { e with
    writes := e.writes.filter (·.own != seq)
    tiles := e.tiles.filter (·.2 != seq)
    rows := e.rows.filter fun r => match r with
      | .store _ _ _ o => o != seq
      | .load _ _ _ _ o => o != seq
      | .flags _ _ o => o != seq
      | .slot _ _ _ o => o != seq }

/-- A core and its streams after a purge of a tag: the purged core, its streams, the pages to unpin and the number of
iterations that ended (R380). -/
def purgeUnits (c : Core) (xs : List (Nat × Stream)) (tag : Nat) : Core × List (Nat × Stream) × List (Nat × Nat) × Nat :=
  let hit := c.window.filterMap fun (n, e) => match e with
    | some x => if x.tag = tag then some (n, x) else none
    | none => none
  let c1 := hit.foldl (fun d (n, _) => d.dropEntry n) c
  let iters := (c.iterQ.filter (·.tag = tag)).length
  let prog := match xs.find? (·.1 = 4) with
    | some (_, x) => c.iter.isSome && x.tagr.toNat = tag
    | none => false
  let stops := fun (u : Nat) (x : Stream) =>
    (hit.any fun (n, e) => (e.state = .running || e.state = .held) && e.unit = some u && x.slot = n) || (u = 4 && prog)
  let xs1 := xs.map fun (u, x) =>
    let y := if stops u x then x.discard else x
    (u, { y with eng := hit.foldl (fun g (_, e) => g.dropTask e.seq) y.eng })
  let gone := SysEvent.of ((xs.filter fun (u, x) => stops u x).map Prod.fst) ((c1.copies.filter (·.tag = tag)).map (·.id))
  let c2 : Core := { c1 with
    commit := hit.foldl (fun m (n, _) => SMap.erase n m) c1.commit
    commitFe := hit.foldl (fun m (n, _) => SMap.erase n m) c1.commitFe
    deferred := c1.deferred.filter (·.tag != some tag)
    copies := c1.copies.filter (·.tag != tag)
    iterQ := c1.iterQ.filter (·.tag != tag)
    iter := if prog then none else c1.iter
    inbound := c1.inbound.filter (·.tag != tag)
    rings := c1.rings.map fun (k, r) => (k, { r with
      reserved := r.reserved.map fun v =>
      if v.tag = tag then { v with done := true, poison := true } else v
      fill := if r.reserved.any fun v => v.tag = tag && !v.done && v.owner = 0 then 0 else r.fill }) }
  (c2.forgetEvents gone, xs1, hit.flatMap (fun (_, e) => e.pages), iters + prog.toNat)

/-- The streams 0 to 7 of a core. -/
def State.unitsOf (s : State) (k : Nat) : List (Nat × Stream) := (List.range 8).map fun u => (u, s.strmOf (sidOf k u))

def State.putUnits (s : State) (k : Nat) (xs : List (Nat × Stream)) : State :=
  xs.foldl (fun t (u, x) => t.putStrm (sidOf k u) x) s

def State.send (s : State) (m : Msg) : State := { s with sys := { s.sys with msgs := s.sys.msgs ++ [m] } }

/-- The reply to a request: its kind by R450, status and cause (R448), data. -/
def Msg.reply (m : Msg) (status cause : Nat) (data : List Byte) : Msg :=
  let kind := match m.kind with
    | 2 => if m.args.getD 8 0 = 1 then 13 else 3
    | 5 => 6
    | 11 => 12
    | 19 => 4
    | _ => 13
  ⟨kind, m.dst, m.src, m.dst, m.tag, m.launch, none, m.dlc, m.slc, m.addr, data, m.op, [], m.req, status, cause, false⟩

/-- The reply word of a POSTX (R216). -/
def postxWord (st info : Nat) : List Byte := leBytes 4 (st * 0x40000000 + info)

def Window.fresh (sinc seq : Nat) : Window := ⟨sinc, seq, [], [], [], []⟩

/-- Keep the reply to a sequence number, dropping the oldest beyond 64 (R455). -/
def Window.keep (w : Window) (seq : Nat) (r : Msg) : Window :=
  let all := (w.replies.filter (·.1 != seq)) ++ [(seq, r)]
  { w with replies := all.drop (all.length - 64), progress := w.progress.filter (· != seq) }

/-- The reply to a request is ready: a sequenced one is kept in the window of its source, and it is sent (R455). -/
def State.answer (s : State) (m r : Msg) : State :=
  let s1 := match m.seq with
    | some (n, _, sinc) => s.modDie m.dst fun d => match optGet m.src d.windows with
      | some w => if w.sinc = sinc then { d with windows := SMap.set none m.src (some (w.keep n r)) d.windows } else d
      | none => d
    | none => s
  s1.send r

/-- A purge on one resident core (R380); the inbound posts that it drops are refused with cause PURGED. -/
def State.purgeCore (s : State) (k tag : Nat) : State × Nat :=
  let c := s.coreOf k
  let (c1, xs, pages, n) := purgeUnits c (s.unitsOf k) tag
  let s1 := ((s.putCore k c1).putUnits k xs).unpinAll (pkgOfCore k) pages
  ((c.inbound.filter (·.tag = tag)).foldl
    (fun t p => t.answer p (p.reply 0 0 (if p.kind = 5 then postxWord 2 33 else []))) s1, n)

/-! ## Launch start on a core (R168) -/

/-- A core as a launch finds it: everything scrubbed but what belongs to the hardware and to the firmware context. -/
def Core.scrub (c : Core) (lk lcore : Nat) (pool : Word) (code : Memory) (len : Nat) : Core :=
  { Core.reset with
    launch := lk, lcore := lcore, pool := pool, ac := c.ac, code := code, codeLen := len
    fwCode := c.fwCode, fwLen := c.fwLen, copyId := c.copyId, age := c.age, rowOff := c.rowOff, laneMap := c.laneMap
    bankMap := c.bankMap, buckets := c.buckets, marked := c.marked, fshare := c.fshare, fwUsed := c.fwUsed, cuAc := c.cuAc
    fwst := c.fwst, fwShadow := c.fwShadow, fwDue := c.fwDue, fwBundles := c.fwBundles, fwRecord := c.fwRecord
    fwOldRev := c.fwOldRev, fwOldCode := c.fwOldCode, fwOldLen := c.fwOldLen, fwPd := c.fwPd, sysQ := c.sysQ, sysCur := c.sysCur
    sysOver := c.sysOver, relAc := c.relAc, fwWin := c.fwWin, tlb := c.tlb }

/-- The launch bases in a16 to a31 (R29, R168). -/
def lbRegs (lb : SMap Addr) : SMap Addr := lb.map fun (n, a) => (n + 16, a)

/-- A stream at launch start: registers scrubbed, launch bases in place, the initial PCTL.TBRK (R168, R488). -/
def Stream.scrub (x : Stream) (lb : SMap Addr) (tbrk : Bool) : Stream :=
  { Stream.reset x.unit x.cls with
    a := if x.unit < 5 then lbRegs lb else [], pctl := if tbrk then 1 else 0, yctl := x.yctl, acAt := x.acAt
    cyc := x.cyc, upsets := x.upsets }

/-- The code image of a launch as its line store takes it: the bytes from the image's base (R56, R62). -/
def State.imageBytes (s : State) (pkg vdev image : Nat) : Option (List Byte) :=
  match s.vaBytes pkg vdev image 64 with
  | none => none
  | some h => s.vaBytes pkg vdev image (64 * natOfBytes ((h.drop 12).take 4))

/-- Start a launch on one physical core as a logical core. -/
def State.startCore (s : State) (lk k lc : Nat) (l : Launch) : State :=
  let bs := (s.imageBytes l.pkg l.vdev l.image).getD []
  let s1 := s.putCore k ((s.coreOf k).scrub lk lc l.pool (Memory.writeBytes 0 bs []) (bs.length / 64))
  (List.range 8).foldl (fun t u => t.modStrm (sidOf k u) fun x => x.scrub l.lb l.tbrk) s1

/-! ## The end of a launch -/

/-- Write back and invalidate every line that a core's caches hold (R274). -/
def State.flushCore (s : State) (k : Nat) : State :=
  let t := (s.linesOf k).foldl (fun u l => ((u.lineBack k l).l1Drop k l).l2Drop k l) s
  t.modCore k fun c => { c with l1 := [] }

/-- Free a core: its streams stop, its window and queues are empty, and it belongs to no launch (R385). -/
def State.freeCore (s : State) (k : Nat) : State :=
  let c := s.coreOf k
  let pages := c.window.flatMap (fun (_, e) => match e with
    | some x => x.pages
    | none => []) ++ c.frames.flatMap (fun (_, f) => match f with
    | some x => x.pages
    | none => [])
  let s1 := (s.unpinAll (pkgOfCore k) pages).putCore k { c with
    launch := 0, window := [], frames := [], iterQ := [], iter := none, inbound := [], commit := [], copies := []
    deferred := [], conePend := [], heldBw := [], ahead := none, gated := false, yreq := false, yrem := 0, deadlock := 0
    parking := false, bwDone := [], commitFe := [], sysQ := c.sysQ.filter (·.unit = 8), sysCur := [], sysOver := [] }
  (List.range 8).foldl (fun t u => t.modStrm (sidOf k u) fun x => { x.discard with eng := Engine.idle }) s1

/-- Copy a 64 KiB page with its poison. -/
def State.copyPage (s : State) (src dst : Nat) : State :=
  let bad := s.sys.hbmPoison.filterMap fun (w, b) => if b && src / 4 ≤ w && w < src / 4 + 0x4000 then some (w - src / 4) else none
  let s1 := s.hbmWrite dst (Memory.readBytes s.sys.hbm src 0x10000)
  { s1 with sys := { s1.sys with hbmPoison := bad.foldl (fun m w => SMap.set false (dst / 4 + w) true m) s1.sys.hbmPoison } }

/-- The saggar pages of a launch replace the originals (R384): by a swap of the page's leaf, and by a copy back where a larger leaf maps
the page (log 94). The page that is no longer mapped is free; TLB entries of the pages go. -/
def State.saggarSwap (s : State) (l : Launch) : State :=
  l.saggar.foldl (fun t (vp, p) => match p, t.walkVa l.pkg l.vdev (vp * 0x10000) with
    | some phys, some w =>
      let e := Memory.readNat t.sys.hbm w.leaf 8
      let swap := w.path.length = 4
      let t1 := (if swap then t.hbmWrite w.leaf (leBytes 8 (e % 0x10000 + phys / 0x10000 * 0x10000)) else t.copyPage phys w.phys).modPkg l.pkg
        fun x => { x with freePages := x.freePages ++ [if swap && physPkg w.phys = l.pkg then w.phys else phys] }
      (coresOfPkg l.pkg).foldl (fun u k => if (optGet (pageKey l.vdev (vp * 0x10000)) (u.coreOf k).tlb).isSome
        then u.modCore k fun c => { c with tlb := SMap.erase (pageKey l.vdev (vp * 0x10000)) c.tlb } else u) t1
    | _, _ => t) s

/-- Each lent region entry returns to LAUNCH = 0 with its former OWNER (R494). -/
def State.returnRegions (s : State) (l : Launch) : State :=
  s.modPkg l.pkg fun p => { p with regions := l.lent.foldl (fun m (i, owner) =>
    SMap.modify 0 i (fun e => ({ Region.of e with launch := 0, owner := owner } : Region).bits) m) p.regions }

/-- Free every core of a launch; the sections of its parked cores go. -/
def State.freeCores (s : State) (lk : Nat) (l : Launch) : State :=
  (l.allCores lk).foldl (fun t k => let u := t.freeCore k
    if isParkKey k then (List.range 8).foldl (fun v n => v.putStrm (sidOf k n) (Stream.blank (sidOf k n))) (u.putCore k Core.reset)
    else u) s

/-- The pages of the tag tables that a launch's nest records still pin (R196). -/
def Launch.tabPages (l : Launch) : List (Nat × Nat) := l.nests.flatMap (fun n => n.tab) ++ match l.run with
  | some r => r.nest.tab
  | none => []

/-- An invocation of a resident slot has ended: a slot that SLOTRM has marked is freed with the last one, and its record written
(R492). -/
def State.slotEnds (s : State) (pkg vdev n : Nat) : State :=
  let r := SMap.get RSlot.free n (s.vdevOf pkg vdev).slots
  let put := fun (t : State) (y : RSlot) => t.modVdev pkg vdev fun v => { v with slots := SMap.set RSlot.free n y v.slots }
  match r.removing with
  | some (ring, seq, cookie) =>
    if r.running ≤ 1 then
      ((put s { RSlot.free with gen := r.gen }).unpinAll pkg r.pages).pushRecord pkg vdev {
        kind := 4, ring := ring, cookie := cookie, seq := seq }
    else put s { r with running := r.running - 1 }
  | none => put s { r with running := r.running - 1 }

/-- Free a launch's cores, write its far pages back, and give back what it held. -/
def State.releaseLaunch (s : State) (lk : Nat) (l : Launch) (swap : Bool) : State :=
  let ks := l.residents.map Prod.snd
  let s1 := ks.foldl (fun t k => t.flushCore k) s
  let s2 := if swap && l.repl then s1.saggarSwap l else s1
  let s3 := s2.freeCores lk l
  let s4 := ((s3.returnRegions l).unpinAll l.pkg (l.pages ++ l.tabPages ++ match l.area with
    | some a => a.pages
    | none => []))
  let s5 := { s4 with sys := { s4.sys with msgs := s4.sys.msgs.filter fun m => m.launch != lk || m.kind ≥ 14 } }
  let s6 := match l.slot with
    | some n => s5.slotEnds l.pkg l.vdev n
    | none => s5
  let s7 := s6.modPkg l.pkg fun p => { p with freePages := p.freePages ++ l.sagPool ++
    (if swap then [] else l.saggar.filterMap Prod.snd) }
  s7.putLaunch lk none

/-- Free the copies of a launch's `.reloc` sections (R81). -/
def State.freeCopies (s : State) (l : Launch) : State :=
  s.modVdev l.pkg l.vdev fun v => { v with freeVa := v.freeVa ++ l.relocs.map Prod.snd }

/-- End a launch with a completion record (R169, R386). Only the package where the launch came from writes one; the copies of `.reloc`
sections are free once it is written (R81), and at once on a package that writes none. -/
def State.endLaunch (s : State) (lk status fcsr icnt : Nat) : State :=
  match s.launchOf lk with
  | none => s
  | some l =>
    let s1 := s.releaseLaunch lk l (status = 0)
    let r : HostRec := {
      kind := 1, ring := l.ring, tag := (match l.bare with
        | some b => b.tag
        | none => 0), status := status, cookie := l.cookie, launch := lk, seq := l.pseq, fcsr := fcsr, icnt := icnt, replays := l.replays }
    if l.multi && l.spanBase != l.pkg then s1.freeCopies l
    else (s1.pushRecord l.pkg l.vdev r).modVdev l.pkg l.vdev fun v =>
      { v with copies := v.copies ++ if l.relocs.isEmpty then [] else [(r.bytes, l.relocs.map Prod.snd)] }

/-- Start a launch's nests from their first record on every core that it holds (R168, R169). -/
def State.startCores (s : State) (lk : Nat) (l : Launch) : State :=
  l.residents.foldl (fun t (c, k) => t.startCore lk k c l) s

/-- Restart a replayable launch from its saved parameter block with a scrubbed pool (R386). -/
def State.replayPart (s : State) (lk : Nat) (l : Launch) : State :=
  let s1 := (((l.residents.foldl (fun t (_, k) => t.flushCore k) s).freeCores lk l).unpinAll l.pkg l.tabPages).pinAll l.pkg
    (l.nest0.flatMap fun n => n.tab)
  let pool := l.sagPool ++ l.saggar.filterMap Prod.snd
  let page := l.param.toNat / 0x10000
  let (sag, pool1) := match pool with
    | p :: t => ([(page, some p)], t)
    | [] => ([], [])
  let s2 := match pool with
    | p :: _ => s1.hbmWrite p (Memory.readBytes l.paramCopy 0 0x10000)
    | [] => s1
  let l1 := { l with
    nests := l.nest0, run := none, nestIdx := 0, filters := [], purgeList := [], npurge := 0, replays := l.replays + 1
    saggar := sag, sagPool := pool1, parked := [], cut := [], freezing := [], yieldAsked := [], phase := .running }
  (s2.putLaunch lk (some l1)).startCores lk l1

/-- Tear a launch down (R385), and replay it where R386 allows: a replayable launch at most 3 times, never after KILL. The
records are written by the die that decides. -/
def State.teardown (s : State) (lk status rank : Nat) : State :=
  match s.launchOf lk with
  | none => s
  | some l =>
    let s1 := s.sherd rank { kind := 4, launch := lk, core := rank * 64, synd := status }
    let again := l.repl && l.replays < 3 && status != 0x10A
    let s2 := if again then s1.sherd rank { kind := 5, launch := lk, core := rank * 64, synd := status } else s1
    (s.launchParts lk).foldl (fun t j => match t.launchOf j with
      | some x => if again then t.replayPart j x else t.endLaunch j status 0 0
      | none => t) s2

/-! ## Purges (R380, R381) -/

/-- Whether a die of a launch holds a tag in its purge filter. -/
def State.filtered (s : State) (lk tag : Nat) : Bool :=
  match s.launchOf lk with
  | some l => tag != 0 && (SMap.get [] 0 l.filters).contains tag
  | none => false

/-- Apply a purge of a nonzero tag on a launch's package: every core resident or parked (R423), the filters, and the Wheels'
ranges, from which iterations of the tag go. -/
def State.purgePart (s : State) (lk tag : Nat) : State :=
  match s.launchOf lk with
  | none => s
  | some l =>
    let (s1, n) := (l.allCores lk).foldl (fun (t, n) k => let (u, m) := t.purgeCore k tag; (u, n + m)) (s, 0)
    s1.modLaunch lk fun y => { y with
      filters := SMap.set [] 0 (SMap.get [] 0 y.filters ++ [tag]) y.filters
      purgeList := if y.phase = .frozen then y.purgeList ++ [tag] else y.purgeList
      npurge := y.npurge + 1
      run := y.run.map fun r =>
        let all := (r.nest.words.getD 0 0).toNat / 16 % 4 = 0 && (r.nest.words.getD 10 0).toNat % 65536 = tag
        { r with
          inFlight := r.inFlight - n, gone := r.gone ++ [tag]
          ranges := if all then [] else r.ranges, fwd := if all then [] else r.fwd } }

/-! ## The tree of replication of a launch on several packages (R463) -/

/-- The children of a logical index in the tree of replication over `2 ^ n` packages, and its parent. -/
def treeChildren (n i : Nat) : List Nat := ((List.range n).filter fun k => i < 2 ^ k).map fun k => i + 2 ^ k
def treeParent (i : Nat) : Nat := i - 2 ^ i.log2

/-- The packages next to a launch's package in the tree, by the order of the logical packages in its rank list. -/
def Launch.treeNbrs (l : Launch) : List Nat :=
  let ps := (l.ranks.map (· / 4)).eraseDups
  let i := ps.findIdx (· = l.pkg)
  ((treeParent i :: treeChildren (Nat.log2 ps.length) i).filterMap fun j => ps[j]?).filter (· != l.pkg)

/-- The message of a purge to another package (kind 15). -/
def purgeMsg (src dst tag lk cause : Nat) : Msg :=
  ⟨15, src, dst, src, tag, lk, none, 0, 0, 0, [], cause, [], 0, 0, 0, false⟩

/-- A purge of a tag of a launch, made on a die for a cause; 0 for a PURGE packet (R495). It takes effect at the end of the die cycle,
after the retirements of the arithmetic clock (R381). -/
def State.purge (s : State) (lk tag cause rank : Nat) : State :=
  { s with sys := { s.sys with purges := s.sys.purges ++ [(lk, tag, cause, rank)] } }

/-- A purge takes effect. A tag of 0 and a 17th purge end the launch (R381, R385, R386); a bare launch ends, with no output window and
with FCSR and ICNT 0 (R30, log 30). -/
def State.purgeNow (s : State) (lk tag cause rank : Nat) : State :=
  match s.launchOf lk with
  | none => s
  | some l =>
    if tag = 0 then s.teardown lk (if cause = 0 then 33 else cause) rank
    else if l.bare.isSome then
      (s.sherd rank { kind := 3, tag := tag, launch := lk, core := rank * 64, synd := cause }).endLaunch lk
        (if cause = 0 then 33 else cause) 0 0
    else if l.npurge ≥ 16 then
      (s.sherd rank { kind := 3, tag := tag, launch := lk, core := rank * 64, synd := cause }).teardown lk 33 rank
    else
      let (s1, seq) := s.sherdSeq rank { kind := 3, tag := tag, launch := lk, core := rank * 64, synd := cause }
      let s2 := (s1.purgePart lk tag).modLaunch lk fun y =>
        { y with purgeOut := if l.multi then y.purgeOut ++ [(tag, cause, l.pkg)] else y.purgeOut }
      s2.pushRecord (if l.multi then l.spanBase else l.pkg) l.vdev {
        kind := 2, ring := l.ring, tag := tag, status := cause, cookie := l.cookie
        launch := lk, seq := l.pseq, shseq := seq }

/-- The purges of a die cycle take effect, those of one tag of a launch as one (log 95). -/
def State.purgesNow (s : State) : State :=
  let ps := s.sys.purges.foldl (fun (m : List (Nat × Nat × Nat × Nat)) p =>
    if m.any fun q => q.1 = p.1 && q.2.1 = p.2.1 then m else m ++ [p]) []
  ps.foldl (fun t (lk, tag, cause, rank) => t.purgeNow lk tag cause rank) { s with sys := { s.sys with purges := [] } }

/-! ## Saggar pages (R383) -/

/-- The first write of a replayable launch to a virtual page takes a pool page, copies the original into it and redirects
the page; none where the pool is empty. -/
def State.saggarTake (s : State) (lk va : Nat) : Option State :=
  match s.launchOf lk with
  | none => some s
  | some l =>
    if !l.repl || (optGet (va / 0x10000) l.saggar).isSome then some s
    else match l.sagPool, s.walkVa l.pkg l.vdev va with
      | p :: t, some w =>
        let s1 := l.residents.foldl (fun u (_, k) => u.flushRange k w.phys 0x10000 true) s
        let s2 := s1.copyPage w.phys p
        some (s2.putLaunch lk (some { l with
          saggar := SMap.set none (va / 0x10000) (some p) l.saggar, sagPool := t
          dirty := SMap.set false (va / 0x10000) true l.dirty }))
      | [], some _ => none
      | _, none => some s

end Sys2Proof.Machine
end

