-- ==== Sys2Proof/Machine/Ops.lean ====
section
/-! DEFINITION. The shared operations of an instruction: results in flight (01 R15, R16), the comparison of copies
(17 R398 to R415), local memory (09 R229 to R232), the reading of the line store (03 R57 to R64), taking an exception and
returning from one (16 R364 to R373), and `run`, which every instruction's meaning goes through: guard, marks, comparison,
effect. -/

namespace Sys2Proof.Machine

/-! ## The line store (R56 to R64) -/

/-- The class number of a link word and HANDLER index of a class (R57, R60). -/
def Cls.code : Cls → Nat
  | .control => 0
  | .vector => 1
  | .matrix => 2
  | .transpose => 3
  | .copy => 4
  | .firmware => 5

/-- Matrix, transpose and copy streams (R64). -/
def Cls.single : Cls → Bool
  | .matrix | .transpose | .copy => true
  | _ => false

/-- The line store and image length that a stream fetches from. -/
def Core.codeFor (c : Core) (cls : Cls) : Memory × Nat :=
  if cls = .firmware then (c.fwCode, c.fwLen) else (c.code, c.codeLen)

def linkWord (m : Memory) (line : Nat) : Nat := Memory.readNat m (64 * line) 4
def linkClass (m : Memory) (line : Nat) : Nat := linkWord m line / 0x10000000
def linkNext (m : Memory) (line : Nat) : Nat := linkWord m line % 0x10000000
/-- The syllable in a slot of a line (R58). -/
def sylAt (m : Memory) (line slot : Nat) : Nat := Memory.readNat m (64 * line + 4 + 6 * slot) 6

/-- Whether a line is reachable for a class (R59). -/
def lineOk (m : Memory) (len : Nat) (cls : Cls) (line : Nat) : Bool := line < len && linkClass m line = cls.code

/-- The entry line of a class's handler, none where R61 counts it as absent. -/
def handlerLine (m : Memory) (len : Nat) (cls : Cls) : Option Nat :=
  let w := Memory.readNat m (16 + 4 * cls.code) 4
  if w < 0x10000000 && lineOk m len cls w then some w else none

/-- The slot after the bundle that begins at a slot, by the boundaries of R64 alone: 10 where it ends its line. -/
def bundleEnd (m : Memory) (single : Bool) (line slot : Nat) : Nat :=
  let w := sylAt m line slot
  let n := slot + 1 + (bit w 44).toNat
  if n ≥ 10 then 10
  else if single || bit w 45 || !(bit (sylAt m line n) 45) then n
  else min 10 (n + 1 + (bit (sylAt m line n) 44).toNat)

/-- Whether a run of all-zero syllables from a slot reaches the end of the line (R67). -/
def zeroRun (m : Memory) (line slot : Nat) : Bool := (List.range 10).all fun i => i < slot || sylAt m line i = 0

/-- The position that follows a position's bundle in sequence: slot 10 where the bundle ends its line (R114, R118). -/
def nextPos (m : Memory) (single : Bool) (p : Pos) : Pos :=
  if p.slot ≥ 10 then ⟨p.line, 10⟩ else ⟨p.line, bundleEnd m single p.line p.slot⟩

/-! ## Lanes -/

/-- Lane `i` of a vector. -/
def lane (v : VReg) (i : Nat) : Word := (v >>> (32 * i)).setWidth 32
/-- A word in lane `i`. -/
def inLane (w : Word) (i : Nat) : VReg := (w.setWidth 1024) <<< (32 * i)
/-- A vector from a function of the lane. -/
def ofLanes (f : Nat → Word) : VReg := (List.range 32).foldl (fun v i => v ||| inLane (f i) i) 0
/-- The bits of the lanes of a mask. -/
def laneBits (m : Word) : VReg := ofLanes fun i => if bit m.toNat i then BitVec.allOnes 32 else 0
/-- All bits of a g register, an a register, or `n` bits. -/
def lowBits (n : Nat) : VReg := BitVec.ofNat 1024 (2 ^ n - 1)

/-! ## Comparison of copies (R398 to R415) -/

/-- The outcome of a comparison over lanes: the copy whose item takes effect in each lane, whether every lane has one, whether a
tie-break copy must run first, the lanes that mismatch, and the copies that were outvoted with their lanes. -/
structure Verdict where
  winners : List (Nat × Nat)
  stands : Bool
  tie : Bool
  lanes : List Nat
  outvoted : List (Nat × Nat)
deriving DecidableEq, Repr

/-- Vote of `n` copies over lanes, each on its own (R407); `it` gives the item of a copy in a lane. -/
def vote {α : Type} [DecidableEq α] (n : Nat) (tbrk : Bool) (act : List Nat) (it : Nat → Nat → α) : Verdict :=
  let ks := List.range n
  let bad := act.filter fun i => ks.any fun k => it k i ≠ it 0 i
  if bad.isEmpty then ⟨act.map fun i => (i, 0), true, false, [], []⟩
  else if n < 3 then ⟨[], false, tbrk, bad, []⟩
  else
    let win := act.map fun i => (i, ks.find? fun k => ks.any fun j => j ≠ k && it j i = it k i)
    let ws := win.filterMap fun (i, w) => w.map (i, ·)
    let out := bad.flatMap fun i => match ws.find? (·.1 = i) with
      | some (_, w) => (ks.filter fun k => it k i ≠ it w i).map (·, i)
      | none => []
    ⟨ws, ws.length = win.length, false, bad, out⟩

/-- The copy that takes effect in a lane. -/
def Verdict.winner (v : Verdict) (i : Nat) : Nat := ((v.winners.find? (·.1 = i)).getD (32, 0)).2

/-- How the items of an instruction lie: a scalar item, one item formed by the lanes of a vector-block instruction, a lane of 32 bits,
or a lane of one bit. Lane 32 is what belongs to no lane. -/
inductive LaneForm where
  | scalar | whole | words | bits
deriving DecidableEq, Repr

def LaneForm.inLanes (f : LaneForm) : Bool := f = .words || f = .bits

/-- A copy of an instruction whose guard is off (R399). -/
def RCopy.off : RCopy := ⟨0, 0, .none, 0, 0, false⟩

/-- The compared item of a copy of a result in a lane (R398, R399): guard, mask, the bits written, and the value where the lane is
active; flags and mark belong to no lane. -/
def RCopy.item (f : LaneForm) (c : RCopy) (i : Nat) : Bool × List Nat × Mark :=
  let b := bit c.gmask.toNat i
  match f with
  | .words => if i = 32 then (c.on, [c.flags.toNat], c.mark)
    else (c.on, [b.toNat, (lane c.bits i).toNat, if b then (lane (c.val &&& c.bits) i).toNat else 0], .none)
  | .bits => if i = 32 then (c.on, [c.flags.toNat], c.mark)
    else (c.on, [b.toNat, (c.bits.getLsbD i).toNat, (b && c.bits.getLsbD i && c.val.getLsbD i).toNat], .none)
  | _ => (c.on, [c.gmask.toNat, c.bits.toNat, (c.val &&& c.bits).toNat, c.flags.toNat], c.mark)

/-- The value of a copy in a lane as a record holds it (R414). -/
def RCopy.shown (f : LaneForm) (c : RCopy) (i : Nat) : Nat :=
  if i = 32 then c.val.toNat % 0x10000000000000000
  else if f = .bits then (c.val.getLsbD i).toNat else (lane c.val i).toNat

/-- The lanes that are compared: those active in some copy, and what belongs to no lane. -/
def comparedLanes (f : LaneForm) (masks : List Word) : List Nat :=
  if f.inLanes then ((List.range 32).filter fun i => masks.any fun m => bit m.toNat i) ++ [32] else [32]

/-- The result that takes effect: each lane from the copy that won it. -/
def mergeCopies (f : LaneForm) (v : Verdict) (cs : List RCopy) : RCopy :=
  let top := cs.getD (v.winner 32) RCopy.off
  let at_ := fun i => cs.getD (((v.winners.find? (·.1 = i)).getD (32, v.winner 32)).2) RCopy.off
  let merged := fun (sel : RCopy → VReg) => (List.range 32).foldl (fun (r : VReg) i =>
    let m : VReg := if f = .bits then 1 <<< i else inLane (BitVec.allOnes 32) i
    r ||| (sel (at_ i) &&& m)) 0
  if f.inLanes then
    { top with
      val := merged (·.val), bits := merged (·.bits)
      gmask := (List.range 32).foldl (fun (r : Word) i => r ||| ((at_ i).gmask &&& (1 <<< i))) 0 }
  else top

/-- The physical lane on which copy `c` forms a logical lane (R404), through the partition's lane map (R393). -/
def Core.physLane (c : Core) (unit copy i : Nat) : Nat :=
  (optGet (unit * 64 + (i + copy) % 32) c.laneMap).getD ((i + copy) % 32)

/-- Write the record of R414 for an outcome other than agreement, and feed the buckets (R415). `cause` is 0 where the outcome is
corrected, and `item` the compared item of a copy. Answers the SEQ. -/
def State.protRecord (s : State) (n : Nat) (f : LaneForm) (synd : Nat) (pos : Pos) (cause : Nat) (v : Verdict) (item : Nat → Nat) :
    State × Nat :=
  let c := s.core
  let ok := cause = 0
  let inl := v.lanes.filter fun i => f.inLanes && i < 32
  let i := v.lanes.headD 32
  let phys := fun (k j : Nat) => if f = .scalar then 0 else c.physLane s.strm.unit k (j % 32)
  let first := phys (((v.outvoted.find? (·.2 = i)).getD (1, i)).1) i
  let shown := fun k => if k < n then item k % 0x10000000000000000 else 0
  let (s1, seq) := s.sherdSeq s.rank {
    kind := if ok then 0x14 else 0x15, flags := if ok then 1 else 2, tag := s.strm.tagr.toNat, launch := c.launch
    core := s.ck, unit := s.strm.unit, src1 := first + c.lcore * 65536, synd := synd
    addr := n * 0x100000000000000 + cause * 0x1000000000000 + inl.length * 0x10000000000 +
      (if inl.isEmpty then 255 else i) * 0x100000000 + pos.packed
    val0 := shown 0, val1 := shown 1, val2 := shown 2 }
  let hits := if ok then v.outvoted.map fun (k, j) => phys k j
    else (v.lanes.flatMap fun j => (List.range n).map fun k => phys k j).eraseDups
  (if f = .scalar then s1 else hits.foldl (fun t j => t.coreBucket s.ck 1 (s.strm.unit * 64 + j) 1) s1, seq)

/-- Sites that an instruction of a stream reads or forms as it issues; the others are struck later, in an engine, on the way to a
queue, or in a chunk. -/
def Site.atIssue : Site → Bool
  | .cell _ | .data | .chunk => false
  | _ => true

/-- Sites of a result: its errors are met at its landing. -/
def Site.ofResult : Site → Bool
  | .result | .bits | .flags | .mark => true
  | _ => false

/-- The stream executes one copy: its errors strike. -/
def State.asCopy (s : State) (us : List Upset) : State := { s with strm := { s.strm with upsets := us.map fun u => { u with live := true } } }

/-! ## Results (R16, R84, R134, R205, R306) -/

/-- A result of the issuing instruction with its plain latency: under triad a scalar result lands one issue cycle later, and
a vector-block result lands one (dual) or two (triad) later. `bits` are the bits of the register that it writes. -/
def State.result (s : State) (h : Hdr) (vec : Bool) (gm : Word) (dst : Dst) (bits val : VReg) (lat : Nat) (flags : Word)
    (mark : Mark) : State :=
  let x := s.strm
  let k := lat + if vec then h.prot else if h.prot = 2 then 1 else 0
  let c : RCopy := ⟨val ^^^ s.struck .result, flags ^^^ (s.struck .flags).setWidth 32,
    if s.struck .mark = 0 then mark else .poison, bits ^^^ s.struck .bits, gm, true⟩
  { s with strm := { x with flight := x.flight ++ [⟨dst, k, if h.prot = 0 then [c] else [c, c, c], x.pos, h.prot, h.slot, lat, vec⟩] } }

/-- Results of scalar instructions. -/
def State.resG (s : State) (h : Hdr) (n : Nat) (v : Word) (lat : Nat) : State :=
  s.result h false 0 (.g n) (lowBits 32) (v.setWidth 1024) lat 0 .none
def State.resGF (s : State) (h : Hdr) (n : Nat) (v : Word) (lat : Nat) (flags : Word) : State :=
  s.result h false 0 (.g n) (lowBits 32) (v.setWidth 1024) lat flags .none
def State.resA (s : State) (h : Hdr) (n : Nat) (v : Addr) (lat : Nat) : State :=
  s.result h false 0 (.a n) (lowBits 64) (v.setWidth 1024) lat 0 .none
def State.resP (s : State) (h : Hdr) (n : Nat) (v : Bool) (lat : Nat) : State :=
  s.result h false 0 (.p n) (lowBits 1) (if v then 1 else 0) lat 0 .none
def State.resPF (s : State) (h : Hdr) (n : Nat) (v : Bool) (lat : Nat) (flags : Word) : State :=
  s.result h false 0 (.p n) (lowBits 1) (if v then 1 else 0) lat flags .none
def State.resB (s : State) (h : Hdr) (n : Nat) (p : Pos) (hint : Bool) : State :=
  s.result h false 0 (.b n) (lowBits 33) (BitVec.ofNat 1024 (p.packed + if hint then 0x100000000 else 0)) 1 0 .none
/-- A CSR write, a delta and cleared deltas take effect at the start of the next issue cycle (R224, R121). They are effects
made once, compared at issue, and not results. -/
def State.resNext (s : State) (dst : Dst) (v : Word) : State :=
  { s with strm := { s.strm with
    flight := s.strm.flight ++ [⟨dst, 1, [⟨v.setWidth 1024, 0, .none, lowBits 32, 0, true⟩], s.strm.pos, 0, 0, 1, false⟩] } }

/-! ## Landing -/

/-- Replace the bits of a mask. -/
def mergeBits (old bits val : VReg) : VReg := (old &&& ~~~bits) ||| (val &&& bits)

/-- CSR writes and deltas: effects at the next issue cycle, not results. -/
def Flight.isNext (f : Flight) : Bool := match f.dst with
  | .csr _ | .delta _ _ | .deltaClr _ => true
  | _ => false

/-- TBRK of a stream; the engine streams behave as if it were 1 (R407). -/
def Stream.tbrk (x : Stream) : Bool := x.cls.single || bit x.pctl.toNat 0

/-- Write a landed value to its register (R16, R130, R376); a copy whose guard was off writes nothing. p0, m0 discard it (R10). -/
def Stream.land (x : Stream) (f : Flight) (c : RCopy) : Stream :=
  if !c.on then x else
  let x := { x with fcsr := x.fcsr ||| c.flags }
  match f.dst with
  | .g n => { x with
      g := SMap.set 0 n ((mergeBits ((SMap.get 0 n x.g).setWidth 1024) c.bits c.val).setWidth 32) x.g
      gMark := SMap.set .none n c.mark x.gMark }
  | .v n => { x with v := SMap.set 0 n (mergeBits (SMap.get 0 n x.v) c.bits c.val) x.v }
  | .a n => { x with a := SMap.set 0 n ((mergeBits ((SMap.get 0 n x.a).setWidth 1024) c.bits c.val).setWidth 64) x.a }
  | .p n => if n = 0 then x else { x with p := SMap.set false n (c.val.getLsbD 0) x.p }
  | .m n => if n = 0 then x
    else { x with m := SMap.set 0 n ((mergeBits ((SMap.get 0 n x.m).setWidth 1024) c.bits c.val).setWidth 32) x.m }
  | .b n =>
    let r : BReg := ⟨Pos.ofPacked (c.val.toNat % 0x100000000), c.val.getLsbD 32, some x.cyc⟩
    { x with b := SMap.set BReg.zero n r x.b }
  | .delta lc j =>
    let l := SMap.get Loop.idle lc x.lc
    { x with lc := SMap.set Loop.idle lc { l with delta := SMap.set 0 j (c.val.setWidth 32) l.delta } x.lc }
  | .deltaClr lc =>
    let l := SMap.get Loop.idle lc x.lc
    { x with lc := SMap.set Loop.idle lc { l with delta := [] } x.lc }
  | .csr _ => x

/-! ## Local memory (R27, R229, R230, R376, R379, R389) -/

def tileBase : Nat := 0x1000000

/-- The busy tiles of a core's matrix engine (R230). -/
def State.busyTiles (s : State) : List Nat := (s.strmOf (sidOf s.ck 5)).eng.tiles.map Prod.fst

/-- Where an access of `n` bytes lies: the window, or the aperture for the loads that reach it; else the fault with the
first faulting byte's address (R371). -/
def State.localFault (s : State) (a n : Nat) (aperture : Bool) : Option (Nat × Nat) :=
  let w := s.core.win
  let top := tileBase + 0x10000 * poolT s.core.pool
  if a + n ≤ w then none
  else if aperture && tileBase ≤ a && a + n ≤ top then
    match (List.range n).find? fun i => s.busyTiles.contains ((a + i - tileBase) / 0x10000) with
    | some i => some (10, a + i)
    | none => none
  else if aperture && tileBase ≤ a && a < top then some (9, top)
  else some (9, if a < w then w else a)

/-- The window slot of a speculative task, none for other streams (R184). -/
def State.specSlot (s : State) : Option Nat :=
  if s.strm.cls = .control || s.strm.cls = .firmware then none
  else match s.core.entry s.strm.slot with
    | some e => if e.spec && e.state = .running then some s.strm.slot else none
    | none => none

/-- A byte of local memory as the issuing stream reads it: a speculative task sees its held bytes (R273). -/
def State.localByte (s : State) (a : Nat) : Byte :=
  (match s.specSlot with
  | some n => match optGet a (SMap.get [] n s.core.commit) with
    | some b => b
    | none => Memory.read s.core.loc a
  | none => Memory.read s.core.loc a) ^^^ (s.struck (.mem a)).setWidth 8

def State.localBytes (s : State) (a n : Nat) : List Byte := (List.range n).map fun i => s.localByte (a + i)
def State.localNat (s : State) (a n : Nat) : Nat := natOfBytes (s.localBytes a n)

/-- Whether a range of a core's local memory touches a poisoned word. -/
def Core.poisoned (c : Core) (a n : Nat) : Bool :=
  n != 0 && (List.range ((a + n - 1) / 4 + 1 - a / 4)).any fun i => SMap.get false (a / 4 + i) c.poison

/-- The condition of BWAIT on a phase, with the value that it returns (R284). -/
def bwaitTest (par : Bool) (phase tok : Nat) : Option Nat :=
  if par then if phase % 2 ≠ tok % 2 then some 1 else none
  else
    let d := (phase + 0x100000000 - tok) % 0x100000000
    if 1 ≤ d && d < 0x80000000 then some (min d 255) else none

/-- The value that a BWAIT of another core gets, once its condition holds. -/
def Core.heldTest (c : Core) (m : Msg) : Option Nat :=
  bwaitTest (m.args.getD 0 0 = 1) (Memory.readNat c.loc (m.addr + 4) 4) (m.args.getD 1 0)

/-- The bank tests the BWAITs of other cores that it holds, after a change of its words (R284). -/
def Core.testHeld (c : Core) : Core :=
  if c.heldBw.isEmpty then c
  else { c with
    heldBw := c.heldBw.filter fun m => (c.heldTest m).isNone
    bwDone := c.bwDone ++ c.heldBw.filterMap fun m => (c.heldTest m).map (m, ·) }

/-- Write bytes of a core's local memory: a wholly written word loses its poison (R389). -/
def Core.writeLocal (c : Core) (a : Nat) (bs : List Byte) : Core :=
  let first := (a + 3) / 4
  let words := (List.range (bs.length / 4 + 1)).filter fun i => 4 * (first + i) + 4 ≤ a + bs.length
  ({ c with
    loc := Memory.writeBytes a bs c.loc
    poison := words.foldl (fun m i => SMap.set false (first + i) false m) c.poison } : Core).testHeld

/-- The bytes that a core's commit buffer holds. -/
def Core.commitUsed (c : Core) : Nat := natSum (c.commit.map fun (_, m) => m.length)

/-- A store of the issuing stream at its perform point; held for a speculative task, and none where the commit buffer has no
room (R379). -/
def State.localWrite (s : State) (a : Nat) (bs : List Byte) : Option State :=
  match s.specSlot with
  | none => some { s with core := s.core.writeLocal a bs }
  | some n =>
    let held := SMap.get [] n s.core.commit
    let held1 := bs.zipIdx.foldl (fun m (b, i) => SMap.set none (a + i) (some b) m) held
    if s.core.commitUsed + held1.length - held.length > 65536 then none
    else some { s with core := { s.core with commit := SMap.set [] n held1 s.core.commit } }

/-- Whether an acquire of the issuing stream has not performed, or an access that the poster of its task issued before the post (R271):
no later access of the stream performs before it (R259). -/
def State.acquiring (s : State) : Bool :=
  let after := match s.core.entry s.strm.slot with
    | some e => if e.unit = some s.strm.unit then e.after else []
    | none => []
  s.sys.reqs.any fun r => (r.sid = s.sid && r.acq) || after.contains r.id

/-- The first lost or refused posted request of the issuing stream to a logical rank, or to any (20 R459). -/
def State.lostFor (s : State) (rank : Option Nat) : Option (Nat × Nat) :=
  s.strm.lost.find? fun (r, _) => rank.all (· = r)

/-- Stalled clocks of one access by its own rows: a bank serves one row of 128 bytes in a clock (R19, R231). The clocks of
conflicts between streams are left out (log 9). Accumulator storage has ports of its own. -/
def rowStall (as : List (Nat × Nat)) : Nat :=
  let rows := ((as.filter fun (a, _) => a < tileBase).flatMap fun (a, n) =>
    if n = 0 then [] else (List.range ((a + n - 1) / 128 + 1 - a / 128)).map (a / 128 + ·)).eraseDups
  (rows.foldl (fun m r => max m (rows.filter fun q => q % 64 = r % 64).length) 1) - 1

/-- The stream stalls for the rows that its access needs of one bank (R19, R231). -/
def State.stallFor (s : State) (as : List (Nat × Nat)) : State :=
  { s with strm := { s.strm with stall := s.strm.stall + rowStall as } }

/-! ## Delivery to the firmware context (R364, R368, R369) -/

/-- A stream enters its handler (R367): the first bundle issues 4 ac later at slot 0 of the HANDLER line. -/
def Stream.enter (x : Stream) (line : Nat) : Stream :=
  { x with
    pos := ⟨line, 0⟩, landing := x.flight, flight := [], fresh := false, handler := true, predictor := [], stall := 3
    hold := 0 }

/-- Set the trap CSRs (R370). -/
def Stream.trapCsrs (x : Stream) (cause : Nat) (d : Bool) (pos val info : Nat) : Stream :=
  { x with
    tcause := BitVec.ofNat 32 (cause + if d then 0x10000 else 0), tpc := BitVec.ofNat 32 pos, tval := BitVec.ofNat 64 val
    tinfo := BitVec.ofNat 32 info }

/-- The firmware context of a core stops and reports to the management controller (R368, R503). -/
def State.fwFail (s : State) (k : Nat) : State :=
  let c := s.coreOf k
  let s1 := s.modStrm (sidOf k 8) fun x => { x with run := .failed }
  if c.fwst = .probation || c.fwst = .alive then
    (s1.putCore k { c with fwst := .reverted }).modDie (rankOfCore k) fun d =>
      { d with fwsst := SMap.set 0 (coreInDie k) 3 d.fwsst }
  else s1

/-- Deliver the next queued system fault or event to a core's firmware context, where it is ready to take one: it runs, is
not in its handler, and its image is committed (R369, R504). The context is trapped at its own handler. -/
def State.fwDeliver (s : State) (k : Nat) : State :=
  let c := s.coreOf k
  let x := s.strmOf (sidOf k 8)
  let least := c.sysQ.foldl (fun m e => min m e.unit) 16
  match c.sysQ.find? (·.unit = least) with
  | none => s
  | some e =>
    if x.run != .running || x.handler || c.fwst = .probation || c.fwst = .alive then s
    else
      let s1 := (s.ptwDone (sidOf k 8)).putCore k { c with sysQ := c.sysQ.erase e, sysCur := c.sysCur ++ [e] }
      match handlerLine c.fwCode c.fwLen .firmware with
      | none => s1.fwFail k
      | some line => s1.putStrm (sidOf k 8) ((x.enter line).trapCsrs e.cause e.dflag x.pos.packed e.val
          (e.info + e.unit * 0x100000 + 0x20000 + x.flight.length))

/-- Queue a system fault or an event: the firmware context can take it from the end of the arithmetic clock on. At most eight faults are
pending (R369). -/
def State.fwQueue (s : State) (k : Nat) (e : SysEvent) : State :=
  s.modCore k fun c => if e.isFault then { c with sysOver := c.sysOver ++ [e] }.refill else { c with sysQ := c.sysQ ++ [e] }

/-! ## Taking an exception (R364 to R371) -/

/-- How a cause is delivered to a class (R364). -/
inductive Delivery where
  | handler | firmware | purge
deriving DecidableEq, Repr

def delivery (cls : Cls) (cause : Nat) : Delivery :=
  if cls = .firmware then .handler
  else if cause = 25 then .purge
  else if cls.single then .firmware
  else if (18 ≤ cause && cause ≤ 21) || cause = 29 then .firmware
  else .handler

/-- End a bare launch at its trap or END: the output window goes to its HBM destination if every page of it is writable,
and the completion record holds status, FCSR and ICNT (R30). -/
def State.endBare (s : State) (lk status : Nat) (x : Stream) : State :=
  match s.launchOf lk with
  | none => s
  | some l => match l.bare with
    | none => s
    | some b =>
      let k := (l.coreAt lk 0).getD 0
      let fc : FarCtx := ⟨k, l.pkg, l.vdev, lk, 0, false, false, false⟩
      let ok := (pagesOf l.vdev b.outVa b.outLen).all fun (_, pv) => match s.walkVa l.pkg l.vdev pv with
        | some t => t.w
        | none => false
      let s0 := s.flushCore k
      let s1 := if ok then (List.range b.outLen).foldl (fun t i => match t.walkVa l.pkg l.vdev (b.outVa + i) with
          | some w => t.farWrite fc (b.outVa + i) ⟨w.phys + (b.outVa + i) % 0x10000, false, false⟩
              [Memory.read (s.coreOf k).loc (b.outOff + i)]
          | none => t) s0 else s0
      let st := if ok then status else if status = 0 then 18 else status + 0x80000000
      s1.endLaunch lk st x.fcsr.toNat x.icnt.toNat

/-- A trap of a stream whose image names no handler (R368, R30). -/
def State.unhandled (s : State) (cause val pos : Nat) : State :=
  let lk := s.core.launch
  let bare := match s.launchOf lk with
    | some l => l.bare.isSome
    | none => false
  let s0 := { s with strm := { s.strm with run := .faulted } }
  if bare then s0.endBare lk cause s.strm
  else
    let s1 := s0.sherd s.rank {
      kind := 1, tag := s.strm.tagr.toNat, launch := lk, core := s.ck, unit := s.strm.unit, src1 := s.core.lcore * 65536
      synd := cause, addr := pos, val0 := val }
    s1.purge lk s.strm.tagr.toNat cause s.rank

/-- The entry of the window whose task the issuing stream runs, becoming Held with its cause (R330). -/
def State.holdTask (s : State) (cause val : Nat) : State :=
  match s.core.entry s.strm.slot with
  | some e => if e.state = .running && e.unit = some s.strm.unit then
      ({ s with core := s.core.setEntry s.strm.slot (some { e with state := .held, heldCause := some (cause, val) }) }).sherd
        s.rank {
          kind := 2, tag := s.strm.tagr.toNat, launch := s.core.launch, core := s.ck, unit := s.strm.unit
          src1 := s.core.lcore * 65536, synd := cause, addr := val }
    else s
  | none => s

/-- TINFO bits of the stopping instruction: SLOT, PROT and B2 (R370). -/
def trapInfo (slot prot : Nat) (b2 : Bool) : Nat := slot * 0x8000 + prot * 0x2000 + if b2 then 0x10000 else 0

/-- The issuing stream enters its class's handler, or what R368 puts in its place. -/
def State.enterHandler (s : State) (cause : Nat) (d : Bool) (val info : Nat) : State :=
  let x := s.strm
  let (m, len) := s.core.codeFor x.cls
  let hbit := if x.handler then 0x20000 else 0
  let x1 := x.trapCsrs cause d x.pos.packed val (info + x.unit * 0x100000 + hbit + x.flight.length)
  match handlerLine m len x.cls with
  | some line => { s with strm := { x1.enter line with tinfo := x1.tinfo ||| 0x20000, run := .running, first := cause } }
  | none => if x.cls = .firmware then ({ s with strm := x1 }).fwFail s.ck
    else ({ s with strm := x1 }).unhandled cause val x.pos.packed

/-- Take an exception at the issuing stream's bundle (R22, R364 to R371). `s` is the state in which the bundle would have
issued: no part of the bundle has any effect. Every trap empties the return predictor (R116); a NESTED_TRAP gives the cause of the trap
by which the stream had entered its handler (R368). -/
def State.takeTrap (s : State) (cause val : Nat) (d : Bool) (slot prot : Nat) (b2 : Bool) : State :=
  let x := s.strm
  let info := trapInfo slot prot (b2 || x.latch.b2)
  let s1 := { s with strm := { x with predictor := [], latch := { Latch.clear with trapped := true } } }
  if x.cls = .firmware then
    if x.handler || s.core.fwst = .probation || s.core.fwst = .alive then s1.fwFail s.ck
    else s1.enterHandler cause d val info
  else match delivery x.cls cause with
    | .purge =>
      ({ s1 with strm := { s1.strm with run := .faulted } }).purge s.core.launch x.tagr.toNat cause s.rank
    | .handler =>
      if x.handler then
        ({ s1 with strm := { s1.strm with run := .faulted, sysf := true } }).fwQueue s.ck
          ⟨x.unit, 29, false, x.first, x.pos.packed, info, none⟩
      else s1.enterHandler cause d val info
    | .firmware =>
      let nested := x.handler
      let y := { s1.strm with run := .faulted, sysf := true }
      let y2 := if nested then y
        else y.trapCsrs cause d x.pos.packed val (info + x.unit * 0x100000 + x.flight.length)
      let s2 := { s1 with strm := y2 }
      (if x.cls.single then s2.holdTask cause val else s2).fwQueue s.ck
        ⟨x.unit, if nested then 29 else cause, d && !nested, if nested then x.first else val, x.pos.packed, info, none⟩

/-! ## Returning (R24, R373) -/

/-- The return of a stream from its handler once the handler's results have landed: handler mode is cleared, and the bundle
at TPC, or the one after it in sequence, issues 4 ac later with the landing queue replayed. -/
def State.handlerReturn (s : State) (next : Bool) : State :=
  let x := s.strm
  let (m, _) := s.core.codeFor x.cls
  let p := Pos.ofPacked x.tpc.toNat
  { s with strm := { x with
    run := if x.endWait then .ending else .running, pos := if next then nextPos m x.cls.single p else p, handler := false, flight := x.landing
    landing := [], fresh := true, cyc := x.cyc + 1, stall := 3, tinfo := x.tinfo &&& ~~~0x20000 } }

/-- A waiting stream reissues its stopping bundle (RETT.res): a Held task becomes Running. -/
def State.resumeStream (s : State) (sid : Nat) : State :=
  let x := s.strmOf sid
  let s1 := s.putStrm sid { x with run := .running, sysf := false, fresh := true, predictor := [] }
  s1.modCore (coreOfSid sid) fun c => match c.entry x.slot with
    | some e => if e.state = .held && e.unit = some x.unit then
        c.setEntry x.slot (some { e with state := .running, heldCause := none })
      else c
    | none => c

/-! ## Running one instruction -/

/-- What an instruction does: an effect, a wait in which the stream stalls (R203), a wait whose ac are issue cycles (R313,
R402), an exception with its value and the D bit, or one that also changes the state before the entry (20 R459). -/
inductive Eff where
  | ok (s : State)
  | wait (s : State)
  | cycleWait (s : State)
  | trap (cause val : Nat)
  | deferred (cause val : Nat)
  | trapIn (s : State) (cause val : Nat)

abbrev Out := Host.Outcome State Fault Refusal

/-- Whether a guard is on (R66). -/
def State.guardOn (s : State) (h : Hdr) : Bool := s.rdP h.gp != (h.gneg = 1)

/-- Extra issue cycles of a protected instruction (R134, R403). -/
def extraCycles (vec : Bool) (prot : Nat) : Nat := if vec then prot else if prot = 2 then 1 else 0

/-- What an instruction compares at its issue (R398, R414): its scalar items in order, the items of each lane with the governing mask,
and whether the items are the 8-byte words of a record. -/
structure Items where
  vals : List Nat
  lanes : List (List Nat) := []
  mask : Word := 0
  words : Bool := false

/-- How an instruction's copies meet (R398): its latencies and lanes are those of the vector block, its further issue cycles, the stall of
a tie-break at its issue (0: the copies meet at the landing alone), and what is compared at issue. -/
structure Meet where
  vec : Bool
  extra : Nat
  tie : Nat
  items : State → Items

/-- The effect of an instruction before it takes place: none where the guard is off (R66); the marks of the g registers that it reads
come before its own causes (R376). -/
def effectOf (h : Hdr) (reads : List Nat) (s : State) (eff : State → Eff) : Option Eff :=
  if !(s.guardOn h) then none
  else some (match (reads.map s.markG).find? (· != .none) with
    | some (.deferred c v) => .deferred c v
    | some _ => .trap 25 0
    | none => eff s)

/-- The effect takes place: `s` is the state in which the bundle would have issued. -/
def Eff.close (h : Hdr) (extra : Nat) (s : State) : Eff → Out
  | .ok t => .next (t.setLatch fun l => { l with extra := max l.extra extra })
  | .wait t => .next (t.setLatch fun l => { l with wait := true })
  | .cycleWait t => .next (t.setLatch fun l => { l with cycleWait := true })
  | .trap c v => .next (s.takeTrap c v false h.slot h.prot false)
  | .deferred c v => .next (s.takeTrap c v true h.slot h.prot false)
  | .trapIn t c v => .next (t.takeTrap c v false h.slot h.prot false)

/-- The cause that a copy raises, and whether the instruction waits. -/
def Eff.cause : Option Eff → Option Nat
  | some (.trap c _) | some (.deferred c _) | some (.trapIn _ c _) => some c
  | _ => none
def Eff.waits : Option Eff → Bool
  | some (.wait _) | some (.cycleWait _) => true
  | _ => false

/-- What an effect changes but for results in flight, for the comparison of copies. -/
def Eff.seen : Option Eff → Option State
  | some (.ok t) => some { t with strm := { t.strm with upsets := [], flight := t.strm.flight.filter Flight.isNext } }
  | _ => none

/-- The results that an effect adds to those in flight. -/
def Eff.added (s : State) : Option Eff → List Flight
  | some (.ok t) => t.strm.flight.drop s.strm.flight.length
  | _ => []

/-- An effect with the results of all copies: the copies of each result come from the effects of the copies. -/
def Eff.merge (s : State) (es : List (Option Eff)) : Eff → Eff
  | .ok t =>
    let mine := t.strm.flight.drop s.strm.flight.length
    let gather := fun (f : Flight) (j : Nat) => if f.isNext then f else { f with
      copies := es.zipIdx.map fun (e, c) => match (Eff.added s e)[j]? with
        | some g => g.copies.getD c RCopy.off
        | none => RCopy.off }
    .ok { t with strm := { t.strm with flight := t.strm.flight.take s.strm.flight.length ++ mine.zipIdx.map fun (f, j) => gather f j } }
  | e => e

/-- The errors of the copies leave with the instruction that they struck. -/
def Out.clean (o : Out) : Out := match o with
  | .next t => .next (t.setStrm fun x => { x with
      tied := false, upsets := (x.upsets.filter fun u => !u.site.atIssue).map fun u => { u with live := false } })
  | o => o

/-- The errors of the operands that take effect: those of the copies that won, lane by lane for vector registers (R407). -/
def wonErrors (v : Verdict) (us : List Upset) : List Upset :=
  (us.filter fun u => u.site.atIssue && !u.site.ofResult).filterMap fun u =>
    match u.site with
    | .v _ =>
      let ls := ((v.winners.filter fun (i, k) => i < 32 && k = u.copy).map Prod.fst)
      if v.winners.all fun (i, _) => i = 32 then (if u.copy = v.winner 32 then some u else none)
      else some { u with flip := u.flip &&& ofLanes fun i => if ls.contains i then BitVec.allOnes 32 else 0 }
    | _ => if u.copy = v.winner 32 then some u else none

/-- Run the copies of an instruction that errors strike (R398 to R412): a disagreement on a cause is PROT_MISMATCH; then the items that
are compared at issue meet, after a tie-break where one is due, and the effect of the copies that won takes place once, with the
results of every copy to be compared at their landing. A plain instruction has the one copy 0. -/
def runCopies (h : Hdr) (reads : List Nat) (m : Meet) (s : State) (eff : State → Eff) : Out :=
  let us := s.strm.upsets
  let n := if h.prot = 0 then 1 else if h.prot = 2 || s.strm.tied then 3 else 2
  let of := fun c => us.filter (·.copy = c)
  let start := fun c => s.asCopy (of c)
  let outs := (List.range n).map fun c => effectOf h reads (start c) eff
  let its := (List.range n).map fun c => m.items (start c)
  let none_ : Items := ⟨[], [], 0, false⟩
  let guards := (List.range n).map fun c => (start c).guardOn h
  let on := fun c => guards.getD c false
  let it := fun (c i : Nat) =>
    let x := its.getD c none_
    let b := bit x.mask.toNat i
    if i = 32 then (on c, x.vals ++ [x.mask.toNat], if x.lanes.isEmpty then Eff.seen (outs.getD c none) else none)
    else (on c, b.toNat :: (if b then x.lanes.getD i [] else []), none)
  let vec := its.any fun x => !x.lanes.isEmpty
  let v := if m.tie = 0 then vote 1 false [32] it
    else vote n s.strm.tbrk (comparedLanes (if vec then .words else .scalar) (its.map (·.mask))) it
  let i := v.lanes.headD 32
  let own := fun c => let x := its.getD c none_
    if i = 32 then x.vals else x.lanes.getD i []
  let at_ := ((List.range (own 0).length).find? fun j => (List.range n).any fun c => (own c).getD j 0 != (own 0).getD j 0).getD 0
  let x0 := its.getD 0 none_
  let synd := if x0.words then at_ * 0x1000000 + 0xFFFFFF else if vec then x0.mask.toNat else 0xFFFFFFFF
  let record := fun (cause : Nat) (v : Verdict) => s.protRecord n (if vec then .words else if m.vec then .whole else .scalar) synd s.strm.pos
    cause v fun c => (own c).getD at_ 0
  if Eff.waits (effectOf h reads s eff) then (effectOf h reads s eff).elim (.next s) (·.close h m.extra s)
  else if outs.any fun e => Eff.cause e != Eff.cause (outs.getD 0 none) then
    let (t, seq) := record 22 ⟨[], false, false, if v.lanes.isEmpty then [32] else v.lanes, []⟩
    Out.clean (.next (t.takeTrap 22 seq false h.slot h.prot false))
  else if (Eff.cause (outs.getD 0 none)).isSome then
    Out.clean ((outs.getD 0 none).elim (.next s) (·.close h m.extra s))
  else if v.tie then
    .next (s.setStrm fun x => { x with tied := true, stall := m.tie - 1, latch := { x.latch with wait := true } })
  else
    let cause := if v.stands then 0 else if n = 3 then 23 else 22
    let (s1, seq) := if v.lanes.isEmpty then (s, 0) else record cause v
    if !v.stands then Out.clean (.next (s1.takeTrap cause seq false h.slot h.prot false))
    else
      let last := if m.tie = 0 then of else fun c => wonErrors v us ++ (of c).filter (·.site.ofResult)
      let rest := us.filter fun u => !u.site.atIssue
      let es := (List.range (if h.prot = 0 then 1 else 3)).map fun c =>
        effectOf h reads { (s1.asCopy (last c)) with strm := { (s1.asCopy (last c)).strm with upsets := (s1.asCopy (last c)).strm.upsets ++ rest } } eff
      match es.findSome? id with
      | none => Out.clean (.next s1)
      | some e => Out.clean ((e.merge s1 es).close h m.extra s1)

/-- Run an instruction: guard (R66), marks of the g registers that it reads (R376), comparison at issue, effect. -/
def run (h : Hdr) (reads : List Nat) (m : Meet) (s : State) (eff : State → Eff) : Out :=
  if s.strm.upsets.isEmpty then (effectOf h reads s eff).elim (.next s) (·.close h m.extra s)
  else runCopies h reads m s eff

/-- Scalar items. -/
def vals (f : State → List Nat) : State → Items := fun s => { vals := f s }

/-- What the copies of an instruction that reads an image compare (R205). -/
def recItems (n : Nat) (at_ : State → Addr × List Nat) : State → Items := fun s =>
  { vals := ((List.range (n / 8)).map fun i => s.localNat ((at_ s).1.toNat + 8 * i) 8) ++ (at_ s).2, words := true }

/-- Run an instruction whose copies meet at the landing of its results. -/
def runL (h : Hdr) (reads : List Nat) (s : State) (eff : State → Eff) : Out :=
  run h reads ⟨false, extraCycles false h.prot, 0, vals fun _ => []⟩ s eff
/-- Run a vector-block instruction whose copies meet at the landing of its results. -/
def runV (h : Hdr) (reads : List Nat) (s : State) (eff : State → Eff) : Out :=
  run h reads ⟨true, extraCycles true h.prot, 0, vals fun _ => []⟩ s eff
/-- Run an instruction whose copies meet at issue, where these items are compared, and whose results meet at their landing. -/
def runI (h : Hdr) (reads : List Nat) (items : State → Items) (s : State) (eff : State → Eff) : Out :=
  run h reads ⟨false, extraCycles false h.prot, 2, items⟩ s eff
/-- Run a queue load or a far store, whose copies meet at issue: one whose data is a v register takes the issue cycles of the vector block,
and its copies rotate their lanes (R443). -/
def runF (h : Hdr) (reads : List Nat) (wide : Bool) (items : State → Items) (s : State) (eff : State → Eff) : Out :=
  run h reads ⟨wide, extraCycles wide h.prot, 2, items⟩ s eff

end Sys2Proof.Machine
end

