-- ==== Sys2Proof/Machine/Operands.lean ====
section
/-! DEFINITION. Operands: the registers that each form names, the legality of a bundle that depends on the executing stream
(03 R64, R65, R68, R74, R75, 01 R8, R18, 05 R132, 17 R416), and the values of the operand forms. -/

namespace Sys2Proof

/-- Register kinds whose legality depends on the stream (R68). -/
inductive RegKind where
  | g | v | a | k | t
deriving DecidableEq, Repr

/-- One register that an instruction names: kind and number, whether it is read and written, whether it is the source in the
other cluster of a cross-cluster move, and whether reading it raises its mark (R376). -/
structure RegUse where
  kind : RegKind
  num : Nat
  rd : Bool
  wr : Bool
  far : Bool
  mark : Bool
deriving DecidableEq, Repr

def wG (n : Nat) : RegUse := ⟨.g, n, false, true, false, false⟩
def rG (n : Nat) : RegUse := ⟨.g, n, true, false, false, true⟩
def rwG (n : Nat) : RegUse := ⟨.g, n, true, true, false, true⟩
def xG (n : Nat) : RegUse := ⟨.g, n, true, false, true, false⟩
def mG (n : Nat) : RegUse := ⟨.g, n, true, false, false, false⟩
def wV (n : Nat) : RegUse := ⟨.v, n, false, true, false, false⟩
def rV (n : Nat) : RegUse := ⟨.v, n, true, false, false, false⟩
def rwV (n : Nat) : RegUse := ⟨.v, n, true, true, false, false⟩
def xV (n : Nat) : RegUse := ⟨.v, n, true, false, true, false⟩
def rA (n : Nat) : RegUse := ⟨.a, n, true, false, false, false⟩
def rK (n : Nat) : RegUse := ⟨.k, n, true, false, false, false⟩
def rT (n : Nat) : RegUse := ⟨.t, n, true, false, false, false⟩

/-! ## The registers of each operand record -/

def Src2.regs : Src2 → List RegUse
  | .reg n => [rG n]
  | _ => []

def RegImm.regs : RegImm → List RegUse
  | .reg n => [rG n]
  | .imm _ => []

def VSrc.regs : VSrc → List RegUse
  | .vec n => [rV n]
  | .gs n => [rG n]
  | .imm _ => []

def BcstSrc.regs : BcstSrc → List RegUse
  | .elem a _ => [rV a]
  | .gs n => [rG n]
  | .imm _ => []

def VIdx.regs : VIdx → List RegUse
  | .imm _ => []
  | .gs n => [rG n]

def XDst.regs : XDst → List RegUse
  | .addr n => [rA n]
  | .ring _ => []

/-- MOV copies a g register's mark (R376). -/
def MovArgs.regs : MovArgs → List RegUse
  | .fromG d a => [wG d, mG a]
  | .fromB d _ => [wG d]

def PmovArgs.regs : PmovArgs → List RegUse
  | .pp _ _ => []
  | .gAll d => [wG d]
  | .allG a => [rG a]
  | .pg _ a => [rG a]

def AmovArgs.regs : AmovArgs → List RegUse
  | .fromA d a => [rA d, rA a]
  | .fromG d a => [rA d, rG a]
  | .fromGG d a b => [rA d, rG a, rG b]
  | .imm d _ => [rA d]

def MmovArgs.regs : MmovArgs → List RegUse
  | .mm _ _ => []
  | .mg _ a => [rG a]
  | .gm d _ => [wG d]
  | .imm _ _ => []


def BinArgs.regs (o : BinArgs) : List RegUse := [wG o.d, rG o.a] ++ o.b.regs

def BinZArgs.regs (o : BinZArgs) : List RegUse := [wG o.d, rG o.a] ++ o.b.regs

def UnArgs.regs (o : UnArgs) : List RegUse := [wG o.d, rG o.a]

def MovxArgs.regs (o : MovxArgs) : List RegUse := [wG o.d, xG o.a]

def BfxArgs.regs (o : BfxArgs) : List RegUse := [wG o.d, rG o.a]

def BfiArgs.regs (o : BfiArgs) : List RegUse := [rwG o.d, rG o.a]

def SelArgs.regs (o : SelArgs) : List RegUse := [wG o.d, rG o.a, rG o.b]

def MoviArgs.regs (o : MoviArgs) : List RegUse :=
  match o.imm with
  | .high _ => [rwG o.d]
  | _ => [wG o.d]

def CmpArgs.regs (o : CmpArgs) : List RegUse := [rG o.a] ++ o.b.regs

def PlogArgs.regs (_o : PlogArgs) : List RegUse := []

def AaddArgs.regs (o : AaddArgs) : List RegUse := [rA o.d, rA o.a] ++ o.b.regs

def AleaArgs.regs (o : AleaArgs) : List RegUse := [rA o.d, rA o.a, rG o.b]

def AgetArgs.regs (o : AgetArgs) : List RegUse := [wG o.d, rA o.a]

def AcmpArgs.regs (o : AcmpArgs) : List RegUse := [rA o.a, rA o.b]

def FpArgs.regs (o : FpArgs) : List RegUse := [wG o.d, rG o.a, rG o.b]

def FmaArgs.regs (o : FmaArgs) : List RegUse := [rwG o.d, rG o.a, rG o.b]

def FminArgs.regs (o : FminArgs) : List RegUse := [wG o.d, rG o.a, rG o.b]

def FsqrtArgs.regs (o : FsqrtArgs) : List RegUse := [wG o.d, rG o.a]

def FcmpArgs.regs (o : FcmpArgs) : List RegUse := [rG o.a, rG o.b]

def FcvtArgs.regs (o : FcvtArgs) : List RegUse := [wG o.d, rG o.a]

def FsgnArgs.regs (o : FsgnArgs) : List RegUse := [wG o.d, rG o.a, rG o.b]

def FclsArgs.regs (o : FclsArgs) : List RegUse := [wG o.d, rG o.a]

def PbrArgs.regs (_o : PbrArgs) : List RegUse := []

def PbrgArgs.regs (o : PbrgArgs) : List RegUse := [rG o.g]

def BrArgs.regs (_o : BrArgs) : List RegUse := []

def CallArgs.regs (_o : CallArgs) : List RegUse := []

def LoopArgs.regs (o : LoopArgs) : List RegUse := [rG o.g]

def LdltArgs.regs (o : LdltArgs) : List RegUse := [rA o.a] ++ o.v.regs

def LdltClrArgs.regs (_o : LdltClrArgs) : List RegUse := []

def LbrkArgs.regs (_o : LbrkArgs) : List RegUse := []

def NoArgs.regs (_o : NoArgs) : List RegUse := []

def LdArgs.regs (o : LdArgs) : List RegUse := [wG o.d, rA o.a]

def StArgs.regs (o : StArgs) : List RegUse := [rG o.g, rA o.a]

def LdaArgs.regs (o : LdaArgs) : List RegUse := [rA o.d, rA o.a]

def StaArgs.regs (o : StaArgs) : List RegUse := [rA o.s, rA o.a]

def FeLdArgs.regs (o : FeLdArgs) : List RegUse := [wG o.d, rA o.a]

def FeStArgs.regs (o : FeStArgs) : List RegUse := [rG o.g, rA o.a]

def BarrArgs.regs (o : BarrArgs) : List RegUse := [rwG o.g, rA o.a]

def BwaitArgs.regs (o : BwaitArgs) : List RegUse := [rwG o.g, rA o.a]

def NotifyArgs.regs (o : NotifyArgs) : List RegUse := [rA o.a, rG o.g]

def WaitnArgs.regs (o : WaitnArgs) : List RegUse := [wG o.d, rG o.g]

def QpopArgs.regs (o : QpopArgs) : List RegUse := [if o.v then wV o.d else wG o.d]

def QpushArgs.regs (o : QpushArgs) : List RegUse := [if o.v then rV o.s else rG o.s]

def QstatArgs.regs (o : QstatArgs) : List RegUse := [wG o.d]

def QclrArgs.regs (_o : QclrArgs) : List RegUse := []

def QstArgs.regs (o : QstArgs) : List RegUse := [rK o.k]

def LdqArgs.regs (o : LdqArgs) : List RegUse := [rA o.a]

def LdqsArgs.regs (o : LdqsArgs) : List RegUse := [rA o.a]

def LdqxArgs.regs (o : LdqxArgs) : List RegUse := [rA o.a, rV o.vi]

def StfArgs.regs (o : StfArgs) : List RegUse := [if o.sz = 3 then rV o.s else rG o.s, rA o.a]

def StfsArgs.regs (o : StfsArgs) : List RegUse := [rV o.v, rA o.a]

def StfxArgs.regs (o : StfxArgs) : List RegUse := [rV o.v, rA o.a, rV o.vi]

def PrefArgs.regs (o : PrefArgs) : List RegUse := [rA o.a]

def CwbArgs.regs (o : CwbArgs) : List RegUse := [rG o.g, rA o.a]

def AmoArgs.regs (o : AmoArgs) : List RegUse := [rA o.a, rG o.g]

def AcasArgs.regs (o : AcasArgs) : List RegUse := [rA o.a, rG o.g, rG (o.g + 1)]

def VamoArgs.regs (o : VamoArgs) : List RegUse := [rA o.a, rV o.v]

def FenceArgs.regs (_o : FenceArgs) : List RegUse := []

def XferArgs.regs (o : XferArgs) : List RegUse := [rA o.a, rG o.g]

def RclaimArgs.regs (o : RclaimArgs) : List RegUse := [rA o.a]

def RshareArgs.regs (o : RshareArgs) : List RegUse := [rA o.a]

def VIntArgs.regs (o : VIntArgs) : List RegUse := [wV o.d, rV o.a] ++ o.b.regs

def VMadArgs.regs (o : VMadArgs) : List RegUse := [rwV o.d, rV o.a] ++ o.b.regs

def VIntZArgs.regs (o : VIntZArgs) : List RegUse := [wV o.d, rV o.a] ++ o.b.regs

def VabsArgs.regs (o : VabsArgs) : List RegUse := [wV o.d, rV o.a]

def VcmpArgs.regs (o : VcmpArgs) : List RegUse := [rV o.a, rV o.b]

def VselArgs.regs (o : VselArgs) : List RegUse := [wV o.d, rV o.a] ++ o.b.regs

def VFBinArgs.regs (o : VFBinArgs) : List RegUse := [wV o.d, rV o.a] ++ o.b.regs

def VFmaArgs.regs (o : VFmaArgs) : List RegUse := [rwV o.d, rV o.a] ++ o.b.regs

def VFUnArgs.regs (o : VFUnArgs) : List RegUse := [wV o.d, rV o.a]

def VfcmpArgs.regs (o : VfcmpArgs) : List RegUse := [rV o.a, rV o.b]

def VfsgnArgs.regs (o : VfsgnArgs) : List RegUse := [wV o.d, rV o.a, rV o.b]

def VcvtArgs.regs (o : VcvtArgs) : List RegUse := [wV o.d, rV o.a]

def VqencArgs.regs (o : VqencArgs) : List RegUse := [wV o.d, rV o.a] ++ (if o.fmt == .l4x then [] else [wG o.g])

def VqdecArgs.regs (o : VqdecArgs) : List RegUse := [wV o.d, rV o.a] ++ (if o.fmt == .l4x then [] else [rG o.g])

def VsclArgs.regs (o : VsclArgs) : List RegUse := [wV o.d, rV o.a] ++ o.b.regs

def VredArgs.regs (o : VredArgs) : List RegUse := [wG o.d, rV o.a]

def VscanArgs.regs (o : VscanArgs) : List RegUse := [wV o.d, rV o.a]

def VsortArgs.regs (o : VsortArgs) : List RegUse := [wV o.d, wV (o.d + 1), rV o.a, rV o.b]

def VpermArgs.regs (o : VpermArgs) : List RegUse := [wV o.d, rV o.a, rV o.b]

def VshufArgs.regs (o : VshufArgs) : List RegUse := [rwV o.d, rV o.a, rV o.b]

def VbcstArgs.regs (o : VbcstArgs) : List RegUse := [wV o.d] ++ o.src.regs

def VextArgs.regs (o : VextArgs) : List RegUse := [wG o.d, rV o.a] ++ o.idx.regs

def VinsArgs.regs (o : VinsArgs) : List RegUse := [wV o.d, rG o.g] ++ o.idx.regs

def ViotaArgs.regs (o : ViotaArgs) : List RegUse := [wV o.d]

def VcmprsArgs.regs (o : VcmprsArgs) : List RegUse := [wV o.d, rV o.a]

def VmovxArgs.regs (o : VmovxArgs) : List RegUse := [wV o.d, xV o.a]

def VrndArgs.regs (o : VrndArgs) : List RegUse := [wV o.d, rV o.a] ++ o.key.regs

def VdotArgs.regs (o : VdotArgs) : List RegUse := [rwV o.d, rV o.a, rV o.b]

def MlogArgs.regs (_o : MlogArgs) : List RegUse := []

def MpopArgs.regs (o : MpopArgs) : List RegUse := [wG o.d]

def MffArgs.regs (o : MffArgs) : List RegUse := [wG o.d]

def VldArgs.regs (o : VldArgs) : List RegUse := [wV o.v, rA o.a]

def VstArgs.regs (o : VstArgs) : List RegUse := [rV o.v, rA o.a]

def VldsArgs.regs (o : VldsArgs) : List RegUse := [wV o.v, rA o.a]

def VldxArgs.regs (o : VldxArgs) : List RegUse := [wV o.v, rA o.a, rV o.vi]

def PostArgs.regs (o : PostArgs) : List RegUse := [rA o.a] ++ o.hw.toList.map wG

def PostxArgs.regs (o : PostxArgs) : List RegUse := [rA o.a, rG o.g]

def FdefArgs.regs (o : FdefArgs) : List RegUse := [rA o.a]

def FrelArgs.regs (_o : FrelArgs) : List RegUse := []

def RinitArgs.regs (o : RinitArgs) : List RegUse := [rK o.k, rA o.a]

def CwaitArgs.regs (o : CwaitArgs) : List RegUse := o.t.regs

def CwaitNbArgs.regs (o : CwaitNbArgs) : List RegUse := o.t.regs

def CsigArgs.regs (o : CsigArgs) : List RegUse := o.v.regs

def CsigRArgs.regs (o : CsigRArgs) : List RegUse := o.v.regs ++ [rG o.g]

def CrdArgs.regs (o : CrdArgs) : List RegUse := [wG o.d]

def TagwArgs.regs (o : TagwArgs) : List RegUse := [rG o.g, rG (o.g + 1)]

def TagwNbArgs.regs (o : TagwNbArgs) : List RegUse := [rG o.g, rG (o.g + 1)]

def TagffArgs.regs (o : TagffArgs) : List RegUse := [wG o.d, rG o.g, rG (o.g + 1)]

def TagclrArgs.regs (o : TagclrArgs) : List RegUse := [rG o.g, rG (o.g + 1)]

def KmodeArgs.regs (_o : KmodeArgs) : List RegUse := []

def KqryStArgs.regs (o : KqryStArgs) : List RegUse := [wG o.d, rG o.g]

def KqryOccArgs.regs (o : KqryOccArgs) : List RegUse := [wG o.d]

def KqryVerArgs.regs (o : KqryVerArgs) : List RegUse := [wG o.d]

def NestArgs.regs (o : NestArgs) : List RegUse := [rA o.ap, rA o.ar]

def SettagArgs.regs (o : SettagArgs) : List RegUse := o.t.regs

def CsrrArgs.regs (o : CsrrArgs) : List RegUse := [wG o.d]

def CsrwArgs.regs (o : CsrwArgs) : List RegUse := o.v.regs

def CsrxArgs.regs (o : CsrxArgs) : List RegUse := [wG o.d, rG o.s]

def YieldFArgs.regs (_o : YieldFArgs) : List RegUse := []

def XlateRArgs.regs (o : XlateRArgs) : List RegUse := [rA o.a]

def XlateWArgs.regs (o : XlateWArgs) : List RegUse := [rA o.a]

def XlatePArgs.regs (o : XlatePArgs) : List RegUse := [rA o.d, rA o.a]

def TrapArgs.regs (_o : TrapArgs) : List RegUse := []

def Form1Args.regs (_o : Form1Args) : List RegUse := []

def RettResArgs.regs (o : RettResArgs) : List RegUse := [rG o.g]

def RettRefArgs.regs (o : RettRefArgs) : List RegUse := [rG o.g]

def ChkArgs.regs (o : ChkArgs) : List RegUse := [mG o.g]

def ChkQArgs.regs (_o : ChkQArgs) : List RegUse := []

def ChkNbArgs.regs (o : ChkNbArgs) : List RegUse := [mG o.g]

def AbortReqArgs.regs (_o : AbortReqArgs) : List RegUse := []

def FshareArgs.regs (_o : FshareArgs) : List RegUse := []

def FwswapArgs.regs (o : FwswapArgs) : List RegUse := [rA o.a]

def PtwArgs.regs (o : PtwArgs) : List RegUse := [rA o.ae, rA o.av]

def PtwNbArgs.regs (o : PtwNbArgs) : List RegUse := [rA o.ae, rA o.av]

def TlbiVaArgs.regs (o : TlbiVaArgs) : List RegUse := [rA o.a, rG o.g]

def TlbiVdArgs.regs (_o : TlbiVdArgs) : List RegUse := []

def Form2Args.regs (_o : Form2Args) : List RegUse := []

def PurgeArgs.regs (o : PurgeArgs) : List RegUse := [rG o.g]

def PurgeClrArgs.regs (o : PurgeClrArgs) : List RegUse := [rG o.g]

def ShrdArgs.regs (o : ShrdArgs) : List RegUse := [rA o.a]

def FrzArmArgs.regs (o : FrzArmArgs) : List RegUse := [rG o.g, rA o.a]

def FrzResArgs.regs (o : FrzResArgs) : List RegUse := [rG o.g, rA o.a]

def FrzDirtyArgs.regs (o : FrzDirtyArgs) : List RegUse := [rG o.g, rA o.a]

def FrzYArgs.regs (o : FrzYArgs) : List RegUse := [rG o.g]

def FrzArgs.regs (o : FrzArgs) : List RegUse := [rG o.g]

def FrzGoArgs.regs (o : FrzGoArgs) : List RegUse := [rG o.g]

def FrzDisArgs.regs (o : FrzDisArgs) : List RegUse := [rG o.g]

def MmaArgs.regs (o : MmaArgs) : List RegUse := [rT o.t]

def MblkArgs.regs (o : MblkArgs) : List RegUse := (List.range (o.k1 + 1)).map (fun b => rT (o.t + b))

def ScaccArgs.regs (o : ScaccArgs) : List RegUse := [rT o.td, rA o.aa, rA o.ab] ++ (List.range (o.nb1 + 1)).map (fun b => rT (o.ts + b))

def AzeroArgs.regs (o : AzeroArgs) : List RegUse := [rT o.t]

def AloadArgs.regs (o : AloadArgs) : List RegUse := [rT o.t, rA o.a] ++ o.stride.toList.map rG

def AstoreArgs.regs (o : AstoreArgs) : List RegUse := [rT o.t, rA o.a] ++ o.stride.toList.map rG

def AcopyArgs.regs (o : AcopyArgs) : List RegUse := [rT o.td, rT o.ts]

def RpopArgs.regs (_o : RpopArgs) : List RegUse := []

def XposeArgs.regs (o : XposeArgs) : List RegUse := (o.dst.regs ++ [rA o.a, rG o.g])

def XreqArgs.regs (o : XreqArgs) : List RegUse := (o.dst.regs ++ [rA o.a, rG o.g])

def XlayArgs.regs (o : XlayArgs) : List RegUse := (o.dst.regs ++ [rA o.a, rG o.g])

def CopyArgs.regs (o : CopyArgs) : List RegUse := [rA o.a]

def CopygArgs.regs (o : CopygArgs) : List RegUse := [rA o.a, rA o.ai]

def CfillArgs.regs (o : CfillArgs) : List RegUse := [rA o.a, rG o.g]

def CredArgs.regs (o : CredArgs) : List RegUse := [rA o.a]

/-- The registers that an instruction names. -/
def Instr.regs : Instr → List RegUse
  | .nop _ o => o.regs
  | .add _ o => o.regs
  | .sub _ o => o.regs
  | .mul _ o => o.regs
  | .mulh _ o => o.regs
  | .div _ o => o.regs
  | .rem _ o => o.regs
  | .and _ o => o.regs
  | .or _ o => o.regs
  | .xor _ o => o.regs
  | .andn _ o => o.regs
  | .shl _ o => o.regs
  | .shr _ o => o.regs
  | .sar _ o => o.regs
  | .rot _ o => o.regs
  | .min _ o => o.regs
  | .max _ o => o.regs
  | .adds _ o => o.regs
  | .subs _ o => o.regs
  | .abs _ o => o.regs
  | .clz _ o => o.regs
  | .ctz _ o => o.regs
  | .popc _ o => o.regs
  | .brev _ o => o.regs
  | .bfx _ o => o.regs
  | .bfi _ o => o.regs
  | .sel _ o => o.regs
  | .mov _ o => o.regs
  | .movi _ o => o.regs
  | .movx _ o => o.regs
  | .cmp _ o => o.regs
  | .plog _ o => o.regs
  | .pmov _ o => o.regs
  | .aadd _ o => o.regs
  | .alea _ o => o.regs
  | .amov _ o => o.regs
  | .aget _ o => o.regs
  | .acmp _ o => o.regs
  | .fadd _ o => o.regs
  | .fsub _ o => o.regs
  | .fmul _ o => o.regs
  | .fma _ o => o.regs
  | .fmin _ o => o.regs
  | .fmax _ o => o.regs
  | .fdiv _ o => o.regs
  | .fsqrt _ o => o.regs
  | .fcmp _ o => o.regs
  | .fcvt _ o => o.regs
  | .fsgn _ o => o.regs
  | .fcls _ o => o.regs
  | .pbr _ o => o.regs
  | .pbrg _ o => o.regs
  | .br _ o => o.regs
  | .call _ o => o.regs
  | .ret _ o => o.regs
  | .loop _ o => o.regs
  | .ldlt _ o => o.regs
  | .ldltClr _ o => o.regs
  | .lbrk _ o => o.regs
  | .endOp _ o => o.regs
  | .ld _ o => o.regs
  | .st _ o => o.regs
  | .lda _ o => o.regs
  | .sta _ o => o.regs
  | .ldfe _ o => o.regs
  | .ldff _ o => o.regs
  | .stef _ o => o.regs
  | .stff _ o => o.regs
  | .fest _ o => o.regs
  | .feclr _ o => o.regs
  | .barr _ o => o.regs
  | .bwait _ o => o.regs
  | .notify _ o => o.regs
  | .waitn _ o => o.regs
  | .qpop _ o => o.regs
  | .qpeek _ o => o.regs
  | .qpush _ o => o.regs
  | .qstat _ o => o.regs
  | .qclr _ o => o.regs
  | .qst _ o => o.regs
  | .ldq _ o => o.regs
  | .ldqs _ o => o.regs
  | .ldqx _ o => o.regs
  | .stf _ o => o.regs
  | .stfs _ o => o.regs
  | .stfx _ o => o.regs
  | .pref _ o => o.regs
  | .cwb _ o => o.regs
  | .cinv _ o => o.regs
  | .amo _ o => o.regs
  | .acas _ o => o.regs
  | .vamo _ o => o.regs
  | .fence _ o => o.regs
  | .xfer _ o => o.regs
  | .rclaim _ o => o.regs
  | .rshare _ o => o.regs
  | .vadd _ o => o.regs
  | .vsub _ o => o.regs
  | .vmul _ o => o.regs
  | .vmulh _ o => o.regs
  | .vmad _ o => o.regs
  | .vmin _ o => o.regs
  | .vmax _ o => o.regs
  | .vabs _ o => o.regs
  | .vand _ o => o.regs
  | .vor _ o => o.regs
  | .vxor _ o => o.regs
  | .vshl _ o => o.regs
  | .vshr _ o => o.regs
  | .vsar _ o => o.regs
  | .vadds _ o => o.regs
  | .vsubs _ o => o.regs
  | .vcmp _ o => o.regs
  | .vsel _ o => o.regs
  | .vfadd _ o => o.regs
  | .vfsub _ o => o.regs
  | .vfmul _ o => o.regs
  | .vfma _ o => o.regs
  | .vfmin _ o => o.regs
  | .vfmax _ o => o.regs
  | .vfdiv _ o => o.regs
  | .vfsqrt _ o => o.regs
  | .vfexp2 _ o => o.regs
  | .vflog2 _ o => o.regs
  | .vfcmp _ o => o.regs
  | .vfsgn _ o => o.regs
  | .vcvt _ o => o.regs
  | .vqenc _ o => o.regs
  | .vqdec _ o => o.regs
  | .vscl _ o => o.regs
  | .vred _ o => o.regs
  | .vscan _ o => o.regs
  | .vperm _ o => o.regs
  | .vshuf _ o => o.regs
  | .vbcst _ o => o.regs
  | .vext _ o => o.regs
  | .vins _ o => o.regs
  | .viota _ o => o.regs
  | .vcmprs _ o => o.regs
  | .vexpnd _ o => o.regs
  | .vsort _ o => o.regs
  | .vrnd _ o => o.regs
  | .vdot _ o => o.regs
  | .mlog _ o => o.regs
  | .mpop _ o => o.regs
  | .mff _ o => o.regs
  | .mmov _ o => o.regs
  | .vld _ o => o.regs
  | .vlds _ o => o.regs
  | .vldx _ o => o.regs
  | .vst _ o => o.regs
  | .vsts _ o => o.regs
  | .vstx _ o => o.regs
  | .vmovx _ o => o.regs
  | .post _ o => o.regs
  | .postx _ o => o.regs
  | .fdef _ o => o.regs
  | .frel _ o => o.regs
  | .rinit _ o => o.regs
  | .cwait _ o => o.regs
  | .cwaitNb _ o => o.regs
  | .csig _ o => o.regs
  | .csigR _ o => o.regs
  | .cset _ o => o.regs
  | .crd _ o => o.regs
  | .tagw _ o => o.regs
  | .tagwNb _ o => o.regs
  | .tagff _ o => o.regs
  | .tagclr _ o => o.regs
  | .kmode _ o => o.regs
  | .kqrySt _ o => o.regs
  | .kqryOcc _ o => o.regs
  | .kqryVer _ o => o.regs
  | .nest _ o => o.regs
  | .settag _ o => o.regs
  | .csrr _ o => o.regs
  | .csrw _ o => o.regs
  | .csrx _ o => o.regs
  | .yield _ o => o.regs
  | .yieldF _ o => o.regs
  | .trap _ o => o.regs
  | .rett _ o => o.regs
  | .rettNx _ o => o.regs
  | .rettRes _ o => o.regs
  | .rettRef _ o => o.regs
  | .chk _ o => o.regs
  | .chkQ _ o => o.regs
  | .chkNb _ o => o.regs
  | .abort _ o => o.regs
  | .abortReq _ o => o.regs
  | .xlateR _ o => o.regs
  | .xlateW _ o => o.regs
  | .xlateP _ o => o.regs
  | .fshare _ o => o.regs
  | .fwswap _ o => o.regs
  | .ptw _ o => o.regs
  | .ptwNb _ o => o.regs
  | .tlbiVa _ o => o.regs
  | .tlbiVd _ o => o.regs
  | .tlbiAll _ o => o.regs
  | .purge _ o => o.regs
  | .purgeL _ o => o.regs
  | .purgeClr _ o => o.regs
  | .shrd _ o => o.regs
  | .frzArm _ o => o.regs
  | .frzY _ o => o.regs
  | .frz _ o => o.regs
  | .frzRes _ o => o.regs
  | .frzDirty _ o => o.regs
  | .frzGo _ o => o.regs
  | .frzDis _ o => o.regs
  | .mma _ o => o.regs
  | .mblk _ o => o.regs
  | .scacc _ o => o.regs
  | .azero _ o => o.regs
  | .aload _ o => o.regs
  | .astore _ o => o.regs
  | .acopy _ o => o.regs
  | .rpop _ o => o.regs
  | .xpose _ o => o.regs
  | .xreq _ o => o.regs
  | .xlay _ o => o.regs
  | .copy _ o => o.regs
  | .copyg _ o => o.regs
  | .copys _ o => o.regs
  | .cfill _ o => o.regs
  | .cred _ o => o.regs
  | .cland _ o => o.regs
  | .unassignedOpcode _ => []
  | .endComplete => []
  | .fwhbHeartbeat _ => []
  | .resultLanding => []
  | .waitComplete => []
  | .queueDataArrival _ => []
  | .taskRelease _ => []
  | .taskRetire _ _ => []
  | .kilnDeadlock _ => []
  | .iterationStart _ => []
  | .wheelPlace _ _ => []
  | .wheelSteal _ _ => []
  | .nestRecordStart _ => []
  | .launchComplete _ => []
  | .accumulatorWrite => []
  | .passSlotPop => []
  | .slotPublish _ _ => []
  | .copyChunkIssue _ _ => []
  | .copyComplete _ _ => []
  | .lineEviction _ _ _ => []
  | .eccCorrected _ => []
  | .eccUncorrectable _ => []
  | .bucketLeak _ => []
  | .spareSubstitution _ _ _ _ => []
  | .coreUngate _ => []
  | .fwShareWindow _ => []
  | .forcedSave _ => []
  | .corePark _ => []
  | .coreSwap _ => []
  | .freezeReceive _ _ => []
  | .farStore _ => []
  | .atomicRequest _ => []
  | .atomicReply _ => []
  | .loadData _ => []
  | .loadRequest _ => []
  | .postxRecord _ => []
  | .postxReply _ => []
  | .remoteConeSignal _ => []
  | .notifyMessage _ => []
  | .copyChunk _ _ => []
  | .landingUpdate _ => []
  | .barrierRequest _ => []
  | .barrierReply _ => []
  | .acknowledgement _ => []
  | .cutMarker _ => []
  | .purgeMessage _ => []
  | .launchPacketMessage _ => []
  | .startArrival _ => []
  | .startRelease _ => []
  | .parityUpdate _ => []
  | .sequenceSkip _ => []
  | .requestTimeout _ => []
  | .linkDown _ _ => []
  | .dieLinkFailure _ _ => []
  | .launchArrivalTimeout _ => []
  | .spareInstallation _ _ => []
  | .stripeRebuild _ _ _ _ => []
  | .reserve _ _ _ _ => []
  | .bar2AtomicRefused _ _ _ => []
  | .hostNotifyWrite _ _ _ _ _ => []
  | .hostMemoryAccess _ _ _ _ _ => []
  | .hostAtomicop _ _ _ _ _ _ _ => []
  | .registerWrite _ _ => []
  | .cqctlWrite _ _ _ => []
  | .cqheadWrite _ _ _ => []
  | .rstopWrite _ _ _ => []
  | .nopPacket _ _ _ => []
  | .linkPacket _ _ _ => []
  | .launchPacket _ _ _ => []
  | .launchStart _ _ _ => []
  | .barePacket _ _ _ => []
  | .invokePacket _ _ _ => []
  | .slotldPacket _ _ _ => []
  | .slotrmPacket _ _ _ => []
  | .purgePacket _ _ _ => []
  | .killPacket _ _ _ => []
  | .ringSlotTimeout _ _ _ => []
  | .completionRecordWrite _ _ => []
  | .fwWatchdogExpiry _ => []
  | .fwCommit _ => []
  | .fwRevert _ => []
  | .commitDeadlineExpiry _ => []
  | .controllerReplacement _ _ _ _ => []
  | .packageReset _ _ _ => []
  | .attest _ _ => []
  | .bootreport _ => []
  | .leaves _ => []
  | .railSample _ _ => []
  | .thermalLimit _ _ => []
  | .powerCeilingUpdate _ _ => []
  | .flitArrival _ _ => []
  | .coreGate _ => []
  | .powerLoss _ => []

/-- The g registers whose marks an instruction raises. -/
def markReads (rs : List RegUse) : List Nat := (rs.filter fun r => r.kind = .g && r.rd && r.mark).map (·.num)

namespace Machine

/-! ## Legality of one instruction in a stream (R8, R65, R68, R74, R75) -/

/-- Engine-class validity of an opcode (R74). -/
def classOk (cls : Cls) (op : Nat) : Bool :=
  let ctl := cls = .control || cls = .firmware
  let full := ctl || cls = .vector
  if op ≤ 0x1C || op = 0x1E || op = 0x1F || (0x21 ≤ op && op ≤ 0x23) then true
  else if op ≤ 0x25 then full
  else if op ≤ 0x33 then full
  else if op = 0x3B || op = 0x3C then full
  else if op ≤ 0x40 then true
  else if op = 0x6A then cls = .vector
  else if op ≤ 0x6E then full
  else if op ≤ 0xB9 then cls = .vector
  else if op = 0xC5 || op = 0xC6 || op = 0xC8 || op = 0xC9 || op = 0xCA || op = 0xD0 || op = 0xD1 ||
    (0xD3 ≤ op && op ≤ 0xD7) then full
  else if op ≤ 0xD8 then ctl
  else if op ≤ 0xE2 then cls = .firmware
  else if op ≤ 0xEF then cls = .matrix
  else if op ≤ 0xF2 then cls = .transpose
  else cls = .copy

/-- The CSR map (R225): whether a class can read a number. -/
def csrReadable (cls : Cls) (n : Nat) : Bool :=
  if n ≤ 4 || (6 ≤ n && n ≤ 9) || n = 0x14 || n = 0x15 || (0x40 ≤ n && n ≤ 0x44) then !cls.single
  else if n = 5 then cls = .vector
  else if n = 0x10 then cls = .control
  else if 0x11 ≤ n && n ≤ 0x13 then cls = .control || cls = .firmware
  else if 0x100 ≤ n && n ≤ 0x104 then cls = .firmware
  else false

/-- The CSR map: whether a class can write a number. -/
def csrWritable (cls : Cls) (n : Nat) : Bool :=
  if n = 0 || n = 9 then !cls.single
  else if n = 0x12 then cls = .control || cls = .firmware
  else if n = 0x100 || n = 0x103 || n = 0x104 then cls = .firmware
  else false

/-- Sub-forms that a class excludes (R74, R220, R224, R227, R288, R292, R294, R373, R375). -/
def subOk (cls : Cls) : Instr → Bool
  | .qpop _ o | .qpeek _ o => cls = .vector || !o.v
  | .qpush _ o => cls = .vector || !o.v
  | .qst _ _ | .ldqs _ _ | .ldqx _ _ | .stfs _ _ | .stfx _ _ => cls = .vector
  | .ldq _ o => cls = .vector || o.sz = 2
  | .stf _ o => cls = .vector || o.sz = 2
  | .xlateP _ _ | .rettRes _ _ | .rettRef _ _ => cls = .firmware
  | .abort _ _ => cls != .firmware
  | .abortReq _ _ => cls = .control || cls = .firmware
  | .csrr _ o => csrReadable cls o.csr
  | .csrw _ o => csrWritable cls o.csr
  | .csrx _ o => csrReadable cls o.csr && csrWritable cls o.csr
  | _ => true

/-- Whether a register is legal in a slot of a stream: the clusters of R8, N and T of the pool word, and the small files of
the single-issue classes (R65, R68). -/
def regOk (cls : Cls) (pool : Word) (slot : Nat) (r : RegUse) : Bool :=
  let low := if r.far then slot = 1 else slot = 0
  match r.kind with
  | .g => if cls.single then r.num < 16 else if low then r.num < 32 else 32 ≤ r.num && r.num < 64
  | .v => if low then r.num < poolN pool / 2 else poolN pool / 2 ≤ r.num && r.num < poolN pool
  | .a => if cls.single then r.num < 8 else slot = 1
  | .k => cls.single || slot = 1
  | .t => r.num < poolT pool

/-- The opcodes that must have S = 1 (R65). -/
def needsB (op : Nat) : Bool := (0x21 ≤ op && op ≤ 0x25) || (0x44 ≤ op && op ≤ 0x6E) || (0xB3 ≤ op && op ≤ 0xB8)

/-- The legality of one instruction in a stream (R75). SHRD, FRZ and the like name an a register, so R201 puts them in B. -/
def legalOne (cls : Cls) (pool : Word) (i : Instr) : Bool :=
  match i.syl with
  | none => false
  | some y =>
    classOk cls y.op && subOk cls i && (if cls.single then y.h.slot = 0 else !(needsB y.op) || y.h.slot = 1) &&
      i.regs.all (regOk cls pool y.h.slot) && !(0xF4 ≤ y.op && y.h.prot = 2)

/-! ## Legality of a bundle (R18, R65, R87, R132, R416) -/

/-- The control-flow, control-unit and firmware-privileged blocks, of which a bundle holds one at most (R65). -/
def isSystem (op : Nat) : Bool := (0x38 ≤ op && op ≤ 0x40) || (0xC0 ≤ op && op ≤ 0xD8) || (0xDC ≤ op && op ≤ 0xE2)

/-- The units that two instructions of a bundle cannot share: 1 scalar divide, 2 vector FP, 3 vector divide, 4
transcendental, 5 cross-lane (R87, R132). -/
def sharedUnit (op : Nat) : Nat :=
  if op = 5 || op = 6 || op = 0x2E || op = 0x2F then 1
  else if (0x92 ≤ op && op ≤ 0x97) || (0x9C ≤ op && op ≤ 0xA1) || op = 0xAE then 2
  else if op = 0x98 || op = 0x99 then 3
  else if op = 0x9A || op = 0x9B then 4
  else if (0xA2 ≤ op && op ≤ 0xA5) || (0xAA ≤ op && op ≤ 0xAC) then 5
  else 0

/-- The legality of two instructions in one bundle. -/
def legalPair (a b : Instr) : Bool :=
  match a.syl, b.syl with
  | some x, some y => x.h.prot = 0 && y.h.prot = 0 && !(isSystem x.op && isSystem y.op) &&
      !(sharedUnit x.op != 0 && sharedUnit x.op = sharedUnit y.op)
  | _, _ => false

/-! ## Values of operand forms -/

namespace State

/-- The second operand of R85: a register, a 16-bit immediate extended as the opcode says, or a payload. -/
def src2 (s : State) (b : Src2) (signed : Bool) : Word :=
  match b with
  | .reg n => s.rdG n
  | .imm v => if signed then BitVec.ofInt 32 (sextNat 16 v) else BitVec.ofNat 32 v
  | .ext v => BitVec.ofNat 32 v

/-- A g register or an immediate (R202). -/
def regImm (s : State) : RegImm → Word
  | .reg n => s.rdG n
  | .imm v => BitVec.ofNat 32 v

/-- A register pair, the even register in bits 31:0 (R220). -/
def pairG (s : State) (n : Nat) : Nat := (s.rdG n).toNat + 0x100000000 * (s.rdG (n + 1)).toNat

end State

/-- The signed value of an offset (R125). -/
def offVal : Off → Int
  | .field16 v => sextNat 16 v
  | .ext v => sextNat 32 v

/-- The signed value of a lane stride (R162). -/
def strideVal : Stride → Int
  | .field13 v => sextNat 13 v
  | .ext v => sextNat 32 v

/-- An address plus a signed offset modulo 2^64 (R125). -/
def addrAdd (a : Addr) (o : Int) : Addr := a + BitVec.ofInt 64 o

/-- The effective address of an access with a base register, an offset and M (R125). -/
def State.ea (s : State) (a : Nat) (m : Bool) (off : Off) : Addr := if m then s.rdA a else addrAdd (s.rdA a) (offVal off)

/-- The address update of M = 1, a result of latency 1 (R125, R134 for the vector block). -/
def State.postInc (s : State) (h : Hdr) (vec : Bool) (a : Nat) (m : Bool) (off : Off) : State :=
  if m then s.result h vec 0 (.a a) (lowBits 64) ((addrAdd (s.rdA a) (offVal off)).setWidth 1024) 1 0 .none else s

/-- The syllable of an instruction, the value of ILLEGAL_OP (R371). -/
def sylVal (i : Instr) : Nat :=
  match i.syl with
  | some y => y.word
  | none => 0

end Machine
end Sys2Proof
end

