-- ==== Sys2Proof/Machine/Net.lean ====
section
/-! DEFINITION. Requests that outlive their instruction and the messages that carry them (20 R448 to R459): sequence numbers
and incarnations, queue entries and the arrival of their data (11 R287, R290), and the delivery of lost and refused
requests (R459). -/

namespace Sys2Proof.Machine

/-! ## Messages -/

/-- A message from a die to a die, before its sequence number. -/
def Msg.of (kind src dst tag launch : Nat) : Msg :=
  ⟨kind, src, dst, src, tag, launch, none, 0, 0, 0, [], 0, [], 0, 0, 0, false⟩

/-- The sequenced kinds (R450), between packages only (R453); of the copy chunks (kind 9) only those of CRED. -/
def sequencedKind (k : Nat) : Bool := (1 ≤ k && k ≤ 2) || k = 5 || k = 7 || k = 8 || k = 10 || k = 11 || (15 ≤ k && k ≤ 20)

/-- The destination incarnation that a die's rank table names (R466). -/
def State.einc (s : State) (src dst : Nat) : Nat := (SMap.get 0 dst (s.dieOf src).rankTab).toNat / 0x1000000000000

/-- Give a message its sequence number and incarnations where its kind is sequenced (R453, R454). -/
def State.sequenced (s : State) (m : Msg) : State × Msg :=
  if m.src / 4 = m.dst / 4 || !(sequencedKind m.kind || (m.kind = 9 && m.op = 0xF8)) then (s, m)
  else
    let d := s.dieOf m.src
    let n := SMap.get 0 m.dst d.seqs
    (s.putDie m.src { d with seqs := SMap.set 0 m.dst ((n + 1) % 65536) d.seqs },
      { m with seq := some (n, s.einc m.src m.dst, d.inc) })

/-- Sequenced requests of a die outstanding to a die: at most 64 (R454). -/
def State.outstandingTo (s : State) (src dst : Nat) : Nat :=
  (s.sys.reqs.filter fun r => match r.msg with
    | some m => m.src = src && m.dst = dst && m.seq.isSome
    | none => false).length

def State.seqRoom (s : State) (src dst n : Nat) : Bool := src / 4 = dst / 4 || s.outstandingTo src dst + n ≤ 64

/-! ## Queue entries (R287, R290) -/

/-- Change the entry of a stream's queue that a request fills. -/
def Stream.withEntry (x : Stream) (req : Nat) (f : QEntry → QEntry) : Stream :=
  { x with q := x.q.map fun (n, es) => (n, es.map fun e => if e.req = req then f e else e) }

/-- Entries discarded on arrival go once their data is there (R290). -/
def Stream.sweep (x : Stream) : Stream :=
  { x with q := (x.q.map fun (n, es) => (n, es.filter fun e => !(e.drop && e.data.isSome))).filter fun (_, es) => !es.isEmpty }

/-- The data of a request arrives in its entry, poppable from the next arithmetic clock on (R287). -/
def State.fillEntry (s : State) (sid req : Nat) (data : VReg) (mark : Mark) : State :=
  let ac := (s.coreOf (coreOfSid sid)).ac
  s.modStrm sid fun x => (x.withEntry req fun e =>
    { e with data := some data, readyAt := ac + 1, mark := if e.mark = .none then mark else e.mark }).sweep

/-- The entries of a queue that the stream itself has allocated; those of a run-ahead are not among them before it adopts them
(R378). -/
def State.ownQ (s : State) (q : Nat) : List QEntry := (s.rdQ q).filter fun e => !e.spec

/-- Allocate an entry at the tail of a queue of the issuing stream. -/
def State.allocEntry (s : State) (q : Nat) (e : QEntry) : State := s.putQ q (s.ownQ q ++ e :: (s.rdQ q).filter (·.spec))

/-- The vector that bytes form, byte 0 lowest. -/
def vecOfBytes (bs : List Byte) : VReg := BitVec.ofNat 1024 (natOfBytes bs)
def bytesOfVec (n : Nat) (v : VReg) : List Byte := leBytes n v.toNat

/-! ## Requests -/

def State.reqOf (s : State) (id : Nat) : Option Req := s.sys.reqs.find? (·.id = id)
def State.modReq (s : State) (id : Nat) (f : Req → Req) : State :=
  { s with sys := { s.sys with reqs := s.sys.reqs.map fun r => if r.id = id then f r else r } }

/-- Remove a request and lower the counts that it holds (R245). -/
def State.dropReq (s : State) (id : Nat) : State :=
  match s.reqOf id with
  | none => s
  | some r => ({ s with sys := { s.sys with reqs := s.sys.reqs.filter (·.id != id) } }).unpinAll (pkgOfCore (coreOfSid r.sid)) r.pages

/-- The sequence number of the task that a stream runs, 0 for the control unit. -/
def State.taskSeq (s : State) (sid : Nat) : Nat :=
  let x := s.strmOf sid
  if x.cls = .control || x.cls = .firmware then 0
  else match (s.coreOf (coreOfSid sid)).entry x.slot with
    | some e => if e.unit = some x.unit then e.seq else 0
    | none => 0

/-- Sticky flags of a task's late work: to its stream's FCSR while the task is the stream's last, else to its entry (R225). -/
def State.taskFlags (s : State) (sid own : Nat) (fl : Word) : State :=
  if fl = 0 then s
  else if s.taskSeq sid = own then s.modStrm sid fun x => { x with fcsr := x.fcsr ||| fl }
  else s.modCore (coreOfSid sid) fun c => { c with window := c.window.map fun (n, e) =>
    (n, e.map fun y => if y.seq = own then { y with flags := y.flags ||| fl } else y) }

/-- Add a request that needs no message: its data arrives by QUEUE_DATA_ARRIVAL. -/
def State.localReq (s : State) (w : Wait) (pages : List (Nat × Nat)) (data : Memory) (poison : Bool) (misses : List Nat) (prot : Nat) :
    State × Nat :=
  let id := s.sys.reqId
  let r : Req := ⟨id, s.sid, w, none, s.sys.dc, 0, true, pages, data, poison, misses, prot, s.taskSeq s.sid, false⟩
  (({ s with sys := { s.sys with reqs := s.sys.reqs ++ [r], reqId := id + 1 } }).pinAll s.pkg pages, id)

/-- Change a copy of a core by its identifier. -/
def Core.modCopy (c : Core) (id : Nat) (f : CopyProg → CopyProg) : Core :=
  { c with copies := c.copies.map fun p => if p.id = id then f p else p }

/-- An asynchronous copy fault (R330): the copy keeps it, its task becomes Held now or at its END, and the firmware context is
trapped with ASYNC and the task's slot in TINFO. A bare launch ends (R30). -/
def State.copyFault (s : State) (k id cause val : Nat) : State :=
  let c := s.coreOf k
  match c.copies.find? (·.id = id) with
  | none => s
  | some p =>
    if p.fault.isSome then s
    else
      let c1 := c.modCopy id fun q => { q with fault := some (cause, val) }
      if (s.launchOf c.launch).any fun l => l.bare.isSome then (s.putCore k c1).endBare c.launch cause (s.strmOf (sidOf k 7))
      else
        let c2 := match c1.entry p.tslot with
          | some e => if e.seq = p.tseq then c1.setEntry p.tslot (some { e with
                heldCause := some (cause, val), state := if e.state = .draining then .held else e.state }) else c1
          | none => c1
        ((s.putCore k c2).sherd (rankOfCore k) {
          kind := 2, tag := p.tag, launch := c.launch, core := k, unit := 7, src1 := c.lcore * 65536, synd := cause
          addr := val }).fwQueue k ⟨7, cause, false, val, 0, 0x40000 + p.tslot * 0x1000000, some id⟩

/-- A request is lost (24) or refused (19): what R459 does for its kind, then the request goes. -/
def State.failReq (s : State) (id cause : Nat) : State :=
  match s.reqOf id with
  | none => s
  | some r =>
    let rank := match r.msg with
      | some m => m.dst
      | none => 0
    let k := coreOfSid r.sid
    let s1 := match r.wait with
      | .store | .noReturn => s.modStrm r.sid fun x => { x with lost := x.lost ++ [(rank, cause)] }
      | .entry _ => s.fillEntry r.sid id 0 (.deferred cause rank)
      | .atomic _ _ _ => s.fillEntry r.sid id 0 (.deferred cause rank)
      | .part main _ => match (s.reqOf main).map (fun (q : Req) => q.wait) with
        | some (.chunkRead p n) => ((s.modCore k fun c => c.modCopy p fun q => { q with pending := q.pending.erase n }).copyFault k p
            cause rank).dropReq main
        | _ => s.modStrm r.sid fun x => x.withEntry main fun e => { e with mark := .deferred cause rank }
      | .postx _ => s.fillEntry r.sid id (BitVec.ofNat 1024 (if cause = 24 then 0xC0000000 else 0x80000000 + cause)) .none
      | .barrier => s.modStrm r.sid fun x => { x with rbar := .refused cause rank }
      | .chunk p n | .chunkRead p n =>
        (s.modCore k fun c => c.modCopy p fun q => { q with pending := q.pending.erase n }).copyFault k p cause rank
      | .copyLand p => s.copyFault k p cause rank
      | .purge | .launch | .skip | .parity => s
    s1.dropReq id

/-- Send a message as a request of a stream: it takes its sequence number now, and is lost at once where the fabric to its
destination has been given up (R457, R458). -/
def State.requestBy (s : State) (sid : Nat) (w : Wait) (m : Msg) (pages : List (Nat × Nat)) (prot : Nat) (acq : Bool) :
    State × Nat :=
  let id := s.sys.reqId
  let (s1, m1) := s.sequenced { m with req := id }
  let r : Req := ⟨id, sid, w, some m1, s.sys.dc, 0, false, pages, [], false, [], prot, s.taskSeq sid, acq⟩
  let s2 := ({ s1 with sys := { s1.sys with reqs := s1.sys.reqs ++ [r], reqId := id + 1 } }).pinAll
    (pkgOfCore (coreOfSid sid)) pages
  if m1.seq.isSome && SMap.get false m.dst (s.dieOf m.src).dead then (s2.failReq id 24, id) else (s2.send m1, id)

def State.request (s : State) (w : Wait) (m : Msg) (pages : List (Nat × Nat)) (prot : Nat) (acq : Bool) : State × Nat :=
  s.requestBy s.sid w m pages prot acq

/-- Send the purges of a launch along the tree of replication, from die 0 of its package to die 0 of the packages next to it but the one
from which the purge came, where places are free (R461). -/
def State.sendPurges (s : State) (sid lk : Nat) : State :=
  match s.launchOf lk with
  | none => s
  | some l =>
    let out := l.purgeOut.flatMap fun (tag, cause, src) => (l.treeNbrs.filter (· != src)).map fun p => (tag, cause, 4 * p)
    if l.purgeOut.isEmpty || !(out.all fun (_, _, d) => s.seqRoom (4 * l.pkg) d out.length) then s
    else out.foldl (fun t (tag, cause, d) => (t.requestBy sid .purge (purgeMsg (4 * l.pkg) d tag lk cause) [] 0 false).1)
      (s.modLaunch lk fun y => { y with purgeOut := [] })

/-! ## Earlier accesses of a stream (R219, R258, R259, R269) -/

/-- The requests of a stream whose accesses have not performed with respect to the core's own observers, or with `dom` also
with respect to the whole domain: its messages, and the answers of its atomics. -/
def State.outstanding (s : State) (sid : Nat) (dom : Bool) : List Nat :=
  (s.sys.reqs.filter fun r => r.sid = sid && match r.wait with
    | .store | .noReturn => (match r.msg with
      | some m => dom || !(m.kind = 7 || m.kind = 8)
      | none => false)
    | .part _ _ | .atomic _ _ _ => true
    | .postx _ => dom
    | _ => false).map (·.id)

/-- Sends of the stream that still wait for its earlier accesses. -/
def State.unsent (s : State) (sid : Nat) : Bool := (s.coreOf (coreOfSid sid)).deferred.any fun d => match d with
  | .csigR x _ _ _ _ _ _ | .postx x _ _ _ _ _ _ _ | .notify x _ _ _ _ _ _ => x = sid
  | _ => false

/-- Parity updates of writes in the dies' HBM that have not been acknowledged (R470). -/
def State.parityFrom (s : State) (dies : Nat → Bool) : Bool :=
  s.sys.parityOut.any (fun m => dies m.src) || s.sys.reqs.any fun r => r.wait = .parity && dies (rankOfCore (coreOfSid r.sid))
def State.parityBusy (s : State) (pkg : Nat) : Bool := s.parityFrom fun r => r / 4 = pkg

/-- Whether the issuing stream's task is speculative and holds scratchpad writes, which have not performed (R273). -/
def State.holding (s : State) : Bool := match s.specSlot with
  | some n => !(SMap.get [] n s.core.commit).isEmpty || !(SMap.get [] n s.core.commitFe).isEmpty
  | none => false

/-- A release at a scope may perform (R259): `.dom` waits also for posts, signals and notifies (R269). -/
def State.released (s : State) (dom : Bool) : Bool :=
  (s.outstanding s.sid dom).isEmpty && !s.holding && s.strm.vamo.isNone && !(dom && (s.unsent s.sid || s.parityBusy s.pkg))

/-! ## Logical cores (R279, R452) -/

/-- The launch of the issuing stream's core. -/
def State.launch (s : State) : Option Launch := s.launchOf s.core.launch

/-- Where a logical core of the launch stands: none where the launch has no such core; this core's own key; or the rank to
which a message goes. -/
inductive CoreAt where
  | nowhere | here | rank (r : Nat)
deriving DecidableEq, Repr

def State.lcoreAt (s : State) (lc : Nat) : CoreAt :=
  match s.launch with
  | none => .nowhere
  | some l =>
    match l.lcoreRank lc with
    | none => .nowhere
    | some r => if lc = s.core.lcore then .here else .rank r

/-- The core that holds a logical core of a message's launch at a die: resident or parked (R439). -/
def State.coreFor (s : State) (lk lc : Nat) : Option Nat :=
  match s.launchOf lk with
  | some l => l.coreAt lk lc
  | none => none

end Sys2Proof.Machine
end

