-- ==== Sys2Proof/Machine/Kiln.lean ====
section
/-! DEFINITION. Frames, task records and the dependence graph of the Kiln (07 R173 to R187), shared by the posting
instructions and by the hardware steps of the window. -/

namespace Sys2Proof.Machine

/-! ## Frames (R178 to R180) -/

/-- The fields of a frame descriptor. -/
structure FrameD where
  space : Nat
  dims : Nat
  esz : Nat
  versions : Nat
  agrp : Nat
  deferred : Bool
  base : Nat
  tl : List Nat
  nt : List Nat
  vstride : Nat
  strides : List Nat
deriving DecidableEq, Repr

def wordAt (ws : List Word) (n : Nat) : Nat := (ws.getD n 0).toNat

def FrameD.of (ws : List Word) : FrameD :=
  let c := wordAt ws 2
  let esz := c / 16 % 4
  { space := c % 4, dims := c / 4 % 4 + 1, esz := esz, versions := c / 64 % 4 + 1, agrp := c / 256 % 16
    deferred := c / 4096 % 2 = 1, base := wordAt ws 0 + 0x100000000 * wordAt ws 1
    tl := (List.range 4).map fun d => c / 2 ^ (16 + 4 * d) % 16
    nt := (List.range 4).map fun d => wordAt ws 3 / 2 ^ (8 * d) % 256
    vstride := wordAt ws 4, strides := [2 ^ esz, wordAt ws 5, wordAt ws 6, wordAt ws 7] }

/-- The bytes between a corner element, given per dimension, and the base of a version. -/
def FrameD.offset (f : FrameD) (xs : List Nat) : Nat := natSum (List.zipWith (· * ·) xs f.strides)

/-- The elements of a dimension. -/
def FrameD.extents (f : FrameD) : List Nat := List.zipWith (fun n t => (n + 1) * 2 ^ t) f.nt f.tl

/-- The hull of a frame as a half-open byte range; a ring frame's hull is its ring's buffer (R179, R180). -/
def FrameD.hull (f : FrameD) (c : Core) : Nat × Nat :=
  if f.space = 2 then
    let r := c.ring (f.base % 8)
    (r.base, r.base + r.nslot * r.slotsz * 128)
  else (f.base, f.base + (f.versions - 1) * f.vstride + f.offset (f.extents.map (· - 1)) + 2 ^ f.esz)

def rangesMeet (a b : Nat × Nat) : Bool := a.1 < b.2 && b.1 < a.2

/-- The defined frames of a core. -/
def Core.definedFrames (c : Core) : List (Nat × Frame) := c.frames.filterMap fun (n, f) => f.map fun x => (n, x)

/-- FRAME_OVERLAP of a new frame (R180). -/
def FrameD.overlaps (f : FrameD) (c : Core) : Bool := c.definedFrames.any fun (_, x) =>
  let y := FrameD.of x.words
  y.space = f.space && !(f.agrp != 0 && y.agrp = f.agrp) && rangesMeet (f.hull c) (y.hull c)

/-! ## Region references and records (R173 to R176) -/

/-- A region reference: frame, write, and the tile interval of each dimension. -/
structure RegRef where
  frame : Nat
  write : Bool
  reserved : Bool
  lo : List Nat
  cnt : List Nat
deriving DecidableEq, Repr

def RegRef.of (v : Nat) : RegRef :=
  ⟨v % 64, bit v 6, bit v 7, (List.range 4).map fun d => v / 2 ^ (8 + 14 * d) % 256,
    (List.range 4).map fun d => v / 2 ^ (16 + 14 * d) % 64⟩

/-- The 64-bit reference words of a record. -/
def refWords (ws : List Word) : List Nat := (List.range 4).map fun n => wordAt ws (8 + 2 * n) + 0x100000000 * wordAt ws (9 + 2 * n)

/-- The references of a record. -/
def recRefs (ws : List Word) : List RegRef := ((refWords ws).take (recNreg ws)).map RegRef.of

/-- The tiles of a reference in a dimension, half-open: a count of 0 is every tile (R174). -/
def RegRef.tiles (x : RegRef) (f : FrameD) (d : Nat) : Nat × Nat :=
  let n := x.cnt.getD d 0
  if n = 0 then (0, f.nt.getD d 0 + 1) else (x.lo.getD d 0, x.lo.getD d 0 + n)

/-- The half-open byte hull of a bound reference (R179). -/
def RegRef.hull (x : RegRef) (f : FrameD) (v : Nat) : Nat × Nat :=
  let edge := fun (pick : Nat × Nat → Nat) d => pick (x.tiles f d) * 2 ^ f.tl.getD d 0
  let start := f.base + v * f.vstride
  (start + f.offset ((List.range 4).map (edge Prod.fst)),
    start + f.offset ((List.range 4).map fun d => edge Prod.snd d - 1) + 2 ^ f.esz)

/-- Whether a reference covers every tile of its frame (R182). -/
def RegRef.whole (x : RegRef) (f : FrameD) : Bool :=
  (List.range 4).all fun d => x.tiles f d = (0, f.nt.getD d 0 + 1)

/-- The conditions of R175 that do not depend on frames. -/
def recordBad (ws : List Word) : Bool :=
  let w0 := wordAt ws 0
  let kind := w0 % 16
  let refs := refWords ws
  kind ≥ 7 || bit w0 15 || bit w0 11 || wordAt ws 1 / 0x10000000 % 8 != 0 || wordAt ws 2 / 0x2000000 != 0 ||
    recNreg ws > 4 || (refs.drop (recNreg ws)).any (· != 0) || (refs.any fun v => bit v 7) ||
    ((kind = 4 || kind = 5) && recNreg ws != 0) || (kind ≥ 4 && wordAt ws 1 % 0x10000000 != 0) ||
    (kind = 4 && (wordAt ws 4 / 4 != 0 || wordAt ws 5 / 8 != 0 || wordAt ws 5 % 8 > 4)) ||
    (recRefs ws).any fun x => (List.range 4).any fun d => x.cnt.getD d 0 = 0 && x.lo.getD d 0 != 0

/-- The conditions of R175 that depend on the frames of a core. -/
def Core.refBad (c : Core) (x : RegRef) : Bool :=
  match c.frame x.frame with
  | none => true
  | some y =>
    let f := FrameD.of y.words
    (List.range 4).any fun d =>
      (f.dims ≤ d && (x.lo.getD d 0 != 0 || x.cnt.getD d 0 != 0)) ||
        (x.cnt.getD d 0 != 0 && x.lo.getD d 0 + x.cnt.getD d 0 > f.nt.getD d 0 + 1)

/-- TASK_FORMAT at a core (R175). -/
def Core.taskFormat (c : Core) (ws : List Word) : Bool := recordBad ws || (recRefs ws).any c.refBad

/-! ## Entering a record (R181, R182) -/

/-- A reference bound to a version. -/
structure Bound where
  ref : RegRef
  ver : Nat
deriving DecidableEq, Repr

def Core.frameD (c : Core) (n : Nat) : FrameD := FrameD.of (match c.frame n with
  | some f => f.words
  | none => [])

/-- The bound references of an entry. -/
def KEntry.bound (e : KEntry) : List Bound := List.zipWith Bound.mk (recRefs e.words) e.vers

/-- Overlap of two bound references (R181). -/
def Core.overlap (c : Core) (x y : Bound) : Bool :=
  let f := c.frameD x.ref.frame
  if f.space = 2 || (c.frameD y.ref.frame).space = 2 then false
  else if x.ref.frame = y.ref.frame then
    x.ver = y.ver && (List.range 4).all fun d => rangesMeet (x.ref.tiles f d) (y.ref.tiles f d)
  else
    let g := c.frameD y.ref.frame
    f.agrp != 0 && f.agrp = g.agrp && rangesMeet (x.ref.hull f x.ver) (y.ref.hull g y.ver)

/-- The entries of the window with their slots. -/
def Core.entries (c : Core) : List (Nat × KEntry) := c.window.filterMap fun (n, e) => e.map fun x => (n, x)

/-- The coding of an entry's state in KQRY.st (R217). -/
def KState.code : KState → Nat
  | .waiting => 1
  | .ready => 2
  | .running => 3
  | .draining => 4
  | .held => 5

/-- Unretired references bound to a version of a frame (R182). -/
def Core.boundTo (c : Core) (frame ver : Nat) : Nat :=
  natSum (c.entries.map fun (_, e) => (e.bound.filter fun b => b.ref.frame = frame && b.ver = ver).length)

/-- The version that a renameable write takes, none where it is not renamed (R182). -/
def Core.rename (c : Core) (ws : List Word) (x : RegRef) : Option Nat :=
  match c.frame x.frame with
  | none => none
  | some y =>
    let f := FrameD.of y.words
    let older := c.entries.flatMap fun (_, e) => (e.bound.filter fun b => c.overlap b ⟨x, y.cur⟩)
    if f.versions > 1 && f.agrp = 0 && bit (wordAt ws 1) 31 && x.whole f &&
      !((recRefs ws).any fun r => !r.write && r.frame = x.frame) && !older.isEmpty && older.all (fun b => !b.ref.write) then
      (List.range f.versions).find? fun w => w != y.cur && c.boundTo x.frame w = 0
    else none

/-- Bind the references of a record in the order of R182: reads, then writes, with renames of the current version. -/
def Core.bindRefs (c : Core) (ws : List Word) (spec : Bool) : Core × List Nat :=
  let refs := recRefs ws
  let cur := fun (d : Core) n => match d.frame n with
    | some f => f.cur
    | none => 0
  let reads := refs.map fun x => cur c x.frame
  (refs.zipIdx.filter fun (x, _) => x.write).foldl (fun (d, vs) (x, i) =>
    match d.rename ws x, d.frame x.frame with
    | some w, some f =>
      (d.setFrame x.frame (some { f with
        cur := w
        before := if spec && f.before.isNone then some f.cur else f.before }), vs.set i w)
    | _, _ => (d, vs.set i (cur d x.frame))) (c, reads)

/-- The slots from which a new entry takes edges: overlapping references, and every entry for a cone marker (R176, R182). -/
def Core.edgesFor (c : Core) (ws : List Word) (vers : List Nat) : List Nat :=
  let mine := List.zipWith Bound.mk (recRefs ws) vers
  (c.entries.filter fun (_, u) => recKind ws = 5 || u.bound.any fun y => mine.any fun x =>
    c.overlap x y && (x.ref.write || y.ref.write)).map Prod.fst

/-- The lowest-numbered free slot (R213). -/
def Core.freeSlot (c : Core) : Option Nat := (List.range 256).find? fun n => (c.entry n).isNone

def Core.localEntries (c : Core) : Nat := (c.entries.filter fun (_, e) => e.ownPost).length

/-- The next sequence number (R213). -/
def Core.nextSeq (c : Core) : Nat := (c.kseq + 1) % 0x1000000

/-- Enter a record in a free slot: it is Waiting until the end of the clock decides that it is Ready (R214). -/
def Core.enterRecord (c : Core) (slot : Nat) (ws : List Word) (own spec : Bool) (pages : List (Nat × Nat)) (after : List Nat) : Core :=
  let (c1, vers) := c.bindRefs ws spec
  let e : KEntry := {
    words := ws.set 0 (ws.getD 0 0 &&& ~~~0x800), seq := c.nextSeq, state := .waiting, prio := wordAt ws 0 / 16 % 128, passes := 0
    vers := vers, waitOk := false, edges := c.edgesFor ws vers, ownPost := own, spec := spec, age := c.age, unit := none
    pages := pages, heldCause := none, retries := 0, after := after, flags := 0 }
  { c1.setEntry slot (some e) with kseq := c.nextSeq, age := c.age + 1 }

/-- A record whose tag the purge filter holds is counted and removed at once (R213, R381). -/
def Core.discardRecord (c : Core) : Core := { c with kseq := c.nextSeq, age := c.age + 1 }

/-! ## Pages of a record's lazy references (R213, R245) -/

/-- The pages that the lazy HBM references of a record need, in the versions that they would bind. -/
def Core.lazyPages (c : Core) (vdev : Nat) (ws : List Word) : List (Nat × Nat) :=
  let vers := (c.bindRefs ws false).2
  (List.zipWith Bound.mk (recRefs ws) vers).flatMap fun b =>
    let f := c.frameD b.ref.frame
    if f.space = 1 && f.deferred then
      let h := b.ref.hull f b.ver
      pagesOf vdev h.1 (h.2 - h.1)
    else []

/-- The pages of the writes that a record makes through HBM frames (R426). -/
def KEntry.writePages (e : KEntry) (c : Core) (vdev : Nat) : List (Nat × Nat) :=
  e.bound.flatMap fun b =>
    let f := c.frameD b.ref.frame
    if b.ref.write && f.space = 1 then
      let h := b.ref.hull f b.ver
      pagesOf vdev h.1 (h.2 - h.1)
    else []

/-! ## Leaving the window (R183, R185) -/

/-- An entry retires: its slot is free, its signal, tag and edges take effect together (R185). -/
def State.retire (s : State) (k slot : Nat) : State :=
  let c := s.coreOf k
  match c.entry slot with
  | none => s
  | some e =>
    let w3 := wordAt e.words 3
    let c1 := c.dropEntry slot
    let c2 := { c1 with
      conePend := if bit w3 24 then c1.conePend ++ [.add (w3 % 256) (w3 / 256 % 65536)] else c1.conePend
      tagSet := if bit w3 31 then c1.tagSet ||| (1 : BitVec 64) <<< (w3 / 0x2000000 % 64) else c1.tagSet }
    (s.putCore k c2).unpinAll (pkgOfCore k) e.pages

/-- Squash every speculative record of a core: removed like purged entries with the copies and the engine work of their tasks, frames
take back the version they had before the first squashed post, held writes are discarded, and streams that run them stop (R183,
R270, R273, R305). -/
def State.squash (s : State) (k : Nat) : State :=
  let c := s.coreOf k
  let hit := c.entries.filter fun (_, e) => e.spec
  let c1 := hit.foldl (fun d (n, _) => d.dropEntry n) c
  let c2 : Core := { c1 with
    frames := c1.frames.map fun (n, f) => (n, f.map fun x => { x with cur := x.before.getD x.cur, before := none })
    commit := hit.foldl (fun m (n, _) => SMap.erase n m) c1.commit
    commitFe := hit.foldl (fun m (n, _) => SMap.erase n m) c1.commitFe
    copies := c1.copies.filter fun p => !(hit.any fun (n, e) => p.tslot = n && p.tseq = e.seq)
    deferred := c1.deferred.filter fun d => !(hit.any fun (_, e) => d.owner = some e.seq) }
  let stops := fun (u : Nat) (x : Stream) => hit.any fun (n, e) => (e.state = .running || e.state = .held) && e.unit = some u && x.slot = n
  let gone := SysEvent.of (((s.unitsOf k).filter fun (u, x) => stops u x).map Prod.fst)
    ((c1.copies.filter fun p => hit.any fun (n, e) => p.tslot = n && p.tseq = e.seq).map (·.id))
  let s1 := (s.putCore k (c2.forgetEvents gone)).unpinAll (pkgOfCore k) (hit.flatMap fun (_, e) => e.pages)
  if hit.isEmpty then s1
  else s1.putUnits k ((s1.unitsOf k).map fun (u, x) =>
    let y := if u < 8 && u != 4 && stops u x then x.discard else x
    (u, { y with eng := hit.foldl (fun g (_, e) => g.dropTask e.seq) y.eng }))

/-- The queue entries that the run-ahead's loads allocated are freed, and their data is discarded on arrival (R305). -/
def State.freeSpecLoads (s : State) (k : Nat) : State :=
  s.modStrm (sidOf k 4) fun x => { x with
    q := (x.q.map fun (n, es) => (n, es.filter fun e => !e.spec)).filter fun (_, es) => !es.isEmpty }

/-- The run-ahead of a core ends without adoption (R378). -/
def State.dropAhead (s : State) (k : Nat) : State :=
  ((s.squash k).freeSpecLoads k).modCore k fun c => { c with ahead := none }

end Sys2Proof.Machine
end

