-- ==== Sys2Proof/Config.lean ====
section
/-! DEFINITION. The free values of the model: values that the spec leaves open after a step that runs. Each is an opaque
constant, so that nothing can evaluate it and a claim about it holds whatever it is. -/

namespace Sys2Proof.Config

/-- Bytes of a signature of 25 R518, by the number of the free value and the byte (log 13). -/
opaque freeByte : Nat → Nat → Byte

/-- A value that the spec leaves undefined after an instruction that goes on, by the state's counter (log 7). -/
opaque freeValue : Nat → VReg

/-- The rounding mode while FCSR.RM holds a reserved code (01 R12), by the code (log 17). -/
opaque freeRm : Nat → Nat

/-- What a read of a write-only die register gives (23 R500), by the byte's die offset (log 19). -/
opaque freeReg : Nat → Byte

end Sys2Proof.Config
end

