-- ==== Sys2Proof/Machine/Registers.lean ====
section
/-! DEFINITION. The registers of a die's register block (09 R239, 16 R392, R396, 20 R456, 23 R500, 24 R513), as the firmware context,
the management controller and other dies read and write them, and the rewriting of region entries (09 R249 to R251, 10 R263). -/

namespace Sys2Proof.Machine

def ftmoOff : Nat := 0x3F0000001000
def fwstbyOff : Nat := 0x3F0000002000
def fwsentOff : Nat := 0x3F0000002008
def fwwdOff : Nat := 0x3F0000002010
def fwsstOff : Nat := 0x3F0000002018
def fwcmtOff : Nat := 0x3F0000002028
def rstopOff : Nat := 0x3F0000002100

/-- FWSST: two bits for each core of the die (R500). -/
def Die.fwsstBits (d : Die) : Nat := natSum (d.fwsst.map fun (i, v) => v % 4 * 4 ^ i)

/-- The offsets at which the model places what the spec puts into the block without an offset (log 19): LEAK and MARK of each bucket
class (R392), the log ring's base, size, records written and records taken (R396), the granule whose counters a write resets (R253),
the die's protected partition in five words (R469), and the region table of the package, 16 bytes an entry (R249). -/
def leakOff (cls : Nat) : Nat := 0x3F0000003000 + 8 * cls
def logBaseOff : Nat := 0x3F0000003040
def logSizeOff : Nat := 0x3F0000003048
def logHeadOff : Nat := 0x3F0000003050
def logTailOff : Nat := 0x3F0000003058
def granuleOff : Nat := 0x3F0000003060
def parityOff : Nat := 0x3F0000004000
def regionOff (i : Nat) : Nat := 0x3F0000010000 + 16 * i

/-- The 64-bit register at an offset that is a multiple of 8, as a read finds it; offsets to which the spec gives no meaning are plain
storage (log 19). -/
def State.reg (s : State) (rank off : Nat) : Nat :=
  let d := s.dieOf rank
  if off = ftmoOff then d.ftmo.toNat
  else if off = fwstbyOff then d.fwstby.toNat
  else if off = fwsentOff then d.fwsent.toNat
  else if off = fwwdOff then d.fwwd.toNat
  else if off = fwsstOff then d.fwsstBits % 0x10000000000000000
  else if off = fwsstOff + 8 then d.fwsstBits / 0x10000000000000000
  else if off = fwcmtOff then natOfBytes ((List.range 8).map fun i => Config.freeReg (off + i))
  else if rstopOff ≤ off && off < rstopOff + 128 then (SMap.get false ((off - rstopOff) / 8) d.rstop).toNat
  else if leakOff 0 ≤ off && off < leakOff 7 then
    d.leakOf ((off - leakOff 0) / 8) + 0x10000 * d.markOf ((off - leakOff 0) / 8)
  else if off = logBaseOff then d.logBase
  else if off = logSizeOff then Nat.log2 d.logSize
  else if off = logHeadOff then d.logHead
  else if off = logTailOff then d.logTail
  else if off = parityOff then (match d.parity with
    | some p => 1 + 16 * p.member + 0x100000000 * p.group
    | none => 0)
  else if regionOff 0 ≤ off && off < regionOff 8192 then
    (SMap.get 0 ((off - regionOff 0) / 16) (s.pkgOf (rank / 4)).regions).toNat / 2 ^ (64 * ((off - regionOff 0) / 8 % 2)) % 2 ^ 64
  else Memory.readNat d.regs off 8

/-- The bytes of a read of the register block. -/
def State.regBytes (s : State) (rank off n : Nat) : List Byte :=
  (List.range n).map fun i => (leBytes 8 (s.reg rank ((off + i) / 8 * 8))).getD ((off + i) % 8) 0

/-- FTMO as a write leaves it: time-outs out of range are ignored (R456). -/
def ftmoWrite (old new : Nat) : Nat :=
  new / 0x10000000 % 16 * 0x10000000 + if 10 ≤ new % 32 && new % 32 ≤ 30 then new % 32 else old % 32

/-- RSTOP of a virtual device: clearing STOP restarts its time-outs from zero (R513). -/
def State.setRstop (s : State) (rank v : Nat) (stop : Bool) : State :=
  let s1 := s.modDie rank fun d => { d with rstop := SMap.set false v stop d.rstop }
  if stop then s1
  else s1.modVdev (rank / 4) v fun x =>
    if (x.fe / 64) % 4 = rank % 4 then
      { x with rings := x.rings.map fun (q, r) => (q, { r with resv := r.resv.map fun (a, n, _) => (a, n, s.sys.dc) }) }
    else x

/-! ## Region entries (09 R249, R251, 10 R263) -/

/-- Whether the accesses that a core's streams and copies made to a region have performed (R263 step 1). -/
def State.regionQuiet (s : State) (k vdev : Nat) (r : Region) : Bool :=
  let inside := fun va => r.base ≤ va && va < r.base + 2 ^ r.lsz
  !(s.sys.reqs.any fun q => coreOfSid q.sid = k &&
    (q.pages.any (fun (v, a) => v = vdev && inside a) || match q.msg with
      | some m => (m.kind = 1 || m.kind = 2 || m.kind = 19) && inside m.addr
      | none => false)) &&
  (s.coreOf k).copies.all fun p => p.pending.isEmpty

/-- Write a region entry; every replica holds it (R251, log 10). -/
def State.putRegion (s : State) (pkg i : Nat) (r : Region) : State :=
  s.modPkg pkg fun p => { p with regions := SMap.set 0 i r.bits p.regions }

/-- The resident cores of a package that an owned region belongs to: those of every launch of its device where it names none. -/
def State.regionCores (s : State) (pkg : Nat) (r : Region) : List Nat :=
  if !r.valid || r.state != 1 then []
  else s.sys.launches.filterMap fun (lk, o) => match o with
    | some l => if l.pkg = pkg && l.vdev = r.vdev && (r.launch = 0 || r.launch = launchId lk) then
        (l.residents.find? (·.1 = r.owner)).map Prod.snd else none
    | none => none

/-- Write back, and where `drop` is set invalidate, the lines of a region in the caches of cores. -/
def State.flushRegion (s : State) (pkg : Nat) (cores : List Nat) (r : Region) (drop : Bool) : State :=
  cores.foldl (fun t k => t.flushVirtual [k] ⟨k, pkg, r.vdev, (t.coreOf k).launch, 0, false, false, false⟩ r.base (2 ^ r.lsz) drop) s

/-- Whether step 1 of an ownership event that rewrites an entry is met (R263). -/
def State.regionReady (s : State) (pkg i : Nat) : Bool :=
  let r := Region.of (SMap.get 0 i (s.pkgOf pkg).regions)
  (s.regionCores pkg r).all fun k => s.regionQuiet k r.vdev r

/-- An ownership event that rewrites an entry, from step 2 on (R263): the old owner's lines are written back, the new owner's, or for a
shared region every core's, are invalidated, and every replica takes the entry. -/
def State.rewriteRegion (s : State) (pkg i : Nat) (new : Region) : State :=
  let old := Region.of (SMap.get 0 i (s.pkgOf pkg).regions)
  let s1 := s.flushRegion pkg (s.regionCores pkg old) old false
  (s1.flushRegion pkg (if new.valid && new.state = 2 then coresOfPkg pkg else s1.regionCores pkg new) new true).putRegion pkg i new

/-! ## Writes -/

/-- The protected partition that a write makes or removes (R469, log 19): bit 0 says whether there is one, bits 6:4 give the die's member
number, bits 63:32 the group; the next words hold base, size, and the ranks of the members, 16 bits each. -/
def Die.parityWrite (d : Die) (v : Nat) : Die :=
  let word := fun i => Memory.readNat d.regs (parityOff + 8 * i) 8
  { d with parity := if v % 2 = 0 then none else some {
      group := v / 0x100000000, base := word 1, size := word 2, member := v / 16 % 8
      ranks := (List.range 8).map fun i => word (3 + i / 4) / 0x10000 ^ (i % 4) % 0x400, blocked := [], ready := true } }

/-- A firmware store to one register (R253, R392, R396, R456, R500, R513, R249, log 19). -/
def State.regPut (s : State) (rank off v : Nat) : State :=
  let d := s.dieOf rank
  if off = ftmoOff then s.putDie rank { d with ftmo := BitVec.ofNat 32 (ftmoWrite d.ftmo.toNat v) }
  else if fwstbyOff ≤ off && off ≤ fwcmtOff then s
  else if rstopOff ≤ off && off < rstopOff + 128 then s.setRstop rank ((off - rstopOff) / 8) (v % 2 = 1)
  else if leakOff 0 ≤ off && off < leakOff 7 then
    let cls := (off - leakOff 0) / 8
    s.putDie rank { d with leak := SMap.set 31 cls (v % 32) d.leak, mark := SMap.set 65535 cls (max 1 (v / 0x10000 % 0x10000)) d.mark }
  else if off = logBaseOff then s.putDie rank { d with logBase := v }
  else if off = logSizeOff then s.putDie rank { d with logSize := if v = 0 then 0 else 2 ^ (v % 64) }
  else if off = logHeadOff then s
  else if off = parityOff then s.putDie rank (d.parityWrite v)
  else if off = logTailOff then s.putDie rank { d with logTail := v }
  else if off = granuleOff then s.putDie rank { d with
    granules := d.granules.filter (fun (k, _) => k / 4 != v), hinted := SMap.set false v false d.hinted }
  else if regionOff 0 ≤ off && off < regionOff 8192 then
    let i := (off - regionOff 0) / 16
    let e := (SMap.get 0 i (s.pkgOf (rank / 4)).regions).toNat
    let new := if (off - regionOff 0) / 8 % 2 = 0 then e / 2 ^ 64 * 2 ^ 64 + v else v * 2 ^ 64 + e % 2 ^ 64
    s.rewriteRegion (rank / 4) i (Region.of (BitVec.ofNat 128 new))
  else s.putDie rank { d with regs := Memory.writeNat off 8 v d.regs }

/-- The registers that a store touches. -/
def regsOf (off n : Nat) : List Nat := if n = 0 then [] else (List.range ((off + n - 1) / 8 + 1 - off / 8)).map fun i => (off / 8 + i) * 8

/-- A firmware store to the register block. -/
def State.regStore (s : State) (rank off : Nat) (bs : List Byte) : State :=
  (regsOf off bs.length).foldl (fun t w =>
    let lo := max off w
    let hi := min (off + bs.length) (w + 8)
    t.regPut rank w (natOfBytes (patch (lo - w) ((bs.drop (lo - off)).take (hi - lo)) (leBytes 8 (t.reg rank w))))) s

/-- Whether a store to the register block may perform: the old owners of the region entries that it rewrites are quiet (R263). -/
def State.regReady (s : State) (rank off n : Nat) : Bool :=
  (regsOf off n).all fun w => w < regionOff 0 || regionOff 8192 ≤ w || s.regionReady (rank / 4) ((w - regionOff 0) / 16)

end Sys2Proof.Machine
end

