-- ==== Sys2Proof/Machine/FarMem.lean ====
section
/-! DEFINITION. Queue loads, far stores and cache operations (11 R292 to R295), fences and ownership events (10 R263, R269,
11 R301 to R304). -/

namespace Sys2Proof.Machine

/-! ## The parts of a far access -/

/-- One part: its byte offset in the entry or source, its virtual or physical address, and its length. -/
structure FarPart where
  off : Nat
  va : Nat
  n : Nat
deriving DecidableEq, Repr

/-- A translated part. -/
structure FarPiece where
  part : FarPart
  hit : FarHit
deriving DecidableEq, Repr

/-- The address of lane `i` with a stride, and with an index (R163). -/
def strideAddr (a : Addr) (st : Stride) (i : Nat) : Nat := (addrAdd a (i * strideVal st)).toNat
def indexAddr (a : Addr) (w : Word) (sh : Nat) (z : Bool) : Nat := (a + ((if z then w.setWidth 64 else w.signExtend 64) <<< sh)).toNat

/-- The active lanes of a mask register. -/
def State.lanesOf (s : State) (km : Nat) : List Nat := (List.range 32).filter fun i => bit (s.rdM km).toNat i

/-- The parts of a lane form: 4 bytes for each active lane. -/
def laneParts (lanes : List Nat) (addr : Nat → Nat) : List FarPart := lanes.map fun i => ⟨4 * i, addr i, 4⟩

/-- The parts of a lane access by stride, and by index. -/
def State.strideParts (s : State) (a km : Nat) (st : Stride) : List FarPart :=
  laneParts (s.lanesOf km) (strideAddr (s.rdA a) st)
def State.indexParts (s : State) (a vi sh km : Nat) (z : Bool) : List FarPart :=
  laneParts (s.lanesOf km) fun i => indexAddr (s.rdA a) (lane (s.rdV vi) i) sh z

/-- What the copies of a vector access compare in a lane at issue (R134, R398): its address, and for a store the data and the byte mask. -/
def laneItem (parts : List FarPart) (v : Option VReg) (i : Nat) : List Nat :=
  match parts.find? fun p => p.off ≤ 4 * i && 4 * i < p.off + p.n with
  | some p => (p.va + (4 * i - p.off)) :: v.elim [] fun x => [(lane x i).toNat, 0xF]
  | none => []
def laneItems (mask : Word) (parts : List FarPart) (v : Option VReg) : Items :=
  { vals := [], lanes := (List.range 32).map (laneItem parts v), mask := mask }


/-- Translate and check every part: the pieces, or the first cause in R308's order with the first part that has it. `base` is the
address register, whose top byte must be zero (R240). -/
def State.farPieces (s : State) (x : FarCtx) (base : Addr) (parts : List FarPart) (write : Bool) : Except (Nat × Nat) (List FarPiece) :=
  match parts.find? fun p => p.va % p.n ≠ 0 with
  | some p => .error (7, p.va)
  | none =>
    let high := !x.phys && 0x100000000000000 ≤ base.toNat
    let all := parts.map fun p => (p, if high then .error (18, p.va) else s.farTranslate x p.va write)
    let bad := all.filterMap fun (_, r) => match r with
      | .error e => some e
      | .ok _ => none
    match (bad.find? (·.1 = 17)).or ((bad.find? (·.1 = 18)).or bad.head?) with
    | some e => .error e
    | none => .ok (all.filterMap fun (p, r) => match r with
      | .ok h => some ⟨p, h⟩
      | .error _ => none)

/-- A record of kind 0x1B where more than one region entry matched (R250). -/
def State.multiRecord (s : State) (x : FarCtx) (cause va : Nat) : State :=
  if cause = 19 && (s.regionMatch x.pkg x.vdev (launchId x.launch) va).length > 1 then
    s.sherd (rankOfCore x.core) { kind := 0x1B, tag := s.strm.tagr.toNat, launch := x.launch, core := x.core, unit := s.strm.unit, addr := va }
  else s

def FarPiece.remote (x : FarCtx) (p : FarPiece) : Bool := physPkg p.hit.addr ≠ x.pkg

/-- Outstanding messages of the stream that touch a physical range in another package: program order to the same bytes
(R21, R257). -/
def State.remoteBusy (s : State) (a n : Nat) : Bool := s.sys.reqs.any fun r => r.sid = s.sid && match r.msg with
  | some m => (m.kind = 1 || m.kind = 2 || m.kind = 19) &&
    m.args.getD 0 0 < a + n && a < m.args.getD 0 0 + max (m.args.getD 1 0) m.data.length
  | none => false

/-- Whether a PTW that waits blocks the translation of a part (R247). -/
def State.farBlocked (s : State) (x : FarCtx) (parts : List FarPart) : Bool :=
  !x.phys && parts.any fun p => s.walkBlocked x.core x.pkg x.vdev p.va

/-- The pages of the parts of an access, on which it holds counts (R245). -/
def farPages (x : FarCtx) (parts : List FarPart) : List (Nat × Nat) :=
  if x.phys then [] else parts.flatMap fun p => pagesOf x.vdev p.va p.n

/-- What a far access waits for before it issues: an acquire (R259), room for all its counts in the pin tables (R246), a sequence
number (R454), and earlier accesses to the same remote bytes. -/
def State.farWait (s : State) (x : FarCtx) (ps : List FarPiece) : Bool :=
  let rem := ps.filter (FarPiece.remote x)
  s.acquiring || !(s.pinRoom x.pkg (farPages x (ps.map (·.part)))) ||
    rem.any fun p => s.remoteBusy p.hit.addr p.part.n ||
      !(s.seqRoom s.rank (physRank p.hit.addr) (rem.filter fun q => physRank q.hit.addr = physRank p.hit.addr).length)

/-- A lost or refused request to a rank that the access addresses (R459). -/
def State.farLost (s : State) (x : FarCtx) (ps : List FarPiece) : Option (Nat × Nat) :=
  ps.findSome? fun p => if p.remote x then s.lostFor (some (physRank p.hit.addr)) else none

/-- The preamble fields that a message of a far access carries: physical address, length, whether the destination checks
R250, and the virtual device (R451). -/
def farArgs (x : FarCtx) (p : FarPiece) : List Nat := [p.hit.addr, p.part.n, (!x.phys && x.regions).toNat, x.vdev]

def State.farMsg (s : State) (kind : Nat) (x : FarCtx) (p : FarPiece) : Msg :=
  { Msg.of kind s.rank (physRank p.hit.addr) s.strm.tagr.toNat x.launch with
    slc := s.core.lcore, addr := p.part.va, args := farArgs x p }

/-! ## Queue loads (R292, R293) -/

/-- The bytes of a piece of the own package: HBM through the caches, or a die register. -/
def State.pieceBytes (s : State) (x : FarCtx) (p : FarPiece) : List Byte :=
  if isDieReg p.hit.addr then s.regBytes (physRank p.hit.addr) (physOff p.hit.addr) p.part.n
  else s.farBytes x.core p.hit p.part.n

/-- The lines for which the loads of a core hold L1 miss entries (R237). -/
def State.missesHeld (s : State) (k : Nat) : List Nat :=
  ((s.sys.reqs.filter fun r => coreOfSid r.sid = k).flatMap (·.misses)).eraseDups

/-- The lines of cached pieces that are not wholly in L1. -/
def State.l1Misses (s : State) (x : FarCtx) (ps : List FarPiece) : List Nat :=
  ((ps.filter fun p => p.hit.cached && (List.range p.part.n).any fun i => (optGet (p.hit.addr + i) (s.coreOf x.core).l1).isNone).map
    fun p => p.hit.addr / 128).eraseDups

/-- Whether L1 has miss entries for the lines that an access misses on (R237). -/
def State.missRoom (s : State) (k : Nat) (lines : List Nat) : Bool :=
  let held := s.missesHeld k
  held.length + (lines.filter fun l => !(held.contains l)).length ≤ 64

/-- Extend the bytes of a scalar part to a word: 1 by sign, else as they are (R125). -/
def extendPart (ext : Nat) (bs : List Byte) : List Byte :=
  if ext = 1 then leBytes 4 (wrap 32 (sextNat (8 * bs.length) (natOfBytes bs))) else bs

/-- One part of a queue load joins its request: bytes of the own package now, else a load request to its home die. -/
def State.loadPart (h : Hdr) (x : FarCtx) (id ext : Nat) (s : State) (p : FarPiece) : State :=
  if p.remote x then
    (s.request (.part id p.part.off) { s.farMsg 19 x p with op := ext } [] h.prot false).1
  else
    let bs := extendPart ext (s.pieceBytes x p)
    let s1 := s.modReq id fun r => { r with data := Memory.writeBytes p.part.off bs r.data }
    let s2 := if !(isDieReg p.hit.addr) && s.farPoisoned x.core p.hit p.part.n then
        s1.setStrm fun y => y.withEntry id fun e => { e with mark := .poison }
      else s1
    if p.hit.cached then s2.fillLine x.core p.hit.addr true
    else if isDieReg p.hit.addr then s2 else s2.granuleCount (rankOfCore x.core) p.hit.addr

/-- A queue load: QUEUE_OVER, then its checks, then the waits before issue, then its entry. -/
def queueLoad (s : State) (h : Hdr) (q : Nat) (base : Addr) (parts : List FarPart) (ext : Nat) (spec : Bool) (mask : Option Word)
    (after : State → State) : Eff :=
  let x := s.farCtx s.sid
  if (s.ownQ q).length ≥ 8 then .trap 5 0
  else if s.farBlocked x parts then .wait s
  else match s.farPieces x base parts false with
    | .error (c, v) =>
      if spec then .ok (after (s.allocEntry q ⟨0, some 0, s.core.ac + 1, .deferred c v, false, false, 0, Pos.zero, none⟩))
      else .trapIn (s.multiRecord x c v) c v
    | .ok ps =>
      match s.farLost x ps with
      | some l => .trapIn (s.setStrm fun y => { y with lost := y.lost.erase l }) l.2 l.1
      | none =>
        let lines := s.l1Misses x ps
        if s.farWait x ps || !(s.missRoom s.ck lines) then .wait s
        else
          let filled := ps.foldl (fun t p => t.tlbFill x p.part.va) s
          let (s1, id) := filled.localReq (.entry q) (farPages x parts) [] false lines h.prot
          let s2 := s1.allocEntry q ⟨id, none, 0, .none, false, false, h.prot, s.strm.pos, mask⟩
          .ok (after (ps.foldl (State.loadPart h x id ext) s2))

/-- The bundles of a run-ahead: that of the QPOP and 64 following ones (R377). A run with this count has ended. -/
def aheadLimit : Nat := 65

/-- The first entry of a list that a run-ahead has allocated becomes an ordinary one. -/
def adoptEntry : List QEntry → List QEntry
  | [] => []
  | e :: t => if e.spec then { e with spec := false } :: t else e :: adoptEntry t

/-- The next load that the CU program context adopts from its run-ahead, if it is one to this queue (R378). -/
def State.adoptLoad (s : State) (q : Nat) : Option State :=
  if s.strm.cls != .control then none
  else match s.core.ahead with
    | some r => match r.loads with
      | (n, _) :: rest => if n = q && r.count ≥ aheadLimit && (s.ownQ q).length < 8 then
          some ((s.putQ q (adoptEntry (s.rdQ q))).setCore fun c => { c with ahead := some { r with loads := rest } })
        else none
      | [] => none
    | none => none

/-- LDQ (R292); one with `.s` adopts the next load of a run-ahead (R378). -/
def execLdq (h : Hdr) (o : LdqArgs) (s : State) : Out :=
  runF h (markReads o.regs) (o.sz = 3) (vals fun s => [(s.ea o.a o.m o.off).toNat]) s fun s =>
    let n := if o.sz = 3 then 128 else 2 ^ o.sz
    match if o.s then s.adoptLoad o.q else none with
    | some t => .ok (t.postInc h false o.a o.m o.off)
    | none => queueLoad s h o.q (s.rdA o.a) [⟨0, (s.ea o.a o.m o.off).toNat, n⟩] (if o.sz < 2 && !o.z then 1 else 0) o.s
      (if o.sz = 3 then some (BitVec.allOnes 32) else none)
      fun t => t.postInc h false o.a o.m o.off

/-- LDQS (R292). -/
def execLdqs (h : Hdr) (o : LdqsArgs) (s : State) : Out :=
  runF h (markReads o.regs) true (fun s => laneItems (s.rdM o.km) (s.strideParts o.a o.km o.stride) none) s fun s =>
    queueLoad s h o.q (s.rdA o.a) (s.strideParts o.a o.km o.stride) 0 o.s (some (s.rdM o.km)) id

/-- LDQX (R292). -/
def execLdqx (h : Hdr) (o : LdqxArgs) (s : State) : Out :=
  runF h (markReads o.regs) true (fun s => laneItems (s.rdM o.km) (s.indexParts o.a o.vi o.sh o.km o.z) none) s fun s =>
    queueLoad s h o.q (s.rdA o.a) (s.indexParts o.a o.vi o.sh o.km o.z) 0 o.s (some (s.rdM o.km)) id

/-! ## Far stores (R294) -/

/-- One part of a far store performs, or goes as a far store message. -/
def State.storePart (h : Hdr) (x : FarCtx) (bytes : List Byte) (s : State) (p : FarPiece) : State :=
  let bs := (bytes.drop p.part.off).take p.part.n
  if p.remote x then
    (s.request .store { s.farMsg 1 x p with data := bs } (if x.phys then [] else pagesOf x.vdev p.part.va p.part.n) h.prot false).1
  else if isDieReg p.hit.addr then s.regStore (physRank p.hit.addr) (physOff p.hit.addr) bs
  else s.farWrite x p.part.va p.hit bs

/-- The saggar pages that a write of a replayable launch takes first (R383): the state, or the address whose pool is empty. -/
def State.takePages (s : State) (x : FarCtx) : List FarPart → Except Nat State
  | [] => .ok s
  | p :: ps => match (if x.phys then some s else s.saggarTake x.launch p.va) with
    | none => .error p.va
    | some t => t.takePages x ps

/-- A far store of parts of a source; a store to region entries is an ownership event, which waits for the old owners' accesses (R263). -/
def farStore (s : State) (h : Hdr) (base : Addr) (parts : List FarPart) (bytes : List Byte) (after : State → State) : Eff :=
  let x := s.farCtx s.sid
  if s.farBlocked x parts then .wait s
  else match s.farPieces x base parts true with
  | .error (c, v) => .trapIn (s.multiRecord x c v) c v
  | .ok ps =>
    match s.farLost x ps with
    | some l => .trapIn (s.setStrm fun y => { y with lost := y.lost.erase l }) l.2 l.1
    | none =>
      if s.farWait x ps || ps.any fun p => isDieReg p.hit.addr && !(p.remote x) &&
          !(s.regReady (physRank p.hit.addr) (physOff p.hit.addr) p.part.n) then .wait s
      else match s.takePages x parts with
        | .error v => .trap 21 v
        | .ok s1 => match s1.farPieces x base parts true with
          | .error (c, v) => .trap c v
          | .ok qs => .ok (after (qs.foldl (State.storePart h x bytes) (qs.foldl (fun t p => t.tlbFill x p.part.va) s1)))

/-- STF (R294). -/
def execStf (h : Hdr) (o : StfArgs) (s : State) : Out :=
  let n := if o.sz = 3 then 128 else 2 ^ o.sz
  let src := fun (s : State) => if o.sz = 3 then bytesOfVec 128 (s.rdV o.s) else leBytes 4 (s.rdG o.s).toNat
  runF h (markReads o.regs) (o.sz = 3) (vals fun s => [(s.ea o.a o.m o.off).toNat, natOfBytes ((src s).take n), 2 ^ n - 1]) s fun s =>
    farStore s h (s.rdA o.a) [⟨0, (s.ea o.a o.m o.off).toNat, n⟩] (src s) fun t => t.postInc h false o.a o.m o.off

/-- STFS (R294): lanes in ascending order. -/
def execStfs (h : Hdr) (o : StfsArgs) (s : State) : Out :=
  runF h (markReads o.regs) true (fun s => laneItems (s.rdM o.km) (s.strideParts o.a o.km o.stride) (some (s.rdV o.v))) s fun s =>
    farStore s h (s.rdA o.a) (s.strideParts o.a o.km o.stride) (bytesOfVec 128 (s.rdV o.v)) id

/-- STFX (R294). -/
def execStfx (h : Hdr) (o : StfxArgs) (s : State) : Out :=
  runF h (markReads o.regs) true (fun s => laneItems (s.rdM o.km) (s.indexParts o.a o.vi o.sh o.km o.z) (some (s.rdV o.v))) s fun s =>
    farStore s h (s.rdA o.a) (s.indexParts o.a o.vi o.sh o.km o.z) (bytesOfVec 128 (s.rdV o.v)) id

/-! ## Cache operations (R295) -/

/-- PREF fetches a line and never faults; it waits where L1 has no miss entry for it (R237), or a PTW blocks its walk (R247). -/
def execPref (h : Hdr) (o : PrefArgs) (s : State) : Out :=
  runI h (markReads o.regs) (vals fun s => [(addrAdd (s.rdA o.a) (offVal (.field16 o.off))).toNat]) s fun s =>
    let x := { s.farCtx s.sid with phys := false }
    let va := (addrAdd (s.rdA o.a) (offVal (.field16 o.off))).toNat
    if s.farBlocked x [⟨0, va, 1⟩] then .wait s
    else match s.farPieces x (s.rdA o.a) [⟨0, va, 1⟩] false with
    | .ok [p] =>
      if !p.hit.cached then .ok s
      else if !o.l2 && !(s.missRoom s.ck (s.l1Misses x [p])) then .wait s
      else .ok ((s.tlbFill x va).fillLine x.core p.hit.addr (!o.l2))
    | _ => .ok s

/-- CWB and CINV: every dirty line of the range is written to HBM, and with `drop` invalidated. -/
def cacheRange (h : Hdr) (o : CwbArgs) (drop : Bool) (s : State) : Out :=
  runI h (markReads o.regs) (vals fun s => [(addrAdd (s.rdA o.a) (offVal (.field16 o.off))).toNat, (s.rdG o.g).toNat]) s fun s =>
    let x := { s.farCtx s.sid with phys := false }
    let va := (addrAdd (s.rdA o.a) (offVal (.field16 o.off))).toNat
    if 0x100000000000000 ≤ va || 0x100000000000000 ≤ (s.rdA o.a).toNat then .trap 18 va
    else if s.farBlocked x ((pagesOf x.vdev va (s.rdG o.g).toNat).map fun p => ⟨0, p.2, 1⟩) then .wait s
    else .ok (s.flushVirtual [x.core] x va (s.rdG o.g).toNat drop)

/-- CWB. -/
def execCwb (h : Hdr) (o : CwbArgs) (s : State) : Out := cacheRange h o false s
/-- CINV. -/
def execCinv (h : Hdr) (o : CwbArgs) (s : State) : Out := cacheRange h o true s

/-! ## Fences (R269, R301) -/

/-- FENCE waits for the earlier accesses of its stream; a lost or refused post is raised at FENCE.dom (R459). -/
def execFence (h : Hdr) (o : FenceArgs) (s : State) : Out :=
  runI h (markReads o.regs) (vals fun _ => []) s fun s =>
    if o.scope = .part then .ok s
    else
      let dom := o.scope = .dom
      match if dom then s.lostFor none else none with
      | some l => .trapIn (s.setStrm fun y => { y with lost := y.lost.erase l }) l.2 l.1
      | none =>
        let loads := s.sys.reqs.any fun r => r.sid = s.sid && match r.wait with
          | .entry _ => true
          | _ => false
        if s.acquiring || loads || !(s.released dom) then .wait s else .ok s

/-! ## Ownership events (R263, R302, R303) -/

/-- A defined HBM frame of the core whose hull meets a region (R302). -/
def Core.frameMeets (c : Core) (r : Region) : Bool := c.definedFrames.any fun (_, f) =>
  let d := FrameD.of f.words
  d.space = 1 && rangesMeet (d.hull c) (r.base, r.base + 2 ^ r.lsz)

/-- The single entry that an ownership event may change, or OWNER_FAULT (R302). -/
def State.ownedRegion (s : State) (x : FarCtx) (va : Nat) : Option (Nat × Region) :=
  match s.regionMatch x.pkg x.vdev (launchId s.core.launch) va with
  | [(i, r)] => if r.state = 1 && r.owner = s.core.lcore then some (i, r) else none
  | _ => none

/-- XFER gives a region to another core (R302). -/
def execXfer (h : Hdr) (o : XferArgs) (s : State) : Out :=
  runI h (markReads o.regs) (vals fun s => [(s.rdA o.a).toNat, (s.rdG o.g).toNat]) s fun s =>
    let x := s.farCtx s.sid
    let va := (s.rdA o.a).toNat
    let lc := (s.rdG o.g).toNat % 65536
    match s.ownedRegion x va with
    | none => .trapIn (s.multiRecord x 19 va) 19 va
    | some (i, r) =>
      match s.lcoreAt lc with
      | .nowhere => .trap 8 lc
      | _ =>
        if s.core.frameMeets r then .trap 12 0
        else if s.acquiring || !(s.regionQuiet s.ck x.vdev r) then .wait s
        else
          let s1 := s.flushVirtual [x.core] x r.base (2 ^ r.lsz) false
          if lc = s.core.lcore then .ok s1
          else
            let dst := (s.coreFor s.core.launch lc).toList.filter fun k => !(isParkKey k)
            .ok ((s1.flushVirtual dst x r.base (2 ^ r.lsz) true).putRegion x.pkg i { r with owner := lc })

/-- RSHARE makes a region shared read-only (R303). -/
def execRshare (h : Hdr) (o : RshareArgs) (s : State) : Out :=
  runI h (markReads o.regs) (vals fun s => [(s.rdA o.a).toNat]) s fun s =>
    let x := s.farCtx s.sid
    let va := (s.rdA o.a).toNat
    match s.ownedRegion x va with
    | none => .trapIn (s.multiRecord x 19 va) 19 va
    | some (i, r) =>
      if s.core.frameMeets r then .trap 12 0
      else if s.acquiring || !(s.regionQuiet s.ck x.vdev r) then .wait s
      else
        let s1 := s.flushVirtual [x.core] x r.base (2 ^ r.lsz) false
        .ok ((s1.flushVirtual (coresOfPkg x.pkg) x r.base (2 ^ r.lsz) true).putRegion x.pkg i { r with state := 2, owner := 0 })

/-- RCLAIM takes a free region for this core (R303). -/
def execRclaim (h : Hdr) (o : RclaimArgs) (s : State) : Out :=
  runI h (markReads o.regs) (vals fun s => [(s.rdA o.a).toNat]) s fun s =>
    let x := s.farCtx s.sid
    let va := (s.rdA o.a).toNat
    match s.regionMatch x.pkg x.vdev (launchId s.core.launch) va with
    | [(i, r)] =>
      if s.acquiring then .wait s
      else if r.state = 0 then
        let s1 := s.flushVirtual [x.core] x r.base (2 ^ r.lsz) true
        .ok ((s1.putRegion x.pkg i { r with state := 1, owner := s.core.lcore }).resP h o.p true 1)
      else .ok (s.resP h o.p false 1)
    | [] => .ok (s.resP h o.p false 1)
    | _ => .trapIn (s.multiRecord x 19 va) 19 va

end Sys2Proof.Machine
end

