-- ==== Sys2Proof/Machine/Flags.lean ====
section
/-! DEFINITION. Number formats, rounding and sticky flags (spec 02, and 01 R12, R13): every float is decoded to an exact
value, computed with exactly, and rounded once with its flags. -/

namespace Sys2Proof.Machine

/-! ## Sticky flags in FCSR's places (R12, R43) -/

def flNV : Nat := 0x10
def flDZ : Nat := 0x20
def flOF : Nat := 0x40
def flUF : Nat := 0x80
def flNX : Nat := 0x100
def flFMT : Nat := 0x200

/-- The rounding mode that an instruction without a suffix uses: RNE while RM holds RNA (R13); a reserved code selects a
mode that the spec leaves open (log 17). -/
def plainRm (rm : Nat) : Nat := if rm < 4 then rm else if rm = 4 then 0 else Config.freeRm rm % 4
/-- The rounding mode of a requantising conversion, where RNA applies (R13, R47). -/
def requantRm (rm : Nat) : Nat := if rm ≤ 4 then rm else Config.freeRm rm % 5

/-! ## Formats (R32) -/

/-- A floating-point format: mantissa bits, bias, width, whether all ones is a finite exponent (E4M3), canonical NaN (R34). -/
structure FFmt where
  mb : Nat
  bias : Nat
  width : Nat
  e4m3 : Bool
  cnan : Nat
deriving DecidableEq, Repr

def fmtF32 : FFmt := ⟨23, 127, 32, false, 0x7FC00000⟩
def fmtBf16 : FFmt := ⟨7, 127, 16, false, 0x7FC0⟩
def fmtF16 : FFmt := ⟨10, 15, 16, false, 0x7E00⟩
def fmtE4m3 : FFmt := ⟨3, 7, 8, true, 0x7F⟩
def fmtE5m2 : FFmt := ⟨2, 15, 8, false, 0x7E⟩

/-- An exact value: NaN, an infinity, or ±m × 2^e. -/
inductive FVal where
  | nan
  | inf (neg : Bool)
  | fin (neg : Bool) (m : Nat) (e : Int)
deriving DecidableEq, Repr

/-- Bits and sticky flags of a result. -/
structure FRes where
  bits : Nat
  flags : Nat
deriving DecidableEq, Repr

/-- The largest value of the exponent field. -/
def FFmt.emax (f : FFmt) : Nat := 2 ^ (f.width - 1 - f.mb) - 1
/-- The encoding of the largest finite magnitude. -/
def FFmt.maxBits (f : FFmt) : Nat := if f.e4m3 then 0x7E else f.emax * 2 ^ f.mb - 1
/-- The sign bit of an encoding. -/
def FFmt.signBit (f : FFmt) (neg : Bool) : Nat := if neg then 2 ^ (f.width - 1) else 0
/-- The encoding of an infinity. -/
def FFmt.infBits (f : FFmt) (neg : Bool) : Nat := f.signBit neg + f.emax * 2 ^ f.mb

/-- The value of an encoding (R32, R33). -/
def FFmt.decode (f : FFmt) (bits : Nat) : FVal :=
  let neg := bits / 2 ^ (f.width - 1) % 2 = 1
  let ex := bits / 2 ^ f.mb % (f.emax + 1)
  let man := bits % 2 ^ f.mb
  if f.e4m3 && ex = f.emax && man + 1 = 2 ^ f.mb then .nan
  else if !f.e4m3 && ex = f.emax then if man = 0 then .inf neg else .nan
  else if ex = 0 then .fin neg man (1 - (f.bias : Int) - f.mb)
  else .fin neg (man + 2 ^ f.mb) ((ex : Int) - f.bias - f.mb)

/-- The value of an E8 scale byte (R35). -/
def scaleVal (b : Nat) : FVal := if b = 0xFF then .nan else .fin false 1 ((b : Int) - 127)

/-! ## Rounding (R39 to R42) -/

/-- `m × 2^e` to a multiple of `2^q` under a rounding mode: the multiple and whether it is inexact. -/
def roundTo (rm : Nat) (neg : Bool) (m : Nat) (e q : Int) : Nat × Bool :=
  if q ≤ e then (m * 2 ^ (e - q).toNat, false)
  else
    let d := (q - e).toNat
    let n := m / 2 ^ d
    let r := m % 2 ^ d
    let up := match rm with
      | 0 => 2 ^ d < 2 * r || (2 * r = 2 ^ d && n % 2 = 1)
      | 1 => false
      | 2 => neg && r != 0
      | 3 => !neg && r != 0
      | _ => 2 ^ d ≤ 2 * r
    (if up then n + 1 else n, r != 0)

/-- Round an exact value to a format. -/
def FFmt.round (f : FFmt) (rm : Nat) (sat : Bool) : FVal → FRes
  | .nan => ⟨f.cnan, flNV⟩
  | .inf neg =>
    if !f.e4m3 then ⟨f.infBits neg, 0⟩
    else if sat then ⟨f.signBit neg + f.maxBits, 0⟩ else ⟨f.cnan, flNV⟩
  | .fin neg 0 _ => ⟨f.signBit neg, 0⟩
  | .fin neg m e =>
    let top := e + (Nat.log2 m : Int)
    let (n, inexact) := roundTo rm neg m e (top - f.mb)
    let emin : Int := 1 - f.bias
    let tiny := if 2 ^ (f.mb + 1) ≤ n then top + 1 < emin else top < emin
    if tiny then
      let (k, bad) := roundTo rm neg m e (emin - f.mb)
      ⟨f.signBit neg + k, if bad then flUF + flNX else 0⟩
    else
      let mag := (top + f.bias).toNat * 2 ^ f.mb + (n - 2 ^ f.mb)
      if mag ≤ f.maxBits then ⟨f.signBit neg + mag, if inexact then flNX else 0⟩
      else if sat || rm = 1 || (rm = 2 && !neg) || (rm = 3 && neg) then ⟨f.signBit neg + f.maxBits, flOF + flNX⟩
      else if f.e4m3 then ⟨f.cnan, flOF + flNX + flNV⟩
      else ⟨f.infBits neg, flOF + flNX⟩

/-! ## Exact arithmetic (R101, R102) -/

/-- `m × 2^e` scaled to the exponent `q`, which is at most `e`. -/
def scaled (m : Nat) (e q : Int) : Nat := m * 2 ^ (e - q).toNat

def signed (neg : Bool) (m : Nat) : Int := if neg then -(m : Int) else m

/-- The sum of two terms; an exact zero takes the sign of R102. -/
def FVal.add (rm : Nat) : FVal → FVal → FVal
  | .nan, _ | _, .nan => .nan
  | .inf a, .inf b => if a = b then .inf a else .nan
  | .inf a, _ => .inf a
  | _, .inf b => .inf b
  | .fin na ma ea, .fin nb mb eb =>
    let q := min ea eb
    let v := signed na (scaled ma ea q) + signed nb (scaled mb eb q)
    if v = 0 then .fin (if na = nb then na else rm = 2) 0 0
    else .fin (v < 0) v.natAbs q

def FVal.negate : FVal → FVal
  | .nan => .nan
  | .inf a => .inf !a
  | .fin a m e => .fin (!a) m e

def FVal.mul : FVal → FVal → FVal
  | .nan, _ | _, .nan => .nan
  | .inf a, .inf b => .inf (a != b)
  | .inf a, .fin b m _ => if m = 0 then .nan else .inf (a != b)
  | .fin b m _, .inf a => if m = 0 then .nan else .inf (a != b)
  | .fin a m e, .fin b n k => .fin (a != b) (m * n) (e + k)

/-- The quotient to 64 bits beyond the divisor, with a sticky bit for what is left. -/
def FVal.div : FVal → FVal → FVal
  | .nan, _ | _, .nan => .nan
  | .inf _, .inf _ => .nan
  | .inf a, .fin b _ _ => .inf (a != b)
  | .fin a _ _, .inf b => .fin (a != b) 0 0
  | .fin a m e, .fin b n k =>
    if n = 0 then if m = 0 then .nan else .inf (a != b)
    else
      let s := 64 + Nat.log2 n
      let num := m * 2 ^ s
      .fin (a != b) (2 * (num / n) + if num % n = 0 then 0 else 1) (e - k - s - 1)

/-- Whether a division is a finite nonzero value by zero (DZ). -/
def FVal.divByZero : FVal → FVal → Bool
  | .fin _ m _, .fin _ n _ => m != 0 && n = 0
  | _, _ => false

/-- The integer square root, bit by bit from 2^47. -/
def isqrt (n : Nat) : Nat := (List.range 48).foldl (fun r i => if (r + 2 ^ (47 - i)) ^ 2 ≤ n then r + 2 ^ (47 - i) else r) 0

/-- The square root with a sticky bit; exact for significands of at most 24 bits. -/
def FVal.sqrt : FVal → FVal
  | .nan => .nan
  | .inf a => if a then .nan else .inf false
  | .fin a m e =>
    if m = 0 then .fin a 0 0
    else if a then .nan
    else
      let odd := e % 2 = 1
      let n := (if odd then 2 * m else m) * 2 ^ 60
      let r := isqrt n
      .fin false (2 * r + if r * r = n then 0 else 1) ((if odd then e - 1 else e) / 2 - 31)

/-- Order of two values that are not NaN; zeros of both signs are equal. -/
def FVal.compare : FVal → FVal → Ordering
  | .inf a, .inf b => if a = b then .eq else if a then .lt else .gt
  | .inf a, _ => if a then .lt else .gt
  | _, .inf b => if b then .gt else .lt
  | .fin na ma ea, .fin nb mb eb =>
    let q := min ea eb
    Ord.compare (signed na (scaled ma ea q)) (signed nb (scaled mb eb q))
  | _, _ => .eq

def FVal.isNan : FVal → Bool
  | .nan => true
  | _ => false

def FVal.negative : FVal → Bool
  | .nan => false
  | .inf a => a
  | .fin a _ _ => a

/-- The smaller (`max` false) or larger of two encodings (R102): -0 is less than +0, one NaN gives the other operand. -/
def FFmt.minMax (f : FFmt) (max : Bool) (a b : Nat) : FRes :=
  let x := f.decode a
  let y := f.decode b
  if x.isNan && y.isNan then ⟨f.cnan, flNV⟩
  else if x.isNan then ⟨b, 0⟩
  else if y.isNan then ⟨a, 0⟩
  else
    let less := match x.compare y with
      | .lt => true
      | .gt => false
      | .eq => x.negative || !y.negative
    ⟨if less != max then a else b, 0⟩

/-! ## Conversions (R45 to R47) -/

/-- The range of an integer format. -/
def intRange (width : Nat) (uns : Bool) : Int × Int :=
  if uns then (0, 2 ^ width - 1) else (-(2 ^ (width - 1)), 2 ^ (width - 1) - 1)

/-- Clamp an integer to a range. -/
def clampInt (lo hi v : Int) : Int := if v < lo then lo else if hi < v then hi else v

/-- A value to an integer (R46): the integer and the flags. -/
def FVal.toInt (rm : Nat) (sat : Bool) (width : Nat) (uns : Bool) (v : FVal) : Int × Nat :=
  let (lo, hi) := intRange width uns
  let bad : Int := if uns then 0 else lo
  match v with
  | .nan => (if sat then 0 else bad, flNV)
  | .inf neg => (if sat then (if neg then lo else hi) else bad, flNV)
  | .fin neg m e =>
    let (n, inexact) := roundTo rm neg m e 0
    let i := signed neg n
    if lo ≤ i && i ≤ hi then (i, if inexact then flNX else 0)
    else (if sat then clampInt lo hi i else bad, flNV)

/-- An integer as an exact value. -/
def FVal.ofInt (i : Int) : FVal := .fin (i < 0) i.natAbs 0

/-- The float format of a code of R107. -/
def floatOf : NumFmt → Option FFmt
  | .f32 => some fmtF32
  | .bf16 => some fmtBf16
  | .f16 => some fmtF16
  | .e4m3 => some fmtE4m3
  | .e5m2 => some fmtE5m2
  | _ => none

/-- The width and signedness (true: unsigned) of an integer code of R107. -/
def intFmt : NumFmt → Nat × Bool
  | .i32 => (32, false)
  | .i16 => (16, false)
  | .i8 => (8, false)
  | .i4 => (4, false)
  | .u32 => (32, true)
  | .u16 => (16, true)
  | .u8 => (8, true)
  | .u4 => (4, true)
  | _ => (8, true)

def fmtWidth (f : NumFmt) : Nat := match floatOf f with
  | some x => x.width
  | none => (intFmt f).1

/-- The integer that the low bits of a value hold in an integer format. -/
def intOf (width : Nat) (uns : Bool) (x : Nat) : Int := if uns then ((x % 2 ^ width : Nat) : Int) else sextNat width x

/-- The value of the low bits of a source in a format. -/
def fmtValue (f : NumFmt) (x : Nat) : FVal := match floatOf f with
  | some ft => ft.decode x
  | none => if f = .e8 then scaleVal (x % 256) else .ofInt (intOf (intFmt f).1 (intFmt f).2 x)

/-- A conversion (R45 to R47, R108): the low bits of the destination format and the flags. -/
def convert (dto frm : NumFmt) (rm : Nat) (sat : Bool) (x : Nat) : FRes :=
  match floatOf dto, floatOf frm with
  | some t, some f =>
    if dto = frm then if (f.decode x).isNan then ⟨t.cnan, flNV⟩ else ⟨x % 2 ^ f.width, 0⟩
    else t.round rm sat (f.decode x)
  | some t, none => t.round rm sat (fmtValue frm x)
  | none, some f =>
    let (v, fl) := (f.decode x).toInt rm sat (intFmt dto).1 (intFmt dto).2
    ⟨wrap (intFmt dto).1 v, fl⟩
  | none, none =>
    let v := intOf (intFmt frm).1 (intFmt frm).2 x
    let (lo, hi) := intRange (intFmt dto).1 (intFmt dto).2
    ⟨wrap (intFmt dto).1 (if sat then clampInt lo hi v else v), 0⟩

/-- The register value of a conversion's result: signed integers are sign-extended (R108). -/
def extendTo (f : NumFmt) (x : Nat) : Word :=
  if (floatOf f).isNone && !(intFmt f).2 then BitVec.ofInt 32 (sextNat (intFmt f).1 x) else BitVec.ofNat 32 x

/-! ## Comparisons (R104) -/

/-- An FP comparison by the code of its condition. -/
def FFmt.cond (f : FFmt) (cond a b : Nat) : Bool :=
  let x := f.decode a
  let y := f.decode b
  if x.isNan || y.isNan then cond = 1 || cond = 6
  else match cond, x.compare y with
    | 0, o => o == .eq
    | 1, o => o != .eq
    | 2, o => o == .lt
    | 3, o => o != .gt
    | 4, o => o == .gt
    | 5, o => o != .lt
    | 6, _ => false
    | _, _ => true

/-- The class of an encoding (R105). -/
def FFmt.classOf (f : FFmt) (a : Nat) : Nat := match f.decode a with
  | .nan => 8
  | .inf neg => if neg then 0 else 7
  | .fin neg m _ =>
    if m = 0 then if neg then 3 else 4
    else if m < 2 ^ f.mb then if neg then 2 else 5
    else if neg then 1 else 6

/-- FSGN on encodings (R106): 0 cpy, 1 neg, 2 xor. -/
def FFmt.sgn (f : FFmt) (fn a b : Nat) : FRes :=
  if (f.decode a).isNan then ⟨f.cnan, flNV⟩
  else
    let top := 2 ^ (f.width - 1)
    let sa := a / top % 2
    let sb := b / top % 2
    let s := match fn with
      | 0 => sb
      | 1 => 1 - sb
      | _ => (sa + sb) % 2
    ⟨a % top + s * top, 0⟩

/-! ## Operations on encodings -/

def FFmt.addOp (f : FFmt) (rm a b : Nat) : FRes := f.round rm false ((f.decode a).add rm (f.decode b))
def FFmt.subOp (f : FFmt) (rm a b : Nat) : FRes := f.round rm false ((f.decode a).add rm (f.decode b).negate)
def FFmt.mulOp (f : FFmt) (rm a b : Nat) : FRes := f.round rm false ((f.decode a).mul (f.decode b))
def FFmt.fmaOp (f : FFmt) (rm a b c : Nat) : FRes := f.round rm false (((f.decode a).mul (f.decode b)).add rm (f.decode c))
def FFmt.sqrtOp (f : FFmt) (rm a : Nat) : FRes := f.round rm false (f.decode a).sqrt
/-- Division of a finite nonzero value by zero gives an infinity with DZ and no other flag (R102). -/
def FFmt.divOp (f : FFmt) (rm a b : Nat) : FRes :=
  let x := f.decode a
  let y := f.decode b
  let r := f.round rm false (x.div y)
  ⟨r.bits, r.flags + if x.divByZero y then flDZ else 0⟩

end Sys2Proof.Machine
end

