-- ==== Sys2Proof/Machine/Sync.lean ====
section
/-! DEFINITION. Full/empty words, barrier words and notify registers (11 R278 to R286). -/

namespace Sys2Proof.Machine

/-! ## Full/empty words (R281) -/

/-- Whether a word is empty as the issuing stream sees it: a speculative task sees the bits that it has changed (R273). -/
def State.emptyWord (s : State) (a : Nat) : Bool :=
  match s.specSlot with
  | some n => (optGet (a / 4) (SMap.get [] n s.core.commitFe)).getD (SMap.get false (a / 4) s.core.feEmpty)
  | none => SMap.get false (a / 4) s.core.feEmpty

/-- Fill or empty a word; a speculative task's change stays with its held bytes (R273, log 98). -/
def State.setEmpty (s : State) (a : Nat) (e : Bool) : State :=
  match s.specSlot with
  | some n => s.setCore fun c => { c with commitFe := SMap.modify [] n (SMap.set none (a / 4) (some e)) c.commitFe }
  | none => s.setCore fun c => { c with feEmpty := SMap.set false (a / 4) e c.feEmpty }

/-- The checks of a full/empty access of `n` bytes: ALIGN, then WIN_CROSS (R308). -/
def feFault (s : State) (ea : Addr) (n : Nat) : Option (Nat × Nat) :=
  if ea.toNat % 4 ≠ 0 then some (7, ea.toNat) else s.localFault ea.toNat n false

/-- A load that waits for a full word; `take` empties it. An acquire (R258). -/
def feLoad (h : Hdr) (o : FeLdArgs) (take : Bool) (s : State) : Out :=
  runI h (markReads o.regs) (vals fun s => [(s.ea o.a o.m o.off).toNat]) s fun s =>
    let ea := s.ea o.a o.m o.off
    match feFault s ea 4 with
    | some (c, v) => .trap c v
    | none =>
      if s.acquiring || s.emptyWord ea.toNat then .wait s
      else if s.core.poisoned ea.toNat 4 then .trap 25 0
      else
        let s1 := (s.postInc h false o.a o.m o.off).resG h o.d (BitVec.ofNat 32 (s.localNat ea.toNat 4)) 8
        .ok (if take then s1.setEmpty ea.toNat true else s1)

/-- LDFE. -/
def execLdfe (h : Hdr) (o : FeLdArgs) (s : State) : Out := feLoad h o true s
/-- LDFF. -/
def execLdff (h : Hdr) (o : FeLdArgs) (s : State) : Out := feLoad h o false s

/-- A store that fills the word; `empty` waits until it is empty. A release at .core (R258): it performs after every
earlier access of the stream has performed (R259). -/
def feStore (h : Hdr) (o : FeStArgs) (empty : Bool) (s : State) : Out :=
  runI h (markReads o.regs) (vals fun s => [(s.ea o.a o.m o.off).toNat, (s.rdG o.g).toNat, 0xF]) s fun s =>
    let ea := s.ea o.a o.m o.off
    match feFault s ea 4 with
    | some (c, v) => .trap c v
    | none =>
      if s.acquiring || !(s.released false) || (empty && !(s.emptyWord ea.toNat)) then .wait s
      else match s.localWrite ea.toNat (leBytes 4 (s.rdG o.g).toNat) with
        | none => .wait s
        | some t => .ok ((t.postInc h false o.a o.m o.off).setEmpty ea.toNat false)

/-- STEF. -/
def execStef (h : Hdr) (o : FeStArgs) (s : State) : Out := feStore h o true s
/-- STFF. -/
def execStff (h : Hdr) (o : FeStArgs) (s : State) : Out := feStore h o false s

/-- FEST reads a full/empty bit. -/
def execFest (h : Hdr) (o : FeLdArgs) (s : State) : Out :=
  runI h (markReads o.regs) (vals fun s => [(s.ea o.a o.m o.off).toNat]) s fun s =>
    let ea := s.ea o.a o.m o.off
    match feFault s ea 4 with
    | some (c, v) => .trap c v
    | none =>
      if s.acquiring then .wait s
      else .ok ((s.postInc h false o.a o.m o.off).resG h o.d (if s.emptyWord ea.toNat then 0 else 1) 8)

/-- FECLR empties n words; it stalls for the rows that they need of one bank (R19, R231). -/
def execFeclr (h : Hdr) (o : FeStArgs) (s : State) : Out :=
  runI h (markReads o.regs) (vals fun s => [(s.ea o.a o.m o.off).toNat, (s.rdG o.g).toNat]) s fun s =>
    let ea := s.ea o.a o.m o.off
    let n := (s.rdG o.g).toNat % 0x1000 + 1
    match feFault s ea (4 * n) with
    | some (c, v) => .trap c v
    | none =>
      if s.acquiring then .wait s
      else .ok (((List.range n).foldl (fun t i => t.setEmpty (ea.toNat + 4 * i) true) (s.postInc h false o.a o.m o.off)).stallFor
        [(ea.toNat, 4 * n)])

/-! ## Barrier words (R233, R279, R282 to R284) -/

/-- The place that a barrier address names: with .sp the scratchpad name's core and offset, else this core. -/
def State.spName (s : State) (a : Nat) (off : Off) : Nat × Nat :=
  let name := (s.rdA a).toNat
  (name / 0x1000000000000, wrap 32 ((name % 0x100000000 : Nat) + offVal off))

/-- A scratchpad access by name or address: the core (none: this one), the offset, or its fault, in R308's order. -/
def State.spCheck (s : State) (sp : Bool) (a : Nat) (m : Bool) (off : Off) (align n : Nat) :
    Except (Nat × Nat) (Option (Nat × Nat) × Nat) :=
  let (lc, o) := if sp then s.spName a off else (s.core.lcore, (s.ea a m off).toNat)
  let w := if sp then s.lcoreAt lc else .here
  if o % align ≠ 0 then .error (7, o)
  else match w with
    | .nowhere => .error (8, lc)
    | .here => match s.localFault o n false with
      | some f => .error f
      | none => .ok (none, o)
    | .rank r => match s.localFault o n false with
      | some f => .error f
      | none => .ok (some (lc, r), o)

/-- One arrival at a barrier word: the old phase and the core after it (R283). -/
def Core.barrArrive (c : Core) (o t : Nat) : Core × Nat :=
  let count := (Memory.readNat c.loc o 4 + 1) % 0x100000000
  let old := Memory.readNat c.loc (o + 4) 4
  let (count', phase') := if count ≥ t then (0, (old + 1) % 0x100000000) else (count, old)
  (c.writeLocal o (leBytes 4 count' ++ leBytes 4 phase'), old)

/-- A remote barrier: the request is sent once, and the instruction completes when its reply has come (R283, R284, R419,
R459). -/
def remoteBarrier (s : State) (h : Hdr) (lc rank op o : Nat) (args : List Nat) (ready : Bool) (go : Nat → State → State) : Eff :=
  let clear := fun (t : State) => t.setStrm fun x => { x with rbar := .none }
  match s.strm.rbar with
  | .answered v => .ok (go v.toNat (clear s))
  | .refused c v => .trapIn (clear s) c v
  | .sent _ => .wait s
  | .none =>
    match s.lostFor (some rank) with
    | some (r, c) => .trapIn (s.setStrm fun x => { x with lost := x.lost.erase (r, c) }) c r
    | none =>
      if !ready || !(s.seqRoom s.rank rank 1) then .wait s
      else
        let m := { Msg.of 11 s.rank rank s.strm.tagr.toNat s.core.launch with
          slc := s.core.lcore, dlc := lc, addr := o, op := op, args := args }
        let (t, id) := s.request .barrier m [] h.prot (op = 1)
        .wait (t.setStrm fun x => { x with rbar := if x.rbar = .none then .sent id else x.rbar })

/-- BARR arrives at a barrier word; a release at .dom (R282, R283). That of a speculative task waits until its branch resolves
(log 98). -/
def execBarr (h : Hdr) (o : BarrArgs) (s : State) : Out :=
  runI h (markReads o.regs) (vals fun s => [(s.rdA o.a).toNat, (s.rdG o.g).toNat]) s fun s =>
    match s.spCheck o.sp o.a o.m (.field16 o.off) 8 8 with
    | .error (c, v) => .trap c v
    | .ok (none, a) =>
      if s.acquiring || s.specSlot.isSome || !(s.released true) then .wait s
      else
        let (c, old) := s.core.barrArrive a (s.rdG o.g).toNat
        .ok (((s.setCore fun _ => c).postInc h false o.a o.m (.field16 o.off)).resG h o.g (BitVec.ofNat 32 old) 8)
    | .ok (some (lc, r), a) =>
      remoteBarrier s h lc r 0 a [(s.rdG o.g).toNat] (!s.acquiring && s.specSlot.isNone && s.released true) fun v t =>
        t.resG h o.g (BitVec.ofNat 32 v) 1

/-- BWAIT waits for a phase; an acquire (R282, R284). -/
def execBwait (h : Hdr) (o : BwaitArgs) (s : State) : Out :=
  runI h (markReads o.regs) (vals fun s => [(s.rdA o.a).toNat, (s.rdG o.g).toNat]) s fun s =>
    match s.spCheck o.sp o.a o.m (.field16 o.off) 8 8 with
    | .error (c, v) => .trap c v
    | .ok (none, a) =>
      match bwaitTest o.par (Memory.readNat s.core.loc (a + 4) 4) (s.rdG o.g).toNat with
      | none => .wait s
      | some v => if s.acquiring then .wait s
        else .ok ((s.postInc h false o.a o.m (.field16 o.off)).resG h o.g (BitVec.ofNat 32 v) 1)
    | .ok (some (lc, r), a) =>
      remoteBarrier s h lc r 1 a [o.par.toNat, (s.rdG o.g).toNat] (!s.acquiring) fun v t => t.resG h o.g (BitVec.ofNat 32 v) 1

/-! ## Notify registers (R234, R285, R286) -/

/-- NOTIFY sends a value to be ORed into a notify register; a posted release at .dom (R258, R285). That of a speculative task waits until
its branch resolves (log 98). -/
def execNotify (h : Hdr) (o : NotifyArgs) (s : State) : Out :=
  runI h (markReads o.regs) (vals fun s => [(s.rdA o.a).toNat, (s.rdG o.g).toNat]) s fun s =>
    let name := (s.rdA o.a).toNat
    let lc := name / 0x1000000000000
    let go := fun (t : State) => t.setCore fun c => { c with
      deferred := c.deferred ++ [.notify t.sid (t.outstanding t.sid true) lc (name % 16) (t.rdG o.g).toNat t.strm.tagr.toNat (t.taskSeq t.sid)] }
    match s.lcoreAt lc with
    | .nowhere => .trap 8 lc
    | .here => if s.acquiring || s.specSlot.isSome then .wait s else .ok (go s)
    | .rank r => match s.lostFor (some r) with
      | some (q, c) => .trapIn (s.setStrm fun x => { x with lost := x.lost.erase (q, c) }) c q
      | none => if s.acquiring || s.specSlot.isSome then .wait s else .ok (go s)

/-- WAITN waits for bits of a notify register and clears them (R286). -/
def execWaitn (h : Hdr) (o : WaitnArgs) (s : State) : Out :=
  runI h (markReads o.regs) (vals fun s => [(s.rdG o.g).toNat]) s fun s =>
    let old := SMap.get 0 o.n s.core.notify
    let x := old &&& s.rdG o.g
    if s.acquiring || (x = 0 && s.rdG o.g ≠ 0 && !o.nb) then .wait s
    else .ok ((s.setCore fun c => { c with notify := SMap.set 0 o.n (old &&& ~~~x) c.notify }).resG h o.d x 1)

end Sys2Proof.Machine
end

