-- ==== Sys2Proof/Machine/Atomics.lean ====
section
/-! DEFINITION. Atomics: AMO, ACAS and VAMO on words of HBM and of the scratchpads of a launch (10 R265 to R268, 11 R296 to
R300). -/

namespace Sys2Proof.Machine

/-! ## The operation of an atomic -/

def amoCode : AmoOp → Nat
  | .add => 0
  | .and => 1
  | .or => 2
  | .xor => 3
  | .min => 4
  | .max => 5
  | .exch => 6
  | .fadd => 7

def vamoCode : VamoOp → Nat
  | .addI32 => 0
  | .addF32 => 1
  | .maxS32 => 2
  | .minS32 => 3
  | .addI16 => 4
  | .addBf16 => 5
  | .addF16 => 6
  | .exch32 => 7

/-- f(old, s) of AMO (R298). -/
def amoApply (op : Nat) (old s : Word) : Word := match op with
  | 0 => old + s
  | 1 => old &&& s
  | 2 => old ||| s
  | 3 => old ^^^ s
  | 4 => if s.toInt < old.toInt then s else old
  | 5 => if old.toInt < s.toInt then s else old
  | 6 => s
  | _ => BitVec.ofNat 32 (fmtF32.addOp 0 old.toNat s.toNat).bits

/-- One element of VAMO: its width in bytes and f (R300). -/
def vamoWidth (op : Nat) : Nat := if 4 ≤ op && op ≤ 6 then 2 else 4
def vamoElem (op old s : Nat) : Nat := match op with
  | 0 => (old + s) % 0x100000000
  | 1 => (fmtF32.addOp 0 old s).bits
  | 2 => if sextNat 32 old < sextNat 32 s then s else old
  | 3 => if sextNat 32 s < sextNat 32 old then s else old
  | 4 => (old + s) % 0x10000
  | 5 => (fmtBf16.addOp 0 old s).bits
  | 6 => (fmtF16.addOp 0 old s).bits
  | _ => s

/-- An atomic as it travels: kind 0 AMO, 1 ACAS, 2 VAMO, with its operation, operand bytes and expected value. -/
structure AtomOp where
  kind : Nat
  op : Nat
  operand : List Byte
  expected : Nat
deriving DecidableEq, Repr

def AtomOp.width (a : AtomOp) : Nat := if a.kind = 2 then 32 else 4

/-- The elements of an atomic, each performed on its own (R265, R267), and their size in bytes. -/
def AtomOp.size (a : AtomOp) : Nat := if a.kind = 2 then vamoWidth a.op else 4
def AtomOp.count (a : AtomOp) : Nat := a.width / a.size

/-- The bytes that element `e` writes over its old bytes: none where an ACAS fails (R266, R299). -/
def AtomOp.elem (a : AtomOp) (e : Nat) (old : List Byte) : Option (List Byte) :=
  let s := natOfBytes ((a.operand.drop (a.size * e)).take a.size)
  match a.kind with
  | 0 => some (leBytes 4 (amoApply a.op (BitVec.ofNat 32 (natOfBytes old)) (BitVec.ofNat 32 s)).toNat)
  | 1 => if natOfBytes old = a.expected then some a.operand else none
  | _ => some (leBytes a.size (vamoElem a.op (natOfBytes old) s))

/-- The new bytes do not depend on the old ones: an exchange, which replaces a poisoned word (R389, log 99). -/
def AtomOp.replaces (a : AtomOp) : Bool := (a.kind = 0 && a.op = 6) || (a.kind = 2 && a.op = 7)

/-! ## Where it performs (R265, R297) -/

/-- An element at the bank unit of a core, resident or parked: the core after it, the old bytes, and whether they were poisoned. -/
def Core.atomElem (c : Core) (o : Nat) (a : AtomOp) (e : Nat) : Core × List Byte × Bool :=
  let at_ := o + a.size * e
  let old := Memory.readBytes c.loc at_ a.size
  let bad := c.poisoned at_ a.size
  (match a.elem e old with
    | none => c
    | some new => let d := c.writeLocal at_ new
      if bad && !a.replaces then d.poison_ at_ a.size else d, old, bad)

/-- An element at the memory-side unit of HBM. -/
def State.atomElem (s : State) (pa : Nat) (a : AtomOp) (e : Nat) : State × List Byte × Bool :=
  let at_ := pa + a.size * e
  let old := Memory.readBytes s.sys.hbm at_ a.size
  let bad := s.hbmPoisoned at_ a.size
  (match a.elem e old with
    | none => s
    | some new => let t := s.hbmWrite at_ new
      if bad && !a.replaces then t.poisonHbm at_ a.size else t, old, bad)

/-- An atomic on a register of a die, which the firmware context alone reaches (R239). -/
def State.atomReg (s : State) (pa : Nat) (a : AtomOp) : State × List Byte :=
  let old := s.regBytes (physRank pa) (physOff pa) a.width
  let new := (List.range a.count).flatMap fun e =>
    let o := (old.drop (a.size * e)).take a.size
    (a.elem e o).getD o
  (if new = old then s else s.regStore (physRank pa) (physOff pa) new, old)

/-- The message of an atomic: its arguments after those of a far access are the scratchpad flag, the kind, the operation, the
expected value and the no-return flag. -/
def AtomOp.message (a : AtomOp) (m : Msg) (sp nr : Bool) : Msg :=
  { m with data := a.operand, args := m.args ++ [sp.toNat, a.kind, a.op, a.expected, nr.toNat] }

/-- The operation that a message carries; the elements of a VAMO that have performed, and their old bytes, stand in two further
arguments. -/
def AtomOp.ofMsg (m : Msg) : AtomOp := ⟨m.args.getD 5 0, m.args.getD 6 0, m.data, m.args.getD 7 0⟩
def Msg.atomNext (m : Msg) : Nat := m.args.getD 9 0
def Msg.atomOld (m : Msg) (a : AtomOp) : List Byte := (leBytes a.width (m.args.getD 10 0)).take (a.size * m.atomNext)
/-- The message after its next element: the old bytes so far and whether one was poisoned. -/
def Msg.atomStep (m : Msg) (old : List Byte) (bad : Bool) : Msg :=
  { m with args := (m.args.take 9) ++ [m.atomNext + 1, natOfBytes old], poison := m.poison || bad }

/-! ## A VAMO to the own core or package (R267) -/

/-- The next element of a VAMO of a stream performs; the last completes it, and its old values arrive in its queue entry later
(R287). -/
def State.vamoStep (s : State) (sid : Nat) : State :=
  match (s.strmOf sid).vamo with
  | none => s
  | some r =>
    let a : AtomOp := ⟨2, r.op, r.operand, 0⟩
    let e := r.old.length / a.size
    let k := coreOfSid sid
    let (s1, old, bad) := if r.sp then
        let (c, o, b) := (s.coreOf k).atomElem r.addr a e
        (s.putCore k c, o, b)
      else s.atomElem r.addr a e
    let r1 := { r with old := r.old ++ old, bad := r.bad || bad }
    if e + 1 < a.count then s1.modStrm sid fun x => { x with vamo := some r1 }
    else
      let s2 := s1.modStrm sid fun x => { x with vamo := none }
      if r.req = 0 then s2
      else (s2.modReq r.req fun q => { q with data := Memory.writeBytes 0 r1.old [], ready := true }).modStrm sid fun x =>
        if r1.bad then x.withEntry r.req fun q => { q with mark := .poison } else x

/-- The streams of the domain whose VAMO has elements left. -/
def State.vamos (s : State) : List Nat :=
  ((s.sid, s.strm) :: s.streams).filterMap fun (sid, x) => if x.vamo.isSome then some sid else none

/-- The elements of a VAMO that remain perform before the stream's next attempt. -/
def State.vamoRest (s : State) (sid : Nat) : Nat → State
  | 0 => s
  | n + 1 => match (s.strmOf sid).vamo with
    | none => s
    | some _ => (s.vamoStep sid).vamoRest sid n

/-! ## Issue -/

/-- The old value of an atomic that performed at its issue arrives in the queue entry later (R287). -/
def State.atomReturn (s : State) (h : Hdr) (q dst : Nat) (nr : Bool) (pages : List (Nat × Nat)) (old : List Byte) (bad : Bool) : State :=
  if nr then s
  else
    let (s1, id) := s.localReq (.atomic q false dst) pages (Memory.writeBytes 0 old []) false [] h.prot
    s1.allocEntry q ⟨id, none, 0, if bad then .poison else .none, false, false, 0, Pos.zero, none⟩

/-- A VAMO to the own core or package: its first element performs at its issue. -/
def State.vamoStart (s : State) (h : Hdr) (q dst : Nat) (nr sp : Bool) (addr va : Nat) (pages : List (Nat × Nat)) (a : AtomOp) : State :=
  let (s1, id) := if nr then (s, 0) else
    let (t, id) := s.localReq (.atomic q true dst) pages [] false [] h.prot
    ((t.modReq id fun r => { r with ready := false }).allocEntry q ⟨id, none, 0, .none, false, false, 0, Pos.zero, none⟩, id)
  (s1.setStrm fun x => { x with vamo := some ⟨id, sp, addr, va, a.op, a.operand, [], false⟩ }).vamoStep s.sid

/-- An atomic whose target is on another core or package: a request, with an entry that awaits the reply (R297). -/
def State.atomSend (s : State) (h : Hdr) (q : Nat) (nr vec acq : Bool) (m : Msg) (pages : List (Nat × Nat)) : State :=
  let id := s.sys.reqId
  let s1 := if nr then s else s.allocEntry q ⟨id, none, 0, .none, false, false, 0, Pos.zero, none⟩
  (s1.request (if nr then .noReturn else .atomic q vec m.dst) m pages h.prot acq).1

/-- Atomics of the stream outstanding to a die (R297). -/
def State.atomsTo (s : State) (dst : Nat) : Nat := (s.sys.reqs.filter fun r => r.sid = s.sid && match r.wait, r.msg with
  | .atomic _ _ d, _ => d = dst
  | _, some m => m.kind = 2 && m.dst = dst
  | _, none => false).length

/-- Whether a stream may issue another atomic to a die. -/
def State.atomRoom (s : State) (dst : Nat) : Bool := s.atomsTo dst < 64 && s.seqRoom s.rank dst 1

/-- An atomic at the memory-side unit of the own package: the word's line leaves the core's caches first (R297). One that writes takes a
saggar page first (R383). -/
def State.atomHbm (s : State) (h : Hdr) (q : Nat) (nr : Bool) (x : FarCtx) (base : Addr) (p : FarPiece) (a : AtomOp) : Eff :=
  let flush := fun (t : State) (hit : FarHit) => if hit.cached then
      ((t.lineBack x.core (hit.addr / 128)).l1Drop x.core (hit.addr / 128)).l2Drop x.core (hit.addr / 128) else t
  let pages := farPages x [p.part]
  let s0 := flush s p.hit
  let old := Memory.readBytes s0.sys.hbm p.hit.addr 4
  if a.kind = 1 && (a.elem 0 old).isNone then
    .ok (((s0.granuleCount (rankOfCore x.core) p.hit.addr).tlbFill x p.part.va).atomReturn h q (physRank p.hit.addr) nr pages old
      (s0.hbmPoisoned p.hit.addr 4))
  else match s.takePages x [p.part] with
    | .error v => .trap 21 v
    | .ok s1 => match s1.farPieces x base [p.part] true with
      | .error (c, v) => .trap c v
      | .ok qs =>
        let hit := (qs.headD p).hit
        let s2 := ((flush (s1.tlbFill x p.part.va) hit).granuleCount (rankOfCore x.core) hit.addr)
        let s3 := if x.phys then s2 else (s2.markDirty x.launch p.part.va).markDevDirty x.pkg x.vdev p.part.va
        if a.kind = 2 then .ok (s3.vamoStart h q (physRank hit.addr) nr false hit.addr p.part.va pages a)
        else
          let (t, o, bad) := s3.atomElem hit.addr a 0
          .ok (t.atomReturn h q (physRank hit.addr) nr pages o bad)

/-- Issue an atomic (R296, R297), its causes in R308's order. One of a speculative task to its own scratchpad waits until the branch
resolves (log 98). -/
def atomic (s : State) (h : Hdr) (q addr : Nat) (nr sp : Bool) (scope : Scope) (ord : MemOrder) (a : AtomOp) : Eff :=
  let acq := ord = .acq || ord = .ar
  let rel := ord = .rel || ord = .ar
  let blocked := s.acquiring || (rel && scope != .part && !(s.released (scope = .dom)))
  let vec := a.kind = 2
  let lost := fun (r : Nat) (go : Eff) => match s.lostFor (some r) with
    | some l => Eff.trapIn (s.setStrm fun y => { y with lost := y.lost.erase l }) l.2 l.1
    | none => go
  if !nr && (s.ownQ q).length ≥ 8 then .trap 5 0
  else if sp then match s.spCheck true addr false (.field16 0) (if vec then 32 else 4) a.width with
    | .error (c, v) => .trap c v
    | .ok (none, o) =>
      if blocked || s.specSlot.isSome || !(s.atomRoom s.rank) then .wait s
      else if vec then .ok (s.vamoStart h q s.rank nr true o 0 [] a)
      else
        let (c, old, bad) := s.core.atomElem o a 0
        .ok (({ s with core := c }).atomReturn h q s.rank nr [] old bad)
    | .ok (some (lc, r), o) => lost r
      (if blocked || !(s.atomRoom r) then .wait s
      else
        let m := { Msg.of 2 s.rank r s.strm.tagr.toNat s.core.launch with
          slc := s.core.lcore, dlc := lc, addr := o, args := [o, a.width, 0, 0] }
        .ok (s.atomSend h q nr vec acq (a.message m true nr) []))
  else
    let x := s.farCtx s.sid
    let va := (s.rdA addr).toNat
    let part : FarPart := ⟨0, va, a.width⟩
    if s.farBlocked x [part] then .wait s
    else match s.farPieces x (s.rdA addr) [part] true with
    | .error (c, v) => .trapIn (s.multiRecord x c v) c v
    | .ok ps =>
      match ps.head? with
      | none => .ok s
      | some p =>
        let r := physRank p.hit.addr
        if p.remote x then lost r
          (if blocked || s.farWait x ps || !(s.atomRoom r) then .wait s
          else match s.takePages x [part] with
            | .error v => .trap 21 v
            | .ok s1 => match s1.farPieces x (s.rdA addr) [part] true with
              | .error (c, v) => .trap c v
              | .ok qs =>
                let p1 := qs.headD p
                if p1.remote x then .ok (s1.atomSend h q nr vec acq (a.message (s1.farMsg 2 x p1) false nr) (farPages x [part]))
                else s1.atomHbm h q nr x (s.rdA addr) p1 a)
        else if blocked || s.farWait x ps || !(s.atomRoom r) || (isDieReg p.hit.addr && !(s.regReady r (physOff p.hit.addr) a.width)) then .wait s
        else if isDieReg p.hit.addr then
          let (t, old) := s.atomReg p.hit.addr a
          .ok (t.atomReturn h q r nr (farPages x [part]) old false)
        else s.atomHbm h q nr x (s.rdA addr) p a

/-- AMO (R298). -/
def execAmo (h : Hdr) (o : AmoArgs) (s : State) : Out :=
  runI h (markReads o.regs) (vals fun s => [(s.rdA o.a).toNat, (s.rdG o.g).toNat, 0xF]) s fun s =>
    atomic s h o.q o.a o.nr o.sp o.scope o.ord ⟨0, amoCode o.op, leBytes 4 (s.rdG o.g).toNat, 0⟩

/-- ACAS (R299). -/
def execAcas (h : Hdr) (o : AcasArgs) (s : State) : Out :=
  runI h (markReads o.regs) (vals fun s => [(s.rdA o.a).toNat, s.pairG o.g, 0xF]) s fun s =>
    atomic s h o.q o.a false o.sp o.scope o.ord ⟨1, 0, leBytes 4 (s.rdG (o.g + 1)).toNat, (s.rdG o.g).toNat⟩

/-- VAMO (R300). -/
def execVamo (h : Hdr) (o : VamoArgs) (s : State) : Out :=
  runI h (markReads o.regs) (vals fun s => [(s.rdA o.a).toNat, (s.rdV o.v).toNat, 0xFFFFFFFF]) s fun s =>
    atomic s h o.q o.a o.nr o.sp o.scope o.ord ⟨2, vamoCode o.op, bytesOfVec 32 (s.rdV o.v), 0⟩

end Sys2Proof.Machine
end

