-- ==== Sys2Proof/Machine/Fetch.lean ====
section
/-! DEFINITION. Flow through the lines of an image (03 R58, R59, R67, 04 R109) and the bundle that begins at a position
(R64, R75, R76). -/

namespace Sys2Proof.Machine

/-! ## Flow and bundles -/

/-- Where flow comes to rest: a position, a line fault there, or nowhere within the image's length of empty lines. -/
inductive Flow where
  | stands (p : Pos)
  | lineFault (cause line : Nat) (p : Pos)
  | endless
deriving DecidableEq, Repr

/-- Follow sequential flow from a position: a line must be reachable; slot 10 and a run of zero syllables to the end of the
line go on at slot 0 of NEXT (R58, R59, R67, R109). -/
def settle (m : Memory) (len : Nat) (cls : Cls) : Nat → Pos → Flow
  | 0, _ => .endless
  | n + 1, p =>
    if !(lineOk m len cls p.line) then .lineFault 2 p.line p
    else if p.slot ≥ 10 || zeroRun m p.line p.slot then
      if linkNext m p.line = 0xFFFFFFF then .lineFault 3 p.line ⟨p.line, 10⟩
      else settle m len cls n ⟨linkNext m p.line, 0⟩
    else .stands p

/-- The instruction whose syllable stands in a slot, with the slot after it (R64). -/
def fetchOne (m : Memory) (line slot : Nat) : Instr × Nat :=
  let w := sylAt m line slot
  if bit w 44 then
    if slot ≥ 9 then (.unassignedOpcode w, 10) else (decodeTotal w (some (sylAt m line (slot + 1))), slot + 2)
  else (decodeTotal w none, slot + 1)

/-- The bundle that begins in a slot: its instructions and the slot after it (R64). -/
def fetchBundle (m : Memory) (single : Bool) (line slot : Nat) : Instr × Option Instr × Nat :=
  let (a, n) := fetchOne m line slot
  if n ≥ 10 || single || bit (sylAt m line slot) 45 || !(bit (sylAt m line n) 45) then (a, none, n)
  else
    let (b, k) := fetchOne m line n
    (a, some b, k)

/-- The instruction that raises ILLEGAL_OP for a bundle, if any (R75, R76): the first illegal one, or slot A's for a rule
about the bundle (log 16). -/
def illegalIn (cls : Cls) (pool : Word) (m : Memory) (line slot : Nat) (a : Instr) (b : Option Instr) (nb : Nat) : Option Nat :=
  if !(legalOne cls pool a) then some (sylAt m line slot)
  else match b with
    | none => none
    | some i => if !(legalOne cls pool i) then some (sylAt m line nb)
      else if !(legalPair a i) then some (sylAt m line slot) else none

/-- The bundle at which the stream would issue next, where flow stands at one. -/
def State.bundleOf (s : State) (sid : Nat) : Option (Instr × Option Instr) :=
  let x := s.strmOf sid
  let (m, len) := (s.coreOf (coreOfSid sid)).codeFor x.cls
  match settle m len x.cls (len + 1) x.pos with
  | .stands p => let (a, b, _) := fetchBundle m x.cls.single p.line p.slot
    some (a, b)
  | _ => none

end Sys2Proof.Machine
end

