-- ==== Sys2Proof/Machine/Control.lean ====
section
/-! DEFINITION. Control-unit instructions (08 R201 to R227): frames and rings, posts, cones and copy tags, nests, modes, control
and status registers, YIELD and XLATE. Their copies meet at issue (R205). -/

namespace Sys2Proof.Machine

/-! ## Local images (R207, R210, R213, R221) -/

/-- Words of local memory. -/
def State.localWords (s : State) (a n : Nat) : List Word := (List.range n).map fun i => BitVec.ofNat 32 (s.localNat (a + 4 * i) 4)

/-- Read an image of words at a local address, or WIN_CROSS; a poisoned word raises POISON_USE (R376, log 46). -/
def withImage (s : State) (a : Addr) (n : Nat) (go : List Word → Eff) : Eff :=
  match s.localFault a.toNat (4 * n) false with
  | some (c, v) => .trap c v
  | none => if s.acquiring then .wait s else if s.core.poisoned a.toNat (4 * n) then .trap 25 0 else go (s.localWords a.toNat n)

/-! ## Pages (R245, R246) -/

/-- Add a count to each page; the first page for which no count is free. -/
def State.pinTry (s : State) : List (Nat × Nat) → Except Nat State
  | [] => .ok s
  | (v, a) :: ps => if s.pinRoom s.pkg [(v, a)] then (s.pin s.pkg v a).pinTry ps else .error a

/-- The first faulting byte of a range in a page list. -/
def firstByte (lo page : Nat) : Nat := max lo page

/-- The virtual device of the issuing stream's launch. -/
def State.vdev (s : State) : Nat := match s.launch with
  | some l => l.vdev
  | none => 0

/-! ## FDEF, FREL, RINIT (R207 to R211) -/

/-- FRAME_FORMAT (R207). -/
def FrameD.bad (f : FrameD) (ws : List Word) (c : Core) : Bool :=
  let dead := (List.range 4).any fun d => f.dims ≤ d && (f.tl.getD d 0 != 0 || f.nt.getD d 0 != 0 || f.strides.getD d 0 != 0)
  f.space = 3 || wordAt ws 2 / 0x2000 % 8 != 0 || dead || (f.space = 1 && f.base / 0x100000000000000 != 0) ||
    (f.deferred && f.space != 1) ||
    (f.space = 2 && (f.base / 8 != 0 || f.dims != 1 || f.nt.getD 0 0 != 0 || f.tl.getD 0 0 != 0 || f.versions != 1 ||
      !(c.ring (f.base % 8)).init))

/-- A PTW that waits blocks the translation of a page of a list (R247). -/
def State.pagesBlocked (s : State) (ps : List (Nat × Nat)) : Bool := ps.any fun (v, a) => s.walkBlocked s.ck s.pkg v a

/-- Whether an address of the issuing stream's virtual device lies in another package's HBM, which its own region table does not
govern (R250). -/
def State.elsewhere (s : State) (va : Nat) : Bool := (s.walkVa s.pkg s.vdev va).any fun t => physPkg t.phys != s.pkg

/-- The region entries of the launch that meet a byte range. -/
def State.regionsIn (s : State) (lo hi : Nat) : List Region :=
  ((s.pkgOf s.pkg).regions.map fun (_, e) => Region.of e).filter fun r =>
    r.valid && r.vdev = s.vdev && (r.launch = launchId s.core.launch || r.launch = 0) && rangesMeet (lo, hi) (r.base, r.base + 2 ^ r.lsz)

/-- Whether regions owned by this logical core cover the part of a range that this package's table governs: each step takes the cursor
past the region, or the page of another package's HBM, that holds it (R208, log 100). -/
def State.ownCovers (s : State) (rs : List Region) (hi : Nat) : Nat → Nat → Bool
  | 0, lo => hi ≤ lo
  | n + 1, lo =>
    if hi ≤ lo then true
    else match rs.filter fun r => r.base ≤ lo && lo < r.base + 2 ^ r.lsz with
      | [r] => if r.state = 1 && r.owner = s.core.lcore then s.ownCovers rs hi n (r.base + 2 ^ r.lsz)
        else s.elsewhere lo && s.ownCovers rs hi n (lo / 0x10000 * 0x10000 + 0x10000)
      | _ => s.elsewhere lo && s.ownCovers rs hi n (lo / 0x10000 * 0x10000 + 0x10000)

/-- The first byte of a range that this package's table governs. -/
def State.firstOwn (s : State) : Nat → Nat → Nat → Option Nat
  | 0, _, _ => none
  | n + 1, lo, hi => if hi ≤ lo then none else if s.elsewhere lo then s.firstOwn n (lo / 0x10000 * 0x10000 + 0x10000) hi else some lo

/-- The least of some addresses. -/
def leastOf : List Nat → Option Nat
  | [] => none
  | a :: t => some (t.foldl min a)

/-- The first byte of a range that this logical core may not read (R207, R250): in a region that another core owns, or in none's, or
where several entries match. -/
def State.foreignByte (s : State) (lo hi : Nat) : Option Nat :=
  let rs := s.regionsIn lo hi
  let span := fun (r : Region) => (max lo r.base, min hi (r.base + 2 ^ r.lsz))
  let one := (rs.filter fun r => !(regionAllows [(0, r)] s.core.lcore false)).map span
  let both := rs.zipIdx.flatMap fun (r, i) => (rs.drop (i + 1)).map fun q =>
    let x := span r
    let y := span q
    (max x.1 y.1, min x.2 y.2)
  leastOf ((one ++ both).filterMap fun (a, b) => s.firstOwn ((b - a) / 0x10000 + 2) a b)

/-- FDEF (R207, R208). -/
def execFdef (h : Hdr) (o : FdefArgs) (s : State) : Out :=
  runI h (markReads o.regs) (recItems 32 fun s => (s.rdA o.a, [])) s fun s =>
    if (s.core.frame o.n).isSome then .trap 12 0
    else withImage s (s.rdA o.a) 8 fun ws =>
      let f := FrameD.of ws
      let (lo, hi) := f.hull s.core
      let first := match s.foreignByte lo hi with
        | some v => if f.space = 1 then some (19, v) else none
        | none => none
      let pages := if f.space = 1 && !f.deferred then pagesOf s.vdev lo (hi - lo) else []
      let unmapped := pages.find? fun (v, a) => (s.walkVa s.pkg v a).isNone
      if f.bad ws s.core then .trap 13 0
      else if f.space = 0 && s.core.win < hi then .trap 9 (max lo s.core.win)
      else if f.overlaps s.core then .trap 14 0
      else if s.pagesBlocked pages then .wait s
      else match first, unmapped with
        | some (c, v), _ => .trapIn (s.multiRecord (s.farCtx s.sid) c v) c v
        | none, some (_, a) => .trap 18 (firstByte lo a)
        | none, none => match s.pinTry pages with
          | .error a => .trap 20 (firstByte lo a)
          | .ok t =>
            let rs := s.regionsIn lo hi
            let w := f.space != 1 || s.ownCovers rs hi (rs.length + (hi - lo) / 0x10000 + 2) lo
            .ok (t.setCore fun c => c.setFrame o.n (some ⟨ws, 0, w, pages, none⟩))

/-- FREL waits until no unretired reference is bound to the frame (R209). -/
def execFrel (h : Hdr) (o : FrelArgs) (s : State) : Out :=
  runI h (markReads o.regs) (vals fun _ => []) s fun s => match s.core.frame o.n with
    | none => .trap 12 0
    | some f =>
      if s.core.entries.any fun (_, e) => e.bound.any (·.ref.frame = o.n) then .wait s
      else .ok ((s.setCore fun c => c.setFrame o.n none).unpinAll s.pkg f.pages)

/-- A ring destination of a transpose (R343). -/
def XDst.isRing (k : Nat) : XDst → Bool
  | .ring n => n = k
  | .addr _ => false

/-- Instructions that wait on a ring: QST, the ring operands of the matrix engine and the ring destinations of transposes
(R211, R321, R343). -/
def waitsOnRing (k : Nat) : Instr → Bool
  | .qst _ o => o.k = k
  | .rpop _ o => o.k = k
  | .mma _ o => o.ka = k || o.kb = k
  | .mblk _ o => o.ka = k || o.kb = k
  | .xpose _ o => XDst.isRing k o.dst
  | .xreq _ o => XDst.isRing k o.dst
  | .xlay _ o => XDst.isRing k o.dst
  | _ => false

/-- The address register of a copy instruction. -/
def copyAddr : Instr → Option Nat
  | .copy _ o => some o.a
  | .copyg _ o => some o.a
  | .copys _ o => some o.a
  | .cfill _ o => some o.a
  | .cred _ o => some o.a
  | _ => none

/-- Whether a copy instruction of the core names a ring as its destination (R349). -/
def State.copyToRing (s : State) (x : Stream) (k : Nat) (i : Instr) : Bool := (copyAddr i).any fun a =>
  let c := Memory.readNat s.core.loc (SMap.get 0 a x.a).toNat 4
  c / 4 % 4 = 3 && c / 4096 % 8 = k

/-- Whether a stream of the core is stalled at a ring (R211). -/
def State.ringWaited (s : State) (k : Nat) : Bool := (List.range 8).any fun u =>
  let x := s.strmOf (sidOf s.ck u)
  x.latch.wait && x.run = .running && match s.bundleOf (sidOf s.ck u) with
    | some (a, b) => waitsOnRing k a || b.any (waitsOnRing k) || s.copyToRing x k a
    | none => false

/-- Whether a ring is in use (R211). -/
def State.ringBusy (s : State) (k : Nat) : Bool :=
  let r := s.core.ring k
  (r.reserved.any fun x => !x.done) || r.fill != 0 || r.claimed != 0 || s.ringWaited k

/-- RINIT (R210, R211). -/
def execRinit (h : Hdr) (o : RinitArgs) (s : State) : Out :=
  runI h (markReads o.regs) (recItems 16 fun s => (s.rdA o.a, [])) s fun s =>
    let named := s.core.entries.any fun (_, e) => e.bound.any fun b =>
      let f := s.core.frameD b.ref.frame
      f.space = 2 && f.base % 8 = o.k
    if named || s.ringBusy o.k then .trap 12 0
    else withImage s (s.rdA o.a) 4 fun ws =>
      let base := wordAt ws 0
      let sz := wordAt ws 1 % 0x10000
      let n := wordAt ws 1 / 0x10000
      if base % 128 != 0 || sz = 0 || n = 0 || 256 < n || wordAt ws 2 != 0 || wordAt ws 3 != 0 then .trap 13 0
      else if s.core.win < base + n * sz * 128 then .trap 9 (max base s.core.win)
      else .ok (s.setCore fun c => c.setRing o.k ⟨true, base, sz, n, 0, 0, 0, [], 0, [], 0⟩)

/-! ## POST (R212 to R214, R378) -/

/-- Results of a POST: handle and status. -/
def postResults (s : State) (h : Hdr) (o : PostArgs) (handle : Nat) (ok : Bool) : State :=
  let s1 := match o.hw with
    | some d => s.resG h d (BitVec.ofNat 32 handle) 1
    | none => s
  match o.nb with
  | some p => s1.resP h p ok 1
  | none => s1

/-- The first byte of the boxes of a record's lazy references that lies in a page. -/
def Core.boxByte (c : Core) (ws : List Word) (vers : List Nat) (page : Nat) : Nat :=
  let los := (List.zipWith Bound.mk (recRefs ws) vers).filterMap fun b =>
    let f := c.frameD b.ref.frame
    let h := b.ref.hull f b.ver
    if f.space = 1 && f.deferred && rangesMeet h (page, page + 0x10000) then some (firstByte h.1 page) else none
  (leastOf los).getD page

/-- The fault of a record that POST finds, before it is entered (R213), with the state whose pages are counted. -/
def State.postCheck (s : State) (ws : List Word) : Except (Nat × Nat) (State × List (Nat × Nat)) :=
  let c := s.core
  if c.taskFormat ws then .error (11, 0)
  else if s.filtered c.launch (recTag ws) then .ok (s, [])
  else
    let vers := (c.bindRefs ws false).2
    let bad := (List.zipWith Bound.mk (recRefs ws) vers).find? fun b => b.ref.write && match c.frame b.ref.frame with
      | some f => !f.writable
      | none => false
    let pages := c.lazyPages s.vdev ws
    match bad, pages.find? fun (v, a) => (s.walkVa s.pkg v a).isNone with
    | some b, _ => .error (19, (b.ref.hull (c.frameD b.ref.frame) b.ver).1)
    | none, some (_, a) => .error (18, c.boxByte ws vers a)
    | none, none => match s.pinTry pages with
      | .error a => .error (20, c.boxByte ws vers a)
      | .ok t => .ok (t, pages)

/-- Write bytes at their addresses; a word of which all four bytes are written loses its poison (R389). -/
def Core.writeHeld (c : Core) (held : SMap (Option Byte)) : Core :=
  let c1 := held.foldl (fun d (a, b) => match b with
    | some x => d.writeLocal a [x]
    | none => d) c
  let whole := held.filter fun (a, _) => a % 4 = 0 && (List.range 4).all fun i => (optGet (a + i) held).isSome
  { c1 with poison := whole.foldl (fun m (a, _) => SMap.set false (a / 4) false m) c1.poison }

/-- Apply the held writes and full/empty bits of a task to local memory (R273, R378). -/
def Core.commitNow (c : Core) (slot : Nat) : Core :=
  let c1 := c.writeHeld (SMap.get [] slot c.commit)
  { c1 with
    commit := SMap.erase slot c1.commit, commitFe := SMap.erase slot c1.commitFe
    feEmpty := (SMap.get [] slot c1.commitFe).foldl (fun m (a, b) => match b with
      | some x => SMap.set false a x m
      | none => m) c1.feEmpty }

/-- The version of a frame before the first rename that is still speculative, once the renames of an adopted entry are not (R183). -/
def KEntry.settleFrames (e : KEntry) (c : Core) : Core :=
  (e.bound.filter (·.ref.write)).foldl (fun d b => match d.frame b.ref.frame with
    | some f => if f.before.any (· != b.ver) then
        d.setFrame b.ref.frame (some { f with before := if f.cur = b.ver then none else some b.ver })
      else d
    | none => d) c

/-- A speculative record is adopted: it stays, its held writes perform, and SPEC clears (R378). -/
def Core.adopt (c : Core) (slot : Nat) : Core :=
  match c.entry slot with
  | some e => e.settleFrames ((c.commitNow slot).setEntry slot (some { e with spec := false }))
  | none => c

/-- The run-ahead whose branch has resolved as predicted. -/
def State.resolvedRun (s : State) : Option Ahead :=
  if s.strm.cls != .control then none else s.core.ahead.filter fun a => a.past && a.branch.isNone

/-- Enter a record in the issuing stream's core, or discard it where the purge filter holds its tag (R213). -/
def State.enterLocal (s : State) (ws : List Word) (pages : List (Nat × Nat)) (spec : Bool) : State × Nat :=
  let slot := (s.core.freeSlot).getD 0
  let c := if s.filtered s.core.launch (recTag ws) then s.core.discardRecord
    else s.core.enterRecord slot ws true spec pages (s.outstanding s.sid false)
  ({ s with core := c }, c.kseq * 256 + slot)

/-- POST of a record that is not adopted. -/
def postEnter (s : State) (h : Hdr) (o : PostArgs) (a : Nat) : Eff :=
  let fault := fun (c v : Nat) =>
    if o.s then
      let s1 := match o.hw with
        | some d => s.result h false 0 (.g d) (lowBits 32) 0xFFFFFFFF 1 0 (.deferred c v)
        | none => s
      Eff.ok (match o.nb with
        | some p => s1.resP h p false 1
        | none => s1)
    else .trap c v
  if 224 ≤ s.core.localEntries || s.core.freeSlot.isNone then
    if o.nb.isSome then .ok (postResults s h o 0xFFFFFFFF false) else .wait s
  else match s.localFault a 64 false with
    | some (c, v) => fault c v
    | none =>
      if s.core.poisoned a 64 then .trap 25 0 else
      let ws := s.localWords a 16
      if !(s.core.taskFormat ws) && s.pagesBlocked (s.core.lazyPages s.vdev ws) then .wait s else
      match s.postCheck ws with
      | .error (c, v) => fault c v
      | .ok (t, pages) =>
        let (t1, handle) := t.enterLocal ws pages false
        .ok (postResults t1 h o handle true)

/-- POST (R213): after a run-ahead whose branch went the predicted way, a POST adopts the next speculative record if the
bytes agree, else the rest of the run is squashed (R378). -/
def execPost (h : Hdr) (o : PostArgs) (s : State) : Out :=
  runI h (markReads o.regs) (recItems 64 fun s => (s.rdA o.a, [])) s fun s =>
    let a := (s.rdA o.a).toNat
    if s.acquiring then .wait s
    else match s.resolvedRun with
      | some r => match r.posts with
        | (slot, handle, ws) :: rest =>
          if (s.localFault a 64 false).isNone && s.localWords a 16 = ws && ((s.core.entry slot).any fun e => e.seq = handle / 256) then
            .ok (postResults (s.setCore fun c => { c.adopt slot with ahead := some { r with posts := rest } }) h o handle true)
          else postEnter (s.dropAhead s.ck) h o a
        | [] => postEnter s h o a
      | none => postEnter s h o a

/-! ## POSTX and CSIG.R (R215, R216, R219) -/

/-- A request to a logical core: LCORE_RANGE, a lost earlier request to its rank (20 R459), or the logical rank. -/
def toCore (s : State) (lc : Nat) (go : Eff) : Eff :=
  match s.lcoreAt lc with
  | .nowhere => .trap 8 lc
  | .here => if s.acquiring then .wait s else go
  | .rank r => match s.lostFor (some r) with
    | some (q, c) => .trapIn (s.setStrm fun x => { x with lost := x.lost.erase (q, c) }) c q
    | none => if s.acquiring then .wait s else go

/-- POSTX (R215). -/
def execPostx (h : Hdr) (o : PostxArgs) (s : State) : Out :=
  runI h (markReads o.regs) (recItems 64 fun s => (s.rdA o.a, [(s.rdG o.g).toNat])) s fun s =>
    if (s.ownQ o.q).length ≥ 8 then .trap 5 0
    else withImage s (s.rdA o.a) 16 fun ws =>
      let lc := (s.rdG o.g).toNat % 65536
      if recordBad ws then .trap 11 0
      else toCore s lc (
        let (s1, id) := s.localReq (.postx o.q) [] [] false [] h.prot
        let s2 := (s1.modReq id fun r => { r with ready := false }).allocEntry o.q ⟨id, none, 0, .none, false, false, 0, Pos.zero, none⟩
        .ok (s2.setCore fun c => { c with
          deferred := c.deferred ++ [.postx s.sid (s.outstanding s.sid false) lc o.q id s.strm.tagr.toNat (s.taskSeq s.sid) ws] }))

/-- The increment, value or threshold of a cone instruction (R202, R218). -/
def State.coneArg (s : State) (r : RegImm) : Nat := (s.regImm r).toNat % 65536

/-- CSIG.R is sent once every earlier far store and atomic of the stream has been acknowledged (R219). -/
def execCsigR (h : Hdr) (o : CsigRArgs) (s : State) : Out :=
  runI h (markReads o.regs) (vals fun s => [(s.rdG o.g).toNat, s.coneArg o.v]) s fun s =>
    let lc := (s.rdG o.g).toNat % 65536
    toCore s lc (.ok (s.setCore fun c => { c with
      deferred := c.deferred ++ [.csigR s.sid (s.outstanding s.sid false) lc o.c (s.coneArg o.v) s.strm.tagr.toNat (s.taskSeq s.sid)] }))

/-! ## Cones and copy tags (R218 to R220) -/

def State.cone (s : State) (c : Nat) : Nat := (SMap.get 0 c s.core.cones).toNat

/-- CWAIT (R219). -/
def execCwait (h : Hdr) (o : CwaitArgs) (s : State) : Out :=
  runI h (markReads o.regs) (vals fun s => [s.coneArg o.t]) s fun s =>
    if s.acquiring || s.cone o.c % 65536 < s.coneArg o.t then .wait s else .ok s

/-- CWAIT.NB (R218). -/
def execCwaitNb (h : Hdr) (o : CwaitNbArgs) (s : State) : Out :=
  runI h (markReads o.regs) (vals fun s => [s.coneArg o.t]) s fun s => .ok (s.resP h o.p (s.coneArg o.t ≤ s.cone o.c % 65536) 1)

/-- A local update of a cone waits for the stream's earlier stores (R219). -/
def coneUpdate (s : State) (u : ConeUpd) : Eff :=
  .ok (s.setCore fun c => { c with deferred := c.deferred ++ [.cone (s.outstanding s.sid false) u (s.core.ac + 1) s.strm.tagr.toNat (s.taskSeq s.sid)] })

/-- CSIG (R219). -/
def execCsig (h : Hdr) (o : CsigArgs) (s : State) : Out :=
  runI h (markReads o.regs) (vals fun s => [s.coneArg o.v]) s fun s => coneUpdate s (.add o.c (s.coneArg o.v))
/-- CSET (R219). -/
def execCset (h : Hdr) (o : CsigArgs) (s : State) : Out :=
  runI h (markReads o.regs) (vals fun s => [s.coneArg o.v]) s fun s => coneUpdate s (.set o.c (s.coneArg o.v))

/-- CRD: overflow bit and value (R218). -/
def execCrd (h : Hdr) (o : CrdArgs) (s : State) : Out :=
  runI h (markReads o.regs) (vals fun _ => []) s fun s => .ok (s.resG h o.d (BitVec.ofNat 32 (s.cone o.c)) 2)

/-- The condition of TAGW (R220). -/
def State.tagTest (s : State) (g : Nat) (all : Bool) : Bool :=
  let mask := BitVec.ofNat 64 (s.pairG g)
  let hit := s.core.tags &&& mask
  mask = 0 || (if all then hit = mask else hit ≠ 0)

/-- TAGW (R220). -/
def execTagw (h : Hdr) (o : TagwArgs) (s : State) : Out :=
  runI h (markReads o.regs) (vals fun s => [s.pairG o.g]) s fun s => if s.acquiring || !(s.tagTest o.g o.all) then .wait s else .ok s
/-- TAGW.NB (R220). -/
def execTagwNb (h : Hdr) (o : TagwNbArgs) (s : State) : Out :=
  runI h (markReads o.regs) (vals fun s => [s.pairG o.g]) s fun s => .ok (s.resP h o.p (s.tagTest o.g o.all) 1)
/-- TAGFF: the lowest set bit, or 64 (R220). -/
def execTagff (h : Hdr) (o : TagffArgs) (s : State) : Out :=
  runI h (markReads o.regs) (vals fun s => [s.pairG o.g]) s fun s =>
    let v := s.core.tags.toNat &&& s.pairG o.g
    .ok (s.resG h o.d (BitVec.ofNat 32 (((List.range 64).find? (bit v ·)).getD 64)) 2)
/-- TAGCLR takes effect in the ac after its issue (R220). -/
def execTagclr (h : Hdr) (o : TagclrArgs) (s : State) : Out :=
  runI h (markReads o.regs) (vals fun s => [s.pairG o.g]) s fun s =>
    .ok (s.setCore fun c => { c with deferred := c.deferred ++ [.tags (s.pairG o.g)] })

/-! ## The window (R217) -/

/-- KQRY.st (R217). -/
def execKqrySt (h : Hdr) (o : KqryStArgs) (s : State) : Out :=
  runI h (markReads o.regs) (vals fun s => [(s.rdG o.g).toNat]) s fun s =>
    let handle := (s.rdG o.g).toNat
    let seen := SMap.get 0 (handle % 256) s.core.kSeen
    .ok (s.resG h o.d (BitVec.ofNat 32 (if seen / 512 = handle / 256 then seen % 512 else 0)) 2)
/-- KOCC (R225). -/
def Core.kocc (c : Core) : Nat := c.occSeen.1 + c.occSeen.2 * 0x10000
/-- KQRY.occ (R217). -/
def execKqryOcc (h : Hdr) (o : KqryOccArgs) (s : State) : Out :=
  runI h (markReads o.regs) (vals fun _ => []) s fun s => .ok (s.resG h o.d (BitVec.ofNat 32 s.core.kocc) 2)
/-- KQRY.ver (R217). -/
def execKqryVer (h : Hdr) (o : KqryVerArgs) (s : State) : Out :=
  runI h (markReads o.regs) (vals fun _ => []) s fun s => .ok (s.resG h o.d (BitVec.ofNat 32 ((optGet o.n s.core.verSeen).getD 0xFFFFFFFF)) 2)

/-! ## NEST (R195, R221) -/

/-- NEST_FORMAT of a nest record. -/
def nestBad (ws : List Word) : Bool :=
  let w0 := wordAt ws 0
  let n := w0 % 4 + 1
  let cnts := (List.range n).map fun d => wordAt ws (3 + 2 * d)
  w0 / 64 != 0 || w0 / 16 % 4 ≥ 2 || w0 / 4 % 4 = 3 || wordAt ws 1 / 0x10000000 != 0 || wordAt ws 10 / 65536 != 0 ||
    (List.range 4).any (fun d => n ≤ d && (wordAt ws (2 + 2 * d) != 0 || wordAt ws (3 + 2 * d) != 0)) ||
    cnts.any (· = 0) || 2 ^ 48 ≤ cnts.foldl (· * ·) 1

/-- The pages of a nest's tag table (R196). -/
def nestTab (ws : List Word) (vdev : Nat) (param : Addr) : List (Nat × Nat) :=
  if wordAt ws 0 / 16 % 4 = 1 then
    pagesOf vdev (param.toNat + wordAt ws 11) (2 * wordAt ws 3)
  else []

/-- The base of the affinity addresses: AFFBASE, or the BASE of the named frame (R196). -/
def nestBase (ws : List Word) (frames : Nat → Option Frame) : Addr :=
  if wordAt ws 0 / 4 % 4 = 2 then
    BitVec.ofNat 64 (match frames (wordAt ws 12 % 64) with
      | some f => (FrameD.of f.words).base
      | none => 0)
  else BitVec.ofNat 64 (wordAt ws 12 + 0x100000000 * wordAt ws 13)

/-- NEST appends a record to the launch's list of at most 16 (R221). -/
def execNest (h : Hdr) (o : NestArgs) (s : State) : Out :=
  runI h (markReads o.regs) (recItems 64 fun s => (s.rdA o.ar, [(s.rdA o.ap).toNat])) s fun s =>
    withImage s (s.rdA o.ar) 16 fun ws =>
      let param := s.rdA o.ap
      let aff2 := wordAt ws 0 / 4 % 4 = 2
      let frame := s.core.frame (wordAt ws 12 % 64)
      let tab := nestTab ws s.vdev param
      if nestBad ws then .trap 15 0
      else if aff2 && !(frame.any fun f => (FrameD.of f.words).space = 1) then .trap 12 0
      else match tab.find? fun (v, a) => (s.walkVa s.pkg v a).isNone with
        | some (_, a) => .trap 18 (firstByte (param.toNat + wordAt ws 11) a)
        | none =>
          let room := s.launch.any fun l => l.nests.length < 16
          let n : Nest := ⟨ws, param, nestBase ws s.core.frame, tab⟩
          let s1 := if room then (s.launchParts s.core.launch).foldl (fun t j =>
              (t.pinAll (launchPkg j) tab).modLaunch j fun l => { l with nests := l.nests ++ [n] }) s
            else s
          .ok (s1.resP h o.p room 1)

/-! ## Tags and modes (R222, R223) -/

/-- SETTAG (R222). -/
def execSettag (h : Hdr) (o : SettagArgs) (s : State) : Out :=
  runI h (markReads o.regs) (vals fun s => [s.coneArg o.t]) s fun s => .ok (s.resNext (.csr 4) (BitVec.ofNat 32 (s.coneArg o.t)))

/-- The code of an engine class in KMODE and in mode-change records (R223, R176). -/
def engCode : EngClass → Nat
  | .vector => 0
  | .matrix => 1
  | .transpose => 2
  | .copy => 3
/-- The code of a rounding mode in FCSR.RM (R12). -/
def rmCode : RoundMode → Nat
  | .rne => 0
  | .rtz => 1
  | .rdn => 2
  | .rup => 3
  | .rna => 4

/-- KMODE takes effect in the ac after its issue (R223). -/
def execKmode (h : Hdr) (o : KmodeArgs) (s : State) : Out :=
  runI h (markReads o.regs) (vals fun _ => []) s fun s =>
    .ok (s.setCore fun c => { c with deferred := c.deferred ++ [.kmode (engCode o.cls) (rmCode o.rm)] })

/-! ## Control and status registers (R224, R225) -/

/-- The value of a CSR that the issuing stream reads. -/
def State.csrVal (s : State) (n : Nat) : Nat :=
  let x := s.strm
  let c := s.core
  let asked := c.yreq && x.cls != .firmware && !x.handler
  match n with
  | 0x000 => x.fcsr.toNat
  | 0x001 => s.cycles s.rank % 0x100000000
  | 0x002 => x.cychi.toNat
  | 0x003 => x.icnt.toNat
  | 0x004 => x.tagr.toNat
  | 0x005 => x.slot + x.unit * 256
  | 0x006 => c.lcore
  | 0x007 => asked.toNat
  | 0x008 => if asked then c.yrem.toNat else 0
  | 0x009 => x.pctl.toNat
  | 0x010 => x.ordinal.toNat / 0x100000000
  | 0x011 => c.kocc
  | 0x012 => c.engfl.toNat
  | 0x013 => natSum ((List.range 4).map fun k => SMap.get 0 k c.kmodes * 8 ^ k)
  | 0x014 => c.tags.toNat % 0x100000000
  | 0x015 => c.tags.toNat / 0x100000000
  | 0x040 => x.tcause.toNat
  | 0x041 => x.tpc.toNat
  | 0x042 => x.tval.toNat % 0x100000000
  | 0x043 => x.tval.toNat / 0x100000000
  | 0x044 => x.tinfo.toNat
  | 0x100 => x.yctl.toNat
  | 0x101 => c.fshare
  | 0x102 => x.fwrev.toNat
  | 0x104 => x.fwvd.toNat
  | _ => 0

/-- A read of CYCLO latches the upper half of the die cycle counter (R11). -/
def State.csrRead (s : State) (n : Nat) : State :=
  if n = 1 then s.setStrm fun x => { x with cychi := BitVec.ofNat 32 (s.cycles s.rank / 0x100000000) } else s

/-- Values that a CSR refuses with ILLEGAL_OP: reserved fields (R11, R225, R511). -/
def csrRefuses (n : Nat) (v : Word) : Bool :=
  let x := v.toNat
  match n with
  | 0x000 => x / 0x400 != 0 || bit x 3 || 5 ≤ x % 8
  | 0x009 => 1 < x
  | 0x100 => x = 0 || 0x1000000 < x
  | 0x104 => 0x20 ≤ x
  | _ => false

/-- CSRR (R224). -/
def execCsrr (h : Hdr) (o : CsrrArgs) (s : State) : Out :=
  runI h (markReads o.regs) (vals fun _ => []) s fun s => .ok ((s.csrRead o.csr).resG h o.d (BitVec.ofNat 32 (s.csrVal o.csr)) 1)
/-- CSRW (R224). -/
def execCsrw (h : Hdr) (o : CsrwArgs) (s : State) : Out :=
  runI h (markReads o.regs) (vals fun s => [(s.regImm o.v).toNat]) s fun s =>
    if csrRefuses o.csr (s.regImm o.v) then .trap 1 (sylVal (.csrw h o)) else .ok (s.resNext (.csr o.csr) (s.regImm o.v))
/-- CSRX returns the old value and writes (R224). -/
def execCsrx (h : Hdr) (o : CsrxArgs) (s : State) : Out :=
  runI h (markReads o.regs) (vals fun s => [(s.rdG o.s).toNat]) s fun s =>
    if csrRefuses o.csr (s.rdG o.s) then .trap 1 (sylVal (.csrx h o))
    else .ok (((s.csrRead o.csr).resG h o.d (BitVec.ofNat 32 (s.csrVal o.csr)) 1).resNext (.csr o.csr) (s.rdG o.s))

/-! ## YIELD and XLATE (R226, R227) -/

/-- A yield request that the issuing stream sees (R226, R367). -/
def State.yieldAsked (s : State) : Bool := s.core.yreq && s.strm.cls != .firmware && !s.strm.handler

/-- YIELD stops the stream after its bundle while a request is pending (R226). -/
def execYield (h : Hdr) (o : NoArgs) (s : State) : Out :=
  runI h (markReads o.regs) (vals fun _ => []) s fun s => .ok (if s.yieldAsked then s.setLatch fun l => { l with stopAfter := true } else s)
/-- YIELD.F also gives YSTAT bit 0 (R226). -/
def execYieldF (h : Hdr) (o : YieldFArgs) (s : State) : Out :=
  runI h (markReads o.regs) (vals fun _ => []) s fun s =>
    let t := s.resP h o.p s.yieldAsked 1
    .ok (if s.yieldAsked then t.setLatch fun l => { l with stopAfter := true } else t)

/-- Whether an access may be made now (R227). -/
def State.mayAccess (s : State) (x : FarCtx) (va : Nat) (write : Bool) : Bool := match s.farTranslate x va write with
  | .ok _ => true
  | .error _ => false

/-- XLATE.r (R227). -/
def execXlateR (h : Hdr) (o : XlateRArgs) (s : State) : Out :=
  runI h (markReads o.regs) (vals fun s => [(s.rdA o.a).toNat]) s fun s =>
    let x := s.farCtx s.sid
    let va := (s.rdA o.a).toNat
    if s.acquiring || s.walkBlocked x.core x.pkg x.vdev va then .wait s else .ok ((s.tlbFill x va).resP h o.p (s.mayAccess x va false) 1)
/-- XLATE.w (R227). -/
def execXlateW (h : Hdr) (o : XlateWArgs) (s : State) : Out :=
  runI h (markReads o.regs) (vals fun s => [(s.rdA o.a).toNat]) s fun s =>
    let x := s.farCtx s.sid
    let va := (s.rdA o.a).toNat
    if s.acquiring || s.walkBlocked x.core x.pkg x.vdev va then .wait s else .ok ((s.tlbFill x va).resP h o.p (s.mayAccess x va true) 1)
/-- XLATE.p: the global physical address in FWVD's virtual device, or all ones (R227, R511). -/
def execXlateP (h : Hdr) (o : XlatePArgs) (s : State) : Out :=
  runI h (markReads o.regs) (vals fun s => [(s.rdA o.a).toNat]) s fun s =>
    let x := { s.farCtx s.sid with phys := false }
    let va := (s.rdA o.a).toNat
    if s.acquiring || s.walkBlocked x.core x.pkg x.vdev va then .wait s
    else .ok ((s.tlbFill x va).resA h o.d (match s.tlbOf x va with
      | some t => if va < 0x100000000000000 then BitVec.ofNat 64 (t.phys + va % 0x10000) else BitVec.allOnes 64
      | none => BitVec.allOnes 64) 1)

end Sys2Proof.Machine
end

