-- ==== Sys2Proof/Machine/Blocks.lean ====
section
/-! DEFINITION. Block-scaled formats (02 R35 to R38, R48, R49), the exponential and logarithm of 05 R143, and the generator of
R55. -/

namespace Sys2Proof.Machine

/-- A value times a power of two. -/
def FVal.scale (k : Int) : FVal → FVal
  | .fin n m e => .fin n m (e + k)
  | v => v

/-- A value times an E8 scale: a scale of 0xFF gives NaN (R35). -/
def FVal.e8 (s : Nat) (v : FVal) : FVal := if s = 0xFF then .nan else v.scale ((s : Int) - 127)

/-! ## Block encoding (R48, R49) -/

/-- The block formats. -/
inductive BlockFmt where
  | e4m3 | e5m2 | i8
deriving DecidableEq, Repr

/-- F, the format maximum. -/
def BlockFmt.top : BlockFmt → Nat
  | .e4m3 => 448
  | .e5m2 => 57344
  | .i8 => 127

/-- An encoded block: the scale byte, the elements, the flags. -/
structure Block where
  scale : Nat
  elems : List Nat
  flags : Nat
deriving DecidableEq, Repr

/-- Whether a magnitude is at least another. -/
def FVal.magLe (a b : FVal) : Bool := match a, b with
  | .fin _ m e, .fin _ n k => let q := min e k
    scaled m e q ≤ scaled n k q
  | _, _ => true

/-- The largest magnitude of finite values. -/
def maxMag (vs : List FVal) : FVal := vs.foldl (fun a b => if a.magLe b then b else a) (.fin false 0 0)

/-- E of step 4: the largest integer with 2^E ≤ m / F, clamped. -/
def blockExp (m : FVal) (top : Nat) : Int := match m with
  | .fin _ n e =>
    let c := e + (Nat.log2 n : Int) - (Nat.log2 top : Int)
    let ok := FVal.magLe (.fin false top c) (.fin false n e)
    clampInt (-127) 127 (if ok then c else c - 1)
  | _ => 0

/-- Union of flags. -/
def orFlags (l : List Nat) : Nat := l.foldl (· ||| ·) 0

/-- An integer element rounded with saturation to ±top. -/
def roundElem (rm top : Nat) (v : FVal) : Int × Nat := match v with
  | .fin n m e =>
    let (k, inexact) := roundTo rm n m e 0
    if k ≤ top then (signed n k, if inexact then flNX else 0) else (signed n top, flOF ||| flNX)
  | _ => (0, flNV)

def BlockFmt.elem (f : BlockFmt) (rm : Nat) (v : FVal) : Nat × Nat := match f with
  | .e4m3 => let r := fmtE4m3.round rm true v
    (r.bits, r.flags)
  | .e5m2 => let r := fmtE5m2.round rm true v
    (r.bits, r.flags)
  | .i8 => let (i, fl) := roundElem rm 127 v
    (wrap 8 i, fl)

def FVal.finite : FVal → Bool
  | .fin _ _ _ => true
  | _ => false

def FVal.zero : FVal → Bool
  | .fin _ m _ => m = 0
  | _ => false

/-- Encode a block of 32 exact values (R48). -/
def encodeVals (f : BlockFmt) (rm : Nat) (vs : List FVal) : Block :=
  if vs.any (!·.finite) then ⟨0xFF, vs.map fun _ => 0, flNV⟩
  else
    let m := maxMag vs
    if m.zero then ⟨0, vs.map fun _ => 0, 0⟩
    else
      let e := blockExp m f.top
      let rs := vs.map fun v => f.elem rm (v.scale (-e))
      ⟨(e + 127).toNat, rs.map Prod.fst, orFlags (rs.map Prod.snd)⟩

/-- Encode a block of 32 FP32 values. -/
def encodeBlock (f : BlockFmt) (rm : Nat) (xs : List Nat) : Block := encodeVals f rm (xs.map fmtF32.decode)

/-- The outliers of an L4X block: candidates in element order, at most two, none beside another (R49). -/
def l4xOutliers : List Nat → List Nat → List Nat
  | [], chosen => chosen
  | j :: js, chosen =>
    l4xOutliers js (if chosen.length < 2 && !(chosen.contains (j ^^^ 1)) then chosen ++ [j] else chosen)

/-- Encode 32 exact values as an L4X block: 18 bytes and the flags (R37, R49). -/
def encodeL4xVals (rm : Nat) (vs : List FVal) : List Byte × Nat :=
  let bytes := fun (hdr : Nat) (nib : Nat → Nat) => BitVec.ofNat 8 hdr :: BitVec.ofNat 8 (hdr / 256) ::
    (List.range 16).map fun k => (BitVec.ofNat 8 (nib (2 * k) + 16 * nib (2 * k + 1)) : Byte)
  if vs.any (!·.finite) then (bytes 0xFF fun _ => 0, flNV)
  else
    let m := maxMag vs
    if m.zero then (bytes 0 fun _ => 0, 0)
    else
      let e := blockExp m 7
      let v := fun j => (vs.getD j (.fin false 0 0)).scale (-e)
      let q := fun j => match v j with
        | .fin n k x => signed n (roundTo rm n k x 0).1
        | _ => 0
      let out := l4xOutliers ((List.range 32).filter fun j => 7 < (q j).natAbs) []
      let big := fun j => fmtE4m3.round rm true (v j)
      let oh := fun i => match out[i]? with
        | some j => (big j).bits / 16
        | none => 0
      let nib := fun j =>
        if out.contains j then 8
        else if out.contains (j ^^^ 1) then (big (j ^^^ 1)).bits % 16
        else wrap 4 (roundElem rm 7 (v j)).1
      let fl := (List.range 32).map fun j =>
        if out.contains j then (big j).flags
        else if out.contains (j ^^^ 1) then if (v j).zero then 0 else flFMT ||| flNX
        else (roundElem rm 7 (v j)).2
      (bytes ((e + 127).toNat + 256 * oh 0 + 4096 * oh 1) nib, orFlags fl)

/-- Encode 32 FP32 values as an L4X block. -/
def encodeL4x (rm : Nat) (xs : List Nat) : List Byte × Nat := encodeL4xVals rm (xs.map fmtF32.decode)

/-! ## L4X decoding (R38) -/

/-- The elements of an L4X block without its scale, in order from element `2 * (16 - n)`, and the flags of its markers. -/
def l4xPairs (oh0 oh1 : Nat) (nib : Nat → Nat) : Nat → Nat → List FVal × Nat
  | 0, _ => ([], 0)
  | n + 1, taken =>
    let i := 2 * (15 - n)
    let lo := nib i
    let hi := nib (i + 1)
    let zero : FVal := .fin false 0 0
    let int := fun x => FVal.ofInt (sextNat 4 x)
    let (a, b, taken', fl) :=
      if lo != 8 && hi != 8 then (int lo, int hi, taken, 0)
      else if lo = 8 && hi = 8 then (zero, zero, taken, flFMT)
      else if taken ≥ 2 then (zero, zero, taken, flFMT)
      else
        let o := fmtE4m3.decode ((if taken = 0 then oh0 else oh1) * 16 + if lo = 8 then hi else lo)
        if lo = 8 then (o, zero, taken + 1, 0) else (zero, o, taken + 1, 0)
    let (rest, fl2) := l4xPairs oh0 oh1 nib n taken'
    (a :: b :: rest, fl ||| fl2)

/-- The scale, the 32 unscaled values and the marker flags of an L4X block. -/
def decodeL4x (bs : List Byte) : Nat × List FVal × Nat :=
  let byte := fun k => (bs.getD k 0).toNat
  let nib := fun i => byte (2 + i / 2) / (if i % 2 = 0 then 1 else 16) % 16
  let (vs, fl) := l4xPairs (byte 1 % 16) (byte 1 / 16) nib 16 0
  (byte 0, vs, fl)

/-! ## 2^x and log2 (05 R143), by interval arithmetic (log 8) -/

/-- The floor of the square root of a number below 4^n. -/
def isqrtBits (n v : Nat) : Nat := (List.range n).foldl (fun r i => if (r + 2 ^ (n - 1 - i)) ^ 2 ≤ v then r + 2 ^ (n - 1 - i) else r) 0

/-- The product of 2^(2^-i) over the set bits of an 80-bit fraction, as a fixed-point number of 160 bits: `root` is the
current root of 2, and `i` bits are left. -/
def exp2Frac (f : Nat) : Nat → Nat → Nat → Nat
  | 0, _, acc => acc
  | i + 1, root, acc =>
    let r := isqrtBits 162 (root * 2 ^ 160)
    exp2Frac f i r (if f / 2 ^ i % 2 = 1 then acc * r / 2 ^ 160 else acc)

/-- 2^a as an exact value, or as one with a sticky bit below 64 significant bits. -/
def FVal.exp2 : FVal → FVal
  | .nan => .nan
  | .inf neg => if neg then .fin false 0 0 else .inf false
  | .fin neg m e =>
    if m = 0 then .fin false 1 0
    else
      let (k, inexact) := roundTo 2 neg m e 0
      let whole := signed neg k
      if !inexact then .fin false 1 (clampInt (-400) 400 whole)
      else if whole < -300 || 300 < whole then .fin false (2 ^ 40 + 1) (clampInt (-400) 400 whole - 40)
      else
        let frac := ((signed neg (roundTo 2 neg m e (-80)).1) - whole * 2 ^ 80).toNat
        let p := exp2Frac frac 80 (2 * 2 ^ 160) (2 ^ 160) / 2 ^ 96
        .fin false (2 * max (2 ^ 64) (min p (2 ^ 65 - 1)) + 1) (whole - 65)

/-- The first `n` binary digits of log2 of a fixed-point number of 220 bits in [1, 2), appended to `acc`. -/
def log2Frac : Nat → Nat → Nat → Nat
  | 0, _, acc => acc
  | n + 1, y, acc =>
    let z := y * y / 2 ^ 220
    if 2 ^ 221 ≤ z then log2Frac n (z / 2) (2 * acc + 1) else log2Frac n z (2 * acc)

/-- log2 a as an exact value, or as one with a sticky bit below 2^-100. -/
def FVal.log2 : FVal → FVal
  | .nan => .nan
  | .inf neg => if neg then .nan else .inf false
  | .fin neg m e =>
    if m = 0 then .inf true
    else if neg then .nan
    else
      let n := Nat.log2 m
      if m = 2 ^ n then .ofInt (e + n)
      else
        let low := (e + n) * 2 ^ 100 + (log2Frac 100 (m * 2 ^ 220 / 2 ^ n) 0 : Int)
        if 0 ≤ low then .fin false (2 * low.toNat + 1) (-101) else .fin true (2 * (low.natAbs - 1) + 1) (-101)

/-! ## The generator (R55) -/

/-- The 32-bit value of a counter and a key. -/
def generate (c k : Word) : Word :=
  let a := c + k * 0x2545F491
  let b := (a ^^^ (a >>> 17)) * 0xED5AD4BB
  let d := (b ^^^ (b >>> 11)) * 0xAC4C1B51
  let f := (d ^^^ (d >>> 15)) * 0x31848BAB
  f ^^^ (f >>> 14)

end Sys2Proof.Machine
end

