-- ==== Sys2Proof/Machine/EvStream.lean ====
section
/-! DEFINITION. The hardware steps of one stream: ILLEGAL_OP for an unassigned encoding (03 R75), the landing of results at
the start of an issue cycle (01 R14 to R16, 17 R407 to R413), the completion of a wait (08 R203) and of END (04 R123), and
the heartbeat of a firmware image (23 R502). -/

namespace Sys2Proof.Machine

/-- An unassigned or reserved encoding raises ILLEGAL_OP with its syllable, whatever its guard (R75, R371). -/
def execUnassignedOpcode (word : Nat) (s : State) : Out :=
  .next (s.takeTrap 1 word false (word / 0x200000000000 % 2) (word / 0x400000000000) false)

/-- A stream whose issue cycles go on. -/
def Run.active : Run → Bool
  | .running | .ending | .aborting | .returning _ => true
  | _ => false

/-! ## Landing -/

/-- The heartbeat of a new firmware image (R502): FWREV's own value, in time, makes a context in probation alive. -/
def State.heartbeat (s : State) (value : Nat) : State :=
  if s.core.fwst = .probation && value = s.strm.fwrev.toNat && s.sys.dc ≤ s.core.fwDue then
    ({ s with core := { s.core with fwst := .alive } }).modDie s.rank fun d =>
      { d with fwsst := SMap.set 0 (coreInDie s.ck) 2 d.fwsst }
  else s

/-- A CSR write takes effect (R224, R222, R499, R502). The bits of ENGFL outside its three fields stay 0: DESIGN CHOICE, log 102. -/
def State.landCsr (s : State) (n : Nat) (v : Word) : State :=
  match n with
  | 0 => s.setStrm fun x => { x with fcsr := v }
  | 4 => s.setStrm fun x => { x with tagr := v.setWidth 16 }
  | 9 => s.setStrm fun x => { x with pctl := v }
  | 0x12 => s.setCore fun c => { c with engfl := v &&& 0x003F3F3F }
  | 0x100 => s.setStrm fun x => { x with yctl := v }
  | 0x101 => s.setCore fun c => { c with fshare := v.toNat }
  | 0x103 => s.heartbeat v.toNat
  | 0x104 => s.setStrm fun x => { x with fwvd := v }
  | _ => s

/-- How the items of a result lie: those of a vector or mask register of the vector block lie in lanes (R404). -/
def Flight.form (f : Flight) : LaneForm := match f.dst with
  | .v _ => .words
  | .m _ => if f.vec then .bits else .scalar
  | _ => if f.vec then .whole else .scalar

/-- Copies compared: two under dual, three under triad and after a tie-break (`prot` 3). -/
def Flight.ncopies (f : Flight) : Nat := if f.prot = 1 then 2 else 3

/-- The outcome of a result at its landing (R407). -/
def Flight.verdict (f : Flight) (tbrk : Bool) : Verdict :=
  let n := if f.prot = 0 then 1 else f.ncopies
  vote n tbrk (comparedLanes f.form ((f.copies.take n).map (·.gmask))) fun c i => (f.copies.getD c RCopy.off).item f.form i

/-- The plain value of a result: what lands where its copies are one. -/
def Flight.copy0 (f : Flight) : RCopy := f.copies.headD RCopy.off

/-- Land one due result: its value, or a record and the cause of the failed comparison. -/
def State.landOne (s : State) (f : Flight) : State × Option (Nat × Nat) :=
  match f.dst with
  | .csr n => (s.landCsr n (f.copy0.val.setWidth 32), none)
  | _ =>
    let v := f.verdict s.strm.tbrk
    if v.lanes.isEmpty then (s.setStrm fun x => x.land f f.copy0, none)
    else
      let cause := if v.stands then 0 else if f.ncopies = 2 then 22 else 23
      let synd := if f.form.inLanes then f.copy0.gmask.toNat else 0xFFFFFFFF
      let s1 := s.protRecord f.ncopies f.form synd f.pos cause v fun c =>
        (f.copies.getD c RCopy.off).shown f.form (v.lanes.headD 32)
      if v.stands then (s1.1.setStrm fun x => x.land f (mergeCopies f.form v f.copies), none) else (s1.1, some (cause, s1.2))

/-- Land the due results in order; the first failed comparison is reported with its result. -/
def State.landAll : List Flight → State → State × Option (Flight × Nat × Nat)
  | [], s => (s, none)
  | f :: fs, s =>
    let (s1, bad) := s.landOne f
    let (s2, rest) := State.landAll fs s1
    (s2, match bad with
      | some (c, v) => some (f, c, v)
      | none => rest)

/-- The start of the issuing stream's next issue cycle: CSR writes and deltas of the last cycle take effect, then the results
due land in issue order (R16). A dual mismatch with TBRK first runs its tie-break copy, during which the stream is stalled
(R408). A failed comparison stops the stream at the bundle that would issue in this cycle (R409). -/
def State.beginCycle (s : State) : State :=
  let x := s.strm
  let due := x.flight.filter (·.k ≤ 1)
  let ties := due.filter fun f => (f.verdict x.tbrk).tie
  if !ties.isEmpty then
    { s with strm := { x with
      flight := x.flight.map fun f => if f.k ≤ 1 && (f.verdict x.tbrk).tie then { f with prot := 3 } else f
      stall := natSum (ties.map fun f => f.lat + 1) - 1
      latch := { x.latch with wait := true } } }
  else
    let rest := (x.flight.filter (1 < ·.k)).map fun f => { f with k := f.k - 1 }
    let s1 := { s with strm := { x with cyc := x.cyc + 1, flight := rest, fresh := true } }
    let (s2, bad) := State.landAll (due.filter Flight.isNext ++ due.filter fun f => !f.isNext) s1
    match bad with
    | some (f, c, v) => s2.takeTrap c v false f.slot (min f.prot 2) false
    | none => s2

/-- RESULT_LANDING: the issuing stream's next issue cycle begins, unless it has begun or the stream is stalled. -/
def execResultLanding (s : State) : Out :=
  .next (if s.strm.fresh || s.strm.stall != 0 || !s.strm.run.active then s else s.beginCycle)

/-- WAIT_COMPLETE: the issuing stream's wait is over, and its bundle issues (R203). -/
def execWaitComplete (s : State) : Out := .next (s.setLatch fun l => { l with wait := false })

/-- FWHB_HEARTBEAT: a write of FWHB takes effect (R502). -/
def execFwhbHeartbeat (value : Nat) (s : State) : Out := .next (s.heartbeat value)

/-! ## The end of a stream's work (R20, R123, R165, R172, R184) -/

/-- END completes when every result in flight has landed and every allocated queue entry has its data (R123). -/
def Stream.endReady (x : Stream) : Bool :=
  x.flight.isEmpty && x.q.all fun (_, es) => es.all fun e => e.data.isSome

/-- A stream whose work has ended: every queue entry is discarded, marks included (R123). -/
def Stream.finish (x : Stream) : Stream :=
  { x with
    run := .off, q := [], lc := [], landing := [], fresh := false, endWait := false, stall := 0, hold := 0
    handler := false, predictor := [], lost := [], rbar := .none, vamo := none, sysf := false, first := 0, tied := false, trapDue := none }

/-- An iteration of a launch's nest has ended (R169). -/
def Launch.iterDone (l : Launch) (n : Nat) : Launch :=
  { l with run := l.run.map fun r => { r with inFlight := r.inFlight - n } }

/-- What the end of a stream's work does to its task, iteration or bare launch. -/
def State.endWork (s : State) : State :=
  let x := s.strm
  let lk := s.core.launch
  let s1 := { s with strm := x.finish }
  match x.cls with
  | .firmware => s1
  | .control => ({ s1 with core := { s1.core with iter := none } }).modLaunch lk fun l => l.iterDone 1
  | _ =>
    let bare := match s.launchOf lk with
      | some l => l.bare.isSome
      | none => false
    if bare then s.endBare lk 0 x
    else match s.core.entry x.slot with
      | some e =>
        if e.unit = some x.unit && e.state = .running then
          let e1 := { e with state := if e.heldCause.isSome then KState.held else .draining }
          { s1 with core := s1.core.setEntry x.slot (some e1) }
        else s1
      | none => s1

/-- END_COMPLETE: an issuing stream that waits in END ends its work once END can complete. -/
def execEndComplete (s : State) : Out :=
  .next (if s.strm.run = .ending && s.strm.endReady then s.endWork else s)

end Sys2Proof.Machine
end

