-- ==== Sys2Proof/Machine/Queue.lean ====
section
/-! DEFINITION. Queue registers (11 R287 to R291) and the tail slots of rings that QST fills (13 R320, R321). -/

namespace Sys2Proof.Machine

/-- The head of a queue: its fault, no data yet, or its data. An entry that a run-ahead has allocated is not there before an LDQ
adopts it (R378). -/
inductive Head where
  | empty | waits | bad (cause val : Nat) (d : Bool) | data (v : VReg)

def State.head (s : State) (q : Nat) : Head :=
  match s.ownQ q with
  | [] => .empty
  | e :: _ => match e.data with
    | none => .waits
    | some v =>
      if s.core.ac < e.readyAt then .waits
      else match e.mark with
        | .none => .data (v ^^^ s.struck (.queue q))
        | .deferred c x => .bad c x true
        | .poison => .bad 25 0 false

/-- What the copies of an instruction that uses a head compare: its data. -/
def qItems (q : Nat) : State → Items := vals fun s => match s.head q with
  | .data v => [v.toNat]
  | _ => []

/-- Use the head of a queue. -/
def useHead (s : State) (q : Nat) (go : VReg → Eff) : Eff :=
  match s.head q with
  | .empty => .trap 6 0
  | .waits => .wait s
  | .bad c v d => if d then .deferred c v else .trap c v
  | .data v => go v

/-- A head's value in a g register, latency 1, or in a v register, latency 2 plain (R288). -/
def State.resHead (s : State) (h : Hdr) (v : Bool) (d : Nat) (x : VReg) : State :=
  if v then s.result h false 0 (.v d) (BitVec.allOnes 1024) x 2 0 .none else s.resG h d (x.setWidth 32) 1

/-- QPOP (R288). -/
def execQpop (h : Hdr) (o : QpopArgs) (s : State) : Out :=
  runI h (markReads o.regs) (qItems o.q) s fun s => useHead s o.q fun x => .ok ((s.putQ o.q (s.rdQ o.q).tail).resHead h o.v o.d x)

/-- QPEEK (R288). -/
def execQpeek (h : Hdr) (o : QpopArgs) (s : State) : Out :=
  runI h (markReads o.regs) (qItems o.q) s fun s => useHead s o.q fun x => .ok (s.resHead h o.v o.d x)

/-- QPUSH (R288, R289). -/
def execQpush (h : Hdr) (o : QpushArgs) (s : State) : Out :=
  runI h (markReads o.regs) (vals fun s => [if o.v then (s.rdV o.s).toNat else (s.rdG o.s).toNat]) s fun s =>
    if (s.ownQ o.q).length ≥ 8 then .trap 5 0
    else .ok (s.allocEntry o.q ⟨0, some (if o.v then s.rdV o.s else (s.rdG o.s).setWidth 1024), s.core.ac + 1, .none, false, false, 0, Pos.zero, none⟩)

/-- QSTAT (R288). -/
def execQstat (h : Hdr) (o : QstatArgs) (s : State) : Out :=
  runI h (markReads o.regs) (vals fun _ => []) s fun s =>
    let es := s.ownQ o.q
    let there := fun (e : QEntry) => e.data.isSome && e.readyAt ≤ s.core.ac
    let head := es.head?
    .ok (s.resG h o.d (BitVec.ofNat 32 (es.length + 16 * (es.filter there).length + (if head.any there then 256 else 0) +
      if head.any (·.mark != .none) then 512 else 0)) 1)

/-- QCLR: entries with data go, the others are discarded on arrival (R290). -/
def execQclr (h : Hdr) (o : QclrArgs) (s : State) : Out :=
  runI h (markReads o.regs) (vals fun _ => []) s fun s =>
    .ok (s.putQ o.q (((s.ownQ o.q).filter fun e => e.data.isNone).map (fun e => { e with drop := true }) ++ (s.rdQ o.q).filter (·.spec)))

/-! ## Rings (R320, R321) -/

/-- Published slots that no consumer has popped. -/
def Ring.published (r : Ring) : Nat := (r.pcnt + 0x100000000 - r.ccnt) % 0x100000000

/-- Reserve the next `n` slots of a ring for a producer, none where they would exceed it (R321). -/
def Ring.reserve (r : Ring) (owner tag n : Nat) : Option Ring :=
  if r.published + r.freed + r.reserved.length + n ≤ r.nslot then
    some { r with reserved := r.reserved ++ List.replicate n ⟨owner, tag, false, false⟩ }
  else none

/-- The local address of the slot with a production or consumption number. -/
def Ring.slotAt (r : Ring) (n : Nat) : Nat := r.base + 128 * r.slotsz * (if r.nslot = 0 then 0 else n % r.nslot)

/-- The production numbers of the unfinished slots that an owner has reserved, oldest first. -/
def Ring.slotsOf (r : Ring) (owner : Nat) : List Nat :=
  r.reserved.zipIdx.filterMap fun (v, i) => if v.owner = owner && !v.done then some ((r.pcnt + i) % 0x100000000) else none

/-- The slot with a production number is wholly written. -/
def Ring.finish (r : Ring) (n : Nat) (poison : Bool) : Ring :=
  { r with reserved := r.reserved.zipIdx.map fun (v, i) =>
      if (r.pcnt + i) % 0x100000000 = n then { v with done := true, poison := v.poison || poison } else v }

/-- The owner number of QST; those of copies and transposes are odd and even above it. -/
def qstOwner : Nat := 0

/-- QST appends a popped entry to the tail slot of a ring (R291); a speculative task waits until its branch resolves (R323, log 98). -/
def execQst (h : Hdr) (o : QstArgs) (s : State) : Out :=
  runI h (markReads o.regs) (qItems o.q) s fun s => useHead s o.q fun x =>
    let r := s.core.ring o.k
    let open_ := if s.specSlot.isSome then none else if r.fill = 0 then r.reserve qstOwner s.strm.tagr.toNat 1 else some r
    match open_ with
    | none => .wait s
    | some r1 => match (r1.slotsOf qstOwner).head? with
      | none => .wait s
      | some n => match s.localWrite (r1.slotAt n + 128 * r1.fill) (bytesOfVec 128 x) with
        | none => .wait s
        | some t =>
          let last := r1.fill + 1 ≥ r1.slotsz
          let r2 := { (if last then r1.finish n false else r1) with fill := if last then 0 else r1.fill + 1 }
          .ok ((t.setCore fun c => c.setRing o.k r2).putQ o.q (t.rdQ o.q).tail)

end Sys2Proof.Machine
end

