-- ==== Sys2Proof/Machine/EvEngine.lean ====
section
/-! DEFINITION. What the matrix and transpose engines do in their stream's issue cycles: tile writes at their offsets (10 R275,
13 R314, R315), rows of ASTORE and ALOAD (13 R338, 14 R340), the spare-row check (13 R324, R325), pops of ring slots (13 R322)
and the publication of slots (13 R321). -/

namespace Sys2Proof.Machine

/-! ## Tiles (R230, R275) -/

/-- The local address of a tile, and its cells in logical row order. -/
def tileAddr (t : Nat) : Nat := tileBase + 0x10000 * t
def Core.tileCells (c : Core) (t : Nat) : List Word :=
  (List.range 16384).map fun i => BitVec.ofNat 32 (Memory.readNat c.loc (tileAddr t + 4 * i) 4)
def cellBytes (cs : List Word) : List Byte := cs.flatMap fun w => leBytes 4 w.toNat

/-- The window slot of a task by its sequence number. -/
def Core.slotOfSeq (c : Core) (seq : Nat) : Option (Nat × KEntry) := c.entries.find? fun (_, e) => e.seq = seq

/-- A write of a task's row: held where the task is speculative (R273). -/
def Core.ownedWrite (c : Core) (own a : Nat) (bs : List Byte) : Core :=
  match c.slotOfSeq own with
  | some (n, e) =>
    if e.spec then
      let held := bs.zipIdx.foldl (fun m (b, i) => SMap.set none (a + i) (some b) m) (SMap.get [] n c.commit)
      { c with commit := SMap.set [] n held c.commit }
    else c.writeLocal a bs
  | none => c.writeLocal a bs

/-- Room for bytes of the issuing task in the commit buffer (R379). -/
def State.commitRoom (s : State) (n : Nat) : Bool := s.specSlot.isNone || s.core.commitUsed + n ≤ 65536

/-- The request tag of a task of the issuing core (R222). -/
def State.tagOfTask (s : State) (own : Nat) : Nat := match s.core.slotOfSeq own with
  | some (_, e) => e.tag
  | none => s.strm.tagr.toNat

/-- A task of an engine has consumed poisoned data: its tag is purged (R376). -/
def State.poisonTask (s : State) (own : Nat) : State := s.purge s.core.launch (s.tagOfTask own) 25 s.rank

/-! ## The row map (R326, R327, R405) -/

/-- The physical row that the row map gives for a logical row; 128 is the spare row. -/
def Core.rowMap (c : Core) (i : Nat) : Nat := if c.rowOff = some i then 128 else i
/-- The physical row on which copy `c` forms a logical row. -/
def Core.copyRow (c : Core) (copy i : Nat) : Nat := c.rowMap ((i + copy) % 128)

/-! ## Copies of a tile write (R398, R405, R407) -/

/-- Copies of an engine instruction that disagreed: copies compared, whether a value stands, how many cells disagree, the first one in
logical order with its item in each copy, the value that stands in each, the physical row of the record, and the buckets to feed. -/
structure Dispute where
  copies : Nat
  stands : Bool
  count : Nat
  cell : Nat
  items : List Nat
  values : List (Nat × Nat)
  lead : Nat
  hits : List (Nat × Nat)
deriving DecidableEq, Repr

/-- The bits that errors flip in a cell of a copy; cells count on through the tiles of the instruction. -/
def cellFlip (us : List Upset) (copy cell : Nat) : Word :=
  ((us.filter fun u => u.copy = copy && u.site = .cell cell).foldl (fun v u => v ^^^ u.flip) (0 : VReg)).setWidth 32

/-- Numbers in ascending order, each once. -/
def insertNat (n : Nat) : List Nat → List Nat
  | [] => [n]
  | m :: ms => if n < m then n :: m :: ms else if n = m then m :: ms else m :: insertNat n ms
def ascending (l : List Nat) : List Nat := l.foldl (fun m n => insertNat n m) []

/-- The cells that errors strike in some copy. -/
def struckCells (us : List Upset) : List Nat := ascending ((us.filter (·.copy < 3)).filterMap fun u => match u.site with
  | .cell n => some n
  | _ => none)

/-- Change one cell of a list of blocks. -/
def setCell (bs : List (List Word)) (cell : Nat) (v : Word) : List (List Word) :=
  bs.modify (cell / 16384) fun b => b.set (cell % 16384) v
def cellAt (bs : List (List Word)) (cell : Nat) : Word := (bs.getD (cell / 16384) []).getD (cell % 16384) 0

/-- Compare `n` copies over cells, each on its own (log 91). -/
def cellClash (c : Core) (n : Nat) (cells : List Nat) (val : Nat → Nat → Nat) : Option Dispute :=
  let v := vote n false cells val
  match v.lanes with
  | [] => none
  | first :: _ =>
    let unit := fun (k i : Nat) => [(2, c.copyRow k (i % 16384 / 128)), (3, i % 128)]
    some {
      copies := n, stands := v.stands, count := v.lanes.length, cell := first % 16384
      items := (List.range n).map (val · first), values := v.winners.map fun (i, k) => (i, val k i)
      lead := c.copyRow ((v.outvoted.find? (·.2 = first)).getD (1, first)).1 (first % 16384 / 128)
      hits := if v.stands then v.outvoted.flatMap fun (k, i) => unit k i
        else (v.lanes.flatMap fun i => (List.range n).flatMap (unit · i)).eraseDups }

/-- The blocks that an engine instruction forms under its class, with the disagreement of its copies: two copies under dual before the
tie-break, else three. The value that stands takes effect. -/
def formCells (c : Core) (us : List Upset) (prot : Nat) (tied : Bool) (bs : List (List Word)) : List (List Word) × Option Dispute :=
  let cells := struckCells us
  let val := fun k i => (cellAt bs i ^^^ cellFlip us k i).toNat
  let put := fun (vs : List (Nat × Nat)) => vs.foldl (fun b (i, v) => setCell b i (BitVec.ofNat 32 v)) bs
  let plain := put (cells.map fun i => (i, val 0 i))
  if prot = 0 then (plain, none)
  else match cellClash c (if prot = 1 && !tied then 2 else 3) cells val with
    | none => (plain, none)
    | some d => (put d.values, some d)

/-- Whether a cell error is one of an instruction's (`true`), to be taken by it, or another's. -/
def Upset.ofCell (u : Upset) : Bool := match u.site with
  | .cell _ => true
  | _ => false

/-- The columns in which the spare row's partial differs from that of the checked row of copy 0 in a pass, where the check is on (R324). -/
def spareCheck (c : Core) (us : List Upset) (count blocks : Nat) : Option (Nat × List Nat) :=
  if c.rowOff.isSome then none
  else
    let row := count % 128
    match (List.range 128).filter fun j => (List.range blocks).any fun b =>
        cellFlip us 0 (16384 * b + 128 * row + j) != cellFlip us 3 (128 * b + j) with
    | [] => none
    | js => some (row, js)

/-! ## Performing -/

/-- The record of a disagreement and the buckets that it feeds (R414, R415). Answers the SEQ. -/
def State.disputeRecord (s : State) (own : Nat) (pos : Pos) (d : Dispute) : State × Nat :=
  let item := fun k => if k < d.copies then d.items.getD k 0 else 0
  let (s1, seq) := s.sherdSeq s.rank {
    kind := if d.stands then 0x14 else 0x15, flags := if d.stands then 1 else 2, tag := s.tagOfTask own, launch := s.core.launch
    core := s.ck, unit := s.strm.unit, src1 := d.lead % 256 + d.cell % 128 * 256 + s.core.lcore * 65536, synd := 0xFFFFFFFF
    addr := d.copies * 0x100000000000000 + (if d.stands then 0 else 23) * 0x1000000000000 + min 255 d.count * 0x10000000000 +
      d.cell / 128 * 0x100000000 + pos.packed
    val0 := item 0, val1 := item 1, val2 := item 2 }
  (d.hits.foldl (fun t (cls, i) => t.coreBucket s.ck cls i 1) s1, seq)

/-- The record of a spare-row mismatch and its buckets (R325). -/
def State.spareRecord (s : State) (w : TileWrite) : State := match w.spareRow with
  | none => s
  | some (row, js) =>
    let s1 := s.sherd s.rank {
      kind := 0x13, tag := s.tagOfTask w.own, launch := s.core.launch, core := s.ck, unit := 5
      src1 := row + js.headD 0 * 256 + s.core.lcore * 65536, synd := js.length }
    js.foldl (fun t j => t.coreBucket s.ck 3 j 1) (s1.coreBucket s.ck 2 row 1)

/-- The cells of a tile after a write, with the flags of the additions (R333, R336). -/
def mixCells (mode : TileMode) (old new : List Word) : List (Word × Nat) := match mode with
  | .put => new.map fun w => (w, 0)
  | .addInt => List.zipWith (fun a b => (a + b, 0)) old new
  | .addFloat => List.zipWith (fun (a b : Word) => let r := fmtF32.addOp 0 a.toNat b.toNat
    (BitVec.ofNat 32 r.bits, r.flags)) old new

/-- All blocks of a write in turn. -/
def mixBlocks (mode : TileMode) : List Word → Nat → List (List Word) → List Word × Nat
  | old, fl, [] => (old, fl)
  | old, fl, b :: bs =>
    let r := mixCells mode old b
    mixBlocks mode (r.map Prod.fst) (fl ||| orFlags (r.map Prod.snd)) bs

/-- One tile of a write: its values meet the tile's (R333, R336). -/
def State.performPart (mode : TileMode) (own : Nat) (s : State) (p : Nat × List (List Word)) : State :=
  if mode != .put && s.core.poisoned (tileAddr p.1) 0x10000 then s.poisonTask own
  else
    let (cells, fl) := mixBlocks mode (s.core.tileCells p.1) 0 p.2
    (s.taskFlags s.sid own (BitVec.ofNat 32 fl)).setCore fun c => c.writeLocal (tileAddr p.1) (cellBytes cells)

/-- The blocks of a write as its copies form them. -/
def TileWrite.formed (w : TileWrite) (c : Core) : List (List Word) × Option Dispute :=
  formCells c w.errors w.prot w.tied (w.parts.flatMap Prod.snd)

/-- The tiles of a write with other blocks. -/
def regroup : List (Nat × List (List Word)) → List (List Word) → List (Nat × List (List Word))
  | [], _ => []
  | (t, bs) :: ps, all => (t, all.take bs.length) :: regroup ps (all.drop bs.length)

/-- The write of an instruction performs (R315, R333, R336, R409): its copies meet; one record tells of a disagreement. -/
def State.performTile (s : State) (w : TileWrite) : State :=
  let s1 := s.spareRecord w
  let (blocks, clash) := w.formed s1.core
  let (s2, seq) := match clash with
    | some d => s1.disputeRecord w.own w.pos d
    | none => (s1, 0)
  if clash.any fun d => !d.stands then
    if s2.strm.run.active && s2.taskSeq s2.sid = w.own then s2.takeTrap 23 seq false 0 w.prot false
    else match s2.core.slotOfSeq w.own with
      | some (n, e) =>
        let s3 := { s2 with core := s2.core.setEntry n (some { e with state := .held, heldCause := some (23, seq) }) }
        s3.fwQueue s3.ck ⟨5, 23, false, seq, w.pos.packed, trapInfo 0 w.prot false, none⟩
      | none => s2
  else (regroup w.parts blocks).foldl (State.performPart w.mode w.own) (s2.taskFlags s2.sid w.own w.flags)

def State.setEng (s : State) (f : Engine → Engine) : State := s.setStrm fun x => { x with eng := f x.eng }

/-- One due row (R338, R340, R343). -/
def State.performRow (s : State) (r : RowTask) : State := match r with
  | .store _ a bs own => s.setCore fun c => c.ownedWrite own a bs
  | .flags _ fl own => s.taskFlags s.sid own fl
  | .slot _ k n _ => s.setCore fun c => c.setRing k ((c.ring k).finish n false)
  | .load _ a row into_ own =>
    if s.core.poisoned a 512 then s.poisonTask own
    else
      let ws := (List.range 128).map fun j => BitVec.ofNat 32 (Memory.readNat s.core.loc (a + 4 * j) 4)
      s.setEng fun e => { e with writes := e.writes.map fun w =>
        if w.at_ = into_ && w.own = own && w.load.isSome then
          { w with parts := w.parts.map fun (t, bs) => (t, bs.map fun b => b.take (128 * row) ++ ws ++ b.drop (128 * (row + 1))) }
        else w }

def RowTask.due : RowTask → Nat
  | .store t _ _ _ | .load t _ _ _ _ | .flags t _ _ | .slot t _ _ _ => t

/-- The rows due in the stream's issue cycle. -/
def State.performRows (s : State) : State :=
  let now := s.strm.cyc
  let due := s.strm.eng.rows.filter fun r => r.due ≤ now
  due.foldl State.performRow (s.setEng fun e => { e with rows := e.rows.filter fun r => now < r.due })

/-- ACCUMULATOR_WRITE: the tile writes and rows due in the issuing stream's issue cycle perform in issue order (R315). A tie-break
first stalls the stream (R408). -/
def execAccumulatorWrite (s : State) : Out :=
  let now := s.strm.cyc
  let due := s.strm.eng.writes.filter (·.at_ ≤ now)
  let ties := due.filter fun w => w.prot = 1 && !w.tied && (w.formed s.core).2.isSome
  if !ties.isEmpty then
    .next (s.setStrm fun x => { x with
      stall := natSum (ties.map (·.tie)) - 1, latch := { x.latch with wait := true }
      eng := { x.eng with writes := x.eng.writes.map fun w =>
        if w.at_ ≤ now && w.prot = 1 && (w.formed s.core).2.isSome then { w with tied := true } else w } })
  else
    let s1 := s.setEng fun e => { e with
      writes := e.writes.filter (now < ·.at_), buffers := e.buffers.filter (now < ·) }
    .next (due.foldl State.performTile s1.performRows)

/-! ## Rings (R320 to R322, R341) -/

/-- Slots leave a ring at its head. -/
def Ring.pop (r : Ring) (n : Nat) : Ring :=
  { r with
    ccnt := (r.ccnt + n) % 0x100000000, claimed := r.claimed - n, freed := r.freed + n
    poison := r.poison.filter fun k => !((List.range n).any fun i => (r.ccnt + i) % 0x100000000 = k) }

/-- Make the pops that are due, in the order of their claims on each ring: the pops left and the core. -/
def duePops (now : Nat) : List (Nat × Nat × Nat) → List Nat → Core → List (Nat × Nat × Nat) × Core
  | [], _, c => ([], c)
  | (t, k, n) :: ps, blocked, c =>
    if t ≤ now && !(blocked.contains k) then duePops now ps blocked (c.setRing k ((c.ring k).pop n))
    else
      let (left, d) := duePops now ps (k :: blocked) c
      ((t, k, n) :: left, d)

def State.popSlots (s : State) : State :=
  let (left, c) := duePops s.strm.cyc s.strm.eng.pops [] s.core
  { s with core := c, strm := { s.strm with eng := { s.strm.eng with pops := left } } }

/-- PASS_SLOT_POP: the slots that the issuing stream pops in its issue cycle. -/
def execPassSlotPop (s : State) : Out := .next s.popSlots

/-- Publish the completed slots at the tail of a ring (R321). -/
def publishSlots : List RingRes → Ring → Ring
  | [], r => { r with reserved := [] }
  | v :: vs, r =>
    if v.done then publishSlots vs { r with
      pcnt := (r.pcnt + 1) % 0x100000000, poison := if v.poison then r.poison ++ [r.pcnt] else r.poison }
    else { r with reserved := v :: vs }

/-- SLOT_PUBLISH: the slots at a ring's tail that are wholly written are published in order. -/
def execSlotPublish (core ring : Nat) (s : State) : Out :=
  .next (s.modCore core fun c => c.setRing ring (publishSlots (c.ring ring).reserved (c.ring ring)))

end Sys2Proof.Machine
end

