-- ==== Sys2Proof/Machine/Flow.lean ====
section
/-! DEFINITION. Prepared branch targets, branches, hardware loops and END (04 R109 to R123). -/

namespace Sys2Proof.Machine

/-- The registers, targets and conditions of these instructions are compared at issue, and their results land as plain
(R84). -/
def plainHdr (h : Hdr) : Hdr := { h with prot := 0 }

/-- The position of a line offset (R72, R111). -/
def fbTarget (line loff slot : Nat) : Pos := ⟨wrap 28 ((line : Int) + sextNat 24 loff), slot⟩

/-- A target and the taken decision as copies compare them (R414). -/
def targetItem (p : Pos) (taken : Bool) : Nat := p.packed + if taken then 0x100000000 else 0

/-- PBR writes a prepared target (R111). -/
def execPbr (h : Hdr) (o : PbrArgs) (s : State) : Out :=
  let t := fbTarget s.strm.pos.line o.loff o.slot
  runI h (markReads o.regs) (vals fun _ => [targetItem t false]) s fun s => .ok (s.resB (plainHdr h) o.b t o.h)

/-- PBRG writes the packed target held in a g register; a slot of 11 to 15 raises ILLEGAL_OP (R112). -/
def execPbrg (h : Hdr) (o : PbrgArgs) (s : State) : Out :=
  runI h (markReads o.regs) (vals fun s => [(s.rdG o.g).toNat]) s fun s =>
    let v := (s.rdG o.g).toNat
    if v % 16 > 10 then .trap 1 (sylVal (.pbrg h o)) else .ok (s.resB (plainHdr h) o.b (Pos.ofPacked v) o.h)

/-- A b register is prepared once its value landed at least 3 issue cycles before (R110). -/
def State.preparedB (s : State) (n : Nat) : Bool := match (s.rdB n).landed with
  | none => true
  | some l => l + 3 ≤ s.strm.cyc

/-- The bundle takes a branch. -/
def State.take (s : State) (p : Pos) (prepared : Bool) : State :=
  s.setLatch fun l => { l with taken := some p, prepared := prepared }

/-- The position after the issuing bundle in sequence. -/
def State.afterBundle (s : State) : Pos :=
  let (m, _) := s.core.codeFor s.strm.cls
  nextPos m s.strm.cls.single s.strm.pos

/-- BR (R113). -/
def execBr (h : Hdr) (o : BrArgs) (s : State) : Out :=
  runI h (markReads o.regs) (vals fun s => [targetItem (s.rdB o.b).target true]) s fun s => .ok (s.take (s.rdB o.b).target (s.preparedB o.b))

/-- CALL branches, writes the link and pushes it on the return predictor (R114, R116). -/
def execCall (h : Hdr) (o : CallArgs) (s : State) : Out :=
  runI h (markReads o.regs) (vals fun s => [targetItem (s.rdB o.b).target true, s.afterBundle.packed]) s fun s =>
    let link := s.afterBundle
    let s1 := (s.take (s.rdB o.b).target (s.preparedB o.b)).resB (plainHdr h) o.d link false
    .ok (s1.setStrm fun x => { x with predictor := (link :: x.predictor).take 8 })

/-- RET branches; it is prepared where the newest entry of the predictor matches (R115, R116). -/
def execRet (h : Hdr) (o : BrArgs) (s : State) : Out :=
  runI h (markReads o.regs) (vals fun s => [targetItem (s.rdB o.b).target true]) s fun s =>
    let t := (s.rdB o.b).target
    match s.strm.predictor with
    | p :: rest =>
      if p = t then .ok ((s.take t true).setStrm fun x => { x with predictor := rest })
      else .ok ((s.take t (s.preparedB o.b)).setStrm fun x => { x with predictor := [] })
    | [] => .ok (s.take t (s.preparedB o.b))

/-- The position that follows a bundle in sequence, none where its line is not reachable (R118). -/
def State.following (s : State) (p : Pos) : Option Pos :=
  let (m, len) := s.core.codeFor s.strm.cls
  if lineOk m len s.strm.cls p.line then some (nextPos m s.strm.cls.single p) else none

/-- LOOP starts a level, or skips its body for a count of 0 (R118). -/
def execLoop (h : Hdr) (o : LoopArgs) (s : State) : Out :=
  runI h (markReads o.regs) (vals fun s => [targetItem (s.rdB o.b).target true, (s.rdG o.g).toNat]) s fun s =>
    let l := s.rdLc o.lc
    let e := (s.rdB o.b).target
    if s.rdG o.g = 0 then match s.following e with
      | none => .trap 2 e.line
      | some p => .ok ((s.putLc o.lc { l with active := false }).take p true)
    else
      let s1 := s.putLc o.lc { l with active := true, count := s.rdG o.g, first := s.afterBundle, last := e }
      .ok (s1.setLatch fun x => { x with lcNew := o.lc :: x.lcNew })

/-- LDLT writes one delta, from the next issue cycle on (R121). -/
def execLdlt (h : Hdr) (o : LdltArgs) (s : State) : Out :=
  runI h (markReads o.regs) (vals fun s => [(s.regImm o.v).toNat]) s fun s => .ok (s.resNext (.delta o.lc o.a) (s.regImm o.v))

/-- LDLT.clr clears the deltas of a level (R121). -/
def execLdltClr (h : Hdr) (o : LdltClrArgs) (s : State) : Out :=
  runI h (markReads o.regs) (vals fun _ => []) s fun s => .ok (s.resNext (.deltaClr o.lc) 0)

/-- LBRK leaves an active level (R122). -/
def execLbrk (h : Hdr) (o : LbrkArgs) (s : State) : Out :=
  runI h (markReads o.regs) (vals fun s => [(s.rdLc o.lc).last.packed]) s fun s =>
    let l := s.rdLc o.lc
    if !l.active then .ok s
    else match s.following l.last with
      | none => .trap 2 l.last.line
      | some p => .ok ((s.putLc o.lc { l with active := false }).take p true)

/-- END: the stream issues no further bundle (R123). A posted request of the stream that the fabric has lost is raised here
(20 R459). -/
def execEndOp (h : Hdr) (o : NoArgs) (s : State) : Out :=
  runI h (markReads o.regs) (vals fun _ => []) s fun s => match s.lostFor none with
    | some (r, c) => .trapIn (s.setStrm fun x => { x with lost := x.lost.erase (r, c) }) c r
    | none => .ok (s.setLatch fun l => { l with ended := true })

/-- Hardware loops at the end of a bundle that takes no branch (R119, R120): the next position, with counts, exits and delta
updates made. Levels in `skip` began in this very bundle. -/
def loopEnd (p : Pos) (skip : List Nat) : List Nat → State → State × Option Pos
  | [], s => (s, none)
  | n :: ns, s =>
    let l := s.rdLc n
    if l.active && l.last = p && !(skip.contains n) then
      if l.count.toNat > 1 then
        let s1 := s.putLc n { l with count := l.count - 1 }
        let step : Nat × Word → Flight := fun (j, d) => ⟨.a j, 1,
          [⟨((s.rdA j) + d.signExtend 64).setWidth 1024, 0, .none, lowBits 64, 0, true⟩], s.strm.pos, 0, 0, 1, false⟩
        (s1.setStrm fun x => { x with flight := x.flight ++ l.delta.map step }, some l.first)
      else loopEnd p skip ns (s.putLc n { l with active := false })
    else loopEnd p skip ns s

end Sys2Proof.Machine
end

