-- ==== Sys2Proof/Machine/Firmware.lean ====
section
/-! DEFINITION. Firmware-privileged instructions other than FRZ: FSHARE and FWSWAP (23 R499 to R501), PTW and TLBI (09 R247,
R248), PURGE (16 R382), SHRD (16 R397). -/

namespace Sys2Proof.Machine

/-- Run a firmware-privileged instruction: a context in probation or alive raises ILLEGAL_OP (R504). -/
def runFw (h : Hdr) (i : Instr) (reads : List Nat) (items : State → Items) (s : State) (eff : State → Eff) : Out :=
  runI h reads items s fun t =>
    if t.core.fwst = .probation || t.core.fwst = .alive then .trap 1 (sylVal i)
    else if t.acquiring then .wait t else eff t

/-- FSHARE sets FSHR from the next issue cycle on (R499). -/
def execFshare (h : Hdr) (o : FshareArgs) (s : State) : Out :=
  runFw h (.fshare h o) (markReads o.regs) (vals fun _ => []) s fun s => .ok (s.resNext (.csr 0x101) (BitVec.ofNat 32 o.n))

/-! ## FWSWAP (R501, R506) -/

/-- CRC-32C (Castagnoli, reflected; initial value and final XOR all ones): one bit, one byte, a list of bytes. -/
def crcBit (c : Nat) : Nat := if c % 2 = 1 then (c / 2) ^^^ 0x82F63B78 else c / 2
def crcByte (c : Nat) (b : Byte) : Nat := (List.range 8).foldl (fun x _ => crcBit x) (c ^^^ b.toNat)
def crc32c (bs : List Byte) : Nat := bs.foldl crcByte 0xFFFFFFFF ^^^ 0xFFFFFFFF

/-- LENGTH of a hand-over record, where its header is right for a core of a die (R506). -/
def handoverLen (hdr : List Byte) (core : Nat) : Option Nat :=
  let f := fun o n => natOfBytes ((hdr.drop o).take n)
  let len := f 12 4
  if f 0 4 = 0x52564F48 && f 4 2 = 1 && f 6 2 = core && len % 64 = 0 && 64 ≤ len && len ≤ 0x100000 then some len else none

/-- Bytes of HBM on the issuing die. -/
def State.onDie (s : State) (a n : Nat) : Bool := isHbm a && physRank a = s.rank && physOff a + n ≤ 0x1800000000

/-- The firmware image of a physical address: its bytes and its length in lines (R56). -/
def State.physImage (s : State) (base : Nat) : Memory × Nat :=
  let n := Memory.readNat s.sys.hbm (base + 12) 4
  (Memory.writeBytes 0 (Memory.readBytes s.sys.hbm base (64 * n)) [], n)

/-- The new image starts in place of the old one, whose state stays in the die's shadow (R501). -/
def State.swapImage (s : State) (pd ah len : Nat) : State :=
  let d := s.dieOf s.rank
  let x := s.strm
  let image := s.physImage (d.fwstby.toNat / 64 * 64)
  let entry := d.fwsent.toNat % 0x10000000
  let rev := BitVec.ofNat 32 (d.fwsent.toNat / 0x100000000)
  let y := Stream.reset x.unit x.cls
  let y1 := { y with
    run := .running, fwrev := rev, a := [(0, BitVec.ofNat 64 ah)], g := SMap.set 0 0 x.fwrev (SMap.set 0 1 (BitVec.ofNat 32 (coreInDie s.ck)) [])
    cyc := x.cyc, acAt := x.acAt, upsets := x.upsets, icnt := BitVec.allOnes 32
    latch := { x.latch with taken := some ⟨entry, 0⟩, prepared := true } }
  let c := s.core
  let s1 := { s with
    strm := y1
    core := { c with
      fwst := .probation, fwShadow := some { x with pos := s.afterBundle, latch := Latch.clear }, fwDue := s.sys.dc + d.fwwd.toNat / 0x100000000
      fwBundles := 0, fwRecord := some (ah, len), fwOldRev := x.fwrev, fwOldCode := c.fwCode, fwOldLen := c.fwLen, fwPd := pd
      fwCode := image.1, fwLen := image.2 } }
  s1.modDie s.rank fun e => { e with fwsst := SMap.set 0 (coreInDie s.ck) 1 e.fwsst }

/-- FWSWAP (R501). -/
def execFwswap (h : Hdr) (o : FwswapArgs) (s : State) : Out :=
  runFw h (.fwswap h o) (markReads o.regs) (vals fun s => [(s.rdA o.a).toNat]) s fun s =>
    let ah := (s.rdA o.a).toNat
    let hdr := Memory.readBytes s.sys.hbm ah 64
    let len := handoverLen hdr (coreInDie s.ck)
    let x := s.strm
    if ah % 64 ≠ 0 then .trap 7 ah
    else if !(s.onDie ah 64) then .trap 17 ah
    else if !(s.onDie ah (len.getD 64)) then .trap 17 (ah / 0x400000000000 * 0x400000000000 + 0x1800000000)
    else if !(bit (s.dieOf s.rank).fwstby.toNat 0) then .ok (s.resP h o.p false 1)
    else if !(s.released true) then .wait s
    else if x.flight.any fun f => !(f.pos = x.pos && f.k = f.lat) then .cycleWait s
    else
      let s1 := s.flushRange s.ck ah (len.getD 64) true
      match handoverLen (Memory.readBytes s1.sys.hbm ah 64) (coreInDie s.ck) with
      | none => .ok (s1.resP h o.p false 1)
      | some n =>
        let bs := Memory.readBytes s1.sys.hbm ah n
        let crc := crc32c (patch 24 (leBytes 4 0) bs)
        let frozen := (bs.getD 28 0) ||| 1
        .ok ((s1.hbmWrite (ah + 24) (leBytes 4 crc ++ [frozen])).swapImage o.p ah n)

/-! ## PTW and TLBI (R247, R248) -/

/-- Whether a change of a page-table entry must wait for the pages translated through the old one (R247). -/
def ptwGuarded (old new : Nat) : Bool :=
  (bit old 0 && !(bit new 0)) || (bit old 2 && !(bit new 2)) || old / 256 % 2 ^ 48 != new / 256 % 2 ^ 48 ||
    bit old 1 != bit new 1 || bit old 3 != bit new 3 || bit old 4 != bit new 4

/-- The virtual device and address of a page key. -/
def keyPage (key : Nat) : Nat × Nat := (key / 0x10000000000, key % 0x10000000000 * 0x10000)

/-- The counted pages of a package's virtual devices, on whatever die they are homed (R245). -/
def State.pinnedPages (s : State) (pkg : Nat) : List (Nat × Nat) :=
  s.sys.dies.flatMap fun (_, d) => (d.pins.filter fun (k, _) => k / 0x100000000000000 = pkg).map fun (k, _) =>
    keyPage (k % 0x100000000000000)

/-- Whether a pinned page is translated through an entry. -/
def State.pinnedThrough (s : State) (ea : Nat) : Bool := (s.pinnedPages s.pkg).any fun (v, va) =>
  match s.walkVa s.pkg v va with
  | some t => t.path.contains ea
  | none => false

/-- Remove TLB entries from every core of a package. -/
def State.tlbDrop (s : State) (pkg : Nat) (hit : Nat → Tlb → Bool) : State :=
  let keys := (s.ck :: s.cores.map Prod.fst).filter fun k => pkgOfCore k = pkg && !(isParkKey k)
  keys.foldl (fun t k => t.modCore k fun c => { c with tlb := c.tlb.filter fun (key, e) => match e with
    | some x => !(hit key x)
    | none => false }) s

/-- A PTW that waits blocks every walk of its entry and every use of a translation derived from it. -/
def State.ptwHold (s : State) (ea : Nat) : State := { s with sys := { s.sys with ptwBusy := (s.sid, ea) :: (s.ptwDone s.sid).sys.ptwBusy } }

/-- PTW: the write, or what it waits for (R247). -/
def ptw (s : State) (ae av : Nat) (busy : Nat → Eff) (done : State → State) : Eff :=
  let ea := (s.rdA ae).toNat
  let new := (s.rdA av).toNat
  if ea % 8 ≠ 0 then .trap 7 ea
  else if !(isHbm ea) || physPkg ea ≠ s.pkg then .trap 17 ea
  else if s.recordProtected ea then .trap 18 ea
  else if ptwGuarded (Memory.readNat s.sys.hbm ea 8) new && s.pinnedThrough ea then busy ea
  else .ok (done ((s.hbmWrite ea (leBytes 8 new)).tlbDrop s.pkg fun _ t => t.path.contains ea))

/-- PTW (R247). -/
def execPtw (h : Hdr) (o : PtwArgs) (s : State) : Out :=
  runFw h (.ptw h o) (markReads o.regs) (vals fun s => [(s.rdA o.ae).toNat, (s.rdA o.av).toNat]) s fun s =>
    ptw s o.ae o.av (fun ea => .wait (s.ptwHold ea)) id
/-- PTW.nb (R247). -/
def execPtwNb (h : Hdr) (o : PtwNbArgs) (s : State) : Out :=
  runFw h (.ptwNb h o) (markReads o.regs) (vals fun s => [(s.rdA o.ae).toNat, (s.rdA o.av).toNat]) s fun s =>
    ptw s o.ae o.av (fun _ => .ok (s.resP h o.p false 1)) fun t => t.resP h o.p true 1

/-- TLBI over the pages that a test names: waits while one of them is counted, then invalidates their entries (R248). -/
def tlbi (s : State) (named : Nat × Nat → Bool) : Eff :=
  if (s.pinnedPages s.pkg).any named then .wait s
  else .ok (s.tlbDrop s.pkg fun key _ => named (keyPage key))

/-- TLBI.va (R248). -/
def execTlbiVa (h : Hdr) (o : TlbiVaArgs) (s : State) : Out :=
  runFw h (.tlbiVa h o) (markReads o.regs) (vals fun s => [(s.rdA o.a).toNat, (s.rdG o.g).toNat]) s fun s =>
    let lo := (s.rdA o.a).toNat / 0x10000
    tlbi s fun (v, va) => v = o.vd && lo ≤ va / 0x10000 && va / 0x10000 < lo + (s.rdG o.g).toNat
/-- TLBI.vd (R248). -/
def execTlbiVd (h : Hdr) (o : TlbiVdArgs) (s : State) : Out :=
  runFw h (.tlbiVd h o) (markReads o.regs) (vals fun _ => []) s fun s => tlbi s fun (v, _) => v = o.vd
/-- TLBI.all (R248). -/
def execTlbiAll (h : Hdr) (o : Form2Args) (s : State) : Out :=
  runFw h (.tlbiAll h o) (markReads o.regs) (vals fun _ => []) s fun s => tlbi s fun _ => true

/-! ## PURGE and SHRD (16 R382, R397) -/

/-- Whether a purge of a launch has not reached every package of it (R461): a package has still to make it or to pass it on, or has not
acknowledged it (log 56). -/
def State.purging (s : State) (lk tag : Nat) : Bool :=
  (s.sys.purges.any fun p => p.1 = lk && p.2.1 = tag) || ((s.launchParts lk).any fun j => (s.launchOf j).any fun l => l.purgeOut.any (·.1 = tag)) ||
    s.sys.reqs.any fun r => r.wait = .purge && r.msg.any fun m => launchId m.launch = launchId lk && m.tag = tag

/-- A purge made by an instruction, with its status. On one package it completes at once; that of a launch on several packages waits
until each has acknowledged it (R461): while it waits, `rbar` holds the launch. -/
def purgeAll (tag status : Nat) (s : State) : Eff :=
  match s.strm.rbar with
  | .sent lk => if s.purging lk tag then .wait s else .ok (s.setStrm fun x => { x with rbar := .none })
  | _ =>
    let s1 := s.purge s.core.launch tag status s.rank
    if s.launch.any (·.multi) then .wait (s1.setStrm fun x => { x with rbar := .sent s.core.launch }) else .ok s1

/-- PURGE of a tag of the launch on this core (R382). -/
def execPurge (h : Hdr) (o : PurgeArgs) (s : State) : Out :=
  runFw h (.purge h o) (markReads o.regs) (vals fun s => [(s.rdG o.g).toNat]) s fun s => purgeAll ((s.rdG o.g).toNat % 65536) 33 s
/-- PURGE.l ends the launch (R382): with status 27 where the firmware is at a KILN_DEADLOCK (R386, log 101). -/
def execPurgeL (h : Hdr) (o : Form1Args) (s : State) : Out :=
  runFw h (.purgeL h o) (markReads o.regs) (vals fun _ => []) s fun s =>
    purgeAll 0 (if s.core.sysCur.any (·.cause = 27) then 27 else 33) s
/-- PURGE.clr removes a tag from the launch's purge filters (R382). -/
def execPurgeClr (h : Hdr) (o : PurgeClrArgs) (s : State) : Out :=
  runFw h (.purgeClr h o) (markReads o.regs) (vals fun s => [(s.rdG o.g).toNat]) s fun s =>
    let tag := (s.rdG o.g).toNat % 65536
    .ok (s.modLaunch s.core.launch fun l => { l with filters := SMap.set [] 0 ((SMap.get [] 0 l.filters).filter (· != tag)) l.filters })

/-- SHRD appends a record to the die's log ring (R397); it also runs in a context in probation (R504). -/
def execShrd (h : Hdr) (o : ShrdArgs) (s : State) : Out :=
  runI h (markReads o.regs) (recItems 64 fun s => (s.rdA o.a, [])) s fun s =>
    let a := (s.rdA o.a).toNat
    if a % 8 ≠ 0 then .trap 7 a
    else match s.localFault a 64 false with
      | some (c, v) => .trap c v
      | none => if s.acquiring then .wait s else if s.core.poisoned a 64 then .trap 25 0 else .ok (s.logRecord s.rank (s.localBytes a 64)).1

end Sys2Proof.Machine
end

