-- ==== Sys2Proof/Machine/Copy.lean ====
section
/-! DEFINITION. The copy engine (14 R348 to R360): descriptors, copy instructions, the issue and the performing of chunks, and the
completion of a copy. -/

namespace Sys2Proof.Machine

/-! ## Descriptors (R348, R349) -/

/-- The fields of a copy descriptor. -/
structure CopyD where
  sk : Nat
  dk : Nat
  ndim : Nat
  esz : Nat
  sref : Nat
  dref : Nat
  dring : Nat
  lmode : Nat
  loff : Nat
  lval : Nat
  n : List Nat
  sorg : Nat
  dorg : Nat
  sstr : List Int
  dstr : List Int
deriving DecidableEq, Repr

def CopyD.of (ws : List Word) : CopyD :=
  let w := wordAt ws
  let c := w 0
  { sk := c % 4, dk := c / 4 % 4, ndim := c / 16 % 4 + 1, esz := c / 64 % 4, sref := c / 256 % 4, dref := c / 1024 % 4
    dring := c / 4096 % 8, lmode := c / 65536 % 4, loff := w 1, lval := w 2
    n := [w 3 % 65536 + 1, w 3 / 65536 + 1, w 4 % 65536 + 1, w 4 / 65536 + 1]
    sorg := w 5 + 0x100000000 * w 6, dorg := w 7 + 0x100000000 * w 8
    sstr := (List.range 3).map fun i => sextNat 32 (w (9 + i)), dstr := (List.range 3).map fun i => sextNat 32 (w (12 + i)) }

/-- The bytes of an element, the bytes of the box, its chunks. -/
def CopyD.size (d : CopyD) : Nat := 2 ^ d.esz
def CopyD.total (d : CopyD) : Nat := d.n.foldl (· * ·) 1 * d.size
def CopyD.chunks (d : CopyD) : Nat := (d.total + 511) / 512

/-- The coordinates of the `j`-th element of the linear order. -/
def CopyD.elem (d : CopyD) (j : Nat) : List Nat :=
  let n := fun i => d.n.getD i 1
  [j % n 0, j / n 0 % n 1, j / (n 0 * n 1) % n 2, j / (n 0 * n 1 * n 2)]

/-- The elements of a chunk. -/
def CopyD.chunkElems (d : CopyD) (k : Nat) : List Nat :=
  let per := 512 / d.size
  (List.range (min per (d.total / d.size - k * per))).map (k * per + ·)

/-- An endpoint as it is used: far or local memory, the logical core of a scratchpad name, whether offsets are modulo 2^32, the
address of the box's first element, the strides of dimensions 1 to 3, and the positions that an index may take in dimension
1. -/
structure EndP where
  far : Bool
  sp : Option Nat
  org : Nat
  str : List Int
  rows : Option (Int × Int)
deriving DecidableEq, Repr

/-- The bound reference that a descriptor names, for the running task in a window slot. -/
def Core.taskRef (c : Core) (slot seq ref : Nat) : Option Bound := match c.entry slot with
  | some e => if e.seq = seq then e.bound[ref]? else none
  | none => none

/-- The endpoint of a kind (R349); none where a reference breaks R349. `idx` says that dimension 1 is selected by indexes. -/
def Core.endP (c : Core) (slot seq kind org ref : Nat) (str : List Int) (d : CopyD) (write idx : Bool) : Option EndP :=
  match kind with
  | 1 => match c.taskRef slot seq ref with
    | none => none
    | some b =>
      let f := c.frameD b.ref.frame
      let x := fun i => org / 2 ^ (16 * i) % 65536
      let lim := fun i => let t := b.ref.tiles f i
        (t.1 * 2 ^ f.tl.getD i 0, t.2 * 2 ^ f.tl.getD i 0)
      let inside := (List.range 4).all fun i => (idx && i = 1) || ((lim i).1 ≤ x i && x i + d.n.getD i 1 ≤ (lim i).2)
      if (c.frame b.ref.frame).isNone || f.space = 2 || f.esz != d.esz || (write && !b.ref.write) || !inside then none
      else some {
        far := f.space = 1, sp := none
        org := f.base + b.ver * f.vstride + natSum ((List.range 4).map fun i => x i * f.strides.getD i 0)
        str := (f.strides.drop 1).map Int.ofNat
        rows := some (((lim 1).1 : Int) - x 1, ((lim 1).2 : Int) - x 1) }
  | 2 => some ⟨false, some (org / 0x1000000000000), org % 0x100000000, str, none⟩
  | _ => some ⟨false, none, org, str, none⟩

/-- The address of an element of an endpoint. -/
def EndP.addr (e : EndP) (xs : List Int) (size : Nat) : Nat :=
  wrap (if e.sp.isSome then 32 else 64)
    ((e.org : Int) + xs.headD 0 * size + (List.zipWith (· * ·) (xs.drop 1) e.str).foldl (· + ·) 0)

/-- The hull of a box at an endpoint as a half-open range of integers. -/
def EndP.hull (e : EndP) (d : CopyD) : Int × Int :=
  let steps := List.zipWith (fun (n : Nat) st => ((n : Int) - 1) * st) (d.n.drop 1) e.str
  ((e.org : Int) + (steps.map (min 0)).foldl (· + ·) 0,
    (e.org : Int) + (steps.map (max 0)).foldl (· + ·) 0 + (d.n.getD 0 1 * d.size : Nat))

/-- Where one element lies. -/
inductive Place where
  | here (a : Nat)
  | sp (lc off : Nat)
  | far (va : Nat)
deriving DecidableEq, Repr

def EndP.place (e : EndP) (own : Nat) (a : Nat) : Place :=
  if e.far then .far a
  else match e.sp with
    | some lc => if lc = own then .here a else .sp lc a
    | none => .here a

/-! ## Rows (R349, R352) -/

/-- The data of a task's own held writes, and of local memory (R273). -/
def Core.ownedByte (c : Core) (own a : Nat) : Byte := match c.slotOfSeq own with
  | some (n, e) => if e.spec then (optGet a (SMap.get [] n c.commit)).getD (Memory.read c.loc a) else Memory.read c.loc a
  | none => Memory.read c.loc a

/-- The row that an entry of an index list selects, for an endpoint whose dimension 1 is indexed: none where the row is outside it. -/
def Core.indexRow (c : Core) (own list : Nat) (e : EndP) (d : CopyD) (row : Nat) : Option Nat :=
  let i := natOfBytes ((List.range 4).map fun b => c.ownedByte own (list + 4 * row + b))
  let at_ := (e.org : Int) + i * e.str.headD 0
  let lo := if e.sp.isSome then (wrap 32 at_ : Int) else at_
  let ok := match e.rows with
    | some (a, b) => a ≤ i && (i : Int) < b
    | none => 0 ≤ lo && lo + (d.n.getD 0 1 * d.size : Nat) ≤ winSize c.pool
  if ok then some i else none

/-- The bytes that the rows of a box occupy at an endpoint: first address and length of each row; `row` gives the position in
dimension 1. -/
def EndP.spans (e : EndP) (d : CopyD) (row : Nat → Option Nat) : List (Nat × Nat) :=
  let n := fun i => d.n.getD i 1
  let len := n 0 * d.size
  let cut := fun (a : Nat) => if e.sp.isSome && 0x100000000 < a + len then
      [(a, 0x100000000 - a), (0, a + len - 0x100000000)] else [(a, len)]
  (List.range (n 1 * n 2 * n 3)).flatMap fun j => match row (j % n 1) with
    | some r => cut (e.addr [0, r, (j / n 1 % n 2 : Nat), (j / (n 1 * n 2) : Nat)] d.size)
    | none => []

def spansMeet (as bs : List (Nat × Nat)) : Bool := as.any fun a => bs.any fun b => a.1 < b.1 + b.2 && b.1 < a.1 + a.2

/-! ## Checks at issue (R359) -/

/-- ENG_OPERAND of a descriptor by its fields alone. -/
def CopyD.bad (d : CopyD) (opc mode : Nat) (l : Bool) (ws : List Word) : Bool :=
  let dead := (List.range 3).any fun i => d.ndim ≤ i + 1 &&
    (d.n.getD (i + 1) 1 != 1 || d.sstr.getD i 0 != 0 || d.dstr.getD i 0 != 0)
  let c := wordAt ws 0
  bit c 15 || c / 0x40000 != 0 || 2 ≤ d.lmode || d.sk = 3 || wordAt ws 15 != 0 || dead ||
    (d.sk = 1 && d.sstr.any (· != 0)) || ((d.dk = 1 || d.dk = 3) && d.dstr.any (· != 0)) || (d.dk = 3 && d.dorg != 0) ||
    (d.dk = 2 && !l) || 2 ^ 25 < d.total ||
    ((opc = 0xF5 || opc = 0xF6) && d.ndim != 2) ||
    (opc = 0xF7 && (d.sk != 0 || d.sref != 0 || d.sorg != 0 || d.sstr.any (· != 0))) ||
    (opc = 0xF8 && (d.dk = 3 || d.esz != (if mode % 2 = 0 then 2 else 1)))

/-- The memory of an endpoint, for the test of overlap: 0 far, else a logical core plus one. -/
def EndP.mem (e : EndP) (own : Nat) : Nat := if e.far then 0 else e.sp.getD own + 1

def intMeet (a b : Int × Int) : Bool := a.1 < b.2 && b.1 < a.2

/-- WIN_CROSS of a hull in a scratchpad. -/
def State.hullFault (s : State) (e : EndP) (h : Int × Int) : Option (Nat × Nat) :=
  if e.far then none
  else if h.1 < 0 then some (9, wrap (if e.sp.isSome then 32 else 64) h.1)
  else s.localFault h.1.toNat (h.2 - h.1).toNat false

/-- Sixteen copies are in progress (R357). -/
def Core.copiesFull (c : Core) : Bool := (c.copies.filter (·.opc != 0xF9)).length ≥ 16

/-- The owner number of a copy among the producers of a ring. -/
def copyOwner (id : Nat) : Nat := 2 * id + 1

/-- Run a copy instruction: its checks in R359's order, then the copy enters the engine. `mode` is the combination of a CRED,
`gval` the value of a CFILL, `idx` the register of an index list. -/
def copyOp (h : Hdr) (i : Instr) (regs : List RegUse) (opc mode : Nat) (ct : Option Nat) (a : Nat) (l : Bool)
    (gval : CopyD → Option Nat) (idx : Option Nat) (s : State) : Out :=
  run h (markReads regs) ⟨false, 1, 2, recItems 64 fun s => (s.rdA a, idx.toList.map fun r => (s.rdA r).toNat)⟩ s fun s =>
    let own := s.core.lcore
    let list := match idx with
      | some r => (s.rdA r).toNat
      | none => 0
    if s.core.copiesFull then .wait s
    else withImage s (s.rdA a) 16 fun ws =>
      let d := CopyD.of ws
      let slot := s.strm.slot
      let seq := s.taskSeq s.sid
      let src := if opc = 0xF7 then some ⟨false, none, 0, [], none⟩
        else s.core.endP slot seq d.sk d.sorg d.sref d.sstr d false (opc = 0xF5)
      let r := s.core.ring d.dring
      let slotB := 128 * r.slotsz
      let need := if slotB = 0 then 0 else (d.total + slotB - 1) / slotB
      let dst := if d.dk = 3 then
          if r.init && need ≤ r.nslot then some ⟨false, none, r.base, [], none⟩ else none
        else s.core.endP slot seq d.dk d.dorg d.dref d.dstr d true (opc = 0xF6)
      match gval d with
      | none => .trap 1 (sylVal i)
      | some gv =>
        if s.core.poisoned (s.rdA a).toNat 64 then .trap 25 0
        else if d.bad opc mode l ws then .trap 16 0
        else match src, dst with
          | some se, some de =>
            let sh := if opc = 0xF5 || opc = 0xF7 then none else some (se.hull d)
            let dh := if d.dk = 3 || opc = 0xF6 then none else some (de.hull d)
            let first := (r.pcnt + r.reserved.length) % 0x100000000
            let listed := idx.isNone || (list % 4 = 0 && (s.localFault list (4 * d.n.getD 1 1) false).isNone)
            let srcRows := se.spans d fun k => if opc = 0xF5 then s.core.indexRow seq list se d k else some k
            let dstRows := if d.dk = 3 then (List.range need).map fun j => (r.slotAt ((first + j) % 0x100000000), slotB)
              else de.spans d fun k => if opc = 0xF6 then s.core.indexRow seq list de d k else some k
            let apart := match sh, dh with
              | some x, some y => !(intMeet x y)
              | _, _ => false
            let meet := opc != 0xF7 && se.mem own = de.mem own && listed && !apart && spansMeet srcRows dstRows
            let noCore := ([(opc != 0xF7, se), (true, de)].findSome? fun (u, (e : EndP)) => match e.sp with
              | some lc => if u && s.lcoreAt lc = .nowhere then some lc else none
              | none => none)
            let win := ((if idx.isSome then s.localFault list (4 * d.n.getD 1 1) false else none).or
              (if l then s.localFault d.loff 4 false else none)).or
              ((sh.bind fun x => s.hullFault se x).or (if d.dk = 3 then none else dh.bind fun x => s.hullFault de x))
            if meet then .trap 16 0
            else if l && d.loff % 4 != 0 then .trap 7 d.loff
            else if list % 4 != 0 then .trap 7 list
            else match noCore, win with
              | some lc, _ => .trap 8 lc
              | none, some (c, v) => .trap c v
              | none, none =>
                let ownDst := d.dk != 3 && !de.far && de.mem own = own + 1
                let id := s.core.copyId
                if s.specSlot.isSome && !ownDst then .wait s
                else match if d.dk = 3 then r.reserve (copyOwner id) s.strm.tagr.toNat need else some r with
                  | none => .wait s
                  | some r1 =>
                    let p : CopyProg := {
                      id := id, syl := sylVal i, opc := opc, mode := mode + 4 * (s.strm.fcsr.toNat % 8), tslot := slot, tseq := seq
                      tag := s.strm.tagr.toNat, words := ws, gval := gv, alist := list, ct := ct, land_ := l
                      ringFirst := first, issued := 0, performed := [], pending := []
                      flags := 0, landed := false, prot := h.prot, pos := s.strm.pos, fault := none }
                    .ok (s.setCore fun c => { (if d.dk = 3 then c.setRing d.dring r1 else c) with
                      copies := c.copies ++ [p], copyId := id + 1 })
          | _, _ => .trap 16 0

/-! ## Copy instructions (R350 to R355) -/

/-- COPY. -/
def execCopy (h : Hdr) (o : CopyArgs) (s : State) : Out :=
  copyOp h (.copy h o) o.regs 0xF4 0 (if o.te then some o.ct else none) o.a o.l (fun _ => some 0) none s
/-- COPYG. -/
def execCopyg (h : Hdr) (o : CopygArgs) (s : State) : Out :=
  copyOp h (.copyg h o) o.regs 0xF5 0 (if o.te then some o.ct else none) o.a o.l (fun _ => some 0) (some o.ai) s
/-- COPYS. -/
def execCopys (h : Hdr) (o : CopygArgs) (s : State) : Out :=
  copyOp h (.copys h o) o.regs 0xF6 0 (if o.te then some o.ct else none) o.a o.l (fun _ => some 0) (some o.ai) s
/-- CFILL: the value of g(E3), or of a pair for 8-byte elements, where E3 must be even (R353). -/
def execCfill (h : Hdr) (o : CfillArgs) (s : State) : Out :=
  let value := fun (d : CopyD) => if d.esz < 3 then some ((s.rdG o.g).toNat % 2 ^ (8 * d.size))
    else if o.g % 2 = 0 then some (s.pairG o.g) else none
  copyOp h (.cfill h o) o.regs 0xF7 0 (if o.te then some o.ct else none) o.a o.l value none s
def credCode : CredOp → Nat
  | .addF32 => 0
  | .addBf16 => 1
  | .maxF32 => 2
  | .maxBf16 => 3
/-- CRED. -/
def execCred (h : Hdr) (o : CredArgs) (s : State) : Out :=
  copyOp h (.cred h o) o.regs 0xF8 (credCode o.op) (if o.te then some o.ct else none) o.a o.l (fun _ => some 0) none s

/-- CLAND waits in the engine until the data of every earlier copy has performed (R355). -/
def execCland (h : Hdr) (o : CfillArgs) (s : State) : Out :=
  run h (markReads o.regs) ⟨false, 0, 2, vals fun s => [(s.rdA o.a).toNat, (s.rdG o.g).toNat]⟩ s fun s =>
    let name := (s.rdA o.a).toNat
    let lc := name / 0x1000000000000
    let off := name % 0x100000000
    if s.core.copiesFull then .wait s
    else if off % 4 ≠ 0 then .trap 7 off
    else if s.lcoreAt lc = .nowhere then .trap 8 lc
    else match s.localFault off 4 false with
      | some (c, v) => .trap c v
      | none =>
        if s.specSlot.isSome && lc != s.core.lcore then .wait s
        else
          let id := s.core.copyId
          let p : CopyProg := {
            id := id, syl := sylVal (.cland h o), opc := 0xF9, mode := o.l.toNat, tslot := s.strm.slot, tseq := s.taskSeq s.sid
            tag := s.strm.tagr.toNat, words := [], gval := (s.rdG o.g).toNat, alist := name, ct := if o.te then some o.ct else none, land_ := true
            ringFirst := 0, issued := 0, performed := [], pending := [], flags := 0, landed := false, prot := h.prot, pos := s.strm.pos
            fault := none }
          .ok (s.setCore fun c => { c with copies := c.copies ++ [p], copyId := id + 1 })

/-! ## The places of a chunk's elements (R349, R352) -/

def CopyProg.desc (p : CopyProg) : CopyD := CopyD.of p.words

/-- The place of each element of a chunk at one side; an index outside its endpoint gives none (R352). -/
def State.chunkPlaces (s : State) (k : Nat) (e : EndP) (p : CopyProg) (idx : Bool) (n : Nat) : Option (List (Nat × Place)) :=
  let d := p.desc
  let own := (s.coreOf k).lcore
  (d.chunkElems n).mapM fun j =>
    let xs := d.elem j
    let row := if idx then (s.coreOf k).indexRow p.tseq p.alist e d (xs.getD 1 0) else some (xs.getD 1 0)
    row.map fun y => (j % (512 / d.size), e.place own (e.addr ((xs.set 1 y).map Int.ofNat) d.size))

/-- The places of a chunk in the ring slots that the copy reserved (R349 kind 3). -/
def Core.ringPlaces (c : Core) (p : CopyProg) (n : Nat) : List (Nat × Place) :=
  let d := p.desc
  let r := c.ring d.dring
  let slotB := 128 * r.slotsz
  (d.chunkElems n).map fun j =>
    let b := j * d.size
    (j % (512 / d.size), .here (r.slotAt ((p.ringFirst + b / slotB) % 0x100000000) + b % slotB))

/-- The endpoints of a copy in progress. -/
def State.copySrc (s : State) (k : Nat) (p : CopyProg) : Option EndP :=
  (s.coreOf k).endP p.tslot p.tseq p.desc.sk p.desc.sorg p.desc.sref p.desc.sstr p.desc false (p.opc = 0xF5)
def State.copyDst (s : State) (k : Nat) (p : CopyProg) : Option EndP :=
  (s.coreOf k).endP p.tslot p.tseq p.desc.dk p.desc.dorg p.desc.dref p.desc.dstr p.desc true (p.opc = 0xF6)

/-- The context of a copy's far accesses: its frames were checked when they were defined (R359). -/
def State.copyCtx (s : State) (k : Nat) : FarCtx := { s.farCtx (sidOf k 7) with regions := false }

/-- A far element's translation; a frame's page stays mapped while it is counted. -/
def State.copyHit (s : State) (k va : Nat) (write : Bool) : Option FarHit := match s.farTranslate (s.copyCtx k) va write with
  | .ok h => some h
  | .error _ => none

/-- The rank to which a message for an element goes, with its physical address: none where the core itself reaches it, as it does what
its L1 may hold, and the uncached pages of its package that it writes. -/
def State.placeRank (s : State) (k : Nat) (write : Bool) (pl : Place) : Option (Nat × Nat) := match pl with
  | .here _ => none
  | .sp lc off => ((s.launchOf (s.coreOf k).launch).bind fun l => l.lcoreRank lc).map fun r => (r, off)
  | .far va => match s.copyHit k va false with
    | some h => if physPkg h.addr = pkgOfCore k && (write || h.cached) then none else some (physRank h.addr, h.addr)
    | none => none

/-- The elements that messages carry, by rank: index, address and physical address. -/
def State.placeGroups (s : State) (k : Nat) (write : Bool) (ps : List (Nat × Place)) : List (Nat × List (Nat × Nat × Nat)) :=
  let remote := ps.filterMap fun (i, pl) => (s.placeRank k write pl).map fun (r, pa) =>
    (r, i, (match pl with
      | .here a => a
      | .sp _ off => off
      | .far va => va), pa)
  ((remote.map Prod.fst).eraseDups).map fun r => (r, remote.filterMap fun (q, e) => if q = r then some e else none)

/-! ## Reading and writing elements -/

/-- The bytes of an element that this package reaches, and whether they are poisoned. -/
def State.readPlace (s : State) (k own size : Nat) (pl : Place) : List Byte × Bool := match pl with
  | .here a => ((List.range size).map fun i => (s.coreOf k).ownedByte own (a + i), (s.coreOf k).poisoned a size)
  | .sp _ _ => (List.replicate size 0, false)
  | .far va => match s.copyHit k va false with
    | some h => (s.farBytes k h size, s.farPoisoned k h size)
    | none => (List.replicate size 0, false)

/-- The physical addresses of the elements that a core itself reaches in HBM. -/
def State.nearHbm (s : State) (k : Nat) (ps : List (Nat × Place)) : List FarHit := ps.filterMap fun (_, pl) => match pl with
  | .far va => (s.copyHit k va false).filter fun h => physPkg h.addr = pkgOfCore k
  | _ => none

/-- Cached elements that a core reads go through its L1 (R351): their lines are fetched. -/
def State.nearFill (s : State) (k : Nat) (ps : List (Nat × Place)) : State :=
  ((((s.nearHbm k ps).filter (·.cached)).map fun h => h.addr / 128).eraseDups).foldl (fun t l => t.fillLine k (128 * l) true) s

/-- The combination of a CRED: `mode` is its code, plus four times the rounding mode (R354). -/
def credElem (mode : Nat) (old new : List Byte) : List Byte × Nat :=
  let f := if mode % 2 = 0 then fmtF32 else fmtBf16
  let a := natOfBytes old
  let b := natOfBytes new
  let r := if mode % 4 < 2 then f.addOp (plainRm (mode / 4)) a b else f.minMax true a b
  (leBytes (f.width / 8) r.bits, r.flags)

/-- What an element write does to the bytes at its place: the flags, and whether poisoned data was combined. -/
def combine (opc mode : Nat) (old new : List Byte) : List Byte × Nat := if opc = 0xF8 then credElem mode old new else (new, 0)

/-- An element becomes poisoned where it lies. -/
def State.poisonPlace (s : State) (k size : Nat) (pl : Place) : State := match pl with
  | .here a => s.modCore k fun c => c.poison_ a size
  | .sp _ _ => s
  | .far va => match s.copyHit k va true with
    | some h => s.farPoison k h size
    | none => s

/-- Write an element that this package reaches. Answers the flags, and none where a CRED meets poison. -/
def State.writePlace (s : State) (k own opc mode size : Nat) (pl : Place) (bs : List Byte) (poison : Bool) : Option (State × Nat) :=
  let (old, bad) := if opc = 0xF8 then s.readPlace k own size pl else ([], false)
  if opc = 0xF8 && (bad || poison) then none
  else
    let (new, fl) := combine opc mode old bs
    let t := match pl with
      | .here a => s.modCore k fun c => c.ownedWrite own a new
      | .sp _ _ => s
      | .far va => match s.copyHit k va true with
        | some h => s.farPut (s.copyCtx k) va h new
        | none => s
    some (if poison then t.poisonPlace k size pl else t, fl)

/-! ## Chunks (R351, R357, R358) -/

/-- The pseudo-priority of R357: chunks outstanding in a core's copy engine. -/
def Core.chunksOut (c : Core) : Nat := natSum (c.copies.map fun p => p.pending.length)

/-- A place of a chunk is not awaited by any request. -/
def State.chunkQuiet (s : State) (k id n : Nat) : Bool := !(s.sys.reqs.any fun r => coreOfSid r.sid = k && r.wait = .chunk id n)

/-- Slots of a ring whose bytes of a copy have all performed are complete; the rest of the last slot is zero (R321, R349). -/
def Core.finishSlots (c : Core) (p : CopyProg) : Core :=
  let d := p.desc
  if p.opc = 0xF9 || d.dk != 3 then c
  else
    let r := c.ring d.dring
    let slotB := 128 * r.slotsz
    let need := (d.total + slotB - 1) / slotB
    (List.range need).foldl (fun e j =>
      let lo := j * slotB
      let hi := min (lo + slotB) d.total
      let n := (p.ringFirst + j) % 0x100000000
      if (List.range ((hi + 511) / 512 - lo / 512)).all fun i => p.performed.contains (lo / 512 + i) then
        let f := if hi < lo + slotB then e.writeLocal (r.slotAt n + (hi - lo)) (List.replicate (lo + slotB - hi) 0) else e
        f.setRing d.dring ((f.ring d.dring).finish n false)
      else e) c

/-- The record of a dual chunk whose re-read differs (R411, R414): its position, the CRC of the re-read, the chunk's own, and that of
the re-read after it was written again. -/
def State.chunkRecord (s : State) (k : Nat) (p : CopyProg) (n : Nat) (ok : Bool) (first data third : List Byte) : State × Nat :=
  s.sherdSeq (rankOfCore k) {
    kind := if ok then 0x14 else 0x15, flags := if ok then 1 else 2, tag := p.tag, launch := (s.coreOf k).launch, core := k, unit := 7
    src1 := (s.coreOf k).lcore * 65536, synd := 0xFFFFFFFF
    addr := 3 * 0x100000000000000 + (if ok then 0 else 23) * 0x1000000000000 + 0xFF00000000 + p.pos.packed
    val0 := n * 0x100000000 + crc32c first, val1 := n * 0x100000000 + crc32c data
    val2 := n * 0x100000000 + crc32c third }

/-- The destination of a chunk: its endpoint and the place of each element. -/
def State.chunkDst (s : State) (k : Nat) (p : CopyProg) (n : Nat) : Option (EndP × List (Nat × Place)) :=
  if p.desc.dk = 3 then some (⟨false, none, 0, [], none⟩, (s.coreOf k).ringPlaces p n)
  else (s.copyDst k p).bind fun e => (s.chunkPlaces k e p (p.opc = 0xF6) n).map fun ps => (e, ps)

/-- The message of a group of elements: after the scratchpad flag, element size, combination, region check and virtual device
come index, address and physical address of each element. -/
def State.groupMsg (s : State) (k : Nat) (p : CopyProg) (kind rank : Nat) (e : EndP) (es : List (Nat × Nat × Nat)) : Msg :=
  let c := s.coreOf k
  { Msg.of kind (rankOfCore k) rank p.tag c.launch with
    slc := c.lcore, dlc := e.sp.getD 0, addr := (es.headD (0, 0, 0)).2.1
    op := if kind = 19 then 0x100 else p.opc
    args := [e.sp.isSome.toNat, p.desc.size, p.mode, 1, (s.farCtx (sidOf k 7)).vdev] ++ es.flatMap fun (i, va, pa) => [i, va, pa] }

/-- The elements that a group message carries. -/
def triples : List Nat → List (Nat × Nat × Nat)
  | a :: b :: c :: t => (a, b, c) :: triples t
  | _ => []
def Msg.elems (m : Msg) : List (Nat × Nat × Nat) := triples (m.args.drop 5)

/-- The bytes of element `i` of a chunk. -/
def chunkElem (data : List Byte) (size i : Nat) : List Byte := (data.drop (size * i)).take size

/-- The opcode of a chunk message that only poisons its elements (R411). -/
def poisonOp : Nat := 0x101

/-- A chunk becomes poisoned where it was written (R411): here, or by messages. -/
def State.poisonChunk (s : State) (k : Nat) (p : CopyProg) (n : Nat) : State := match s.chunkDst k p n with
  | none => s
  | some (e, ps) =>
    let near := ps.filter fun (_, pl) => (s.placeRank k true pl).isNone
    (s.placeGroups k true ps).foldl (fun t (r, es) => t.send { t.groupMsg k p 9 r e es with op := poisonOp })
      (near.foldl (fun t (_, pl) => t.poisonPlace k p.desc.size pl) s)

/-- The bytes of a chunk with the errors that strike it: copy 0 on its way, copies 1 and 2 as it is read back the first and the second
time (log 12). -/
def struckChunk (us : List Upset) (copy : Nat) (data : List Byte) : List Byte :=
  List.zipWith (· ^^^ ·) data (bytesOfVec data.length
    ((us.filter fun u => u.site = .chunk && u.copy = copy).foldl (fun (v : VReg) u => v ^^^ u.flip) 0))

/-- A chunk leaves the outstanding ones. -/
def CopyProg.settle (p : CopyProg) (n : Nat) (done : Bool) : CopyProg :=
  { p with pending := p.pending.erase n, performed := if !done || p.performed.contains n then p.performed else p.performed ++ [n] }

/-- The copy of a chunk faults. -/
def State.chunkFault (s : State) (k id n cause val : Nat) : State :=
  (s.modCore k fun c => c.modCopy id fun q => q.settle n false).copyFault k id cause val

/-- A chunk has performed. Under dual it is read back and its CRC verified (R360): where it differs the chunk is written again, which a
second reading verifies; one that differs again leaves the chunk poisoned and the copy faults (R411). -/
def State.chunkDone (s : State) (k id n : Nat) (data : List Byte) : State :=
  match (s.coreOf k).copies.find? (·.id = id) with
  | none => s
  | some p =>
    let all := (s.strmOf (sidOf k 7)).upsets
    let us := all.filter fun u => u.site = .chunk && u.copy != 0
    let first := struckChunk us 1 data
    let third := struckChunk us 2 data
    let s0 := if p.prot = 0 || us.isEmpty then s
      else s.modStrm (sidOf k 7) fun x => { x with upsets := all.filter fun u => !(us.contains u) }
    let differs := p.prot != 0 && !us.isEmpty && crc32c first != crc32c data
    let ok := !differs || crc32c third = crc32c data
    let (s1, seq) := if differs then s0.chunkRecord k p n ok first data third else (s0, 0)
    if !ok then (s1.poisonChunk k p n).chunkFault k id n 23 seq
    else s1.modCore k fun c =>
      let d := c.modCopy id fun q => q.settle n true
      match d.copies.find? (·.id = id) with
      | some q => d.finishSlots q
      | none => d

/-- The chunk's CRC-32C is verified where it is written (R358): a failure writes the chunk poisoned, with a record. -/
def State.chunkCheck (s : State) (k : Nat) (p : CopyProg) (data : List Byte) (poison : Bool) : State × List Byte × Bool :=
  let us := (s.strmOf (sidOf k 7)).upsets
  let got := struckChunk us 0 data
  let s1 := if us.isEmpty then s
    else s.modStrm (sidOf k 7) fun x => { x with upsets := us.filter fun u => !(u.site = .chunk && u.copy = 0) }
  if got = data then (s1, data, poison)
  else (s1.sherd (rankOfCore k) { kind := 0x12, tag := p.tag, launch := (s.coreOf k).launch, core := k, unit := 7 }, got, true)

/-- The data of a chunk is there: elements that this package reaches are written, and the others go as chunk messages. The first write of
a replayable launch to a page takes a saggar page (R383). -/
def State.chunkWrite (s : State) (k id n : Nat) (read : List Byte) (marked : Bool) : State :=
  match (s.coreOf k).copies.find? (·.id = id) with
  | none => s
  | some p =>
    let d := p.desc
    match s.chunkDst k p n with
    | none => s.chunkFault k id n 16 0
    | some (e, ps) =>
      let (t, data, poison) := s.chunkCheck k p read marked
      let vas := ps.filterMap fun (_, pl) => match pl with
        | .far va => some va
        | _ => none
      match vas.foldl (fun (u : Option State) va => u.bind fun v => v.saggarTake (v.coreOf k).launch va) (some t) with
      | none => t.chunkFault k id n 21 (vas.headD 0)
      | some s0 =>
        let near := ps.filter fun (_, pl) => (s0.placeRank k true pl).isNone
        let (s1, fl, bad) := near.foldl (fun (t, fl, bad) (i, pl) =>
          match t.writePlace k p.tseq p.opc p.mode d.size pl (chunkElem data d.size i) poison with
          | some (u, f) => (u, fl ||| f, bad)
          | none => (t, fl, true)) (s0.chunkCount (rankOfCore k) ((s0.nearHbm k near).map (·.addr)), 0, false)
        if bad then s1.purge (s.coreOf k).launch p.tag 25 (rankOfCore k)
        else
          let groups := s1.placeGroups k true ps
          let s2 := s1.modCore k fun c => c.modCopy id fun q => { q with flags := q.flags ||| BitVec.ofNat 32 fl }
          let s3 := groups.foldl (fun t (r, es) =>
            let m := { t.groupMsg k p 9 r e es with data := es.flatMap (fun (i, _, _) => chunkElem data d.size i), poison := poison }
            (t.requestBy (sidOf k 7) (.chunk id n) m [] p.prot false).1) s2
          if groups.isEmpty then s3.chunkDone k id n data else s3

/-- Room among the sequenced requests to each rank of a chunk (R454). -/
def State.groupRoom (s : State) (k : Nat) (gs : List (Nat × List (Nat × Nat × Nat))) : Bool :=
  gs.all fun (r, _) => s.seqRoom (rankOfCore k) r 1

/-- Issue one chunk: its source is read, here or by load requests. -/
def State.chunkRead (s : State) (k : Nat) (p : CopyProg) (n : Nat) : State :=
  let id := p.id
  let d := p.desc
  let begun := s.modCore k fun c => c.modCopy id fun q => { q with issued := n + 1, pending := q.pending ++ [n] }
  let count := (d.chunkElems n).length
  if p.opc = 0xF7 then begun.chunkWrite k id n ((List.replicate count (leBytes d.size p.gval)).flatten) false
  else match s.copySrc k p with
    | none => begun.chunkFault k id n 16 0
    | some e => match s.chunkPlaces k e p (p.opc = 0xF5) n with
      | none => begun.chunkFault k id n 16 0
      | some ps =>
        let groups := s.placeGroups k false ps
        let near := ps.filter fun (_, pl) => (s.placeRank k false pl).isNone
        let rs := near.map fun (i, pl) => (i, s.readPlace k p.tseq d.size pl)
        let bad := rs.any fun (_, r) => r.2
        let met := (begun.nearFill k near).chunkCount (rankOfCore k) ((s.nearHbm k near).map (·.addr))
        if groups.isEmpty then met.chunkWrite k id n (rs.flatMap fun (_, r) => r.1) bad
        else if !(s.groupRoom k groups) then s
        else
          let main := met.sys.reqId
          let data := rs.foldl (fun m (i, r) => Memory.writeBytes (d.size * i) r.1 m) []
          let r : Req := ⟨main, sidOf k 7, .chunkRead id n, none, s.sys.dc, 0, false, [], data, bad, [], p.prot, p.tseq, false⟩
          let t := { met with sys := { met.sys with reqs := met.sys.reqs ++ [r], reqId := main + 1 } }
          groups.foldl (fun u (q, es) => (u.requestBy (sidOf k 7) (.part main 0) (u.groupMsg k p 19 q e es) [] p.prot false).1) t

/-- The next chunk of a copy that is neither performed nor outstanding. -/
def CopyProg.nextChunk (p : CopyProg) : Option Nat :=
  if p.opc = 0xF9 then none
  else (List.range p.desc.chunks).find? fun n => p.issued ≤ n && !(p.performed.contains n) && !(p.pending.contains n)

/-- A chunk whose read data has all arrived and that waits to be written. -/
def State.readyChunk (s : State) (k id : Nat) : Option (Req × Nat) := s.sys.reqs.findSome? fun r =>
  if coreOfSid r.sid = k && r.ready then match r.wait with
    | .chunkRead c n => if c = id then some (r, n) else none
    | _ => none
  else none

/-- The copy engine of a core may issue chunks: it does not while the core stops for a save (R420). -/
def State.mayCopy (s : State) (k : Nat) : Bool := (s.strmOf (sidOf k 7)).run != .saved && !(s.coreOf k).parking

/-- COPY_CHUNK_ISSUE: a chunk whose source has been read is written, or the next chunk of a copy is read, where places are free.
A speculative task's chunk waits for room in the commit buffer (R379). -/
def execCopyChunkIssue (core copy : Nat) (s : State) : Out :=
  let c := s.coreOf core
  match c.copies.find? (·.id = copy) with
  | none => .next s
  | some p =>
    let spec := match c.slotOfSeq p.tseq with
      | some (_, e) => e.spec
      | none => false
    let room := !spec || c.commitUsed + 512 ≤ 65536
    if p.fault.isSome || !room then .next s
    else match s.readyChunk core copy with
      | some (r, n) =>
        let size := p.desc.size * (p.desc.chunkElems n).length
        .next ((s.dropReq r.id).chunkWrite core copy n (Memory.readBytes r.data 0 size) r.poison)
      | none => match p.nextChunk with
        | some n => if s.mayCopy core && c.chunksOut < 256 then .next (s.chunkRead core p n) else .next s
        | none => .next s

/-! ## Completion (R355, R356) -/

/-- A landing word is set or added to, and becomes full. -/
def Core.landWord (c : Core) (a value : Nat) (add : Bool) : Core :=
  let old := if add then Memory.readNat c.loc a 4 else 0
  let d := c.writeLocal a (leBytes 4 ((old + value) % 0x100000000))
  { d with feEmpty := SMap.set false (a / 4) false d.feEmpty }

/-- Every data write of a copy has performed. -/
def CopyProg.dataDone (p : CopyProg) : Bool :=
  p.opc = 0xF9 || (List.range p.desc.chunks).all fun n => p.performed.contains n

/-- The landing update of a copy: logical core (none: this one), offset, value, whether it adds. -/
def CopyProg.landing (p : CopyProg) (own : Nat) : Nat × Nat × Nat × Bool :=
  if p.opc = 0xF9 then (p.alist / 0x1000000000000, p.alist % 0x100000000, p.gval, p.mode = 1)
  else
    let d := p.desc
    (if d.dk = 2 then d.dorg / 0x1000000000000 else own, d.loff, d.lval, d.lmode = 1)

/-- The tag is set and the copy leaves the engine (R356). -/
def State.copyEnd (s : State) (k : Nat) (p : CopyProg) : State :=
  let s1 := s.modCore k fun c => { c with
    copies := c.copies.filter (·.id != p.id)
    tagSet := match p.ct with
      | some t => c.tagSet ||| (1 : BitVec 64) <<< t
      | none => c.tagSet }
  s1.taskFlags (sidOf k 7) p.tseq p.flags

/-- COPY_COMPLETE: once its chunks have performed, a copy's landing word is updated, and once that is acknowledged its tag is
set. A CLAND waits for the data of every earlier copy, and a speculative task's copy for its branch. -/
def execCopyComplete (core copy : Nat) (s : State) : Out :=
  let c := s.coreOf core
  match c.copies.find? (·.id = copy) with
  | none => .next s
  | some p =>
    let spec := match c.slotOfSeq p.tseq with
      | some (_, e) => e.spec
      | none => false
    let earlier := p.opc = 0xF9 && c.copies.any fun q => q.id < p.id && !q.dataDone
    let sent := s.sys.reqs.any fun r => coreOfSid r.sid = core && r.wait = .copyLand copy
    if p.fault.isSome || spec || !p.dataDone || earlier || sent then .next s
    else if !p.land_ || p.landed then .next (s.copyEnd core p)
    else
      let (lc, off, value, add) := p.landing c.lcore
      if lc = c.lcore then
        .next ((s.modCore core fun d => (d.landWord off value add).modCopy copy fun q => { q with landed := true }).copyEnd core p)
      else match (s.launchOf c.launch).bind fun l => l.lcoreRank lc with
        | none => .next (s.copyFault core copy 24 0)
        | some r =>
          if !(s.seqRoom (rankOfCore core) r 1) then .next s
          else
            let m := { Msg.of 10 (rankOfCore core) r p.tag c.launch with
              slc := c.lcore, dlc := lc, addr := off, op := add.toNat, args := [value] }
            .next (s.requestBy (sidOf core 7) (.copyLand copy) m [] p.prot false).1

end Sys2Proof.Machine
end

