-- ==== Sys2Proof/Machine/Bisque.lean ====
section
/-! DEFINITION. The bisque image as bytes (18 R431 to R437, R524): its sections, their layout, the section table, the header with its
CRC, and the save of a section through the save-translation table (R425). Where the spec gives the order of fields but not their
widths, they follow each other little-endian in the widths of their registers (log 11). -/

namespace Sys2Proof.Machine

/-! ## Sparse bytes -/

def pad64 (n : Nat) : Nat := (n + 63) / 64 * 64

/-- A number of bytes, of which those that are not zero are listed. -/
abbrev Blob := Nat × Memory

def blobOf (bs : List Byte) : Blob := (bs.length, Memory.writeBytes 0 bs [])
def blobShift (n : Nat) (m : Memory) : Memory := m.map fun (a, b) => (a + n, b)

def blobCat : List Blob → Blob
  | [] => (0, [])
  | (n, m) :: t => let r := blobCat t
    (n + r.1, m ++ blobShift n r.2)

/-- Fill with zeros to a size, and to a multiple of 64. -/
def blobTo (size : Nat) (b : Blob) : Blob := (size, b.2.filter fun (a, _) => a < size)
def blobPad (b : Blob) : Blob := (pad64 b.1, b.2)

/-- The bytes of a memory from an address on. -/
def memPart (m : Memory) (lo n : Nat) : Memory := (m.filter fun (a, _) => lo ≤ a && a < lo + n).map fun (a, b) => (a - lo, b)

/-- Fields that follow each other: the width in bytes and the value of each. -/
def fieldBytes (fs : List (Nat × Nat)) : List Byte := fs.flatMap fun (n, v) => leBytes n v

/-- Entries of a fixed size in a table, by their number. -/
def tableBlob (size n : Nat) (es : List (Nat × List Byte)) : Blob :=
  (size * n, (es.filter fun (i, _) => i < n).foldl (fun m (i, bs) => Memory.writeBytes (size * i) (bs.take size) m) [])

/-- Bits as bytes, the first in bit 0. -/
def bitBytes (bs : List Bool) : List Byte :=
  (List.range ((bs.length + 7) / 8)).map fun j =>
    BitVec.ofNat 8 (((bs.drop (8 * j)).take 8).foldr (fun b n => b.toNat + 2 * n) 0)

/-! ## Stream records (R435) -/

/-- The kind and number of a register in a landing entry; a CSR or a loop level has none. -/
def Dst.code : Dst → Option (Nat × Nat)
  | .g n => some (0, n)
  | .v n => some (1, n)
  | .a n => some (2, n)
  | .p n => some (3, n)
  | .m n => some (4, n)
  | .b n => some (5, n)
  | _ => none

def Mark.byte : Mark → Nat
  | .none => 0
  | .deferred c _ => c
  | .poison => 25

def RCopy.bytes (c : RCopy) : List Byte := bytesOfVec 128 c.val ++ fieldBytes [(2, c.flags.toNat), (1, c.mark.byte), (5, 0)]

/-- A landing entry: 440 bytes. -/
def Flight.entry (f : Flight) (kind reg order : Nat) : List Byte :=
  let c := f.copies.headD RCopy.off
  let written := fun (i : Nat) => c.bits.toNat / 2 ^ (32 * i) % 0x100000000 != 0
  let valued := fun (i : Nat) => written i && (!f.vec || c.gmask.getLsbD i)
  let copies := f.copies.take 3
  fieldBytes [(1, kind), (1, reg), (1, f.k), (1, copies.length), (4, order)] ++ bitBytes ((List.range 32).map valued) ++
    bitBytes ((List.range 32).map fun i => written i && !(valued i)) ++
    bitBytes ((List.range 128).map fun j => valued (j / 4) && c.bits.toNat / 2 ^ (8 * j) % 256 != 0) ++
    (copies ++ List.replicate (3 - copies.length) RCopy.off).flatMap RCopy.bytes

def QEntry.bytes (e : QEntry) : List Byte :=
  bytesOfVec 128 (e.data.getD 0) ++ leBytes 4 (1 + (if e.data.isSome then 2 else 0) + 256 * e.mark.byte)

def Loop.bytes (l : Loop) : List Byte :=
  fieldBytes [(4, l.active.toNat), (4, l.count.toNat), (4, l.first.packed), (4, l.last.packed)] ++
    (List.range 16).flatMap fun j => leBytes 4 (SMap.get 0 j l.delta).toNat

/-- The landing entries of a stopped stream. -/
def Stream.lqueue (x : Stream) : List (Flight × Nat × Nat) := x.flight.filterMap fun f => f.dst.code.map fun c => (f, c)

/-- The size of a stream record with `n` v registers and `lqn` landing entries. -/
def streamSize (n lqn : Nat) : Nat := 64 + 264 + (256 + 8 + 32 + 32) + 128 * n + 3 * 80 + 8 * 8 * 132 + 440 * lqn

/-- A stream record; `n` is the number of v registers. -/
def Stream.record (x : Stream) (n : Nat) : Blob :=
  let lq := x.lqueue
  blobTo (pad64 (streamSize n lq.length)) (blobCat [
    blobTo 64 (blobOf (fieldBytes [(1, x.unit), (1, x.slot), (1, x.handler.toNat), (1, x.sysf.toNat), (4, x.pos.packed), (4, x.tcause.toNat),
      (4, x.tpc.toNat), (8, x.tval.toNat), (4, x.tinfo.toNat), (4, x.fcsr.toNat), (4, x.icnt.toNat), (4, x.pctl.toNat), (2, x.tagr.toNat),
      (2, lq.length)])),
    tableBlob 4 64 (x.g.map fun (i, w) => (i, leBytes 4 w.toNat)),
    blobOf (bitBytes ((List.range 64).map fun i => SMap.get .none i x.gMark != .none)),
    tableBlob 8 32 (x.a.map fun (i, w) => (i, leBytes 8 w.toNat)),
    tableBlob 1 8 (x.p.map fun (i, b) => (i, leBytes 1 b.toNat)),
    tableBlob 4 8 (x.m.map fun (i, w) => (i, leBytes 4 w.toNat)),
    tableBlob 4 8 (x.b.map fun (i, b) => (i, leBytes 4 b.target.packed)),
    tableBlob 128 n (x.v.map fun (i, w) => (i, bytesOfVec 128 w)),
    blobOf ([0, 1, 2].flatMap fun i => (SMap.get Loop.idle i x.lc).bytes),
    tableBlob 1056 8 (x.q.map fun (i, es) => (i, (es.filter fun e => !e.spec).flatMap QEntry.bytes)),
    blobOf (lq.zipIdx.flatMap fun ((f, kind, reg), i) => f.entry kind reg i)])

/-! ## Core context sections (R433, R434, R436) -/

/-- A Kiln entry: 128 bytes, its record with SPEC = 0. -/
def KEntry.bytes (e : KEntry) : List Byte :=
  let w0 := (e.words.getD 0 0) &&& ~~~0x800
  (w0 :: e.words.drop 1).flatMap (fun w => leBytes 4 w.toNat) ++ leBytes 4 e.seq ++
    fieldBytes [(1, e.state.code), (1, e.prio), (2, e.passes), (1, natSum (e.vers.zipIdx.map fun (v, i) => v % 4 * 4 ^ i)), (1, e.waitOk.toNat),
      (22, 0)] ++ bitBytes ((List.range 256).map e.edges.contains)

/-- A frame: its descriptor, the current version and the defined flag. -/
def Frame.bytes (f : Frame) : List Byte := (f.words.flatMap fun w => leBytes 4 w.toNat) ++ fieldBytes [(4, f.cur), (4, 1)]

/-- A ring: the descriptor of R320, then the flag of RINIT. -/
def Ring.bytes (r : Ring) : List Byte :=
  fieldBytes [(4, r.base), (2, r.slotsz), (2, r.nslot), (1, r.ccnt % max r.nslot 1), (1, r.pcnt % max r.nslot 1), (2, r.fill), (4, r.pcnt),
    (4, r.ccnt), (4, 0), (4, r.init.toNat)]

/-- A queued iteration. -/
def Iter.bytes (it : Iter) : List Byte :=
  (it.idx.flatMap fun w => leBytes 4 w.toNat) ++ fieldBytes [(8, it.ord), (2, it.tag), (4, it.nest)]

/-- A copy progress record: syllable, task slot, chunk count, descriptor, operands, and a bit for each chunk that has performed. -/
def copySize (chunks : Nat) : Nat := pad64 (8 + 4 + 4 + 64 + 8 + 8 + (chunks + 7) / 8)
def CopyProg.record (p : CopyProg) : Blob :=
  let n := p.desc.chunks
  blobTo (copySize n) (blobOf (fieldBytes [(8, p.syl), (4, p.tslot), (4, n)] ++ (p.words.flatMap fun w => leBytes 4 w.toNat) ++
    fieldBytes [(8, p.gval), (8, p.alist)] ++ bitBytes ((List.range n).map p.performed.contains)))

/-- The units of a core whose streams a section holds. -/
def savedUnits (streams : List (Nat × Stream)) : List (Nat × Stream) := streams.filter fun (_, x) => x.run != .off

/-- A core context section at its largest (R433, R524). -/
def coreSectionSize (pool : Word) : Nat :=
  64 + 64 + 1024 + 64 * 64 + 8 * 32 + 256 * 128 + 2 * 64 + 8 * pad64 (streamSize (poolN pool) 32) + 16 * copySize 65536 +
    pad64 (winSize pool + winSize pool / 32) + poolT pool * 65536

/-- The context section of a logical core of a logical die. -/
def coreSection (c : Core) (die : Nat) (streams : List (Nat × Stream)) : Blob :=
  let us := savedUnits streams
  let w := winSize c.pool
  blobCat ([
    blobTo 64 (blobOf (fieldBytes [(2, c.lcore), (2, die), (4, natSum (us.map fun (u, _) => 2 ^ u)),
      (4, natSum ((List.range 4).map fun i => SMap.get 0 i c.kmodes * 256 ^ i)), (4, c.kseq), (4, c.engfl.toNat), (8, c.tags.toNat),
      (4, (c.copies.filter fun p => p.land_ && !p.landed).length)])),
    tableBlob 4 16 (c.notify.map fun (i, x) => (i, leBytes 4 x.toNat)),
    tableBlob 4 256 (c.cones.map fun (i, x) => (i, leBytes 4 x.toNat)),
    tableBlob 64 64 (c.frames.filterMap fun (i, f) => f.map fun x => (i, x.bytes)),
    tableBlob 32 8 (c.rings.map fun (i, r) => (i, r.bytes)),
    tableBlob 128 256 (c.window.filterMap fun (i, e) => e.map fun x => (i, x.bytes)),
    tableBlob 64 2 (c.iterQ.zipIdx.map fun (x, i) => (i, x.bytes))] ++ us.map (fun (_, x) => x.record (poolN c.pool)) ++
    c.copies.map CopyProg.record ++ [
    blobPad (blobCat [(w, memPart c.loc 0 w), blobOf (bitBytes ((List.range (w / 4)).map fun i => !(SMap.get false i c.feEmpty)))]),
    (poolT c.pool * 65536, memPart c.loc tileBase (poolT c.pool * 65536))])

/-! ## The other sections (R437) -/

/-- The header of a message record, and the record with its payload. -/
def Msg.header (m : Msg) (held : Bool) : List Byte :=
  fieldBytes [(1, m.kind), (1, m.poison.toNat + 2 * held.toNat), (2, m.tag), (4, m.slc), (4, m.dlc), (8, m.addr), (4, match m.seq with
    | some (n, _, _) => n
    | none => 0), (4, m.data.length), (4, m.op), (4, m.status), (4, m.cause)]
def Msg.record (m : Msg) (held : Bool) : Blob := blobCat [blobTo 64 (blobOf (m.header held)), blobPad (blobOf m.data)]

/-- The in-flight section of a die: the BWAITs that its banks held, then the messages that it has held back since it received the
freeze (R428). -/
def inflightSection (held late : List Msg) : Blob := blobCat (held.map (·.record true) ++ late.map (·.record false))

/-- The die section of a logical die: the Wheel's part, then for each other die of the launch the sequence number towards it and the
replay window of its requests. -/
def dieSection (l : Launch) (rank : Nat) (d : Die) : Blob :=
  let range := fun (r : NestRun) => SMap.get (0, 0) rank r.ranges
  let wheel := match l.run with
    | some r => fieldBytes [(4, l.nestIdx), (8, (range r).1), (8, (range r).2), (4, (SMap.get [] rank r.fwd).length)] ++
      (SMap.get [] rank r.fwd).flatMap (leBytes 8)
    | none => fieldBytes [(4, l.nestIdx), (8, 0), (8, 0), (4, 0)]
  let nests := leBytes 4 l.nests.length ++ l.nests.flatMap fun n =>
    (n.words.flatMap fun w => leBytes 4 w.toNat) ++ leBytes 8 n.param.toNat ++ leBytes 8 n.base.toNat
  let pair := fun (r : Nat) => match optGet r d.windows with
    | some w => blobCat [blobTo 64 (blobOf (fieldBytes [(4, SMap.get 0 r d.seqs), (4, w.next), (4, w.sinc)])),
        tableBlob 64 64 (w.replies.zipIdx.map fun ((n, m), i) => (i, leBytes 4 n ++ m.header false))]
    | none => blobTo 4160 (blobOf (leBytes 4 (SMap.get 0 r d.seqs)))
  blobCat (blobTo 4096 (blobOf (wheel ++ nests)) :: (l.ranks.filter (· != rank)).map pair)

/-- The launch-tables section: request-tag policy, purge filter and purge list, then the launch's region entries. -/
def launchTables (l : Launch) (entries : List (BitVec 128)) : Blob :=
  let tags := (l.filters.flatMap Prod.snd).eraseDups
  blobPad (blobCat [blobTo 256 (blobOf (fieldBytes [(4, l.tpol), (4, tags.length), (4, l.purgeList.length)] ++ (tags ++ l.purgeList).flatMap
    (leBytes 2))), blobOf (entries.flatMap fun e => leBytes 16 e.toNat)])

/-! ## Layout of an image (R431 to R437, R524) -/

/-- A section: type, owner, bytes. -/
structure Sect where
  typ : Nat
  owner : Nat
  size : Nat
deriving DecidableEq, Repr

/-- The region entries of a launch: those that name it, and those of its virtual device with LAUNCH = 0 (R249). -/
def State.regionsOf (s : State) (pkg vdev id : Nat) : List (Nat × Region) :=
  ((s.pkgOf pkg).regions.map fun (i, e) => (i, Region.of e)).filter fun (_, r) => r.valid && r.vdev = vdev && (r.launch = id || r.launch = 0)

/-- The regions that a launch owns on a package, in the order of the table (R426, R437). -/
def State.ownedRegions (s : State) (l : Launch) (id : Nat) : List Region :=
  ((s.regionsOf l.pkg l.vdev id).map Prod.snd).filter fun r => r.state = 1

/-- The region entries whose LAUNCH is a launch's identifier (R437, R438). -/
def State.launchRegions (s : State) (l : Launch) (id : Nat) : List (BitVec 128) :=
  ((s.pkgOf l.pkg).regions.filter fun (_, e) => (Region.of e).valid && (Region.of e).vdev = l.vdev && (Region.of e).launch = id).map Prod.snd

/-- A region's part of the dirty-page section. -/
def regionDirtySize (r : Region) : Nat := pad64 (8 + (2 ^ (r.lsz - 16) + 7) / 8)

/-- The logical dies of a launch on its package, and its logical cores there. -/
def Launch.myDies (l : Launch) : List Nat := (l.ranks.zipIdx.filter fun (r, _) => r / 4 = l.pkg).map Prod.snd
def Launch.myCores (l : Launch) : List Nat := (List.range l.ncores).filter fun c => (l.lcoreRank c).any fun r => r / 4 = l.pkg

/-- The sections of the largest image that a launch can produce on its package, in table order. -/
def State.sections (s : State) (l : Launch) (id : Nat) : List Sect :=
  let others := l.ranks.length - 1
  (l.myCores.map fun c => ⟨1, c, coreSectionSize l.pool⟩) ++ (l.myDies.map fun d => ⟨2, d, 4096 + 4160 * others⟩) ++
    (l.myDies.map fun d => ⟨3, d, 576 * (128 * others + 256 * l.myCores.length)⟩) ++
    [⟨4, 0, natSum ((s.ownedRegions l id).map regionDirtySize)⟩,
      ⟨5, 0, pad64 (256 + 16 * ((s.pkgOf l.pkg).regions.filter fun (_, e) => (Region.of e).valid && (Region.of e).vdev = l.vdev).length)⟩]

/-- The offset of each section, and the end of the last one. -/
def sectOffsets : List Sect → Nat → List (Sect × Nat) × Nat
  | [], o => ([], o)
  | x :: xs, o => let (t, n) := sectOffsets xs (o + pad64 x.size)
    ((x, o) :: t, n)

def layout (xs : List Sect) : List (Sect × Nat) × Nat := sectOffsets xs (pad64 (256 + 16 * xs.length))

/-- The section table (R432). -/
def sectTable (xs : List (Sect × Nat)) : List Byte := xs.flatMap fun (x, o) =>
  leBytes 2 x.typ ++ leBytes 2 x.owner ++ leBytes 4 (pad64 x.size / 64) ++ leBytes 8 o

/-- The header of an image (R431). -/
def Launch.header (l : Launch) (id nsec length crc gen : Nat) (freeze : Bool) : List Byte :=
  leBytes 4 0x51534942 ++ leBytes 2 1 ++ leBytes 2 (l.repl.toNat + 2 * freeze.toNat) ++ leBytes 4 id ++ leBytes 4 l.pool.toNat ++
    leBytes 2 l.myCores.length ++ leBytes 2 l.myDies.length ++ leBytes 4 nsec ++ leBytes 4 crc ++ leBytes 4 gen ++ leBytes 4 l.prio ++
    leBytes 4 (l.myDies.headD 0) ++ leBytes 8 length ++ leBytes 16 0 ++
    (List.range 16).flatMap (fun n => leBytes 8 (SMap.get 0 n l.lb).toNat) ++ leBytes 64 0

/-! ## Dirty-page sections (R426, R437, R509) -/

/-- Bits of pages, the first in bit 0, as bytes. -/
def pageBits (dirty : SMap Bool) (first n : Nat) : List Byte :=
  leBytes ((n + 7) / 8) (natSum ((dirty.filter fun (p, b) => b && first ≤ p && p < first + n).map fun (p, _) => 2 ^ (p - first)))

def padBytes (bs : List Byte) : List Byte := bs ++ List.replicate (pad64 bs.length - bs.length) 0

/-- The dirty-page section of a launch. -/
def State.launchDirty (s : State) (l : Launch) (id : Nat) : List Byte := (s.ownedRegions l id).flatMap fun r =>
  padBytes (leBytes 8 (r.base + r.lsz * 1024) ++ pageBits l.dirty (r.base / 0x10000) (2 ^ (r.lsz - 16)))

/-- The ranges of adjacent pages in an ascending list: first page and number. -/
def pageRanges : List Nat → List (Nat × Nat)
  | [] => []
  | p :: ps => match pageRanges ps with
    | (q, n) :: rest => if q = p + 1 then (p, n + 1) :: rest else (p, 1) :: (q, n) :: rest
    | [] => [(p, 1)]

def State.deviceRanges (s : State) (pkg vdev : Nat) : List (Nat × Nat) := pageRanges ((s.mappedPages pkg vdev).map fun (va, _) => va / 0x10000)

/-- The dirty-page section of a virtual device. -/
def State.deviceDirty (s : State) (pkg vdev : Nat) (bits : SMap Bool) : List Byte := (s.deviceRanges pkg vdev).flatMap fun (p, n) =>
  padBytes (leBytes 8 (p * 0x10000) ++ leBytes 8 n ++ pageBits bits p n)

/-! ## The CRC (R431) -/

/-- The CRC register after `n` bytes from an address on. -/
def crcCells : Nat → Nat → Memory → Nat → Nat
  | 0, _, _, c => c
  | n + 1, a, [], c => crcCells n (a + 1) [] (crcByte c 0)
  | n + 1, a, (k, b) :: t, c => if k = a then crcCells n (a + 1) t (crcByte c b) else crcCells n (a + 1) ((k, b) :: t) (crcByte c 0)

/-- CRC-32C over blobs, in order. -/
def crcBlobs (bs : List Blob) : Nat := (bs.foldl (fun c (n, m) => crcCells n 0 m c) 0xFFFFFFFF) ^^^ 0xFFFFFFFF

/-! ## Save areas (R425) -/

/-- Replace bytes of HBM. -/
def State.hbmReplace (s : State) (a n : Nat) (m : Memory) : State :=
  (joinBytes (blobShift a m)).foldl (fun t (b, bs) => t.hbmWrite b bs)
    { s with sys := { s.sys with hbm := s.sys.hbm.filter fun (b, _) => b < a || a + n ≤ b } }

/-- Write bytes of an area through its save translations. -/
def State.areaWrite (s : State) (a : Area) (off : Nat) (b : Blob) : State :=
  (pagesOf 0 off b.1).foldl (fun t (_, p) =>
    let lo := max off p
    let hi := min (off + b.1) (p + 0x10000)
    match SMap.get 0 (a.base / 0x10000 + p / 0x10000) a.trans with
    | 0 => t
    | phys => t.hbmReplace (phys + lo % 0x10000) (hi - lo) (memPart b.2 (lo - off) (hi - lo))) s

/-- The bytes of a virtual range, none where a page of it is not mapped. -/
def State.vaPart (s : State) (pkg vdev va n : Nat) : Option Memory :=
  (pagesOf vdev va n).foldl (fun o (_, p) => match o, s.walkVa pkg vdev p with
    | some m, some t =>
      let lo := max va p
      some (m ++ blobShift (lo - va) (memPart s.sys.hbm (t.phys + lo % 0x10000) (min (va + n) (p + 0x10000) - lo)))
    | _, _ => none) (some [])

/-- The logical die of a logical core. -/
def Launch.ldieOfCore (l : Launch) (lc : Nat) : Nat := ((lcoreDie l.cores lc 0 0).map Prod.fst).getD 0

/-- Save the context section of a core at its place in an area (R421). -/
def State.saveSection (s : State) (a : Area) (l : Launch) (lk : Nat) (c : Core) (streams : List (Nat × Stream)) : State :=
  match (layout (s.sections l (launchId lk))).1.find? fun (x, _) => x.typ = 1 && x.owner = c.lcore with
  | some (_, o) => s.areaWrite a o (coreSection c (l.ldieOfCore c.lcore) streams)
  | none => s

end Sys2Proof.Machine
end

