-- ==== Sys2Proof/Machine/EvKiln.lean ====
section
/-! DEFINITION. The hardware steps of the Kiln and the Wheel (07 R169 to R199): release and retirement of tasks, KILN_DEADLOCK,
the start of iterations and nest records, placement, stealing, and the completion of a launch. -/

namespace Sys2Proof.Machine

/-! ## Release (R177, R184, R189 to R191) -/

/-- The streams that run a class of tasks, by record kind. -/
def kindUnits : Nat → List Nat
  | 0 => [0, 1, 2, 3]
  | 1 => [5]
  | 2 => [6]
  | _ => [7]

/-- The order of release: higher effective priority first, then earlier entry. -/
def KEntry.before (x y : KEntry) : Bool := y.prio < x.prio || (x.prio = y.prio && x.age < y.age)

/-- The first of a list of candidates in the order of release. -/
def firstEntry : List (Nat × KEntry) → Option (Nat × KEntry)
  | [] => none
  | x :: xs => match firstEntry xs with
    | some y => if y.2.before x.2 then some y else some x
    | none => some x

/-- The entries of a kind that can be released: those that are Ready. -/
def State.releasable (s : State) (k kind : Nat) : List (Nat × KEntry) := (s.coreOf k).entries.filter fun (_, e) =>
  e.state = .ready && recKind e.words = kind

/-- An entry that its class passes over (R190). -/
def KEntry.pass (e : KEntry) : KEntry :=
  if e.passes + 1 = 1024 then { e with passes := 0, prio := min 127 (e.prio + 1) } else { e with passes := e.passes + 1 }

/-- A stream as a released task finds it (R177). Its first bundle may issue in the arithmetic clock of its release, unless the unit's last
task ended in it. -/
def Stream.taskStart (x : Stream) (e : KEntry) (slot rm : Nat) : Stream :=
  let params := (List.range 4).map fun i => (i, e.words.getD (4 + i) 0)
  let more := if x.unit < 4 then [(5, BitVec.ofNat 32 e.tag), (6, BitVec.ofNat 32 x.unit)] else []
  let gs := params ++ (4, BitVec.ofNat 32 slot) :: more
  { x with
    run := .running, pos := ⟨(e.words.getD 1 0).toNat % 0x10000000, 0⟩
    g := gs.foldl (fun m (n, v) => SMap.set 0 n v m) x.g
    gMark := gs.foldl (fun m (n, _) => SMap.set .none n .none m) x.gMark
    fcsr := BitVec.ofNat 32 rm, icnt := 0, tagr := BitVec.ofNat 16 e.tag, slot := slot, q := [], lc := [], flight := []
    landing := [], predictor := [], fresh := false, endWait := false, stall := 0, hold := 0, handler := false, lost := []
    rbar := .none, vamo := none, sysf := false, first := 0, tied := false, trapDue := none, latch := Latch.clear }

/-- Release an entry to a unit: the entry that ran there before keeps the flags of its stream, and the pages that the task may
write are dirty (R426). -/
def State.startTask (s : State) (k slot u : Nat) (e : KEntry) : State :=
  let c := s.coreOf k
  let x := s.strmOf (sidOf k u)
  let old := s.taskSeq (sidOf k u)
  let keep : Nat → KEntry → KEntry := fun n y =>
    if n != slot && u ≥ 5 && y.seq = old && y.state = .draining then { y with flags := y.flags ||| x.fcsr } else y
  let win : SMap (Option KEntry) := c.window.map fun (n, o) => (n, o.map (keep n))
  let c1 := { c with window := win }
  let vdev := (s.farCtx (sidOf k u)).vdev
  let s1 := (s.putCore k (c1.setEntry slot (some { e with state := .running, unit := some u }))).putStrm (sidOf k u)
    (x.taskStart e slot (SMap.get 0 (recKind e.words) c.kmodes))
  (e.writePages c vdev).foldl (fun t (v, a) => (t.markDirty c.launch a).markDevDirty (pkgOfCore k) v a) s1

/-- A class releases at most one task in an arithmetic clock. -/
def State.releaseClass (s : State) (k kind : Nat) : State :=
  let ac := (s.coreOf k).ac
  if optGet kind (s.coreOf k).relAc = some ac then s else
  match firstEntry (s.releasable k kind), (kindUnits kind).find? fun u => (s.strmOf (sidOf k u)).run = .off with
  | some (slot, e), some u =>
    let s1 := (s.releasable k kind).foldl (fun t (n, y) =>
      if n = slot then t else t.modCore k fun c => c.setEntry n (some y.pass)) s
    (s1.modCore k fun c => { c with relAc := SMap.set none kind (some ac) c.relAc }).startTask k slot u e
  | _, _ => s

/-- Whether a launch runs on its cores: it is not frozen, and the die has not received a freeze (R417, R427; for the stages of a
freeze see `Launch.stage`). -/
def State.launchRuns (s : State) (lk rank : Nat) : Bool := match s.launchOf lk with
  | some l => l.phase = .running && SMap.get 0 rank l.freezing % 4 < 2
  | none => false

/-- TASK_RELEASE: each class of a core releases its first Ready task to a free unit. A core that yields releases nothing
(R418). -/
def execTaskRelease (core : Nat) (s : State) : Out :=
  let c := s.coreOf core
  .next (if c.yreq || c.parking || !(s.launchRuns c.launch (rankOfCore core)) then s
    else [0, 1, 2, 3].foldl (fun t kind => t.releaseClass core kind) s)

/-! ## Retirement (R176, R185, R225, R270) -/

/-- Whether the work of a task has all performed: its accesses, its copies and its engine's writes (R270). -/
def State.taskQuiet (s : State) (k seq : Nat) : Bool :=
  !(s.sys.reqs.any fun r => coreOfSid r.sid = k && r.own = seq) &&
  (s.coreOf k).copies.all (·.tseq != seq) &&
  (s.coreOf k).deferred.all (·.owner != some seq) &&
  [5, 6].all fun u =>
    let e := (s.strmOf (sidOf k u)).eng
    e.writes.all (·.own != seq) && e.rows.all fun r => match r with
      | .store _ _ _ o | .load _ _ _ _ o | .flags _ _ o | .slot _ _ _ o => o != seq

/-- The sticky flags of a matrix, transpose or copy task in ENGFL's places (R225). -/
def engflBits (unit : Nat) (fl : Word) : Word :=
  let f : Nat := fl.toNat / 16 % 64
  BitVec.ofNat 32 (f * (if unit = 5 then 1 else if unit = 6 then 0x100 else 0x10000))

/-- What retirement of an entry leaves on its engine: flags in ENGFL, tiles no longer busy. -/
def State.retireEngine (s : State) (k : Nat) (e : KEntry) : State := match e.unit with
  | some u =>
    if u < 5 then s
    else
      let x := s.strmOf (sidOf k u)
      let fl := e.flags ||| if s.taskSeq (sidOf k u) = e.seq then x.fcsr else 0
      (s.modCore k fun c => { c with engfl := c.engfl ||| engflBits u fl }).putStrm (sidOf k u)
        { x with eng := { x.eng with tiles := x.eng.tiles.filter (·.2 != e.seq) } }
  | none => s

/-- TASK_RETIRE: a Draining entry whose work has performed, or a Ready entry of kind 4 to 6, retires. A speculative entry of those
kinds drains until its branch resolves (R184). -/
def execTaskRetire (core slot : Nat) (s : State) : Out :=
  match (s.coreOf core).entry slot with
  | none => .next s
  | some e =>
    let kind := recKind e.words
    if e.state = .ready && kind ≥ 4 && e.spec then
      .next (s.modCore core fun c => c.setEntry slot (some { e with state := .draining }))
    else if (e.state = .ready && kind ≥ 4) || (e.state = .draining && !e.spec && s.taskQuiet core e.seq) then
      let s1 := s.retireEngine core e
      let s2 := if kind = 4 then s1.modCore core fun c =>
          { c with kmodes := SMap.set 0 ((e.words.getD 4 0).toNat % 4) ((e.words.getD 5 0).toNat % 8) c.kmodes }
        else s1
      .next (s2.retire core slot)
    else .next s

/-! ## KILN_DEADLOCK (R188) -/

/-- Whether every entry waits for a cone, itself or through an edge. -/
def Core.deadlocked (c : Core) : Bool :=
  let blocked := fun (e : KEntry) => !e.waitOk || e.edges.any fun n => match c.entry n with
    | some x => !x.waitOk
    | none => false
  c.entries.all fun (_, e) => e.state = .waiting && blocked e

def isPost : Instr → Bool
  | .post _ _ => true
  | _ => false

/-- Whether a message is an inbound post, a cone signal or a landing for a core. -/
def Msg.inboundTo (m : Msg) (c : Core) (rank : Nat) : Bool :=
  (m.kind = 5 || m.kind = 7 || m.kind = 9 || m.kind = 10) && m.dst = rank && m.dlc = c.lcore && launchId m.launch = launchId c.launch

/-- The conditions of KILN_DEADLOCK on a core. -/
def State.kilnStuck (s : State) (k : Nat) : Bool :=
  let c := s.coreOf k
  let x := s.strmOf (sidOf k 4)
  let posts := match s.bundleOf (sidOf k 4) with
    | some (a, b) => isPost a || b.any isPost
    | none => false
  x.run = .running && x.latch.wait && posts && (c.localEntries ≥ 224 || c.freeSlot.isNone) && c.deadlocked && c.inbound.isEmpty &&
    s.sys.msgs.all fun m => !(m.inboundTo c (rankOfCore k))

/-- KILN_DEADLOCK: it is raised once when its conditions have held for 65,536 die cycles. `deadlock` is the die cycle of their
onset plus one; a raised one is not raised again until they have been broken. -/
def execKilnDeadlock (core : Nat) (s : State) : Out :=
  let c := s.coreOf core
  if !(s.kilnStuck core) then .next (if c.deadlock = 0 then s else s.putCore core { c with deadlock := 0 })
  else if c.deadlock = 0 then .next (s.putCore core { c with deadlock := s.sys.dc + 1 })
  else if s.sys.dc + 1 < c.deadlock + 0x10000 then .next s
  else .next ((s.putCore core { c with deadlock := 2 ^ 128 }).fwQueue core ⟨4, 27, false, 0, (s.strmOf (sidOf core 4)).pos.packed, 0, none⟩)

/-! ## Iterations (R172, R196) -/

/-- A program context as an iteration finds it. -/
def Stream.iterStart (x : Stream) (it : Iter) (lcore : Nat) (lb : SMap Addr) (ac : Nat) : Stream :=
  let gs := (it.idx.zipIdx.map fun (v, n) => (n, v)) ++ [(4, BitVec.ofNat 32 it.ord), (5, BitVec.ofNat 32 lcore)]
  { x with
    run := .running, pos := ⟨it.entry, 0⟩
    g := gs.foldl (fun m (n, v) => SMap.set 0 n v m) x.g
    gMark := gs.foldl (fun m (n, _) => SMap.set .none n .none m) x.gMark
    a := (List.range 16).foldl (fun m n => SMap.set 0 (n + 16) (SMap.get 0 n lb) m) (SMap.set 0 0 it.param x.a)
    lc := [], tagr := BitVec.ofNat 16 it.tag, ordinal := BitVec.ofNat 48 it.ord, acAt := some ac }

/-- ITERATION_START: the queue head of a core whose program context holds no iteration starts. -/
def execIterationStart (core : Nat) (s : State) : Out :=
  let c := s.coreOf core
  match c.iterQ, s.launchOf c.launch with
  | it :: rest, some l =>
    if c.iter.isSome || (s.strmOf (sidOf core 4)).run != .off || c.yreq || c.parking || !(s.launchRuns c.launch (rankOfCore core)) then .next s
    else .next ((s.putCore core { c with iter := some it, iterQ := rest }).modStrm (sidOf core 4) fun x =>
      x.iterStart it c.lcore l.lb c.ac)
  | _, _ => .next s

/-! ## Nest records (R169, R195 to R197) -/

/-- The loops of a record: first index and count, loop 0 first. -/
def nestLoops (ws : List Word) : List (Int × Nat) := (List.range (wordAt ws 0 % 4 + 1)).map fun d =>
  (sextNat 32 (wordAt ws (2 + 2 * d)), wordAt ws (3 + 2 * d))

/-- The number of iterations of a record. -/
def nestCount (ws : List Word) : Nat := (nestLoops ws).foldl (fun n (_, c) => n * c) 1

/-- The offsets of an ordinal in each loop, the last loop fastest. -/
def ordOffsets : List Nat → Nat → List Nat
  | [], _ => []
  | _ :: cs, n => let inner := cs.foldl (· * ·) 1
    (if inner = 0 then 0 else n / inner) :: ordOffsets cs (if inner = 0 then 0 else n % inner)

/-- The indices of an ordinal. -/
def nestIdx (ws : List Word) (ord : Nat) : List Int :=
  List.zipWith (fun (p : Int × Nat) (i : Nat) => p.1 + i) (nestLoops ws) (ordOffsets ((nestLoops ws).map Prod.snd) ord)

/-- The request tag of an iteration (R196). -/
def State.nestTag (s : State) (l : Launch) (n : Nest) (ord : Nat) : Nat :=
  if wordAt n.words 0 / 16 % 4 = 0 then wordAt n.words 10 % 65536
  else
    let i0 := (ordOffsets ((nestLoops n.words).map Prod.snd) ord).headD 0
    natOfBytes ((s.vaBytes l.pkg l.vdev (n.param.toNat + wordAt n.words 11 + 2 * i0) 2).getD [])

/-- The affinity address of an iteration, where it has one (R196). -/
def nestAffinity (n : Nest) (ord : Nat) : Option Nat :=
  if wordAt n.words 0 / 4 % 4 = 0 then none
  else
    let strides := [wordAt n.words 14, wordAt n.words 14 / 65536, wordAt n.words 15, wordAt n.words 15 / 65536].map (sextNat 16)
    some (wrap 56 ((n.base.toNat : Int) + (List.zipWith (· * ·) strides (nestIdx n.words ord)).foldl (· + ·) 0 * 65536))

/-- The contiguous range of the `i`-th of `d` dies among `n` ordinals (R197). -/
def dieRange (n d i : Nat) : Nat × Nat :=
  let size := fun j => n / d + if j < n % d then 1 else 0
  let lo := natSum ((List.range i).map size)
  (lo, lo + size i)

/-- Whether a part of a launch has no iteration left to hand out or to end. -/
def Launch.recordDone (l : Launch) : Bool := match l.run with
  | some r => r.ranges.all (fun (_, (lo, hi)) => hi ≤ lo) && r.fwd.all (fun (_, f) => f.isEmpty) && r.inFlight = 0
  | none => true

/-- Whether a part of a launch has finished the record with which another part is done too, or has gone past it. -/
def Launch.readyFor (p : Launch) (n : Nat) : Bool := n < p.nestIdx || (p.nestIdx = n && p.recordDone)

/-- A part of a launch begins its next record: its Wheels have their ranges. -/
def Launch.nextRecord (l : Launch) : Launch := match l.nests with
  | [] => l
  | n :: rest =>
    let mine := l.ranks.zipIdx.filter fun (r, _) => r / 4 = l.pkg
    let ranges := mine.foldl (fun m (r, i) => SMap.set (0, 0) r (dieRange (nestCount n.words) l.ranks.length i) m) []
    { l with nests := rest, nestIdx := l.nestIdx + 1, run := some ⟨n, ranges, [], 0, []⟩ }

/-- The tag table of a record is unpinned once its last iteration has been handed out (R196). -/
def State.handedOut (s : State) (lk : Nat) : State := match s.launchOf lk with
  | some l => match l.run with
    | some r => if r.ranges.all (fun (_, (lo, hi)) => hi ≤ lo) && r.fwd.all (fun (_, f) => f.isEmpty) then
        (s.unpinAll l.pkg r.nest.tab).putLaunch lk (some { l with run := some { r with nest := { r.nest with tab := [] } } })
      else s
    | none => s
  | none => s

/-- NEST_RECORD_START: once every iteration of a record has ended on every package, the Wheels begin the next record. -/
def execNestRecordStart (launch : Nat) (s : State) : Out :=
  .next (match s.launchOf launch with
    | some l =>
      if l.phase = .running && l.recordDone && !l.nests.isEmpty && l.bare.isNone &&
          (s.launchParts launch).all fun j => (s.launchOf j).all fun p => p.readyFor l.nestIdx
      then (s.putLaunch launch (some l.nextRecord)).handedOut launch else s
    | none => s)

/-! ## Placement (R197, R198) -/

/-- The resident logical cores of a launch on a die, with their physical cores. -/
def Launch.onDie (l : Launch) (rank : Nat) : List (Nat × Nat) := l.residents.filter fun (_, k) => rankOfCore k = rank

/-- An idle core: no iteration and an empty queue. -/
def Core.idleIter (c : Core) : Bool := c.iter.isNone && c.iterQ.isEmpty

/-- The owner of an affinity address: a logical core of the launch on this package, or none. -/
def State.affOwner (s : State) (lk : Nat) (l : Launch) (a : Nat) : Option (Nat × Nat × Region) :=
  match s.regionMatch l.pkg l.vdev (launchId lk) a with
  | [(i, r)] => if r.state = 1 && (l.coreAt lk r.owner).isSome then some (r.owner, i, r) else none
  | _ => none

/-- The die of a logical core of a launch. -/
def Launch.dieOfCore (l : Launch) (lc : Nat) : Nat := (l.lcoreRank lc).getD 0

/-- The die to which a Wheel forwards an iteration (R197). -/
def State.forwardTo (s : State) (lk : Nat) (l : Launch) (rank a : Nat) : Option Nat :=
  let to_ := match s.affOwner lk l a with
    | some (o, _, _) => some (l.dieOfCore o)
    | none => (s.walkVa l.pkg l.vdev a).map fun t => physRank t.phys
  match to_ with
  | some r => if r != rank && r / 4 = l.pkg && l.ranks.contains r then some r else none
  | none => none

/-- An unretired task of a core whose frame hull meets a region. -/
def Core.taskMeets (c : Core) (r : Region) : Bool := c.entries.any fun (_, e) => e.bound.any fun b =>
  let f := c.frameD b.ref.frame
  f.space = 1 && rangesMeet (f.hull c) (r.base, r.base + 2 ^ r.lsz)

/-- Where an iteration goes: a core, with the region to be transferred, or nowhere yet. -/
inductive Placing where
  | waits
  | on (k : Nat) (move : Option (Nat × Nat × Nat × Region))
deriving DecidableEq, Repr

/-- The rules of placement on a die. A core with a yield request gets no iteration (R417): an iteration whose owner has one waits
(log 103). -/
def State.placeOn (s : State) (lk : Nat) (l : Launch) (rank : Nat) (a : Option Nat) : Placing :=
  let idle := fun (p : Nat × Nat) => (s.coreOf p.2).idleIter && !(s.coreOf p.2).yreq
  match a.bind fun x => s.affOwner lk l x with
  | none => match (l.onDie rank).find? idle with
    | some (_, k) => .on k none
    | none => .waits
  | some (o, i, r) =>
    match optGet o l.maps with
    | none => .waits
    | some ok =>
      if (optGet o l.parked).isSome || (s.coreOf ok).yreq then .waits
      else if (s.coreOf ok).iterQ.length < 2 then .on ok none
      else
        let near := (l.onDie rank).filter fun (_, k) => coreInDie k / 8 = coreInDie ok / 8
        match (near ++ l.onDie rank).find? idle with
        | none => .waits
        | some (c, k) =>
          if (s.coreOf ok).taskMeets r || !(s.regionQuiet ok l.vdev r) then .waits
          else .on k (some (ok, c, i, r))

/-- Transfer a region from a core to another, as XFER does (R302). -/
def State.moveRegion (s : State) (lk : Nat) (l : Launch) (k : Nat) (mv : Nat × Nat × Nat × Region) : State :=
  let (ok, c, i, r) := mv
  let x : FarCtx := ⟨ok, l.pkg, l.vdev, lk, (s.coreOf ok).lcore, false, true, false⟩
  ((s.flushVirtual [ok] x r.base (2 ^ r.lsz) false).flushVirtual [k] x r.base (2 ^ r.lsz) true).putRegion l.pkg i { r with owner := c }

/-- A Wheel takes its next iteration: the ordinal, whether it was forwarded, and the run without it. -/
def NestRun.next (r : NestRun) (rank : Nat) : Option (Nat × Bool × NestRun) :=
  match SMap.get [] rank r.fwd with
  | o :: os => some (o, true, { r with fwd := SMap.set [] rank os r.fwd })
  | [] =>
    let (lo, hi) := SMap.get (0, 0) rank r.ranges
    if lo < hi then some (lo, false, { r with ranges := SMap.set (0, 0) rank (if lo + 1 = hi then (0, 0) else (lo + 1, hi)) r.ranges })
    else none

/-- A Wheel passes over the iterations whose tag has been purged (R380). -/
def NestRun.skip (gone : Nat → Bool) (die : Nat) : Nat → NestRun → NestRun
  | 0, r => r
  | n + 1, r => match r.next die with
    | some (ord, _, r1) => if gone ord then NestRun.skip gone die n r1 else r
    | none => r

/-- The record of an affinity address that several region entries match (R198): it is written when the iteration is forwarded and when
it is placed, and not while it waits (log 104). -/
def State.affRecord (s : State) (lk : Nat) (l : Launch) (die tag : Nat) (aff : Option Nat) : State := match aff with
  | some a => if (s.regionMatch l.pkg l.vdev (launchId lk) a).length > 1 then
      s.sherd die { kind := 0x1B, tag := tag, launch := lk, core := die * 64, unit := 12, addr := a } else s
  | none => s

/-- WHEEL_PLACE: a die's Wheel hands out its next iteration of a launch, forwards it, or waits; it hands out at most one iteration in an
arithmetic clock, over all launches (R197). An iteration of a purged tag is dropped. A forwarded iteration is placed where it has
arrived, wherever its owner or home is by then (log 104). -/
def execWheelPlace (die launch : Nat) (s : State) : Out :=
  match s.launchOf launch with
  | none => .next s
  | some l => match l.run with
    | none => .next s
    | some r =>
      let d0 := s.dieOf die
      if !(s.launchRuns launch die) || d0.handed = d0.acs + 1 then .next s
      else
        let (lo, hi) := SMap.get (0, 0) die r.ranges
        let gone := fun ord => let tag := s.nestTag l r.nest ord
          tag != 0 && (s.filtered launch tag || r.gone.contains tag)
        let r0 := r.skip gone die ((SMap.get [] die r.fwd).length + hi - lo)
        let put := fun (t : State) (y : NestRun) => t.modLaunch launch fun z => { z with run := some y }
        let hand := fun (t : State) => t.modDie die fun d => { d with handed := d.acs + 1 }
        match r0.next die with
        | none => .next ((put s r0).handedOut launch)
        | some (ord, came, r1) =>
          let tag := s.nestTag l r.nest ord
          let aff := nestAffinity r.nest ord
          match if came then none else aff.bind fun a => s.forwardTo launch l die a with
          | some d => .next (hand (put (s.affRecord launch l die tag aff) { r1 with fwd := SMap.set [] d (SMap.get [] d r1.fwd ++ [ord]) r1.fwd }))
          | none => match s.placeOn launch l die aff with
            | .waits => .next (put s r0)
            | .on k mv =>
              let idx := (nestIdx r.nest.words ord).map fun i => BitVec.ofInt 32 i
              let it : Iter := ⟨idx ++ List.replicate (4 - idx.length) 0, ord, tag, wordAt r.nest.words 1 % 0x10000000, r.nest.param, l.nestIdx⟩
              let s1 := s.affRecord launch l die tag aff
              let s2 := match mv with
                | some m => s1.moveRegion launch l k m
                | none => s1
              .next (hand (((put s2 { r1 with inFlight := r1.inFlight + 1 }).modCore k fun c =>
                { c with iterQ := c.iterQ ++ [it] }).handedOut launch))

/-- The Wheel of a package with the longest remaining range, the lowest die among equals. -/
def NestRun.victim (r : NestRun) (die : Nat) : Option (Nat × Nat × Nat) :=
  (r.ranges.filter fun (d, (lo, hi)) => d != die && lo + 2 ≤ hi).foldl (fun (b : Option (Nat × Nat × Nat)) (d, (lo, hi)) =>
    match b with
    | some (_, l, h) => if h - l < hi - lo then some (d, lo, hi) else b
    | none => some (d, lo, hi)) none

/-- WHEEL_STEAL: an idle Wheel takes the upper half of another Wheel's remaining range (R199). -/
def execWheelSteal (die launch : Nat) (s : State) : Out :=
  match s.launchOf launch with
  | none => .next s
  | some l => match l.run with
    | none => .next s
    | some r =>
      let (lo, hi) := SMap.get (0, 0) die r.ranges
      if lo < hi || !(SMap.get [] die r.fwd).isEmpty || !(l.ranks.contains die) || die / 4 != l.pkg || !(s.launchRuns launch die) then .next s
      else match r.victim die with
        | none => .next s
        | some (d, a, b) =>
          let m := (b - a) / 2
          .next (s.modLaunch launch fun z => { z with run := some { r with
            ranges := SMap.set (0, 0) die (b - m, b) (SMap.set (0, 0) d (a, b - m) r.ranges) } })

/-! ## The end of a launch (R169) -/

/-- Whether a core has nothing left of its launch: an empty window and nothing outstanding. -/
def State.coreDone (s : State) (k : Nat) : Bool :=
  let c := s.coreOf k
  c.entries.isEmpty && c.iter.isNone && c.iterQ.isEmpty && c.copies.isEmpty && c.inbound.isEmpty && c.deferred.isEmpty &&
    !(s.sys.reqs.any fun r => coreOfSid r.sid = k && unitOfSid r.sid != 8)

/-- LAUNCH_COMPLETE: the last record is done and every core of the launch has finished: caches are written back and the completion
record is produced. -/
def execLaunchComplete (launch : Nat) (s : State) : Out :=
  let parts := s.launchParts launch
  let done := parts.all fun j => match s.launchOf j with
    | some l => l.phase = .running && l.bare.isNone && l.nests.isEmpty && l.recordDone && (l.allCores j).all s.coreDone
    | none => false
  .next (if done then parts.foldl (fun t j => t.endLaunch j 0 0 0) s else s)

end Sys2Proof.Machine
end

