-- ==== Sys2Proof/Machine/EvFreeze.lean ====
section
/-! DEFINITION. The hardware steps of pre-emption and freeze (18 R417 to R441): the forced save, the parking of a core, the
swap of parked cores, and a die's part of the stop wave. -/

namespace Sys2Proof.Machine

/-! ## Stopping the streams of a core (R418 to R420) -/

/-- An instruction whose wait has already sent its effect: a stream stops only after it completes (R419). -/
def completingWait : Instr → Bool
  | .fence _ _ | .xfer _ _ | .rclaim _ _ | .rshare _ _ | .cwb _ _ | .cinv _ _ | .postx _ _ | .csigR _ _ | .notify _ _ => true
  | _ => false

/-- A system fault that a stream waits for is withdrawn from the firmware context of a core (R419). -/
def Core.withdraw (c : Core) (unit : Nat) : Core :=
  c.forgetEvents fun e => e.unit = unit && e.isFault

/-- Stop a stream where it stands: its results in flight are its landing queue, and its predictor is lost (R23, R116). -/
def Stream.stopForced (x : Stream) : Stream :=
  { x with run := .saved, stall := 0, predictor := [], latch := Latch.clear }

/-- The forced save of one vector or CU program stream, where it can stop now. -/
def State.forceStream (s : State) (k u : Nat) : State :=
  let sid := sidOf k u
  let x := s.strmOf sid
  let tie := x.flight.any (·.prot = 3)
  let completes := x.latch.wait && match s.bundleOf sid with
    | some (a, b) => completingWait a || b.any completingWait
    | none => false
  if x.run = .running && !tie && !completes then
    let s1 := s.putStrm sid x.stopForced
    let s2 := if u = 4 then s1.dropAhead k else s1
    s2.fwQueue k ⟨u, 28, false, 0, x.pos.packed, 0, none⟩
  else if x.run = .faulted && x.sysf then
    (s.putStrm sid { x with run := .saved }).modCore k fun c => c.withdraw u
  else s

/-- FORCED_SAVE: every vector and CU program stream that has not stopped stops at its next bundle boundary, in the clock in
which YREM reaches 0 and in each later one until all have stopped (R419). -/
def execForcedSave (core : Nat) (s : State) : Out :=
  let c := s.coreOf core
  .next (if c.yreq && c.yrem = 0 then (List.range 5).foldl (fun t u => t.forceStream core u) s else s)

/-! ## Sections (R421, R422, R433, R438) -/

/-- The state of a section on a physical core: what belongs to the hardware and to the firmware context is that core's own, no
yield request is pending, the pass count is 0 (R422, R438), and the rotations begin with VP0 (R231, R286). -/
def Core.onHardware (c hw : Core) : Core :=
  { c with
    ac := hw.ac, fwCode := hw.fwCode, fwLen := hw.fwLen, l1 := hw.l1, tlb := hw.tlb, copyId := max c.copyId hw.copyId, passes := 0
    rowOff := hw.rowOff, laneMap := hw.laneMap, bankMap := hw.bankMap, bankLast := [], waitnLast := [], buckets := hw.buckets, marked := hw.marked
    yreq := false, yrem := 0, fshare := hw.fshare, fwUsed := hw.fwUsed, cuAc := hw.cuAc, fwst := hw.fwst
    fwShadow := hw.fwShadow, fwDue := hw.fwDue, fwBundles := hw.fwBundles, fwRecord := hw.fwRecord, fwOldRev := hw.fwOldRev
    fwOldCode := hw.fwOldCode, fwOldLen := hw.fwOldLen, fwPd := hw.fwPd, sysQ := hw.sysQ, sysCur := hw.sysCur
    sysOver := hw.sysOver, relAc := hw.relAc, fwWin := hw.fwWin, parking := false }

/-- A stream in a section: it no longer counts arithmetic clocks, and data that has arrived can be popped. -/
def Stream.save (x : Stream) : Stream :=
  { x with
    acAt := none, predictor := []
    q := x.q.map fun (n, es) => (n, es.map fun (e : QEntry) => { e with readyAt := 0 }) }

/-- A stream that is resident again: it issues its stopping bundle, or waits for the firmware to decide its fault (R419). -/
def Stream.wake (x : Stream) : Stream := match x.run with
  | .saved | .yielded => { x with run := if x.sysf then .faulted else .running }
  | _ => x

/-- The updates and sends of a core that wait for earlier accesses follow its streams to another key. -/
def Deferred.rekey (k j : Nat) (d : Deferred) : Deferred :=
  let to_ := fun sid => if coreOfSid sid = k then sidOf j (unitOfSid sid) else sid
  match d with
  | .cone w u _ t o => .cone w u 0 t o
  | .csigR x w a b c t o => .csigR (to_ x) w a b c t o
  | .postx x w a b c t o ws => .postx (to_ x) w a b c t o ws
  | .notify x w a b c t o => .notify (to_ x) w a b c t o
  | .tags m => .tags m
  | .kmode a b => .kmode a b

/-- The requests of a core's streams follow them to another key. -/
def State.rekey (s : State) (k j : Nat) : State :=
  let move : Req → Req := fun r =>
    if coreOfSid r.sid = k && unitOfSid r.sid != 8 then { r with sid := sidOf j (unitOfSid r.sid) } else r
  ({ s with sys := { s.sys with reqs := s.sys.reqs.map move } }).modCore j fun c => { c with deferred := c.deferred.map (Deferred.rekey k j) }

/-- Whether every page of a save area has its saved translation (R425, R430). -/
def Area.sound (a : Area) : Bool :=
  (List.range (a.length / 0x10000)).all fun i => SMap.get 0 (a.base / 0x10000 + i) a.trans != 0

/-- A save that cannot be written (R430): the record, the event, and the end of the launch. -/
def State.unsaveable (s : State) (lk k : Nat) : State :=
  let r := rankOfCore k
  ((s.sherd r { kind := 0x1C, launch := lk, core := k, synd := 32 }).fwQueue k ⟨8, 32, false, 0, 0, 0, none⟩).teardown lk 32 r

/-- A core writes its section: the logical core is parked and the physical core is free (R421). The cores of a launch that was resumed
and not armed again swap into the image that it was resumed from (R438, R440, log 21). -/
def State.parkCore (s : State) (k : Nat) : State :=
  let lk := (s.coreOf k).launch
  match s.launchOf lk with
  | none => s
  | some l =>
    if l.area.any fun a => !a.sound then s.unsaveable lk k
    else
      let sf := ([0, 1, 2, 3].foldl (fun t u => t.vamoRest (sidOf k u) 16) s).flushCore k
      let c := sf.coreOf k
      let s0 := match l.area with
        | some b => sf.saveSection b l lk c ((List.range 8).map fun u => (u, sf.strmOf (sidOf k u)))
        | none => sf
      let j := parkKey lk c.lcore (rankOfCore k)
      let hw := (Core.reset.onHardware c).forgetEvents SysEvent.isFault
      let s1 := (List.range 8).foldl (fun t u =>
        (t.putStrm (sidOf j u) (t.strmOf (sidOf k u)).save).modStrm (sidOf k u) fun x =>
          { Stream.reset u x.cls with upsets := x.upsets }) s0
      (((s1.putCore j (c.onHardware Core.reset)).putCore k hw).rekey k j).putLaunch lk (some { l with
        parked := SMap.set none c.lcore (some (rankOfCore k, s.sys.dc)) l.parked })

/-- The faults that wait in a restored core go to the firmware again (R419, R330). -/
def State.redeliver (s : State) (k : Nat) : State :=
  let s1 := (List.range 8).foldl (fun t u =>
    let x := t.strmOf (sidOf k u)
    if x.run = .faulted && x.sysf then
      let info := x.tinfo.toNat / 0x2000 % 16 * 0x2000
      t.fwQueue k (if x.handler then ⟨u, 29, false, x.first, x.pos.packed, info, none⟩
        else ⟨u, x.tcause.toNat % 0x10000, bit x.tcause.toNat 16, x.tval.toNat, x.pos.packed, info, none⟩)
    else t) s
  (s1.coreOf k).copies.foldl (fun t p => match p.fault with
    | some (c, v) => t.fwQueue k ⟨7, c, false, v, 0, 0x40000 + p.tslot * 0x1000000, some p.id⟩
    | none => t) s1

/-- A parked logical core becomes resident on a free physical core (R438). Its code is the one saved with it: restoring is no launch
change that would have the line store fetched again (R62, log 105). -/
def State.restoreCore (s : State) (lk lc k : Nat) : State :=
  match s.launchOf lk with
  | none => s
  | some l => match optGet lc l.parked with
    | none => s
    | some (r, _) =>
      let j := parkKey lk lc r
      let s1 := (List.range 8).foldl (fun t u =>
        (t.putStrm (sidOf k u) { (t.strmOf (sidOf j u)).wake with upsets := (t.strmOf (sidOf k u)).upsets }).putStrm (sidOf j u)
          (Stream.blank (sidOf j u))) s
      let s2 := ((s1.putCore k ((s1.coreOf j).onHardware (s1.coreOf k))).putCore j Core.reset).rekey j k
      (s2.putLaunch lk (some { l with parked := SMap.set none lc none l.parked, maps := SMap.set none lc (some k) l.maps })).redeliver k

/-- Whether a physical core is free. -/
def State.coreFree (s : State) (k : Nat) : Bool := (s.coreOf k).launch = 0 && bit (s.pkgOf (pkgOfCore k)).working (coreInPkg k)

/-- Every parked logical core of a launch whose physical core is free is restored (R438); none on a die that freezes (R427). -/
def State.restoreFree (s : State) (lk : Nat) : State :=
  match s.launchOf lk with
  | none => s
  | some l => l.maps.foldl (fun t (lc, k) => match k with
    | some x => if (optGet lc l.parked).isSome && t.coreFree x && t.launchRuns lk (rankOfCore x) then t.restoreCore lk lc x else t
    | none => t) s

/-! ## Parking (R420, R421) -/

/-- A stream that has stopped for a save, or has no work. -/
def Stream.stopped (x : Stream) : Bool := match x.run with
  | .off | .saved | .yielded | .failed => true
  | .faulted => !x.sysf
  | _ => false

/-- The matrix, transpose and copy streams stop at their next bundle boundary (R420). -/
def State.stopEngines (s : State) (k : Nat) : State :=
  [5, 6, 7].foldl (fun t u =>
    let x := t.strmOf (sidOf k u)
    if x.run = .running then t.putStrm (sidOf k u) x.stopForced
    else if x.run = .faulted && x.sysf then (t.putStrm (sidOf k u) { x with run := .saved }).modCore k fun c => c.withdraw u
    else t) s

/-- The engines have come to rest: every tile write, row and pop has passed its offset, and every chunk that the engine has issued
has performed. In a freeze a chunk may stay outstanding with a message, whose answer the cut records (R420, R428). -/
def State.enginesDone (s : State) (k : Nat) (freeze : Bool) : Bool :=
  ([5, 6].all fun u =>
    let e := (s.strmOf (sidOf k u)).eng
    e.writes.isEmpty && e.rows.isEmpty && e.pops.isEmpty) &&
  (s.coreOf k).copies.all fun p => p.pending.all fun n => freeze && s.sys.reqs.any fun r =>
    coreOfSid r.sid = k && !r.ready && (r.wait = .chunk p.id n || r.wait = .chunkRead p.id n)

/-! ## The stop wave (R427, R428)

The part of a die in a freeze is a number: the stage in bits 1:0 (1 the freeze has been sent, 2 received, 3 complete), the
dimensions whose markers it has sent in bits 17:2, and those whose markers it holds above. -/

def Launch.stage (l : Launch) (rank : Nat) : Nat := SMap.get 0 rank l.freezing % 4
def Launch.sentDims (l : Launch) (rank : Nat) : Nat := SMap.get 0 rank l.freezing / 4 % 0x10000
def Launch.heldDims (l : Launch) (rank : Nat) : Nat := SMap.get 0 rank l.freezing / 0x40000
def Launch.setFreeze (l : Launch) (rank stage sent held : Nat) : Launch :=
  { l with freezing := SMap.set 0 rank (stage + 4 * sent + 0x40000 * held) l.freezing }

/-- The dimensions that a launch uses: its ranks differ in them. -/
def usedDims (ranks : List Nat) : List Nat := (List.range 10).filter fun d =>
  ranks.any fun r => bit r d != bit (ranks.headD 0) d

/-- The dies on the paths of a launch's messages: the subcube of its ranks. -/
def freezeRanks (ranks : List Nat) : List Nat :=
  (usedDims ranks).foldl (fun rs d => rs ++ rs.map (· ^^^ 2 ^ d)) [ranks.headD 0]

/-- A cut marker across a dimension (kind 14). -/
def cutMarkerMsg (rank d lk : Nat) : Msg := { Msg.of 14 rank (rank ^^^ 2 ^ d) 0 lk with op := d }

/-- A die goes on with its part of the cut: once its cores have written their sections, it sends the marker of each dimension in
ascending order, after the markers of the lower dimensions have come in; with every marker in, its part is complete. -/
def State.freezeAdvance (s : State) (lk rank : Nat) : State :=
  match s.launchOf lk with
  | none => s
  | some l =>
    let dims := usedDims l.ranks
    let held := l.heldDims rank
    if l.stage rank != 2 || !(l.onDie rank).isEmpty then s
    else
      let send := dims.filter fun d => !(bit (l.sentDims rank) d) && dims.all fun e => d ≤ e || bit held e
      let sent := send.foldl (fun n d => n + 2 ^ d) (l.sentDims rank)
      let stage := if dims.all fun d => bit held d && bit sent d then 3 else 2
      send.foldl (fun t d => t.send (cutMarkerMsg rank d lk)) (s.putLaunch lk (some (l.setFreeze rank stage sent held)))

/-- FREEZE_RECEIVE: a die receives the freeze of a launch: its cores make a forced save at once, and speculative records and the
run-ahead are dropped (R427). -/
def execFreezeReceive (die launch : Nat) (s : State) : Out :=
  match s.launchOf launch with
  | none => .next s
  | some l =>
    if l.stage die != 1 then .next s
    else
      let s1 := s.putLaunch launch (some (l.setFreeze die 2 0 0))
      let s2 := (l.onDie die).foldl (fun t (_, k) =>
        let u := (t.dropAhead k).modCore k fun c => { c with yreq := true, yrem := 0 }
        (List.range 5).foldl (fun v n => v.forceStream k n) u) s1
      .next (s2.freezeAdvance launch die)

/-- CORE_PARK: a core that yields goes on to its save: once its vector and CU program streams have stopped its engines stop, and once
those have come to rest the core writes its section (R420, R421). -/
def execCorePark (core : Nat) (s : State) : Out :=
  let c := s.coreOf core
  let rank := rankOfCore core
  let freeze := (s.launchOf c.launch).any fun l => SMap.get 0 rank l.freezing != 0
  let still := fun (t : State) us => us.all fun u => (t.strmOf (sidOf core u)).stopped
  if !c.yreq || c.launch = 0 || !(still s [0, 1, 2, 3, 4]) then .next s
  else
    let s1 := (s.putCore core { c with parking := true }).stopEngines core
    .next (if still s1 [5, 6, 7] && s1.enginesDone core freeze then (s1.parkCore core).freezeAdvance c.launch rank else s1)

/-! ## Swaps (R440) -/

/-- A blocked core: its program context waits or holds no iteration, and no task is Ready, Running or Draining. -/
def State.coreBlocked (s : State) (k : Nat) : Bool :=
  let c := s.coreOf k
  let x := s.strmOf (sidOf k 4)
  let completes := match s.bundleOf (sidOf k 4) with
    | some (a, b) => completingWait a || b.any completingWait
    | none => false
  (x.run = .off || (x.run = .running && x.latch.wait && !completes && !(x.flight.any (·.prot = 3)))) &&
    c.entries.all fun (_, e) => !(e.state = .ready || e.state = .running || e.state = .draining)

/-- The parked logical core of a die that has been parked longest, the lowest among equals. -/
def Launch.oldestParked (l : Launch) (rank : Nat) : Option Nat :=
  ((l.parked.filterMap fun (lc, x) => x.bind fun (r, t) => if r = rank then some (lc, t) else none).foldl
    (fun (b : Option (Nat × Nat)) (lc, t) => match b with
      | some (_, m) => if t < m then some (lc, t) else b
      | none => some (lc, t)) none).map Prod.fst

/-- CORE_SWAP: a blocked core's section is saved and the parked core that has been parked longest takes its place (R440). A swap
that has begun goes on until the engines have come to rest. -/
def execCoreSwap (core : Nat) (s : State) : Out :=
  let c := s.coreOf core
  let rank := rankOfCore core
  match s.launchOf c.launch with
  | none => .next s
  | some l =>
    match l.oldestParked rank with
    | none => .next s
    | some lc =>
      if c.yreq || !(s.launchRuns c.launch rank) || !(l.parked.any fun (n, x) => n = lc && x.isSome) then .next s
      else if !c.parking && !(s.coreBlocked core) then .next s
      else
        let x := s.strmOf (sidOf core 4)
        let s1 := ((if x.run = .running then (s.putStrm (sidOf core 4) x.stopForced).dropAhead core else s).stopEngines core).modCore core
          fun d => { d with parking := true }
        if s1.enginesDone core false then
          let s2 := s1.parkCore core
          .next ((s2.modLaunch c.launch fun y => { y with maps := SMap.set none c.lcore none y.maps }).restoreCore c.launch lc core)
        else .next s1

/-- CUT_MARKER: the marker of a link arrives behind every message of the launch on that link (R427). -/
def execCutMarker (msg : Nat) (s : State) : Out :=
  match s.sys.msgs[msg]? with
  | none => .next s
  | some m =>
    let lk := launchKey (m.dst / 4) (launchId m.launch)
    let behind := (s.sys.msgs.take msg).any fun n => launchId n.launch = launchId m.launch && n.kind != 14 && n.here = m.here &&
      bit (n.here ^^^ n.dst) m.op && (List.range m.op).all fun e => !(bit (n.here ^^^ n.dst) e)
    match s.launchOf lk with
    | none => .next (if m.kind = 14 then { s with sys := { s.sys with msgs := s.sys.msgs.eraseIdx msg } } else s)
    | some l =>
      if m.kind != 14 || behind || l.stage m.dst < 2 then .next s
      else
        let s1 := { s with sys := { s.sys with msgs := s.sys.msgs.eraseIdx msg } }
        .next ((s1.putLaunch lk (some (l.setFreeze m.dst (l.stage m.dst) (l.sentDims m.dst) (l.heldDims m.dst ||| 2 ^ m.op)))).freezeAdvance
          lk m.dst)

end Sys2Proof.Machine
end

