-- ==== Sys2Proof/Machine/Start.lean ====
section
/-! DEFINITION. How a launch comes to run (22 R488 to R494, 03 R60, R81, 01 R26 to R30, 20 R462 to R464): the checks of a LAUNCH, BARE
or INVOKE packet, the launch that it describes, the wait for its cores, and its start on one package or on several. -/

namespace Sys2Proof.Machine

/-! ## Fields of packets and images (R3) -/

/-- The `n` bytes of a block from an offset on, as a number. -/
def fld (bs : List Byte) (off n : Nat) : Nat := natOfBytes ((bs.drop off).take n)
/-- The `n` words of a block from an offset on. -/
def fldWords (bs : List Byte) (off n : Nat) : List Word := (List.range n).map fun i => BitVec.ofNat 32 (fld bs (off + 4 * i) 4)

/-- The bases lb0 to lb15 at an offset of a packet. -/
def fldBases (bs : List Byte) (off : Nat) : SMap Addr := (List.range 16).foldl (fun m i =>
  SMap.set 0 i (BitVec.ofNat 64 (fld bs (off + 8 * i) 8)) m) []

/-- A refusal record's fields, and the ring and first slot of the packet. -/
structure From where
  ring : Nat
  seq : Nat
deriving DecidableEq, Repr

/-! ## Images (R60, R81) -/

/-- The bytes of an image whose header line R60 accepts and whose pages are all mapped. -/
def State.goodImage (s : State) (pkg vdev image : Nat) : Option (List Byte) := match s.vaBytes pkg vdev image 64 with
  | some h => if fld h 4 4 = 0x4C555952 && fld h 8 2 = 1 then s.vaBytes pkg vdev image (64 * fld h 12 4) else none
  | none => none

def imgLine (img : List Byte) (n : Nat) : List Byte := (img.drop (64 * n)).take 64

/-- The first `n` bytes of a data section whose chain starts at a line: none where the chain ends too soon or leaves class 15. -/
def sectionBytes (img : List Byte) : Nat → Nat → Nat → Option (List Byte)
  | 0, _, _ => none
  | fuel + 1, line, n =>
    let b := imgLine img line
    let link := fld b 0 4
    if n = 0 then some []
    else if b.length < 64 || link / 0x10000000 != 15 then none
    else if n ≤ 60 then some ((b.drop 4).take n)
    else if link % 0x10000000 = 0x0FFFFFFF then none
    else (sectionBytes img fuel (link % 0x10000000) (n - 60)).map ((b.drop 4).take 60 ++ ·)

/-- Every line of a chain from a line on is of class 15. -/
def chainOk (img : List Byte) : Nat → Nat → Bool
  | 0, _ => true
  | fuel + 1, line =>
    let b := imgLine img line
    let link := fld b 0 4
    b.length = 64 && link / 0x10000000 = 15 && (link % 0x10000000 = 0x0FFFFFFF || chainOk img fuel (link % 0x10000000))

/-- The relocation lines of an image from a line on. -/
def relocLines (img : List Byte) : Nat → Nat → Option (List (List Byte))
  | 0, _ => none
  | fuel + 1, line =>
    let b := imgLine img line
    let link := fld b 0 4
    if b.length < 64 || link / 0x10000000 != 15 then none
    else if link % 0x10000000 = 0x0FFFFFFF then some [b]
    else (relocLines img fuel (link % 0x10000000)).map (b :: ·)

/-- The entries of a relocation line: base number, first line, length. -/
def relocEntries (b : List Byte) : List (Nat × Nat × Nat) := ((List.range 7).map fun i =>
  (fld b (4 + 8 * i) 4 / 0x10000000, fld b (4 + 8 * i) 4 % 0x10000000, fld b (8 + 8 * i) 4)).filter (· != (0, 0, 0))

/-- The `.reloc` sections of an image with their base numbers: none where R81 refuses the image. -/
def relocSections (img : List Byte) : Option (List (Nat × List Byte)) :=
  let lines := img.length / 64
  if fld img 44 4 = 0 then some []
  else match relocLines img (lines + 1) (fld img 44 4) with
    | none => none
    | some ls =>
      let es := ls.flatMap relocEntries
      let parts := es.map fun (n, line, len) =>
        if chainOk img (lines + 1) line then (sectionBytes img (len / 60 + 2) line len).map fun bs => (n, bs) else none
      if !(es.map Prod.fst).Nodup || parts.any Option.isNone then none else some (parts.filterMap id)

/-- The first run of `n` adjacent pages in a list of free virtual pages. -/
def freeRun (n : Nat) : List Nat → Option (List Nat)
  | [] => none
  | p :: ps =>
    let want := (List.range n).map fun i => p + 0x10000 * i
    if (p :: ps).take n = want then some want else freeRun n ps

/-- Copy a section into pages of the virtual device: the state and the pages taken, none where too few are free (R81). -/
def State.placeSection (s : State) (pkg vdev : Nat) (bs : List Byte) : Option (State × List Nat) :=
  match freeRun (max 1 ((bs.length + 0xFFFF) / 0x10000)) (s.vdevOf pkg vdev).freeVa with
  | none => none
  | some ps =>
    let s1 := s.modVdev pkg vdev fun v => { v with freeVa := v.freeVa.filter fun p => !(ps.contains p) }
    some (ps.zipIdx.foldl (fun t (p, i) => match t.walkVa pkg vdev p with
      | some w => t.hbmWrite w.phys ((bs.drop (0x10000 * i)).take 0x10000)
      | none => t) s1, ps)

/-- Copy every section of an image and set its launch base. -/
def State.placeAll (pkg vdev : Nat) : List (Nat × List Byte) → State → SMap Addr → List (Nat × Nat) →
    Option (State × SMap Addr × List (Nat × Nat))
  | [], s, lb, got => some (s, lb, got)
  | (n, bs) :: rest, s, lb, got => match s.placeSection pkg vdev bs with
    | none => none
    | some (t, ps) => State.placeAll pkg vdev rest t (SMap.set 0 n (BitVec.ofNat 64 (ps.headD 0)) lb) (got ++ ps.map fun p => (n, p))

/-! ## Cores of a launch (R167, R462) -/

/-- The cores of a package that a mask names, in ascending order. -/
def maskCores (mask : Nat) : List Nat := (List.range 256).filter (bit mask)

/-- The dies that hold cores, with the number of cores. -/
def dieCounts (cs : List Nat) : List (Nat × Nat) := ((List.range 4).map fun d => (d, (cs.filter (· / 64 = d)).length)).filter (·.2 != 0)

/-- The bits that are set in a mask of eight. -/
def maskDims (m : Nat) : List Nat := (List.range 8).filter (bit m)

/-- The package of a logical index, and the logical index of a package. -/
def pkgAt (b m i : Nat) : Nat := b ^^^ natSum ((maskDims m).zipIdx.map fun (d, k) => if bit i k then 2 ^ d else 0)
def pkgIndex (b m p : Nat) : Nat := natSum ((maskDims m).zipIdx.map fun (d, k) => if bit (p ^^^ b) d then 2 ^ k else 0)

/-- A launch before its packet has said anything: no cores, no nests. -/
def Launch.fresh (pkg vdev : Nat) : Launch where
  vdev := vdev
  pkg := pkg
  phase := .waiting
  prio := 0
  pool := 0
  image := 0
  param := 0
  lb := []
  repl := false
  tbrk := false
  tpol := 0
  multi := false
  spanBase := pkg
  dmask := 0
  cores := []
  ranks := []
  maps := []
  nests := []
  nest0 := []
  run := none
  nestIdx := 0
  filters := []
  purgeList := []
  npurge := 0
  purgeOut := []
  replays := 0
  bare := none
  ring := 0
  cookie := 0
  pseq := 0
  slot := none
  lent := []
  pages := []
  relocs := []
  saggar := []
  sagPool := []
  paramCopy := []
  dirty := []
  area := none
  parked := []
  cut := []
  freezing := []
  gen := 0
  arrivals := []
  sentAt := 0
  yieldAsked := []
  goes := false

/-- Give a launch the cores of a list on every package of its span. -/
def Launch.withCores (l : Launch) (cs : List Nat) : Launch :=
  let n := 2 ^ (maskDims l.dmask).length
  let dies := dieCounts cs
  let first := cs.length * pkgIndex l.spanBase l.dmask l.pkg
  { l with
    cores := (List.range n).flatMap fun _ => dies.map Prod.snd
    ranks := (List.range n).flatMap fun i => dies.map fun (d, _) => 4 * pkgAt l.spanBase l.dmask i + d
    maps := cs.zipIdx.map fun (c, i) => (first + i, some (256 * l.pkg + c)) }

/-! ## Nests (R195, R196) -/

/-- The nest records of a block, each with its parameter address and the pages of its tag table. -/
def nestsOf (bs : List Byte) (off n vdev : Nat) (param : Addr) (tag : Option Nat) : List Nest := (List.range n).map fun i =>
  let ws := fldWords bs (off + 64 * i) 16
  let ws1 := match tag with
    | some t => if wordAt ws 0 / 16 % 4 = 0 then ws.set 10 (BitVec.ofNat 32 t) else ws
    | none => ws
  ⟨ws1, param, nestBase ws1 (fun _ => none), nestTab ws1 vdev param⟩

/-- Whether a nest record of a packet must be refused (0x10B). -/
def State.nestRefused (s : State) (pkg : Nat) (n : Nest) : Bool :=
  nestBad n.words || wordAt n.words 0 / 4 % 4 = 2 || n.tab.any fun (v, a) => (s.walkVa pkg v a).isNone

/-! ## The checks (R490, R516) -/

/-- The first refusal among checks in the order of the table. -/
def firstRefusal : List (Bool × Nat) → Option Nat
  | [] => none
  | (bad, st) :: rest => if bad then some st else firstRefusal rest

/-- The checks that every launch passes on a package: service level, pool word, image, cores, nests. -/
def State.launchRefusal (s : State) (l : Launch) (service : Bool) (mask : Nat) : Option Nat :=
  let img := s.goodImage l.pkg l.vdev l.image
  firstRefusal [(!service, 0x109), (!(poolOk l.pool), 0x102), (img.isNone || (img.any fun b => (relocSections b).isNone), 0x103),
    (mask = 0 || mask &&& (s.vdevOf l.pkg l.vdev).cmask != mask, 0x104), (l.nests.any (s.nestRefused l.pkg), 0x10B)]

/-- FORMAT of a LAUNCH packet (R487, R488). -/
def launchFormatBad (bs : List Byte) (pkg : Nat) : Bool :=
  let fl := fld bs 16 4
  let nn := fl / 16 % 16 + 1
  let span := fld bs 48 8
  fld bs 0 4 / 0x1000 != 0 || fl / 0x200 != 0 || nn > 12 || fld bs 0 4 / 256 % 16 + 1 != 4 + nn || span / 0x10000 != 0 ||
    (!(bit fl 8) && span != 0) || (bit fl 8 && (span % 256 != pkg || (maskDims (span / 256)).length > 6))

/-- The launch of a LAUNCH packet on a package of its span. -/
def launchOfPacket (bs : List Byte) (pkg vdev : Nat) (src : From) : Launch :=
  let fl := fld bs 16 4
  let span := fld bs 48 8
  let multi := bit fl 8
  let param : Addr := BitVec.ofNat 64 (fld bs 40 8)
  let nests := nestsOf bs 256 (fl / 16 % 16 + 1) vdev param none
  ({ Launch.fresh pkg vdev with
    prio := fld bs 20 4 % 128, pool := BitVec.ofNat 32 (fld bs 24 4), image := fld bs 32 8, param := param, lb := fldBases bs 128
    repl := bit fl 0, tbrk := bit fl 1, tpol := fl / 4 % 4, multi := multi, spanBase := if multi then span % 256 else pkg
    dmask := if multi then span / 256 % 256 else 0, nests := nests, nest0 := nests, ring := src.ring, cookie := fld bs 8 8
    pseq := src.seq } : Launch).withCores (maskCores (fld bs 64 32))

/-- Whether the service level of a package admits a LAUNCH packet (R516). -/
def State.launchService (s : State) (l : Launch) (mask : Nat) : Bool :=
  let v := (s.pkgOf l.pkg).svcl
  v ≥ 4 || (v = 3 && !l.multi) || (v = 2 && !l.multi && mask < 2 ^ 64)

/-- What a LAUNCH packet asks for, or the status of its refusal. -/
def State.checkLaunch (s : State) (bs : List Byte) (pkg vdev : Nat) (src : From) : Except Nat Launch :=
  let l := launchOfPacket bs pkg vdev src
  let mask := fld bs 64 32
  match s.launchRefusal l (s.launchService l mask) mask with
  | some st => .error st
  | none => .ok l

/-! ## Bare launches (R28, R489) -/

def bareFormatBad (bs : List Byte) : Bool := fld bs 0 4 / 0x100 != 3 || fld bs 32 1 > 3

/-- Whether a scratchpad range leaves the window. -/
def bareWindowBad (bs : List Byte) : Bool :=
  let win := winSize (BitVec.ofNat 32 (fld bs 28 4))
  win < fld bs 76 4 + fld bs 72 4 || win < fld bs 80 4 + fld bs 84 4

/-- The launch of a BARE packet, on a core that is still to be chosen. -/
def bareOfPacket (bs : List Byte) (pkg vdev : Nat) (src : From) : Launch :=
  { Launch.fresh pkg vdev with
    pool := BitVec.ofNat 32 (fld bs 28 4), image := fld bs 16 8, lb := fldBases bs 128
    bare := some ⟨fld bs 32 1, fld bs 34 2, fld bs 80 4, fld bs 84 4, fld bs 88 8⟩, ring := src.ring, cookie := fld bs 8 8, pseq := src.seq }

/-- A virtual device without cores refuses every launch (R475). -/
def State.checkBare (s : State) (bs : List Byte) (pkg vdev : Nat) (src : From) : Except Nat Launch :=
  let l := bareOfPacket bs pkg vdev src
  match s.launchRefusal l ((s.pkgOf pkg).svcl ≥ 2) (s.vdevOf pkg vdev).cmask with
  | some st => .error st
  | none => if bareWindowBad bs then .error 0x10D else .ok l

/-- The task of a BARE packet on its core: the registers of R29, the input image in the window. -/
def State.bareTask (s : State) (bs : List Byte) (k : Nat) (img : List Byte) : State :=
  let part := fld bs 32 1 % 4
  let tag := fld bs 34 2
  let gs := (fldWords bs 40 4).zipIdx.map (fun (w, i) => (i, w)) ++ [(5, BitVec.ofNat 32 tag), (6, BitVec.ofNat 32 part)]
  (s.modCore k fun c => { c with loc := Memory.writeBytes (fld bs 76 4) img c.loc }).modStrm (sidOf k part) fun x => { x with
    run := .running, pos := ⟨fld bs 24 4 % 0x10000000, 0⟩, g := gs.foldl (fun m (i, w) => SMap.set 0 i w m) x.g
    tagr := BitVec.ofNat 16 tag, pctl := 0, acAt := some (s.coreOf k).ac }

/-! ## Resident models (R491 to R494) -/

/-- The slot header line of an image: none where the image names none. -/
def slotHeader (img : List Byte) : Option (List Byte) :=
  let n := fld img 40 4
  if n = 0x0FFFFFFF || img.length < 64 * (n + 1) then none else some (imgLine img n)

/-- The limits that R491 gives the fields of a slot header line. -/
def slotHeaderBad (h : List Byte) : Bool :=
  fld h 0 4 != 0xFFFFFFFF || fld h 4 2 > 16 || fld h 6 1 > 4 || fld h 7 1 = 0 || fld h 7 1 > 12 || fld h 13 1 / 16 != 0 || fld h 14 2 != 0 ||
    fld h 56 8 != 0

/-- The weight regions of a slot header line: base and log size. -/
def weightRegions (h : List Byte) : List (Nat × Nat) := (List.range (min 4 (fld h 6 1))).map fun i =>
  (fld h (24 + 8 * i) 8 / 0x10000 % 0x10000000000 * 0x10000, fld h (24 + 8 * i) 8 % 64)

/-- The region entries of a virtual device with LAUNCH = 0 that equal a range. -/
def State.freeRegions (s : State) (pkg vdev base lsz : Nat) : List (Nat × Region) :=
  ((s.pkgOf pkg).regions.map fun (i, e) => (i, Region.of e)).filter fun (_, r) =>
    r.valid && r.vdev = vdev && r.launch = 0 && r.base = base && r.lsz = lsz

/-- Whether every weight region of a slot matches with STATE 2 (R492, R494). -/
def State.weightsMatch (s : State) (pkg vdev : Nat) (h : List Byte) : Bool := (weightRegions h).all fun (b, z) =>
  (s.freeRegions pkg vdev b z).any fun (_, r) => r.state = 2

/-- The buffers of an INVOKE packet: W, log size, base, owner. -/
def invokeBuffers (bs : List Byte) (n : Nat) : List (Bool × Nat × Nat × Nat) := (List.range n).map fun i =>
  let v := fld bs (64 + 8 * i) 8
  (bit v 63, v / 0x100000000000000 % 64, v / 0x10000 % 0x10000000000 * 0x10000, v % 0x10000)

def invokeFormatBad (bs : List Byte) : Bool :=
  let n := fld bs 17 1
  fld bs 0 4 / 0x1000 != 0 || n > 16 || fld bs 0 4 / 256 % 16 + 1 != 1 + (n + 7) / 8 ||
    (List.range n).any fun i => bit (fld bs (64 + 8 * i) 8) 62 || (!(bit (fld bs (64 + 8 * i) 8) 63) && fld bs (64 + 8 * i) 8 % 0x10000 != 0)

/-- The region entry of a buffer: none where the residency check fails (R494). -/
def State.bufferEntry (s : State) (pkg vdev ncores : Nat) (b : Bool × Nat × Nat × Nat) : Option Nat :=
  let (w, z, base, owner) := b
  match s.freeRegions pkg vdev base z with
  | [(i, r)] => if r.state = (if w then 1 else 2) && (!w || owner < ncores) then some i else none
  | _ => none

/-- A writable buffer's entry is lent to a running launch (0x107). -/
def State.bufferLent (s : State) (pkg vdev : Nat) (b : Bool × Nat × Nat × Nat) : Bool :=
  let (w, z, base, _) := b
  w && ((s.pkgOf pkg).regions.any fun (_, e) => let r := Region.of e
    r.valid && r.vdev = vdev && r.launch != 0 && r.base = base && r.lsz = z)

/-- What an INVOKE packet asks for, or the status of its refusal. -/
def State.checkInvoke (s : State) (bs : List Byte) (pkg vdev : Nat) (src : From) : Except Nat Launch :=
  let n := fld bs 16 1 % 64
  let slot := SMap.get RSlot.free n (s.vdevOf pkg vdev).slots
  let img := (s.goodImage pkg vdev slot.image).getD []
  let h := (slotHeader img).getD []
  let cmask := (s.vdevOf pkg vdev).cmask
  let bufs := invokeBuffers bs (fld bs 17 1)
  let param : Addr := BitVec.ofNat 64 ((bufs.map fun (_, _, b, _) => b).headD 0)
  let nb := (s.vaBytes pkg vdev (fld h 16 8) (64 * fld h 7 1)).getD []
  let nests := nestsOf nb 0 (fld h 7 1) vdev param (some (fld bs 20 2))
  let fl := fld h 13 1
  let l := ({ Launch.fresh pkg vdev with
    prio := fld h 12 1 % 128, pool := BitVec.ofNat 32 (fld h 8 4), image := slot.image, param := param
    lb := bufs.zipIdx.foldl (fun m ((_, _, b, _), i) => SMap.set 0 i (BitVec.ofNat 64 b) m) []
    repl := bit fl 0, tbrk := bit fl 1, tpol := fl / 4 % 4, nests := nests, nest0 := nests, ring := src.ring, cookie := fld bs 8 8
    pseq := src.seq, slot := some n } : Launch).withCores (maskCores cmask)
  let gone := !slot.resident || slot.removing.isSome || slot.gen != fld bs 18 2
  let refusal := if gone then firstRefusal [((s.pkgOf pkg).svcl < 3, 0x109), (cmask = 0, 0x104), (true, 0x105)]
    else match s.launchRefusal l ((s.pkgOf pkg).svcl ≥ 3) cmask with
      | some st => some st
      | none =>
        let lent := bufs.filter (s.bufferLent pkg vdev)
        let rest := bufs.filter fun b => !(s.bufferLent pkg vdev b)
        firstRefusal [(fld bs 17 1 != fld h 4 2 || !(s.weightsMatch pkg vdev h) ||
            rest.any (fun b => (s.bufferEntry pkg vdev l.ncores b).isNone) || lent.any (fun (_, _, _, o) => l.ncores ≤ o), 0x106),
          (!lent.isEmpty, 0x107)]
  match refusal with
  | some st => .error st
  | none => .ok l

/-- Lend the writable buffers of an INVOKE to its launch (R494): the entries with their former owners. -/
def State.lendBuffers (s : State) (pkg vdev id ncores : Nat) (bufs : List (Bool × Nat × Nat × Nat)) : State × List (Nat × Nat) :=
  bufs.foldl (fun (t, got) b => match t.bufferEntry pkg vdev ncores b, b with
    | some i, (true, _, _, o) =>
      let r := Region.of (SMap.get 0 i (t.pkgOf pkg).regions)
      (t.rewriteRegion pkg i { r with launch := id, owner := o }, got ++ [(i, r.owner)])
    | _, _ => (t, got)) (s, [])

/-- Whether the former owners of the writable buffers of an INVOKE are quiet (R263 step 1). -/
def State.buffersReady (s : State) (pkg vdev ncores : Nat) (bufs : List (Bool × Nat × Nat × Nat)) : Bool := bufs.all fun b =>
  !b.1 || match s.bufferEntry pkg vdev ncores b with
    | some i => s.regionReady pkg i
    | none => true

/-! ## Accepting a packet (R490) -/

/-- The next launch identifier of a virtual device: the count skips 0 and the low halves in use. -/
def nextCount (used : List Nat) : Nat → Nat → Nat
  | 0, n => n
  | fuel + 1, n =>
    let m := (n + 1) % 0x10000000
    if m = 0 || used.contains (m % 0x10000) then nextCount used fuel m else m

def State.takeId (s : State) (pkg vdev : Nat) : State × Nat :=
  let used := s.sys.launches.filterMap fun (lk, o) => match o with
    | some l => if l.pkg = pkg && l.vdev = vdev then some (lk % 0x10000) else none
    | none => none
  let n := nextCount used (used.length + 2) (s.vdevOf pkg vdev).lcount
  (s.modVdev pkg vdev fun v => { v with lcount := n }, vdev * 0x10000000 + n)

/-- The pages that a launch pins: its image, its parameter block's page, and the tag tables of its nests (R245, R490). -/
def State.launchPages (s : State) (l : Launch) : List (Nat × Nat) :=
  let len := 64 * fld ((s.vaBytes l.pkg l.vdev l.image 64).getD []) 12 4
  pagesOf l.vdev l.image len ++ if l.bare.isSome then [] else pagesOf l.vdev l.param.toNat 1

/-- A launch is accepted: its pages are pinned, and it waits for its cores. -/
def State.accept (s : State) (lk : Nat) (l : Launch) : State :=
  let pages := s.launchPages l
  ((s.pinAll l.pkg pages).pinAll l.pkg (l.nests.flatMap fun n => n.tab)).putLaunch lk (some { l with pages := pages })

/-! ## Starting (R81, R168, R383, R463, R490) -/

/-- Whether every core that a launch needs is free. -/
def State.coresFree (s : State) (l : Launch) : Bool := l.maps.all fun (_, k) => k.all fun c => (s.coreOf c).launch = 0

/-- Yield requests for the cores that a waiting launch needs, once on each core whose launch has a lower priority and an armed save
area (R490, R417). -/
def State.raiseYields (s : State) (lk : Nat) (l : Launch) : State :=
  l.maps.foldl (fun t (_, o) => match o with
    | none => t
    | some k =>
      let c := t.coreOf k
      match t.launchOf c.launch, t.launchOf lk with
      | some v, some me =>
        if v.prio < l.prio && v.area.isSome && !(me.yieldAsked.contains k) then
          ((t.putCore k { c with yreq := true, yrem := BitVec.ofNat 32 ((t.strmOf (sidOf k 8)).yctl.toNat % 0x2000000) }).putLaunch c.launch
            (some { v with goes := false })).putLaunch lk (some { me with yieldAsked := me.yieldAsked ++ [k] })
        else t
      | _, _ => t) s

/-- The saggar pool of a replayable launch (R383): the free physical pages of its package, the first of which holds the copy of the
parameter block's page. -/
def State.takeSaggar (s : State) (lk : Nat) (l : Launch) : State :=
  if !l.repl then s
  else
    let pool := (s.pkgOf l.pkg).freePages
    match pool, s.walkVa l.pkg l.vdev l.param.toNat with
    | p :: rest, some w =>
      let page := Memory.readBytes s.sys.hbm w.phys 0x10000
      ((s.copyPage w.phys p).modPkg l.pkg fun x => { x with freePages := [] }).putLaunch lk (some { l with
        sagPool := rest, saggar := SMap.set none (l.param.toNat / 0x10000) (some p) [], paramCopy := Memory.writeBytes 0 page [] })
    | _, _ => s

/-- A launch takes its cores: the copies of its image's sections, its saggar pool and its scrubbed cores. None while too few pages
are free for the copies. -/
def State.takeCores (s : State) (lk : Nat) (l : Launch) (phase : LPhase) : Option State :=
  match State.placeAll l.pkg l.vdev ((relocSections ((s.imageBytes l.pkg l.vdev l.image).getD [])).getD []) s l.lb [] with
  | none => none
  | some (t, lb, got) =>
    let l1 := { l with lb := lb, relocs := got, phase := phase }
    let u := (t.putLaunch lk (some l1)).takeSaggar lk l1
    some (match u.launchOf lk with
      | some l2 => u.startCores lk l2
      | none => u)

/-! ## Several packages (R463, R464) -/

/-- A message of a launch's start, between the dies 0 of two packages: packet, arrival or release. -/
def startMsg (kind src dst gen id op : Nat) (rest : List Nat) (bs : List Byte) : Msg :=
  { Msg.of kind (4 * src) (4 * dst) 0 0 with args := gen :: id :: rest, data := bs, op := op }

/-- The stream that stands for a package's front end in its requests. -/
def State.feSid (s : State) (pkg vdev : Nat) : Nat := sidOf (256 * pkg + (s.vdevOf pkg vdev).fe) 8

/-- Send a message of a launch's start. -/
def State.sendStart (s : State) (pkg vdev : Nat) (m : Msg) : State := (s.requestBy (s.feSid pkg vdev) .launch m [] 0 false).1

/-- The packages of a launch to which its own package sends, and the one to which it answers. -/
def Launch.childPkgs (l : Launch) : List Nat := (treeChildren (maskDims l.dmask).length (pkgIndex l.spanBase l.dmask l.pkg)).map
  (pkgAt l.spanBase l.dmask)
def Launch.parentPkg (l : Launch) : Nat := pkgAt l.spanBase l.dmask (treeParent (pkgIndex l.spanBase l.dmask l.pkg))

/-- Replicate a launch packet to the children of a package. -/
def State.sendPackets (s : State) (id gen : Nat) (l : Launch) (bs : List Byte) : State :=
  l.childPkgs.foldl (fun t p => t.sendStart l.pkg l.vdev (startMsg 16 l.pkg p gen id 0 [l.vdev, l.ring, l.pseq] bs)) s

/-- A start release, or one that carries the refusal, to the children of a package. -/
def State.sendReleases (s : State) (id : Nat) (l : Launch) (refuse : Bool) : State :=
  l.childPkgs.foldl (fun t p => t.sendStart l.pkg l.vdev (startMsg 18 l.pkg p l.gen id refuse.toNat [] [])) s

/-- A package that has its cores and its children's arrivals sends its own arrival, or at the base package the release. -/
def State.arriveStart (s : State) (lk : Nat) : State := match s.launchOf lk with
  | none => s
  | some l =>
    if l.phase != .starting || !(l.childPkgs.all fun p => l.arrivals.contains p) then s
    else if l.pkg = l.spanBase then (s.sendReleases (launchId lk) l false).putLaunch lk (some { l with phase := .running })
    else s.sendStart l.pkg l.vdev (startMsg 17 l.pkg l.parentPkg l.gen (launchId lk) 0 [] [])

/-- A waiting launch takes its cores where they are free: one package's launch runs at once; one of several packages starts its tree
at the base, and its arrival elsewhere. Answers whether it has gone on. -/
def State.tryTake (s : State) (lk : Nat) (bs : List Byte) : State × Bool := match s.launchOf lk with
  | none => (s, true)
  | some l =>
    if !(s.coresFree l) then (s.raiseYields lk l, false)
    else match s.takeCores lk l (if l.multi then .starting else .running) with
      | none => (s, false)
      | some t =>
        if !l.multi then (t, true)
        else if l.pkg != l.spanBase then (t.arriveStart lk, true)
        else
          let g := ((t.pkgOf l.pkg).genCtr + 1) % 0x100000000
          let u := ((t.modPkg l.pkg fun p => { p with genCtr := g, gens := SMap.set 0 (launchId lk) g p.gens }).modLaunch lk fun y =>
            { y with gen := g, sentAt := t.sys.dc }).sendPackets (launchId lk) g l bs
          (u.arriveStart lk, true)

/-- The record of a stale generation (R464). -/
def State.stale (s : State) (m : Msg) : State := s.sherd m.dst { kind := 0x1D, core := m.dst * 64, launch := m.args.getD 1 0, val0 := m.args.getD 0 0 }

/-- A replicated launch packet reaches a package (R463): it is sent on, checked, and waits for its cores. -/
def State.packetIn (s : State) (m : Msg) : State :=
  let pkg := m.dst / 4
  let gen := m.args.getD 0 0
  let id := m.args.getD 1 0
  let vdev := m.args.getD 2 0
  let lk := launchKey pkg id
  if (s.launchOf lk).any fun l => l.gen != gen then s.stale m
  else
    let l := { launchOfPacket m.data pkg vdev ⟨m.args.getD 3 0, m.args.getD 4 0⟩ with gen := gen }
    let s1 := (s.modPkg pkg fun p => { p with gens := SMap.set 0 id gen p.gens }).sendPackets id gen l m.data
    let mask := fld m.data 64 32
    match s1.launchRefusal l ((s1.pkgOf pkg).svcl ≥ 4) mask with
    | some st => s1.pushRecord l.spanBase vdev { kind := 3, ring := l.ring, status := st, cookie := l.cookie, seq := l.pseq }
    | none => ((s1.accept lk l).tryTake lk m.data).1

/-- The launch of a start arrival or release, where its generation is current. -/
def State.startLaunch (s : State) (m : Msg) : Option (Nat × Launch) :=
  let lk := launchKey (m.dst / 4) (m.args.getD 1 0)
  match s.launchOf lk with
  | some l => if l.gen = m.args.getD 0 0 then some (lk, l) else none
  | none => none

/-- A start arrival reaches a package. -/
def State.arrivalIn (s : State) (m : Msg) : State := match s.startLaunch m with
  | some (lk, l) => (s.putLaunch lk (some { l with arrivals := l.arrivals ++ [m.src / 4] })).arriveStart lk
  | none => s.stale m

/-- A start release reaches a package: its Wheels start, or the launch is discarded. -/
def State.releaseIn (s : State) (m : Msg) : State := match s.startLaunch m with
  | some (lk, l) =>
    let s1 := s.sendReleases (launchId lk) l (m.op = 1)
    if m.op = 1 then (s1.releaseLaunch lk l false).freeCopies l else s1.putLaunch lk (some { l with phase := .running })
  | none => s.stale m

end Sys2Proof.Machine
end

