-- ==== Sys2Proof/Machine/EvFabric.lean ====
section
/-! DEFINITION. The fabric (20 R445 to R461, R466 to R470): flits and links, the arrival of each kind of message, replay windows,
time-outs and skips, spares and parity. -/

namespace Sys2Proof.Machine

/-! ## Sending what waited (R219, R271, R454) -/

/-- The posted sends of a core that have become ready go out, in the order of issue for each destination. `held` lists the
destinations of earlier ones that still wait. -/
def State.sendOne (k : Nat) (acc : State × List Nat) (d : Deferred) : State × List Nat :=
  let (s, held) := acc
  let c := s.coreOf k
  let done := fun (ws : List Nat) => ws.all fun i => (s.reqOf i).isNone
  let rank := fun (lc : Nat) => ((s.launchOf c.launch).bind fun l => l.lcoreRank lc)
  let gone := fun (t : State) => t.modCore k fun e => { e with deferred := e.deferred.erase d }
  let go := fun (lc : Nat) (ws : List Nat) (send : State → Nat → State) => match rank lc with
    | none => (gone s, held)
    | some r =>
      if held.contains lc || !(done ws) || !(s.seqRoom (rankOfCore k) r 1) then (s, lc :: held) else (send (gone s) r, held)
  match d with
  | .csigR sid ws lc cone inc tag own => go lc ws fun t r =>
      let (u, id) := t.requestBy sid .store
        { Msg.of 7 (rankOfCore k) r tag c.launch with slc := c.lcore, dlc := lc, args := [cone, inc] } [] 0 false
      u.modReq id fun q => { q with own := own }
  | .notify sid ws lc n value tag own => go lc ws fun t r =>
      let (u, id) := t.requestBy sid .store
        { Msg.of 8 (rankOfCore k) r tag c.launch with slc := c.lcore, dlc := lc, args := [n, value] } [] 0 false
      u.modReq id fun q => { q with own := own }
  | .postx _ ws lc _ req tag _ words => go lc ws fun t r =>
      let (u, m) := t.sequenced { Msg.of 5 (rankOfCore k) r tag c.launch with
        slc := c.lcore, dlc := lc, data := words.flatMap (fun w => leBytes 4 w.toNat), req := req }
      let v := u.modReq req fun q => { q with msg := some m, sentAt := u.sys.dc }
      if m.seq.isSome && SMap.get false r (v.dieOf m.src).dead then v.failReq req 24 else v.send m
  | _ => (s, held)

def State.sendDeferred (s : State) (k : Nat) : State := ((s.coreOf k).deferred.foldl (State.sendOne k) (s, [])).1

/-- The parity updates that a die has to send go out as its requests while places are free, in order for each destination (R454, R470). -/
def State.sendParity (s : State) : State :=
  let one := fun (acc : State × List Msg) (m : Msg) =>
    if acc.2.any (fun n => n.src = m.src && n.dst = m.dst) || !(acc.1.seqRoom m.src m.dst 1) then (acc.1, acc.2 ++ [m])
    else ((acc.1.requestBy (sidOf (64 * m.src) 8) .parity m [] 0 false).1, acc.2)
  if s.sys.parityOut.isEmpty then s
  else
    let (t, left) := s.sys.parityOut.foldl one (s, [])
    { t with sys := { t.sys with parityOut := left } }

/-! ## Links (R446 to R449) -/

/-- The virtual channel of a kind (R450). -/
def vcOf (kind : Nat) : Nat :=
  if kind = 3 || kind = 4 || kind = 6 || kind = 12 || kind = 13 then 1
  else if (14 ≤ kind && kind ≤ 18) || kind = 21 then 2 else 0

/-- The lowest dimension in which two ranks differ (R447). -/
def nextDim (here dst : Nat) : Option Nat := (List.range 10).find? fun d => bit (here ^^^ dst) d

/-- An acknowledgement that waits for those of the parity updates of its die: it has not been sent yet (R470). -/
def State.ackWaits (s : State) (m : Msg) : Bool :=
  m.kind = 13 && s.parityFrom (· = m.src) && !((s.reqOf m.req).any fun r => r.wait = .parity)

/-- Messages of one source, destination and channel keep their order (R449). -/
def State.inOrder (s : State) (i : Nat) (m : Msg) : Bool :=
  !((s.sys.msgs.take i).any fun n => n.src = m.src && n.dst = m.dst && vcOf n.kind = vcOf m.kind && n.kind != 14 && n.here = m.here &&
    !(s.ackWaits n))

def State.dropMsg (s : State) (i : Nat) : State := { s with sys := { s.sys with msgs := s.sys.msgs.eraseIdx i } }

/-- A fabric loss is recorded (R449, R453, R457). -/
def State.lossRecord (s : State) (rank dst lk : Nat) : State :=
  s.sherd rank { kind := 0x1E, launch := lk, core := rank * 64, unit := 14, addr := dst }

/-- A link goes down. -/
def State.downLink (s : State) (die dim : Nat) : State := s.modDie die fun d =>
  { d with links := SMap.set ⟨0, false⟩ dim ⟨16, true⟩ d.links }

/-- Whether a dimension connects a rank to its neighbour: a cable does, and a switch plane whose relabel table maps both (R467). -/
def State.wired (s : State) (rank dim : Nat) : Bool :=
  match SMap.get 0 (16 * rank + dim) s.sys.wiring with
  | 0 => true
  | 1 => false
  | n + 2 =>
    let p := SMap.get ⟨[], []⟩ n s.sys.planes
    (optGet rank p.relabel).isSome && (optGet (rank ^^^ 2 ^ dim) p.relabel).isSome

/-- FLIT_ARRIVAL: a message crosses the next link of its route. A failed LCRC is refused and sent again, the 16th failure in a row
takes the link down, and a flit that would cross a down link is dropped with a record. -/
def execFlitArrival (msg : Nat) (lcrcOk : Bool) (s : State) : Out :=
  match s.sys.msgs[msg]? with
  | none => .next s
  | some m => match nextDim m.here m.dst with
    | none => .next s
    | some d =>
      let link := SMap.get ⟨0, false⟩ d (s.dieOf m.here).links
      if !(s.inOrder msg m) || s.ackWaits m || !(s.wired m.here d) then .next s
      else if link.down then .next ((s.dropMsg msg).lossRecord m.here m.dst m.launch)
      else if !lcrcOk then
        if link.fails + 1 ≥ 16 then .next (s.downLink m.here d)
        else .next (s.modDie m.here fun x => { x with links := SMap.set ⟨0, false⟩ d ⟨link.fails + 1, false⟩ x.links })
      else
        let s1 := s.modDie m.here fun x => { x with links := SMap.set ⟨0, false⟩ d ⟨0, false⟩ x.links }
        .next { s1 with sys := { s1.sys with msgs := s1.sys.msgs.set msg { m with here := m.here ^^^ 2 ^ d } } }

/-- LINK_DOWN: a link is down after 16 failed transmissions of one flit (R449). -/
def execLinkDown (die dim : Nat) (s : State) : Out := .next (if dim < 10 then s.downLink die dim else s)

/-- DIE_LINK_FAILURE: the failure of a link inside a package ends every launch that uses it (R453). -/
def execDieLinkFailure (die dim : Nat) (s : State) : Out :=
  if 2 ≤ dim then .next s
  else
    let s1 := (s.downLink die dim).lossRecord die (die ^^^ 2 ^ dim) 0
    let hit := s1.sys.launches.filterMap fun (lk, o) => match o with
      | some l => if l.pkg = die / 4 && (freezeRanks l.ranks).contains die && (freezeRanks l.ranks).contains (die ^^^ 2 ^ dim) then some lk
        else none
      | none => none
    .next (hit.foldl (fun t lk => t.teardown lk 24 die) s1)

/-! ## Inbound posts (R183, R216, R460) -/

/-- Whether a record names a frame with a speculative rename pending. -/
def Core.renamePending (c : Core) (ws : List Word) : Bool := (recRefs ws).any fun x => (c.frame x.frame).any fun f => f.before.isSome

/-- The words of a posted record. -/
def Msg.words (m : Msg) : List Word := (List.range 16).map fun i => BitVec.ofNat 32 (natOfBytes ((m.data.drop (4 * i)).take 4))

/-- Enter an inbound post in a core's window, or refuse it, and answer (R216). -/
def State.enterInbound (s : State) (k : Nat) (m : Msg) : State :=
  let c := s.coreOf k
  let ws := m.words
  let ans := fun (t : State) (st info : Nat) => t.answer m (m.reply 0 0 (postxWord st info))
  if s.filtered c.launch m.tag || s.filtered c.launch (recTag ws) then ans s 2 33
  else match c.freeSlot with
    | none => ans s 1 0
    | some slot =>
      let me := s.sid
      match (s.focus (sidOf k 4)).postCheck ws with
      | .error (cause, _) => ans s 2 cause
      | .ok (t, pages) =>
        let u := t.focus me
        let handle := (c.nextSeq * 256 + slot) % 0x40000000
        ans (u.modCore k fun d => d.enterRecord slot ws false false pages []) 0 handle

/-- The messages of a core's reserve that cannot be applied yet: a post that names a frame with a speculative rename pending, and what
came from its source core after it (R183, R216, R460). -/
def Core.inboundHeld (c : Core) : List Msg :=
  (c.inbound.foldl (fun (held : List Msg) m =>
    if held.any (·.slc = m.slc) || (m.kind = 5 && c.renamePending m.words) then held ++ [m] else held) [])

/-- An inbound post or cone signal is taken in, to be applied at its place in the arithmetic clock (R214, R216). A post that must wait and
finds the reserve full answers ST = 1 (R460); a signal to a parked core waits only behind a post of its source. -/
def State.inboundPost (s : State) (k : Nat) (m : Msg) : State :=
  let c := s.coreOf k
  let park := isParkKey k
  let held := if park then c.inbound else c.inboundHeld
  let behind := held.any (·.slc = m.slc)
  if m.kind = 7 then
    if park && !behind then
      (s.modCore k fun d => { d with conePend := d.conePend ++ [.add (m.args.getD 0 0) (m.args.getD 1 0)] }).answer m (m.reply 0 0 [])
    else s.putCore k { c with inbound := c.inbound ++ [m] }
  else if (park || behind || c.renamePending m.words) && (held.filter (·.kind = 5)).length ≥ 8 then s.answer m (m.reply 0 0 (postxWord 1 0))
  else s.putCore k { c with inbound := c.inbound ++ [m] }

/-- The inbound posts and signals that can be applied are, in arrival order. -/
def State.drainInbound (s : State) (k : Nat) : State :=
  if isParkKey k then s
  else (s.coreOf k).inbound.foldl (fun t m =>
    let c := t.coreOf k
    if c.inboundHeld.contains m then t
    else
      let d := { c with inbound := c.inbound.erase m }
      if m.kind = 7 then
        (t.putCore k { d with conePend := d.conePend ++ [.add (m.args.getD 0 0) (m.args.getD 1 0)] }).answer m (m.reply 0 0 [])
      else (t.putCore k d).enterInbound k m) s

/-- The answers to the BWAITs of other cores whose condition has held (R284). -/
def State.answerHeld (s : State) (k : Nat) : State :=
  let c := s.coreOf k
  if c.bwDone.isEmpty then s
  else c.bwDone.foldl (fun t (m, v) => t.answer m (m.reply 0 0 (leBytes 4 v))) (s.putCore k { c with bwDone := [] })

/-! ## Applying a request (R451, R216, R279, R284, R351, R354) -/

/-- The key of a message's launch on the package of its destination. -/
def Msg.launchHere (m : Msg) : Nat := if launchId m.launch = 0 then 0 else launchKey (m.dst / 4) (launchId m.launch)

/-- Whether the destination allows a far access of a message (R451). -/
def State.msgAllowed (s : State) (m : Msg) (vdev va : Nat) (write : Bool) : Bool :=
  regionAllows (s.regionMatch (m.dst / 4) vdev (launchId m.launch) va) m.slc write

/-- A write of a message to HBM at its home memory. -/
def State.msgWrite (s : State) (m : Msg) (vdev va pa : Nat) (bs : List Byte) (poison : Bool) : State :=
  let s1 := (((s.hbmWrite pa bs).granuleCount m.src pa).markDirty m.launchHere va).markDevDirty (m.dst / 4) vdev va
  if poison then s1.poisonHbm pa bs.length else s1

/-- A far access message: its physical address, length, virtual device, and whether R250 applies. -/
def Msg.pa (m : Msg) : Nat := m.args.getD 0 0
def Msg.len (m : Msg) : Nat := m.args.getD 1 0
def Msg.vdev (m : Msg) : Nat := m.args.getD 3 0
def Msg.checked (m : Msg) : Bool := m.args.getD 2 0 = 1

/-- The elements of a chunk message in turn: the state, flags, whether a CRED met poison, whether all were allowed. -/
def State.chunkElems (s : State) (m : Msg) (k : Option Nat) : List (Nat × Nat × Nat × Nat) → Nat → State × Nat × Bool
  | [], fl => (s, fl, false)
  | (j, _, va, pa) :: rest, fl =>
    let size := m.args.getD 1 1
    let mode := m.args.getD 2 0
    let vdev := m.args.getD 4 0
    let bs := chunkElem m.data size j
    if m.op = poisonOp then (match k with
      | some c => s.modCore c fun d => d.poison_ va size
      | none => s.poisonHbm pa size).chunkElems m k rest fl
    else match k with
    | some c =>
      let core := s.coreOf c
      let old := if m.op = 0xF8 then Memory.readBytes core.loc va size else []
      if m.op = 0xF8 && (m.poison || core.poisoned va size) then (s, fl, true)
      else
        let (new, f) := combine m.op mode old bs
        let d := core.writeLocal va new
        (s.putCore c (if m.poison then d.poison_ va size else d)).chunkElems m k rest (fl ||| f)
    | none =>
      let old := if m.op = 0xF8 then Memory.readBytes s.sys.hbm pa size else []
      if m.op = 0xF8 && (m.poison || s.hbmPoisoned pa size) then (s, fl, true)
      else
        let (new, f) := combine m.op mode old bs
        (s.msgWrite m vdev va pa new m.poison).chunkElems m k rest (fl ||| f)

def Msg.numbered (m : Msg) : List (Nat × Nat × Nat × Nat) := m.elems.zipIdx.map fun (e, j) => (j, e)

/-- The bytes that a chunk read finds, and whether any is poisoned. -/
def State.readElems (s : State) (m : Msg) (k : Option Nat) : List Byte × Bool :=
  let size := m.args.getD 1 1
  let one := fun (e : Nat × Nat × Nat) => match k with
    | some c => (Memory.readBytes (s.coreOf c).loc e.2.1 size, (s.coreOf c).poisoned e.2.1 size)
    | none => (Memory.readBytes s.sys.hbm e.2.2 size, s.hbmPoisoned e.2.2 size)
  let rs := m.elems.map one
  (rs.flatMap Prod.fst, rs.any Prod.snd)

/-- Whether every element of a chunk message in HBM is allowed. -/
def State.elemsAllowed (s : State) (m : Msg) (write : Bool) : Bool :=
  m.elems.all fun (_, va, _) => s.msgAllowed m (m.args.getD 4 0) va write

/-- One element of an atomic message performs where it belongs: at the bank unit of a core, or at the memory-side unit of HBM. The message
notes it. -/
def State.msgAtom (s : State) (m : Msg) (core : Option Nat) : State × Msg :=
  let a := AtomOp.ofMsg m
  let e := m.atomNext
  match core with
  | some k =>
    let (c, old, bad) := (s.coreOf k).atomElem m.addr a e
    (s.putCore k c, m.atomStep (m.atomOld a ++ old) bad)
  | none =>
    let (t, old, bad) := s.atomElem m.pa a e
    let u := if (a.elem e old).isSome then (t.markDirty m.launchHere m.addr).markDevDirty (m.dst / 4) m.vdev m.addr else t
    (u.granuleCount m.src m.pa, m.atomStep (m.atomOld a ++ old) bad)

/-- The elements of an atomic message that remain perform. -/
def State.msgAtoms : Nat → Msg → Option Nat → State → State × Msg
  | 0, m, _, s => (s, m)
  | n + 1, m, core, s =>
    if m.atomNext < (AtomOp.ofMsg m).count then
      let (t, q) := s.msgAtom m core
      t.msgAtoms n q core
    else (s, m)

/-- The scratchpad flag of an atomic message. -/
def Msg.atomSp (m : Msg) : Bool := m.args.getD 4 0 = 1

/-- The kinds of message whose effects a purge of their tag drops (R380). -/
def purgeable (kind : Nat) : Bool := kind = 1 || kind = 2 || (7 ≤ kind && kind ≤ 10)

/-- Apply a request at its destination: the new state and the reply, or none while the request is in progress. A launch that the
package does not hold answers LOST (R468, R473); a purged tag has no effect (R381). -/
def State.applyReq (s : State) (m : Msg) : State × Option Msg :=
  let lk := m.launchHere
  let ok := fun (bs : List Byte) => some (m.reply 0 0 bs)
  let core := s.coreFor lk m.dlc
  if lk != 0 && (s.launchOf lk).isNone then (s, some (m.reply 1 0 []))
  else if purgeable m.kind && lk != 0 && s.filtered lk m.tag then (s, ok (List.replicate m.len 0))
  else match m.kind with
  | 1 =>
    if isDieReg m.pa then (s.regStore m.dst (physOff m.pa) m.data, ok [])
    else if m.checked && !(s.msgAllowed m m.vdev m.addr true) then (s, some (m.reply 2 0 []))
    else (s.msgWrite m m.vdev m.addr m.pa m.data m.poison, ok [])
  | 2 =>
    let n := (AtomOp.ofMsg m).count
    let done := fun (r : State × Msg) => (r.1, some { m.reply 0 0 (r.2.atomOld (AtomOp.ofMsg m)) with poison := r.2.poison })
    if m.atomSp then match core with
      | some k => done (s.msgAtoms n m (some k))
      | none => (s, some (m.reply 1 0 []))
    else if isDieReg m.pa then let (t, old) := s.atomReg m.pa (AtomOp.ofMsg m)
      (t, ok old)
    else if m.checked && !(s.msgAllowed m m.vdev m.addr true) then (s, some (m.reply 2 0 []))
    else done (s.msgAtoms n m none)
  | 5 | 7 => match core with
    | some k => (s.inboundPost k m, none)
    | none => (s, some (m.reply 1 0 []))
  | 8 => match core with
    | some k => (s.modCore k fun c =>
        let n := m.args.getD 0 0
        let v := BitVec.ofNat 32 (m.args.getD 1 0)
        if c.gated then { c with latches := SMap.modify 0 n (· ||| v) c.latches } else { c with notifyOr := c.notifyOr ++ [(n, v)] }, ok [])
    | none => (s, some (m.reply 1 0 []))
  | 9 =>
    let sp := m.args.getD 0 0 = 1
    let k := if sp then s.coreFor lk m.dlc else none
    if sp && k.isNone then (s, some (m.reply 1 0 []))
    else if !sp && !(s.elemsAllowed m true) then (s, some (m.reply 2 0 []))
    else
      let (t, fl, bad) := s.chunkElems m k m.numbered 0
      (t, some { m.reply 0 0 [] with args := [fl], poison := bad })
  | 10 => match core with
    | some k => (s.modCore k fun c => c.landWord m.addr (m.args.getD 0 0) (m.op = 1), ok [])
    | none => (s, some (m.reply 1 0 []))
  | 11 => match core with
    | some k =>
      if m.op = 0 then
        let (c, old) := (s.coreOf k).barrArrive m.addr (m.args.getD 0 0)
        (s.putCore k c, ok (leBytes 4 old))
      else match bwaitTest (m.args.getD 0 0 = 1) (Memory.readNat (s.coreOf k).loc (m.addr + 4) 4) (m.args.getD 1 0) with
        | some v => (s, ok (leBytes 4 v))
        | none => (s.modCore k fun c => { c with heldBw := c.heldBw ++ [m] }, none)
    | none => (s, some (m.reply 1 0 []))
  | 15 => ((s.purgePart lk m.tag).modLaunch lk fun l => { l with purgeOut := l.purgeOut ++ [(m.tag, m.op, m.src / 4)] }, ok [])
  | 16 => (s.packetIn m, ok [])
  | 17 => (s.arrivalIn m, ok [])
  | 18 => (s.releaseIn m, ok [])
  | 19 =>
    if m.op = 0x100 then
      let sp := m.args.getD 0 0 = 1
      let k := if sp then s.coreFor lk m.dlc else none
      if sp && k.isNone then (s, some (m.reply 1 0 []))
      else if !sp && m.src / 4 != m.dst / 4 && !(s.elemsAllowed m false) then (s, some (m.reply 2 0 []))
      else let (bs, poison) := s.readElems m k
        (if sp then s else s.chunkCount m.src (m.elems.map fun (_, _, pa) => pa), some { m.reply 0 0 bs with poison := poison, args := m.args })
    else if isDieReg m.pa then (s, ok (s.regBytes m.dst (physOff m.pa) m.len))
    else if m.checked && !(s.msgAllowed m m.vdev m.addr false) then (s, some (m.reply 2 0 []))
    else (s.granuleCount m.src m.pa, some { m.reply 0 0 (extendPart m.op (Memory.readBytes s.sys.hbm m.pa m.len)) with
      poison := s.hbmPoisoned m.pa m.len })
  | 20 =>
    let rank := m.dst
    let base := rank * 0x400000000000 + m.addr
    let old := Memory.readBytes s.sys.hbm base m.data.length
    (s.setHbm (Memory.writeBytes base (List.zipWith (fun (a b : Byte) => a ^^^ b) old m.data) s.sys.hbm), ok [])
  | _ => (s, ok [])

/-! ## Freezes (R428) -/

/-- Whether a die holds back the messages of a launch: it has received the freeze, or the launch stands in its image. -/
def State.cutting (s : State) (lk rank : Nat) : Bool := match s.launchOf lk with
  | some l => l.phase = .frozen || l.stage rank ≥ 2
  | none => false

def State.recordCut (s : State) (lk : Nat) (m : Msg) : State :=
  s.modLaunch lk fun l => { l with cut := SMap.set [] m.dst (SMap.get [] m.dst l.cut ++ [m]) l.cut }

/-- A request performs at its destination, or is recorded in the cut. -/
def State.perform (s : State) (m : Msg) : State :=
  if s.cutting m.launchHere m.dst && m.kind ≤ 13 then s.recordCut m.launchHere m
  else
    let (t, r) := s.applyReq m
    match r with
    | some x => t.answer m x
    | none => t

/-! ## Replay windows (R455) -/

/-- The next number passes every number that is applied or skipped. -/
def Window.advance : Nat → Window → Window
  | 0, w => w
  | n + 1, w => if w.applied.contains w.next then
      Window.advance n { w with next := (w.next + 1) % 65536, applied := w.applied.filter (· != w.next) }
    else w

def State.setWindow (s : State) (die src : Nat) (w : Window) : State :=
  s.modDie die fun d => { d with windows := SMap.set none src (some w) d.windows }

/-- Apply a request of a window, mark it applied, and let go of the requests that it held back. -/
def State.windowApply : Nat → Msg → State → State
  | 0, _, s => s
  | fuel + 1, m, s =>
    let seq := match m.seq with
      | some (n, _, _) => n
      | none => 0
    match optGet m.src (s.dieOf m.dst).windows with
    | none => s
    | some w =>
      let w1 := { w with applied := w.applied ++ [seq], progress := w.progress ++ [seq], held := w.held.filter fun h => h.seq != m.seq }
      let s1 := (s.setWindow m.dst m.src (Window.advance (w1.applied.length + 1) w1)).perform m
      match optGet m.src (s1.dieOf m.dst).windows with
      | none => s1
      | some w2 => match w2.held.find? fun h => h.seq.any fun (n, _, _) => n = w2.next with
        | some h => s1.windowApply fuel h
        | none => s1

/-- A sequenced request arrives (R455). -/
def State.receive (s : State) (m : Msg) (seq einc sinc : Nat) : State :=
  let d := s.dieOf m.dst
  if einc != d.inc then s.send (m.reply 1 0 [])
  else
    let w := match optGet m.src d.windows with
      | some w => if w.sinc = sinc then w else Window.fresh sinc seq
      | none => Window.fresh sinc seq
    let s1 := s.setWindow m.dst m.src w
    match w.replies.find? (·.1 = seq) with
    | some (_, r) => s1.send { r with req := m.req }
    | none =>
      if w.progress.contains seq || w.held.any (fun h => h.seq = m.seq) then s1.send { m.reply 4 0 [] with kind := 13 }
      else if (m.kind = 1 || m.kind = 2) && seq != w.next then s1.setWindow m.dst m.src { w with held := w.held ++ [m] }
      else s1.windowApply (w.held.length + 1) m

/-- A message arrives at its destination. -/
def State.arrive (s : State) (m : Msg) : State :=
  if s.cutting m.launchHere m.dst && m.kind ≤ 13 then s.recordCut m.launchHere m
  else match m.seq with
    | some (seq, einc, sinc) => s.receive m seq einc sinc
    | none => s.perform m

/-! ## Replies at the requester (R287, R451, R457, R459) -/

/-- The last part of a multi-part request has arrived. -/
def State.partDone (s : State) (main : Nat) : State :=
  if s.sys.reqs.any fun r => match r.wait with
    | .part x _ => x = main
    | _ => false
  then s else s.modReq main fun r => { r with ready := true }

/-- Part of the data of a load or of a chunk read arrives. -/
def State.takePart (s : State) (r : Req) (main at_ : Nat) (m : Msg) : State :=
  let put := fun (q : Req) => match q.wait with
    | .chunkRead _ _ =>
      let size := m.args.getD 1 1
      { q with
        data := m.elems.zipIdx.foldl (fun d ((i, _, _), j) => Memory.writeBytes (size * i) (chunkElem m.data size j) d) q.data
        poison := q.poison || m.poison }
    | _ => { q with data := Memory.writeBytes at_ m.data q.data }
  let s1 := (s.modReq main put).dropReq r.id
  let s2 := match (s1.reqOf main).map (fun (q : Req) => q.wait) with
    | some (.entry _) => if m.poison then s1.modStrm r.sid fun x => x.withEntry main fun e => { e with mark := .poison } else s1
    | _ => s1
  s2.partDone main

/-- A good reply reaches its request. -/
def State.takeAnswer (s : State) (r : Req) (m : Msg) : State :=
  let k := coreOfSid r.sid
  match r.wait with
  | .part main at_ => s.takePart r main at_ m
  | .atomic _ _ _ => (s.fillEntry r.sid r.id (vecOfBytes m.data) (if m.poison then .poison else .none)).dropReq r.id
  | .postx _ => (s.fillEntry r.sid r.id (vecOfBytes m.data) .none).dropReq r.id
  | .barrier => (s.modStrm r.sid fun x =>
      { x with rbar := if x.rbar = .sent r.id then .answered (BitVec.ofNat 32 (natOfBytes m.data)) else x.rbar }).dropReq r.id
  | .chunk c n =>
    let s1 := (s.dropReq r.id).modCore k fun d => d.modCopy c fun p => { p with flags := p.flags ||| BitVec.ofNat 32 (m.args.getD 0 0) }
    if m.poison then match (s1.coreOf k).copies.find? (·.id = c) with
      | some p => s1.purge (s1.coreOf k).launch p.tag 25 (rankOfCore k)
      | none => s1
    else if s1.chunkQuiet k c n then s1.chunkDone k c n (match r.msg with
      | some q => q.data
      | none => [])
    else s1
  | .copyLand c => (s.dropReq r.id).modCore k fun d => d.modCopy c fun p => { p with landed := true }
  | _ => s.dropReq r.id

/-- A reply reaches the requester: PENDING starts the count of tries again, LOST and refusals are delivered by R459. A reply to a
request that is no longer there is discarded. -/
def State.takeReply (s : State) (m : Msg) : State :=
  if s.cutting m.launchHere m.dst then s.recordCut m.launchHere m
  else match s.reqOf m.req with
    | none => s
    | some r => match m.status with
      | 0 => s.takeAnswer r m
      | 1 => s.failReq r.id 24
      | 2 => s.failReq r.id 19
      | 4 => s.modReq r.id fun q => { q with tries := 0, sentAt := s.sys.dc }
      | _ => s.failReq r.id m.cause

/-! ## The arrival of each kind -/

/-- A message that arrives: it has reached its destination, in the order of its channel; an acknowledgement of a write follows those of
the parity updates of its die (R470). -/
def State.taken (s : State) (msg : Nat) (kinds : List Nat) : Option (Msg × State) := match s.sys.msgs[msg]? with
  | some m =>
    if kinds.contains m.kind && m.here = m.dst && s.inOrder msg m && !(s.ackWaits m) then some (m, s.dropMsg msg) else none
  | none => none

/-- Whether an access of a message to die registers must wait for the old owners of the region entries that it rewrites (R263). -/
def State.regWaits (s : State) (m : Msg) : Bool :=
  (m.kind = 1 || (m.kind = 2 && !m.atomSp)) && isDieReg m.pa && !(s.regReady m.dst (physOff m.pa) m.len)

/-- A request of a kind arrives. -/
def requestArrives (kind msg : Nat) (s : State) : Out := .next (match s.taken msg [kind] with
  | some (m, t) => if t.regWaits m then s else t.arrive m
  | none => s)
/-- A reply of a kind arrives. -/
def replyArrives (kind msg : Nat) (s : State) : Out := .next (match s.taken msg [kind] with
  | some (m, t) => t.takeReply m
  | none => s)

/-- FAR_STORE (R451, R455). -/
def execFarStore (msg : Nat) (s : State) : Out := requestArrives 1 msg s
/-- Whether a request would be applied on arrival: its incarnations fit, no reply of it is kept, and its number is the next (R455). -/
def State.wouldApply (s : State) (m : Msg) : Bool := match m.seq with
  | none => true
  | some (seq, einc, sinc) => einc = (s.dieOf m.dst).inc && match optGet m.src (s.dieOf m.dst).windows with
    | some w => w.sinc != sinc || (seq = w.next && !(w.replies.any (·.1 = seq)))
    | none => true

/-- A sequence number is in progress at its destination, or no longer (R455). -/
def State.inProgress (s : State) (m : Msg) (on : Bool) : State := match m.seq with
  | none => s
  | some (seq, _, sinc) =>
    let w := match optGet m.src (s.dieOf m.dst).windows with
      | some w => if w.sinc = sinc then w else Window.fresh sinc seq
      | none => Window.fresh sinc seq
    s.setWindow m.dst m.src { w with progress := (w.progress.filter (· != seq)) ++ if on then [seq] else [] }

/-- An atomic whose next element performs while others remain (R267): a VAMO that its destination would apply. -/
def State.stepsAtom (s : State) (m : Msg) : Bool :=
  let core := s.coreFor m.launchHere m.dlc
  m.atomNext + 1 < (AtomOp.ofMsg m).count && !(isDieReg m.pa && !m.atomSp) && !(s.cutting m.launchHere m.dst) && s.wouldApply m &&
    (m.launchHere = 0 || ((s.launchOf m.launchHere).isSome && !(s.filtered m.launchHere m.tag))) &&
    (if m.atomSp then core.isSome else !m.checked || s.msgAllowed m m.vdev m.addr true)

/-- ATOMIC_REQUEST (R265, R267, R297, R455): one element of an atomic performs, the last one with the reply. The numbers
after those of the messages stand for the VAMOs that streams make to their own core or package. -/
def execAtomicRequest (msg : Nat) (s : State) : Out :=
  if s.sys.msgs.length ≤ msg then .next (match s.vamos[msg - s.sys.msgs.length]? with
    | some sid => s.vamoStep sid
    | none => s)
  else .next (match s.taken msg [2] with
    | some (m, t) =>
      if t.regWaits m then s
      else if s.stepsAtom m then
        let (u, q) := (s.inProgress m true).msgAtom m (if m.atomSp then s.coreFor m.launchHere m.dlc else none)
        { u with sys := { u.sys with msgs := u.sys.msgs.set msg q } }
      else (if m.atomNext = 0 then t else t.inProgress m false).arrive m
    | none => s)
/-- ATOMIC_REPLY (R297). -/
def execAtomicReply (msg : Nat) (s : State) : Out := replyArrives 3 msg s
/-- LOAD_DATA (R451). -/
def execLoadData (msg : Nat) (s : State) : Out := replyArrives 4 msg s
/-- LOAD_REQUEST (R351, R451). -/
def execLoadRequest (msg : Nat) (s : State) : Out := requestArrives 19 msg s
/-- POSTX_RECORD (R216, R460). -/
def execPostxRecord (msg : Nat) (s : State) : Out := requestArrives 5 msg s
/-- POSTX_REPLY (R216). -/
def execPostxReply (msg : Nat) (s : State) : Out := replyArrives 6 msg s
/-- REMOTE_CONE_SIGNAL (R193, R219). -/
def execRemoteConeSignal (msg : Nat) (s : State) : Out := requestArrives 7 msg s
/-- NOTIFY_MESSAGE (R234, R235). -/
def execNotifyMessage (msg : Nat) (s : State) : Out := requestArrives 8 msg s
/-- COPY_CHUNK: a chunk whose CRC fails is written poisoned, with a record (R358). -/
def execCopyChunk (msg : Nat) (crcOk : Bool) (s : State) : Out := .next (match s.taken msg [9] with
  | some (m, t) =>
    if crcOk then t.arrive m
    else (t.sherd m.dst { kind := 0x12, tag := m.tag, launch := m.launchHere, core := m.dst * 64, unit := 14, addr := m.addr }).arrive
      { m with poison := true }
  | none => s)
/-- LANDING_UPDATE (R356). -/
def execLandingUpdate (msg : Nat) (s : State) : Out := requestArrives 10 msg s
/-- BARRIER_REQUEST (R283, R284). -/
def execBarrierRequest (msg : Nat) (s : State) : Out := requestArrives 11 msg s
/-- BARRIER_REPLY (R283). -/
def execBarrierReply (msg : Nat) (s : State) : Out := replyArrives 12 msg s
/-- ACKNOWLEDGEMENT (R457). -/
def execAcknowledgement (msg : Nat) (s : State) : Out := replyArrives 13 msg s
/-- PURGE_MESSAGE (R461). -/
def execPurgeMessage (msg : Nat) (s : State) : Out := requestArrives 15 msg s
/-- PARITY_UPDATE (R470). -/
def execParityUpdate (msg : Nat) (s : State) : Out := requestArrives 20 msg s

/-- SEQUENCE_SKIP: the number is answered LOST and passed over, unless the request is there (R458). -/
def execSequenceSkip (msg : Nat) (s : State) : Out := .next (match s.taken msg [21] with
  | some (m, t) =>
    let seq := m.args.getD 0 0
    let d := t.dieOf m.dst
    let t1 := t.send (m.reply 0 0 [])
    let w := match optGet m.src d.windows with
      | some w => if w.sinc = m.args.getD 2 0 then w else Window.fresh (m.args.getD 2 0) seq
      | none => Window.fresh (m.args.getD 2 0) seq
    if m.args.getD 1 0 != d.inc || (w.replies.any (·.1 = seq)) || w.progress.contains seq ||
        w.held.any (fun h => h.seq.any fun (n, _, _) => n = seq) then t1
    else
      let lost : Msg := { m.reply 1 0 [] with req := 0 }
      let w1 := Window.advance (w.applied.length + 2) { w.keep seq lost with applied := w.applied ++ [seq] }
      let t2 := t1.setWindow m.dst m.src w1
      match w1.held.find? fun h => h.seq.any fun (n, _, _) => n = w1.next with
      | some h => t2.windowApply (w1.held.length + 1) h
      | none => t2
  | none => s)

/-! ## Time-outs (R457, R458) -/

/-- The time-out of a die in die cycles, and its retransmissions (R456). -/
def Die.timeout (d : Die) : Nat := 2 ^ (d.ftmo.toNat % 32)
def Die.retries (d : Die) : Nat := d.ftmo.toNat / 0x10000000

/-- A request that a time-out can meet: its message goes to another package, and its launch is not being frozen. -/
def State.timed (s : State) (r : Req) : Option Msg := match r.msg with
  | some m =>
    let lk := if launchId m.launch = 0 then 0 else launchKey (m.src / 4) (launchId m.launch)
    if m.src / 4 != m.dst / 4 && s.sys.dc ≥ r.sentAt + (s.dieOf m.src).timeout && !(s.cutting lk m.src) then some m else none
  | none => none

/-- LOST is delivered: the record, and for a sequenced request the skip, which is itself a request (R458). -/
def State.loseReq (s : State) (r : Req) (m : Msg) : State :=
  let s1 := s.lossRecord m.src m.dst m.launch
  if r.wait = .skip then
    (s1.modDie m.src fun d => { d with dead := SMap.set false m.dst true d.dead }).dropReq r.id
  else
    let s2 := s1.failReq r.id 24
    match m.seq with
    | some (seq, einc, sinc) =>
      let q := { Msg.of 21 m.src m.dst m.tag m.launch with slc := m.slc, dlc := m.dlc, args := [seq, einc, sinc] }
      (s2.requestBy r.sid .skip q [] 0 false).1
    | none => s2

/-- REQUEST_TIMEOUT: a request that has waited 2^TEXP die cycles is sent again, or is lost after FRTRY retransmissions. -/
def execRequestTimeout (req : Nat) (s : State) : Out := .next (match s.reqOf req with
  | none => s
  | some r => match s.timed r with
    | none => s
    | some m =>
      if r.tries ≥ (s.dieOf m.src).retries then s.loseReq r m
      else (s.modReq req fun q => { q with tries := q.tries + 1, sentAt := s.sys.dc }).send m)

/-! ## Spares and parity (R466 to R470, R473) -/

/-- The lowest-numbered stripe count of a partition. -/
def Parity.stripes (p : Parity) : List Nat := List.range (p.size / 0x10000)

/-- The next incarnation of a die: 0 is skipped (R455). -/
def nextInc (n : Nat) : Nat := if (n + 1) % 65536 = 0 then 1 else (n + 1) % 65536

/-- A spare package takes the place of a lost one: its dies and cores are as at reset with new incarnations, its partitions wait for
their rebuild, and it holds no launch. -/
def State.spareFor (s : State) (lost pser : Nat) : State :=
  let fresh := fun (r : Nat) =>
    let d := s.dieOf r
    { Die.reset with inc := nextInc d.inc, origin := s.sys.dc, parity := d.parity.map fun p => { p with blocked := p.stripes, ready := false } }
  let s1 := [0, 1, 2, 3].foldl (fun t i => t.putDie (4 * lost + i) (fresh (4 * lost + i))) s
  let s2 := s1.putPkg lost { Pkg.reset with serial := pser }
  let mine := fun (a : Nat) => physPkg a = lost && a < 0x100000000000000
  let s3 := { s2 with sys := { s2.sys with
    hbm := s2.sys.hbm.filter fun (a, _) => !(mine a)
    hbmPoison := s2.sys.hbmPoison.filter fun (a, _) => !(mine (4 * a))
    launches := s2.sys.launches.filter fun (lk, _) => launchPkg lk != lost
    msgs := s2.sys.msgs.filter fun m => m.src / 4 != lost && m.here / 4 != lost
    parityOut := s2.sys.parityOut.filter fun m => m.src / 4 != lost
    reqs := s2.sys.reqs.filter fun r => pkgOfCore (coreOfSid r.sid) != lost } }
  let keys := ((s3.ck :: s3.cores.map Prod.fst) ++ (s3.streams.map fun (x, _) => coreOfSid x)).eraseDups.filter fun k => pkgOfCore k = lost
  keys.foldl (fun t k => (List.range 9).foldl (fun u n => u.putStrm (sidOf k n) (Stream.blank (sidOf k n))) (t.putCore k Core.reset)) s3

/-- The entry of a rank table (R466). -/
def rankEntry (inc pser die : Nat) : BitVec 64 := BitVec.ofNat 64 (inc * 0x1000000000000 + pser * 0x10000 + die * 0x4000 + 1)

/-- The external dimensions of a rank. -/
def externalDims : List Nat := [2, 3, 4, 5, 6, 7, 8, 9]

/-- The port by which a switch plane faces a die of a package, among those for spares. -/
def Plane.portTo (p : Plane) (pser die : Nat) : Option Nat :=
  (p.faces.find? fun (n, f) => 128 ≤ n && n < 144 && f = some (4 * pser + die)).map Prod.fst

/-- Whether a spare package can take over a rank for its die: every external dimension of the rank passes through a switch plane that
faces the spare (R467). -/
def State.spareReaches (s : State) (rank pser : Nat) : Bool := externalDims.all fun d =>
  match SMap.get 0 (16 * rank + d) s.sys.wiring with
  | 0 => false
  | 1 => true
  | n + 2 => ((SMap.get ⟨[], []⟩ n s.sys.planes).portTo pser (rank % 4)).isSome

/-- The relabel tables of the planes that serve a rank name the spare's port (R468). -/
def State.relabelFor (s : State) (rank pser : Nat) : State :=
  externalDims.foldl (fun t d => match SMap.get 0 (16 * rank + d) t.sys.wiring with
    | n + 2 =>
      let p := SMap.get ⟨[], []⟩ n t.sys.planes
      { t with sys := { t.sys with
        planes := SMap.set ⟨[], []⟩ n { p with relabel := SMap.set none rank (p.portTo pser (rank % 4)) p.relabel } t.sys.planes } }
    | _ => t) s

/-- SPARE_INSTALLATION: where the wiring lets the spare take over the four ranks (R467), every rank table in the domain names its dies with
their new incarnations, and the relabel table of every switch plane that serves the ranks its ports (R468). -/
def execSpareInstallation (lost pser : Nat) (s : State) : Out :=
  let ranks := [0, 1, 2, 3].map (4 * lost + ·)
  if !(ranks.all fun r => s.spareReaches r pser) then .next s
  else
    let s1 := ranks.foldl (fun t r => t.relabelFor r pser) (s.spareFor lost pser)
    let entries := [0, 1, 2, 3].map fun i => (4 * lost + i, rankEntry (s1.dieOf (4 * lost + i)).inc pser i)
    .next ((List.range 1024).foldl (fun t r => t.modDie r fun d => { d with
      rankTab := entries.foldl (fun m (n, e) => SMap.set 0 n e m) d.rankTab
      dead := entries.foldl (fun m (n, _) => SMap.set false n false m) d.dead }) s1)

/-- A write of a protected partition has performed and its parity update has not (R470). -/
def State.parityOpen (s : State) : Bool := s.parityFrom fun _ => true

/-- STRIPE_REBUILD: the XOR of the seven surviving blocks of a stripe is written into the spare, once the writes on its way have their
parity updates (R470). -/
def execStripeRebuild (group stripe member spare : Nat) (s : State) : Out :=
  match (s.dieOf spare).parity with
  | none => .next s
  | some p =>
    if p.group != group || p.member != member || !(p.blocked.contains stripe) || s.parityOpen then .next s
    else
      let off := p.base + 0x10000 * stripe
      let block := fun (r : Nat) => Memory.readBytes s.sys.hbm (r * 0x400000000000 + off) 0x10000
      let others := (p.ranks.zipIdx.filter fun (_, i) => i != member).map Prod.fst
      let sum := others.foldl (fun acc r => List.zipWith (fun (a b : Byte) => a ^^^ b) acc (block r)) (List.replicate 0x10000 0)
      let left := p.blocked.filter (· != stripe)
      .next ((s.setHbm (Memory.writeBytes (spare * 0x400000000000 + off) sum s.sys.hbm)).modDie spare fun d =>
        { d with parity := some { p with blocked := left, ready := left.isEmpty } })

end Sys2Proof.Machine
end

