-- ==== Sys2Proof/Machine/EvFirmware.lean ====
section
/-! DEFINITION. The hardware steps of a core's firmware context: its share of the issue path (07 R170) and the live
replacement of its image and of the other controllers (23 R499 to R508). -/

namespace Sys2Proof.Machine

/-- FW_SHARE_WINDOW: in an arithmetic clock whose count is a multiple of 64 an aligned window begins (R170). -/
def execFwShareWindow (core : Nat) (s : State) : Out :=
  let c := s.coreOf core
  .next (if c.ac % 64 = 0 && c.fwWin != c.ac then s.putCore core { c with fwUsed := 0, fwWin := c.ac } else s)

/-- FW_WATCHDOG_EXPIRY: a context in probation fails after the die cycle in which the first budget was reached (R502, R503). -/
def execFwWatchdogExpiry (core : Nat) (s : State) : Out :=
  let c := s.coreOf core
  .next (if c.fwst = .probation && c.fwDue < s.sys.dc then s.fwFail core else s)

/-- The physical cores of a die. -/
def coresOfDie (die : Nat) : List Nat := (List.range 64).map (64 * die + ·)

/-- A core without its shadow and its record's protection. -/
def Core.settled (c : Core) : Core :=
  { c with
    fwst := .current, fwShadow := none, fwRecord := none, fwOldRev := 0, fwOldCode := [], fwOldLen := 0, fwDue := 0, fwBundles := 0
    fwPd := 0 }

/-- ARMED is clear and every FWSST is 0 (R505). -/
def Die.disarmed (d : Die) : Die := { d with fwstby := d.fwstby &&& ~~~1, fwsst := [], armedAt := 0 }

/-- The cores of a die whose firmware context has swapped. -/
def State.swapped (s : State) (die : Nat) : List Nat :=
  (s.ck :: s.cores.map Prod.fst).filter fun k => !(isParkKey k) && rankOfCore k = die && (s.coreOf k).fwst != .current

/-- Whether every firmware context of a package is alive. -/
def State.allAlive (s : State) (pkg : Nat) : Bool := (coresOfPkg pkg).all fun k =>
  !(bit (s.pkgOf pkg).working (coreInPkg k)) || (s.coreOf k).fwst = .alive

/-- FW_COMMIT: the MC writes FWCMT := 1 on a die, when every context of the package is alive and the deadline has not passed. The standby
image is then the running one (R517, R518). -/
def execFwCommit (die : Nat) (s : State) : Out :=
  let d := s.dieOf die
  let pkgAlive := [0, 1, 2, 3].all fun i =>
    let r := die / 4 * 4 + i
    !(bit (s.dieOf r).fwstby.toNat 0) || (coresOfDie r).all fun k => !(bit (s.pkgOf (die / 4)).working (coreInPkg k)) || (s.coreOf k).fwst = .alive
  .next (if !(bit d.fwstby.toNat 0) || !pkgAlive || d.armedAt + 0x40000000 < s.sys.dc then s
    else (s.swapped die).foldl (fun t k => (t.modCore k Core.settled).fwDeliver k)
      ((s.putDie die d.disarmed).modPkg (die / 4) fun p => p.runs 2 (d.fwsent.toNat / 0x100000000)))

/-- A context that had swapped goes back to the image in its shadow: it resumes after its FWSWAP with pd clear (R505). -/
def State.revertCore (s : State) (k : Nat) : State :=
  let c := s.coreOf k
  let s := s.ptwDone (sidOf k 8)
  match c.fwShadow with
  | none => s.modCore k Core.settled
  | some x =>
    let now := s.strmOf (sidOf k 8)
    let y := { x with
      run := .running, fwrev := c.fwOldRev, p := if c.fwPd = 0 then x.p else SMap.set false c.fwPd false x.p, cyc := now.cyc
      acAt := some c.ac, upsets := now.upsets, icnt := x.icnt + 1, fresh := false }
    ((s.putStrm (sidOf k 8) y).putCore k { c with fwCode := c.fwOldCode, fwLen := c.fwOldLen }).modCore k Core.settled

/-- FW_REVERT: the MC writes FWCMT := 2 on a die. -/
def State.revertDie (s : State) (die : Nat) : State :=
  (s.swapped die).foldl (fun t k => (t.revertCore k).fwDeliver k) (s.modDie die Die.disarmed)

def execFwRevert (die : Nat) (s : State) : Out := .next (s.revertDie die)

/-- COMMIT_DEADLINE_EXPIRY: 2^30 die cycles after arming, without every context alive, the MC reverts every die of the package. -/
def execCommitDeadlineExpiry (pkg : Nat) (s : State) : Out :=
  let dies := [0, 1, 2, 3].map (4 * pkg + ·)
  let due := dies.any fun r => bit (s.dieOf r).fwstby.toNat 0 && (s.dieOf r).armedAt + 0x40000000 < s.sys.dc
  .next (if due && !(s.allAlive pkg) then dies.foldl State.revertDie s else s)

/-- The class of a controller's images (R517). -/
def controllerCls : Controller → Nat
  | .mc => 1
  | .wheel => 3
  | .fabricManager => 4

/-- CONTROLLER_REPLACEMENT: the MC replaces another controller or itself; an image whose SVN is below the minimum, and one that does not
show itself alive, leaves the old image (R508, R517). -/
def execControllerReplacement (ctl : Controller) (die ident : Nat) (alive : Bool) (s : State) : Out :=
  let cls := controllerCls ctl
  .next (if !alive || !((s.pkgOf (die / 4)).admits cls ident) then s
    else
      let s1 := s.modPkg (die / 4) fun p => p.runs cls ident
      match ctl with
      | .wheel => s1.modDie die fun d => { d with wheelImg := ident }
      | .fabricManager => s1.modDie die fun d => { d with fmImg := ident }
      | .mc => s1)

end Sys2Proof.Machine
end

