-- ==== Sys2Proof/Machine/EvHost.lean ====
section
/-! DEFINITION. The hardware steps of the host link (22 R475 to R497, 09 R244, R254, 24 R513): the host's accesses to the windows of a
virtual function, the command rings and their packets, the records to the host, and the messages of a launch's start
(20 R463, R464). -/

namespace Sys2Proof.Machine

/-! ## The front end of a virtual device -/

/-- The core, the stream and the die of a virtual device's front end. -/
def State.feCore (s : State) (pkg vdev : Nat) : Nat := 256 * pkg + (s.vdevOf pkg vdev).fe
def State.feRank (s : State) (pkg vdev : Nat) : Nat := rankOfCore (s.feCore pkg vdev)
/-- RSTOP of a virtual device (R513). -/
def State.stopped (s : State) (pkg vdev : Nat) : Bool := SMap.get false vdev (s.dieOf (s.feRank pkg vdev)).rstop

/-- A notify write that reaches a core: into the register, or into the latch of a gated one (R234, R235). -/
def Core.notified (c : Core) (n : Nat) (v : Word) : Core :=
  if c.gated then { c with latches := SMap.modify 0 n (· ||| v) c.latches } else { c with notifyOr := c.notifyOr ++ [(n, v)] }

/-- The answer of the host link to a request: 0 done, 1 Unsupported Request, 2 Completer Abort. -/
def State.hostAnswers (s : State) (pkg st : Nat) (bs : List Byte) : State := s.modPkg pkg fun p => { p with hostReply := some (st, bs) }

/-! ## Memory of a virtual device as the front end and the host bridge reach it -/

/-- Write bytes at a virtual address, uncached; bytes of a page that is not mapped are not written. -/
def State.vaWrite (s : State) (pkg vdev va : Nat) (bs : List Byte) : State :=
  (pagesOf vdev va bs.length).foldl (fun t (_, pv) => match t.walkVa pkg vdev pv with
    | none => t
    | some w =>
      let lo := max va pv
      let hi := min (va + bs.length) (pv + 0x10000)
      (t.hbmWrite (w.phys + lo % 0x10000) ((bs.drop (lo - va)).take (hi - lo))).markDevDirty pkg vdev pv) s

/-- Whether the host bridge translates every page of an access (R244). -/
def State.bridgeOk (s : State) (pkg vdev va n : Nat) (write : Bool) : Bool := va + n ≤ 0x100000000000000 &&
  (pagesOf vdev va n).all fun (_, pv) => match s.walkVa pkg vdev pv with
    | some t => isHbm t.phys && (!write || t.w)
    | none => false

/-- A translation failure at the host bridge. -/
def State.bridgeFault (s : State) (pkg vdev va : Nat) : State :=
  (s.sherd (s.feRank pkg vdev) { kind := 0x1A, core := s.feCore pkg vdev, unit := 13, addr := va }).hostAnswers pkg 1 []

/-- HOST_MEMORY_ACCESS: an access through BAR4 (R244, R479). -/
def execHostMemoryAccess (pkg vdev offset size : Nat) (write : Option (List (BitVec 8))) (s : State) : Out :=
  let va := (s.vdevOf pkg vdev).wbase + offset
  let n := match write with
    | some bs => bs.length
    | none => size
  .next (if !(s.bridgeOk pkg vdev va n write.isSome) then s.bridgeFault pkg vdev va
    else match write with
      | some bs => (s.vaWrite pkg vdev va bs).hostAnswers pkg 0 []
      | none => s.hostAnswers pkg 0 ((s.vaBytes pkg vdev va size).getD []))

/-- HOST_ATOMICOP: at the home of a page with SA, otherwise refused with a record (R254). -/
def execHostAtomicop (pkg vdev offset : Nat) (op : HostAtomic) (size operand compare : Nat) (s : State) : Out :=
  let va := (s.vdevOf pkg vdev).wbase + offset
  let refuse := (s.sherd (s.feRank pkg vdev) { kind := 0x19, core := s.feCore pkg vdev, unit := 13, addr := va }).hostAnswers pkg 2 []
  .next (if !(s.bridgeOk pkg vdev va size true) then s.bridgeFault pkg vdev va
    else match s.walkVa pkg vdev va with
      | none => s.bridgeFault pkg vdev va
      | some t =>
        if !t.sa || va % size != 0 then refuse
        else
          let a := t.phys + va % 0x10000
          let old := Memory.readNat s.sys.hbm a size
          let new := match op with
            | .fetchAdd => old + operand
            | .swap => operand
            | .cas => if old = compare % 256 ^ size then operand else old
          ((s.hbmWrite a (leBytes size new)).markDevDirty pkg vdev va).hostAnswers pkg 0 (leBytes size old))

/-- BAR2_ATOMIC_REFUSED: an AtomicOp to BAR2 other than a 64-bit FetchAdd to a reserve register (R478). -/
def execBar2AtomicRefused (pkg vdev offset : Nat) (s : State) : Out :=
  .next ((s.sherd (s.feRank pkg vdev) { kind := 0x19, core := s.feCore pkg vdev, unit := 13, addr := offset }).hostAnswers pkg 2 [])

/-- HOST_NOTIFY_WRITE: a write to the notify window (R477, R234, R235). -/
def execHostNotifyWrite (pkg vdev offset size value : Nat) (s : State) : Out :=
  let lc := value / 0x1000000000000 % 0x10000
  let low := value / 0x100000000 % 0x10000
  let n := (offset - 0x800) / 8
  let v := value % 0x100000000
  let drop := s.modVdev pkg vdev fun x => { x with ndrop := min 0xFFFFFFFF (x.ndrop + 1) }
  let named := s.sys.launches.find? fun (lk, o) => o.any fun l =>
    l.pkg = pkg && l.vdev = vdev && lk % 0x10000 = low && l.phase = .running
  .next (if offset < 0x800 || 0x880 ≤ offset || offset % 8 != 0 || size != 8 then drop
    else match named with
      | some (lk, some l) => match l.lcoreRank lc with
        | none => drop
        | some r => match l.coreAt lk lc with
          | some k => s.modCore k fun c => c.notified n (BitVec.ofNat 32 v)
          | none => (s.requestBy (s.feSid pkg vdev) .store
              { Msg.of 8 (s.feRank pkg vdev) r 0 lk with dlc := lc, args := [n, v] } [] 0 false).1
      | _ => drop)

/-! ## Registers (R476, R392, R456, R500, R519) -/

/-- A BAR0 register without behaviour of its own as a host write leaves it. -/
def Vdev.bar0Write (v : Vdev) (off value : Nat) : Vdev :=
  if off = 0x10 then
    if value % 0x10000000000 = 0 && value < 0x100000000000000 then { v with wbase := value } else v
  else if off = 0x100 then if bit v.cqctl 8 then v else { v with cqbase := value }
  else if 0x50 ≤ off && off ≤ 0xB0 && (off - 0x50) % 0x20 = 0 && 16 ≤ value % 32 then
    let q := (off - 0x50) / 0x20
    { v with rings := SMap.set (HRing.reset q) q { SMap.get (HRing.reset q) q v.rings with rto := value % 32 } v.rings }
  else v

/-- A die's register as the management controller leaves it; a region entry waits for the accesses of its old owner (R263). ARMED is set
only for an image whose SVN the package admits (R500, R517). -/
def State.dieRegWrite (s : State) (die off value : Nat) : State :=
  let d := s.dieOf die
  let w : Addr := BitVec.ofNat 64 value
  if off = fwstbyOff then
    if bit value 0 && !((s.pkgOf (die / 4)).admits 2 (d.fwsent.toNat / 0x100000000)) then s
    else s.putDie die { d with
      fwstby := w &&& 0xFFFFFFFFFFFFC1, armedAt := if bit value 0 && !(bit d.fwstby.toNat 0) then s.sys.dc else d.armedAt }
  else if off = fwsentOff then s.putDie die { d with fwsent := w &&& 0xFFFFFFFF0FFFFFFF }
  else if off = fwwdOff then
    let bund := if value % 0x100000000 = 0 then d.fwwd.toNat % 0x100000000 else value % 0x100000000
    let dcyc := if value / 0x100000000 % 0x100000000 = 0 then d.fwwd.toNat / 0x100000000 else value / 0x100000000 % 0x100000000
    s.putDie die { d with fwwd := BitVec.ofNat 64 (dcyc * 0x100000000 + bund) }
  else if off % 8 = 0 && isDieReg off && s.regReady die off 8 then s.regPut die off (value % 0x10000000000000000)
  else s

/-- REGISTER_WRITE: invalid values are ignored. MBCMD with a code that names no command sets DONE with BADCMD (25 R519); the three commands
are hardware steps of their own. -/
def execRegisterWrite (reg : DevReg) (value : Nat) (s : State) : Out := .next (match reg with
  | .bar0 pkg vdev off => s.modVdev pkg vdev fun v => v.bar0Write off value
  | .dieReg die off => s.dieRegWrite die off value
  | .mailbox pkg =>
    if 1 ≤ value % 256 && value % 256 ≤ 3 then s
    else s.modPkg pkg fun p => { p with
      mbst := 2 + 0x100 + 0x10000 * p.svcl + 0x100000 * p.bootStep + 0x1000000 * p.bootReason, mbrsp := [], mbrlen := 0 })

/-- CQCTL_WRITE: a CQLOG out of range is ignored with the whole write, and an enabled queue keeps its CQLOG (R497). -/
def execCqctlWrite (pkg vdev value : Nat) (s : State) : Out :=
  .next (s.modVdev pkg vdev fun v =>
    let log := value % 32
    if log < 4 || 16 < log then v
    else { v with cqctl := value / 0x10000 % 0x800 * 0x10000 + value / 256 % 2 * 256 + if bit v.cqctl 8 then v.cqctl % 32 else log })

/-- CQHEAD_WRITE (R496). -/
def execCqheadWrite (pkg vdev value : Nat) (s : State) : Out := .next (s.modVdev pkg vdev fun v => { v with cqhead := value % 0x100000000 })

/-- RSTOP_WRITE (R513). -/
def execRstopWrite (die vdev value : Nat) (s : State) : Out := .next (s.setRstop die vdev (bit value 0))

/-- COMPLETION_RECORD_WRITE: the oldest held record goes to the queue while it is enabled and has room (R495 to R497); the copies of its
launch's `.reloc` sections are then free (R81). -/
def execCompletionRecordWrite (pkg vdev : Nat) (s : State) : Out :=
  let v := s.vdevOf pkg vdev
  let size := 2 ^ (v.cqctl % 32)
  .next (match v.held with
    | [] => s
    | r :: rest =>
      if !(bit v.cqctl 8) || size ≤ (v.cqtail + 0x100000000 - v.cqhead) % 0x100000000 then s
      else
        let phase := if bit v.cqtail (v.cqctl % 32) then 0 else 0x80
        let bs := patch 1 (leBytes 1 (fld r 1 1 + phase)) r
        let s1 := { s with sys := { s.sys with host := Memory.writeBytes (v.cqbase + 64 * (v.cqtail % size)) bs s.sys.host } }
        let done := v.copies.find? (·.1 = r)
        s1.modVdev pkg vdev fun y => { y with
          copies := (match done with
            | some c => y.copies.erase c
            | none => y.copies)
          freeVa := y.freeVa ++ (match done with
            | some c => c.2
            | none => [])
          held := rest, cqtail := (v.cqtail + 1) % 0x100000000, msix := y.msix + 1 })

/-! ## Reserving slots (R480 to R482) -/

def Vdev.ring (v : Vdev) (q : Nat) : HRing := SMap.get (HRing.reset q) q v.rings
def State.putRing (s : State) (pkg vdev q : Nat) (r : HRing) : State :=
  s.modVdev pkg vdev fun v => { v with rings := SMap.set (HRing.reset q) q r v.rings }

/-- The address of a slot. -/
def slotVa (poolb seg slot : Nat) : Nat := poolb + 0x10000 * seg + 64 * slot
/-- A sequence number of 30 bits. -/
def seq30 (n : Nat) : Nat := n % 0x40000000

/-- The result of a FetchAdd on a reserve register. -/
def reserveWord (st seq seg slot : Nat) : List Byte := leBytes 8 (st * 0x4000000000000000 + seq * 0x100000000 + seg * 0x400 + slot)

/-- A ring moves to a new segment: NOP packets fill the rest of the old one, and the link packet names the new one. -/
def State.growRing (s : State) (pkg vdev g : Nat) (r : HRing) : State × HRing :=
  let poolb := (s.vdevOf pkg vdev).poolb
  let cleared := (List.range 1024).foldl (fun t i => t.vaWrite pkg vdev (slotVa poolb g i + 4) (leBytes 4 0)) s
  let stamp := fun i => leBytes 4 (0x80000000 + seq30 (r.rseq + (i - r.tail)))
  let nop := fun i => leBytes 4 0 ++ stamp i ++ List.replicate 56 0
  let link := leBytes 4 0x7F ++ stamp 1023 ++ List.replicate 8 0 ++ leBytes 2 g ++ List.replicate 46 0
  let filled := (List.range (1023 - r.tail)).foldl (fun t i => t.vaWrite pkg vdev (slotVa poolb r.seg (r.tail + i)) (nop (r.tail + i))) cleared
  ((filled.vaWrite pkg vdev (slotVa poolb r.seg 1023) link).modVdev pkg vdev fun v => { v with free := v.free.filter (· != g) },
    { r with rseq := seq30 (r.rseq + (1024 - r.tail)), seg := g, tail := 0, chain := r.chain ++ [g] })

/-- The slots are the requester's: sequence numbers, tail, the reservation, and the bit of the ring in n15 of the front end. -/
def State.takeSlots (s : State) (pkg vdev q n st : Nat) (r : HRing) : State :=
  let s1 := s.putRing pkg vdev q { r with rseq := seq30 (r.rseq + n), tail := r.tail + n, resv := r.resv ++ [(r.rseq, n, s.sys.dc)] }
  (s1.modCore (s.feCore pkg vdev) fun c => c.notified 15 (BitVec.ofNat 32 (2 ^ q))).hostAnswers pkg 0 (reserveWord st r.rseq r.seg r.tail)

/-- RESERVE: a FetchAdd to the reserve register of a ring (R481, R513). -/
def execReserve (pkg vdev ring addend : Nat) (s : State) : Out :=
  let v := s.vdevOf pkg vdev
  let r := v.ring ring
  .next (if 4 ≤ ring then s
    else if addend < 1 || 16 < addend then s.hostAnswers pkg 0 (reserveWord 3 r.rseq 0 0)
    else if s.stopped pkg vdev then s.hostAnswers pkg 0 (reserveWord 2 r.rseq 0 0)
    else if r.tail + addend ≤ 1023 then s.takeSlots pkg vdev ring addend 0 r
    else match v.free with
      | [] => s.hostAnswers pkg 0 (reserveWord 2 r.rseq 0 0)
      | g :: _ => let (t, r1) := s.growRing pkg vdev g r
        t.takeSlots pkg vdev ring addend 1 r1)

/-! ## Consuming packets (R483 to R487, R496, R504) -/

/-- The packet at a ring's RCONS, once its STAMP has appeared: its bytes, as many slots as its header says. -/
def State.packetAt (s : State) (pkg vdev q : Nat) : Option (List Byte) :=
  let v := s.vdevOf pkg vdev
  let r := v.ring q
  match s.vaBytes pkg vdev (slotVa v.poolb r.cseg r.cslot) 64 with
  | none => none
  | some h =>
    if fld h 4 4 != 0x80000000 + r.rcons then none
    else s.vaBytes pkg vdev (slotVa v.poolb r.cseg r.cslot) (64 * (fld h 0 4 / 256 % 16 + 1))

/-- Whether the front end takes packets of a virtual device at all: no RSTOP, room for records, and a firmware context that is not in
probation (R513, R496, R504). -/
def State.serves (s : State) (pkg vdev : Nat) : Bool :=
  !(s.stopped pkg vdev) && (s.vdevOf pkg vdev).held.length < 4096
def State.servesLaunch (s : State) (pkg vdev : Nat) : Bool :=
  let st := (s.coreOf (s.feCore pkg vdev)).fwst
  s.serves pkg vdev && st != .probation && st != .alive

/-- A ring's packet is served in its turn: no ring after the last one served, and before this one, has a packet (R484). A packet that waits for its
cores holds back only its own ring. -/
def State.ringTurn (s : State) (pkg vdev q : Nat) : Bool :=
  let last := (s.vdevOf pkg vdev).last
  let ahead := ((List.range 4).map fun i => (last + 1 + i) % 4).takeWhile (· != q)
  let held := fun p => s.sys.launches.any fun (_, o) => o.any fun l => l.pkg = pkg && l.vdev = vdev && l.ring = p && l.phase = .waiting && l.spanBase = pkg
  ahead.all fun p => (s.packetAt pkg vdev p).isNone || held p

/-- The reservations that still hold slots not consumed. -/
def HRing.trim (r : HRing) : HRing := { r with resv := r.resv.filter fun (a, n, _) =>
  let left := seq30 (a + n + 0x40000000 - r.rcons)
  left != 0 && left < 0x20000000 }

/-- RCONS advances by slots of a packet, never past the link slot. -/
def State.consume (s : State) (pkg vdev q n : Nat) : State :=
  let r := (s.vdevOf pkg vdev).ring q
  let step := min n (1023 - r.cslot)
  (s.putRing pkg vdev q ({ r with rcons := seq30 (r.rcons + step), cslot := r.cslot + step } : HRing).trim).modVdev pkg vdev fun v => { v with last := q }

/-- A packet of an opcode at RCONS, in its turn: its bytes and its slots. -/
def State.served (s : State) (pkg vdev q opc : Nat) : Option (List Byte × Nat) := match s.packetAt pkg vdev q with
  | some bs => if s.ringTurn pkg vdev q && fld bs 0 1 = opc then some (bs, fld bs 0 4 / 256 % 16 + 1) else none
  | none => none

/-- A refusal or command record of a packet (R495). -/
def State.packetRecord (s : State) (pkg vdev q kind status tag aux : Nat) (bs : List Byte) : State :=
  s.pushRecord pkg vdev { kind := kind, ring := q, tag := tag, status := status, cookie := fld bs 8 8
                          seq := ((s.vdevOf pkg vdev).ring q).rcons, aux := aux }

/-- Serve a command packet: its format, its slots inside the segment, the service level (R516), then its effect; it is consumed in any case. -/
def State.command (s : State) (pkg vdev q opc : Nat) (formatBad : List Byte → Bool) (go : List Byte → State → State) : State :=
  if !(s.serves pkg vdev) then s
  else match s.served pkg vdev q opc with
    | none => s
    | some (bs, n) =>
      let runs := 1023 < ((s.vdevOf pkg vdev).ring q).cslot + n
      (if runs || formatBad bs then s.packetRecord pkg vdev q 3 0x101 0 0 bs
        else if (s.pkgOf pkg).svcl < 3 then s.packetRecord pkg vdev q 3 0x109 0 0 bs else go bs s).consume pkg vdev q n

/-- The codes of R487. -/
def knownOpc (opc : Nat) : Bool := opc ≤ 7 || opc = 0x7F

/-- NOP_PACKET: consumed without a record (R484); a packet of an unassigned code is refused with FORMAT (R487). -/
def execNopPacket (pkg vdev ring : Nat) (s : State) : Out :=
  .next (if !(s.serves pkg vdev) then s
    else match s.packetAt pkg vdev ring with
      | none => s
      | some bs =>
        let opc := fld bs 0 1
        let n := fld bs 0 4 / 256 % 16 + 1
        if !(s.ringTurn pkg vdev ring) || (opc != 0 && knownOpc opc) then s
        else (if opc != 0 || fld bs 0 4 != 0 then s.packetRecord pkg vdev ring 3 0x101 0 0 bs else s).consume pkg vdev ring n)

/-- LINK_PACKET: consumption goes on in the next segment, and the old one returns to the free list (R486). -/
def execLinkPacket (pkg vdev ring : Nat) (s : State) : Out :=
  let r := (s.vdevOf pkg vdev).ring ring
  .next (if !(s.serves pkg vdev) then s
    else match s.served pkg vdev ring 0x7F with
      | none => s
      | some (bs, n) =>
        if r.cslot != 1023 then (s.packetRecord pkg vdev ring 3 0x101 0 0 bs).consume pkg vdev ring n
        else
          let r1 := ({ r with rcons := seq30 (r.rcons + 1), cslot := 0, cseg := fld bs 16 2, chain := r.chain.filter (· != r.cseg) } : HRing).trim
          (s.putRing pkg vdev ring r1).modVdev pkg vdev fun v => { v with free := v.free ++ [r.cseg], last := ring })

/-- A launch of this ring that waits for its cores. -/
def State.waitingLaunch (s : State) (pkg vdev q : Nat) (mine : Bool) : Option Nat :=
  (s.sys.launches.find? fun (_, o) => o.any fun l => l.pkg = pkg && l.vdev = vdev && l.ring = q && l.phase = .waiting && (l.spanBase = pkg) = mine).map
    Prod.fst

/-- A bare launch takes the lowest idle core, reads its input image and starts its task; a page of the input that is not mapped ends
it with status 18 (R30, R489). -/
def State.startBare (s : State) (lk : Nat) (bs : List Byte) (l : Launch) : State × Bool :=
  match (maskCores (s.vdevOf l.pkg l.vdev).cmask).find? fun c => (s.coreOf (256 * l.pkg + c)).launch = 0 with
  | none => (s, false)
  | some c => match s.vaBytes l.pkg l.vdev (fld bs 64 8) (fld bs 72 4) with
    | none => (s.endLaunch lk 18 0 0, true)
    | some img =>
      let l1 := { l with cores := [1], ranks := [4 * l.pkg + c / 64], maps := [(0, some (256 * l.pkg + c))] }
      match s.takeCores lk l1 .running with
      | none => (s, false)
      | some t => (t.bareTask bs (256 * l.pkg + c) img, true)

/-- An accepted packet's launch goes on where its cores are free; the packet is then consumed. -/
def State.goOn (s : State) (lk pkg vdev q n : Nat) (bs : List Byte) : State :=
  let (t, gone) := match s.launchOf lk with
    | some l => if l.bare.isSome then s.startBare lk bs l else s.tryTake lk bs
    | none => (s, true)
  if gone then t.consume pkg vdev q n else t

/-- Serve a packet that starts a launch: refused with a record, or accepted (R490). -/
def State.launchCommand (s : State) (pkg vdev q opc : Nat) (formatBad : List Byte → Bool) (tag : List Byte → Nat)
    (check : List Byte → From → Except Nat Launch) (more : List Byte → Nat → Launch → State → State × Launch) : State :=
  if !(s.servesLaunch pkg vdev) || (s.waitingLaunch pkg vdev q true).isSome then s
  else match s.served pkg vdev q opc with
    | none => s
    | some (bs, n) =>
      let r := (s.vdevOf pkg vdev).ring q
      if 1023 < r.cslot + n || formatBad bs then (s.packetRecord pkg vdev q 3 0x101 0 0 bs).consume pkg vdev q n
      else match check bs ⟨q, r.rcons⟩ with
        | .error st => (s.packetRecord pkg vdev q 3 st (tag bs) 0 bs).consume pkg vdev q n
        | .ok l =>
          let (s1, id) := s.takeId pkg vdev
          let (s2, l1) := more bs id l s1
          let lk := launchKey pkg id
          (s2.accept lk l1).goOn lk pkg vdev q n bs

/-- LAUNCH_PACKET (R488, R490). -/
def execLaunchPacket (pkg vdev ring : Nat) (s : State) : Out :=
  .next (s.launchCommand pkg vdev ring 1 (launchFormatBad · pkg) (fun _ => 0) (s.checkLaunch · pkg vdev) fun _ _ l t => (t, l))

/-- BARE_PACKET (R28, R489, R490). -/
def execBarePacket (pkg vdev ring : Nat) (s : State) : Out :=
  .next (s.launchCommand pkg vdev ring 2 bareFormatBad (fun bs => fld bs 34 2) (s.checkBare · pkg vdev) fun _ _ l t => (t, l))

/-- INVOKE_PACKET: the residency check, the loan of the writable buffers, which waits for the accesses of their former owners (R263), and
the start (R493, R494). -/
def execInvokePacket (pkg vdev ring : Nat) (s : State) : Out :=
  let busy := match s.served pkg vdev ring 3 with
    | some (bs, _) => !(invokeFormatBad bs) && match s.checkInvoke bs pkg vdev ⟨ring, 0⟩ with
      | .ok l => !(s.buffersReady pkg vdev l.ncores (invokeBuffers bs (fld bs 17 1)))
      | .error _ => false
    | none => false
  .next (if busy then s else s.launchCommand pkg vdev ring 3 invokeFormatBad (fun bs => fld bs 20 2) (s.checkInvoke · pkg vdev) fun bs id l t =>
    let (u, lent) := t.lendBuffers pkg vdev id l.ncores (invokeBuffers bs (fld bs 17 1))
    let n := fld bs 16 1 % 64
    let more : RSlot → RSlot := fun r => { r with running := r.running + 1 }
    (u.modVdev pkg vdev fun v => { v with slots := SMap.modify RSlot.free n more v.slots }, { l with lent := lent }))

/-- LAUNCH_START: a waiting launch of a ring takes its cores once they are free, and its packet is consumed; a launch from a peer has
no packet here (R490, R463). -/
def execLaunchStart (pkg vdev ring : Nat) (s : State) : Out :=
  .next (match s.waitingLaunch pkg vdev ring true with
    | some lk =>
      if !(s.servesLaunch pkg vdev) then s
      else
        let bs := (s.packetAt pkg vdev ring).getD []
        s.goOn lk pkg vdev ring (fld bs 0 4 / 256 % 16 + 1) bs
    | none => match s.waitingLaunch pkg vdev ring false with
      | some lk => (s.tryTake lk []).1
      | none => s)

/-- One slot, and nothing after the OPC in OPW. -/
def oneSlotBad (bs : List Byte) : Bool := fld bs 0 4 / 256 != 0

/-- SLOTLD_PACKET: checks and pins an image into a free slot and raises its GEN (R81, R492). -/
def execSlotldPacket (pkg vdev ring : Nat) (s : State) : Out :=
  .next (s.command pkg vdev ring 4 oneSlotBad fun bs t =>
    let n := fld bs 16 1 % 64
    let va := fld bs 24 8
    let r := SMap.get RSlot.free n (t.vdevOf pkg vdev).slots
    let img := (t.goodImage pkg vdev va).getD []
    let h := (slotHeader img).getD []
    let nests := pagesOf vdev (fld h 16 8) (64 * fld h 7 1)
    if img.isEmpty || h.isEmpty || slotHeaderBad h || fld img 44 4 != 0 || nests.any fun (v, a) => (t.walkVa pkg v a).isNone then
      t.packetRecord pkg vdev ring 3 0x103 0 0 bs
    else if r.resident || !(t.weightsMatch pkg vdev h) then t.packetRecord pkg vdev ring 3 0x105 0 0 bs
    else
      let gen := if (r.gen + 1) % 0x10000 = 0 then 1 else (r.gen + 1) % 0x10000
      let pages := pagesOf vdev va img.length ++ nests
      ((t.pinAll pkg pages).modVdev pkg vdev fun v => { v with
        slots := SMap.set RSlot.free n ⟨gen, true, none, va, 0, pages⟩ v.slots }).packetRecord pkg vdev ring 4 0 0 gen bs)

/-- SLOTRM_PACKET: refuses new invocations and frees the slot when its running ones have completed (R492). -/
def execSlotrmPacket (pkg vdev ring : Nat) (s : State) : Out :=
  .next (s.command pkg vdev ring 5 oneSlotBad fun bs t =>
    let n := fld bs 16 1 % 64
    let v := t.vdevOf pkg vdev
    let r := SMap.get RSlot.free n v.slots
    if !r.resident || r.removing.isSome then t.packetRecord pkg vdev ring 3 0x105 0 0 bs
    else
      let marked := t.modVdev pkg vdev fun v => { v with
        slots := SMap.set RSlot.free n { r with removing := some (ring, (v.ring ring).rcons, fld bs 8 8) } v.slots }
      if r.running = 0 then marked.slotEnds pkg vdev n else marked)

/-- The launch of a virtual device that a PURGE or KILL packet names and that runs, or has its cores and waits for the start release. -/
def State.named (s : State) (pkg vdev : Nat) (bs : List Byte) : Option Nat :=
  let lk := launchKey pkg (fld bs 16 4)
  match s.launchOf lk with
  | some l => if l.vdev = vdev && (l.phase = .running || l.phase = .starting) then some lk else none
  | none => none

/-- PURGE_PACKET (R382, R487). -/
def execPurgePacket (pkg vdev ring : Nat) (s : State) : Out :=
  .next (s.command pkg vdev ring 6 oneSlotBad fun bs t => match t.named pkg vdev bs with
    | some lk => ((t.purge lk (fld bs 20 2) 0 (t.feRank pkg vdev)).sendPurges (t.feSid pkg vdev) lk).packetRecord pkg vdev ring 4 0
        (fld bs 20 2) 0 bs
    | none => t.packetRecord pkg vdev ring 3 0x10C 0 0 bs)

/-- KILL_PACKET (R385, R386, R487). -/
def execKillPacket (pkg vdev ring : Nat) (s : State) : Out :=
  .next (s.command pkg vdev ring 7 oneSlotBad fun bs t => match t.named pkg vdev bs with
    | some lk => (t.teardown lk 0x10A (t.feRank pkg vdev)).packetRecord pkg vdev ring 4 0 0 0 bs
    | none => t.packetRecord pkg vdev ring 3 0x10C 0 0 bs)

/-- RING_SLOT_TIMEOUT: a reservation whose STAMP has not appeared in 2^RTEXP die cycles is skipped (R485, R513). -/
def execRingSlotTimeout (pkg vdev ring : Nat) (s : State) : Out :=
  let r := (s.vdevOf pkg vdev).ring ring
  .next (match r.resv.find? fun (a, n, _) => seq30 (r.rcons + 0x40000000 - a) < n with
    | none => s
    | some (a, n, t) =>
      if s.stopped pkg vdev || !(s.serves pkg vdev) || (s.packetAt pkg vdev ring).isSome || s.sys.dc < t + 2 ^ r.rto then s
      else (s.pushRecord pkg vdev { kind := 3, ring := ring, status := 0x108, seq := a }).consume pkg vdev ring (seq30 (a + n + 0x40000000 - r.rcons)))

/-! ## The messages of a launch's start (R463, R464) -/

/-- LAUNCH_PACKET_MESSAGE. -/
def execLaunchPacketMessage (msg : Nat) (s : State) : Out := requestArrives 16 msg s
/-- START_ARRIVAL. -/
def execStartArrival (msg : Nat) (s : State) : Out := requestArrives 17 msg s
/-- START_RELEASE. -/
def execStartRelease (msg : Nat) (s : State) : Out := requestArrives 18 msg s

/-- LAUNCH_ARRIVAL_TIMEOUT: a base package that lacks an arrival after 2^TEXP × (FRTRY + 1) die cycles sends the refusal (R464). -/
def execLaunchArrivalTimeout (launch : Nat) (s : State) : Out := .next (match s.launchOf launch with
  | none => s
  | some l =>
    let d := s.dieOf (4 * l.pkg)
    if l.phase != .starting || l.pkg != l.spanBase || s.sys.dc < l.sentAt + d.timeout * (d.retries + 1) then s
    else (s.sendReleases (launchId launch) l true).endLaunch launch 24 0 0)

end Sys2Proof.Machine
end

