-- ==== Sys2Proof/Machine/EvMemory.lean ====
section
/-! DEFINITION. The hardware steps of memory: data arriving in queues (11 R287), evictions (09 R236), errors (09 R238, 16 R388 to
R391), leaky buckets and spares (16 R392, R393), home hints (09 R253), and gated cores (09 R235). -/

namespace Sys2Proof.Machine

/-! ## Queues and caches -/

/-- The data of a queue load arrives in its copies (R398, R400): where they differ they meet here, each lane of a lane form or of the v
form on its own, after a tie-break where one is due, for which the stream does not stop (log 92). An entry whose copies stay apart
takes a deferred mark in place of the data (R410). -/
def State.arriveData (s : State) (r : Req) (data : VReg) : State :=
  let x := s.strmOf r.sid
  match (x.q.findSome? fun (_, es) => es.find? (·.req = r.id)), x.upsets.filter (·.site = .data) with
  | some e, u :: us =>
    let copy := fun c => (u :: us).foldl (fun v w => if w.copy = c then v ^^^ w.flip else v) data
    let form : LaneForm := if e.mask.isSome then .words else .scalar
    let gm := e.mask.getD 0
    let cs := (List.range 3).map fun c => (⟨copy c, 0, .none, BitVec.allOnes 1024, gm, true⟩ : RCopy)
    let meet := fun n t => vote n t (comparedLanes form [gm]) fun c i => (cs.getD c RCopy.off).item form i
    let n0 := if e.prot = 0 then 1 else if e.prot = 2 then 3 else 2
    let n := if (meet n0 x.tbrk).tie then 3 else n0
    let v := meet n false
    let t := (s.modStrm r.sid fun y => { y with upsets := y.upsets.filter (·.site != .data) }).focus r.sid
    if v.lanes.isEmpty then (t.fillEntry r.sid r.id (copy 0) .none).focus s.sid
    else
      let cause := if v.stands then 0 else if n = 3 then 23 else 22
      let (t1, seq) := t.protRecord n form (e.mask.getD 0xFFFFFFFF).toNat e.pos cause v fun c =>
        (cs.getD c RCopy.off).shown form (v.lanes.headD 32)
      (t1.fillEntry r.sid r.id (if v.stands then (mergeCopies form v cs).val else 0) (if v.stands then .none else .deferred cause seq)).focus s.sid
  | _, _ => s.fillEntry r.sid r.id data .none

/-- QUEUE_DATA_ARRIVAL: the data of a queue load or of a local atomic is complete and enters its entry, which can be popped from the
next arithmetic clock on. -/
def execQueueDataArrival (req : Nat) (s : State) : Out := .next (match s.reqOf req with
  | none => s
  | some r =>
    let parts := s.sys.reqs.any fun q => match q.wait with
      | .part x _ => x = req
      | _ => false
    let fill := fun (v : VReg) => (s.fillEntry r.sid req v .none).dropReq req
    if parts || !r.ready then s
    else match r.wait with
      | .entry _ => (s.arriveData r (vecOfBytes (Memory.readBytes r.data 0 128))).dropReq req
      | .atomic _ vec _ => fill (vecOfBytes (Memory.readBytes r.data 0 (if vec then 32 else 4)))
      | _ => s)

/-- LINE_EVICTION: a line of L1 goes to the L2 slice, or a line of the slice to HBM, and leaves its cache. -/
def execLineEviction (core line : Nat) (l2 : Bool) (s : State) : Out :=
  .next (if l2 then (s.l2Back core line).l2Drop core line else (s.l1Back core line).l1Drop core line)

/-! ## Errors -/

/-- The die, the core (where there is one) and the unit of a fault's site (R394). -/
def siteOf : FaultSite → Nat × Nat × Nat
  | .poolWord k _ | .lineStore k _ => (rankOfCore k, k, 4)
  | .l1Line k _ | .l2Line k _ => (rankOfCore k, k, 9)
  | .hbmWord a => (physRank a, physRank a * 64, 10)
  | .kilnEntry k _ _ | .frameDescriptor k _ | .cone k _ => (rankOfCore k, k, 11)
  | .queueEntry k u _ _ => (rankOfCore k, k, u)
  | .wheelRecord d _ _ => (d, d * 64, 12)
  | .ringPointer p _ _ => (4 * p, 4 * p * 64, 13)
  | .lane k u _ => (rankOfCore k, k, u)

/-- The address that a record of an error names. -/
def siteAddr : FaultSite → Nat
  | .poolWord _ a | .hbmWord a => a
  | .l1Line _ l | .l2Line _ l => 128 * l
  | .lineStore _ l => 64 * l
  | .kilnEntry _ n _ | .frameDescriptor _ n | .cone _ n | .queueEntry _ _ n _ | .wheelRecord _ n _ => n
  | .ringPointer _ _ n | .lane _ _ n => n

/-- The physical bank of a pool address (R228, R231), and the number that stands for L1 among the banks of a core (log 97). -/
def Core.bankOf (c : Core) (a : Nat) : Nat := (optGet (a / 128 % 64) c.bankMap).getD (a / 128 % 64)
def l1Bank : Nat := 66

/-- The bucket that a corrected error feeds (R238, R388, R392): a Wheel record that of the die's first cluster (log 97). -/
def State.siteBucket (s : State) (f : FaultSite) : State := match f with
  | .poolWord k a => s.coreBucket k 0 ((s.coreOf k).bankOf a) 1
  | .l1Line k _ => s.coreBucket k 0 l1Bank 1
  | .lane k u n => s.coreBucket k 1 (u * 64 + n) 1
  | .l2Line k l => s.dieBucket (rankOfCore k) 4 (coreInDie k / 8 * 16 + l % 16) 1
  | .hbmWord a => s.dieBucket (physRank a) 5 (hbmStack a * 256 + pseudoChannel a) 1
  | .lineStore k _ | .kilnEntry k _ _ | .frameDescriptor k _ | .cone k _ | .queueEntry k _ _ _ =>
    s.dieBucket (rankOfCore k) 6 (coreInDie k / 8) 1
  | .wheelRecord d _ _ => s.dieBucket d 6 0 1
  | .ringPointer _ _ _ => s

/-- SRC1 of the record of an error (R394): the lane or the bank. -/
def State.siteSrc1 (s : State) (f : FaultSite) : Nat := match f with
  | .poolWord k a => (s.coreOf k).bankOf a * 256
  | .l1Line _ _ => l1Bank * 256
  | .l2Line _ l => l % 16 * 256
  | .hbmWord a => pseudoChannel a * 256 + hbmStack a
  | .lane _ _ n => n
  | _ => 0

def State.eccRecord (s : State) (kind flags : Nat) (f : FaultSite) : State :=
  let (rank, k, u) := siteOf f
  s.sherd rank {
    kind := kind, flags := flags, launch := (s.coreOf k).launch, core := k, unit := u, src1 := s.siteSrc1 f + (s.coreOf k).lcore * 65536
    addr := siteAddr f }

/-- ECC_CORRECTED: the error is corrected, counted and recorded. -/
def execEccCorrected (site : FaultSite) (s : State) : Out := .next ((s.eccRecord 0x10 1 site).siteBucket site)

/-- The data of a dirty line of a cache becomes poisoned there; a clean line is dropped (R238). -/
def State.lineError (s : State) (core line : Nat) (l2 : Bool) : State :=
  let bytes := (List.range 128).map (128 * line + ·)
  let cell := fun (a : Nat) => if l2 then optGet (l2Key core a) (s.dieOf (rankOfCore core)).l2 else optGet a (s.coreOf core).l1
  let bad : Option CByte → Option CByte := Option.map fun b => { b with poison := true }
  if bytes.all fun a => (cell a).all fun b => !b.dirty then (if l2 then s.l2Drop core line else s.l1Drop core line)
  else if l2 then s.modDie (rankOfCore core) fun d => { d with l2 := bytes.foldl (fun m a => SMap.modify none (l2Key core a) bad m) d.l2 }
  else s.modCore core fun c => { c with l1 := bytes.foldl (fun m a => SMap.modify none a bad m) c.l1 }

/-- A line of the line store is fetched again from the image (R389). -/
def State.refetchLine (s : State) (k line : Nat) : State :=
  let c := s.coreOf k
  match s.launchOf c.launch with
  | some l => match s.vaBytes l.pkg l.vdev (l.image + 64 * line) 64 with
    | some bs => if line < c.codeLen then s.putCore k { c with code := Memory.writeBytes (64 * line) bs c.code } else s
    | none => s
  | none => s

/-- A tag whose parity copy is good is purged, else the launch ends (R391). -/
def State.tagError (s : State) (lk tag rank : Nat) (good : Bool) : State :=
  if good then s.purge lk tag 26 rank else s.purge lk 0 26 rank

/-- ECC_UNCORRECTABLE: data is poisoned, a line fetched again, of which nothing else is visible (R389), a tag purged, or the launch ended;
the record comes first. -/
def execEccUncorrectable (site : FaultSite) (s : State) : Out :=
  let s1 := match site with
    | .lineStore _ _ => s
    | _ => s.eccRecord 0x11 2 site
  .next (match site with
    | .poolWord k a => s1.modCore k fun c => c.poison_ (a / 4 * 4) 4
    | .l1Line k l => s1.lineError k l false
    | .l2Line k l => s1.lineError k l true
    | .lineStore k l => s1.refetchLine k l
    | .hbmWord a => s1.poisonHbm (a / 4 * 4) 4
    | .kilnEntry k n good => match (s.coreOf k).entry n with
      | some e => s1.tagError (s.coreOf k).launch e.tag (rankOfCore k) good
      | none => s1
    | .queueEntry k u _ good => s1.tagError (s.coreOf k).launch (s.strmOf (sidOf k u)).tagr.toNat (rankOfCore k) good
    | .wheelRecord d lk good => match (s.launchOf lk).bind fun l => l.run with
      | some r => s1.tagError lk (wordAt r.nest.words 10 % 65536) d good
      | none => s1
    | .frameDescriptor k _ | .cone k _ => s1.purge (s.coreOf k).launch 0 26 (rankOfCore k)
    | .ringPointer _ _ _ | .lane _ _ _ => s1)

/-! ## Leaky buckets and spares -/

/-- A map of buckets of the classes that leak in this die cycle: each loses 1, and one below half of its mark can be recorded
again. -/
def leakMap (dc : Nat) (d : Die) (m : SMap (BitVec 16)) (marked : SMap Bool) : SMap (BitVec 16) × SMap Bool :=
  m.foldl (fun (b, mk) (key, v) =>
    let cls := key / 65536
    if dc % 2 ^ d.leakOf cls != 0 then (b, mk)
    else
      let w := v - 1
      (SMap.set 0 key w b, if 2 * w.toNat < d.markOf cls then SMap.set false key false mk else mk)) (m, marked)

/-- BUCKET_LEAK: the buckets of a die and of its cores lose 1 in every 2^LEAK die cycles (R392). -/
def execBucketLeak (die : Nat) (s : State) : Out :=
  let d := s.dieOf die
  let (b, mk) := leakMap s.sys.dc d d.buckets d.marked
  let s1 := if d.buckets.isEmpty then s else s.putDie die { d with buckets := b, marked := mk }
  let ks := (s1.ck :: s1.cores.map Prod.fst).filter fun k => !(isParkKey k) && rankOfCore k = die
  .next (ks.foldl (fun t k =>
    let c := t.coreOf k
    if c.buckets.isEmpty then t
    else
      let (cb, cm) := leakMap t.sys.dc d c.buckets c.marked
      t.putCore k { c with buckets := cb, marked := cm }) s1)

/-- Whether streams of a core run a task that is Running or Draining. -/
def Core.unitBusy (c : Core) (us : List Nat) : Bool := c.entries.any fun (_, e) =>
  (e.state = .running || e.state = .draining) && us.any fun u => e.unit = some u

/-- SPARE_SUBSTITUTION: a map changes while its unit has no task, with a record; the repair log takes an entry (R393, R520). -/
def execSpareSubstitution (core : Nat) (unit : SpareUnit) (index spare : Nat) (s : State) : Out :=
  let c := s.coreOf core
  let done := fun (d : Core) (u row code : Nat) =>
    ((s.putCore core d).sherd (rankOfCore core) { kind := 0x17, launch := c.launch, core := core, unit := u, src1 := row }).modPkg
      (pkgOfCore core) fun p => { p with repairs := p.repairs ++ leBytes 1 code ++ leBytes 2 (coreInPkg core) ++ leBytes 2 index ++ leBytes 2 spare }
  match unit with
  | .lane u =>
    let used := c.laneMap.any fun (k, v) => k / 64 = u && v = some spare
    if c.unitBusy [u] || 4 ≤ u || 32 ≤ index || spare < 32 || 34 ≤ spare || used then .next s
    else .next (done { c with laneMap := SMap.set none (u * 64 + index) (some spare) c.laneMap } u spare (16 * u))
  | .row =>
    if c.unitBusy [5] || c.rowOff.isSome || 128 ≤ index then .next s
    else .next (done { c with rowOff := some index } 5 index 1)
  | .bank =>
    let used := c.bankMap.any fun (_, v) => v = some spare
    if c.unitBusy [0, 1, 2, 3, 5, 6, 7] || 64 ≤ index || spare < 64 || 66 ≤ spare || used then .next s
    else .next (done { c with bankMap := SMap.set none index (some spare) c.bankMap } 4 (spare * 256) 2)

/-! ## Home hints (R253) -/

/-- The hint for a granule whose first counter has reached 4096 and exceeds four times the home die's. -/
def State.homeHints (s : State) (die : Nat) : State :=
  let d := s.dieOf die
  let count := fun (g i : Nat) => (SMap.get 0 (g * 4 + i) d.granules).toNat
  d.granules.foldl (fun t (key, v) =>
    let g := key / 4
    if SMap.get false g (t.dieOf die).hinted || v.toNat < 4096 || v.toNat ≤ 4 * count g (die % 4) then t
    else (t.sherd die { kind := 0x18, core := die * 64, unit := 10, src1 := die / 4 * 4 + key % 4, addr := die * 0x400000000000 + g * 0x200000 }).modDie
      die fun x => { x with hinted := SMap.set false g true x.hinted }) s

/-! ## Gating (R235) -/

/-- CORE_GATE: the notify aperture of a core that runs nothing is gated. -/
def execCoreGate (core : Nat) (s : State) : Out :=
  .next (if (List.range 9).any fun u => (s.strmOf (sidOf core u)).run.active then s
    else s.modCore core fun c => { c with gated := true })

/-- CORE_UNGATE: each latch is ORed into its register and cleared. -/
def execCoreUngate (core : Nat) (s : State) : Out :=
  .next (s.modCore core fun c =>
    if c.gated then { c with
      gated := false, latches := []
      notify := c.latches.foldl (fun m (n, v) => SMap.set 0 n (SMap.get 0 n m ||| v) m) c.notify }
    else c)

end Sys2Proof.Machine
end

