-- ==== Sys2Proof/Machine/Digest.lean ====
section
/-! DEFINITION. SHA-384, which 25 R518 names for the digests of the manifest and of the field repair log (FIPS 180-4; log 13). -/

namespace Sys2Proof.Machine

/-- The integer root of degree `d` of `n`, found bit by bit from bit `k - 1`. -/
def rootBits (d n : Nat) : Nat → Nat → Nat
  | 0, r => r
  | k + 1, r => rootBits d n k (if (r + 2 ^ k) ^ d ≤ n then r + 2 ^ k else r)

def shaPrimes : List Nat := (List.range 410).filter fun p => 2 ≤ p && (List.range 21).all fun q => q < 2 || p = q || p % q != 0

/-- The first 64 bits of the fraction of a square root or cube root. -/
def sqrtFrac (p : Nat) : Nat := rootBits 2 (p * 2 ^ 128) 72 0 % 2 ^ 64
def cbrtFrac (p : Nat) : Nat := rootBits 3 (p * 2 ^ 192) 72 0 % 2 ^ 64

/-- The initial hash value of SHA-384: of the ninth to sixteenth primes. -/
def shaInit : List Nat := ((shaPrimes.drop 8).take 8).map sqrtFrac
def shaK : List Nat := (shaPrimes.take 80).map cbrtFrac

def m64 (n : Nat) : Nat := n % 2 ^ 64
def rotr64 (n x : Nat) : Nat := x / 2 ^ n + x % 2 ^ n * 2 ^ (64 - n)
def bigSigma (a b c x : Nat) : Nat := rotr64 a x ^^^ rotr64 b x ^^^ rotr64 c x
def smallSigma (a b c x : Nat) : Nat := rotr64 a x ^^^ rotr64 b x ^^^ (x / 2 ^ c)

/-- The message schedule: the sixteen words of a block and the ones made from them, newest first. -/
def shaSchedule : Nat → List Nat → List Nat
  | 0, ws => ws
  | n + 1, ws => shaSchedule n (m64 (smallSigma 19 61 6 (ws.getD 1 0) + ws.getD 6 0 + smallSigma 1 8 7 (ws.getD 14 0) + ws.getD 15 0) :: ws)

/-- One round on the eight working variables. -/
def shaRound (h : List Nat) (kw : Nat × Nat) : List Nat :=
  let v := fun i => h.getD i 0
  let ch := (v 4 &&& v 5) ^^^ ((2 ^ 64 - 1 - v 4) &&& v 6)
  let maj := (v 0 &&& v 1) ^^^ (v 0 &&& v 2) ^^^ (v 1 &&& v 2)
  let t1 := v 7 + bigSigma 14 18 41 (v 4) + ch + kw.1 + kw.2
  let t2 := bigSigma 28 34 39 (v 0) + maj
  [m64 (t1 + t2), v 0, v 1, v 2, m64 (v 3 + t1), v 4, v 5, v 6]

def shaBlock (h ws : List Nat) : List Nat :=
  let sched := (shaSchedule 64 ws.reverse).reverse
  List.zipWith (fun a b => m64 (a + b)) h ((List.zip shaK sched).foldl shaRound h)

/-- The big-endian number in bytes, and the big-endian bytes of a number. -/
def natOfBig (bs : List Byte) : Nat := natOfBytes bs.reverse
def bigBytes (n v : Nat) : List Byte := (leBytes n v).reverse

def shaBlocks : Nat → List Byte → List Nat → List Nat
  | 0, _, h => h
  | n + 1, bs, h => shaBlocks n (bs.drop 128) (shaBlock h ((List.range 16).map fun i => natOfBig ((bs.drop (8 * i)).take 8)))

def sha384 (bs : List Byte) : List Byte :=
  let zeros := (128 - (bs.length + 17) % 128) % 128
  let padded := bs ++ [0x80] ++ List.replicate zeros 0 ++ bigBytes 16 (8 * bs.length)
  ((shaBlocks (padded.length / 128) padded shaInit).take 6).flatMap (bigBytes 8)

end Sys2Proof.Machine
end

