-- ==== Sys2Proof/Machine/EvPower.lean ====
section
/-! DEFINITION. The hardware steps of the management controller (25 R515 to R523): reset and boot, loss of power, the mailbox commands,
and the clock step of a die. -/

namespace Sys2Proof.Machine

/-! ## Reset and power (R515) -/

/-- The service level that a boot reaches: 4, or what stood before the step that failed. -/
def bootLevel (failStep : Nat) : Nat :=
  if failStep = 0 then 4 else if failStep ≤ 4 then 1 else if failStep = 5 then 2 else 3

/-- MBST (R519). -/
def mbstWord (busy done status svcl step reason : Nat) : Nat :=
  busy + 2 * done + 0x100 * status + 0x10000 * svcl + 0x100000 * step + 0x1000000 * reason

/-- A package without power or before its boot: its flash is kept, its dies have new incarnations, and everything else is as at
reset. -/
def State.wipePkg (s : State) (p : Nat) : State :=
  let old := s.pkgOf p
  let s1 := s.spareFor p old.serial
  s1.putPkg p { Pkg.reset with
    serial := old.serial, working := old.working, leafIdx := old.leafIdx, minSvn := old.minSvn, images := old.images
    manifest := old.manifest, repairs := old.repairs, repairSkip := old.repairSkip }

/-- The packages that stand at service level 4. -/
def State.trained (s : State) : List Nat := (s.sys.pkgs.filter fun (_, p) => p.svcl = 4).map Prod.fst

/-- The rank table entries of a package's dies. -/
def State.rankEntries (s : State) (p : Nat) : List (Nat × BitVec 64) :=
  [0, 1, 2, 3].map fun i => (4 * p + i, rankEntry (s.dieOf (4 * p + i)).inc (s.pkgOf p).serial i)

/-- Boot step 6 loads the rank tables: the package's own with an entry for every die whose fabric is trained, and those of the other
packages with its dies where they hold no valid entry for them (log 20). A rank whose entry changes is no longer given up (R458). -/
def State.loadRanks (s : State) (pkg : Nat) : State :=
  let all := s.trained.flatMap s.rankEntries
  let mine := s.rankEntries pkg
  s.trained.foldl (fun t p => [0, 1, 2, 3].foldl (fun u i => u.modDie (4 * p + i) fun d =>
    let es := if p = pkg then all else mine.filter fun (n, _) => !((SMap.get 0 n d.rankTab).getLsbD 0)
    { d with
      rankTab := es.foldl (fun m (n, e) => SMap.set 0 n e m) d.rankTab
      dead := es.foldl (fun m (n, _) => SMap.set false n false m) d.dead }) t) s

/-! ## The maps of the manifest (R1, R515, R520) -/

/-- Bytes of the die manifest where the model puts its sections (log 106): serial number, harvest map, physical lanes of the logical
lanes of each partition, disabled row of each matrix engine, and replaced banks of each core. A byte that is not there is none. -/
def Pkg.manifestByte (p : Pkg) (off : Nat) : Option Nat := p.manifest[off]?.map BitVec.toNat
def Pkg.harvestMap (p : Pkg) : Nat := natOfBytes ((p.manifest.drop 3).take 32)
def lanesAt : Nat := 35
def rowsAt : Nat := 35 + 256 * 128
def banksAt : Nat := 35 + 256 * 129

/-- The maps of a core as the manifest gives them. -/
def Core.factoryMaps (c : Core) (p : Pkg) (n : Nat) : Core :=
  let lanes := (List.range 128).filterMap fun j => match p.manifestByte (lanesAt + 128 * n + j) with
    | some x => if x = j % 32 then none else some (j / 32 * 64 + j % 32, x)
    | none => none
  let banks := [0, 1].filterMap fun j => match p.manifestByte (banksAt + 2 * n + j) with
    | some x => if x < 64 then some (x, 64 + j) else none
    | none => none
  { c with
    laneMap := lanes.foldl (fun m (k, x) => SMap.set none k (some x) m) []
    bankMap := banks.foldl (fun m (k, x) => SMap.set none k (some x) m) []
    rowOff := (p.manifestByte (rowsAt + n)).filter (· < 128) }

/-- An entry of the field repair log as SPARE_SUBSTITUTION writes it, in seven bytes; the signature of any other entry fails (log 106). -/
def repairOk (e : List Byte) : Bool :=
  let code := natOfBytes (e.take 1)
  e.length = 7 && natOfBytes ((e.drop 1).take 2) < 256 && (code % 16 = 0 && code < 64 || code = 1 || code = 2)

/-- An entry of the field repair log changes the map of its core; one whose signature fails is skipped (R520). -/
def State.applyRepair (s : State) (pkg : Nat) (e : List Byte) : State :=
  let at_ := fun i n => natOfBytes ((e.drop i).take n)
  let code := at_ 0 1
  if !(repairOk e) then s.modPkg pkg fun p => { p with repairSkip := true }
  else s.modCore (256 * pkg + at_ 1 2 % 256) fun c =>
    if code % 16 = 0 then { c with laneMap := SMap.set none (code / 16 * 64 + at_ 3 2) (some (at_ 5 2)) c.laneMap }
    else if code = 1 then { c with rowOff := some (at_ 3 2) }
    else { c with bankMap := SMap.set none (at_ 3 2) (some (at_ 5 2)) c.bankMap }

/-- Boot step 3 applies the maps of the manifest and then the repair log in order, and notes whether it has skipped an entry; a package
without a manifest keeps its cores. -/
def State.applyMaps (s : State) (pkg : Nat) : State :=
  let p := s.pkgOf pkg
  let s1 := if p.manifest.isEmpty then s
    else (List.range 256).foldl (fun t n => t.modCore (256 * pkg + n) fun c => c.factoryMaps p n)
      (s.modPkg pkg fun q => { q with working := q.harvestMap, serial := natOfBytes (q.manifest.take 3) })
  (List.range ((p.repairs.length + 6) / 7)).foldl (fun t i => t.applyRepair pkg ((p.repairs.drop (7 * i)).take 7))
    (s1.modPkg pkg fun q => { q with repairSkip := false })

/-! ## The images that a boot accepts (R515, R517) -/

/-- The management controller's image with the highest SVN among those at or above the minimum, by its identity. -/
def Pkg.bestMc (p : Pkg) : Option Nat :=
  ((p.images.filter fun (c, v, _, _) => c = 1 && SMap.get 0 1 p.minSvn ≤ v).foldl
    (fun (b : Option (Nat × Nat)) (_, v, i, _) => match b with
      | some (_, w) => if w < v then some (i, v) else b
      | none => some (i, v)) none).map Prod.fst

/-- Whether a running image, or the manifest, of a class is below its minimum SVN. -/
def Pkg.belowMin (p : Pkg) (cls : Nat) : Bool :=
  p.images.any fun (c, v, _, st) => c = cls && (st = 1 || cls = 5) && v < SMap.get 0 cls p.minSvn

/-- The step at which the images that flash lists fail a boot, and its reason: no MC image in either bank is good (3), or an SVN is below
the minimum (2). -/
def Pkg.svnFail (p : Pkg) : Option (Nat × Nat) :=
  if (p.images.any fun (c, _, _, _) => c = 1) && p.bestMc.isNone then some (2, 3)
  else if p.belowMin 5 then some (3, 2)
  else if p.belowMin 2 || p.belowMin 3 then some (5, 2)
  else if p.belowMin 4 then some (6, 2)
  else none

/-- The images that a boot has accepted before the step at which it stops (0: none), with the minimum SVNs that this raises. -/
def Pkg.accepted (p : Pkg) (step : Nat) : Pkg :=
  let past := fun n => step = 0 || n < step
  let q := if past 2 then (match p.bestMc with
    | some i => p.runs 1 i
    | none => p) else p
  let up := fun (r : Pkg) (cls : Nat) => { r with
    minSvn := r.images.foldl (fun m (c, v, _, st) => if c = cls && (st = 1 || cls = 5) then SMap.set 0 cls (max v (SMap.get 0 cls m)) m else m)
      r.minSvn }
  ((if past 3 then [5] else []) ++ (if past 5 then [2, 3] else []) ++ if past 6 then [4] else []).foldl up q

/-- The step at which a boot stops and its reason, 0 where it does not: the failure that comes from outside, or an earlier one of the
images in flash. -/
def Pkg.bootStop (p : Pkg) (failStep failReason : Nat) : Nat × Nat :=
  let step := if failStep ≤ 6 then failStep else 0
  match p.svnFail with
  | some (n, r) => if step = 0 || n < step then (n, r) else (step, failReason % 16)
  | none => (step, if step = 0 then 0 else failReason % 16)

/-- PACKAGE_RESET: the boot of R515, which fails at a step for a reason, or at none (0). -/
def execPackageReset (pkg failStep failReason : Nat) (s : State) : Out :=
  let (step, reason) := (s.pkgOf pkg).bootStop failStep failReason
  let level := bootLevel step
  let word := mbstWord 0 0 0 level step reason
  let clean := s.wipePkg pkg
  let up := (if 1 ≤ step && step ≤ 3 then clean else clean.applyMaps pkg).modPkg pkg fun p => { p.accepted step with
    svcl := level, bootStep := step, bootReason := reason, bootMbst := word, booted := true, mbst := word }
  .next (if level = 4 then up.loadRanks pkg else up)

/-- POWER_LOSS: everything outside flash is lost, a leaf index that was written stays written (R518). -/
def execPowerLoss (pkg : Nat) (s : State) : Out :=
  .next ([0, 1, 2, 3].foldl (fun t i => t.modDie (4 * pkg + i) fun d => { d with powered := false }) (s.wipePkg pkg))

/-! ## The mailbox (R518, R519) -/

/-- A mailbox command is done: its response, and MBST with DONE and the status. -/
def Pkg.mailDone (p : Pkg) (status : Nat) (bs : List Byte) : Pkg :=
  { p with mbst := mbstWord 0 1 status p.svcl p.bootStep p.bootReason, mbrsp := bs, mbrlen := bs.length }

/-- LMS leaves remaining: the parameter set has 2^20 (R517). -/
def Pkg.leavesLeft (p : Pkg) : Nat := 2 ^ 20 - p.leafIdx

/-- The SVN and IDENT of an image, with its class before and its state after them. -/
def imageEntry (i : Nat × Nat × Nat × Nat) : List Byte := leBytes 4 i.1 ++ leBytes 4 i.2.1 ++ leBytes 4 i.2.2.1 ++ leBytes 4 i.2.2.2

/-- The report of an attestation up to its signatures. -/
def Pkg.report (p : Pkg) (nonce : List Byte) : List Byte :=
  let left := p.leavesLeft - 1
  let flags := (if left < 4096 then 1 else 0) + if p.repairSkip then 2 else 0
  leBytes 4 0x54535441 ++ leBytes 4 1 ++ leBytes 1 flags ++ leBytes 1 p.svcl ++ leBytes 2 p.images.length ++ leBytes 4 (p.serial % 0x1000000) ++
    nonce ++ sha384 p.manifest ++ sha384 p.repairs ++ p.images.flatMap imageEntry ++ leBytes 4 p.leafIdx

/-- Bytes of a signature: free values (log 13). -/
def signature (ctr n : Nat) : List Byte := (List.range n).map (Config.freeByte ctr)

/-- ATTEST: a signed report; the incremented leaf index is written first. -/
def execAttest (pkg : Nat) (request : List (BitVec 8)) (s : State) : Out :=
  let p := s.pkgOf pkg
  .next (if request.length != 32 then s.putPkg pkg (p.mailDone 4 [])
    else if p.leavesLeft = 0 then s.putPkg pkg (p.mailDone 3 [])
    else
      let rep := p.report request ++ signature s.freeCtr 96 ++ signature (s.freeCtr + 1) 1772
      { (s.putPkg pkg ({ p with leafIdx := p.leafIdx + 1 }.mailDone 0 rep)) with freeCtr := s.freeCtr + 2 })

/-- BOOTREPORT: MBST as at the end of the last boot, and the images. -/
def execBootreport (pkg : Nat) (s : State) : Out :=
  .next (s.modPkg pkg fun p => p.mailDone 0 (leBytes 4 p.bootMbst ++ p.images.flatMap fun i => leBytes 4 i.2.1 ++ leBytes 4 i.2.2.1))

/-- LEAVES: the number of LMS leaves remaining. -/
def execLeaves (pkg : Nat) (s : State) : Out := .next (s.modPkg pkg fun p => p.mailDone 0 (leBytes 4 p.leavesLeft))

/-! ## The clock step (R522) -/

/-- The step falls and rises within 1 and the ceiling. -/
def Die.stepDown (d : Die) : Die := { d with step := max 1 (d.step - 1) }
def Die.stepUp (d : Die) : Die := { d with step := max d.step (min (min 16 d.ceiling) (d.step + 1)) }

/-- A sample of the rail monitor. `hot` counts the samples in a row above 1875 A, `calm` those at or below 1500 A. -/
def Die.sample (d : Die) (milliamps : Nat) : Die :=
  let hotNow := 1875000 < milliamps
  let d1 := if d.hot = 20 || (20 < d.hot && hotNow) then d.stepDown else d
  let d2 := { d1 with hot := if hotNow then min 21 (d.hot + 1) else 0 }
  if 1500000 < milliamps then { d2 with calm := 0 }
  else if d2.calm + 1 < 100 then { d2 with calm := d2.calm + 1 }
  else { d2.stepUp with calm := 0 }

/-- RAIL_SAMPLE. -/
def execRailSample (die milliamps : Nat) (s : State) : Out := .next (s.modDie die fun d => d.sample milliamps)

/-- A new ceiling, which the step does not stand above. -/
def Die.withCeiling (d : Die) (n : Nat) : Die := { d with ceiling := n, step := min d.step n }

/-- A launch ends because core-rail power is gone; the status of its record is a free value (log 7). -/
def State.powerEnds (s : State) (lk : Nat) : State := match s.launchOf lk with
  | none => s
  | some l =>
    let st := (Config.freeValue s.freeCtr).toNat % 0x100000000
    let s1 := s.sherd (4 * l.pkg) { kind := 4, launch := lk, core := 256 * l.pkg, synd := st }
    { (s.launchParts lk).foldl (fun t j => t.endLaunch j st 0 0) s1 with freeCtr := s.freeCtr + 1 }

/-- THERMAL_LIMIT: above 105 °C the ceiling falls by 1 each millisecond; at 115 °C core-rail power goes and every launch of the package
ends. -/
def execThermalLimit (die celsius : Nat) (s : State) : Out :=
  .next (if celsius ≤ 105 then s
    else
      let s1 := s.modDie die fun d => d.withCeiling (max 1 (d.ceiling - 1))
      if celsius < 115 then s1
      else
        let p := die / 4
        let s2 := ((s1.sys.launches.map Prod.fst).filter fun lk => launchPkg lk = p).foldl State.powerEnds s1
        [0, 1, 2, 3].foldl (fun t i => t.modDie (4 * p + i) fun d => { d with powered := false }) s2)

/-- POWER_CEILING_UPDATE: the ceiling moves by 1 toward the management controller's value. -/
def execPowerCeilingUpdate (die ceiling : Nat) (s : State) : Out :=
  .next (s.modDie die fun d =>
    let n := max 1 (min 16 ceiling)
    d.withCeiling (if d.ceiling < n then d.ceiling + 1 else if n < d.ceiling then d.ceiling - 1 else n))

end Sys2Proof.Machine
end

