-- ==== Sys2Proof/Machine/Freeze.lean ====
section
/-! DEFINITION. FRZ (18 R424 to R441, R524, 23 R509): save areas and their layout, yield requests, the freeze of a launch into its image and
its resumption, and dirty-page sections. -/

namespace Sys2Proof.Machine

/-! ## Save areas (R425) -/

/-- The area that a descriptor names, where its pages can be pinned and translated: none where FRZ.arm refuses it. -/
def State.areaOf (s : State) (d : List Byte) (required dirtyOff : Nat) : Option Area :=
  let base := fld d 0 8
  let length := fld d 8 8
  let vdev := fld d 24 4
  let pages := pagesOf vdev base length
  let trans := pages.map fun (v, a) => (a / 0x10000, (s.walkVa s.pkg v a))
  if base % 0x10000 != 0 || length < required || 16 ≤ vdev || trans.any (fun (_, t) => !(t.any fun e => e.w)) ||
      !(s.pinRoom s.pkg pages) then none
  else some ⟨base, length, required, vdev, trans.foldl (fun m (p, t) => SMap.set 0 p (match t with
    | some e => e.phys
    | none => 0) m) [], pages, dirtyOff⟩

/-- Whether a launch identifier names a virtual device (R509). -/
def isDeviceId (gl : Nat) : Bool := gl % 0x10000000 = 0

/-- The running launch that an identifier names on the issuing package. -/
def State.frzLaunch (s : State) (gl : Nat) : Option Launch := match s.launchOf (launchKey s.pkg gl) with
  | some l => if l.phase = .running then some l else none
  | none => none

/-- The descriptor at a local address, or the cause of its access; a poisoned word raises POISON_USE (R376, log 46). -/
def State.descriptor (s : State) (a : Nat) (go : List Byte → Eff) : Eff := match s.localFault a 64 false with
  | some (c, v) => .trap c v
  | none => if s.core.poisoned a 64 then .trap 25 0 else go (s.localBytes a 64)

def State.writeRequired (s : State) (a n : Nat) : State := (s.localWrite (a + 16) (leBytes 8 n)).getD s

/-- Arm an area for a launch: the pins of an earlier one go, the header and the section table are written, dirty tracking starts; an
area armed again keeps its dirty bits (R524). -/
def State.armLaunch (s : State) (lk : Nat) (l : Launch) (a : Area) (table : List (Sect × Nat)) : State :=
  let old := match l.area with
    | some b => b.pages
    | none => []
  let s1 := (s.pinAll s.pkg a.pages).unpinAll s.pkg old
  let s2 := s1.areaWrite a 0 (blobOf (l.header (launchId lk) table.length a.required 0 l.gen false ++ sectTable table))
  s2.putLaunch lk (some { l with area := some a, dirty := if l.area.isSome || l.repl then l.dirty else [] })

/-- FRZ.arm (R425, R509). -/
def execFrzArm (h : Hdr) (o : FrzArmArgs) (s : State) : Out :=
  runFw h (.frzArm h o) (markReads o.regs) (recItems 64 fun s => (s.rdA o.a, [(s.rdG o.g).toNat])) s fun s =>
    let gl := (s.rdG o.g).toNat
    let ab := (s.rdA o.a).toNat
    s.descriptor ab fun d =>
      if isDeviceId gl then
        let v := gl / 0x10000000
        let req := natSum ((s.deviceRanges s.pkg v).map fun (_, n) => pad64 (16 + (n + 7) / 8))
        let s1 := s.writeRequired ab req
        match s.areaOf d req 0 with
        | none => .ok (s1.resP h o.p false 1)
        | some a =>
          let old := match (s.vdevOf s.pkg v).devArea with
            | some b => b.pages
            | none => []
          .ok ((((s1.pinAll s.pkg a.pages).unpinAll s.pkg old).modVdev s.pkg v fun x =>
            { x with devArea := some a, devDirty := if x.devArea.isSome then x.devDirty else [] }).resP h o.p true 1)
      else match s.frzLaunch gl with
        | none => .ok (s.resP h o.p false 1)
        | some l =>
          let (table, req) := layout (s.sections l gl)
          let s1 := s.writeRequired ab req
          match s.areaOf d req (match table.find? (·.1.typ = 4) with
            | some (_, off) => off
            | none => 0) with
          | none => .ok (s1.resP h o.p false 1)
          | some a => .ok ((s1.armLaunch (launchKey s.pkg gl) l a table).resP h o.p true 1)

/-- FRZ.dirty writes the bitmap and clears it as one step (R426, R509). -/
def execFrzDirty (h : Hdr) (o : FrzDirtyArgs) (s : State) : Out :=
  runFw h (.frzDirty h o) (markReads o.regs) (recItems 64 fun s => (s.rdA o.a, [(s.rdG o.g).toNat])) s fun s =>
    let gl := (s.rdG o.g).toNat
    s.descriptor (s.rdA o.a).toNat fun _ =>
      if isDeviceId gl then
        let v := gl / 0x10000000
        match (s.vdevOf s.pkg v).devArea with
        | none => .ok (s.resP h o.p false 1)
        | some a => .ok (((s.areaWrite a 0 (blobOf (s.deviceDirty s.pkg v (s.vdevOf s.pkg v).devDirty))).modVdev s.pkg v fun x =>
            { x with devDirty := [] }).resP h o.p true 1)
      else match s.launchOf (launchKey s.pkg gl) with
        | none => .ok (s.resP h o.p false 1)
        | some l => match l.area with
          | none => .ok (s.resP h o.p false 1)
          | some a => .ok (((s.areaWrite a a.dirtyOff (blobOf (s.launchDirty l gl))).putLaunch (launchKey s.pkg gl) (some { l with dirty := [] })).resP h
              o.p true 1)

/-- FRZ.dis disarms: the area's pages are unpinned and dirty tracking stops (R424, R509). -/
def execFrzDis (h : Hdr) (o : FrzDisArgs) (s : State) : Out :=
  runFw h (.frzDis h o) (markReads o.regs) (vals fun s => [(s.rdG o.g).toNat]) s fun s =>
    let gl := (s.rdG o.g).toNat
    let v := gl / 0x10000000
    .ok (if isDeviceId gl then match (s.vdevOf s.pkg v).devArea with
        | some a => (s.unpinAll s.pkg a.pages).modVdev s.pkg v fun x => { x with devArea := none, devDirty := [] }
        | none => s
      else match s.launchOf (launchKey s.pkg gl) with
        | some l => match l.area with
          | some a => (s.unpinAll s.pkg a.pages).putLaunch (launchKey s.pkg gl) (some { l with area := none, dirty := if l.repl then l.dirty else [] })
          | none => s
        | none => s)

/-! ## Yield requests and FRZ.go (R417, R421, R422, R438) -/

/-- FRZ.y raises the yield request on the launch's cores of this package. -/
def execFrzY (h : Hdr) (o : FrzYArgs) (s : State) : Out :=
  runFw h (.frzY h o) (markReads o.regs) (vals fun s => [(s.rdG o.g).toNat]) s fun s =>
    let gl := (s.rdG o.g).toNat
    match s.frzLaunch gl with
    | none => .ok (s.resP h o.p false 1)
    | some l =>
      if l.area.isNone then .ok (s.resP h o.p false 1)
      else
        let s1 := l.residents.foldl (fun t (_, k) =>
          let due : Word := BitVec.ofNat 32 ((t.strmOf (sidOf k 8)).yctl.toNat % 0x2000000)
          t.modCore k fun c => { c with yreq := true, yrem := due }) s
        .ok ((s1.putLaunch (launchKey s.pkg gl) (some { l with goes := false })).resP h o.p true 1)

/-- A request that still counts down is withdrawn from a core, and its stopped streams go on (R422). Where its deadline has come the
core goes on with its save, and comes back as a parked one. -/
def State.withdrawYield (s : State) (k : Nat) : State :=
  let c := s.coreOf k
  if !c.yreq || c.yrem = 0 then s
  else ((List.range 8).foldl (fun t u => t.modStrm (sidOf k u) Stream.wake) (s.putCore k { c with yreq := false, yrem := 0, parking := false })).redeliver k

/-- FRZ.go continues a pre-empted launch on its own cores. -/
def execFrzGo (h : Hdr) (o : FrzGoArgs) (s : State) : Out :=
  runFw h (.frzGo h o) (markReads o.regs) (vals fun s => [(s.rdG o.g).toNat]) s fun s =>
    let gl := (s.rdG o.g).toNat
    match s.frzLaunch gl with
    | none => .ok (s.resP h o.p false 1)
    | some l =>
      let s1 := l.residents.foldl (fun t (_, k) => t.withdrawYield k) s
      .ok (((s1.modLaunch (launchKey s.pkg gl) fun y => { y with goes := true }).restoreFree (launchKey s.pkg gl)).resP h o.p true 1)

/-! ## FRZ (R427 to R430) -/

/-- The dies of a package to which a freeze goes. -/
def Launch.wave (l : Launch) : List Nat := (freezeRanks l.ranks).filter fun r => r / 4 = l.pkg

/-- The pages that a saved core pins: its frames and its window. -/
def Core.pinned (c : Core) : List (Nat × Nat) := c.frames.flatMap (fun (_, f) => match f with
    | some x => x.pages
    | none => []) ++ c.entries.flatMap fun (_, e) => e.pages

/-- The pages that a launch pins by itself. -/
def Launch.pinned (l : Launch) : List (Nat × Nat) := l.pages ++ l.tabPages

/-- Take the sections of a launch's parked cores out of the machine. -/
def State.takeSections (s : State) (lk : Nat) (l : Launch) : State × SMap (Option Section) :=
  l.parked.foldl (fun (t, m) (lc, x) => match x with
    | none => (t, m)
    | some (r, _) =>
      let j := parkKey lk lc r
      let c := t.coreOf j
      let sec : Section := ⟨c, (List.range 8).map fun u => (u, t.strmOf (sidOf j u))⟩
      let t1 := ((List.range 8).foldl (fun u n => u.putStrm (sidOf j n) (Stream.blank (sidOf j n))) (t.putCore j Core.reset)).unpinAll l.pkg c.pinned
      (t1, SMap.set none lc (some sec) m)) (s, [])

/-- The requests of a launch's saved streams, which leave with the image. -/
def State.takeReqs (s : State) (lk : Nat) (l : Launch) : State × List Req :=
  let keys := l.parked.filterMap fun (lc, x) => x.map fun (r, _) => parkKey lk lc r
  let mine := fun (r : Req) => keys.contains (coreOfSid r.sid)
  (({ s with sys := { s.sys with reqs := s.sys.reqs.filter fun r => !(mine r) } }).unpinAll l.pkg ((s.sys.reqs.filter mine).flatMap fun (r : Req) => r.pages),
    s.sys.reqs.filter mine)

/-- The BWAITs that the banks of the sections hold leave them for the in-flight records (R428). -/
def takeHeld (secs : SMap (Option Section)) : SMap (Option Section) × List Msg :=
  (secs.map fun (n, o) => (n, o.map fun sec => { sec with core := { sec.core with heldBw := [] } }),
    secs.flatMap fun (_, o) => match o with
      | some sec => sec.core.heldBw
      | none => [])

/-- The bytes of a section of the image of a launch. -/
def State.sectionOf (s : State) (l : Launch) (id : Nat) (secs : SMap (Option Section)) (held : List Msg) (x : Sect) : Blob :=
  let rank := l.ranks.getD x.owner 0
  match x.typ with
  | 1 => match optGet x.owner secs with
    | some sec => coreSection sec.core (l.ldieOfCore x.owner) sec.streams
    | none => (0, [])
  | 2 => dieSection l rank (s.dieOf rank)
  | 3 => inflightSection (held.filter (·.dst = rank)) (SMap.get [] rank l.cut)
  | 4 => blobOf (s.launchDirty l id)
  | _ => launchTables l (s.launchRegions l id)

/-- A package's part of a launch whose cut is complete goes into its image: its sections at their places, and the header with FLAGS bit 1
set, LENGTH, and the CRC over header, table and sections. -/
def State.finishFreeze (s : State) (lk : Nat) : State := match s.launchOf lk with
  | none => s
  | some l => match l.area with
    | none => s
    | some a =>
      let id := launchId lk
      let (s1, all) := s.takeSections lk l
      let (secs, held) := takeHeld all
      let (s2, reqs) := s1.takeReqs lk l
      let gen := (l.gen + 1) % 0x100000000
      let parts := (layout (s.sections l id)).1.map fun (x, o) => (x, if x.typ = 4 then a.dirtyOff else o, s.sectionOf l id secs held x)
      let table := sectTable (parts.map fun (x, o, b) => ({ x with size := b.1 }, o))
      let length := parts.foldl (fun n (_, o, b) => max n (o + pad64 b.1)) (pad64 (256 + table.length))
      let head := fun crc => l.header id parts.length length crc gen true
      let start := blobOf (head (crcBlobs (blobOf (head 0) :: blobOf table :: parts.map fun (_, _, b) => blobPad b)) ++ table)
      let content := (0, start) :: parts.map fun (_, o, b) => (o, blobPad b)
      let s3 := (content.foldl (fun t (o, b) => t.areaWrite a o b) s2).unpinAll l.pkg l.pinned
      let img : Image := {
        content := content, launch := { l with gen := gen }, sections := secs
        inflight := held.map (fun m => (m.dst, m)) ++ l.cut.flatMap (fun (r, ms) => ms.map fun m => (r, m)), reqs := reqs
        regions := s.launchRegions l id, ndie := l.myDies.length }
      { s3 with
        sys := { s3.sys with
          images := img :: s3.sys.images
          launches := SMap.set none lk (some { l with
            phase := .frozen, gen := gen, parked := [], cut := [], freezing := [], pages := [], nests := [], run := none, dirty := [] }) s3.sys.launches } }

/-- FRZ freezes a launch into its image: the freeze goes to every die, and the instruction waits until each has completed its part. A part
whose save area has lost a page fails with the launch (R430). -/
def execFrz (h : Hdr) (o : FrzArgs) (s : State) : Out :=
  runFw h (.frz h o) (markReads o.regs) (vals fun s => [(s.rdG o.g).toNat]) s fun s =>
    let lk := launchKey s.pkg (s.rdG o.g).toNat
    let fail := fun (t : State) => Eff.ok ((t.setStrm fun x => { x with rbar := .none }).resP h o.p false 1)
    match s.frzLaunch (s.rdG o.g).toNat with
    | none => fail s
    | some l =>
      let parts := s.launchParts lk
      let of := fun (j : Nat) (p : Launch → Bool) => (s.launchOf j).any p
      let p0 := fun (j : Nat) => 4 * launchPkg j
      if s.strm.rbar = .none then
        if l.bare.isSome || !(parts.all fun j => of j fun p => p.area.isSome && p.phase = .running && p.freezing.isEmpty) then fail s
        else
          let sent := parts.foldl (fun t j => t.modLaunch j fun p => p.wave.foldl (fun q r => q.setFreeze r 1 0 0) p) s
          .wait (sent.setStrm fun x => { x with rbar := .sent 0 })
      else if !(parts.all fun j => of j fun p => p.wave.all fun r => p.stage r != 0) then fail s
      else if parts.all fun j => of j fun p => p.wave.all fun r => p.stage r = 3 then
        (if parts.all fun j => of j fun p => p.area.all Area.sound then
          .ok (((parts.foldl State.finishFreeze s).setStrm fun x => { x with rbar := .none }).resP h o.p true 1)
        else fail (parts.foldl (fun t j => if of j fun p => p.area.all Area.sound then t else t.unsaveable j (64 * p0 j)) s))
      else .wait s

/-! ## FRZ.res (R438) -/

/-- Region entries that overlap. -/
def Region.meets (a b : Region) : Bool := rangesMeet (a.base, a.base + 2 ^ a.lsz) (b.base, b.base + 2 ^ b.lsz)

/-- The region entries of an image, as they stand under the new identifier and virtual device. -/
def Image.entries (i : Image) (vdev id : Nat) : List Region := i.regions.map fun e => { Region.of e with vdev := vdev, launch := id }

/-- Whether the entries of an image can be entered on a package. -/
def State.regionsFit (s : State) (pkg vdev id : Nat) (es : List Region) : Bool :=
  let there := (s.regionsOf pkg vdev id).map Prod.snd
  let fresh := es.filter fun e => !(there.contains e)
  !(fresh.any fun e => there.any e.meets) &&
    ((s.pkgOf pkg).regions.filter fun (_, e) => (Region.of e).valid).length + fresh.length ≤ 8192

/-- Enter regions in the lowest free indexes of a package's table. -/
def State.enterRegions (s : State) (pkg vdev id : Nat) (es : List Region) : State := es.foldl (fun t e =>
  if ((t.regionsOf pkg vdev id).map Prod.snd).contains e then t
  else match (List.range 8192).find? fun i => !(Region.of (SMap.get 0 i (t.pkgOf pkg).regions)).valid with
    | some i => t.rewriteRegion pkg i e
    | none => t) s

/-- The dies of a package that a mask marks, in ascending order. -/
def maskDies (mask pkg : Nat) : List Nat := (dieCounts (maskCores mask)).map fun (d, _) => 4 * pkg + d

/-- Whether every non-lazy HBM frame of an image translates in a virtual device (R438, R208). -/
def State.framesFit (s : State) (i : Image) (pkg vdev : Nat) : Bool := i.sections.all fun (_, o) => match o with
  | none => true
  | some sec => sec.core.definedFrames.all fun (_, f) =>
    let d := FrameD.of f.words
    d.space != 1 || d.deferred || (pagesOf vdev (d.hull sec.core).1 ((d.hull sec.core).2 - (d.hull sec.core).1)).all fun (v, a) =>
      match s.walkVa pkg v a with
      | some t => !f.writable || t.w
      | none => false

/-- The first logical core of a logical die. -/
def Launch.firstCore (l : Launch) (d : Nat) : Nat := natSum (l.cores.take d)

/-- The new home of a logical core: its die and, where one is marked for it, its physical core. -/
def Launch.rehome (l : Launch) (mask : Nat) (dies : List Nat) (lc : Nat) : Nat × Option Nat :=
  match lcoreDie l.cores lc 0 0 with
  | none => (0, none)
  | some (d, first) =>
    let rank := dies.getD (d - l.myDies.headD 0) 0
    (rank, ((((maskCores mask).filter fun c => c / 64 = rank % 4))[lc - first]?).map fun c => rank / 4 * 256 + c)

/-- A message of an image on the dies and pages of its resumption: ranks, launch key, virtual device and physical addresses. -/
def State.moveMsg (s : State) (old new : List Nat) (vdev lk : Nat) (m : Msg) : Msg :=
  let rank := fun r => match old.findIdx? (· = r) with
    | some i => new.getD i r
    | none => r
  let dst := rank m.dst
  let pa := fun (va old : Nat) => match s.walkVa (dst / 4) vdev va with
    | some t => t.phys + va % 0x10000
    | none => old
  let triples : List Nat → List Nat := fun ts => (List.range (ts.length / 3)).flatMap fun i =>
    let (j, va, p) := (ts.getD (3 * i) 0, ts.getD (3 * i + 1) 0, ts.getD (3 * i + 2) 0)
    [j, va, if m.args.getD 0 0 = 1 then p else pa va p]
  let args := if m.kind = 9 || (m.kind = 19 && m.op = 0x100) then (m.args.take 4) ++ [vdev] ++ triples (m.args.drop 5)
    else if (m.kind = 1 || m.kind = 19 || (m.kind = 2 && m.args.getD 4 0 = 0)) then
      [pa m.addr (m.args.getD 0 0), m.args.getD 1 0, m.args.getD 2 0, vdev] ++ m.args.drop 4
    else m.args
  { m with src := rank m.src, dst := dst, here := dst, launch := launchKey (dst / 4) (launchId lk), seq := none, args := args }

/-- Put a section into the machine as a parked logical core of the new launch. -/
def State.putSection (s : State) (lk lc rank : Nat) (sec : Section) : State :=
  let j := parkKey lk lc rank
  let s1 := sec.streams.foldl (fun t (u, x) => t.putStrm (sidOf j u) x) s
  (s1.putCore j { sec.core with launch := lk, passes := 0 }).pinAll (launchPkg lk) sec.core.pinned

/-- The image whose bytes stand at a virtual address. -/
def State.imageAt (s : State) (pkg vdev base : Nat) : Option Image :=
  s.sys.images.find? fun i => i.content.all fun (o, n, m) => s.vaPart pkg vdev (base + o) n = some m

/-- Resume an image under a launch key; each core's code is the one saved with it (R62, log 105). -/
def State.resume (s : State) (lk mask vdev : Nat) (img : Image) : State :=
  let pkg := launchPkg lk
  let l0 := img.launch
  let dies := (maskDies mask pkg).take img.ndie
  let first := l0.myDies.headD 0
  let ranks := l0.ranks.take first ++ dies ++ l0.ranks.drop (first + img.ndie)
  let home := l0.rehome mask dies
  let lcs := img.sections.map Prod.fst
  let list := match s.launchOf lk with
    | some l => l0.purgeList ++ l.purgeList
    | none => l0.purgeList
  let l1 : Launch := { l0 with
    pkg := pkg, vdev := vdev, phase := .running, ranks := ranks, parked := lcs.map (fun lc => (lc, some ((home lc).1, s.sys.dc)))
    maps := lcs.foldl (fun m lc => SMap.set none lc (home lc).2 m) [], cut := [], freezing := [], purgeList := [], purgeOut := [], area := none
    goes := true, spanBase := if l0.multi then l0.spanBase else pkg }
  let s1 := ((s.enterRegions pkg vdev (launchId lk) (img.entries vdev (launchId lk))).putLaunch lk (some l1)).pinAll pkg l1.pinned
  let s2 := img.sections.foldl (fun t (lc, o) => match o with
    | some sec => t.putSection lk lc (home lc).1 sec
    | none => t) s1
  let s3 := (s2.launchParts lk).foldl (fun t j => t.modLaunch j fun p => { p with ranks := ranks }) s2
  let lcOf := fun (k : Nat) => k % 2 ^ 40 / 65536
  let moved : List Req := img.reqs.map fun r =>
    let lc := lcOf (coreOfSid r.sid)
    { r with sid := sidOf (parkKey lk lc (home lc).1) (unitOfSid r.sid), msg := r.msg.map (s.moveMsg l0.ranks ranks vdev lk), sentAt := s.sys.dc }
  let s4 := ({ s3 with sys := { s3.sys with reqs := s3.sys.reqs ++ moved } }).pinAll pkg (moved.flatMap fun (r : Req) => r.pages)
  let s5 := list.foldl (fun t tag => t.purgePart lk tag) s4
  let s6 := img.inflight.foldl (fun t (_, m) =>
    let n := t.moveMsg l0.ranks ranks vdev lk m
    if n.kind = 3 || n.kind = 4 || n.kind = 6 || n.kind = 12 || n.kind = 13 then t.takeReply n else t.perform n) s5
  s6.restoreFree lk

/-- FRZ.res resumes the image described at a local address as a launch. -/
def execFrzRes (h : Hdr) (o : FrzResArgs) (s : State) : Out :=
  runFw h (.frzRes h o) (markReads o.regs) (recItems 64 fun s => (s.rdA o.a, [(s.rdG o.g).toNat])) s fun s =>
    let gl := (s.rdG o.g).toNat
    let lk := launchKey s.pkg gl
    s.descriptor (s.rdA o.a).toNat fun d =>
      let vdev := fld d 24 4
      let mask := fld d 32 32
      let busy := (s.launchOf lk).any fun l => l.phase != .frozen
      match s.imageAt s.pkg vdev (fld d 0 8) with
      | none => .ok (s.resP h o.p false 1)
      | some img =>
        if busy || 16 ≤ vdev || isDeviceId gl || (maskDies mask s.pkg).length < img.ndie || !(s.framesFit img s.pkg vdev) ||
            !(s.regionsFit s.pkg vdev gl (img.entries vdev gl)) then .ok (s.resP h o.p false 1)
        else .ok ((s.resume lk mask vdev img).resP h o.p true 1)

end Sys2Proof.Machine
end

