-- ==== Sys2Proof/Machine/LocalMem.lean ====
section
/-! DEFINITION. Local loads and stores (04 R124 to R126, 09 R229 to R231). -/

namespace Sys2Proof.Machine

/-- The low `n` bytes of a value, extended to a word. -/
def extendBytes (n : Nat) (z : Bool) (v : Nat) : Word :=
  if z then BitVec.ofNat 32 v else BitVec.ofInt 32 (sextNat (8 * n) v)

/-- A load of `n` bytes: its fault, poison (R376), or the value. -/
def localLoad (s : State) (ea : Addr) (n : Nat) (go : Nat → State) : Eff :=
  match s.localFault ea.toNat n true with
  | some (c, v) => .trap c v
  | none =>
    if s.acquiring then .wait s
    else if s.core.poisoned ea.toNat n then .trap 25 0
    else .ok (go (s.localNat ea.toNat n))

/-- LD (R124 to R126). -/
def execLd (h : Hdr) (o : LdArgs) (s : State) : Out :=
  runI h (markReads o.regs) (vals fun s => [(s.ea o.a o.m o.off).toNat]) s fun s =>
    localLoad s (s.ea o.a o.m o.off) (2 ^ o.sz) fun v =>
      (s.postInc h false o.a o.m o.off).resG h o.d (extendBytes (2 ^ o.sz) o.z v) 8

/-- LDA (R124 to R126). -/
def execLda (h : Hdr) (o : LdaArgs) (s : State) : Out :=
  runI h (markReads o.regs) (vals fun s => [(s.ea o.a o.m o.off).toNat]) s fun s =>
    localLoad s (s.ea o.a o.m o.off) 8 fun v => (s.postInc h false o.a o.m o.off).resA h o.d (BitVec.ofNat 64 v) 8

/-- A store of bytes at an address; none performs where it faults. -/
def localStore (s : State) (ea : Addr) (bs : List Byte) (go : State → State) : Eff :=
  match s.localFault ea.toNat bs.length false with
  | some (c, v) => .trap c v
  | none =>
    if s.acquiring then .wait s
    else match s.localWrite ea.toNat bs with
      | none => .wait s
      | some t => .ok (go t)

/-- ST (R124 to R126): copies meet at the store buffer (R84). -/
def execSt (h : Hdr) (o : StArgs) (s : State) : Out :=
  runI h (markReads o.regs) (vals fun s => [(s.ea o.a o.m o.off).toNat, (s.rdG o.g).toNat % 2 ^ (8 * 2 ^ o.sz), 2 ^ 2 ^ o.sz - 1]) s fun s =>
    localStore s (s.ea o.a o.m o.off) (leBytes (2 ^ o.sz) (s.rdG o.g).toNat) fun t => t.postInc h false o.a o.m o.off

/-- STA (R124 to R126). -/
def execSta (h : Hdr) (o : StaArgs) (s : State) : Out :=
  runI h (markReads o.regs) (vals fun s => [(s.ea o.a o.m o.off).toNat, (s.rdA o.s).toNat, 0xFF]) s fun s =>
    localStore s (s.ea o.a o.m o.off) (leBytes 8 (s.rdA o.s).toNat) fun t => t.postInc h false o.a o.m o.off

end Sys2Proof.Machine
end

