-- ==== Sys2Proof/Machine/Matrix.lean ====
section
/-! DEFINITION. The matrix engine's instructions (13 R311 to R328, 14 R329 to R342). A pass reads its operands from its ring slots
in its issue cycle; the slots stay claimed until it pops them. -/

namespace Sys2Proof.Machine

/-! ## Operand formats (R311, R316, R331) -/

/-- Element formats of A and B in a float code; none for integer and L4X codes. -/
def mFloat : MFmt → Option (FFmt × FFmt)
  | .e4m3 => some (fmtE4m3, fmtE4m3)
  | .e4m3e5m2 => some (fmtE4m3, fmtE5m2)
  | .e5m2e4m3 => some (fmtE5m2, fmtE4m3)
  | .e5m2 => some (fmtE5m2, fmtE5m2)
  | .bf16 => some (fmtBf16, fmtBf16)
  | .f16 => some (fmtF16, fmtF16)
  | .i8 | .i4 | .l4x => none

/-- Bits of an element. -/
def mBits : MFmt → Nat
  | .bf16 | .f16 => 16
  | .i4 => 4
  | _ => 8

/-- The issue cycles for which a pass of K elements streams: ⌈K / r⌉ (R275). -/
def passCycles (f : MFmt) (k : Nat) : Nat := match f with
  | .bf16 | .f16 => 2 * k
  | .i4 | .l4x => (k + 1) / 2
  | _ => k

/-- Bytes of one operand. -/
def operandBytes (f : MFmt) (k : Nat) : Nat := if f = .l4x then 128 * (k / 32) * 18 else 128 * k * mBits f / 8

/-- An element of an operand by its element index. -/
def rawElem (m : Memory) (base bits ix : Nat) : Nat := match bits with
  | 4 => (Memory.read m (base + ix / 2)).toNat / (if ix % 2 = 0 then 1 else 16) % 16
  | 16 => Memory.readNat m (base + 2 * ix) 2
  | _ => (Memory.read m (base + ix)).toNat

/-- The element index of element `k` of line `i` of an operand: contiguous along K, or K rows of 128 (R316). -/
def elemIx (along : Bool) (kk i k : Nat) : Nat := if along then i * kk + k else k * 128 + i

/-- Line `i` of an operand: row `i` of A, or column `i` of B. -/
def lineRaw (m : Memory) (base bits : Nat) (along : Bool) (kk i : Nat) : List Nat :=
  (List.range kk).map fun k => rawElem m base bits (elemIx along kk i k)

/-- Block `b` of line `i` of an L4X operand, with the flags of its decoding (R318). -/
def l4xLine (m : Memory) (base kk i b : Nat) : List FVal × Nat :=
  let (_, vs, fl) := decodeL4x (Memory.readBytes m (base + 18 * (i * (kk / 32) + b)) 18)
  (vs, fl ||| if vs.any FVal.isNan then flNV else 0)

/-! ## Partials (R52 to R54) -/

/-- The float partial of a cell: sequential, each step rounded RNE to FP32. -/
def floatDot (xs ys : List FVal) : FRes :=
  (List.zip xs ys).foldl (fun r (x, y) =>
    let t := fmtF32.round 0 false ((x.mul y).add 0 (fmtF32.decode r.bits))
    ⟨t.bits, r.flags ||| t.flags⟩) ⟨0x80000000, 0⟩

/-- The integer partial of a cell, modulo 2^32. -/
def intDot (xs ys : List Int) : FRes := ⟨wrap 32 ((List.zipWith (· * ·) xs ys).foldl (· + ·) 0), 0⟩

/-- The cells of a partial: `f i j` for every row and column. -/
def cellsOf (f : Nat → Nat → FRes) : List Word × Nat :=
  let rs := (List.range 16384).map fun n => f (n / 128) (n % 128)
  (rs.map fun r => BitVec.ofNat 32 r.bits, orFlags (rs.map (·.flags)))

/-- The partial over the elements from `lo` on, `n` of them. -/
def partialCells (m : Memory) (f : MFmt) (pa pb : Nat) (ta tb : Bool) (kk lo n : Nat) : List Word × Nat :=
  let rows := (List.range 128).map fun i => ((lineRaw m pa (mBits f) (!ta) kk i).drop lo).take n
  let cols := (List.range 128).map fun j => ((lineRaw m pb (mBits f) tb kk j).drop lo).take n
  match mFloat f with
  | some (fa, fb) =>
    let xs := rows.map fun l => l.map fa.decode
    let ys := cols.map fun l => l.map fb.decode
    cellsOf fun i j => floatDot (xs.getD i []) (ys.getD j [])
  | none =>
    if f = .l4x then
      let xs := (List.range 128).map fun i => l4xLine m pa kk i (lo / 32)
      let ys := (List.range 128).map fun j => l4xLine m pb kk j (lo / 32)
      let (cs, fl) := cellsOf fun i j => floatDot (xs.getD i ([], 0)).1 (ys.getD j ([], 0)).1
      (cs, orFlags (fl :: (xs ++ ys).map Prod.snd))
    else
      let xs := rows.map fun l => l.map (sextNat (mBits f))
      let ys := cols.map fun l => l.map (sextNat (mBits f))
      cellsOf fun i j => intDot (xs.getD i []) (ys.getD j [])

/-! ## What a matrix instruction waits for (R276, R312, R313) -/

/-- Run a matrix instruction: its copies agree about guard and operands at issue, and its cells meet at its offset. -/
def runM (h : Hdr) (reads : List Nat) (s : State) (eff : State → Eff) : Out := run h reads ⟨false, 0, 2, vals fun _ => []⟩ s eff

/-- The first tile of a list that is busy for another matrix task. -/
def State.tileBusy (s : State) (ts : List Nat) : Option Nat :=
  ts.find? fun t => s.strm.eng.tiles.any fun (u, q) => u = t && q != s.taskSeq s.sid

/-- A tile buffer is free in this issue cycle. -/
def State.bufferFree (s : State) : Bool := (s.strm.eng.buffers.filter (s.strm.cyc < ·)).length < 2

/-- The issuing task names a tile as a destination. -/
def Engine.markTiles (e : Engine) (ts : List Nat) (own : Nat) : Engine :=
  { e with tiles := e.tiles ++ ((ts.filter fun t => !(e.tiles.any (·.1 = t))).map fun t => (t, own)) }

/-- Take a tile buffer, and schedule the writes of consecutive tiles at one offset. -/
def State.schedule (s : State) (h : Hdr) (off tie : Nat) (mode : TileMode) (tiles : List (Nat × List (List Word))) (flags : Nat)
    (load : Option (Nat × Nat)) (check : Option (Nat × List Nat)) : State :=
  let at_ := s.strm.cyc + off
  let own := s.taskSeq s.sid
  let w : TileWrite := {
    at_ := at_, parts := tiles, mode := mode, flags := BitVec.ofNat 32 flags, load := load, spareRow := check
    errors := s.strm.upsets.filter Upset.ofCell, tie := tie, tied := false, prot := h.prot, pos := s.strm.pos, own := own }
  s.setStrm fun x => { x with
    upsets := x.upsets.filter fun u => !u.ofCell
    eng := { (x.eng.markTiles (tiles.map Prod.fst) own) with
      buffers := x.eng.buffers ++ [at_], writes := x.eng.writes ++ [w] } }

/-! ## Passes (R312, R322, R332 to R334) -/

/-- At service level 2 only BF16 runs on the matrix engine (R516). -/
def State.formatBarred (s : State) (f : MFmt) : Bool := (s.pkgOf s.pkg).svcl = 2 && f != .bf16

/-- A pass: the tiles with the partial of each, formed from the slots at two addresses. -/
def matrixPass (s : State) (h : Hdr) (f : MFmt) (ka kb kk : Nat) (keep : Bool) (mode : TileMode)
    (parts : Memory → Nat → Nat → List (Nat × List Word × Nat)) (named : List Nat) : Eff :=
  let ra := s.core.ring ka
  let rb := s.core.ring kb
  let bytes := operandBytes f kk
  let cycles := passCycles f kk
  if s.formatBarred f || !ra.init || !rb.init || ra.slotsz * 128 < bytes || rb.slotsz * 128 < bytes then .trap 16 0
  else match s.tileBusy named with
    | some t => .trap 10 (tileAddr t)
    | none =>
      let needA := if ka = kb then 2 else 1
      if ra.published < ra.claimed + needA || rb.published < rb.claimed + 1 then .wait s
      else if s.strm.cyc < s.strm.eng.arrayFree || !(s.bufferFree) then .cycleWait s
      else
        let na := (ra.ccnt + ra.claimed) % 0x100000000
        let nb := (rb.ccnt + rb.claimed + if ka = kb then 1 else 0) % 0x100000000
        let pa := ra.slotAt na
        let pb := rb.slotAt nb
        if ra.poison.contains na || rb.poison.contains nb || s.core.poisoned pa bytes || s.core.poisoned pb bytes then .trap 25 0
        else
          let ps := parts s.core.loc pa pb
          let check := spareCheck s.core s.strm.upsets s.core.passes ps.length
          let s1 := s.schedule h (cycles * (1 + h.prot) + 140) (cycles + 8) mode (ps.map fun (t, cs, _) => (t, [cs]))
            (orFlags (ps.map fun (_, _, fl) => fl)) none check
          let t0 := s.strm.cyc
          let s2 := s1.setEng fun e => { e with
            arrayFree := t0 + cycles * (1 + h.prot)
            pops := if keep then e.pops else e.pops ++ [(t0 + cycles, ka, 1), (t0 + cycles, kb, 1)] }
          let claim := fun (c : Core) k => c.setRing k { c.ring k with claimed := (c.ring k).claimed + 1 }
          .ok (s2.setCore fun c => let d := { c with passes := c.passes + 1 }
            if keep then d else claim (claim d ka) kb)

/-- MMA (R332, R333). -/
def execMma (h : Hdr) (o : MmaArgs) (s : State) : Out :=
  let kk := 32 * (o.k1 + 1)
  runM h (markReads o.regs) s fun s =>
    matrixPass s h o.fmt o.ka o.kb kk o.keep (if (mFloat o.fmt).isSome then .addFloat else .addInt)
      (fun m pa pb => let r := partialCells m o.fmt pa pb o.ta o.tb kk 0 kk
        [(o.t, r.1, r.2)]) [o.t]

/-- MBLK: one partial tile for each block of 32, written and not added (R318, R333). -/
def execMblk (h : Hdr) (o : MblkArgs) (s : State) : Out :=
  let kk := 32 * (o.k1 + 1)
  runM h (markReads o.regs) s fun s =>
    matrixPass s h o.fmt o.ka o.kb kk o.keep .put
      (fun m pa pb => (List.range (o.k1 + 1)).map fun b => let r := partialCells m o.fmt pa pb false true kk (32 * b) 32
        (o.t + b, r.1, r.2)) ((List.range (o.k1 + 1)).map (o.t + ·))

/-! ## SCACC (R319, R335, R336) -/

/-- A partial times its two scales, rounded once to FP32 (R54). -/
def scalePartial (int : Bool) (w : Word) (sa sb : Nat) : FRes :=
  if sa = 0xFF || sb = 0xFF then ⟨0x7FC00000, flNV⟩
  else fmtF32.round 0 false ((if int then FVal.ofInt w.toInt else fmtF32.decode w.toNat).scale ((sa : Int) + sb - 254))

/-- SCACC. -/
def execScacc (h : Hdr) (o : ScaccArgs) (s : State) : Out :=
  let nb := o.nb1 + 1
  runM h (markReads o.regs) s fun s =>
    let sa := (s.rdA o.aa).toNat
    let sb := (s.rdA o.ab).toNat
    let parts := (List.range nb).map (o.ts + ·)
    if s.formatBarred o.fmt then .trap 16 0
    else match (s.localFault sa (128 * nb) false).or (s.localFault sb (128 * nb) false), s.tileBusy (o.td :: parts) with
    | some (c, v), _ => .trap c v
    | none, some t => .trap 10 (tileAddr t)
    | none, none =>
      if !(s.bufferFree) then .cycleWait s
      else if s.core.poisoned sa (128 * nb) || s.core.poisoned sb (128 * nb) ||
          parts.any fun t => s.core.poisoned (tileAddr t) 0x10000 then .trap 25 0
      else
        let blocks := (List.range nb).map fun b =>
          let cs := s.core.tileCells (o.ts + b)
          cellsOf fun i j => scalePartial (o.fmt = .i8) (cs.getD (128 * i + j) 0) (s.localByte (sa + 128 * b + i)).toNat
            (s.localByte (sb + 128 * b + j)).toNat
        .ok (s.schedule h (8 * nb + 140 + 8 * h.prot) (8 * nb) .addFloat [(o.td, blocks.map Prod.fst)]
          (orFlags (blocks.map Prod.snd)) none none)

/-! ## AZERO, ALOAD, ACOPY (R337, R338) -/

/-- AZERO. -/
def execAzero (h : Hdr) (o : AzeroArgs) (s : State) : Out :=
  runM h (markReads o.regs) s fun s => match s.tileBusy [o.t] with
    | some t => .trap 10 (tileAddr t)
    | none =>
      if !(s.bufferFree) then .cycleWait s
      else .ok (s.schedule h (140 + 8 * h.prot) 8 .put [(o.t, [List.replicate 16384 0])] 0 none none)

/-- ACOPY. -/
def execAcopy (h : Hdr) (o : AcopyArgs) (s : State) : Out :=
  runM h (markReads o.regs) s fun s => match s.tileBusy [o.td, o.ts] with
    | some t => .trap 10 (tileAddr t)
    | none =>
      if !(s.bufferFree) then .cycleWait s
      else if s.core.poisoned (tileAddr o.ts) 0x10000 then .trap 25 0
      else .ok (s.schedule h (268 + 8 * h.prot) 128 .put [(o.td, [s.core.tileCells o.ts])] 0 none none)

/-- The address of row `i`, and the first row that faults, of 128 rows of `n` bytes. -/
def rowAddr (a : Addr) (stride i : Nat) : Nat := (a + BitVec.ofNat 64 (i * stride)).toNat
def State.rowFault (s : State) (a : Addr) (stride n : Nat) : Option (Nat × Nat) :=
  (List.range 128).findSome? fun i => s.localFault (rowAddr a stride i) n false

/-- ALIGN of an address and a row stride: the first misaligned row (log 18). -/
def alignRow (a : Addr) (stride size : Nat) : Option Nat :=
  if a.toNat % size ≠ 0 then some a.toNat else if stride % size ≠ 0 then some (rowAddr a stride 1) else none

/-- ALOAD. -/
def execAload (h : Hdr) (o : AloadArgs) (s : State) : Out :=
  runM h (markReads o.regs) s fun s =>
    let a := s.rdA o.a
    let stride := match o.stride with
      | some g => (s.rdG g).toNat
      | none => 512
    match alignRow a stride 4, s.rowFault a stride 512, s.tileBusy [o.t] with
    | some v, _, _ => .trap 7 v
    | none, fault, busy =>
      if stride < 512 then .trap 16 0
      else match fault, busy with
        | some (c, v), _ => .trap c v
        | none, some t => .trap 10 (tileAddr t)
        | none, none =>
          if s.strm.cyc < s.strm.eng.portFree || !(s.bufferFree) then .cycleWait s
          else
            let t0 := s.strm.cyc
            let off := 268 + 8 * h.prot
            let s1 := s.schedule h off 128 .put [(o.t, [List.replicate 16384 0])] 0 (some (a.toNat, stride)) none
            let rows := (List.range 128).map fun i => RowTask.load (t0 + i) (rowAddr a stride i) i (t0 + off) (s.taskSeq s.sid)
            .ok ((s1.setEng fun e => { e with portFree := t0 + 128, rows := e.rows ++ rows }).performRows)

/-! ## ASTORE (R339, R340) -/

/-- The size of an element and the bytes of a row. -/
def stSize : StFmt → Nat × Nat
  | .f32 | .i32 => (4, 512)
  | .bf16 | .f16 => (2, 256)
  | .l4x => (1, 72)
  | _ => (1, 128)

/-- The block format of a scaled code. -/
def stBlock : StFmt → Option BlockFmt
  | .e4m3s => some .e4m3
  | .e5m2s => some .e5m2
  | .i8s => some .i8
  | _ => none

/-- The number format of an unscaled code. -/
def stNum : StFmt → NumFmt
  | .f32 => .f32
  | .bf16 => .bf16
  | .f16 => .f16
  | .e4m3 => .e4m3
  | .e5m2 => .e5m2
  | .i32 => .i32
  | _ => .i8

/-- One row: its bytes, the scale byte of each block of a scaled code, and the flags. -/
def storeRow (f : StFmt) (int sat : Bool) (rm : Nat) (row : List Word) : List Byte × List Nat × Nat :=
  let blocks := (List.range 4).map fun b => ((row.drop (32 * b)).take 32).map (·.toNat)
  if f = .l4x then
    let rs := blocks.map (encodeL4x (requantRm rm))
    (rs.flatMap Prod.fst, rs.map fun r => (r.1.headD 0).toNat, orFlags (rs.map Prod.snd))
  else match stBlock f with
    | some bf =>
      let rs := blocks.map (encodeBlock bf (requantRm rm))
      (rs.flatMap fun r => r.elems.map fun x => BitVec.ofNat 8 x, rs.map (·.scale), orFlags (rs.map (·.flags)))
    | none =>
      let n := (stSize f).1
      if f = (if int then .i32 else .f32) then (row.flatMap fun w => leBytes 4 w.toNat, [], 0)
      else
        let rs := row.map fun w => convert (stNum f) (if int then .i32 else .f32) (plainRm rm) sat w.toNat
        (rs.flatMap fun r => leBytes n r.bits, [], orFlags (rs.map (·.flags)))

def scaledFmt (f : StFmt) : Bool := f = .l4x || (stBlock f).isSome

/-- The block scales of a scaled code as a vector of 512 bytes (R340). -/
def scaleVector (rows : List (List Byte × List Nat × Nat)) : List Byte :=
  (List.range 512).map fun n => BitVec.ofNat 8 (((rows.getD (n % 128) ([], [], 0)).2.1).getD (n / 128) 0)

/-- An element that ASTORE writes: that of a cell, or from 16384 on the block's scale at the place of the block's first cell. -/
def storeElem (size : Nat) (rows : List (List Byte × List Nat × Nat)) (i : Nat) : Nat :=
  if i < 16384 then natOfBytes (((rows.getD (i / 128) ([], [], 0)).1.drop (i % 128 * size)).take size)
  else (((rows.getD (i % 16384 / 128) ([], [], 0)).2.1).getD (i % 128 / 32) 0)

/-- The disagreement of the copies of an ASTORE over every element written, with a copy whose elements all stand; without one nothing is
written (log 91). Two copies are compared first, the third is the tie-break or the triad's. -/
def storeClash (c : Core) (prot size : Nat) (r0 r1 r2 : List (List Byte × List Nat × Nat)) : Option (Dispute × Nat) :=
  let rows := fun (k : Nat) => if k = 0 then r0 else if k = 1 then r1 else r2
  if r0 = r1 && (prot = 1 || r0 = r2) then none
  else
    let cells := (List.range 32768).filter fun i => (i < 16384 || i % 32 = 0) &&
      (storeElem size r0 i != storeElem size r1 i || storeElem size r0 i != storeElem size r2 i)
    (cellClash c 3 cells fun k i => storeElem size (rows k) i).map fun d =>
      let k := if r0 = r1 || r0 = r2 then 0 else 1
      ({ d with stands := d.stands && (r0 = r1 || r0 = r2 || r1 = r2) }, k)

/-- ASTORE. -/
def execAstore (h : Hdr) (o : AstoreArgs) (s : State) : Out :=
  runM h (markReads o.regs) s fun s =>
    let a := s.rdA o.a
    let (size, b) := stSize o.fmt
    let stride := match o.stride with
      | some g => (s.rdG g).toNat
      | none => b
    let vec := rowAddr a stride 128
    match alignRow a stride size with
    | some v => .trap 7 v
    | none =>
      if stride < b then .trap 16 0
      else match (s.rowFault a stride b).or (if scaledFmt o.fmt then s.localFault vec 512 false else none), s.tileBusy [o.t] with
        | some (c, v), _ => .trap c v
        | none, some t => .trap 10 (tileAddr t)
        | none, none =>
          if s.strm.cyc < s.strm.eng.portFree then .cycleWait s
          else if !(s.commitRoom (128 * b + 512)) then .wait s
          else if s.core.poisoned (tileAddr o.t) 0x10000 then .trap 25 0
          else
            let t0 := s.strm.cyc + h.prot
            let own := s.taskSeq s.sid
            let us := s.strm.upsets.filter Upset.ofCell
            let rowsOf := fun (k : Nat) =>
              let cells := ((struckCells us).foldl (fun b i => setCell b i (cellAt b i ^^^ cellFlip us k i)) [s.core.tileCells o.t]).headD []
              (List.range 128).map fun i => storeRow o.fmt o.i o.sat (s.strm.fcsr.toNat % 8) ((cells.drop (128 * i)).take 128)
            let clash := if h.prot = 0 || us.isEmpty then none else storeClash s.core h.prot size (rowsOf 0) (rowsOf 1) (rowsOf 2)
            let win := clash.elim (rowsOf 0) fun (_, k) => rowsOf k
            let tasks := win.zipIdx.map fun (r, i) => RowTask.store (t0 + 1 + i) (rowAddr a stride i) r.1 own
            let last := if scaledFmt o.fmt then [RowTask.store (t0 + 128) vec (scaleVector win) own] else []
            let fl := RowTask.flags (t0 + 1) (BitVec.ofNat 32 (orFlags (win.map fun r => r.2.2))) own
            let done := fun (t : State) (stall : Nat) => t.setStrm fun x => { x with
              upsets := x.upsets.filter fun u => !u.ofCell, stall := x.stall + stall
              eng := { x.eng with portFree := t0 + 129, rows := x.eng.rows ++ fl :: tasks ++ last } }
            match clash with
            | none => .ok (done s 0)
            | some (d, _) =>
              let (s1, seq) := s.disputeRecord own s.strm.pos d
              if d.stands then .ok (done s1 (if h.prot = 1 then 128 else 0))
              else .trapIn (s1.setStrm fun x => { x with upsets := x.upsets.filter fun u => !u.ofCell }) 23 seq

/-! ## RPOP (R341) -/

/-- RPOP. -/
def execRpop (h : Hdr) (o : RpopArgs) (s : State) : Out :=
  let n := o.n1 + 1
  run h (markReads o.regs) ⟨false, 0, 2, vals fun _ => [o.k, o.n1]⟩ s fun s =>
    let r := s.core.ring o.k
    if !r.init then .trap 16 0
    else if r.published < r.claimed + n then .wait s
    else
      let s1 := s.setCore fun c => c.setRing o.k { c.ring o.k with claimed := (c.ring o.k).claimed + n }
      .ok (s1.setEng fun e => { e with pops := e.pops ++ [(s.strm.cyc, o.k, n)] }).popSlots

end Sys2Proof.Machine
end

