-- ==== Sys2Proof/Machine/Scalar.lean ====
section
/-! DEFINITION. Scalar integer, predicate and address instructions (04 R83 to R99). -/

namespace Sys2Proof.Machine

/-- NOP takes its issue cycle and has no other effect (R67). -/
def execNop (h : Hdr) (o : NoArgs) (s : State) : Out := runL h (markReads o.regs) s fun s => .ok s

/-! ## Binary integer operations (R85 to R87) -/

/-- A word as an integer: unsigned for `.z`, signed for `.s`. -/
def wordInt (z : Bool) (a : Word) : Int := if z then a.toNat else a.toInt

/-- MULH: bits 63:32 of the 64-bit product. -/
def mulHigh (z : Bool) (a b : Word) : Word := BitVec.ofInt 32 ((wordInt z a * wordInt z b) / 0x100000000)

/-- DIV: the quotient truncated toward zero; all ones for b = 0. -/
def divWord (z : Bool) (a b : Word) : Word :=
  if b = 0 then BitVec.allOnes 32 else BitVec.ofInt 32 ((wordInt z a).tdiv (wordInt z b))

/-- REM: the remainder with the sign of a; a for b = 0. -/
def remWord (z : Bool) (a b : Word) : Word :=
  if b = 0 then a else BitVec.ofInt 32 ((wordInt z a).tmod (wordInt z b))

def minWord (z : Bool) (a b : Word) : Word := if wordInt z b < wordInt z a then b else a
def maxWord (z : Bool) (a b : Word) : Word := if wordInt z a < wordInt z b then b else a

/-- Clamp to the range of a word. -/
def satWord (z : Bool) (v : Int) : Word :=
  BitVec.ofInt 32 (if z then max 0 (min v 0xFFFFFFFF) else max (-0x80000000) (min v 0x7FFFFFFF))
def addSat (z : Bool) (a b : Word) : Word := satWord z (wordInt z a + wordInt z b)
def subSat (z : Bool) (a b : Word) : Word := satWord z (wordInt z a - wordInt z b)

/-- A binary operation of R86 with the extension of its immediate and its latency. -/
def binary (h : Hdr) (o : BinArgs) (sgn : Bool) (lat : Nat) (f : Word → Word → Word) (s : State) : Out :=
  runL h (markReads o.regs) s fun s => .ok (s.resG h o.d (f (s.rdG o.a) (s.src2 o.b sgn)) lat)

/-- A binary operation with a `.z` form: its immediate is extended as its operands are read. -/
def binaryZ (h : Hdr) (o : BinZArgs) (lat : Nat) (f : Bool → Word → Word → Word) (s : State) : Out :=
  runL h (markReads o.regs) s fun s => .ok (s.resG h o.d (f o.z (s.rdG o.a) (s.src2 o.b (!o.z))) lat)

/-- ADD: the sum modulo 2^32 (R86). -/
def execAdd (h : Hdr) (o : BinArgs) (s : State) : Out := binary h o true 1 (fun a b => a + b) s
/-- SUB (R86). -/
def execSub (h : Hdr) (o : BinArgs) (s : State) : Out := binary h o true 1 (fun a b => a - b) s
/-- MUL: bits 31:0 of the product (R86). -/
def execMul (h : Hdr) (o : BinArgs) (s : State) : Out := binary h o true 3 (fun a b => a * b) s
/-- AND (R86). -/
def execAnd (h : Hdr) (o : BinArgs) (s : State) : Out := binary h o false 1 (fun a b => a &&& b) s
/-- OR (R86). -/
def execOr (h : Hdr) (o : BinArgs) (s : State) : Out := binary h o false 1 (fun a b => a ||| b) s
/-- XOR (R86). -/
def execXor (h : Hdr) (o : BinArgs) (s : State) : Out := binary h o false 1 (fun a b => a ^^^ b) s
/-- ANDN (R86). -/
def execAndn (h : Hdr) (o : BinArgs) (s : State) : Out := binary h o false 1 (fun a b => a &&& ~~~b) s
/-- SHL: 0 from a count of 32 on (R86). -/
def execShl (h : Hdr) (o : BinArgs) (s : State) : Out := binary h o false 1 (fun a b => if b.toNat < 32 then a <<< b.toNat else 0) s
/-- SHR: 0 from a count of 32 on (R86). -/
def execShr (h : Hdr) (o : BinArgs) (s : State) : Out := binary h o false 1 (fun a b => if b.toNat < 32 then a >>> b.toNat else 0) s
/-- SAR: sign bits from a count of 32 on (R86). -/
def execSar (h : Hdr) (o : BinArgs) (s : State) : Out := binary h o false 1 (fun a b => a.sshiftRight (min b.toNat 31)) s
/-- ROT: left by b mod 32 (R86). -/
def execRot (h : Hdr) (o : BinArgs) (s : State) : Out := binary h o false 1 (fun a b => a.rotateLeft (b.toNat % 32)) s
/-- MULH (R86). -/
def execMulh (h : Hdr) (o : BinZArgs) (s : State) : Out := binaryZ h o 3 mulHigh s
/-- DIV (R86). -/
def execDiv (h : Hdr) (o : BinZArgs) (s : State) : Out := binaryZ h o 14 divWord s
/-- REM (R86). -/
def execRem (h : Hdr) (o : BinZArgs) (s : State) : Out := binaryZ h o 14 remWord s
/-- MIN (R86). -/
def execMin (h : Hdr) (o : BinZArgs) (s : State) : Out := binaryZ h o 1 minWord s
/-- MAX (R86). -/
def execMax (h : Hdr) (o : BinZArgs) (s : State) : Out := binaryZ h o 1 maxWord s
/-- ADDS (R86). -/
def execAdds (h : Hdr) (o : BinZArgs) (s : State) : Out := binaryZ h o 1 addSat s
/-- SUBS (R86). -/
def execSubs (h : Hdr) (o : BinZArgs) (s : State) : Out := binaryZ h o 1 subSat s

/-! ## Unary and bit-field operations (R88 to R90) -/

/-- The zero bits above the highest one, from bit `i - 1` down. -/
def leadingZerosFrom (a : Word) : Nat → Nat
  | 0 => 0
  | i + 1 => if a.getLsbD i then 0 else leadingZerosFrom a i + 1
def leadingZeros (a : Word) : Nat := leadingZerosFrom a 32
/-- The first one bit from the least significant end, or 32. -/
def trailingZeros (a : Word) : Nat := ((List.range 32).find? fun i => a.getLsbD i).getD 32
def popCount (a : Word) : Nat := ((List.range 32).filter fun i => a.getLsbD i).length
/-- Bit i moved to bit 31 - i. -/
def bitReverse (a : Word) : Word := BitVec.ofNat 32 (natSum ((List.range 32).map fun i => if a.getLsbD i then 2 ^ (31 - i) else 0))

def unary (h : Hdr) (o : UnArgs) (f : Word → Word) (s : State) : Out :=
  runL h (markReads o.regs) s fun s => .ok (s.resG h o.d (f (s.rdG o.a)) 1)

/-- ABS: 0x80000000 stays (R88). -/
def execAbs (h : Hdr) (o : UnArgs) (s : State) : Out := unary h o (fun a => if a.toInt < 0 then -a else a) s
/-- CLZ: 32 for 0 (R88). -/
def execClz (h : Hdr) (o : UnArgs) (s : State) : Out := unary h o (fun a => BitVec.ofNat 32 (leadingZeros a)) s
/-- CTZ: 32 for 0 (R88). -/
def execCtz (h : Hdr) (o : UnArgs) (s : State) : Out := unary h o (fun a => BitVec.ofNat 32 (trailingZeros a)) s
/-- POPC (R88). -/
def execPopc (h : Hdr) (o : UnArgs) (s : State) : Out := unary h o (fun a => BitVec.ofNat 32 (popCount a)) s
/-- BREV (R88). -/
def execBrev (h : Hdr) (o : UnArgs) (s : State) : Out := unary h o (fun a => bitReverse a) s

/-- The field of BFX: bits past 31 read as 0. -/
def bitField (a : Word) (pos width : Nat) : Nat := a.toNat / 2 ^ pos % 2 ^ width

/-- BFX extracts a field, sign-extended for .s (R90). -/
def execBfx (h : Hdr) (o : BfxArgs) (s : State) : Out :=
  runL h (markReads o.regs) s fun s =>
    let f := bitField (s.rdG o.a) o.pos (o.wm1 + 1)
    .ok (s.resG h o.d (if o.sgn then BitVec.ofInt 32 (sextNat (o.wm1 + 1) f) else BitVec.ofNat 32 f) 1)

/-- BFI inserts the low bits of a; bits past 31 are dropped (R90). -/
def execBfi (h : Hdr) (o : BfiArgs) (s : State) : Out :=
  runL h (markReads o.regs) s fun s =>
    let m : Word := BitVec.ofNat 32 ((2 ^ (o.wm1 + 1) - 1) * 2 ^ o.pos)
    .ok (s.resG h o.d ((s.rdG o.d &&& ~~~m) ||| ((s.rdG o.a <<< o.pos) &&& m)) 1)

/-! ## Select and moves (R91 to R94) -/

/-- SEL (R91). -/
def execSel (h : Hdr) (o : SelArgs) (s : State) : Out :=
  runL h (markReads o.regs) s fun s => .ok (s.resG h o.d (if s.rdP o.k != o.n then s.rdG o.a else s.rdG o.b) 1)

/-- MOV copies a g register with its mark (R376), or writes the packed target of a b register (R92). -/
def execMov (h : Hdr) (o : MovArgs) (s : State) : Out :=
  runL h (markReads o.regs) s fun s => match o with
    | .fromG d a => .ok (s.result h false 0 (.g d) (lowBits 32) ((s.rdG a).setWidth 1024) 1 0 (s.markG a))
    | .fromB d b => .ok (s.resG h d (BitVec.ofNat 32 (s.rdB b).target.packed) 1)

/-- MOVI (R93). -/
def execMovi (h : Hdr) (o : MoviArgs) (s : State) : Out :=
  runL h (markReads o.regs) s fun s => .ok (s.resG h o.d (match o.imm with
    | .low v => BitVec.ofInt 32 (sextNat 16 v)
    | .high v => BitVec.ofNat 32 (v * 0x10000 + (s.rdG o.d).toNat % 0x10000)
    | .ext v => BitVec.ofNat 32 v) 1)

/-- MOVX copies a register of the other cluster, mark and value (R94, R376). -/
def execMovx (h : Hdr) (o : MovxArgs) (s : State) : Out :=
  runL h (markReads o.regs) s fun s =>
    .ok (s.result h false 0 (.g o.d) (lowBits 32) ((s.rdG o.a).setWidth 1024) 2 0 (s.markG o.a))

/-! ## Predicates (R95 to R97) -/

/-- The conditions of CMP. -/
def intCond (c : IntCond) (a b : Word) : Bool := match c with
  | .eq => a == b
  | .ne => a != b
  | .ltS => a.toInt < b.toInt
  | .geS => b.toInt ≤ a.toInt
  | .gtS => b.toInt < a.toInt
  | .leS => a.toInt ≤ b.toInt
  | .ltZ => a.toNat < b.toNat
  | .geZ => b.toNat ≤ a.toNat
  | .gtZ => b.toNat < a.toNat
  | .leZ => a.toNat ≤ b.toNat

/-- CMP (R95). -/
def execCmp (h : Hdr) (o : CmpArgs) (s : State) : Out :=
  runL h (markReads o.regs) s fun s => .ok (s.resP h o.p (intCond o.cond (s.rdG o.a) (s.regImm o.b)) 1)

/-- The logic functions of PLOG and MLOG on one bit (R96). -/
def logicFn (f : LogicFn) (a b : Bool) : Bool := match f with
  | .and => a && b
  | .or => a || b
  | .xor => a != b
  | .andn => a && !b
  | .nand => !(a && b)
  | .nor => !(a || b)
  | .xnor => a == b
  | .orn => a || !b

/-- PLOG (R96). -/
def execPlog (h : Hdr) (o : PlogArgs) (s : State) : Out :=
  runL h (markReads o.regs) s fun s => .ok (s.resP h o.p (logicFn o.f (s.rdP o.a) (s.rdP o.b)) 1)

/-- PMOV (R97). -/
def execPmov (h : Hdr) (o : PmovArgs) (s : State) : Out :=
  runL h (markReads o.regs) s fun s => match o with
    | .pp p a => .ok (s.resP h p (s.rdP a) 1)
    | .gAll d => .ok (s.resG h d (BitVec.ofNat 32 (natSum ((List.range 8).map fun i => if s.rdP i then 2 ^ i else 0))) 1)
    | .allG a => .ok ((List.range 7).foldl (fun t i => t.resP h (i + 1) ((s.rdG a).getLsbD (i + 1)) 1) s)
    | .pg p a => .ok (s.resP h p (s.rdG a != 0) 1)

/-! ## Address registers (R98, R99) -/

/-- A word extended to an address: by its sign, or with zeros for `.z`. -/
def extAddr (z : Bool) (b : Word) : Addr := if z then b.setWidth 64 else b.signExtend 64

/-- AADD (R98). -/
def execAadd (h : Hdr) (o : AaddArgs) (s : State) : Out :=
  runL h (markReads o.regs) s fun s => .ok (s.resA h o.d (s.rdA o.a + extAddr o.z (s.regImm o.b)) 1)

/-- ALEA (R98). -/
def execAlea (h : Hdr) (o : AleaArgs) (s : State) : Out :=
  runL h (markReads o.regs) s fun s => .ok (s.resA h o.d (s.rdA o.a + (extAddr o.z (s.rdG o.b) <<< o.sh)) 1)

/-- AMOV (R98). -/
def execAmov (h : Hdr) (o : AmovArgs) (s : State) : Out :=
  runL h (markReads o.regs) s fun s => match o with
    | .fromA d a => .ok (s.resA h d (s.rdA a) 1)
    | .fromG d a => .ok (s.resA h d ((s.rdG a).setWidth 64) 1)
    | .fromGG d a b => .ok (s.resA h d (BitVec.ofNat 64 ((s.rdG b).toNat * 0x100000000 + (s.rdG a).toNat)) 1)
    | .imm d v => .ok (s.resA h d (BitVec.ofInt 64 (sextNat 48 v)) 1)

/-- AGET (R98). -/
def execAget (h : Hdr) (o : AgetArgs) (s : State) : Out :=
  runL h (markReads o.regs) s fun s =>
    .ok (s.resG h o.d (if o.h then (s.rdA o.a >>> 32).setWidth 32 else (s.rdA o.a).setWidth 32) 1)

/-- ACMP, unsigned (R98). -/
def execAcmp (h : Hdr) (o : AcmpArgs) (s : State) : Out :=
  runL h (markReads o.regs) s fun s =>
    let a := (s.rdA o.a).toNat
    let b := (s.rdA o.b).toNat
    .ok (s.resP h o.p (match o.cond with
      | .eq => a = b
      | .ne => a ≠ b
      | .lt => a < b
      | .ge => b ≤ a) 1)

end Sys2Proof.Machine
end

