-- ==== Sys2Proof/Machine/ScalarFp.lean ====
section
/-! DEFINITION. Scalar floating-point instructions and conversions (04 R100 to R108). -/

namespace Sys2Proof.Machine

/-- The rounding mode of an RMODE field (R100). -/
def State.rmode (s : State) : RMode → Nat
  | .dyn => plainRm (s.strm.fcsr.toNat % 8)
  | .rne => 0
  | .rtz => 1
  | .rdn => 2
  | .rup => 3

/-- A floating-point result in a g register with its flags. -/
def State.resF (s : State) (h : Hdr) (d : Nat) (r : FRes) (lat : Nat) : State :=
  s.resGF h d (BitVec.ofNat 32 r.bits) lat (BitVec.ofNat 32 r.flags)

def fpBinary (h : Hdr) (o : FpArgs) (lat : Nat) (f : Nat → Nat → Nat → FRes) (s : State) : Out :=
  runL h (markReads o.regs) s fun s => .ok (s.resF h o.d (f (s.rmode o.rm) (s.rdG o.a).toNat (s.rdG o.b).toNat) lat)

/-- FADD (R101). -/
def execFadd (h : Hdr) (o : FpArgs) (s : State) : Out := fpBinary h o 4 fmtF32.addOp s
/-- FSUB (R101). -/
def execFsub (h : Hdr) (o : FpArgs) (s : State) : Out := fpBinary h o 4 fmtF32.subOp s
/-- FMUL (R101). -/
def execFmul (h : Hdr) (o : FpArgs) (s : State) : Out := fpBinary h o 4 fmtF32.mulOp s
/-- FDIV, in the divide unit (R101, R18). -/
def execFdiv (h : Hdr) (o : FpArgs) (s : State) : Out := fpBinary h o 14 fmtF32.divOp s

/-- FMA: a × b + gd with one rounding, gd read at issue (R101). -/
def execFma (h : Hdr) (o : FmaArgs) (s : State) : Out :=
  runL h (markReads o.regs) s fun s =>
    .ok (s.resF h o.d (fmtF32.fmaOp (s.rmode o.rm) (s.rdG o.a).toNat (s.rdG o.b).toNat (s.rdG o.d).toNat) 4)

/-- FMIN (R101, R102). -/
def execFmin (h : Hdr) (o : FminArgs) (s : State) : Out :=
  runL h (markReads o.regs) s fun s => .ok (s.resF h o.d (fmtF32.minMax false (s.rdG o.a).toNat (s.rdG o.b).toNat) 2)
/-- FMAX (R101, R102). -/
def execFmax (h : Hdr) (o : FminArgs) (s : State) : Out :=
  runL h (markReads o.regs) s fun s => .ok (s.resF h o.d (fmtF32.minMax true (s.rdG o.a).toNat (s.rdG o.b).toNat) 2)

/-- FSQRT, in the divide unit (R101, R18). -/
def execFsqrt (h : Hdr) (o : FsqrtArgs) (s : State) : Out :=
  runL h (markReads o.regs) s fun s => .ok (s.resF h o.d (fmtF32.sqrtOp (s.rmode o.rm) (s.rdG o.a).toNat) 14)

/-- The code of an FP condition (R104). -/
def fpCode : FpCond → Nat
  | .eq => 0
  | .ne => 1
  | .lt => 2
  | .le => 3
  | .gt => 4
  | .ge => 5
  | .un => 6
  | .ord => 7

/-- FCMP (R104). -/
def execFcmp (h : Hdr) (o : FcmpArgs) (s : State) : Out :=
  runL h (markReads o.regs) s fun s =>
    .ok (s.resP h o.p (fmtF32.cond (fpCode o.cond) (s.rdG o.a).toNat (s.rdG o.b).toNat) 2)

/-- FCVT (R107, R108). -/
def execFcvt (h : Hdr) (o : FcvtArgs) (s : State) : Out :=
  runL h (markReads o.regs) s fun s =>
    let r := convert o.dto o.frm (s.rmode o.rm) o.sat (s.rdG o.a).toNat
    .ok (s.resGF h o.d (extendTo o.dto r.bits) 5 (BitVec.ofNat 32 r.flags))

/-- The code of a sign function (R106). -/
def signCode : SignFn → Nat
  | .cpy => 0
  | .neg => 1
  | .xor => 2

/-- FSGN (R106). -/
def execFsgn (h : Hdr) (o : FsgnArgs) (s : State) : Out :=
  runL h (markReads o.regs) s fun s => .ok (s.resF h o.d (fmtF32.sgn (signCode o.f) (s.rdG o.a).toNat (s.rdG o.b).toNat) 2)

/-- FCLS of the low bits in a format (R105). -/
def execFcls (h : Hdr) (o : FclsArgs) (s : State) : Out :=
  runL h (markReads o.regs) s fun s =>
    let f := (floatOf o.fmt).getD fmtF32
    .ok (s.resG h o.d (BitVec.ofNat 32 (2 ^ f.classOf ((s.rdG o.a).toNat % 2 ^ f.width))) 2)

end Sys2Proof.Machine
end

