-- ==== Sys2Proof/Machine/System.lean ====
section
/-! DEFINITION. TRAP, RETT, CHK and ABORT (16 R372 to R375). Their copies meet at issue. -/

namespace Sys2Proof.Machine

/-! ## TRAP and RETT (R372, R373) -/

/-- TRAP: the stream stops after this bundle (R372). -/
def execTrap (h : Hdr) (o : TrapArgs) (s : State) : Out :=
  runI h (markReads o.regs) (vals fun _ => []) s fun s =>
    .ok (s.setLatch fun l => { l with trapAfter := some (o.code + 0x1000 * h.slot + 0x2000 * h.prot) })

/-- A return from the own handler: ILLEGAL_OP outside handler mode; else the stream issues no more of the handler. -/
def ownReturn (i : Instr) (next : Bool) (s : State) : Eff :=
  if !s.strm.handler then .trap 1 (sylVal i) else .ok (s.setStrm fun x => { x with run := .returning next })

/-- RETT (R373). -/
def execRett (h : Hdr) (o : NoArgs) (s : State) : Out :=
  runI h (markReads o.regs) (vals fun _ => []) s fun s => ownReturn (.rett h o) false s
/-- RETT.nx (R373). -/
def execRettNx (h : Hdr) (o : Form1Args) (s : State) : Out :=
  runI h (markReads o.regs) (vals fun _ => []) s fun s => ownReturn (.rettNx h o) true s

/-- The pending system event of a unit: its own wait, or its oldest asynchronous copy fault (R369, R330). -/
def Core.sysEvent (c : Core) (unit : Nat) (async : Bool) : Option SysEvent :=
  (c.sysCur ++ c.sysQ).find? fun e => e.unit = unit && e.copyId.isSome = async

/-- An event has been decided. -/
def Core.dropEvent (c : Core) (e : SysEvent) : Core := { c with sysCur := c.sysCur.erase e, sysQ := c.sysQ.erase e }

/-- The stream that RETT.res and RETT.ref name, where it waits under R369. -/
def State.waitingUnit (s : State) (v : Word) : Option Nat :=
  let u := v.toNat
  if u < 8 && (s.strmOf (sidOf s.ck u)).sysf then some u else none

/-- The oldest asynchronous copy fault, where the register names the copy stream. -/
def State.asyncFault (s : State) (v : Word) : Option SysEvent :=
  if v.toNat = 7 then s.core.sysEvent 7 true else none

/-- A failed copy is issued again from what it read at its issue; its task leaves Held once none of its copies has a fault
(R330, R373). -/
def Core.retryCopy (c : Core) (id : Nat) : Core :=
  let cs := c.copies.map fun p => if p.id = id then { p with fault := none, issued := 0 } else p
  let c1 := { c with copies := cs }
  match cs.find? (·.id = id) with
  | none => c1
  | some p => match c1.entry p.tslot with
    | some e =>
      if e.seq = p.tseq && e.heldCause.isSome && !(cs.any fun q => q.tslot = p.tslot && q.tseq = p.tseq && q.fault.isSome) then
        c1.setEntry p.tslot (some { e with heldCause := none, state := if e.state = .held then .draining else e.state, retries := e.retries + 1 })
      else c1
    | none => c1

/-- RETT.res: the waiting stream issues its stopping bundle again, or a failed copy is retried (R373). -/
def execRettRes (h : Hdr) (o : RettResArgs) (s : State) : Out :=
  runI h (markReads o.regs) (vals fun s => [(s.rdG o.g).toNat]) s fun s =>
    match s.waitingUnit (s.rdG o.g), s.asyncFault (s.rdG o.g) with
    | some u, _ =>
      let s1 := match s.core.sysEvent u false with
        | some e => s.setCore fun c => c.dropEvent e
        | none => s
      .ok (s1.resumeStream (sidOf s.ck u))
    | none, some e => .ok (s.setCore fun c => (c.dropEvent e).retryCopy (e.copyId.getD 0))
    | none, none => .trap 31 0

/-- A waiting stream's cause goes to its class handler (R367), or R368 applies where the image names none; a stream that is in its
handler already raises NESTED_TRAP to the firmware context again (R368). -/
def State.referStream (s : State) (sid : Nat) (e : SysEvent) : State :=
  if (s.strmOf sid).handler then s.fwQueue (coreOfSid sid) e else
  let me := s.sid
  let s1 := s.focus sid
  let x := s1.strm
  let c := s1.core
  let c1 := match c.entry x.slot with
    | some t => if t.state = .held && t.unit = some x.unit then
        c.setEntry x.slot (some { t with state := .running, heldCause := none }) else c
    | none => c
  let s2 := { s1 with core := c1, strm := { x with sysf := false } }
  (s2.enterHandler e.cause e.dflag e.val e.info).focus me

/-- RETT.ref (R373). -/
def execRettRef (h : Hdr) (o : RettRefArgs) (s : State) : Out :=
  runI h (markReads o.regs) (vals fun s => [(s.rdG o.g).toNat]) s fun s =>
    match s.waitingUnit (s.rdG o.g) with
    | some u => match s.core.sysEvent u false with
      | some e => .ok ((s.setCore fun c => c.dropEvent e).referStream (sidOf s.ck u) e)
      | none => .trap 31 0
    | none => .trap 31 0

/-! ## CHK (R374, R376) -/

/-- CHK of a g register raises its mark (R374). -/
def execChk (h : Hdr) (o : ChkArgs) (s : State) : Out :=
  runI h (markReads o.regs) (vals fun s => [(s.rdG o.g).toNat]) s fun s => match s.markG o.g with
    | .none => .ok s
    | .deferred c v => .deferred c v
    | .poison => .trap 25 0

/-- CHK of a queue waits for the head's data and raises its mark; the head stays (R374). -/
def execChkQ (h : Hdr) (o : ChkQArgs) (s : State) : Out :=
  runI h (markReads o.regs) (qItems o.q) s fun s => match s.ownQ o.q with
    | [] => .ok s
    | e :: _ =>
      if e.data.isNone || s.core.ac < e.readyAt then .wait s
      else match e.mark with
        | .none => .ok s
        | .deferred c v => .deferred c v
        | .poison => .trap 25 0

/-- CHK.nb (R374). -/
def execChkNb (h : Hdr) (o : ChkNbArgs) (s : State) : Out :=
  runI h (markReads o.regs) (vals fun s => [(s.rdG o.g).toNat]) s fun s => .ok (s.resP h o.p (s.markG o.g != .none) 1)

/-! ## ABORT (R375) -/

/-- The record of kind 0x06. -/
def State.abortRecord (s : State) (code : Nat) : State :=
  s.sherd s.rank {
    kind := 6, tag := s.strm.tagr.toNat, launch := s.core.launch, core := s.ck, unit := s.strm.unit
    src1 := s.core.lcore * 65536, synd := code, addr := s.strm.pos.packed }

/-- ABORT: a vector task stops after this bundle; an iteration of the control program ends as by END (R375). -/
def execAbort (h : Hdr) (o : TrapArgs) (s : State) : Out :=
  runI h (markReads o.regs) (vals fun _ => []) s fun s =>
    if s.strm.cls = .firmware then .trap 1 (sylVal (.abort h o))
    else if s.strm.cls = .control then match s.lostFor none with
      | some (r, c) => .trapIn (s.setStrm fun x => { x with lost := x.lost.erase (r, c) }) c r
      | none => .ok ((s.abortRecord o.code).setLatch fun l => { l with ended := true })
    else .ok ((s.abortRecord o.code).setStrm fun x => { x with run := .aborting })

/-- The end of an aborted vector task: once every access of the stream has performed, its entry is removed as by a purge,
with no signal and no tag; a bare launch ends with the cause number of ABORT (R375, R183, R30). -/
def State.abortDone (s : State) : State :=
  let x := s.strm
  if x.vamo.isSome || s.sys.reqs.any fun r => r.sid = s.sid then s
  else
    let bare := s.launch.any fun l => l.bare.isSome
    let s1 := { s with strm := x.discard }
    if bare then s1.endBare s.core.launch 30 x
    else match s.core.entry x.slot with
      | some e =>
        if e.unit = some x.unit then
          let c := s.core.dropEntry x.slot
          ({ s1 with core := { c with commit := SMap.erase x.slot c.commit, commitFe := SMap.erase x.slot c.commitFe } }).unpinAll s.pkg e.pages
        else s1
      | none => s1

/-- ABORT.req purges the request tag (R375, R381). -/
def execAbortReq (h : Hdr) (o : AbortReqArgs) (s : State) : Out :=
  runI h (markReads o.regs) (vals fun _ => []) s fun s => .ok ((s.abortRecord o.code).purge s.core.launch s.strm.tagr.toNat 30 s.rank)

end Sys2Proof.Machine
end

