-- ==== Sys2Proof/Machine/Transpose.lean ====
section
/-! DEFINITION. The transpose engine's instructions (14 R343 to R347). An instruction reads its source and writes its output in its
issue cycle, and holds the stream for its other cycles; a ring slot is complete in the last of them. -/

namespace Sys2Proof.Machine

/-- The rows and columns that a dimension register holds. -/
def dimR (w : Word) : Nat := w.toNat % 65536
def dimC (w : Word) : Nat := w.toNat / 65536

/-- The cycles of an instruction under its class (R347). -/
def xeCycles (prot c : Nat) : Nat := match prot with
  | 0 => c
  | 1 => c + (c + 1) / 2
  | _ => 2 * c

/-- The owner number of a transpose among the producers of a ring; QST has 0 and copies odd numbers. -/
def xposeOwner : Nat := 2

/-- The source bytes of a transpose as its task sees them. -/
def State.xeBytes (s : State) (a : Nat) (n : Nat) : List Byte := s.localBytes (s.rdA a).toNat n

/-- What a transpose does with its dimensions: bytes read and written, cycles, whether it is ill formed, and its output with flags from
the rounding mode and the bytes read. -/
structure XForm where
  inLen : Nat
  outLen : Nat
  c : Nat
  bad : Bool
  form : Nat → List Byte → List Byte × Nat

/-- The output of a transpose as a copy forms it. -/
def State.xeOut (s : State) (a : Nat) (x : XForm) : List Byte × Nat :=
  let (out, fl) := x.form (s.strm.fcsr.toNat % 8) (s.xeBytes a x.inLen)
  (if s.strm.upsets.isEmpty then out else out.zipIdx.map fun (b, i) => b ^^^ (s.struck (.elem i)).setWidth 8, fl)

/-- Run a transpose instruction: its checks (R347), the reservation of its slot, its output and flags. Its copies compare the whole
output before any write (R406). -/
def transposeOp (h : Hdr) (regs : List RegUse) (dst : XDst) (a : Nat) (xf : State → XForm) (s : State) : Out :=
  run h (markReads regs) ⟨false, 0, xeCycles h.prot (xf s).c, vals fun s => ((s.xeOut a (xf s)).1.map (·.toNat))⟩ s fun s =>
    let x := xf s
    let cyc := xeCycles h.prot x.c
    let src := (s.rdA a).toNat
    let ring := match dst with
      | .ring k => some (k, s.core.ring k)
      | .addr _ => none
    let next := fun (r : Ring) => (r.pcnt + r.reserved.length) % 0x100000000
    let (lo, len) := match dst, ring with
      | .addr n, _ => ((s.rdA n).toNat, x.outLen)
      | .ring _, some (_, r) => (r.slotAt (next r), 128 * r.slotsz)
      | .ring _, none => (0, 0)
    let meet := x.inLen != 0 && len != 0 && rangesMeet (src, src + x.inLen) (lo, lo + len)
    let noRing := match ring with
      | some (_, r) => !r.init || 128 * r.slotsz < x.outLen
      | none => false
    if x.bad || noRing || meet then .trap 16 0
    else match (if x.inLen = 0 then none else s.localFault src x.inLen false).or
        (if ring.isSome || x.outLen = 0 then none else s.localFault lo x.outLen false) with
      | some (e, v) => .trap e v
      | none =>
        let (out, fl) := s.xeOut a x
        let last := s.strm.cyc + cyc - 1
        let own := s.taskSeq s.sid
        let done := fun (t : State) (more : List RowTask) =>
          Eff.ok ((t.setEng fun e => { e with
            rows := e.rows ++ more ++ [.flags last (BitVec.ofNat 32 fl) own] }).setLatch fun l =>
              { l with extra := cyc - 1 })
        if s.core.poisoned src x.inLen then .trap 25 0
        else match ring with
          | some (k, r) =>
            if s.specSlot.isSome then .wait s
            else match r.reserve xposeOwner s.strm.tagr.toNat 1 with
              | none => .wait s
              | some r1 =>
                let t := s.setCore fun d => (d.setRing k r1).writeLocal lo (out ++ List.replicate (len - x.outLen) 0)
                done t [.slot last k (next r) own]
          | none => match s.localWrite lo out with
            | none => .wait s
            | some t => done t []

/-! ## XPOSE (R344) -/

/-- Bytes of an element. -/
def xwidth : XWidth → Nat
  | .w8 => 1
  | .w16 => 2
  | .w32 => 4

/-- Bytes `n` of a list from an index. -/
def sub (bs : List Byte) (i n : Nat) : List Byte := (bs.drop i).take n

/-- XPOSE. -/
def execXpose (h : Hdr) (o : XposeArgs) (s : State) : Out :=
  let n := xwidth o.w
  transposeOp h o.regs o.dst o.a (fun s =>
    let r := dimR (s.rdG o.g)
    let c := dimC (s.rdG o.g)
    ⟨r * c * n, r * c * n, (r * c * 8 * n + 1023) / 1024 + 16, false,
      fun _ bs => ((List.range (r * c)).flatMap fun i => sub bs (n * (i % r * c + i / r)) n, 0)⟩) s

/-! ## XLAY (R345) -/

/-- The position of unit `u` of row `r`. -/
def layoutPos (l : Layout) (un r u : Nat) : Nat := match l with
  | .lin => r * un + u
  | .blk => r / 32 * (32 * un) + 32 * u + r % 32
  | .rot => r * un + (u + r) % un

/-- XLAY. -/
def execXlay (h : Hdr) (o : XlayArgs) (s : State) : Out :=
  transposeOp h o.regs o.dst o.a (fun s =>
    let r := dimR (s.rdG o.g)
    let un := dimC (s.rdG o.g)
    let moves := (List.range (r * un)).map fun i => (layoutPos o.dto un (i / un) (i % un), layoutPos o.frm un (i / un) (i % un))
    ⟨r * un * 128, r * un * 128, r * un + 8, (o.frm = .blk || o.dto = .blk) && r % 32 != 0,
      fun _ bs => ((List.range (r * un)).flatMap fun p =>
        sub bs (128 * ((moves.find? fun (d, _) => d = p).getD (p, p)).2) 128, 0)⟩) s

/-! ## XREQ (R346) -/

/-- The element format of codes 0 to 2. -/
def qBlock : QFmt → Option BlockFmt
  | .e4m3 => some .e4m3
  | .e5m2 => some .e5m2
  | .i8 => some .i8
  | .l4x => none

/-- An element byte of a block format, unscaled. -/
def xposeElem (f : BlockFmt) (b : Nat) : FVal := match f with
  | .e4m3 => fmtE4m3.decode b
  | .e5m2 => fmtE5m2.decode b
  | .i8 => .ofInt (sextNat 8 b)

/-- The exact values of a scaled matrix of R rows and C columns, row by row, and the flags of decoding it. -/
def decodeScaled (f : QFmt) (r c : Nat) (bs : List Byte) : List (List FVal) × Nat := match qBlock f with
  | some bf =>
    let byte := fun i => (bs.getD i 0).toNat
    ((List.range r).map fun i => (List.range c).map fun j =>
      (xposeElem bf (byte (i * c + j))).e8 (byte (r * c + j / 32 * r + i)), 0)
  | none =>
    let rows := (List.range r).map fun i => (List.range (c / 32)).map fun b => decodeL4x (sub bs (18 * (i * (c / 32) + b)) 18)
    let scaledRow := fun (row : List (Nat × List FVal × Nat)) => row.flatMap fun (sc, vs, _) => vs.map (FVal.e8 sc)
    (rows.map scaledRow, orFlags (rows.flatMap fun row => row.map fun (sc, vs, fl) =>
      fl ||| if vs.any fun v => (v.e8 sc).isNan then flNV else 0))

/-- Encode a matrix by rows in a scaled format, the scales after the data (R346). -/
def encodeScaled (f : QFmt) (rm : Nat) (rows : List (List FVal)) (len : Nat) : List Byte × Nat :=
  let nb := len / 32
  let blocks := rows.map fun row => (List.range nb).map fun b => (row.drop (32 * b)).take 32
  match qBlock f with
  | some bf =>
    let es := blocks.map fun row => row.map (encodeVals bf rm)
    (es.flatMap (fun row => row.flatMap fun e => e.elems.map fun x => (BitVec.ofNat 8 x : Byte)) ++
      (List.range nb).flatMap (fun b => es.map fun row => BitVec.ofNat 8 ((row[b]?).elim 0 (·.scale))),
      orFlags (es.flatMap fun row => row.map (·.flags)))
  | none =>
    let es := blocks.map fun row => row.map (encodeL4xVals rm)
    (es.flatMap (fun row => row.flatMap Prod.fst) ++
      (List.range nb).flatMap (fun b => es.map fun row => ((row[b]?).elim [] Prod.fst).headD 0),
      orFlags (es.flatMap fun row => row.map Prod.snd))

/-- The transpose of rows of `c` values. -/
def transposeRows (rows : List (List FVal)) (c : Nat) : List (List FVal) :=
  (List.range c).map fun j => rows.map fun row => row.getD j .nan

/-- Bytes of a scaled matrix as XREQ reads it and as it writes it. -/
def scaledData (f : QFmt) (r c : Nat) : Nat := if f = .l4x then r * c / 32 * 18 else r * c

/-- XREQ. -/
def execXreq (h : Hdr) (o : XreqArgs) (s : State) : Out :=
  let okDim := fun (n : Nat) => n % 32 = 0 && 32 ≤ n && n ≤ 512
  transposeOp h o.regs o.dst o.a (fun s =>
    let r := dimR (s.rdG o.g)
    let c := dimC (s.rdG o.g)
    let data := scaledData o.fmt r c
    let inLen := if o.fmt = .l4x then data else data + r * c / 32
    ⟨inLen, data + r * c / 32, (data + 63) / 64 + 32, !(okDim r) || !(okDim c), fun rm bs =>
      let (rows, fl) := decodeScaled o.fmt r c bs
      let (out, fl2) := encodeScaled o.fmt (requantRm rm) (transposeRows rows c) r
      (out, fl ||| fl2)⟩) s

end Sys2Proof.Machine
end

