-- ==== Sys2Proof/Machine/VectorInt.lean ====
section
/-! DEFINITION. Vector elements, masks and sources (05 R127 to R131), the integer element operations, VCMP and VSEL (05 R136 to
R139), the broadcasts and element moves (R156), the lane moves (R155, R157, R158) and the mask instructions (R161). -/

namespace Sys2Proof.Machine

/-! ## Elements (R127) -/

/-- Element `e` of width `w` bits. -/
def elem (v : VReg) (w e : Nat) : Nat := v.toNat / 2 ^ (w * e) % 2 ^ w

/-- A register from its elements of width `w` bits, `n` of them from element 0. -/
def ofElems (w n : Nat) (f : Nat → Nat) : VReg :=
  BitVec.ofNat 1024 ((List.range n).foldl (fun acc e => acc + f e % 2 ^ w * 2 ^ (w * e)) 0)

/-- The bits of `n` elements of width `w` from element `e`. -/
def elemBits (w e n : Nat) : VReg := BitVec.ofNat 1024 ((2 ^ (w * n) - 1) * 2 ^ (w * e))

/-- Whether the lane that holds an element is active. -/
def elemActive (gm : Word) (w e : Nat) : Bool := bit gm.toNat (w * e / 32)

/-- The width in bits of the integer layout's W (R128). -/
def widthOf : VWidth → Nat
  | .w32 => 32
  | .w16 => 16
  | .w8 => 8

/-- The elements of a second source: a register's, or one scalar's low bits in every element (R131). -/
def State.vsrc (s : State) (b : VSrc) (w e : Nat) : Nat := match b with
  | .vec n => elem (s.rdV n) w e
  | .gs n => (s.rdG n).toNat % 2 ^ w
  | .imm v => v % 2 ^ w

/-- A result in a v register under a governing mask: active lanes are written, and inactive lanes zero under MZ (R129). -/
def State.resV (s : State) (h : Hdr) (d : Nat) (gm : Word) (mz : Bool) (val : VReg) (lat flags : Nat) : State :=
  let act := laneBits gm
  s.result h true gm (.v d) (if mz then BitVec.allOnes 1024 else act) (val &&& act) lat (BitVec.ofNat 32 flags) .none

/-- Bits of an m register under a governing mask (R138, R145). -/
def State.resM (s : State) (h : Hdr) (d : Nat) (bits val : Word) (lat : Nat) : State :=
  s.result h true (BitVec.allOnes 32) (.m d) (bits.setWidth 1024) (val.setWidth 1024) lat 0 .none

/-- A g result of the vector block. -/
def State.resVG (s : State) (h : Hdr) (d : Nat) (gm v : Word) (lat flags : Nat) : State :=
  s.result h true gm (.g d) (lowBits 32) (v.setWidth 1024) lat (BitVec.ofNat 32 flags) .none

/-! ## Integer element operations (R136, R137) -/

/-- An element as an integer. -/
def elemInt (w : Nat) (z : Bool) (x : Nat) : Int := if z then ((x % 2 ^ w : Nat) : Int) else sextNat w x

/-- Clamp to the range of a width. -/
def satElem (w : Nat) (z : Bool) (v : Int) : Nat :=
  wrap w (if z then max 0 (min v (2 ^ w - 1)) else max (-(2 ^ (w - 1))) (min v (2 ^ (w - 1) - 1)))

/-- An element operation of a, b and vd's element d over the active lanes. -/
def vmap (h : Hdr) (rs : List RegUse) (d a : Nat) (b : VSrc) (km : Nat) (mz : Bool) (w : Nat) (f : Nat → Nat → Nat → Nat)
    (s : State) : Out :=
  runV h (markReads rs) s fun s =>
    .ok (s.resV h d (s.rdM km) mz
      (ofElems w (1024 / w) fun e => f (elem (s.rdV a) w e) (s.vsrc b w e) (elem (s.rdV d) w e)) 2 0)

def vint (h : Hdr) (o : VIntArgs) (f : Nat → Nat → Nat → Nat) (s : State) : Out :=
  vmap h o.regs o.d o.a o.b o.km o.mz (widthOf o.w) (fun a b _ => f (widthOf o.w) a b) s
def vintZ (h : Hdr) (o : VIntZArgs) (f : Nat → Bool → Nat → Nat → Nat) (s : State) : Out :=
  vmap h o.regs o.d o.a o.b o.km o.mz (widthOf o.w) (fun a b _ => f (widthOf o.w) o.z a b) s

/-- VADD (R137). -/
def execVadd (h : Hdr) (o : VIntArgs) (s : State) : Out := vint h o (fun _ a b => a + b) s
/-- VSUB (R137). -/
def execVsub (h : Hdr) (o : VIntArgs) (s : State) : Out := vint h o (fun w a b => a + 2 ^ w - b) s
/-- VMUL (R137). -/
def execVmul (h : Hdr) (o : VIntArgs) (s : State) : Out := vint h o (fun _ a b => a * b) s
/-- VMULH: the high half of the product (R137). -/
def execVmulh (h : Hdr) (o : VIntZArgs) (s : State) : Out :=
  vintZ h o (fun w z a b => wrap w ((elemInt w z a * elemInt w z b) / ((2 ^ w : Nat) : Int))) s
/-- VMAD: vd is the addend, read at issue (R136, R137). -/
def execVmad (h : Hdr) (o : VMadArgs) (s : State) : Out :=
  vmap h o.regs o.d o.a o.b o.km o.mz (widthOf o.w) (fun a b d => d + a * b) s
/-- VMIN (R137). -/
def execVmin (h : Hdr) (o : VIntZArgs) (s : State) : Out :=
  vintZ h o (fun w z a b => if elemInt w z b < elemInt w z a then b else a) s
/-- VMAX (R137). -/
def execVmax (h : Hdr) (o : VIntZArgs) (s : State) : Out :=
  vintZ h o (fun w z a b => if elemInt w z a < elemInt w z b then b else a) s
/-- VABS: the most negative value gives itself (R137). -/
def execVabs (h : Hdr) (o : VabsArgs) (s : State) : Out :=
  vmap h o.regs o.d o.a (.imm 0) o.km o.mz (widthOf o.w) (fun a _ _ => (sextNat (widthOf o.w) a).natAbs) s
/-- VAND (R137). -/
def execVand (h : Hdr) (o : VIntArgs) (s : State) : Out := vint h o (fun _ a b => a &&& b) s
/-- VOR (R137). -/
def execVor (h : Hdr) (o : VIntArgs) (s : State) : Out := vint h o (fun _ a b => a ||| b) s
/-- VXOR (R137). -/
def execVxor (h : Hdr) (o : VIntArgs) (s : State) : Out := vint h o (fun _ a b => a ^^^ b) s
/-- VSHL: 0 from a count of the width on (R137). -/
def execVshl (h : Hdr) (o : VIntArgs) (s : State) : Out := vint h o (fun w a k => if k < w then a * 2 ^ k else 0) s
/-- VSHR: 0 from a count of the width on (R137). -/
def execVshr (h : Hdr) (o : VIntArgs) (s : State) : Out := vint h o (fun w a k => if k < w then a / 2 ^ k else 0) s
/-- VSAR: copies of the sign from a count of the width on (R137). -/
def execVsar (h : Hdr) (o : VIntArgs) (s : State) : Out :=
  vint h o (fun w a k => wrap w (sextNat w a / ((2 ^ min k w : Nat) : Int))) s
/-- VADDS (R137). -/
def execVadds (h : Hdr) (o : VIntZArgs) (s : State) : Out := vintZ h o (fun w z a b => satElem w z (elemInt w z a + elemInt w z b)) s
/-- VSUBS (R137). -/
def execVsubs (h : Hdr) (o : VIntZArgs) (s : State) : Out := vintZ h o (fun w z a b => satElem w z (elemInt w z a - elemInt w z b)) s

/-! ## Comparison and selection (R138, R139) -/

/-- The word whose bit i is a lane's truth value. -/
def laneWord (f : Nat → Bool) : Word := BitVec.ofNat 32 (natSum ((List.range 32).map fun i => if f i then 2 ^ i else 0))

/-- VCMP: active bits are written, and inactive bits zero under MZ (R138). -/
def execVcmp (h : Hdr) (o : VcmpArgs) (s : State) : Out :=
  runV h (markReads o.regs) s fun s =>
    let gm := s.rdM o.km
    let r := laneWord fun i => intCond o.cond (lane (s.rdV o.a) i) (lane (s.rdV o.b) i)
    .ok (s.resM h o.m (if o.mz then BitVec.allOnes 32 else gm) (r &&& gm) 2)

/-- VSEL: every lane is written, by its bit of the selector (R139). -/
def execVsel (h : Hdr) (o : VselArgs) (s : State) : Out :=
  runV h (markReads o.regs) s fun s =>
    let w := widthOf o.w
    let m := laneBits (s.rdM o.ms)
    let b := ofElems w (1024 / w) fun e => s.vsrc o.b w e
    .ok (s.resV h o.d (BitVec.allOnes 32) false (mergeBits b m (s.rdV o.a)) 2 0)

/-! ## Lane movement (R155 to R158) -/

/-- VPERM: each element names the element of va that it takes (R155). -/
def execVperm (h : Hdr) (o : VpermArgs) (s : State) : Out :=
  runV h (markReads o.regs) s fun s =>
    let w := widthOf o.w
    let n := 1024 / w
    .ok (s.resV h o.d (s.rdM o.km) o.mz (ofElems w n fun e => elem (s.rdV o.a) w (elem (s.rdV o.b) w e % n)) 2 0)

/-- VSHUF: each element of vd, read at issue, names an element of va or vb (R155). -/
def execVshuf (h : Hdr) (o : VshufArgs) (s : State) : Out :=
  runV h (markReads o.regs) s fun s =>
    let w := widthOf o.w
    let n := 1024 / w
    .ok (s.resV h o.d (s.rdM o.km) o.mz (ofElems w n fun e =>
      let x := elem (s.rdV o.d) w e % (2 * n)
      if x < n then elem (s.rdV o.a) w x else elem (s.rdV o.b) w (x - n)) 2 0)

/-- The element index of VEXT and VINS: an immediate, or a g register modulo n (R156). -/
def State.vidx (s : State) (i : VIdx) (n : Nat) : Nat := match i with
  | .imm k => k % n
  | .gs g => (s.rdG g).toNat % n

/-- VBCST (R156). -/
def execVbcst (h : Hdr) (o : VbcstArgs) (s : State) : Out :=
  runV h (markReads o.regs) s fun s =>
    let w := widthOf o.w
    let x := match o.src with
      | .elem a i => elem (s.rdV a) w i
      | .gs g => (s.rdG g).toNat
      | .imm v => v
    .ok (s.resV h o.d (s.rdM o.km) o.mz (ofElems w (1024 / w) fun _ => x) 2 0)

/-- VEXT: the element sign-extended, or zero-extended for .z (R156). -/
def execVext (h : Hdr) (o : VextArgs) (s : State) : Out :=
  runV h (markReads o.regs) s fun s =>
    let w := widthOf o.w
    let x := elem (s.rdV o.a) w (s.vidx o.idx (1024 / w))
    .ok (s.resVG h o.d (BitVec.allOnes 32) (BitVec.ofInt 32 (elemInt w o.z x)) 2 0)

/-- VINS writes one element and no other bit (R130, R156). -/
def execVins (h : Hdr) (o : VinsArgs) (s : State) : Out :=
  runV h (markReads o.regs) s fun s =>
    let w := widthOf o.w
    let e := s.vidx o.idx (1024 / w)
    .ok (s.result h true (BitVec.allOnes 32) (.v o.d) (elemBits w e 1)
      (BitVec.ofNat 1024 ((s.rdG o.g).toNat % 2 ^ w * 2 ^ (w * e))) 2 0 .none)

/-- c(i): the 1 bits of a mask below bit i (R157). -/
def onesBelow (gm : Word) (i : Nat) : Nat := ((List.range i).filter fun j => bit gm.toNat j).length

/-- VIOTA (R157). -/
def execViota (h : Hdr) (o : ViotaArgs) (s : State) : Out :=
  runV h (markReads o.regs) s fun s =>
    let gm := s.rdM o.km
    .ok (s.resV h o.d gm o.mz (ofElems 32 32 fun i => onesBelow gm i) 2 0)

/-- VCMPRS: the active lanes in ascending order to the lowest lanes (R157). -/
def execVcmprs (h : Hdr) (o : VcmprsArgs) (s : State) : Out :=
  runV h (markReads o.regs) s fun s =>
    let act := (List.range 32).filter fun i => bit (s.rdM o.km).toNat i
    let gm := laneWord fun i => i < act.length
    .ok (s.resV h o.d gm o.mz (ofElems 32 32 fun i => elem (s.rdV o.a) 32 (act.getD i 0)) 2 0)

/-- VEXPND: lane c(i) of va into each active lane i (R157). -/
def execVexpnd (h : Hdr) (o : VcmprsArgs) (s : State) : Out :=
  runV h (markReads o.regs) s fun s =>
    let gm := s.rdM o.km
    .ok (s.resV h o.d gm o.mz (ofElems 32 32 fun i => elem (s.rdV o.a) 32 (onesBelow gm i)) 2 0)

/-- VMOVX copies the active lanes from the other cluster (R158). -/
def execVmovx (h : Hdr) (o : VmovxArgs) (s : State) : Out :=
  runV h (markReads o.regs) s fun s => .ok (s.resV h o.d (s.rdM o.km) o.mz (s.rdV o.a) 2 0)

/-! ## Mask instructions (R161) -/

/-- MLOG (R161). -/
def execMlog (h : Hdr) (o : MlogArgs) (s : State) : Out :=
  runV h (markReads o.regs) s fun s =>
    .ok (s.resM h o.m (BitVec.allOnes 32) (laneWord fun i => logicFn o.f (bit (s.rdM o.a).toNat i) (bit (s.rdM o.b).toNat i)) 1)

/-- MPOP (R161). -/
def execMpop (h : Hdr) (o : MpopArgs) (s : State) : Out :=
  runV h (markReads o.regs) s fun s => .ok (s.resVG h o.d (BitVec.allOnes 32) (BitVec.ofNat 32 (popCount (s.rdM o.m))) 1 0)

/-- MFF: the lowest or highest 1 bit, 32 if none (R161). -/
def execMff (h : Hdr) (o : MffArgs) (s : State) : Out :=
  runV h (markReads o.regs) s fun s =>
    let m := s.rdM o.m
    let i := if m = 0 then 32 else if o.last then 31 - leadingZeros m else trailingZeros m
    .ok (s.resVG h o.d (BitVec.allOnes 32) (BitVec.ofNat 32 i) 1 0)

/-- MMOV (R161). -/
def execMmov (h : Hdr) (o : MmovArgs) (s : State) : Out :=
  runV h (markReads o.regs) s fun s =>
    .ok (match o with
      | .mm m a => s.resM h m (BitVec.allOnes 32) (s.rdM a) 1
      | .mg m a => s.resM h m (BitVec.allOnes 32) (s.rdG a) 1
      | .gm d a => s.resVG h d (BitVec.allOnes 32) (s.rdM a) 1 0
      | .imm m v => s.resM h m (BitVec.allOnes 32) (BitVec.ofNat 32 v) 1)

end Sys2Proof.Machine
end

