-- ==== Sys2Proof/Machine/VectorFp.lean ====
section
/-! DEFINITION. Vector floating point, conversion, block encoding and scaling (05 R140 to R151), the generator and the dot
products (05 R159, R160). -/

namespace Sys2Proof.Machine

/-- The format of the FP layout's F (R128). -/
def vfmt : VFloat → FFmt
  | .f32 => fmtF32
  | .bf16 => fmtBf16
  | .f16 => fmtF16

/-- Elements packed from element 0 up. -/
def packElems (w : Nat) (l : List Nat) : Nat := l.foldr (fun x acc => x % 2 ^ w + 2 ^ w * acc) 0

/-- The rounding mode of a vector operation: FCSR.RM under R13. -/
def State.vrm (s : State) : Nat := plainRm (s.strm.fcsr.toNat % 8)

/-- A result made of elements with flags: flags come from active lanes only (R129). -/
def State.resElems (s : State) (h : Hdr) (d : Nat) (gm : Word) (mz : Bool) (w lat : Nat) (rs : List FRes) : State :=
  let fl := orFlags (rs.zipIdx.map fun (r, e) => if elemActive gm w e then r.flags else 0)
  s.resV h d gm mz (BitVec.ofNat 1024 (packElems w (rs.map (·.bits)))) lat fl

/-- An FP element operation of a, b and vd's element d over the active lanes. -/
def vfmap (h : Hdr) (rs : List RegUse) (d a : Nat) (b : VSrc) (km : Nat) (mz : Bool) (f : VFloat) (lat : Nat)
    (op : FFmt → Nat → Nat → Nat → Nat → FRes) (s : State) : Out :=
  runV h (markReads rs) s fun s =>
    let w := (vfmt f).width
    .ok (s.resElems h d (s.rdM km) mz w lat ((List.range (1024 / w)).map fun e =>
      op (vfmt f) s.vrm (elem (s.rdV a) w e) (s.vsrc b w e) (elem (s.rdV d) w e)))

def vfbin (h : Hdr) (o : VFBinArgs) (lat : Nat) (op : FFmt → Nat → Nat → Nat → FRes) (s : State) : Out :=
  vfmap h o.regs o.d o.a o.b o.km o.mz o.f lat (fun f rm a b _ => op f rm a b) s
def vfun (h : Hdr) (o : VFUnArgs) (lat : Nat) (op : FFmt → Nat → Nat → FRes) (s : State) : Out :=
  vfmap h o.regs o.d o.a (.imm 0) o.km o.mz o.f lat (fun f rm a _ _ => op f rm a) s

/-- VFADD (R141). -/
def execVfadd (h : Hdr) (o : VFBinArgs) (s : State) : Out := vfbin h o 5 FFmt.addOp s
/-- VFSUB (R141). -/
def execVfsub (h : Hdr) (o : VFBinArgs) (s : State) : Out := vfbin h o 5 FFmt.subOp s
/-- VFMUL (R141). -/
def execVfmul (h : Hdr) (o : VFBinArgs) (s : State) : Out := vfbin h o 5 FFmt.mulOp s
/-- VFMA: vd is the addend, read at issue (R140, R141). -/
def execVfma (h : Hdr) (o : VFmaArgs) (s : State) : Out :=
  vfmap h o.regs o.d o.a o.b o.km o.mz o.f 5 (fun f rm a b d => f.fmaOp rm a b d) s
/-- VFMIN (R141, R142). -/
def execVfmin (h : Hdr) (o : VFBinArgs) (s : State) : Out := vfbin h o 2 (fun f _ a b => f.minMax false a b) s
/-- VFMAX (R141, R142). -/
def execVfmax (h : Hdr) (o : VFBinArgs) (s : State) : Out := vfbin h o 2 (fun f _ a b => f.minMax true a b) s
/-- VFDIV (R141, R142). -/
def execVfdiv (h : Hdr) (o : VFBinArgs) (s : State) : Out := vfbin h o 14 FFmt.divOp s
/-- VFSQRT (R141, R142). -/
def execVfsqrt (h : Hdr) (o : VFUnArgs) (s : State) : Out := vfun h o 14 FFmt.sqrtOp s
/-- VFEXP2 (R143). -/
def execVfexp2 (h : Hdr) (o : VFUnArgs) (s : State) : Out := vfun h o 8 (fun f rm a => f.round rm false (f.decode a).exp2) s

/-- log2 with DZ for a zero (R143). -/
def FFmt.log2Op (f : FFmt) (rm a : Nat) : FRes :=
  let x := f.decode a
  let r := f.round rm false x.log2
  if x.zero then ⟨r.bits, flDZ⟩ else r

/-- VFLOG2 (R143). -/
def execVflog2 (h : Hdr) (o : VFUnArgs) (s : State) : Out := vfun h o 8 FFmt.log2Op s

/-- VFCMP: f32 lanes; the bits as in R138 (R145). -/
def execVfcmp (h : Hdr) (o : VfcmpArgs) (s : State) : Out :=
  runV h (markReads o.regs) s fun s =>
    let gm := s.rdM o.km
    let r := laneWord fun i => fmtF32.cond (fpCode o.cond) (lane (s.rdV o.a) i).toNat (lane (s.rdV o.b) i).toNat
    .ok (s.resM h o.m (if o.mz then BitVec.allOnes 32 else gm) (r &&& gm) 2)

/-- VFSGN (R146). -/
def execVfsgn (h : Hdr) (o : VfsgnArgs) (s : State) : Out :=
  vfmap h o.regs o.d o.a (.vec o.b) o.km o.mz o.f 2 (fun f _ a b _ => f.sgn (signCode o.op) a b) s

/-! ## Conversion and block encoding (R147 to R151) -/

/-- The index of element `e` of part `p` on a side of width `w` (R148). -/
def partIndex (w p e : Nat) : Nat := if w = 32 then e else 32 * (p % (32 / w)) + e

/-- VCVT converts 32 elements and writes no others (R148). -/
def execVcvt (h : Hdr) (o : VcvtArgs) (s : State) : Out :=
  runV h (markReads o.regs) s fun s =>
    let wf := fmtWidth o.frm
    let wt := fmtWidth o.dto
    let rs := (List.range 32).map fun e => convert o.dto o.frm (s.rmode o.rm) o.sat (elem (s.rdV o.a) wf (partIndex wf o.part e))
    let first := partIndex wt o.part 0
    .ok (s.result h true (BitVec.allOnes 32) (.v o.d) (elemBits wt first 32)
      (BitVec.ofNat 1024 (packElems wt (rs.map (·.bits)) * 2 ^ (wt * first))) 5 (BitVec.ofNat 32 (orFlags (rs.map (·.flags)))) .none)

/-- Bytes at byte position `p` of a v register. -/
def bytesAt (p : Nat) (bs : List Nat) : VReg := BitVec.ofNat 1024 (packElems 8 bs * 2 ^ (8 * p))

/-- The block format of a code other than l4x. -/
def blockFmt : QFmt → BlockFmt
  | .e4m3 => .e4m3
  | .e5m2 => .e5m2
  | _ => .i8

/-- VQENC writes one block, and its scale to a g register (R149). -/
def execVqenc (h : Hdr) (o : VqencArgs) (s : State) : Out :=
  runV h (markReads o.regs) s fun s =>
    let xs := (List.range 32).map fun i => (lane (s.rdV o.a) i).toNat
    let rm := requantRm (s.strm.fcsr.toNat % 8)
    let all := BitVec.allOnes 32
    if o.fmt = .l4x then
      let (bs, fl) := encodeL4x rm xs
      .ok (s.result h true all (.v o.d) (elemBits 8 (18 * o.k) 18) (bytesAt (18 * o.k) (bs.map (·.toNat))) 5
        (BitVec.ofNat 32 fl) .none)
    else
      let b := encodeBlock (blockFmt o.fmt) rm xs
      let s1 := s.result h true all (.v o.d) (elemBits 8 (32 * o.k) 32) (bytesAt (32 * o.k) b.elems) 5
        (BitVec.ofNat 32 b.flags) .none
      .ok (s1.resVG h o.g all (BitVec.ofNat 32 b.scale) 5 0)

/-- The value of a block element before its scale. -/
def blockElem (f : QFmt) (x : Nat) : FVal := match f with
  | .e4m3 => fmtE4m3.decode x
  | .e5m2 => fmtE5m2.decode x
  | _ => .ofInt (sextNat 8 x)

/-- VQDEC decodes a block to 32 lanes (R150). -/
def execVqdec (h : Hdr) (o : VqdecArgs) (s : State) : Out :=
  runV h (markReads o.regs) s fun s =>
    let v := s.rdV o.a
    let (scale, vals, fl) := if o.fmt = .l4x then decodeL4x ((List.range 18).map fun i => BitVec.ofNat 8 (elem v 8 (18 * o.k + i)))
      else ((s.rdG o.g).toNat % 256, (List.range 32).map fun e => blockElem o.fmt (elem v 8 (32 * o.k + e)), 0)
    let rs := vals.map fun x => fmtF32.round s.vrm false (x.e8 scale)
    let bits := BitVec.ofNat 1024 (packElems 32 (rs.map (·.bits)))
    .ok (s.resV h o.d (BitVec.allOnes 32) false bits 5 (orFlags (fl :: rs.map (·.flags))))

/-- The scale byte of element `e` in VSCL (R151). -/
def State.sclScale (s : State) (b : VSrc) (e : Nat) : Nat := match b with
  | .vec n => elem (s.rdV n) 8 (e / 32)
  | .gs n => (s.rdG n).toNat % 256
  | .imm v => v % 256

/-- VSCL (R151). -/
def execVscl (h : Hdr) (o : VsclArgs) (s : State) : Out :=
  runV h (markReads o.regs) s fun s =>
    let f := vfmt o.f
    .ok (s.resElems h o.d (s.rdM o.km) o.mz f.width 5 ((List.range (1024 / f.width)).map fun e =>
      f.round s.vrm false ((f.decode (elem (s.rdV o.a) f.width e)).e8 (s.sclScale o.b e))))

/-! ## Generator and dot products (R159, R160) -/

/-- VRND (R159). -/
def execVrnd (h : Hdr) (o : VrndArgs) (s : State) : Out :=
  runV h (markReads o.regs) s fun s =>
    let key := s.regImm o.key
    let x := fun i => (generate (lane (s.rdV o.a) i) key).toNat
    .ok (s.resV h o.d (s.rdM o.km) o.mz
      (ofElems 32 32 fun i => if o.f then (fmtF32.round 0 false (.fin false (x i / 256) (-24))).bits else x i) 6 0)

/-- The float format of a VDOT type, or the width and signedness of its integers. -/
def dotFmt : DotTy → Option FFmt
  | .bf16 => some fmtBf16
  | .f16 => some fmtF16
  | .e4m3 => some fmtE4m3
  | .e5m2 => some fmtE5m2
  | _ => none
def dotInt : DotTy → Nat × Bool
  | .i8 => (8, false)
  | .u8 => (8, true)
  | .i16 => (16, false)
  | _ => (16, true)

/-- One lane of VDOT: one rounding of the exact sum, or the sum modulo 2^32 (R160). -/
def dotLane (ty : DotTy) (rm a b d : Nat) : FRes :=
  match dotFmt ty with
  | some f =>
    let term := fun j => (f.decode (a / 2 ^ (f.width * j) % 2 ^ f.width)).mul (f.decode (b / 2 ^ (f.width * j) % 2 ^ f.width))
    fmtF32.round rm false ((List.range (32 / f.width)).foldl (fun acc j => acc.add rm (term j)) (fmtF32.decode d))
  | none =>
    let (w, z) := dotInt ty
    let at_ := fun x j => elemInt w z (x / 2 ^ (w * j))
    ⟨wrap 32 ((List.range (32 / w)).foldl (fun acc j => acc + at_ a j * at_ b j) (d : Int)), 0⟩

/-- VDOT: vd is the addend, read at issue (R160). -/
def execVdot (h : Hdr) (o : VdotArgs) (s : State) : Out :=
  runV h (markReads o.regs) s fun s =>
    .ok (s.resElems h o.d (s.rdM o.km) o.mz 32 5 ((List.range 32).map fun i =>
      dotLane o.ty s.vrm (lane (s.rdV o.a) i).toNat (lane (s.rdV o.b) i).toNat (lane (s.rdV o.d) i).toNat))

end Sys2Proof.Machine
end

