-- ==== Sys2Proof/Machine/VectorLane.lean ====
section
/-! DEFINITION. Reductions, scans and sorting (05 R152 to R154, 02 R50, R51). -/

namespace Sys2Proof.Machine

/-- The identity of a combination (R50). -/
def redIdentity (op : RedOp) (ty : RedTy) : Nat := match op, ty with
  | .add, .f32 => 0x80000000
  | .add, _ => 0
  | .min, .i32 => 0x7FFFFFFF
  | .min, .u32 => 0xFFFFFFFF
  | .min, .f32 => 0x7F800000
  | .max, .i32 => 0x80000000
  | .max, .u32 => 0
  | .max, .f32 => 0xFF800000

/-- One combination of two lane values; FP add rounds RNE (R152). -/
def redCombine (op : RedOp) (ty : RedTy) (a b : Nat) : FRes :=
  match op, ty with
  | .add, .f32 => fmtF32.addOp 0 a b
  | .add, _ => ⟨(a + b) % 0x100000000, 0⟩
  | .min, .f32 => fmtF32.minMax false a b
  | .max, .f32 => fmtF32.minMax true a b
  | .min, ty => ⟨if elemInt 32 (ty = .u32) b < elemInt 32 (ty = .u32) a then b else a, 0⟩
  | .max, ty => ⟨if elemInt 32 (ty = .u32) a < elemInt 32 (ty = .u32) b then b else a, 0⟩

/-- One level of the pairwise tree. -/
def redLevel (op : RedOp) (ty : RedTy) : List FRes → List FRes
  | a :: b :: rest =>
    let r := redCombine op ty a.bits b.bits
    ⟨r.bits, r.flags ||| a.flags ||| b.flags⟩ :: redLevel op ty rest
  | l => l

/-- The lane values with identities in inactive lanes (R50). -/
def redInputs (op : RedOp) (ty : RedTy) (gm : Word) (v : VReg) : List Nat :=
  (List.range 32).map fun i => if bit gm.toNat i then (lane v i).toNat else redIdentity op ty

/-- VRED by the tree of five levels (R50, R152). -/
def execVred (h : Hdr) (o : VredArgs) (s : State) : Out :=
  runV h (markReads o.regs) s fun s =>
    let gm := s.rdM o.km
    let leaves : List FRes := (redInputs o.op o.ty gm (s.rdV o.a)).map fun x => ⟨x, 0⟩
    let step := redLevel o.op o.ty
    let r := (step (step (step (step (step leaves))))).headD ⟨0, 0⟩
    .ok (s.resVG h o.d gm (BitVec.ofNat 32 r.bits) 9 r.flags)

/-- The running combinations from a value. -/
def scanFrom (op : RedOp) (ty : RedTy) : Nat → List Nat → List FRes
  | _, [] => []
  | acc, x :: xs =>
    let r := redCombine op ty acc x
    r :: scanFrom op ty r.bits xs

/-- VSCAN: inclusive, from the identity, left to right (R51, R153). -/
def execVscan (h : Hdr) (o : VscanArgs) (s : State) : Out :=
  runV h (markReads o.regs) s fun s =>
    let gm := s.rdM o.km
    let rs := scanFrom o.op o.ty (redIdentity o.op o.ty) (redInputs o.op o.ty gm (s.rdV o.a))
    let last := 32 - leadingZeros gm
    .ok (s.resV h o.d gm o.mz (BitVec.ofNat 1024 (packElems 32 (rs.map (·.bits)))) 12 (orFlags ((rs.take last).map (·.flags))))

/-! ## VSORT (R154) -/

/-- The order of a key: integers in their order, FP with -0 below +0. NaN keys come last and have none. -/
def sortKey (ty : RedTy) (x : Nat) : Option Int := match ty with
  | .i32 => some (sextNat 32 x)
  | .u32 => some x
  | .f32 => if (fmtF32.decode x).isNan then none
    else if x < 0x80000000 then some x else some (-((x - 0x80000000 : Nat) : Int) - 1)

/-- Insert a key and value before the first strictly later key: a stable sort of a list inserted from its end. -/
def sortInsert (dn : Bool) (k : Int) (p : Nat × Nat) : List (Int × Nat × Nat) → List (Int × Nat × Nat)
  | [] => [(k, p)]
  | (j, q) :: rest => if (if dn then j ≤ k else k ≤ j) then (k, p) :: (j, q) :: rest else (j, q) :: sortInsert dn k p rest

/-- VSORT: active keys in order, NaN keys after them, inactive lanes last; values go with their keys (R154). -/
def execVsort (h : Hdr) (o : VsortArgs) (s : State) : Out :=
  runV h (markReads o.regs) s fun s =>
    let gm := s.rdM o.km
    let all := (List.range 32).map fun i => (i, (lane (s.rdV o.a) i).toNat, (lane (s.rdV o.b) i).toNat)
    let act := (all.filter fun (i, _) => bit gm.toNat i).map Prod.snd
    let rest := (all.filter fun (i, _) => !(bit gm.toNat i)).map Prod.snd
    let nums := act.foldr (fun p l => match sortKey o.ty p.1 with
      | some k => sortInsert o.dn k p l
      | none => l) []
    let nans := (act.filter fun p => (sortKey o.ty p.1).isNone).map fun p => (0x7FC00000, p.2)
    let out := nums.map Prod.snd ++ nans ++ rest
    let ones := BitVec.allOnes 32
    let s1 := s.resV h o.d ones false (BitVec.ofNat 1024 (packElems 32 (out.map Prod.fst))) 16 (if nans.isEmpty then 0 else flNV)
    .ok (s1.resV h (o.d + 1) ones false (BitVec.ofNat 1024 (packElems 32 (out.map Prod.snd))) 16 0)

end Sys2Proof.Machine
end

