-- ==== Sys2Proof/Machine/VectorMem.lean ====
section
/-! DEFINITION. Vector loads and stores (05 R162 to R164, 09 R229 to R232). -/

namespace Sys2Proof.Machine

/-- Whether an access lies in the accumulator aperture, wholly (R229). -/
def State.inAperture (s : State) (a n : Nat) : Bool := tileBase ≤ a && a + n ≤ tileBase + 0x10000 * poolT s.core.pool

/-- The fault of the parts of a vector load, which is placed by all of its bytes; none of them performs (R163, R229): the window, or
the aperture and no busy tile, else WIN_CROSS at the first byte in a hole, or at the first beyond the window. -/
def State.partsFault (s : State) (parts : List FarPart) : Option (Nat × Nat) :=
  match parts.find? fun p => s.core.win < p.va + p.n with
  | none => none
  | some p0 =>
    if parts.all fun p => s.inAperture p.va p.n then parts.findSome? fun p => s.localFault p.va p.n true
    else some (9, (parts.findSome? fun p => match s.localFault p.va p.n true with
      | some (9, v) => some v
      | _ => none).getD p0.va)

/-- A vector load: its fault, poison, or the bytes of each part at its offset in the register. -/
def vecLoad (h : Hdr) (s : State) (d : Nat) (gm : Word) (parts : List FarPart) (go : State → State) : Eff :=
  match s.partsFault parts with
  | some (c, v) => .trap c v
  | none =>
    if s.acquiring then .wait s
    else if parts.any fun p => s.core.poisoned p.va p.n then .trap 25 0
    else
      let val := parts.foldl (fun v p => v ||| BitVec.ofNat 1024 (s.localNat p.va p.n * 2 ^ (8 * p.off))) 0
      .ok ((go (s.resV h d gm false val 8 0)).stallFor (parts.map fun p => (p.va, p.n)))

/-- The bytes of a part in a register. -/
def partBytes (v : VReg) (p : FarPart) : List Byte := leBytes p.n (v.toNat / 2 ^ (8 * p.off))

/-- Write the parts of a store in ascending order; none where the commit buffer has no room (R164, R379). -/
def State.writeParts (s : State) (v : VReg) : List FarPart → Option State
  | [] => some s
  | p :: ps => match s.localWrite p.va (partBytes v p) with
    | none => none
    | some t => t.writeParts v ps

/-- A vector store. -/
def vecStore (s : State) (v : VReg) (parts : List FarPart) (go : State → State) : Eff :=
  match parts.findSome? fun p => s.localFault p.va p.n false with
  | some (c, x) => .trap c x
  | none =>
    if s.acquiring then .wait s
    else match s.writeParts v parts with
      | none => .wait s
      | some t => .ok ((go t).stallFor (parts.map fun p => (p.va, p.n)))

/-- Run a vector access: its copies meet at issue over addresses and data, and a load's data at its landing. -/
def vecRun (h : Hdr) (rs : List RegUse) (mask : State → Word) (parts : State → List FarPart) (v : State → Option VReg) (s : State)
    (eff : State → Eff) : Out :=
  run h (markReads rs) ⟨true, extraCycles true h.prot, 2, fun s => laneItems (mask s) (parts s) (v s)⟩ s eff

/-- The single part of VLD and VST. -/
def State.wholePart (s : State) (a : Nat) (m : Bool) (off : Off) : List FarPart := [⟨0, (s.ea a m off).toNat, 128⟩]
/-- VLD (R163). -/
def execVld (h : Hdr) (o : VldArgs) (s : State) : Out :=
  vecRun h o.regs (fun _ => BitVec.allOnes 32) (fun s => s.wholePart o.a o.m o.off) (fun _ => none) s fun s =>
    vecLoad h s o.v (BitVec.allOnes 32) (s.wholePart o.a o.m o.off) fun t => t.postInc h true o.a o.m o.off
/-- VLDS (R163). -/
def execVlds (h : Hdr) (o : VldsArgs) (s : State) : Out :=
  vecRun h o.regs (·.rdM o.km) (fun s => s.strideParts o.a o.km o.stride) (fun _ => none) s fun s =>
    vecLoad h s o.v (s.rdM o.km) (s.strideParts o.a o.km o.stride) id
/-- VLDX (R163). -/
def execVldx (h : Hdr) (o : VldxArgs) (s : State) : Out :=
  vecRun h o.regs (·.rdM o.km) (fun s => s.indexParts o.a o.vi o.sh o.km o.z) (fun _ => none) s fun s =>
    vecLoad h s o.v (s.rdM o.km) (s.indexParts o.a o.vi o.sh o.km o.z) id

/-- Run a vector store: its copies meet at issue. -/
def vecStoreRun (h : Hdr) (rs : List RegUse) (v : Nat) (mask : State → Word) (parts : State → List FarPart) (go : State → State)
    (s : State) : Out :=
  vecRun h rs mask parts (fun s => some (s.rdV v)) s fun s => vecStore s (s.rdV v) (parts s) go

/-- VST (R163). -/
def execVst (h : Hdr) (o : VstArgs) (s : State) : Out :=
  vecStoreRun h o.regs o.v (fun _ => BitVec.allOnes 32) (fun s => s.wholePart o.a o.m o.off) (fun t => t.postInc h true o.a o.m o.off) s
/-- VSTS (R163). -/
def execVsts (h : Hdr) (o : StfsArgs) (s : State) : Out :=
  vecStoreRun h o.regs o.v (·.rdM o.km) (fun s => s.strideParts o.a o.km o.stride) id s
/-- VSTX (R163). -/
def execVstx (h : Hdr) (o : StfxArgs) (s : State) : Out :=
  vecStoreRun h o.regs o.v (·.rdM o.km) (fun s => s.indexParts o.a o.vi o.sh o.km o.z) id s

end Sys2Proof.Machine
end

