-- ==== Sys2Proof/Machine/Dispatch.lean ====
section
/-! DEFINITION. One arm for each constructor of `Instr`: a direct call of its meaning. -/

namespace Sys2Proof.Machine

def exec (i : Instr) (s : State) : Host.Outcome State Fault Refusal :=
  match i with
  | .nop h o => Sys2Proof.Machine.execNop h o s
  | .add h o => Sys2Proof.Machine.execAdd h o s
  | .sub h o => Sys2Proof.Machine.execSub h o s
  | .mul h o => Sys2Proof.Machine.execMul h o s
  | .mulh h o => Sys2Proof.Machine.execMulh h o s
  | .div h o => Sys2Proof.Machine.execDiv h o s
  | .rem h o => Sys2Proof.Machine.execRem h o s
  | .and h o => Sys2Proof.Machine.execAnd h o s
  | .or h o => Sys2Proof.Machine.execOr h o s
  | .xor h o => Sys2Proof.Machine.execXor h o s
  | .andn h o => Sys2Proof.Machine.execAndn h o s
  | .shl h o => Sys2Proof.Machine.execShl h o s
  | .shr h o => Sys2Proof.Machine.execShr h o s
  | .sar h o => Sys2Proof.Machine.execSar h o s
  | .rot h o => Sys2Proof.Machine.execRot h o s
  | .min h o => Sys2Proof.Machine.execMin h o s
  | .max h o => Sys2Proof.Machine.execMax h o s
  | .adds h o => Sys2Proof.Machine.execAdds h o s
  | .subs h o => Sys2Proof.Machine.execSubs h o s
  | .abs h o => Sys2Proof.Machine.execAbs h o s
  | .clz h o => Sys2Proof.Machine.execClz h o s
  | .ctz h o => Sys2Proof.Machine.execCtz h o s
  | .popc h o => Sys2Proof.Machine.execPopc h o s
  | .brev h o => Sys2Proof.Machine.execBrev h o s
  | .bfx h o => Sys2Proof.Machine.execBfx h o s
  | .bfi h o => Sys2Proof.Machine.execBfi h o s
  | .sel h o => Sys2Proof.Machine.execSel h o s
  | .mov h o => Sys2Proof.Machine.execMov h o s
  | .movi h o => Sys2Proof.Machine.execMovi h o s
  | .movx h o => Sys2Proof.Machine.execMovx h o s
  | .cmp h o => Sys2Proof.Machine.execCmp h o s
  | .plog h o => Sys2Proof.Machine.execPlog h o s
  | .pmov h o => Sys2Proof.Machine.execPmov h o s
  | .aadd h o => Sys2Proof.Machine.execAadd h o s
  | .alea h o => Sys2Proof.Machine.execAlea h o s
  | .amov h o => Sys2Proof.Machine.execAmov h o s
  | .aget h o => Sys2Proof.Machine.execAget h o s
  | .acmp h o => Sys2Proof.Machine.execAcmp h o s
  | .fadd h o => Sys2Proof.Machine.execFadd h o s
  | .fsub h o => Sys2Proof.Machine.execFsub h o s
  | .fmul h o => Sys2Proof.Machine.execFmul h o s
  | .fma h o => Sys2Proof.Machine.execFma h o s
  | .fmin h o => Sys2Proof.Machine.execFmin h o s
  | .fmax h o => Sys2Proof.Machine.execFmax h o s
  | .fdiv h o => Sys2Proof.Machine.execFdiv h o s
  | .fsqrt h o => Sys2Proof.Machine.execFsqrt h o s
  | .fcmp h o => Sys2Proof.Machine.execFcmp h o s
  | .fcvt h o => Sys2Proof.Machine.execFcvt h o s
  | .fsgn h o => Sys2Proof.Machine.execFsgn h o s
  | .fcls h o => Sys2Proof.Machine.execFcls h o s
  | .pbr h o => Sys2Proof.Machine.execPbr h o s
  | .pbrg h o => Sys2Proof.Machine.execPbrg h o s
  | .br h o => Sys2Proof.Machine.execBr h o s
  | .call h o => Sys2Proof.Machine.execCall h o s
  | .ret h o => Sys2Proof.Machine.execRet h o s
  | .loop h o => Sys2Proof.Machine.execLoop h o s
  | .ldlt h o => Sys2Proof.Machine.execLdlt h o s
  | .ldltClr h o => Sys2Proof.Machine.execLdltClr h o s
  | .lbrk h o => Sys2Proof.Machine.execLbrk h o s
  | .endOp h o => Sys2Proof.Machine.execEndOp h o s
  | .ld h o => Sys2Proof.Machine.execLd h o s
  | .st h o => Sys2Proof.Machine.execSt h o s
  | .lda h o => Sys2Proof.Machine.execLda h o s
  | .sta h o => Sys2Proof.Machine.execSta h o s
  | .ldfe h o => Sys2Proof.Machine.execLdfe h o s
  | .ldff h o => Sys2Proof.Machine.execLdff h o s
  | .stef h o => Sys2Proof.Machine.execStef h o s
  | .stff h o => Sys2Proof.Machine.execStff h o s
  | .fest h o => Sys2Proof.Machine.execFest h o s
  | .feclr h o => Sys2Proof.Machine.execFeclr h o s
  | .barr h o => Sys2Proof.Machine.execBarr h o s
  | .bwait h o => Sys2Proof.Machine.execBwait h o s
  | .notify h o => Sys2Proof.Machine.execNotify h o s
  | .waitn h o => Sys2Proof.Machine.execWaitn h o s
  | .qpop h o => Sys2Proof.Machine.execQpop h o s
  | .qpeek h o => Sys2Proof.Machine.execQpeek h o s
  | .qpush h o => Sys2Proof.Machine.execQpush h o s
  | .qstat h o => Sys2Proof.Machine.execQstat h o s
  | .qclr h o => Sys2Proof.Machine.execQclr h o s
  | .qst h o => Sys2Proof.Machine.execQst h o s
  | .ldq h o => Sys2Proof.Machine.execLdq h o s
  | .ldqs h o => Sys2Proof.Machine.execLdqs h o s
  | .ldqx h o => Sys2Proof.Machine.execLdqx h o s
  | .stf h o => Sys2Proof.Machine.execStf h o s
  | .stfs h o => Sys2Proof.Machine.execStfs h o s
  | .stfx h o => Sys2Proof.Machine.execStfx h o s
  | .pref h o => Sys2Proof.Machine.execPref h o s
  | .cwb h o => Sys2Proof.Machine.execCwb h o s
  | .cinv h o => Sys2Proof.Machine.execCinv h o s
  | .amo h o => Sys2Proof.Machine.execAmo h o s
  | .acas h o => Sys2Proof.Machine.execAcas h o s
  | .vamo h o => Sys2Proof.Machine.execVamo h o s
  | .fence h o => Sys2Proof.Machine.execFence h o s
  | .xfer h o => Sys2Proof.Machine.execXfer h o s
  | .rclaim h o => Sys2Proof.Machine.execRclaim h o s
  | .rshare h o => Sys2Proof.Machine.execRshare h o s
  | .vadd h o => Sys2Proof.Machine.execVadd h o s
  | .vsub h o => Sys2Proof.Machine.execVsub h o s
  | .vmul h o => Sys2Proof.Machine.execVmul h o s
  | .vmulh h o => Sys2Proof.Machine.execVmulh h o s
  | .vmad h o => Sys2Proof.Machine.execVmad h o s
  | .vmin h o => Sys2Proof.Machine.execVmin h o s
  | .vmax h o => Sys2Proof.Machine.execVmax h o s
  | .vabs h o => Sys2Proof.Machine.execVabs h o s
  | .vand h o => Sys2Proof.Machine.execVand h o s
  | .vor h o => Sys2Proof.Machine.execVor h o s
  | .vxor h o => Sys2Proof.Machine.execVxor h o s
  | .vshl h o => Sys2Proof.Machine.execVshl h o s
  | .vshr h o => Sys2Proof.Machine.execVshr h o s
  | .vsar h o => Sys2Proof.Machine.execVsar h o s
  | .vadds h o => Sys2Proof.Machine.execVadds h o s
  | .vsubs h o => Sys2Proof.Machine.execVsubs h o s
  | .vcmp h o => Sys2Proof.Machine.execVcmp h o s
  | .vsel h o => Sys2Proof.Machine.execVsel h o s
  | .vfadd h o => Sys2Proof.Machine.execVfadd h o s
  | .vfsub h o => Sys2Proof.Machine.execVfsub h o s
  | .vfmul h o => Sys2Proof.Machine.execVfmul h o s
  | .vfma h o => Sys2Proof.Machine.execVfma h o s
  | .vfmin h o => Sys2Proof.Machine.execVfmin h o s
  | .vfmax h o => Sys2Proof.Machine.execVfmax h o s
  | .vfdiv h o => Sys2Proof.Machine.execVfdiv h o s
  | .vfsqrt h o => Sys2Proof.Machine.execVfsqrt h o s
  | .vfexp2 h o => Sys2Proof.Machine.execVfexp2 h o s
  | .vflog2 h o => Sys2Proof.Machine.execVflog2 h o s
  | .vfcmp h o => Sys2Proof.Machine.execVfcmp h o s
  | .vfsgn h o => Sys2Proof.Machine.execVfsgn h o s
  | .vcvt h o => Sys2Proof.Machine.execVcvt h o s
  | .vqenc h o => Sys2Proof.Machine.execVqenc h o s
  | .vqdec h o => Sys2Proof.Machine.execVqdec h o s
  | .vscl h o => Sys2Proof.Machine.execVscl h o s
  | .vred h o => Sys2Proof.Machine.execVred h o s
  | .vscan h o => Sys2Proof.Machine.execVscan h o s
  | .vperm h o => Sys2Proof.Machine.execVperm h o s
  | .vshuf h o => Sys2Proof.Machine.execVshuf h o s
  | .vbcst h o => Sys2Proof.Machine.execVbcst h o s
  | .vext h o => Sys2Proof.Machine.execVext h o s
  | .vins h o => Sys2Proof.Machine.execVins h o s
  | .viota h o => Sys2Proof.Machine.execViota h o s
  | .vcmprs h o => Sys2Proof.Machine.execVcmprs h o s
  | .vexpnd h o => Sys2Proof.Machine.execVexpnd h o s
  | .vsort h o => Sys2Proof.Machine.execVsort h o s
  | .vrnd h o => Sys2Proof.Machine.execVrnd h o s
  | .vdot h o => Sys2Proof.Machine.execVdot h o s
  | .mlog h o => Sys2Proof.Machine.execMlog h o s
  | .mpop h o => Sys2Proof.Machine.execMpop h o s
  | .mff h o => Sys2Proof.Machine.execMff h o s
  | .mmov h o => Sys2Proof.Machine.execMmov h o s
  | .vld h o => Sys2Proof.Machine.execVld h o s
  | .vlds h o => Sys2Proof.Machine.execVlds h o s
  | .vldx h o => Sys2Proof.Machine.execVldx h o s
  | .vst h o => Sys2Proof.Machine.execVst h o s
  | .vsts h o => Sys2Proof.Machine.execVsts h o s
  | .vstx h o => Sys2Proof.Machine.execVstx h o s
  | .vmovx h o => Sys2Proof.Machine.execVmovx h o s
  | .post h o => Sys2Proof.Machine.execPost h o s
  | .postx h o => Sys2Proof.Machine.execPostx h o s
  | .fdef h o => Sys2Proof.Machine.execFdef h o s
  | .frel h o => Sys2Proof.Machine.execFrel h o s
  | .rinit h o => Sys2Proof.Machine.execRinit h o s
  | .cwait h o => Sys2Proof.Machine.execCwait h o s
  | .cwaitNb h o => Sys2Proof.Machine.execCwaitNb h o s
  | .csig h o => Sys2Proof.Machine.execCsig h o s
  | .csigR h o => Sys2Proof.Machine.execCsigR h o s
  | .cset h o => Sys2Proof.Machine.execCset h o s
  | .crd h o => Sys2Proof.Machine.execCrd h o s
  | .tagw h o => Sys2Proof.Machine.execTagw h o s
  | .tagwNb h o => Sys2Proof.Machine.execTagwNb h o s
  | .tagff h o => Sys2Proof.Machine.execTagff h o s
  | .tagclr h o => Sys2Proof.Machine.execTagclr h o s
  | .kmode h o => Sys2Proof.Machine.execKmode h o s
  | .kqrySt h o => Sys2Proof.Machine.execKqrySt h o s
  | .kqryOcc h o => Sys2Proof.Machine.execKqryOcc h o s
  | .kqryVer h o => Sys2Proof.Machine.execKqryVer h o s
  | .nest h o => Sys2Proof.Machine.execNest h o s
  | .settag h o => Sys2Proof.Machine.execSettag h o s
  | .csrr h o => Sys2Proof.Machine.execCsrr h o s
  | .csrw h o => Sys2Proof.Machine.execCsrw h o s
  | .csrx h o => Sys2Proof.Machine.execCsrx h o s
  | .yield h o => Sys2Proof.Machine.execYield h o s
  | .yieldF h o => Sys2Proof.Machine.execYieldF h o s
  | .trap h o => Sys2Proof.Machine.execTrap h o s
  | .rett h o => Sys2Proof.Machine.execRett h o s
  | .rettNx h o => Sys2Proof.Machine.execRettNx h o s
  | .rettRes h o => Sys2Proof.Machine.execRettRes h o s
  | .rettRef h o => Sys2Proof.Machine.execRettRef h o s
  | .chk h o => Sys2Proof.Machine.execChk h o s
  | .chkQ h o => Sys2Proof.Machine.execChkQ h o s
  | .chkNb h o => Sys2Proof.Machine.execChkNb h o s
  | .abort h o => Sys2Proof.Machine.execAbort h o s
  | .abortReq h o => Sys2Proof.Machine.execAbortReq h o s
  | .xlateR h o => Sys2Proof.Machine.execXlateR h o s
  | .xlateW h o => Sys2Proof.Machine.execXlateW h o s
  | .xlateP h o => Sys2Proof.Machine.execXlateP h o s
  | .fshare h o => Sys2Proof.Machine.execFshare h o s
  | .fwswap h o => Sys2Proof.Machine.execFwswap h o s
  | .ptw h o => Sys2Proof.Machine.execPtw h o s
  | .ptwNb h o => Sys2Proof.Machine.execPtwNb h o s
  | .tlbiVa h o => Sys2Proof.Machine.execTlbiVa h o s
  | .tlbiVd h o => Sys2Proof.Machine.execTlbiVd h o s
  | .tlbiAll h o => Sys2Proof.Machine.execTlbiAll h o s
  | .purge h o => Sys2Proof.Machine.execPurge h o s
  | .purgeL h o => Sys2Proof.Machine.execPurgeL h o s
  | .purgeClr h o => Sys2Proof.Machine.execPurgeClr h o s
  | .shrd h o => Sys2Proof.Machine.execShrd h o s
  | .frzArm h o => Sys2Proof.Machine.execFrzArm h o s
  | .frzY h o => Sys2Proof.Machine.execFrzY h o s
  | .frz h o => Sys2Proof.Machine.execFrz h o s
  | .frzRes h o => Sys2Proof.Machine.execFrzRes h o s
  | .frzDirty h o => Sys2Proof.Machine.execFrzDirty h o s
  | .frzGo h o => Sys2Proof.Machine.execFrzGo h o s
  | .frzDis h o => Sys2Proof.Machine.execFrzDis h o s
  | .mma h o => Sys2Proof.Machine.execMma h o s
  | .mblk h o => Sys2Proof.Machine.execMblk h o s
  | .scacc h o => Sys2Proof.Machine.execScacc h o s
  | .azero h o => Sys2Proof.Machine.execAzero h o s
  | .aload h o => Sys2Proof.Machine.execAload h o s
  | .astore h o => Sys2Proof.Machine.execAstore h o s
  | .acopy h o => Sys2Proof.Machine.execAcopy h o s
  | .rpop h o => Sys2Proof.Machine.execRpop h o s
  | .xpose h o => Sys2Proof.Machine.execXpose h o s
  | .xreq h o => Sys2Proof.Machine.execXreq h o s
  | .xlay h o => Sys2Proof.Machine.execXlay h o s
  | .copy h o => Sys2Proof.Machine.execCopy h o s
  | .copyg h o => Sys2Proof.Machine.execCopyg h o s
  | .copys h o => Sys2Proof.Machine.execCopys h o s
  | .cfill h o => Sys2Proof.Machine.execCfill h o s
  | .cred h o => Sys2Proof.Machine.execCred h o s
  | .cland h o => Sys2Proof.Machine.execCland h o s
  | .unassignedOpcode word => Sys2Proof.Machine.execUnassignedOpcode word s
  | .endComplete => Sys2Proof.Machine.execEndComplete s
  | .fwhbHeartbeat value => Sys2Proof.Machine.execFwhbHeartbeat value s
  | .resultLanding => Sys2Proof.Machine.execResultLanding s
  | .waitComplete => Sys2Proof.Machine.execWaitComplete s
  | .queueDataArrival req => Sys2Proof.Machine.execQueueDataArrival req s
  | .taskRelease core => Sys2Proof.Machine.execTaskRelease core s
  | .taskRetire core slot => Sys2Proof.Machine.execTaskRetire core slot s
  | .kilnDeadlock core => Sys2Proof.Machine.execKilnDeadlock core s
  | .iterationStart core => Sys2Proof.Machine.execIterationStart core s
  | .wheelPlace die launch => Sys2Proof.Machine.execWheelPlace die launch s
  | .wheelSteal die launch => Sys2Proof.Machine.execWheelSteal die launch s
  | .nestRecordStart launch => Sys2Proof.Machine.execNestRecordStart launch s
  | .launchComplete launch => Sys2Proof.Machine.execLaunchComplete launch s
  | .accumulatorWrite => Sys2Proof.Machine.execAccumulatorWrite s
  | .passSlotPop => Sys2Proof.Machine.execPassSlotPop s
  | .slotPublish core ring => Sys2Proof.Machine.execSlotPublish core ring s
  | .copyChunkIssue core copy => Sys2Proof.Machine.execCopyChunkIssue core copy s
  | .copyComplete core copy => Sys2Proof.Machine.execCopyComplete core copy s
  | .lineEviction core line l2 => Sys2Proof.Machine.execLineEviction core line l2 s
  | .eccCorrected site => Sys2Proof.Machine.execEccCorrected site s
  | .eccUncorrectable site => Sys2Proof.Machine.execEccUncorrectable site s
  | .bucketLeak die => Sys2Proof.Machine.execBucketLeak die s
  | .spareSubstitution core unit index spare => Sys2Proof.Machine.execSpareSubstitution core unit index spare s
  | .coreUngate core => Sys2Proof.Machine.execCoreUngate core s
  | .fwShareWindow core => Sys2Proof.Machine.execFwShareWindow core s
  | .forcedSave core => Sys2Proof.Machine.execForcedSave core s
  | .corePark core => Sys2Proof.Machine.execCorePark core s
  | .coreSwap core => Sys2Proof.Machine.execCoreSwap core s
  | .freezeReceive die launch => Sys2Proof.Machine.execFreezeReceive die launch s
  | .farStore msg => Sys2Proof.Machine.execFarStore msg s
  | .atomicRequest msg => Sys2Proof.Machine.execAtomicRequest msg s
  | .atomicReply msg => Sys2Proof.Machine.execAtomicReply msg s
  | .loadData msg => Sys2Proof.Machine.execLoadData msg s
  | .loadRequest msg => Sys2Proof.Machine.execLoadRequest msg s
  | .postxRecord msg => Sys2Proof.Machine.execPostxRecord msg s
  | .postxReply msg => Sys2Proof.Machine.execPostxReply msg s
  | .remoteConeSignal msg => Sys2Proof.Machine.execRemoteConeSignal msg s
  | .notifyMessage msg => Sys2Proof.Machine.execNotifyMessage msg s
  | .copyChunk msg crcOk => Sys2Proof.Machine.execCopyChunk msg crcOk s
  | .landingUpdate msg => Sys2Proof.Machine.execLandingUpdate msg s
  | .barrierRequest msg => Sys2Proof.Machine.execBarrierRequest msg s
  | .barrierReply msg => Sys2Proof.Machine.execBarrierReply msg s
  | .acknowledgement msg => Sys2Proof.Machine.execAcknowledgement msg s
  | .cutMarker msg => Sys2Proof.Machine.execCutMarker msg s
  | .purgeMessage msg => Sys2Proof.Machine.execPurgeMessage msg s
  | .launchPacketMessage msg => Sys2Proof.Machine.execLaunchPacketMessage msg s
  | .startArrival msg => Sys2Proof.Machine.execStartArrival msg s
  | .startRelease msg => Sys2Proof.Machine.execStartRelease msg s
  | .parityUpdate msg => Sys2Proof.Machine.execParityUpdate msg s
  | .sequenceSkip msg => Sys2Proof.Machine.execSequenceSkip msg s
  | .requestTimeout req => Sys2Proof.Machine.execRequestTimeout req s
  | .linkDown die dim => Sys2Proof.Machine.execLinkDown die dim s
  | .dieLinkFailure die dim => Sys2Proof.Machine.execDieLinkFailure die dim s
  | .launchArrivalTimeout launch => Sys2Proof.Machine.execLaunchArrivalTimeout launch s
  | .spareInstallation lost pser => Sys2Proof.Machine.execSpareInstallation lost pser s
  | .stripeRebuild group stripe member spare => Sys2Proof.Machine.execStripeRebuild group stripe member spare s
  | .reserve pkg vdev ring addend => Sys2Proof.Machine.execReserve pkg vdev ring addend s
  | .bar2AtomicRefused pkg vdev offset => Sys2Proof.Machine.execBar2AtomicRefused pkg vdev offset s
  | .hostNotifyWrite pkg vdev offset size value => Sys2Proof.Machine.execHostNotifyWrite pkg vdev offset size value s
  | .hostMemoryAccess pkg vdev offset size write => Sys2Proof.Machine.execHostMemoryAccess pkg vdev offset size write s
  | .hostAtomicop pkg vdev offset op size operand compare => Sys2Proof.Machine.execHostAtomicop pkg vdev offset op size operand compare s
  | .registerWrite reg value => Sys2Proof.Machine.execRegisterWrite reg value s
  | .cqctlWrite pkg vdev value => Sys2Proof.Machine.execCqctlWrite pkg vdev value s
  | .cqheadWrite pkg vdev value => Sys2Proof.Machine.execCqheadWrite pkg vdev value s
  | .rstopWrite die vdev value => Sys2Proof.Machine.execRstopWrite die vdev value s
  | .nopPacket pkg vdev ring => Sys2Proof.Machine.execNopPacket pkg vdev ring s
  | .linkPacket pkg vdev ring => Sys2Proof.Machine.execLinkPacket pkg vdev ring s
  | .launchPacket pkg vdev ring => Sys2Proof.Machine.execLaunchPacket pkg vdev ring s
  | .launchStart pkg vdev ring => Sys2Proof.Machine.execLaunchStart pkg vdev ring s
  | .barePacket pkg vdev ring => Sys2Proof.Machine.execBarePacket pkg vdev ring s
  | .invokePacket pkg vdev ring => Sys2Proof.Machine.execInvokePacket pkg vdev ring s
  | .slotldPacket pkg vdev ring => Sys2Proof.Machine.execSlotldPacket pkg vdev ring s
  | .slotrmPacket pkg vdev ring => Sys2Proof.Machine.execSlotrmPacket pkg vdev ring s
  | .purgePacket pkg vdev ring => Sys2Proof.Machine.execPurgePacket pkg vdev ring s
  | .killPacket pkg vdev ring => Sys2Proof.Machine.execKillPacket pkg vdev ring s
  | .ringSlotTimeout pkg vdev ring => Sys2Proof.Machine.execRingSlotTimeout pkg vdev ring s
  | .completionRecordWrite pkg vdev => Sys2Proof.Machine.execCompletionRecordWrite pkg vdev s
  | .fwWatchdogExpiry core => Sys2Proof.Machine.execFwWatchdogExpiry core s
  | .fwCommit die => Sys2Proof.Machine.execFwCommit die s
  | .fwRevert die => Sys2Proof.Machine.execFwRevert die s
  | .commitDeadlineExpiry pkg => Sys2Proof.Machine.execCommitDeadlineExpiry pkg s
  | .controllerReplacement ctl die ident alive => Sys2Proof.Machine.execControllerReplacement ctl die ident alive s
  | .packageReset pkg failStep failReason => Sys2Proof.Machine.execPackageReset pkg failStep failReason s
  | .attest pkg request => Sys2Proof.Machine.execAttest pkg request s
  | .bootreport pkg => Sys2Proof.Machine.execBootreport pkg s
  | .leaves pkg => Sys2Proof.Machine.execLeaves pkg s
  | .railSample die milliamps => Sys2Proof.Machine.execRailSample die milliamps s
  | .thermalLimit die celsius => Sys2Proof.Machine.execThermalLimit die celsius s
  | .powerCeilingUpdate die ceiling => Sys2Proof.Machine.execPowerCeilingUpdate die ceiling s
  | .flitArrival msg lcrcOk => Sys2Proof.Machine.execFlitArrival msg lcrcOk s
  | .coreGate core => Sys2Proof.Machine.execCoreGate core s
  | .powerLoss pkg => Sys2Proof.Machine.execPowerLoss pkg s

end Sys2Proof.Machine
end

