-- ==== Sys2Proof/Machine/Ahead.lean ====
section
/-! DEFINITION. The run-ahead of the CU program context while it waits at a QPOP (16 R377, R378, 08 R204, 11 R305). A shadow of its
stream executes the bundles after the QPOP; speculative records and queue loads stay in the core for the context to adopt. -/

namespace Sys2Proof.Machine

/-! ## Unknown registers -/

/-- The address registers whose values an instruction reads. -/
def aheadAddrs : Instr → List Nat
  | .aadd _ o => [o.a]
  | .alea _ o => [o.a]
  | .amov _ (.fromA _ a) => [a]
  | .amov _ _ => []
  | .lda _ o => [o.a]
  | .ldlt _ _ => []
  | i => (i.regs.filter (·.kind = .a)).map (·.num)

/-- The predicates, other than its guard, that an instruction reads. -/
def aheadPreds : Instr → List Nat
  | .sel _ o => [o.k]
  | .plog _ o => [o.a, o.b]
  | .pmov _ (.pp _ a) => [a]
  | .pmov _ (.gAll _) => List.range 32
  | _ => []

/-- The b registers that an instruction reads. -/
def aheadTargets : Instr → List Nat
  | .br _ o => [o.b]
  | .ret _ o => [o.b]
  | .call _ o => [o.b]
  | .loop _ o => [o.b]
  | .mov _ (.fromB _ b) => [b]
  | _ => []

/-- Every register that an instruction reads, as kind and number: 0 g, 1 a, 2 p, 3 b. -/
def aheadReads (i : Instr) : List (Nat × Nat) :=
  (i.regs.filter fun r => r.kind = .g && r.rd).map (fun r => (0, r.num)) ++ (aheadAddrs i).map (fun n => (1, n)) ++
    (aheadPreds i).map (fun n => (2, n)) ++ (aheadTargets i).map fun n => (3, n)

/-- The register of a result, as kind and number. -/
def Dst.aheadKey : Dst → Option (Nat × Nat)
  | .g n => some (0, n)
  | .a n => some (1, n)
  | .p n => if n = 0 then none else some (2, n)
  | .b n => some (3, n)
  | _ => none

/-- The protection code by which the shadow marks a result formed from an unknown operand. -/
def unknownProt : Nat := 4

/-- The shadow's results that are due land: one formed from an unknown operand makes its register unknown. -/
def landShadow (fs : List Flight) (x : Stream) (unknown : List (Nat × Nat)) : Stream × List (Nat × Nat) :=
  fs.foldl (fun (y, u) f => match f.dst.aheadKey with
    | some key => if f.prot = unknownProt then ({ y with gMark := if key.1 = 0 then SMap.set .none key.2 .none y.gMark else y.gMark }, key :: u)
      else (y.land f (f.copies.headD RCopy.off), u.filter (· != key))
    | none => (y.land f (f.copies.headD RCopy.off), u)) (x, unknown)

/-- The next issue cycle of the shadow. -/
def Ahead.cycle (r : Ahead) : Ahead :=
  let x := r.shadow
  let later := (x.flight.filter (1 < ·.k)).map fun f => { f with k := f.k - 1 }
  let (y, u) := landShadow (x.flight.filter (·.k ≤ 1)) { x with cyc := x.cyc + 1, flight := later, latch := Latch.clear } r.unknown
  { r with shadow := y, unknown := u }

/-! ## One instruction of the run-ahead -/

/-- How the run-ahead takes an instruction: it only forms results, does so before the predicted branch and ends the run after it (R305),
steers, posts, loads, prefetches, or ends the run: the instructions of R204, those that wait, store, or leave the program, and those
whose effect is not on the shadow's registers (log 42). -/
inductive AheadKind where
  | plain | early | flow | branch | post | load | pref | stop
deriving DecidableEq, Repr

def aheadKind : Instr → AheadKind
  | .br _ _ => .branch
  | .call _ _ | .ret _ _ | .loop _ _ | .lbrk _ _ | .ldlt _ _ | .ldltClr _ _ => .flow
  | .post _ _ => .post
  | .ldq _ o => if o.s then .load else .stop
  | .pref _ _ => .pref
  | .ld _ o => if o.m then .flow else .plain
  | .pbr _ _ | .pbrg _ _ | .lda _ _ | .crd _ _ | .tagff _ _ | .tagwNb _ _ | .cwaitNb _ _ | .kqrySt _ _ | .kqryOcc _ _ | .kqryVer _ _
  | .csrr _ _ | .yieldF _ _ | .chk _ _ | .chkNb _ _ => .plain
  | .qstat _ _ | .qpush _ _ | .qclr _ _ | .fest _ _ => .early
  | i => match i.syl with
    | some y => if y.op < 0x38 then .plain else .stop
    | none => .stop

/-- Whether an instruction addresses memory: an unknown address ends the run. -/
def aheadMem : Instr → Bool
  | .ld _ _ | .lda _ _ | .fest _ _ => true
  | _ => false

/-- How one instruction, or one bundle, of the run-ahead ends. -/
inductive Shadow where
  | ends
  | waits
  | goes (s : State) (r : Ahead)

/-- Turn the guard of an instruction on, where it is unknown, to learn which registers it would write. -/
def State.forceGuard (s : State) (h : Hdr) : State :=
  s.setStrm fun x => { x with p := SMap.set false h.gp (h.gneg != 1) x.p }

/-- Whether an instruction issued without a trap or a wait. -/
def Stream.clean (x : Stream) : Bool := !(x.latch.trapped || x.latch.wait || x.latch.cycleWait)

/-- An instruction that only forms results or steers. -/
def aheadPlain (i : Instr) (h : Hdr) (r : Ahead) (vague : Bool) (s : State) : Shadow :=
  let guess := r.unknown.contains (2, h.gp)
  let s0 := if guess then s.forceGuard h else s
  match exec i s0 with
  | .next t =>
    if !t.strm.clean then .ends
    else
      let n := s.strm.flight.length
      let fresh := if vague || guess then (t.strm.flight.drop n).map fun f => { f with prot := unknownProt } else t.strm.flight.drop n
      .goes { s with strm := { t.strm with p := s.strm.p, flight := s.strm.flight ++ fresh } } r
  | _ => .ends

/-- A POST after the predicted branch enters a speculative record; a full window waits. -/
def aheadPost (h : Hdr) (o : PostArgs) (r : Ahead) (s : State) : Shadow :=
  let a := (s.rdA o.a).toNat
  if !(s.guardOn h) then .goes s r
  else if !r.past || (s.localFault a 64 false).isSome || s.core.poisoned a 64 then .ends
  else if s.acquiring || 224 ≤ s.core.localEntries || s.core.freeSlot.isNone then .waits
  else
    let ws := s.localWords a 16
    if s.filtered s.core.launch (recTag ws) then .ends
    else if !(s.core.taskFormat ws) && s.pagesBlocked (s.core.lazyPages s.vdev ws) then .waits
    else match s.postCheck ws with
      | .error _ => .ends
      | .ok (t, pages) =>
        let slot := (t.core.freeSlot).getD 0
        let (t1, handle) := t.enterLocal ws pages true
        .goes (postResults t1 h o handle true) { r with posts := r.posts ++ [(slot, handle, ws)] }

/-- An LDQ with `.s` allocates its entry in the shadow's queue and, as a speculative one, in the context's own, which `r.shadow` holds
while a bundle runs; the run-ahead remembers it. A full queue ends the run. -/
def aheadLoad (i : Instr) (h : Hdr) (o : LdqArgs) (r : Ahead) (s : State) : Shadow :=
  let mine := SMap.get [] o.q r.shadow.q
  if !(s.guardOn h) then .goes s r
  else if mine.length ≥ 8 then .ends
  else match exec i s with
    | .next t =>
      if t.strm.latch.trapped then .ends
      else if !t.strm.clean then .waits
      else match (t.rdQ o.q).getLast? with
        | some e => .goes t { r with
            loads := r.loads ++ [(o.q, e.req)]
            shadow := { r.shadow with q := SMap.set [] o.q (mine ++ [{ e with spec := true }]) r.shadow.q } }
        | none => .ends
    | _ => .ends

/-- One instruction of the shadow. -/
def aheadInstr (i : Instr) (r : Ahead) (s : State) : Shadow :=
  match i.syl with
  | none => .ends
  | some y =>
    let h := y.h
    let vague := (aheadReads i).any r.unknown.contains
    let guess := r.unknown.contains (2, h.gp)
    match aheadKind i with
    | .stop => .ends
    | .plain => if vague && aheadMem i then .ends else aheadPlain i h r vague s
    | .early => if r.past || vague && aheadMem i then .ends else aheadPlain i h r vague s
    | .flow => if vague || guess then .ends else aheadPlain i h r false s
    | .branch =>
      if vague then .ends
      else if !guess then aheadPlain i h r false s
      else if r.past then .ends
      else
        let taken := match i with
          | .br _ o => (s.rdB o.b).hint
          | _ => false
        let target := match i with
          | .br _ o => (s.rdB o.b).target
          | _ => Pos.zero
        .goes (if taken then s.take target true else s) { r with branch := some (r.count, taken), past := true }
    | .post => match i with
      | .post _ o => if vague || guess then .ends else aheadPost h o r s
      | _ => .ends
    | .load => match i with
      | .ldq _ o => if vague || guess then .ends else aheadLoad i h o r s
      | _ => .ends
    | .pref => if vague || guess then .ends else match exec i s with
      | .next t => .goes t r
      | _ => .ends

/-! ## One bundle of the run-ahead (R377) -/

/-- The register of a QPOP that waits for data, whose bundle the run-ahead starts from. -/
def State.waitingPop (s : State) : Instr → Option (Nat × Nat)
  | .qpop h o => match s.head o.q with
    | .waits => if !o.v && s.guardOn h then some (o.q, o.d) else none
    | _ => none
  | _ => none

/-- An instruction of the first bundle: the QPOP's destination becomes unknown. -/
def aheadFirst (i : Instr) (r : Ahead) (s : State) : Shadow :=
  match s.waitingPop i with
  | some (_, d) => .goes (s.setStrm fun x => { x with flight := x.flight ++ [⟨.g d, 1, [], x.pos, unknownProt, 0, 1, false⟩] }) r
  | none => aheadInstr i r s

/-- The bundle at the shadow's position; the shadow is the issuing stream of `s`. -/
def aheadBundle (first : Bool) (r : Ahead) (s : State) : Shadow :=
  let one := if first then aheadFirst else aheadInstr
  let x := s.strm
  match settle s.core.code s.core.codeLen x.cls (s.core.codeLen + 1) x.pos with
  | .stands p =>
    let (a, b, nxt) := fetchBundle s.core.code false p.line p.slot
    if (illegalIn x.cls s.core.pool s.core.code p.line p.slot a b (fetchOne s.core.code p.line p.slot).2).isSome then .ends
    else
      let done := fun (t : State) (q : Ahead) =>
        let l := t.strm.latch
        let (t1, pos) := match l.taken with
          | some y => (t, y)
          | none => match loopEnd p l.lcNew [2, 1, 0] t with
            | (u, some y) => (u, y)
            | (u, none) => (u, ⟨p.line, nxt⟩)
        Shadow.goes (t1.setStrm fun y => { y with pos := pos, icnt := y.icnt + 1 }) { q with count := q.count + 1 }
      match one a r (s.setStrm fun y => { y with pos := p }) with
      | .goes t q => match b with
        | none => done t q
        | some i => match one i q t with
          | .goes u w => done u w
          | z => z
      | z => z
  | _ => .ends

/-- The run-ahead that a core may go on with or begin: the CU program context waits at a QPOP to a g register whose head has no
data, and no run has ended unadopted. -/
def State.aheadRun (s : State) : Option (Bool × Ahead) :=
  let x := s.strm
  let pops := match s.bundleOf s.sid with
    | some (a, b) => (s.waitingPop a).isSome || b.any fun i => (s.waitingPop i).isSome
    | none => false
  if x.run != .running || !x.latch.wait || !pops then none
  else match s.core.ahead with
    | none => some (true, ⟨{ x with upsets := [] }, [], 0, none, false, [], []⟩)
    | some r => if r.count < aheadLimit then some (false, r) else none

/-- The run ends where it stands: nothing more of it executes. -/
def Ahead.over_ (r : Ahead) : Ahead := { r with count := max r.count aheadLimit }

/-- The shadow's queues with the data that has reached the context's entries. -/
def freshQueues (real shadow : SMap (List QEntry)) : SMap (List QEntry) := shadow.map fun (n, es) => (n, es.map fun e =>
  match (SMap.get [] n real).find? fun f => f.req = e.req && e.req != 0 with
  | some f => { f with spec := false }
  | none => e)

/-- One bundle of a core's run-ahead. -/
def aheadTurn (k : Nat) (s : State) : State :=
  let f := s.focus (sidOf k 4)
  match f.aheadRun with
  | none => f
  | some (first, r) =>
    let real := f.strm
    let r1 := if first then r else r.cycle
    let work := { r1.shadow with q := freshQueues real.q r1.shadow.q, latch := Latch.clear }
    match aheadBundle first { r1 with shadow := { r1.shadow with q := real.q } } { f with strm := work } with
    | .waits => f
    | .ends => f.setCore fun c => { c with ahead := some r.over_ }
    | .goes t q =>
      let q1 := { q with shadow := { t.strm with latch := Latch.clear } }
      { t with strm := { real with q := q.shadow.q }, core := { t.core with ahead := some q1 } }

/-! ## Resolution and adoption (R378) -/

/-- A bundle of the context issues: the run has ended, and its predicted branch resolves where its bundle issues. `taken` says
whether a branch was taken there. -/
def State.resolveAhead (s : State) (taken : Bool) : State :=
  match s.core.ahead with
  | none => s
  | some r =>
    let r1 := r.over_
    let next := match r.branch with
      | some (0, t) => if t = taken then some { r1 with branch := none } else none
      | some (n + 1, t) => some { r1 with branch := some (n, t) }
      | none => some r1
    match next with
    | none => s.dropAhead s.ck
    | some q =>
      if q.branch.isNone && q.posts.isEmpty && q.loads.isEmpty then s.setCore fun c => { c with ahead := none }
      else s.setCore fun c => { c with ahead := some q }

end Sys2Proof.Machine
end

