-- ==== Sys2Proof/Machine/Banks.lean ====
section
/-! DEFINITION. The order in which the streams of a core are served in one arithmetic clock (09 R231, 11 R280, R281, R286): what
an instruction needs of the scratchpad's banks and of the notify registers, the partition that each of them served last, and
the rotation that begins after it. -/

namespace Sys2Proof.Machine

/-- The parts of the core's own scratchpad that an instruction accesses (09 R231). -/
def State.localParts (s : State) : Instr → List FarPart
  | .ld _ o => [⟨0, (s.ea o.a o.m o.off).toNat, 2 ^ o.sz⟩]
  | .lda _ o => [⟨0, (s.ea o.a o.m o.off).toNat, 8⟩]
  | .st _ o => [⟨0, (s.ea o.a o.m o.off).toNat, 2 ^ o.sz⟩]
  | .sta _ o => [⟨0, (s.ea o.a o.m o.off).toNat, 8⟩]
  | .ldfe _ o | .ldff _ o | .fest _ o => [⟨0, (s.ea o.a o.m o.off).toNat, 4⟩]
  | .stef _ o | .stff _ o => [⟨0, (s.ea o.a o.m o.off).toNat, 4⟩]
  | .feclr _ o => [⟨0, (s.ea o.a o.m o.off).toNat, 4 * ((s.rdG o.g).toNat % 0x1000 + 1)⟩]
  | .barr _ o => ownPart (s.spCheck o.sp o.a o.m (.field16 o.off) 8 8) 8
  | .bwait _ o => ownPart (s.spCheck o.sp o.a o.m (.field16 o.off) 8 8) 8
  | .amo _ o => if o.sp then ownPart (s.spCheck true o.a false (.field16 0) 4 4) 4 else []
  | .acas _ o => if o.sp then ownPart (s.spCheck true o.a false (.field16 0) 4 4) 4 else []
  | .vamo _ o => if o.sp then ownPart (s.spCheck true o.a false (.field16 0) 32 32) 32 else []
  | .qst _ o => [⟨0, (s.core.ring o.k).slotAt (s.core.ring o.k).pcnt + 128 * (s.core.ring o.k).fill, 128⟩]
  | .vld _ o => s.wholePart o.a o.m o.off
  | .vst _ o => s.wholePart o.a o.m o.off
  | .vlds _ o => s.strideParts o.a o.km o.stride
  | .vsts _ o => s.strideParts o.a o.km o.stride
  | .vldx _ o => s.indexParts o.a o.vi o.sh o.km o.z
  | .vstx _ o => s.indexParts o.a o.vi o.sh o.km o.z
  | _ => []
where
  ownPart : Except (Nat × Nat) (Option (Nat × Nat) × Nat) → Nat → List FarPart
    | .ok (none, o), n => [⟨0, o, n⟩]
    | _, _ => []

/-- The banks that an access touches: byte a lies in bank (a >> 7) mod 64. Accumulator storage has ports of its own (R231). -/
def partBanks (p : FarPart) : List Nat :=
  if p.n = 0 || tileBase ≤ p.va then [] else (List.range ((p.va + p.n - 1) / 128 - p.va / 128 + 1)).map fun i => (p.va / 128 + i) % 64

/-- The banks and the notify registers that an instruction needs, none where its guard is off. -/
def State.needsOf (s : State) (i : Instr) : List Nat × List Nat :=
  match i.syl with
  | none => ([], [])
  | some y =>
    if s.guardOn y.h then (((s.localParts i).flatMap partBanks).eraseDups, match i with
      | .waitn _ o => [o.n]
      | _ => [])
    else ([], [])

/-- The partition that a bank, and the one whose WAITN a notify register, served last. -/
def Core.bankServed (c : Core) (b : Nat) : Nat := SMap.get 3 b c.bankLast
def Core.waitnServed (c : Core) (n : Nat) : Nat := SMap.get 3 n c.waitnLast

/-- Serve a partition's access at banks and notify registers. -/
def Core.serve (c : Core) (u : Nat) (need : List Nat × List Nat) : Core :=
  { c with
    bankLast := need.1.foldl (fun m b => SMap.set 3 b u m) c.bankLast
    waitnLast := need.2.foldl (fun m n => SMap.set 3 n u m) c.waitnLast }

/-- Whether a waiting instruction is one that makes its test at the bank when it is served (R231, R281, R284). -/
def State.testsAtBank (s : State) (i : Instr) : Bool :=
  !s.acquiring && match i with
    | .ldfe _ _ | .ldff _ _ | .bwait _ _ => true
    | .stef _ _ => s.released false
    | _ => false

/-- After a bundle of a partition has run from `s` to `t`: the banks and registers that served it keep its number. Serving any
other stream does not change them. -/
def State.servedFrom (t s : State) (a : Instr) (b : Option Instr) : State :=
  if 4 ≤ s.strm.unit || t.strm.latch.trapped then t
  else
    let is := if t.strm.latch.wait then (a :: b.toList).filter s.testsAtBank else a :: b.toList
    t.setCore fun c => is.foldl (fun d i => d.serve s.strm.unit (s.needsOf i)) c

/-- The place of a partition in the rotation that begins after the partition served last. -/
def rotation (last u : Nat) : Nat := (u + 3 - last) % 4

/-- What a partition needs in this arithmetic clock: of the bundle at which it stands, after its results have landed. -/
def State.needsNow (s : State) (sid : Nat) : List Nat × List Nat :=
  let x := s.strmOf sid
  if !(x.run = .running) || x.stall != 0 then ([], [])
  else match exec .resultLanding (s.focus sid) with
    | .next t =>
      if t.strm.latch.trapped || !t.strm.fresh || t.strm.hold != 0 then ([], [])
      else match t.bundleOf sid with
        | none => ([], [])
        | some (a, b) =>
          let n := t.needsOf a
          match b with
          | none => n
          | some i => (n.1 ++ (t.needsOf i).1, n.2 ++ (t.needsOf i).2)
    | _ => ([], [])

/-- Whether partition `u` is served before `w`: by the rotation of the lowest bank that both need, else of the first notify register.
Partitions that share neither are served in the order of their numbers. -/
def Core.goesBefore (c : Core) (need : Nat → List Nat × List Nat) (u w : Nat) : Bool :=
  match (List.range 64).find? fun b => (need u).1.contains b && (need w).1.contains b with
  | some b => rotation (c.bankServed b) u < rotation (c.bankServed b) w
  | none => match (List.range 32).find? fun n => (need u).2.contains n && (need w).2.contains n with
    | some n => rotation (c.waitnServed n) u < rotation (c.waitnServed n) w
    | none => false

/-- The partitions of a core that have not had their turn in this arithmetic clock. -/
def State.unservedVps (s : State) (k : Nat) : List Nat := [0, 1, 2, 3].filter fun u =>
  let x := s.strmOf (sidOf k u)
  x.run.active && x.acAt != some (s.coreOf k).ac

/-- The partition of a core that is served next (R231, R286): one that none of the others goes before. -/
def State.nextVp (s : State) (k : Nat) : Option Nat := match s.unservedVps k with
  | [] => none
  | [u] => some u
  | u :: us =>
    let needs := (u :: us).map fun w => (w, s.needsNow (sidOf k w))
    let need := fun w => ((needs.find? (·.1 = w)).map Prod.snd).getD ([], [])
    some (((u :: us).find? fun w => (u :: us).all fun z => !((s.coreOf k).goesBefore need z w)).getD u)

/-! ## The order of a core's streams (R231, R280) -/

/-- What is left of a stopped matrix or transpose stream: pending writes and pops (R275, R330). -/
def Engine.busy (e : Engine) : Bool := !(e.writes.isEmpty && e.rows.isEmpty && e.pops.isEmpty)

/-- Whether a unit of a core has had its turn in this arithmetic clock, or needs none. -/
def State.unitDone (s : State) (k u : Nat) : Bool :=
  let x := s.strmOf (sidOf k u)
  let now := some (s.coreOf k).ac
  if u = 4 || u = 8 then (s.coreOf k).cuAc = now || !(x.run.active || (s.strmOf (sidOf k (12 - u))).run.active)
  else x.acAt = now || !(x.run.active || ((u = 5 || u = 6) && x.eng.busy))

/-- Whether a control unit's turn comes after those of the partitions: the next bundle of a context holds POST or FREL, which see the
window after the retirements and inbound posts of the arithmetic clock (R209, R213, log 9). -/
def State.lateCu (s : State) (k : Nat) : Bool := [4, 8].any fun u =>
  (s.strmOf (sidOf k u)).run = .running && match s.bundleOf (sidOf k u) with
    | some (a, b) => late a || b.any late
    | none => false
where
  late : Instr → Bool
    | .post _ _ | .frel _ _ => true
    | _ => false

/-- Whether the streams that a core serves before a stream in an arithmetic clock have had their turns (R231, R280): the matrix engine, the
transpose engine, the copy engine, the control unit, then the partitions in rotating order. -/
def State.turnOpen (s : State) (sid : Nat) : Bool :=
  let k := coreOfSid sid
  let done := s.unitDone k
  match unitOfSid sid with
  | 5 => true
  | 6 => done 5
  | 7 => done 5 && done 6
  | 4 | 8 => done 5 && done 6 && done 7 && !(s.lateCu k)
  | u => done 5 && done 6 && done 7 && (done 4 || s.lateCu k) && s.nextVp k = some u

end Sys2Proof.Machine
end

