-- ==== Sys2Proof/Machine/Issue.lean ====
section
/-! DEFINITION. The issue of bundles: one issue attempt of a stream (01 R15, R18, R22, 04 R110, R119, 16 R365, 17 R402), the two
contexts of the control unit (07 R170, R171), and the end of a die cycle, in which the updates of an arithmetic clock become
visible (07 R193, R194, 08 R219, R220) and the hardware steps that have no other moment happen (log 1). -/

namespace Sys2Proof.Machine

/-- Go on after a next state. -/
def andThen (o : Out) (f : State → Out) : Out :=
  match o with
  | .next s => f s
  | .fault x => .fault x
  | .refused r => .refused r

/-! ## One issue attempt -/

/-- An issue cycle ends (R15, R165). -/
def State.endCycle (s : State) : State := s.setStrm fun x => { x with fresh := false, icnt := x.icnt + 1 }

/-- What the matrix or transpose engine of the stream does in its issue cycle (R275, R313, R322). -/
def engineCycle (s : State) : Out :=
  if s.strm.unit = 5 || s.strm.unit = 6 then andThen (exec .accumulatorWrite s) (exec .passSlotPop) else .next s

/-- Units that accept an instruction once every two issue cycles (R18, R87): the scalar and the vector divide unit. -/
def needsDiv (u : Nat) (a : Instr) (b : Option Instr) : Bool :=
  let has := fun (i : Instr) => match i.syl with
    | some y => sharedUnit y.op = u
    | none => false
  has a || b.any has

/-- The position after a bundle: a taken branch's target, the start of a loop's body, or the next bundle; a branch that is not
prepared stalls the stream 3 ac (R110, R119). -/
def State.moveOn (s : State) (p : Pos) (nxt : Nat) : State :=
  let l := s.strm.latch
  match l.taken with
  | some q => s.setStrm fun x => { x with stall := x.stall + (if l.prepared then 0 else 3), pos := q }
  | none =>
    if l.ended || s.strm.handler then s.setStrm fun x => { x with pos := ⟨p.line, nxt⟩ }
    else match loopEnd p l.lcNew [2, 1, 0] s with
      | (t, some q) => t.setStrm fun x => { x with pos := q }
      | (t, none) => t.setStrm fun x => { x with pos := ⟨p.line, nxt⟩ }

/-- A firmware context in probation counts its bundles against the budget (R502). -/
def State.fwCount (s : State) : State :=
  if s.strm.cls = .firmware && s.core.fwst = .probation then
    let n := s.core.fwBundles + 1
    let due := if n ≥ (s.dieOf s.rank).fwwd.toNat % 0x100000000 then min s.core.fwDue s.sys.dc else s.core.fwDue
    { s with core := { s.core with fwBundles := n, fwDue := due } }
  else s

/-- What a bundle of the CU program context does to its run-ahead (R378). -/
def State.aheadIssue (s : State) (l : Latch) : State :=
  if s.strm.cls != .control || s.strm.handler then s
  else
    let t := s.resolveAhead l.taken.isSome
    if l.ended && t.core.ahead.isSome then t.dropAhead t.ck else t

/-- The mode in which a TRAP issued, as `trapDue` holds it. -/
def Stream.modeBit (x : Stream) : Nat := if x.handler then 1 else 0

/-- Take the TRAP that has issued, at the bundle that would issue next (R372): code, slot and protection class. -/
def State.takeTrapDue (s : State) : Option State :=
  s.strm.trapDue.bind fun v =>
    if v / 0x8000 = s.strm.modeBit then
      some ((s.setStrm fun x => { x with trapDue := none }).takeTrap 4 (v % 0x1000) false (v / 0x1000 % 2) (v / 0x2000 % 4) false)
    else none

/-- A TRAP stops the stream after its bundle (R372), once the results due at the next bundle have landed (R23). It stays due where that
landing takes an exception or a tie-break, or where the next issue cycle is further off. -/
def State.trapNow (s : State) (v : Nat) : Out :=
  let s1 := s.setStrm fun x => { x with trapDue := some (v + 0x8000 * x.modeBit) }
  if s1.strm.stall != 0 || s1.strm.hold != 0 then .next s1
  else andThen (exec .resultLanding s1) fun u =>
    .next (if u.strm.latch.trapped || !u.strm.fresh then u else (u.takeTrapDue.getD u).setLatch fun l => { l with issued := true })

/-- A stream that waits for its landings before it leaves its handler (R373). -/
def returnCycle (next : Bool) (s : State) : State :=
  if s.strm.flight.isEmpty then (s.setStrm fun x => { x with hold := 0 }).handlerReturn next else s

/-- After a bundle has issued: the next position, protected issue cycles, and the heart of END, YIELD, RETT and TRAP. An END or RETT
under triad completes in the first of its issue cycles in which it can (DESIGN CHOICE, log 108). -/
def finishBundle (p : Pos) (nxt : Nat) (s : State) : Out :=
  let l := s.strm.latch
  let s1 := ((s.moveOn p nxt).setStrm fun x => { x with hold := l.extra, latch := { Latch.clear with issued := true } }).endCycle
  let s2 := (s1.fwCount).aheadIssue l
  andThen (if l.wait then exec .waitComplete s2 else .next s2) fun t =>
    if l.ended then exec .endComplete (t.setStrm fun x => { x with run := .ending, endWait := true, pos := p })
    else if l.stopAfter then .next (t.setStrm fun x => { x with run := .yielded, predictor := [] })
    else match t.strm.run with
      | .returning next => .next (returnCycle next t)
      | _ => match l.trapAfter with
        | some v => t.trapNow v
        | none => .next t

/-- Whether a divide unit that the bundle needs took an instruction in the last issue cycle (R18). -/
def Stream.divBusy (x : Stream) (a : Instr) (b : Option Instr) : Bool :=
  (needsDiv 1 a b && x.divAt = some (x.cyc - 1) && x.cyc != 0) || (needsDiv 3 a b && x.vdivAt = some (x.cyc - 1) && x.cyc != 0)

/-- The bundle's divide units take it. -/
def Stream.takeDiv (x : Stream) (a : Instr) (b : Option Instr) : Stream :=
  { x with
    divAt := if needsDiv 1 a b then some x.cyc else x.divAt
    vdivAt := if needsDiv 3 a b then some x.cyc else x.vdivAt }

/-- The bundle stalls one ac, after which its divide units are free. -/
def Stream.divWait (x : Stream) (a : Instr) (b : Option Instr) : Stream :=
  { x with
    divAt := if needsDiv 1 a b then none else x.divAt
    vdivAt := if needsDiv 3 a b then none else x.vdivAt
    latch := { x.latch with wait := true } }

/-- The results in flight that R402 counts. -/
def Stream.inFlight (x : Stream) : Nat := (x.flight.filter fun f => !f.isNext).length

/-- The end of an attempt, after the bundle's instructions have run to `t`: a trap, a wait, an issue cycle in which nothing
issues, or the issue, in which its divide units take it. `s1` is the state after the landing and `s2` after the engine's part of the
cycle. The clock in which a trap is raised counts as no issue cycle in ICNT (DESIGN CHOICE, log 109). -/
def closeBundle (was : Bool) (s1 s2 : State) (p : Pos) (a : Instr) (b : Option Instr) (nxt : Nat) (t : State) : Out :=
  if t.strm.latch.trapped then .next t
  else if t.strm.latch.wait then .next (if t.strm.cls.single then s1.setStrm fun x => { x with
      tied := t.strm.tied, stall := t.strm.stall, latch := { x.latch with wait := true } }
    else t)
  else if t.strm.latch.cycleWait || 32 < t.strm.inFlight then .next (s2.setLatch fun l => { l with cycleWait := true }).endCycle
  else finishBundle p nxt (t.setStrm fun x => { x.takeDiv a b with latch := { x.latch with wait := was } })

/-- Whether an instruction stopped: it traps or waits. -/
def State.halted (s : State) : Bool := s.strm.latch.trapped || s.strm.latch.wait || s.strm.latch.cycleWait

/-- The two instructions of a bundle. Slot B's is tried first, to learn whether it stops; slot A's runs, and slot B's after it. A
trap or a wait of either leaves no effect of the other (R22, R365). -/
def runPair (a i : Instr) (s : State) (close : State → Out) : Out :=
  andThen (exec i s) fun sb =>
    andThen (exec a (s.setLatch fun l => { l with b2 := sb.strm.latch.trapped })) fun sa =>
      if sa.halted then close sa
      else if sb.halted then close sb
      else andThen (exec i (sa.setLatch fun l => { l with b2 := false })) close

/-- Issue a legal bundle. A task of an engine issues nothing while an access that its poster made before the post is outstanding
(R271). -/
def issueBundle (was : Bool) (s1 s2 : State) (p : Pos) (a : Instr) (b : Option Instr) (nxt : Nat) : Out :=
  if s2.strm.divBusy a b then .next (s1.setStrm fun x => x.divWait a b)
  else if s2.strm.cls.single && s2.acquiring then .next (s1.setLatch fun l => { l with wait := true })
  else match b with
    | none => andThen (exec a s2) fun t => closeBundle was s1 s2 p a none nxt (t.servedFrom s2 a none)
    | some i => runPair a i s2 fun t => closeBundle was s1 s2 p a (some i) nxt (t.servedFrom s2 a (some i))

/-- The issue cycle of a running stream: its bundle, a line fault, or ILLEGAL_OP. -/
def issueCycle (was : Bool) (s1 s2 : State) : Out :=
  let (m, len) := s2.core.codeFor s2.strm.cls
  match settle m len s2.strm.cls (len + 1) s2.strm.pos with
  | .endless => .next (s1.setLatch fun l => { l with wait := true })
  | .lineFault c line p => .next ((s2.setStrm fun x => { x with pos := p }).takeTrap c line false 0 0 false)
  | .stands p =>
    let (a, b, nxt) := fetchBundle m s2.strm.cls.single p.line p.slot
    let t1 := s1.setStrm fun x => { x with pos := p }
    let t2 := s2.setStrm fun x => { x with pos := p }
    match illegalIn s2.strm.cls s2.core.pool m p.line p.slot a b (fetchOne m p.line p.slot).2 with
    | some w => exec (.unassignedOpcode w) t2
    | none => issueBundle was t1 t2 p a b nxt

/-- A further issue cycle of a protected bundle, in which END and RETT may complete. -/
def heldCycle (s : State) : Out :=
  let t := (s.setStrm fun x => { x with hold := x.hold - 1, latch := { x.latch with issued := true } }).endCycle
  match t.strm.run with
  | .ending => exec .endComplete t
  | .returning next => .next (returnCycle next t)
  | _ => .next t

/-- One issue attempt of the issuing stream in an arithmetic clock. -/
def attempt (s : State) : Out :=
  let was := s.strm.latch.wait
  let s0 := (s.ptwDone s.sid).setStrm fun x => { x with latch := Latch.clear }
  if s0.strm.stall != 0 then .next (s0.setStrm fun x => { x with stall := x.stall - 1, latch := { x.latch with wait := was } })
  else andThen (exec .resultLanding s0) fun s1 =>
    if s1.strm.latch.trapped || !s1.strm.fresh then .next s1
    else andThen (engineCycle s1) fun s2 =>
      if s2.strm.latch.trapped || s2.strm.latch.wait then .next s2
      else if s2.strm.hold != 0 then heldCycle s2
      else match s2.strm.run with
        | .running => match s2.takeTrapDue with
          | some t => .next t
          | none => issueCycle was s1 s2
        | .ending => exec .endComplete s2.endCycle
        | .returning next => .next (returnCycle next s2.endCycle)
        | .aborting => .next s2.endCycle.abortDone
        | _ => .next s2.endCycle

/-! ## The control unit's two contexts (R170, R171) -/

/-- Whether a context can be ready in an arithmetic clock. -/
def Stream.mayIssue (x : Stream) (ac : Nat) : Bool := x.run.active && x.stall = 0 && x.acAt != some ac

/-- Stalls of both contexts count down in each arithmetic clock. -/
def Stream.stallTick (x : Stream) : Stream := if x.run.active then { x with stall := x.stall - 1 } else x

/-- Whether an attempt used the issue path: a bundle issued, or one took an exception. -/
def State.slotUsed (s : State) : Bool := s.strm.latch.issued || s.strm.latch.trapped

/-- The contexts of a control unit in the order in which they may have the issue path. Where the first only waits, the second has it; where
the first passes an issue cycle in which nothing issues, and the second issues a bundle, that clock is a stall of the first (R171). A
context that waits keeps what its wait has begun. -/
def contextsTurn (k : Nat) : List Nat → State → Out
  | [], s => .next s
  | u :: us, s => andThen (attempt (s.focus (sidOf k u))) fun t =>
    if t.slotUsed || us.isEmpty then .next t
    else if t.strm.latch.wait then contextsTurn k us t
    else andThen (contextsTurn k us s) fun w => if w.slotUsed then .next w else contextsTurn k us t

/-- The issue path of a control unit in an arithmetic clock: firmware within its share, then the program context, then firmware in the
idle slot. A bundle of firmware within its share is counted. -/
def cuTurn (k : Nat) (s : State) : Out :=
  let c := s.coreOf k
  let x := s.strmOf (sidOf k 8)
  let fw := if x.mayIssue c.ac then [8] else []
  let prog := if (s.strmOf (sidOf k 4)).mayIssue c.ac then [4] else []
  let s1 := (s.modStrm (sidOf k 8) Stream.stallTick).modStrm (sidOf k 4) Stream.stallTick
  let share := c.fwUsed < c.fshare
  andThen (contextsTurn k (if share then fw ++ prog else prog ++ fw) s1) fun t =>
    .next (if share && unitOfSid t.sid = 8 && t.strm.latch.issued && !fw.isEmpty && x.hold = 0 then
        t.modCore k fun d => { d with fwUsed := d.fwUsed + 1 }
      else t)

/-- A matrix or transpose stream that is stopped passes the issue cycles that its pending writes need (R275, R330). -/
def restTurn (s : State) : Out :=
  if s.strm.stall != 0 then .next (s.setStrm fun x => { x with stall := x.stall - 1 })
  else
    let s1 := s.setStrm fun x => { x with cyc := if x.fresh then x.cyc else x.cyc + 1, fresh := true, latch := Latch.clear }
    andThen (engineCycle s1) fun t =>
      .next (if t.strm.latch.wait then t else t.setStrm fun x => { x with fresh := false })

/-- Whether streams of a core issue: it is powered, and it is not the section of a parked core. A gated one is ungated first
(R235). -/
def State.coreLive (s : State) (k : Nat) : Bool := !(isParkKey k) && (s.dieOf (rankOfCore k)).powered

/-- A stream has its turn in an arithmetic clock, at most once. -/
def serveUnit (sid : Nat) (s : State) : Out :=
  let k := coreOfSid sid
  let u := unitOfSid sid
  if s.unitDone k u || !(s.coreLive k) then .next s
  else andThen (if (s.coreOf k).gated then Sys2Proof.Machine.execCoreUngate k s else .next s) fun s0 =>
    if u = 4 || u = 8 then andThen (cuTurn k s0) fun t => .next (t.modCore k fun d => { d with cuAc := some d.ac })
    else
      let s1 := (s0.focus sid).setStrm fun x => { x with acAt := some (s0.coreOf k).ac }
      if s1.strm.run.active then attempt s1 else restTurn s1

/-- The issue turn of a stream, where those served before it have had theirs. -/
def issueTurn (sid : Nat) (s : State) : Out := if s.turnOpen sid then serveUnit sid s else .next s

/-! ## The end of a die cycle -/

/-- The updates of one cone in an arithmetic clock: the last CSET first, then the sum of the increments, saturating once
(R192, R193). -/
def coneTick (ups : List ConeUpd) (c : Nat) (v : BitVec 17) : BitVec 17 :=
  let base := (ups.foldl (fun b u => match u with
    | .set d x => if d = c then some (x % 0x10000) else b
    | .add _ _ => b) none)
  let (val, ovf) := match base with
    | some x => (x, false)
    | none => (v.toNat % 0x10000, v.getLsbD 16)
  let sum := val + natSum (ups.map fun u => match u with
    | .add d x => if d = c then x % 0x10000 else 0
    | .set _ _ => 0)
  BitVec.ofNat 17 (min sum 0xFFFF + if ovf || 0xFFFF < sum then 0x10000 else 0)

/-- A cone update of a core that takes effect in this arithmetic clock: its stores have performed, and it was issued in an earlier one
(R219). -/
def Deferred.coneNow (out : Nat → Bool) (ac : Nat) : Deferred → Option ConeUpd
  | .cone w u from_ _ _ => if from_ ≤ ac && (w.all fun i => !(out i)) then some u else none
  | _ => none

/-- The window as KQRY and the CSRs read it in the next arithmetic clock (R217, R225). -/
def Core.snapshot (c : Core) : Core :=
  let occ := (c.window.filter fun (_, e) => e.isSome).length
  let own := (c.window.filter fun (_, e) => e.any (·.ownPost)).length
  let seen : Nat × Option KEntry → Option (Nat × Nat) := fun (n, e) => e.map fun x => (n, x.seq * 512 + (if x.spec then 256 else 0) + x.state.code)
  let vers : Nat × Option Frame → Nat × Option Nat := fun (n, f) => (n, f.map (·.cur))
  { c with occSeen := (occ, own), kSeen := c.window.filterMap seen, verSeen := c.frames.map vers }

/-- Whether every edge and the wait of an entry are gone, with a mode change's wait for older tasks of its class (R176,
R184, R186). -/
def Core.entryReady (c : Core) (e : KEntry) : Bool :=
  e.edges.isEmpty && e.waitOk && (recKind e.words != 4 || c.window.all fun (_, o) => match o with
    | some x => !(x.age < e.age && recKind x.words = (e.words.getD 4 0).toNat % 4 && (x.state = .waiting || x.state = .ready))
    | none => true)

/-- Cone waits become satisfied and Waiting entries Ready (R184, R186). -/
def Core.kilnTick (c : Core) : Core :=
  let hear : KEntry → KEntry := fun e =>
    let w2 := (e.words.getD 2 0).toNat
    if e.waitOk || !(bit w2 24) || w2 / 256 % 0x10000 ≤ (SMap.get 0 (w2 % 256) c.cones).toNat % 0x10000 then { e with waitOk := true } else e
  let w1 : SMap (Option KEntry) := c.window.map fun (n, o) => (n, o.map hear)
  let c1 := { c with window := w1 }
  let wake : KEntry → KEntry := fun e => if e.state = .waiting && c1.entryReady e then { e with state := .ready } else e
  let w2 : SMap (Option KEntry) := c1.window.map fun (n, o) => (n, o.map wake)
  { c1 with window := w2 }

/-- Fold an outcome over a list. -/
def forAll {α : Type} (f : α → State → Out) : List α → State → Out
  | [], s => .next s
  | x :: xs, s => andThen (f x s) (forAll f xs)

/-- The partitions of a core have their turns in the order in which the banks serve them. -/
def vpsTurn (k : Nat) : Nat → State → Out
  | 0, s => .next s
  | n + 1, s => match s.nextVp k with
    | none => .next s
    | some u => andThen (serveUnit (sidOf k u) s) (vpsTurn k n)

/-- The streams of a core have their turns in the order in which the banks serve them: the matrix engine, the transpose engine, the copy
engine, the control unit unless its turn is a late one, then the partitions (R231, R280, R286). -/
def streamsTurn (k : Nat) (s : State) : Out :=
  andThen (forAll (fun u => serveUnit (sidOf k u)) [5, 6, 7] s) fun t =>
  andThen (if t.lateCu k then .next t else serveUnit (sidOf k 4) t) (vpsTurn k 4)

/-- Retirements of a core in an arithmetic clock, with the ring slots that are published (R185, R321). -/
def retireTurn (k : Nat) (s : State) : Out :=
  andThen (forAll (fun n => Sys2Proof.Machine.execSlotPublish k n) ((s.coreOf k).rings.map Prod.fst) s) fun t =>
    forAll (fun n => Sys2Proof.Machine.execTaskRetire k n) ((t.coreOf k).window.map Prod.fst) t

/-- Inbound posts of a core, and the late turn of its control unit, whose POST or FREL sees the window after them (R209, R213, R214). -/
def inboundTurn (k : Nat) (s : State) : Out := serveUnit (sidOf k 4) (s.drainInbound k)

/-- One arithmetic clock of a core ends: entries become Ready (R184), updates of cones, tags, notify registers and rounding states become
visible, and the space of popped slots is free (R322). Deferred sends stay for `State.sendDeferred`. -/
def Core.acTick (c : Core) (out : Nat → Bool) : Core :=
  let ups := c.conePend ++ c.deferred.filterMap (Deferred.coneNow out c.ac)
  let cs := (ups.map fun u => match u with
    | .set d _ => d
    | .add d _ => d).eraseDups
  let later : List Deferred := c.deferred.filter fun (d : Deferred) => match d with
    | .cone _ _ _ _ _ => (d.coneNow out c.ac).isNone
    | .tags _ | .kmode _ _ => false
    | _ => true
  let drained : SMap Ring := c.rings.map fun (n, r) => (n, if r.freed = 0 then r else { r with freed := 0 })
  let d := c.kilnTick
  let e := { d with
    ac := c.ac + 1
    cones := cs.foldl (fun m i => SMap.set 0 i (coneTick ups i (SMap.get 0 i m)) m) c.cones
    tags := (c.tags &&& ~~~c.tagClr) ||| c.tagSet
    tagSet := 0
    tagClr := BitVec.ofNat 64 (c.deferred.foldl (fun (m : Nat) (x : Deferred) => match x with
      | .tags y => m ||| y
      | _ => m) 0)
    conePend := []
    kmodes := c.kmodePend.foldl (fun m (k, r) => SMap.set 0 k r m) c.kmodes
    kmodePend := c.deferred.filterMap fun (x : Deferred) => match x with
      | .kmode k r => some (k, r)
      | _ => none
    deferred := later
    notify := c.notifyOr.foldl (fun m (n, v) => SMap.set 0 n (SMap.get 0 n m ||| v) m) c.notify
    notifyOr := []
    rings := drained
    yrem := if c.yreq && c.yrem != 0 then c.yrem - 1 else c.yrem }
  e.snapshot

/-- The other hardware steps of a core in an arithmetic clock, before it ends: answers and sends that have become due, the start of an
iteration, KILN_DEADLOCK, parking and swapping, the watchdog of new firmware, the end of a run-ahead whose iteration is gone, and the
delivery of events to the firmware context. -/
def coreSteps (k : Nat) (s : State) : Out :=
  andThen (Sys2Proof.Machine.execIterationStart k (s.sendDeferred k)) fun s1 =>
  andThen (Sys2Proof.Machine.execKilnDeadlock k s1) fun s2 =>
  andThen (Sys2Proof.Machine.execCorePark k s2) fun s3 =>
  andThen (Sys2Proof.Machine.execCoreSwap k s3) fun s4 =>
  andThen (Sys2Proof.Machine.execFwWatchdogExpiry k s4) fun s5 =>
    let d := s5.coreOf k
    .next ((if d.ahead.isSome && d.iter.isNone then s5.dropAhead k else s5).fwDeliver k)

/-- An arithmetic clock of a core ends and the next one begins, with its share window (R170), the forced save in the clock in which YREM
reaches 0 (R419), and the release of tasks, whose first bundles issue in it (R189). -/
def coreTick (k : Nat) (s : State) : Out :=
  andThen (coreSteps k s) fun s0 =>
  andThen (Sys2Proof.Machine.execFwShareWindow k (s0.modCore k fun c => c.acTick fun i => s0.sys.reqs.any (·.id = i))) fun s1 =>
  andThen (Sys2Proof.Machine.execForcedSave k s1) (Sys2Proof.Machine.execTaskRelease k)

/-- The first steps of a new clock for a launch: the next nest record, the Wheels of the dies whose clock begins, before any instruction
of it (R197, R304), and its end. -/
def launchTick (fired : List Nat) (lk : Nat) (s : State) : Out :=
  let ranks := match s.launchOf lk with
    | some l => l.ranks.filter fun r => r / 4 = l.pkg
    | none => []
  andThen (Sys2Proof.Machine.execNestRecordStart lk s) fun s1 =>
  andThen (forAll (fun r t => andThen (Sys2Proof.Machine.execWheelSteal r lk t) (Sys2Proof.Machine.execWheelPlace r lk))
    (ranks.filter fired.contains) s1) fun s2 =>
  andThen (Sys2Proof.Machine.execLaunchComplete lk s2) fun s3 =>
    let s4 := if (s3.launchOf lk).any (·.goes) then s3.restoreFree lk else s3
    .next (s4.sendPurges (sidOf (64 * (ranks.headD 0)) 8) lk)

/-- The steps of a die in a die cycle. -/
def dieTick (rank : Nat) (s : State) : Out := andThen (Sys2Proof.Machine.execBucketLeak rank s) fun t => .next (t.homeHints rank)

/-- Whether the clock step of a die makes an arithmetic clock of this die cycle (R522). -/
def Die.fires (d : Die) : Bool := d.powered && 16 ≤ d.acc + d.step

/-- The die's clock accumulator, and the arithmetic clocks that it has made, after a die cycle. -/
def Die.clock (d : Die) : Die :=
  if !d.powered then d else if d.fires then { d with acc := d.acc + d.step - 16, acs := d.acs + 1 } else { d with acc := d.acc + d.step }

/-- The keys of the cores of the domain. -/
def State.coreKeys (s : State) : List Nat := (s.ck :: s.cores.map Prod.fst).eraseDups

/-- A die cycle ends. Each die whose clock step makes an arithmetic clock of it ends that clock: its streams that have not had their turns
have them, then come retirements, purges, inbound posts with the POST and FREL of the control units (R214, R366, R381), and what
becomes visible. Then the new die cycle begins with the launches, the dies and the time-outs (log 1). -/
def tick (s : State) : Out :=
  let ks := s.coreKeys.filter fun k => !(isParkKey k) && (s.dieOf (rankOfCore k)).fires
  let ranks := (s.rank :: s.sys.dies.map Prod.fst).eraseDups
  let fired := ranks.filter fun r => (s.dieOf r).fires
  andThen (forAll streamsTurn ks s) fun s1 =>
  andThen (forAll retireTurn ks (s1.vamos.foldl (fun t sid => t.vamoRest sid 16) s1)) fun s2 =>
  andThen (forAll inboundTurn ks s2.purgesNow) fun s3 =>
  andThen (forAll coreTick ks (s3.coreKeys.foldl State.answerHeld s3.purgesNow)) fun s4 =>
  let s5 := ranks.foldl (fun t r => t.modDie r Die.clock) { s4 with sys := { s4.sys with dc := s4.sys.dc + 1 } }
  andThen (forAll (launchTick fired) (s5.sys.launches.map Prod.fst) s5) fun s6 =>
  andThen (forAll dieTick ranks s6) fun s7 =>
  andThen (forAll (fun i => Sys2Proof.Machine.execRequestTimeout i) (s7.sys.reqs.map (·.id)) s7) fun s8 =>
    .next (s8.sendParity.focus s.sid)

/-! ## Turns -/

/-- The hardware steps that the agenda may name: not instructions, and not the parts of an issue attempt, which happen only there. -/
def agendaEvent : Instr → Bool
  | .unassignedOpcode _ | .fwhbHeartbeat _ | .resultLanding | .waitComplete | .accumulatorWrite | .passSlotPop | .endComplete => false
  | i => i.syl.isNone

/-- Whether a message accesses a scratchpad where it arrives. -/
def Msg.atBank (m : Msg) : Bool := match m.kind with
  | 2 => m.atomSp
  | 9 => m.args.getD 0 0 = 1
  | 10 | 11 => true
  | 19 => m.op = 0x100 && m.args.getD 0 0 = 1
  | _ => false

/-- The core whose banks a message accesses where it arrives: as a request, or as data of a copy. -/
def State.msgBank (s : State) (i : Nat) : Option Nat := (s.sys.msgs[i]?).bind fun m =>
  if m.atBank then s.coreFor m.launchHere m.dlc
  else if m.kind != 4 then none
  else (s.reqOf m.req).bind fun r => match r.wait with
    | .part main _ => (s.reqOf main).bind fun q => match q.wait with
      | .chunkRead _ _ => some (coreOfSid q.sid)
      | _ => none
    | _ => none

/-- The core whose banks a hardware step accesses for the copy engine or for another core. -/
def State.bankCore (s : State) : Instr → Option Nat
  | .copyChunkIssue k _ | .copyComplete k _ => some k
  | .atomicRequest m | .copyChunk m _ | .landingUpdate m | .barrierRequest m | .loadRequest m | .loadData m => s.msgBank m
  | _ => none

/-- Whether a unit of a core has had its turn in this arithmetic clock. -/
def State.unitTaken (s : State) (k u : Nat) : Bool :=
  let now := some (s.coreOf k).ac
  if u = 4 then (s.coreOf k).cuAc = now else (s.strmOf (sidOf k u)).acAt = now

/-- Whether a hardware step may happen now in its arithmetic clock: what the copy engine and other cores need of a core's banks is served
after its engines and before its control unit and partitions (R231, R280), and a Wheel's transfer comes before the instructions (R304). -/
def State.stepOpen (s : State) (i : Instr) : Bool :=
  (match s.bankCore i with
  | some k => [5, 6, 7].all (s.unitDone k) && [4, 0, 1, 2, 3].all fun u => !(s.unitTaken k u)
  | none => true) &&
  match i with
  | .wheelPlace die _ => s.coreKeys.all fun k => isParkKey k || rankOfCore k != die || (List.range 8).all fun u => !(s.unitTaken k u)
  | _ => true

/-- Take one turn. -/
def oneTurn (t : Turn) (s : State) : Out :=
  match t with
  | .issue sid => issueTurn sid s
  | .streams k => streamsTurn k s
  | .event i => if agendaEvent i && s.stepOpen i then exec i s else .next s
  | .ahead k => .next (if s.coreLive k then aheadTurn k s else s)
  | .tick => tick s

/-- Take the next turn of the agenda; an empty agenda gives the issuing stream a turn and ends the die cycle, in which the other
streams have theirs (log 1). -/
def takeTurn (s : State) : Out :=
  match s.agenda with
  | [] => andThen (issueTurn s.sid s) tick
  | t :: rest => oneTurn t { s with agenda := rest }

end Sys2Proof.Machine
end

