-- ==== Sys2Proof/Machine/Step.lean ====
section
/-! DEFINITION. One step of the device, and the placing of an instruction where the next step fetches it. -/

namespace Sys2Proof.Machine

/-- One step takes the next turn of the agenda; an empty agenda gives the issuing stream an issue attempt and ends the die
cycle (log 1). -/
def step (s : State) : Out := takeTurn s

/-- The pool word under which every register number of the encodings is legal: 256 v registers and 32 tiles (R26). -/
def widePool : Word := 0x82

/-- A unit whose stream may execute an instruction, in the order VP0, CU program, CU firmware, ME, XE, CE; VP0 where none may. -/
def unitFor (i : Instr) : Nat := ([0, 4, 8, 5, 6, 7].find? fun u => legalOne (unitCls u) widePool i).getD 0

/-- An image of two lines whose line 1 belongs to a class, chains nowhere, holds the bytes of `w` in slots 0 and 1 and END in slot
9, so that NOP is no run of empty slots to the end of its line (R57, R58, R67). -/
def probeImage (cls : Cls) (w : Nat) : Memory :=
  Memory.writeNat 122 6 0x4000000000 (Memory.writeNat 68 12 w (Memory.writeNat 64 4 (cls.code * 0x10000000 + 0xFFFFFFF) []))

/-- A stream that stands at slot 0 of line 1 and may issue. -/
def Stream.poised (x : Stream) : Stream :=
  { x with run := .running, pos := ⟨1, 0⟩, stall := 0, hold := 0, acAt := none, handler := false, latch := Latch.clear }

/-- A core whose streams can fetch the image. -/
def Core.poised (c : Core) (firmware : Bool) (m : Memory) : Core :=
  let d := { c with cuAc := none, gated := false, pool := widePool, fwUsed := if firmware then 0 else 32 }
  if firmware then { d with fwCode := m, fwLen := 2 } else { d with code := m, codeLen := 2 }

/-- The state whose next step issues the bundle of one instruction: its bytes stand in line 1 of the line store of a stream that
may execute it, which is running there, and the agenda is empty (log 6). -/
def State.withFetchWord (s : State) (nbits w : Nat) : State :=
  let v := w % 2 ^ nbits
  let i := (decodeTableWord nbits w).getD (.unassignedOpcode v)
  let u := unitFor i
  let k := if isParkKey s.ck then 0 else s.ck
  let t := (s.focus (sidOf k u)).modDie (rankOfCore k) fun d => { d with powered := true }
  { t with
    agenda := []
    strm := t.strm.poised
    core := t.core.poised (u = 8) (probeImage (unitCls u) v) }

end Sys2Proof.Machine
end

