-- ==== Sys2Proof/Safety.lean ====
section
/-! DEFINITION. The terms in which claims speak of a run: when nothing stops an instruction before its effect, and what the
results are that it leaves in flight. The right-hand sides of the statements are written with these records, so that what
they do not name is unchanged. -/

namespace Sys2Proof.Machine

/-- Nothing stops an instruction before its effect: its guard is on (03 R66), no g register that it reads holds a mark
(16 R376), and no physical error has struck the copies that the stream forms (17 R413, log 12). -/
def State.Clear (s : State) (h : Hdr) (uses : List RegUse) : Prop :=
  s.guardOn h = true ∧ s.strm.upsets = [] ∧ ∀ n ∈ markReads uses, s.markG n = Mark.none

/-- An instruction of a firmware context may run at all: the context's image is committed, and no acquire of the stream is
outstanding (23 R504, 09 R259). -/
def State.FwClear (s : State) (h : Hdr) (uses : List RegUse) : Prop :=
  s.Clear h uses ∧ s.core.fwst ≠ .probation ∧ s.core.fwst ≠ .alive ∧ s.acquiring = false

/-- The copies of a result that no physical error struck: one of a plain instruction, three of a protected one (17 R398). -/
def sameCopies (prot : Nat) (c : RCopy) : List RCopy := if prot = 0 then [c] else [c, c, c]

/-- A result joins those in flight (01 R15, R16): the rest of the state is unchanged. -/
def State.queues (s : State) (f : Flight) : State := { s with strm := { s.strm with flight := s.strm.flight ++ [f] } }

/-- The bundle takes at least `n` issue cycles more (05 R134, 17 R403). -/
def State.spends (s : State) (n : Nat) : State :=
  { s with strm := { s.strm with latch := { s.strm.latch with extra := max s.strm.latch.extra n } } }

/-- Issue cycles that a scalar or a vector instruction of a protection class adds to its latency and to its bundle: triad adds
one to a scalar instruction; dual adds one and triad two to one of the vector block (17 R403, 05 R134). -/
def addedCycles (vec : Bool) (prot : Nat) : Nat := if vec then prot else if prot = 2 then 1 else 0

/-- A result of the issuing instruction: destination, the bits of the register that it writes, value, latency, flags, mark. -/
def State.result1 (s : State) (h : Hdr) (dst : Dst) (bits val : VReg) (lat : Nat) (flags : Word) (mark : Mark) : Flight :=
  ⟨dst, lat + addedCycles false h.prot, sameCopies h.prot ⟨val, flags, mark, bits, 0, true⟩, s.strm.pos, h.prot, h.slot, lat, false⟩

/-- A result of an instruction of the vector block, with its governing mask. -/
def State.resultV1 (s : State) (h : Hdr) (gm : Word) (dst : Dst) (bits val : VReg) (lat : Nat) (flags : Word) (mark : Mark) : Flight :=
  ⟨dst, lat + addedCycles true h.prot, sameCopies h.prot ⟨val, flags, mark, bits, gm, true⟩, s.strm.pos, h.prot, h.slot, lat, true⟩

/-- Nothing but one result in a g register, an a register or a p register comes of the instruction. -/
def State.givesG (s : State) (h : Hdr) (d : Nat) (v : Word) (lat : Nat) (flags : Word := 0) (mark : Mark := .none) : State :=
  (s.queues (s.result1 h (.g d) (lowBits 32) (v.setWidth 1024) lat flags mark)).spends (addedCycles false h.prot)
def State.givesA (s : State) (h : Hdr) (d : Nat) (v : Addr) (lat : Nat) : State :=
  (s.queues (s.result1 h (.a d) (lowBits 64) (v.setWidth 1024) lat 0 .none)).spends (addedCycles false h.prot)
def State.givesP (s : State) (h : Hdr) (d : Nat) (v : Bool) (lat : Nat) (flags : Word := 0) : State :=
  (s.queues (s.result1 h (.p d) (lowBits 1) (if v then 1 else 0) lat flags .none)).spends (addedCycles false h.prot)

/-- Nothing but one result in a v register comes of the instruction: `bits` are the bits that it writes. -/
def State.givesV (s : State) (h : Hdr) (gm : Word) (d : Nat) (bits v : VReg) (lat : Nat) (flags : Word := 0) : State :=
  (s.queues (s.resultV1 h gm (.v d) bits v lat flags .none)).spends (addedCycles true h.prot)

/-- The update of the base register of an access with M = 1 (04 R125): a result of latency 1. -/
def State.bumps (s : State) (h : Hdr) (vec : Bool) (a : Nat) (m : Bool) (off : Off) : State :=
  if m then s.queues ⟨.a a, 1 + addedCycles vec h.prot,
    sameCopies h.prot ⟨(s.rdA a + BitVec.ofInt 64 (offVal off)).setWidth 1024, 0, .none, lowBits 64, 0, true⟩, s.strm.pos, h.prot, h.slot,
    1, vec⟩
  else s

/-- Two states that differ in nothing but the issuing core's local memory, its poison, its commit buffer and the BWAITs of other
cores that its banks test after a write (R284). -/
def State.SameButLocal (s t : State) : Prop :=
  t = { s with core := { s.core with
    loc := t.core.loc, poison := t.core.poison, commit := t.core.commit, heldBw := t.core.heldBw, bwDone := t.core.bwDone } }

end Sys2Proof.Machine
end

