-- ==== Sys2Proof/Certificates/Slice0/Obligations.lean ====
section
/-! DEFINITION. The statements for the provers. Each docstring names the rules of the spec that its statement follows. A statement
about an instruction gives the whole next state, so what its right-hand side does not name is unchanged. -/

open Sys2Proof Sys2Proof.Machine

/-! ## Scalar instructions (04 R83 to R108) -/

/-- R86: the result of each binary integer operation is in gd after the latency of R87, and nothing else changes. The second
operand's immediate is sign-extended (ADD, SUB, MUL and the .s forms) or zero-extended (the logic operations, the shifts and the
.z forms). -/
def Claims.ScalarBinaryResults : Prop :=
  (∀ (h : Hdr) (o : BinArgs) (s : State), s.Clear h o.regs →
    let a := s.rdG o.a
    let b := s.src2 o.b true
    let u := s.src2 o.b false
    exec (.add h o) s = .next (s.givesG h o.d (BitVec.ofNat 32 (a.toNat + b.toNat)) 1) ∧
    exec (.sub h o) s = .next (s.givesG h o.d (BitVec.ofInt 32 ((a.toNat : Int) - b.toNat)) 1) ∧
    exec (.mul h o) s = .next (s.givesG h o.d (BitVec.ofNat 32 (a.toNat * b.toNat)) 3) ∧
    exec (.and h o) s = .next (s.givesG h o.d (a &&& u) 1) ∧
    exec (.or h o) s = .next (s.givesG h o.d (a ||| u) 1) ∧
    exec (.xor h o) s = .next (s.givesG h o.d (a ^^^ u) 1) ∧
    exec (.andn h o) s = .next (s.givesG h o.d (a &&& ~~~u) 1) ∧
    exec (.shl h o) s = .next (s.givesG h o.d (if 32 ≤ u.toNat then 0 else BitVec.ofNat 32 (a.toNat * 2 ^ u.toNat)) 1) ∧
    exec (.shr h o) s = .next (s.givesG h o.d (if 32 ≤ u.toNat then 0 else BitVec.ofNat 32 (a.toNat / 2 ^ u.toNat)) 1) ∧
    exec (.sar h o) s = .next (s.givesG h o.d (if 32 ≤ u.toNat then (if a.msb then BitVec.allOnes 32 else 0)
      else BitVec.ofInt 32 (a.toInt / 2 ^ u.toNat)) 1) ∧
    exec (.rot h o) s = .next (s.givesG h o.d (BitVec.ofNat 32 (a.toNat * 2 ^ (u.toNat % 32) % 2 ^ 32 + a.toNat / 2 ^ (32 - u.toNat % 32))) 1)) ∧
  (∀ (h : Hdr) (o : BinZArgs) (s : State), s.Clear h o.regs →
    let a := s.rdG o.a
    let b := s.src2 o.b (!o.z)
    let x : Int := if o.z then a.toNat else a.toInt
    let y : Int := if o.z then b.toNat else b.toInt
    let lo : Int := if o.z then 0 else -2 ^ 31
    let hi : Int := if o.z then 2 ^ 32 - 1 else 2 ^ 31 - 1
    exec (.mulh h o) s = .next (s.givesG h o.d (BitVec.ofInt 32 (x * y / 2 ^ 32)) 3) ∧
    exec (.div h o) s = .next (s.givesG h o.d (if b = 0 then 0xFFFFFFFF else BitVec.ofInt 32 (x.tdiv y)) 14) ∧
    exec (.rem h o) s = .next (s.givesG h o.d (if b = 0 then a else BitVec.ofInt 32 (x - y * x.tdiv y)) 14) ∧
    exec (.min h o) s = .next (s.givesG h o.d (BitVec.ofInt 32 (min x y)) 1) ∧
    exec (.max h o) s = .next (s.givesG h o.d (BitVec.ofInt 32 (max x y)) 1) ∧
    exec (.adds h o) s = .next (s.givesG h o.d (BitVec.ofInt 32 (max lo (min (x + y) hi))) 1) ∧
    exec (.subs h o) s = .next (s.givesG h o.d (BitVec.ofInt 32 (max lo (min (x - y) hi))) 1))

/-- R88, R90: the unary operations and the bit-field operations of gd. CLZ and CTZ are stated by what determines them: below the
count there is no one bit, and at it there is one; 32 for a word of zeros. -/
def Claims.ScalarUnaryResults : Prop :=
  (∀ (h : Hdr) (o : UnArgs) (s : State), s.Clear h o.regs →
    let a := s.rdG o.a
    exec (.abs h o) s = .next (s.givesG h o.d (BitVec.ofNat 32 a.toInt.natAbs) 1) ∧
    (∃ n : Nat, exec (.clz h o) s = .next (s.givesG h o.d (BitVec.ofNat 32 n) 1) ∧
      n ≤ 32 ∧ (∀ i, i < n → a.getLsbD (31 - i) = false) ∧ (n < 32 → a.getLsbD (31 - n) = true)) ∧
    (∃ n : Nat, exec (.ctz h o) s = .next (s.givesG h o.d (BitVec.ofNat 32 n) 1) ∧
      n ≤ 32 ∧ (∀ i, i < n → a.getLsbD i = false) ∧ (n < 32 → a.getLsbD n = true)) ∧
    exec (.popc h o) s = .next (s.givesG h o.d (BitVec.ofNat 32 ((List.range 32).countP fun i => a.getLsbD i)) 1) ∧
    (∃ r : Word, exec (.brev h o) s = .next (s.givesG h o.d r 1) ∧ ∀ i, i < 32 → r.getLsbD i = a.getLsbD (31 - i))) ∧
  (∀ (h : Hdr) (o : BfxArgs) (s : State), s.Clear h o.regs →
    let f := (s.rdG o.a).toNat / 2 ^ o.pos % 2 ^ (o.wm1 + 1)
    exec (.bfx h o) s = .next (s.givesG h o.d (if o.sgn ∧ f.testBit o.wm1 then BitVec.ofInt 32 ((f : Int) - 2 ^ (o.wm1 + 1))
      else BitVec.ofNat 32 f) 1)) ∧
  (∀ (h : Hdr) (o : BfiArgs) (s : State), s.Clear h o.regs →
    ∃ r : Word, exec (.bfi h o) s = .next (s.givesG h o.d r 1) ∧ ∀ i, i < 32 → r.getLsbD i =
      if o.pos ≤ i ∧ i < o.pos + o.wm1 + 1 then (s.rdG o.a).getLsbD (i - o.pos) else (s.rdG o.d).getLsbD i)

/-- R67, R91 to R94: NOP takes its issue cycle and has no other effect; SEL selects by its predicate; MOV and MOVX copy a g register
with its mark, the latter after 2 issue cycles; MOV of a b register gives its packed target; MOVI sets a constant or the upper half. -/
def Claims.ScalarMoves : Prop :=
  (∀ (h : Hdr) (o : NoArgs) (s : State), s.Clear h o.regs → exec (.nop h o) s = .next (s.spends (addedCycles false h.prot))) ∧
  (∀ (h : Hdr) (o : SelArgs) (s : State), s.Clear h o.regs →
    exec (.sel h o) s = .next (s.givesG h o.d (if xor (s.rdP o.k) o.n then s.rdG o.a else s.rdG o.b) 1)) ∧
  (∀ (h : Hdr) (d a : Nat) (s : State), s.Clear h [] →
    exec (.mov h (.fromG d a)) s = .next (s.givesG h d (s.rdG a) 1 0 (s.markG a)) ∧
    exec (.mov h (.fromB d a)) s = .next (s.givesG h d (BitVec.ofNat 32 ((s.rdB a).target.line * 16 + (s.rdB a).target.slot)) 1)) ∧
  (∀ (h : Hdr) (d v : Nat) (s : State), s.Clear h [] →
    exec (.movi h ⟨d, .low v⟩) s = .next (s.givesG h d ((BitVec.ofNat 16 v).signExtend 32) 1) ∧
    exec (.movi h ⟨d, .ext v⟩) s = .next (s.givesG h d (BitVec.ofNat 32 v) 1)) ∧
  (∀ (h : Hdr) (d v : Nat) (s : State), s.Clear h (MoviArgs.regs ⟨d, .high v⟩) →
    exec (.movi h ⟨d, .high v⟩) s = .next (s.givesG h d (BitVec.ofNat 32 (v * 0x10000 + (s.rdG d).toNat % 0x10000)) 1)) ∧
  (∀ (h : Hdr) (o : MovxArgs) (s : State), s.Clear h [] →
    exec (.movx h o) s = .next (s.givesG h o.d (s.rdG o.a) 2 0 (s.markG o.a)))

/-- R95 to R97: CMP, PLOG and PMOV. PMOV of a g register to all predicates writes p1 to p7 and leaves p0. -/
def Claims.PredicateResults : Prop :=
  (∀ (h : Hdr) (o : CmpArgs) (s : State), s.Clear h o.regs →
    let a := s.rdG o.a
    let b := s.regImm o.b
    exec (.cmp h o) s = .next (s.givesP h o.p (match o.cond with
      | .eq => decide (a = b)
      | .ne => decide (a ≠ b)
      | .ltS => decide (a.toInt < b.toInt)
      | .geS => decide (b.toInt ≤ a.toInt)
      | .gtS => decide (b.toInt < a.toInt)
      | .leS => decide (a.toInt ≤ b.toInt)
      | .ltZ => decide (a.toNat < b.toNat)
      | .geZ => decide (b.toNat ≤ a.toNat)
      | .gtZ => decide (b.toNat < a.toNat)
      | .leZ => decide (a.toNat ≤ b.toNat)) 1)) ∧
  (∀ (h : Hdr) (o : PlogArgs) (s : State), s.Clear h o.regs →
    let a := s.rdP o.a
    let b := s.rdP o.b
    exec (.plog h o) s = .next (s.givesP h o.p (match o.f with
      | .and => a && b
      | .or => a || b
      | .xor => xor a b
      | .andn => a && !b
      | .nand => !(a && b)
      | .nor => !(a || b)
      | .xnor => !(xor a b)
      | .orn => a || !b) 1)) ∧
  (∀ (h : Hdr) (p a : Nat) (s : State), s.Clear h [] →
    exec (.pmov h (.pp p a)) s = .next (s.givesP h p (s.rdP a) 1) ∧
    ∃ r : Word, exec (.pmov h (.gAll p)) s = .next (s.givesG h p r 1) ∧ r.toNat < 256 ∧ ∀ i, i < 8 → r.getLsbD i = s.rdP i) ∧
  (∀ (h : Hdr) (p a : Nat) (s : State), s.Clear h (PmovArgs.regs (.pg p a)) →
    exec (.pmov h (.pg p a)) s = .next (s.givesP h p (decide (s.rdG a ≠ 0)) 1) ∧
    exec (.pmov h (.allG a)) s = .next ((List.range 7).foldl (fun t i => t.givesP h (i + 1) ((s.rdG a).getLsbD (i + 1)) 1) s))

/-- R98, R99: the address-register instructions, modulo 2^64; ACMP compares unsigned. -/
def Obligations.AddressResults : Prop :=
  (∀ (h : Hdr) (o : AaddArgs) (s : State), s.Clear h o.regs →
    exec (.aadd h o) s = .next (s.givesA h o.d (s.rdA o.a + if o.z then (s.regImm o.b).setWidth 64 else (s.regImm o.b).signExtend 64) 1)) ∧
  (∀ (h : Hdr) (o : AleaArgs) (s : State), s.Clear h o.regs →
    exec (.alea h o) s = .next (s.givesA h o.d
      (s.rdA o.a + (if o.z then (s.rdG o.b).setWidth 64 else (s.rdG o.b).signExtend 64) * BitVec.ofNat 64 (2 ^ o.sh)) 1)) ∧
  (∀ (h : Hdr) (d a b v : Nat) (s : State), s.Clear h (AmovArgs.regs (.fromGG d a b)) →
    exec (.amov h (.fromA d a)) s = .next (s.givesA h d (s.rdA a) 1) ∧
    exec (.amov h (.fromG d a)) s = .next (s.givesA h d ((s.rdG a).setWidth 64) 1) ∧
    exec (.amov h (.fromGG d a b)) s = .next (s.givesA h d (s.rdG b ++ s.rdG a) 1) ∧
    exec (.amov h (.imm d v)) s = .next (s.givesA h d ((BitVec.ofNat 48 v).signExtend 64) 1)) ∧
  (∀ (h : Hdr) (o : AgetArgs) (s : State), s.Clear h o.regs →
    exec (.aget h o) s = .next (s.givesG h o.d (if o.h then (s.rdA o.a).extractLsb' 32 32 else (s.rdA o.a).extractLsb' 0 32) 1)) ∧
  (∀ (h : Hdr) (o : AcmpArgs) (s : State), s.Clear h o.regs →
    let a := (s.rdA o.a).toNat
    let b := (s.rdA o.b).toNat
    exec (.acmp h o) s = .next (s.givesP h o.p (match o.cond with
      | .eq => decide (a = b)
      | .ne => decide (a ≠ b)
      | .lt => decide (a < b)
      | .ge => decide (b ≤ a)) 1))

/-- R101, R102, R104 to R108: scalar floating point. A result is queued with its sticky flags and the latency of R101; the rounding
mode is the instruction's or FCSR's. The value is that of the model's exact arithmetic rounded once (`Flags.lean`). -/
def Obligations.ScalarFloatResults : Prop :=
  (∀ (h : Hdr) (o : FpArgs) (s : State), s.Clear h o.regs →
    let a := (s.rdG o.a).toNat
    let b := (s.rdG o.b).toNat
    let give := fun (r : FRes) (lat : Nat) => s.givesG h o.d (BitVec.ofNat 32 r.bits) lat (BitVec.ofNat 32 r.flags)
    exec (.fadd h o) s = .next (give (fmtF32.addOp (s.rmode o.rm) a b) 4) ∧
    exec (.fsub h o) s = .next (give (fmtF32.subOp (s.rmode o.rm) a b) 4) ∧
    exec (.fmul h o) s = .next (give (fmtF32.mulOp (s.rmode o.rm) a b) 4) ∧
    exec (.fdiv h o) s = .next (give (fmtF32.divOp (s.rmode o.rm) a b) 14)) ∧
  (∀ (h : Hdr) (o : FmaArgs) (s : State), s.Clear h o.regs →
    let r := fmtF32.fmaOp (s.rmode o.rm) (s.rdG o.a).toNat (s.rdG o.b).toNat (s.rdG o.d).toNat
    exec (.fma h o) s = .next (s.givesG h o.d (BitVec.ofNat 32 r.bits) 4 (BitVec.ofNat 32 r.flags))) ∧
  (∀ (h : Hdr) (o : FminArgs) (s : State), s.Clear h o.regs →
    let r := fun (m : Bool) => fmtF32.minMax m (s.rdG o.a).toNat (s.rdG o.b).toNat
    exec (.fmin h o) s = .next (s.givesG h o.d (BitVec.ofNat 32 (r false).bits) 2 (BitVec.ofNat 32 (r false).flags)) ∧
    exec (.fmax h o) s = .next (s.givesG h o.d (BitVec.ofNat 32 (r true).bits) 2 (BitVec.ofNat 32 (r true).flags))) ∧
  (∀ (h : Hdr) (o : FsqrtArgs) (s : State), s.Clear h o.regs →
    let r := fmtF32.sqrtOp (s.rmode o.rm) (s.rdG o.a).toNat
    exec (.fsqrt h o) s = .next (s.givesG h o.d (BitVec.ofNat 32 r.bits) 14 (BitVec.ofNat 32 r.flags))) ∧
  (∀ (h : Hdr) (o : FcmpArgs) (s : State), s.Clear h o.regs →
    exec (.fcmp h o) s = .next (s.givesP h o.p (fmtF32.cond (fpCode o.cond) (s.rdG o.a).toNat (s.rdG o.b).toNat) 2)) ∧
  (∀ (h : Hdr) (o : FcvtArgs) (s : State), s.Clear h o.regs →
    let r := convert o.dto o.frm (s.rmode o.rm) o.sat (s.rdG o.a).toNat
    exec (.fcvt h o) s = .next (s.givesG h o.d (extendTo o.dto r.bits) 5 (BitVec.ofNat 32 r.flags))) ∧
  (∀ (h : Hdr) (o : FsgnArgs) (s : State), s.Clear h o.regs →
    let a := (s.rdG o.a).toNat
    let sa := (s.rdG o.a).msb
    let sb := (s.rdG o.b).msb
    let sg := match o.f with
      | .cpy => sb
      | .neg => !sb
      | .xor => xor sa sb
    exec (.fsgn h o) s = .next (if 0x7F800000 < a % 2 ^ 31 then s.givesG h o.d 0x7FC00000 2 16
      else s.givesG h o.d (BitVec.ofNat 32 (a % 2 ^ 31 + if sg then 2 ^ 31 else 0)) 2)) ∧
  (∀ (h : Hdr) (o : FclsArgs) (s : State), s.Clear h o.regs →
    let f := (floatOf o.fmt).getD fmtF32
    exec (.fcls h o) s = .next (s.givesG h o.d (BitVec.ofNat 32 (2 ^ f.classOf ((s.rdG o.a).toNat % 2 ^ f.width))) 2))

/-! ## The vector block (05 R127 to R164) -/

/-- The bits of a v register that a masked result writes: the active lanes, and under MZ the inactive ones (R129). -/
def Claims.writes (gm : Word) (mz : Bool) : VReg := if mz then BitVec.allOnes 1024 else laneBits gm

/-- An element as the signed or unsigned integer of its width. -/
def Claims.asInt (w : Nat) (z : Bool) (x : Nat) : Int := if z = false ∧ 2 ^ w ≤ 2 * x then (x : Int) - 2 ^ w else x

/-- The low `w` bits of an integer. -/
def Claims.low (w : Nat) (v : Int) : Nat := (v % 2 ^ w).toNat

/-- The clamp of an integer to the signed or unsigned range of a width. -/
def Claims.clamp (w : Nat) (z : Bool) (v : Int) : Int :=
  if z then max 0 (min v (2 ^ w - 1)) else max (-2 ^ (w - 1)) (min v (2 ^ (w - 1) - 1))

/-- An instruction's one effect is a v register result, with these elements in the active lanes and zeros in the others, of
which MZ decides whether they are written. -/
def Claims.VecResult (i : Instr) (s : State) (h : Hdr) (d : Nat) (gm : Word) (mz : Bool) (lat w : Nat) (f : Nat → Nat) : Prop :=
  ∃ r : VReg, exec i s = .next (s.givesV h gm d (Claims.writes gm mz) r lat) ∧
    ∀ e, e < 1024 / w → elem r w e = if elemActive gm w e then f e % 2 ^ w else 0

/-- The same of a floating-point instruction: the flags are those of the active elements. -/
def Claims.VecFloat (i : Instr) (s : State) (h : Hdr) (d : Nat) (gm : Word) (mz : Bool) (lat w : Nat) (f : Nat → FRes) : Prop :=
  ∃ r : VReg, exec i s = .next (s.givesV h gm d (Claims.writes gm mz) r lat
      (BitVec.ofNat 32 (orFlags ((List.range (1024 / w)).map fun e => if elemActive gm w e then (f e).flags else 0)))) ∧
    ∀ e, e < 1024 / w → elem r w e = if elemActive gm w e then (f e).bits % 2 ^ w else 0

/-- An instruction's one effect is a result in an m register or a g register of the vector block. -/
def Claims.MaskResult (i : Instr) (s : State) (h : Hdr) (d : Nat) (bits : Word) (lat : Nat) (f : Nat → Bool) : Prop :=
  ∃ r : Word, exec i s = .next ((s.queues (s.resultV1 h (BitVec.allOnes 32) (.m d) (bits.setWidth 1024) (r.setWidth 1024) lat 0
      .none)).spends (addedCycles true h.prot)) ∧ ∀ k, k < 32 → r.getLsbD k = f k
def Claims.VecScalar (i : Instr) (s : State) (h : Hdr) (d : Nat) (gm v : Word) (lat : Nat) (flags : Word) : Prop :=
  exec i s = .next ((s.queues (s.resultV1 h gm (.g d) (lowBits 32) (v.setWidth 1024) lat flags .none)).spends (addedCycles true h.prot))

/-- R136, R137: the integer element operations, at latency 2 and without flags. -/
def Claims.VectorIntegerResults : Prop :=
  (∀ (h : Hdr) (o : VIntArgs) (s : State), s.Clear h o.regs →
    let w := widthOf o.w
    let is := fun (i : Instr) (f : Nat → Nat → Nat) => Claims.VecResult i s h o.d (s.rdM o.km) o.mz 2 w fun e =>
      f (elem (s.rdV o.a) w e) (s.vsrc o.b w e)
    is (.vadd h o) (fun a b => (a + b) % 2 ^ w) ∧ is (.vsub h o) (fun a b => Claims.low w ((a : Int) - b)) ∧
    is (.vmul h o) (fun a b => a * b % 2 ^ w) ∧ is (.vand h o) (fun a b => a &&& b) ∧ is (.vor h o) (fun a b => a ||| b) ∧
    is (.vxor h o) (fun a b => a ^^^ b) ∧ is (.vshl h o) (fun a k => if w ≤ k then 0 else a * 2 ^ k % 2 ^ w) ∧
    is (.vshr h o) (fun a k => if w ≤ k then 0 else a / 2 ^ k) ∧
    is (.vsar h o) (fun a k => Claims.low w (Claims.asInt w false a / 2 ^ min k w))) ∧
  (∀ (h : Hdr) (o : VIntZArgs) (s : State), s.Clear h o.regs →
    let w := widthOf o.w
    let is := fun (i : Instr) (f : Int → Int → Int) => Claims.VecResult i s h o.d (s.rdM o.km) o.mz 2 w fun e =>
      Claims.low w (f (Claims.asInt w o.z (elem (s.rdV o.a) w e)) (Claims.asInt w o.z (s.vsrc o.b w e)))
    is (.vmulh h o) (fun a b => a * b / 2 ^ w) ∧ is (.vmin h o) (fun a b => min a b) ∧ is (.vmax h o) (fun a b => max a b) ∧
    is (.vadds h o) (fun a b => Claims.clamp w o.z (a + b)) ∧ is (.vsubs h o) (fun a b => Claims.clamp w o.z (a - b))) ∧
  (∀ (h : Hdr) (o : VMadArgs) (s : State), s.Clear h o.regs →
    let w := widthOf o.w
    Claims.VecResult (.vmad h o) s h o.d (s.rdM o.km) o.mz 2 w fun e =>
      (elem (s.rdV o.d) w e + elem (s.rdV o.a) w e * s.vsrc o.b w e) % 2 ^ w) ∧
  (∀ (h : Hdr) (o : VabsArgs) (s : State), s.Clear h o.regs →
    let w := widthOf o.w
    Claims.VecResult (.vabs h o) s h o.d (s.rdM o.km) o.mz 2 w fun e => (Claims.asInt w false (elem (s.rdV o.a) w e)).natAbs)

/-- R138, R139, R145, R161: comparisons into m registers, VSEL, and the mask instructions. MFF gives 32 for an empty mask. -/
def Claims.VectorMaskResults : Prop :=
  (∀ (h : Hdr) (o : VcmpArgs) (s : State), s.Clear h o.regs →
    let gm := s.rdM o.km
    Claims.MaskResult (.vcmp h o) s h o.m (if o.mz then BitVec.allOnes 32 else gm) 2 fun i =>
      gm.getLsbD i && intCond o.cond (lane (s.rdV o.a) i) (lane (s.rdV o.b) i)) ∧
  (∀ (h : Hdr) (o : VfcmpArgs) (s : State), s.Clear h o.regs →
    let gm := s.rdM o.km
    Claims.MaskResult (.vfcmp h o) s h o.m (if o.mz then BitVec.allOnes 32 else gm) 2 fun i =>
      gm.getLsbD i && fmtF32.cond (fpCode o.cond) (lane (s.rdV o.a) i).toNat (lane (s.rdV o.b) i).toNat) ∧
  (∀ (h : Hdr) (o : VselArgs) (s : State), s.Clear h o.regs →
    let w := widthOf o.w
    Claims.VecResult (.vsel h o) s h o.d (BitVec.allOnes 32) false 2 w fun e =>
      if elemActive (s.rdM o.ms) w e then elem (s.rdV o.a) w e else s.vsrc o.b w e) ∧
  (∀ (h : Hdr) (o : MlogArgs) (s : State), s.Clear h o.regs →
    Claims.MaskResult (.mlog h o) s h o.m (BitVec.allOnes 32) 1 fun i =>
      logicFn o.f ((s.rdM o.a).getLsbD i) ((s.rdM o.b).getLsbD i)) ∧
  (∀ (h : Hdr) (o : MpopArgs) (s : State), s.Clear h o.regs →
    Claims.VecScalar (.mpop h o) s h o.d (BitVec.allOnes 32) (BitVec.ofNat 32 ((List.range 32).countP fun i => (s.rdM o.m).getLsbD i)) 1 0) ∧
  (∀ (h : Hdr) (o : MffArgs) (s : State), s.Clear h o.regs →
    let m := s.rdM o.m
    ∃ n : Nat, Claims.VecScalar (.mff h o) s h o.d (BitVec.allOnes 32) (BitVec.ofNat 32 n) 1 0 ∧
      (m = 0 → n = 32) ∧ (m ≠ 0 → n < 32 ∧ m.getLsbD n = true ∧
        ∀ i, i < 32 → m.getLsbD i = true → if o.last then i ≤ n else n ≤ i)) ∧
  (∀ (h : Hdr) (d a v : Nat) (s : State), s.Clear h (MmovArgs.regs (.mg d a)) →
    Claims.MaskResult (.mmov h (.mm d a)) s h d (BitVec.allOnes 32) 1 (fun i => (s.rdM a).getLsbD i) ∧
    Claims.MaskResult (.mmov h (.mg d a)) s h d (BitVec.allOnes 32) 1 (fun i => (s.rdG a).getLsbD i) ∧
    Claims.VecScalar (.mmov h (.gm d a)) s h d (BitVec.allOnes 32) (s.rdM a) 1 0 ∧
    Claims.MaskResult (.mmov h (.imm d v)) s h d (BitVec.allOnes 32) 1 (fun i => v.testBit i))

/-- R155 to R158: the lane moves. VCMPRS writes as many of the lowest lanes as the mask has active ones; VINS writes its element
alone. -/
def Claims.VectorLaneMoves : Prop :=
  (∀ (h : Hdr) (o : VpermArgs) (s : State), s.Clear h o.regs →
    let w := widthOf o.w
    Claims.VecResult (.vperm h o) s h o.d (s.rdM o.km) o.mz 2 w fun e => elem (s.rdV o.a) w (elem (s.rdV o.b) w e % (1024 / w))) ∧
  (∀ (h : Hdr) (o : VshufArgs) (s : State), s.Clear h o.regs →
    let w := widthOf o.w
    let n := 1024 / w
    Claims.VecResult (.vshuf h o) s h o.d (s.rdM o.km) o.mz 2 w fun e =>
      let x := elem (s.rdV o.d) w e % (2 * n)
      if x < n then elem (s.rdV o.a) w x else elem (s.rdV o.b) w (x - n)) ∧
  (∀ (h : Hdr) (o : VbcstArgs) (s : State), s.Clear h o.regs →
    let w := widthOf o.w
    Claims.VecResult (.vbcst h o) s h o.d (s.rdM o.km) o.mz 2 w fun _ => match o.src with
      | .elem a i => elem (s.rdV a) w i
      | .gs g => (s.rdG g).toNat
      | .imm v => v) ∧
  (∀ (h : Hdr) (o : VextArgs) (s : State), s.Clear h o.regs →
    let w := widthOf o.w
    Claims.VecScalar (.vext h o) s h o.d (BitVec.allOnes 32)
      (BitVec.ofInt 32 (Claims.asInt w o.z (elem (s.rdV o.a) w (s.vidx o.idx (1024 / w))))) 2 0) ∧
  (∀ (h : Hdr) (o : VinsArgs) (s : State), s.Clear h o.regs →
    let w := widthOf o.w
    let e := s.vidx o.idx (1024 / w)
    exec (.vins h o) s = .next (s.givesV h (BitVec.allOnes 32) o.d (BitVec.ofNat 1024 ((2 ^ w - 1) * 2 ^ (w * e)))
      (BitVec.ofNat 1024 ((s.rdG o.g).toNat % 2 ^ w * 2 ^ (w * e))) 2)) ∧
  (∀ (h : Hdr) (o : ViotaArgs) (s : State), s.Clear h o.regs →
    let gm := s.rdM o.km
    Claims.VecResult (.viota h o) s h o.d gm o.mz 2 32 fun i => (List.range i).countP fun j => gm.getLsbD j) ∧
  (∀ (h : Hdr) (o : VcmprsArgs) (s : State), s.Clear h o.regs →
    let gm := s.rdM o.km
    let act := (List.range 32).filter fun i => gm.getLsbD i
    (∃ low : Word, (∀ i, i < 32 → low.getLsbD i = decide (i < act.length)) ∧
      Claims.VecResult (.vcmprs h o) s h o.d low o.mz 2 32 fun i => elem (s.rdV o.a) 32 (act.getD i 0)) ∧
    Claims.VecResult (.vexpnd h o) s h o.d gm o.mz 2 32 fun i =>
      elem (s.rdV o.a) 32 ((List.range i).countP fun j => gm.getLsbD j)) ∧
  (∀ (h : Hdr) (o : VmovxArgs) (s : State), s.Clear h o.regs →
    Claims.VecResult (.vmovx h o) s h o.d (s.rdM o.km) o.mz 2 32 fun i => elem (s.rdV o.a) 32 i)

/-- R140 to R143, R146: the floating-point element operations with their latencies; the values are those of the model's exact
arithmetic rounded once (`Flags.lean`, `Blocks.lean`). -/
def Claims.VectorFloatResults : Prop :=
  (∀ (h : Hdr) (o : VFBinArgs) (s : State), s.Clear h o.regs →
    let f := vfmt o.f
    let is := fun (i : Instr) (lat : Nat) (op : Nat → Nat → FRes) => Claims.VecFloat i s h o.d (s.rdM o.km) o.mz lat f.width fun e =>
      op (elem (s.rdV o.a) f.width e) (s.vsrc o.b f.width e)
    is (.vfadd h o) 5 (f.addOp s.vrm) ∧ is (.vfsub h o) 5 (f.subOp s.vrm) ∧ is (.vfmul h o) 5 (f.mulOp s.vrm) ∧
    is (.vfmin h o) 2 (f.minMax false) ∧ is (.vfmax h o) 2 (f.minMax true) ∧ is (.vfdiv h o) 14 (f.divOp s.vrm)) ∧
  (∀ (h : Hdr) (o : VFmaArgs) (s : State), s.Clear h o.regs →
    let f := vfmt o.f
    Claims.VecFloat (.vfma h o) s h o.d (s.rdM o.km) o.mz 5 f.width fun e =>
      f.fmaOp s.vrm (elem (s.rdV o.a) f.width e) (s.vsrc o.b f.width e) (elem (s.rdV o.d) f.width e)) ∧
  (∀ (h : Hdr) (o : VFUnArgs) (s : State), s.Clear h o.regs →
    let f := vfmt o.f
    let is := fun (i : Instr) (lat : Nat) (op : Nat → FRes) => Claims.VecFloat i s h o.d (s.rdM o.km) o.mz lat f.width fun e =>
      op (elem (s.rdV o.a) f.width e)
    is (.vfsqrt h o) 14 (f.sqrtOp s.vrm) ∧ is (.vfexp2 h o) 8 (fun a => f.round s.vrm false (f.decode a).exp2) ∧
    is (.vflog2 h o) 8 (f.log2Op s.vrm)) ∧
  (∀ (h : Hdr) (o : VfsgnArgs) (s : State), s.Clear h o.regs →
    let f := vfmt o.f
    Claims.VecFloat (.vfsgn h o) s h o.d (s.rdM o.km) o.mz 2 f.width fun e =>
      f.sgn (signCode o.op) (elem (s.rdV o.a) f.width e) (elem (s.rdV o.b) f.width e))

/-- R147 to R151, R159, R160: conversion, block encoding and decoding, scaling, the generator, and the dot products. VCVT and VQENC
write their part of the register alone. -/
def Claims.VectorConversionResults : Prop :=
  (∀ (h : Hdr) (o : VcvtArgs) (s : State), s.Clear h o.regs →
    let wf := fmtWidth o.frm
    let wt := fmtWidth o.dto
    let rs := (List.range 32).map fun e => convert o.dto o.frm (s.rmode o.rm) o.sat (elem (s.rdV o.a) wf (partIndex wf o.part e))
    let at_ := wt * partIndex wt o.part 0
    exec (.vcvt h o) s = .next (s.givesV h (BitVec.allOnes 32) o.d (BitVec.ofNat 1024 ((2 ^ (wt * 32) - 1) * 2 ^ at_))
      (BitVec.ofNat 1024 (packElems wt (rs.map (·.bits)) * 2 ^ at_)) 5 (BitVec.ofNat 32 (orFlags (rs.map (·.flags)))))) ∧
  (∀ (h : Hdr) (o : VqencArgs) (s : State), s.Clear h o.regs →
    let xs := (List.range 32).map fun i => (lane (s.rdV o.a) i).toNat
    let rm := requantRm (s.strm.fcsr.toNat % 8)
    let all := BitVec.allOnes 32
    (o.fmt = .l4x → exec (.vqenc h o) s = .next (s.givesV h all o.d (BitVec.ofNat 1024 ((2 ^ 144 - 1) * 2 ^ (144 * o.k)))
      (BitVec.ofNat 1024 (packElems 8 ((encodeL4x rm xs).1.map (·.toNat)) * 2 ^ (144 * o.k))) 5 (BitVec.ofNat 32 (encodeL4x rm xs).2))) ∧
    (o.fmt ≠ .l4x →
      let b := encodeBlock (blockFmt o.fmt) rm xs
      exec (.vqenc h o) s = .next (((s.queues (s.resultV1 h all (.v o.d) (BitVec.ofNat 1024 ((2 ^ 256 - 1) * 2 ^ (256 * o.k)))
        (BitVec.ofNat 1024 (packElems 8 b.elems * 2 ^ (256 * o.k))) 5 (BitVec.ofNat 32 b.flags) .none)).queues
        (s.resultV1 h all (.g o.g) (lowBits 32) ((BitVec.ofNat 32 b.scale).setWidth 1024) 5 0 .none)).spends (addedCycles true h.prot)))) ∧
  (∀ (h : Hdr) (o : VqdecArgs) (s : State), s.Clear h o.regs →
    let v := s.rdV o.a
    let blk := if o.fmt = .l4x then decodeL4x ((List.range 18).map fun i => BitVec.ofNat 8 (elem v 8 (18 * o.k + i)))
      else ((s.rdG o.g).toNat % 256, (List.range 32).map fun e => blockElem o.fmt (elem v 8 (32 * o.k + e)), 0)
    let rs := blk.2.1.map fun x => fmtF32.round s.vrm false (x.e8 blk.1)
    exec (.vqdec h o) s = .next (s.givesV h (BitVec.allOnes 32) o.d (BitVec.allOnes 1024)
      (BitVec.ofNat 1024 (packElems 32 (rs.map (·.bits)))) 5 (BitVec.ofNat 32 (orFlags (blk.2.2 :: rs.map (·.flags)))))) ∧
  (∀ (h : Hdr) (o : VsclArgs) (s : State), s.Clear h o.regs →
    let f := vfmt o.f
    Claims.VecFloat (.vscl h o) s h o.d (s.rdM o.km) o.mz 5 f.width fun e =>
      f.round s.vrm false ((f.decode (elem (s.rdV o.a) f.width e)).e8 (s.sclScale o.b e))) ∧
  (∀ (h : Hdr) (o : VrndArgs) (s : State), s.Clear h o.regs →
    let x := fun i => (generate (lane (s.rdV o.a) i) (s.regImm o.key)).toNat
    Claims.VecResult (.vrnd h o) s h o.d (s.rdM o.km) o.mz 6 32 fun i =>
      if o.f then (fmtF32.round 0 false (.fin false (x i / 256) (-24))).bits else x i) ∧
  (∀ (h : Hdr) (o : VdotArgs) (s : State), s.Clear h o.regs →
    Claims.VecFloat (.vdot h o) s h o.d (s.rdM o.km) o.mz 5 32 fun i =>
      dotLane o.ty s.vrm (lane (s.rdV o.a) i).toNat (lane (s.rdV o.b) i).toNat (lane (s.rdV o.d) i).toNat)

/-- R50, R51, R152 to R154: reductions by the tree of five levels, inclusive scans, and sorting of keys with their values: numbers in
order, then NaN keys, then the inactive lanes, each in lane order where keys are equal. -/
def Claims.VectorReductions : Prop :=
  (∀ (h : Hdr) (o : VredArgs) (s : State), s.Clear h o.regs →
    let step := redLevel o.op o.ty
    let leaves : List FRes := (redInputs o.op o.ty (s.rdM o.km) (s.rdV o.a)).map fun x => ⟨x, 0⟩
    ∃ r : FRes, step (step (step (step (step leaves)))) = [r] ∧
      Claims.VecScalar (.vred h o) s h o.d (s.rdM o.km) (BitVec.ofNat 32 r.bits) 9 (BitVec.ofNat 32 r.flags)) ∧
  (∀ (h : Hdr) (o : VscanArgs) (s : State), s.Clear h o.regs →
    let gm := s.rdM o.km
    let rs := scanFrom o.op o.ty (redIdentity o.op o.ty) (redInputs o.op o.ty gm (s.rdV o.a))
    ∃ (r : VReg) (fl : Word), exec (.vscan h o) s = .next (s.givesV h gm o.d (Claims.writes gm o.mz) r 12 fl) ∧
      ∀ i, i < 32 → elem r 32 i = if gm.getLsbD i then (rs.getD i ⟨0, 0⟩).bits % 2 ^ 32 else 0) ∧
  (∀ (h : Hdr) (o : VsortArgs) (s : State), s.Clear h o.regs →
    let key := fun (j : Nat) => sortKey o.ty (lane (s.rdV o.a) j).toNat
    let cls := fun (j : Nat) => if !((s.rdM o.km).getLsbD j) then 2 else if (key j).isNone then 1 else 0
    ∃ (ks vs : VReg) (fl : Word) (at_ : List Nat), at_.Perm (List.range 32) ∧
      at_.Pairwise (fun i j => cls i < cls j ∨ (cls i = cls j ∧
        if cls i = 0 ∧ key i ≠ key j then ∃ x ∈ key i, ∃ y ∈ key j, (if o.dn then y < x else x < y) else i < j)) ∧
      (∀ i, i < 32 → let j := at_.getD i 0
        lane vs i = lane (s.rdV o.b) j ∧
        lane ks i = if cls j = 1 then 0x7FC00000 else lane (s.rdV o.a) j) ∧
      exec (.vsort h o) s = .next (((s.queues (s.resultV1 h (BitVec.allOnes 32) (.v o.d) (BitVec.allOnes 1024) ks 16 fl .none)).queues
        (s.resultV1 h (BitVec.allOnes 32) (.v (o.d + 1)) (BitVec.allOnes 1024) vs 16 0 .none)).spends (addedCycles true h.prot)))

/-! ## Branches, loops, END and local memory (04 R109 to R126, 05 R162 to R164, 09 R229 to R232) -/

/-- A prepared target queued as a result of latency 1: its copies are compared at issue, and it lands as plain (R84). -/
def Claims.givesB (s : State) (h : Hdr) (b : Nat) (t : Pos) (hint : Bool) : State :=
  (s.queues ⟨.b b, 1, [⟨BitVec.ofNat 1024 (t.line * 16 + t.slot + if hint then 2 ^ 32 else 0), 0, .none, lowBits 33, 0, true⟩], s.strm.pos, 0,
    h.slot, 1, false⟩).spends (addedCycles false h.prot)

/-- The bundle branches: it is noted for the end of its issue. -/
def Claims.branches (s : State) (h : Hdr) (t : Pos) (prepared : Bool) : State := (s.take t prepared).spends (addedCycles false h.prot)

/-- R111 to R116: PBR and PBRG write a target; BR, CALL and RET branch to the target of their b register, prepared where it landed three
issue cycles before or where the return predictor matches; CALL links the point after its bundle. -/
def Claims.BranchInstructions : Prop :=
  (∀ (h : Hdr) (o : PbrArgs) (s : State), s.Clear h o.regs → exec (.pbr h o) s =
    .next (Claims.givesB s h o.b ⟨(((s.strm.pos.line : Int) + (BitVec.ofNat 24 o.loff).toInt) % 2 ^ 28).toNat, o.slot⟩ o.h)) ∧
  (∀ (h : Hdr) (o : PbrgArgs) (s : State), s.Clear h o.regs →
    let v := (s.rdG o.g).toNat
    exec (.pbrg h o) s = .next (if 10 < v % 16 then s.takeTrap 1 (sylVal (.pbrg h o)) false h.slot h.prot false
      else Claims.givesB s h o.b ⟨v / 16, v % 16⟩ o.h)) ∧
  (∀ (h : Hdr) (o : BrArgs) (s : State), s.Clear h o.regs →
    let t := (s.rdB o.b).target
    let early := (s.rdB o.b).landed.all fun c => decide (c + 3 ≤ s.strm.cyc)
    exec (.br h o) s = .next (Claims.branches s h t early) ∧
    exec (.ret h o) s = .next (match s.strm.predictor with
      | [] => Claims.branches s h t early
      | p :: rest => if p = t then { Claims.branches s h t true with strm := { (Claims.branches s h t true).strm with predictor := rest } }
        else { Claims.branches s h t early with strm := { (Claims.branches s h t early).strm with predictor := [] } })) ∧
  (∀ (h : Hdr) (o : CallArgs) (s : State), s.Clear h o.regs →
    let early := (s.rdB o.b).landed.all fun c => decide (c + 3 ≤ s.strm.cyc)
    let t := Claims.givesB (s.take (s.rdB o.b).target early) h o.d s.afterBundle false
    exec (.call h o) s = .next { t with strm := { t.strm with predictor := (s.afterBundle :: s.strm.predictor).take 8 } })

/-- R117 to R123: the hardware loops and END. A LOOP or LBRK whose end bundle's line is not reachable raises LINE_CLASS and changes no
level. END ends the stream, unless a posted request of it was lost, which is raised (20 R459). -/
def Claims.LoopInstructions : Prop :=
  (∀ (h : Hdr) (o : LoopArgs) (s : State), s.Clear h o.regs →
    let e := (s.rdB o.b).target
    let l := s.rdLc o.lc
    (s.rdG o.g ≠ 0 → exec (.loop h o) s = .next (((s.putLc o.lc { l with active := true, count := s.rdG o.g, first := s.afterBundle, last := e }).setLatch
      fun x => { x with lcNew := o.lc :: x.lcNew }).spends (addedCycles false h.prot))) ∧
    (s.rdG o.g = 0 → exec (.loop h o) s = .next (match s.following e with
      | none => s.takeTrap 2 e.line false h.slot h.prot false
      | some p => Claims.branches (s.putLc o.lc { l with active := false }) h p true))) ∧
  (∀ (h : Hdr) (o : LbrkArgs) (s : State), s.Clear h o.regs →
    let l := s.rdLc o.lc
    (l.active = false → exec (.lbrk h o) s = .next (s.spends (addedCycles false h.prot))) ∧
    (l.active = true → exec (.lbrk h o) s = .next (match s.following l.last with
      | none => s.takeTrap 2 l.last.line false h.slot h.prot false
      | some p => Claims.branches (s.putLc o.lc { l with active := false }) h p true))) ∧
  (∀ (h : Hdr) (o : LdltArgs) (s : State), s.Clear h o.regs → exec (.ldlt h o) s =
    .next ((s.queues ⟨.delta o.lc o.a, 1, [⟨(s.regImm o.v).setWidth 1024, 0, .none, lowBits 32, 0, true⟩], s.strm.pos, 0, 0, 1, false⟩).spends
      (addedCycles false h.prot))) ∧
  (∀ (h : Hdr) (o : LdltClrArgs) (s : State), s.Clear h o.regs → exec (.ldltClr h o) s =
    .next ((s.queues ⟨.deltaClr o.lc, 1, [⟨0, 0, .none, lowBits 32, 0, true⟩], s.strm.pos, 0, 0, 1, false⟩).spends (addedCycles false h.prot))) ∧
  (∀ (h : Hdr) (o : NoArgs) (s : State), s.Clear h o.regs →
    (s.strm.lost = [] → exec (.endOp h o) s = .next ((s.setLatch fun l => { l with ended := true }).spends (addedCycles false h.prot))) ∧
    (∀ r c rest, s.strm.lost = (r, c) :: rest → exec (.endOp h o) s =
      .next ((s.setStrm fun x => { x with lost := rest }).takeTrap c r false h.slot h.prot false)))

/-- R110: after a bundle, a taken branch's target is next, after a stall of 3 ac unless the branch is prepared; without a branch, END or a
loop-back the next bundle of the line is. -/
def Claims.NextPosition : Prop :=
  ∀ (s : State) (p : Pos) (nxt : Nat),
    (∀ q, s.strm.latch.taken = some q → s.moveOn p nxt =
      { s with strm := { s.strm with stall := s.strm.stall + (if s.strm.latch.prepared then 0 else 3), pos := q } }) ∧
    (s.strm.latch.taken = none → (s.strm.handler ∨ ∀ n, n < 3 → (s.rdLc n).active = false ∨ (s.rdLc n).last ≠ p) →
      s.moveOn p nxt = { s with strm := { s.strm with pos := ⟨p.line, nxt⟩ } })

/-- R119, R120: the hardware loops at the end of a bundle. A level takes part where it is active, ends at the bundle and did not begin in
it (R118). The levels are examined from 2 down: one with more than one round left goes back to its start, with its count down by one
and its deltas added to the a registers as they stand at the end bundle's issue, by results of latency 1 that are issued after every
instruction of the bundle; those before it with one round left become inactive, and the others stay. Where no level goes back, each
that takes part becomes inactive and the next bundle of the line follows. A bundle that takes a branch or executes END, and one of a
handler (R367), changes no level. No physical error strikes the loop's registers (17 R413). -/
def Claims.LoopBack : Prop :=
  ∀ (s : State) (p : Pos) (nxt : Nat), s.strm.upsets = [] →
    let hit := fun n : Nat => (s.rdLc n).active && decide ((s.rdLc n).last = p) && !(s.strm.latch.lcNew.contains n)
    let exits := fun n : Nat => if hit n then { s.rdLc n with active := false } else s.rdLc n
    let t := s.moveOn p nxt
    (s.strm.latch.taken = none → s.strm.latch.ended = false → s.strm.handler = false →
      (∀ k, k < 3 → hit k = true → 1 < (s.rdLc k).count.toNat → (∀ m, k < m → m < 3 → hit m = true → (s.rdLc m).count.toNat ≤ 1) →
        t = { s with strm := { s.strm with
          lc := t.strm.lc
          flight := s.strm.flight ++ (s.rdLc k).delta.map fun (j, d) => ⟨.a j, 1,
            [⟨(s.rdA j + d.signExtend 64).setWidth 1024, 0, .none, lowBits 64, 0, true⟩], s.strm.pos, 0, 0, 1, false⟩
          pos := (s.rdLc k).first } } ∧
        ∀ n, t.rdLc n = if n = k then { s.rdLc k with count := (s.rdLc k).count - 1 } else if k < n ∧ n < 3 then exits n else s.rdLc n) ∧
      ((∀ m, m < 3 → hit m = true → (s.rdLc m).count.toNat ≤ 1) →
        t = { s with strm := { s.strm with lc := t.strm.lc, pos := ⟨p.line, nxt⟩ } } ∧
        ∀ n, t.rdLc n = if n < 3 then exits n else s.rdLc n)) ∧
    (s.strm.latch.taken.isSome ∨ s.strm.latch.ended = true ∨ s.strm.handler = true → t.strm.lc = s.strm.lc ∧ t.strm.flight = s.strm.flight)

/-- A byte of local memory that a load can reach: the window, or a tile (R229). -/
def Claims.Mapped (s : State) (a : Nat) : Prop := a < winSize s.core.pool ∨ (0x1000000 ≤ a ∧ a < 0x1000000 + 0x10000 * poolT s.core.pool)

/-- A range lies in the window, or in tiles of which none is busy (R229, R230). -/
def Claims.Loads (s : State) (a n : Nat) : Prop := a + n ≤ winSize s.core.pool ∨
  (0x1000000 ≤ a ∧ a + n ≤ 0x1000000 + 0x10000 * poolT s.core.pool ∧
    ∀ i, i < n → s.busyTiles.contains ((a + i - 0x1000000) / 0x10000) = false)

/-- A range without poison, read by a stream without an outstanding acquire (R376, R259). -/
def Claims.Readable (s : State) (a n : Nat) : Prop := Claims.Loads s a n ∧ s.core.poisoned a n = false ∧ s.acquiring = false

/-- A range that a store of the issuing stream may write: in the window, and with room in the commit buffer for a speculative task (R379). -/
def Claims.Writable (s : State) (a n : Nat) : Prop := a + n ≤ winSize s.core.pool ∧ s.acquiring = false ∧
  (s.specSlot = none ∨ s.core.commitUsed + n ≤ 65536)

/-- R124 to R126: LD and LDA give the bytes at the effective address after 8 issue cycles, extended as the form says; M = 1 also
updates the base register. -/
def Claims.LocalLoads : Prop :=
  (∀ (h : Hdr) (o : LdArgs) (s : State), s.Clear h o.regs →
    let n := 2 ^ o.sz
    let ea := if o.m then s.rdA o.a else s.rdA o.a + BitVec.ofInt 64 (offVal o.off)
    let v := natOfBytes ((List.range n).map fun i => s.localByte (ea.toNat + i))
    Claims.Readable s ea.toNat n → exec (.ld h o) s = .next (((s.bumps h false o.a o.m o.off).queues
      (s.result1 h (.g o.d) (lowBits 32) ((if o.z then BitVec.ofNat 32 v else BitVec.ofInt 32 (sextNat (8 * n) v) : Word).setWidth 1024) 8 0
        .none)).spends (addedCycles false h.prot))) ∧
  (∀ (h : Hdr) (o : LdaArgs) (s : State), s.Clear h o.regs →
    let ea := if o.m then s.rdA o.a else s.rdA o.a + BitVec.ofInt 64 (offVal o.off)
    let v := natOfBytes ((List.range 8).map fun i => s.localByte (ea.toNat + i))
    Claims.Readable s ea.toNat 8 → exec (.lda h o) s = .next (((s.bumps h false o.a o.m o.off).queues
      (s.result1 h (.a o.d) (lowBits 64) ((BitVec.ofNat 64 v).setWidth 1024) 8 0 .none)).spends (addedCycles false h.prot)))

/-- R124 to R126: ST and STA write the low bytes of their register at the effective address and no other byte of local memory; M = 1
also updates the base register. -/
def Obligations.LocalStores : Prop :=
  (∀ (h : Hdr) (o : StArgs) (s : State), s.Clear h o.regs →
    let n := 2 ^ o.sz
    let ea := if o.m then s.rdA o.a else s.rdA o.a + BitVec.ofInt 64 (offVal o.off)
    Claims.Writable s ea.toNat n → ∃ u : State, exec (.st h o) s = .next ((u.bumps h false o.a o.m o.off).spends (addedCycles false h.prot)) ∧
      s.SameButLocal u ∧ ∀ a, u.localByte a = if ea.toNat ≤ a ∧ a < ea.toNat + n then BitVec.ofNat 8 ((s.rdG o.g).toNat / 256 ^ (a - ea.toNat))
        else s.localByte a) ∧
  (∀ (h : Hdr) (o : StaArgs) (s : State), s.Clear h o.regs →
    let ea := if o.m then s.rdA o.a else s.rdA o.a + BitVec.ofInt 64 (offVal o.off)
    Claims.Writable s ea.toNat 8 → ∃ u : State, exec (.sta h o) s = .next ((u.bumps h false o.a o.m o.off).spends (addedCycles false h.prot)) ∧
      s.SameButLocal u ∧ ∀ a, u.localByte a = if ea.toNat ≤ a ∧ a < ea.toNat + 8 then BitVec.ofNat 8 ((s.rdA o.s).toNat / 256 ^ (a - ea.toNat))
        else s.localByte a)

/-- R229: an access of which a byte falls in a hole raises WIN_CROSS (9) with its first such byte and performs nothing; a store reaches
no tile. -/
def Claims.LocalFaults : Prop :=
  (∀ (h : Hdr) (o : LdArgs) (s : State), s.Clear h o.regs →
    let ea := (if o.m then s.rdA o.a else s.rdA o.a + BitVec.ofInt 64 (offVal o.off)).toNat
    ∀ v, ea ≤ v → v < ea + 2 ^ o.sz → ¬ Claims.Mapped s v → (∀ b, ea ≤ b → b < v → Claims.Mapped s b) →
      exec (.ld h o) s = .next (s.takeTrap 9 v false h.slot h.prot false)) ∧
  (∀ (h : Hdr) (o : StArgs) (s : State), s.Clear h o.regs →
    let ea := (if o.m then s.rdA o.a else s.rdA o.a + BitVec.ofInt 64 (offVal o.off)).toNat
    winSize s.core.pool < ea + 2 ^ o.sz →
      exec (.st h o) s = .next (s.takeTrap 9 (max ea (winSize s.core.pool)) false h.slot h.prot false))

/-- The lanes of a mask register with their addresses. -/
def Claims.laneParts (s : State) (km : Nat) (addr : Nat → Addr) : List FarPart :=
  ((List.range 32).filter fun i => (s.rdM km).getLsbD i).map fun i => ⟨4 * i, (addr i).toNat, 4⟩

/-- R162, R163: vector loads. VLD gives the 128 bytes at its address; VLDS and VLDX give in each active lane the word at the lane's
address and write no other lane. Rows of one bank add clocks (R231). All the lanes lie in the window, or all of them in tiles of which
none is busy; where some lie in the window and others do not, WIN_CROSS is raised and nothing is performed (R229). -/
def Claims.VectorLoads : Prop :=
  let loads := fun (i : Instr) (s : State) (h : Hdr) (d : Nat) (gm : Word) (parts : List FarPart) (bump : State → State) =>
    ((∀ p ∈ parts, s.core.poisoned p.va p.n = false) → s.acquiring = false →
      ((∀ p ∈ parts, p.va + p.n ≤ winSize s.core.pool) ∨
        ∀ p ∈ parts, winSize s.core.pool < p.va + p.n ∧ Claims.Loads s p.va p.n) →
      ∃ r : VReg, exec i s = .next (((bump (s.queues (s.resultV1 h gm (.v d) (laneBits gm) r 8 0 .none))).stallFor
          (parts.map fun p => (p.va, p.n))).spends (addedCycles true h.prot)) ∧
        ∀ p ∈ parts, ∀ j, j < p.n → elem r 8 (p.off + j) = (s.localByte (p.va + j)).toNat) ∧
    ((∃ p ∈ parts, p.va + p.n ≤ winSize s.core.pool) → (∃ p ∈ parts, winSize s.core.pool < p.va + p.n) →
      ∃ v, exec i s = .next (s.takeTrap 9 v false h.slot h.prot false))
  (∀ (h : Hdr) (o : VldArgs) (s : State), s.Clear h o.regs →
    let ea := if o.m then s.rdA o.a else s.rdA o.a + BitVec.ofInt 64 (offVal o.off)
    loads (.vld h o) s h o.v (BitVec.allOnes 32) [⟨0, ea.toNat, 128⟩] fun t => t.bumps h true o.a o.m o.off) ∧
  (∀ (h : Hdr) (o : VldsArgs) (s : State), s.Clear h o.regs → loads (.vlds h o) s h o.v (s.rdM o.km)
    (Claims.laneParts s o.km fun i => s.rdA o.a + BitVec.ofInt 64 (i * strideVal o.stride)) id) ∧
  (∀ (h : Hdr) (o : VldxArgs) (s : State), s.Clear h o.regs → loads (.vldx h o) s h o.v (s.rdM o.km)
    (Claims.laneParts s o.km fun i => s.rdA o.a + (if o.z then (lane (s.rdV o.vi) i).setWidth 64 else (lane (s.rdV o.vi) i).signExtend 64) <<< o.sh)
    id)

/-- R162 to R164: vector stores write the bytes of their lanes in ascending order, so that where two lanes meet the higher one's byte
remains, and no other byte of local memory. -/
def Claims.VectorStores : Prop :=
  let stores := fun (i : Instr) (s : State) (h : Hdr) (v : VReg) (parts : List FarPart) (bump : State → State) =>
    (∀ p ∈ parts, p.va + p.n ≤ winSize s.core.pool) → s.acquiring = false →
    (s.specSlot = none ∨ (s.writeParts v parts).isSome) →
    ∃ u : State, exec i s = .next (((bump u).stallFor (parts.map fun p => (p.va, p.n))).spends (addedCycles true h.prot)) ∧ s.SameButLocal u ∧
      ∀ a, u.localByte a = match (parts.filter fun p => p.va ≤ a && a < p.va + p.n).getLast? with
        | some p => BitVec.ofNat 8 (v.toNat / 256 ^ (p.off + (a - p.va)))
        | none => s.localByte a
  (∀ (h : Hdr) (o : VstArgs) (s : State), s.Clear h o.regs →
    let ea := if o.m then s.rdA o.a else s.rdA o.a + BitVec.ofInt 64 (offVal o.off)
    stores (.vst h o) s h (s.rdV o.v) [⟨0, ea.toNat, 128⟩] fun t => t.bumps h true o.a o.m o.off) ∧
  (∀ (h : Hdr) (o : StfsArgs) (s : State), s.Clear h o.regs → stores (.vsts h o) s h (s.rdV o.v)
    (Claims.laneParts s o.km fun i => s.rdA o.a + BitVec.ofInt 64 (i * strideVal o.stride)) id) ∧
  (∀ (h : Hdr) (o : StfxArgs) (s : State), s.Clear h o.regs → stores (.vstx h o) s h (s.rdV o.v)
    (Claims.laneParts s o.km fun i => s.rdA o.a + (if o.z then (lane (s.rdV o.vi) i).setWidth 64 else (lane (s.rdV o.vi) i).signExtend 64) <<< o.sh)
    id)

/-! ## Full/empty words, barriers, notify registers and queues (11 R278 to R291) -/

/-- The effective address of an access with a base register, an offset and M (R125). -/
def Claims.ea (s : State) (a : Nat) (m : Bool) (off : Off) : Nat := (if m then s.rdA a else s.rdA a + BitVec.ofInt 64 (offVal off)).toNat

/-- R281: the full/empty instructions on an aligned word of the window. LDFE and LDFF complete where the word is full, and LDFE empties
it; STEF completes where it is empty, STFF always, and both fill it after every earlier access of the stream has performed (R259); FEST
reads the bit; FECLR empties n words. A speculative task sees its own changes (R273). -/
def Obligations.FullEmptyInstructions : Prop :=
  (∀ (h : Hdr) (o : FeLdArgs) (s : State), s.Clear h o.regs →
    let ea := Claims.ea s o.a o.m o.off
    ea % 4 = 0 → ea + 4 ≤ winSize s.core.pool → s.acquiring = false →
    let got := (((s.bumps h false o.a o.m o.off).queues (s.result1 h (.g o.d) (lowBits 32) ((BitVec.ofNat 32 (s.localNat ea 4)).setWidth 1024) 8 0
      .none)))
    (s.emptyWord ea = false → s.core.poisoned ea 4 = false →
      exec (.ldfe h o) s = .next ((got.setEmpty ea true).spends (addedCycles false h.prot)) ∧
      exec (.ldff h o) s = .next (got.spends (addedCycles false h.prot))) ∧
    (s.emptyWord ea = true → exec (.ldfe h o) s = .next (s.setLatch fun l => { l with wait := true }) ∧
      exec (.ldff h o) s = .next (s.setLatch fun l => { l with wait := true })) ∧
    exec (.fest h o) s = .next (((s.bumps h false o.a o.m o.off).queues (s.result1 h (.g o.d) (lowBits 32)
      ((if s.emptyWord ea then 0 else 1 : Word).setWidth 1024) 8 0 .none)).spends (addedCycles false h.prot))) ∧
  (∀ (h : Hdr) (o : FeStArgs) (s : State), s.Clear h o.regs →
    let ea := Claims.ea s o.a o.m o.off
    let n := (s.rdG o.g).toNat % 0x1000 + 1
    ea % 4 = 0 → s.acquiring = false →
    (ea + 4 ≤ winSize s.core.pool → s.released false = true → (s.specSlot = none ∨ s.core.commitUsed + 4 ≤ 65536) →
      ∃ u : State, s.SameButLocal u ∧
        (∀ a, u.localByte a = if ea ≤ a ∧ a < ea + 4 then BitVec.ofNat 8 ((s.rdG o.g).toNat / 256 ^ (a - ea)) else s.localByte a) ∧
        let t := ((u.bumps h false o.a o.m o.off).setEmpty ea false).spends (addedCycles false h.prot)
        exec (.stff h o) s = .next t ∧
        (s.emptyWord ea = true → exec (.stef h o) s = .next t) ∧
        (s.emptyWord ea = false → exec (.stef h o) s = .next (s.setLatch fun l => { l with wait := true }))) ∧
    (ea + 4 * n ≤ winSize s.core.pool → ∃ u : State,
      exec (.feclr h o) s = .next ((u.stallFor [(ea, 4 * n)]).spends (addedCycles false h.prot)) ∧
      (let b := s.bumps h false o.a o.m o.off
       u = { b with core := { b.core with feEmpty := u.core.feEmpty, commitFe := u.core.commitFe } }) ∧
      ∀ a, u.emptyWord a = if ea / 4 ≤ a / 4 ∧ a / 4 < ea / 4 + n then true else s.emptyWord a)) ∧
  (∀ (s : State) (a b : Nat) (e : Bool),
    let t := s.setEmpty a e
    t = { s with core := { s.core with feEmpty := t.core.feEmpty, commitFe := t.core.commitFe } } ∧
    t.emptyWord b = (if b / 4 = a / 4 then e else s.emptyWord b) ∧
    (s.specSlot = none → s.emptyWord b = SMap.get false (b / 4) s.core.feEmpty ∧
      ∀ w, SMap.get false w t.core.feEmpty = if w = a / 4 then e else SMap.get false w s.core.feEmpty) ∧
    (s.specSlot ≠ none → t.core.feEmpty = s.core.feEmpty))

/-- R282 to R286: BARR arrives at a barrier word of this core after the stream's earlier accesses: the count goes up by one, and the last
arrival clears it and raises the phase; its result is the old phase (that of a speculative task waits, log 98). BWAIT completes where the phase has moved on. A remote one
completes with the answer. NOTIFY is sent after the stream's earlier accesses; WAITN takes the awaited bits. -/
def Obligations.BarrierInstructions : Prop :=
  (∀ (h : Hdr) (o : BarrArgs) (s : State), s.Clear h o.regs → ∀ a, s.spCheck o.sp o.a o.m (.field16 o.off) 8 8 = .ok (none, a) →
    s.acquiring = false → s.specSlot = none → s.released true = true →
    let count := (Memory.readNat s.core.loc a 4 + 1) % 2 ^ 32
    let phase := Memory.readNat s.core.loc (a + 4) 4
    let new := if (s.rdG o.g).toNat ≤ count then (0, (phase + 1) % 2 ^ 32) else (count, phase)
    exec (.barr h o) s = .next (((((s.setCore fun c => c.writeLocal a (leBytes 4 new.1 ++ leBytes 4 new.2)).bumps h false o.a o.m (.field16 o.off)).queues
      (s.result1 h (.g o.g) (lowBits 32) ((BitVec.ofNat 32 phase).setWidth 1024) 8 0 .none))).spends (addedCycles false h.prot))) ∧
  (∀ (h : Hdr) (o : BwaitArgs) (s : State), s.Clear h o.regs → ∀ a, s.spCheck o.sp o.a o.m (.field16 o.off) 8 8 = .ok (none, a) →
    s.acquiring = false →
    let phase := Memory.readNat s.core.loc (a + 4) 4
    let gap := (phase + 2 ^ 32 - (s.rdG o.g).toNat) % 2 ^ 32
    let done := if o.par then phase % 2 ≠ (s.rdG o.g).toNat % 2 else 1 ≤ gap ∧ gap < 2 ^ 31
    (done → exec (.bwait h o) s = .next ((((s.bumps h false o.a o.m (.field16 o.off)).queues (s.result1 h (.g o.g) (lowBits 32)
      ((BitVec.ofNat 32 (if o.par then 1 else min gap 255)).setWidth 1024) 1 0 .none))).spends (addedCycles false h.prot))) ∧
    (¬ done → exec (.bwait h o) s = .next (s.setLatch fun l => { l with wait := true }))) ∧
  (∀ (h : Hdr) (o : BarrArgs) (w : BwaitArgs) (s : State) (lc r a : Nat) (v : Word), s.strm.rbar = .answered v →
    (s.Clear h o.regs → s.spCheck o.sp o.a o.m (.field16 o.off) 8 8 = .ok (some (lc, r), a) →
      exec (.barr h o) s = .next ((s.setStrm fun x => { x with rbar := .none }).givesG h o.g v 1)) ∧
    (s.Clear h w.regs → s.spCheck w.sp w.a w.m (.field16 w.off) 8 8 = .ok (some (lc, r), a) →
      exec (.bwait h w) s = .next ((s.setStrm fun x => { x with rbar := .none }).givesG h w.g v 1))) ∧
  (∀ (h : Hdr) (o : NotifyArgs) (s : State), s.Clear h o.regs → s.acquiring = false → s.specSlot = none → s.strm.lost = [] →
    let name := (s.rdA o.a).toNat
    let lc := name / 2 ^ 48
    s.lcoreAt lc ≠ .nowhere → exec (.notify h o) s = .next ((s.setCore fun c => { c with deferred := c.deferred ++
      [.notify s.sid (s.outstanding s.sid true) lc (name % 16) (s.rdG o.g).toNat s.strm.tagr.toNat (s.taskSeq s.sid)] }).spends
      (addedCycles false h.prot))) ∧
  (∀ (h : Hdr) (o : WaitnArgs) (s : State), s.Clear h o.regs → s.acquiring = false →
    let old := SMap.get 0 o.n s.core.notify
    let x := old &&& s.rdG o.g
    (x ≠ 0 ∨ s.rdG o.g = 0 ∨ o.nb = true → exec (.waitn h o) s =
      .next ((s.setCore fun c => { c with notify := SMap.set 0 o.n (old &&& ~~~x) c.notify }).givesG h o.d x 1)) ∧
    (x = 0 → s.rdG o.g ≠ 0 → o.nb = false → exec (.waitn h o) s = .next (s.setLatch fun l => { l with wait := true })))

/-- R287 to R290: queues. QPOP and QPEEK give the head where its data has come and it carries no mark, in a g register at latency 1 or a
v register at latency 2; QPOP removes it; without an entry both raise QUEUE_UNDER (6). QPUSH appends, and an eighth entry is the last
(QUEUE_OVER, 5). QSTAT counts entries and arrived ones; QCLR discards the arrived entries and marks the others. Entries that a run-ahead has
allocated are not there before an LDQ adopts them (R378). -/
def Claims.QueueInstructions : Prop :=
  (∀ (h : Hdr) (o : QpopArgs) (s : State), s.Clear h o.regs →
    let gives := fun (t : State) (x : VReg) => (t.queues (if o.v then s.result1 h (.v o.d) (BitVec.allOnes 1024) x 2 0 .none
      else s.result1 h (.g o.d) (lowBits 32) ((x.setWidth 32).setWidth 1024) 1 0 .none)).spends (addedCycles false h.prot)
    (∀ e rest x, s.rdQ o.q = e :: rest → e.spec = false → e.data = some x → e.readyAt ≤ s.core.ac → e.mark = .none →
      exec (.qpop h o) s = .next (gives (s.putQ o.q rest) x) ∧ exec (.qpeek h o) s = .next (gives s x)) ∧
    ((∀ e ∈ s.rdQ o.q, e.spec = true) → exec (.qpop h o) s = .next (s.takeTrap 6 0 false h.slot h.prot false) ∧
      exec (.qpeek h o) s = .next (s.takeTrap 6 0 false h.slot h.prot false))) ∧
  (∀ (h : Hdr) (o : QpushArgs) (s : State), s.Clear h o.regs →
    let x := if o.v then s.rdV o.s else (s.rdG o.s).setWidth 1024
    let es := (s.rdQ o.q).filter fun e => !e.spec
    (es.length < 8 → exec (.qpush h o) s =
      .next ((s.putQ o.q (es ++ ⟨0, some x, s.core.ac + 1, .none, false, false, 0, Pos.zero, none⟩ :: (s.rdQ o.q).filter (·.spec))).spends
        (addedCycles false h.prot))) ∧
    (8 ≤ es.length → exec (.qpush h o) s = .next (s.takeTrap 5 0 false h.slot h.prot false))) ∧
  (∀ (h : Hdr) (o : QstatArgs) (s : State), s.Clear h o.regs →
    let es := (s.rdQ o.q).filter fun e => !e.spec
    let there := fun (e : QEntry) => e.data.isSome && decide (e.readyAt ≤ s.core.ac)
    exec (.qstat h o) s = .next (s.givesG h o.d (BitVec.ofNat 32 (es.length + 16 * es.countP there +
      (if (es.head?.any there) then 256 else 0) + (if es.head?.any (fun e => decide (e.mark ≠ .none)) then 512 else 0))) 1)) ∧
  (∀ (h : Hdr) (o : QclrArgs) (s : State), s.Clear h o.regs → exec (.qclr h o) s =
    .next ((s.putQ o.q ((((s.rdQ o.q).filter fun e => !e.spec).filter fun e => e.data.isNone).map (fun e => { e with drop := true }) ++
      (s.rdQ o.q).filter (·.spec))).spends (addedCycles false h.prot)))

/-- R291, R321: QST writes the popped entry, 128 bytes, at the next place of the ring's tail slot, which it reserves at its first entry
where the ring has room; the last entry of a slot finishes it. -/
def Claims.QueueToRing : Prop :=
  ∀ (h : Hdr) (o : QstArgs) (s : State), s.Clear h o.regs → ∀ e rest x, s.rdQ o.q = e :: rest → e.spec = false → e.data = some x →
    e.readyAt ≤ s.core.ac → e.mark = .none → s.specSlot = none →
    let r := s.core.ring o.k
    let r1 := if r.fill = 0 then { r with reserved := r.reserved ++ [⟨qstOwner, s.strm.tagr.toNat, false, false⟩] } else r
    (r.fill = 0 → r.published + r.freed + r.reserved.length + 1 ≤ r.nslot) →
    ∀ n, (r1.slotsOf qstOwner).head? = some n →
      let a := r1.slotAt n + 128 * r.fill
      let last := r.slotsz ≤ r.fill + 1
      exec (.qst h o) s = .next ((((s.setCore fun c => c.writeLocal a (leBytes 128 x.toNat)).setCore fun c => c.setRing o.k
        { (if last then r1.finish n false else r1) with fill := if last then 0 else r.fill + 1 }).putQ o.q rest).spends
        (addedCycles false h.prot))

/-! ## Far memory (09, 10, 11 R292 to R304) -/

/-- The parts that a queue load or far store may issue with: none faults, no earlier request to their ranks was lost or refused, and
nothing holds the access back (R308, R245 to R247, R259, R454); a store to region entries waits for their owners (R263). -/
def Claims.FarReady (s : State) (base : Addr) (parts : List FarPart) (write : Bool) (ps : List FarPiece) : Prop :=
  let x := s.farCtx s.sid
  s.farPieces x base parts write = .ok ps ∧ s.strm.lost = [] ∧ s.farWait x ps = false ∧ s.farBlocked x parts = false ∧
    (write = true → ∀ p ∈ ps, isDieReg p.hit.addr = true → p.remote x = false →
      s.regReady (physRank p.hit.addr) (physOff p.hit.addr) p.part.n = true)

/-- The ordinary entries of a queue, those of a run-ahead, and the queue with one more ordinary entry at its tail (R287, R378). -/
def Claims.ordinary (s : State) (q : Nat) : List QEntry := (s.rdQ q).filter fun e => !e.spec
def Claims.withEntry (s : State) (q : Nat) (e : QEntry) : State := s.putQ q (Claims.ordinary s q ++ e :: (s.rdQ q).filter (·.spec))

/-- R292, R293: queue loads. With room in the queue, the load allocates the entry of a new request at its tail, counts on its pages, and
every part joins the request: bytes of the own package at once, others by a message. A fault is raised, and with .s it is a mark in the
entry; a ninth entry raises QUEUE_OVER (5). A load that L1 has no miss entries for waits (R237). A load into a v register takes the issue
cycles of the vector block (R443). -/
def Claims.QueueLoads : Prop :=
  let loads := fun (i : Instr) (s : State) (h : Hdr) (q : Nat) (base : Addr) (ext : Nat) (spec wide : Bool) (mask : Option Word) (parts : List FarPart)
      (bump : State → State) =>
    let x := s.farCtx s.sid
    (8 ≤ (Claims.ordinary s q).length → exec i s = .next (s.takeTrap 5 0 false h.slot h.prot false)) ∧
    (∀ c v, (Claims.ordinary s q).length < 8 → s.farBlocked x parts = false → s.farPieces x base parts false = .error (c, v) →
      exec i s = .next (if spec then (bump (Claims.withEntry s q ⟨0, some 0, s.core.ac + 1, .deferred c v, false, false, 0, Pos.zero, none⟩)).spends
          (addedCycles wide h.prot)
        else (s.multiRecord x c v).takeTrap c v false h.slot h.prot false)) ∧
    (∀ ps, (Claims.ordinary s q).length < 8 → Claims.FarReady s base parts false ps → s.missRoom s.ck (s.l1Misses x ps) = true →
      let t := ps.foldl (fun t p => t.tlbFill x p.part.va) s
      let r : Req := ⟨s.sys.reqId, s.sid, .entry q, none, t.sys.dc, 0, true,
        if x.phys then [] else parts.flatMap fun p => pagesOf x.vdev p.va p.n, [], false, s.l1Misses x ps, h.prot, t.taskSeq s.sid, false⟩
      let u := ({ t with sys := { t.sys with reqs := t.sys.reqs ++ [r], reqId := s.sys.reqId + 1 } }).pinAll s.pkg r.pages
      exec i s = .next ((bump (ps.foldl (State.loadPart h x s.sys.reqId ext) (Claims.withEntry u q
        ⟨s.sys.reqId, none, 0, .none, false, false, h.prot, s.strm.pos, mask⟩))).spends (addedCycles wide h.prot)))
  (∀ (h : Hdr) (o : LdqArgs) (s : State), s.Clear h o.regs → (o.s = true → s.adoptLoad o.q = none) →
    loads (.ldq h o) s h o.q (s.rdA o.a) (if o.sz < 2 && !o.z then 1 else 0) o.s (o.sz = 3) (if o.sz = 3 then some (BitVec.allOnes 32) else none)
      [⟨0, Claims.ea s o.a o.m o.off, if o.sz = 3 then 128 else 2 ^ o.sz⟩] fun t => t.postInc h false o.a o.m o.off) ∧
  (∀ (h : Hdr) (o : LdqsArgs) (s : State), s.Clear h o.regs →
    loads (.ldqs h o) s h o.q (s.rdA o.a) 0 o.s true (some (s.rdM o.km))
      (Claims.laneParts s o.km fun i => s.rdA o.a + BitVec.ofInt 64 (i * strideVal o.stride)) id) ∧
  (∀ (h : Hdr) (o : LdqxArgs) (s : State), s.Clear h o.regs →
    loads (.ldqx h o) s h o.q (s.rdA o.a) 0 o.s true (some (s.rdM o.km))
      (Claims.laneParts s o.km fun i => s.rdA o.a + (if o.z then (lane (s.rdV o.vi) i).setWidth 64 else (lane (s.rdV o.vi) i).signExtend 64) <<< o.sh)
      id)

/-- R292, R255: a queue load of one part in the own package. Its request holds the bytes that the core sees at the translated address, and
no register and no local memory changes, nor a byte of HBM where the page is not cached or the caches have room for the line. -/
def Claims.QueueLoadData : Prop :=
  ∀ (h : Hdr) (o : LdqArgs) (s : State) (p : FarPiece), s.Clear h o.regs → o.s = false → o.m = false → 2 ≤ o.sz →
    let n := if o.sz = 3 then 128 else 2 ^ o.sz
    let x := s.farCtx s.sid
    (Claims.ordinary s o.q).length < 8 → Claims.FarReady s (s.rdA o.a) [⟨0, Claims.ea s o.a o.m o.off, n⟩] false [p] →
    s.missRoom s.ck (s.l1Misses x [p]) = true → p.remote x = false → isDieReg p.hit.addr = false →
    s.farPoisoned x.core p.hit n = false → (∀ r ∈ s.sys.reqs, r.id ≠ s.sys.reqId) →
    ∃ t : State, exec (.ldq h o) s = .next t ∧
      (∃ e, t.rdQ o.q = Claims.ordinary s o.q ++ e :: (s.rdQ o.q).filter (·.spec) ∧ e.req = s.sys.reqId ∧ e.data = none ∧ e.mark = .none) ∧
      (∃ r ∈ t.sys.reqs, r.id = s.sys.reqId ∧ r.wait = .entry o.q ∧ ∀ j, j < n → Memory.read r.data j =
        (s.farBytes x.core p.hit n).getD j 0) ∧
      (∀ k, k ≠ o.q → t.rdQ k = s.rdQ k) ∧ t.strm.g = s.strm.g ∧ t.strm.v = s.strm.v ∧ t.strm.a = s.strm.a ∧ t.strm.p = s.strm.p ∧
      t.strm.m = s.strm.m ∧ t.strm.flight = s.strm.flight ∧ t.core.loc = s.core.loc ∧
      (p.hit.cached = false ∨ (s.linesOf x.core).length < l1Lines → t.sys.hbm = s.sys.hbm)

/-- R294: far stores. Every part is translated and checked before any performs; then each performs in ascending lane order at its
home memory, in the core's caches or by a message, after a replayable launch has taken the saggar pages (R383). A store of a v register takes the issue cycles of
the vector block (R443). -/
def Claims.FarStores : Prop :=
  let stores := fun (i : Instr) (s : State) (h : Hdr) (base : Addr) (wide : Bool) (parts : List FarPart) (bytes : List Byte) (bump : State → State) =>
    let x := s.farCtx s.sid
    (∀ c v, s.farBlocked x parts = false → s.farPieces x base parts true = .error (c, v) →
      exec i s = .next ((s.multiRecord x c v).takeTrap c v false h.slot h.prot false)) ∧
    (∀ ps s1 qs, Claims.FarReady s base parts true ps → s.takePages x parts = .ok s1 → s1.farPieces x base parts true = .ok qs →
      exec i s = .next ((bump (qs.foldl (State.storePart h x bytes) (qs.foldl (fun t p => t.tlbFill x p.part.va) s1))).spends
        (addedCycles wide h.prot)))
  (∀ (h : Hdr) (o : StfArgs) (s : State), s.Clear h o.regs →
    stores (.stf h o) s h (s.rdA o.a) (o.sz = 3) [⟨0, Claims.ea s o.a o.m o.off, if o.sz = 3 then 128 else 2 ^ o.sz⟩]
      (if o.sz = 3 then leBytes 128 (s.rdV o.s).toNat else leBytes 4 (s.rdG o.s).toNat) fun t => t.postInc h false o.a o.m o.off) ∧
  (∀ (h : Hdr) (o : StfsArgs) (s : State), s.Clear h o.regs → stores (.stfs h o) s h (s.rdA o.a) true
    (Claims.laneParts s o.km fun i => s.rdA o.a + BitVec.ofInt 64 (i * strideVal o.stride)) (leBytes 128 (s.rdV o.v).toNat) id) ∧
  (∀ (h : Hdr) (o : StfxArgs) (s : State), s.Clear h o.regs → stores (.stfx h o) s h (s.rdA o.a) true
    (Claims.laneParts s o.km fun i => s.rdA o.a + (if o.z then (lane (s.rdV o.vi) i).setWidth 64 else (lane (s.rdV o.vi) i).signExtend 64) <<< o.sh)
    (leBytes 128 (s.rdV o.v).toNat) id)

/-- R236, R255, R294: after a far store in the own package the core reads the stored bytes at the translated address and the
bytes it read before everywhere else; HBM itself changes at those bytes alone, and only where the page is not cached. The caches have
room for the stored lines: nothing is evicted (log 87). -/
def Claims.FarStoreBytes : Prop :=
  ∀ (s : State) (x : FarCtx) (va : Nat) (p : FarHit) (bs : List Byte), x.core = s.ck →
    (p.cached = true → (s.linesOf x.core).length + bs.length / 128 + 2 ≤ l1Lines) →
    let t := s.farWrite x va p bs
    (∀ a, Memory.read t.sys.hbm a = if p.cached = false ∧ p.addr ≤ a ∧ a < p.addr + bs.length then bs.getD (a - p.addr) 0
      else Memory.read s.sys.hbm a) ∧
    (p.cached = true → ∀ a, t.cachedByte x.core a = if p.addr ≤ a ∧ a < p.addr + bs.length then bs.getD (a - p.addr) 0
      else s.cachedByte x.core a) ∧
    t.strm = s.strm ∧ t.core.loc = s.core.loc

/-- R295, R301: PREF fetches the line of a cached page that translates and never faults; CWB and CINV write a virtual range back, and CINV
drops it; FENCE completes once the stream's earlier accesses have performed, FENCE.part at once. They wait where a PTW blocks their
translation (R247), PREF also where L1 has no miss entry (R237). -/
def Claims.CacheAndFence : Prop :=
  (∀ (h : Hdr) (o : PrefArgs) (s : State), s.Clear h o.regs →
    let x := { s.farCtx s.sid with phys := false }
    let va := Claims.ea s o.a false (.field16 o.off)
    s.farBlocked x [⟨0, va, 1⟩] = false →
    (∀ p, s.farPieces x (s.rdA o.a) [⟨0, va, 1⟩] false = .ok [p] → p.hit.cached = true →
      (o.l2 = true ∨ s.missRoom s.ck (s.l1Misses x [p]) = true) →
      exec (.pref h o) s = .next (((s.tlbFill x va).fillLine x.core p.hit.addr (!o.l2)).spends (addedCycles false h.prot))) ∧
    (∀ p, s.farPieces x (s.rdA o.a) [⟨0, va, 1⟩] false = .ok [p] → p.hit.cached = false →
      exec (.pref h o) s = .next (s.spends (addedCycles false h.prot))) ∧
    (∀ e, s.farPieces x (s.rdA o.a) [⟨0, va, 1⟩] false = .error e → exec (.pref h o) s = .next (s.spends (addedCycles false h.prot)))) ∧
  (∀ (h : Hdr) (o : CwbArgs) (s : State), s.Clear h o.regs →
    let x := { s.farCtx s.sid with phys := false }
    let va := Claims.ea s o.a false (.field16 o.off)
    (va < 2 ^ 56 → (s.rdA o.a).toNat < 2 ^ 56 → s.farBlocked x ((pagesOf x.vdev va (s.rdG o.g).toNat).map fun p => ⟨0, p.2, 1⟩) = false →
      exec (.cwb h o) s = .next ((s.flushVirtual [x.core] x va (s.rdG o.g).toNat false).spends (addedCycles false h.prot)) ∧
      exec (.cinv h o) s = .next ((s.flushVirtual [x.core] x va (s.rdG o.g).toNat true).spends (addedCycles false h.prot))) ∧
    (2 ^ 56 ≤ va ∨ 2 ^ 56 ≤ (s.rdA o.a).toNat → exec (.cwb h o) s = .next (s.takeTrap 18 va false h.slot h.prot false) ∧
      exec (.cinv h o) s = .next (s.takeTrap 18 va false h.slot h.prot false))) ∧
  (∀ (h : Hdr) (o : FenceArgs) (s : State), s.Clear h o.regs →
    (o.scope = .part → exec (.fence h o) s = .next (s.spends (addedCycles false h.prot))) ∧
    (o.scope ≠ .part → s.strm.lost = [] →
      let busy := s.acquiring || (s.sys.reqs.any fun r => r.sid = s.sid && match r.wait with
        | .entry _ => true
        | _ => false) || !(s.released (o.scope = .dom))
      exec (.fence h o) s = .next (if busy then s.setLatch fun l => { l with wait := true } else s.spends (addedCycles false h.prot))))

/-- R302, R303: the ownership events. XFER and RSHARE act on the one owned region that their address names, whose accesses have performed and
which no frame of the core meets; RCLAIM takes a free region. Any other region raises OWNER_FAULT (19). -/
def Claims.OwnershipEvents : Prop :=
  (∀ (h : Hdr) (o : XferArgs) (s : State), s.Clear h o.regs →
    let x := s.farCtx s.sid
    let va := (s.rdA o.a).toNat
    let lc := (s.rdG o.g).toNat % 65536
    (s.ownedRegion x va = none → exec (.xfer h o) s = .next ((s.multiRecord x 19 va).takeTrap 19 va false h.slot h.prot false)) ∧
    (∀ i r, s.ownedRegion x va = some (i, r) → s.lcoreAt lc ≠ .nowhere → s.core.frameMeets r = false → s.acquiring = false →
      s.regionQuiet s.ck x.vdev r = true →
      let s1 := s.flushVirtual [x.core] x r.base (2 ^ r.lsz) false
      let dst := (s.coreFor s.core.launch lc).toList.filter fun k => !(isParkKey k)
      exec (.xfer h o) s = .next ((if lc = s.core.lcore then s1
        else (s1.flushVirtual dst x r.base (2 ^ r.lsz) true).putRegion x.pkg i { r with owner := lc }).spends (addedCycles false h.prot)))) ∧
  (∀ (h : Hdr) (o : RshareArgs) (s : State), s.Clear h o.regs →
    let x := s.farCtx s.sid
    let va := (s.rdA o.a).toNat
    (s.ownedRegion x va = none → exec (.rshare h o) s = .next ((s.multiRecord x 19 va).takeTrap 19 va false h.slot h.prot false)) ∧
    (∀ i r, s.ownedRegion x va = some (i, r) → s.core.frameMeets r = false → s.acquiring = false → s.regionQuiet s.ck x.vdev r = true →
      exec (.rshare h o) s = .next ((((s.flushVirtual [x.core] x r.base (2 ^ r.lsz) false).flushVirtual (coresOfPkg x.pkg) x r.base (2 ^ r.lsz)
        true).putRegion x.pkg i { r with state := 2, owner := 0 }).spends (addedCycles false h.prot)))) ∧
  (∀ (h : Hdr) (o : RclaimArgs) (s : State), s.Clear h o.regs → s.acquiring = false →
    let x := s.farCtx s.sid
    let va := (s.rdA o.a).toNat
    let ms := s.regionMatch x.pkg x.vdev (launchId s.core.launch) va
    (ms = [] → exec (.rclaim h o) s = .next (s.givesP h o.p false 1)) ∧
    (∀ i r, ms = [(i, r)] → r.state ≠ 0 → exec (.rclaim h o) s = .next (s.givesP h o.p false 1)) ∧
    (∀ i r, ms = [(i, r)] → r.state = 0 → exec (.rclaim h o) s =
      .next ((((s.flushVirtual [x.core] x r.base (2 ^ r.lsz) true).putRegion x.pkg i { r with state := 1, owner := s.core.lcore }).resP h o.p true
        1).spends (addedCycles false h.prot))) ∧
    (2 ≤ ms.length → exec (.rclaim h o) s = .next ((s.multiRecord x 19 va).takeTrap 19 va false h.slot h.prot false)))

/-- R265 to R267, R296 to R300: atomics. On this core's scratchpad and on HBM of the own package an AMO or ACAS performs at issue, a VAMO
performs its first element there, and the old value comes to a queue entry unless the form returns none; on another core or package the
atomic is sent. One on a word of HBM writes the word's line back and drops it from the core's caches first; a failed ACAS writes nothing.
At most 64 atomics of a stream to a die are outstanding (R297). -/
def Claims.AtomicInstructions : Prop :=
  let atoms := fun (i : Instr) (s : State) (h : Hdr) (q addr : Nat) (nr sp : Bool) (scope : Scope) (ord : MemOrder) (a : AtomOp) =>
    let acq := ord = .acq ∨ ord = .ar
    let rel := ord = .rel ∨ ord = .ar
    let vec := a.kind = 2
    let x := s.farCtx s.sid
    let va := (s.rdA addr).toNat
    let part : FarPart := ⟨0, va, a.width⟩
    (nr = true ∨ (Claims.ordinary s q).length < 8) → s.acquiring = false → (rel → scope ≠ .part → s.released (scope = .dom) = true) →
    s.strm.lost = [] →
    (sp = true → ∀ o, s.spCheck true addr false (.field16 0) (if vec then 32 else 4) a.width = .ok (none, o) → s.specSlot = none →
      s.atomRoom s.rank = true →
      let r := s.core.atomElem o a 0
      exec i s = .next ((if vec then s.vamoStart h q s.rank nr true o 0 [] a
        else ({ s with core := r.1 }).atomReturn h q s.rank nr [] r.2.1 r.2.2).spends (addedCycles false h.prot))) ∧
    (sp = true → ∀ lc r o, s.spCheck true addr false (.field16 0) (if vec then 32 else 4) a.width = .ok (some (lc, r), o) →
      s.atomRoom r = true → exec i s = .next ((s.atomSend h q nr vec acq (a.message { Msg.of 2 s.rank r s.strm.tagr.toNat s.core.launch with
        slc := s.core.lcore, dlc := lc, addr := o, args := [o, a.width, 0, 0] } true nr) []).spends (addedCycles false h.prot))) ∧
    (sp = false → ∀ p, s.farBlocked x [part] = false → s.farPieces x (s.rdA addr) [part] true = .ok [p] → s.farWait x [p] = false →
      s.atomRoom (physRank p.hit.addr) = true →
      let pages := if x.phys then [] else pagesOf x.vdev va a.width
      let flush := fun (t : State) (hit : FarHit) => if hit.cached then
        ((t.lineBack x.core (hit.addr / 128)).l1Drop x.core (hit.addr / 128)).l2Drop x.core (hit.addr / 128) else t
      (∀ s1 p1, p.remote x = true → s.takePages x [part] = .ok s1 → s1.farPieces x (s.rdA addr) [part] true = .ok [p1] → p1.remote x = true →
        exec i s = .next ((s1.atomSend h q nr vec acq (a.message (s1.farMsg 2 x p1) false nr) pages).spends (addedCycles false h.prot))) ∧
      (p.remote x = false → isDieReg p.hit.addr = true → s.regReady (physRank p.hit.addr) (physOff p.hit.addr) a.width = true →
        let r := s.atomReg p.hit.addr a
        exec i s = .next ((r.1.atomReturn h q (physRank p.hit.addr) nr pages r.2 false).spends (addedCycles false h.prot))) ∧
      (p.remote x = false → isDieReg p.hit.addr = false →
        let s0 := flush s p.hit
        let old := Memory.readBytes s0.sys.hbm p.hit.addr 4
        (a.kind = 1 → natOfBytes old ≠ a.expected →
          exec i s = .next ((((s0.granuleCount (rankOfCore x.core) p.hit.addr).tlbFill x va).atomReturn h q (physRank p.hit.addr) nr pages old
            (s0.hbmPoisoned p.hit.addr 4)).spends (addedCycles false h.prot))) ∧
        (∀ s1 p1, (a.kind = 1 → natOfBytes old = a.expected) → s.takePages x [part] = .ok s1 →
          s1.farPieces x (s.rdA addr) [part] true = .ok [p1] →
          let s2 := (flush (s1.tlbFill x va) p1.hit).granuleCount (rankOfCore x.core) p1.hit.addr
          let s3 := if x.phys then s2 else (s2.markDirty x.launch va).markDevDirty x.pkg x.vdev va
          let r := s3.atomElem p1.hit.addr a 0
          exec i s = .next ((if vec then s3.vamoStart h q (physRank p1.hit.addr) nr false p1.hit.addr va pages a
            else r.1.atomReturn h q (physRank p1.hit.addr) nr pages r.2.1 r.2.2).spends (addedCycles false h.prot)))))
  (∀ (h : Hdr) (o : AmoArgs) (s : State), s.Clear h o.regs →
    atoms (.amo h o) s h o.q o.a o.nr o.sp o.scope o.ord ⟨0, amoCode o.op, leBytes 4 (s.rdG o.g).toNat, 0⟩) ∧
  (∀ (h : Hdr) (o : AcasArgs) (s : State), s.Clear h o.regs →
    atoms (.acas h o) s h o.q o.a false o.sp o.scope o.ord ⟨1, 0, leBytes 4 (s.rdG (o.g + 1)).toNat, (s.rdG o.g).toNat⟩) ∧
  (∀ (h : Hdr) (o : VamoArgs) (s : State), s.Clear h o.regs →
    atoms (.vamo h o) s h o.q o.a o.nr o.sp o.scope o.ord ⟨2, vamoCode o.op, leBytes 32 (s.rdV o.v).toNat, 0⟩)

/-- R266, R298 to R300: what an atomic leaves in a scratchpad word and what it returns: AMO applies its operation to the old word, ACAS
stores where the old word is the expected one and otherwise writes nothing, and element `e` of VAMO changes that element alone. -/
def Claims.AtomicWords : Prop :=
  ∀ (c : Core) (o op : Nat) (w e : Word),
    let word := fun (d : Core) => BitVec.ofNat 32 (Memory.readNat d.loc o 4)
    let old : Word := word c
    (let r := c.atomElem o ⟨0, op, leBytes 4 w.toNat, 0⟩ 0
     r.2.1 = Memory.readBytes c.loc o 4 ∧
      word r.1 = (match op with
        | 0 => old + w
        | 1 => old &&& w
        | 2 => old ||| w
        | 3 => old ^^^ w
        | 4 => if w.toInt < old.toInt then w else old
        | 5 => if old.toInt < w.toInt then w else old
        | 6 => w
        | _ => BitVec.ofNat 32 (fmtF32.addOp 0 old.toNat w.toNat).bits) ∧
      ∀ a, (a < o ∨ o + 4 ≤ a) → Memory.read r.1.loc a = Memory.read c.loc a) ∧
    (let r := c.atomElem o ⟨1, 0, leBytes 4 w.toNat, e.toNat⟩ 0
     r.2.1 = Memory.readBytes c.loc o 4 ∧ (old ≠ e → r.1 = c) ∧ (old = e → word r.1 = w) ∧
      ∀ a, (a < o ∨ o + 4 ≤ a) → Memory.read r.1.loc a = Memory.read c.loc a) ∧
    (∀ (x : VReg) (k : Nat),
      let z := vamoWidth op
      let r := c.atomElem o ⟨2, op, leBytes 32 x.toNat, 0⟩ k
      k < 32 / z → r.2.1 = Memory.readBytes c.loc (o + z * k) z ∧
        Memory.readNat r.1.loc (o + z * k) z =
          vamoElem op (Memory.readNat c.loc (o + z * k) z) (x.toNat / 2 ^ (8 * z * k) % 2 ^ (8 * z)) % 2 ^ (8 * z) ∧
        ∀ a, (a < o + z * k ∨ o + z * k + z ≤ a) → Memory.read r.1.loc a = Memory.read c.loc a)

/-! ## The control unit (07 R177 to R186, 08 R205 to R227) -/

/-- R207 to R209: FDEF enters a frame descriptor that is not malformed, lies inside the window (for local memory), overlaps no other
frame and whose pages can be counted; the frame starts at version 0. It traps, with no effect, for a defined frame, a malformed
descriptor and an overlap. FREL removes a defined frame once no reference of the window is bound to it, and lowers its pages' counts. -/
def Claims.FrameInstructions : Prop :=
  (∀ (h : Hdr) (o : FdefArgs) (s : State), s.Clear h o.regs →
    ((s.core.frame o.n).isSome → exec (.fdef h o) s = .next (s.takeTrap 12 0 false h.slot h.prot false)) ∧
    ((s.core.frame o.n) = none → s.acquiring = false → (s.rdA o.a).toNat + 32 ≤ winSize s.core.pool →
      s.core.poisoned (s.rdA o.a).toNat 32 = false →
      let ws := s.localWords (s.rdA o.a).toNat 8
      let f := FrameD.of ws
      let lo := (f.hull s.core).1
      let hi := (f.hull s.core).2
      let pages := if f.space = 1 ∧ f.deferred = false then pagesOf s.vdev lo (hi - lo) else []
      (f.bad ws s.core = true → exec (.fdef h o) s = .next (s.takeTrap 13 0 false h.slot h.prot false)) ∧
      (f.bad ws s.core = false → (f.space = 0 → hi ≤ winSize s.core.pool) →
        (f.overlaps s.core = true → exec (.fdef h o) s = .next (s.takeTrap 14 0 false h.slot h.prot false)) ∧
        (f.overlaps s.core = false → s.pagesBlocked pages = false → (f.space = 1 → s.foreignByte lo hi = none) →
          (∀ p ∈ pages, (s.walkVa s.pkg p.1 p.2).isSome) →
          ∀ t, s.pinTry pages = .ok t → exec (.fdef h o) s = .next ((t.setCore fun c => c.setFrame o.n
            (some ⟨ws, 0, f.space ≠ 1 ∨ s.ownCovers (s.regionsIn lo hi) hi ((s.regionsIn lo hi).length + (hi - lo) / 0x10000 + 2) lo = true,
              pages, none⟩)).spends (addedCycles false h.prot)))))) ∧
  (∀ (h : Hdr) (o : FrelArgs) (s : State), s.Clear h o.regs →
    (s.core.frame o.n = none → exec (.frel h o) s = .next (s.takeTrap 12 0 false h.slot h.prot false)) ∧
    ∀ f, s.core.frame o.n = some f →
      ((∃ e ∈ s.core.entries, ∃ b ∈ e.2.bound, b.ref.frame = o.n) →
        exec (.frel h o) s = .next (s.setLatch fun l => { l with wait := true })) ∧
      ((∀ e ∈ s.core.entries, ∀ b ∈ e.2.bound, b.ref.frame ≠ o.n) →
        exec (.frel h o) s = .next (((s.setCore fun c => c.setFrame o.n none).unpinAll s.pkg f.pages).spends (addedCycles false h.prot))))

/-- R210, R211: RINIT sets a ring that nothing uses to its descriptor, empty, with its counts zero. A ring in use raises FRAME_STATE
(12), a malformed descriptor FRAME_FORMAT (13). -/
def Claims.RingInstruction : Prop :=
  ∀ (h : Hdr) (o : RinitArgs) (s : State), s.Clear h o.regs →
    let named := s.core.entries.any fun e => e.2.bound.any fun b =>
      (s.core.frameD b.ref.frame).space = 2 && (s.core.frameD b.ref.frame).base % 8 = o.k
    (named = true ∨ s.ringBusy o.k = true → exec (.rinit h o) s = .next (s.takeTrap 12 0 false h.slot h.prot false)) ∧
    (named = false → s.ringBusy o.k = false → s.acquiring = false → (s.rdA o.a).toNat + 16 ≤ winSize s.core.pool →
      s.core.poisoned (s.rdA o.a).toNat 16 = false →
      let w := fun n => s.localNat ((s.rdA o.a).toNat + 4 * n) 4
      let sz := w 1 % 0x10000
      let n := w 1 / 0x10000
      let good := w 0 % 128 = 0 ∧ 1 ≤ sz ∧ 1 ≤ n ∧ n ≤ 256 ∧ w 2 = 0 ∧ w 3 = 0
      (¬ good → exec (.rinit h o) s = .next (s.takeTrap 13 0 false h.slot h.prot false)) ∧
      (good → w 0 + n * sz * 128 ≤ winSize s.core.pool → exec (.rinit h o) s = .next ((s.setCore fun c =>
        c.setRing o.k ⟨true, w 0, sz, n, 0, 0, 0, [], 0, [], 0⟩).spends (addedCycles false h.prot))))

/-- R212, R213: a POST that finds room and whose record is valid enters it in the lowest free slot with the next sequence number and
gives its handle at latency 1; without room POST waits, or with .nb gives false and all ones; a malformed record raises TASK_FORMAT (11),
or with .s marks the handle. -/
def Claims.PostInstruction : Prop :=
  ∀ (h : Hdr) (o : PostArgs) (s : State), s.Clear h o.regs → s.acquiring = false → s.resolvedRun = none →
    let a := (s.rdA o.a).toNat
    let ws := s.localWords a 16
    let gives := fun (t : State) (handle : Word) (mark : Mark) (ok : Bool) =>
      let t1 := match o.hw with
        | some d => t.queues (s.result1 h (.g d) (lowBits 32) (handle.setWidth 1024) 1 0 mark)
        | none => t
      let t2 := match o.nb with
        | some p => t1.queues (s.result1 h (.p p) (lowBits 1) (if ok then 1 else 0) 1 0 .none)
        | none => t1
      t2.spends (addedCycles false h.prot)
    let full := 224 ≤ s.core.localEntries ∨ s.core.freeSlot = none
    (full → exec (.post h o) s = .next (if o.nb.isSome then gives s 0xFFFFFFFF .none false
      else s.setLatch fun l => { l with wait := true })) ∧
    (¬ full → a + 64 ≤ winSize s.core.pool → s.core.poisoned a 64 = false →
      (s.core.taskFormat ws = true → exec (.post h o) s = .next (if o.s then gives s 0xFFFFFFFF (.deferred 11 0) false
        else s.takeTrap 11 0 false h.slot h.prot false)) ∧
      ∀ n, s.core.freeSlot = some n → s.pagesBlocked (s.core.lazyPages s.vdev ws) = false →
        let seq := (s.core.kseq + 1) % 0x1000000
        let handle := BitVec.ofNat 32 (seq * 256 + n)
        (s.core.taskFormat ws = false → s.filtered s.core.launch (recTag ws) = true →
          exec (.post h o) s = .next (gives (s.setCore Core.discardRecord) handle .none true)) ∧
        (∀ t pages, s.postCheck ws = .ok (t, pages) → s.filtered s.core.launch (recTag ws) = false →
          ∃ c : Core, exec (.post h o) s = .next (gives { t with core := c } handle .none true) ∧ c.kseq = seq ∧
            ∃ e, c.entry n = some e ∧ e.words = ws.set 0 (ws.getD 0 0 &&& ~~~0x800) ∧ e.state = .waiting ∧ e.seq = seq ∧
              e.prio = (ws.getD 0 0).toNat / 16 % 128 ∧ e.passes = 0 ∧ e.ownPost = true ∧ e.spec = false ∧ e.pages = pages ∧
              e.after = t.outstanding t.sid false))

/-- R215: POSTX of a valid record to a logical core of the launch allocates a queue entry, which the answer will fill, and sends the
record after the stream's earlier accesses; a full queue raises QUEUE_OVER (5), a malformed record TASK_FORMAT (11). R219: CSIG.R is
sent likewise. LCORE_RANGE (8) names a logical core that the launch does not have. -/
def Claims.RemotePosts : Prop :=
  (∀ (h : Hdr) (o : PostxArgs) (s : State), s.Clear h o.regs →
    (8 ≤ ((s.rdQ o.q).filter fun e => !e.spec).length → exec (.postx h o) s = .next (s.takeTrap 5 0 false h.slot h.prot false)) ∧
    (((s.rdQ o.q).filter fun e => !e.spec).length < 8 → s.acquiring = false → (s.rdA o.a).toNat + 64 ≤ winSize s.core.pool →
      s.core.poisoned (s.rdA o.a).toNat 64 = false →
      let ws := s.localWords (s.rdA o.a).toNat 16
      let lc := (s.rdG o.g).toNat % 65536
      (recordBad ws = true → exec (.postx h o) s = .next (s.takeTrap 11 0 false h.slot h.prot false)) ∧
      (recordBad ws = false → s.lcoreAt lc = .nowhere → exec (.postx h o) s = .next (s.takeTrap 8 lc false h.slot h.prot false)) ∧
      (recordBad ws = false → s.lcoreAt lc ≠ .nowhere → s.strm.lost = [] → ∃ t : State, exec (.postx h o) s = .next t ∧
        t.rdQ o.q = ((s.rdQ o.q).filter fun e => !e.spec) ++ ⟨s.sys.reqId, none, 0, .none, false, false, 0, Pos.zero, none⟩ :: (s.rdQ o.q).filter (·.spec) ∧
        (∀ q, q ≠ o.q → t.rdQ q = s.rdQ q) ∧
        t.sys.reqId = s.sys.reqId + 1 ∧ t.strm.g = s.strm.g ∧ t.strm.flight = s.strm.flight ∧ t.core.loc = s.core.loc ∧
        t.core.deferred = s.core.deferred ++ [.postx s.sid (s.outstanding s.sid false) lc o.q s.sys.reqId s.strm.tagr.toNat (s.taskSeq s.sid) ws]))) ∧
  (∀ (h : Hdr) (o : CsigRArgs) (s : State), s.Clear h o.regs →
    let lc := (s.rdG o.g).toNat % 65536
    (s.lcoreAt lc = .nowhere → exec (.csigR h o) s = .next (s.takeTrap 8 lc false h.slot h.prot false)) ∧
    (s.lcoreAt lc ≠ .nowhere → s.strm.lost = [] → s.acquiring = false →
      exec (.csigR h o) s = .next ((s.setCore fun c => { c with deferred := c.deferred ++
        [.csigR s.sid (s.outstanding s.sid false) lc o.c ((s.regImm o.v).toNat % 65536) s.strm.tagr.toNat (s.taskSeq s.sid)] }).spends
          (addedCycles false h.prot))))

/-- R218 to R220: CWAIT completes where the cone's 16-bit value has reached the threshold, and CWAIT.NB gives that test; CSIG and CSET
update the cone after the stream's earlier stores; CRD reads the cone with its overflow bit at latency 2. TAGW completes where the
tags of its mask are set, all or any, or the mask is zero; TAGFF gives the lowest set tag of the mask, 64 for none; TAGCLR clears in
the next ac.
R193: in one clock a CSET of a cone applies before the increments, whatever made them, which saturate once in their sum; CWAIT, CRD and the
Kiln's waits see the result from the next clock on. -/
def Claims.ConesAndTags : Prop :=
  (∀ (h : Hdr) (o : CwaitArgs) (s : State), s.Clear h o.regs → s.acquiring = false →
    let met := (s.regImm o.t).toNat % 65536 ≤ (SMap.get 0 o.c s.core.cones).toNat % 65536
    (met → exec (.cwait h o) s = .next (s.spends (addedCycles false h.prot))) ∧
    (¬ met → exec (.cwait h o) s = .next (s.setLatch fun l => { l with wait := true }))) ∧
  (∀ (h : Hdr) (o : CwaitNbArgs) (s : State), s.Clear h o.regs →
    exec (.cwaitNb h o) s = .next (s.givesP h o.p
      (decide ((s.regImm o.t).toNat % 65536 ≤ (SMap.get 0 o.c s.core.cones).toNat % 65536)) 1)) ∧
  (∀ (h : Hdr) (o : CsigArgs) (s : State), s.Clear h o.regs →
    let later := fun (u : ConeUpd) => (s.setCore fun c => { c with deferred := c.deferred ++
      [.cone (s.outstanding s.sid false) u (c.ac + 1) s.strm.tagr.toNat (s.taskSeq s.sid)] }).spends
      (addedCycles false h.prot)
    exec (.csig h o) s = .next (later (.add o.c ((s.regImm o.v).toNat % 65536))) ∧
    exec (.cset h o) s = .next (later (.set o.c ((s.regImm o.v).toNat % 65536)))) ∧
  (∀ (h : Hdr) (o : CrdArgs) (s : State), s.Clear h o.regs →
    exec (.crd h o) s = .next (s.givesG h o.d ((SMap.get 0 o.c s.core.cones).setWidth 32) 2)) ∧
  (∀ (h : Hdr) (g d : Nat) (all : Bool) (p : Nat) (s : State), s.Clear h (TagwArgs.regs ⟨g, all⟩) →
    let mask := (s.rdG (g + 1) ++ s.rdG g : BitVec 64)
    let met := mask = 0 ∨ (if all then s.core.tags &&& mask = mask else s.core.tags &&& mask ≠ 0)
    (s.acquiring = false → met → exec (.tagw h ⟨g, all⟩) s = .next (s.spends (addedCycles false h.prot))) ∧
    (¬ met → exec (.tagw h ⟨g, all⟩) s = .next (s.setLatch fun l => { l with wait := true })) ∧
    exec (.tagwNb h ⟨p, g, all⟩) s = .next (s.givesP h p (decide met) 1) ∧
    (∃ n, exec (.tagff h ⟨d, g⟩) s = .next (s.givesG h d (BitVec.ofNat 32 n) 2) ∧ n ≤ 64 ∧
      (∀ i, i < n → (s.core.tags &&& mask).getLsbD i = false) ∧ (n < 64 → (s.core.tags &&& mask).getLsbD n = true)) ∧
    exec (.tagclr h ⟨g⟩) s = .next ((s.setCore fun c => { c with deferred := c.deferred ++ [.tags mask.toNat] }).spends
      (addedCycles false h.prot))) ∧
  (∀ (ups : List ConeUpd) (n : Nat) (v : BitVec 17),
    let sets := ups.filterMap fun u => match u with
      | .set d x => if d = n then some (x % 65536) else none
      | .add _ _ => none
    let adds := ups.filterMap fun u => match u with
      | .add d x => if d = n then some (x % 65536) else none
      | .set _ _ => none
    let sum := sets.getLast?.getD (v.toNat % 65536) + adds.sum
    (coneTick ups n v).toNat % 65536 = min sum 65535 ∧
    (coneTick ups n v).getLsbD 16 = ((sets.isEmpty && v.getLsbD 16) || decide (65535 < sum))) ∧
  (∀ (c : Core) (out : Nat → Bool) (n : Nat),
    SMap.get 0 n (c.acTick out).cones = coneTick (c.conePend ++ c.deferred.filterMap (Deferred.coneNow out c.ac)) n (SMap.get 0 n c.cones) ∧
    ∀ e, SMap.get none n c.window = some e → ∃ e', SMap.get none n (c.acTick out).window = some e' ∧
      let w := (e.words.getD 2 0).toNat
      e'.waitOk = (e.waitOk || !(w.testBit 24) || decide (w / 256 % 65536 ≤ (SMap.get 0 (w % 256) c.cones).toNat % 65536)))

/-- R217, R222, R223, R226: KQRY reads the window as it stood at the end of the last clock; SETTAG changes TAGR from the next issue
cycle on; KMODE changes an engine's mode in the next ac; YIELD stops the stream after its bundle where a yield is asked of it, and
YIELD.F also tells so. -/
def Claims.WindowQueriesAndModes : Prop :=
  (∀ (h : Hdr) (o : KqryStArgs) (s : State), s.Clear h o.regs →
    let handle := (s.rdG o.g).toNat
    let seen := SMap.get 0 (handle % 256) s.core.kSeen
    exec (.kqrySt h o) s = .next (s.givesG h o.d (if seen / 512 = handle / 256 then BitVec.ofNat 32 (seen % 512) else 0) 2)) ∧
  (∀ (h : Hdr) (d n : Nat) (s : State), s.Clear h [] →
    exec (.kqryOcc h ⟨d⟩) s = .next (s.givesG h d (BitVec.ofNat 32 (s.core.occSeen.1 + 0x10000 * s.core.occSeen.2)) 2) ∧
    exec (.kqryVer h ⟨d, n⟩) s = .next (s.givesG h d (match SMap.get none n s.core.verSeen with
      | some v => BitVec.ofNat 32 v
      | none => 0xFFFFFFFF) 2)) ∧
  (∀ (h : Hdr) (o : SettagArgs) (s : State), s.Clear h o.regs → exec (.settag h o) s =
    .next ((s.resNext (.csr 4) (BitVec.ofNat 32 ((s.regImm o.t).toNat % 65536))).spends (addedCycles false h.prot))) ∧
  (∀ (h : Hdr) (o : KmodeArgs) (s : State), s.Clear h [] → exec (.kmode h o) s = .next ((s.setCore fun c => { c with deferred :=
    c.deferred ++ [.kmode (match o.cls with
      | .vector => 0
      | .matrix => 1
      | .transpose => 2
      | .copy => 3) (match o.rm with
      | .rne => 0
      | .rtz => 1
      | .rdn => 2
      | .rup => 3
      | .rna => 4)] }).spends (addedCycles false h.prot))) ∧
  (∀ (h : Hdr) (p : Nat) (s : State), s.Clear h [] →
    let asked := s.core.yreq && s.strm.cls != .firmware && !s.strm.handler
    let stops := fun (t : State) => (if asked then t.setLatch fun l => { l with stopAfter := true } else t).spends (addedCycles false h.prot)
    exec (.yield h ⟨⟩) s = .next (stops s) ∧
    exec (.yieldF h ⟨p⟩) s = .next (stops (s.queues (s.result1 h (.p p) (lowBits 1) (if asked then 1 else 0) 1 0 .none))))

/-- R224, R225: CSRR gives the value of a control and status register at latency 1, CSRW writes it from the next issue cycle on, and
CSRX does both; a value that sets a reserved field raises ILLEGAL_OP (1) with the syllable. The values are those that R225 names; a read
of CYCLO latches the upper half of the clock count in CYCHI. -/
def Obligations.ControlRegisters : Prop :=
  (∀ (h : Hdr) (d : Nat) (s : State), s.Clear h [] →
    let reads := fun (csr v : Nat) => exec (.csrr h ⟨d, csr⟩) s = .next (s.givesG h d (BitVec.ofNat 32 v) 1)
    reads 0x000 s.strm.fcsr.toNat ∧ reads 0x002 s.strm.cychi.toNat ∧ reads 0x003 s.strm.icnt.toNat ∧ reads 0x004 s.strm.tagr.toNat ∧
    reads 0x005 (s.strm.slot + s.strm.unit * 256) ∧ reads 0x006 s.core.lcore ∧ reads 0x009 s.strm.pctl.toNat ∧ reads 0x011 (s.core.occSeen.1 + s.core.occSeen.2 * 0x10000) ∧
    reads 0x007 (if s.core.yreq ∧ s.strm.cls ≠ .firmware ∧ s.strm.handler = false then 1 else 0) ∧
    reads 0x008 (if s.core.yreq ∧ s.strm.cls ≠ .firmware ∧ s.strm.handler = false then s.core.yrem.toNat else 0) ∧
    reads 0x010 (s.strm.ordinal.toNat / 2 ^ 32) ∧ reads 0x012 s.core.engfl.toNat ∧
    reads 0x014 (s.core.tags.toNat % 2 ^ 32) ∧ reads 0x015 (s.core.tags.toNat / 2 ^ 32) ∧
    reads 0x040 s.strm.tcause.toNat ∧ reads 0x041 s.strm.tpc.toNat ∧ reads 0x042 (s.strm.tval.toNat % 2 ^ 32) ∧
    reads 0x043 (s.strm.tval.toNat / 2 ^ 32) ∧ reads 0x044 s.strm.tinfo.toNat ∧ reads 0x100 s.strm.yctl.toNat ∧
    reads 0x101 s.core.fshare ∧ reads 0x102 s.strm.fwrev.toNat ∧ reads 0x104 s.strm.fwvd.toNat ∧
    exec (.csrr h ⟨d, 0x001⟩) s = .next ((s.setStrm fun x => { x with cychi := BitVec.ofNat 32 (s.cycles s.rank / 2 ^ 32) }).givesG h d
      (BitVec.ofNat 32 (s.cycles s.rank)) 1)) ∧
  (∀ (h : Hdr) (o : CsrrArgs) (s : State), s.Clear h [] →
    exec (.csrr h o) s = .next ((s.csrRead o.csr).givesG h o.d (BitVec.ofNat 32 (s.csrVal o.csr)) 1)) ∧
  (∀ (h : Hdr) (o : CsrwArgs) (s : State), s.Clear h o.regs →
    (csrRefuses o.csr (s.regImm o.v) = true →
      exec (.csrw h o) s = .next (s.takeTrap 1 (sylVal (.csrw h o)) false h.slot h.prot false)) ∧
    (csrRefuses o.csr (s.regImm o.v) = false →
      exec (.csrw h o) s = .next ((s.resNext (.csr o.csr) (s.regImm o.v)).spends (addedCycles false h.prot)))) ∧
  (∀ (h : Hdr) (o : CsrxArgs) (s : State), s.Clear h o.regs →
    (csrRefuses o.csr (s.rdG o.s) = true →
      exec (.csrx h o) s = .next (s.takeTrap 1 (sylVal (.csrx h o)) false h.slot h.prot false)) ∧
    (csrRefuses o.csr (s.rdG o.s) = false → exec (.csrx h o) s = .next ((((s.csrRead o.csr).queues
      (s.result1 h (.g o.d) (lowBits 32) ((BitVec.ofNat 32 (s.csrVal o.csr)).setWidth 1024) 1 0 .none)).resNext (.csr o.csr) (s.rdG o.s)).spends
        (addedCycles false h.prot))))

/-- R221: NEST appends its record to the launch's list on every part of the launch where fewer than 16 stand there, and tells whether it
did; a malformed record raises NEST_FORMAT (15). R227: XLATE.r and XLATE.w tell whether the access could be made now, XLATE.p gives the
physical address or all ones; only the translation cache may change beside. -/
def Obligations.NestAndTranslate : Prop :=
  (∀ (h : Hdr) (o : NestArgs) (s : State), s.Clear h o.regs → s.acquiring = false → (s.rdA o.ar).toNat + 64 ≤ winSize s.core.pool →
    s.core.poisoned (s.rdA o.ar).toNat 64 = false →
    let ws := s.localWords (s.rdA o.ar).toNat 16
    (nestBad ws = true → exec (.nest h o) s = .next (s.takeTrap 15 0 false h.slot h.prot false)) ∧
    (nestBad ws = false →
      ((ws.getD 0 0).toNat / 4 % 4 = 2 → ∃ f, s.core.frame ((ws.getD 12 0).toNat % 64) = some f ∧ (FrameD.of f.words).space = 1) →
      let tab := if (ws.getD 0 0).toNat / 16 % 4 = 1 then pagesOf s.vdev ((s.rdA o.ap).toNat + (ws.getD 11 0).toNat) (2 * (ws.getD 3 0).toNat) else []
      (∀ x ∈ tab, (s.walkVa s.pkg x.1 x.2).isSome) →
      ∀ l, s.launch = some l →
        (16 ≤ l.nests.length → exec (.nest h o) s = .next (s.givesP h o.p false 1)) ∧
        (l.nests.length < 16 → ∃ t : State, exec (.nest h o) s = .next (t.givesP h o.p true 1) ∧ t.strm = s.strm ∧ t.core = s.core ∧
          t = (s.launchParts s.core.launch).foldl (fun u j => (u.pinAll (launchPkg j) tab).modLaunch j fun y => { y with nests := y.nests ++
            [⟨ws, s.rdA o.ap, nestBase ws s.core.frame, tab⟩] }) s))) ∧
  (∀ (h : Hdr) (p a : Nat) (s : State), s.Clear h [] → s.acquiring = false →
    let x := s.farCtx s.sid
    let va := (s.rdA a).toNat
    s.walkBlocked x.core x.pkg x.vdev va = false →
    (exec (.xlateR h ⟨p, a⟩) s = .next ((s.tlbFill x va).givesP h p (s.farTranslate x va false).toBool 1)) ∧
    (exec (.xlateW h ⟨p, a⟩) s = .next ((s.tlbFill x va).givesP h p (s.farTranslate x va true).toBool 1)) ∧
    let y := { x with phys := false }
    exec (.xlateP h ⟨p, a⟩) s = .next ((s.tlbFill y va).givesA h p (match s.tlbOf y va with
      | some t => if va < 2 ^ 56 then BitVec.ofNat 64 (t.phys + va % 65536) else BitVec.allOnes 64
      | none => BitVec.allOnes 64) 1))

/-! ## Exceptions, returns and the firmware context (09 R247, R248, 16 R364 to R382, 23 R499 to R505) -/

/-- R364, R367, R370: an exception of a stream outside its handler, of a cause that goes to the stream's own handler, saves cause, place,
value and TINFO, parks the results in flight in the landing queue, and enters handler mode at slot 0 of the image's HANDLER line, where
the first bundle issues 4 arithmetic clocks later; no register, no memory and no other stream changes. -/
def Obligations.ExceptionEntry : Prop :=
  ∀ (s : State) (cause val : Nat) (d b2 : Bool) (slot prot line : Nat),
    s.strm.handler = false → (s.strm.cls = .firmware → s.core.fwst ≠ .probation ∧ s.core.fwst ≠ .alive) →
    delivery s.strm.cls cause = .handler →
    handlerLine (s.core.codeFor s.strm.cls).1 (s.core.codeFor s.strm.cls).2 s.strm.cls = some line → s.strm.latch.b2 = false →
    slot < 2 → prot < 4 → s.strm.flight.length < 2 ^ 13 → s.strm.unit < 16 →
    ∃ x : Stream, s.takeTrap cause val d slot prot b2 = { s with strm := x } ∧
      x.pos = ⟨line, 0⟩ ∧ x.handler = true ∧ x.run = .running ∧ x.stall = 3 ∧ x.flight = [] ∧ x.landing = s.strm.flight ∧
      x.tcause = BitVec.ofNat 32 (cause + if d then 0x10000 else 0) ∧ x.tval = BitVec.ofNat 64 val ∧
      x.tpc = BitVec.ofNat 32 (s.strm.pos.line * 16 + s.strm.pos.slot) ∧
      x.tinfo = BitVec.ofNat 32 (s.strm.flight.length + prot * 0x2000 + slot * 0x8000 + (if b2 then 0x10000 else 0) + 0x20000 +
        s.strm.unit * 0x100000) ∧
      x.g = s.strm.g ∧ x.gMark = s.strm.gMark ∧ x.v = s.strm.v ∧ x.a = s.strm.a ∧ x.p = s.strm.p ∧ x.m = s.strm.m ∧ x.b = s.strm.b ∧
      x.q = s.strm.q ∧ x.lc = s.strm.lc ∧ x.fcsr = s.strm.fcsr ∧ x.tagr = s.strm.tagr ∧ x.icnt = s.strm.icnt ∧ x.cyc = s.strm.cyc

/-- R364, R369: a system fault of a control-program or vector stream outside its handler stops the stream and is queued for the firmware
context of its core, with its cause, value and place, where fewer than eight faults are pending; else it waits (log 96). The firmware
context takes the queued event of the lowest-numbered unit at its own handler once it runs, is not in its handler and its image is
committed. -/
def Claims.SystemFaultEntry : Prop :=
  (∀ (s : State) (cause val : Nat) (d b2 : Bool) (slot prot : Nat), s.strm.handler = false → s.strm.cls = .control ∨ s.strm.cls = .vector →
    delivery s.strm.cls cause = .firmware → s.strm.unit < 8 → s.strm.latch.b2 = false → s.core.sysOver = [] →
    let t := s.takeTrap cause val d slot prot b2
    let e : SysEvent := ⟨s.strm.unit, cause, d, val, s.strm.pos.packed, trapInfo slot prot b2, none⟩
    let room := ((s.core.sysQ ++ s.core.sysCur).filter SysEvent.isFault).length < 8
    t.strm.run = .faulted ∧ t.strm.sysf = true ∧ t.strm.pos = s.strm.pos ∧ t.strm.flight = s.strm.flight ∧
      t.strm.tcause = BitVec.ofNat 32 (cause + if d then 0x10000 else 0) ∧ t.strm.tval = BitVec.ofNat 64 val ∧
      t.strm.g = s.strm.g ∧ t.strm.a = s.strm.a ∧ t.strm.v = s.strm.v ∧ t.core.loc = s.core.loc ∧ t.sys.hbm = s.sys.hbm ∧
      t.core.sysCur = s.core.sysCur ∧
      (room → t.core.sysQ = s.core.sysQ ++ [e] ∧ t.core.sysOver = []) ∧ (¬ room → t.core.sysQ = s.core.sysQ ∧ t.core.sysOver = [e])) ∧
  (∀ (s : State) (k line : Nat) (e : SysEvent),
    let fw := s.strmOf (sidOf k 8)
    let c := s.coreOf k
    let t := s.fwDeliver k
    c.sysQ.find? (fun f => decide (f.unit = e.unit)) = some e → (∀ f ∈ c.sysQ, e.unit ≤ f.unit) → e.unit ≤ 16 →
    fw.run = .running → fw.handler = false → c.fwst ≠ .probation → c.fwst ≠ .alive →
    handlerLine c.fwCode c.fwLen .firmware = some line →
      (t.coreOf k).sysQ = c.sysQ.erase e ∧ (t.coreOf k).sysCur = c.sysCur ++ [e] ∧ (t.strmOf (sidOf k 8)).pos = ⟨line, 0⟩ ∧
        (t.strmOf (sidOf k 8)).handler = true ∧ (t.strmOf (sidOf k 8)).tcause = BitVec.ofNat 32 (e.cause + if e.dflag then 0x10000 else 0) ∧
        (t.strmOf (sidOf k 8)).tval = BitVec.ofNat 64 e.val ∧ (t.strmOf (sidOf k 8)).g = fw.g)

/-- R368: an exception in the firmware context's own handler, or while its image is in probation, stops that context. -/
def Claims.FirmwareFailure : Prop :=
  ∀ (s : State) (cause val : Nat) (d b2 : Bool) (slot prot : Nat), s.strm.cls = .firmware → s.sid = sidOf s.ck 8 →
    (s.strm.handler = true ∨ s.core.fwst = .probation ∨ s.core.fwst = .alive) →
    (s.takeTrap cause val d slot prot b2).strm.run = .failed ∧
      (s.core.fwst = .probation ∨ s.core.fwst = .alive → (s.takeTrap cause val d slot prot b2).core.fwst = .reverted)

/-- R372, R373: TRAP stops the stream after its bundle with its code, as an exception of cause 4 at the bundle that would issue next; RETT and RETT.nx return from the handler, and raise ILLEGAL_OP (1)
outside it; the return clears handler mode, replays the landing queue, and issues the bundle at TPC, or after it, 4 ac later. -/
def Claims.TrapAndReturn : Prop :=
  (∀ (h : Hdr) (o : TrapArgs) (s : State), s.Clear h [] → exec (.trap h o) s = .next ((s.setLatch fun l => { l with
    trapAfter := some (o.code + 0x1000 * h.slot + 0x2000 * h.prot) }).spends (addedCycles false h.prot))) ∧
  (∀ (h : Hdr) (o : NoArgs) (n : Form1Args) (s : State), s.Clear h [] →
    (s.strm.handler = true →
      exec (.rett h o) s = .next ((s.setStrm fun x => { x with run := .returning false }).spends (addedCycles false h.prot)) ∧
      exec (.rettNx h n) s = .next ((s.setStrm fun x => { x with run := .returning true }).spends (addedCycles false h.prot))) ∧
    (s.strm.handler = false →
      exec (.rett h o) s = .next (s.takeTrap 1 (sylVal (.rett h o)) false h.slot h.prot false) ∧
      exec (.rettNx h n) s = .next (s.takeTrap 1 (sylVal (.rettNx h n)) false h.slot h.prot false))) ∧
  (∀ (s : State) (next : Bool), s.strm.endWait = false → ∃ x : Stream, s.handlerReturn next = { s with strm := x } ∧
    x.run = .running ∧ x.handler = false ∧ x.flight = s.strm.landing ∧ x.landing = [] ∧ x.stall = 3 ∧ x.tinfo.getLsbD 17 = false ∧
    (let p : Pos := ⟨s.strm.tpc.toNat / 16 % 2 ^ 28, s.strm.tpc.toNat % 16⟩
     x.pos = if next then nextPos (s.core.codeFor s.strm.cls).1 s.strm.cls.single p else p) ∧
    x.g = s.strm.g ∧ x.a = s.strm.a ∧ x.v = s.strm.v ∧ x.p = s.strm.p ∧ x.fcsr = s.strm.fcsr ∧ x.tcause = s.strm.tcause) ∧
  (∀ (s : State) (code slot prot : Nat), code < 0x1000 → slot < 2 → prot < 4 →
    s.strm.trapDue = some (code + 0x1000 * slot + 0x2000 * prot + if s.strm.handler then 0x8000 else 0) →
    s.takeTrapDue = some ((s.setStrm fun x => { x with trapDue := none }).takeTrap 4 code false slot prot false))

/-- R373: RETT.res lets a stream that waits for the firmware issue its stopping bundle again, or retries a failed copy; RETT.ref gives the
fault to the stream's own handler. Both drop the decided event; a unit with nothing to decide raises STREAM_STATE (31). -/
def Claims.FirmwareReturns : Prop :=
  (∀ (h : Hdr) (o : RettResArgs) (s : State), s.Clear h o.regs →
    (∀ u, s.waitingUnit (s.rdG o.g) = some u →
      (∀ e, s.core.sysEvent u false = some e → exec (.rettRes h o) s =
        .next (((s.setCore fun c => c.dropEvent e).resumeStream (sidOf s.ck u)).spends (addedCycles false h.prot))) ∧
      (s.core.sysEvent u false = none → exec (.rettRes h o) s =
        .next ((s.resumeStream (sidOf s.ck u)).spends (addedCycles false h.prot)))) ∧
    (s.waitingUnit (s.rdG o.g) = none →
      (∀ e id, s.asyncFault (s.rdG o.g) = some e → e.copyId = some id → exec (.rettRes h o) s =
        .next ((s.setCore fun c => (c.dropEvent e).retryCopy id).spends (addedCycles false h.prot))) ∧
      (s.asyncFault (s.rdG o.g) = none → exec (.rettRes h o) s = .next (s.takeTrap 31 0 false h.slot h.prot false)))) ∧
  (∀ (h : Hdr) (o : RettRefArgs) (s : State), s.Clear h o.regs →
    (∀ u e, s.waitingUnit (s.rdG o.g) = some u → s.core.sysEvent u false = some e → exec (.rettRef h o) s =
      .next (((s.setCore fun c => c.dropEvent e).referStream (sidOf s.ck u) e).spends (addedCycles false h.prot))) ∧
    (∀ u, s.waitingUnit (s.rdG o.g) = some u → s.core.sysEvent u false = none →
      exec (.rettRef h o) s = .next (s.takeTrap 31 0 false h.slot h.prot false)) ∧
    (s.waitingUnit (s.rdG o.g) = none → exec (.rettRef h o) s = .next (s.takeTrap 31 0 false h.slot h.prot false)))

/-- R374: CHK raises the mark of its register or of the head of its queue and otherwise has no effect; CHK.nb tells whether the register is
marked. R375: ABORT of a vector stream stops the stream after its bundle and logs a record; of the control program it ends the
iteration; ABORT.req purges the request's tag; the firmware context raises ILLEGAL_OP (1). -/
def Obligations.CheckAndAbort : Prop :=
  (∀ (h : Hdr) (p g : Nat) (s : State), s.Clear h [] →
    (s.markG g = .none → exec (.chk h ⟨g⟩) s = .next (s.spends (addedCycles false h.prot))) ∧
    (∀ c v, s.markG g = .deferred c v → exec (.chk h ⟨g⟩) s = .next (s.takeTrap c v true h.slot h.prot false)) ∧
    (s.markG g = .poison → exec (.chk h ⟨g⟩) s = .next (s.takeTrap 25 0 false h.slot h.prot false)) ∧
    exec (.chkNb h ⟨p, g⟩) s = .next (s.givesP h p (decide (s.markG g ≠ .none)) 1)) ∧
  (∀ (h : Hdr) (o : ChkQArgs) (s : State), s.Clear h [] →
    (((s.rdQ o.q).filter fun e => !e.spec) = [] → exec (.chkQ h o) s = .next (s.spends (addedCycles false h.prot))) ∧
    ∀ e rest, ((s.rdQ o.q).filter fun e => !e.spec) = e :: rest →
      (e.data = none ∨ s.core.ac < e.readyAt → exec (.chkQ h o) s = .next (s.setLatch fun l => { l with wait := true })) ∧
      (e.data ≠ none → e.readyAt ≤ s.core.ac →
        (e.mark = .none → exec (.chkQ h o) s = .next (s.spends (addedCycles false h.prot))) ∧
        (∀ c v, e.mark = .deferred c v → exec (.chkQ h o) s = .next (s.takeTrap c v true h.slot h.prot false)) ∧
        (e.mark = .poison → exec (.chkQ h o) s = .next (s.takeTrap 25 0 false h.slot h.prot false)))) ∧
  (∀ (h : Hdr) (o : TrapArgs) (s : State), s.Clear h [] →
    (s.strm.cls = .firmware → exec (.abort h o) s = .next (s.takeTrap 1 (sylVal (.abort h o)) false h.slot h.prot false)) ∧
    (s.strm.cls = .control → s.strm.lost = [] → exec (.abort h o) s =
      .next (((s.abortRecord o.code).setLatch fun l => { l with ended := true }).spends (addedCycles false h.prot))) ∧
    (s.strm.cls ≠ .firmware → s.strm.cls ≠ .control → exec (.abort h o) s =
      .next (((s.abortRecord o.code).setStrm fun x => { x with run := .aborting }).spends (addedCycles false h.prot)))) ∧
  (∀ (h : Hdr) (o : AbortReqArgs) (s : State), s.Clear h [] → exec (.abortReq h o) s =
    .next (((s.abortRecord o.code).purge s.core.launch s.strm.tagr.toNat 30 s.rank).spends (addedCycles false h.prot)))

/-- R499, R382, R397: FSHARE sets the share from the next issue cycle on; PURGE of a tag and PURGE.l order the purge, which takes effect at the
end of the clock (R381); on one package they complete at once, and those of a launch on several packages once every one has acknowledged
(R461). PURGE.clr takes a tag out of the filters; SHRD appends the 64 bytes at an aligned local address to the die's log ring. -/
def Obligations.FirmwareCommands : Prop :=
  (∀ (h : Hdr) (o : FshareArgs) (s : State), s.FwClear h [] → exec (.fshare h o) s =
    .next ((s.resNext (.csr 0x101) (BitVec.ofNat 32 o.n)).spends (addedCycles false h.prot))) ∧
  (∀ (h : Hdr) (o : PurgeArgs) (f : Form1Args) (s : State), s.FwClear h o.regs →
    let lk := s.core.launch
    let status := if s.core.sysCur.any fun e => decide (e.cause = 27) then 27 else 33
    let multi := s.launch.any fun l => l.multi
    let orders := fun (tag status : Nat) => let t := s.purge lk tag status s.rank
      if multi then (t.setStrm fun x => { x with rbar := .sent lk }).setLatch fun l => { l with wait := true } else t.spends (addedCycles false h.prot)
    let tag := (s.rdG o.g).toNat % 65536
    (s.strm.rbar = .none → exec (.purge h o) s = .next (orders tag 33) ∧ exec (.purgeL h f) s = .next (orders 0 status)) ∧
    (∀ j, s.strm.rbar = .sent j →
      let ends := fun (tag : Nat) => if s.purging j tag then s.setLatch fun l => { l with wait := true }
        else (s.setStrm fun x => { x with rbar := .none }).spends (addedCycles false h.prot)
      exec (.purge h o) s = .next (ends tag) ∧ exec (.purgeL h f) s = .next (ends 0)) ∧
    (s.purge lk tag 33 s.rank).sys.purges = s.sys.purges ++ [(lk, tag, 33, s.rank)]) ∧
  (∀ (h : Hdr) (o : PurgeClrArgs) (s : State), s.FwClear h o.regs → ∀ l, s.launch = some l → ∃ t l',
    exec (.purgeClr h o) s = .next (t.spends (addedCycles false h.prot)) ∧ t = s.putLaunch s.core.launch (some l') ∧
      (∀ tag, tag ∈ SMap.get [] 0 l'.filters ↔ tag ∈ SMap.get [] 0 l.filters ∧ tag ≠ (s.rdG o.g).toNat % 65536) ∧
      l'.nests = l.nests ∧ l'.phase = l.phase ∧ l'.purgeList = l.purgeList) ∧
  (∀ (h : Hdr) (o : ShrdArgs) (s : State), s.Clear h o.regs →
    let a := (s.rdA o.a).toNat
    (a % 8 ≠ 0 → exec (.shrd h o) s = .next (s.takeTrap 7 a false h.slot h.prot false)) ∧
    (a % 8 = 0 → a + 64 ≤ winSize s.core.pool → s.acquiring = false → s.core.poisoned a 64 = false →
      exec (.shrd h o) s = .next ((s.logRecord s.rank (s.localBytes a 64)).1.spends (addedCycles false h.prot))))

/-- R247, R248: PTW writes a page-table entry of the package, whose eight bytes alone change in memory, and invalidates every translation
that was made through it; a change that pinned pages were translated through waits, and blocks the walks of the entry meanwhile, or with .nb
gives false. TLBI invalidates the
translations that it names once none of their pages is counted. A misaligned entry raises ALIGN (7), one outside the package PHYS_RANGE (17). -/
def Obligations.TranslationCommands : Prop :=
  (∀ (h : Hdr) (o : PtwArgs) (p : Nat) (s : State), s.FwClear h o.regs →
    let ea := (s.rdA o.ae).toNat
    let new := (s.rdA o.av).toNat
    let busy := ptwGuarded (Memory.readNat s.sys.hbm ea 8) new && s.pinnedThrough ea
    (ea % 8 ≠ 0 → exec (.ptw h o) s = .next (s.takeTrap 7 ea false h.slot h.prot false)) ∧
    (ea % 8 = 0 → ¬(isHbm ea = true ∧ physPkg ea = s.pkg) → exec (.ptw h o) s = .next (s.takeTrap 17 ea false h.slot h.prot false)) ∧
    (ea % 8 = 0 → isHbm ea = true → physPkg ea = s.pkg → s.recordProtected ea = true →
      exec (.ptw h o) s = .next (s.takeTrap 18 ea false h.slot h.prot false)) ∧
    (ea % 8 = 0 → isHbm ea = true → physPkg ea = s.pkg → s.recordProtected ea = false →
      (busy = true → exec (.ptw h o) s = .next ((s.ptwHold ea).setLatch fun l => { l with wait := true }) ∧
        exec (.ptwNb h ⟨p, o.ae, o.av⟩) s = .next (s.givesP h p false 1)) ∧
      (busy = false → ∃ t : State, exec (.ptw h o) s = .next (t.spends (addedCycles false h.prot)) ∧
        exec (.ptwNb h ⟨p, o.ae, o.av⟩) s = .next (t.givesP h p true 1) ∧
        t = (s.hbmWrite ea (leBytes 8 new)).tlbDrop s.pkg (fun _ x => x.path.contains ea) ∧
        (∀ x, Memory.read t.sys.hbm x = if ea ≤ x ∧ x < ea + 8 then BitVec.ofNat 8 (new / 256 ^ (x - ea)) else Memory.read s.sys.hbm x)))) ∧
  (∀ (h : Hdr) (s : State) (named : Nat × Nat → Bool), (∀ x ∈ s.pinnedPages s.pkg, named x = false) →
    let t := (s.tlbDrop s.pkg fun key _ => named (keyPage key)).spends (addedCycles false h.prot)
    (∀ o : TlbiVaArgs, s.FwClear h o.regs → named = (fun x => decide (x.1 = o.vd ∧ (s.rdA o.a).toNat / 0x10000 ≤ x.2 / 0x10000 ∧
      x.2 / 0x10000 < (s.rdA o.a).toNat / 0x10000 + (s.rdG o.g).toNat)) → exec (.tlbiVa h o) s = .next t) ∧
    (∀ o : TlbiVdArgs, s.FwClear h [] → named = (fun x => decide (x.1 = o.vd)) → exec (.tlbiVd h o) s = .next t)) ∧
  (∀ (h : Hdr) (o : Form2Args) (s : State), s.FwClear h [] →
    (s.pinnedPages s.pkg = [] → exec (.tlbiAll h o) s = .next ((s.tlbDrop s.pkg fun _ _ => true).spends (addedCycles false h.prot))) ∧
    (s.pinnedPages s.pkg ≠ [] → exec (.tlbiAll h o) s = .next (s.setLatch fun l => { l with wait := true }))) ∧
  (∀ (s : State) (hit : Nat → Tlb → Bool) (key : Nat) (e : Tlb), isParkKey s.ck = false →
    SMap.get none key (s.tlbDrop s.pkg hit).core.tlb = some e → hit key e = false)

/-- R501, R506: FWSWAP with a standby image armed, a whole hand-over record and nothing in flight starts the new image in probation: the old
context stays in the shadow, a0 is the address of the record, g0 the old revision, g1 the core's number, the other registers are
zero; the record is closed with its CRC-32C and FROZEN = 1. Without an armed image, or a whole record in memory, it gives false. -/
def Obligations.ImageSwap : Prop :=
  ∀ (h : Hdr) (o : FwswapArgs) (s : State), s.FwClear h o.regs →
    let ah := (s.rdA o.a).toNat
    let d := s.dieOf s.rank
    let len := fun (m : Memory) => handoverLen (Memory.readBytes m ah 64) (coreInDie s.ck)
    (ah % 64 ≠ 0 → exec (.fwswap h o) s = .next (s.takeTrap 7 ah false h.slot h.prot false)) ∧
    (ah % 64 = 0 → s.onDie ah 64 = true → s.onDie ah ((len s.sys.hbm).getD 64) = true →
      (d.fwstby.toNat % 2 = 0 → exec (.fwswap h o) s = .next (s.givesP h o.p false 1)) ∧
      (d.fwstby.toNat % 2 = 1 → s.released true = true → (∀ f ∈ s.strm.flight, f.pos = s.strm.pos ∧ f.k = f.lat) →
        let s1 := s.flushRange s.ck ah ((len s.sys.hbm).getD 64) true
        (len s1.sys.hbm = none → exec (.fwswap h o) s = .next (s1.givesP h o.p false 1)) ∧
        ∀ n, len s1.sys.hbm = some n →
          let bs := Memory.readBytes s1.sys.hbm ah n
          let t := ((s1.hbmWrite (ah + 24) (leBytes 4 (crc32c (patch 24 [0, 0, 0, 0] bs)) ++ [bs.getD 28 0 ||| 1])).swapImage o.p ah n).spends
            (addedCycles false h.prot)
          exec (.fwswap h o) s = .next t ∧
          t.core.fwst = .probation ∧ (∃ x, t.core.fwShadow = some x ∧ x.g = s.strm.g ∧ x.a = s.strm.a ∧ x.p = s.strm.p) ∧
          t.core.fwRecord = some (ah, n) ∧ t.core.fwDue = s.sys.dc + d.fwwd.toNat / 2 ^ 32 ∧ t.core.fwPd = o.p ∧
          t.strm.run = .running ∧ t.strm.latch.taken = some ⟨d.fwsent.toNat % 2 ^ 28, 0⟩ ∧ t.rdA 0 = BitVec.ofNat 64 ah ∧
          t.rdG 0 = s.strm.fwrev ∧ t.rdG 1 = BitVec.ofNat 32 (coreInDie s.ck) ∧ (∀ i, 2 ≤ i → t.rdG i = 0) ∧ (∀ i, 1 ≤ i → t.rdA i = 0) ∧
          t.strm.fwrev = BitVec.ofNat 32 (d.fwsent.toNat / 2 ^ 32) ∧ t.core.loc = s1.core.loc ∧
          (∀ x, (x < ah + 24 ∨ ah + 29 ≤ x) → Memory.read t.sys.hbm x = Memory.read s1.sys.hbm x)))

/-! ## FRZ (18 R424 to R441, 23 R509) -/

/-- R425, R426, R424: FRZ.arm writes REQUIRED into the descriptor, then arms the area that it names, or gives false and arms nothing. FRZ.dirty
writes the dirty-page section of an armed area and clears the bits. FRZ.dis disarms. The launch may be a launch of the package or, with the
identifier of a virtual device, that device (R509). -/
def Claims.FreezeArming : Prop :=
  (∀ (h : Hdr) (o : FrzArmArgs) (s : State), s.FwClear h o.regs → (s.rdA o.a).toNat + 64 ≤ winSize s.core.pool →
    s.core.poisoned (s.rdA o.a).toNat 64 = false →
    let gl := (s.rdG o.g).toNat
    let ab := (s.rdA o.a).toNat
    let d := s.localBytes ab 64
    (gl % 2 ^ 28 ≠ 0 →
      (s.frzLaunch gl = none → exec (.frzArm h o) s = .next (s.givesP h o.p false 1)) ∧
      ∀ l, s.frzLaunch gl = some l →
        let table := (layout (s.sections l gl)).1
        let req := (layout (s.sections l gl)).2
        let off := match table.find? (·.1.typ = 4) with
          | some (_, n) => n
          | none => 0
        (s.areaOf d req off = none → exec (.frzArm h o) s = .next ((s.writeRequired ab req).givesP h o.p false 1)) ∧
        (∀ a, s.areaOf d req off = some a → ∃ t : State, exec (.frzArm h o) s = .next (t.givesP h o.p true 1) ∧
          t = (s.writeRequired ab req).armLaunch (launchKey s.pkg gl) l a table ∧
          ∃ m, t.launchOf (launchKey s.pkg gl) = some m ∧ m.area = some a ∧ m.phase = l.phase ∧ m.maps = l.maps)) ∧
    (gl % 2 ^ 28 = 0 →
      let v := gl / 2 ^ 28
      let req := natSum ((s.deviceRanges s.pkg v).map fun x => pad64 (16 + (x.2 + 7) / 8))
      (s.areaOf d req 0 = none → exec (.frzArm h o) s = .next ((s.writeRequired ab req).givesP h o.p false 1)) ∧
      (∀ a, s.areaOf d req 0 = some a → ∃ t : State, exec (.frzArm h o) s = .next (t.givesP h o.p true 1) ∧ t.strm = s.strm ∧
        (t.vdevOf s.pkg v).devArea = some a ∧ t.sys.hbm = s.sys.hbm ∧ t.sys.launches = s.sys.launches))) ∧
  (∀ (h : Hdr) (o : FrzDirtyArgs) (s : State), s.FwClear h o.regs → (s.rdA o.a).toNat + 64 ≤ winSize s.core.pool →
    s.core.poisoned (s.rdA o.a).toNat 64 = false →
    let gl := (s.rdG o.g).toNat
    let v := gl / 2 ^ 28
    (gl % 2 ^ 28 ≠ 0 → (∀ l, s.launchOf (launchKey s.pkg gl) = some l → l.area = none) →
      exec (.frzDirty h o) s = .next (s.givesP h o.p false 1)) ∧
    (∀ l a, gl % 2 ^ 28 ≠ 0 → s.launchOf (launchKey s.pkg gl) = some l → l.area = some a → exec (.frzDirty h o) s =
      .next (((s.areaWrite a a.dirtyOff (blobOf (s.launchDirty l gl))).putLaunch (launchKey s.pkg gl) (some { l with dirty := [] })).givesP h o.p true 1)) ∧
    (gl % 2 ^ 28 = 0 → (s.vdevOf s.pkg v).devArea = none → exec (.frzDirty h o) s = .next (s.givesP h o.p false 1)) ∧
    (∀ a, gl % 2 ^ 28 = 0 → (s.vdevOf s.pkg v).devArea = some a → exec (.frzDirty h o) s =
      .next (((s.areaWrite a 0 (blobOf (s.deviceDirty s.pkg v (s.vdevOf s.pkg v).devDirty))).modVdev s.pkg v fun x => { x with devDirty := [] }).givesP
        h o.p true 1))) ∧
  (∀ (h : Hdr) (o : FrzDisArgs) (s : State), s.FwClear h o.regs →
    let gl := (s.rdG o.g).toNat
    let v := gl / 2 ^ 28
    ∃ t : State, exec (.frzDis h o) s = .next (t.spends (addedCycles false h.prot)) ∧ t.strm = s.strm ∧ t.core = s.core ∧ t.sys.hbm = s.sys.hbm ∧
      (gl % 2 ^ 28 ≠ 0 → ∀ l, t.launchOf (launchKey s.pkg gl) = some l → l.area = none) ∧
      (gl % 2 ^ 28 = 0 → (t.vdevOf s.pkg v).devArea = none))

/-- R417, R421, R427, R438: FRZ.y raises the yield request, with the deadline of YCTL, on the cores that hold the launch here, if it is armed.
FRZ.go withdraws it and restores what can be restored. FRZ sends the freeze to the launch's packages, waits, and once every die has
completed its part puts the launch into its image. FRZ.res resumes the image at the descriptor's BASE where it fits. Each tells whether it
did; an unknown launch gives false. -/
def Claims.FreezeInstructions : Prop :=
  (∀ (h : Hdr) (o : FrzYArgs) (s : State), s.FwClear h o.regs →
    let gl := (s.rdG o.g).toNat
    ((∀ l, s.frzLaunch gl = some l → l.area = none) → exec (.frzY h o) s = .next (s.givesP h o.p false 1)) ∧
    (∀ l, s.frzLaunch gl = some l → l.area ≠ none → ∃ t : State, exec (.frzY h o) s = .next (t.givesP h o.p true 1) ∧ t.strm = s.strm ∧
      t.streams = s.streams ∧ t.sys.hbm = s.sys.hbm ∧ ∀ c ∈ l.residents, (t.coreOf c.2).yreq = true ∧
        (t.coreOf c.2).yrem = BitVec.ofNat 32 ((s.strmOf (sidOf c.2 8)).yctl.toNat % 2 ^ 25) ∧ (t.coreOf c.2).loc = (s.coreOf c.2).loc)) ∧
  (∀ (h : Hdr) (o : FrzGoArgs) (s : State), s.FwClear h o.regs →
    let gl := (s.rdG o.g).toNat
    let lk := launchKey s.pkg gl
    (s.frzLaunch gl = none → exec (.frzGo h o) s = .next (s.givesP h o.p false 1)) ∧
    (∀ l, s.frzLaunch gl = some l → exec (.frzGo h o) s = .next (((((l.residents.foldl (fun t c => t.withdrawYield c.2) s).modLaunch lk
      fun y => { y with goes := true }).restoreFree lk).resP h o.p true 1).spends (addedCycles false h.prot)))) ∧
  (∀ (h : Hdr) (o : FrzArgs) (s : State), s.FwClear h o.regs →
    let gl := (s.rdG o.g).toNat
    let lk := launchKey s.pkg gl
    let parts := s.launchParts lk
    let all := fun (p : Launch → Prop) => ∀ j ∈ parts, ∃ l, s.launchOf j = some l ∧ p l
    let ends := fun (t : State) (ok : Bool) => ((t.setStrm fun x => { x with rbar := .none }).resP h o.p ok 1).spends (addedCycles false h.prot)
    (s.frzLaunch gl = none → exec (.frz h o) s = .next (ends s false)) ∧
    (∀ l, s.frzLaunch gl = some l → s.strm.rbar = .none →
      (l.bare = none → all (fun p => p.area ≠ none ∧ p.phase = .running ∧ p.freezing = []) → exec (.frz h o) s =
        .next (((parts.foldl (fun t j => t.modLaunch j fun p => p.wave.foldl (fun q r => q.setFreeze r 1 0 0) p) s).setStrm fun x =>
          { x with rbar := .sent 0 }).setLatch fun y => { y with wait := true })) ∧
      (l.bare ≠ none ∨ ¬ all (fun p => p.area ≠ none ∧ p.phase = .running ∧ p.freezing = []) →
        exec (.frz h o) s = .next (ends s false))) ∧
    (∀ l, s.frzLaunch gl = some l → s.strm.rbar ≠ .none →
      (all (fun p => (∀ r ∈ p.wave, p.stage r = 3) ∧ ∀ a, p.area = some a → a.sound = true) →
        exec (.frz h o) s = .next (ends (parts.foldl State.finishFreeze s) true)) ∧
      (all (fun p => ∀ r ∈ p.wave, p.stage r = 3) → ¬ all (fun p => ∀ a, p.area = some a → a.sound = true) → ∃ t : State,
        exec (.frz h o) s = .next (ends t false)) ∧
      (all (fun p => ∀ r ∈ p.wave, p.stage r ≠ 0) → ¬ all (fun p => ∀ r ∈ p.wave, p.stage r = 3) →
        exec (.frz h o) s = .next (s.setLatch fun y => { y with wait := true })) ∧
      (¬ all (fun p => ∀ r ∈ p.wave, p.stage r ≠ 0) → exec (.frz h o) s = .next (ends s false)))) ∧
  (∀ (h : Hdr) (o : FrzResArgs) (s : State), s.FwClear h o.regs → (s.rdA o.a).toNat + 64 ≤ winSize s.core.pool →
    s.core.poisoned (s.rdA o.a).toNat 64 = false →
    let gl := (s.rdG o.g).toNat
    let lk := launchKey s.pkg gl
    let vdev := s.localNat ((s.rdA o.a).toNat + 24) 4
    let mask := s.localNat ((s.rdA o.a).toNat + 32) 32
    let img := s.imageAt s.pkg vdev (s.localNat (s.rdA o.a).toNat 8)
    (img = none → exec (.frzRes h o) s = .next (s.givesP h o.p false 1)) ∧
    (∀ i, img = some i →
      let fits := (∀ l, s.launchOf lk = some l → l.phase = .frozen) ∧ vdev < 16 ∧ gl % 2 ^ 28 ≠ 0 ∧ i.ndie ≤ (maskDies mask s.pkg).length ∧
        s.framesFit i s.pkg vdev = true ∧ s.regionsFit s.pkg vdev gl (i.entries vdev gl) = true
      (¬ fits → exec (.frzRes h o) s = .next (s.givesP h o.p false 1)) ∧
      (fits → exec (.frzRes h o) s = .next (((s.resume lk mask vdev i).resP h o.p true 1).spends (addedCycles false h.prot)))))

/-! ## The engines (13 R311 to R328, 14 R329 to R360) -/

/-- What a pass needs to issue (R312, R322, R332): a format that runs at the service level, initialised rings whose slots hold the
operands, no tile of another task, published slots that are not yet claimed, a free array and tile buffer, and no poison. -/
def Claims.PassReady (s : State) (f : MFmt) (ka kb kk : Nat) (tiles : List Nat) : Prop :=
  let ra := s.core.ring ka
  let rb := s.core.ring kb
  let na := (ra.ccnt + ra.claimed) % 2 ^ 32
  let nb := (rb.ccnt + rb.claimed + if ka = kb then 1 else 0) % 2 ^ 32
  s.formatBarred f = false ∧ ra.init = true ∧ rb.init = true ∧ operandBytes f kk ≤ ra.slotsz * 128 ∧ operandBytes f kk ≤ rb.slotsz * 128 ∧
    s.tileBusy tiles = none ∧ ra.claimed + (if ka = kb then 2 else 1) ≤ ra.published ∧ rb.claimed + 1 ≤ rb.published ∧
    s.strm.eng.arrayFree ≤ s.strm.cyc ∧ s.bufferFree = true ∧ na ∉ ra.poison ∧ nb ∉ rb.poison ∧
    s.core.poisoned (ra.slotAt na) (operandBytes f kk) = false ∧ s.core.poisoned (rb.slotAt nb) (operandBytes f kk) = false

/-- R275, R312, R316, R332, R333: MMA and MBLK take the array for their streaming cycles, claim the head slots of their rings, which they pop
once they have streamed unless they keep them, and put in flight a tile write 140 issue cycles after streaming: MMA one sum over K to
be added to its tile, MBLK one partial for each block of 32 to be put. The tiles are marked for the issuing task (R313). A cell of a float format is the sequential sum of R52 over
its row of A and its column of B, an integer one the sum modulo 2^32. -/
def Obligations.MatrixPasses : Prop :=
  (∀ (h : Hdr) (f : MFmt) (t ka kb k1 : Nat) (keep : Bool) (s : State),
    let kk := 32 * (k1 + 1)
    let cycles := passCycles f kk
    let ra := s.core.ring ka
    let rb := s.core.ring kb
    let pa := ra.slotAt ((ra.ccnt + ra.claimed) % 2 ^ 32)
    let pb := rb.slotAt ((rb.ccnt + rb.claimed + if ka = kb then 1 else 0) % 2 ^ 32)
    let core := fun (c : Core) =>
      let d := { c with passes := c.passes + 1 }
      let claim := fun (c : Core) (k : Nat) => c.setRing k { c.ring k with claimed := (c.ring k).claimed + 1 }
      if keep then d else claim (claim d ka) kb
    let passes := fun (out : Host.Outcome State Fault Refusal) (mode : TileMode) (parts : List (Nat × List (List Word))) =>
      let at_ := s.strm.cyc + (cycles * (1 + h.prot) + 140)
      let own := s.taskSeq s.sid
      let e := s.strm.eng.markTiles (parts.map Prod.fst) own
      ∃ fl : Word, out = .next { s with core := core s.core, strm := { s.strm with eng := { e with
        arrayFree := s.strm.cyc + cycles * (1 + h.prot)
        pops := if keep then e.pops else e.pops ++ [(s.strm.cyc + cycles, ka, 1), (s.strm.cyc + cycles, kb, 1)]
        buffers := e.buffers ++ [at_]
        writes := e.writes ++ [⟨at_, parts, mode, fl, none, none, [], cycles + 8, false, h.prot, s.strm.pos, own⟩] } } }
    (∀ o : MmaArgs, o.fmt = f → o.t = t → o.ka = ka → o.kb = kb → o.k1 = k1 → o.keep = keep → s.Clear h o.regs →
      Claims.PassReady s f ka kb kk [t] → passes (exec (.mma h o) s) (if (mFloat f).isSome then .addFloat else .addInt)
        [(t, [(partialCells s.core.loc f pa pb o.ta o.tb kk 0 kk).1])]) ∧
    (∀ o : MblkArgs, o.fmt = f → o.t = t → o.ka = ka → o.kb = kb → o.k1 = k1 → o.keep = keep → s.Clear h o.regs →
      Claims.PassReady s f ka kb kk ((List.range (k1 + 1)).map (t + ·)) → passes (exec (.mblk h o) s) .put
        ((List.range (k1 + 1)).map fun b => (t + b, [(partialCells s.core.loc f pa pb false true kk (32 * b) 32).1])))) ∧
  (∀ (m : Memory) (f : MFmt) (pa pb kk i j : Nat) (ta tb : Bool), i < 128 → j < 128 →
    let cell := (partialCells m f pa pb ta tb kk 0 kk).1.getD (128 * i + j) 0
    let a := lineRaw m pa (mBits f) (!ta) kk i
    let b := lineRaw m pb (mBits f) tb kk j
    (∀ fa fb, mFloat f = some (fa, fb) → cell = BitVec.ofNat 32 (floatDot (a.map fa.decode) (b.map fb.decode)).bits) ∧
    (f = .i8 → cell = BitVec.ofInt 32 ((List.zipWith (· * ·) (a.map (sextNat 8)) (b.map (sextNat 8))).foldl (· + ·) 0)) ∧
    (f = .i4 → cell = BitVec.ofInt 32 ((List.zipWith (· * ·) (a.map (sextNat 4)) (b.map (sextNat 4))).foldl (· + ·) 0)))

/-- R335 to R338: SCACC, AZERO and ACOPY take a tile buffer and put a tile write in flight at their offsets: the scaled partials of each block,
rounded once, to be added; zeros; the cells of the source tile. A tile of another task raises ACC_BUSY (10). -/
def Claims.TileInstructions : Prop :=
  ∀ (h : Hdr) (s : State),
    let writes := fun (out : Host.Outcome State Fault Refusal) (tile off tie : Nat) (mode : TileMode) (blocks : List (List Word)) =>
      let at_ := s.strm.cyc + off
      let own := s.taskSeq s.sid
      let e := s.strm.eng.markTiles [tile] own
      ∃ fl : Word, out = .next { s with strm := { s.strm with eng := { e with
        buffers := e.buffers ++ [at_]
        writes := e.writes ++ [⟨at_, [(tile, blocks)], mode, fl, none, none, [], tie, false, h.prot, s.strm.pos, own⟩] } } }
    (∀ o : ScaccArgs, s.Clear h o.regs →
      let nb := o.nb1 + 1
      let sa := (s.rdA o.aa).toNat
      let sb := (s.rdA o.ab).toNat
      s.formatBarred o.fmt = false → sa + 128 * nb ≤ winSize s.core.pool → sb + 128 * nb ≤ winSize s.core.pool →
      (∀ t, s.tileBusy (o.td :: (List.range nb).map (o.ts + ·)) = some t →
        exec (.scacc h o) s = .next (s.takeTrap 10 (0x1000000 + 0x10000 * t) false h.slot h.prot false)) ∧
      (s.tileBusy (o.td :: (List.range nb).map (o.ts + ·)) = none → s.bufferFree = true → s.core.poisoned sa (128 * nb) = false →
        s.core.poisoned sb (128 * nb) = false → (∀ b, b < nb → s.core.poisoned (tileAddr (o.ts + b)) 0x10000 = false) →
        ∃ blocks, writes (exec (.scacc h o) s) o.td (8 * nb + 140 + 8 * h.prot) (8 * nb) .addFloat blocks ∧ blocks.length = nb ∧
          ∀ b i j, b < nb → i < 128 → j < 128 → (blocks.getD b []).getD (128 * i + j) 0 = BitVec.ofNat 32 (scalePartial (o.fmt = .i8)
            ((s.core.tileCells (o.ts + b)).getD (128 * i + j) 0) (s.localByte (sa + 128 * b + i)).toNat
            (s.localByte (sb + 128 * b + j)).toNat).bits)) ∧
    (∀ o : AzeroArgs, s.Clear h o.regs →
      (∀ t, s.tileBusy [o.t] = some t → exec (.azero h o) s = .next (s.takeTrap 10 (0x1000000 + 0x10000 * t) false h.slot h.prot false)) ∧
      (s.tileBusy [o.t] = none → s.bufferFree = true →
        writes (exec (.azero h o) s) o.t (140 + 8 * h.prot) 8 .put [List.replicate 16384 0])) ∧
    (∀ o : AcopyArgs, s.Clear h o.regs → s.tileBusy [o.td, o.ts] = none → s.bufferFree = true →
      s.core.poisoned (tileAddr o.ts) 0x10000 = false →
      writes (exec (.acopy h o) s) o.td (268 + 8 * h.prot) 128 .put [s.core.tileCells o.ts])

/-- R338 to R341: ALOAD reads 128 rows of 512 bytes into a tile write, one row in each issue cycle; ASTORE converts each row of its tile and
writes it one row in each issue cycle, the scale bytes with the last; RPOP pops the head slots of a ring. Rows apart by less than their
length raise ENG_OPERAND (16), misaligned ones ALIGN (7). -/
def Claims.TileTransfers : Prop :=
  (∀ (h : Hdr) (o : AloadArgs) (s : State), s.Clear h o.regs →
    let a := s.rdA o.a
    let stride := match o.stride with
      | some g => (s.rdG g).toNat
      | none => 512
    let off := 268 + 8 * h.prot
    (∀ v, alignRow a stride 4 = some v → exec (.aload h o) s = .next (s.takeTrap 7 v false h.slot h.prot false)) ∧
    (alignRow a stride 4 = none → stride < 512 → exec (.aload h o) s = .next (s.takeTrap 16 0 false h.slot h.prot false)) ∧
    (alignRow a stride 4 = none → 512 ≤ stride → (∀ i, i < 128 → rowAddr a stride i + 512 ≤ winSize s.core.pool) →
      s.tileBusy [o.t] = none → s.strm.eng.portFree ≤ s.strm.cyc → s.bufferFree = true →
      let at_ := s.strm.cyc + off
      let own := s.taskSeq s.sid
      let e := s.strm.eng.markTiles [o.t] own
      exec (.aload h o) s = .next (State.performRows { s with strm := { s.strm with eng := { e with
        buffers := e.buffers ++ [at_], portFree := s.strm.cyc + 128
        writes := e.writes ++ [⟨at_, [(o.t, [List.replicate 16384 0])], .put, 0, some (a.toNat, stride), none, [], 128, false, h.prot,
          s.strm.pos, own⟩]
        rows := e.rows ++ (List.range 128).map fun i => RowTask.load (s.strm.cyc + i) (rowAddr a stride i) i at_ own } } }))) ∧
  (∀ (h : Hdr) (o : AstoreArgs) (s : State), s.Clear h o.regs →
    let a := s.rdA o.a
    let b := (stSize o.fmt).2
    let stride := match o.stride with
      | some g => (s.rdG g).toNat
      | none => b
    let t0 := s.strm.cyc + h.prot
    let scaled := scaledFmt o.fmt
    (alignRow a stride (stSize o.fmt).1 = none → stride < b → exec (.astore h o) s = .next (s.takeTrap 16 0 false h.slot h.prot false)) ∧
    (alignRow a stride (stSize o.fmt).1 = none → b ≤ stride → (∀ i, i < 128 → rowAddr a stride i + b ≤ winSize s.core.pool) →
      (scaled = true → rowAddr a stride 128 + 512 ≤ winSize s.core.pool) → s.tileBusy [o.t] = none →
      s.strm.eng.portFree ≤ s.strm.cyc → s.commitRoom (128 * b + 512) = true → s.core.poisoned (tileAddr o.t) 0x10000 = false →
      let row := fun i => storeRow o.fmt o.i o.sat (s.strm.fcsr.toNat % 8) (((s.core.tileCells o.t).drop (128 * i)).take 128)
      ∃ (e : Engine) (fl : Word) (scales : List Byte), exec (.astore h o) s = .next { s with strm := { s.strm with eng := e } } ∧
        e = { s.strm.eng with portFree := t0 + 129, rows := e.rows } ∧
        e.rows = s.strm.eng.rows ++ RowTask.flags (t0 + 1) fl (s.taskSeq s.sid) :: ((List.range 128).map fun i =>
          RowTask.store (t0 + 1 + i) (rowAddr a stride i) (row i).1 (s.taskSeq s.sid)) ++
          (if scaled then [RowTask.store (t0 + 128) (rowAddr a stride 128) scales (s.taskSeq s.sid)] else []) ∧
        scales.length = 512 ∧ ∀ i k, i < 128 → k < 4 → scales.getD (128 * k + i) 0 = BitVec.ofNat 8 ((row i).2.1.getD k 0))) ∧
  (∀ (h : Hdr) (o : RpopArgs) (s : State), s.Clear h o.regs →
    let r := s.core.ring o.k
    let n := o.n1 + 1
    (r.init = false → exec (.rpop h o) s = .next (s.takeTrap 16 0 false h.slot h.prot false)) ∧
    (r.init = true → r.published < r.claimed + n → exec (.rpop h o) s = .next (s.setLatch fun l => { l with wait := true })) ∧
    (r.init = true → r.claimed + n ≤ r.published → ∃ t : State, exec (.rpop h o) s = .next t ∧
      (s.strm.eng.pops = [] → t = s.setCore fun c => c.setRing o.k { r with
        ccnt := (r.ccnt + n) % 2 ^ 32, freed := r.freed + n
        poison := r.poison.filter fun k => !((List.range n).any fun i => (r.ccnt + i) % 2 ^ 32 = k) }) ∧
      (∀ j, j ≠ o.k → (∀ p ∈ s.strm.eng.pops, p.2.1 ≠ j) → t.core.ring j = s.core.ring j) ∧
      t.core.loc = s.core.loc ∧ t.strm.g = s.strm.g))

/-- What a transpose instruction whose operands are right does (R343, R347): it writes its output to local memory, or reserves the next slot
of the ring and fills it, and holds the stream for its cycles; its flags are due with the last of them. -/
def Claims.Transposed (s : State) (h : Hdr) (dst : XDst) (src inLen outLen : Nat) (out : List Byte) (fl c : Nat)
    (answer : Host.Outcome State Fault Refusal) : Prop :=
  let cyc := xeCycles h.prot c
  let done := fun (t : State) (more : List RowTask) => (t.setEng fun e => { e with
    rows := e.rows ++ more ++ [.flags (s.strm.cyc + cyc - 1) (BitVec.ofNat 32 fl) (s.taskSeq s.sid)] }).setLatch
      fun l => { l with extra := cyc - 1 }
  (inLen = 0 ∨ src + inLen ≤ winSize s.core.pool) → s.core.poisoned src inLen = false →
  match dst with
  | .addr n =>
    let lo := (s.rdA n).toNat
    (outLen = 0 ∨ lo + outLen ≤ winSize s.core.pool) → (inLen = 0 ∨ outLen = 0 ∨ src + inLen ≤ lo ∨ lo + outLen ≤ src) →
    ∀ t, s.localWrite lo out = some t → answer = .next (done t [])
  | .ring k =>
    let r := s.core.ring k
    let next := (r.pcnt + r.reserved.length) % 2 ^ 32
    let lo := r.slotAt next
    let len := 128 * r.slotsz
    r.init = true → outLen ≤ len → (inLen = 0 ∨ len = 0 ∨ src + inLen ≤ lo ∨ lo + len ≤ src) → s.specSlot = none →
    r.published + r.freed + r.reserved.length + 1 ≤ r.nslot →
    answer = .next (done (s.setCore fun d => (d.setRing k { r with reserved := r.reserved ++ [⟨xposeOwner, s.strm.tagr.toNat, false, false⟩] }).writeLocal
      lo (out ++ List.replicate (len - outLen) 0)) [.slot (s.strm.cyc + cyc - 1) k next (s.taskSeq s.sid)])

/-- R344, R345, R347: XPOSE writes the transposed matrix, XLAY the rows in the other order of their units, in the stated cycles. R346:
XREQ writes the transposed matrix encoded again in its scaled format. -/
def Obligations.TransposeInstructions : Prop :=
  (∀ (h : Hdr) (o : XposeArgs) (s : State), s.Clear h o.regs →
    let r := (s.rdG o.g).toNat % 65536
    let c := (s.rdG o.g).toNat / 65536
    let n := xwidth o.w
    let src := s.localBytes (s.rdA o.a).toNat (r * c * n)
    ∃ out : List Byte, out.length = r * c * n ∧
      (∀ i j b, i < r → j < c → b < n → out.getD ((j * r + i) * n + b) 0 = src.getD ((i * c + j) * n + b) 0) ∧
      Claims.Transposed s h o.dst (s.rdA o.a).toNat (r * c * n) (r * c * n) out 0 ((r * c * 8 * n + 1023) / 1024 + 16) (exec (.xpose h o) s)) ∧
  (∀ (h : Hdr) (o : XlayArgs) (s : State), s.Clear h o.regs →
    let r := (s.rdG o.g).toNat % 65536
    let un := (s.rdG o.g).toNat / 65536
    let src := s.localBytes (s.rdA o.a).toNat (r * un * 128)
    (o.frm = .blk ∨ o.dto = .blk → r % 32 = 0) →
    ∃ out : List Byte, out.length = r * un * 128 ∧
      (∀ i u b, i < r → u < un → b < 128 → out.getD (layoutPos o.dto un i u * 128 + b) 0 = src.getD (layoutPos o.frm un i u * 128 + b) 0) ∧
      Claims.Transposed s h o.dst (s.rdA o.a).toNat (r * un * 128) (r * un * 128) out 0 (r * un + 8) (exec (.xlay h o) s)) ∧
  (∀ (h : Hdr) (o : XreqArgs) (s : State), s.Clear h o.regs →
    let r := (s.rdG o.g).toNat % 65536
    let c := (s.rdG o.g).toNat / 65536
    let data := scaledData o.fmt r c
    let inLen := if o.fmt = .l4x then data else data + r * c / 32
    let rows := decodeScaled o.fmt r c (s.localBytes (s.rdA o.a).toNat inLen)
    let out := encodeScaled o.fmt (requantRm (s.strm.fcsr.toNat % 8)) (transposeRows rows.1 c) r
    r % 32 = 0 → 32 ≤ r → r ≤ 512 → c % 32 = 0 → 32 ≤ c → c ≤ 512 →
    Claims.Transposed s h o.dst (s.rdA o.a).toNat inLen (data + r * c / 32) out.1 (rows.2 ||| out.2) ((data + 63) / 64 + 32) (exec (.xreq h o) s))

/-- What a copy instruction that passes its checks (R359) does: its copy enters the engine with the operands that it read. -/
def Claims.CopyEnters (s : State) (h : Hdr) (i : Instr) (opc mode : Nat) (ct : Option Nat) (a : Nat) (l : Bool) (gv : Nat)
    (idx : Option Nat) (answer : Host.Outcome State Fault Refusal) : Prop :=
  let own := s.core.lcore
  let ws := s.localWords (s.rdA a).toNat 16
  let d := CopyD.of ws
  let list := match idx with
    | some r => (s.rdA r).toNat
    | none => 0
  let slot := s.strm.slot
  let seq := s.taskSeq s.sid
  let r := s.core.ring d.dring
  let slotB := 128 * r.slotsz
  let need := if slotB = 0 then 0 else (d.total + slotB - 1) / slotB
  (s.core.copies.filter (·.opc != 0xF9)).length < 16 → (s.rdA a).toNat + 64 ≤ winSize s.core.pool → s.acquiring = false →
  s.core.poisoned (s.rdA a).toNat 64 = false → d.bad opc mode l ws = false →
  ∀ se de, (if opc = 0xF7 then some ⟨false, none, 0, [], none⟩
      else s.core.endP slot seq d.sk d.sorg d.sref d.sstr d false (opc = 0xF5)) = some se →
    (if d.dk = 3 then (if r.init = true ∧ need ≤ r.nslot then some ⟨false, none, r.base, [], none⟩ else none)
      else s.core.endP slot seq d.dk d.dorg d.dref d.dstr d true (opc = 0xF6)) = some de →
    let sh := if opc = 0xF5 ∨ opc = 0xF7 then none else some (se.hull d)
    let dh := if d.dk = 3 ∨ opc = 0xF6 then none else some (de.hull d)
    let first := (r.pcnt + r.reserved.length) % 2 ^ 32
    let from_ := se.spans d fun k => if opc = 0xF5 then s.core.indexRow seq list se d k else some k
    let to_ := if d.dk = 3 then (List.range need).map fun j => (r.slotAt ((first + j) % 2 ^ 32), slotB)
      else de.spans d fun k => if opc = 0xF6 then s.core.indexRow seq list de d k else some k
    (opc ≠ 0xF7 → se.mem own = de.mem own → spansMeet from_ to_ = false) →
    (l = true → d.loff % 4 = 0 ∧ d.loff + 4 ≤ winSize s.core.pool) → list % 4 = 0 →
    (idx ≠ none → list + 4 * d.n.getD 1 1 ≤ winSize s.core.pool) →
    (∀ lc, opc ≠ 0xF7 → se.sp = some lc → s.lcoreAt lc ≠ .nowhere) → (∀ lc, de.sp = some lc → s.lcoreAt lc ≠ .nowhere) →
    (∀ x, sh = some x → s.hullFault se x = none) → (∀ y, dh = some y → s.hullFault de y = none) →
    (s.specSlot = none ∨ d.dk ≠ 3 ∧ de.far = false ∧ de.mem own = own + 1) → ∀ r1, (if d.dk = 3 then r.reserve (copyOwner s.core.copyId) s.strm.tagr.toNat need else some r) = some r1 →
    let p : CopyProg := {
      id := s.core.copyId, syl := sylVal i, opc := opc, mode := mode + 4 * (s.strm.fcsr.toNat % 8), tslot := slot, tseq := seq
      tag := s.strm.tagr.toNat, words := ws, gval := gv, alist := list, ct := ct, land_ := l
      ringFirst := first, issued := 0, performed := [], pending := [], flags := 0, landed := false
      prot := h.prot, pos := s.strm.pos, fault := none }
    answer = .next ((s.setCore fun c => { (if d.dk = 3 then c.setRing d.dring r1 else c) with
      copies := c.copies ++ [p], copyId := c.copyId + 1 }).spends 1)

/-- R350 to R355, R359: a copy instruction whose descriptor and ranges are right enters its copy in the engine at once; CFILL takes its value
from a g register, or from a pair for elements of 8 bytes; CLAND enters a landing update alone. The completion tag is set only with TE. -/
def Obligations.CopyInstructions : Prop :=
  (∀ (h : Hdr) (o : CopyArgs) (s : State), s.Clear h o.regs →
    Claims.CopyEnters s h (.copy h o) 0xF4 0 (if o.te then some o.ct else none) o.a o.l 0 none (exec (.copy h o) s)) ∧
  (∀ (h : Hdr) (o : CopygArgs) (s : State), s.Clear h o.regs →
    Claims.CopyEnters s h (.copyg h o) 0xF5 0 (if o.te then some o.ct else none) o.a o.l 0 (some o.ai) (exec (.copyg h o) s) ∧
    Claims.CopyEnters s h (.copys h o) 0xF6 0 (if o.te then some o.ct else none) o.a o.l 0 (some o.ai) (exec (.copys h o) s)) ∧
  (∀ (h : Hdr) (o : CfillArgs) (s : State), s.Clear h o.regs →
    let d := CopyD.of (s.localWords (s.rdA o.a).toNat 16)
    ∀ gv, (if d.esz < 3 then some ((s.rdG o.g).toNat % 2 ^ (8 * 2 ^ d.esz))
        else if o.g % 2 = 0 then some ((s.rdG (o.g + 1)).toNat * 2 ^ 32 + (s.rdG o.g).toNat) else none) = some gv →
      Claims.CopyEnters s h (.cfill h o) 0xF7 0 (if o.te then some o.ct else none) o.a o.l gv none (exec (.cfill h o) s)) ∧
  (∀ (h : Hdr) (o : CredArgs) (s : State), s.Clear h o.regs →
    Claims.CopyEnters s h (.cred h o) 0xF8 (match o.op with
      | .addF32 => 0
      | .addBf16 => 1
      | .maxF32 => 2
      | .maxBf16 => 3) (if o.te then some o.ct else none) o.a o.l 0 none (exec (.cred h o) s)) ∧
  (∀ (h : Hdr) (o : CfillArgs) (s : State), s.Clear h o.regs → s.core.copiesFull = false →
    let name := (s.rdA o.a).toNat
    let lc := name / 2 ^ 48
    let off := name % 2 ^ 32
    (off % 4 ≠ 0 → exec (.cland h o) s = .next (s.takeTrap 7 off false h.slot h.prot false)) ∧
    (off % 4 = 0 → s.lcoreAt lc = .nowhere → exec (.cland h o) s = .next (s.takeTrap 8 lc false h.slot h.prot false)) ∧
    (off % 4 = 0 → s.lcoreAt lc ≠ .nowhere → off + 4 ≤ winSize s.core.pool → (s.specSlot = none ∨ lc = s.core.lcore) → exec (.cland h o) s =
      .next (s.setCore fun c => { c with copyId := c.copyId + 1, copies := c.copies ++ [{
        id := c.copyId, syl := sylVal (.cland h o), opc := 0xF9, mode := if o.l then 1 else 0, tslot := s.strm.slot, tseq := s.taskSeq s.sid
        tag := s.strm.tagr.toNat, words := [], gval := (s.rdG o.g).toNat, alist := name, ct := if o.te then some o.ct else none, land_ := true
        ringFirst := 0, issued := 0, performed := [], pending := [], flags := 0, landed := false, prot := h.prot
        pos := s.strm.pos, fault := none }] })))

/-- R275, R314, R321, R322, R351, R356: the engines' own steps. Tile writes and rows perform in the issue cycle in which they are due and
leave the engine; due pops leave their rings; the slots of a ring that are wholly written are published in order; a copy's next chunk
is issued; a copy whose data and landing update have performed leaves the engine and its tag is set. -/
def Obligations.EngineSteps : Prop :=
  (∀ s : State, (∀ w ∈ s.strm.eng.writes, s.strm.cyc < w.at_) → exec .accumulatorWrite s =
    .next (State.performRows (s.setStrm fun x => { x with eng := { x.eng with
      writes := x.eng.writes.filter (s.strm.cyc < ·.at_), buffers := x.eng.buffers.filter (s.strm.cyc < ·) } }))) ∧
  (∀ (s : State) (w : TileWrite) (b : List Word), s.strm.eng.writes = [w] → s.strm.eng.rows = [] → s.strm.eng.buffers = [w.at_] →
    w.at_ ≤ s.strm.cyc → w.mode = .put → w.errors = [] → w.spareRow = none → w.flags = 0 → ∀ tile, w.parts = [(tile, [b])] →
    ∃ t : State, exec .accumulatorWrite s = .next t ∧ t = { s with
        core := s.core.writeLocal (tileAddr tile) (b.flatMap fun x => leBytes 4 x.toNat)
        strm := { s.strm with eng := { s.strm.eng with writes := [], buffers := [] } } } ∧
      (b.length = 16384 → t.core.tileCells tile = b)) ∧
  (∀ (s : State) (k n : Nat), s.strm.eng.pops = [(s.strm.cyc, k, n)] → exec .passSlotPop s = .next { s with
    core := s.core.setRing k ((s.core.ring k).pop n), strm := { s.strm with eng := { s.strm.eng with pops := [] } } }) ∧
  (∀ (s : State), exec .passSlotPop s = .next s.popSlots) ∧
  (∀ (s : State) (core k : Nat), ∃ t : State, exec (.slotPublish core k) s = .next t ∧
    let r := (s.coreOf core).ring k
    let n := (r.reserved.takeWhile (·.done)).length
    (t.coreOf core).ring k = { r with
      pcnt := if n = 0 then r.pcnt else (r.pcnt + n) % 2 ^ 32, reserved := r.reserved.drop n
      poison := ((t.coreOf core).ring k).poison } ∧
    (∀ j, j ≠ k → (t.coreOf core).ring j = (s.coreOf core).ring j) ∧ (t.coreOf core).loc = (s.coreOf core).loc) ∧
  (∀ (s : State) (core copy : Nat) (p : CopyProg), (s.coreOf core).copies.find? (·.id = copy) = some p → p.fault = none →
    (∀ e ∈ (s.coreOf core).entries, e.2.seq = p.tseq → e.2.spec = false) →
    (∀ r n, s.readyChunk core copy = some (r, n) → exec (.copyChunkIssue core copy) s = .next ((s.dropReq r.id).chunkWrite core copy n
      (Memory.readBytes r.data 0 (p.desc.size * (p.desc.chunkElems n).length)) r.poison)) ∧
    (∀ n, s.readyChunk core copy = none → p.nextChunk = some n → s.mayCopy core = true → (s.coreOf core).chunksOut < 256 →
      exec (.copyChunkIssue core copy) s = .next (s.chunkRead core p n)) ∧
    (p.dataDone = true → (p.opc = 0xF9 → ∀ q ∈ (s.coreOf core).copies, q.id < copy → q.dataDone = true) → p.land_ = false ∨ p.landed = true →
      (∀ r ∈ s.sys.reqs, coreOfSid r.sid = core → r.wait ≠ .copyLand copy) → p.flags = 0 →
      ∃ t : State, exec (.copyComplete core copy) s = .next t ∧ (t.coreOf core).copies = (s.coreOf core).copies.filter (·.id ≠ copy) ∧
        (∀ i, i < 64 → (t.coreOf core).tagSet.getLsbD i = ((s.coreOf core).tagSet.getLsbD i || decide (p.ct = some i))) ∧
        (t.coreOf core).loc = (s.coreOf core).loc ∧ t.sys = s.sys))

/-! ## The hardware steps of a stream, of the firmware context and of the Kiln -/

/-- R14 to R16: at the start of an issue cycle the results whose latency has run out land in issue order, each in its own register with its
mark and flags, and the others come one cycle nearer. A stalled stream, one that issues nothing, and one whose issue cycle has begun are
unchanged. -/
def Obligations.ResultsLand : Prop :=
  (∀ s : State, s.strm.fresh = true ∨ s.strm.stall ≠ 0 ∨ s.strm.run.active = false → exec .resultLanding s = .next s) ∧
  (∀ s : State, s.strm.fresh = false → s.strm.stall = 0 → s.strm.run.active = true →
    (∀ f ∈ s.strm.flight, f.prot = 0 ∧ f.isNext = false) →
    let later := (s.strm.flight.filter fun f => 1 < f.k).map fun f => { f with k := f.k - 1 }
    let x := { s.strm with cyc := s.strm.cyc + 1, fresh := true, flight := later }
    exec .resultLanding s = .next (s.setStrm fun _ => (s.strm.flight.filter fun f => f.k ≤ 1).foldl
      (fun x f => x.land f f.copy0) x)) ∧
  (∀ (x : Stream) (f : Flight) (c : RCopy) (n : Nat),
    let y := x.land f c
    (c.on = false → y = x) ∧
    (c.on = true → (f.dst = .g n → c.bits = lowBits 32 → SMap.get 0 n y.g = c.val.setWidth 32 ∧ SMap.get .none n y.gMark = c.mark ∧
      (∀ j, j ≠ n → SMap.get 0 j y.g = SMap.get 0 j x.g ∧ SMap.get .none j y.gMark = SMap.get .none j x.gMark) ∧
      y = { x with g := y.g, gMark := y.gMark, fcsr := x.fcsr ||| c.flags }) ∧
    (f.dst = .a n → c.bits = lowBits 64 → SMap.get 0 n y.a = c.val.setWidth 64 ∧ (∀ j, j ≠ n → SMap.get 0 j y.a = SMap.get 0 j x.a) ∧
      y = { x with a := y.a, fcsr := x.fcsr ||| c.flags }) ∧
    (f.dst = .v n → (∀ i, i < 1024 → (SMap.get 0 n y.v).getLsbD i = if c.bits.getLsbD i then c.val.getLsbD i else (SMap.get 0 n x.v).getLsbD i) ∧
      (∀ j, j ≠ n → SMap.get 0 j y.v = SMap.get 0 j x.v) ∧ y = { x with v := y.v, fcsr := x.fcsr ||| c.flags }) ∧
    (f.dst = .p n → (n ≠ 0 → SMap.get false n y.p = c.val.getLsbD 0) ∧ (∀ j, j ≠ n → SMap.get false j y.p = SMap.get false j x.p) ∧
      (n = 0 → y.p = x.p) ∧ y = { x with p := y.p, fcsr := x.fcsr ||| c.flags }) ∧
    (f.dst = .m n → c.bits = lowBits 32 → (n ≠ 0 → SMap.get 0 n y.m = c.val.setWidth 32) ∧
      (∀ j, j ≠ n → SMap.get 0 j y.m = SMap.get 0 j x.m) ∧ (n = 0 → y.m = x.m) ∧ y = { x with m := y.m, fcsr := x.fcsr ||| c.flags }) ∧
    (f.dst = .b n → SMap.get BReg.zero n y.b = ⟨Pos.ofPacked (c.val.toNat % 2 ^ 32), c.val.getLsbD 32, some x.cyc⟩ ∧
      (∀ j, j ≠ n → SMap.get BReg.zero j y.b = SMap.get BReg.zero j x.b) ∧ y = { x with b := y.b, fcsr := x.fcsr ||| c.flags }))) ∧
  (∀ (s : State) (n : Nat) (v : Word), (s.resNext (.csr n) v).strm.flight = s.strm.flight ++
      [⟨.csr n, 1, [⟨v.setWidth 1024, 0, .none, lowBits 32, 0, true⟩], s.strm.pos, 0, 0, 1, false⟩] ∧
    s.landCsr 0 v = s.setStrm (fun x => { x with fcsr := v }) ∧ s.landCsr 4 v = s.setStrm (fun x => { x with tagr := v.setWidth 16 }) ∧
    s.landCsr 9 v = s.setStrm (fun x => { x with pctl := v }) ∧ s.landCsr 0x100 v = s.setStrm (fun x => { x with yctl := v }) ∧
    s.landCsr 0x101 v = s.setCore (fun c => { c with fshare := v.toNat }) ∧ s.landCsr 0x104 v = s.setStrm (fun x => { x with fwvd := v }))

/-- R75: an unassigned encoding raises ILLEGAL_OP (1) with its syllable. R123: END completes once every result has landed and every queue
entry has its data: the stream is idle, its queues are empty, and its task drains. R203: a wait that is over lets the bundle issue. R502:
a heartbeat with the image's own revision, in time, makes a context in probation alive; any other write of FWHB has no effect. -/
def Obligations.StreamEvents : Prop :=
  (∀ (s : State) (w : Nat), exec (.unassignedOpcode w) s = .next (s.takeTrap 1 w false (w / 2 ^ 45 % 2) (w / 2 ^ 46) false)) ∧
  (∀ s : State, exec .waitComplete s = .next (s.setLatch fun l => { l with wait := false })) ∧
  (∀ s : State, s.strm.run ≠ .ending ∨ s.strm.endReady = false → exec .endComplete s = .next s) ∧
  (∀ s : State, s.strm.run = .ending → s.strm.flight = [] → (∀ q ∈ s.strm.q, ∀ e ∈ q.2, e.data.isSome = true) →
    ∃ t : State, exec .endComplete s = .next t ∧
      (s.strm.cls = .firmware → t = { s with strm := s.strm.finish }) ∧
      ((s.strm.cls = .control ∨ s.strm.cls = .firmware ∨ ∀ l, s.launch = some l → l.bare = none) →
        t.strm = s.strm.finish ∧ t.core.loc = s.core.loc ∧ t.sys.hbm = s.sys.hbm) ∧
      (s.strm.cls = .control → t.core.iter = none) ∧
      (∀ e, s.strm.cls ≠ .control → s.strm.cls ≠ .firmware → (∀ l, s.launch = some l → l.bare = none) → s.core.entry s.strm.slot = some e →
        e.unit = some s.strm.unit → e.state = .running → t.core.entry s.strm.slot = some { e with
          state := if e.heldCause.isSome then .held else .draining })) ∧
  (∀ x : Stream, x.finish.run = .off ∧ x.finish.q = [] ∧ x.finish.lc = [] ∧ x.finish.handler = false ∧ x.finish.g = x.g ∧ x.finish.a = x.a ∧
    x.finish.v = x.v ∧ x.finish.fcsr = x.fcsr) ∧
  (∀ (s : State) (v : Nat),
    (s.core.fwst = .probation → v = s.strm.fwrev.toNat → s.sys.dc ≤ s.core.fwDue → ∃ t : State, exec (.fwhbHeartbeat v) s = .next t ∧
      t.core = { s.core with fwst := .alive } ∧ t.strm = s.strm ∧ SMap.get 0 (coreInDie s.ck) (t.dieOf s.rank).fwsst = 2) ∧
    (s.core.fwst ≠ .probation ∨ v ≠ s.strm.fwrev.toNat ∨ s.core.fwDue < s.sys.dc → exec (.fwhbHeartbeat v) s = .next s))

/-- R170, R502, R503, R505, R508: the share window begins anew in a clock whose count is a multiple of 64; a context in probation fails past its budget, else nothing happens; a
commit disarms the die and settles its cores; a revert brings the old images back; past the deadline every die of the package
reverts; a controller's image is replaced only where the new one shows itself alive and its SVN is not below the minimum of its class, which
an accepted image never lowers (R517). -/
def Obligations.FirmwareEvents : Prop :=
  (∀ (s : State) (k : Nat),
    let c := s.coreOf k
    (c.ac % 64 = 0 → c.fwWin ≠ c.ac → exec (.fwShareWindow k) s = .next (s.putCore k { c with fwUsed := 0, fwWin := c.ac })) ∧
    (c.ac % 64 ≠ 0 ∨ c.fwWin = c.ac → exec (.fwShareWindow k) s = .next s)) ∧
  (∀ (s : State) (k : Nat),
    ((s.coreOf k).fwst = .probation → (s.coreOf k).fwDue < s.sys.dc → ∃ t : State, exec (.fwWatchdogExpiry k) s = .next t ∧
      (t.strmOf (sidOf k 8)).run = .failed ∧ (t.coreOf k).fwst = .reverted ∧ (t.coreOf k).loc = (s.coreOf k).loc) ∧
    ((s.coreOf k).fwst ≠ .probation ∨ s.sys.dc ≤ (s.coreOf k).fwDue → exec (.fwWatchdogExpiry k) s = .next s)) ∧
  (∀ (s : State) (die : Nat),
    (s.dieOf die).fwstby.toNat % 2 = 0 ∨ (s.dieOf die).armedAt + 2 ^ 30 < s.sys.dc → exec (.fwCommit die) s = .next s) ∧
  (∀ (s : State) (die : Nat), (s.dieOf die).fwstby.toNat % 2 = 1 → s.sys.dc ≤ (s.dieOf die).armedAt + 2 ^ 30 →
    (∀ r, r / 4 = die / 4 → (s.dieOf r).fwstby.toNat % 2 = 1 → ∀ k ∈ coresOfDie r, bit (s.pkgOf (die / 4)).working (coreInPkg k) = true →
      (s.coreOf k).fwst = .alive) →
    exec (.fwCommit die) s = .next ((s.swapped die).foldl (fun t k => (t.modCore k Core.settled).fwDeliver k)
      ((s.putDie die (s.dieOf die).disarmed).modPkg (die / 4) fun p => p.runs 2 ((s.dieOf die).fwsent.toNat / 2 ^ 32)))) ∧
  (∀ c : Core, c.settled.fwst = .current ∧ c.settled.fwShadow = none ∧ c.settled.fwRecord = none ∧ c.settled.loc = c.loc ∧ c.settled.fwCode = c.fwCode) ∧
  (∀ d : Die, d.disarmed.fwstby.getLsbD 0 = false ∧ d.disarmed.fwsst = [] ∧ d.disarmed.fwsent = d.fwsent) ∧
  (∀ (s : State) (die : Nat), exec (.fwRevert die) s = .next (s.revertDie die)) ∧
  (∀ (s : State) (k : Nat) (x : Stream), (s.coreOf k).fwShadow = some x → ((s.revertCore k).coreOf k).fwst = .current ∧
    ((s.revertCore k).coreOf k).fwCode = (s.coreOf k).fwOldCode ∧ ((s.revertCore k).strmOf (sidOf k 8)).g = x.g ∧
    ((s.revertCore k).strmOf (sidOf k 8)).pos = x.pos ∧ ((s.revertCore k).strmOf (sidOf k 8)).run = .running) ∧
  (∀ (s : State) (pkg : Nat), exec (.commitDeadlineExpiry pkg) s = .next
    (if ([0, 1, 2, 3].any fun i => bit (s.dieOf (4 * pkg + i)).fwstby.toNat 0 && decide ((s.dieOf (4 * pkg + i)).armedAt + 2 ^ 30 < s.sys.dc)) &&
      !(s.allAlive pkg) then [4 * pkg, 4 * pkg + 1, 4 * pkg + 2, 4 * pkg + 3].foldl State.revertDie s else s)) ∧
  (∀ (s : State) (ctl : Controller) (die ident : Nat), exec (.controllerReplacement ctl die ident false) s = .next s) ∧
  (∀ (s : State) (die ident : Nat),
    let put := fun (cls : Nat) => s.modPkg (die / 4) fun p => p.runs cls ident
    let good := fun (cls : Nat) => ∀ x ∈ (s.pkgOf (die / 4)).images, x.1 = cls → x.2.2.1 = ident → SMap.get 0 cls (s.pkgOf (die / 4)).minSvn ≤ x.2.1
    (good 3 → exec (.controllerReplacement .wheel die ident true) s = .next ((put 3).modDie die fun d => { d with wheelImg := ident })) ∧
    (good 4 → exec (.controllerReplacement .fabricManager die ident true) s = .next ((put 4).modDie die fun d => { d with fmImg := ident })) ∧
    (good 1 → exec (.controllerReplacement .mc die ident true) s = .next (put 1)) ∧
    (¬ good 3 → exec (.controllerReplacement .wheel die ident true) s = .next s)) ∧
  (∀ (p : Pkg) (cls ident : Nat), (∃ x ∈ p.images, x.1 = cls ∧ x.2.2.1 = ident) → (∀ x ∈ (p.runs cls ident).images, x.1 = cls → x.2.2.1 = ident →
    x.2.2.2 = 1) ∧ SMap.get 0 cls p.minSvn ≤ SMap.get 0 cls (p.runs cls ident).minSvn)

/-- R177, R184, R189 to R191: each class releases its first Ready task, of higher effective priority and then of earlier entry, to its first free
unit, at most one in an arithmetic clock; the others are passed. A released task starts at its entry line with its parameters, slot and tag in g registers. A core that
yields releases nothing. -/
def Claims.TaskRelease : Prop :=
  (∀ (s : State) (k : Nat), (s.coreOf k).yreq = true ∨ (s.coreOf k).parking = true ∨
    s.launchRuns (s.coreOf k).launch (rankOfCore k) = false → exec (.taskRelease k) s = .next s) ∧
  (∀ (s : State) (k : Nat), (s.coreOf k).yreq = false → (s.coreOf k).parking = false →
    s.launchRuns (s.coreOf k).launch (rankOfCore k) = true →
    exec (.taskRelease k) s = .next ((((s.releaseClass k 0).releaseClass k 1).releaseClass k 2).releaseClass k 3)) ∧
  (∀ (s : State) (k kind ac : Nat), (s.coreOf k).ac = ac →
    (optGet kind (s.coreOf k).relAc = some ac → s.releaseClass k kind = s) ∧
    (∀ slot e u, optGet kind (s.coreOf k).relAc ≠ some ac → firstEntry (s.releasable k kind) = some (slot, e) →
      (kindUnits kind).find? (fun u => (s.strmOf (sidOf k u)).run = .off) = some u →
      s.releaseClass k kind = (((s.releasable k kind).foldl (fun t z => if z.1 = slot then t else
        t.modCore k fun c => c.setEntry z.1 (some z.2.pass)) s).modCore k fun c =>
          { c with relAc := SMap.set none kind (some ac) c.relAc }).startTask k slot u e)) ∧
  (∀ (l : List (Nat × KEntry)) (w : Nat × KEntry), firstEntry l = some w → w ∈ l ∧
    ∀ z ∈ l, z.2.prio < w.2.prio ∨ (z.2.prio = w.2.prio ∧ w.2.age ≤ z.2.age)) ∧
  (∀ (s : State) (k slot u : Nat) (e : KEntry), u < 8 → (s.strmOf (sidOf k u)).unit = u →
    let t := s.startTask k slot u e
    let x := t.strmOf (sidOf k u)
    (t.coreOf k).entry slot = some { e with state := .running, unit := some u } ∧ x.run = .running ∧
      x.pos = ⟨(e.words.getD 1 0).toNat % 2 ^ 28, 0⟩ ∧ (∀ i, i < 4 → SMap.get 0 i x.g = e.words.getD (4 + i) 0) ∧
      SMap.get 0 4 x.g = BitVec.ofNat 32 slot ∧ (u < 4 → SMap.get 0 5 x.g = BitVec.ofNat 32 e.tag ∧
        SMap.get 0 6 x.g = BitVec.ofNat 32 u) ∧
      x.tagr = BitVec.ofNat 16 e.tag ∧ x.slot = slot ∧ x.icnt = 0 ∧ x.q = [] ∧ x.flight = [] ∧ x.handler = false)

/-- R176, R185, R270, R188: a Draining task whose work has all performed retires: its entry is gone, the edges from it too, its signal is
pending and its tag set. KILN_DEADLOCK is raised to the firmware once its conditions have held for 65,536 die cycles. -/
def Claims.TaskRetirement : Prop :=
  (∀ (s : State) (k slot : Nat), (s.coreOf k).entry slot = none → exec (.taskRetire k slot) s = .next s) ∧
  (∀ (s : State) (k slot : Nat) (e : KEntry), (s.coreOf k).entry slot = some e →
    (e.state = .draining → e.spec = false → s.taskQuiet k e.seq = true → recKind e.words ≠ 4 →
      exec (.taskRetire k slot) s = .next ((s.retireEngine k e).retire k slot)) ∧
    (e.state = .ready → 5 ≤ recKind e.words → e.spec = false → exec (.taskRetire k slot) s = .next ((s.retireEngine k e).retire k slot)) ∧
    (e.state = .ready → recKind e.words = 4 → e.spec = false → ∃ t : State, exec (.taskRetire k slot) s = .next (t.retire k slot) ∧
      SMap.get 0 ((e.words.getD 4 0).toNat % 4) (t.coreOf k).kmodes = (e.words.getD 5 0).toNat % 8) ∧
    (e.state = .waiting ∨ e.state = .running ∨ e.state = .held → exec (.taskRetire k slot) s = .next s)) ∧
  (∀ (s : State) (k slot : Nat) (e : KEntry), (s.coreOf k).entry slot = some e →
    let c := (s.retire k slot).coreOf k
    let w3 := (e.words.getD 3 0).toNat
    c.entry slot = none ∧ (∀ n, n ≠ slot → c.entry n = ((s.coreOf k).entry n).map fun x => { x with edges := x.edges.filter (· ≠ slot) }) ∧
      c.conePend = (if w3.testBit 24 then (s.coreOf k).conePend ++ [.add (w3 % 256) (w3 / 256 % 65536)] else (s.coreOf k).conePend) ∧
      (∀ i, i < 64 → c.tagSet.getLsbD i = ((s.coreOf k).tagSet.getLsbD i || (w3.testBit 31 && decide (w3 / 2 ^ 25 % 64 = i)))) ∧
      c.loc = (s.coreOf k).loc) ∧
  (∀ (s : State) (k : Nat),
    let c := s.coreOf k
    (s.kilnStuck k = false → c.deadlock = 0 → exec (.kilnDeadlock k) s = .next s) ∧
    (s.kilnStuck k = false → c.deadlock ≠ 0 → exec (.kilnDeadlock k) s = .next (s.putCore k { c with deadlock := 0 })) ∧
    (s.kilnStuck k = true → c.deadlock = 0 → exec (.kilnDeadlock k) s = .next (s.putCore k { c with deadlock := s.sys.dc + 1 })) ∧
    (s.kilnStuck k = true → c.deadlock ≠ 0 → s.sys.dc + 1 < c.deadlock + 65536 → exec (.kilnDeadlock k) s = .next s) ∧
    (s.kilnStuck k = true → c.deadlock ≠ 0 → c.deadlock + 65536 ≤ s.sys.dc + 1 → exec (.kilnDeadlock k) s =
      .next ((s.putCore k { c with deadlock := 2 ^ 128 }).fwQueue k ⟨4, 27, false, 0, (s.strmOf (sidOf k 4)).pos.packed, 0, none⟩)))

/-- R172, R195 to R199, R169: an idle program context starts the head of its queue at its entry line with its indices, ordinal, core, parameter
address and bases; a finished record is followed by the next, whose ordinals the dies share in contiguous ranges; a Wheel hands out, forwards
or holds its next iteration; an idle Wheel steals the upper half of the longest range; a launch of which nothing is left ends. -/
def Obligations.WheelEvents : Prop :=
  (∀ (s : State) (k : Nat) (it : Iter) (rest : List Iter) (l : Launch), (s.coreOf k).iterQ = it :: rest → s.launchOf (s.coreOf k).launch = some l →
    (s.coreOf k).iter = none → (s.strmOf (sidOf k 4)).run = .off → (s.coreOf k).yreq = false → (s.coreOf k).parking = false →
    s.launchRuns (s.coreOf k).launch (rankOfCore k) = true → it.idx.length = 4 →
    ∃ t : State, exec (.iterationStart k) s = .next t ∧ (t.coreOf k).iter = some it ∧ (t.coreOf k).iterQ = rest ∧
      let x := t.strmOf (sidOf k 4)
      x.run = .running ∧ x.pos = ⟨it.entry, 0⟩ ∧ (∀ i, i < 4 → SMap.get 0 i x.g = it.idx.getD i 0) ∧ SMap.get 0 4 x.g = BitVec.ofNat 32 it.ord ∧
      SMap.get 0 5 x.g = BitVec.ofNat 32 (s.coreOf k).lcore ∧ SMap.get 0 0 x.a = it.param ∧
      (∀ i, i < 16 → SMap.get 0 (16 + i) x.a = SMap.get 0 i l.lb) ∧ x.tagr = BitVec.ofNat 16 it.tag) ∧
  (∀ (s : State) (lk : Nat) (l : Launch), s.launchOf lk = some l → l.phase = .running → l.recordDone = true → l.nests ≠ [] → l.bare = none →
    (∀ j ∈ s.launchParts lk, ∀ p, s.launchOf j = some p → p.readyFor l.nestIdx = true) →
    exec (.nestRecordStart lk) s = .next ((s.putLaunch lk (some l.nextRecord)).handedOut lk)) ∧
  (∀ n d i : Nat, i < d → (dieRange n d 0).1 = 0 ∧ (dieRange n d i).1 ≤ (dieRange n d i).2 ∧
    (i + 1 < d → (dieRange n d (i + 1)).1 = (dieRange n d i).2) ∧ (i + 1 = d → (dieRange n d i).2 = n)) ∧
  (∀ (s : State) (die lk : Nat) (l : Launch) (r r1 : NestRun) (ord : Nat) (came : Bool), s.launchOf lk = some l → l.run = some r →
    s.launchRuns lk die = true → (s.dieOf die).handed ≠ (s.dieOf die).acs + 1 → r.next die = some (ord, came, r1) →
    let tag := s.nestTag l r.nest ord
    let aff := nestAffinity r.nest ord
    let hand := fun (t : State) => t.modDie die fun d => { d with handed := d.acs + 1 }
    let away := if came then none else aff.bind fun a => s.forwardTo lk l die a
    let seen := s.affRecord lk l die tag aff
    (tag = 0 ∨ s.filtered lk tag = false ∧ tag ∉ r.gone) →
    (∀ d, away = some d → exec (.wheelPlace die lk) s = .next (hand (seen.modLaunch lk fun z =>
      { z with run := some { r1 with fwd := SMap.set [] d (SMap.get [] d r1.fwd ++ [ord]) r1.fwd } }))) ∧
    (away = none → s.placeOn lk l die aff = .waits → exec (.wheelPlace die lk) s = .next (s.modLaunch lk fun z => { z with run := some r })) ∧
    ∀ k mv, away = none → s.placeOn lk l die aff = .on k mv →
      let moved := match mv with
        | some m => seen.moveRegion lk l k m
        | none => seen
      exec (.wheelPlace die lk) s = .next (hand (((moved.modLaunch lk fun z =>
        { z with run := some { r1 with inFlight := r1.inFlight + 1 } }).modCore k fun c => { c with iterQ := c.iterQ ++
          [⟨((nestIdx r.nest.words ord).map fun i => BitVec.ofInt 32 i) ++ List.replicate (4 - (nestIdx r.nest.words ord).length) 0, ord, tag,
            (r.nest.words.getD 1 0).toNat % 2 ^ 28, r.nest.param, l.nestIdx⟩] }).handedOut lk))) ∧
  (∀ (s : State) (die lk : Nat) (l : Launch), s.launchOf lk = some l → s.launchRuns lk die = false ∨ (s.dieOf die).handed = (s.dieOf die).acs + 1 →
    exec (.wheelPlace die lk) s = .next s) ∧
  (∀ (s : State) (die lk : Nat), s.launchOf lk = none → exec (.wheelPlace die lk) s = .next s ∧ exec (.wheelSteal die lk) s = .next s) ∧
  (∀ (s : State) (die lk : Nat) (l : Launch) (r : NestRun) (d a b : Nat), s.launchOf lk = some l → l.run = some r →
    (SMap.get (0, 0) die r.ranges).2 ≤ (SMap.get (0, 0) die r.ranges).1 → SMap.get [] die r.fwd = [] → die ∈ l.ranks → die / 4 = l.pkg →
    s.launchRuns lk die = true → r.victim die = some (d, a, b) →
    exec (.wheelSteal die lk) s = .next (s.modLaunch lk fun z => { z with run := some { r with
      ranges := SMap.set (0, 0) die (b - (b - a) / 2, b) (SMap.set (0, 0) d (a, b - (b - a) / 2) r.ranges) } })) ∧
  (∀ (s : State) (lk : Nat),
    let done := (s.launchParts lk).all fun j => (s.launchOf j).any fun l =>
      l.phase = .running && l.bare.isNone && l.nests.isEmpty && l.recordDone && (l.allCores j).all s.coreDone
    exec (.launchComplete lk) s = .next (if done then (s.launchParts lk).foldl (fun t j => t.endLaunch j 0 0 0) s else s))

/-- R417 to R421, R427, R440: a core whose yield deadline has run out stops its streams; a die that receives a freeze stops its cores of the
launch at once; a core whose streams and engines have come to rest is parked; a blocked core gives way to the core that has been parked
longest; a cut marker counts once every message before it has come. -/
def Obligations.FreezeEvents : Prop :=
  (∀ (s : State) (k : Nat), exec (.forcedSave k) s = .next (if (s.coreOf k).yreq = true ∧ (s.coreOf k).yrem = 0 then
    ((((s.forceStream k 0).forceStream k 1).forceStream k 2).forceStream k 3).forceStream k 4 else s)) ∧
  (∀ (s : State) (k u : Nat), u < 4 → (s.strmOf (sidOf k u)).run = .running → (s.strmOf (sidOf k u)).latch.wait = false →
    (∀ f ∈ (s.strmOf (sidOf k u)).flight, f.prot ≠ 3) → ((s.forceStream k u).strmOf (sidOf k u)).run = .saved ∧
      ((s.forceStream k u).strmOf (sidOf k u)).pos = (s.strmOf (sidOf k u)).pos ∧
      ((s.forceStream k u).strmOf (sidOf k u)).flight = (s.strmOf (sidOf k u)).flight ∧
      ((s.forceStream k u).strmOf (sidOf k u)).g = (s.strmOf (sidOf k u)).g) ∧
  (∀ (s : State) (die lk : Nat) (l : Launch), s.launchOf lk = some l →
    (l.stage die ≠ 1 → exec (.freezeReceive die lk) s = .next s) ∧
    (l.stage die = 1 → exec (.freezeReceive die lk) s = .next (((l.onDie die).foldl (fun t c =>
      (List.range 5).foldl (fun v n => v.forceStream c.2 n) ((t.dropAhead c.2).modCore c.2 fun x => { x with yreq := true, yrem := 0 }))
      (s.putLaunch lk (some (l.setFreeze die 2 0 0)))).freezeAdvance lk die))) ∧
  (∀ (s : State) (k : Nat), (s.coreOf k).yreq = false ∨ (s.coreOf k).launch = 0 → exec (.corePark k) s = .next s) ∧
  (∀ (s : State) (k : Nat), (s.coreOf k).yreq = true → (s.coreOf k).launch ≠ 0 → (∀ u, u < 5 → (s.strmOf (sidOf k u)).stopped = true) →
    let s1 := (s.putCore k { s.coreOf k with parking := true }).stopEngines k
    let rests := (∀ u, 5 ≤ u → u < 8 → (s1.strmOf (sidOf k u)).stopped = true) ∧
      s1.enginesDone k ((s.launchOf (s.coreOf k).launch).any fun l => SMap.get 0 (rankOfCore k) l.freezing != 0) = true
    (rests → exec (.corePark k) s = .next ((s1.parkCore k).freezeAdvance (s.coreOf k).launch (rankOfCore k))) ∧
    (¬ rests → exec (.corePark k) s = .next s1)) ∧
  (∀ (s : State) (k lc : Nat) (l : Launch), s.launchOf (s.coreOf k).launch = some l → l.oldestParked (rankOfCore k) = some lc →
    (s.coreOf k).yreq = false → s.launchRuns (s.coreOf k).launch (rankOfCore k) = true → (l.parked.any fun x => x.1 = lc && x.2.isSome) = true →
    (s.coreOf k).parking = true ∨ s.coreBlocked k = true →
    let x := s.strmOf (sidOf k 4)
    let s1 := ((if x.run = .running then (s.putStrm (sidOf k 4) x.stopForced).dropAhead k else s).stopEngines k).modCore k
      fun d => { d with parking := true }
    exec (.coreSwap k) s = .next (if s1.enginesDone k false then ((s1.parkCore k).modLaunch (s.coreOf k).launch fun y =>
      { y with maps := SMap.set none (s.coreOf k).lcore none y.maps }).restoreCore (s.coreOf k).launch lc k else s1)) ∧
  (∀ (s : State) (k : Nat) (l : Launch), s.launchOf (s.coreOf k).launch = some l → l.oldestParked (rankOfCore k) = none →
    exec (.coreSwap k) s = .next s) ∧
  (∀ (s : State) (i : Nat), s.sys.msgs[i]? = none → exec (.cutMarker i) s = .next s) ∧
  (∀ (s : State) (m : Msg) (l : Launch), s.sys.msgs[0]? = some m → m.kind = 14 →
    s.launchOf (launchKey (m.dst / 4) (launchId m.launch)) = some l → 2 ≤ l.stage m.dst →
    exec (.cutMarker 0) s = .next ((State.putLaunch { s with sys := { s.sys with msgs := s.sys.msgs.eraseIdx 0 } }
      (launchKey (m.dst / 4) (launchId m.launch)) (some (l.setFreeze m.dst (l.stage m.dst) (l.sentDims m.dst)
        (l.heldDims m.dst ||| 2 ^ m.op)))).freezeAdvance (launchKey (m.dst / 4) (launchId m.launch)) m.dst))

/-! ## The fabric (20 R445 to R474) -/

/-- R446 to R449, R453: the oldest message of its channel crosses the lowest dimension in which it still has to move; a failed check is counted,
the 16th in a row takes the link down, and a message that would cross a down link is dropped with a record. Nothing crosses a
dimension in which a switch plane maps one of its ends to no port. The failure of a link
inside a package ends the launches that use it. -/
def Claims.LinkEvents : Prop :=
  (∀ (s : State) (i : Nat) (m : Msg) (d : Nat) (ok : Bool), s.sys.msgs[i]? = some m → nextDim m.here m.dst = some d → s.inOrder i m = true →
    s.ackWaits m = false → s.wired m.here d = true →
    let link := SMap.get ⟨0, false⟩ d (s.dieOf m.here).links
    (link.down = false → ok = true → ∃ t : State, exec (.flitArrival i ok) s = .next t ∧
      t.sys.msgs = s.sys.msgs.set i { m with here := m.here ^^^ 2 ^ d } ∧ SMap.get ⟨0, false⟩ d (t.dieOf m.here).links = ⟨0, false⟩ ∧
      t.sys.hbm = s.sys.hbm ∧ t.core = s.core ∧ t.strm = s.strm) ∧
    (link.down = false → ok = false → link.fails + 1 < 16 → exec (.flitArrival i ok) s =
      .next (s.modDie m.here fun x => { x with links := SMap.set ⟨0, false⟩ d ⟨link.fails + 1, false⟩ x.links })) ∧
    (link.down = false → ok = false → 16 ≤ link.fails + 1 → exec (.flitArrival i ok) s =
      .next (s.modDie m.here fun x => { x with links := SMap.set ⟨0, false⟩ d ⟨16, true⟩ x.links })) ∧
    (link.down = true → exec (.flitArrival i ok) s = .next (State.lossRecord { s with sys := { s.sys with msgs := s.sys.msgs.eraseIdx i } }
      m.here m.dst m.launch))) ∧
  (∀ (s : State) (i : Nat) (m : Msg) (d : Nat) (ok : Bool), s.sys.msgs[i]? = some m → nextDim m.here m.dst = some d →
    s.inOrder i m = false ∨ s.ackWaits m = true ∨ s.wired m.here d = false → exec (.flitArrival i ok) s = .next s) ∧
  (∀ (here dst d : Nat), nextDim here dst = some d → d < 10 ∧ here.testBit d ≠ dst.testBit d ∧ ∀ e, e < d → here.testBit e = dst.testBit e) ∧
  (∀ (s : State) (die dim : Nat), exec (.linkDown die dim) s = .next (if dim < 10 then s.modDie die fun d => { d with
    links := SMap.set ⟨0, false⟩ dim ⟨16, true⟩ d.links } else s)) ∧
  (∀ (s : State) (die dim : Nat),
    (2 ≤ dim → exec (.dieLinkFailure die dim) s = .next s) ∧
    (dim < 2 → s.sys.launches = [] → exec (.dieLinkFailure die dim) s = .next ((s.modDie die fun d => { d with
      links := SMap.set ⟨0, false⟩ dim ⟨16, true⟩ d.links }).lossRecord die (die ^^^ 2 ^ dim) 0)) ∧
    (∀ lk l, dim < 2 → s.sys.launches = [(lk, some l)] → l.pkg = die / 4 → die ∈ freezeRanks l.ranks → die ^^^ 2 ^ dim ∈ freezeRanks l.ranks →
      exec (.dieLinkFailure die dim) s = .next (((s.modDie die fun d => { d with
        links := SMap.set ⟨0, false⟩ dim ⟨16, true⟩ d.links }).lossRecord die (die ^^^ 2 ^ dim) 0).teardown lk 24 die)))

/-- R449 to R451, R455: a request that has reached its destination in the order of its channel is taken from the fabric and arrives, a reply reaches
its requester; before that the state is unchanged. The elements of a vector atomic perform one by one (R267). A copy chunk whose CRC fails arrives poisoned, with a record (R358). -/
def Claims.MessageArrivals : Prop :=
  ∀ (s : State) (i : Nat),
    let requests : Nat → Host.Outcome State Fault Refusal := fun kind => .next (match s.taken i [kind] with
      | some (m, t) => if t.regWaits m then s else t.arrive m
      | none => s)
    let replies : Nat → Host.Outcome State Fault Refusal := fun kind => .next (match s.taken i [kind] with
      | some (m, t) => t.takeReply m
      | none => s)
    exec (.farStore i) s = requests 1 ∧ exec (.atomicReply i) s = replies 3 ∧
    exec (.loadData i) s = replies 4 ∧ exec (.postxRecord i) s = requests 5 ∧ exec (.postxReply i) s = replies 6 ∧
    exec (.remoteConeSignal i) s = requests 7 ∧ exec (.notifyMessage i) s = requests 8 ∧ exec (.copyChunk i true) s = requests 9 ∧
    exec (.landingUpdate i) s = requests 10 ∧ exec (.barrierRequest i) s = requests 11 ∧ exec (.barrierReply i) s = replies 12 ∧
    exec (.acknowledgement i) s = replies 13 ∧ exec (.purgeMessage i) s = requests 15 ∧ exec (.launchPacketMessage i) s = requests 16 ∧
    exec (.startArrival i) s = requests 17 ∧ exec (.startRelease i) s = requests 18 ∧ exec (.loadRequest i) s = requests 19 ∧
    exec (.parityUpdate i) s = requests 20 ∧
    exec (.copyChunk i false) s = .next (match s.taken i [9] with
      | some (m, t) => (t.sherd m.dst { kind := 0x12, tag := m.tag, launch := m.launchHere, core := m.dst * 64, unit := 14, addr := m.addr }).arrive
          { m with poison := true }
      | none => s) ∧
    (∀ j sid, s.vamos[j]? = some sid → exec (.atomicRequest (s.sys.msgs.length + j)) s = .next (s.vamoStep sid)) ∧
    (i < s.sys.msgs.length → exec (.atomicRequest i) s = .next (match s.taken i [2] with
      | some (m, t) =>
        if t.regWaits m then s
        else if s.stepsAtom m then
          let r := (s.inProgress m true).msgAtom m (if m.atomSp then s.coreFor m.launchHere m.dlc else none)
          { r.1 with sys := { r.1.sys with msgs := r.1.sys.msgs.set i r.2 } }
        else (if m.atomNext = 0 then t else t.inProgress m false).arrive m
      | none => s)) ∧
    (∀ m kind, s.sys.msgs[i]? = some m → m.kind = kind → m.here = m.dst → s.inOrder i m = true → s.ackWaits m = false →
      s.taken i [kind] = some (m, { s with sys := { s.sys with msgs := s.sys.msgs.eraseIdx i } })) ∧
    (∀ m kind, s.sys.msgs[i]? = some m → m.kind ≠ kind ∨ m.here ≠ m.dst ∨ s.inOrder i m = false ∨ s.ackWaits m = true → s.taken i [kind] = none)

/-- R451, R193, R234, R356, R284, R297, R470: what a request does at its destination, where the launch is there and its tag is not purged. A store
changes the bytes that it carries and no others, an atomic of one word answers the old bytes and a failed ACAS writes nothing, each
element of a vector atomic changes its own bytes, a cone signal is taken in and pending once the core drains its inbound posts, a notify
write is ORed, a landing word is set or added to and becomes full, a barrier request arrives at its word, a parity update is XORed. -/
def Obligations.RequestEffects : Prop :=
  ∀ (s : State) (m : Msg), (m.launchHere = 0 ∨ ∃ l, s.launchOf m.launchHere = some l) → s.filtered m.launchHere m.tag = false →
    (m.kind = 1 → isDieReg m.pa = false → (m.checked = true → s.msgAllowed m m.vdev m.addr true = true) → m.poison = false →
      (s.applyReq m).2 = some (m.reply 0 0 []) ∧ (s.applyReq m).1.core = s.core ∧ (s.applyReq m).1.strm = s.strm ∧
      ∀ x, Memory.read (s.applyReq m).1.sys.hbm x =
        if m.pa ≤ x ∧ x < m.pa + m.data.length then m.data.getD (x - m.pa) 0 else Memory.read s.sys.hbm x) ∧
    (m.kind = 1 → isDieReg m.pa = false → m.checked = true → s.msgAllowed m m.vdev m.addr true = false →
      s.applyReq m = (s, some (m.reply 2 0 []))) ∧
    (m.kind = 2 → m.atomSp = false → isDieReg m.pa = false → (m.checked = true → s.msgAllowed m m.vdev m.addr true = true) →
      9 ≤ m.args.length →
      let a := AtomOp.ofMsg m
      let e := m.atomNext
      let at_ := m.pa + a.size * e
      let old := Memory.readBytes s.sys.hbm at_ a.size
      let after := fun (x : Nat) => match a.elem e old with
        | none => Memory.read s.sys.hbm x
        | some new => if at_ ≤ x ∧ x < at_ + new.length then new.getD (x - at_) 0 else Memory.read s.sys.hbm x
      (s.msgAtom m none).2.atomNext = e + 1 ∧ (∀ x, Memory.read (s.msgAtom m none).1.sys.hbm x = after x) ∧
      (a.kind ≠ 2 → m.args.length = 9 →
        (s.applyReq m).2 = some { m.reply 0 0 old with poison := m.poison || s.hbmPoisoned m.pa 4 } ∧
        ∀ x, Memory.read (s.applyReq m).1.sys.hbm x = after x)) ∧
    (∀ k, s.coreFor m.launchHere m.dlc = some k →
      (m.kind = 5 ∨ m.kind = 7 → s.applyReq m = (s.inboundPost k m, none)) ∧
      (m.kind = 7 → isParkKey k = false →
        s.inboundPost k m = s.putCore k { s.coreOf k with inbound := (s.coreOf k).inbound ++ [m] } ∧
        ((s.coreOf k).inbound = [m] → s.drainInbound k = (s.putCore k { s.coreOf k with
          inbound := [], conePend := (s.coreOf k).conePend ++ [.add (m.args.getD 0 0) (m.args.getD 1 0)] }).answer m (m.reply 0 0 []))) ∧
      (m.kind = 8 → ∃ t, s.applyReq m = (t, some (m.reply 0 0 [])) ∧
        ((s.coreOf k).gated = false → t = s.modCore k fun c => { c with
          notifyOr := c.notifyOr ++ [(m.args.getD 0 0, BitVec.ofNat 32 (m.args.getD 1 0))] }) ∧
        ((s.coreOf k).gated = true → SMap.get 0 (m.args.getD 0 0) (t.coreOf k).latches =
          SMap.get 0 (m.args.getD 0 0) (s.coreOf k).latches ||| BitVec.ofNat 32 (m.args.getD 1 0))) ∧
      (m.kind = 10 → ∃ t, s.applyReq m = (t, some (m.reply 0 0 [])) ∧
        Memory.readNat (t.coreOf k).loc m.addr 4 = ((if m.op = 1 then Memory.readNat (s.coreOf k).loc m.addr 4 else 0) + m.args.getD 0 0) % 2 ^ 32 ∧
        SMap.get false (m.addr / 4) (t.coreOf k).feEmpty = false ∧
        (∀ x, (x < m.addr ∨ m.addr + 4 ≤ x) → Memory.read (t.coreOf k).loc x = Memory.read (s.coreOf k).loc x)) ∧
      (m.kind = 11 → m.op = 0 →
        let count := (Memory.readNat (s.coreOf k).loc m.addr 4 + 1) % 2 ^ 32
        let phase := Memory.readNat (s.coreOf k).loc (m.addr + 4) 4
        ∃ t, s.applyReq m = (t, some (m.reply 0 0 (leBytes 4 phase))) ∧
          Memory.readNat (t.coreOf k).loc m.addr 4 = (if m.args.getD 0 0 ≤ count then 0 else count) ∧
          Memory.readNat (t.coreOf k).loc (m.addr + 4) 4 = (if m.args.getD 0 0 ≤ count then (phase + 1) % 2 ^ 32 else phase))) ∧
    (m.kind = 20 → (s.applyReq m).2 = some (m.reply 0 0 []) ∧ ∀ j, j < m.data.length → Memory.read (s.applyReq m).1.sys.hbm (m.dst * 0x400000000000 + m.addr + j) =
      Memory.read s.sys.hbm (m.dst * 0x400000000000 + m.addr + j) ^^^ m.data.getD j 0) ∧
    ((m.kind = 5 ∨ m.kind = 7 ∨ m.kind = 8 ∨ m.kind = 10 ∨ m.kind = 11) → s.coreFor m.launchHere m.dlc = none →
      s.applyReq m = (s, some (m.reply 1 0 [])))

/-- R455, R457, R458: a request whose number has been applied is not applied again, it only has its reply sent again; one from an older incarnation
answers LOST. A request that has waited 2^TEXP die cycles is sent again, or lost after its last retransmission. A skipped number that was
applied is only acknowledged. -/
def Claims.ReliableDelivery : Prop :=
  (∀ (s : State) (m : Msg) (seq einc sinc : Nat), einc ≠ (s.dieOf m.dst).inc → s.receive m seq einc sinc = s.send (m.reply 1 0 [])) ∧
  (∀ (s : State) (m : Msg) (seq sinc : Nat) (w : Window) (r : Msg), SMap.get none m.src (s.dieOf m.dst).windows = some w → w.sinc = sinc →
    w.replies.find? (·.1 = seq) = some (seq, r) →
    (s.receive m seq (s.dieOf m.dst).inc sinc).sys.hbm = s.sys.hbm ∧ (s.receive m seq (s.dieOf m.dst).inc sinc).core = s.core ∧
      (s.receive m seq (s.dieOf m.dst).inc sinc).sys.msgs = s.sys.msgs ++ [{ r with req := m.req }]) ∧
  (∀ (s : State) (id : Nat) (r : Req) (m : Msg), s.reqOf id = some r →
    (s.timed r = none → exec (.requestTimeout id) s = .next s) ∧
    (s.timed r = some m → r.tries < (s.dieOf m.src).ftmo.toNat / 2 ^ 28 → exec (.requestTimeout id) s =
      .next ((s.modReq id fun q => { q with tries := q.tries + 1, sentAt := s.sys.dc }).send m)) ∧
    (s.timed r = some m → (s.dieOf m.src).ftmo.toNat / 2 ^ 28 ≤ r.tries → exec (.requestTimeout id) s = .next (s.loseReq r m))) ∧
  (∀ (s : State) (r : Req) (m : Msg), s.timed r = some m → r.msg = some m ∧ m.src / 4 ≠ m.dst / 4 ∧
    r.sentAt + 2 ^ ((s.dieOf m.src).ftmo.toNat % 32) ≤ s.sys.dc) ∧
  (∀ (s : State) (i : Nat), s.taken i [21] = none → exec (.sequenceSkip i) s = .next s) ∧
  (∀ (s t : State) (i : Nat) (m : Msg) (w : Window) (r : Msg), s.taken i [21] = some (m, t) →
    SMap.get none m.src (t.dieOf m.dst).windows = some w → w.sinc = m.args.getD 2 0 → w.replies.find? (·.1 = m.args.getD 0 0) = some (m.args.getD 0 0, r) →
    exec (.sequenceSkip i) s = .next (t.send (m.reply 0 0 [])))

/-- R466 to R470, R473: a spare package's dies have new incarnations, which every rank table then names, and no memory of the lost package is
left, where every external dimension of its ranks passes through a switch plane that faces the spare; the relabel tables of those planes
name the spare's ports (R467, R468). A stripe is rebuilt as the XOR of the other members' blocks, and not while a parity update is on its
way. -/
def Claims.SparesAndStripes : Prop :=
  (∀ (s : State) (lost pser j : Nat), j < 4 → s.spareReaches (4 * lost + j) pser = false → exec (.spareInstallation lost pser) s = .next s) ∧
  (∀ (s : State) (lost pser i r : Nat), i < 4 → r < 1024 → lost < 256 →
    (∀ j, j < 4 → s.spareReaches (4 * lost + j) pser = true) → ∃ t : State, exec (.spareInstallation lost pser) s = .next t ∧
    (t.dieOf (4 * lost + i)).inc = nextInc (s.dieOf (4 * lost + i)).inc ∧
    SMap.get 0 (4 * lost + i) (t.dieOf r).rankTab = BitVec.ofNat 64 (nextInc (s.dieOf (4 * lost + i)).inc * 2 ^ 48 + pser * 2 ^ 16 + i * 2 ^ 14 + 1) ∧
    SMap.get false (4 * lost + i) (t.dieOf r).dead = false ∧ (t.pkgOf lost).serial = pser ∧
    (∀ d n, d ∈ externalDims → SMap.get 0 (16 * (4 * lost + i) + d) s.sys.wiring = n + 2 →
      optGet (4 * lost + i) (SMap.get ⟨[], []⟩ n t.sys.planes).relabel = (SMap.get ⟨[], []⟩ n s.sys.planes).portTo pser i) ∧
    ∀ a, a < 2 ^ 56 → Memory.read t.sys.hbm a = if physPkg a = lost then 0 else Memory.read s.sys.hbm a) ∧
  (∀ (s : State) (group stripe member spare : Nat) (p : Parity), (s.dieOf spare).parity = some p → p.group = group → p.member = member →
    stripe ∈ p.blocked → s.parityOpen = false → ∃ t : State, exec (.stripeRebuild group stripe member spare) s = .next t ∧
      (∀ j, j < 0x10000 → Memory.read t.sys.hbm (spare * 0x400000000000 + p.base + 0x10000 * stripe + j) =
        ((p.ranks.zipIdx.filter fun x => x.2 ≠ member).map fun x =>
          Memory.read s.sys.hbm (x.1 * 0x400000000000 + p.base + 0x10000 * stripe + j)).foldl (· ^^^ ·) 0) ∧
      (∀ a, (a < spare * 0x400000000000 + p.base + 0x10000 * stripe ∨ spare * 0x400000000000 + p.base + 0x10000 * stripe + 0x10000 ≤ a) →
        Memory.read t.sys.hbm a = Memory.read s.sys.hbm a) ∧
      (t.dieOf spare).parity = some { p with blocked := p.blocked.filter (· ≠ stripe), ready := (p.blocked.filter (· ≠ stripe)).isEmpty }) ∧
  (∀ (s : State) (group stripe member spare : Nat), (s.dieOf spare).parity = none ∨ s.parityOpen = true → exec (.stripeRebuild group stripe member spare) s = .next s)

/-! ## The host link (22 R475 to R497, 24 R513) -/

/-- R244, R254, R478, R479: a host access through BAR4 reads or writes the memory of its virtual device where every page of it is mapped (and
writable), and otherwise answers Unsupported Request. An AtomicOp on a page with SA answers the old value and writes the new one; on another
page, and to BAR2, it is refused with Completer Abort and a record. -/
def Claims.HostAccesses : Prop :=
  (∀ (s : State) (pkg vdev off size : Nat),
    let va := (s.vdevOf pkg vdev).wbase + off
    (s.bridgeOk pkg vdev va size false = false → exec (.hostMemoryAccess pkg vdev off size none) s = .next (s.bridgeFault pkg vdev va)) ∧
    (∀ bs, s.bridgeOk pkg vdev va size false = true → s.vaBytes pkg vdev va size = some bs →
      exec (.hostMemoryAccess pkg vdev off size none) s = .next (s.hostAnswers pkg 0 bs)) ∧
    (∀ bs, s.bridgeOk pkg vdev va bs.length true = false → exec (.hostMemoryAccess pkg vdev off size (some bs)) s = .next (s.bridgeFault pkg vdev va)) ∧
    (∀ bs, s.bridgeOk pkg vdev va bs.length true = true →
      exec (.hostMemoryAccess pkg vdev off size (some bs)) s = .next ((s.vaWrite pkg vdev va bs).hostAnswers pkg 0 []))) ∧
  (∀ (s : State) (pkg vdev va : Nat) (bs : List Byte) (w : Tlb), bs ≠ [] → va / 0x10000 = (va + bs.length - 1) / 0x10000 →
    s.walkVa pkg vdev (va / 0x10000 * 0x10000) = some w →
    ∀ x, Memory.read (s.vaWrite pkg vdev va bs).sys.hbm x = if w.phys + va % 0x10000 ≤ x ∧ x < w.phys + va % 0x10000 + bs.length then
      bs.getD (x - (w.phys + va % 0x10000)) 0 else Memory.read s.sys.hbm x) ∧
  (∀ (s : State) (pkg vdev off size operand compare : Nat) (op : HostAtomic) (w : Tlb),
    let va := (s.vdevOf pkg vdev).wbase + off
    s.bridgeOk pkg vdev va size true = true → s.walkVa pkg vdev va = some w →
    let a := w.phys + va % 0x10000
    let old := Memory.readNat s.sys.hbm a size
    let new := match op with
      | .fetchAdd => old + operand
      | .swap => operand
      | .cas => if old = compare % 256 ^ size then operand else old
    (w.sa = true → va % size = 0 → exec (.hostAtomicop pkg vdev off op size operand compare) s =
      .next (((s.hbmWrite a (leBytes size new)).markDevDirty pkg vdev va).hostAnswers pkg 0 (leBytes size old))) ∧
    (w.sa = false ∨ va % size ≠ 0 → exec (.hostAtomicop pkg vdev off op size operand compare) s = .next ((s.sherd (s.feRank pkg vdev)
      { kind := 0x19, core := s.feCore pkg vdev, unit := 13, addr := va }).hostAnswers pkg 2 []))) ∧
  (∀ (s : State) (pkg vdev off : Nat), exec (.bar2AtomicRefused pkg vdev off) s = .next ((s.sherd (s.feRank pkg vdev)
    { kind := 0x19, core := s.feCore pkg vdev, unit := 13, addr := off }).hostAnswers pkg 2 []))

/-- R477, R456, R476, R496, R497, R513, R519: a write outside the notify window, or that names no running launch of the device, is dropped and
counted. A die register takes the fields that can be written; CQCTL ignores a size out of range and keeps the size of an enabled queue; CQHEAD
takes 32 bits; RSTOP takes bit 0; a mailbox command without a meaning answers BADCMD. The oldest held record goes to an enabled queue with
room, with the phase of its pass. -/
def Claims.HostRegisters : Prop :=
  (∀ (s : State) (pkg vdev off size v : Nat), (off < 0x800 ∨ 0x880 ≤ off ∨ off % 8 ≠ 0 ∨ size ≠ 8) →
    exec (.hostNotifyWrite pkg vdev off size v) s = .next (s.modVdev pkg vdev fun x => { x with ndrop := min 0xFFFFFFFF (x.ndrop + 1) })) ∧
  (∀ (s : State) (pkg vdev n v lk k : Nat) (l : Launch), n < 16 → v < 2 ^ 64 → s.sys.launches = [(lk, some l)] → l.pkg = pkg → l.vdev = vdev →
    lk % 65536 = v / 2 ^ 32 % 65536 → l.phase = .running → (l.lcoreRank (v / 2 ^ 48)).isSome → l.coreAt lk (v / 2 ^ 48) = some k →
    exec (.hostNotifyWrite pkg vdev (0x800 + 8 * n) 8 v) s = .next (s.modCore k fun c => c.notified n (BitVec.ofNat 32 v))) ∧
  (∀ (c : Core) (n : Nat) (v : Word), (c.gated = false → c.notified n v = { c with notifyOr := c.notifyOr ++ [(n, v)] }) ∧
    (c.gated = true → SMap.get 0 n (c.notified n v).latches = SMap.get 0 n c.latches ||| v ∧ (c.notified n v).notify = c.notify)) ∧
  (∀ (s : State) (pkg vdev die off v : Nat), exec (.registerWrite (.bar0 pkg vdev off) v) s = .next (s.modVdev pkg vdev fun x => x.bar0Write off v) ∧
    exec (.registerWrite (.dieReg die off) v) s = .next (s.dieRegWrite die off v) ∧
    (v % 256 = 0 ∨ 4 ≤ v % 256 → ∃ t : State, exec (.registerWrite (.mailbox pkg) v) s = .next t ∧ (t.pkgOf pkg).mbst % 65536 = 0x102 ∧
      (t.pkgOf pkg).mbrlen = 0 ∧ t.sys.hbm = s.sys.hbm)) ∧
  (∀ v : Vdev, (∀ x, x % 2 ^ 40 = 0 → x < 2 ^ 56 → v.bar0Write 0x10 x = { v with wbase := x }) ∧
    (∀ x, x % 2 ^ 40 ≠ 0 ∨ 2 ^ 56 ≤ x → v.bar0Write 0x10 x = v) ∧ (∀ x, v.cqctl / 256 % 2 = 1 → v.bar0Write 0x100 x = v) ∧
    (∀ x, v.cqctl / 256 % 2 = 0 → v.bar0Write 0x100 x = { v with cqbase := x })) ∧
  (∀ (s : State) (pkg vdev v : Nat), (v % 32 < 4 ∨ 16 < v % 32 → exec (.cqctlWrite pkg vdev v) s = .next (s.modVdev pkg vdev id)) ∧
    (4 ≤ v % 32 → v % 32 ≤ 16 → ∃ t : State, exec (.cqctlWrite pkg vdev v) s = .next t ∧
      (t.vdevOf pkg vdev).cqctl % 32 = (if (s.vdevOf pkg vdev).cqctl / 256 % 2 = 1 then (s.vdevOf pkg vdev).cqctl % 32 else v % 32) ∧
      (t.vdevOf pkg vdev).cqctl / 256 % 2 = v / 256 % 2 ∧ t.sys.hbm = s.sys.hbm) ∧
    exec (.cqheadWrite pkg vdev v) s = .next (s.modVdev pkg vdev fun x => { x with cqhead := v % 2 ^ 32 })) ∧
  (∀ (s : State) (die vdev v : Nat), exec (.rstopWrite die vdev v) s = .next (s.setRstop die vdev (bit v 0))) ∧
  (∀ (s : State) (pkg vdev : Nat),
    let v := s.vdevOf pkg vdev
    let size := 2 ^ (v.cqctl % 32)
    (v.held = [] ∨ v.cqctl / 256 % 2 = 0 ∨ size ≤ (v.cqtail + 2 ^ 32 - v.cqhead) % 2 ^ 32 → exec (.completionRecordWrite pkg vdev) s = .next s) ∧
    (∀ r rest, v.held = r :: rest → v.cqctl / 256 % 2 = 1 → (v.cqtail + 2 ^ 32 - v.cqhead) % 2 ^ 32 < size → ∃ t : State,
      exec (.completionRecordWrite pkg vdev) s = .next t ∧ (t.vdevOf pkg vdev).held = rest ∧ (t.vdevOf pkg vdev).cqtail = (v.cqtail + 1) % 2 ^ 32 ∧
      t.sys.hbm = s.sys.hbm ∧ (r.length = 64 → ∀ x, Memory.read t.sys.host x =
        let a := v.cqbase + 64 * (v.cqtail % size)
        if x = a + 1 then BitVec.ofNat 8 ((r.getD 1 0).toNat + if v.cqtail.testBit (v.cqctl % 32) then 0 else 0x80)
        else if a ≤ x ∧ x < a + 64 then r.getD (x - a) 0 else Memory.read s.sys.host x)))

/-- R480 to R486, R513: a reservation that fits the segment gets its sequence number, segment and slot with ST 0, and its slots; a bad addend
answers ST 3, a stopped device ST 2. A NOP packet is consumed, a link packet moves the consumption to the next segment, and a reservation
whose packet has not come in 2^RTEXP die cycles is skipped with a record. Without a packet nothing changes. -/
def Obligations.RingReservations : Prop :=
  (∀ (s : State) (pkg vdev q n : Nat), q < 4 →
    let r := (s.vdevOf pkg vdev).ring q
    (n = 0 ∨ 16 < n → exec (.reserve pkg vdev q n) s = .next (s.hostAnswers pkg 0 (reserveWord 3 r.rseq 0 0))) ∧
    (1 ≤ n → n ≤ 16 → s.stopped pkg vdev = true → exec (.reserve pkg vdev q n) s = .next (s.hostAnswers pkg 0 (reserveWord 2 r.rseq 0 0))) ∧
    (1 ≤ n → n ≤ 16 → s.stopped pkg vdev = false → r.tail + n ≤ 1023 → ∃ t : State, exec (.reserve pkg vdev q n) s = .next t ∧
      (t.vdevOf pkg vdev).ring q = { r with rseq := (r.rseq + n) % 2 ^ 30, tail := r.tail + n, resv := r.resv ++ [(r.rseq, n, s.sys.dc)] } ∧
      (t.pkgOf pkg).hostReply = some (0, leBytes 8 (r.rseq * 2 ^ 32 + r.seg * 2 ^ 10 + r.tail)) ∧ t.sys.hbm = s.sys.hbm) ∧
    (∀ g rest, 1 ≤ n → n ≤ 16 → s.stopped pkg vdev = false → 1023 < r.tail + n → (s.vdevOf pkg vdev).free = g :: rest →
      exec (.reserve pkg vdev q n) s = .next ((s.growRing pkg vdev g r).1.takeSlots pkg vdev q n 1 (s.growRing pkg vdev g r).2)) ∧
    (1 ≤ n → n ≤ 16 → s.stopped pkg vdev = false → 1023 < r.tail + n → (s.vdevOf pkg vdev).free = [] →
      exec (.reserve pkg vdev q n) s = .next (s.hostAnswers pkg 0 (reserveWord 2 r.rseq 0 0)))) ∧
  (∀ (s : State) (pkg vdev q : Nat), s.packetAt pkg vdev q = none →
    exec (.nopPacket pkg vdev q) s = .next s ∧ exec (.linkPacket pkg vdev q) s = .next s ∧ exec (.slotldPacket pkg vdev q) s = .next s ∧
    exec (.slotrmPacket pkg vdev q) s = .next s ∧ exec (.purgePacket pkg vdev q) s = .next s ∧ exec (.killPacket pkg vdev q) s = .next s ∧
    exec (.launchPacket pkg vdev q) s = .next s ∧ exec (.barePacket pkg vdev q) s = .next s ∧ exec (.invokePacket pkg vdev q) s = .next s) ∧
  (∀ (s : State) (pkg vdev q : Nat) (bs : List Byte), s.serves pkg vdev = true → s.packetAt pkg vdev q = some bs → s.ringTurn pkg vdev q = true →
    (fld bs 0 4 = 0 → exec (.nopPacket pkg vdev q) s = .next (s.consume pkg vdev q 1)) ∧
    (knownOpc (fld bs 0 1) = false → exec (.nopPacket pkg vdev q) s =
      .next ((s.packetRecord pkg vdev q 3 0x101 0 0 bs).consume pkg vdev q (fld bs 0 4 / 256 % 16 + 1))) ∧
    (fld bs 0 1 = 0x7F → ((s.vdevOf pkg vdev).ring q).cslot = 1023 → ∃ t : State, exec (.linkPacket pkg vdev q) s = .next t ∧
      ((t.vdevOf pkg vdev).ring q).cseg = fld bs 16 2 ∧ ((t.vdevOf pkg vdev).ring q).cslot = 0 ∧
      ((t.vdevOf pkg vdev).ring q).rcons = (((s.vdevOf pkg vdev).ring q).rcons + 1) % 2 ^ 30 ∧
      (t.vdevOf pkg vdev).free = (s.vdevOf pkg vdev).free ++ [((s.vdevOf pkg vdev).ring q).cseg])) ∧
  (∀ (s : State) (pkg vdev q a n t0 : Nat),
    let r := (s.vdevOf pkg vdev).ring q
    (r.resv.find? fun x => seq30 (r.rcons + 0x40000000 - x.1) < x.2.1) = some (a, n, t0) →
    s.stopped pkg vdev = false → s.serves pkg vdev = true → s.packetAt pkg vdev q = none →
    (s.sys.dc < t0 + 2 ^ r.rto → exec (.ringSlotTimeout pkg vdev q) s = .next s) ∧
    (t0 + 2 ^ r.rto ≤ s.sys.dc → exec (.ringSlotTimeout pkg vdev q) s = .next ((s.pushRecord pkg vdev
      { kind := 3, ring := q, status := 0x108, seq := a }).consume pkg vdev q (seq30 (a + n + 0x40000000 - r.rcons)))))

/-- R487 to R494, R490, R463: a LAUNCH, BARE or INVOKE packet at the head of its ring, in its turn, is refused with a record and consumed where its
format or a check fails, and otherwise takes the next launch identifier, pins its pages and takes its cores; an INVOKE waits while an access of a former owner of its buffers is outstanding (R263). The command packets of the
slots, PURGE and KILL have their effects and their records, and are consumed. -/
def Obligations.LaunchPackets : Prop :=
  (∀ (s : State) (pkg vdev q : Nat) (bs : List Byte), s.servesLaunch pkg vdev = true → s.waitingLaunch pkg vdev q true = none →
    s.packetAt pkg vdev q = some bs → s.ringTurn pkg vdev q = true →
    let r := (s.vdevOf pkg vdev).ring q
    let n := fld bs 0 4 / 256 % 16 + 1
    let refused := fun (status tag : Nat) => (s.packetRecord pkg vdev q 3 status tag 0 bs).consume pkg vdev q n
    let id := (s.takeId pkg vdev).2
    (fld bs 0 1 = 1 → (1023 < r.cslot + n ∨ launchFormatBad bs pkg = true → exec (.launchPacket pkg vdev q) s = .next (refused 0x101 0)) ∧
      (r.cslot + n ≤ 1023 → launchFormatBad bs pkg = false →
        (∀ st, s.checkLaunch bs pkg vdev ⟨q, r.rcons⟩ = .error st → exec (.launchPacket pkg vdev q) s = .next (refused st 0)) ∧
        (∀ l, s.checkLaunch bs pkg vdev ⟨q, r.rcons⟩ = .ok l → exec (.launchPacket pkg vdev q) s =
          .next (((s.takeId pkg vdev).1.accept (launchKey pkg id) l).goOn (launchKey pkg id) pkg vdev q n bs)))) ∧
    (fld bs 0 1 = 2 → r.cslot + n ≤ 1023 → bareFormatBad bs = false →
      (∀ st, s.checkBare bs pkg vdev ⟨q, r.rcons⟩ = .error st → exec (.barePacket pkg vdev q) s = .next (refused st (fld bs 34 2))) ∧
      (∀ l, s.checkBare bs pkg vdev ⟨q, r.rcons⟩ = .ok l → exec (.barePacket pkg vdev q) s =
        .next (((s.takeId pkg vdev).1.accept (launchKey pkg id) l).goOn (launchKey pkg id) pkg vdev q n bs))) ∧
    (fld bs 0 1 = 3 → invokeFormatBad bs = false → ∀ l, s.checkInvoke bs pkg vdev ⟨q, 0⟩ = .ok l →
      s.buffersReady pkg vdev l.ncores (invokeBuffers bs (fld bs 17 1)) = false → exec (.invokePacket pkg vdev q) s = .next s) ∧
    (fld bs 0 1 = 3 → r.cslot + n ≤ 1023 → invokeFormatBad bs = false →
      (∀ l, s.checkInvoke bs pkg vdev ⟨q, 0⟩ = .ok l → s.buffersReady pkg vdev l.ncores (invokeBuffers bs (fld bs 17 1)) = true) →
      (∀ st, s.checkInvoke bs pkg vdev ⟨q, r.rcons⟩ = .error st → exec (.invokePacket pkg vdev q) s = .next (refused st (fld bs 20 2))) ∧
      (∀ l, s.checkInvoke bs pkg vdev ⟨q, r.rcons⟩ = .ok l →
        let u := (s.takeId pkg vdev).1.lendBuffers pkg vdev id l.ncores (invokeBuffers bs (fld bs 17 1))
        let more := fun (x : RSlot) => { x with running := x.running + 1 }
        let t := u.1.modVdev pkg vdev fun v => { v with slots := SMap.modify RSlot.free (fld bs 16 1 % 64) more v.slots }
        exec (.invokePacket pkg vdev q) s =
          .next ((t.accept (launchKey pkg id) { l with lent := u.2 }).goOn (launchKey pkg id) pkg vdev q n bs)))) ∧
  (∀ (s : State) (pkg vdev q : Nat), s.servesLaunch pkg vdev = true →
    (∀ lk, s.waitingLaunch pkg vdev q true = some lk → exec (.launchStart pkg vdev q) s = .next (s.goOn lk pkg vdev q
      (fld ((s.packetAt pkg vdev q).getD []) 0 4 / 256 % 16 + 1) ((s.packetAt pkg vdev q).getD []))) ∧
    (∀ lk, s.waitingLaunch pkg vdev q true = none → s.waitingLaunch pkg vdev q false = some lk →
      exec (.launchStart pkg vdev q) s = .next (s.tryTake lk []).1) ∧
    (s.waitingLaunch pkg vdev q true = none → s.waitingLaunch pkg vdev q false = none → exec (.launchStart pkg vdev q) s = .next s)) ∧
  (∀ (s : State) (pkg vdev q : Nat) (bs : List Byte), s.serves pkg vdev = true → s.packetAt pkg vdev q = some bs → s.ringTurn pkg vdev q = true →
    ((s.vdevOf pkg vdev).ring q).cslot < 1023 → 3 ≤ (s.pkgOf pkg).svcl → fld bs 0 4 < 256 →
    let done := fun (t : State) => t.consume pkg vdev q 1
    let gl := fld bs 16 4
    (fld bs 0 4 = 6 → (∀ lk, s.named pkg vdev bs = some lk → exec (.purgePacket pkg vdev q) s = .next (done (((s.purge lk (fld bs 20 2) 0
        (s.feRank pkg vdev)).sendPurges (s.feSid pkg vdev) lk).packetRecord pkg vdev q 4 0 (fld bs 20 2) 0 bs))) ∧
      (s.named pkg vdev bs = none → exec (.purgePacket pkg vdev q) s = .next (done (s.packetRecord pkg vdev q 3 0x10C 0 0 bs)))) ∧
    (fld bs 0 4 = 7 → (∀ lk, s.named pkg vdev bs = some lk → exec (.killPacket pkg vdev q) s =
        .next (done ((s.teardown lk 0x10A (s.feRank pkg vdev)).packetRecord pkg vdev q 4 0 0 0 bs))) ∧
      (s.named pkg vdev bs = none → exec (.killPacket pkg vdev q) s = .next (done (s.packetRecord pkg vdev q 3 0x10C 0 0 bs)))) ∧
    (∀ lk, s.named pkg vdev bs = some lk → lk = launchKey pkg gl ∧ ∃ l, s.launchOf lk = some l ∧ l.vdev = vdev ∧ (l.phase = .running ∨ l.phase = .starting)) ∧
    let i := fld bs 16 1 % 64
    let slot := SMap.get RSlot.free i (s.vdevOf pkg vdev).slots
    (fld bs 0 4 = 5 → (slot.resident = false ∨ slot.removing ≠ none →
        exec (.slotrmPacket pkg vdev q) s = .next (done (s.packetRecord pkg vdev q 3 0x105 0 0 bs))) ∧
      (slot.resident = true → slot.removing = none → slot.running ≠ 0 →
        let r := { slot with removing := some (q, ((s.vdevOf pkg vdev).ring q).rcons, fld bs 8 8) }
        exec (.slotrmPacket pkg vdev q) s = .next (done (s.modVdev pkg vdev fun v => { v with slots := SMap.set RSlot.free i r v.slots })))) ∧
    (fld bs 0 4 = 4 → ∀ img h, s.goodImage pkg vdev (fld bs 24 8) = some img → slotHeader img = some h → img ≠ [] → h ≠ [] →
      slotHeaderBad h = false → fld img 44 4 = 0 →
      let nests := pagesOf vdev (fld h 16 8) (64 * fld h 7 1)
      (∀ p ∈ nests, (s.walkVa pkg p.1 p.2).isSome) → slot.resident = false → s.weightsMatch pkg vdev h = true →
      let gen := if (slot.gen + 1) % 65536 = 0 then 1 else (slot.gen + 1) % 65536
      let pages := pagesOf vdev (fld bs 24 8) img.length ++ nests
      exec (.slotldPacket pkg vdev q) s = .next (done (((s.pinAll pkg pages).modVdev pkg vdev fun v => { v with
        slots := SMap.set RSlot.free i ⟨gen, true, none, fld bs 24 8, 0, pages⟩ v.slots }).packetRecord pkg vdev q 4 0 0 gen bs)))) ∧
  (∀ (s : State) (lk : Nat) (l : Launch), s.launchOf lk = some l →
    let d := s.dieOf (4 * l.pkg)
    (l.phase ≠ .starting ∨ l.pkg ≠ l.spanBase ∨ s.sys.dc < l.sentAt + d.timeout * (d.retries + 1) → exec (.launchArrivalTimeout lk) s = .next s) ∧
    (l.phase = .starting → l.pkg = l.spanBase → l.sentAt + d.timeout * (d.retries + 1) ≤ s.sys.dc →
      exec (.launchArrivalTimeout lk) s = .next ((s.sendReleases (launchId lk) l true).endLaunch lk 24 0 0)))

/-! ## Memory and the management controller (09 R235 to R238, 16 R388 to R393, 25 R515 to R523) -/

/-- R287, R236, R235: the data of a queue load that is complete enters its entry; an evicted line of L1 goes to the slice and one of the slice to
memory; a core that runs nothing is gated, and at its ungating each latch is ORed into its register. -/
def Claims.MemoryEvents : Prop :=
  (∀ (s : State) (id : Nat), s.reqOf id = none → exec (.queueDataArrival id) s = .next s) ∧
  (∀ (s : State) (id q : Nat) (r : Req), s.reqOf id = some r → r.wait = .entry q →
    (r.ready = false ∨ (∃ p ∈ s.sys.reqs, ∃ at_, p.wait = .part id at_) → exec (.queueDataArrival id) s = .next s) ∧
    (r.ready = true → (∀ p ∈ s.sys.reqs, ∀ at_, p.wait ≠ .part id at_) →
      let data := BitVec.ofNat 1024 (natOfBytes (Memory.readBytes r.data 0 128))
      exec (.queueDataArrival id) s = .next ((s.arriveData r data).dropReq id) ∧
      ((s.strmOf r.sid).upsets = [] → r.id = id → exec (.queueDataArrival id) s = .next ((s.fillEntry r.sid id data .none).dropReq id)))) ∧
  (∀ (x : Stream) (id : Nat) (f : QEntry → QEntry), (x.withEntry id f).q = x.q.map fun q => (q.1, q.2.map fun e => if e.req = id then f e else e)) ∧
  (∀ (s : State) (id q dst : Nat) (vec : Bool) (r : Req), s.reqOf id = some r → r.wait = .atomic q vec dst → r.ready = true →
    (∀ p ∈ s.sys.reqs, ∀ at_, p.wait ≠ .part id at_) → exec (.queueDataArrival id) s =
      .next ((s.fillEntry r.sid id (BitVec.ofNat 1024 (natOfBytes (Memory.readBytes r.data 0 (if vec then 32 else 4)))) .none).dropReq id)) ∧
  (∀ (s : State) (k line : Nat), exec (.lineEviction k line false) s = .next ((s.l1Back k line).l1Drop k line) ∧
    exec (.lineEviction k line true) s = .next ((s.l2Back k line).l2Drop k line)) ∧
  (∀ (s : State) (k line j : Nat), j < 128 → SMap.get none (128 * line + j) ((s.l1Drop k line).coreOf k).l1 = none ∧
    SMap.get none (l2Key k (128 * line + j)) ((s.l2Drop k line).dieOf (rankOfCore k)).l2 = none) ∧
  (∀ (s : State) (k : Nat), ((∃ u, u < 9 ∧ (s.strmOf (sidOf k u)).run.active = true) → exec (.coreGate k) s = .next s) ∧
    ((∀ u, u < 9 → (s.strmOf (sidOf k u)).run.active = false) → exec (.coreGate k) s = .next (s.modCore k fun c => { c with gated := true }))) ∧
  (∀ (s : State) (k n : Nat) (v : Word),
    ((s.coreOf k).gated = false → exec (.coreUngate k) s = .next (s.modCore k id)) ∧
    ((s.coreOf k).gated = true → (s.coreOf k).latches = [(n, v)] → ∃ t : State, exec (.coreUngate k) s = .next t ∧ (t.coreOf k).gated = false ∧
      (t.coreOf k).latches = [] ∧ SMap.get 0 n (t.coreOf k).notify = SMap.get 0 n (s.coreOf k).notify ||| v ∧
      (∀ j, j ≠ n → SMap.get 0 j (t.coreOf k).notify = SMap.get 0 j (s.coreOf k).notify)))

/-- R238, R388 to R393, R520: a corrected error is recorded and counted; an uncorrectable one is recorded and its data poisoned, or what it struck is
purged or ended, and a line of the line store is fetched again with nothing else visible; buckets lose 1 in every 2^LEAK die cycles; a map takes its spare while its unit has no task. -/
def Claims.ErrorEvents : Prop :=
  (∀ (s : State) (f : FaultSite), exec (.eccCorrected f) s = .next ((s.eccRecord 0x10 1 f).siteBucket f)) ∧
  (∀ (s : State) (a : Nat), ∃ t : State, exec (.eccUncorrectable (.hbmWord a)) s = .next t ∧ SMap.get false (a / 4) t.sys.hbmPoison = true ∧
    (∀ w, w ≠ a / 4 → SMap.get false w t.sys.hbmPoison = SMap.get false w (s.eccRecord 0x11 2 (.hbmWord a)).sys.hbmPoison)) ∧
  (∀ (s : State) (k a : Nat), ∃ t : State, exec (.eccUncorrectable (.poolWord k a)) s = .next t ∧ SMap.get false (a / 4) (t.coreOf k).poison = true ∧
    (t.coreOf k).loc = (s.coreOf k).loc) ∧
  (∀ (s : State) (k l : Nat), exec (.eccUncorrectable (.l1Line k l)) s = .next ((s.eccRecord 0x11 2 (.l1Line k l)).lineError k l false) ∧
    exec (.eccUncorrectable (.l2Line k l)) s = .next ((s.eccRecord 0x11 2 (.l2Line k l)).lineError k l true) ∧
    exec (.eccUncorrectable (.lineStore k l)) s = .next (s.refetchLine k l)) ∧
  (∀ (s : State) (k n : Nat) (e : KEntry), (s.coreOf k).entry n = some e →
    exec (.eccUncorrectable (.kilnEntry k n true)) s = .next ((s.eccRecord 0x11 2 (.kilnEntry k n true)).purge (s.coreOf k).launch e.tag 26 (rankOfCore k)) ∧
    exec (.eccUncorrectable (.kilnEntry k n false)) s = .next ((s.eccRecord 0x11 2 (.kilnEntry k n false)).purge (s.coreOf k).launch 0 26 (rankOfCore k))) ∧
  (∀ (s : State) (k n : Nat), exec (.eccUncorrectable (.cone k n)) s = .next ((s.eccRecord 0x11 2 (.cone k n)).purge (s.coreOf k).launch 0 26
    (rankOfCore k))) ∧
  (∀ (s : State) (die key : Nat) (v : BitVec 16), (s.dieOf die).buckets = [(key, v)] → v ≠ 0 → s.cores = [] → s.core.buckets = [] →
    s.sys.dc % 2 ^ (s.dieOf die).leakOf (key / 65536) = 0 → ∃ t : State, exec (.bucketLeak die) s = .next t ∧
      SMap.get 0 key (t.dieOf die).buckets = v - 1 ∧ t.core = s.core ∧ t.sys.hbm = s.sys.hbm) ∧
  (∀ (s : State) (k i n : Nat), 128 ≤ i ∨ (s.coreOf k).unitBusy [5] = true ∨ (s.coreOf k).rowOff ≠ none →
    exec (.spareSubstitution k .row i n) s = .next s) ∧
  (∀ (s : State) (k i n : Nat), i < 128 → (s.coreOf k).unitBusy [5] = false → (s.coreOf k).rowOff = none → ∃ t : State,
    exec (.spareSubstitution k .row i n) s = .next t ∧ (t.coreOf k).rowOff = some i ∧ (t.coreOf k).loc = (s.coreOf k).loc ∧
    (t.pkgOf (pkgOfCore k)).repairs = (s.pkgOf (pkgOfCore k)).repairs ++ leBytes 1 1 ++ leBytes 2 (coreInPkg k) ++ leBytes 2 i ++ leBytes 2 n) ∧
  (∀ (s : State) (k u i n : Nat), u < 4 → i < 32 → n = 32 ∨ n = 33 → (s.coreOf k).unitBusy [u] = false →
    (∀ x ∈ (s.coreOf k).laneMap, x.1 / 64 = u → x.2 ≠ some n) → ∃ t : State, exec (.spareSubstitution k (.lane u) i n) s = .next t ∧
      SMap.get none (u * 64 + i) (t.coreOf k).laneMap = some n ∧ (t.coreOf k).loc = (s.coreOf k).loc)

/-- R515 to R523: the boot of a package reaches service level 4, or the level before the step that failed, which MBST tells; images in flash
that are below their minimum SVN fail it (R517); its third step
applies the harvest map of the manifest, in the places where the model puts it (the model's choice, log 106); a package's loss of
power loses everything outside its flash. ATTEST uses the next leaf and answers a report, NOLEAVES or BADREQ; BOOTREPORT and LEAVES answer what
they name. The clock step falls and rises by 1 within 1 and the ceiling, after 20 samples above 1875 A or 100 at or below 1500 A; a
limit of temperature or power lowers the ceiling. -/
def Obligations.PowerEvents : Prop :=
  (∀ (s : State) (pkg reason : Nat), pkg < 256 → (s.pkgOf pkg).svnFail = none → (∀ step, 1 ≤ step → step ≤ 6 → ∃ t : State, exec (.packageReset pkg step reason) s = .next t ∧
      (t.pkgOf pkg).svcl = (if step ≤ 4 then 1 else if step = 5 then 2 else 3) ∧
      (t.pkgOf pkg).mbst = (t.pkgOf pkg).svcl * 2 ^ 16 + step * 2 ^ 20 + reason % 16 * 2 ^ 24 ∧
      (t.pkgOf pkg).serial = (if 3 < step ∧ (s.pkgOf pkg).manifest ≠ [] then natOfBytes ((s.pkgOf pkg).manifest.take 3) else (s.pkgOf pkg).serial) ∧
      (3 < step → (s.pkgOf pkg).manifest ≠ [] → (t.pkgOf pkg).working = natOfBytes (((s.pkgOf pkg).manifest.drop 3).take 32)) ∧
      (t.pkgOf pkg).leafIdx = (s.pkgOf pkg).leafIdx ∧ (t.pkgOf pkg).regions = [] ∧ (t.pkgOf pkg).vdevs = []) ∧
    (∃ t : State, exec (.packageReset pkg 0 reason) s = .next t ∧ (t.pkgOf pkg).svcl = 4 ∧ (t.pkgOf pkg).mbst = 4 * 2 ^ 16)) ∧
  (∀ (s : State) (pkg step reason n r : Nat), pkg < 256 → (s.pkgOf pkg).svnFail = some (n, r) → step = 0 ∨ n < step → step ≤ 6 → ∃ t : State,
    exec (.packageReset pkg step reason) s = .next t ∧ (t.pkgOf pkg).svcl = (if n ≤ 4 then 1 else if n = 5 then 2 else 3) ∧
      (t.pkgOf pkg).bootStep = n ∧ (t.pkgOf pkg).bootReason = r) ∧
  (∀ p : Pkg, (∃ x ∈ p.images, x.1 = 1) → (∀ x ∈ p.images, x.1 = 1 → x.2.1 < SMap.get 0 1 p.minSvn) → p.svnFail = some (2, 3)) ∧
  (∀ (s : State) (pkg i : Nat), pkg < 256 → i < 4 → ∃ t : State, exec (.powerLoss pkg) s = .next t ∧ (t.dieOf (4 * pkg + i)).powered = false ∧
    (t.pkgOf pkg).leafIdx = (s.pkgOf pkg).leafIdx ∧ (t.pkgOf pkg).svcl = 1) ∧
  (∀ (s : State) (pkg : Nat) (req : List Byte),
    let p := s.pkgOf pkg
    (req.length ≠ 32 → exec (.attest pkg req) s = .next (s.putPkg pkg (p.mailDone 4 []))) ∧
    (req.length = 32 → 2 ^ 20 ≤ p.leafIdx → exec (.attest pkg req) s = .next (s.putPkg pkg (p.mailDone 3 []))) ∧
    (req.length = 32 → p.leafIdx < 2 ^ 20 → ∃ t : State, exec (.attest pkg req) s = .next t ∧ (t.pkgOf pkg).leafIdx = p.leafIdx + 1 ∧
      (t.pkgOf pkg).mbrsp.take (p.report req).length = p.report req ∧ (t.pkgOf pkg).mbrlen = (p.report req).length + 96 + 1772 ∧
      (t.pkgOf pkg).mbst / 2 % 2 = 1 ∧ (t.pkgOf pkg).mbst / 256 % 256 = 0)) ∧
  (∀ (s : State) (pkg : Nat),
    exec (.bootreport pkg) s = .next (s.modPkg pkg fun p => p.mailDone 0 (leBytes 4 p.bootMbst ++ p.images.flatMap fun i =>
      leBytes 4 i.2.1 ++ leBytes 4 i.2.2.1)) ∧
    exec (.leaves pkg) s = .next (s.modPkg pkg fun p => p.mailDone 0 (leBytes 4 (2 ^ 20 - p.leafIdx)))) ∧
  (∀ (s : State) (die ma c n : Nat), exec (.railSample die ma) s = .next (s.modDie die fun d => d.sample ma) ∧
    (c ≤ 105 → exec (.thermalLimit die c) s = .next s) ∧
    (105 < c → c < 115 → exec (.thermalLimit die c) s = .next (s.modDie die fun d => d.withCeiling (max 1 (d.ceiling - 1)))) ∧
    (115 ≤ c → ∀ i, i < 4 → ∃ t : State, exec (.thermalLimit die c) s = .next t ∧ (t.dieOf (4 * (die / 4) + i)).powered = false) ∧
    ∃ t : State, exec (.powerCeilingUpdate die n) s = .next t ∧ (t.dieOf die).ceiling = (let old := (s.dieOf die).ceiling
      let new := max 1 (min 16 n)
      if old < new then old + 1 else if new < old then old - 1 else new) ∧ (t.dieOf die).step ≤ (t.dieOf die).ceiling) ∧
  (∀ (d : Die) (ma : Nat),
    (d.hot = 20 → 1500000 < ma → (d.sample ma).step = max 1 (d.step - 1)) ∧
    (d.hot < 20 → 1500000 < ma → (d.sample ma).step = d.step) ∧
    (1875000 < ma → (d.sample ma).calm = 0 ∧ (d.sample ma).hot = min 21 (d.hot + 1)) ∧
    (ma ≤ 1875000 → (d.sample ma).hot = 0) ∧
    (d.hot < 20 → ma ≤ 1500000 → d.calm + 1 < 100 → (d.sample ma).step = d.step ∧ (d.sample ma).calm = d.calm + 1) ∧
    (d.hot < 20 → ma ≤ 1500000 → 99 ≤ d.calm → (d.sample ma).step = max d.step (min (min 16 d.ceiling) (d.step + 1)) ∧ (d.sample ma).calm = 0))

/-! ## The whole machine: encoding, fetching, guards, marks and the forms of data -/

/-- R63, R64, R68 to R73: an instruction that is well formed and has an encoding is what the decoder reads from its bytes, with every
operand at every value that the encoding admits, and it takes exactly its bytes. -/
def Obligations.RoundTrip : Prop :=
  ∀ (i : Instr) (rest : List Byte), i.wf = true → i.syl.isSome = true → decode (encodeBytes i ++ rest) = .ok (i, rest)

/-- R63, R68, R75: the decoder accepts no bytes but the encoding of the well-formed instruction that it answers: no bit is ignored, and no two
byte strings are the same instruction. -/
def Obligations.DecodeExact : Prop :=
  ∀ (bs rest : List Byte) (i : Instr), decode bs = .ok (i, rest) → i.wf = true ∧ encodeBytes i ++ rest = bs

/-- The syllables that the spec writes out in its examples, with one reserved word: what they decode to (04 R126, 23 R499, R501, 18 R425). -/
def Obligations.DecodeWords : Prop :=
  decodeTableWord 48 0x000505060700 = some (.div ⟨0, 0, 0, 0⟩ ⟨5, 6, .reg 7, false⟩) ∧
  decodeTableWord 48 0x000FC102012C = some (.min ⟨0, 0, 0, 0⟩ ⟨1, 2, .imm 300, true⟩) ∧
  decodeTableWord 96 0x0000FFFFFFFB101E02030002 = some (.cmp ⟨0, 0, 0, 0⟩ ⟨2, 3, .imm 0xFFFFFFFB, .ltS⟩) ∧
  decodeTableWord 48 0x002B08090A09 = some (.fma ⟨0, 0, 0, 0⟩ ⟨8, 9, 10, .rtz⟩) ∧
  decodeTableWord 48 0x204461150004 = some (.ld ⟨0, 1, 0, 0⟩ ⟨33, 2, 1, true, true, .field16 4⟩) ∧
  decodeTableWord 48 0x203D01280300 = some (.loop ⟨0, 1, 0, 0⟩ ⟨1, 40, 3⟩) ∧
  decodeTableWord 48 0x003870000024 = some (.pbr ⟨0, 0, 0, 0⟩ ⟨3, 2, 4, true⟩) ∧
  decodeTableWord 48 0x00DC00000008 = some (.fshare ⟨0, 0, 0, 0⟩ ⟨8⟩) ∧
  decodeTableWord 48 0x20DD00040001 = some (.fwswap ⟨0, 1, 0, 0⟩ ⟨1, 4⟩) ∧
  decodeTableWord 48 0x20E228050002 = some (.frzArm ⟨0, 1, 0, 0⟩ ⟨2, 40, 5⟩) ∧
  decodeTableWord 48 0x20E228002001 = some (.frz ⟨0, 1, 0, 0⟩ ⟨1, 40⟩) ∧
  decodeTableWord 48 0x002600000000 = some (.unassignedOpcode 0x002600000000)

/-- R456, R476, R499, R500, R170, R225: the values that the spec gives registers at reset. -/
def Obligations.ResetState : Prop :=
  let s := State.reset
  (∀ r, (s.dieOf r).ftmo = BitVec.ofNat 32 (3 * 2 ^ 28 + 20) ∧ (s.dieOf r).fwstby = 0 ∧ (s.dieOf r).fwsent = 0 ∧
    (s.dieOf r).fwwd = 0x1000000001000000 ∧ (∀ c, SMap.get 0 c (s.dieOf r).fwsst = 0)) ∧
  (∀ p v, (s.pkgOf p).svcl = 1 ∧ (s.vdevOf p v).wbase = 0 ∧ (s.vdevOf p v).cqbase = 0 ∧ (s.vdevOf p v).cqctl = 0 ∧
    (s.vdevOf p v).cqhead = 0 ∧ (s.vdevOf p v).cqtail = 0 ∧ (s.vdevOf p v).ndrop = 0 ∧
    ∀ q, ((s.vdevOf p v).ring q).rseq = 0 ∧ ((s.vdevOf p v).ring q).rcons = 0 ∧ ((s.vdevOf p v).ring q).rto = 24) ∧
  (∀ k, (s.coreOf k).fshare = 4 ∧ (s.strmOf (sidOf k 8)).yctl = 0x8000)

/-- R15, R22, R58, R64: an instruction is read from the bytes of its slot; a step with an empty agenda gives the issuing stream an issue cycle, in
which its results land and the instruction at its position, where flow stands at a legal bundle of one, is executed, and the die cycle
ends, where the streams that the banks serve before it have had their turns (R231); of a bundle of two neither of which stops, slot A's is executed and then slot B's. A vector stream then goes on to the next
bundle, its divide units have taken the bundle (R18), and its issue cycle is counted. -/
def Obligations.StepRunsDecoded : Prop :=
  (∀ (m : Memory) (line slot : Nat) (i : Instr) (rest : List Byte),
    (slot < 9 → decode (Memory.readBytes m (64 * line + 4 + 6 * slot) 12) = .ok (i, rest) → fetchOne m line slot = (i, slot + 2 - rest.length / 6)) ∧
    (decode (Memory.readBytes m (64 * line + 4 + 6 * 9) 6) = .ok (i, rest) → fetchOne m line 9 = (i, 10))) ∧
  (∀ (s s1 : State) (p : Pos) (a : Instr) (nxt : Nat),
    let c := s.coreOf (coreOfSid s.sid)
    s.agenda = [] → s.turnOpen s.sid = true → s.coreLive (coreOfSid s.sid) = true → c.gated = false → unitOfSid s.sid < 4 → s.strm.run = .running → s.strm.stall = 0 →
    s.strm.acAt ≠ some c.ac →
    exec .resultLanding (((s.setStrm fun x => { x with acAt := some c.ac }).ptwDone s.sid).setStrm fun x => { x with latch := Latch.clear }) =
      .next s1 →
    s1.strm.latch.trapped = false → s1.strm.latch.wait = false → s1.strm.fresh = true → s1.strm.hold = 0 → s1.strm.run = .running →
    s1.strm.unit < 4 → s1.strm.cls.single = false → s1.strm.trapDue = none →
    let m := (s1.core.codeFor s1.strm.cls).1
    let len := (s1.core.codeFor s1.strm.cls).2
    let t := s1.setStrm fun x => { x with pos := p }
    let close := fun (b : Option Instr) (u : State) => closeBundle s.strm.latch.wait t t p a b nxt (u.servedFrom t a b)
    settle m len s1.strm.cls (len + 1) s1.strm.pos = .stands p →
    (fetchBundle m s1.strm.cls.single p.line p.slot = (a, none, nxt) →
      illegalIn s1.strm.cls s1.core.pool m p.line p.slot a none (fetchOne m p.line p.slot).2 = none → t.strm.divBusy a none = false →
      step s = andThen (andThen (exec a t) (close none)) tick) ∧
    (∀ (b : Instr) (sa sb : State), fetchBundle m s1.strm.cls.single p.line p.slot = (a, some b, nxt) →
      illegalIn s1.strm.cls s1.core.pool m p.line p.slot a (some b) (fetchOne m p.line p.slot).2 = none → t.strm.divBusy a (some b) = false →
      exec b t = .next sb → sb.halted = false →
      exec a (t.setLatch fun l => { l with b2 := false }) = .next sa → sa.halted = false →
      step s = andThen (andThen (exec b (sa.setLatch fun l => { l with b2 := false })) (close (some b))) tick)) ∧
  (∀ (s1 s2 t : State) (p : Pos) (a : Instr) (b : Option Instr) (nxt : Nat), t.strm.cls = .vector → t.strm.run = .running → t.strm.latch.trapped = false → t.strm.latch.wait = false →
    t.strm.latch.cycleWait = false → t.strm.latch.taken = none → t.strm.latch.ended = false → t.strm.latch.stopAfter = false →
    t.strm.latch.trapAfter = none → t.strm.inFlight ≤ 32 →
    (t.strm.handler = true ∨ ∀ n, n < 3 → (t.rdLc n).active = false ∨ (t.rdLc n).last ≠ p) →
    closeBundle false s1 s2 p a b nxt t = .next { t with strm := { t.strm.takeDiv a b with
      pos := ⟨p.line, nxt⟩, hold := t.strm.latch.extra, latch := { Latch.clear with issued := true }, fresh := false
      icnt := t.strm.icnt + 1 } })

/-- R66: where p(GP) XOR GN is 0 an instruction leaves the state as it is, whatever it is, where no physical error strikes the copies that read the guard (R399). The guard is read when the bundle issues, and a
bundle of one guarded-off instruction takes its issue cycle: a vector stream goes on to the next bundle (its divide unit counts as
used, log 26). The decode checks of a bundle do not read the guard: a bundle that fails one raises ILLEGAL_OP whatever the predicates
hold. The header with GN = 1 and GP = 0 is illegal. -/
def Obligations.GuardOff : Prop :=
  (∀ (i : Instr) (y : Syl) (s : State), i.syl = some y → s.strm.upsets = [] → s.rdP y.h.gp = decide (y.h.gneg = 1) → exec i s = .next s) ∧
  (∀ (s1 s : State) (p : Pos) (i : Instr) (y : Syl) (nxt : Nat), i.syl = some y → s.rdP y.h.gp = decide (y.h.gneg = 1) →
    s.strm.cls = .vector → s.strm.run = .running → s.strm.upsets = [] → s.strm.latch = Latch.clear → s.strm.inFlight ≤ 32 → s.strm.divBusy i none = false →
    (s.strm.handler = true ∨ ∀ n, n < 3 → (s.rdLc n).active = false ∨ (s.rdLc n).last ≠ p) →
    issueBundle false s1 s p i none nxt = .next (s.setStrm fun x => { x.takeDiv i none with
      pos := ⟨p.line, nxt⟩, hold := 0, fresh := false, icnt := s.strm.icnt + 1, latch := { Latch.clear with issued := true } })) ∧
  (∀ (was : Bool) (s1 s : State) (p : Pos) (a : Instr) (b : Option Instr) (nxt w : Nat),
    let m := (s.core.codeFor s.strm.cls).1
    let len := (s.core.codeFor s.strm.cls).2
    settle m len s.strm.cls (len + 1) s.strm.pos = .stands p → fetchBundle m s.strm.cls.single p.line p.slot = (a, b, nxt) →
    illegalIn s.strm.cls s.core.pool m p.line p.slot a b (fetchOne m p.line p.slot).2 = some w →
    issueCycle was s1 s = exec (.unassignedOpcode w) (s.setStrm fun x => { x with pos := p })) ∧
  (∀ (w : Nat) (x : Option Nat), w / 2 ^ 43 % 2 = 1 → w / 2 ^ 40 % 8 = 0 → decodeSyl w x = .error .header)

/-- R376: an instruction that reads a marked g register raises the mark's cause with D = 1, and POISON_USE (25) for poison; CHK, MOV and MOVX read
no g register so. The first marked operand is the one that is raised. -/
def Obligations.MarkedOperands : Prop :=
  (∀ (i : Instr) (y : Syl) (s : State), i.syl = some y → s.strm.upsets = [] → s.guardOn y.h = true →
    let first := ((markReads i.regs).map s.markG).find? (· != .none)
    (∀ c v, first = some (.deferred c v) → exec i s = .next (s.takeTrap c v true y.h.slot y.h.prot false)) ∧
    (first = some .poison → exec i s = .next (s.takeTrap 25 0 false y.h.slot y.h.prot false))) ∧
  (∀ (h : Hdr) (d a n : Nat) (o : MovxArgs) (c : ChkArgs), markReads (Instr.regs (.add h ⟨d, a, .reg n⟩)) = [a, n] ∧
    markReads (Instr.regs (.mov h (.fromG d a))) = [] ∧ markReads (Instr.regs (.movx h o)) = [] ∧ markReads (Instr.regs (.chk h c)) = [])

/-- The memories of the model have one form: a canonical memory is determined by the bytes that it reads as, local stores and far stores keep
local memory and HBM canonical, and they are so at reset. This is a form of the model's data (log 3). -/
def Obligations.MemoryForm : Prop :=
  (∀ m n : Memory, Memory.wf m = true → Memory.wf n = true → (∀ a, Memory.read m a = Memory.read n a) → m = n) ∧
  (Memory.wf State.reset.core.loc = true ∧ Memory.wf State.reset.sys.hbm = true ∧ Memory.wf State.reset.sys.host = true) ∧
  (∀ (h : Hdr) (o : StArgs) (s t : State), s.Clear h o.regs → Claims.Writable s (Claims.ea s o.a o.m o.off) (2 ^ o.sz) →
    exec (.st h o) s = .next t → Memory.wf s.core.loc = true → Memory.wf t.core.loc = true) ∧
  (∀ (h : Hdr) (o : StaArgs) (s t : State), s.Clear h o.regs → Claims.Writable s (Claims.ea s o.a o.m o.off) 8 →
    exec (.sta h o) s = .next t → Memory.wf s.core.loc = true → Memory.wf t.core.loc = true) ∧
  (∀ (h : Hdr) (o : VstArgs) (s t : State), s.Clear h o.regs → Claims.Writable s (Claims.ea s o.a o.m o.off) 128 →
    exec (.vst h o) s = .next t → Memory.wf s.core.loc = true → Memory.wf t.core.loc = true) ∧
  (∀ (s : State) (x : FarCtx) (va : Nat) (p : FarHit) (bs : List Byte), Memory.wf s.sys.hbm = true →
    Memory.wf (s.farWrite x va p bs).sys.hbm = true)

/-- R39, R42, R32: rounding of an exact value to a format, where it does not overflow: under RNE and RNA no finite value of the format is nearer, a
tie goes to the even encoding under RNE and to the larger magnitude under RNA; under RTZ, RDN and RUP the result is the nearest value
not beyond the exact one in the mode's direction; NX tells whether it is inexact. Values are compared as integers on a common exponent. -/
def Obligations.Rounding : Prop :=
  ∀ f ∈ [fmtF32, fmtBf16, fmtF16, fmtE4m3, fmtE5m2], ∀ (rm : Nat) (neg : Bool) (m : Nat) (e : Int), rm < 5 →
    let r := f.round rm false (.fin neg m e)
    r.flags.testBit 6 = false → ∃ (k : Nat) (q : Int), f.decode r.bits = .fin neg k q ∧
      ∀ (c j : Nat) (u b : Int), c < 2 ^ f.width → f.decode c = .fin neg j u → b ≤ e → b ≤ q → b ≤ u →
        let x : Int := scaled m e b
        let v : Int := scaled k q b
        let w : Int := scaled j u b
        r.flags.testBit 8 = decide (v ≠ x) ∧
        (rm = 0 ∨ rm = 4 → (v - x).natAbs ≤ (w - x).natAbs) ∧
        (rm = 0 → (v - x).natAbs = (w - x).natAbs → v ≠ w → r.bits % 2 = 0) ∧
        (rm = 4 → (v - x).natAbs = (w - x).natAbs → v ≠ w → w < v) ∧
        (rm = 1 ∨ (rm = 2 ∧ neg = false) ∨ (rm = 3 ∧ neg = true) → v ≤ x ∧ (w ≤ x → w ≤ v)) ∧
        ((rm = 2 ∧ neg = true) ∨ (rm = 3 ∧ neg = false) → x ≤ v ∧ (x ≤ w → v ≤ w))

/-! ## Claims joined into one statement -/

/-- Two claims together: the binary, unary and bit-field integer operations of the scalar unit (R86, R88, R90). Their docstrings say which rules each follows. -/
def Obligations.ScalarIntegerResults : Prop := Claims.ScalarBinaryResults ∧ Claims.ScalarUnaryResults

/-- Two claims together: NOP, selection, moves and the predicate instructions (R67, R91 to R97). Their docstrings say which rules each follows. -/
def Obligations.ScalarMovesAndPredicates : Prop := Claims.ScalarMoves ∧ Claims.PredicateResults

/-- Two claims together: the integer element operations, comparisons, VSEL and the mask instructions (R136 to R139, R145, R161). Their docstrings say which rules each follows. -/
def Obligations.VectorIntegerAndMaskResults : Prop := Claims.VectorIntegerResults ∧ Claims.VectorMaskResults

/-- Two claims together: lane moves, reductions, scans and sorting (R152 to R158). Their docstrings say which rules each follows. -/
def Obligations.VectorLaneResults : Prop := Claims.VectorLaneMoves ∧ Claims.VectorReductions

/-- Two claims together: floating-point element operations, conversions, block formats and dot products (R140 to R151, R159, R160). Their docstrings say which rules each follows. -/
def Obligations.VectorFloatAndConversionResults : Prop := Claims.VectorFloatResults ∧ Claims.VectorConversionResults

/-- Two claims together: branches, hardware loops and END (R111 to R123). Their docstrings say which rules each follows. -/
def Obligations.BranchAndLoopInstructions : Prop := Claims.BranchInstructions ∧ Claims.LoopInstructions

/-- Two claims together: where a stream goes on after a bundle (R110, R119, R120). Their docstrings say which rules each follows. -/
def Obligations.ProgramOrder : Prop := Claims.NextPosition ∧ Claims.LoopBack

/-- Two claims together: local loads, and the faults of local accesses (R124 to R126, R229). Their docstrings say which rules each follows. -/
def Obligations.ScalarLocalLoads : Prop := Claims.LocalLoads ∧ Claims.LocalFaults

/-- Two claims together: vector loads and stores (R162 to R164). Their docstrings say which rules each follows. -/
def Obligations.VectorLocalAccesses : Prop := Claims.VectorLoads ∧ Claims.VectorStores

/-- Two claims together: the queue instructions and QST (R287 to R291). Their docstrings say which rules each follows. -/
def Obligations.Queues : Prop := Claims.QueueInstructions ∧ Claims.QueueToRing

/-- Two claims together: queue loads and the bytes that they hold (R292, R293, R255). Their docstrings say which rules each follows. -/
def Obligations.FarLoads : Prop := Claims.QueueLoads ∧ Claims.QueueLoadData

/-- Two claims together: far stores and the bytes that they change (R294, R236). Their docstrings say which rules each follows. -/
def Obligations.FarStoresAndBytes : Prop := Claims.FarStores ∧ Claims.FarStoreBytes

/-- Two claims together: prefetch, cache write-back and invalidation, FENCE and the ownership events (R295, R301 to R303). Their docstrings say which rules each follows. -/
def Obligations.CachesAndOwnership : Prop := Claims.CacheAndFence ∧ Claims.OwnershipEvents

/-- Two claims together: atomics and what they leave in a word (R265, R266, R296 to R300). Their docstrings say which rules each follows. -/
def Obligations.Atomics : Prop := Claims.AtomicInstructions ∧ Claims.AtomicWords

/-- Two claims together: FDEF, FREL and RINIT (R207 to R211). Their docstrings say which rules each follows. -/
def Obligations.FramesAndRings : Prop := Claims.FrameInstructions ∧ Claims.RingInstruction

/-- Two claims together: POST, POSTX and CSIG.R (R212 to R215, R219). Their docstrings say which rules each follows. -/
def Obligations.Posts : Prop := Claims.PostInstruction ∧ Claims.RemotePosts

/-- Two claims together: cones, tags, window queries, SETTAG, KMODE and YIELD (R217 to R220, R222, R223, R226). Their docstrings say which rules each follows. -/
def Obligations.ConesTagsAndModes : Prop := Claims.ConesAndTags ∧ Claims.WindowQueriesAndModes

/-- Two claims together: system faults and the failure of a firmware context (R364, R368, R369). Their docstrings say which rules each follows. -/
def Obligations.FirmwareDelivery : Prop := Claims.SystemFaultEntry ∧ Claims.FirmwareFailure

/-- Two claims together: TRAP and the returns (R372, R373). Their docstrings say which rules each follows. -/
def Obligations.TrapsAndReturns : Prop := Claims.TrapAndReturn ∧ Claims.FirmwareReturns

/-- Two claims together: the FRZ instructions (R424 to R427, R438). Their docstrings say which rules each follows. -/
def Obligations.FreezeCommands : Prop := Claims.FreezeArming ∧ Claims.FreezeInstructions

/-- Two claims together: the tile and ring instructions of the matrix engine (R335 to R341). Their docstrings say which rules each follows. -/
def Obligations.Tiles : Prop := Claims.TileInstructions ∧ Claims.TileTransfers

/-- Two claims together: the release and retirement of tasks and KILN_DEADLOCK (R176, R177, R184, R185, R188 to R191). Their docstrings say which rules each follows. -/
def Obligations.Tasks : Prop := Claims.TaskRelease ∧ Claims.TaskRetirement

/-- Two claims together: links, and the arrival of messages (R446 to R455). Their docstrings say which rules each follows. -/
def Obligations.LinksAndMessages : Prop := Claims.LinkEvents ∧ Claims.MessageArrivals

/-- Two claims together: queue data, evictions, gating, errors and spares (R235 to R238, R287, R388 to R393). Their docstrings say which rules each follows. -/
def Obligations.MemoryAndErrorEvents : Prop := Claims.MemoryEvents ∧ Claims.ErrorEvents

/-- Two claims together: reliable delivery, spare packages and stripes (R455 to R458, R466 to R473). Their docstrings say which rules each follows. -/
def Obligations.DeliveryAndSpares : Prop := Claims.ReliableDelivery ∧ Claims.SparesAndStripes

/-- Two claims together: host accesses and the registers of a virtual device (R244, R475 to R479, R496, R497). Their docstrings say which rules each follows. -/
def Obligations.HostLink : Prop := Claims.HostAccesses ∧ Claims.HostRegisters
end

