-- ==== Sys2Proof/Laws/Codec.lean ====
section
/-! SUPPORT. Decoding an operand record's own words gives the record back, and the words fit their fields. -/

set_option linter.unnecessarySeqFocus false

namespace Sys2Proof

-- One list of simp lemmas serves every form of a record, so some forms leave a few unused.
set_option linter.unusedSimpArgs false
set_option linter.unreachableTactic false
set_option linter.unusedTactic false

theorem accept_self {α : Type} {o : α} {ok : Bool} {enc : Nat × Option Nat} (h : ok = true) : accept o ok enc enc.1 enc.2 = .ok o := by
  simp [accept, h]
theorem beq_of {n : Nat} {z : Bool} (h : n = z.toNat) : (n == 1) = z := by subst h; cases z <;> rfl
theorem bit_of {w i : Nat} {z : Bool} (h : w / 2 ^ i % 2 = z.toNat) : bit w i = z := by
  simp only [bit, h]; cases z <;> rfl
theorem operand_some {α β : Type} (c : α) (k : α → Except DecodeErr β) : operand (some c) k = k c := rfl

theorem IntCond.ofCode_code (c : IntCond) : IntCond.ofCode c.code = some c := by cases c <;> rfl
theorem IntCond.code_lt (c : IntCond) : c.code < 10 := by cases c <;> decide
theorem FpCond.ofCode_code (c : FpCond) : FpCond.ofCode c.code = some c := by cases c <;> rfl
theorem FpCond.code_lt (c : FpCond) : c.code < 8 := by cases c <;> decide
theorem LogicFn.ofCode_code (c : LogicFn) : LogicFn.ofCode c.code = some c := by cases c <;> rfl
theorem LogicFn.code_lt (c : LogicFn) : c.code < 8 := by cases c <;> decide
theorem AddrCond.ofCode_code (c : AddrCond) : AddrCond.ofCode c.code = some c := by cases c <;> rfl
theorem AddrCond.code_lt (c : AddrCond) : c.code < 4 := by cases c <;> decide
theorem SignFn.ofCode_code (c : SignFn) : SignFn.ofCode c.code = some c := by cases c <;> rfl
theorem SignFn.code_lt (c : SignFn) : c.code < 3 := by cases c <;> decide
theorem VWidth.ofCode_code (c : VWidth) : VWidth.ofCode c.code = some c := by cases c <;> rfl
theorem VWidth.code_lt (c : VWidth) : c.code < 3 := by cases c <;> decide
theorem VFloat.ofCode_code (c : VFloat) : VFloat.ofCode c.code = some c := by cases c <;> rfl
theorem VFloat.code_lt (c : VFloat) : c.code < 3 := by cases c <;> decide
theorem RedOp.ofCode_code (c : RedOp) : RedOp.ofCode c.code = some c := by cases c <;> rfl
theorem RedOp.code_lt (c : RedOp) : c.code < 3 := by cases c <;> decide
theorem RedTy.ofCode_code (c : RedTy) : RedTy.ofCode c.code = some c := by cases c <;> rfl
theorem RedTy.code_lt (c : RedTy) : c.code < 3 := by cases c <;> decide
theorem DotTy.ofCode_code (c : DotTy) : DotTy.ofCode c.code = some c := by cases c <;> rfl
theorem DotTy.code_lt (c : DotTy) : c.code < 8 := by cases c <;> decide
theorem QFmt.ofCode_code (c : QFmt) : QFmt.ofCode c.code = some c := by cases c <;> rfl
theorem QFmt.code_lt (c : QFmt) : c.code < 4 := by cases c <;> decide
theorem Scope.ofCode_code (c : Scope) : Scope.ofCode c.code = some c := by cases c <;> rfl
theorem Scope.code_lt (c : Scope) : c.code < 6 := by cases c <;> decide
theorem MemOrder.ofCode_code (c : MemOrder) : MemOrder.ofCode c.code = some c := by cases c <;> rfl
theorem MemOrder.code_lt (c : MemOrder) : c.code < 4 := by cases c <;> decide
theorem AmoOp.ofCode_code (c : AmoOp) : AmoOp.ofCode c.code = some c := by cases c <;> rfl
theorem AmoOp.code_lt (c : AmoOp) : c.code < 8 := by cases c <;> decide
theorem VamoOp.ofCode_code (c : VamoOp) : VamoOp.ofCode c.code = some c := by cases c <;> rfl
theorem VamoOp.code_lt (c : VamoOp) : c.code < 8 := by cases c <;> decide
theorem EngClass.ofCode_code (c : EngClass) : EngClass.ofCode c.code = some c := by cases c <;> rfl
theorem EngClass.code_lt (c : EngClass) : c.code < 4 := by cases c <;> decide
theorem RoundMode.ofCode_code (c : RoundMode) : RoundMode.ofCode c.code = some c := by cases c <;> rfl
theorem RoundMode.code_lt (c : RoundMode) : c.code < 5 := by cases c <;> decide
theorem MFmt.ofCode_code (c : MFmt) : MFmt.ofCode c.code = some c := by cases c <;> rfl
theorem MFmt.code_lt (c : MFmt) : c.code < 9 := by cases c <;> decide
theorem XWidth.ofCode_code (c : XWidth) : XWidth.ofCode c.code = some c := by cases c <;> rfl
theorem XWidth.code_lt (c : XWidth) : c.code < 3 := by cases c <;> decide
theorem Layout.ofCode_code (c : Layout) : Layout.ofCode c.code = some c := by cases c <;> rfl
theorem Layout.code_lt (c : Layout) : c.code < 3 := by cases c <;> decide
theorem CredOp.ofCode_code (c : CredOp) : CredOp.ofCode c.code = some c := by cases c <;> rfl
theorem CredOp.code_lt (c : CredOp) : c.code < 4 := by cases c <;> decide
theorem RMode.ofCode_code (c : RMode) : RMode.ofCode c.code = some c := by cases c <;> rfl
theorem RMode.code_lt (c : RMode) : c.code < 12 := by cases c <;> decide
theorem NumFmt.ofCode_code (c : NumFmt) : NumFmt.ofCode c.code = some c := by cases c <;> rfl
theorem NumFmt.code_lt (c : NumFmt) : c.code < 16 := by cases c <;> decide
theorem StFmt.ofCode_code (c : StFmt) : StFmt.ofCode c.code = some c := by cases c <;> rfl
theorem StFmt.code_lt (c : StFmt) : c.code < 12 := by cases c <;> decide

theorem NumFmt.bits_ge (f : NumFmt) : 4 ≤ f.bits := by cases f <;> decide

theorem VcvtArgs.part_lt {o : VcvtArgs} (h : o.ok = true) : o.d < 256 ∧ o.a < 256 ∧ o.part < 8 := by
  simp only [VcvtArgs.ok, Bool.and_eq_true, decide_eq_true_eq] at h
  refine ⟨h.1.1.1, h.1.1.2, ?_⟩
  have m : 4 ≤ min o.dto.bits o.frm.bits := Nat.le_min.mpr ⟨NumFmt.bits_ge _, NumFmt.bits_ge _⟩
  have := Nat.mul_le_mul_left o.part m
  omega

theorem regs_lt {v : Bool} {d : Nat} (h : (if v = true then decide (d < 256) else decide (d < 64)) = true) : d < 256 := by
  cases v <;> simp at h <;> omega

theorem VWidth.pow_le (w : VWidth) : 2 ^ w.bits ≤ 2 ^ 32 := by cases w <;> decide
theorem VFloat.pow_le (f : VFloat) : 2 ^ f.bits ≤ 2 ^ 32 := by cases f <;> decide

/-! ## Decoding gives a record back -/

theorem PmovArgs.dec_enc {o : PmovArgs} (h : o.ok = true) : PmovArgs.dec o.enc.1 o.enc.2 = .ok o := by
  cases o with
  | pp p a =>
    have g := h
    simp only [PmovArgs.ok, Bool.and_eq_true, decide_eq_true_eq] at g
    have hm : (PmovArgs.pp p a).enc.1 % 4 = 0 := by simp only [PmovArgs.enc, f3]; omega
    have ep : fDst (PmovArgs.pp p a).enc.1 = p := by simp only [PmovArgs.enc, f3, fDst]; omega
    have ea : fSa (PmovArgs.pp p a).enc.1 = a := by simp only [PmovArgs.enc, f3, fSa]; omega
    simp only [PmovArgs.dec, hm, ep, ea]
    exact accept_self h
  | gAll d =>
    have g := h
    simp only [PmovArgs.ok, Bool.and_eq_true, decide_eq_true_eq] at g
    have hm : (PmovArgs.gAll d).enc.1 % 4 = 1 := by simp only [PmovArgs.enc, f3]; omega
    have ed : fDst (PmovArgs.gAll d).enc.1 = d := by simp only [PmovArgs.enc, f3, fDst]; omega
    simp only [PmovArgs.dec, hm, ed]
    exact accept_self h
  | allG a =>
    have g := h
    simp only [PmovArgs.ok, Bool.and_eq_true, decide_eq_true_eq] at g
    have hm : (PmovArgs.allG a).enc.1 % 4 = 2 := by simp only [PmovArgs.enc, f3]; omega
    have ea : fSa (PmovArgs.allG a).enc.1 = a := by simp only [PmovArgs.enc, f3, fSa]; omega
    simp only [PmovArgs.dec, hm, ea]
    exact accept_self h
  | pg p a =>
    have g := h
    simp only [PmovArgs.ok, Bool.and_eq_true, decide_eq_true_eq] at g
    have hm : (PmovArgs.pg p a).enc.1 % 4 = 3 := by simp only [PmovArgs.enc, f3]; omega
    have ep : fDst (PmovArgs.pg p a).enc.1 = p := by simp only [PmovArgs.enc, f3, fDst]; omega
    have ea : fSa (PmovArgs.pg p a).enc.1 = a := by simp only [PmovArgs.enc, f3, fSa]; omega
    simp only [PmovArgs.dec, hm, ep, ea]
    exact accept_self h

theorem AmovArgs.dec_enc {o : AmovArgs} (h : o.ok = true) : AmovArgs.dec o.enc.1 o.enc.2 = .ok o := by
  cases o with
  | fromA d a =>
    have g := h
    simp only [AmovArgs.ok, Bool.and_eq_true, decide_eq_true_eq] at g
    have hm : (AmovArgs.fromA d a).enc.1 % 4 = 0 := by simp only [AmovArgs.enc, f3]; omega
    have ed : fDst (AmovArgs.fromA d a).enc.1 = d := by simp only [AmovArgs.enc, f3, fDst]; omega
    have ea : fSa (AmovArgs.fromA d a).enc.1 = a := by simp only [AmovArgs.enc, f3, fSa]; omega
    simp only [AmovArgs.dec, hm, ed, ea]
    exact accept_self h
  | fromG d a =>
    have g := h
    simp only [AmovArgs.ok, Bool.and_eq_true, decide_eq_true_eq] at g
    have hm : (AmovArgs.fromG d a).enc.1 % 4 = 1 := by simp only [AmovArgs.enc, f3]; omega
    have ed : fDst (AmovArgs.fromG d a).enc.1 = d := by simp only [AmovArgs.enc, f3, fDst]; omega
    have ea : fSa (AmovArgs.fromG d a).enc.1 = a := by simp only [AmovArgs.enc, f3, fSa]; omega
    simp only [AmovArgs.dec, hm, ed, ea]
    exact accept_self h
  | fromGG d a b =>
    have g := h
    simp only [AmovArgs.ok, Bool.and_eq_true, decide_eq_true_eq] at g
    have hm : (AmovArgs.fromGG d a b).enc.1 % 4 = 2 := by simp only [AmovArgs.enc, f3]; omega
    have ed : fDst (AmovArgs.fromGG d a b).enc.1 = d := by simp only [AmovArgs.enc, f3, fDst]; omega
    have ea : fSa (AmovArgs.fromGG d a b).enc.1 = a := by simp only [AmovArgs.enc, f3, fSa]; omega
    have eb : fSb (AmovArgs.fromGG d a b).enc.1 = b := by simp only [AmovArgs.enc, f3, fSb]; omega
    simp only [AmovArgs.dec, hm, ed, ea, eb]
    exact accept_self h
  | imm d v =>
    have g := h
    simp only [AmovArgs.ok, Bool.and_eq_true, decide_eq_true_eq] at g
    have hm : (AmovArgs.imm d v).enc.1 % 4 = 3 := by simp only [AmovArgs.enc, f3]; omega
    have ed : fDst (AmovArgs.imm d v).enc.1 = d := by simp only [AmovArgs.enc, f3, fDst]; omega
    have ev : (AmovArgs.imm d v).enc.2.getD 0 = v := rfl
    simp only [AmovArgs.dec, hm, ed, ev]
    exact accept_self h

theorem MmovArgs.dec_enc {o : MmovArgs} (h : o.ok = true) : MmovArgs.dec o.enc.1 o.enc.2 = .ok o := by
  cases o with
  | mm m a =>
    have g := h
    simp only [MmovArgs.ok, Bool.and_eq_true, decide_eq_true_eq] at g
    have hm : (MmovArgs.mm m a).enc.1 % 4 = 0 := by simp only [MmovArgs.enc, f3]; omega
    have em : fDst (MmovArgs.mm m a).enc.1 = m := by simp only [MmovArgs.enc, f3, fDst]; omega
    have ea : fSa (MmovArgs.mm m a).enc.1 = a := by simp only [MmovArgs.enc, f3, fSa]; omega
    simp only [MmovArgs.dec, hm, em, ea]
    exact accept_self h
  | mg m a =>
    have g := h
    simp only [MmovArgs.ok, Bool.and_eq_true, decide_eq_true_eq] at g
    have hm : (MmovArgs.mg m a).enc.1 % 4 = 1 := by simp only [MmovArgs.enc, f3]; omega
    have em : fDst (MmovArgs.mg m a).enc.1 = m := by simp only [MmovArgs.enc, f3, fDst]; omega
    have ea : fSa (MmovArgs.mg m a).enc.1 = a := by simp only [MmovArgs.enc, f3, fSa]; omega
    simp only [MmovArgs.dec, hm, em, ea]
    exact accept_self h
  | gm d a =>
    have g := h
    simp only [MmovArgs.ok, Bool.and_eq_true, decide_eq_true_eq] at g
    have hm : (MmovArgs.gm d a).enc.1 % 4 = 2 := by simp only [MmovArgs.enc, f3]; omega
    have ed : fDst (MmovArgs.gm d a).enc.1 = d := by simp only [MmovArgs.enc, f3, fDst]; omega
    have ea : fSa (MmovArgs.gm d a).enc.1 = a := by simp only [MmovArgs.enc, f3, fSa]; omega
    simp only [MmovArgs.dec, hm, ed, ea]
    exact accept_self h
  | imm m v =>
    have g := h
    simp only [MmovArgs.ok, Bool.and_eq_true, decide_eq_true_eq] at g
    have hm : (MmovArgs.imm m v).enc.1 % 4 = 3 := by simp only [MmovArgs.enc, f3]; omega
    have em : fDst (MmovArgs.imm m v).enc.1 = m := by simp only [MmovArgs.enc, f3, fDst]; omega
    have ev : (MmovArgs.imm m v).enc.2.getD 0 = v := rfl
    simp only [MmovArgs.dec, hm, em, ev]
    exact accept_self h

theorem MovArgs.dec_enc {o : MovArgs} (h : o.ok = true) : MovArgs.dec o.enc.1 o.enc.2 = .ok o := by
  cases o with
  | fromG d a =>
    have g := h
    simp only [MovArgs.ok, Bool.and_eq_true, decide_eq_true_eq] at g
    have hm : bit (MovArgs.fromG d a).enc.1 0 = false := bit_of (by simp only [MovArgs.enc, f3, Nat.reducePow, Bool.toNat_false]; omega)
    have ed : fDst (MovArgs.fromG d a).enc.1 = d := by simp only [MovArgs.enc, f3, fDst]; omega
    have ea : fSa (MovArgs.fromG d a).enc.1 = a := by simp only [MovArgs.enc, f3, fSa]; omega
    simp only [MovArgs.dec, hm, ed, ea, Bool.false_eq_true, if_false, if_true]
    exact accept_self h
  | fromB d b =>
    have g := h
    simp only [MovArgs.ok, Bool.and_eq_true, decide_eq_true_eq] at g
    have hm : bit (MovArgs.fromB d b).enc.1 0 = true := bit_of (by simp only [MovArgs.enc, f3, Nat.reducePow, Bool.toNat_true]; omega)
    have ed : fDst (MovArgs.fromB d b).enc.1 = d := by simp only [MovArgs.enc, f3, fDst]; omega
    have eb : fSa (MovArgs.fromB d b).enc.1 = b := by simp only [MovArgs.enc, f3, fSa]; omega
    simp only [MovArgs.dec, hm, ed, eb, Bool.false_eq_true, if_false, if_true]
    exact accept_self h

theorem MoviArgs.dec_enc {o : MoviArgs} (h : o.ok = true) : MoviArgs.dec o.enc.1 o.enc.2 = .ok o := by
  rcases o with ⟨d, imm⟩
  cases imm with
  | low v =>
    have g := h
    simp only [MoviArgs.ok, MoviImm.ok, Bool.and_eq_true, decide_eq_true_eq] at g
    have hi : fI (MoviArgs.enc ⟨d, .low v⟩).1 = true := beq_of (z := true) (by simp only [MoviArgs.enc, f2i, Bool.toNat_true]; omega)
    have hq : fQd (MoviArgs.enc ⟨d, .low v⟩).1 = false := beq_of (z := false) (by simp only [MoviArgs.enc, f2i, Bool.toNat_false]; omega)
    have hr : (MoviArgs.enc ⟨d, .low v⟩).1 / 0x1000000 % 64 = d := by simp only [MoviArgs.enc, f2i]; omega
    have hm : (MoviArgs.enc ⟨d, .low v⟩).1 % 0x10000 = v := by simp only [MoviArgs.enc, f2i]; omega
    have hx : (MoviArgs.enc ⟨d, .low v⟩).2 = none := rfl
    simp only [MoviArgs.dec, regNum, hi, if_true, hr, hx, hq, hm, Bool.false_eq_true, if_false]
    rw [← hx]; exact accept_self h
  | high v =>
    have g := h
    simp only [MoviArgs.ok, MoviImm.ok, Bool.and_eq_true, decide_eq_true_eq] at g
    have hi : fI (MoviArgs.enc ⟨d, .high v⟩).1 = true := beq_of (z := true) (by simp only [MoviArgs.enc, f2i, Bool.toNat_true]; omega)
    have hq : fQd (MoviArgs.enc ⟨d, .high v⟩).1 = true := beq_of (z := true) (by simp only [MoviArgs.enc, f2i, Bool.toNat_true]; omega)
    have hr : (MoviArgs.enc ⟨d, .high v⟩).1 / 0x1000000 % 64 = d := by simp only [MoviArgs.enc, f2i]; omega
    have hm : (MoviArgs.enc ⟨d, .high v⟩).1 % 0x10000 = v := by simp only [MoviArgs.enc, f2i]; omega
    have hx : (MoviArgs.enc ⟨d, .high v⟩).2 = none := rfl
    simp only [MoviArgs.dec, regNum, hi, if_true, hr, hx, hq, hm, Bool.false_eq_true, if_false]
    rw [← hx]; exact accept_self h
  | ext v =>
    have g := h
    simp only [MoviArgs.ok, MoviImm.ok, Bool.and_eq_true, decide_eq_true_eq] at g
    have hi : fI (MoviArgs.enc ⟨d, .ext v⟩).1 = true := beq_of (z := true) (by simp only [MoviArgs.enc, f2i, Bool.toNat_true]; omega)
    have hr : (MoviArgs.enc ⟨d, .ext v⟩).1 / 0x1000000 % 64 = d := by simp only [MoviArgs.enc, f2i]; omega
    have hx : (MoviArgs.enc ⟨d, .ext v⟩).2 = some v := rfl
    simp only [MoviArgs.dec, regNum, hi, if_true, hr, hx]
    rw [← hx]; exact accept_self h

theorem QpopArgs.dec_enc {o : QpopArgs} (h : o.ok = true) : QpopArgs.dec o.enc.1 o.enc.2 = .ok o := by
  rcases o with ⟨d, q, v⟩
  have g := h
  simp only [QpopArgs.ok, Bool.and_eq_true, decide_eq_true_eq] at g
  have g1 := regs_lt g.1
  have z := Bool.toNat_lt v
  have e0 : fDst (QpopArgs.enc ⟨d, q, v⟩).1 = d := by simp only [QpopArgs.enc, f3, fDst]; omega
  have e1 : fSa (QpopArgs.enc ⟨d, q, v⟩).1 = q := by simp only [QpopArgs.enc, f3, fSa]; omega
  have e2 : bit (QpopArgs.enc ⟨d, q, v⟩).1 0 = v := bit_of (by simp only [QpopArgs.enc, f3, Nat.reducePow]; omega)
  simp only [QpopArgs.dec, e0, e1, e2]
  exact accept_self h

theorem QpushArgs.dec_enc {o : QpushArgs} (h : o.ok = true) : QpushArgs.dec o.enc.1 o.enc.2 = .ok o := by
  rcases o with ⟨d, q, v⟩
  have g := h
  simp only [QpushArgs.ok, Bool.and_eq_true, decide_eq_true_eq] at g
  have g1 := regs_lt g.1
  have z := Bool.toNat_lt v
  have e0 : fDst (QpushArgs.enc ⟨d, q, v⟩).1 = d := by simp only [QpushArgs.enc, f3, fDst]; omega
  have e1 : fSa (QpushArgs.enc ⟨d, q, v⟩).1 = q := by simp only [QpushArgs.enc, f3, fSa]; omega
  have e2 : bit (QpushArgs.enc ⟨d, q, v⟩).1 0 = v := bit_of (by simp only [QpushArgs.enc, f3, Nat.reducePow]; omega)
  simp only [QpushArgs.dec, e0, e1, e2]
  exact accept_self h

theorem StfArgs.dec_enc {o : StfArgs} (h : o.ok = true) : StfArgs.dec o.enc.1 o.enc.2 = .ok o := by
  rcases o with ⟨d, a, sz, m, off⟩
  have g := h
  simp only [StfArgs.ok, Bool.and_eq_true, decide_eq_true_eq, areg] at g
  obtain ⟨⟨⟨g1, g2⟩, g3⟩, g4⟩ := g
  have g1 : d < 256 := by split at g1 <;> simp at g1 <;> omega
  have z := Bool.toNat_lt m
  have e0 : fDst (StfArgs.enc ⟨d, a, sz, m, off⟩).1 = d := by
    cases off <;> (simp only [Off.ok, decide_eq_true_eq] at g4; simp only [StfArgs.enc, fm, fDst, Off.field]; omega)
  have e1 : memA (StfArgs.enc ⟨d, a, sz, m, off⟩).1 = a := by
    cases off <;> (simp only [Off.ok, decide_eq_true_eq] at g4; simp only [StfArgs.enc, fm, memA, Off.field]; omega)
  have e2 : memSz (StfArgs.enc ⟨d, a, sz, m, off⟩).1 = sz := by
    cases off <;> (simp only [Off.ok, decide_eq_true_eq] at g4; simp only [StfArgs.enc, fm, memSz, Off.field]; omega)
  have e3 : bit (StfArgs.enc ⟨d, a, sz, m, off⟩).1 18 = m := bit_of (by
    cases off <;> (simp only [Off.ok, decide_eq_true_eq] at g4; simp only [StfArgs.enc, fm, Off.field, Nat.reducePow]; omega))
  have e4 : Off.dec (StfArgs.enc ⟨d, a, sz, m, off⟩).1 (StfArgs.enc ⟨d, a, sz, m, off⟩).2 = off := by
    cases off with
    | field16 v =>
      simp only [Off.ok, decide_eq_true_eq] at g4
      simp only [StfArgs.enc, fm, Off.field, Off.pay, Off.dec]; congr 1; omega
    | ext v => rfl
  simp only [StfArgs.dec, e0, e1, e2, e3, e4]
  exact accept_self h

theorem VbcstArgs.dec_enc {o : VbcstArgs} (h : o.ok = true) : VbcstArgs.dec o.enc.1 o.enc.2 = .ok o := by
  rcases o with ⟨d, src, km, mz, w_⟩
  have g := h
  simp only [VbcstArgs.ok, Bool.and_eq_true, decide_eq_true_eq] at g
  obtain ⟨⟨g1, g2⟩, g3⟩ := g
  have z := Bool.toNat_lt mz
  have l := VWidth.code_lt w_
  have gs : (∀ a i, src = .elem a i → a < 256 ∧ i < 256) ∧ ∀ n, src = .gs n → n < 256 := by
    constructor
    · rintro a i rfl; simp only [BcstSrc.ok, Bool.and_eq_true, decide_eq_true_eq] at g3; exact g3.1
    · rintro n rfl; simp only [BcstSrc.ok, decide_eq_true_eq] at g3; omega
  obtain ⟨b1, b2⟩ := gs
  have e0 : (VbcstArgs.enc ⟨d, src, km, mz, w_⟩).1 % 4 = w_.code := by
    cases src <;> simp only [VbcstArgs.enc, f3] <;> omega
  have e1 : fDst (VbcstArgs.enc ⟨d, src, km, mz, w_⟩).1 = d := by
    cases src with
    | elem a i => have := b1 a i rfl; simp only [VbcstArgs.enc, f3, fDst]; omega
    | gs n => have := b2 n rfl; simp only [VbcstArgs.enc, f3, fDst]; omega
    | imm v => simp only [VbcstArgs.enc, f3, fDst]; omega
  have e2 : fFn (VbcstArgs.enc ⟨d, src, km, mz, w_⟩).1 / 32 = km := by
    cases src <;> simp only [VbcstArgs.enc, f3, fFn] <;> omega
  have e3 : bit (VbcstArgs.enc ⟨d, src, km, mz, w_⟩).1 4 = mz := bit_of (by
    cases src <;> simp only [VbcstArgs.enc, f3, Nat.reducePow] <;> omega)
  have e4 : BcstSrc.dec (VbcstArgs.enc ⟨d, src, km, mz, w_⟩).1 (VbcstArgs.enc ⟨d, src, km, mz, w_⟩).2 = src := by
    cases src with
    | elem a i =>
      have := b1 a i rfl
      have hb : bit (VbcstArgs.enc ⟨d, .elem a i, km, mz, w_⟩).1 3 = false :=
        bit_of (by simp only [VbcstArgs.enc, f3, Nat.reducePow, Bool.toNat_false]; omega)
      have ha : fSa (VbcstArgs.enc ⟨d, .elem a i, km, mz, w_⟩).1 = a := by simp only [VbcstArgs.enc, f3, fSa]; omega
      have hi : fSb (VbcstArgs.enc ⟨d, .elem a i, km, mz, w_⟩).1 = i := by simp only [VbcstArgs.enc, f3, fSb]; omega
      simp only [BcstSrc.dec, hb, ha, hi, Bool.false_eq_true, if_false]
    | gs n =>
      have := b2 n rfl
      have hb : bit (VbcstArgs.enc ⟨d, .gs n, km, mz, w_⟩).1 3 = true :=
        bit_of (by simp only [VbcstArgs.enc, f3, Nat.reducePow, Bool.toNat_true]; omega)
      have hn : fSb (VbcstArgs.enc ⟨d, .gs n, km, mz, w_⟩).1 = n := by simp only [VbcstArgs.enc, f3, fSb]; omega
      have hx : (VbcstArgs.enc ⟨d, .gs n, km, mz, w_⟩).2 = none := rfl
      simp only [BcstSrc.dec, hb, hn, hx, if_true]
    | imm v =>
      have hb : bit (VbcstArgs.enc ⟨d, .imm v, km, mz, w_⟩).1 3 = true :=
        bit_of (by simp only [VbcstArgs.enc, f3, Nat.reducePow, Bool.toNat_true]; omega)
      have hx : (VbcstArgs.enc ⟨d, .imm v, km, mz, w_⟩).2 = some v := rfl
      simp only [BcstSrc.dec, hb, hx, if_true]
  simp only [VbcstArgs.dec, operand_some, e0, e1, e2, e3, e4, VWidth.ofCode_code]
  exact accept_self h

theorem VcvtArgs.dec_enc {o : VcvtArgs} (h : o.ok = true) : VcvtArgs.dec o.enc.1 o.enc.2 = .ok o := by
  obtain ⟨g1, g2, g3⟩ := VcvtArgs.part_lt h
  rcases o with ⟨d, a, part, t, f, rm, sat⟩
  have l1 : t.code < 16 := by cases t <;> decide
  have l2 : f.code < 16 := by cases f <;> decide
  have l3 : rm.code < 16 := by cases rm <;> decide
  have z := Bool.toNat_lt sat
  dsimp only at g1 g2 g3
  have e0 : fDst (VcvtArgs.enc ⟨d, a, part, t, f, rm, sat⟩).1 = d := by simp only [VcvtArgs.enc, f3, fDst]; omega
  have e1 : fSa (VcvtArgs.enc ⟨d, a, part, t, f, rm, sat⟩).1 = a := by simp only [VcvtArgs.enc, f3, fSa]; omega
  have e2 : fSb (VcvtArgs.enc ⟨d, a, part, t, f, rm, sat⟩).1 / 32 = part := by simp only [VcvtArgs.enc, f3, fSb]; omega
  have e3 : fFn (VcvtArgs.enc ⟨d, a, part, t, f, rm, sat⟩).1 / 16 = t.code := by simp only [VcvtArgs.enc, f3, fFn]; omega
  have e4 : (VcvtArgs.enc ⟨d, a, part, t, f, rm, sat⟩).1 % 16 = f.code := by simp only [VcvtArgs.enc, f3]; omega
  have e5 : fSb (VcvtArgs.enc ⟨d, a, part, t, f, rm, sat⟩).1 % 16 = rm.code := by simp only [VcvtArgs.enc, f3, fSb]; omega
  have e6 : bit (VcvtArgs.enc ⟨d, a, part, t, f, rm, sat⟩).1 12 = sat := bit_of (by simp only [VcvtArgs.enc, f3, Nat.reducePow]; omega)
  simp only [VcvtArgs.dec, operand_some, e0, e1, e2, e3, e4, e5, e6, NumFmt.ofCode_code, RMode.ofCode_code]
  exact accept_self h

theorem BinArgs.dec_enc {o : BinArgs} (h : o.ok = true) : BinArgs.dec o.enc.1 o.enc.2 = .ok o := by
  rcases o with ⟨d, a, b⟩
  have e0 : (regNum (BinArgs.enc ⟨d, a, b⟩).1) = d := by
    cases_type* Src2 <;> (simp [BinArgs.ok, Src2.ok] at h; simp [BinArgs.enc, f3, f2i, regNum, fI, fDst, fSa, fSb, fQd, bit] <;> first | omega | (split <;> first | omega | rfl | (exfalso; omega) | (congr 1; omega) | exact beq_of (by omega)) | rfl)
  have e1 : (srcNum (BinArgs.enc ⟨d, a, b⟩).1) = a := by
    clear e0; cases_type* Src2 <;> (simp [BinArgs.ok, Src2.ok] at h; simp [BinArgs.enc, f3, f2i, srcNum, fI, fDst, fSa, fSb, fQd, bit] <;> first | omega | (split <;> first | omega | rfl | (exfalso; omega) | (congr 1; omega) | exact beq_of (by omega)) | rfl)
  have e2 : (Src2.dec (BinArgs.enc ⟨d, a, b⟩).1 (BinArgs.enc ⟨d, a, b⟩).2) = b := by
    clear e0 e1; cases_type* Src2 <;> (simp [BinArgs.ok, Src2.ok] at h; simp [BinArgs.enc, f3, f2i, Src2.dec, fDst, fSa, fSb, fI, fQd, bit] <;> first | omega | (split <;> first | omega | rfl | (exfalso; omega) | (congr 1; omega) | exact beq_of (by omega)) | rfl)
  simp only [BinArgs.dec, e0, e1, e2]
  exact accept_self h

theorem BinZArgs.dec_enc {o : BinZArgs} (h : o.ok = true) : BinZArgs.dec o.enc.1 o.enc.2 = .ok o := by
  rcases o with ⟨d, a, b, z⟩
  have e0 : (regNum (BinZArgs.enc ⟨d, a, b, z⟩).1) = d := by
    have z0 := Bool.toNat_lt z; cases_type* Src2 <;> (simp [BinZArgs.ok, Src2.ok] at h; simp [BinZArgs.enc, f3, f2i, regNum, fI, fDst, fSa, fSb, fQd, bit] <;> first | omega | (split <;> first | omega | rfl | (exfalso; omega) | (congr 1; omega) | exact beq_of (by omega)) | rfl)
  have e1 : (srcNum (BinZArgs.enc ⟨d, a, b, z⟩).1) = a := by
    clear e0; have z0 := Bool.toNat_lt z; cases_type* Src2 <;> (simp [BinZArgs.ok, Src2.ok] at h; simp [BinZArgs.enc, f3, f2i, srcNum, fI, fDst, fSa, fSb, fQd, bit] <;> first | omega | (split <;> first | omega | rfl | (exfalso; omega) | (congr 1; omega) | exact beq_of (by omega)) | rfl)
  have e2 : (Src2.dec (BinZArgs.enc ⟨d, a, b, z⟩).1 (BinZArgs.enc ⟨d, a, b, z⟩).2) = b := by
    clear e0 e1; have z0 := Bool.toNat_lt z; cases_type* Src2 <;> (simp [BinZArgs.ok, Src2.ok] at h; simp [BinZArgs.enc, f3, f2i, Src2.dec, fDst, fSa, fSb, fI, fQd, bit] <;> first | omega | (split <;> first | omega | rfl | (exfalso; omega) | (congr 1; omega) | exact beq_of (by omega)) | rfl)
  have e3 : (if fI (BinZArgs.enc ⟨d, a, b, z⟩).1 then fQd (BinZArgs.enc ⟨d, a, b, z⟩).1 else bit (BinZArgs.enc ⟨d, a, b, z⟩).1 0) = z := by
    clear e0 e1 e2; have z0 := Bool.toNat_lt z; cases_type* Src2 <;> (simp [BinZArgs.ok, Src2.ok] at h; simp [BinZArgs.enc, f3, f2i, fI, fQd, fDst, fSa, fSb, bit] <;> first | omega | (split <;> first | omega | rfl | (exfalso; omega) | (congr 1; omega) | exact beq_of (by omega)) | rfl)
  simp only [BinZArgs.dec, e0, e1, e2, e3]
  exact accept_self h

theorem UnArgs.dec_enc {o : UnArgs} (h : o.ok = true) : UnArgs.dec o.enc.1 o.enc.2 = .ok o := by
  rcases o with ⟨d, a⟩
  have e0 : (fDst (UnArgs.enc ⟨d, a⟩).1) = d := by
    (simp [UnArgs.ok] at h; simp only [UnArgs.enc, f3, fDst] <;> omega)
  have e1 : (fSa (UnArgs.enc ⟨d, a⟩).1) = a := by
    clear e0; (simp [UnArgs.ok] at h; simp only [UnArgs.enc, f3, fSa] <;> omega)
  simp only [UnArgs.dec, e0, e1]
  exact accept_self h

theorem MovxArgs.dec_enc {o : MovxArgs} (h : o.ok = true) : MovxArgs.dec o.enc.1 o.enc.2 = .ok o := by
  rcases o with ⟨d, a⟩
  have e0 : (fDst (MovxArgs.enc ⟨d, a⟩).1) = d := by
    (simp [MovxArgs.ok] at h; simp only [MovxArgs.enc, f3, fDst] <;> omega)
  have e1 : (fSa (MovxArgs.enc ⟨d, a⟩).1) = a := by
    clear e0; (simp [MovxArgs.ok] at h; simp only [MovxArgs.enc, f3, fSa] <;> omega)
  simp only [MovxArgs.dec, e0, e1]
  exact accept_self h

theorem BfxArgs.dec_enc {o : BfxArgs} (h : o.ok = true) : BfxArgs.dec o.enc.1 o.enc.2 = .ok o := by
  rcases o with ⟨d, a, pos, wm1, sgn⟩
  have e0 : (fDst (BfxArgs.enc ⟨d, a, pos, wm1, sgn⟩).1) = d := by
    have z0 := Bool.toNat_lt sgn; (simp [BfxArgs.ok] at h; simp only [BfxArgs.enc, f3, fDst] <;> omega)
  have e1 : (fSa (BfxArgs.enc ⟨d, a, pos, wm1, sgn⟩).1) = a := by
    clear e0; have z0 := Bool.toNat_lt sgn; (simp [BfxArgs.ok] at h; simp only [BfxArgs.enc, f3, fSa] <;> omega)
  have e2 : (fSb (BfxArgs.enc ⟨d, a, pos, wm1, sgn⟩).1) = pos := by
    clear e0 e1; have z0 := Bool.toNat_lt sgn; (simp [BfxArgs.ok] at h; simp only [BfxArgs.enc, f3, fSb] <;> omega)
  have e3 : ((BfxArgs.enc ⟨d, a, pos, wm1, sgn⟩).1 % 32) = wm1 := by
    clear e0 e1 e2; have z0 := Bool.toNat_lt sgn; (simp [BfxArgs.ok] at h; simp only [BfxArgs.enc, f3] <;> omega)
  have e4 : (bit (BfxArgs.enc ⟨d, a, pos, wm1, sgn⟩).1 5) = sgn := by
    clear e0 e1 e2 e3; have z0 := Bool.toNat_lt sgn; refine bit_of ?_; (simp [BfxArgs.ok] at h; simp only [BfxArgs.enc, f3, Nat.reducePow] <;> omega)
  simp only [BfxArgs.dec, e0, e1, e2, e3, e4]
  exact accept_self h

theorem BfiArgs.dec_enc {o : BfiArgs} (h : o.ok = true) : BfiArgs.dec o.enc.1 o.enc.2 = .ok o := by
  rcases o with ⟨d, a, pos, wm1⟩
  have e0 : (fDst (BfiArgs.enc ⟨d, a, pos, wm1⟩).1) = d := by
    (simp [BfiArgs.ok] at h; simp only [BfiArgs.enc, f3, fDst] <;> omega)
  have e1 : (fSa (BfiArgs.enc ⟨d, a, pos, wm1⟩).1) = a := by
    clear e0; (simp [BfiArgs.ok] at h; simp only [BfiArgs.enc, f3, fSa] <;> omega)
  have e2 : (fSb (BfiArgs.enc ⟨d, a, pos, wm1⟩).1) = pos := by
    clear e0 e1; (simp [BfiArgs.ok] at h; simp only [BfiArgs.enc, f3, fSb] <;> omega)
  have e3 : (fFn (BfiArgs.enc ⟨d, a, pos, wm1⟩).1) = wm1 := by
    clear e0 e1 e2; (simp [BfiArgs.ok] at h; simp only [BfiArgs.enc, f3, fFn] <;> omega)
  simp only [BfiArgs.dec, e0, e1, e2, e3]
  exact accept_self h

theorem SelArgs.dec_enc {o : SelArgs} (h : o.ok = true) : SelArgs.dec o.enc.1 o.enc.2 = .ok o := by
  rcases o with ⟨d, a, b, k, n⟩
  have e0 : (fDst (SelArgs.enc ⟨d, a, b, k, n⟩).1) = d := by
    have z0 := Bool.toNat_lt n; (simp [SelArgs.ok] at h; simp only [SelArgs.enc, f3, fDst] <;> omega)
  have e1 : (fSa (SelArgs.enc ⟨d, a, b, k, n⟩).1) = a := by
    clear e0; have z0 := Bool.toNat_lt n; (simp [SelArgs.ok] at h; simp only [SelArgs.enc, f3, fSa] <;> omega)
  have e2 : (fSb (SelArgs.enc ⟨d, a, b, k, n⟩).1) = b := by
    clear e0 e1; have z0 := Bool.toNat_lt n; (simp [SelArgs.ok] at h; simp only [SelArgs.enc, f3, fSb] <;> omega)
  have e3 : ((SelArgs.enc ⟨d, a, b, k, n⟩).1 % 8) = k := by
    clear e0 e1 e2; have z0 := Bool.toNat_lt n; (simp [SelArgs.ok] at h; simp only [SelArgs.enc, f3] <;> omega)
  have e4 : (bit (SelArgs.enc ⟨d, a, b, k, n⟩).1 3) = n := by
    clear e0 e1 e2 e3; have z0 := Bool.toNat_lt n; refine bit_of ?_; (simp [SelArgs.ok] at h; simp only [SelArgs.enc, f3, Nat.reducePow] <;> omega)
  simp only [SelArgs.dec, e0, e1, e2, e3, e4]
  exact accept_self h

theorem CmpArgs.dec_enc {o : CmpArgs} (h : o.ok = true) : CmpArgs.dec o.enc.1 o.enc.2 = .ok o := by
  rcases o with ⟨p, a, b, cond⟩
  have e0 : (fFn (CmpArgs.enc ⟨p, a, b, cond⟩).1) = cond.code := by
    have l0 := IntCond.code_lt cond; cases_type* RegImm <;> (simp [CmpArgs.ok, RegImm.ok] at h; simp only [CmpArgs.enc, f3, fFn, RegImm.field, RegImm.pay] <;> omega)
  have e1 : (fDst (CmpArgs.enc ⟨p, a, b, cond⟩).1) = p := by
    clear e0; have l0 := IntCond.code_lt cond; cases_type* RegImm <;> (simp [CmpArgs.ok, RegImm.ok] at h; simp only [CmpArgs.enc, f3, fDst, RegImm.field, RegImm.pay] <;> omega)
  have e2 : (fSa (CmpArgs.enc ⟨p, a, b, cond⟩).1) = a := by
    clear e0 e1; have l0 := IntCond.code_lt cond; cases_type* RegImm <;> (simp [CmpArgs.ok, RegImm.ok] at h; simp only [CmpArgs.enc, f3, fSa, RegImm.field, RegImm.pay] <;> omega)
  have e3 : (RegImm.dec (fSb (CmpArgs.enc ⟨p, a, b, cond⟩).1) (CmpArgs.enc ⟨p, a, b, cond⟩).2) = b := by
    clear e0 e1 e2; have l0 := IntCond.code_lt cond; cases_type* RegImm <;> (simp [CmpArgs.ok, RegImm.ok] at h; simp [CmpArgs.enc, f3, fSb, RegImm.field, RegImm.pay, RegImm.dec, fDst, fSa, fI, fQd, bit] <;> first | omega | (split <;> first | omega | rfl | (exfalso; omega) | (congr 1; omega) | exact beq_of (by omega)) | rfl)
  simp only [CmpArgs.dec, operand_some, e0, e1, e2, e3, IntCond.ofCode_code]
  exact accept_self h

theorem PlogArgs.dec_enc {o : PlogArgs} (h : o.ok = true) : PlogArgs.dec o.enc.1 o.enc.2 = .ok o := by
  rcases o with ⟨p, a, b, f⟩
  have e0 : (fFn (PlogArgs.enc ⟨p, a, b, f⟩).1) = f.code := by
    have l0 := LogicFn.code_lt f; (simp [PlogArgs.ok] at h; simp only [PlogArgs.enc, f3, fFn] <;> omega)
  have e1 : (fDst (PlogArgs.enc ⟨p, a, b, f⟩).1) = p := by
    clear e0; have l0 := LogicFn.code_lt f; (simp [PlogArgs.ok] at h; simp only [PlogArgs.enc, f3, fDst] <;> omega)
  have e2 : (fSa (PlogArgs.enc ⟨p, a, b, f⟩).1) = a := by
    clear e0 e1; have l0 := LogicFn.code_lt f; (simp [PlogArgs.ok] at h; simp only [PlogArgs.enc, f3, fSa] <;> omega)
  have e3 : (fSb (PlogArgs.enc ⟨p, a, b, f⟩).1) = b := by
    clear e0 e1 e2; have l0 := LogicFn.code_lt f; (simp [PlogArgs.ok] at h; simp only [PlogArgs.enc, f3, fSb] <;> omega)
  simp only [PlogArgs.dec, operand_some, e0, e1, e2, e3, LogicFn.ofCode_code]
  exact accept_self h

theorem AaddArgs.dec_enc {o : AaddArgs} (h : o.ok = true) : AaddArgs.dec o.enc.1 o.enc.2 = .ok o := by
  rcases o with ⟨d, a, b, z⟩
  have e0 : (fDst (AaddArgs.enc ⟨d, a, b, z⟩).1) = d := by
    have z0 := Bool.toNat_lt z; cases_type* RegImm <;> (simp [AaddArgs.ok, RegImm.ok] at h; simp only [AaddArgs.enc, f3, fDst, RegImm.field, RegImm.pay] <;> omega)
  have e1 : (fSa (AaddArgs.enc ⟨d, a, b, z⟩).1) = a := by
    clear e0; have z0 := Bool.toNat_lt z; cases_type* RegImm <;> (simp [AaddArgs.ok, RegImm.ok] at h; simp only [AaddArgs.enc, f3, fSa, RegImm.field, RegImm.pay] <;> omega)
  have e2 : (RegImm.dec (fSb (AaddArgs.enc ⟨d, a, b, z⟩).1) (AaddArgs.enc ⟨d, a, b, z⟩).2) = b := by
    clear e0 e1; have z0 := Bool.toNat_lt z; cases_type* RegImm <;> (simp [AaddArgs.ok, RegImm.ok] at h; simp [AaddArgs.enc, f3, fSb, RegImm.field, RegImm.pay, RegImm.dec, fDst, fSa, fI, fQd, bit] <;> first | omega | (split <;> first | omega | rfl | (exfalso; omega) | (congr 1; omega) | exact beq_of (by omega)) | rfl)
  have e3 : (bit (AaddArgs.enc ⟨d, a, b, z⟩).1 0) = z := by
    clear e0 e1 e2; have z0 := Bool.toNat_lt z; refine bit_of ?_; cases_type* RegImm <;> (simp [AaddArgs.ok, RegImm.ok] at h; simp only [AaddArgs.enc, f3, RegImm.field, RegImm.pay, Nat.reducePow] <;> omega)
  simp only [AaddArgs.dec, e0, e1, e2, e3]
  exact accept_self h

theorem AleaArgs.dec_enc {o : AleaArgs} (h : o.ok = true) : AleaArgs.dec o.enc.1 o.enc.2 = .ok o := by
  rcases o with ⟨d, a, b, sh, z⟩
  have e0 : (fDst (AleaArgs.enc ⟨d, a, b, sh, z⟩).1) = d := by
    have z0 := Bool.toNat_lt z; (simp [AleaArgs.ok] at h; simp only [AleaArgs.enc, f3, fDst] <;> omega)
  have e1 : (fSa (AleaArgs.enc ⟨d, a, b, sh, z⟩).1) = a := by
    clear e0; have z0 := Bool.toNat_lt z; (simp [AleaArgs.ok] at h; simp only [AleaArgs.enc, f3, fSa] <;> omega)
  have e2 : (fSb (AleaArgs.enc ⟨d, a, b, sh, z⟩).1) = b := by
    clear e0 e1; have z0 := Bool.toNat_lt z; (simp [AleaArgs.ok] at h; simp only [AleaArgs.enc, f3, fSb] <;> omega)
  have e3 : ((AleaArgs.enc ⟨d, a, b, sh, z⟩).1 % 8) = sh := by
    clear e0 e1 e2; have z0 := Bool.toNat_lt z; (simp [AleaArgs.ok] at h; simp only [AleaArgs.enc, f3] <;> omega)
  have e4 : (bit (AleaArgs.enc ⟨d, a, b, sh, z⟩).1 3) = z := by
    clear e0 e1 e2 e3; have z0 := Bool.toNat_lt z; refine bit_of ?_; (simp [AleaArgs.ok] at h; simp only [AleaArgs.enc, f3, Nat.reducePow] <;> omega)
  simp only [AleaArgs.dec, e0, e1, e2, e3, e4]
  exact accept_self h

theorem AgetArgs.dec_enc {o : AgetArgs} (h : o.ok = true) : AgetArgs.dec o.enc.1 o.enc.2 = .ok o := by
  rcases o with ⟨d, a, h_⟩
  have e0 : (fDst (AgetArgs.enc ⟨d, a, h_⟩).1) = d := by
    have z0 := Bool.toNat_lt h_; (simp [AgetArgs.ok] at h; simp only [AgetArgs.enc, f3, fDst] <;> omega)
  have e1 : (fSa (AgetArgs.enc ⟨d, a, h_⟩).1) = a := by
    clear e0; have z0 := Bool.toNat_lt h_; (simp [AgetArgs.ok] at h; simp only [AgetArgs.enc, f3, fSa] <;> omega)
  have e2 : (bit (AgetArgs.enc ⟨d, a, h_⟩).1 0) = h_ := by
    clear e0 e1; have z0 := Bool.toNat_lt h_; refine bit_of ?_; (simp [AgetArgs.ok] at h; simp only [AgetArgs.enc, f3, Nat.reducePow] <;> omega)
  simp only [AgetArgs.dec, e0, e1, e2]
  exact accept_self h

theorem AcmpArgs.dec_enc {o : AcmpArgs} (h : o.ok = true) : AcmpArgs.dec o.enc.1 o.enc.2 = .ok o := by
  rcases o with ⟨p, a, b, cond⟩
  have e0 : (fFn (AcmpArgs.enc ⟨p, a, b, cond⟩).1) = cond.code := by
    have l0 := AddrCond.code_lt cond; (simp [AcmpArgs.ok] at h; simp only [AcmpArgs.enc, f3, fFn] <;> omega)
  have e1 : (fDst (AcmpArgs.enc ⟨p, a, b, cond⟩).1) = p := by
    clear e0; have l0 := AddrCond.code_lt cond; (simp [AcmpArgs.ok] at h; simp only [AcmpArgs.enc, f3, fDst] <;> omega)
  have e2 : (fSa (AcmpArgs.enc ⟨p, a, b, cond⟩).1) = a := by
    clear e0 e1; have l0 := AddrCond.code_lt cond; (simp [AcmpArgs.ok] at h; simp only [AcmpArgs.enc, f3, fSa] <;> omega)
  have e3 : (fSb (AcmpArgs.enc ⟨p, a, b, cond⟩).1) = b := by
    clear e0 e1 e2; have l0 := AddrCond.code_lt cond; (simp [AcmpArgs.ok] at h; simp only [AcmpArgs.enc, f3, fSb] <;> omega)
  simp only [AcmpArgs.dec, operand_some, e0, e1, e2, e3, AddrCond.ofCode_code]
  exact accept_self h

theorem FpArgs.dec_enc {o : FpArgs} (h : o.ok = true) : FpArgs.dec o.enc.1 o.enc.2 = .ok o := by
  rcases o with ⟨d, a, b, rm⟩
  have e0 : (fFn (FpArgs.enc ⟨d, a, b, rm⟩).1) = rm.code := by
    have l0 := RMode.code_lt rm; (simp [FpArgs.ok] at h; simp only [FpArgs.enc, f3, fFn] <;> omega)
  have e1 : (fDst (FpArgs.enc ⟨d, a, b, rm⟩).1) = d := by
    clear e0; have l0 := RMode.code_lt rm; (simp [FpArgs.ok] at h; simp only [FpArgs.enc, f3, fDst] <;> omega)
  have e2 : (fSa (FpArgs.enc ⟨d, a, b, rm⟩).1) = a := by
    clear e0 e1; have l0 := RMode.code_lt rm; (simp [FpArgs.ok] at h; simp only [FpArgs.enc, f3, fSa] <;> omega)
  have e3 : (fSb (FpArgs.enc ⟨d, a, b, rm⟩).1) = b := by
    clear e0 e1 e2; have l0 := RMode.code_lt rm; (simp [FpArgs.ok] at h; simp only [FpArgs.enc, f3, fSb] <;> omega)
  simp only [FpArgs.dec, operand_some, e0, e1, e2, e3, RMode.ofCode_code]
  exact accept_self h

theorem FmaArgs.dec_enc {o : FmaArgs} (h : o.ok = true) : FmaArgs.dec o.enc.1 o.enc.2 = .ok o := by
  rcases o with ⟨d, a, b, rm⟩
  have e0 : (fFn (FmaArgs.enc ⟨d, a, b, rm⟩).1) = rm.code := by
    have l0 := RMode.code_lt rm; (simp [FmaArgs.ok] at h; simp only [FmaArgs.enc, f3, fFn] <;> omega)
  have e1 : (fDst (FmaArgs.enc ⟨d, a, b, rm⟩).1) = d := by
    clear e0; have l0 := RMode.code_lt rm; (simp [FmaArgs.ok] at h; simp only [FmaArgs.enc, f3, fDst] <;> omega)
  have e2 : (fSa (FmaArgs.enc ⟨d, a, b, rm⟩).1) = a := by
    clear e0 e1; have l0 := RMode.code_lt rm; (simp [FmaArgs.ok] at h; simp only [FmaArgs.enc, f3, fSa] <;> omega)
  have e3 : (fSb (FmaArgs.enc ⟨d, a, b, rm⟩).1) = b := by
    clear e0 e1 e2; have l0 := RMode.code_lt rm; (simp [FmaArgs.ok] at h; simp only [FmaArgs.enc, f3, fSb] <;> omega)
  simp only [FmaArgs.dec, operand_some, e0, e1, e2, e3, RMode.ofCode_code]
  exact accept_self h

theorem FminArgs.dec_enc {o : FminArgs} (h : o.ok = true) : FminArgs.dec o.enc.1 o.enc.2 = .ok o := by
  rcases o with ⟨d, a, b⟩
  have e0 : (fDst (FminArgs.enc ⟨d, a, b⟩).1) = d := by
    (simp [FminArgs.ok] at h; simp only [FminArgs.enc, f3, fDst] <;> omega)
  have e1 : (fSa (FminArgs.enc ⟨d, a, b⟩).1) = a := by
    clear e0; (simp [FminArgs.ok] at h; simp only [FminArgs.enc, f3, fSa] <;> omega)
  have e2 : (fSb (FminArgs.enc ⟨d, a, b⟩).1) = b := by
    clear e0 e1; (simp [FminArgs.ok] at h; simp only [FminArgs.enc, f3, fSb] <;> omega)
  simp only [FminArgs.dec, e0, e1, e2]
  exact accept_self h

theorem FsqrtArgs.dec_enc {o : FsqrtArgs} (h : o.ok = true) : FsqrtArgs.dec o.enc.1 o.enc.2 = .ok o := by
  rcases o with ⟨d, a, rm⟩
  have e0 : (fFn (FsqrtArgs.enc ⟨d, a, rm⟩).1) = rm.code := by
    have l0 := RMode.code_lt rm; (simp [FsqrtArgs.ok] at h; simp only [FsqrtArgs.enc, f3, fFn] <;> omega)
  have e1 : (fDst (FsqrtArgs.enc ⟨d, a, rm⟩).1) = d := by
    clear e0; have l0 := RMode.code_lt rm; (simp [FsqrtArgs.ok] at h; simp only [FsqrtArgs.enc, f3, fDst] <;> omega)
  have e2 : (fSa (FsqrtArgs.enc ⟨d, a, rm⟩).1) = a := by
    clear e0 e1; have l0 := RMode.code_lt rm; (simp [FsqrtArgs.ok] at h; simp only [FsqrtArgs.enc, f3, fSa] <;> omega)
  simp only [FsqrtArgs.dec, operand_some, e0, e1, e2, RMode.ofCode_code]
  exact accept_self h

theorem FcmpArgs.dec_enc {o : FcmpArgs} (h : o.ok = true) : FcmpArgs.dec o.enc.1 o.enc.2 = .ok o := by
  rcases o with ⟨p, a, b, cond⟩
  have e0 : (fFn (FcmpArgs.enc ⟨p, a, b, cond⟩).1) = cond.code := by
    have l0 := FpCond.code_lt cond; (simp [FcmpArgs.ok] at h; simp only [FcmpArgs.enc, f3, fFn] <;> omega)
  have e1 : (fDst (FcmpArgs.enc ⟨p, a, b, cond⟩).1) = p := by
    clear e0; have l0 := FpCond.code_lt cond; (simp [FcmpArgs.ok] at h; simp only [FcmpArgs.enc, f3, fDst] <;> omega)
  have e2 : (fSa (FcmpArgs.enc ⟨p, a, b, cond⟩).1) = a := by
    clear e0 e1; have l0 := FpCond.code_lt cond; (simp [FcmpArgs.ok] at h; simp only [FcmpArgs.enc, f3, fSa] <;> omega)
  have e3 : (fSb (FcmpArgs.enc ⟨p, a, b, cond⟩).1) = b := by
    clear e0 e1 e2; have l0 := FpCond.code_lt cond; (simp [FcmpArgs.ok] at h; simp only [FcmpArgs.enc, f3, fSb] <;> omega)
  simp only [FcmpArgs.dec, operand_some, e0, e1, e2, e3, FpCond.ofCode_code]
  exact accept_self h

theorem FcvtArgs.dec_enc {o : FcvtArgs} (h : o.ok = true) : FcvtArgs.dec o.enc.1 o.enc.2 = .ok o := by
  rcases o with ⟨d, a, dto, frm, rm, sat⟩
  have e0 : (fFn (FcvtArgs.enc ⟨d, a, dto, frm, rm, sat⟩).1 / 16) = dto.code := by
    have l0 := NumFmt.code_lt dto; have l1 := NumFmt.code_lt frm; have l2 := RMode.code_lt rm; have z0 := Bool.toNat_lt sat; (simp [FcvtArgs.ok] at h; simp only [FcvtArgs.enc, f3, fFn] <;> omega)
  have e1 : ((FcvtArgs.enc ⟨d, a, dto, frm, rm, sat⟩).1 % 16) = frm.code := by
    clear e0; have l0 := NumFmt.code_lt dto; have l1 := NumFmt.code_lt frm; have l2 := RMode.code_lt rm; have z0 := Bool.toNat_lt sat; (simp [FcvtArgs.ok] at h; simp only [FcvtArgs.enc, f3] <;> omega)
  have e2 : (fSb (FcvtArgs.enc ⟨d, a, dto, frm, rm, sat⟩).1 % 16) = rm.code := by
    clear e0 e1; have l0 := NumFmt.code_lt dto; have l1 := NumFmt.code_lt frm; have l2 := RMode.code_lt rm; have z0 := Bool.toNat_lt sat; (simp [FcvtArgs.ok] at h; simp only [FcvtArgs.enc, f3, fSb] <;> omega)
  have e3 : (fDst (FcvtArgs.enc ⟨d, a, dto, frm, rm, sat⟩).1) = d := by
    clear e0 e1 e2; have l0 := NumFmt.code_lt dto; have l1 := NumFmt.code_lt frm; have l2 := RMode.code_lt rm; have z0 := Bool.toNat_lt sat; (simp [FcvtArgs.ok] at h; simp only [FcvtArgs.enc, f3, fDst] <;> omega)
  have e4 : (fSa (FcvtArgs.enc ⟨d, a, dto, frm, rm, sat⟩).1) = a := by
    clear e0 e1 e2 e3; have l0 := NumFmt.code_lt dto; have l1 := NumFmt.code_lt frm; have l2 := RMode.code_lt rm; have z0 := Bool.toNat_lt sat; (simp [FcvtArgs.ok] at h; simp only [FcvtArgs.enc, f3, fSa] <;> omega)
  have e5 : (bit (FcvtArgs.enc ⟨d, a, dto, frm, rm, sat⟩).1 12) = sat := by
    clear e0 e1 e2 e3 e4; have l0 := NumFmt.code_lt dto; have l1 := NumFmt.code_lt frm; have l2 := RMode.code_lt rm; have z0 := Bool.toNat_lt sat; refine bit_of ?_; (simp [FcvtArgs.ok] at h; simp only [FcvtArgs.enc, f3, Nat.reducePow] <;> omega)
  simp only [FcvtArgs.dec, operand_some, e0, e1, e2, e3, e4, e5, NumFmt.ofCode_code, NumFmt.ofCode_code, RMode.ofCode_code]
  exact accept_self h

theorem FsgnArgs.dec_enc {o : FsgnArgs} (h : o.ok = true) : FsgnArgs.dec o.enc.1 o.enc.2 = .ok o := by
  rcases o with ⟨d, a, b, f⟩
  have e0 : (fFn (FsgnArgs.enc ⟨d, a, b, f⟩).1) = f.code := by
    have l0 := SignFn.code_lt f; (simp [FsgnArgs.ok] at h; simp only [FsgnArgs.enc, f3, fFn] <;> omega)
  have e1 : (fDst (FsgnArgs.enc ⟨d, a, b, f⟩).1) = d := by
    clear e0; have l0 := SignFn.code_lt f; (simp [FsgnArgs.ok] at h; simp only [FsgnArgs.enc, f3, fDst] <;> omega)
  have e2 : (fSa (FsgnArgs.enc ⟨d, a, b, f⟩).1) = a := by
    clear e0 e1; have l0 := SignFn.code_lt f; (simp [FsgnArgs.ok] at h; simp only [FsgnArgs.enc, f3, fSa] <;> omega)
  have e3 : (fSb (FsgnArgs.enc ⟨d, a, b, f⟩).1) = b := by
    clear e0 e1 e2; have l0 := SignFn.code_lt f; (simp [FsgnArgs.ok] at h; simp only [FsgnArgs.enc, f3, fSb] <;> omega)
  simp only [FsgnArgs.dec, operand_some, e0, e1, e2, e3, SignFn.ofCode_code]
  exact accept_self h

theorem FclsArgs.dec_enc {o : FclsArgs} (h : o.ok = true) : FclsArgs.dec o.enc.1 o.enc.2 = .ok o := by
  rcases o with ⟨d, a, fmt⟩
  have e0 : (fFn (FclsArgs.enc ⟨d, a, fmt⟩).1) = fmt.code := by
    have l0 := NumFmt.code_lt fmt; (simp [FclsArgs.ok] at h; simp only [FclsArgs.enc, f3, fFn] <;> omega)
  have e1 : (fDst (FclsArgs.enc ⟨d, a, fmt⟩).1) = d := by
    clear e0; have l0 := NumFmt.code_lt fmt; (simp [FclsArgs.ok] at h; simp only [FclsArgs.enc, f3, fDst] <;> omega)
  have e2 : (fSa (FclsArgs.enc ⟨d, a, fmt⟩).1) = a := by
    clear e0 e1; have l0 := NumFmt.code_lt fmt; (simp [FclsArgs.ok] at h; simp only [FclsArgs.enc, f3, fSa] <;> omega)
  simp only [FclsArgs.dec, operand_some, e0, e1, e2, NumFmt.ofCode_code]
  exact accept_self h

theorem PbrArgs.dec_enc {o : PbrArgs} (h : o.ok = true) : PbrArgs.dec o.enc.1 o.enc.2 = .ok o := by
  rcases o with ⟨b, loff, slot, h_⟩
  have e0 : ((PbrArgs.enc ⟨b, loff, slot, h_⟩).1 / 0x20000000 % 8) = b := by
    have z0 := Bool.toNat_lt h_; (simp [PbrArgs.ok] at h; simp only [PbrArgs.enc, fb] <;> omega)
  have e1 : ((PbrArgs.enc ⟨b, loff, slot, h_⟩).1 / 16 % 0x1000000) = loff := by
    clear e0; have z0 := Bool.toNat_lt h_; (simp [PbrArgs.ok] at h; simp only [PbrArgs.enc, fb] <;> omega)
  have e2 : ((PbrArgs.enc ⟨b, loff, slot, h_⟩).1 % 16) = slot := by
    clear e0 e1; have z0 := Bool.toNat_lt h_; (simp [PbrArgs.ok] at h; simp only [PbrArgs.enc, fb] <;> omega)
  have e3 : (bit (PbrArgs.enc ⟨b, loff, slot, h_⟩).1 28) = h_ := by
    clear e0 e1 e2; have z0 := Bool.toNat_lt h_; refine bit_of ?_; (simp [PbrArgs.ok] at h; simp only [PbrArgs.enc, fb, Nat.reducePow] <;> omega)
  simp only [PbrArgs.dec, e0, e1, e2, e3]
  exact accept_self h

theorem PbrgArgs.dec_enc {o : PbrgArgs} (h : o.ok = true) : PbrgArgs.dec o.enc.1 o.enc.2 = .ok o := by
  rcases o with ⟨b, g, h_⟩
  have e0 : ((PbrgArgs.enc ⟨b, g, h_⟩).1 / 0x20000000 % 8) = b := by
    have z0 := Bool.toNat_lt h_; (simp [PbrgArgs.ok] at h; simp only [PbrgArgs.enc, fb] <;> omega)
  have e1 : ((PbrgArgs.enc ⟨b, g, h_⟩).1 / 0x400000 % 64) = g := by
    clear e0; have z0 := Bool.toNat_lt h_; (simp [PbrgArgs.ok] at h; simp only [PbrgArgs.enc, fb] <;> omega)
  have e2 : (bit (PbrgArgs.enc ⟨b, g, h_⟩).1 28) = h_ := by
    clear e0 e1; have z0 := Bool.toNat_lt h_; refine bit_of ?_; (simp [PbrgArgs.ok] at h; simp only [PbrgArgs.enc, fb, Nat.reducePow] <;> omega)
  simp only [PbrgArgs.dec, e0, e1, e2]
  exact accept_self h

theorem BrArgs.dec_enc {o : BrArgs} (h : o.ok = true) : BrArgs.dec o.enc.1 o.enc.2 = .ok o := by
  rcases o with ⟨b⟩
  have e0 : (fSa (BrArgs.enc ⟨b⟩).1) = b := by
    (simp [BrArgs.ok] at h; simp only [BrArgs.enc, f3, fSa] <;> omega)
  simp only [BrArgs.dec, e0]
  exact accept_self h

theorem CallArgs.dec_enc {o : CallArgs} (h : o.ok = true) : CallArgs.dec o.enc.1 o.enc.2 = .ok o := by
  rcases o with ⟨d, b⟩
  have e0 : (fDst (CallArgs.enc ⟨d, b⟩).1) = d := by
    (simp [CallArgs.ok] at h; simp only [CallArgs.enc, f3, fDst] <;> omega)
  have e1 : (fSa (CallArgs.enc ⟨d, b⟩).1) = b := by
    clear e0; (simp [CallArgs.ok] at h; simp only [CallArgs.enc, f3, fSa] <;> omega)
  simp only [CallArgs.dec, e0, e1]
  exact accept_self h

theorem LoopArgs.dec_enc {o : LoopArgs} (h : o.ok = true) : LoopArgs.dec o.enc.1 o.enc.2 = .ok o := by
  rcases o with ⟨lc, g, b⟩
  have e0 : (fDst (LoopArgs.enc ⟨lc, g, b⟩).1) = lc := by
    (simp [LoopArgs.ok] at h; simp only [LoopArgs.enc, f3, fDst] <;> omega)
  have e1 : (fSa (LoopArgs.enc ⟨lc, g, b⟩).1) = g := by
    clear e0; (simp [LoopArgs.ok] at h; simp only [LoopArgs.enc, f3, fSa] <;> omega)
  have e2 : (fSb (LoopArgs.enc ⟨lc, g, b⟩).1) = b := by
    clear e0 e1; (simp [LoopArgs.ok] at h; simp only [LoopArgs.enc, f3, fSb] <;> omega)
  simp only [LoopArgs.dec, e0, e1, e2]
  exact accept_self h

theorem LdltArgs.dec_enc {o : LdltArgs} (h : o.ok = true) : LdltArgs.dec o.enc.1 o.enc.2 = .ok o := by
  rcases o with ⟨lc, a, v⟩
  have e0 : (fDst (LdltArgs.enc ⟨lc, a, v⟩).1) = lc := by
    cases_type* RegImm <;> (simp [LdltArgs.ok, RegImm.ok] at h; simp only [LdltArgs.enc, f3, fDst, RegImm.field, RegImm.pay] <;> omega)
  have e1 : (fSa (LdltArgs.enc ⟨lc, a, v⟩).1) = a := by
    clear e0; cases_type* RegImm <;> (simp [LdltArgs.ok, RegImm.ok] at h; simp only [LdltArgs.enc, f3, fSa, RegImm.field, RegImm.pay] <;> omega)
  have e2 : (RegImm.dec (fSb (LdltArgs.enc ⟨lc, a, v⟩).1) (LdltArgs.enc ⟨lc, a, v⟩).2) = v := by
    clear e0 e1; cases_type* RegImm <;> (simp [LdltArgs.ok, RegImm.ok] at h; simp [LdltArgs.enc, f3, fSb, RegImm.field, RegImm.pay, RegImm.dec, fDst, fSa, fI, fQd, bit] <;> first | omega | (split <;> first | omega | rfl | (exfalso; omega) | (congr 1; omega) | exact beq_of (by omega)) | rfl)
  simp only [LdltArgs.dec, e0, e1, e2]
  exact accept_self h

theorem LdltClrArgs.dec_enc {o : LdltClrArgs} (h : o.ok = true) : LdltClrArgs.dec o.enc.1 o.enc.2 = .ok o := by
  rcases o with ⟨lc⟩
  have e0 : (fDst (LdltClrArgs.enc ⟨lc⟩).1) = lc := by
    (simp [LdltClrArgs.ok] at h; simp only [LdltClrArgs.enc, f3, fDst] <;> omega)
  simp only [LdltClrArgs.dec, e0]
  exact accept_self h

theorem LbrkArgs.dec_enc {o : LbrkArgs} (h : o.ok = true) : LbrkArgs.dec o.enc.1 o.enc.2 = .ok o := by
  rcases o with ⟨lc⟩
  have e0 : (fDst (LbrkArgs.enc ⟨lc⟩).1) = lc := by
    (simp [LbrkArgs.ok] at h; simp only [LbrkArgs.enc, f3, fDst] <;> omega)
  simp only [LbrkArgs.dec, e0]
  exact accept_self h

theorem NoArgs.dec_enc {o : NoArgs} (h : o.ok = true) : NoArgs.dec o.enc.1 o.enc.2 = .ok o := by
  rcases o with ⟨⟩
  simp only [NoArgs.dec]
  exact accept_self h

theorem LdArgs.dec_enc {o : LdArgs} (h : o.ok = true) : LdArgs.dec o.enc.1 o.enc.2 = .ok o := by
  rcases o with ⟨d, a, sz, z, m, off⟩
  have e0 : (fDst (LdArgs.enc ⟨d, a, sz, z, m, off⟩).1 % 64) = d := by
    have z0 := Bool.toNat_lt z; have z1 := Bool.toNat_lt m; cases_type* Off <;> (simp [LdArgs.ok, Off.ok, areg] at h; simp only [LdArgs.enc, fm, fDst, Off.field, Off.pay] <;> omega)
  have e1 : (memA (LdArgs.enc ⟨d, a, sz, z, m, off⟩).1) = a := by
    clear e0; have z0 := Bool.toNat_lt z; have z1 := Bool.toNat_lt m; cases_type* Off <;> (simp [LdArgs.ok, Off.ok, areg] at h; simp only [LdArgs.enc, fm, memA, Off.field, Off.pay] <;> omega)
  have e2 : (memSz (LdArgs.enc ⟨d, a, sz, z, m, off⟩).1) = sz := by
    clear e0 e1; have z0 := Bool.toNat_lt z; have z1 := Bool.toNat_lt m; cases_type* Off <;> (simp [LdArgs.ok, Off.ok, areg] at h; simp only [LdArgs.enc, fm, memSz, Off.field, Off.pay] <;> omega)
  have e3 : (bit (LdArgs.enc ⟨d, a, sz, z, m, off⟩).1 30) = z := by
    clear e0 e1 e2; have z0 := Bool.toNat_lt z; have z1 := Bool.toNat_lt m; refine bit_of ?_; cases_type* Off <;> (simp [LdArgs.ok, Off.ok, areg] at h; simp only [LdArgs.enc, fm, Off.field, Off.pay, Nat.reducePow] <;> omega)
  have e4 : (bit (LdArgs.enc ⟨d, a, sz, z, m, off⟩).1 18) = m := by
    clear e0 e1 e2 e3; have z0 := Bool.toNat_lt z; have z1 := Bool.toNat_lt m; refine bit_of ?_; cases_type* Off <;> (simp [LdArgs.ok, Off.ok, areg] at h; simp only [LdArgs.enc, fm, Off.field, Off.pay, Nat.reducePow] <;> omega)
  have e5 : (Off.dec (LdArgs.enc ⟨d, a, sz, z, m, off⟩).1 (LdArgs.enc ⟨d, a, sz, z, m, off⟩).2) = off := by
    clear e0 e1 e2 e3 e4; have z0 := Bool.toNat_lt z; have z1 := Bool.toNat_lt m; cases_type* Off <;> (simp [LdArgs.ok, Off.ok, areg] at h; simp [LdArgs.enc, fm, Off.field, Off.pay, Off.dec, fDst, fSa, fSb, fI, fQd, bit] <;> first | omega | (split <;> first | omega | rfl | (exfalso; omega) | (congr 1; omega) | exact beq_of (by omega)) | rfl)
  simp only [LdArgs.dec, e0, e1, e2, e3, e4, e5]
  exact accept_self h

theorem StArgs.dec_enc {o : StArgs} (h : o.ok = true) : StArgs.dec o.enc.1 o.enc.2 = .ok o := by
  rcases o with ⟨g, a, sz, m, off⟩
  have e0 : (fDst (StArgs.enc ⟨g, a, sz, m, off⟩).1) = g := by
    have z0 := Bool.toNat_lt m; cases_type* Off <;> (simp [StArgs.ok, Off.ok, areg] at h; simp only [StArgs.enc, fm, fDst, Off.field, Off.pay] <;> omega)
  have e1 : (memA (StArgs.enc ⟨g, a, sz, m, off⟩).1) = a := by
    clear e0; have z0 := Bool.toNat_lt m; cases_type* Off <;> (simp [StArgs.ok, Off.ok, areg] at h; simp only [StArgs.enc, fm, memA, Off.field, Off.pay] <;> omega)
  have e2 : (memSz (StArgs.enc ⟨g, a, sz, m, off⟩).1) = sz := by
    clear e0 e1; have z0 := Bool.toNat_lt m; cases_type* Off <;> (simp [StArgs.ok, Off.ok, areg] at h; simp only [StArgs.enc, fm, memSz, Off.field, Off.pay] <;> omega)
  have e3 : (bit (StArgs.enc ⟨g, a, sz, m, off⟩).1 18) = m := by
    clear e0 e1 e2; have z0 := Bool.toNat_lt m; refine bit_of ?_; cases_type* Off <;> (simp [StArgs.ok, Off.ok, areg] at h; simp only [StArgs.enc, fm, Off.field, Off.pay, Nat.reducePow] <;> omega)
  have e4 : (Off.dec (StArgs.enc ⟨g, a, sz, m, off⟩).1 (StArgs.enc ⟨g, a, sz, m, off⟩).2) = off := by
    clear e0 e1 e2 e3; have z0 := Bool.toNat_lt m; cases_type* Off <;> (simp [StArgs.ok, Off.ok, areg] at h; simp [StArgs.enc, fm, Off.field, Off.pay, Off.dec, fDst, fSa, fSb, fI, fQd, bit] <;> first | omega | (split <;> first | omega | rfl | (exfalso; omega) | (congr 1; omega) | exact beq_of (by omega)) | rfl)
  simp only [StArgs.dec, e0, e1, e2, e3, e4]
  exact accept_self h

theorem LdaArgs.dec_enc {o : LdaArgs} (h : o.ok = true) : LdaArgs.dec o.enc.1 o.enc.2 = .ok o := by
  rcases o with ⟨d, a, m, off⟩
  have e0 : (fDst (LdaArgs.enc ⟨d, a, m, off⟩).1) = d := by
    have z0 := Bool.toNat_lt m; cases_type* Off <;> (simp [LdaArgs.ok, Off.ok, areg] at h; simp only [LdaArgs.enc, fm, fDst, Off.field, Off.pay] <;> omega)
  have e1 : (memA (LdaArgs.enc ⟨d, a, m, off⟩).1) = a := by
    clear e0; have z0 := Bool.toNat_lt m; cases_type* Off <;> (simp [LdaArgs.ok, Off.ok, areg] at h; simp only [LdaArgs.enc, fm, memA, Off.field, Off.pay] <;> omega)
  have e2 : (bit (LdaArgs.enc ⟨d, a, m, off⟩).1 18) = m := by
    clear e0 e1; have z0 := Bool.toNat_lt m; refine bit_of ?_; cases_type* Off <;> (simp [LdaArgs.ok, Off.ok, areg] at h; simp only [LdaArgs.enc, fm, Off.field, Off.pay, Nat.reducePow] <;> omega)
  have e3 : (Off.dec (LdaArgs.enc ⟨d, a, m, off⟩).1 (LdaArgs.enc ⟨d, a, m, off⟩).2) = off := by
    clear e0 e1 e2; have z0 := Bool.toNat_lt m; cases_type* Off <;> (simp [LdaArgs.ok, Off.ok, areg] at h; simp [LdaArgs.enc, fm, Off.field, Off.pay, Off.dec, fDst, fSa, fSb, fI, fQd, bit] <;> first | omega | (split <;> first | omega | rfl | (exfalso; omega) | (congr 1; omega) | exact beq_of (by omega)) | rfl)
  simp only [LdaArgs.dec, e0, e1, e2, e3]
  exact accept_self h

theorem StaArgs.dec_enc {o : StaArgs} (h : o.ok = true) : StaArgs.dec o.enc.1 o.enc.2 = .ok o := by
  rcases o with ⟨s, a, m, off⟩
  have e0 : (fDst (StaArgs.enc ⟨s, a, m, off⟩).1) = s := by
    have z0 := Bool.toNat_lt m; cases_type* Off <;> (simp [StaArgs.ok, Off.ok, areg] at h; simp only [StaArgs.enc, fm, fDst, Off.field, Off.pay] <;> omega)
  have e1 : (memA (StaArgs.enc ⟨s, a, m, off⟩).1) = a := by
    clear e0; have z0 := Bool.toNat_lt m; cases_type* Off <;> (simp [StaArgs.ok, Off.ok, areg] at h; simp only [StaArgs.enc, fm, memA, Off.field, Off.pay] <;> omega)
  have e2 : (bit (StaArgs.enc ⟨s, a, m, off⟩).1 18) = m := by
    clear e0 e1; have z0 := Bool.toNat_lt m; refine bit_of ?_; cases_type* Off <;> (simp [StaArgs.ok, Off.ok, areg] at h; simp only [StaArgs.enc, fm, Off.field, Off.pay, Nat.reducePow] <;> omega)
  have e3 : (Off.dec (StaArgs.enc ⟨s, a, m, off⟩).1 (StaArgs.enc ⟨s, a, m, off⟩).2) = off := by
    clear e0 e1 e2; have z0 := Bool.toNat_lt m; cases_type* Off <;> (simp [StaArgs.ok, Off.ok, areg] at h; simp [StaArgs.enc, fm, Off.field, Off.pay, Off.dec, fDst, fSa, fSb, fI, fQd, bit] <;> first | omega | (split <;> first | omega | rfl | (exfalso; omega) | (congr 1; omega) | exact beq_of (by omega)) | rfl)
  simp only [StaArgs.dec, e0, e1, e2, e3]
  exact accept_self h

theorem FeLdArgs.dec_enc {o : FeLdArgs} (h : o.ok = true) : FeLdArgs.dec o.enc.1 o.enc.2 = .ok o := by
  rcases o with ⟨d, a, m, off⟩
  have e0 : (fDst (FeLdArgs.enc ⟨d, a, m, off⟩).1) = d := by
    have z0 := Bool.toNat_lt m; cases_type* Off <;> (simp [FeLdArgs.ok, Off.ok, areg] at h; simp only [FeLdArgs.enc, fm, fDst, Off.field, Off.pay] <;> omega)
  have e1 : (memA (FeLdArgs.enc ⟨d, a, m, off⟩).1) = a := by
    clear e0; have z0 := Bool.toNat_lt m; cases_type* Off <;> (simp [FeLdArgs.ok, Off.ok, areg] at h; simp only [FeLdArgs.enc, fm, memA, Off.field, Off.pay] <;> omega)
  have e2 : (bit (FeLdArgs.enc ⟨d, a, m, off⟩).1 18) = m := by
    clear e0 e1; have z0 := Bool.toNat_lt m; refine bit_of ?_; cases_type* Off <;> (simp [FeLdArgs.ok, Off.ok, areg] at h; simp only [FeLdArgs.enc, fm, Off.field, Off.pay, Nat.reducePow] <;> omega)
  have e3 : (Off.dec (FeLdArgs.enc ⟨d, a, m, off⟩).1 (FeLdArgs.enc ⟨d, a, m, off⟩).2) = off := by
    clear e0 e1 e2; have z0 := Bool.toNat_lt m; cases_type* Off <;> (simp [FeLdArgs.ok, Off.ok, areg] at h; simp [FeLdArgs.enc, fm, Off.field, Off.pay, Off.dec, fDst, fSa, fSb, fI, fQd, bit] <;> first | omega | (split <;> first | omega | rfl | (exfalso; omega) | (congr 1; omega) | exact beq_of (by omega)) | rfl)
  simp only [FeLdArgs.dec, e0, e1, e2, e3]
  exact accept_self h

theorem FeStArgs.dec_enc {o : FeStArgs} (h : o.ok = true) : FeStArgs.dec o.enc.1 o.enc.2 = .ok o := by
  rcases o with ⟨g, a, m, off⟩
  have e0 : (fDst (FeStArgs.enc ⟨g, a, m, off⟩).1) = g := by
    have z0 := Bool.toNat_lt m; cases_type* Off <;> (simp [FeStArgs.ok, Off.ok, areg] at h; simp only [FeStArgs.enc, fm, fDst, Off.field, Off.pay] <;> omega)
  have e1 : (memA (FeStArgs.enc ⟨g, a, m, off⟩).1) = a := by
    clear e0; have z0 := Bool.toNat_lt m; cases_type* Off <;> (simp [FeStArgs.ok, Off.ok, areg] at h; simp only [FeStArgs.enc, fm, memA, Off.field, Off.pay] <;> omega)
  have e2 : (bit (FeStArgs.enc ⟨g, a, m, off⟩).1 18) = m := by
    clear e0 e1; have z0 := Bool.toNat_lt m; refine bit_of ?_; cases_type* Off <;> (simp [FeStArgs.ok, Off.ok, areg] at h; simp only [FeStArgs.enc, fm, Off.field, Off.pay, Nat.reducePow] <;> omega)
  have e3 : (Off.dec (FeStArgs.enc ⟨g, a, m, off⟩).1 (FeStArgs.enc ⟨g, a, m, off⟩).2) = off := by
    clear e0 e1 e2; have z0 := Bool.toNat_lt m; cases_type* Off <;> (simp [FeStArgs.ok, Off.ok, areg] at h; simp [FeStArgs.enc, fm, Off.field, Off.pay, Off.dec, fDst, fSa, fSb, fI, fQd, bit] <;> first | omega | (split <;> first | omega | rfl | (exfalso; omega) | (congr 1; omega) | exact beq_of (by omega)) | rfl)
  simp only [FeStArgs.dec, e0, e1, e2, e3]
  exact accept_self h

theorem BarrArgs.dec_enc {o : BarrArgs} (h : o.ok = true) : BarrArgs.dec o.enc.1 o.enc.2 = .ok o := by
  rcases o with ⟨g, a, sp, m, off⟩
  have e0 : (fDst (BarrArgs.enc ⟨g, a, sp, m, off⟩).1 % 64) = g := by
    have z0 := Bool.toNat_lt sp; have z1 := Bool.toNat_lt m; (simp [BarrArgs.ok, areg] at h; simp only [BarrArgs.enc, fm, fDst] <;> omega)
  have e1 : (memA (BarrArgs.enc ⟨g, a, sp, m, off⟩).1) = a := by
    clear e0; have z0 := Bool.toNat_lt sp; have z1 := Bool.toNat_lt m; (simp [BarrArgs.ok, areg] at h; simp only [BarrArgs.enc, fm, memA] <;> omega)
  have e2 : (bit (BarrArgs.enc ⟨g, a, sp, m, off⟩).1 30) = sp := by
    clear e0 e1; have z0 := Bool.toNat_lt sp; have z1 := Bool.toNat_lt m; refine bit_of ?_; (simp [BarrArgs.ok, areg] at h; simp only [BarrArgs.enc, fm, Nat.reducePow] <;> omega)
  have e3 : (bit (BarrArgs.enc ⟨g, a, sp, m, off⟩).1 18) = m := by
    clear e0 e1 e2; have z0 := Bool.toNat_lt sp; have z1 := Bool.toNat_lt m; refine bit_of ?_; (simp [BarrArgs.ok, areg] at h; simp only [BarrArgs.enc, fm, Nat.reducePow] <;> omega)
  have e4 : ((BarrArgs.enc ⟨g, a, sp, m, off⟩).1 % 0x10000) = off := by
    clear e0 e1 e2 e3; have z0 := Bool.toNat_lt sp; have z1 := Bool.toNat_lt m; (simp [BarrArgs.ok, areg] at h; simp only [BarrArgs.enc, fm] <;> omega)
  simp only [BarrArgs.dec, e0, e1, e2, e3, e4]
  exact accept_self h

theorem BwaitArgs.dec_enc {o : BwaitArgs} (h : o.ok = true) : BwaitArgs.dec o.enc.1 o.enc.2 = .ok o := by
  rcases o with ⟨g, a, sp, par, m, off⟩
  have e0 : (fDst (BwaitArgs.enc ⟨g, a, sp, par, m, off⟩).1 % 64) = g := by
    have z0 := Bool.toNat_lt sp; have z1 := Bool.toNat_lt par; have z2 := Bool.toNat_lt m; (simp [BwaitArgs.ok, areg] at h; simp only [BwaitArgs.enc, fm, fDst] <;> omega)
  have e1 : (memA (BwaitArgs.enc ⟨g, a, sp, par, m, off⟩).1) = a := by
    clear e0; have z0 := Bool.toNat_lt sp; have z1 := Bool.toNat_lt par; have z2 := Bool.toNat_lt m; (simp [BwaitArgs.ok, areg] at h; simp only [BwaitArgs.enc, fm, memA] <;> omega)
  have e2 : (bit (BwaitArgs.enc ⟨g, a, sp, par, m, off⟩).1 30) = sp := by
    clear e0 e1; have z0 := Bool.toNat_lt sp; have z1 := Bool.toNat_lt par; have z2 := Bool.toNat_lt m; refine bit_of ?_; (simp [BwaitArgs.ok, areg] at h; simp only [BwaitArgs.enc, fm, Nat.reducePow] <;> omega)
  have e3 : (bit (BwaitArgs.enc ⟨g, a, sp, par, m, off⟩).1 31) = par := by
    clear e0 e1 e2; have z0 := Bool.toNat_lt sp; have z1 := Bool.toNat_lt par; have z2 := Bool.toNat_lt m; refine bit_of ?_; (simp [BwaitArgs.ok, areg] at h; simp only [BwaitArgs.enc, fm, Nat.reducePow] <;> omega)
  have e4 : (bit (BwaitArgs.enc ⟨g, a, sp, par, m, off⟩).1 18) = m := by
    clear e0 e1 e2 e3; have z0 := Bool.toNat_lt sp; have z1 := Bool.toNat_lt par; have z2 := Bool.toNat_lt m; refine bit_of ?_; (simp [BwaitArgs.ok, areg] at h; simp only [BwaitArgs.enc, fm, Nat.reducePow] <;> omega)
  have e5 : ((BwaitArgs.enc ⟨g, a, sp, par, m, off⟩).1 % 0x10000) = off := by
    clear e0 e1 e2 e3 e4; have z0 := Bool.toNat_lt sp; have z1 := Bool.toNat_lt par; have z2 := Bool.toNat_lt m; (simp [BwaitArgs.ok, areg] at h; simp only [BwaitArgs.enc, fm] <;> omega)
  simp only [BwaitArgs.dec, e0, e1, e2, e3, e4, e5]
  exact accept_self h

theorem NotifyArgs.dec_enc {o : NotifyArgs} (h : o.ok = true) : NotifyArgs.dec o.enc.1 o.enc.2 = .ok o := by
  rcases o with ⟨a, g⟩
  have e0 : (fSa (NotifyArgs.enc ⟨a, g⟩).1) = a := by
    (simp [NotifyArgs.ok] at h; simp only [NotifyArgs.enc, f3, fSa] <;> omega)
  have e1 : (fSb (NotifyArgs.enc ⟨a, g⟩).1) = g := by
    clear e0; (simp [NotifyArgs.ok] at h; simp only [NotifyArgs.enc, f3, fSb] <;> omega)
  simp only [NotifyArgs.dec, e0, e1]
  exact accept_self h

theorem WaitnArgs.dec_enc {o : WaitnArgs} (h : o.ok = true) : WaitnArgs.dec o.enc.1 o.enc.2 = .ok o := by
  rcases o with ⟨d, n, g, nb⟩
  have e0 : (fDst (WaitnArgs.enc ⟨d, n, g, nb⟩).1) = d := by
    have z0 := Bool.toNat_lt nb; (simp [WaitnArgs.ok] at h; simp only [WaitnArgs.enc, f3, fDst] <;> omega)
  have e1 : ((WaitnArgs.enc ⟨d, n, g, nb⟩).1 % 16) = n := by
    clear e0; have z0 := Bool.toNat_lt nb; (simp [WaitnArgs.ok] at h; simp only [WaitnArgs.enc, f3] <;> omega)
  have e2 : (fSb (WaitnArgs.enc ⟨d, n, g, nb⟩).1) = g := by
    clear e0 e1; have z0 := Bool.toNat_lt nb; (simp [WaitnArgs.ok] at h; simp only [WaitnArgs.enc, f3, fSb] <;> omega)
  have e3 : (bit (WaitnArgs.enc ⟨d, n, g, nb⟩).1 4) = nb := by
    clear e0 e1 e2; have z0 := Bool.toNat_lt nb; refine bit_of ?_; (simp [WaitnArgs.ok] at h; simp only [WaitnArgs.enc, f3, Nat.reducePow] <;> omega)
  simp only [WaitnArgs.dec, e0, e1, e2, e3]
  exact accept_self h

theorem QstatArgs.dec_enc {o : QstatArgs} (h : o.ok = true) : QstatArgs.dec o.enc.1 o.enc.2 = .ok o := by
  rcases o with ⟨d, q⟩
  have e0 : (fDst (QstatArgs.enc ⟨d, q⟩).1) = d := by
    (simp [QstatArgs.ok] at h; simp only [QstatArgs.enc, f3, fDst] <;> omega)
  have e1 : (fSa (QstatArgs.enc ⟨d, q⟩).1) = q := by
    clear e0; (simp [QstatArgs.ok] at h; simp only [QstatArgs.enc, f3, fSa] <;> omega)
  simp only [QstatArgs.dec, e0, e1]
  exact accept_self h

theorem QclrArgs.dec_enc {o : QclrArgs} (h : o.ok = true) : QclrArgs.dec o.enc.1 o.enc.2 = .ok o := by
  rcases o with ⟨q⟩
  have e0 : (fSa (QclrArgs.enc ⟨q⟩).1) = q := by
    (simp [QclrArgs.ok] at h; simp only [QclrArgs.enc, f3, fSa] <;> omega)
  simp only [QclrArgs.dec, e0]
  exact accept_self h

theorem QstArgs.dec_enc {o : QstArgs} (h : o.ok = true) : QstArgs.dec o.enc.1 o.enc.2 = .ok o := by
  rcases o with ⟨k, q⟩
  have e0 : (fDst (QstArgs.enc ⟨k, q⟩).1) = k := by
    (simp [QstArgs.ok] at h; simp only [QstArgs.enc, f3, fDst] <;> omega)
  have e1 : (fSa (QstArgs.enc ⟨k, q⟩).1) = q := by
    clear e0; (simp [QstArgs.ok] at h; simp only [QstArgs.enc, f3, fSa] <;> omega)
  simp only [QstArgs.dec, e0, e1]
  exact accept_self h

theorem LdqArgs.dec_enc {o : LdqArgs} (h : o.ok = true) : LdqArgs.dec o.enc.1 o.enc.2 = .ok o := by
  rcases o with ⟨q, a, sz, z, s, m, off⟩
  have e0 : (fDst (LdqArgs.enc ⟨q, a, sz, z, s, m, off⟩).1 % 64) = q := by
    have z0 := Bool.toNat_lt z; have z1 := Bool.toNat_lt s; have z2 := Bool.toNat_lt m; cases_type* Off <;> (simp [LdqArgs.ok, Off.ok, areg] at h; simp only [LdqArgs.enc, fm, fDst, Off.field, Off.pay] <;> omega)
  have e1 : (memA (LdqArgs.enc ⟨q, a, sz, z, s, m, off⟩).1) = a := by
    clear e0; have z0 := Bool.toNat_lt z; have z1 := Bool.toNat_lt s; have z2 := Bool.toNat_lt m; cases_type* Off <;> (simp [LdqArgs.ok, Off.ok, areg] at h; simp only [LdqArgs.enc, fm, memA, Off.field, Off.pay] <;> omega)
  have e2 : (memSz (LdqArgs.enc ⟨q, a, sz, z, s, m, off⟩).1) = sz := by
    clear e0 e1; have z0 := Bool.toNat_lt z; have z1 := Bool.toNat_lt s; have z2 := Bool.toNat_lt m; cases_type* Off <;> (simp [LdqArgs.ok, Off.ok, areg] at h; simp only [LdqArgs.enc, fm, memSz, Off.field, Off.pay] <;> omega)
  have e3 : (bit (LdqArgs.enc ⟨q, a, sz, z, s, m, off⟩).1 30) = z := by
    clear e0 e1 e2; have z0 := Bool.toNat_lt z; have z1 := Bool.toNat_lt s; have z2 := Bool.toNat_lt m; refine bit_of ?_; cases_type* Off <;> (simp [LdqArgs.ok, Off.ok, areg] at h; simp only [LdqArgs.enc, fm, Off.field, Off.pay, Nat.reducePow] <;> omega)
  have e4 : (bit (LdqArgs.enc ⟨q, a, sz, z, s, m, off⟩).1 31) = s := by
    clear e0 e1 e2 e3; have z0 := Bool.toNat_lt z; have z1 := Bool.toNat_lt s; have z2 := Bool.toNat_lt m; refine bit_of ?_; cases_type* Off <;> (simp [LdqArgs.ok, Off.ok, areg] at h; simp only [LdqArgs.enc, fm, Off.field, Off.pay, Nat.reducePow] <;> omega)
  have e5 : (bit (LdqArgs.enc ⟨q, a, sz, z, s, m, off⟩).1 18) = m := by
    clear e0 e1 e2 e3 e4; have z0 := Bool.toNat_lt z; have z1 := Bool.toNat_lt s; have z2 := Bool.toNat_lt m; refine bit_of ?_; cases_type* Off <;> (simp [LdqArgs.ok, Off.ok, areg] at h; simp only [LdqArgs.enc, fm, Off.field, Off.pay, Nat.reducePow] <;> omega)
  have e6 : (Off.dec (LdqArgs.enc ⟨q, a, sz, z, s, m, off⟩).1 (LdqArgs.enc ⟨q, a, sz, z, s, m, off⟩).2) = off := by
    clear e0 e1 e2 e3 e4 e5; have z0 := Bool.toNat_lt z; have z1 := Bool.toNat_lt s; have z2 := Bool.toNat_lt m; cases_type* Off <;> (simp [LdqArgs.ok, Off.ok, areg] at h; simp [LdqArgs.enc, fm, Off.field, Off.pay, Off.dec, fDst, fSa, fSb, fI, fQd, bit] <;> first | omega | (split <;> first | omega | rfl | (exfalso; omega) | (congr 1; omega) | exact beq_of (by omega)) | rfl)
  simp only [LdqArgs.dec, e0, e1, e2, e3, e4, e5, e6]
  exact accept_self h

theorem LdqsArgs.dec_enc {o : LdqsArgs} (h : o.ok = true) : LdqsArgs.dec o.enc.1 o.enc.2 = .ok o := by
  rcases o with ⟨q, a, km, s, stride⟩
  have e0 : (fDst (LdqsArgs.enc ⟨q, a, km, s, stride⟩).1 % 64) = q := by
    have z0 := Bool.toNat_lt s; cases_type* Stride <;> (simp [LdqsArgs.ok, Stride.ok] at h; simp only [LdqsArgs.enc, fm, fDst, Stride.field, Stride.pay] <;> omega)
  have e1 : (memA (LdqsArgs.enc ⟨q, a, km, s, stride⟩).1) = a := by
    clear e0; have z0 := Bool.toNat_lt s; cases_type* Stride <;> (simp [LdqsArgs.ok, Stride.ok] at h; simp only [LdqsArgs.enc, fm, memA, Stride.field, Stride.pay] <;> omega)
  have e2 : ((LdqsArgs.enc ⟨q, a, km, s, stride⟩).1 / 0x2000 % 8) = km := by
    clear e0 e1; have z0 := Bool.toNat_lt s; cases_type* Stride <;> (simp [LdqsArgs.ok, Stride.ok] at h; simp only [LdqsArgs.enc, fm, Stride.field, Stride.pay] <;> omega)
  have e3 : (bit (LdqsArgs.enc ⟨q, a, km, s, stride⟩).1 31) = s := by
    clear e0 e1 e2; have z0 := Bool.toNat_lt s; refine bit_of ?_; cases_type* Stride <;> (simp [LdqsArgs.ok, Stride.ok] at h; simp only [LdqsArgs.enc, fm, Stride.field, Stride.pay, Nat.reducePow] <;> omega)
  have e4 : (Stride.dec (LdqsArgs.enc ⟨q, a, km, s, stride⟩).1 (LdqsArgs.enc ⟨q, a, km, s, stride⟩).2) = stride := by
    clear e0 e1 e2 e3; have z0 := Bool.toNat_lt s; cases_type* Stride <;> (simp [LdqsArgs.ok, Stride.ok] at h; simp [LdqsArgs.enc, fm, Stride.field, Stride.pay, Stride.dec, fDst, fSa, fSb, fI, fQd, bit] <;> first | omega | (split <;> first | omega | rfl | (exfalso; omega) | (congr 1; omega) | exact beq_of (by omega)) | rfl)
  simp only [LdqsArgs.dec, e0, e1, e2, e3, e4]
  exact accept_self h

theorem LdqxArgs.dec_enc {o : LdqxArgs} (h : o.ok = true) : LdqxArgs.dec o.enc.1 o.enc.2 = .ok o := by
  rcases o with ⟨q, a, vi, sh, km, z, s⟩
  have e0 : (fDst (LdqxArgs.enc ⟨q, a, vi, sh, km, z, s⟩).1 % 64) = q := by
    have z0 := Bool.toNat_lt z; have z1 := Bool.toNat_lt s; (simp [LdqxArgs.ok] at h; simp only [LdqxArgs.enc, fm, fDst] <;> omega)
  have e1 : (memA (LdqxArgs.enc ⟨q, a, vi, sh, km, z, s⟩).1) = a := by
    clear e0; have z0 := Bool.toNat_lt z; have z1 := Bool.toNat_lt s; (simp [LdqxArgs.ok] at h; simp only [LdqxArgs.enc, fm, memA] <;> omega)
  have e2 : ((LdqxArgs.enc ⟨q, a, vi, sh, km, z, s⟩).1 % 256) = vi := by
    clear e0 e1; have z0 := Bool.toNat_lt z; have z1 := Bool.toNat_lt s; (simp [LdqxArgs.ok] at h; simp only [LdqxArgs.enc, fm] <;> omega)
  have e3 : ((LdqxArgs.enc ⟨q, a, vi, sh, km, z, s⟩).1 / 0x800 % 4) = sh := by
    clear e0 e1 e2; have z0 := Bool.toNat_lt z; have z1 := Bool.toNat_lt s; (simp [LdqxArgs.ok] at h; simp only [LdqxArgs.enc, fm] <;> omega)
  have e4 : ((LdqxArgs.enc ⟨q, a, vi, sh, km, z, s⟩).1 / 0x2000 % 8) = km := by
    clear e0 e1 e2 e3; have z0 := Bool.toNat_lt z; have z1 := Bool.toNat_lt s; (simp [LdqxArgs.ok] at h; simp only [LdqxArgs.enc, fm] <;> omega)
  have e5 : (bit (LdqxArgs.enc ⟨q, a, vi, sh, km, z, s⟩).1 10) = z := by
    clear e0 e1 e2 e3 e4; have z0 := Bool.toNat_lt z; have z1 := Bool.toNat_lt s; refine bit_of ?_; (simp [LdqxArgs.ok] at h; simp only [LdqxArgs.enc, fm, Nat.reducePow] <;> omega)
  have e6 : (bit (LdqxArgs.enc ⟨q, a, vi, sh, km, z, s⟩).1 31) = s := by
    clear e0 e1 e2 e3 e4 e5; have z0 := Bool.toNat_lt z; have z1 := Bool.toNat_lt s; refine bit_of ?_; (simp [LdqxArgs.ok] at h; simp only [LdqxArgs.enc, fm, Nat.reducePow] <;> omega)
  simp only [LdqxArgs.dec, e0, e1, e2, e3, e4, e5, e6]
  exact accept_self h

theorem StfsArgs.dec_enc {o : StfsArgs} (h : o.ok = true) : StfsArgs.dec o.enc.1 o.enc.2 = .ok o := by
  rcases o with ⟨v, a, km, stride⟩
  have e0 : (fDst (StfsArgs.enc ⟨v, a, km, stride⟩).1) = v := by
    cases_type* Stride <;> (simp [StfsArgs.ok, Stride.ok] at h; simp only [StfsArgs.enc, fm, fDst, Stride.field, Stride.pay] <;> omega)
  have e1 : (memA (StfsArgs.enc ⟨v, a, km, stride⟩).1) = a := by
    clear e0; cases_type* Stride <;> (simp [StfsArgs.ok, Stride.ok] at h; simp only [StfsArgs.enc, fm, memA, Stride.field, Stride.pay] <;> omega)
  have e2 : ((StfsArgs.enc ⟨v, a, km, stride⟩).1 / 0x2000 % 8) = km := by
    clear e0 e1; cases_type* Stride <;> (simp [StfsArgs.ok, Stride.ok] at h; simp only [StfsArgs.enc, fm, Stride.field, Stride.pay] <;> omega)
  have e3 : (Stride.dec (StfsArgs.enc ⟨v, a, km, stride⟩).1 (StfsArgs.enc ⟨v, a, km, stride⟩).2) = stride := by
    clear e0 e1 e2; cases_type* Stride <;> (simp [StfsArgs.ok, Stride.ok] at h; simp [StfsArgs.enc, fm, Stride.field, Stride.pay, Stride.dec, fDst, fSa, fSb, fI, fQd, bit] <;> first | omega | (split <;> first | omega | rfl | (exfalso; omega) | (congr 1; omega) | exact beq_of (by omega)) | rfl)
  simp only [StfsArgs.dec, e0, e1, e2, e3]
  exact accept_self h

theorem StfxArgs.dec_enc {o : StfxArgs} (h : o.ok = true) : StfxArgs.dec o.enc.1 o.enc.2 = .ok o := by
  rcases o with ⟨v, a, vi, sh, km, z⟩
  have e0 : (fDst (StfxArgs.enc ⟨v, a, vi, sh, km, z⟩).1) = v := by
    have z0 := Bool.toNat_lt z; (simp [StfxArgs.ok] at h; simp only [StfxArgs.enc, fm, fDst] <;> omega)
  have e1 : (memA (StfxArgs.enc ⟨v, a, vi, sh, km, z⟩).1) = a := by
    clear e0; have z0 := Bool.toNat_lt z; (simp [StfxArgs.ok] at h; simp only [StfxArgs.enc, fm, memA] <;> omega)
  have e2 : ((StfxArgs.enc ⟨v, a, vi, sh, km, z⟩).1 % 256) = vi := by
    clear e0 e1; have z0 := Bool.toNat_lt z; (simp [StfxArgs.ok] at h; simp only [StfxArgs.enc, fm] <;> omega)
  have e3 : ((StfxArgs.enc ⟨v, a, vi, sh, km, z⟩).1 / 0x800 % 4) = sh := by
    clear e0 e1 e2; have z0 := Bool.toNat_lt z; (simp [StfxArgs.ok] at h; simp only [StfxArgs.enc, fm] <;> omega)
  have e4 : ((StfxArgs.enc ⟨v, a, vi, sh, km, z⟩).1 / 0x2000 % 8) = km := by
    clear e0 e1 e2 e3; have z0 := Bool.toNat_lt z; (simp [StfxArgs.ok] at h; simp only [StfxArgs.enc, fm] <;> omega)
  have e5 : (bit (StfxArgs.enc ⟨v, a, vi, sh, km, z⟩).1 10) = z := by
    clear e0 e1 e2 e3 e4; have z0 := Bool.toNat_lt z; refine bit_of ?_; (simp [StfxArgs.ok] at h; simp only [StfxArgs.enc, fm, Nat.reducePow] <;> omega)
  simp only [StfxArgs.dec, e0, e1, e2, e3, e4, e5]
  exact accept_self h

theorem PrefArgs.dec_enc {o : PrefArgs} (h : o.ok = true) : PrefArgs.dec o.enc.1 o.enc.2 = .ok o := by
  rcases o with ⟨a, l2, off⟩
  have e0 : (memA (PrefArgs.enc ⟨a, l2, off⟩).1) = a := by
    have z0 := Bool.toNat_lt l2; (simp [PrefArgs.ok] at h; simp only [PrefArgs.enc, fm, memA] <;> omega)
  have e1 : (bit (PrefArgs.enc ⟨a, l2, off⟩).1 30) = l2 := by
    clear e0; have z0 := Bool.toNat_lt l2; refine bit_of ?_; (simp [PrefArgs.ok] at h; simp only [PrefArgs.enc, fm, Nat.reducePow] <;> omega)
  have e2 : ((PrefArgs.enc ⟨a, l2, off⟩).1 % 0x10000) = off := by
    clear e0 e1; have z0 := Bool.toNat_lt l2; (simp [PrefArgs.ok] at h; simp only [PrefArgs.enc, fm] <;> omega)
  simp only [PrefArgs.dec, e0, e1, e2]
  exact accept_self h

theorem CwbArgs.dec_enc {o : CwbArgs} (h : o.ok = true) : CwbArgs.dec o.enc.1 o.enc.2 = .ok o := by
  rcases o with ⟨g, a, off⟩
  have e0 : (fDst (CwbArgs.enc ⟨g, a, off⟩).1) = g := by
    (simp [CwbArgs.ok] at h; simp only [CwbArgs.enc, fm, fDst] <;> omega)
  have e1 : (memA (CwbArgs.enc ⟨g, a, off⟩).1) = a := by
    clear e0; (simp [CwbArgs.ok] at h; simp only [CwbArgs.enc, fm, memA] <;> omega)
  have e2 : ((CwbArgs.enc ⟨g, a, off⟩).1 % 0x10000) = off := by
    clear e0 e1; (simp [CwbArgs.ok] at h; simp only [CwbArgs.enc, fm] <;> omega)
  simp only [CwbArgs.dec, e0, e1, e2]
  exact accept_self h

theorem AmoArgs.dec_enc {o : AmoArgs} (h : o.ok = true) : AmoArgs.dec o.enc.1 o.enc.2 = .ok o := by
  rcases o with ⟨q, a, g, nr, sp, scope, ord, op⟩
  have e0 : (fFn (AmoArgs.enc ⟨q, a, g, nr, sp, scope, ord, op⟩).1 / 32) = scope.code := by
    have l0 := Scope.code_lt scope; have l1 := MemOrder.code_lt ord; have l2 := AmoOp.code_lt op; have z0 := Bool.toNat_lt nr; have z1 := Bool.toNat_lt sp; (simp [AmoArgs.ok] at h; simp only [AmoArgs.enc, f3, fFn] <;> omega)
  have e1 : (fFn (AmoArgs.enc ⟨q, a, g, nr, sp, scope, ord, op⟩).1 / 8 % 4) = ord.code := by
    clear e0; have l0 := Scope.code_lt scope; have l1 := MemOrder.code_lt ord; have l2 := AmoOp.code_lt op; have z0 := Bool.toNat_lt nr; have z1 := Bool.toNat_lt sp; (simp [AmoArgs.ok] at h; simp only [AmoArgs.enc, f3, fFn] <;> omega)
  have e2 : ((AmoArgs.enc ⟨q, a, g, nr, sp, scope, ord, op⟩).1 % 8) = op.code := by
    clear e0 e1; have l0 := Scope.code_lt scope; have l1 := MemOrder.code_lt ord; have l2 := AmoOp.code_lt op; have z0 := Bool.toNat_lt nr; have z1 := Bool.toNat_lt sp; (simp [AmoArgs.ok] at h; simp only [AmoArgs.enc, f3] <;> omega)
  have e3 : (fDst (AmoArgs.enc ⟨q, a, g, nr, sp, scope, ord, op⟩).1 % 64) = q := by
    clear e0 e1 e2; have l0 := Scope.code_lt scope; have l1 := MemOrder.code_lt ord; have l2 := AmoOp.code_lt op; have z0 := Bool.toNat_lt nr; have z1 := Bool.toNat_lt sp; (simp [AmoArgs.ok] at h; simp only [AmoArgs.enc, f3, fDst] <;> omega)
  have e4 : (fSa (AmoArgs.enc ⟨q, a, g, nr, sp, scope, ord, op⟩).1 % 64) = a := by
    clear e0 e1 e2 e3; have l0 := Scope.code_lt scope; have l1 := MemOrder.code_lt ord; have l2 := AmoOp.code_lt op; have z0 := Bool.toNat_lt nr; have z1 := Bool.toNat_lt sp; (simp [AmoArgs.ok] at h; simp only [AmoArgs.enc, f3, fSa] <;> omega)
  have e5 : (fSb (AmoArgs.enc ⟨q, a, g, nr, sp, scope, ord, op⟩).1) = g := by
    clear e0 e1 e2 e3 e4; have l0 := Scope.code_lt scope; have l1 := MemOrder.code_lt ord; have l2 := AmoOp.code_lt op; have z0 := Bool.toNat_lt nr; have z1 := Bool.toNat_lt sp; (simp [AmoArgs.ok] at h; simp only [AmoArgs.enc, f3, fSb] <;> omega)
  have e6 : (bit (AmoArgs.enc ⟨q, a, g, nr, sp, scope, ord, op⟩).1 30) = nr := by
    clear e0 e1 e2 e3 e4 e5; have l0 := Scope.code_lt scope; have l1 := MemOrder.code_lt ord; have l2 := AmoOp.code_lt op; have z0 := Bool.toNat_lt nr; have z1 := Bool.toNat_lt sp; refine bit_of ?_; (simp [AmoArgs.ok] at h; simp only [AmoArgs.enc, f3, Nat.reducePow] <;> omega)
  have e7 : (bit (AmoArgs.enc ⟨q, a, g, nr, sp, scope, ord, op⟩).1 22) = sp := by
    clear e0 e1 e2 e3 e4 e5 e6; have l0 := Scope.code_lt scope; have l1 := MemOrder.code_lt ord; have l2 := AmoOp.code_lt op; have z0 := Bool.toNat_lt nr; have z1 := Bool.toNat_lt sp; refine bit_of ?_; (simp [AmoArgs.ok] at h; simp only [AmoArgs.enc, f3, Nat.reducePow] <;> omega)
  simp only [AmoArgs.dec, operand_some, e0, e1, e2, e3, e4, e5, e6, e7, Scope.ofCode_code, MemOrder.ofCode_code, AmoOp.ofCode_code]
  exact accept_self h

theorem AcasArgs.dec_enc {o : AcasArgs} (h : o.ok = true) : AcasArgs.dec o.enc.1 o.enc.2 = .ok o := by
  rcases o with ⟨q, a, g, sp, scope, ord, ford⟩
  have e0 : (fFn (AcasArgs.enc ⟨q, a, g, sp, scope, ord, ford⟩).1 / 32) = scope.code := by
    have l0 := Scope.code_lt scope; have l1 := MemOrder.code_lt ord; have l2 := MemOrder.code_lt ford; have z0 := Bool.toNat_lt sp; (simp [AcasArgs.ok] at h; simp only [AcasArgs.enc, f3, fFn] <;> omega)
  have e1 : (fFn (AcasArgs.enc ⟨q, a, g, sp, scope, ord, ford⟩).1 / 8 % 4) = ord.code := by
    clear e0; have l0 := Scope.code_lt scope; have l1 := MemOrder.code_lt ord; have l2 := MemOrder.code_lt ford; have z0 := Bool.toNat_lt sp; (simp [AcasArgs.ok] at h; simp only [AcasArgs.enc, f3, fFn] <;> omega)
  have e2 : ((AcasArgs.enc ⟨q, a, g, sp, scope, ord, ford⟩).1 / 2 % 4) = ford.code := by
    clear e0 e1; have l0 := Scope.code_lt scope; have l1 := MemOrder.code_lt ord; have l2 := MemOrder.code_lt ford; have z0 := Bool.toNat_lt sp; (simp [AcasArgs.ok] at h; simp only [AcasArgs.enc, f3] <;> omega)
  have e3 : (fDst (AcasArgs.enc ⟨q, a, g, sp, scope, ord, ford⟩).1) = q := by
    clear e0 e1 e2; have l0 := Scope.code_lt scope; have l1 := MemOrder.code_lt ord; have l2 := MemOrder.code_lt ford; have z0 := Bool.toNat_lt sp; (simp [AcasArgs.ok] at h; simp only [AcasArgs.enc, f3, fDst] <;> omega)
  have e4 : (fSa (AcasArgs.enc ⟨q, a, g, sp, scope, ord, ford⟩).1 % 64) = a := by
    clear e0 e1 e2 e3; have l0 := Scope.code_lt scope; have l1 := MemOrder.code_lt ord; have l2 := MemOrder.code_lt ford; have z0 := Bool.toNat_lt sp; (simp [AcasArgs.ok] at h; simp only [AcasArgs.enc, f3, fSa] <;> omega)
  have e5 : (fSb (AcasArgs.enc ⟨q, a, g, sp, scope, ord, ford⟩).1) = g := by
    clear e0 e1 e2 e3 e4; have l0 := Scope.code_lt scope; have l1 := MemOrder.code_lt ord; have l2 := MemOrder.code_lt ford; have z0 := Bool.toNat_lt sp; (simp [AcasArgs.ok] at h; simp only [AcasArgs.enc, f3, fSb] <;> omega)
  have e6 : (bit (AcasArgs.enc ⟨q, a, g, sp, scope, ord, ford⟩).1 22) = sp := by
    clear e0 e1 e2 e3 e4 e5; have l0 := Scope.code_lt scope; have l1 := MemOrder.code_lt ord; have l2 := MemOrder.code_lt ford; have z0 := Bool.toNat_lt sp; refine bit_of ?_; (simp [AcasArgs.ok] at h; simp only [AcasArgs.enc, f3, Nat.reducePow] <;> omega)
  simp only [AcasArgs.dec, operand_some, e0, e1, e2, e3, e4, e5, e6, Scope.ofCode_code, MemOrder.ofCode_code, MemOrder.ofCode_code]
  exact accept_self h

theorem VamoArgs.dec_enc {o : VamoArgs} (h : o.ok = true) : VamoArgs.dec o.enc.1 o.enc.2 = .ok o := by
  rcases o with ⟨q, a, v, nr, sp, scope, ord, op⟩
  have e0 : (fFn (VamoArgs.enc ⟨q, a, v, nr, sp, scope, ord, op⟩).1 / 32) = scope.code := by
    have l0 := Scope.code_lt scope; have l1 := MemOrder.code_lt ord; have l2 := VamoOp.code_lt op; have z0 := Bool.toNat_lt nr; have z1 := Bool.toNat_lt sp; (simp [VamoArgs.ok] at h; simp only [VamoArgs.enc, f3, fFn] <;> omega)
  have e1 : (fFn (VamoArgs.enc ⟨q, a, v, nr, sp, scope, ord, op⟩).1 / 8 % 4) = ord.code := by
    clear e0; have l0 := Scope.code_lt scope; have l1 := MemOrder.code_lt ord; have l2 := VamoOp.code_lt op; have z0 := Bool.toNat_lt nr; have z1 := Bool.toNat_lt sp; (simp [VamoArgs.ok] at h; simp only [VamoArgs.enc, f3, fFn] <;> omega)
  have e2 : ((VamoArgs.enc ⟨q, a, v, nr, sp, scope, ord, op⟩).1 % 8) = op.code := by
    clear e0 e1; have l0 := Scope.code_lt scope; have l1 := MemOrder.code_lt ord; have l2 := VamoOp.code_lt op; have z0 := Bool.toNat_lt nr; have z1 := Bool.toNat_lt sp; (simp [VamoArgs.ok] at h; simp only [VamoArgs.enc, f3] <;> omega)
  have e3 : (fDst (VamoArgs.enc ⟨q, a, v, nr, sp, scope, ord, op⟩).1 % 64) = q := by
    clear e0 e1 e2; have l0 := Scope.code_lt scope; have l1 := MemOrder.code_lt ord; have l2 := VamoOp.code_lt op; have z0 := Bool.toNat_lt nr; have z1 := Bool.toNat_lt sp; (simp [VamoArgs.ok] at h; simp only [VamoArgs.enc, f3, fDst] <;> omega)
  have e4 : (fSa (VamoArgs.enc ⟨q, a, v, nr, sp, scope, ord, op⟩).1 % 64) = a := by
    clear e0 e1 e2 e3; have l0 := Scope.code_lt scope; have l1 := MemOrder.code_lt ord; have l2 := VamoOp.code_lt op; have z0 := Bool.toNat_lt nr; have z1 := Bool.toNat_lt sp; (simp [VamoArgs.ok] at h; simp only [VamoArgs.enc, f3, fSa] <;> omega)
  have e5 : (fSb (VamoArgs.enc ⟨q, a, v, nr, sp, scope, ord, op⟩).1) = v := by
    clear e0 e1 e2 e3 e4; have l0 := Scope.code_lt scope; have l1 := MemOrder.code_lt ord; have l2 := VamoOp.code_lt op; have z0 := Bool.toNat_lt nr; have z1 := Bool.toNat_lt sp; (simp [VamoArgs.ok] at h; simp only [VamoArgs.enc, f3, fSb] <;> omega)
  have e6 : (bit (VamoArgs.enc ⟨q, a, v, nr, sp, scope, ord, op⟩).1 30) = nr := by
    clear e0 e1 e2 e3 e4 e5; have l0 := Scope.code_lt scope; have l1 := MemOrder.code_lt ord; have l2 := VamoOp.code_lt op; have z0 := Bool.toNat_lt nr; have z1 := Bool.toNat_lt sp; refine bit_of ?_; (simp [VamoArgs.ok] at h; simp only [VamoArgs.enc, f3, Nat.reducePow] <;> omega)
  have e7 : (bit (VamoArgs.enc ⟨q, a, v, nr, sp, scope, ord, op⟩).1 22) = sp := by
    clear e0 e1 e2 e3 e4 e5 e6; have l0 := Scope.code_lt scope; have l1 := MemOrder.code_lt ord; have l2 := VamoOp.code_lt op; have z0 := Bool.toNat_lt nr; have z1 := Bool.toNat_lt sp; refine bit_of ?_; (simp [VamoArgs.ok] at h; simp only [VamoArgs.enc, f3, Nat.reducePow] <;> omega)
  simp only [VamoArgs.dec, operand_some, e0, e1, e2, e3, e4, e5, e6, e7, Scope.ofCode_code, MemOrder.ofCode_code, VamoOp.ofCode_code]
  exact accept_self h

theorem FenceArgs.dec_enc {o : FenceArgs} (h : o.ok = true) : FenceArgs.dec o.enc.1 o.enc.2 = .ok o := by
  rcases o with ⟨scope⟩
  have e0 : (fFn (FenceArgs.enc ⟨scope⟩).1 / 32) = scope.code := by
    have l0 := Scope.code_lt scope; (simp [FenceArgs.ok] at h; simp only [FenceArgs.enc, f3, fFn] <;> omega)
  simp only [FenceArgs.dec, operand_some, e0, Scope.ofCode_code]
  exact accept_self h

theorem XferArgs.dec_enc {o : XferArgs} (h : o.ok = true) : XferArgs.dec o.enc.1 o.enc.2 = .ok o := by
  rcases o with ⟨a, g⟩
  have e0 : (fSa (XferArgs.enc ⟨a, g⟩).1) = a := by
    (simp [XferArgs.ok] at h; simp only [XferArgs.enc, f3, fSa] <;> omega)
  have e1 : (fSb (XferArgs.enc ⟨a, g⟩).1) = g := by
    clear e0; (simp [XferArgs.ok] at h; simp only [XferArgs.enc, f3, fSb] <;> omega)
  simp only [XferArgs.dec, e0, e1]
  exact accept_self h

theorem RclaimArgs.dec_enc {o : RclaimArgs} (h : o.ok = true) : RclaimArgs.dec o.enc.1 o.enc.2 = .ok o := by
  rcases o with ⟨p, a⟩
  have e0 : (fDst (RclaimArgs.enc ⟨p, a⟩).1) = p := by
    (simp [RclaimArgs.ok] at h; simp only [RclaimArgs.enc, f3, fDst] <;> omega)
  have e1 : (fSa (RclaimArgs.enc ⟨p, a⟩).1) = a := by
    clear e0; (simp [RclaimArgs.ok] at h; simp only [RclaimArgs.enc, f3, fSa] <;> omega)
  simp only [RclaimArgs.dec, e0, e1]
  exact accept_self h

theorem RshareArgs.dec_enc {o : RshareArgs} (h : o.ok = true) : RshareArgs.dec o.enc.1 o.enc.2 = .ok o := by
  rcases o with ⟨a⟩
  have e0 : (fSa (RshareArgs.enc ⟨a⟩).1) = a := by
    (simp [RshareArgs.ok] at h; simp only [RshareArgs.enc, f3, fSa] <;> omega)
  simp only [RshareArgs.dec, e0]
  exact accept_self h

theorem VIntArgs.dec_enc {o : VIntArgs} (h : o.ok = true) : VIntArgs.dec o.enc.1 o.enc.2 = .ok o := by
  rcases o with ⟨d, a, b, km, mz, w_⟩
  have e0 : ((VIntArgs.enc ⟨d, a, b, km, mz, w_⟩).1 % 4) = w_.code := by
    have l0 := VWidth.code_lt w_; have z0 := Bool.toNat_lt mz; cases_type* VSrc <;> (simp [VIntArgs.ok, VSrc.ok] at h; simp only [VIntArgs.enc, f3, VSrc.field, VSrc.sc, VSrc.pay] <;> omega)
  have e1 : (fDst (VIntArgs.enc ⟨d, a, b, km, mz, w_⟩).1) = d := by
    clear e0; have l0 := VWidth.code_lt w_; have z0 := Bool.toNat_lt mz; cases_type* VSrc <;> (simp [VIntArgs.ok, VSrc.ok] at h; simp only [VIntArgs.enc, f3, fDst, VSrc.field, VSrc.sc, VSrc.pay] <;> omega)
  have e2 : (fSa (VIntArgs.enc ⟨d, a, b, km, mz, w_⟩).1) = a := by
    clear e0 e1; have l0 := VWidth.code_lt w_; have z0 := Bool.toNat_lt mz; cases_type* VSrc <;> (simp [VIntArgs.ok, VSrc.ok] at h; simp only [VIntArgs.enc, f3, fSa, VSrc.field, VSrc.sc, VSrc.pay] <;> omega)
  have e3 : (VSrc.dec (VIntArgs.enc ⟨d, a, b, km, mz, w_⟩).1 (VIntArgs.enc ⟨d, a, b, km, mz, w_⟩).2) = b := by
    clear e0 e1 e2; have l0 := VWidth.code_lt w_; have z0 := Bool.toNat_lt mz; cases_type* VSrc <;> (simp [VIntArgs.ok, VSrc.ok] at h; simp [VIntArgs.enc, f3, VSrc.field, VSrc.sc, VSrc.pay, VSrc.dec, fDst, fSa, fSb, fI, fQd, bit] <;> first | omega | (split <;> first | omega | rfl | (exfalso; omega) | (congr 1; omega) | exact beq_of (by omega)) | rfl)
  have e4 : (fFn (VIntArgs.enc ⟨d, a, b, km, mz, w_⟩).1 / 32) = km := by
    clear e0 e1 e2 e3; have l0 := VWidth.code_lt w_; have z0 := Bool.toNat_lt mz; cases_type* VSrc <;> (simp [VIntArgs.ok, VSrc.ok] at h; simp only [VIntArgs.enc, f3, fFn, VSrc.field, VSrc.sc, VSrc.pay] <;> omega)
  have e5 : (bit (VIntArgs.enc ⟨d, a, b, km, mz, w_⟩).1 4) = mz := by
    clear e0 e1 e2 e3 e4; have l0 := VWidth.code_lt w_; have z0 := Bool.toNat_lt mz; refine bit_of ?_; cases_type* VSrc <;> (simp [VIntArgs.ok, VSrc.ok] at h; simp only [VIntArgs.enc, f3, VSrc.field, VSrc.sc, VSrc.pay, Nat.reducePow] <;> omega)
  simp only [VIntArgs.dec, operand_some, e0, e1, e2, e3, e4, e5, VWidth.ofCode_code]
  exact accept_self h

theorem VMadArgs.dec_enc {o : VMadArgs} (h : o.ok = true) : VMadArgs.dec o.enc.1 o.enc.2 = .ok o := by
  rcases o with ⟨d, a, b, km, mz, w_⟩
  have e0 : ((VMadArgs.enc ⟨d, a, b, km, mz, w_⟩).1 % 4) = w_.code := by
    have l0 := VWidth.code_lt w_; have z0 := Bool.toNat_lt mz; cases_type* VSrc <;> (simp [VMadArgs.ok, VSrc.ok] at h; simp only [VMadArgs.enc, f3, VSrc.field, VSrc.sc, VSrc.pay] <;> omega)
  have e1 : (fDst (VMadArgs.enc ⟨d, a, b, km, mz, w_⟩).1) = d := by
    clear e0; have l0 := VWidth.code_lt w_; have z0 := Bool.toNat_lt mz; cases_type* VSrc <;> (simp [VMadArgs.ok, VSrc.ok] at h; simp only [VMadArgs.enc, f3, fDst, VSrc.field, VSrc.sc, VSrc.pay] <;> omega)
  have e2 : (fSa (VMadArgs.enc ⟨d, a, b, km, mz, w_⟩).1) = a := by
    clear e0 e1; have l0 := VWidth.code_lt w_; have z0 := Bool.toNat_lt mz; cases_type* VSrc <;> (simp [VMadArgs.ok, VSrc.ok] at h; simp only [VMadArgs.enc, f3, fSa, VSrc.field, VSrc.sc, VSrc.pay] <;> omega)
  have e3 : (VSrc.dec (VMadArgs.enc ⟨d, a, b, km, mz, w_⟩).1 (VMadArgs.enc ⟨d, a, b, km, mz, w_⟩).2) = b := by
    clear e0 e1 e2; have l0 := VWidth.code_lt w_; have z0 := Bool.toNat_lt mz; cases_type* VSrc <;> (simp [VMadArgs.ok, VSrc.ok] at h; simp [VMadArgs.enc, f3, VSrc.field, VSrc.sc, VSrc.pay, VSrc.dec, fDst, fSa, fSb, fI, fQd, bit] <;> first | omega | (split <;> first | omega | rfl | (exfalso; omega) | (congr 1; omega) | exact beq_of (by omega)) | rfl)
  have e4 : (fFn (VMadArgs.enc ⟨d, a, b, km, mz, w_⟩).1 / 32) = km := by
    clear e0 e1 e2 e3; have l0 := VWidth.code_lt w_; have z0 := Bool.toNat_lt mz; cases_type* VSrc <;> (simp [VMadArgs.ok, VSrc.ok] at h; simp only [VMadArgs.enc, f3, fFn, VSrc.field, VSrc.sc, VSrc.pay] <;> omega)
  have e5 : (bit (VMadArgs.enc ⟨d, a, b, km, mz, w_⟩).1 4) = mz := by
    clear e0 e1 e2 e3 e4; have l0 := VWidth.code_lt w_; have z0 := Bool.toNat_lt mz; refine bit_of ?_; cases_type* VSrc <;> (simp [VMadArgs.ok, VSrc.ok] at h; simp only [VMadArgs.enc, f3, VSrc.field, VSrc.sc, VSrc.pay, Nat.reducePow] <;> omega)
  simp only [VMadArgs.dec, operand_some, e0, e1, e2, e3, e4, e5, VWidth.ofCode_code]
  exact accept_self h

theorem VIntZArgs.dec_enc {o : VIntZArgs} (h : o.ok = true) : VIntZArgs.dec o.enc.1 o.enc.2 = .ok o := by
  rcases o with ⟨d, a, b, km, mz, w_, z⟩
  have e0 : ((VIntZArgs.enc ⟨d, a, b, km, mz, w_, z⟩).1 % 4) = w_.code := by
    have l0 := VWidth.code_lt w_; have z0 := Bool.toNat_lt mz; have z1 := Bool.toNat_lt z; cases_type* VSrc <;> (simp [VIntZArgs.ok, VSrc.ok] at h; simp only [VIntZArgs.enc, f3, VSrc.field, VSrc.sc, VSrc.pay] <;> omega)
  have e1 : (fDst (VIntZArgs.enc ⟨d, a, b, km, mz, w_, z⟩).1) = d := by
    clear e0; have l0 := VWidth.code_lt w_; have z0 := Bool.toNat_lt mz; have z1 := Bool.toNat_lt z; cases_type* VSrc <;> (simp [VIntZArgs.ok, VSrc.ok] at h; simp only [VIntZArgs.enc, f3, fDst, VSrc.field, VSrc.sc, VSrc.pay] <;> omega)
  have e2 : (fSa (VIntZArgs.enc ⟨d, a, b, km, mz, w_, z⟩).1) = a := by
    clear e0 e1; have l0 := VWidth.code_lt w_; have z0 := Bool.toNat_lt mz; have z1 := Bool.toNat_lt z; cases_type* VSrc <;> (simp [VIntZArgs.ok, VSrc.ok] at h; simp only [VIntZArgs.enc, f3, fSa, VSrc.field, VSrc.sc, VSrc.pay] <;> omega)
  have e3 : (VSrc.dec (VIntZArgs.enc ⟨d, a, b, km, mz, w_, z⟩).1 (VIntZArgs.enc ⟨d, a, b, km, mz, w_, z⟩).2) = b := by
    clear e0 e1 e2; have l0 := VWidth.code_lt w_; have z0 := Bool.toNat_lt mz; have z1 := Bool.toNat_lt z; cases_type* VSrc <;> (simp [VIntZArgs.ok, VSrc.ok] at h; simp [VIntZArgs.enc, f3, VSrc.field, VSrc.sc, VSrc.pay, VSrc.dec, fDst, fSa, fSb, fI, fQd, bit] <;> first | omega | (split <;> first | omega | rfl | (exfalso; omega) | (congr 1; omega) | exact beq_of (by omega)) | rfl)
  have e4 : (fFn (VIntZArgs.enc ⟨d, a, b, km, mz, w_, z⟩).1 / 32) = km := by
    clear e0 e1 e2 e3; have l0 := VWidth.code_lt w_; have z0 := Bool.toNat_lt mz; have z1 := Bool.toNat_lt z; cases_type* VSrc <;> (simp [VIntZArgs.ok, VSrc.ok] at h; simp only [VIntZArgs.enc, f3, fFn, VSrc.field, VSrc.sc, VSrc.pay] <;> omega)
  have e5 : (bit (VIntZArgs.enc ⟨d, a, b, km, mz, w_, z⟩).1 4) = mz := by
    clear e0 e1 e2 e3 e4; have l0 := VWidth.code_lt w_; have z0 := Bool.toNat_lt mz; have z1 := Bool.toNat_lt z; refine bit_of ?_; cases_type* VSrc <;> (simp [VIntZArgs.ok, VSrc.ok] at h; simp only [VIntZArgs.enc, f3, VSrc.field, VSrc.sc, VSrc.pay, Nat.reducePow] <;> omega)
  have e6 : (bit (VIntZArgs.enc ⟨d, a, b, km, mz, w_, z⟩).1 2) = z := by
    clear e0 e1 e2 e3 e4 e5; have l0 := VWidth.code_lt w_; have z0 := Bool.toNat_lt mz; have z1 := Bool.toNat_lt z; refine bit_of ?_; cases_type* VSrc <;> (simp [VIntZArgs.ok, VSrc.ok] at h; simp only [VIntZArgs.enc, f3, VSrc.field, VSrc.sc, VSrc.pay, Nat.reducePow] <;> omega)
  simp only [VIntZArgs.dec, operand_some, e0, e1, e2, e3, e4, e5, e6, VWidth.ofCode_code]
  exact accept_self h

theorem VabsArgs.dec_enc {o : VabsArgs} (h : o.ok = true) : VabsArgs.dec o.enc.1 o.enc.2 = .ok o := by
  rcases o with ⟨d, a, km, mz, w_⟩
  have e0 : ((VabsArgs.enc ⟨d, a, km, mz, w_⟩).1 % 4) = w_.code := by
    have l0 := VWidth.code_lt w_; have z0 := Bool.toNat_lt mz; (simp [VabsArgs.ok] at h; simp only [VabsArgs.enc, f3] <;> omega)
  have e1 : (fDst (VabsArgs.enc ⟨d, a, km, mz, w_⟩).1) = d := by
    clear e0; have l0 := VWidth.code_lt w_; have z0 := Bool.toNat_lt mz; (simp [VabsArgs.ok] at h; simp only [VabsArgs.enc, f3, fDst] <;> omega)
  have e2 : (fSa (VabsArgs.enc ⟨d, a, km, mz, w_⟩).1) = a := by
    clear e0 e1; have l0 := VWidth.code_lt w_; have z0 := Bool.toNat_lt mz; (simp [VabsArgs.ok] at h; simp only [VabsArgs.enc, f3, fSa] <;> omega)
  have e3 : (fFn (VabsArgs.enc ⟨d, a, km, mz, w_⟩).1 / 32) = km := by
    clear e0 e1 e2; have l0 := VWidth.code_lt w_; have z0 := Bool.toNat_lt mz; (simp [VabsArgs.ok] at h; simp only [VabsArgs.enc, f3, fFn] <;> omega)
  have e4 : (bit (VabsArgs.enc ⟨d, a, km, mz, w_⟩).1 4) = mz := by
    clear e0 e1 e2 e3; have l0 := VWidth.code_lt w_; have z0 := Bool.toNat_lt mz; refine bit_of ?_; (simp [VabsArgs.ok] at h; simp only [VabsArgs.enc, f3, Nat.reducePow] <;> omega)
  simp only [VabsArgs.dec, operand_some, e0, e1, e2, e3, e4, VWidth.ofCode_code]
  exact accept_self h

theorem VcmpArgs.dec_enc {o : VcmpArgs} (h : o.ok = true) : VcmpArgs.dec o.enc.1 o.enc.2 = .ok o := by
  rcases o with ⟨m, a, b, km, mz, cond⟩
  have e0 : ((VcmpArgs.enc ⟨m, a, b, km, mz, cond⟩).1 % 16) = cond.code := by
    have l0 := IntCond.code_lt cond; have z0 := Bool.toNat_lt mz; (simp [VcmpArgs.ok] at h; simp only [VcmpArgs.enc, f3] <;> omega)
  have e1 : (fDst (VcmpArgs.enc ⟨m, a, b, km, mz, cond⟩).1) = m := by
    clear e0; have l0 := IntCond.code_lt cond; have z0 := Bool.toNat_lt mz; (simp [VcmpArgs.ok] at h; simp only [VcmpArgs.enc, f3, fDst] <;> omega)
  have e2 : (fSa (VcmpArgs.enc ⟨m, a, b, km, mz, cond⟩).1) = a := by
    clear e0 e1; have l0 := IntCond.code_lt cond; have z0 := Bool.toNat_lt mz; (simp [VcmpArgs.ok] at h; simp only [VcmpArgs.enc, f3, fSa] <;> omega)
  have e3 : (fSb (VcmpArgs.enc ⟨m, a, b, km, mz, cond⟩).1) = b := by
    clear e0 e1 e2; have l0 := IntCond.code_lt cond; have z0 := Bool.toNat_lt mz; (simp [VcmpArgs.ok] at h; simp only [VcmpArgs.enc, f3, fSb] <;> omega)
  have e4 : (fFn (VcmpArgs.enc ⟨m, a, b, km, mz, cond⟩).1 / 32) = km := by
    clear e0 e1 e2 e3; have l0 := IntCond.code_lt cond; have z0 := Bool.toNat_lt mz; (simp [VcmpArgs.ok] at h; simp only [VcmpArgs.enc, f3, fFn] <;> omega)
  have e5 : (bit (VcmpArgs.enc ⟨m, a, b, km, mz, cond⟩).1 4) = mz := by
    clear e0 e1 e2 e3 e4; have l0 := IntCond.code_lt cond; have z0 := Bool.toNat_lt mz; refine bit_of ?_; (simp [VcmpArgs.ok] at h; simp only [VcmpArgs.enc, f3, Nat.reducePow] <;> omega)
  simp only [VcmpArgs.dec, operand_some, e0, e1, e2, e3, e4, e5, IntCond.ofCode_code]
  exact accept_self h

theorem VselArgs.dec_enc {o : VselArgs} (h : o.ok = true) : VselArgs.dec o.enc.1 o.enc.2 = .ok o := by
  rcases o with ⟨d, a, b, ms, w_⟩
  have e0 : ((VselArgs.enc ⟨d, a, b, ms, w_⟩).1 % 4) = w_.code := by
    have l0 := VWidth.code_lt w_; cases_type* VSrc <;> (simp [VselArgs.ok, VSrc.ok] at h; simp only [VselArgs.enc, f3, VSrc.field, VSrc.sc, VSrc.pay] <;> omega)
  have e1 : (fDst (VselArgs.enc ⟨d, a, b, ms, w_⟩).1) = d := by
    clear e0; have l0 := VWidth.code_lt w_; cases_type* VSrc <;> (simp [VselArgs.ok, VSrc.ok] at h; simp only [VselArgs.enc, f3, fDst, VSrc.field, VSrc.sc, VSrc.pay] <;> omega)
  have e2 : (fSa (VselArgs.enc ⟨d, a, b, ms, w_⟩).1) = a := by
    clear e0 e1; have l0 := VWidth.code_lt w_; cases_type* VSrc <;> (simp [VselArgs.ok, VSrc.ok] at h; simp only [VselArgs.enc, f3, fSa, VSrc.field, VSrc.sc, VSrc.pay] <;> omega)
  have e3 : (VSrc.dec (VselArgs.enc ⟨d, a, b, ms, w_⟩).1 (VselArgs.enc ⟨d, a, b, ms, w_⟩).2) = b := by
    clear e0 e1 e2; have l0 := VWidth.code_lt w_; cases_type* VSrc <;> (simp [VselArgs.ok, VSrc.ok] at h; simp [VselArgs.enc, f3, VSrc.field, VSrc.sc, VSrc.pay, VSrc.dec, fDst, fSa, fSb, fI, fQd, bit] <;> first | omega | (split <;> first | omega | rfl | (exfalso; omega) | (congr 1; omega) | exact beq_of (by omega)) | rfl)
  have e4 : (fFn (VselArgs.enc ⟨d, a, b, ms, w_⟩).1 / 32) = ms := by
    clear e0 e1 e2 e3; have l0 := VWidth.code_lt w_; cases_type* VSrc <;> (simp [VselArgs.ok, VSrc.ok] at h; simp only [VselArgs.enc, f3, fFn, VSrc.field, VSrc.sc, VSrc.pay] <;> omega)
  simp only [VselArgs.dec, operand_some, e0, e1, e2, e3, e4, VWidth.ofCode_code]
  exact accept_self h

theorem VFBinArgs.dec_enc {o : VFBinArgs} (h : o.ok = true) : VFBinArgs.dec o.enc.1 o.enc.2 = .ok o := by
  rcases o with ⟨d, a, b, km, mz, f⟩
  have e0 : ((VFBinArgs.enc ⟨d, a, b, km, mz, f⟩).1 % 4) = f.code := by
    have l0 := VFloat.code_lt f; have z0 := Bool.toNat_lt mz; cases_type* VSrc <;> (simp [VFBinArgs.ok, VSrc.ok] at h; simp only [VFBinArgs.enc, f3, VSrc.field, VSrc.sc, VSrc.pay] <;> omega)
  have e1 : (fDst (VFBinArgs.enc ⟨d, a, b, km, mz, f⟩).1) = d := by
    clear e0; have l0 := VFloat.code_lt f; have z0 := Bool.toNat_lt mz; cases_type* VSrc <;> (simp [VFBinArgs.ok, VSrc.ok] at h; simp only [VFBinArgs.enc, f3, fDst, VSrc.field, VSrc.sc, VSrc.pay] <;> omega)
  have e2 : (fSa (VFBinArgs.enc ⟨d, a, b, km, mz, f⟩).1) = a := by
    clear e0 e1; have l0 := VFloat.code_lt f; have z0 := Bool.toNat_lt mz; cases_type* VSrc <;> (simp [VFBinArgs.ok, VSrc.ok] at h; simp only [VFBinArgs.enc, f3, fSa, VSrc.field, VSrc.sc, VSrc.pay] <;> omega)
  have e3 : (VSrc.dec (VFBinArgs.enc ⟨d, a, b, km, mz, f⟩).1 (VFBinArgs.enc ⟨d, a, b, km, mz, f⟩).2) = b := by
    clear e0 e1 e2; have l0 := VFloat.code_lt f; have z0 := Bool.toNat_lt mz; cases_type* VSrc <;> (simp [VFBinArgs.ok, VSrc.ok] at h; simp [VFBinArgs.enc, f3, VSrc.field, VSrc.sc, VSrc.pay, VSrc.dec, fDst, fSa, fSb, fI, fQd, bit] <;> first | omega | (split <;> first | omega | rfl | (exfalso; omega) | (congr 1; omega) | exact beq_of (by omega)) | rfl)
  have e4 : (fFn (VFBinArgs.enc ⟨d, a, b, km, mz, f⟩).1 / 32) = km := by
    clear e0 e1 e2 e3; have l0 := VFloat.code_lt f; have z0 := Bool.toNat_lt mz; cases_type* VSrc <;> (simp [VFBinArgs.ok, VSrc.ok] at h; simp only [VFBinArgs.enc, f3, fFn, VSrc.field, VSrc.sc, VSrc.pay] <;> omega)
  have e5 : (bit (VFBinArgs.enc ⟨d, a, b, km, mz, f⟩).1 4) = mz := by
    clear e0 e1 e2 e3 e4; have l0 := VFloat.code_lt f; have z0 := Bool.toNat_lt mz; refine bit_of ?_; cases_type* VSrc <;> (simp [VFBinArgs.ok, VSrc.ok] at h; simp only [VFBinArgs.enc, f3, VSrc.field, VSrc.sc, VSrc.pay, Nat.reducePow] <;> omega)
  simp only [VFBinArgs.dec, operand_some, e0, e1, e2, e3, e4, e5, VFloat.ofCode_code]
  exact accept_self h

theorem VFmaArgs.dec_enc {o : VFmaArgs} (h : o.ok = true) : VFmaArgs.dec o.enc.1 o.enc.2 = .ok o := by
  rcases o with ⟨d, a, b, km, mz, f⟩
  have e0 : ((VFmaArgs.enc ⟨d, a, b, km, mz, f⟩).1 % 4) = f.code := by
    have l0 := VFloat.code_lt f; have z0 := Bool.toNat_lt mz; cases_type* VSrc <;> (simp [VFmaArgs.ok, VSrc.ok] at h; simp only [VFmaArgs.enc, f3, VSrc.field, VSrc.sc, VSrc.pay] <;> omega)
  have e1 : (fDst (VFmaArgs.enc ⟨d, a, b, km, mz, f⟩).1) = d := by
    clear e0; have l0 := VFloat.code_lt f; have z0 := Bool.toNat_lt mz; cases_type* VSrc <;> (simp [VFmaArgs.ok, VSrc.ok] at h; simp only [VFmaArgs.enc, f3, fDst, VSrc.field, VSrc.sc, VSrc.pay] <;> omega)
  have e2 : (fSa (VFmaArgs.enc ⟨d, a, b, km, mz, f⟩).1) = a := by
    clear e0 e1; have l0 := VFloat.code_lt f; have z0 := Bool.toNat_lt mz; cases_type* VSrc <;> (simp [VFmaArgs.ok, VSrc.ok] at h; simp only [VFmaArgs.enc, f3, fSa, VSrc.field, VSrc.sc, VSrc.pay] <;> omega)
  have e3 : (VSrc.dec (VFmaArgs.enc ⟨d, a, b, km, mz, f⟩).1 (VFmaArgs.enc ⟨d, a, b, km, mz, f⟩).2) = b := by
    clear e0 e1 e2; have l0 := VFloat.code_lt f; have z0 := Bool.toNat_lt mz; cases_type* VSrc <;> (simp [VFmaArgs.ok, VSrc.ok] at h; simp [VFmaArgs.enc, f3, VSrc.field, VSrc.sc, VSrc.pay, VSrc.dec, fDst, fSa, fSb, fI, fQd, bit] <;> first | omega | (split <;> first | omega | rfl | (exfalso; omega) | (congr 1; omega) | exact beq_of (by omega)) | rfl)
  have e4 : (fFn (VFmaArgs.enc ⟨d, a, b, km, mz, f⟩).1 / 32) = km := by
    clear e0 e1 e2 e3; have l0 := VFloat.code_lt f; have z0 := Bool.toNat_lt mz; cases_type* VSrc <;> (simp [VFmaArgs.ok, VSrc.ok] at h; simp only [VFmaArgs.enc, f3, fFn, VSrc.field, VSrc.sc, VSrc.pay] <;> omega)
  have e5 : (bit (VFmaArgs.enc ⟨d, a, b, km, mz, f⟩).1 4) = mz := by
    clear e0 e1 e2 e3 e4; have l0 := VFloat.code_lt f; have z0 := Bool.toNat_lt mz; refine bit_of ?_; cases_type* VSrc <;> (simp [VFmaArgs.ok, VSrc.ok] at h; simp only [VFmaArgs.enc, f3, VSrc.field, VSrc.sc, VSrc.pay, Nat.reducePow] <;> omega)
  simp only [VFmaArgs.dec, operand_some, e0, e1, e2, e3, e4, e5, VFloat.ofCode_code]
  exact accept_self h

theorem VFUnArgs.dec_enc {o : VFUnArgs} (h : o.ok = true) : VFUnArgs.dec o.enc.1 o.enc.2 = .ok o := by
  rcases o with ⟨d, a, km, mz, f⟩
  have e0 : ((VFUnArgs.enc ⟨d, a, km, mz, f⟩).1 % 4) = f.code := by
    have l0 := VFloat.code_lt f; have z0 := Bool.toNat_lt mz; (simp [VFUnArgs.ok] at h; simp only [VFUnArgs.enc, f3] <;> omega)
  have e1 : (fDst (VFUnArgs.enc ⟨d, a, km, mz, f⟩).1) = d := by
    clear e0; have l0 := VFloat.code_lt f; have z0 := Bool.toNat_lt mz; (simp [VFUnArgs.ok] at h; simp only [VFUnArgs.enc, f3, fDst] <;> omega)
  have e2 : (fSa (VFUnArgs.enc ⟨d, a, km, mz, f⟩).1) = a := by
    clear e0 e1; have l0 := VFloat.code_lt f; have z0 := Bool.toNat_lt mz; (simp [VFUnArgs.ok] at h; simp only [VFUnArgs.enc, f3, fSa] <;> omega)
  have e3 : (fFn (VFUnArgs.enc ⟨d, a, km, mz, f⟩).1 / 32) = km := by
    clear e0 e1 e2; have l0 := VFloat.code_lt f; have z0 := Bool.toNat_lt mz; (simp [VFUnArgs.ok] at h; simp only [VFUnArgs.enc, f3, fFn] <;> omega)
  have e4 : (bit (VFUnArgs.enc ⟨d, a, km, mz, f⟩).1 4) = mz := by
    clear e0 e1 e2 e3; have l0 := VFloat.code_lt f; have z0 := Bool.toNat_lt mz; refine bit_of ?_; (simp [VFUnArgs.ok] at h; simp only [VFUnArgs.enc, f3, Nat.reducePow] <;> omega)
  simp only [VFUnArgs.dec, operand_some, e0, e1, e2, e3, e4, VFloat.ofCode_code]
  exact accept_self h

theorem VfcmpArgs.dec_enc {o : VfcmpArgs} (h : o.ok = true) : VfcmpArgs.dec o.enc.1 o.enc.2 = .ok o := by
  rcases o with ⟨m, a, b, km, mz, cond⟩
  have e0 : ((VfcmpArgs.enc ⟨m, a, b, km, mz, cond⟩).1 % 8) = cond.code := by
    have l0 := FpCond.code_lt cond; have z0 := Bool.toNat_lt mz; (simp [VfcmpArgs.ok] at h; simp only [VfcmpArgs.enc, f3] <;> omega)
  have e1 : (fDst (VfcmpArgs.enc ⟨m, a, b, km, mz, cond⟩).1) = m := by
    clear e0; have l0 := FpCond.code_lt cond; have z0 := Bool.toNat_lt mz; (simp [VfcmpArgs.ok] at h; simp only [VfcmpArgs.enc, f3, fDst] <;> omega)
  have e2 : (fSa (VfcmpArgs.enc ⟨m, a, b, km, mz, cond⟩).1) = a := by
    clear e0 e1; have l0 := FpCond.code_lt cond; have z0 := Bool.toNat_lt mz; (simp [VfcmpArgs.ok] at h; simp only [VfcmpArgs.enc, f3, fSa] <;> omega)
  have e3 : (fSb (VfcmpArgs.enc ⟨m, a, b, km, mz, cond⟩).1) = b := by
    clear e0 e1 e2; have l0 := FpCond.code_lt cond; have z0 := Bool.toNat_lt mz; (simp [VfcmpArgs.ok] at h; simp only [VfcmpArgs.enc, f3, fSb] <;> omega)
  have e4 : (fFn (VfcmpArgs.enc ⟨m, a, b, km, mz, cond⟩).1 / 32) = km := by
    clear e0 e1 e2 e3; have l0 := FpCond.code_lt cond; have z0 := Bool.toNat_lt mz; (simp [VfcmpArgs.ok] at h; simp only [VfcmpArgs.enc, f3, fFn] <;> omega)
  have e5 : (bit (VfcmpArgs.enc ⟨m, a, b, km, mz, cond⟩).1 4) = mz := by
    clear e0 e1 e2 e3 e4; have l0 := FpCond.code_lt cond; have z0 := Bool.toNat_lt mz; refine bit_of ?_; (simp [VfcmpArgs.ok] at h; simp only [VfcmpArgs.enc, f3, Nat.reducePow] <;> omega)
  simp only [VfcmpArgs.dec, operand_some, e0, e1, e2, e3, e4, e5, FpCond.ofCode_code]
  exact accept_self h

theorem VfsgnArgs.dec_enc {o : VfsgnArgs} (h : o.ok = true) : VfsgnArgs.dec o.enc.1 o.enc.2 = .ok o := by
  rcases o with ⟨d, a, b, km, mz, f, op⟩
  have e0 : ((VfsgnArgs.enc ⟨d, a, b, km, mz, f, op⟩).1 % 4) = f.code := by
    have l0 := VFloat.code_lt f; have l1 := SignFn.code_lt op; have z0 := Bool.toNat_lt mz; (simp [VfsgnArgs.ok] at h; simp only [VfsgnArgs.enc, f3] <;> omega)
  have e1 : ((VfsgnArgs.enc ⟨d, a, b, km, mz, f, op⟩).1 / 4 % 4) = op.code := by
    clear e0; have l0 := VFloat.code_lt f; have l1 := SignFn.code_lt op; have z0 := Bool.toNat_lt mz; (simp [VfsgnArgs.ok] at h; simp only [VfsgnArgs.enc, f3] <;> omega)
  have e2 : (fDst (VfsgnArgs.enc ⟨d, a, b, km, mz, f, op⟩).1) = d := by
    clear e0 e1; have l0 := VFloat.code_lt f; have l1 := SignFn.code_lt op; have z0 := Bool.toNat_lt mz; (simp [VfsgnArgs.ok] at h; simp only [VfsgnArgs.enc, f3, fDst] <;> omega)
  have e3 : (fSa (VfsgnArgs.enc ⟨d, a, b, km, mz, f, op⟩).1) = a := by
    clear e0 e1 e2; have l0 := VFloat.code_lt f; have l1 := SignFn.code_lt op; have z0 := Bool.toNat_lt mz; (simp [VfsgnArgs.ok] at h; simp only [VfsgnArgs.enc, f3, fSa] <;> omega)
  have e4 : (fSb (VfsgnArgs.enc ⟨d, a, b, km, mz, f, op⟩).1) = b := by
    clear e0 e1 e2 e3; have l0 := VFloat.code_lt f; have l1 := SignFn.code_lt op; have z0 := Bool.toNat_lt mz; (simp [VfsgnArgs.ok] at h; simp only [VfsgnArgs.enc, f3, fSb] <;> omega)
  have e5 : (fFn (VfsgnArgs.enc ⟨d, a, b, km, mz, f, op⟩).1 / 32) = km := by
    clear e0 e1 e2 e3 e4; have l0 := VFloat.code_lt f; have l1 := SignFn.code_lt op; have z0 := Bool.toNat_lt mz; (simp [VfsgnArgs.ok] at h; simp only [VfsgnArgs.enc, f3, fFn] <;> omega)
  have e6 : (bit (VfsgnArgs.enc ⟨d, a, b, km, mz, f, op⟩).1 4) = mz := by
    clear e0 e1 e2 e3 e4 e5; have l0 := VFloat.code_lt f; have l1 := SignFn.code_lt op; have z0 := Bool.toNat_lt mz; refine bit_of ?_; (simp [VfsgnArgs.ok] at h; simp only [VfsgnArgs.enc, f3, Nat.reducePow] <;> omega)
  simp only [VfsgnArgs.dec, operand_some, e0, e1, e2, e3, e4, e5, e6, VFloat.ofCode_code, SignFn.ofCode_code]
  exact accept_self h

theorem VqencArgs.dec_enc {o : VqencArgs} (h : o.ok = true) : VqencArgs.dec o.enc.1 o.enc.2 = .ok o := by
  rcases o with ⟨d, a, g, k, fmt⟩
  have e0 : ((VqencArgs.enc ⟨d, a, g, k, fmt⟩).1 % 4) = fmt.code := by
    have l0 := QFmt.code_lt fmt; (simp [VqencArgs.ok] at h; simp only [VqencArgs.enc, f3] <;> omega)
  have e1 : (fDst (VqencArgs.enc ⟨d, a, g, k, fmt⟩).1) = d := by
    clear e0; have l0 := QFmt.code_lt fmt; (simp [VqencArgs.ok] at h; simp only [VqencArgs.enc, f3, fDst] <;> omega)
  have e2 : (fSa (VqencArgs.enc ⟨d, a, g, k, fmt⟩).1) = a := by
    clear e0 e1; have l0 := QFmt.code_lt fmt; (simp [VqencArgs.ok] at h; simp only [VqencArgs.enc, f3, fSa] <;> omega)
  have e3 : (fSb (VqencArgs.enc ⟨d, a, g, k, fmt⟩).1) = g := by
    clear e0 e1 e2; have l0 := QFmt.code_lt fmt; (simp [VqencArgs.ok] at h; simp only [VqencArgs.enc, f3, fSb] <;> omega)
  have e4 : ((VqencArgs.enc ⟨d, a, g, k, fmt⟩).1 / 4 % 4) = k := by
    clear e0 e1 e2 e3; have l0 := QFmt.code_lt fmt; (simp [VqencArgs.ok] at h; simp only [VqencArgs.enc, f3] <;> omega)
  simp only [VqencArgs.dec, operand_some, e0, e1, e2, e3, e4, QFmt.ofCode_code]
  exact accept_self h

theorem VqdecArgs.dec_enc {o : VqdecArgs} (h : o.ok = true) : VqdecArgs.dec o.enc.1 o.enc.2 = .ok o := by
  rcases o with ⟨d, a, g, k, fmt⟩
  have e0 : ((VqdecArgs.enc ⟨d, a, g, k, fmt⟩).1 % 4) = fmt.code := by
    have l0 := QFmt.code_lt fmt; (simp [VqdecArgs.ok] at h; simp only [VqdecArgs.enc, f3] <;> omega)
  have e1 : (fDst (VqdecArgs.enc ⟨d, a, g, k, fmt⟩).1) = d := by
    clear e0; have l0 := QFmt.code_lt fmt; (simp [VqdecArgs.ok] at h; simp only [VqdecArgs.enc, f3, fDst] <;> omega)
  have e2 : (fSa (VqdecArgs.enc ⟨d, a, g, k, fmt⟩).1) = a := by
    clear e0 e1; have l0 := QFmt.code_lt fmt; (simp [VqdecArgs.ok] at h; simp only [VqdecArgs.enc, f3, fSa] <;> omega)
  have e3 : (fSb (VqdecArgs.enc ⟨d, a, g, k, fmt⟩).1) = g := by
    clear e0 e1 e2; have l0 := QFmt.code_lt fmt; (simp [VqdecArgs.ok] at h; simp only [VqdecArgs.enc, f3, fSb] <;> omega)
  have e4 : ((VqdecArgs.enc ⟨d, a, g, k, fmt⟩).1 / 4 % 4) = k := by
    clear e0 e1 e2 e3; have l0 := QFmt.code_lt fmt; (simp [VqdecArgs.ok] at h; simp only [VqdecArgs.enc, f3] <;> omega)
  simp only [VqdecArgs.dec, operand_some, e0, e1, e2, e3, e4, QFmt.ofCode_code]
  exact accept_self h

theorem VsclArgs.dec_enc {o : VsclArgs} (h : o.ok = true) : VsclArgs.dec o.enc.1 o.enc.2 = .ok o := by
  rcases o with ⟨d, a, b, km, mz, f⟩
  have e0 : ((VsclArgs.enc ⟨d, a, b, km, mz, f⟩).1 % 4) = f.code := by
    have l0 := VFloat.code_lt f; have z0 := Bool.toNat_lt mz; cases_type* VSrc <;> (simp [VsclArgs.ok, VSrc.ok] at h; simp only [VsclArgs.enc, f3, VSrc.field, VSrc.sc, VSrc.pay] <;> omega)
  have e1 : (fDst (VsclArgs.enc ⟨d, a, b, km, mz, f⟩).1) = d := by
    clear e0; have l0 := VFloat.code_lt f; have z0 := Bool.toNat_lt mz; cases_type* VSrc <;> (simp [VsclArgs.ok, VSrc.ok] at h; simp only [VsclArgs.enc, f3, fDst, VSrc.field, VSrc.sc, VSrc.pay] <;> omega)
  have e2 : (fSa (VsclArgs.enc ⟨d, a, b, km, mz, f⟩).1) = a := by
    clear e0 e1; have l0 := VFloat.code_lt f; have z0 := Bool.toNat_lt mz; cases_type* VSrc <;> (simp [VsclArgs.ok, VSrc.ok] at h; simp only [VsclArgs.enc, f3, fSa, VSrc.field, VSrc.sc, VSrc.pay] <;> omega)
  have e3 : (VSrc.dec (VsclArgs.enc ⟨d, a, b, km, mz, f⟩).1 (VsclArgs.enc ⟨d, a, b, km, mz, f⟩).2) = b := by
    clear e0 e1 e2; have l0 := VFloat.code_lt f; have z0 := Bool.toNat_lt mz; cases_type* VSrc <;> (simp [VsclArgs.ok, VSrc.ok] at h; simp [VsclArgs.enc, f3, VSrc.field, VSrc.sc, VSrc.pay, VSrc.dec, fDst, fSa, fSb, fI, fQd, bit] <;> first | omega | (split <;> first | omega | rfl | (exfalso; omega) | (congr 1; omega) | exact beq_of (by omega)) | rfl)
  have e4 : (fFn (VsclArgs.enc ⟨d, a, b, km, mz, f⟩).1 / 32) = km := by
    clear e0 e1 e2 e3; have l0 := VFloat.code_lt f; have z0 := Bool.toNat_lt mz; cases_type* VSrc <;> (simp [VsclArgs.ok, VSrc.ok] at h; simp only [VsclArgs.enc, f3, fFn, VSrc.field, VSrc.sc, VSrc.pay] <;> omega)
  have e5 : (bit (VsclArgs.enc ⟨d, a, b, km, mz, f⟩).1 4) = mz := by
    clear e0 e1 e2 e3 e4; have l0 := VFloat.code_lt f; have z0 := Bool.toNat_lt mz; refine bit_of ?_; cases_type* VSrc <;> (simp [VsclArgs.ok, VSrc.ok] at h; simp only [VsclArgs.enc, f3, VSrc.field, VSrc.sc, VSrc.pay, Nat.reducePow] <;> omega)
  simp only [VsclArgs.dec, operand_some, e0, e1, e2, e3, e4, e5, VFloat.ofCode_code]
  exact accept_self h

theorem VredArgs.dec_enc {o : VredArgs} (h : o.ok = true) : VredArgs.dec o.enc.1 o.enc.2 = .ok o := by
  rcases o with ⟨d, a, km, op, ty⟩
  have e0 : ((VredArgs.enc ⟨d, a, km, op, ty⟩).1 / 4 % 4) = op.code := by
    have l0 := RedOp.code_lt op; have l1 := RedTy.code_lt ty; (simp [VredArgs.ok] at h; simp only [VredArgs.enc, f3] <;> omega)
  have e1 : ((VredArgs.enc ⟨d, a, km, op, ty⟩).1 % 4) = ty.code := by
    clear e0; have l0 := RedOp.code_lt op; have l1 := RedTy.code_lt ty; (simp [VredArgs.ok] at h; simp only [VredArgs.enc, f3] <;> omega)
  have e2 : (fDst (VredArgs.enc ⟨d, a, km, op, ty⟩).1) = d := by
    clear e0 e1; have l0 := RedOp.code_lt op; have l1 := RedTy.code_lt ty; (simp [VredArgs.ok] at h; simp only [VredArgs.enc, f3, fDst] <;> omega)
  have e3 : (fSa (VredArgs.enc ⟨d, a, km, op, ty⟩).1) = a := by
    clear e0 e1 e2; have l0 := RedOp.code_lt op; have l1 := RedTy.code_lt ty; (simp [VredArgs.ok] at h; simp only [VredArgs.enc, f3, fSa] <;> omega)
  have e4 : (fFn (VredArgs.enc ⟨d, a, km, op, ty⟩).1 / 32) = km := by
    clear e0 e1 e2 e3; have l0 := RedOp.code_lt op; have l1 := RedTy.code_lt ty; (simp [VredArgs.ok] at h; simp only [VredArgs.enc, f3, fFn] <;> omega)
  simp only [VredArgs.dec, operand_some, e0, e1, e2, e3, e4, RedOp.ofCode_code, RedTy.ofCode_code]
  exact accept_self h

theorem VscanArgs.dec_enc {o : VscanArgs} (h : o.ok = true) : VscanArgs.dec o.enc.1 o.enc.2 = .ok o := by
  rcases o with ⟨d, a, km, mz, op, ty⟩
  have e0 : ((VscanArgs.enc ⟨d, a, km, mz, op, ty⟩).1 / 4 % 4) = op.code := by
    have l0 := RedOp.code_lt op; have l1 := RedTy.code_lt ty; have z0 := Bool.toNat_lt mz; (simp [VscanArgs.ok] at h; simp only [VscanArgs.enc, f3] <;> omega)
  have e1 : ((VscanArgs.enc ⟨d, a, km, mz, op, ty⟩).1 % 4) = ty.code := by
    clear e0; have l0 := RedOp.code_lt op; have l1 := RedTy.code_lt ty; have z0 := Bool.toNat_lt mz; (simp [VscanArgs.ok] at h; simp only [VscanArgs.enc, f3] <;> omega)
  have e2 : (fDst (VscanArgs.enc ⟨d, a, km, mz, op, ty⟩).1) = d := by
    clear e0 e1; have l0 := RedOp.code_lt op; have l1 := RedTy.code_lt ty; have z0 := Bool.toNat_lt mz; (simp [VscanArgs.ok] at h; simp only [VscanArgs.enc, f3, fDst] <;> omega)
  have e3 : (fSa (VscanArgs.enc ⟨d, a, km, mz, op, ty⟩).1) = a := by
    clear e0 e1 e2; have l0 := RedOp.code_lt op; have l1 := RedTy.code_lt ty; have z0 := Bool.toNat_lt mz; (simp [VscanArgs.ok] at h; simp only [VscanArgs.enc, f3, fSa] <;> omega)
  have e4 : (fFn (VscanArgs.enc ⟨d, a, km, mz, op, ty⟩).1 / 32) = km := by
    clear e0 e1 e2 e3; have l0 := RedOp.code_lt op; have l1 := RedTy.code_lt ty; have z0 := Bool.toNat_lt mz; (simp [VscanArgs.ok] at h; simp only [VscanArgs.enc, f3, fFn] <;> omega)
  have e5 : (bit (VscanArgs.enc ⟨d, a, km, mz, op, ty⟩).1 4) = mz := by
    clear e0 e1 e2 e3 e4; have l0 := RedOp.code_lt op; have l1 := RedTy.code_lt ty; have z0 := Bool.toNat_lt mz; refine bit_of ?_; (simp [VscanArgs.ok] at h; simp only [VscanArgs.enc, f3, Nat.reducePow] <;> omega)
  simp only [VscanArgs.dec, operand_some, e0, e1, e2, e3, e4, e5, RedOp.ofCode_code, RedTy.ofCode_code]
  exact accept_self h

theorem VsortArgs.dec_enc {o : VsortArgs} (h : o.ok = true) : VsortArgs.dec o.enc.1 o.enc.2 = .ok o := by
  rcases o with ⟨d, a, b, km, ty, dn⟩
  have e0 : ((VsortArgs.enc ⟨d, a, b, km, ty, dn⟩).1 % 4) = ty.code := by
    have l0 := RedTy.code_lt ty; have z0 := Bool.toNat_lt dn; (simp [VsortArgs.ok] at h; simp only [VsortArgs.enc, f3] <;> omega)
  have e1 : (fDst (VsortArgs.enc ⟨d, a, b, km, ty, dn⟩).1) = d := by
    clear e0; have l0 := RedTy.code_lt ty; have z0 := Bool.toNat_lt dn; (simp [VsortArgs.ok] at h; simp only [VsortArgs.enc, f3, fDst] <;> omega)
  have e2 : (fSa (VsortArgs.enc ⟨d, a, b, km, ty, dn⟩).1) = a := by
    clear e0 e1; have l0 := RedTy.code_lt ty; have z0 := Bool.toNat_lt dn; (simp [VsortArgs.ok] at h; simp only [VsortArgs.enc, f3, fSa] <;> omega)
  have e3 : (fSb (VsortArgs.enc ⟨d, a, b, km, ty, dn⟩).1) = b := by
    clear e0 e1 e2; have l0 := RedTy.code_lt ty; have z0 := Bool.toNat_lt dn; (simp [VsortArgs.ok] at h; simp only [VsortArgs.enc, f3, fSb] <;> omega)
  have e4 : (fFn (VsortArgs.enc ⟨d, a, b, km, ty, dn⟩).1 / 32) = km := by
    clear e0 e1 e2 e3; have l0 := RedTy.code_lt ty; have z0 := Bool.toNat_lt dn; (simp [VsortArgs.ok] at h; simp only [VsortArgs.enc, f3, fFn] <;> omega)
  have e5 : (bit (VsortArgs.enc ⟨d, a, b, km, ty, dn⟩).1 2) = dn := by
    clear e0 e1 e2 e3 e4; have l0 := RedTy.code_lt ty; have z0 := Bool.toNat_lt dn; refine bit_of ?_; (simp [VsortArgs.ok] at h; simp only [VsortArgs.enc, f3, Nat.reducePow] <;> omega)
  simp only [VsortArgs.dec, operand_some, e0, e1, e2, e3, e4, e5, RedTy.ofCode_code]
  exact accept_self h

theorem VpermArgs.dec_enc {o : VpermArgs} (h : o.ok = true) : VpermArgs.dec o.enc.1 o.enc.2 = .ok o := by
  rcases o with ⟨d, a, b, km, mz, w_⟩
  have e0 : ((VpermArgs.enc ⟨d, a, b, km, mz, w_⟩).1 % 4) = w_.code := by
    have l0 := VWidth.code_lt w_; have z0 := Bool.toNat_lt mz; (simp [VpermArgs.ok] at h; simp only [VpermArgs.enc, f3] <;> omega)
  have e1 : (fDst (VpermArgs.enc ⟨d, a, b, km, mz, w_⟩).1) = d := by
    clear e0; have l0 := VWidth.code_lt w_; have z0 := Bool.toNat_lt mz; (simp [VpermArgs.ok] at h; simp only [VpermArgs.enc, f3, fDst] <;> omega)
  have e2 : (fSa (VpermArgs.enc ⟨d, a, b, km, mz, w_⟩).1) = a := by
    clear e0 e1; have l0 := VWidth.code_lt w_; have z0 := Bool.toNat_lt mz; (simp [VpermArgs.ok] at h; simp only [VpermArgs.enc, f3, fSa] <;> omega)
  have e3 : (fSb (VpermArgs.enc ⟨d, a, b, km, mz, w_⟩).1) = b := by
    clear e0 e1 e2; have l0 := VWidth.code_lt w_; have z0 := Bool.toNat_lt mz; (simp [VpermArgs.ok] at h; simp only [VpermArgs.enc, f3, fSb] <;> omega)
  have e4 : (fFn (VpermArgs.enc ⟨d, a, b, km, mz, w_⟩).1 / 32) = km := by
    clear e0 e1 e2 e3; have l0 := VWidth.code_lt w_; have z0 := Bool.toNat_lt mz; (simp [VpermArgs.ok] at h; simp only [VpermArgs.enc, f3, fFn] <;> omega)
  have e5 : (bit (VpermArgs.enc ⟨d, a, b, km, mz, w_⟩).1 4) = mz := by
    clear e0 e1 e2 e3 e4; have l0 := VWidth.code_lt w_; have z0 := Bool.toNat_lt mz; refine bit_of ?_; (simp [VpermArgs.ok] at h; simp only [VpermArgs.enc, f3, Nat.reducePow] <;> omega)
  simp only [VpermArgs.dec, operand_some, e0, e1, e2, e3, e4, e5, VWidth.ofCode_code]
  exact accept_self h

theorem VshufArgs.dec_enc {o : VshufArgs} (h : o.ok = true) : VshufArgs.dec o.enc.1 o.enc.2 = .ok o := by
  rcases o with ⟨d, a, b, km, mz, w_⟩
  have e0 : ((VshufArgs.enc ⟨d, a, b, km, mz, w_⟩).1 % 4) = w_.code := by
    have l0 := VWidth.code_lt w_; have z0 := Bool.toNat_lt mz; (simp [VshufArgs.ok] at h; simp only [VshufArgs.enc, f3] <;> omega)
  have e1 : (fDst (VshufArgs.enc ⟨d, a, b, km, mz, w_⟩).1) = d := by
    clear e0; have l0 := VWidth.code_lt w_; have z0 := Bool.toNat_lt mz; (simp [VshufArgs.ok] at h; simp only [VshufArgs.enc, f3, fDst] <;> omega)
  have e2 : (fSa (VshufArgs.enc ⟨d, a, b, km, mz, w_⟩).1) = a := by
    clear e0 e1; have l0 := VWidth.code_lt w_; have z0 := Bool.toNat_lt mz; (simp [VshufArgs.ok] at h; simp only [VshufArgs.enc, f3, fSa] <;> omega)
  have e3 : (fSb (VshufArgs.enc ⟨d, a, b, km, mz, w_⟩).1) = b := by
    clear e0 e1 e2; have l0 := VWidth.code_lt w_; have z0 := Bool.toNat_lt mz; (simp [VshufArgs.ok] at h; simp only [VshufArgs.enc, f3, fSb] <;> omega)
  have e4 : (fFn (VshufArgs.enc ⟨d, a, b, km, mz, w_⟩).1 / 32) = km := by
    clear e0 e1 e2 e3; have l0 := VWidth.code_lt w_; have z0 := Bool.toNat_lt mz; (simp [VshufArgs.ok] at h; simp only [VshufArgs.enc, f3, fFn] <;> omega)
  have e5 : (bit (VshufArgs.enc ⟨d, a, b, km, mz, w_⟩).1 4) = mz := by
    clear e0 e1 e2 e3 e4; have l0 := VWidth.code_lt w_; have z0 := Bool.toNat_lt mz; refine bit_of ?_; (simp [VshufArgs.ok] at h; simp only [VshufArgs.enc, f3, Nat.reducePow] <;> omega)
  simp only [VshufArgs.dec, operand_some, e0, e1, e2, e3, e4, e5, VWidth.ofCode_code]
  exact accept_self h

theorem VextArgs.dec_enc {o : VextArgs} (h : o.ok = true) : VextArgs.dec o.enc.1 o.enc.2 = .ok o := by
  rcases o with ⟨d, a, idx, w_, z⟩
  have e0 : ((VextArgs.enc ⟨d, a, idx, w_, z⟩).1 % 4) = w_.code := by
    have l0 := VWidth.code_lt w_; have z0 := Bool.toNat_lt z; cases_type* VIdx <;> (simp [VextArgs.ok, VIdx.ok] at h; simp only [VextArgs.enc, f3, VIdx.field, VIdx.sc] <;> omega)
  have e1 : (fDst (VextArgs.enc ⟨d, a, idx, w_, z⟩).1) = d := by
    clear e0; have l0 := VWidth.code_lt w_; have z0 := Bool.toNat_lt z; cases_type* VIdx <;> (simp [VextArgs.ok, VIdx.ok] at h; simp only [VextArgs.enc, f3, fDst, VIdx.field, VIdx.sc] <;> omega)
  have e2 : (fSa (VextArgs.enc ⟨d, a, idx, w_, z⟩).1) = a := by
    clear e0 e1; have l0 := VWidth.code_lt w_; have z0 := Bool.toNat_lt z; cases_type* VIdx <;> (simp [VextArgs.ok, VIdx.ok] at h; simp only [VextArgs.enc, f3, fSa, VIdx.field, VIdx.sc] <;> omega)
  have e3 : (VIdx.dec (VextArgs.enc ⟨d, a, idx, w_, z⟩).1) = idx := by
    clear e0 e1 e2; have l0 := VWidth.code_lt w_; have z0 := Bool.toNat_lt z; cases_type* VIdx <;> (simp [VextArgs.ok, VIdx.ok] at h; simp [VextArgs.enc, f3, VIdx.field, VIdx.sc, VIdx.dec, fDst, fSa, fSb, fI, fQd, bit] <;> first | omega | (split <;> first | omega | rfl | (exfalso; omega) | (congr 1; omega) | exact beq_of (by omega)) | rfl)
  have e4 : (bit (VextArgs.enc ⟨d, a, idx, w_, z⟩).1 2) = z := by
    clear e0 e1 e2 e3; have l0 := VWidth.code_lt w_; have z0 := Bool.toNat_lt z; refine bit_of ?_; cases_type* VIdx <;> (simp [VextArgs.ok, VIdx.ok] at h; simp only [VextArgs.enc, f3, VIdx.field, VIdx.sc, Nat.reducePow] <;> omega)
  simp only [VextArgs.dec, operand_some, e0, e1, e2, e3, e4, VWidth.ofCode_code]
  exact accept_self h

theorem VinsArgs.dec_enc {o : VinsArgs} (h : o.ok = true) : VinsArgs.dec o.enc.1 o.enc.2 = .ok o := by
  rcases o with ⟨d, g, idx, w_⟩
  have e0 : ((VinsArgs.enc ⟨d, g, idx, w_⟩).1 % 4) = w_.code := by
    have l0 := VWidth.code_lt w_; cases_type* VIdx <;> (simp [VinsArgs.ok, VIdx.ok] at h; simp only [VinsArgs.enc, f3, VIdx.field, VIdx.sc] <;> omega)
  have e1 : (fDst (VinsArgs.enc ⟨d, g, idx, w_⟩).1) = d := by
    clear e0; have l0 := VWidth.code_lt w_; cases_type* VIdx <;> (simp [VinsArgs.ok, VIdx.ok] at h; simp only [VinsArgs.enc, f3, fDst, VIdx.field, VIdx.sc] <;> omega)
  have e2 : (fSa (VinsArgs.enc ⟨d, g, idx, w_⟩).1) = g := by
    clear e0 e1; have l0 := VWidth.code_lt w_; cases_type* VIdx <;> (simp [VinsArgs.ok, VIdx.ok] at h; simp only [VinsArgs.enc, f3, fSa, VIdx.field, VIdx.sc] <;> omega)
  have e3 : (VIdx.dec (VinsArgs.enc ⟨d, g, idx, w_⟩).1) = idx := by
    clear e0 e1 e2; have l0 := VWidth.code_lt w_; cases_type* VIdx <;> (simp [VinsArgs.ok, VIdx.ok] at h; simp [VinsArgs.enc, f3, VIdx.field, VIdx.sc, VIdx.dec, fDst, fSa, fSb, fI, fQd, bit] <;> first | omega | (split <;> first | omega | rfl | (exfalso; omega) | (congr 1; omega) | exact beq_of (by omega)) | rfl)
  simp only [VinsArgs.dec, operand_some, e0, e1, e2, e3, VWidth.ofCode_code]
  exact accept_self h

theorem ViotaArgs.dec_enc {o : ViotaArgs} (h : o.ok = true) : ViotaArgs.dec o.enc.1 o.enc.2 = .ok o := by
  rcases o with ⟨d, km, mz⟩
  have e0 : (fDst (ViotaArgs.enc ⟨d, km, mz⟩).1) = d := by
    have z0 := Bool.toNat_lt mz; (simp [ViotaArgs.ok] at h; simp only [ViotaArgs.enc, f3, fDst] <;> omega)
  have e1 : (fFn (ViotaArgs.enc ⟨d, km, mz⟩).1 / 32) = km := by
    clear e0; have z0 := Bool.toNat_lt mz; (simp [ViotaArgs.ok] at h; simp only [ViotaArgs.enc, f3, fFn] <;> omega)
  have e2 : (bit (ViotaArgs.enc ⟨d, km, mz⟩).1 4) = mz := by
    clear e0 e1; have z0 := Bool.toNat_lt mz; refine bit_of ?_; (simp [ViotaArgs.ok] at h; simp only [ViotaArgs.enc, f3, Nat.reducePow] <;> omega)
  simp only [ViotaArgs.dec, e0, e1, e2]
  exact accept_self h

theorem VcmprsArgs.dec_enc {o : VcmprsArgs} (h : o.ok = true) : VcmprsArgs.dec o.enc.1 o.enc.2 = .ok o := by
  rcases o with ⟨d, a, km, mz⟩
  have e0 : (fDst (VcmprsArgs.enc ⟨d, a, km, mz⟩).1) = d := by
    have z0 := Bool.toNat_lt mz; (simp [VcmprsArgs.ok] at h; simp only [VcmprsArgs.enc, f3, fDst] <;> omega)
  have e1 : (fSa (VcmprsArgs.enc ⟨d, a, km, mz⟩).1) = a := by
    clear e0; have z0 := Bool.toNat_lt mz; (simp [VcmprsArgs.ok] at h; simp only [VcmprsArgs.enc, f3, fSa] <;> omega)
  have e2 : (fFn (VcmprsArgs.enc ⟨d, a, km, mz⟩).1 / 32) = km := by
    clear e0 e1; have z0 := Bool.toNat_lt mz; (simp [VcmprsArgs.ok] at h; simp only [VcmprsArgs.enc, f3, fFn] <;> omega)
  have e3 : (bit (VcmprsArgs.enc ⟨d, a, km, mz⟩).1 4) = mz := by
    clear e0 e1 e2; have z0 := Bool.toNat_lt mz; refine bit_of ?_; (simp [VcmprsArgs.ok] at h; simp only [VcmprsArgs.enc, f3, Nat.reducePow] <;> omega)
  simp only [VcmprsArgs.dec, e0, e1, e2, e3]
  exact accept_self h

theorem VmovxArgs.dec_enc {o : VmovxArgs} (h : o.ok = true) : VmovxArgs.dec o.enc.1 o.enc.2 = .ok o := by
  rcases o with ⟨d, a, km, mz⟩
  have e0 : (fDst (VmovxArgs.enc ⟨d, a, km, mz⟩).1) = d := by
    have z0 := Bool.toNat_lt mz; (simp [VmovxArgs.ok] at h; simp only [VmovxArgs.enc, f3, fDst] <;> omega)
  have e1 : (fSa (VmovxArgs.enc ⟨d, a, km, mz⟩).1) = a := by
    clear e0; have z0 := Bool.toNat_lt mz; (simp [VmovxArgs.ok] at h; simp only [VmovxArgs.enc, f3, fSa] <;> omega)
  have e2 : (fFn (VmovxArgs.enc ⟨d, a, km, mz⟩).1 / 32) = km := by
    clear e0 e1; have z0 := Bool.toNat_lt mz; (simp [VmovxArgs.ok] at h; simp only [VmovxArgs.enc, f3, fFn] <;> omega)
  have e3 : (bit (VmovxArgs.enc ⟨d, a, km, mz⟩).1 4) = mz := by
    clear e0 e1 e2; have z0 := Bool.toNat_lt mz; refine bit_of ?_; (simp [VmovxArgs.ok] at h; simp only [VmovxArgs.enc, f3, Nat.reducePow] <;> omega)
  simp only [VmovxArgs.dec, e0, e1, e2, e3]
  exact accept_self h

theorem VrndArgs.dec_enc {o : VrndArgs} (h : o.ok = true) : VrndArgs.dec o.enc.1 o.enc.2 = .ok o := by
  rcases o with ⟨d, a, key, km, mz, f⟩
  have e0 : (fDst (VrndArgs.enc ⟨d, a, key, km, mz, f⟩).1) = d := by
    have z0 := Bool.toNat_lt mz; have z1 := Bool.toNat_lt f; cases_type* RegImm <;> (simp [VrndArgs.ok, RegImm.ok] at h; simp only [VrndArgs.enc, f3, fDst, RegImm.field, RegImm.pay] <;> omega)
  have e1 : (fSa (VrndArgs.enc ⟨d, a, key, km, mz, f⟩).1) = a := by
    clear e0; have z0 := Bool.toNat_lt mz; have z1 := Bool.toNat_lt f; cases_type* RegImm <;> (simp [VrndArgs.ok, RegImm.ok] at h; simp only [VrndArgs.enc, f3, fSa, RegImm.field, RegImm.pay] <;> omega)
  have e2 : (RegImm.dec (fSb (VrndArgs.enc ⟨d, a, key, km, mz, f⟩).1) (VrndArgs.enc ⟨d, a, key, km, mz, f⟩).2) = key := by
    clear e0 e1; have z0 := Bool.toNat_lt mz; have z1 := Bool.toNat_lt f; cases_type* RegImm <;> (simp [VrndArgs.ok, RegImm.ok] at h; simp [VrndArgs.enc, f3, fSb, RegImm.field, RegImm.pay, RegImm.dec, fDst, fSa, fI, fQd, bit] <;> first | omega | (split <;> first | omega | rfl | (exfalso; omega) | (congr 1; omega) | exact beq_of (by omega)) | rfl)
  have e3 : (fFn (VrndArgs.enc ⟨d, a, key, km, mz, f⟩).1 / 32) = km := by
    clear e0 e1 e2; have z0 := Bool.toNat_lt mz; have z1 := Bool.toNat_lt f; cases_type* RegImm <;> (simp [VrndArgs.ok, RegImm.ok] at h; simp only [VrndArgs.enc, f3, fFn, RegImm.field, RegImm.pay] <;> omega)
  have e4 : (bit (VrndArgs.enc ⟨d, a, key, km, mz, f⟩).1 4) = mz := by
    clear e0 e1 e2 e3; have z0 := Bool.toNat_lt mz; have z1 := Bool.toNat_lt f; refine bit_of ?_; cases_type* RegImm <;> (simp [VrndArgs.ok, RegImm.ok] at h; simp only [VrndArgs.enc, f3, RegImm.field, RegImm.pay, Nat.reducePow] <;> omega)
  have e5 : (bit (VrndArgs.enc ⟨d, a, key, km, mz, f⟩).1 0) = f := by
    clear e0 e1 e2 e3 e4; have z0 := Bool.toNat_lt mz; have z1 := Bool.toNat_lt f; refine bit_of ?_; cases_type* RegImm <;> (simp [VrndArgs.ok, RegImm.ok] at h; simp only [VrndArgs.enc, f3, RegImm.field, RegImm.pay, Nat.reducePow] <;> omega)
  simp only [VrndArgs.dec, e0, e1, e2, e3, e4, e5]
  exact accept_self h

theorem VdotArgs.dec_enc {o : VdotArgs} (h : o.ok = true) : VdotArgs.dec o.enc.1 o.enc.2 = .ok o := by
  rcases o with ⟨d, a, b, km, mz, ty⟩
  have e0 : ((VdotArgs.enc ⟨d, a, b, km, mz, ty⟩).1 % 16) = ty.code := by
    have l0 := DotTy.code_lt ty; have z0 := Bool.toNat_lt mz; (simp [VdotArgs.ok] at h; simp only [VdotArgs.enc, f3] <;> omega)
  have e1 : (fDst (VdotArgs.enc ⟨d, a, b, km, mz, ty⟩).1) = d := by
    clear e0; have l0 := DotTy.code_lt ty; have z0 := Bool.toNat_lt mz; (simp [VdotArgs.ok] at h; simp only [VdotArgs.enc, f3, fDst] <;> omega)
  have e2 : (fSa (VdotArgs.enc ⟨d, a, b, km, mz, ty⟩).1) = a := by
    clear e0 e1; have l0 := DotTy.code_lt ty; have z0 := Bool.toNat_lt mz; (simp [VdotArgs.ok] at h; simp only [VdotArgs.enc, f3, fSa] <;> omega)
  have e3 : (fSb (VdotArgs.enc ⟨d, a, b, km, mz, ty⟩).1) = b := by
    clear e0 e1 e2; have l0 := DotTy.code_lt ty; have z0 := Bool.toNat_lt mz; (simp [VdotArgs.ok] at h; simp only [VdotArgs.enc, f3, fSb] <;> omega)
  have e4 : (fFn (VdotArgs.enc ⟨d, a, b, km, mz, ty⟩).1 / 32) = km := by
    clear e0 e1 e2 e3; have l0 := DotTy.code_lt ty; have z0 := Bool.toNat_lt mz; (simp [VdotArgs.ok] at h; simp only [VdotArgs.enc, f3, fFn] <;> omega)
  have e5 : (bit (VdotArgs.enc ⟨d, a, b, km, mz, ty⟩).1 4) = mz := by
    clear e0 e1 e2 e3 e4; have l0 := DotTy.code_lt ty; have z0 := Bool.toNat_lt mz; refine bit_of ?_; (simp [VdotArgs.ok] at h; simp only [VdotArgs.enc, f3, Nat.reducePow] <;> omega)
  simp only [VdotArgs.dec, operand_some, e0, e1, e2, e3, e4, e5, DotTy.ofCode_code]
  exact accept_self h

theorem MlogArgs.dec_enc {o : MlogArgs} (h : o.ok = true) : MlogArgs.dec o.enc.1 o.enc.2 = .ok o := by
  rcases o with ⟨m, a, b, f⟩
  have e0 : (fFn (MlogArgs.enc ⟨m, a, b, f⟩).1) = f.code := by
    have l0 := LogicFn.code_lt f; (simp [MlogArgs.ok] at h; simp only [MlogArgs.enc, f3, fFn] <;> omega)
  have e1 : (fDst (MlogArgs.enc ⟨m, a, b, f⟩).1) = m := by
    clear e0; have l0 := LogicFn.code_lt f; (simp [MlogArgs.ok] at h; simp only [MlogArgs.enc, f3, fDst] <;> omega)
  have e2 : (fSa (MlogArgs.enc ⟨m, a, b, f⟩).1) = a := by
    clear e0 e1; have l0 := LogicFn.code_lt f; (simp [MlogArgs.ok] at h; simp only [MlogArgs.enc, f3, fSa] <;> omega)
  have e3 : (fSb (MlogArgs.enc ⟨m, a, b, f⟩).1) = b := by
    clear e0 e1 e2; have l0 := LogicFn.code_lt f; (simp [MlogArgs.ok] at h; simp only [MlogArgs.enc, f3, fSb] <;> omega)
  simp only [MlogArgs.dec, operand_some, e0, e1, e2, e3, LogicFn.ofCode_code]
  exact accept_self h

theorem MpopArgs.dec_enc {o : MpopArgs} (h : o.ok = true) : MpopArgs.dec o.enc.1 o.enc.2 = .ok o := by
  rcases o with ⟨d, m⟩
  have e0 : (fDst (MpopArgs.enc ⟨d, m⟩).1) = d := by
    (simp [MpopArgs.ok] at h; simp only [MpopArgs.enc, f3, fDst] <;> omega)
  have e1 : (fSa (MpopArgs.enc ⟨d, m⟩).1) = m := by
    clear e0; (simp [MpopArgs.ok] at h; simp only [MpopArgs.enc, f3, fSa] <;> omega)
  simp only [MpopArgs.dec, e0, e1]
  exact accept_self h

theorem MffArgs.dec_enc {o : MffArgs} (h : o.ok = true) : MffArgs.dec o.enc.1 o.enc.2 = .ok o := by
  rcases o with ⟨d, m, last⟩
  have e0 : (fDst (MffArgs.enc ⟨d, m, last⟩).1) = d := by
    have z0 := Bool.toNat_lt last; (simp [MffArgs.ok] at h; simp only [MffArgs.enc, f3, fDst] <;> omega)
  have e1 : (fSa (MffArgs.enc ⟨d, m, last⟩).1) = m := by
    clear e0; have z0 := Bool.toNat_lt last; (simp [MffArgs.ok] at h; simp only [MffArgs.enc, f3, fSa] <;> omega)
  have e2 : (bit (MffArgs.enc ⟨d, m, last⟩).1 0) = last := by
    clear e0 e1; have z0 := Bool.toNat_lt last; refine bit_of ?_; (simp [MffArgs.ok] at h; simp only [MffArgs.enc, f3, Nat.reducePow] <;> omega)
  simp only [MffArgs.dec, e0, e1, e2]
  exact accept_self h

theorem VldArgs.dec_enc {o : VldArgs} (h : o.ok = true) : VldArgs.dec o.enc.1 o.enc.2 = .ok o := by
  rcases o with ⟨v, a, m, off⟩
  have e0 : (fDst (VldArgs.enc ⟨v, a, m, off⟩).1) = v := by
    have z0 := Bool.toNat_lt m; cases_type* Off <;> (simp [VldArgs.ok, Off.ok, areg] at h; simp only [VldArgs.enc, fm, fDst, Off.field, Off.pay] <;> omega)
  have e1 : (memA (VldArgs.enc ⟨v, a, m, off⟩).1) = a := by
    clear e0; have z0 := Bool.toNat_lt m; cases_type* Off <;> (simp [VldArgs.ok, Off.ok, areg] at h; simp only [VldArgs.enc, fm, memA, Off.field, Off.pay] <;> omega)
  have e2 : (bit (VldArgs.enc ⟨v, a, m, off⟩).1 18) = m := by
    clear e0 e1; have z0 := Bool.toNat_lt m; refine bit_of ?_; cases_type* Off <;> (simp [VldArgs.ok, Off.ok, areg] at h; simp only [VldArgs.enc, fm, Off.field, Off.pay, Nat.reducePow] <;> omega)
  have e3 : (Off.dec (VldArgs.enc ⟨v, a, m, off⟩).1 (VldArgs.enc ⟨v, a, m, off⟩).2) = off := by
    clear e0 e1 e2; have z0 := Bool.toNat_lt m; cases_type* Off <;> (simp [VldArgs.ok, Off.ok, areg] at h; simp [VldArgs.enc, fm, Off.field, Off.pay, Off.dec, fDst, fSa, fSb, fI, fQd, bit] <;> first | omega | (split <;> first | omega | rfl | (exfalso; omega) | (congr 1; omega) | exact beq_of (by omega)) | rfl)
  simp only [VldArgs.dec, e0, e1, e2, e3]
  exact accept_self h

theorem VstArgs.dec_enc {o : VstArgs} (h : o.ok = true) : VstArgs.dec o.enc.1 o.enc.2 = .ok o := by
  rcases o with ⟨v, a, m, off⟩
  have e0 : (fDst (VstArgs.enc ⟨v, a, m, off⟩).1) = v := by
    have z0 := Bool.toNat_lt m; cases_type* Off <;> (simp [VstArgs.ok, Off.ok, areg] at h; simp only [VstArgs.enc, fm, fDst, Off.field, Off.pay] <;> omega)
  have e1 : (memA (VstArgs.enc ⟨v, a, m, off⟩).1) = a := by
    clear e0; have z0 := Bool.toNat_lt m; cases_type* Off <;> (simp [VstArgs.ok, Off.ok, areg] at h; simp only [VstArgs.enc, fm, memA, Off.field, Off.pay] <;> omega)
  have e2 : (bit (VstArgs.enc ⟨v, a, m, off⟩).1 18) = m := by
    clear e0 e1; have z0 := Bool.toNat_lt m; refine bit_of ?_; cases_type* Off <;> (simp [VstArgs.ok, Off.ok, areg] at h; simp only [VstArgs.enc, fm, Off.field, Off.pay, Nat.reducePow] <;> omega)
  have e3 : (Off.dec (VstArgs.enc ⟨v, a, m, off⟩).1 (VstArgs.enc ⟨v, a, m, off⟩).2) = off := by
    clear e0 e1 e2; have z0 := Bool.toNat_lt m; cases_type* Off <;> (simp [VstArgs.ok, Off.ok, areg] at h; simp [VstArgs.enc, fm, Off.field, Off.pay, Off.dec, fDst, fSa, fSb, fI, fQd, bit] <;> first | omega | (split <;> first | omega | rfl | (exfalso; omega) | (congr 1; omega) | exact beq_of (by omega)) | rfl)
  simp only [VstArgs.dec, e0, e1, e2, e3]
  exact accept_self h

theorem VldsArgs.dec_enc {o : VldsArgs} (h : o.ok = true) : VldsArgs.dec o.enc.1 o.enc.2 = .ok o := by
  rcases o with ⟨v, a, km, stride⟩
  have e0 : (fDst (VldsArgs.enc ⟨v, a, km, stride⟩).1) = v := by
    cases_type* Stride <;> (simp [VldsArgs.ok, Stride.ok] at h; simp only [VldsArgs.enc, fm, fDst, Stride.field, Stride.pay] <;> omega)
  have e1 : (memA (VldsArgs.enc ⟨v, a, km, stride⟩).1) = a := by
    clear e0; cases_type* Stride <;> (simp [VldsArgs.ok, Stride.ok] at h; simp only [VldsArgs.enc, fm, memA, Stride.field, Stride.pay] <;> omega)
  have e2 : ((VldsArgs.enc ⟨v, a, km, stride⟩).1 / 0x2000 % 8) = km := by
    clear e0 e1; cases_type* Stride <;> (simp [VldsArgs.ok, Stride.ok] at h; simp only [VldsArgs.enc, fm, Stride.field, Stride.pay] <;> omega)
  have e3 : (Stride.dec (VldsArgs.enc ⟨v, a, km, stride⟩).1 (VldsArgs.enc ⟨v, a, km, stride⟩).2) = stride := by
    clear e0 e1 e2; cases_type* Stride <;> (simp [VldsArgs.ok, Stride.ok] at h; simp [VldsArgs.enc, fm, Stride.field, Stride.pay, Stride.dec, fDst, fSa, fSb, fI, fQd, bit] <;> first | omega | (split <;> first | omega | rfl | (exfalso; omega) | (congr 1; omega) | exact beq_of (by omega)) | rfl)
  simp only [VldsArgs.dec, e0, e1, e2, e3]
  exact accept_self h

theorem VldxArgs.dec_enc {o : VldxArgs} (h : o.ok = true) : VldxArgs.dec o.enc.1 o.enc.2 = .ok o := by
  rcases o with ⟨v, a, vi, sh, km, z⟩
  have e0 : (fDst (VldxArgs.enc ⟨v, a, vi, sh, km, z⟩).1) = v := by
    have z0 := Bool.toNat_lt z; (simp [VldxArgs.ok] at h; simp only [VldxArgs.enc, fm, fDst] <;> omega)
  have e1 : (memA (VldxArgs.enc ⟨v, a, vi, sh, km, z⟩).1) = a := by
    clear e0; have z0 := Bool.toNat_lt z; (simp [VldxArgs.ok] at h; simp only [VldxArgs.enc, fm, memA] <;> omega)
  have e2 : ((VldxArgs.enc ⟨v, a, vi, sh, km, z⟩).1 % 256) = vi := by
    clear e0 e1; have z0 := Bool.toNat_lt z; (simp [VldxArgs.ok] at h; simp only [VldxArgs.enc, fm] <;> omega)
  have e3 : ((VldxArgs.enc ⟨v, a, vi, sh, km, z⟩).1 / 0x800 % 4) = sh := by
    clear e0 e1 e2; have z0 := Bool.toNat_lt z; (simp [VldxArgs.ok] at h; simp only [VldxArgs.enc, fm] <;> omega)
  have e4 : ((VldxArgs.enc ⟨v, a, vi, sh, km, z⟩).1 / 0x2000 % 8) = km := by
    clear e0 e1 e2 e3; have z0 := Bool.toNat_lt z; (simp [VldxArgs.ok] at h; simp only [VldxArgs.enc, fm] <;> omega)
  have e5 : (bit (VldxArgs.enc ⟨v, a, vi, sh, km, z⟩).1 10) = z := by
    clear e0 e1 e2 e3 e4; have z0 := Bool.toNat_lt z; refine bit_of ?_; (simp [VldxArgs.ok] at h; simp only [VldxArgs.enc, fm, Nat.reducePow] <;> omega)
  simp only [VldxArgs.dec, e0, e1, e2, e3, e4, e5]
  exact accept_self h

theorem PostArgs.dec_enc {o : PostArgs} (h : o.ok = true) : PostArgs.dec o.enc.1 o.enc.2 = .ok o := by
  rcases o with ⟨a, hw, nb, s⟩
  have e0 : (fSa (PostArgs.enc ⟨a, hw, nb, s⟩).1) = a := by
    have z0 := Bool.toNat_lt s; cases_type* Option <;> (simp [PostArgs.ok] at h; simp only [PostArgs.enc, fk, fSa, Option.getD_none, Option.getD_some, Option.isSome_none, Option.isSome_some, Bool.toNat_true, Bool.toNat_false] <;> omega)
  have e1 : (if bit (PostArgs.enc ⟨a, hw, nb, s⟩).1 14 then some (fDst (PostArgs.enc ⟨a, hw, nb, s⟩).1) else none) = hw := by
    clear e0; have z0 := Bool.toNat_lt s; cases_type* Option <;> (simp [PostArgs.ok] at h; simp [PostArgs.enc, fk, fDst, fSa, fSb, fI, fQd, bit] <;> first | omega | (split <;> first | omega | rfl | (exfalso; omega) | (congr 1; omega) | exact beq_of (by omega)) | rfl)
  have e2 : (if bit (PostArgs.enc ⟨a, hw, nb, s⟩).1 12 then some ((PostArgs.enc ⟨a, hw, nb, s⟩).1 % 0x1000) else none) = nb := by
    clear e0 e1; have z0 := Bool.toNat_lt s; cases_type* Option <;> (simp [PostArgs.ok] at h; simp [PostArgs.enc, fk, fDst, fSa, fSb, fI, fQd, bit] <;> first | omega | (split <;> first | omega | rfl | (exfalso; omega) | (congr 1; omega) | exact beq_of (by omega)) | rfl)
  have e3 : (bit (PostArgs.enc ⟨a, hw, nb, s⟩).1 13) = s := by
    clear e0 e1 e2; have z0 := Bool.toNat_lt s; refine bit_of ?_; cases_type* Option <;> (simp [PostArgs.ok] at h; simp only [PostArgs.enc, fk, Option.getD_none, Option.getD_some, Option.isSome_none, Option.isSome_some, Bool.toNat_true, Bool.toNat_false, Nat.reducePow] <;> omega)
  simp only [PostArgs.dec, e0, e1, e2, e3]
  exact accept_self h

theorem PostxArgs.dec_enc {o : PostxArgs} (h : o.ok = true) : PostxArgs.dec o.enc.1 o.enc.2 = .ok o := by
  rcases o with ⟨q, a, g⟩
  have e0 : (fDst (PostxArgs.enc ⟨q, a, g⟩).1) = q := by
    (simp [PostxArgs.ok] at h; simp only [PostxArgs.enc, fk, fDst] <;> omega)
  have e1 : (fSa (PostxArgs.enc ⟨q, a, g⟩).1) = a := by
    clear e0; (simp [PostxArgs.ok] at h; simp only [PostxArgs.enc, fk, fSa] <;> omega)
  have e2 : ((PostxArgs.enc ⟨q, a, g⟩).1 % 0x1000) = g := by
    clear e0 e1; (simp [PostxArgs.ok] at h; simp only [PostxArgs.enc, fk] <;> omega)
  simp only [PostxArgs.dec, e0, e1, e2]
  exact accept_self h

theorem FdefArgs.dec_enc {o : FdefArgs} (h : o.ok = true) : FdefArgs.dec o.enc.1 o.enc.2 = .ok o := by
  rcases o with ⟨n, a⟩
  have e0 : ((FdefArgs.enc ⟨n, a⟩).1 % 0x1000) = n := by
    (simp [FdefArgs.ok] at h; simp only [FdefArgs.enc, fk] <;> omega)
  have e1 : (fSa (FdefArgs.enc ⟨n, a⟩).1) = a := by
    clear e0; (simp [FdefArgs.ok] at h; simp only [FdefArgs.enc, fk, fSa] <;> omega)
  simp only [FdefArgs.dec, e0, e1]
  exact accept_self h

theorem FrelArgs.dec_enc {o : FrelArgs} (h : o.ok = true) : FrelArgs.dec o.enc.1 o.enc.2 = .ok o := by
  rcases o with ⟨n⟩
  have e0 : ((FrelArgs.enc ⟨n⟩).1 % 0x1000) = n := by
    (simp [FrelArgs.ok] at h; simp only [FrelArgs.enc, fk] <;> omega)
  simp only [FrelArgs.dec, e0]
  exact accept_self h

theorem RinitArgs.dec_enc {o : RinitArgs} (h : o.ok = true) : RinitArgs.dec o.enc.1 o.enc.2 = .ok o := by
  rcases o with ⟨k, a⟩
  have e0 : (fDst (RinitArgs.enc ⟨k, a⟩).1) = k := by
    (simp [RinitArgs.ok] at h; simp only [RinitArgs.enc, fk, fDst] <;> omega)
  have e1 : (fSa (RinitArgs.enc ⟨k, a⟩).1) = a := by
    clear e0; (simp [RinitArgs.ok] at h; simp only [RinitArgs.enc, fk, fSa] <;> omega)
  simp only [RinitArgs.dec, e0, e1]
  exact accept_self h

theorem CwaitArgs.dec_enc {o : CwaitArgs} (h : o.ok = true) : CwaitArgs.dec o.enc.1 o.enc.2 = .ok o := by
  rcases o with ⟨c, t⟩
  have e0 : ((CwaitArgs.enc ⟨c, t⟩).1 % 0x1000) = c := by
    cases_type* RegImm <;> (simp [CwaitArgs.ok, RegImm.ok] at h; simp only [CwaitArgs.enc, fk, RegImm.field, RegImm.pay] <;> omega)
  have e1 : (RegImm.dec (fSa (CwaitArgs.enc ⟨c, t⟩).1) (CwaitArgs.enc ⟨c, t⟩).2) = t := by
    clear e0; cases_type* RegImm <;> (simp [CwaitArgs.ok, RegImm.ok] at h; simp [CwaitArgs.enc, fk, fSa, RegImm.field, RegImm.pay, RegImm.dec, fDst, fSb, fI, fQd, bit] <;> first | omega | (split <;> first | omega | rfl | (exfalso; omega) | (congr 1; omega) | exact beq_of (by omega)) | rfl)
  simp only [CwaitArgs.dec, e0, e1]
  exact accept_self h

theorem CwaitNbArgs.dec_enc {o : CwaitNbArgs} (h : o.ok = true) : CwaitNbArgs.dec o.enc.1 o.enc.2 = .ok o := by
  rcases o with ⟨p, c, t⟩
  have e0 : (fDst (CwaitNbArgs.enc ⟨p, c, t⟩).1) = p := by
    cases_type* RegImm <;> (simp [CwaitNbArgs.ok, RegImm.ok] at h; simp only [CwaitNbArgs.enc, fk, fDst, RegImm.field, RegImm.pay] <;> omega)
  have e1 : ((CwaitNbArgs.enc ⟨p, c, t⟩).1 % 0x1000) = c := by
    clear e0; cases_type* RegImm <;> (simp [CwaitNbArgs.ok, RegImm.ok] at h; simp only [CwaitNbArgs.enc, fk, RegImm.field, RegImm.pay] <;> omega)
  have e2 : (RegImm.dec (fSa (CwaitNbArgs.enc ⟨p, c, t⟩).1) (CwaitNbArgs.enc ⟨p, c, t⟩).2) = t := by
    clear e0 e1; cases_type* RegImm <;> (simp [CwaitNbArgs.ok, RegImm.ok] at h; simp [CwaitNbArgs.enc, fk, fSa, RegImm.field, RegImm.pay, RegImm.dec, fDst, fSb, fI, fQd, bit] <;> first | omega | (split <;> first | omega | rfl | (exfalso; omega) | (congr 1; omega) | exact beq_of (by omega)) | rfl)
  simp only [CwaitNbArgs.dec, e0, e1, e2]
  exact accept_self h

theorem CsigArgs.dec_enc {o : CsigArgs} (h : o.ok = true) : CsigArgs.dec o.enc.1 o.enc.2 = .ok o := by
  rcases o with ⟨c, v⟩
  have e0 : ((CsigArgs.enc ⟨c, v⟩).1 % 0x1000) = c := by
    cases_type* RegImm <;> (simp [CsigArgs.ok, RegImm.ok] at h; simp only [CsigArgs.enc, fk, RegImm.field, RegImm.pay] <;> omega)
  have e1 : (RegImm.dec (fSa (CsigArgs.enc ⟨c, v⟩).1) (CsigArgs.enc ⟨c, v⟩).2) = v := by
    clear e0; cases_type* RegImm <;> (simp [CsigArgs.ok, RegImm.ok] at h; simp [CsigArgs.enc, fk, fSa, RegImm.field, RegImm.pay, RegImm.dec, fDst, fSb, fI, fQd, bit] <;> first | omega | (split <;> first | omega | rfl | (exfalso; omega) | (congr 1; omega) | exact beq_of (by omega)) | rfl)
  simp only [CsigArgs.dec, e0, e1]
  exact accept_self h

theorem CsigRArgs.dec_enc {o : CsigRArgs} (h : o.ok = true) : CsigRArgs.dec o.enc.1 o.enc.2 = .ok o := by
  rcases o with ⟨c, v, g⟩
  have e0 : ((CsigRArgs.enc ⟨c, v, g⟩).1 % 0x1000) = c := by
    cases_type* RegImm <;> (simp [CsigRArgs.ok, RegImm.ok] at h; simp only [CsigRArgs.enc, fk, RegImm.field, RegImm.pay] <;> omega)
  have e1 : (RegImm.dec (fSa (CsigRArgs.enc ⟨c, v, g⟩).1) (CsigRArgs.enc ⟨c, v, g⟩).2) = v := by
    clear e0; cases_type* RegImm <;> (simp [CsigRArgs.ok, RegImm.ok] at h; simp [CsigRArgs.enc, fk, fSa, RegImm.field, RegImm.pay, RegImm.dec, fDst, fSb, fI, fQd, bit] <;> first | omega | (split <;> first | omega | rfl | (exfalso; omega) | (congr 1; omega) | exact beq_of (by omega)) | rfl)
  have e2 : (fDst (CsigRArgs.enc ⟨c, v, g⟩).1) = g := by
    clear e0 e1; cases_type* RegImm <;> (simp [CsigRArgs.ok, RegImm.ok] at h; simp only [CsigRArgs.enc, fk, fDst, RegImm.field, RegImm.pay] <;> omega)
  simp only [CsigRArgs.dec, e0, e1, e2]
  exact accept_self h

theorem CrdArgs.dec_enc {o : CrdArgs} (h : o.ok = true) : CrdArgs.dec o.enc.1 o.enc.2 = .ok o := by
  rcases o with ⟨d, c⟩
  have e0 : (fDst (CrdArgs.enc ⟨d, c⟩).1) = d := by
    (simp [CrdArgs.ok] at h; simp only [CrdArgs.enc, fk, fDst] <;> omega)
  have e1 : ((CrdArgs.enc ⟨d, c⟩).1 % 0x1000) = c := by
    clear e0; (simp [CrdArgs.ok] at h; simp only [CrdArgs.enc, fk] <;> omega)
  simp only [CrdArgs.dec, e0, e1]
  exact accept_self h

theorem TagwArgs.dec_enc {o : TagwArgs} (h : o.ok = true) : TagwArgs.dec o.enc.1 o.enc.2 = .ok o := by
  rcases o with ⟨g, all⟩
  have e0 : (fSa (TagwArgs.enc ⟨g, all⟩).1) = g := by
    have z0 := Bool.toNat_lt all; (simp [TagwArgs.ok] at h; simp only [TagwArgs.enc, fk, fSa] <;> omega)
  have e1 : (bit (TagwArgs.enc ⟨g, all⟩).1 12) = all := by
    clear e0; have z0 := Bool.toNat_lt all; refine bit_of ?_; (simp [TagwArgs.ok] at h; simp only [TagwArgs.enc, fk, Nat.reducePow] <;> omega)
  simp only [TagwArgs.dec, e0, e1]
  exact accept_self h

theorem TagwNbArgs.dec_enc {o : TagwNbArgs} (h : o.ok = true) : TagwNbArgs.dec o.enc.1 o.enc.2 = .ok o := by
  rcases o with ⟨p, g, all⟩
  have e0 : ((TagwNbArgs.enc ⟨p, g, all⟩).1 % 0x1000) = p := by
    have z0 := Bool.toNat_lt all; (simp [TagwNbArgs.ok] at h; simp only [TagwNbArgs.enc, fk] <;> omega)
  have e1 : (fSa (TagwNbArgs.enc ⟨p, g, all⟩).1) = g := by
    clear e0; have z0 := Bool.toNat_lt all; (simp [TagwNbArgs.ok] at h; simp only [TagwNbArgs.enc, fk, fSa] <;> omega)
  have e2 : (bit (TagwNbArgs.enc ⟨p, g, all⟩).1 12) = all := by
    clear e0 e1; have z0 := Bool.toNat_lt all; refine bit_of ?_; (simp [TagwNbArgs.ok] at h; simp only [TagwNbArgs.enc, fk, Nat.reducePow] <;> omega)
  simp only [TagwNbArgs.dec, e0, e1, e2]
  exact accept_self h

theorem TagffArgs.dec_enc {o : TagffArgs} (h : o.ok = true) : TagffArgs.dec o.enc.1 o.enc.2 = .ok o := by
  rcases o with ⟨d, g⟩
  have e0 : (fDst (TagffArgs.enc ⟨d, g⟩).1) = d := by
    (simp [TagffArgs.ok] at h; simp only [TagffArgs.enc, fk, fDst] <;> omega)
  have e1 : (fSa (TagffArgs.enc ⟨d, g⟩).1) = g := by
    clear e0; (simp [TagffArgs.ok] at h; simp only [TagffArgs.enc, fk, fSa] <;> omega)
  simp only [TagffArgs.dec, e0, e1]
  exact accept_self h

theorem TagclrArgs.dec_enc {o : TagclrArgs} (h : o.ok = true) : TagclrArgs.dec o.enc.1 o.enc.2 = .ok o := by
  rcases o with ⟨g⟩
  have e0 : (fSa (TagclrArgs.enc ⟨g⟩).1) = g := by
    (simp [TagclrArgs.ok] at h; simp only [TagclrArgs.enc, fk, fSa] <;> omega)
  simp only [TagclrArgs.dec, e0]
  exact accept_self h

theorem KmodeArgs.dec_enc {o : KmodeArgs} (h : o.ok = true) : KmodeArgs.dec o.enc.1 o.enc.2 = .ok o := by
  rcases o with ⟨cls, rm⟩
  have e0 : ((KmodeArgs.enc ⟨cls, rm⟩).1 % 4) = cls.code := by
    have l0 := EngClass.code_lt cls; have l1 := RoundMode.code_lt rm; (simp [KmodeArgs.ok] at h; simp only [KmodeArgs.enc, fk] <;> omega)
  have e1 : ((KmodeArgs.enc ⟨cls, rm⟩).1 / 4 % 0x400) = rm.code := by
    clear e0; have l0 := EngClass.code_lt cls; have l1 := RoundMode.code_lt rm; (simp [KmodeArgs.ok] at h; simp only [KmodeArgs.enc, fk] <;> omega)
  simp only [KmodeArgs.dec, operand_some, e0, e1, EngClass.ofCode_code, RoundMode.ofCode_code]
  exact accept_self h

theorem KqryStArgs.dec_enc {o : KqryStArgs} (h : o.ok = true) : KqryStArgs.dec o.enc.1 o.enc.2 = .ok o := by
  rcases o with ⟨d, g⟩
  have e0 : (fDst (KqryStArgs.enc ⟨d, g⟩).1) = d := by
    (simp [KqryStArgs.ok] at h; simp only [KqryStArgs.enc, fk, fDst] <;> omega)
  have e1 : (fSa (KqryStArgs.enc ⟨d, g⟩).1) = g := by
    clear e0; (simp [KqryStArgs.ok] at h; simp only [KqryStArgs.enc, fk, fSa] <;> omega)
  simp only [KqryStArgs.dec, e0, e1]
  exact accept_self h

theorem KqryOccArgs.dec_enc {o : KqryOccArgs} (h : o.ok = true) : KqryOccArgs.dec o.enc.1 o.enc.2 = .ok o := by
  rcases o with ⟨d⟩
  have e0 : (fDst (KqryOccArgs.enc ⟨d⟩).1) = d := by
    (simp [KqryOccArgs.ok] at h; simp only [KqryOccArgs.enc, fk, fDst] <;> omega)
  simp only [KqryOccArgs.dec, e0]
  exact accept_self h

theorem KqryVerArgs.dec_enc {o : KqryVerArgs} (h : o.ok = true) : KqryVerArgs.dec o.enc.1 o.enc.2 = .ok o := by
  rcases o with ⟨d, n⟩
  have e0 : (fDst (KqryVerArgs.enc ⟨d, n⟩).1) = d := by
    (simp [KqryVerArgs.ok] at h; simp only [KqryVerArgs.enc, fk, fDst] <;> omega)
  have e1 : ((KqryVerArgs.enc ⟨d, n⟩).1 % 0x1000) = n := by
    clear e0; (simp [KqryVerArgs.ok] at h; simp only [KqryVerArgs.enc, fk] <;> omega)
  simp only [KqryVerArgs.dec, e0, e1]
  exact accept_self h

theorem NestArgs.dec_enc {o : NestArgs} (h : o.ok = true) : NestArgs.dec o.enc.1 o.enc.2 = .ok o := by
  rcases o with ⟨p, ap, ar⟩
  have e0 : ((NestArgs.enc ⟨p, ap, ar⟩).1 % 0x1000) = p := by
    (simp [NestArgs.ok] at h; simp only [NestArgs.enc, fk] <;> omega)
  have e1 : (fDst (NestArgs.enc ⟨p, ap, ar⟩).1) = ap := by
    clear e0; (simp [NestArgs.ok] at h; simp only [NestArgs.enc, fk, fDst] <;> omega)
  have e2 : (fSa (NestArgs.enc ⟨p, ap, ar⟩).1) = ar := by
    clear e0 e1; (simp [NestArgs.ok] at h; simp only [NestArgs.enc, fk, fSa] <;> omega)
  simp only [NestArgs.dec, e0, e1, e2]
  exact accept_self h

theorem SettagArgs.dec_enc {o : SettagArgs} (h : o.ok = true) : SettagArgs.dec o.enc.1 o.enc.2 = .ok o := by
  rcases o with ⟨t⟩
  have e0 : (RegImm.dec (fSa (SettagArgs.enc ⟨t⟩).1) (SettagArgs.enc ⟨t⟩).2) = t := by
    cases_type* RegImm <;> (simp [SettagArgs.ok, RegImm.ok] at h; simp [SettagArgs.enc, fk, fSa, RegImm.field, RegImm.pay, RegImm.dec, fDst, fSb, fI, fQd, bit] <;> first | omega | (split <;> first | omega | rfl | (exfalso; omega) | (congr 1; omega) | exact beq_of (by omega)) | rfl)
  simp only [SettagArgs.dec, e0]
  exact accept_self h

theorem CsrrArgs.dec_enc {o : CsrrArgs} (h : o.ok = true) : CsrrArgs.dec o.enc.1 o.enc.2 = .ok o := by
  rcases o with ⟨d, csr⟩
  have e0 : (fDst (CsrrArgs.enc ⟨d, csr⟩).1) = d := by
    (simp [CsrrArgs.ok] at h; simp only [CsrrArgs.enc, fk, fDst] <;> omega)
  have e1 : ((CsrrArgs.enc ⟨d, csr⟩).1 % 0x1000) = csr := by
    clear e0; (simp [CsrrArgs.ok] at h; simp only [CsrrArgs.enc, fk] <;> omega)
  simp only [CsrrArgs.dec, e0, e1]
  exact accept_self h

theorem CsrwArgs.dec_enc {o : CsrwArgs} (h : o.ok = true) : CsrwArgs.dec o.enc.1 o.enc.2 = .ok o := by
  rcases o with ⟨csr, v⟩
  have e0 : ((CsrwArgs.enc ⟨csr, v⟩).1 % 0x1000) = csr := by
    cases_type* RegImm <;> (simp [CsrwArgs.ok, RegImm.ok] at h; simp only [CsrwArgs.enc, fk, RegImm.field, RegImm.pay] <;> omega)
  have e1 : (RegImm.dec (fSa (CsrwArgs.enc ⟨csr, v⟩).1) (CsrwArgs.enc ⟨csr, v⟩).2) = v := by
    clear e0; cases_type* RegImm <;> (simp [CsrwArgs.ok, RegImm.ok] at h; simp [CsrwArgs.enc, fk, fSa, RegImm.field, RegImm.pay, RegImm.dec, fDst, fSb, fI, fQd, bit] <;> first | omega | (split <;> first | omega | rfl | (exfalso; omega) | (congr 1; omega) | exact beq_of (by omega)) | rfl)
  simp only [CsrwArgs.dec, e0, e1]
  exact accept_self h

theorem CsrxArgs.dec_enc {o : CsrxArgs} (h : o.ok = true) : CsrxArgs.dec o.enc.1 o.enc.2 = .ok o := by
  rcases o with ⟨d, csr, s⟩
  have e0 : (fDst (CsrxArgs.enc ⟨d, csr, s⟩).1) = d := by
    (simp [CsrxArgs.ok] at h; simp only [CsrxArgs.enc, fk, fDst] <;> omega)
  have e1 : ((CsrxArgs.enc ⟨d, csr, s⟩).1 % 0x1000) = csr := by
    clear e0; (simp [CsrxArgs.ok] at h; simp only [CsrxArgs.enc, fk] <;> omega)
  have e2 : (fSa (CsrxArgs.enc ⟨d, csr, s⟩).1) = s := by
    clear e0 e1; (simp [CsrxArgs.ok] at h; simp only [CsrxArgs.enc, fk, fSa] <;> omega)
  simp only [CsrxArgs.dec, e0, e1, e2]
  exact accept_self h

theorem YieldFArgs.dec_enc {o : YieldFArgs} (h : o.ok = true) : YieldFArgs.dec o.enc.1 o.enc.2 = .ok o := by
  rcases o with ⟨p⟩
  have e0 : (fDst (YieldFArgs.enc ⟨p⟩).1) = p := by
    (simp [YieldFArgs.ok] at h; simp only [YieldFArgs.enc, fk, fDst] <;> omega)
  simp only [YieldFArgs.dec, e0]
  exact accept_self h

theorem XlateRArgs.dec_enc {o : XlateRArgs} (h : o.ok = true) : XlateRArgs.dec o.enc.1 o.enc.2 = .ok o := by
  rcases o with ⟨p, a⟩
  have e0 : (fDst (XlateRArgs.enc ⟨p, a⟩).1) = p := by
    (simp [XlateRArgs.ok] at h; simp only [XlateRArgs.enc, fk, fDst] <;> omega)
  have e1 : (fSa (XlateRArgs.enc ⟨p, a⟩).1) = a := by
    clear e0; (simp [XlateRArgs.ok] at h; simp only [XlateRArgs.enc, fk, fSa] <;> omega)
  simp only [XlateRArgs.dec, e0, e1]
  exact accept_self h

theorem XlateWArgs.dec_enc {o : XlateWArgs} (h : o.ok = true) : XlateWArgs.dec o.enc.1 o.enc.2 = .ok o := by
  rcases o with ⟨p, a⟩
  have e0 : (fDst (XlateWArgs.enc ⟨p, a⟩).1) = p := by
    (simp [XlateWArgs.ok] at h; simp only [XlateWArgs.enc, fk, fDst] <;> omega)
  have e1 : (fSa (XlateWArgs.enc ⟨p, a⟩).1) = a := by
    clear e0; (simp [XlateWArgs.ok] at h; simp only [XlateWArgs.enc, fk, fSa] <;> omega)
  simp only [XlateWArgs.dec, e0, e1]
  exact accept_self h

theorem XlatePArgs.dec_enc {o : XlatePArgs} (h : o.ok = true) : XlatePArgs.dec o.enc.1 o.enc.2 = .ok o := by
  rcases o with ⟨d, a⟩
  have e0 : (fDst (XlatePArgs.enc ⟨d, a⟩).1) = d := by
    (simp [XlatePArgs.ok] at h; simp only [XlatePArgs.enc, fk, fDst] <;> omega)
  have e1 : (fSa (XlatePArgs.enc ⟨d, a⟩).1) = a := by
    clear e0; (simp [XlatePArgs.ok] at h; simp only [XlatePArgs.enc, fk, fSa] <;> omega)
  simp only [XlatePArgs.dec, e0, e1]
  exact accept_self h

theorem TrapArgs.dec_enc {o : TrapArgs} (h : o.ok = true) : TrapArgs.dec o.enc.1 o.enc.2 = .ok o := by
  rcases o with ⟨code⟩
  have e0 : ((TrapArgs.enc ⟨code⟩).1 % 0x1000) = code := by
    (simp [TrapArgs.ok] at h; simp only [TrapArgs.enc, fk] <;> omega)
  simp only [TrapArgs.dec, e0]
  exact accept_self h

theorem Form1Args.dec_enc {o : Form1Args} (h : o.ok = true) : Form1Args.dec o.enc.1 o.enc.2 = .ok o := by
  rcases o with ⟨⟩
  simp only [Form1Args.dec]
  exact accept_self h

theorem RettResArgs.dec_enc {o : RettResArgs} (h : o.ok = true) : RettResArgs.dec o.enc.1 o.enc.2 = .ok o := by
  rcases o with ⟨g⟩
  have e0 : (fDst (RettResArgs.enc ⟨g⟩).1) = g := by
    (simp [RettResArgs.ok] at h; simp only [RettResArgs.enc, fk, fDst] <;> omega)
  simp only [RettResArgs.dec, e0]
  exact accept_self h

theorem RettRefArgs.dec_enc {o : RettRefArgs} (h : o.ok = true) : RettRefArgs.dec o.enc.1 o.enc.2 = .ok o := by
  rcases o with ⟨g⟩
  have e0 : (fDst (RettRefArgs.enc ⟨g⟩).1) = g := by
    (simp [RettRefArgs.ok] at h; simp only [RettRefArgs.enc, fk, fDst] <;> omega)
  simp only [RettRefArgs.dec, e0]
  exact accept_self h

theorem ChkArgs.dec_enc {o : ChkArgs} (h : o.ok = true) : ChkArgs.dec o.enc.1 o.enc.2 = .ok o := by
  rcases o with ⟨g⟩
  have e0 : (fDst (ChkArgs.enc ⟨g⟩).1) = g := by
    (simp [ChkArgs.ok] at h; simp only [ChkArgs.enc, fk, fDst] <;> omega)
  simp only [ChkArgs.dec, e0]
  exact accept_self h

theorem ChkQArgs.dec_enc {o : ChkQArgs} (h : o.ok = true) : ChkQArgs.dec o.enc.1 o.enc.2 = .ok o := by
  rcases o with ⟨q⟩
  have e0 : (fDst (ChkQArgs.enc ⟨q⟩).1) = q := by
    (simp [ChkQArgs.ok] at h; simp only [ChkQArgs.enc, fk, fDst] <;> omega)
  simp only [ChkQArgs.dec, e0]
  exact accept_self h

theorem ChkNbArgs.dec_enc {o : ChkNbArgs} (h : o.ok = true) : ChkNbArgs.dec o.enc.1 o.enc.2 = .ok o := by
  rcases o with ⟨p, g⟩
  have e0 : ((ChkNbArgs.enc ⟨p, g⟩).1 % 0x1000) = p := by
    (simp [ChkNbArgs.ok] at h; simp only [ChkNbArgs.enc, fk] <;> omega)
  have e1 : (fDst (ChkNbArgs.enc ⟨p, g⟩).1) = g := by
    clear e0; (simp [ChkNbArgs.ok] at h; simp only [ChkNbArgs.enc, fk, fDst] <;> omega)
  simp only [ChkNbArgs.dec, e0, e1]
  exact accept_self h

theorem AbortReqArgs.dec_enc {o : AbortReqArgs} (h : o.ok = true) : AbortReqArgs.dec o.enc.1 o.enc.2 = .ok o := by
  rcases o with ⟨code⟩
  have e0 : ((AbortReqArgs.enc ⟨code⟩).1 % 0x1000) = code := by
    (simp [AbortReqArgs.ok] at h; simp only [AbortReqArgs.enc, fk] <;> omega)
  simp only [AbortReqArgs.dec, e0]
  exact accept_self h

theorem FshareArgs.dec_enc {o : FshareArgs} (h : o.ok = true) : FshareArgs.dec o.enc.1 o.enc.2 = .ok o := by
  rcases o with ⟨n⟩
  have e0 : ((FshareArgs.enc ⟨n⟩).1 % 0x1000) = n := by
    (simp [FshareArgs.ok] at h; simp only [FshareArgs.enc, fk] <;> omega)
  simp only [FshareArgs.dec, e0]
  exact accept_self h

theorem FwswapArgs.dec_enc {o : FwswapArgs} (h : o.ok = true) : FwswapArgs.dec o.enc.1 o.enc.2 = .ok o := by
  rcases o with ⟨p, a⟩
  have e0 : ((FwswapArgs.enc ⟨p, a⟩).1 % 0x1000) = p := by
    (simp [FwswapArgs.ok] at h; simp only [FwswapArgs.enc, fk] <;> omega)
  have e1 : (fSa (FwswapArgs.enc ⟨p, a⟩).1) = a := by
    clear e0; (simp [FwswapArgs.ok] at h; simp only [FwswapArgs.enc, fk, fSa] <;> omega)
  simp only [FwswapArgs.dec, e0, e1]
  exact accept_self h

theorem PtwArgs.dec_enc {o : PtwArgs} (h : o.ok = true) : PtwArgs.dec o.enc.1 o.enc.2 = .ok o := by
  rcases o with ⟨ae, av⟩
  have e0 : (fDst (PtwArgs.enc ⟨ae, av⟩).1) = ae := by
    (simp [PtwArgs.ok] at h; simp only [PtwArgs.enc, fk, fDst] <;> omega)
  have e1 : (fSa (PtwArgs.enc ⟨ae, av⟩).1) = av := by
    clear e0; (simp [PtwArgs.ok] at h; simp only [PtwArgs.enc, fk, fSa] <;> omega)
  simp only [PtwArgs.dec, e0, e1]
  exact accept_self h

theorem PtwNbArgs.dec_enc {o : PtwNbArgs} (h : o.ok = true) : PtwNbArgs.dec o.enc.1 o.enc.2 = .ok o := by
  rcases o with ⟨p, ae, av⟩
  have e0 : ((PtwNbArgs.enc ⟨p, ae, av⟩).1 % 0x1000) = p := by
    (simp [PtwNbArgs.ok] at h; simp only [PtwNbArgs.enc, fk] <;> omega)
  have e1 : (fDst (PtwNbArgs.enc ⟨p, ae, av⟩).1) = ae := by
    clear e0; (simp [PtwNbArgs.ok] at h; simp only [PtwNbArgs.enc, fk, fDst] <;> omega)
  have e2 : (fSa (PtwNbArgs.enc ⟨p, ae, av⟩).1) = av := by
    clear e0 e1; (simp [PtwNbArgs.ok] at h; simp only [PtwNbArgs.enc, fk, fSa] <;> omega)
  simp only [PtwNbArgs.dec, e0, e1, e2]
  exact accept_self h

theorem TlbiVaArgs.dec_enc {o : TlbiVaArgs} (h : o.ok = true) : TlbiVaArgs.dec o.enc.1 o.enc.2 = .ok o := by
  rcases o with ⟨vd, a, g⟩
  have e0 : ((TlbiVaArgs.enc ⟨vd, a, g⟩).1 % 0x1000) = vd := by
    (simp [TlbiVaArgs.ok] at h; simp only [TlbiVaArgs.enc, fk] <;> omega)
  have e1 : (fDst (TlbiVaArgs.enc ⟨vd, a, g⟩).1) = a := by
    clear e0; (simp [TlbiVaArgs.ok] at h; simp only [TlbiVaArgs.enc, fk, fDst] <;> omega)
  have e2 : (fSa (TlbiVaArgs.enc ⟨vd, a, g⟩).1) = g := by
    clear e0 e1; (simp [TlbiVaArgs.ok] at h; simp only [TlbiVaArgs.enc, fk, fSa] <;> omega)
  simp only [TlbiVaArgs.dec, e0, e1, e2]
  exact accept_self h

theorem TlbiVdArgs.dec_enc {o : TlbiVdArgs} (h : o.ok = true) : TlbiVdArgs.dec o.enc.1 o.enc.2 = .ok o := by
  rcases o with ⟨vd⟩
  have e0 : ((TlbiVdArgs.enc ⟨vd⟩).1 % 0x1000) = vd := by
    (simp [TlbiVdArgs.ok] at h; simp only [TlbiVdArgs.enc, fk] <;> omega)
  simp only [TlbiVdArgs.dec, e0]
  exact accept_self h

theorem Form2Args.dec_enc {o : Form2Args} (h : o.ok = true) : Form2Args.dec o.enc.1 o.enc.2 = .ok o := by
  rcases o with ⟨⟩
  simp only [Form2Args.dec]
  exact accept_self h

theorem PurgeArgs.dec_enc {o : PurgeArgs} (h : o.ok = true) : PurgeArgs.dec o.enc.1 o.enc.2 = .ok o := by
  rcases o with ⟨g⟩
  have e0 : (fDst (PurgeArgs.enc ⟨g⟩).1) = g := by
    (simp [PurgeArgs.ok] at h; simp only [PurgeArgs.enc, fk, fDst] <;> omega)
  simp only [PurgeArgs.dec, e0]
  exact accept_self h

theorem PurgeClrArgs.dec_enc {o : PurgeClrArgs} (h : o.ok = true) : PurgeClrArgs.dec o.enc.1 o.enc.2 = .ok o := by
  rcases o with ⟨g⟩
  have e0 : (fDst (PurgeClrArgs.enc ⟨g⟩).1) = g := by
    (simp [PurgeClrArgs.ok] at h; simp only [PurgeClrArgs.enc, fk, fDst] <;> omega)
  simp only [PurgeClrArgs.dec, e0]
  exact accept_self h

theorem ShrdArgs.dec_enc {o : ShrdArgs} (h : o.ok = true) : ShrdArgs.dec o.enc.1 o.enc.2 = .ok o := by
  rcases o with ⟨a⟩
  have e0 : (fSa (ShrdArgs.enc ⟨a⟩).1) = a := by
    (simp [ShrdArgs.ok] at h; simp only [ShrdArgs.enc, fk, fSa] <;> omega)
  simp only [ShrdArgs.dec, e0]
  exact accept_self h

theorem FrzArmArgs.dec_enc {o : FrzArmArgs} (h : o.ok = true) : FrzArmArgs.dec o.enc.1 o.enc.2 = .ok o := by
  rcases o with ⟨p, g, a⟩
  have e0 : ((FrzArmArgs.enc ⟨p, g, a⟩).1 % 0x1000) = p := by
    (simp [FrzArmArgs.ok] at h; simp only [FrzArmArgs.enc, fk] <;> omega)
  have e1 : (fDst (FrzArmArgs.enc ⟨p, g, a⟩).1) = g := by
    clear e0; (simp [FrzArmArgs.ok] at h; simp only [FrzArmArgs.enc, fk, fDst] <;> omega)
  have e2 : (fSa (FrzArmArgs.enc ⟨p, g, a⟩).1) = a := by
    clear e0 e1; (simp [FrzArmArgs.ok] at h; simp only [FrzArmArgs.enc, fk, fSa] <;> omega)
  simp only [FrzArmArgs.dec, e0, e1, e2]
  exact accept_self h

theorem FrzResArgs.dec_enc {o : FrzResArgs} (h : o.ok = true) : FrzResArgs.dec o.enc.1 o.enc.2 = .ok o := by
  rcases o with ⟨p, g, a⟩
  have e0 : ((FrzResArgs.enc ⟨p, g, a⟩).1 % 0x1000) = p := by
    (simp [FrzResArgs.ok] at h; simp only [FrzResArgs.enc, fk] <;> omega)
  have e1 : (fDst (FrzResArgs.enc ⟨p, g, a⟩).1) = g := by
    clear e0; (simp [FrzResArgs.ok] at h; simp only [FrzResArgs.enc, fk, fDst] <;> omega)
  have e2 : (fSa (FrzResArgs.enc ⟨p, g, a⟩).1) = a := by
    clear e0 e1; (simp [FrzResArgs.ok] at h; simp only [FrzResArgs.enc, fk, fSa] <;> omega)
  simp only [FrzResArgs.dec, e0, e1, e2]
  exact accept_self h

theorem FrzDirtyArgs.dec_enc {o : FrzDirtyArgs} (h : o.ok = true) : FrzDirtyArgs.dec o.enc.1 o.enc.2 = .ok o := by
  rcases o with ⟨p, g, a⟩
  have e0 : ((FrzDirtyArgs.enc ⟨p, g, a⟩).1 % 0x1000) = p := by
    (simp [FrzDirtyArgs.ok] at h; simp only [FrzDirtyArgs.enc, fk] <;> omega)
  have e1 : (fDst (FrzDirtyArgs.enc ⟨p, g, a⟩).1) = g := by
    clear e0; (simp [FrzDirtyArgs.ok] at h; simp only [FrzDirtyArgs.enc, fk, fDst] <;> omega)
  have e2 : (fSa (FrzDirtyArgs.enc ⟨p, g, a⟩).1) = a := by
    clear e0 e1; (simp [FrzDirtyArgs.ok] at h; simp only [FrzDirtyArgs.enc, fk, fSa] <;> omega)
  simp only [FrzDirtyArgs.dec, e0, e1, e2]
  exact accept_self h

theorem FrzYArgs.dec_enc {o : FrzYArgs} (h : o.ok = true) : FrzYArgs.dec o.enc.1 o.enc.2 = .ok o := by
  rcases o with ⟨p, g⟩
  have e0 : ((FrzYArgs.enc ⟨p, g⟩).1 % 0x1000) = p := by
    (simp [FrzYArgs.ok] at h; simp only [FrzYArgs.enc, fk] <;> omega)
  have e1 : (fDst (FrzYArgs.enc ⟨p, g⟩).1) = g := by
    clear e0; (simp [FrzYArgs.ok] at h; simp only [FrzYArgs.enc, fk, fDst] <;> omega)
  simp only [FrzYArgs.dec, e0, e1]
  exact accept_self h

theorem FrzArgs.dec_enc {o : FrzArgs} (h : o.ok = true) : FrzArgs.dec o.enc.1 o.enc.2 = .ok o := by
  rcases o with ⟨p, g⟩
  have e0 : ((FrzArgs.enc ⟨p, g⟩).1 % 0x1000) = p := by
    (simp [FrzArgs.ok] at h; simp only [FrzArgs.enc, fk] <;> omega)
  have e1 : (fDst (FrzArgs.enc ⟨p, g⟩).1) = g := by
    clear e0; (simp [FrzArgs.ok] at h; simp only [FrzArgs.enc, fk, fDst] <;> omega)
  simp only [FrzArgs.dec, e0, e1]
  exact accept_self h

theorem FrzGoArgs.dec_enc {o : FrzGoArgs} (h : o.ok = true) : FrzGoArgs.dec o.enc.1 o.enc.2 = .ok o := by
  rcases o with ⟨p, g⟩
  have e0 : ((FrzGoArgs.enc ⟨p, g⟩).1 % 0x1000) = p := by
    (simp [FrzGoArgs.ok] at h; simp only [FrzGoArgs.enc, fk] <;> omega)
  have e1 : (fDst (FrzGoArgs.enc ⟨p, g⟩).1) = g := by
    clear e0; (simp [FrzGoArgs.ok] at h; simp only [FrzGoArgs.enc, fk, fDst] <;> omega)
  simp only [FrzGoArgs.dec, e0, e1]
  exact accept_self h

theorem FrzDisArgs.dec_enc {o : FrzDisArgs} (h : o.ok = true) : FrzDisArgs.dec o.enc.1 o.enc.2 = .ok o := by
  rcases o with ⟨g⟩
  have e0 : (fDst (FrzDisArgs.enc ⟨g⟩).1) = g := by
    (simp [FrzDisArgs.ok] at h; simp only [FrzDisArgs.enc, fk, fDst] <;> omega)
  simp only [FrzDisArgs.dec, e0]
  exact accept_self h

theorem MmaArgs.dec_enc {o : MmaArgs} (h : o.ok = true) : MmaArgs.dec o.enc.1 o.enc.2 = .ok o := by
  rcases o with ⟨t, ka, kb, k1, keep, ta, tb, fmt⟩
  have e0 : ((MmaArgs.enc ⟨t, ka, kb, k1, keep, ta, tb, fmt⟩).1 / 16 % 16) = fmt.code := by
    have l0 := MFmt.code_lt fmt; have z0 := Bool.toNat_lt keep; have z1 := Bool.toNat_lt ta; have z2 := Bool.toNat_lt tb; (simp [MmaArgs.ok] at h; simp only [MmaArgs.enc, fe] <;> omega)
  have e1 : (fDst (MmaArgs.enc ⟨t, ka, kb, k1, keep, ta, tb, fmt⟩).1) = t := by
    clear e0; have l0 := MFmt.code_lt fmt; have z0 := Bool.toNat_lt keep; have z1 := Bool.toNat_lt ta; have z2 := Bool.toNat_lt tb; (simp [MmaArgs.ok] at h; simp only [MmaArgs.enc, fe, fDst] <;> omega)
  have e2 : (fSa (MmaArgs.enc ⟨t, ka, kb, k1, keep, ta, tb, fmt⟩).1 % 8) = ka := by
    clear e0 e1; have l0 := MFmt.code_lt fmt; have z0 := Bool.toNat_lt keep; have z1 := Bool.toNat_lt ta; have z2 := Bool.toNat_lt tb; (simp [MmaArgs.ok] at h; simp only [MmaArgs.enc, fe, fSa] <;> omega)
  have e3 : (fSa (MmaArgs.enc ⟨t, ka, kb, k1, keep, ta, tb, fmt⟩).1 / 8) = kb := by
    clear e0 e1 e2; have l0 := MFmt.code_lt fmt; have z0 := Bool.toNat_lt keep; have z1 := Bool.toNat_lt ta; have z2 := Bool.toNat_lt tb; (simp [MmaArgs.ok] at h; simp only [MmaArgs.enc, fe, fSa] <;> omega)
  have e4 : (fSb (MmaArgs.enc ⟨t, ka, kb, k1, keep, ta, tb, fmt⟩).1) = k1 := by
    clear e0 e1 e2 e3; have l0 := MFmt.code_lt fmt; have z0 := Bool.toNat_lt keep; have z1 := Bool.toNat_lt ta; have z2 := Bool.toNat_lt tb; (simp [MmaArgs.ok] at h; simp only [MmaArgs.enc, fe, fSb] <;> omega)
  have e5 : (bit (MmaArgs.enc ⟨t, ka, kb, k1, keep, ta, tb, fmt⟩).1 0) = keep := by
    clear e0 e1 e2 e3 e4; have l0 := MFmt.code_lt fmt; have z0 := Bool.toNat_lt keep; have z1 := Bool.toNat_lt ta; have z2 := Bool.toNat_lt tb; refine bit_of ?_; (simp [MmaArgs.ok] at h; simp only [MmaArgs.enc, fe, Nat.reducePow] <;> omega)
  have e6 : (bit (MmaArgs.enc ⟨t, ka, kb, k1, keep, ta, tb, fmt⟩).1 1) = ta := by
    clear e0 e1 e2 e3 e4 e5; have l0 := MFmt.code_lt fmt; have z0 := Bool.toNat_lt keep; have z1 := Bool.toNat_lt ta; have z2 := Bool.toNat_lt tb; refine bit_of ?_; (simp [MmaArgs.ok] at h; simp only [MmaArgs.enc, fe, Nat.reducePow] <;> omega)
  have e7 : (bit (MmaArgs.enc ⟨t, ka, kb, k1, keep, ta, tb, fmt⟩).1 2) = tb := by
    clear e0 e1 e2 e3 e4 e5 e6; have l0 := MFmt.code_lt fmt; have z0 := Bool.toNat_lt keep; have z1 := Bool.toNat_lt ta; have z2 := Bool.toNat_lt tb; refine bit_of ?_; (simp [MmaArgs.ok] at h; simp only [MmaArgs.enc, fe, Nat.reducePow] <;> omega)
  simp only [MmaArgs.dec, operand_some, e0, e1, e2, e3, e4, e5, e6, e7, MFmt.ofCode_code]
  exact accept_self h

theorem MblkArgs.dec_enc {o : MblkArgs} (h : o.ok = true) : MblkArgs.dec o.enc.1 o.enc.2 = .ok o := by
  rcases o with ⟨t, ka, kb, k1, keep, fmt⟩
  have e0 : ((MblkArgs.enc ⟨t, ka, kb, k1, keep, fmt⟩).1 / 16 % 16) = fmt.code := by
    have l0 := MFmt.code_lt fmt; have z0 := Bool.toNat_lt keep; (simp [MblkArgs.ok] at h; simp only [MblkArgs.enc, fe] <;> omega)
  have e1 : (fDst (MblkArgs.enc ⟨t, ka, kb, k1, keep, fmt⟩).1) = t := by
    clear e0; have l0 := MFmt.code_lt fmt; have z0 := Bool.toNat_lt keep; (simp [MblkArgs.ok] at h; simp only [MblkArgs.enc, fe, fDst] <;> omega)
  have e2 : (fSa (MblkArgs.enc ⟨t, ka, kb, k1, keep, fmt⟩).1 % 8) = ka := by
    clear e0 e1; have l0 := MFmt.code_lt fmt; have z0 := Bool.toNat_lt keep; (simp [MblkArgs.ok] at h; simp only [MblkArgs.enc, fe, fSa] <;> omega)
  have e3 : (fSa (MblkArgs.enc ⟨t, ka, kb, k1, keep, fmt⟩).1 / 8) = kb := by
    clear e0 e1 e2; have l0 := MFmt.code_lt fmt; have z0 := Bool.toNat_lt keep; (simp [MblkArgs.ok] at h; simp only [MblkArgs.enc, fe, fSa] <;> omega)
  have e4 : (fSb (MblkArgs.enc ⟨t, ka, kb, k1, keep, fmt⟩).1) = k1 := by
    clear e0 e1 e2 e3; have l0 := MFmt.code_lt fmt; have z0 := Bool.toNat_lt keep; (simp [MblkArgs.ok] at h; simp only [MblkArgs.enc, fe, fSb] <;> omega)
  have e5 : (bit (MblkArgs.enc ⟨t, ka, kb, k1, keep, fmt⟩).1 0) = keep := by
    clear e0 e1 e2 e3 e4; have l0 := MFmt.code_lt fmt; have z0 := Bool.toNat_lt keep; refine bit_of ?_; (simp [MblkArgs.ok] at h; simp only [MblkArgs.enc, fe, Nat.reducePow] <;> omega)
  simp only [MblkArgs.dec, operand_some, e0, e1, e2, e3, e4, e5, MFmt.ofCode_code]
  exact accept_self h

theorem ScaccArgs.dec_enc {o : ScaccArgs} (h : o.ok = true) : ScaccArgs.dec o.enc.1 o.enc.2 = .ok o := by
  rcases o with ⟨td, ts, nb1, aa, ab, fmt⟩
  have e0 : ((ScaccArgs.enc ⟨td, ts, nb1, aa, ab, fmt⟩).1 / 16 % 16) = fmt.code := by
    have l0 := MFmt.code_lt fmt; (simp [ScaccArgs.ok] at h; simp only [ScaccArgs.enc, fe] <;> omega)
  have e1 : (fDst (ScaccArgs.enc ⟨td, ts, nb1, aa, ab, fmt⟩).1) = td := by
    clear e0; have l0 := MFmt.code_lt fmt; (simp [ScaccArgs.ok] at h; simp only [ScaccArgs.enc, fe, fDst] <;> omega)
  have e2 : (fSa (ScaccArgs.enc ⟨td, ts, nb1, aa, ab, fmt⟩).1) = ts := by
    clear e0 e1; have l0 := MFmt.code_lt fmt; (simp [ScaccArgs.ok] at h; simp only [ScaccArgs.enc, fe, fSa] <;> omega)
  have e3 : (fSb (ScaccArgs.enc ⟨td, ts, nb1, aa, ab, fmt⟩).1 % 32) = nb1 := by
    clear e0 e1 e2; have l0 := MFmt.code_lt fmt; (simp [ScaccArgs.ok] at h; simp only [ScaccArgs.enc, fe, fSb] <;> omega)
  have e4 : (fSb (ScaccArgs.enc ⟨td, ts, nb1, aa, ab, fmt⟩).1 / 32) = aa := by
    clear e0 e1 e2 e3; have l0 := MFmt.code_lt fmt; (simp [ScaccArgs.ok] at h; simp only [ScaccArgs.enc, fe, fSb] <;> omega)
  have e5 : ((ScaccArgs.enc ⟨td, ts, nb1, aa, ab, fmt⟩).1 % 16) = ab := by
    clear e0 e1 e2 e3 e4; have l0 := MFmt.code_lt fmt; (simp [ScaccArgs.ok] at h; simp only [ScaccArgs.enc, fe] <;> omega)
  simp only [ScaccArgs.dec, operand_some, e0, e1, e2, e3, e4, e5, MFmt.ofCode_code]
  exact accept_self h

theorem AzeroArgs.dec_enc {o : AzeroArgs} (h : o.ok = true) : AzeroArgs.dec o.enc.1 o.enc.2 = .ok o := by
  rcases o with ⟨t⟩
  have e0 : (fDst (AzeroArgs.enc ⟨t⟩).1) = t := by
    (simp [AzeroArgs.ok] at h; simp only [AzeroArgs.enc, fe, fDst] <;> omega)
  simp only [AzeroArgs.dec, e0]
  exact accept_self h

theorem AloadArgs.dec_enc {o : AloadArgs} (h : o.ok = true) : AloadArgs.dec o.enc.1 o.enc.2 = .ok o := by
  rcases o with ⟨t, a, stride⟩
  have e0 : (fDst (AloadArgs.enc ⟨t, a, stride⟩).1) = t := by
    cases_type* Option <;> (simp [AloadArgs.ok] at h; simp only [AloadArgs.enc, fe, fDst, Option.getD_none, Option.getD_some, Option.isSome_none, Option.isSome_some, Bool.toNat_true, Bool.toNat_false] <;> omega)
  have e1 : (fSa (AloadArgs.enc ⟨t, a, stride⟩).1) = a := by
    clear e0; cases_type* Option <;> (simp [AloadArgs.ok] at h; simp only [AloadArgs.enc, fe, fSa, Option.getD_none, Option.getD_some, Option.isSome_none, Option.isSome_some, Bool.toNat_true, Bool.toNat_false] <;> omega)
  have e2 : (if bit (AloadArgs.enc ⟨t, a, stride⟩).1 0 then some (fSb (AloadArgs.enc ⟨t, a, stride⟩).1) else none) = stride := by
    clear e0 e1; cases_type* Option <;> (simp [AloadArgs.ok] at h; simp [AloadArgs.enc, fe, fSb, fDst, fSa, fI, fQd, bit] <;> first | omega | (split <;> first | omega | rfl | (exfalso; omega) | (congr 1; omega) | exact beq_of (by omega)) | rfl)
  simp only [AloadArgs.dec, e0, e1, e2]
  exact accept_self h

theorem AstoreArgs.dec_enc {o : AstoreArgs} (h : o.ok = true) : AstoreArgs.dec o.enc.1 o.enc.2 = .ok o := by
  rcases o with ⟨t, a, stride, sat, i, fmt⟩
  have e0 : ((AstoreArgs.enc ⟨t, a, stride, sat, i, fmt⟩).1 / 16 % 16) = fmt.code := by
    have l0 := StFmt.code_lt fmt; have z0 := Bool.toNat_lt sat; have z1 := Bool.toNat_lt i; cases_type* Option <;> (simp [AstoreArgs.ok] at h; simp only [AstoreArgs.enc, fe, Option.getD_none, Option.getD_some, Option.isSome_none, Option.isSome_some, Bool.toNat_true, Bool.toNat_false] <;> omega)
  have e1 : (fDst (AstoreArgs.enc ⟨t, a, stride, sat, i, fmt⟩).1) = t := by
    clear e0; have l0 := StFmt.code_lt fmt; have z0 := Bool.toNat_lt sat; have z1 := Bool.toNat_lt i; cases_type* Option <;> (simp [AstoreArgs.ok] at h; simp only [AstoreArgs.enc, fe, fDst, Option.getD_none, Option.getD_some, Option.isSome_none, Option.isSome_some, Bool.toNat_true, Bool.toNat_false] <;> omega)
  have e2 : (fSa (AstoreArgs.enc ⟨t, a, stride, sat, i, fmt⟩).1) = a := by
    clear e0 e1; have l0 := StFmt.code_lt fmt; have z0 := Bool.toNat_lt sat; have z1 := Bool.toNat_lt i; cases_type* Option <;> (simp [AstoreArgs.ok] at h; simp only [AstoreArgs.enc, fe, fSa, Option.getD_none, Option.getD_some, Option.isSome_none, Option.isSome_some, Bool.toNat_true, Bool.toNat_false] <;> omega)
  have e3 : (if bit (AstoreArgs.enc ⟨t, a, stride, sat, i, fmt⟩).1 0 then some (fSb (AstoreArgs.enc ⟨t, a, stride, sat, i, fmt⟩).1) else none) = stride := by
    clear e0 e1 e2; have l0 := StFmt.code_lt fmt; have z0 := Bool.toNat_lt sat; have z1 := Bool.toNat_lt i; cases_type* Option <;> (simp [AstoreArgs.ok] at h; simp [AstoreArgs.enc, fe, fSb, fDst, fSa, fI, fQd, bit] <;> first | omega | (split <;> first | omega | rfl | (exfalso; omega) | (congr 1; omega) | exact beq_of (by omega)) | rfl)
  have e4 : (bit (AstoreArgs.enc ⟨t, a, stride, sat, i, fmt⟩).1 1) = sat := by
    clear e0 e1 e2 e3; have l0 := StFmt.code_lt fmt; have z0 := Bool.toNat_lt sat; have z1 := Bool.toNat_lt i; refine bit_of ?_; cases_type* Option <;> (simp [AstoreArgs.ok] at h; simp only [AstoreArgs.enc, fe, Option.getD_none, Option.getD_some, Option.isSome_none, Option.isSome_some, Bool.toNat_true, Bool.toNat_false, Nat.reducePow] <;> omega)
  have e5 : (bit (AstoreArgs.enc ⟨t, a, stride, sat, i, fmt⟩).1 2) = i := by
    clear e0 e1 e2 e3 e4; have l0 := StFmt.code_lt fmt; have z0 := Bool.toNat_lt sat; have z1 := Bool.toNat_lt i; refine bit_of ?_; cases_type* Option <;> (simp [AstoreArgs.ok] at h; simp only [AstoreArgs.enc, fe, Option.getD_none, Option.getD_some, Option.isSome_none, Option.isSome_some, Bool.toNat_true, Bool.toNat_false, Nat.reducePow] <;> omega)
  simp only [AstoreArgs.dec, operand_some, e0, e1, e2, e3, e4, e5, StFmt.ofCode_code]
  exact accept_self h

theorem AcopyArgs.dec_enc {o : AcopyArgs} (h : o.ok = true) : AcopyArgs.dec o.enc.1 o.enc.2 = .ok o := by
  rcases o with ⟨td, ts⟩
  have e0 : (fDst (AcopyArgs.enc ⟨td, ts⟩).1) = td := by
    (simp [AcopyArgs.ok] at h; simp only [AcopyArgs.enc, fe, fDst] <;> omega)
  have e1 : (fSa (AcopyArgs.enc ⟨td, ts⟩).1) = ts := by
    clear e0; (simp [AcopyArgs.ok] at h; simp only [AcopyArgs.enc, fe, fSa] <;> omega)
  simp only [AcopyArgs.dec, e0, e1]
  exact accept_self h

theorem RpopArgs.dec_enc {o : RpopArgs} (h : o.ok = true) : RpopArgs.dec o.enc.1 o.enc.2 = .ok o := by
  rcases o with ⟨k, n1⟩
  have e0 : (fDst (RpopArgs.enc ⟨k, n1⟩).1) = k := by
    (simp [RpopArgs.ok] at h; simp only [RpopArgs.enc, fe, fDst] <;> omega)
  have e1 : (fSa (RpopArgs.enc ⟨k, n1⟩).1) = n1 := by
    clear e0; (simp [RpopArgs.ok] at h; simp only [RpopArgs.enc, fe, fSa] <;> omega)
  simp only [RpopArgs.dec, e0, e1]
  exact accept_self h

theorem XposeArgs.dec_enc {o : XposeArgs} (h : o.ok = true) : XposeArgs.dec o.enc.1 o.enc.2 = .ok o := by
  rcases o with ⟨dst, a, g, w_⟩
  have e0 : ((XposeArgs.enc ⟨dst, a, g, w_⟩).1 / 16 % 16) = w_.code := by
    have l0 := XWidth.code_lt w_; cases_type* XDst <;> (simp [XposeArgs.ok, XDst.ok] at h; simp only [XposeArgs.enc, fe, XDst.field] <;> omega)
  have e1 : (XDst.dec (XposeArgs.enc ⟨dst, a, g, w_⟩).1) = dst := by
    clear e0; have l0 := XWidth.code_lt w_; cases_type* XDst <;> (simp [XposeArgs.ok, XDst.ok] at h; simp [XposeArgs.enc, fe, XDst.field, XDst.dec, fDst, fSa, fSb, fI, fQd, bit] <;> first | omega | (split <;> first | omega | rfl | (exfalso; omega) | (congr 1; omega) | exact beq_of (by omega)) | rfl)
  have e2 : (fSa (XposeArgs.enc ⟨dst, a, g, w_⟩).1) = a := by
    clear e0 e1; have l0 := XWidth.code_lt w_; cases_type* XDst <;> (simp [XposeArgs.ok, XDst.ok] at h; simp only [XposeArgs.enc, fe, fSa, XDst.field] <;> omega)
  have e3 : (fSb (XposeArgs.enc ⟨dst, a, g, w_⟩).1) = g := by
    clear e0 e1 e2; have l0 := XWidth.code_lt w_; cases_type* XDst <;> (simp [XposeArgs.ok, XDst.ok] at h; simp only [XposeArgs.enc, fe, fSb, XDst.field] <;> omega)
  simp only [XposeArgs.dec, operand_some, e0, e1, e2, e3, XWidth.ofCode_code]
  exact accept_self h

theorem XreqArgs.dec_enc {o : XreqArgs} (h : o.ok = true) : XreqArgs.dec o.enc.1 o.enc.2 = .ok o := by
  rcases o with ⟨dst, a, g, fmt⟩
  have e0 : ((XreqArgs.enc ⟨dst, a, g, fmt⟩).1 / 16 % 16) = fmt.code := by
    have l0 := QFmt.code_lt fmt; cases_type* XDst <;> (simp [XreqArgs.ok, XDst.ok] at h; simp only [XreqArgs.enc, fe, XDst.field] <;> omega)
  have e1 : (XDst.dec (XreqArgs.enc ⟨dst, a, g, fmt⟩).1) = dst := by
    clear e0; have l0 := QFmt.code_lt fmt; cases_type* XDst <;> (simp [XreqArgs.ok, XDst.ok] at h; simp [XreqArgs.enc, fe, XDst.field, XDst.dec, fDst, fSa, fSb, fI, fQd, bit] <;> first | omega | (split <;> first | omega | rfl | (exfalso; omega) | (congr 1; omega) | exact beq_of (by omega)) | rfl)
  have e2 : (fSa (XreqArgs.enc ⟨dst, a, g, fmt⟩).1) = a := by
    clear e0 e1; have l0 := QFmt.code_lt fmt; cases_type* XDst <;> (simp [XreqArgs.ok, XDst.ok] at h; simp only [XreqArgs.enc, fe, fSa, XDst.field] <;> omega)
  have e3 : (fSb (XreqArgs.enc ⟨dst, a, g, fmt⟩).1) = g := by
    clear e0 e1 e2; have l0 := QFmt.code_lt fmt; cases_type* XDst <;> (simp [XreqArgs.ok, XDst.ok] at h; simp only [XreqArgs.enc, fe, fSb, XDst.field] <;> omega)
  simp only [XreqArgs.dec, operand_some, e0, e1, e2, e3, QFmt.ofCode_code]
  exact accept_self h

theorem XlayArgs.dec_enc {o : XlayArgs} (h : o.ok = true) : XlayArgs.dec o.enc.1 o.enc.2 = .ok o := by
  rcases o with ⟨dst, a, g, frm, dto⟩
  have e0 : ((XlayArgs.enc ⟨dst, a, g, frm, dto⟩).1 / 16 % 4) = frm.code := by
    have l0 := Layout.code_lt frm; have l1 := Layout.code_lt dto; cases_type* XDst <;> (simp [XlayArgs.ok, XDst.ok] at h; simp only [XlayArgs.enc, fe, XDst.field] <;> omega)
  have e1 : ((XlayArgs.enc ⟨dst, a, g, frm, dto⟩).1 / 64 % 4) = dto.code := by
    clear e0; have l0 := Layout.code_lt frm; have l1 := Layout.code_lt dto; cases_type* XDst <;> (simp [XlayArgs.ok, XDst.ok] at h; simp only [XlayArgs.enc, fe, XDst.field] <;> omega)
  have e2 : (XDst.dec (XlayArgs.enc ⟨dst, a, g, frm, dto⟩).1) = dst := by
    clear e0 e1; have l0 := Layout.code_lt frm; have l1 := Layout.code_lt dto; cases_type* XDst <;> (simp [XlayArgs.ok, XDst.ok] at h; simp [XlayArgs.enc, fe, XDst.field, XDst.dec, fDst, fSa, fSb, fI, fQd, bit] <;> first | omega | (split <;> first | omega | rfl | (exfalso; omega) | (congr 1; omega) | exact beq_of (by omega)) | rfl)
  have e3 : (fSa (XlayArgs.enc ⟨dst, a, g, frm, dto⟩).1) = a := by
    clear e0 e1 e2; have l0 := Layout.code_lt frm; have l1 := Layout.code_lt dto; cases_type* XDst <;> (simp [XlayArgs.ok, XDst.ok] at h; simp only [XlayArgs.enc, fe, fSa, XDst.field] <;> omega)
  have e4 : (fSb (XlayArgs.enc ⟨dst, a, g, frm, dto⟩).1) = g := by
    clear e0 e1 e2 e3; have l0 := Layout.code_lt frm; have l1 := Layout.code_lt dto; cases_type* XDst <;> (simp [XlayArgs.ok, XDst.ok] at h; simp only [XlayArgs.enc, fe, fSb, XDst.field] <;> omega)
  simp only [XlayArgs.dec, operand_some, e0, e1, e2, e3, e4, Layout.ofCode_code, Layout.ofCode_code]
  exact accept_self h

theorem CopyArgs.dec_enc {o : CopyArgs} (h : o.ok = true) : CopyArgs.dec o.enc.1 o.enc.2 = .ok o := by
  rcases o with ⟨ct, te, a, l⟩
  have e0 : (fDst (CopyArgs.enc ⟨ct, te, a, l⟩).1 % 64) = ct := by
    have z0 := Bool.toNat_lt te; have z1 := Bool.toNat_lt l; (simp [CopyArgs.ok] at h; simp only [CopyArgs.enc, fe, ctField, fDst] <;> omega)
  have e1 : (bit (CopyArgs.enc ⟨ct, te, a, l⟩).1 30) = te := by
    clear e0; have z0 := Bool.toNat_lt te; have z1 := Bool.toNat_lt l; refine bit_of ?_; (simp [CopyArgs.ok] at h; simp only [CopyArgs.enc, fe, ctField, Nat.reducePow] <;> omega)
  have e2 : (fSa (CopyArgs.enc ⟨ct, te, a, l⟩).1) = a := by
    clear e0 e1; have z0 := Bool.toNat_lt te; have z1 := Bool.toNat_lt l; (simp [CopyArgs.ok] at h; simp only [CopyArgs.enc, fe, ctField, fSa] <;> omega)
  have e3 : (bit (CopyArgs.enc ⟨ct, te, a, l⟩).1 0) = l := by
    clear e0 e1 e2; have z0 := Bool.toNat_lt te; have z1 := Bool.toNat_lt l; refine bit_of ?_; (simp [CopyArgs.ok] at h; simp only [CopyArgs.enc, fe, ctField, Nat.reducePow] <;> omega)
  simp only [CopyArgs.dec, e0, e1, e2, e3]
  exact accept_self h

theorem CopygArgs.dec_enc {o : CopygArgs} (h : o.ok = true) : CopygArgs.dec o.enc.1 o.enc.2 = .ok o := by
  rcases o with ⟨ct, te, a, ai, l⟩
  have e0 : (fDst (CopygArgs.enc ⟨ct, te, a, ai, l⟩).1 % 64) = ct := by
    have z0 := Bool.toNat_lt te; have z1 := Bool.toNat_lt l; (simp [CopygArgs.ok] at h; simp only [CopygArgs.enc, fe, ctField, fDst] <;> omega)
  have e1 : (bit (CopygArgs.enc ⟨ct, te, a, ai, l⟩).1 30) = te := by
    clear e0; have z0 := Bool.toNat_lt te; have z1 := Bool.toNat_lt l; refine bit_of ?_; (simp [CopygArgs.ok] at h; simp only [CopygArgs.enc, fe, ctField, Nat.reducePow] <;> omega)
  have e2 : (fSa (CopygArgs.enc ⟨ct, te, a, ai, l⟩).1) = a := by
    clear e0 e1; have z0 := Bool.toNat_lt te; have z1 := Bool.toNat_lt l; (simp [CopygArgs.ok] at h; simp only [CopygArgs.enc, fe, ctField, fSa] <;> omega)
  have e3 : (fSb (CopygArgs.enc ⟨ct, te, a, ai, l⟩).1) = ai := by
    clear e0 e1 e2; have z0 := Bool.toNat_lt te; have z1 := Bool.toNat_lt l; (simp [CopygArgs.ok] at h; simp only [CopygArgs.enc, fe, ctField, fSb] <;> omega)
  have e4 : (bit (CopygArgs.enc ⟨ct, te, a, ai, l⟩).1 0) = l := by
    clear e0 e1 e2 e3; have z0 := Bool.toNat_lt te; have z1 := Bool.toNat_lt l; refine bit_of ?_; (simp [CopygArgs.ok] at h; simp only [CopygArgs.enc, fe, ctField, Nat.reducePow] <;> omega)
  simp only [CopygArgs.dec, e0, e1, e2, e3, e4]
  exact accept_self h

theorem CfillArgs.dec_enc {o : CfillArgs} (h : o.ok = true) : CfillArgs.dec o.enc.1 o.enc.2 = .ok o := by
  rcases o with ⟨ct, te, a, g, l⟩
  have e0 : (fDst (CfillArgs.enc ⟨ct, te, a, g, l⟩).1 % 64) = ct := by
    have z0 := Bool.toNat_lt te; have z1 := Bool.toNat_lt l; (simp [CfillArgs.ok] at h; simp only [CfillArgs.enc, fe, ctField, fDst] <;> omega)
  have e1 : (bit (CfillArgs.enc ⟨ct, te, a, g, l⟩).1 30) = te := by
    clear e0; have z0 := Bool.toNat_lt te; have z1 := Bool.toNat_lt l; refine bit_of ?_; (simp [CfillArgs.ok] at h; simp only [CfillArgs.enc, fe, ctField, Nat.reducePow] <;> omega)
  have e2 : (fSa (CfillArgs.enc ⟨ct, te, a, g, l⟩).1) = a := by
    clear e0 e1; have z0 := Bool.toNat_lt te; have z1 := Bool.toNat_lt l; (simp [CfillArgs.ok] at h; simp only [CfillArgs.enc, fe, ctField, fSa] <;> omega)
  have e3 : (fSb (CfillArgs.enc ⟨ct, te, a, g, l⟩).1) = g := by
    clear e0 e1 e2; have z0 := Bool.toNat_lt te; have z1 := Bool.toNat_lt l; (simp [CfillArgs.ok] at h; simp only [CfillArgs.enc, fe, ctField, fSb] <;> omega)
  have e4 : (bit (CfillArgs.enc ⟨ct, te, a, g, l⟩).1 0) = l := by
    clear e0 e1 e2 e3; have z0 := Bool.toNat_lt te; have z1 := Bool.toNat_lt l; refine bit_of ?_; (simp [CfillArgs.ok] at h; simp only [CfillArgs.enc, fe, ctField, Nat.reducePow] <;> omega)
  simp only [CfillArgs.dec, e0, e1, e2, e3, e4]
  exact accept_self h

theorem CredArgs.dec_enc {o : CredArgs} (h : o.ok = true) : CredArgs.dec o.enc.1 o.enc.2 = .ok o := by
  rcases o with ⟨ct, te, a, l, op⟩
  have e0 : ((CredArgs.enc ⟨ct, te, a, l, op⟩).1 / 16 % 16) = op.code := by
    have l0 := CredOp.code_lt op; have z0 := Bool.toNat_lt te; have z1 := Bool.toNat_lt l; (simp [CredArgs.ok] at h; simp only [CredArgs.enc, fe, ctField] <;> omega)
  have e1 : (fDst (CredArgs.enc ⟨ct, te, a, l, op⟩).1 % 64) = ct := by
    clear e0; have l0 := CredOp.code_lt op; have z0 := Bool.toNat_lt te; have z1 := Bool.toNat_lt l; (simp [CredArgs.ok] at h; simp only [CredArgs.enc, fe, ctField, fDst] <;> omega)
  have e2 : (bit (CredArgs.enc ⟨ct, te, a, l, op⟩).1 30) = te := by
    clear e0 e1; have l0 := CredOp.code_lt op; have z0 := Bool.toNat_lt te; have z1 := Bool.toNat_lt l; refine bit_of ?_; (simp [CredArgs.ok] at h; simp only [CredArgs.enc, fe, ctField, Nat.reducePow] <;> omega)
  have e3 : (fSa (CredArgs.enc ⟨ct, te, a, l, op⟩).1) = a := by
    clear e0 e1 e2; have l0 := CredOp.code_lt op; have z0 := Bool.toNat_lt te; have z1 := Bool.toNat_lt l; (simp [CredArgs.ok] at h; simp only [CredArgs.enc, fe, ctField, fSa] <;> omega)
  have e4 : (bit (CredArgs.enc ⟨ct, te, a, l, op⟩).1 0) = l := by
    clear e0 e1 e2 e3; have l0 := CredOp.code_lt op; have z0 := Bool.toNat_lt te; have z1 := Bool.toNat_lt l; refine bit_of ?_; (simp [CredArgs.ok] at h; simp only [CredArgs.enc, fe, ctField, Nat.reducePow] <;> omega)
  simp only [CredArgs.dec, operand_some, e0, e1, e2, e3, e4, CredOp.ofCode_code]
  exact accept_self h

/-! ## Words fit -/

theorem MovArgs.enc_lt {o : MovArgs} (h : o.ok = true) : o.enc.1 < 2 ^ 32 ∧ ∀ x, o.enc.2 = some x → x < 2 ^ 48 := by
  cases o <;> (simp [MovArgs.ok] at h; simp [MovArgs.enc, f3] <;> omega)

theorem PmovArgs.enc_lt {o : PmovArgs} (h : o.ok = true) : o.enc.1 < 2 ^ 32 ∧ ∀ x, o.enc.2 = some x → x < 2 ^ 48 := by
  cases o <;> (simp [PmovArgs.ok] at h; simp [PmovArgs.enc, f3] <;> omega)

theorem AmovArgs.enc_lt {o : AmovArgs} (h : o.ok = true) : o.enc.1 < 2 ^ 32 ∧ ∀ x, o.enc.2 = some x → x < 2 ^ 48 := by
  cases o <;> (simp [AmovArgs.ok] at h; simp [AmovArgs.enc, f3] <;> omega)

theorem MmovArgs.enc_lt {o : MmovArgs} (h : o.ok = true) : o.enc.1 < 2 ^ 32 ∧ ∀ x, o.enc.2 = some x → x < 2 ^ 48 := by
  cases o <;> (simp [MmovArgs.ok] at h; simp [MmovArgs.enc, f3] <;> omega)

theorem BinArgs.enc_lt {o : BinArgs} (h : o.ok = true) : o.enc.1 < 2 ^ 32 ∧ ∀ x, o.enc.2 = some x → x < 2 ^ 48 := by
  rcases o with ⟨d, a, b⟩; cases_type* Src2 <;> (simp [BinArgs.ok, Src2.ok] at h; simp [BinArgs.enc, f3, f2i] <;> omega)

theorem BinZArgs.enc_lt {o : BinZArgs} (h : o.ok = true) : o.enc.1 < 2 ^ 32 ∧ ∀ x, o.enc.2 = some x → x < 2 ^ 48 := by
  rcases o with ⟨d, a, b, z⟩; have z0 := Bool.toNat_lt z; cases_type* Src2 <;> (simp [BinZArgs.ok, Src2.ok] at h; simp [BinZArgs.enc, f3, f2i] <;> omega)

theorem UnArgs.enc_lt {o : UnArgs} (h : o.ok = true) : o.enc.1 < 2 ^ 32 ∧ ∀ x, o.enc.2 = some x → x < 2 ^ 48 := by
  rcases o with ⟨d, a⟩; (simp [UnArgs.ok] at h; simp [UnArgs.enc, f3] <;> omega)

theorem MovxArgs.enc_lt {o : MovxArgs} (h : o.ok = true) : o.enc.1 < 2 ^ 32 ∧ ∀ x, o.enc.2 = some x → x < 2 ^ 48 := by
  rcases o with ⟨d, a⟩; (simp [MovxArgs.ok] at h; simp [MovxArgs.enc, f3] <;> omega)

theorem BfxArgs.enc_lt {o : BfxArgs} (h : o.ok = true) : o.enc.1 < 2 ^ 32 ∧ ∀ x, o.enc.2 = some x → x < 2 ^ 48 := by
  rcases o with ⟨d, a, pos, wm1, sgn⟩; have z0 := Bool.toNat_lt sgn; (simp [BfxArgs.ok] at h; simp [BfxArgs.enc, f3] <;> omega)

theorem BfiArgs.enc_lt {o : BfiArgs} (h : o.ok = true) : o.enc.1 < 2 ^ 32 ∧ ∀ x, o.enc.2 = some x → x < 2 ^ 48 := by
  rcases o with ⟨d, a, pos, wm1⟩; (simp [BfiArgs.ok] at h; simp [BfiArgs.enc, f3] <;> omega)

theorem SelArgs.enc_lt {o : SelArgs} (h : o.ok = true) : o.enc.1 < 2 ^ 32 ∧ ∀ x, o.enc.2 = some x → x < 2 ^ 48 := by
  rcases o with ⟨d, a, b, k, n⟩; have z0 := Bool.toNat_lt n; (simp [SelArgs.ok] at h; simp [SelArgs.enc, f3] <;> omega)

theorem MoviArgs.enc_lt {o : MoviArgs} (h : o.ok = true) : o.enc.1 < 2 ^ 32 ∧ ∀ x, o.enc.2 = some x → x < 2 ^ 48 := by
  rcases o with ⟨d, imm⟩; cases_type* MoviImm <;> (simp [MoviArgs.ok, MoviImm.ok] at h; simp [MoviArgs.enc, f2i] <;> omega)

theorem CmpArgs.enc_lt {o : CmpArgs} (h : o.ok = true) : o.enc.1 < 2 ^ 32 ∧ ∀ x, o.enc.2 = some x → x < 2 ^ 48 := by
  rcases o with ⟨p, a, b, cond⟩; have l0 := IntCond.code_lt cond; cases_type* RegImm <;> (simp [CmpArgs.ok, RegImm.ok] at h; simp [CmpArgs.enc, f3, RegImm.field, RegImm.pay] <;> omega)

theorem PlogArgs.enc_lt {o : PlogArgs} (h : o.ok = true) : o.enc.1 < 2 ^ 32 ∧ ∀ x, o.enc.2 = some x → x < 2 ^ 48 := by
  rcases o with ⟨p, a, b, f⟩; have l0 := LogicFn.code_lt f; (simp [PlogArgs.ok] at h; simp [PlogArgs.enc, f3] <;> omega)

theorem AaddArgs.enc_lt {o : AaddArgs} (h : o.ok = true) : o.enc.1 < 2 ^ 32 ∧ ∀ x, o.enc.2 = some x → x < 2 ^ 48 := by
  rcases o with ⟨d, a, b, z⟩; have z0 := Bool.toNat_lt z; cases_type* RegImm <;> (simp [AaddArgs.ok, RegImm.ok] at h; simp [AaddArgs.enc, f3, RegImm.field, RegImm.pay] <;> omega)

theorem AleaArgs.enc_lt {o : AleaArgs} (h : o.ok = true) : o.enc.1 < 2 ^ 32 ∧ ∀ x, o.enc.2 = some x → x < 2 ^ 48 := by
  rcases o with ⟨d, a, b, sh, z⟩; have z0 := Bool.toNat_lt z; (simp [AleaArgs.ok] at h; simp [AleaArgs.enc, f3] <;> omega)

theorem AgetArgs.enc_lt {o : AgetArgs} (h : o.ok = true) : o.enc.1 < 2 ^ 32 ∧ ∀ x, o.enc.2 = some x → x < 2 ^ 48 := by
  rcases o with ⟨d, a, h_⟩; have z0 := Bool.toNat_lt h_; (simp [AgetArgs.ok] at h; simp [AgetArgs.enc, f3] <;> omega)

theorem AcmpArgs.enc_lt {o : AcmpArgs} (h : o.ok = true) : o.enc.1 < 2 ^ 32 ∧ ∀ x, o.enc.2 = some x → x < 2 ^ 48 := by
  rcases o with ⟨p, a, b, cond⟩; have l0 := AddrCond.code_lt cond; (simp [AcmpArgs.ok] at h; simp [AcmpArgs.enc, f3] <;> omega)

theorem FpArgs.enc_lt {o : FpArgs} (h : o.ok = true) : o.enc.1 < 2 ^ 32 ∧ ∀ x, o.enc.2 = some x → x < 2 ^ 48 := by
  rcases o with ⟨d, a, b, rm⟩; have l0 := RMode.code_lt rm; (simp [FpArgs.ok] at h; simp [FpArgs.enc, f3] <;> omega)

theorem FmaArgs.enc_lt {o : FmaArgs} (h : o.ok = true) : o.enc.1 < 2 ^ 32 ∧ ∀ x, o.enc.2 = some x → x < 2 ^ 48 := by
  rcases o with ⟨d, a, b, rm⟩; have l0 := RMode.code_lt rm; (simp [FmaArgs.ok] at h; simp [FmaArgs.enc, f3] <;> omega)

theorem FminArgs.enc_lt {o : FminArgs} (h : o.ok = true) : o.enc.1 < 2 ^ 32 ∧ ∀ x, o.enc.2 = some x → x < 2 ^ 48 := by
  rcases o with ⟨d, a, b⟩; (simp [FminArgs.ok] at h; simp [FminArgs.enc, f3] <;> omega)

theorem FsqrtArgs.enc_lt {o : FsqrtArgs} (h : o.ok = true) : o.enc.1 < 2 ^ 32 ∧ ∀ x, o.enc.2 = some x → x < 2 ^ 48 := by
  rcases o with ⟨d, a, rm⟩; have l0 := RMode.code_lt rm; (simp [FsqrtArgs.ok] at h; simp [FsqrtArgs.enc, f3] <;> omega)

theorem FcmpArgs.enc_lt {o : FcmpArgs} (h : o.ok = true) : o.enc.1 < 2 ^ 32 ∧ ∀ x, o.enc.2 = some x → x < 2 ^ 48 := by
  rcases o with ⟨p, a, b, cond⟩; have l0 := FpCond.code_lt cond; (simp [FcmpArgs.ok] at h; simp [FcmpArgs.enc, f3] <;> omega)

theorem FcvtArgs.enc_lt {o : FcvtArgs} (h : o.ok = true) : o.enc.1 < 2 ^ 32 ∧ ∀ x, o.enc.2 = some x → x < 2 ^ 48 := by
  rcases o with ⟨d, a, dto, frm, rm, sat⟩; have l0 := NumFmt.code_lt dto; have l1 := NumFmt.code_lt frm; have l2 := RMode.code_lt rm; have z0 := Bool.toNat_lt sat; (simp [FcvtArgs.ok] at h; simp [FcvtArgs.enc, f3] <;> omega)

theorem FsgnArgs.enc_lt {o : FsgnArgs} (h : o.ok = true) : o.enc.1 < 2 ^ 32 ∧ ∀ x, o.enc.2 = some x → x < 2 ^ 48 := by
  rcases o with ⟨d, a, b, f⟩; have l0 := SignFn.code_lt f; (simp [FsgnArgs.ok] at h; simp [FsgnArgs.enc, f3] <;> omega)

theorem FclsArgs.enc_lt {o : FclsArgs} (h : o.ok = true) : o.enc.1 < 2 ^ 32 ∧ ∀ x, o.enc.2 = some x → x < 2 ^ 48 := by
  rcases o with ⟨d, a, fmt⟩; have l0 := NumFmt.code_lt fmt; (simp [FclsArgs.ok] at h; simp [FclsArgs.enc, f3] <;> omega)

theorem PbrArgs.enc_lt {o : PbrArgs} (h : o.ok = true) : o.enc.1 < 2 ^ 32 ∧ ∀ x, o.enc.2 = some x → x < 2 ^ 48 := by
  rcases o with ⟨b, loff, slot, h_⟩; have z0 := Bool.toNat_lt h_; (simp [PbrArgs.ok] at h; simp [PbrArgs.enc, fb] <;> omega)

theorem PbrgArgs.enc_lt {o : PbrgArgs} (h : o.ok = true) : o.enc.1 < 2 ^ 32 ∧ ∀ x, o.enc.2 = some x → x < 2 ^ 48 := by
  rcases o with ⟨b, g, h_⟩; have z0 := Bool.toNat_lt h_; (simp [PbrgArgs.ok] at h; simp [PbrgArgs.enc, fb] <;> omega)

theorem BrArgs.enc_lt {o : BrArgs} (h : o.ok = true) : o.enc.1 < 2 ^ 32 ∧ ∀ x, o.enc.2 = some x → x < 2 ^ 48 := by
  rcases o with ⟨b⟩; (simp [BrArgs.ok] at h; simp [BrArgs.enc, f3] <;> omega)

theorem CallArgs.enc_lt {o : CallArgs} (h : o.ok = true) : o.enc.1 < 2 ^ 32 ∧ ∀ x, o.enc.2 = some x → x < 2 ^ 48 := by
  rcases o with ⟨d, b⟩; (simp [CallArgs.ok] at h; simp [CallArgs.enc, f3] <;> omega)

theorem LoopArgs.enc_lt {o : LoopArgs} (h : o.ok = true) : o.enc.1 < 2 ^ 32 ∧ ∀ x, o.enc.2 = some x → x < 2 ^ 48 := by
  rcases o with ⟨lc, g, b⟩; (simp [LoopArgs.ok] at h; simp [LoopArgs.enc, f3] <;> omega)

theorem LdltArgs.enc_lt {o : LdltArgs} (h : o.ok = true) : o.enc.1 < 2 ^ 32 ∧ ∀ x, o.enc.2 = some x → x < 2 ^ 48 := by
  rcases o with ⟨lc, a, v⟩; cases_type* RegImm <;> (simp [LdltArgs.ok, RegImm.ok] at h; simp [LdltArgs.enc, f3, RegImm.field, RegImm.pay] <;> omega)

theorem LdltClrArgs.enc_lt {o : LdltClrArgs} (h : o.ok = true) : o.enc.1 < 2 ^ 32 ∧ ∀ x, o.enc.2 = some x → x < 2 ^ 48 := by
  rcases o with ⟨lc⟩; (simp [LdltClrArgs.ok] at h; simp [LdltClrArgs.enc, f3] <;> omega)

theorem LbrkArgs.enc_lt {o : LbrkArgs} (h : o.ok = true) : o.enc.1 < 2 ^ 32 ∧ ∀ x, o.enc.2 = some x → x < 2 ^ 48 := by
  rcases o with ⟨lc⟩; (simp [LbrkArgs.ok] at h; simp [LbrkArgs.enc, f3] <;> omega)

theorem NoArgs.enc_lt {o : NoArgs} (h : o.ok = true) : o.enc.1 < 2 ^ 32 ∧ ∀ x, o.enc.2 = some x → x < 2 ^ 48 := by
  rcases o with ⟨⟩; (simp [NoArgs.ok] at h; simp [NoArgs.enc] <;> omega)

theorem LdArgs.enc_lt {o : LdArgs} (h : o.ok = true) : o.enc.1 < 2 ^ 32 ∧ ∀ x, o.enc.2 = some x → x < 2 ^ 48 := by
  rcases o with ⟨d, a, sz, z, m, off⟩; have z0 := Bool.toNat_lt z; have z1 := Bool.toNat_lt m; cases_type* Off <;> (simp [LdArgs.ok, Off.ok, areg] at h; simp [LdArgs.enc, fm, Off.field, Off.pay] <;> omega)

theorem StArgs.enc_lt {o : StArgs} (h : o.ok = true) : o.enc.1 < 2 ^ 32 ∧ ∀ x, o.enc.2 = some x → x < 2 ^ 48 := by
  rcases o with ⟨g, a, sz, m, off⟩; have z0 := Bool.toNat_lt m; cases_type* Off <;> (simp [StArgs.ok, Off.ok, areg] at h; simp [StArgs.enc, fm, Off.field, Off.pay] <;> omega)

theorem LdaArgs.enc_lt {o : LdaArgs} (h : o.ok = true) : o.enc.1 < 2 ^ 32 ∧ ∀ x, o.enc.2 = some x → x < 2 ^ 48 := by
  rcases o with ⟨d, a, m, off⟩; have z0 := Bool.toNat_lt m; cases_type* Off <;> (simp [LdaArgs.ok, Off.ok, areg] at h; simp [LdaArgs.enc, fm, Off.field, Off.pay] <;> omega)

theorem StaArgs.enc_lt {o : StaArgs} (h : o.ok = true) : o.enc.1 < 2 ^ 32 ∧ ∀ x, o.enc.2 = some x → x < 2 ^ 48 := by
  rcases o with ⟨s, a, m, off⟩; have z0 := Bool.toNat_lt m; cases_type* Off <;> (simp [StaArgs.ok, Off.ok, areg] at h; simp [StaArgs.enc, fm, Off.field, Off.pay] <;> omega)

theorem FeLdArgs.enc_lt {o : FeLdArgs} (h : o.ok = true) : o.enc.1 < 2 ^ 32 ∧ ∀ x, o.enc.2 = some x → x < 2 ^ 48 := by
  rcases o with ⟨d, a, m, off⟩; have z0 := Bool.toNat_lt m; cases_type* Off <;> (simp [FeLdArgs.ok, Off.ok, areg] at h; simp [FeLdArgs.enc, fm, Off.field, Off.pay] <;> omega)

theorem FeStArgs.enc_lt {o : FeStArgs} (h : o.ok = true) : o.enc.1 < 2 ^ 32 ∧ ∀ x, o.enc.2 = some x → x < 2 ^ 48 := by
  rcases o with ⟨g, a, m, off⟩; have z0 := Bool.toNat_lt m; cases_type* Off <;> (simp [FeStArgs.ok, Off.ok, areg] at h; simp [FeStArgs.enc, fm, Off.field, Off.pay] <;> omega)

theorem BarrArgs.enc_lt {o : BarrArgs} (h : o.ok = true) : o.enc.1 < 2 ^ 32 ∧ ∀ x, o.enc.2 = some x → x < 2 ^ 48 := by
  rcases o with ⟨g, a, sp, m, off⟩; have z0 := Bool.toNat_lt sp; have z1 := Bool.toNat_lt m; (simp [BarrArgs.ok, areg] at h; simp [BarrArgs.enc, fm] <;> omega)

theorem BwaitArgs.enc_lt {o : BwaitArgs} (h : o.ok = true) : o.enc.1 < 2 ^ 32 ∧ ∀ x, o.enc.2 = some x → x < 2 ^ 48 := by
  rcases o with ⟨g, a, sp, par, m, off⟩; have z0 := Bool.toNat_lt sp; have z1 := Bool.toNat_lt par; have z2 := Bool.toNat_lt m; (simp [BwaitArgs.ok, areg] at h; simp [BwaitArgs.enc, fm] <;> omega)

theorem NotifyArgs.enc_lt {o : NotifyArgs} (h : o.ok = true) : o.enc.1 < 2 ^ 32 ∧ ∀ x, o.enc.2 = some x → x < 2 ^ 48 := by
  rcases o with ⟨a, g⟩; (simp [NotifyArgs.ok] at h; simp [NotifyArgs.enc, f3] <;> omega)

theorem WaitnArgs.enc_lt {o : WaitnArgs} (h : o.ok = true) : o.enc.1 < 2 ^ 32 ∧ ∀ x, o.enc.2 = some x → x < 2 ^ 48 := by
  rcases o with ⟨d, n, g, nb⟩; have z0 := Bool.toNat_lt nb; (simp [WaitnArgs.ok] at h; simp [WaitnArgs.enc, f3] <;> omega)

theorem QpopArgs.enc_lt {o : QpopArgs} (h : o.ok = true) : o.enc.1 < 2 ^ 32 ∧ ∀ x, o.enc.2 = some x → x < 2 ^ 48 := by
  have g := h; simp only [QpopArgs.ok, Bool.and_eq_true] at g; have g1 := regs_lt g.1; rcases o with ⟨d, q, v⟩; have z0 := Bool.toNat_lt v; (dsimp only at g1; simp [QpopArgs.ok] at h; simp [QpopArgs.enc, f3] <;> omega)

theorem QpushArgs.enc_lt {o : QpushArgs} (h : o.ok = true) : o.enc.1 < 2 ^ 32 ∧ ∀ x, o.enc.2 = some x → x < 2 ^ 48 := by
  have g := h; simp only [QpushArgs.ok, Bool.and_eq_true] at g; have g1 := regs_lt g.1; rcases o with ⟨q, s, v⟩; have z0 := Bool.toNat_lt v; (dsimp only at g1; simp [QpushArgs.ok] at h; simp [QpushArgs.enc, f3] <;> omega)

theorem QstatArgs.enc_lt {o : QstatArgs} (h : o.ok = true) : o.enc.1 < 2 ^ 32 ∧ ∀ x, o.enc.2 = some x → x < 2 ^ 48 := by
  rcases o with ⟨d, q⟩; (simp [QstatArgs.ok] at h; simp [QstatArgs.enc, f3] <;> omega)

theorem QclrArgs.enc_lt {o : QclrArgs} (h : o.ok = true) : o.enc.1 < 2 ^ 32 ∧ ∀ x, o.enc.2 = some x → x < 2 ^ 48 := by
  rcases o with ⟨q⟩; (simp [QclrArgs.ok] at h; simp [QclrArgs.enc, f3] <;> omega)

theorem QstArgs.enc_lt {o : QstArgs} (h : o.ok = true) : o.enc.1 < 2 ^ 32 ∧ ∀ x, o.enc.2 = some x → x < 2 ^ 48 := by
  rcases o with ⟨k, q⟩; (simp [QstArgs.ok] at h; simp [QstArgs.enc, f3] <;> omega)

theorem LdqArgs.enc_lt {o : LdqArgs} (h : o.ok = true) : o.enc.1 < 2 ^ 32 ∧ ∀ x, o.enc.2 = some x → x < 2 ^ 48 := by
  rcases o with ⟨q, a, sz, z, s, m, off⟩; have z0 := Bool.toNat_lt z; have z1 := Bool.toNat_lt s; have z2 := Bool.toNat_lt m; cases_type* Off <;> (simp [LdqArgs.ok, Off.ok, areg] at h; simp [LdqArgs.enc, fm, Off.field, Off.pay] <;> omega)

theorem LdqsArgs.enc_lt {o : LdqsArgs} (h : o.ok = true) : o.enc.1 < 2 ^ 32 ∧ ∀ x, o.enc.2 = some x → x < 2 ^ 48 := by
  rcases o with ⟨q, a, km, s, stride⟩; have z0 := Bool.toNat_lt s; cases_type* Stride <;> (simp [LdqsArgs.ok, Stride.ok] at h; simp [LdqsArgs.enc, fm, Stride.field, Stride.pay] <;> omega)

theorem LdqxArgs.enc_lt {o : LdqxArgs} (h : o.ok = true) : o.enc.1 < 2 ^ 32 ∧ ∀ x, o.enc.2 = some x → x < 2 ^ 48 := by
  rcases o with ⟨q, a, vi, sh, km, z, s⟩; have z0 := Bool.toNat_lt z; have z1 := Bool.toNat_lt s; (simp [LdqxArgs.ok] at h; simp [LdqxArgs.enc, fm] <;> omega)

theorem StfArgs.enc_lt {o : StfArgs} (h : o.ok = true) : o.enc.1 < 2 ^ 32 ∧ ∀ x, o.enc.2 = some x → x < 2 ^ 48 := by
  have g : o.s < 256 := by have g := h; simp only [StfArgs.ok, Bool.and_eq_true] at g; obtain ⟨⟨⟨g, _⟩, _⟩, _⟩ := g; split at g <;> simp at g <;> omega
  rcases o with ⟨s, a, sz, m, off⟩; have z0 := Bool.toNat_lt m; cases_type* Off <;> (dsimp only at g; simp [StfArgs.ok, Off.ok, areg] at h; simp [StfArgs.enc, fm, Off.field, Off.pay] <;> omega)

theorem StfsArgs.enc_lt {o : StfsArgs} (h : o.ok = true) : o.enc.1 < 2 ^ 32 ∧ ∀ x, o.enc.2 = some x → x < 2 ^ 48 := by
  rcases o with ⟨v, a, km, stride⟩; cases_type* Stride <;> (simp [StfsArgs.ok, Stride.ok] at h; simp [StfsArgs.enc, fm, Stride.field, Stride.pay] <;> omega)

theorem StfxArgs.enc_lt {o : StfxArgs} (h : o.ok = true) : o.enc.1 < 2 ^ 32 ∧ ∀ x, o.enc.2 = some x → x < 2 ^ 48 := by
  rcases o with ⟨v, a, vi, sh, km, z⟩; have z0 := Bool.toNat_lt z; (simp [StfxArgs.ok] at h; simp [StfxArgs.enc, fm] <;> omega)

theorem PrefArgs.enc_lt {o : PrefArgs} (h : o.ok = true) : o.enc.1 < 2 ^ 32 ∧ ∀ x, o.enc.2 = some x → x < 2 ^ 48 := by
  rcases o with ⟨a, l2, off⟩; have z0 := Bool.toNat_lt l2; (simp [PrefArgs.ok] at h; simp [PrefArgs.enc, fm] <;> omega)

theorem CwbArgs.enc_lt {o : CwbArgs} (h : o.ok = true) : o.enc.1 < 2 ^ 32 ∧ ∀ x, o.enc.2 = some x → x < 2 ^ 48 := by
  rcases o with ⟨g, a, off⟩; (simp [CwbArgs.ok] at h; simp [CwbArgs.enc, fm] <;> omega)

theorem AmoArgs.enc_lt {o : AmoArgs} (h : o.ok = true) : o.enc.1 < 2 ^ 32 ∧ ∀ x, o.enc.2 = some x → x < 2 ^ 48 := by
  rcases o with ⟨q, a, g, nr, sp, scope, ord, op⟩; have l0 := Scope.code_lt scope; have l1 := MemOrder.code_lt ord; have l2 := AmoOp.code_lt op; have z0 := Bool.toNat_lt nr; have z1 := Bool.toNat_lt sp; (simp [AmoArgs.ok] at h; simp [AmoArgs.enc, f3] <;> omega)

theorem AcasArgs.enc_lt {o : AcasArgs} (h : o.ok = true) : o.enc.1 < 2 ^ 32 ∧ ∀ x, o.enc.2 = some x → x < 2 ^ 48 := by
  rcases o with ⟨q, a, g, sp, scope, ord, ford⟩; have l0 := Scope.code_lt scope; have l1 := MemOrder.code_lt ord; have l2 := MemOrder.code_lt ford; have z0 := Bool.toNat_lt sp; (simp [AcasArgs.ok] at h; simp [AcasArgs.enc, f3] <;> omega)

theorem VamoArgs.enc_lt {o : VamoArgs} (h : o.ok = true) : o.enc.1 < 2 ^ 32 ∧ ∀ x, o.enc.2 = some x → x < 2 ^ 48 := by
  rcases o with ⟨q, a, v, nr, sp, scope, ord, op⟩; have l0 := Scope.code_lt scope; have l1 := MemOrder.code_lt ord; have l2 := VamoOp.code_lt op; have z0 := Bool.toNat_lt nr; have z1 := Bool.toNat_lt sp; (simp [VamoArgs.ok] at h; simp [VamoArgs.enc, f3] <;> omega)

theorem FenceArgs.enc_lt {o : FenceArgs} (h : o.ok = true) : o.enc.1 < 2 ^ 32 ∧ ∀ x, o.enc.2 = some x → x < 2 ^ 48 := by
  rcases o with ⟨scope⟩; have l0 := Scope.code_lt scope; (simp [FenceArgs.ok] at h; simp [FenceArgs.enc, f3] <;> omega)

theorem XferArgs.enc_lt {o : XferArgs} (h : o.ok = true) : o.enc.1 < 2 ^ 32 ∧ ∀ x, o.enc.2 = some x → x < 2 ^ 48 := by
  rcases o with ⟨a, g⟩; (simp [XferArgs.ok] at h; simp [XferArgs.enc, f3] <;> omega)

theorem RclaimArgs.enc_lt {o : RclaimArgs} (h : o.ok = true) : o.enc.1 < 2 ^ 32 ∧ ∀ x, o.enc.2 = some x → x < 2 ^ 48 := by
  rcases o with ⟨p, a⟩; (simp [RclaimArgs.ok] at h; simp [RclaimArgs.enc, f3] <;> omega)

theorem RshareArgs.enc_lt {o : RshareArgs} (h : o.ok = true) : o.enc.1 < 2 ^ 32 ∧ ∀ x, o.enc.2 = some x → x < 2 ^ 48 := by
  rcases o with ⟨a⟩; (simp [RshareArgs.ok] at h; simp [RshareArgs.enc, f3] <;> omega)

theorem VIntArgs.enc_lt {o : VIntArgs} (h : o.ok = true) : o.enc.1 < 2 ^ 32 ∧ ∀ x, o.enc.2 = some x → x < 2 ^ 48 := by
  rcases o with ⟨d, a, b, km, mz, w_⟩; have l0 := VWidth.code_lt w_; have z0 := Bool.toNat_lt mz; have p_ := VWidth.pow_le w_; cases_type* VSrc <;> (simp [VIntArgs.ok, VSrc.ok] at h; simp [VIntArgs.enc, f3, VSrc.field, VSrc.sc, VSrc.pay] <;> omega)

theorem VMadArgs.enc_lt {o : VMadArgs} (h : o.ok = true) : o.enc.1 < 2 ^ 32 ∧ ∀ x, o.enc.2 = some x → x < 2 ^ 48 := by
  rcases o with ⟨d, a, b, km, mz, w_⟩; have l0 := VWidth.code_lt w_; have z0 := Bool.toNat_lt mz; have p_ := VWidth.pow_le w_; cases_type* VSrc <;> (simp [VMadArgs.ok, VSrc.ok] at h; simp [VMadArgs.enc, f3, VSrc.field, VSrc.sc, VSrc.pay] <;> omega)

theorem VIntZArgs.enc_lt {o : VIntZArgs} (h : o.ok = true) : o.enc.1 < 2 ^ 32 ∧ ∀ x, o.enc.2 = some x → x < 2 ^ 48 := by
  rcases o with ⟨d, a, b, km, mz, w_, z⟩; have l0 := VWidth.code_lt w_; have z0 := Bool.toNat_lt mz; have z1 := Bool.toNat_lt z; have p_ := VWidth.pow_le w_; cases_type* VSrc <;> (simp [VIntZArgs.ok, VSrc.ok] at h; simp [VIntZArgs.enc, f3, VSrc.field, VSrc.sc, VSrc.pay] <;> omega)

theorem VabsArgs.enc_lt {o : VabsArgs} (h : o.ok = true) : o.enc.1 < 2 ^ 32 ∧ ∀ x, o.enc.2 = some x → x < 2 ^ 48 := by
  rcases o with ⟨d, a, km, mz, w_⟩; have l0 := VWidth.code_lt w_; have z0 := Bool.toNat_lt mz; (simp [VabsArgs.ok] at h; simp [VabsArgs.enc, f3] <;> omega)

theorem VcmpArgs.enc_lt {o : VcmpArgs} (h : o.ok = true) : o.enc.1 < 2 ^ 32 ∧ ∀ x, o.enc.2 = some x → x < 2 ^ 48 := by
  rcases o with ⟨m, a, b, km, mz, cond⟩; have l0 := IntCond.code_lt cond; have z0 := Bool.toNat_lt mz; (simp [VcmpArgs.ok] at h; simp [VcmpArgs.enc, f3] <;> omega)

theorem VselArgs.enc_lt {o : VselArgs} (h : o.ok = true) : o.enc.1 < 2 ^ 32 ∧ ∀ x, o.enc.2 = some x → x < 2 ^ 48 := by
  rcases o with ⟨d, a, b, ms, w_⟩; have l0 := VWidth.code_lt w_; have p_ := VWidth.pow_le w_; cases_type* VSrc <;> (simp [VselArgs.ok, VSrc.ok] at h; simp [VselArgs.enc, f3, VSrc.field, VSrc.sc, VSrc.pay] <;> omega)

theorem VFBinArgs.enc_lt {o : VFBinArgs} (h : o.ok = true) : o.enc.1 < 2 ^ 32 ∧ ∀ x, o.enc.2 = some x → x < 2 ^ 48 := by
  rcases o with ⟨d, a, b, km, mz, f⟩; have l0 := VFloat.code_lt f; have z0 := Bool.toNat_lt mz; have p_ := VFloat.pow_le f; cases_type* VSrc <;> (simp [VFBinArgs.ok, VSrc.ok] at h; simp [VFBinArgs.enc, f3, VSrc.field, VSrc.sc, VSrc.pay] <;> omega)

theorem VFmaArgs.enc_lt {o : VFmaArgs} (h : o.ok = true) : o.enc.1 < 2 ^ 32 ∧ ∀ x, o.enc.2 = some x → x < 2 ^ 48 := by
  rcases o with ⟨d, a, b, km, mz, f⟩; have l0 := VFloat.code_lt f; have z0 := Bool.toNat_lt mz; have p_ := VFloat.pow_le f; cases_type* VSrc <;> (simp [VFmaArgs.ok, VSrc.ok] at h; simp [VFmaArgs.enc, f3, VSrc.field, VSrc.sc, VSrc.pay] <;> omega)

theorem VFUnArgs.enc_lt {o : VFUnArgs} (h : o.ok = true) : o.enc.1 < 2 ^ 32 ∧ ∀ x, o.enc.2 = some x → x < 2 ^ 48 := by
  rcases o with ⟨d, a, km, mz, f⟩; have l0 := VFloat.code_lt f; have z0 := Bool.toNat_lt mz; (simp [VFUnArgs.ok] at h; simp [VFUnArgs.enc, f3] <;> omega)

theorem VfcmpArgs.enc_lt {o : VfcmpArgs} (h : o.ok = true) : o.enc.1 < 2 ^ 32 ∧ ∀ x, o.enc.2 = some x → x < 2 ^ 48 := by
  rcases o with ⟨m, a, b, km, mz, cond⟩; have l0 := FpCond.code_lt cond; have z0 := Bool.toNat_lt mz; (simp [VfcmpArgs.ok] at h; simp [VfcmpArgs.enc, f3] <;> omega)

theorem VfsgnArgs.enc_lt {o : VfsgnArgs} (h : o.ok = true) : o.enc.1 < 2 ^ 32 ∧ ∀ x, o.enc.2 = some x → x < 2 ^ 48 := by
  rcases o with ⟨d, a, b, km, mz, f, op⟩; have l0 := VFloat.code_lt f; have l1 := SignFn.code_lt op; have z0 := Bool.toNat_lt mz; (simp [VfsgnArgs.ok] at h; simp [VfsgnArgs.enc, f3] <;> omega)

theorem VcvtArgs.enc_lt {o : VcvtArgs} (h : o.ok = true) : o.enc.1 < 2 ^ 32 ∧ ∀ x, o.enc.2 = some x → x < 2 ^ 48 := by
  have g := VcvtArgs.part_lt h; rcases o with ⟨d, a, part, dto, frm, rm, sat⟩; have l0 := NumFmt.code_lt dto; have l1 := NumFmt.code_lt frm; have l2 := RMode.code_lt rm; have z0 := Bool.toNat_lt sat; (dsimp only at g; simp [VcvtArgs.ok] at h; simp [VcvtArgs.enc, f3] <;> omega)

theorem VqencArgs.enc_lt {o : VqencArgs} (h : o.ok = true) : o.enc.1 < 2 ^ 32 ∧ ∀ x, o.enc.2 = some x → x < 2 ^ 48 := by
  rcases o with ⟨d, a, g, k, fmt⟩; have l0 := QFmt.code_lt fmt; (simp [VqencArgs.ok] at h; simp [VqencArgs.enc, f3] <;> omega)

theorem VqdecArgs.enc_lt {o : VqdecArgs} (h : o.ok = true) : o.enc.1 < 2 ^ 32 ∧ ∀ x, o.enc.2 = some x → x < 2 ^ 48 := by
  rcases o with ⟨d, a, g, k, fmt⟩; have l0 := QFmt.code_lt fmt; (simp [VqdecArgs.ok] at h; simp [VqdecArgs.enc, f3] <;> omega)

theorem VsclArgs.enc_lt {o : VsclArgs} (h : o.ok = true) : o.enc.1 < 2 ^ 32 ∧ ∀ x, o.enc.2 = some x → x < 2 ^ 48 := by
  rcases o with ⟨d, a, b, km, mz, f⟩; have l0 := VFloat.code_lt f; have z0 := Bool.toNat_lt mz; have p_ := VFloat.pow_le f; cases_type* VSrc <;> (simp [VsclArgs.ok, VSrc.ok] at h; simp [VsclArgs.enc, f3, VSrc.field, VSrc.sc, VSrc.pay] <;> omega)

theorem VredArgs.enc_lt {o : VredArgs} (h : o.ok = true) : o.enc.1 < 2 ^ 32 ∧ ∀ x, o.enc.2 = some x → x < 2 ^ 48 := by
  rcases o with ⟨d, a, km, op, ty⟩; have l0 := RedOp.code_lt op; have l1 := RedTy.code_lt ty; (simp [VredArgs.ok] at h; simp [VredArgs.enc, f3] <;> omega)

theorem VscanArgs.enc_lt {o : VscanArgs} (h : o.ok = true) : o.enc.1 < 2 ^ 32 ∧ ∀ x, o.enc.2 = some x → x < 2 ^ 48 := by
  rcases o with ⟨d, a, km, mz, op, ty⟩; have l0 := RedOp.code_lt op; have l1 := RedTy.code_lt ty; have z0 := Bool.toNat_lt mz; (simp [VscanArgs.ok] at h; simp [VscanArgs.enc, f3] <;> omega)

theorem VsortArgs.enc_lt {o : VsortArgs} (h : o.ok = true) : o.enc.1 < 2 ^ 32 ∧ ∀ x, o.enc.2 = some x → x < 2 ^ 48 := by
  rcases o with ⟨d, a, b, km, ty, dn⟩; have l0 := RedTy.code_lt ty; have z0 := Bool.toNat_lt dn; (simp [VsortArgs.ok] at h; simp [VsortArgs.enc, f3] <;> omega)

theorem VpermArgs.enc_lt {o : VpermArgs} (h : o.ok = true) : o.enc.1 < 2 ^ 32 ∧ ∀ x, o.enc.2 = some x → x < 2 ^ 48 := by
  rcases o with ⟨d, a, b, km, mz, w_⟩; have l0 := VWidth.code_lt w_; have z0 := Bool.toNat_lt mz; (simp [VpermArgs.ok] at h; simp [VpermArgs.enc, f3] <;> omega)

theorem VshufArgs.enc_lt {o : VshufArgs} (h : o.ok = true) : o.enc.1 < 2 ^ 32 ∧ ∀ x, o.enc.2 = some x → x < 2 ^ 48 := by
  rcases o with ⟨d, a, b, km, mz, w_⟩; have l0 := VWidth.code_lt w_; have z0 := Bool.toNat_lt mz; (simp [VshufArgs.ok] at h; simp [VshufArgs.enc, f3] <;> omega)

theorem VbcstArgs.enc_lt {o : VbcstArgs} (h : o.ok = true) : o.enc.1 < 2 ^ 32 ∧ ∀ x, o.enc.2 = some x → x < 2 ^ 48 := by
  rcases o with ⟨d, src, km, mz, w_⟩; have l0 := VWidth.code_lt w_; have z0 := Bool.toNat_lt mz; have p_ := VWidth.pow_le w_; cases_type* BcstSrc <;> (simp [VbcstArgs.ok, BcstSrc.ok] at h; simp [VbcstArgs.enc, f3] <;> omega)

theorem VextArgs.enc_lt {o : VextArgs} (h : o.ok = true) : o.enc.1 < 2 ^ 32 ∧ ∀ x, o.enc.2 = some x → x < 2 ^ 48 := by
  rcases o with ⟨d, a, idx, w_, z⟩; have l0 := VWidth.code_lt w_; have z0 := Bool.toNat_lt z; cases_type* VIdx <;> (simp [VextArgs.ok, VIdx.ok] at h; simp [VextArgs.enc, f3, VIdx.field, VIdx.sc] <;> omega)

theorem VinsArgs.enc_lt {o : VinsArgs} (h : o.ok = true) : o.enc.1 < 2 ^ 32 ∧ ∀ x, o.enc.2 = some x → x < 2 ^ 48 := by
  rcases o with ⟨d, g, idx, w_⟩; have l0 := VWidth.code_lt w_; cases_type* VIdx <;> (simp [VinsArgs.ok, VIdx.ok] at h; simp [VinsArgs.enc, f3, VIdx.field, VIdx.sc] <;> omega)

theorem ViotaArgs.enc_lt {o : ViotaArgs} (h : o.ok = true) : o.enc.1 < 2 ^ 32 ∧ ∀ x, o.enc.2 = some x → x < 2 ^ 48 := by
  rcases o with ⟨d, km, mz⟩; have z0 := Bool.toNat_lt mz; (simp [ViotaArgs.ok] at h; simp [ViotaArgs.enc, f3] <;> omega)

theorem VcmprsArgs.enc_lt {o : VcmprsArgs} (h : o.ok = true) : o.enc.1 < 2 ^ 32 ∧ ∀ x, o.enc.2 = some x → x < 2 ^ 48 := by
  rcases o with ⟨d, a, km, mz⟩; have z0 := Bool.toNat_lt mz; (simp [VcmprsArgs.ok] at h; simp [VcmprsArgs.enc, f3] <;> omega)

theorem VmovxArgs.enc_lt {o : VmovxArgs} (h : o.ok = true) : o.enc.1 < 2 ^ 32 ∧ ∀ x, o.enc.2 = some x → x < 2 ^ 48 := by
  rcases o with ⟨d, a, km, mz⟩; have z0 := Bool.toNat_lt mz; (simp [VmovxArgs.ok] at h; simp [VmovxArgs.enc, f3] <;> omega)

theorem VrndArgs.enc_lt {o : VrndArgs} (h : o.ok = true) : o.enc.1 < 2 ^ 32 ∧ ∀ x, o.enc.2 = some x → x < 2 ^ 48 := by
  rcases o with ⟨d, a, key, km, mz, f⟩; have z0 := Bool.toNat_lt mz; have z1 := Bool.toNat_lt f; cases_type* RegImm <;> (simp [VrndArgs.ok, RegImm.ok] at h; simp [VrndArgs.enc, f3, RegImm.field, RegImm.pay] <;> omega)

theorem VdotArgs.enc_lt {o : VdotArgs} (h : o.ok = true) : o.enc.1 < 2 ^ 32 ∧ ∀ x, o.enc.2 = some x → x < 2 ^ 48 := by
  rcases o with ⟨d, a, b, km, mz, ty⟩; have l0 := DotTy.code_lt ty; have z0 := Bool.toNat_lt mz; (simp [VdotArgs.ok] at h; simp [VdotArgs.enc, f3] <;> omega)

theorem MlogArgs.enc_lt {o : MlogArgs} (h : o.ok = true) : o.enc.1 < 2 ^ 32 ∧ ∀ x, o.enc.2 = some x → x < 2 ^ 48 := by
  rcases o with ⟨m, a, b, f⟩; have l0 := LogicFn.code_lt f; (simp [MlogArgs.ok] at h; simp [MlogArgs.enc, f3] <;> omega)

theorem MpopArgs.enc_lt {o : MpopArgs} (h : o.ok = true) : o.enc.1 < 2 ^ 32 ∧ ∀ x, o.enc.2 = some x → x < 2 ^ 48 := by
  rcases o with ⟨d, m⟩; (simp [MpopArgs.ok] at h; simp [MpopArgs.enc, f3] <;> omega)

theorem MffArgs.enc_lt {o : MffArgs} (h : o.ok = true) : o.enc.1 < 2 ^ 32 ∧ ∀ x, o.enc.2 = some x → x < 2 ^ 48 := by
  rcases o with ⟨d, m, last⟩; have z0 := Bool.toNat_lt last; (simp [MffArgs.ok] at h; simp [MffArgs.enc, f3] <;> omega)

theorem VldArgs.enc_lt {o : VldArgs} (h : o.ok = true) : o.enc.1 < 2 ^ 32 ∧ ∀ x, o.enc.2 = some x → x < 2 ^ 48 := by
  rcases o with ⟨v, a, m, off⟩; have z0 := Bool.toNat_lt m; cases_type* Off <;> (simp [VldArgs.ok, Off.ok, areg] at h; simp [VldArgs.enc, fm, Off.field, Off.pay] <;> omega)

theorem VstArgs.enc_lt {o : VstArgs} (h : o.ok = true) : o.enc.1 < 2 ^ 32 ∧ ∀ x, o.enc.2 = some x → x < 2 ^ 48 := by
  rcases o with ⟨v, a, m, off⟩; have z0 := Bool.toNat_lt m; cases_type* Off <;> (simp [VstArgs.ok, Off.ok, areg] at h; simp [VstArgs.enc, fm, Off.field, Off.pay] <;> omega)

theorem VldsArgs.enc_lt {o : VldsArgs} (h : o.ok = true) : o.enc.1 < 2 ^ 32 ∧ ∀ x, o.enc.2 = some x → x < 2 ^ 48 := by
  rcases o with ⟨v, a, km, stride⟩; cases_type* Stride <;> (simp [VldsArgs.ok, Stride.ok] at h; simp [VldsArgs.enc, fm, Stride.field, Stride.pay] <;> omega)

theorem VldxArgs.enc_lt {o : VldxArgs} (h : o.ok = true) : o.enc.1 < 2 ^ 32 ∧ ∀ x, o.enc.2 = some x → x < 2 ^ 48 := by
  rcases o with ⟨v, a, vi, sh, km, z⟩; have z0 := Bool.toNat_lt z; (simp [VldxArgs.ok] at h; simp [VldxArgs.enc, fm] <;> omega)

theorem PostArgs.enc_lt {o : PostArgs} (h : o.ok = true) : o.enc.1 < 2 ^ 32 ∧ ∀ x, o.enc.2 = some x → x < 2 ^ 48 := by
  rcases o with ⟨a, hw, nb, s⟩; have z0 := Bool.toNat_lt s; cases_type* Option <;> (simp [PostArgs.ok] at h; simp [PostArgs.enc, fk, Option.getD_none, Option.getD_some, Option.isSome_none, Option.isSome_some, Bool.toNat_true, Bool.toNat_false] <;> omega)

theorem PostxArgs.enc_lt {o : PostxArgs} (h : o.ok = true) : o.enc.1 < 2 ^ 32 ∧ ∀ x, o.enc.2 = some x → x < 2 ^ 48 := by
  rcases o with ⟨q, a, g⟩; (simp [PostxArgs.ok] at h; simp [PostxArgs.enc, fk] <;> omega)

theorem FdefArgs.enc_lt {o : FdefArgs} (h : o.ok = true) : o.enc.1 < 2 ^ 32 ∧ ∀ x, o.enc.2 = some x → x < 2 ^ 48 := by
  rcases o with ⟨n, a⟩; (simp [FdefArgs.ok] at h; simp [FdefArgs.enc, fk] <;> omega)

theorem FrelArgs.enc_lt {o : FrelArgs} (h : o.ok = true) : o.enc.1 < 2 ^ 32 ∧ ∀ x, o.enc.2 = some x → x < 2 ^ 48 := by
  rcases o with ⟨n⟩; (simp [FrelArgs.ok] at h; simp [FrelArgs.enc, fk] <;> omega)

theorem RinitArgs.enc_lt {o : RinitArgs} (h : o.ok = true) : o.enc.1 < 2 ^ 32 ∧ ∀ x, o.enc.2 = some x → x < 2 ^ 48 := by
  rcases o with ⟨k, a⟩; (simp [RinitArgs.ok] at h; simp [RinitArgs.enc, fk] <;> omega)

theorem CwaitArgs.enc_lt {o : CwaitArgs} (h : o.ok = true) : o.enc.1 < 2 ^ 32 ∧ ∀ x, o.enc.2 = some x → x < 2 ^ 48 := by
  rcases o with ⟨c, t⟩; cases_type* RegImm <;> (simp [CwaitArgs.ok, RegImm.ok] at h; simp [CwaitArgs.enc, fk, RegImm.field, RegImm.pay] <;> omega)

theorem CwaitNbArgs.enc_lt {o : CwaitNbArgs} (h : o.ok = true) : o.enc.1 < 2 ^ 32 ∧ ∀ x, o.enc.2 = some x → x < 2 ^ 48 := by
  rcases o with ⟨p, c, t⟩; cases_type* RegImm <;> (simp [CwaitNbArgs.ok, RegImm.ok] at h; simp [CwaitNbArgs.enc, fk, RegImm.field, RegImm.pay] <;> omega)

theorem CsigArgs.enc_lt {o : CsigArgs} (h : o.ok = true) : o.enc.1 < 2 ^ 32 ∧ ∀ x, o.enc.2 = some x → x < 2 ^ 48 := by
  rcases o with ⟨c, v⟩; cases_type* RegImm <;> (simp [CsigArgs.ok, RegImm.ok] at h; simp [CsigArgs.enc, fk, RegImm.field, RegImm.pay] <;> omega)

theorem CsigRArgs.enc_lt {o : CsigRArgs} (h : o.ok = true) : o.enc.1 < 2 ^ 32 ∧ ∀ x, o.enc.2 = some x → x < 2 ^ 48 := by
  rcases o with ⟨c, v, g⟩; cases_type* RegImm <;> (simp [CsigRArgs.ok, RegImm.ok] at h; simp [CsigRArgs.enc, fk, RegImm.field, RegImm.pay] <;> omega)

theorem CrdArgs.enc_lt {o : CrdArgs} (h : o.ok = true) : o.enc.1 < 2 ^ 32 ∧ ∀ x, o.enc.2 = some x → x < 2 ^ 48 := by
  rcases o with ⟨d, c⟩; (simp [CrdArgs.ok] at h; simp [CrdArgs.enc, fk] <;> omega)

theorem TagwArgs.enc_lt {o : TagwArgs} (h : o.ok = true) : o.enc.1 < 2 ^ 32 ∧ ∀ x, o.enc.2 = some x → x < 2 ^ 48 := by
  rcases o with ⟨g, all⟩; have z0 := Bool.toNat_lt all; (simp [TagwArgs.ok] at h; simp [TagwArgs.enc, fk] <;> omega)

theorem TagwNbArgs.enc_lt {o : TagwNbArgs} (h : o.ok = true) : o.enc.1 < 2 ^ 32 ∧ ∀ x, o.enc.2 = some x → x < 2 ^ 48 := by
  rcases o with ⟨p, g, all⟩; have z0 := Bool.toNat_lt all; (simp [TagwNbArgs.ok] at h; simp [TagwNbArgs.enc, fk] <;> omega)

theorem TagffArgs.enc_lt {o : TagffArgs} (h : o.ok = true) : o.enc.1 < 2 ^ 32 ∧ ∀ x, o.enc.2 = some x → x < 2 ^ 48 := by
  rcases o with ⟨d, g⟩; (simp [TagffArgs.ok] at h; simp [TagffArgs.enc, fk] <;> omega)

theorem TagclrArgs.enc_lt {o : TagclrArgs} (h : o.ok = true) : o.enc.1 < 2 ^ 32 ∧ ∀ x, o.enc.2 = some x → x < 2 ^ 48 := by
  rcases o with ⟨g⟩; (simp [TagclrArgs.ok] at h; simp [TagclrArgs.enc, fk] <;> omega)

theorem KmodeArgs.enc_lt {o : KmodeArgs} (h : o.ok = true) : o.enc.1 < 2 ^ 32 ∧ ∀ x, o.enc.2 = some x → x < 2 ^ 48 := by
  rcases o with ⟨cls, rm⟩; have l0 := EngClass.code_lt cls; have l1 := RoundMode.code_lt rm; (simp [KmodeArgs.ok] at h; simp [KmodeArgs.enc, fk] <;> omega)

theorem KqryStArgs.enc_lt {o : KqryStArgs} (h : o.ok = true) : o.enc.1 < 2 ^ 32 ∧ ∀ x, o.enc.2 = some x → x < 2 ^ 48 := by
  rcases o with ⟨d, g⟩; (simp [KqryStArgs.ok] at h; simp [KqryStArgs.enc, fk] <;> omega)

theorem KqryOccArgs.enc_lt {o : KqryOccArgs} (h : o.ok = true) : o.enc.1 < 2 ^ 32 ∧ ∀ x, o.enc.2 = some x → x < 2 ^ 48 := by
  rcases o with ⟨d⟩; (simp [KqryOccArgs.ok] at h; simp [KqryOccArgs.enc, fk] <;> omega)

theorem KqryVerArgs.enc_lt {o : KqryVerArgs} (h : o.ok = true) : o.enc.1 < 2 ^ 32 ∧ ∀ x, o.enc.2 = some x → x < 2 ^ 48 := by
  rcases o with ⟨d, n⟩; (simp [KqryVerArgs.ok] at h; simp [KqryVerArgs.enc, fk] <;> omega)

theorem NestArgs.enc_lt {o : NestArgs} (h : o.ok = true) : o.enc.1 < 2 ^ 32 ∧ ∀ x, o.enc.2 = some x → x < 2 ^ 48 := by
  rcases o with ⟨p, ap, ar⟩; (simp [NestArgs.ok] at h; simp [NestArgs.enc, fk] <;> omega)

theorem SettagArgs.enc_lt {o : SettagArgs} (h : o.ok = true) : o.enc.1 < 2 ^ 32 ∧ ∀ x, o.enc.2 = some x → x < 2 ^ 48 := by
  rcases o with ⟨t⟩; cases_type* RegImm <;> (simp [SettagArgs.ok, RegImm.ok] at h; simp [SettagArgs.enc, fk, RegImm.field, RegImm.pay] <;> omega)

theorem CsrrArgs.enc_lt {o : CsrrArgs} (h : o.ok = true) : o.enc.1 < 2 ^ 32 ∧ ∀ x, o.enc.2 = some x → x < 2 ^ 48 := by
  rcases o with ⟨d, csr⟩; (simp [CsrrArgs.ok] at h; simp [CsrrArgs.enc, fk] <;> omega)

theorem CsrwArgs.enc_lt {o : CsrwArgs} (h : o.ok = true) : o.enc.1 < 2 ^ 32 ∧ ∀ x, o.enc.2 = some x → x < 2 ^ 48 := by
  rcases o with ⟨csr, v⟩; cases_type* RegImm <;> (simp [CsrwArgs.ok, RegImm.ok] at h; simp [CsrwArgs.enc, fk, RegImm.field, RegImm.pay] <;> omega)

theorem CsrxArgs.enc_lt {o : CsrxArgs} (h : o.ok = true) : o.enc.1 < 2 ^ 32 ∧ ∀ x, o.enc.2 = some x → x < 2 ^ 48 := by
  rcases o with ⟨d, csr, s⟩; (simp [CsrxArgs.ok] at h; simp [CsrxArgs.enc, fk] <;> omega)

theorem YieldFArgs.enc_lt {o : YieldFArgs} (h : o.ok = true) : o.enc.1 < 2 ^ 32 ∧ ∀ x, o.enc.2 = some x → x < 2 ^ 48 := by
  rcases o with ⟨p⟩; (simp [YieldFArgs.ok] at h; simp [YieldFArgs.enc, fk] <;> omega)

theorem XlateRArgs.enc_lt {o : XlateRArgs} (h : o.ok = true) : o.enc.1 < 2 ^ 32 ∧ ∀ x, o.enc.2 = some x → x < 2 ^ 48 := by
  rcases o with ⟨p, a⟩; (simp [XlateRArgs.ok] at h; simp [XlateRArgs.enc, fk] <;> omega)

theorem XlateWArgs.enc_lt {o : XlateWArgs} (h : o.ok = true) : o.enc.1 < 2 ^ 32 ∧ ∀ x, o.enc.2 = some x → x < 2 ^ 48 := by
  rcases o with ⟨p, a⟩; (simp [XlateWArgs.ok] at h; simp [XlateWArgs.enc, fk] <;> omega)

theorem XlatePArgs.enc_lt {o : XlatePArgs} (h : o.ok = true) : o.enc.1 < 2 ^ 32 ∧ ∀ x, o.enc.2 = some x → x < 2 ^ 48 := by
  rcases o with ⟨d, a⟩; (simp [XlatePArgs.ok] at h; simp [XlatePArgs.enc, fk] <;> omega)

theorem TrapArgs.enc_lt {o : TrapArgs} (h : o.ok = true) : o.enc.1 < 2 ^ 32 ∧ ∀ x, o.enc.2 = some x → x < 2 ^ 48 := by
  rcases o with ⟨code⟩; (simp [TrapArgs.ok] at h; simp [TrapArgs.enc, fk] <;> omega)

theorem Form1Args.enc_lt {o : Form1Args} (h : o.ok = true) : o.enc.1 < 2 ^ 32 ∧ ∀ x, o.enc.2 = some x → x < 2 ^ 48 := by
  rcases o with ⟨⟩; (simp [Form1Args.ok] at h; simp [Form1Args.enc, fk] <;> omega)

theorem RettResArgs.enc_lt {o : RettResArgs} (h : o.ok = true) : o.enc.1 < 2 ^ 32 ∧ ∀ x, o.enc.2 = some x → x < 2 ^ 48 := by
  rcases o with ⟨g⟩; (simp [RettResArgs.ok] at h; simp [RettResArgs.enc, fk] <;> omega)

theorem RettRefArgs.enc_lt {o : RettRefArgs} (h : o.ok = true) : o.enc.1 < 2 ^ 32 ∧ ∀ x, o.enc.2 = some x → x < 2 ^ 48 := by
  rcases o with ⟨g⟩; (simp [RettRefArgs.ok] at h; simp [RettRefArgs.enc, fk] <;> omega)

theorem ChkArgs.enc_lt {o : ChkArgs} (h : o.ok = true) : o.enc.1 < 2 ^ 32 ∧ ∀ x, o.enc.2 = some x → x < 2 ^ 48 := by
  rcases o with ⟨g⟩; (simp [ChkArgs.ok] at h; simp [ChkArgs.enc, fk] <;> omega)

theorem ChkQArgs.enc_lt {o : ChkQArgs} (h : o.ok = true) : o.enc.1 < 2 ^ 32 ∧ ∀ x, o.enc.2 = some x → x < 2 ^ 48 := by
  rcases o with ⟨q⟩; (simp [ChkQArgs.ok] at h; simp [ChkQArgs.enc, fk] <;> omega)

theorem ChkNbArgs.enc_lt {o : ChkNbArgs} (h : o.ok = true) : o.enc.1 < 2 ^ 32 ∧ ∀ x, o.enc.2 = some x → x < 2 ^ 48 := by
  rcases o with ⟨p, g⟩; (simp [ChkNbArgs.ok] at h; simp [ChkNbArgs.enc, fk] <;> omega)

theorem AbortReqArgs.enc_lt {o : AbortReqArgs} (h : o.ok = true) : o.enc.1 < 2 ^ 32 ∧ ∀ x, o.enc.2 = some x → x < 2 ^ 48 := by
  rcases o with ⟨code⟩; (simp [AbortReqArgs.ok] at h; simp [AbortReqArgs.enc, fk] <;> omega)

theorem FshareArgs.enc_lt {o : FshareArgs} (h : o.ok = true) : o.enc.1 < 2 ^ 32 ∧ ∀ x, o.enc.2 = some x → x < 2 ^ 48 := by
  rcases o with ⟨n⟩; (simp [FshareArgs.ok] at h; simp [FshareArgs.enc, fk] <;> omega)

theorem FwswapArgs.enc_lt {o : FwswapArgs} (h : o.ok = true) : o.enc.1 < 2 ^ 32 ∧ ∀ x, o.enc.2 = some x → x < 2 ^ 48 := by
  rcases o with ⟨p, a⟩; (simp [FwswapArgs.ok] at h; simp [FwswapArgs.enc, fk] <;> omega)

theorem PtwArgs.enc_lt {o : PtwArgs} (h : o.ok = true) : o.enc.1 < 2 ^ 32 ∧ ∀ x, o.enc.2 = some x → x < 2 ^ 48 := by
  rcases o with ⟨ae, av⟩; (simp [PtwArgs.ok] at h; simp [PtwArgs.enc, fk] <;> omega)

theorem PtwNbArgs.enc_lt {o : PtwNbArgs} (h : o.ok = true) : o.enc.1 < 2 ^ 32 ∧ ∀ x, o.enc.2 = some x → x < 2 ^ 48 := by
  rcases o with ⟨p, ae, av⟩; (simp [PtwNbArgs.ok] at h; simp [PtwNbArgs.enc, fk] <;> omega)

theorem TlbiVaArgs.enc_lt {o : TlbiVaArgs} (h : o.ok = true) : o.enc.1 < 2 ^ 32 ∧ ∀ x, o.enc.2 = some x → x < 2 ^ 48 := by
  rcases o with ⟨vd, a, g⟩; (simp [TlbiVaArgs.ok] at h; simp [TlbiVaArgs.enc, fk] <;> omega)

theorem TlbiVdArgs.enc_lt {o : TlbiVdArgs} (h : o.ok = true) : o.enc.1 < 2 ^ 32 ∧ ∀ x, o.enc.2 = some x → x < 2 ^ 48 := by
  rcases o with ⟨vd⟩; (simp [TlbiVdArgs.ok] at h; simp [TlbiVdArgs.enc, fk] <;> omega)

theorem Form2Args.enc_lt {o : Form2Args} (h : o.ok = true) : o.enc.1 < 2 ^ 32 ∧ ∀ x, o.enc.2 = some x → x < 2 ^ 48 := by
  rcases o with ⟨⟩; (simp [Form2Args.ok] at h; simp [Form2Args.enc, fk] <;> omega)

theorem PurgeArgs.enc_lt {o : PurgeArgs} (h : o.ok = true) : o.enc.1 < 2 ^ 32 ∧ ∀ x, o.enc.2 = some x → x < 2 ^ 48 := by
  rcases o with ⟨g⟩; (simp [PurgeArgs.ok] at h; simp [PurgeArgs.enc, fk] <;> omega)

theorem PurgeClrArgs.enc_lt {o : PurgeClrArgs} (h : o.ok = true) : o.enc.1 < 2 ^ 32 ∧ ∀ x, o.enc.2 = some x → x < 2 ^ 48 := by
  rcases o with ⟨g⟩; (simp [PurgeClrArgs.ok] at h; simp [PurgeClrArgs.enc, fk] <;> omega)

theorem ShrdArgs.enc_lt {o : ShrdArgs} (h : o.ok = true) : o.enc.1 < 2 ^ 32 ∧ ∀ x, o.enc.2 = some x → x < 2 ^ 48 := by
  rcases o with ⟨a⟩; (simp [ShrdArgs.ok] at h; simp [ShrdArgs.enc, fk] <;> omega)

theorem FrzArmArgs.enc_lt {o : FrzArmArgs} (h : o.ok = true) : o.enc.1 < 2 ^ 32 ∧ ∀ x, o.enc.2 = some x → x < 2 ^ 48 := by
  rcases o with ⟨p, g, a⟩; (simp [FrzArmArgs.ok] at h; simp [FrzArmArgs.enc, fk] <;> omega)

theorem FrzResArgs.enc_lt {o : FrzResArgs} (h : o.ok = true) : o.enc.1 < 2 ^ 32 ∧ ∀ x, o.enc.2 = some x → x < 2 ^ 48 := by
  rcases o with ⟨p, g, a⟩; (simp [FrzResArgs.ok] at h; simp [FrzResArgs.enc, fk] <;> omega)

theorem FrzDirtyArgs.enc_lt {o : FrzDirtyArgs} (h : o.ok = true) : o.enc.1 < 2 ^ 32 ∧ ∀ x, o.enc.2 = some x → x < 2 ^ 48 := by
  rcases o with ⟨p, g, a⟩; (simp [FrzDirtyArgs.ok] at h; simp [FrzDirtyArgs.enc, fk] <;> omega)

theorem FrzYArgs.enc_lt {o : FrzYArgs} (h : o.ok = true) : o.enc.1 < 2 ^ 32 ∧ ∀ x, o.enc.2 = some x → x < 2 ^ 48 := by
  rcases o with ⟨p, g⟩; (simp [FrzYArgs.ok] at h; simp [FrzYArgs.enc, fk] <;> omega)

theorem FrzArgs.enc_lt {o : FrzArgs} (h : o.ok = true) : o.enc.1 < 2 ^ 32 ∧ ∀ x, o.enc.2 = some x → x < 2 ^ 48 := by
  rcases o with ⟨p, g⟩; (simp [FrzArgs.ok] at h; simp [FrzArgs.enc, fk] <;> omega)

theorem FrzGoArgs.enc_lt {o : FrzGoArgs} (h : o.ok = true) : o.enc.1 < 2 ^ 32 ∧ ∀ x, o.enc.2 = some x → x < 2 ^ 48 := by
  rcases o with ⟨p, g⟩; (simp [FrzGoArgs.ok] at h; simp [FrzGoArgs.enc, fk] <;> omega)

theorem FrzDisArgs.enc_lt {o : FrzDisArgs} (h : o.ok = true) : o.enc.1 < 2 ^ 32 ∧ ∀ x, o.enc.2 = some x → x < 2 ^ 48 := by
  rcases o with ⟨g⟩; (simp [FrzDisArgs.ok] at h; simp [FrzDisArgs.enc, fk] <;> omega)

theorem MmaArgs.enc_lt {o : MmaArgs} (h : o.ok = true) : o.enc.1 < 2 ^ 32 ∧ ∀ x, o.enc.2 = some x → x < 2 ^ 48 := by
  rcases o with ⟨t, ka, kb, k1, keep, ta, tb, fmt⟩; have l0 := MFmt.code_lt fmt; have z0 := Bool.toNat_lt keep; have z1 := Bool.toNat_lt ta; have z2 := Bool.toNat_lt tb; (simp [MmaArgs.ok] at h; simp [MmaArgs.enc, fe] <;> omega)

theorem MblkArgs.enc_lt {o : MblkArgs} (h : o.ok = true) : o.enc.1 < 2 ^ 32 ∧ ∀ x, o.enc.2 = some x → x < 2 ^ 48 := by
  rcases o with ⟨t, ka, kb, k1, keep, fmt⟩; have l0 := MFmt.code_lt fmt; have z0 := Bool.toNat_lt keep; (simp [MblkArgs.ok] at h; simp [MblkArgs.enc, fe] <;> omega)

theorem ScaccArgs.enc_lt {o : ScaccArgs} (h : o.ok = true) : o.enc.1 < 2 ^ 32 ∧ ∀ x, o.enc.2 = some x → x < 2 ^ 48 := by
  rcases o with ⟨td, ts, nb1, aa, ab, fmt⟩; have l0 := MFmt.code_lt fmt; (simp [ScaccArgs.ok] at h; simp [ScaccArgs.enc, fe] <;> omega)

theorem AzeroArgs.enc_lt {o : AzeroArgs} (h : o.ok = true) : o.enc.1 < 2 ^ 32 ∧ ∀ x, o.enc.2 = some x → x < 2 ^ 48 := by
  rcases o with ⟨t⟩; (simp [AzeroArgs.ok] at h; simp [AzeroArgs.enc, fe] <;> omega)

theorem AloadArgs.enc_lt {o : AloadArgs} (h : o.ok = true) : o.enc.1 < 2 ^ 32 ∧ ∀ x, o.enc.2 = some x → x < 2 ^ 48 := by
  rcases o with ⟨t, a, stride⟩; cases_type* Option <;> (simp [AloadArgs.ok] at h; simp [AloadArgs.enc, fe, Option.getD_none, Option.getD_some, Option.isSome_none, Option.isSome_some, Bool.toNat_true, Bool.toNat_false] <;> omega)

theorem AstoreArgs.enc_lt {o : AstoreArgs} (h : o.ok = true) : o.enc.1 < 2 ^ 32 ∧ ∀ x, o.enc.2 = some x → x < 2 ^ 48 := by
  rcases o with ⟨t, a, stride, sat, i, fmt⟩; have l0 := StFmt.code_lt fmt; have z0 := Bool.toNat_lt sat; have z1 := Bool.toNat_lt i; cases_type* Option <;> (simp [AstoreArgs.ok] at h; simp [AstoreArgs.enc, fe, Option.getD_none, Option.getD_some, Option.isSome_none, Option.isSome_some, Bool.toNat_true, Bool.toNat_false] <;> omega)

theorem AcopyArgs.enc_lt {o : AcopyArgs} (h : o.ok = true) : o.enc.1 < 2 ^ 32 ∧ ∀ x, o.enc.2 = some x → x < 2 ^ 48 := by
  rcases o with ⟨td, ts⟩; (simp [AcopyArgs.ok] at h; simp [AcopyArgs.enc, fe] <;> omega)

theorem RpopArgs.enc_lt {o : RpopArgs} (h : o.ok = true) : o.enc.1 < 2 ^ 32 ∧ ∀ x, o.enc.2 = some x → x < 2 ^ 48 := by
  rcases o with ⟨k, n1⟩; (simp [RpopArgs.ok] at h; simp [RpopArgs.enc, fe] <;> omega)

theorem XposeArgs.enc_lt {o : XposeArgs} (h : o.ok = true) : o.enc.1 < 2 ^ 32 ∧ ∀ x, o.enc.2 = some x → x < 2 ^ 48 := by
  rcases o with ⟨dst, a, g, w_⟩; have l0 := XWidth.code_lt w_; cases_type* XDst <;> (simp [XposeArgs.ok, XDst.ok] at h; simp [XposeArgs.enc, fe, XDst.field] <;> omega)

theorem XreqArgs.enc_lt {o : XreqArgs} (h : o.ok = true) : o.enc.1 < 2 ^ 32 ∧ ∀ x, o.enc.2 = some x → x < 2 ^ 48 := by
  rcases o with ⟨dst, a, g, fmt⟩; have l0 := QFmt.code_lt fmt; cases_type* XDst <;> (simp [XreqArgs.ok, XDst.ok] at h; simp [XreqArgs.enc, fe, XDst.field] <;> omega)

theorem XlayArgs.enc_lt {o : XlayArgs} (h : o.ok = true) : o.enc.1 < 2 ^ 32 ∧ ∀ x, o.enc.2 = some x → x < 2 ^ 48 := by
  rcases o with ⟨dst, a, g, frm, dto⟩; have l0 := Layout.code_lt frm; have l1 := Layout.code_lt dto; cases_type* XDst <;> (simp [XlayArgs.ok, XDst.ok] at h; simp [XlayArgs.enc, fe, XDst.field] <;> omega)

theorem CopyArgs.enc_lt {o : CopyArgs} (h : o.ok = true) : o.enc.1 < 2 ^ 32 ∧ ∀ x, o.enc.2 = some x → x < 2 ^ 48 := by
  rcases o with ⟨ct, te, a, l⟩; have z0 := Bool.toNat_lt te; have z1 := Bool.toNat_lt l; (simp [CopyArgs.ok] at h; simp [CopyArgs.enc, fe, ctField] <;> omega)

theorem CopygArgs.enc_lt {o : CopygArgs} (h : o.ok = true) : o.enc.1 < 2 ^ 32 ∧ ∀ x, o.enc.2 = some x → x < 2 ^ 48 := by
  rcases o with ⟨ct, te, a, ai, l⟩; have z0 := Bool.toNat_lt te; have z1 := Bool.toNat_lt l; (simp [CopygArgs.ok] at h; simp [CopygArgs.enc, fe, ctField] <;> omega)

theorem CfillArgs.enc_lt {o : CfillArgs} (h : o.ok = true) : o.enc.1 < 2 ^ 32 ∧ ∀ x, o.enc.2 = some x → x < 2 ^ 48 := by
  rcases o with ⟨ct, te, a, g, l⟩; have z0 := Bool.toNat_lt te; have z1 := Bool.toNat_lt l; (simp [CfillArgs.ok] at h; simp [CfillArgs.enc, fe, ctField] <;> omega)

theorem CredArgs.enc_lt {o : CredArgs} (h : o.ok = true) : o.enc.1 < 2 ^ 32 ∧ ∀ x, o.enc.2 = some x → x < 2 ^ 48 := by
  rcases o with ⟨ct, te, a, l, op⟩; have l0 := CredOp.code_lt op; have z0 := Bool.toNat_lt te; have z1 := Bool.toNat_lt l; (simp [CredArgs.ok] at h; simp [CredArgs.enc, fe, ctField] <;> omega)

end Sys2Proof
end

