-- ==== Sys2Proof/Laws/Dispatch.lean ====
section
/-! SUPPORT. What `exec` answers for each constructor: the meaning that its arm calls. -/

namespace Sys2Proof.Machine

theorem exec_nop (h : Hdr) (o : NoArgs) (s : State) : exec (.nop h o) s = execNop h o s := rfl
theorem exec_add (h : Hdr) (o : BinArgs) (s : State) : exec (.add h o) s = execAdd h o s := rfl
theorem exec_sub (h : Hdr) (o : BinArgs) (s : State) : exec (.sub h o) s = execSub h o s := rfl
theorem exec_mul (h : Hdr) (o : BinArgs) (s : State) : exec (.mul h o) s = execMul h o s := rfl
theorem exec_mulh (h : Hdr) (o : BinZArgs) (s : State) : exec (.mulh h o) s = execMulh h o s := rfl
theorem exec_div (h : Hdr) (o : BinZArgs) (s : State) : exec (.div h o) s = execDiv h o s := rfl
theorem exec_rem (h : Hdr) (o : BinZArgs) (s : State) : exec (.rem h o) s = execRem h o s := rfl
theorem exec_and (h : Hdr) (o : BinArgs) (s : State) : exec (.and h o) s = execAnd h o s := rfl
theorem exec_or (h : Hdr) (o : BinArgs) (s : State) : exec (.or h o) s = execOr h o s := rfl
theorem exec_xor (h : Hdr) (o : BinArgs) (s : State) : exec (.xor h o) s = execXor h o s := rfl
theorem exec_andn (h : Hdr) (o : BinArgs) (s : State) : exec (.andn h o) s = execAndn h o s := rfl
theorem exec_shl (h : Hdr) (o : BinArgs) (s : State) : exec (.shl h o) s = execShl h o s := rfl
theorem exec_shr (h : Hdr) (o : BinArgs) (s : State) : exec (.shr h o) s = execShr h o s := rfl
theorem exec_sar (h : Hdr) (o : BinArgs) (s : State) : exec (.sar h o) s = execSar h o s := rfl
theorem exec_rot (h : Hdr) (o : BinArgs) (s : State) : exec (.rot h o) s = execRot h o s := rfl
theorem exec_min (h : Hdr) (o : BinZArgs) (s : State) : exec (.min h o) s = execMin h o s := rfl
theorem exec_max (h : Hdr) (o : BinZArgs) (s : State) : exec (.max h o) s = execMax h o s := rfl
theorem exec_adds (h : Hdr) (o : BinZArgs) (s : State) : exec (.adds h o) s = execAdds h o s := rfl
theorem exec_subs (h : Hdr) (o : BinZArgs) (s : State) : exec (.subs h o) s = execSubs h o s := rfl
theorem exec_abs (h : Hdr) (o : UnArgs) (s : State) : exec (.abs h o) s = execAbs h o s := rfl
theorem exec_clz (h : Hdr) (o : UnArgs) (s : State) : exec (.clz h o) s = execClz h o s := rfl
theorem exec_ctz (h : Hdr) (o : UnArgs) (s : State) : exec (.ctz h o) s = execCtz h o s := rfl
theorem exec_popc (h : Hdr) (o : UnArgs) (s : State) : exec (.popc h o) s = execPopc h o s := rfl
theorem exec_brev (h : Hdr) (o : UnArgs) (s : State) : exec (.brev h o) s = execBrev h o s := rfl
theorem exec_bfx (h : Hdr) (o : BfxArgs) (s : State) : exec (.bfx h o) s = execBfx h o s := rfl
theorem exec_bfi (h : Hdr) (o : BfiArgs) (s : State) : exec (.bfi h o) s = execBfi h o s := rfl
theorem exec_sel (h : Hdr) (o : SelArgs) (s : State) : exec (.sel h o) s = execSel h o s := rfl
theorem exec_mov (h : Hdr) (o : MovArgs) (s : State) : exec (.mov h o) s = execMov h o s := rfl
theorem exec_movi (h : Hdr) (o : MoviArgs) (s : State) : exec (.movi h o) s = execMovi h o s := rfl
theorem exec_movx (h : Hdr) (o : MovxArgs) (s : State) : exec (.movx h o) s = execMovx h o s := rfl
theorem exec_cmp (h : Hdr) (o : CmpArgs) (s : State) : exec (.cmp h o) s = execCmp h o s := rfl
theorem exec_plog (h : Hdr) (o : PlogArgs) (s : State) : exec (.plog h o) s = execPlog h o s := rfl
theorem exec_pmov (h : Hdr) (o : PmovArgs) (s : State) : exec (.pmov h o) s = execPmov h o s := rfl
theorem exec_aadd (h : Hdr) (o : AaddArgs) (s : State) : exec (.aadd h o) s = execAadd h o s := rfl
theorem exec_alea (h : Hdr) (o : AleaArgs) (s : State) : exec (.alea h o) s = execAlea h o s := rfl
theorem exec_amov (h : Hdr) (o : AmovArgs) (s : State) : exec (.amov h o) s = execAmov h o s := rfl
theorem exec_aget (h : Hdr) (o : AgetArgs) (s : State) : exec (.aget h o) s = execAget h o s := rfl
theorem exec_acmp (h : Hdr) (o : AcmpArgs) (s : State) : exec (.acmp h o) s = execAcmp h o s := rfl
theorem exec_fadd (h : Hdr) (o : FpArgs) (s : State) : exec (.fadd h o) s = execFadd h o s := rfl
theorem exec_fsub (h : Hdr) (o : FpArgs) (s : State) : exec (.fsub h o) s = execFsub h o s := rfl
theorem exec_fmul (h : Hdr) (o : FpArgs) (s : State) : exec (.fmul h o) s = execFmul h o s := rfl
theorem exec_fma (h : Hdr) (o : FmaArgs) (s : State) : exec (.fma h o) s = execFma h o s := rfl
theorem exec_fmin (h : Hdr) (o : FminArgs) (s : State) : exec (.fmin h o) s = execFmin h o s := rfl
theorem exec_fmax (h : Hdr) (o : FminArgs) (s : State) : exec (.fmax h o) s = execFmax h o s := rfl
theorem exec_fdiv (h : Hdr) (o : FpArgs) (s : State) : exec (.fdiv h o) s = execFdiv h o s := rfl
theorem exec_fsqrt (h : Hdr) (o : FsqrtArgs) (s : State) : exec (.fsqrt h o) s = execFsqrt h o s := rfl
theorem exec_fcmp (h : Hdr) (o : FcmpArgs) (s : State) : exec (.fcmp h o) s = execFcmp h o s := rfl
theorem exec_fcvt (h : Hdr) (o : FcvtArgs) (s : State) : exec (.fcvt h o) s = execFcvt h o s := rfl
theorem exec_fsgn (h : Hdr) (o : FsgnArgs) (s : State) : exec (.fsgn h o) s = execFsgn h o s := rfl
theorem exec_fcls (h : Hdr) (o : FclsArgs) (s : State) : exec (.fcls h o) s = execFcls h o s := rfl
theorem exec_pbr (h : Hdr) (o : PbrArgs) (s : State) : exec (.pbr h o) s = execPbr h o s := rfl
theorem exec_pbrg (h : Hdr) (o : PbrgArgs) (s : State) : exec (.pbrg h o) s = execPbrg h o s := rfl
theorem exec_br (h : Hdr) (o : BrArgs) (s : State) : exec (.br h o) s = execBr h o s := rfl
theorem exec_call (h : Hdr) (o : CallArgs) (s : State) : exec (.call h o) s = execCall h o s := rfl
theorem exec_ret (h : Hdr) (o : BrArgs) (s : State) : exec (.ret h o) s = execRet h o s := rfl
theorem exec_loop (h : Hdr) (o : LoopArgs) (s : State) : exec (.loop h o) s = execLoop h o s := rfl
theorem exec_ldlt (h : Hdr) (o : LdltArgs) (s : State) : exec (.ldlt h o) s = execLdlt h o s := rfl
theorem exec_ldltClr (h : Hdr) (o : LdltClrArgs) (s : State) : exec (.ldltClr h o) s = execLdltClr h o s := rfl
theorem exec_lbrk (h : Hdr) (o : LbrkArgs) (s : State) : exec (.lbrk h o) s = execLbrk h o s := rfl
theorem exec_endOp (h : Hdr) (o : NoArgs) (s : State) : exec (.endOp h o) s = execEndOp h o s := rfl
theorem exec_ld (h : Hdr) (o : LdArgs) (s : State) : exec (.ld h o) s = execLd h o s := rfl
theorem exec_st (h : Hdr) (o : StArgs) (s : State) : exec (.st h o) s = execSt h o s := rfl
theorem exec_lda (h : Hdr) (o : LdaArgs) (s : State) : exec (.lda h o) s = execLda h o s := rfl
theorem exec_sta (h : Hdr) (o : StaArgs) (s : State) : exec (.sta h o) s = execSta h o s := rfl
theorem exec_ldfe (h : Hdr) (o : FeLdArgs) (s : State) : exec (.ldfe h o) s = execLdfe h o s := rfl
theorem exec_ldff (h : Hdr) (o : FeLdArgs) (s : State) : exec (.ldff h o) s = execLdff h o s := rfl
theorem exec_stef (h : Hdr) (o : FeStArgs) (s : State) : exec (.stef h o) s = execStef h o s := rfl
theorem exec_stff (h : Hdr) (o : FeStArgs) (s : State) : exec (.stff h o) s = execStff h o s := rfl
theorem exec_fest (h : Hdr) (o : FeLdArgs) (s : State) : exec (.fest h o) s = execFest h o s := rfl
theorem exec_feclr (h : Hdr) (o : FeStArgs) (s : State) : exec (.feclr h o) s = execFeclr h o s := rfl
theorem exec_barr (h : Hdr) (o : BarrArgs) (s : State) : exec (.barr h o) s = execBarr h o s := rfl
theorem exec_bwait (h : Hdr) (o : BwaitArgs) (s : State) : exec (.bwait h o) s = execBwait h o s := rfl
theorem exec_notify (h : Hdr) (o : NotifyArgs) (s : State) : exec (.notify h o) s = execNotify h o s := rfl
theorem exec_waitn (h : Hdr) (o : WaitnArgs) (s : State) : exec (.waitn h o) s = execWaitn h o s := rfl
theorem exec_qpop (h : Hdr) (o : QpopArgs) (s : State) : exec (.qpop h o) s = execQpop h o s := rfl
theorem exec_qpeek (h : Hdr) (o : QpopArgs) (s : State) : exec (.qpeek h o) s = execQpeek h o s := rfl
theorem exec_qpush (h : Hdr) (o : QpushArgs) (s : State) : exec (.qpush h o) s = execQpush h o s := rfl
theorem exec_qstat (h : Hdr) (o : QstatArgs) (s : State) : exec (.qstat h o) s = execQstat h o s := rfl
theorem exec_qclr (h : Hdr) (o : QclrArgs) (s : State) : exec (.qclr h o) s = execQclr h o s := rfl
theorem exec_qst (h : Hdr) (o : QstArgs) (s : State) : exec (.qst h o) s = execQst h o s := rfl
theorem exec_ldq (h : Hdr) (o : LdqArgs) (s : State) : exec (.ldq h o) s = execLdq h o s := rfl
theorem exec_ldqs (h : Hdr) (o : LdqsArgs) (s : State) : exec (.ldqs h o) s = execLdqs h o s := rfl
theorem exec_ldqx (h : Hdr) (o : LdqxArgs) (s : State) : exec (.ldqx h o) s = execLdqx h o s := rfl
theorem exec_stf (h : Hdr) (o : StfArgs) (s : State) : exec (.stf h o) s = execStf h o s := rfl
theorem exec_stfs (h : Hdr) (o : StfsArgs) (s : State) : exec (.stfs h o) s = execStfs h o s := rfl
theorem exec_stfx (h : Hdr) (o : StfxArgs) (s : State) : exec (.stfx h o) s = execStfx h o s := rfl
theorem exec_pref (h : Hdr) (o : PrefArgs) (s : State) : exec (.pref h o) s = execPref h o s := rfl
theorem exec_cwb (h : Hdr) (o : CwbArgs) (s : State) : exec (.cwb h o) s = execCwb h o s := rfl
theorem exec_cinv (h : Hdr) (o : CwbArgs) (s : State) : exec (.cinv h o) s = execCinv h o s := rfl
theorem exec_amo (h : Hdr) (o : AmoArgs) (s : State) : exec (.amo h o) s = execAmo h o s := rfl
theorem exec_acas (h : Hdr) (o : AcasArgs) (s : State) : exec (.acas h o) s = execAcas h o s := rfl
theorem exec_vamo (h : Hdr) (o : VamoArgs) (s : State) : exec (.vamo h o) s = execVamo h o s := rfl
theorem exec_fence (h : Hdr) (o : FenceArgs) (s : State) : exec (.fence h o) s = execFence h o s := rfl
theorem exec_xfer (h : Hdr) (o : XferArgs) (s : State) : exec (.xfer h o) s = execXfer h o s := rfl
theorem exec_rclaim (h : Hdr) (o : RclaimArgs) (s : State) : exec (.rclaim h o) s = execRclaim h o s := rfl
theorem exec_rshare (h : Hdr) (o : RshareArgs) (s : State) : exec (.rshare h o) s = execRshare h o s := rfl
theorem exec_vadd (h : Hdr) (o : VIntArgs) (s : State) : exec (.vadd h o) s = execVadd h o s := rfl
theorem exec_vsub (h : Hdr) (o : VIntArgs) (s : State) : exec (.vsub h o) s = execVsub h o s := rfl
theorem exec_vmul (h : Hdr) (o : VIntArgs) (s : State) : exec (.vmul h o) s = execVmul h o s := rfl
theorem exec_vmulh (h : Hdr) (o : VIntZArgs) (s : State) : exec (.vmulh h o) s = execVmulh h o s := rfl
theorem exec_vmad (h : Hdr) (o : VMadArgs) (s : State) : exec (.vmad h o) s = execVmad h o s := rfl
theorem exec_vmin (h : Hdr) (o : VIntZArgs) (s : State) : exec (.vmin h o) s = execVmin h o s := rfl
theorem exec_vmax (h : Hdr) (o : VIntZArgs) (s : State) : exec (.vmax h o) s = execVmax h o s := rfl
theorem exec_vabs (h : Hdr) (o : VabsArgs) (s : State) : exec (.vabs h o) s = execVabs h o s := rfl
theorem exec_vand (h : Hdr) (o : VIntArgs) (s : State) : exec (.vand h o) s = execVand h o s := rfl
theorem exec_vor (h : Hdr) (o : VIntArgs) (s : State) : exec (.vor h o) s = execVor h o s := rfl
theorem exec_vxor (h : Hdr) (o : VIntArgs) (s : State) : exec (.vxor h o) s = execVxor h o s := rfl
theorem exec_vshl (h : Hdr) (o : VIntArgs) (s : State) : exec (.vshl h o) s = execVshl h o s := rfl
theorem exec_vshr (h : Hdr) (o : VIntArgs) (s : State) : exec (.vshr h o) s = execVshr h o s := rfl
theorem exec_vsar (h : Hdr) (o : VIntArgs) (s : State) : exec (.vsar h o) s = execVsar h o s := rfl
theorem exec_vadds (h : Hdr) (o : VIntZArgs) (s : State) : exec (.vadds h o) s = execVadds h o s := rfl
theorem exec_vsubs (h : Hdr) (o : VIntZArgs) (s : State) : exec (.vsubs h o) s = execVsubs h o s := rfl
theorem exec_vcmp (h : Hdr) (o : VcmpArgs) (s : State) : exec (.vcmp h o) s = execVcmp h o s := rfl
theorem exec_vsel (h : Hdr) (o : VselArgs) (s : State) : exec (.vsel h o) s = execVsel h o s := rfl
theorem exec_vfadd (h : Hdr) (o : VFBinArgs) (s : State) : exec (.vfadd h o) s = execVfadd h o s := rfl
theorem exec_vfsub (h : Hdr) (o : VFBinArgs) (s : State) : exec (.vfsub h o) s = execVfsub h o s := rfl
theorem exec_vfmul (h : Hdr) (o : VFBinArgs) (s : State) : exec (.vfmul h o) s = execVfmul h o s := rfl
theorem exec_vfma (h : Hdr) (o : VFmaArgs) (s : State) : exec (.vfma h o) s = execVfma h o s := rfl
theorem exec_vfmin (h : Hdr) (o : VFBinArgs) (s : State) : exec (.vfmin h o) s = execVfmin h o s := rfl
theorem exec_vfmax (h : Hdr) (o : VFBinArgs) (s : State) : exec (.vfmax h o) s = execVfmax h o s := rfl
theorem exec_vfdiv (h : Hdr) (o : VFBinArgs) (s : State) : exec (.vfdiv h o) s = execVfdiv h o s := rfl
theorem exec_vfsqrt (h : Hdr) (o : VFUnArgs) (s : State) : exec (.vfsqrt h o) s = execVfsqrt h o s := rfl
theorem exec_vfexp2 (h : Hdr) (o : VFUnArgs) (s : State) : exec (.vfexp2 h o) s = execVfexp2 h o s := rfl
theorem exec_vflog2 (h : Hdr) (o : VFUnArgs) (s : State) : exec (.vflog2 h o) s = execVflog2 h o s := rfl
theorem exec_vfcmp (h : Hdr) (o : VfcmpArgs) (s : State) : exec (.vfcmp h o) s = execVfcmp h o s := rfl
theorem exec_vfsgn (h : Hdr) (o : VfsgnArgs) (s : State) : exec (.vfsgn h o) s = execVfsgn h o s := rfl
theorem exec_vcvt (h : Hdr) (o : VcvtArgs) (s : State) : exec (.vcvt h o) s = execVcvt h o s := rfl
theorem exec_vqenc (h : Hdr) (o : VqencArgs) (s : State) : exec (.vqenc h o) s = execVqenc h o s := rfl
theorem exec_vqdec (h : Hdr) (o : VqdecArgs) (s : State) : exec (.vqdec h o) s = execVqdec h o s := rfl
theorem exec_vscl (h : Hdr) (o : VsclArgs) (s : State) : exec (.vscl h o) s = execVscl h o s := rfl
theorem exec_vred (h : Hdr) (o : VredArgs) (s : State) : exec (.vred h o) s = execVred h o s := rfl
theorem exec_vscan (h : Hdr) (o : VscanArgs) (s : State) : exec (.vscan h o) s = execVscan h o s := rfl
theorem exec_vperm (h : Hdr) (o : VpermArgs) (s : State) : exec (.vperm h o) s = execVperm h o s := rfl
theorem exec_vshuf (h : Hdr) (o : VshufArgs) (s : State) : exec (.vshuf h o) s = execVshuf h o s := rfl
theorem exec_vbcst (h : Hdr) (o : VbcstArgs) (s : State) : exec (.vbcst h o) s = execVbcst h o s := rfl
theorem exec_vext (h : Hdr) (o : VextArgs) (s : State) : exec (.vext h o) s = execVext h o s := rfl
theorem exec_vins (h : Hdr) (o : VinsArgs) (s : State) : exec (.vins h o) s = execVins h o s := rfl
theorem exec_viota (h : Hdr) (o : ViotaArgs) (s : State) : exec (.viota h o) s = execViota h o s := rfl
theorem exec_vcmprs (h : Hdr) (o : VcmprsArgs) (s : State) : exec (.vcmprs h o) s = execVcmprs h o s := rfl
theorem exec_vexpnd (h : Hdr) (o : VcmprsArgs) (s : State) : exec (.vexpnd h o) s = execVexpnd h o s := rfl
theorem exec_vsort (h : Hdr) (o : VsortArgs) (s : State) : exec (.vsort h o) s = execVsort h o s := rfl
theorem exec_vrnd (h : Hdr) (o : VrndArgs) (s : State) : exec (.vrnd h o) s = execVrnd h o s := rfl
theorem exec_vdot (h : Hdr) (o : VdotArgs) (s : State) : exec (.vdot h o) s = execVdot h o s := rfl
theorem exec_mlog (h : Hdr) (o : MlogArgs) (s : State) : exec (.mlog h o) s = execMlog h o s := rfl
theorem exec_mpop (h : Hdr) (o : MpopArgs) (s : State) : exec (.mpop h o) s = execMpop h o s := rfl
theorem exec_mff (h : Hdr) (o : MffArgs) (s : State) : exec (.mff h o) s = execMff h o s := rfl
theorem exec_mmov (h : Hdr) (o : MmovArgs) (s : State) : exec (.mmov h o) s = execMmov h o s := rfl
theorem exec_vld (h : Hdr) (o : VldArgs) (s : State) : exec (.vld h o) s = execVld h o s := rfl
theorem exec_vlds (h : Hdr) (o : VldsArgs) (s : State) : exec (.vlds h o) s = execVlds h o s := rfl
theorem exec_vldx (h : Hdr) (o : VldxArgs) (s : State) : exec (.vldx h o) s = execVldx h o s := rfl
theorem exec_vst (h : Hdr) (o : VstArgs) (s : State) : exec (.vst h o) s = execVst h o s := rfl
theorem exec_vsts (h : Hdr) (o : StfsArgs) (s : State) : exec (.vsts h o) s = execVsts h o s := rfl
theorem exec_vstx (h : Hdr) (o : StfxArgs) (s : State) : exec (.vstx h o) s = execVstx h o s := rfl
theorem exec_vmovx (h : Hdr) (o : VmovxArgs) (s : State) : exec (.vmovx h o) s = execVmovx h o s := rfl
theorem exec_post (h : Hdr) (o : PostArgs) (s : State) : exec (.post h o) s = execPost h o s := rfl
theorem exec_postx (h : Hdr) (o : PostxArgs) (s : State) : exec (.postx h o) s = execPostx h o s := rfl
theorem exec_fdef (h : Hdr) (o : FdefArgs) (s : State) : exec (.fdef h o) s = execFdef h o s := rfl
theorem exec_frel (h : Hdr) (o : FrelArgs) (s : State) : exec (.frel h o) s = execFrel h o s := rfl
theorem exec_rinit (h : Hdr) (o : RinitArgs) (s : State) : exec (.rinit h o) s = execRinit h o s := rfl
theorem exec_cwait (h : Hdr) (o : CwaitArgs) (s : State) : exec (.cwait h o) s = execCwait h o s := rfl
theorem exec_cwaitNb (h : Hdr) (o : CwaitNbArgs) (s : State) : exec (.cwaitNb h o) s = execCwaitNb h o s := rfl
theorem exec_csig (h : Hdr) (o : CsigArgs) (s : State) : exec (.csig h o) s = execCsig h o s := rfl
theorem exec_csigR (h : Hdr) (o : CsigRArgs) (s : State) : exec (.csigR h o) s = execCsigR h o s := rfl
theorem exec_cset (h : Hdr) (o : CsigArgs) (s : State) : exec (.cset h o) s = execCset h o s := rfl
theorem exec_crd (h : Hdr) (o : CrdArgs) (s : State) : exec (.crd h o) s = execCrd h o s := rfl
theorem exec_tagw (h : Hdr) (o : TagwArgs) (s : State) : exec (.tagw h o) s = execTagw h o s := rfl
theorem exec_tagwNb (h : Hdr) (o : TagwNbArgs) (s : State) : exec (.tagwNb h o) s = execTagwNb h o s := rfl
theorem exec_tagff (h : Hdr) (o : TagffArgs) (s : State) : exec (.tagff h o) s = execTagff h o s := rfl
theorem exec_tagclr (h : Hdr) (o : TagclrArgs) (s : State) : exec (.tagclr h o) s = execTagclr h o s := rfl
theorem exec_kmode (h : Hdr) (o : KmodeArgs) (s : State) : exec (.kmode h o) s = execKmode h o s := rfl
theorem exec_kqrySt (h : Hdr) (o : KqryStArgs) (s : State) : exec (.kqrySt h o) s = execKqrySt h o s := rfl
theorem exec_kqryOcc (h : Hdr) (o : KqryOccArgs) (s : State) : exec (.kqryOcc h o) s = execKqryOcc h o s := rfl
theorem exec_kqryVer (h : Hdr) (o : KqryVerArgs) (s : State) : exec (.kqryVer h o) s = execKqryVer h o s := rfl
theorem exec_nest (h : Hdr) (o : NestArgs) (s : State) : exec (.nest h o) s = execNest h o s := rfl
theorem exec_settag (h : Hdr) (o : SettagArgs) (s : State) : exec (.settag h o) s = execSettag h o s := rfl
theorem exec_csrr (h : Hdr) (o : CsrrArgs) (s : State) : exec (.csrr h o) s = execCsrr h o s := rfl
theorem exec_csrw (h : Hdr) (o : CsrwArgs) (s : State) : exec (.csrw h o) s = execCsrw h o s := rfl
theorem exec_csrx (h : Hdr) (o : CsrxArgs) (s : State) : exec (.csrx h o) s = execCsrx h o s := rfl
theorem exec_yield (h : Hdr) (o : NoArgs) (s : State) : exec (.yield h o) s = execYield h o s := rfl
theorem exec_yieldF (h : Hdr) (o : YieldFArgs) (s : State) : exec (.yieldF h o) s = execYieldF h o s := rfl
theorem exec_trap (h : Hdr) (o : TrapArgs) (s : State) : exec (.trap h o) s = execTrap h o s := rfl
theorem exec_rett (h : Hdr) (o : NoArgs) (s : State) : exec (.rett h o) s = execRett h o s := rfl
theorem exec_rettNx (h : Hdr) (o : Form1Args) (s : State) : exec (.rettNx h o) s = execRettNx h o s := rfl
theorem exec_rettRes (h : Hdr) (o : RettResArgs) (s : State) : exec (.rettRes h o) s = execRettRes h o s := rfl
theorem exec_rettRef (h : Hdr) (o : RettRefArgs) (s : State) : exec (.rettRef h o) s = execRettRef h o s := rfl
theorem exec_chk (h : Hdr) (o : ChkArgs) (s : State) : exec (.chk h o) s = execChk h o s := rfl
theorem exec_chkQ (h : Hdr) (o : ChkQArgs) (s : State) : exec (.chkQ h o) s = execChkQ h o s := rfl
theorem exec_chkNb (h : Hdr) (o : ChkNbArgs) (s : State) : exec (.chkNb h o) s = execChkNb h o s := rfl
theorem exec_abort (h : Hdr) (o : TrapArgs) (s : State) : exec (.abort h o) s = execAbort h o s := rfl
theorem exec_abortReq (h : Hdr) (o : AbortReqArgs) (s : State) : exec (.abortReq h o) s = execAbortReq h o s := rfl
theorem exec_xlateR (h : Hdr) (o : XlateRArgs) (s : State) : exec (.xlateR h o) s = execXlateR h o s := rfl
theorem exec_xlateW (h : Hdr) (o : XlateWArgs) (s : State) : exec (.xlateW h o) s = execXlateW h o s := rfl
theorem exec_xlateP (h : Hdr) (o : XlatePArgs) (s : State) : exec (.xlateP h o) s = execXlateP h o s := rfl
theorem exec_fshare (h : Hdr) (o : FshareArgs) (s : State) : exec (.fshare h o) s = execFshare h o s := rfl
theorem exec_fwswap (h : Hdr) (o : FwswapArgs) (s : State) : exec (.fwswap h o) s = execFwswap h o s := rfl
theorem exec_ptw (h : Hdr) (o : PtwArgs) (s : State) : exec (.ptw h o) s = execPtw h o s := rfl
theorem exec_ptwNb (h : Hdr) (o : PtwNbArgs) (s : State) : exec (.ptwNb h o) s = execPtwNb h o s := rfl
theorem exec_tlbiVa (h : Hdr) (o : TlbiVaArgs) (s : State) : exec (.tlbiVa h o) s = execTlbiVa h o s := rfl
theorem exec_tlbiVd (h : Hdr) (o : TlbiVdArgs) (s : State) : exec (.tlbiVd h o) s = execTlbiVd h o s := rfl
theorem exec_tlbiAll (h : Hdr) (o : Form2Args) (s : State) : exec (.tlbiAll h o) s = execTlbiAll h o s := rfl
theorem exec_purge (h : Hdr) (o : PurgeArgs) (s : State) : exec (.purge h o) s = execPurge h o s := rfl
theorem exec_purgeL (h : Hdr) (o : Form1Args) (s : State) : exec (.purgeL h o) s = execPurgeL h o s := rfl
theorem exec_purgeClr (h : Hdr) (o : PurgeClrArgs) (s : State) : exec (.purgeClr h o) s = execPurgeClr h o s := rfl
theorem exec_shrd (h : Hdr) (o : ShrdArgs) (s : State) : exec (.shrd h o) s = execShrd h o s := rfl
theorem exec_frzArm (h : Hdr) (o : FrzArmArgs) (s : State) : exec (.frzArm h o) s = execFrzArm h o s := rfl
theorem exec_frzY (h : Hdr) (o : FrzYArgs) (s : State) : exec (.frzY h o) s = execFrzY h o s := rfl
theorem exec_frz (h : Hdr) (o : FrzArgs) (s : State) : exec (.frz h o) s = execFrz h o s := rfl
theorem exec_frzRes (h : Hdr) (o : FrzResArgs) (s : State) : exec (.frzRes h o) s = execFrzRes h o s := rfl
theorem exec_frzDirty (h : Hdr) (o : FrzDirtyArgs) (s : State) : exec (.frzDirty h o) s = execFrzDirty h o s := rfl
theorem exec_frzGo (h : Hdr) (o : FrzGoArgs) (s : State) : exec (.frzGo h o) s = execFrzGo h o s := rfl
theorem exec_frzDis (h : Hdr) (o : FrzDisArgs) (s : State) : exec (.frzDis h o) s = execFrzDis h o s := rfl
theorem exec_mma (h : Hdr) (o : MmaArgs) (s : State) : exec (.mma h o) s = execMma h o s := rfl
theorem exec_mblk (h : Hdr) (o : MblkArgs) (s : State) : exec (.mblk h o) s = execMblk h o s := rfl
theorem exec_scacc (h : Hdr) (o : ScaccArgs) (s : State) : exec (.scacc h o) s = execScacc h o s := rfl
theorem exec_azero (h : Hdr) (o : AzeroArgs) (s : State) : exec (.azero h o) s = execAzero h o s := rfl
theorem exec_aload (h : Hdr) (o : AloadArgs) (s : State) : exec (.aload h o) s = execAload h o s := rfl
theorem exec_astore (h : Hdr) (o : AstoreArgs) (s : State) : exec (.astore h o) s = execAstore h o s := rfl
theorem exec_acopy (h : Hdr) (o : AcopyArgs) (s : State) : exec (.acopy h o) s = execAcopy h o s := rfl
theorem exec_rpop (h : Hdr) (o : RpopArgs) (s : State) : exec (.rpop h o) s = execRpop h o s := rfl
theorem exec_xpose (h : Hdr) (o : XposeArgs) (s : State) : exec (.xpose h o) s = execXpose h o s := rfl
theorem exec_xreq (h : Hdr) (o : XreqArgs) (s : State) : exec (.xreq h o) s = execXreq h o s := rfl
theorem exec_xlay (h : Hdr) (o : XlayArgs) (s : State) : exec (.xlay h o) s = execXlay h o s := rfl
theorem exec_copy (h : Hdr) (o : CopyArgs) (s : State) : exec (.copy h o) s = execCopy h o s := rfl
theorem exec_copyg (h : Hdr) (o : CopygArgs) (s : State) : exec (.copyg h o) s = execCopyg h o s := rfl
theorem exec_copys (h : Hdr) (o : CopygArgs) (s : State) : exec (.copys h o) s = execCopys h o s := rfl
theorem exec_cfill (h : Hdr) (o : CfillArgs) (s : State) : exec (.cfill h o) s = execCfill h o s := rfl
theorem exec_cred (h : Hdr) (o : CredArgs) (s : State) : exec (.cred h o) s = execCred h o s := rfl
theorem exec_cland (h : Hdr) (o : CfillArgs) (s : State) : exec (.cland h o) s = execCland h o s := rfl
theorem exec_unassignedOpcode (word : Nat) (s : State) : exec (.unassignedOpcode word) s = execUnassignedOpcode word s := rfl
theorem exec_endComplete (s : State) : exec (.endComplete) s = execEndComplete s := rfl
theorem exec_fwhbHeartbeat (value : Nat) (s : State) : exec (.fwhbHeartbeat value) s = execFwhbHeartbeat value s := rfl
theorem exec_resultLanding (s : State) : exec (.resultLanding) s = execResultLanding s := rfl
theorem exec_waitComplete (s : State) : exec (.waitComplete) s = execWaitComplete s := rfl
theorem exec_queueDataArrival (req : Nat) (s : State) : exec (.queueDataArrival req) s = execQueueDataArrival req s := rfl
theorem exec_taskRelease (core : Nat) (s : State) : exec (.taskRelease core) s = execTaskRelease core s := rfl
theorem exec_taskRetire (core slot : Nat) (s : State) : exec (.taskRetire core slot) s = execTaskRetire core slot s := rfl
theorem exec_kilnDeadlock (core : Nat) (s : State) : exec (.kilnDeadlock core) s = execKilnDeadlock core s := rfl
theorem exec_iterationStart (core : Nat) (s : State) : exec (.iterationStart core) s = execIterationStart core s := rfl
theorem exec_wheelPlace (die launch : Nat) (s : State) : exec (.wheelPlace die launch) s = execWheelPlace die launch s := rfl
theorem exec_wheelSteal (die launch : Nat) (s : State) : exec (.wheelSteal die launch) s = execWheelSteal die launch s := rfl
theorem exec_nestRecordStart (launch : Nat) (s : State) : exec (.nestRecordStart launch) s = execNestRecordStart launch s := rfl
theorem exec_launchComplete (launch : Nat) (s : State) : exec (.launchComplete launch) s = execLaunchComplete launch s := rfl
theorem exec_accumulatorWrite (s : State) : exec (.accumulatorWrite) s = execAccumulatorWrite s := rfl
theorem exec_passSlotPop (s : State) : exec (.passSlotPop) s = execPassSlotPop s := rfl
theorem exec_slotPublish (core ring : Nat) (s : State) : exec (.slotPublish core ring) s = execSlotPublish core ring s := rfl
theorem exec_copyChunkIssue (core copy : Nat) (s : State) : exec (.copyChunkIssue core copy) s = execCopyChunkIssue core copy s := rfl
theorem exec_copyComplete (core copy : Nat) (s : State) : exec (.copyComplete core copy) s = execCopyComplete core copy s := rfl
theorem exec_lineEviction (core line : Nat) (l2 : Bool) (s : State) : exec (.lineEviction core line l2) s = execLineEviction core line l2 s := rfl
theorem exec_eccCorrected (site : FaultSite) (s : State) : exec (.eccCorrected site) s = execEccCorrected site s := rfl
theorem exec_eccUncorrectable (site : FaultSite) (s : State) : exec (.eccUncorrectable site) s = execEccUncorrectable site s := rfl
theorem exec_bucketLeak (die : Nat) (s : State) : exec (.bucketLeak die) s = execBucketLeak die s := rfl
theorem exec_spareSubstitution (core : Nat) (unit : SpareUnit) (index spare : Nat) (s : State) :
    exec (.spareSubstitution core unit index spare) s = execSpareSubstitution core unit index spare s := rfl
theorem exec_coreUngate (core : Nat) (s : State) : exec (.coreUngate core) s = execCoreUngate core s := rfl
theorem exec_fwShareWindow (core : Nat) (s : State) : exec (.fwShareWindow core) s = execFwShareWindow core s := rfl
theorem exec_forcedSave (core : Nat) (s : State) : exec (.forcedSave core) s = execForcedSave core s := rfl
theorem exec_corePark (core : Nat) (s : State) : exec (.corePark core) s = execCorePark core s := rfl
theorem exec_coreSwap (core : Nat) (s : State) : exec (.coreSwap core) s = execCoreSwap core s := rfl
theorem exec_freezeReceive (die launch : Nat) (s : State) : exec (.freezeReceive die launch) s = execFreezeReceive die launch s := rfl
theorem exec_farStore (msg : Nat) (s : State) : exec (.farStore msg) s = execFarStore msg s := rfl
theorem exec_atomicRequest (msg : Nat) (s : State) :
    exec (.atomicRequest msg) s = execAtomicRequest msg s := rfl
theorem exec_atomicReply (msg : Nat) (s : State) : exec (.atomicReply msg) s = execAtomicReply msg s := rfl
theorem exec_loadData (msg : Nat) (s : State) : exec (.loadData msg) s = execLoadData msg s := rfl
theorem exec_loadRequest (msg : Nat) (s : State) : exec (.loadRequest msg) s = execLoadRequest msg s := rfl
theorem exec_postxRecord (msg : Nat) (s : State) : exec (.postxRecord msg) s = execPostxRecord msg s := rfl
theorem exec_postxReply (msg : Nat) (s : State) : exec (.postxReply msg) s = execPostxReply msg s := rfl
theorem exec_remoteConeSignal (msg : Nat) (s : State) : exec (.remoteConeSignal msg) s = execRemoteConeSignal msg s := rfl
theorem exec_notifyMessage (msg : Nat) (s : State) : exec (.notifyMessage msg) s = execNotifyMessage msg s := rfl
theorem exec_copyChunk (msg : Nat) (crcOk : Bool) (s : State) : exec (.copyChunk msg crcOk) s = execCopyChunk msg crcOk s := rfl
theorem exec_landingUpdate (msg : Nat) (s : State) : exec (.landingUpdate msg) s = execLandingUpdate msg s := rfl
theorem exec_barrierRequest (msg : Nat) (s : State) : exec (.barrierRequest msg) s = execBarrierRequest msg s := rfl
theorem exec_barrierReply (msg : Nat) (s : State) : exec (.barrierReply msg) s = execBarrierReply msg s := rfl
theorem exec_acknowledgement (msg : Nat) (s : State) : exec (.acknowledgement msg) s = execAcknowledgement msg s := rfl
theorem exec_cutMarker (msg : Nat) (s : State) : exec (.cutMarker msg) s = execCutMarker msg s := rfl
theorem exec_purgeMessage (msg : Nat) (s : State) : exec (.purgeMessage msg) s = execPurgeMessage msg s := rfl
theorem exec_launchPacketMessage (msg : Nat) (s : State) : exec (.launchPacketMessage msg) s = execLaunchPacketMessage msg s := rfl
theorem exec_startArrival (msg : Nat) (s : State) : exec (.startArrival msg) s = execStartArrival msg s := rfl
theorem exec_startRelease (msg : Nat) (s : State) : exec (.startRelease msg) s = execStartRelease msg s := rfl
theorem exec_parityUpdate (msg : Nat) (s : State) : exec (.parityUpdate msg) s = execParityUpdate msg s := rfl
theorem exec_sequenceSkip (msg : Nat) (s : State) : exec (.sequenceSkip msg) s = execSequenceSkip msg s := rfl
theorem exec_requestTimeout (req : Nat) (s : State) : exec (.requestTimeout req) s = execRequestTimeout req s := rfl
theorem exec_linkDown (die dim : Nat) (s : State) : exec (.linkDown die dim) s = execLinkDown die dim s := rfl
theorem exec_dieLinkFailure (die dim : Nat) (s : State) : exec (.dieLinkFailure die dim) s = execDieLinkFailure die dim s := rfl
theorem exec_launchArrivalTimeout (launch : Nat) (s : State) : exec (.launchArrivalTimeout launch) s = execLaunchArrivalTimeout launch s := rfl
theorem exec_spareInstallation (lost pser : Nat) (s : State) : exec (.spareInstallation lost pser) s = execSpareInstallation lost pser s := rfl
theorem exec_stripeRebuild (group stripe member spare : Nat) (s : State) :
    exec (.stripeRebuild group stripe member spare) s = execStripeRebuild group stripe member spare s := rfl
theorem exec_reserve (pkg vdev ring addend : Nat) (s : State) : exec (.reserve pkg vdev ring addend) s = execReserve pkg vdev ring addend s := rfl
theorem exec_bar2AtomicRefused (pkg vdev offset : Nat) (s : State) :
    exec (.bar2AtomicRefused pkg vdev offset) s = execBar2AtomicRefused pkg vdev offset s := rfl
theorem exec_hostNotifyWrite (pkg vdev offset size value : Nat) (s : State) :
    exec (.hostNotifyWrite pkg vdev offset size value) s = execHostNotifyWrite pkg vdev offset size value s := rfl
theorem exec_hostMemoryAccess (pkg vdev offset size : Nat) (write : Option (List (BitVec 8))) (s : State) :
    exec (.hostMemoryAccess pkg vdev offset size write) s = execHostMemoryAccess pkg vdev offset size write s := rfl
theorem exec_hostAtomicop (pkg vdev offset : Nat) (op : HostAtomic) (size operand compare : Nat) (s : State) :
    exec (.hostAtomicop pkg vdev offset op size operand compare) s = execHostAtomicop pkg vdev offset op size operand compare s := rfl
theorem exec_registerWrite (reg : DevReg) (value : Nat) (s : State) : exec (.registerWrite reg value) s = execRegisterWrite reg value s := rfl
theorem exec_cqctlWrite (pkg vdev value : Nat) (s : State) : exec (.cqctlWrite pkg vdev value) s = execCqctlWrite pkg vdev value s := rfl
theorem exec_cqheadWrite (pkg vdev value : Nat) (s : State) : exec (.cqheadWrite pkg vdev value) s = execCqheadWrite pkg vdev value s := rfl
theorem exec_rstopWrite (die vdev value : Nat) (s : State) : exec (.rstopWrite die vdev value) s = execRstopWrite die vdev value s := rfl
theorem exec_nopPacket (pkg vdev ring : Nat) (s : State) : exec (.nopPacket pkg vdev ring) s = execNopPacket pkg vdev ring s := rfl
theorem exec_linkPacket (pkg vdev ring : Nat) (s : State) : exec (.linkPacket pkg vdev ring) s = execLinkPacket pkg vdev ring s := rfl
theorem exec_launchPacket (pkg vdev ring : Nat) (s : State) : exec (.launchPacket pkg vdev ring) s = execLaunchPacket pkg vdev ring s := rfl
theorem exec_launchStart (pkg vdev ring : Nat) (s : State) : exec (.launchStart pkg vdev ring) s = execLaunchStart pkg vdev ring s := rfl
theorem exec_barePacket (pkg vdev ring : Nat) (s : State) : exec (.barePacket pkg vdev ring) s = execBarePacket pkg vdev ring s := rfl
theorem exec_invokePacket (pkg vdev ring : Nat) (s : State) : exec (.invokePacket pkg vdev ring) s = execInvokePacket pkg vdev ring s := rfl
theorem exec_slotldPacket (pkg vdev ring : Nat) (s : State) : exec (.slotldPacket pkg vdev ring) s = execSlotldPacket pkg vdev ring s := rfl
theorem exec_slotrmPacket (pkg vdev ring : Nat) (s : State) : exec (.slotrmPacket pkg vdev ring) s = execSlotrmPacket pkg vdev ring s := rfl
theorem exec_purgePacket (pkg vdev ring : Nat) (s : State) : exec (.purgePacket pkg vdev ring) s = execPurgePacket pkg vdev ring s := rfl
theorem exec_killPacket (pkg vdev ring : Nat) (s : State) : exec (.killPacket pkg vdev ring) s = execKillPacket pkg vdev ring s := rfl
theorem exec_ringSlotTimeout (pkg vdev ring : Nat) (s : State) : exec (.ringSlotTimeout pkg vdev ring) s = execRingSlotTimeout pkg vdev ring s := rfl
theorem exec_completionRecordWrite (pkg vdev : Nat) (s : State) :
    exec (.completionRecordWrite pkg vdev) s = execCompletionRecordWrite pkg vdev s := rfl
theorem exec_fwWatchdogExpiry (core : Nat) (s : State) : exec (.fwWatchdogExpiry core) s = execFwWatchdogExpiry core s := rfl
theorem exec_fwCommit (die : Nat) (s : State) : exec (.fwCommit die) s = execFwCommit die s := rfl
theorem exec_fwRevert (die : Nat) (s : State) : exec (.fwRevert die) s = execFwRevert die s := rfl
theorem exec_commitDeadlineExpiry (pkg : Nat) (s : State) : exec (.commitDeadlineExpiry pkg) s = execCommitDeadlineExpiry pkg s := rfl
theorem exec_controllerReplacement (ctl : Controller) (die ident : Nat) (alive : Bool) (s : State) :
    exec (.controllerReplacement ctl die ident alive) s = execControllerReplacement ctl die ident alive s := rfl
theorem exec_packageReset (pkg failStep failReason : Nat) (s : State) :
    exec (.packageReset pkg failStep failReason) s = execPackageReset pkg failStep failReason s := rfl
theorem exec_attest (pkg : Nat) (request : List (BitVec 8)) (s : State) : exec (.attest pkg request) s = execAttest pkg request s := rfl
theorem exec_bootreport (pkg : Nat) (s : State) : exec (.bootreport pkg) s = execBootreport pkg s := rfl
theorem exec_leaves (pkg : Nat) (s : State) : exec (.leaves pkg) s = execLeaves pkg s := rfl
theorem exec_railSample (die milliamps : Nat) (s : State) : exec (.railSample die milliamps) s = execRailSample die milliamps s := rfl
theorem exec_thermalLimit (die celsius : Nat) (s : State) : exec (.thermalLimit die celsius) s = execThermalLimit die celsius s := rfl
theorem exec_powerCeilingUpdate (die ceiling : Nat) (s : State) :
    exec (.powerCeilingUpdate die ceiling) s = execPowerCeilingUpdate die ceiling s := rfl
theorem exec_flitArrival (msg : Nat) (lcrcOk : Bool) (s : State) : exec (.flitArrival msg lcrcOk) s = execFlitArrival msg lcrcOk s := rfl
theorem exec_coreGate (core : Nat) (s : State) : exec (.coreGate core) s = execCoreGate core s := rfl
theorem exec_powerLoss (pkg : Nat) (s : State) : exec (.powerLoss pkg) s = execPowerLoss pkg s := rfl

end Sys2Proof.Machine
end

