-- ==== Sys2Proof/Laws/Store.lean ====
section
/-! SUPPORT. The laws of sparse maps and of memory: what a read finds after a write, and that every operation keeps the canonical
form. -/

namespace Sys2Proof.Machine

namespace SMap

variable {α : Type}

theorem get_insert_self (d : α) (k : Nat) (v : α) (m : SMap α) : get d k (insert k v m) = v := by
  induction m with
  | nil => simp [insert, get]
  | cons e t ih =>
    obtain ⟨j, w⟩ := e
    by_cases h : j < k
    · simp [insert, h, get, ih, Nat.ne_of_lt h]
    · by_cases e : j = k
      · simp [insert, get, e]
      · simp [insert, get, h, e]

theorem get_insert_ne (d : α) {k i : Nat} (v : α) (m : SMap α) (ne : i ≠ k) : get d i (insert k v m) = get d i m := by
  induction m with
  | nil => simp [insert, get, ne.symm]
  | cons e t ih =>
    obtain ⟨j, w⟩ := e
    by_cases h : j < k
    · simp [insert, h, get, ih]
    · by_cases e : j = k
      · simp [insert, get, e, ne.symm]
      · simp [insert, get, h, e, ne.symm]

theorem get_erase_self (d : α) (k : Nat) (m : SMap α) : get d k (erase k m) = d := by
  induction m with
  | nil => rfl
  | cons e t ih =>
    obtain ⟨j, w⟩ := e
    by_cases h : j = k
    · simpa [erase, h] using ih
    · simpa [erase, get, h] using ih

theorem get_erase_ne (d : α) {k i : Nat} (m : SMap α) (ne : i ≠ k) : get d i (erase k m) = get d i m := by
  induction m with
  | nil => rfl
  | cons e t ih =>
    obtain ⟨j, w⟩ := e
    by_cases h : j = k
    · simp [erase, get, h, ih, ne.symm]
    · simp [erase, get, h, ih]

/-- A key reads as what was written to it. -/
@[simp] theorem get_set_self [DecidableEq α] (d : α) (k : Nat) (v : α) (m : SMap α) : get d k (set d k v m) = v := by
  unfold set
  split
  · next h => rw [get_erase_self, h]
  · exact get_insert_self d k v m

/-- A write leaves every other key as it was. -/
theorem get_set_ne [DecidableEq α] (d : α) {k i : Nat} (v : α) (m : SMap α) (ne : i ≠ k) : get d i (set d k v m) = get d i m := by
  unfold set
  split
  · exact get_erase_ne d m ne
  · exact get_insert_ne d v m ne

theorem get_set [DecidableEq α] (d : α) (k i : Nat) (v : α) (m : SMap α) : get d i (set d k v m) = if i = k then v else get d i m := by
  split
  · next h => rw [h, get_set_self]
  · next h => exact get_set_ne d v m h

@[simp] theorem get_nil (d : α) (k : Nat) : get d k [] = d := rfl

/-! ### The canonical form -/

theorem wfFrom_le [DecidableEq α] {d : α} {lo hi : Nat} {m : SMap α} (h : wfFrom d hi m = true) (le : lo ≤ hi) : wfFrom d lo m = true := by
  cases m with
  | nil => rfl
  | cons e t =>
    simp only [wfFrom, Bool.and_eq_true, decide_eq_true_eq] at h ⊢
    exact ⟨⟨le_trans le h.1.1, h.1.2⟩, h.2⟩

theorem wfFrom_insert [DecidableEq α] {d : α} {lo k : Nat} {v : α} {m : SMap α} (h : wfFrom d lo m = true) (le : lo ≤ k) (ne : v ≠ d) :
    wfFrom d lo (insert k v m) = true := by
  induction m generalizing lo with
  | nil => simp [insert, wfFrom, le, ne]
  | cons e t ih =>
    obtain ⟨j, w⟩ := e
    simp only [wfFrom, Bool.and_eq_true, decide_eq_true_eq] at h
    by_cases lt : j < k
    · simp only [insert, lt, if_true, wfFrom, Bool.and_eq_true, decide_eq_true_eq]
      exact ⟨h.1, ih h.2 lt⟩
    · by_cases eq : j = k
      · simp only [insert, eq, Nat.lt_irrefl, if_false, if_true, wfFrom, Bool.and_eq_true, decide_eq_true_eq]
        exact ⟨⟨le, ne⟩, eq ▸ h.2⟩
      · simp only [insert, lt, eq, if_false, wfFrom, Bool.and_eq_true, decide_eq_true_eq]
        exact ⟨⟨le, ne⟩, ⟨by omega, h.1.2⟩, h.2⟩

theorem wfFrom_erase [DecidableEq α] {d : α} {lo k : Nat} {m : SMap α} (h : wfFrom d lo m = true) : wfFrom d lo (erase k m) = true := by
  induction m generalizing lo with
  | nil => rfl
  | cons e t ih =>
    obtain ⟨j, w⟩ := e
    simp only [wfFrom, Bool.and_eq_true, decide_eq_true_eq] at h
    by_cases eq : j = k
    · simpa only [erase, eq, if_true] using ih (wfFrom_le h.2 (by omega))
    · simp only [erase, eq, if_false, wfFrom, Bool.and_eq_true, decide_eq_true_eq]
      exact ⟨h.1, ih h.2⟩

/-- A write keeps the canonical form. -/
theorem wf_set [DecidableEq α] {d : α} {k : Nat} {v : α} {m : SMap α} (h : wf d m = true) : wf d (set d k v m) = true := by
  unfold set
  split
  · exact wfFrom_erase h
  · next ne => exact wfFrom_insert h (Nat.zero_le k) ne

theorem wf_modify [DecidableEq α] {d : α} {k : Nat} {f : α → α} {m : SMap α} (h : wf d m = true) : wf d (modify d k f m) = true :=
  wf_set h

end SMap

namespace Memory

/-- A byte reads as what was written to it, and a write leaves every other byte as it was. -/
theorem read_write (m : Memory) (a i : Nat) (b : Byte) : read (write a b m) i = if i = a then b else read m i := SMap.get_set _ _ _ _ _

theorem read_writeBytes (m : Memory) (a i : Nat) (bs : List Byte) :
    read (writeBytes a bs m) i = if a ≤ i ∧ i < a + bs.length then bs.getD (i - a) 0 else read m i := by
  induction bs generalizing a m with
  | nil => simp only [writeBytes, List.length_nil]; rw [if_neg (by omega)]
  | cons b t ih =>
    rw [writeBytes, ih, read_write]
    simp only [List.length_cons]
    by_cases h1 : i = a
    · subst h1; simp
    · by_cases h2 : a + 1 ≤ i ∧ i < a + 1 + t.length
      · rw [if_pos h2, if_pos (by omega), show i - a = (i - (a + 1)) + 1 by omega, List.getD_cons_succ]
      · rw [if_neg h2, if_neg h1, if_neg (by omega)]

theorem wf_write {m : Memory} (h : wf m = true) (a : Nat) (b : Byte) : wf (write a b m) = true := SMap.wf_set h

theorem wf_writeBytes {m : Memory} (h : wf m = true) (a : Nat) (bs : List Byte) : wf (writeBytes a bs m) = true := by
  induction bs generalizing a m with
  | nil => exact h
  | cons b t ih => exact ih (wf_write h a b) (a + 1)

theorem wf_writeNat {m : Memory} (h : wf m = true) (a n v : Nat) : wf (writeNat a n v m) = true := by
  induction n generalizing a v m with
  | zero => exact h
  | succ n ih => exact ih (wf_write h a _) _ _

theorem wf_fill {m : Memory} (h : wf m = true) (a n : Nat) (b : Byte) : wf (fill a n b m) = true := by
  induction n generalizing a m with
  | zero => exact h
  | succ n ih => exact ih (wf_write h a b) _

theorem readBytes_length (m : Memory) (a n : Nat) : (readBytes m a n).length = n := by
  induction n generalizing a with
  | zero => rfl
  | succ n ih => simp [readBytes, ih]

/-- What a read of bytes finds. -/
theorem readBytes_getD (m : Memory) (a n i : Nat) (h : i < n) : (readBytes m a n).getD i 0 = read m (a + i) := by
  induction n generalizing a i with
  | zero => omega
  | succ n ih =>
    cases i with
    | zero => simp [readBytes]
    | succ i => rw [readBytes, List.getD_cons_succ, ih (a + 1) i (by omega), Nat.add_assoc, Nat.add_comm 1 i]

end Memory

end Sys2Proof.Machine
end

