-- ==== Sys2Proof/Laws/Far.lean ====
section
/-! SUPPORT. What a walk reads of an address, and the bytes of a virtual range inside one page. -/

set_option Elab.async false

namespace Sys2Proof.Machine

theorem levelShift_ge (l : Nat) : ∃ k, levelShift l = 16 + k := by
  unfold levelShift
  split
  · exact ⟨23, rfl⟩
  · exact ⟨14, rfl⟩
  · exact ⟨5, rfl⟩
  · exact ⟨0, rfl⟩

/-- A walk reads of the address no more than its page. -/
theorem walk_page (hbm : Memory) (pkg : Nat) {va vb : Nat} (h : va / 0x10000 = vb / 0x10000) : ∀ (l table : Nat) (w : Bool) (path : List Nat),
    walk hbm pkg va l table w path = walk hbm pkg vb l table w path
  | 0, _, _, _ => rfl
  | l + 1, table, w, path => by
    obtain ⟨k, hk⟩ := levelShift_ge (l + 1)
    have e : ∀ x : Nat, x / 2 ^ levelShift (l + 1) = x / 0x10000 / 2 ^ k := fun x => by
      rw [hk, Nat.pow_add, Nat.div_div_eq_div_mul]
    have o : ∀ x : Nat, x % 2 ^ levelShift (l + 1) / 0x10000 = x / 0x10000 % 2 ^ k := fun x => by
      rw [hk, Nat.pow_add, Nat.mod_mul_right_div_self]
    simp only [walk, e, o, h, walk_page hbm pkg h l]

/-- The bytes of a range inside a page are those of memory from the page's address on. -/
theorem vaBytes_in_page {s : State} {pkg vdev : Nat} {t : Tlb} (n : Nat) : ∀ va, va % 0x10000 + n ≤ 0x10000 → s.walkVa pkg vdev va = some t →
    s.vaBytes pkg vdev va n = some (Memory.readBytes s.sys.hbm (t.phys + va % 0x10000) n) := by
  induction n with
  | zero => exact fun _ _ _ => rfl
  | succ n ih =>
    intro va hn hw
    rcases Nat.eq_zero_or_pos n with rfl | hp
    · simp [State.vaBytes, hw, Memory.readBytes]
    · have hq : (va + 1) / 0x10000 = va / 0x10000 := by omega
      have hr : (va + 1) % 0x10000 = va % 0x10000 + 1 := by omega
      have hw' : s.walkVa pkg vdev (va + 1) = some t := by rw [← hw]; exact walk_page _ _ hq _ _ _ _
      have h := ih (va + 1) (by omega) hw'
      rw [hr] at h
      simp only [State.vaBytes, hw, h, Memory.readBytes, Nat.add_assoc]

end Sys2Proof.Machine
end

