-- ==== Sys2Proof/Laws/Run.lean ====
section
/-! SUPPORT. What the operations that every meaning goes through answer: `run` under a clear start, a guard that is off, and a
marked operand; and the results that `result` queues where no physical error struck. -/

namespace Sys2Proof.Machine

theorem State.Clear.guard {s : State} {h : Hdr} {us : List RegUse} (c : s.Clear h us) : s.guardOn h = true := c.1
theorem State.Clear.upsets {s : State} {h : Hdr} {us : List RegUse} (c : s.Clear h us) : s.strm.upsets = [] := c.2.1

/-- No g register that a clear instruction reads is marked. -/
theorem State.Clear.unmarked {s : State} {h : Hdr} {us : List RegUse} (c : s.Clear h us) :
    ((markReads us).map s.markG).find? (· != .none) = none := by
  simpa [List.find?_eq_none] using c.2.2

/-- An instruction without marked operands is clear where one with more of them is. -/
theorem State.Clear.mono {s : State} {h : Hdr} {us vs : List RegUse} (c : s.Clear h us) (le : ∀ n ∈ markReads vs, n ∈ markReads us) :
    s.Clear h vs := ⟨c.1, c.2.1, fun n m => c.2.2 n (le n m)⟩

/-- An instruction that is clear answers by its effect alone. -/
theorem run_clear {s : State} {h : Hdr} {us : List RegUse} (c : s.Clear h us) (m : Meet) (eff : State → Eff) :
    run h (markReads us) m s eff = (eff s).close h m.extra s := by
  simp [run, effectOf, c.guard, c.upsets, c.unmarked]

theorem runL_clear {s : State} {h : Hdr} {us : List RegUse} (c : s.Clear h us) (eff : State → Eff) :
    runL h (markReads us) s eff = (eff s).close h (addedCycles false h.prot) s := run_clear c _ _
theorem runV_clear {s : State} {h : Hdr} {us : List RegUse} (c : s.Clear h us) (eff : State → Eff) :
    runV h (markReads us) s eff = (eff s).close h (addedCycles true h.prot) s := run_clear c _ _
theorem runI_clear {s : State} {h : Hdr} {us : List RegUse} (c : s.Clear h us) (items : State → Items) (eff : State → Eff) :
    runI h (markReads us) items s eff = (eff s).close h (addedCycles false h.prot) s := run_clear c _ _
theorem runF_clear {s : State} {h : Hdr} {us : List RegUse} (c : s.Clear h us) (wide : Bool) (items : State → Items) (eff : State → Eff) :
    runF h (markReads us) wide items s eff = (eff s).close h (addedCycles wide h.prot) s := run_clear c _ _

/-- A guard that is off leaves the state as it is, where no physical error strikes (03 R66). -/
theorem run_off {s : State} {h : Hdr} (u : s.strm.upsets = []) (g : s.guardOn h = false) (reads : List Nat) (m : Meet) (eff : State → Eff) :
    run h reads m s eff = .next s := by simp [run, effectOf, u, g]

/-- A marked operand raises the mark's cause with D = 1 (16 R376); poison raises POISON_USE. -/
theorem run_marked {s : State} {h : Hdr} {reads : List Nat} {c v : Nat} (u : s.strm.upsets = []) (g : s.guardOn h = true)
    (m : (reads.map s.markG).find? (· != .none) = some (.deferred c v)) (w : Meet) (eff : State → Eff) :
    run h reads w s eff = .next (s.takeTrap c v true h.slot h.prot false) := by
  simp [run, effectOf, Eff.close, u, g, m]
theorem run_poisoned {s : State} {h : Hdr} {reads : List Nat} (u : s.strm.upsets = []) (g : s.guardOn h = true)
    (m : (reads.map s.markG).find? (· != .none) = some .poison) (w : Meet) (eff : State → Eff) :
    run h reads w s eff = .next (s.takeTrap 25 0 false h.slot h.prot false) := by
  simp [run, effectOf, Eff.close, u, g, m]

/-- No physical error strikes a site of an instruction that is not one of the copies being executed. -/
theorem State.struck_clean {s : State} (u : s.strm.upsets = []) (x : Site) : s.struck x = 0 := by simp [State.struck, u]

/-- Where no physical error struck, a result's copies are the same. -/
theorem State.result_clean {s : State} (u : s.strm.upsets = []) (h : Hdr) (vec : Bool) (gm : Word) (dst : Dst) (bits val : VReg) (lat : Nat)
    (flags : Word) (mark : Mark) : s.result h vec gm dst bits val lat flags mark = s.queues ⟨dst, lat + addedCycles vec h.prot,
      sameCopies h.prot ⟨val, flags, mark, bits, gm, true⟩, s.strm.pos, h.prot, h.slot, lat, vec⟩ := by
  simp [State.result, State.queues, addedCycles, sameCopies, State.struck_clean u]

theorem State.resG_clean {s : State} (u : s.strm.upsets = []) (h : Hdr) (n : Nat) (v : Word) (lat : Nat) :
    (s.resG h n v lat).spends (addedCycles false h.prot) = s.givesG h n v lat := by
  rw [State.resG, State.result_clean u]; rfl
theorem State.resGF_clean {s : State} (u : s.strm.upsets = []) (h : Hdr) (n : Nat) (v : Word) (lat : Nat) (f : Word) :
    (s.resGF h n v lat f).spends (addedCycles false h.prot) = s.givesG h n v lat f := by
  rw [State.resGF, State.result_clean u]; rfl
theorem State.resA_clean {s : State} (u : s.strm.upsets = []) (h : Hdr) (n : Nat) (v : Addr) (lat : Nat) :
    (s.resA h n v lat).spends (addedCycles false h.prot) = s.givesA h n v lat := by
  rw [State.resA, State.result_clean u]; rfl
theorem State.resP_clean {s : State} (u : s.strm.upsets = []) (h : Hdr) (n : Nat) (v : Bool) (lat : Nat) :
    (s.resP h n v lat).spends (addedCycles false h.prot) = s.givesP h n v lat := by
  rw [State.resP, State.result_clean u]; rfl
theorem State.resPF_clean {s : State} (u : s.strm.upsets = []) (h : Hdr) (n : Nat) (v : Bool) (lat : Nat) (f : Word) :
    (s.resPF h n v lat f).spends (addedCycles false h.prot) = s.givesP h n v lat f := by
  rw [State.resPF, State.result_clean u]; rfl

/-- A result leaves the physical errors to come as they are where there are none. -/
theorem State.queues_upsets (s : State) (f : Flight) : (s.queues f).strm.upsets = s.strm.upsets := rfl
theorem State.spends_upsets (s : State) (n : Nat) : (s.spends n).strm.upsets = s.strm.upsets := rfl

end Sys2Proof.Machine
end

