-- ==== Sys2Proof/Laws/Local.lean ====
section
/-! SUPPORT. What accesses of local memory do: the bytes that a store changes, where an access faults, and the update of a base
register. -/

namespace Sys2Proof.Machine

/-! ## Numbers and bytes -/

theorem leBytes_length (n v : Nat) : (leBytes n v).length = n := by
  induction n generalizing v with
  | zero => rfl
  | succ n ih => simp [leBytes, ih]

theorem leBytes_getD (n v i : Nat) (lt : i < n) : (leBytes n v).getD i 0 = BitVec.ofNat 8 (v / 256 ^ i) := by
  induction n generalizing v i with
  | zero => omega
  | succ n ih =>
    cases i with
    | zero => simp [leBytes]
    | succ i => rw [leBytes, List.getD_cons_succ, ih _ _ (by omega), Nat.div_div_eq_div_mul, Nat.pow_succ, Nat.mul_comm]

/-! ## The base register -/

theorem State.postInc_clean {s : State} (u : s.strm.upsets = []) (h : Hdr) (vec : Bool) (a : Nat) (m : Bool) (off : Off) :
    s.postInc h vec a m off = s.bumps h vec a m off := by
  cases m <;> simp [State.postInc, State.bumps, State.result_clean u, addrAdd]

theorem State.bumps_upsets (s : State) (h : Hdr) (vec : Bool) (a : Nat) (m : Bool) (off : Off) :
    (s.bumps h vec a m off).strm.upsets = s.strm.upsets := by
  cases m <;> simp [State.bumps, State.queues]

theorem State.ea_eq (s : State) (a : Nat) (m : Bool) (off : Off) :
    s.ea a m off = if m then s.rdA a else s.rdA a + BitVec.ofInt 64 (offVal off) := rfl

/-! ## Writes -/

theorem SMap.length_set {α : Type} [DecidableEq α] (d : α) (k : Nat) (v : α) (m : SMap α) : (SMap.set d k v m).length ≤ m.length + 1 := by
  have e : ∀ m : SMap α, (SMap.erase k m).length ≤ m.length := by
    intro m; induction m with
    | nil => simp [SMap.erase]
    | cons x t ih => obtain ⟨j, w⟩ := x; by_cases h : j = k <;> simp [SMap.erase, h] <;> omega
  have i : ∀ m : SMap α, (SMap.insert k v m).length ≤ m.length + 1 := by
    intro m; induction m with
    | nil => simp [SMap.insert]
    | cons x t ih =>
      obtain ⟨j, w⟩ := x
      by_cases h : j < k
      · simp [SMap.insert, h]; omega
      · by_cases g : j = k <;> simp [SMap.insert, h, g]
  unfold SMap.set; split
  · have := e m; omega
  · exact i m

/-- What a chain of held bytes reads as, and how long it can be. -/
theorem held_read (a : Nat) (bs : List Byte) (j : Nat) (m : SMap (Option Byte)) :
    let m1 := (bs.zipIdx j).foldl (fun m (x : Byte × Nat) => SMap.set none (a + x.2) (some x.1) m) m
    m1.length ≤ m.length + bs.length ∧
    ∀ x, SMap.get none x m1 = if a + j ≤ x ∧ x < a + j + bs.length then some (bs.getD (x - (a + j)) 0) else SMap.get none x m := by
  induction bs generalizing j m with
  | nil => refine ⟨by simp, fun x => ?_⟩; simp only [List.zipIdx_nil, List.foldl_nil, List.length_nil]; rw [if_neg (by omega)]
  | cons b t ih =>
    have := ih (j + 1) (SMap.set none (a + j) (some b) m)
    simp only [List.zipIdx_cons, List.foldl_cons, List.length_cons]
    refine ⟨?_, fun x => ?_⟩
    · have l := SMap.length_set none (a + j) (some b) m
      have := this.1; omega
    · have h := this.2 x
      rw [h, SMap.get_set]
      by_cases h1 : x = a + j
      · subst h1; simp
      · by_cases h2 : a + (j + 1) ≤ x ∧ x < a + (j + 1) + t.length
        · rw [if_pos h2, if_pos (by omega), show x - (a + j) = (x - (a + (j + 1))) + 1 by omega, List.getD_cons_succ]
        · rw [if_neg h2, if_neg h1, if_neg (by omega)]

theorem State.struck_mem {s : State} (u : s.strm.upsets = []) (x : Byte) (i : Site) : x ^^^ (s.struck i).setWidth 8 = x := by
  simp [State.struck_clean u]

theorem State.localByte_plain {s : State} (u : s.strm.upsets = []) (h : s.specSlot = none) (x : Nat) :
    s.localByte x = Memory.read s.core.loc x := by
  rw [State.localByte, State.struck_mem u, h]

theorem State.localByte_held {s : State} (u : s.strm.upsets = []) {n : Nat} (h : s.specSlot = some n) (x : Nat) :
    s.localByte x = (SMap.get none x (SMap.get [] n s.core.commit)).getD (Memory.read s.core.loc x) := by
  rw [State.localByte, State.struck_mem u, h]; simp only [optGet]; cases SMap.get none x (SMap.get [] n s.core.commit) <;> rfl

/-- A test of the held BWAITs changes nothing else. -/
theorem Core.testHeld_eq (c : Core) : c.testHeld = { c with heldBw := c.testHeld.heldBw, bwDone := c.testHeld.bwDone } := by
  unfold Core.testHeld; split <;> rfl

/-- A store of the issuing stream changes the bytes that it names, and nothing but local memory, its poison and the commit buffer. -/
theorem State.localWrite_spec {s u : State} {a : Nat} {bs : List Byte} (up : s.strm.upsets = []) (h : s.localWrite a bs = some u) :
    s.SameButLocal u ∧ u.specSlot = s.specSlot ∧
    ∀ x, u.localByte x = if a ≤ x ∧ x < a + bs.length then bs.getD (x - a) 0 else s.localByte x := by
  cases hn : s.specSlot with
  | none =>
    simp only [State.localWrite, hn, Option.some.injEq] at h
    subst h
    have e : ({ s with core := s.core.writeLocal a bs } : State).specSlot = s.specSlot := by
      simp only [State.specSlot, Core.writeLocal, Core.entry]; rw [Core.testHeld_eq]
    refine ⟨by simp only [State.SameButLocal, Core.writeLocal]; rw [Core.testHeld_eq], e.trans hn, fun x => ?_⟩
    rw [State.localByte_plain (by exact up) (e.trans hn), State.localByte_plain up hn]
    simp only [Core.writeLocal]; rw [Core.testHeld_eq]
    exact Memory.read_writeBytes _ _ _ _
  | some n =>
    have hr := (held_read a bs 0 (SMap.get [] n s.core.commit)).2
    simp only [State.localWrite, hn] at h
    generalize hm : List.foldl _ _ bs.zipIdx = m1 at h
    have hm' : List.foldl (fun m (x : Byte × Nat) => SMap.set none (a + x.2) (some x.1) m) (SMap.get [] n s.core.commit) (bs.zipIdx 0) = m1 := hm
    rw [hm'] at hr
    by_cases big : s.core.commitUsed + m1.length - (SMap.get [] n s.core.commit).length > 65536
    · rw [if_pos big] at h; cases h
    · rw [if_neg big] at h
      have h := Option.some.inj h
      subst h
      have e : ({ s with core := { s.core with commit := SMap.set [] n m1 s.core.commit } } : State).specSlot = s.specSlot := rfl
      refine ⟨rfl, e.trans hn, fun x => ?_⟩
      rw [State.localByte_held (by exact up) (e.trans hn), State.localByte_held up hn]
      simp only [SMap.get_set_self, hr, Nat.add_zero]
      split <;> rfl

/-- A store finds room for its bytes: in local memory, or in the commit buffer (16 R379). -/
theorem State.localWrite_room {s : State} {a : Nat} {bs : List Byte} (h : s.specSlot = none ∨ s.core.commitUsed + bs.length ≤ 65536) :
    ∃ u, s.localWrite a bs = some u := by
  cases hn : s.specSlot with
  | none => simp only [State.localWrite, hn]; exact ⟨_, rfl⟩
  | some n =>
    have l := (held_read a bs 0 (SMap.get [] n s.core.commit)).1
    simp only [State.localWrite, hn]
    generalize hm : List.foldl _ _ bs.zipIdx = m1
    have hm' : List.foldl (fun m (x : Byte × Nat) => SMap.set none (a + x.2) (some x.1) m) (SMap.get [] n s.core.commit) (bs.zipIdx 0) = m1 := hm
    rw [hm'] at l
    rcases h with h | h
    · rw [h] at hn; cases hn
    · rw [if_neg (by omega)]; exact ⟨_, rfl⟩

theorem State.localWrite_plain {s : State} (h : s.specSlot = none) (a : Nat) (bs : List Byte) :
    s.localWrite a bs = some { s with core := s.core.writeLocal a bs } := by simp [State.localWrite, h]

/-! ## Where an access faults -/

/-- The four cases of an access (09 R229, R230). -/
theorem State.localFault_eq (s : State) (a n : Nat) (ap : Bool) : s.localFault a n ap =
    if a + n ≤ winSize s.core.pool then none
    else if ap = true ∧ tileBase ≤ a ∧ a + n ≤ tileBase + 65536 * poolT s.core.pool then
      ((List.range n).find? fun i => s.busyTiles.contains ((a + i - tileBase) / 65536)).map fun i => (10, a + i)
    else if ap = true ∧ tileBase ≤ a ∧ a < tileBase + 65536 * poolT s.core.pool then some (9, tileBase + 65536 * poolT s.core.pool)
    else some (9, if a < winSize s.core.pool then winSize s.core.pool else a) := by
  unfold State.localFault Core.win
  generalize tileBase = tb
  simp only [Bool.and_eq_true, decide_eq_true_eq, and_assoc]
  split <;> try rfl
  split
  · cases List.find? _ (List.range n) <;> rfl
  · rfl

theorem State.localFault_window {s : State} {a n : Nat} (h : a + n ≤ winSize s.core.pool) (ap : Bool) : s.localFault a n ap = none := by
  simp [State.localFault, Core.win, h]

end Sys2Proof.Machine
end

