-- ==== Sys2Proof/Laws/PerInstr.lean ====
section
/-! SUPPORT. The round trip of every instruction as syntax, one lemma per constructor: the fields of a well-formed
instruction fit the syllable, and the decoder of those fields answers the instruction (R63, R64, R73). -/

namespace Sys2Proof

set_option linter.unusedSimpArgs false
set_option linter.unnecessarySeqFocus false
set_option linter.unreachableTactic false
set_option linter.unusedTactic false

/-- The packed fields of a well-formed instruction fit the syllable, and decoding them gives the instruction back. An
instruction without an encoding (a hardware step) has no fields. -/
def Laws.RoundTrip.Statement (i : Instr) : Prop :=
  i.wf = true → ∀ y, i.syl = some y →
    y.h.ok = true ∧ y.op < 256 ∧ y.w < 2 ^ 32 ∧ (∀ x, y.x = some x → x < 2 ^ 48) ∧ decodeOp y.h y.op y.w y.x = .ok i

/-- The statement from the codec of the operand record. -/
theorem Laws.RoundTrip.of_codec {α : Type} {i : Instr} {h : Hdr} {op : Nat} {o : α} {ok : Bool} {enc : Nat × Option Nat}
    {dec : Except DecodeErr α} {c : α → Instr}
    (wf : i.wf = (h.ok && ok)) (sy : i.syl = some ⟨h, op, enc.1, enc.2⟩) (hop : op < 256)
    (lt : ok = true → enc.1 < 2 ^ 32 ∧ ∀ x, enc.2 = some x → x < 2 ^ 48)
    (de : ok = true → dec = .ok o) (dc : ok = true → decodeOp h op enc.1 enc.2 = dec.map c) (hi : c o = i) :
    Laws.RoundTrip.Statement i := by
  intro hw y hy
  rw [wf, Bool.and_eq_true] at hw
  rw [sy, Option.some.injEq] at hy
  subst hy
  refine ⟨hw.1, hop, (lt hw.2).1, (lt hw.2).2, ?_⟩
  rw [dc hw.2, de hw.2, ← hi]
  rfl

theorem Laws.RoundTrip.of_none {i : Instr} (h : i.syl = none) : Laws.RoundTrip.Statement i := by
  intro _ y e
  rw [h] at e
  cases e

theorem Hdr.ok_of_nopOk {h : Hdr} (w : h.nopOk = true) : h.ok = true := by
  simp only [Hdr.nopOk, Bool.and_eq_true, beq_iff_eq, decide_eq_true_eq] at w
  simp [Hdr.ok, w.1.1.1, w.1.1.2, w.1.2, w.2]

theorem decodeOp_C5 (h : Hdr) (w : Nat) (x : Option Nat) (k : Nat) :
    w / 0x1000 % 16 = k → decodeOp h 0xC5 w x = match k with
    | 0 => (CwaitArgs.dec w x).map (Instr.cwait h)
    | _ => (CwaitNbArgs.dec w x).map (Instr.cwaitNb h) := by
  intro e; subst e; rfl

theorem decodeOp_C6 (h : Hdr) (w : Nat) (x : Option Nat) (k : Nat) :
    w / 0x1000 % 16 = k → decodeOp h 0xC6 w x = match k with
    | 0 => (CsigArgs.dec w x).map (Instr.csig h)
    | _ => (CsigRArgs.dec w x).map (Instr.csigR h) := by
  intro e; subst e; rfl

theorem decodeOp_C9 (h : Hdr) (w : Nat) (x : Option Nat) (k : Nat) :
    w / 0x1000 % 16 = k → decodeOp h 0xC9 w x = match k with
    | 0 | 1 => (TagwArgs.dec w x).map (Instr.tagw h)
    | _ => (TagwNbArgs.dec w x).map (Instr.tagwNb h) := by
  intro e; subst e; rfl

theorem decodeOp_CD (h : Hdr) (w : Nat) (x : Option Nat) (k : Nat) :
    w / 0x1000 % 16 = k → decodeOp h 0xCD w x = match k with
    | 0 => (KqryStArgs.dec w x).map (Instr.kqrySt h)
    | 1 => (KqryOccArgs.dec w x).map (Instr.kqryOcc h)
    | _ => (KqryVerArgs.dec w x).map (Instr.kqryVer h) := by
  intro e; subst e; rfl

theorem decodeOp_D3 (h : Hdr) (w : Nat) (x : Option Nat) (k : Nat) :
    w / 0x1000 % 16 = k → decodeOp h 0xD3 w x = match k with
    | 0 => (NoArgs.dec w x).map (Instr.yield h)
    | _ => (YieldFArgs.dec w x).map (Instr.yieldF h) := by
  intro e; subst e; rfl

theorem decodeOp_D5 (h : Hdr) (w : Nat) (x : Option Nat) (k : Nat) :
    w / 0x1000 % 16 = k → decodeOp h 0xD5 w x = match k with
    | 0 => (NoArgs.dec w x).map (Instr.rett h)
    | 1 => (Form1Args.dec w x).map (Instr.rettNx h)
    | 2 => (RettResArgs.dec w x).map (Instr.rettRes h)
    | _ => (RettRefArgs.dec w x).map (Instr.rettRef h) := by
  intro e; subst e; rfl

theorem decodeOp_D6 (h : Hdr) (w : Nat) (x : Option Nat) (k : Nat) :
    w / 0x1000 % 16 = k → decodeOp h 0xD6 w x = match k with
    | 0 => (ChkArgs.dec w x).map (Instr.chk h)
    | 1 => (ChkQArgs.dec w x).map (Instr.chkQ h)
    | _ => (ChkNbArgs.dec w x).map (Instr.chkNb h) := by
  intro e; subst e; rfl

theorem decodeOp_D7 (h : Hdr) (w : Nat) (x : Option Nat) (k : Nat) :
    w / 0x1000 % 16 = k → decodeOp h 0xD7 w x = match k with
    | 0 => (TrapArgs.dec w x).map (Instr.abort h)
    | _ => (AbortReqArgs.dec w x).map (Instr.abortReq h) := by
  intro e; subst e; rfl

theorem decodeOp_D8 (h : Hdr) (w : Nat) (x : Option Nat) (k : Nat) :
    w / 0x1000 % 16 = k → decodeOp h 0xD8 w x = match k with
    | 0 => (XlateRArgs.dec w x).map (Instr.xlateR h)
    | 1 => (XlateWArgs.dec w x).map (Instr.xlateW h)
    | _ => (XlatePArgs.dec w x).map (Instr.xlateP h) := by
  intro e; subst e; rfl

theorem decodeOp_DE (h : Hdr) (w : Nat) (x : Option Nat) (k : Nat) :
    w / 0x1000 % 16 = k → decodeOp h 0xDE w x = match k with
    | 0 => (PtwArgs.dec w x).map (Instr.ptw h)
    | _ => (PtwNbArgs.dec w x).map (Instr.ptwNb h) := by
  intro e; subst e; rfl

theorem decodeOp_DF (h : Hdr) (w : Nat) (x : Option Nat) (k : Nat) :
    w / 0x1000 % 16 = k → decodeOp h 0xDF w x = match k with
    | 0 => (TlbiVaArgs.dec w x).map (Instr.tlbiVa h)
    | 1 => (TlbiVdArgs.dec w x).map (Instr.tlbiVd h)
    | _ => (Form2Args.dec w x).map (Instr.tlbiAll h) := by
  intro e; subst e; rfl

theorem decodeOp_E0 (h : Hdr) (w : Nat) (x : Option Nat) (k : Nat) :
    w / 0x1000 % 16 = k → decodeOp h 0xE0 w x = match k with
    | 0 => (PurgeArgs.dec w x).map (Instr.purge h)
    | 1 => (Form1Args.dec w x).map (Instr.purgeL h)
    | _ => (PurgeClrArgs.dec w x).map (Instr.purgeClr h) := by
  intro e; subst e; rfl

theorem decodeOp_E2 (h : Hdr) (w : Nat) (x : Option Nat) (k : Nat) :
    w / 0x1000 % 16 = k → decodeOp h 0xE2 w x = match k with
    | 0 => (FrzArmArgs.dec w x).map (Instr.frzArm h)
    | 1 => (FrzYArgs.dec w x).map (Instr.frzY h)
    | 2 => (FrzArgs.dec w x).map (Instr.frz h)
    | 3 => (FrzResArgs.dec w x).map (Instr.frzRes h)
    | 4 => (FrzDirtyArgs.dec w x).map (Instr.frzDirty h)
    | 5 => (FrzGoArgs.dec w x).map (Instr.frzGo h)
    | _ => (FrzDisArgs.dec w x).map (Instr.frzDis h) := by
  intro e; subst e; rfl

theorem CwaitArgs.sub_C5 {o : CwaitArgs} (h : o.ok = true) : o.enc.1 / 0x1000 % 16 = 0 := by
  rcases o with ⟨c, t⟩; cases_type* RegImm <;> (simp [CwaitArgs.ok, RegImm.ok] at h; simp [CwaitArgs.enc, fk, RegImm.field, RegImm.pay] <;> omega)

theorem CwaitNbArgs.sub_C5 {o : CwaitNbArgs} (h : o.ok = true) : o.enc.1 / 0x1000 % 16 = 1 := by
  rcases o with ⟨p, c, t⟩; cases_type* RegImm <;> (simp [CwaitNbArgs.ok, RegImm.ok] at h; simp [CwaitNbArgs.enc, fk, RegImm.field, RegImm.pay] <;> omega)

theorem CsigArgs.sub_C6 {o : CsigArgs} (h : o.ok = true) : o.enc.1 / 0x1000 % 16 = 0 := by
  rcases o with ⟨c, v⟩; cases_type* RegImm <;> (simp [CsigArgs.ok, RegImm.ok] at h; simp [CsigArgs.enc, fk, RegImm.field, RegImm.pay] <;> omega)

theorem CsigRArgs.sub_C6 {o : CsigRArgs} (h : o.ok = true) : o.enc.1 / 0x1000 % 16 = 1 := by
  rcases o with ⟨c, v, g⟩; cases_type* RegImm <;> (simp [CsigRArgs.ok, RegImm.ok] at h; simp [CsigRArgs.enc, fk, RegImm.field, RegImm.pay] <;> omega)

theorem TagwArgs.sub_C9 {o : TagwArgs} (h : o.ok = true) : o.enc.1 / 0x1000 % 16 = o.all.toNat := by
  rcases o with ⟨g, all⟩; have z_all := Bool.toNat_lt all; (simp [TagwArgs.ok] at h; simp [TagwArgs.enc, fk] <;> omega)

theorem TagwNbArgs.sub_C9 {o : TagwNbArgs} (h : o.ok = true) : o.enc.1 / 0x1000 % 16 = 2 + o.all.toNat := by
  rcases o with ⟨p, g, all⟩; have z_all := Bool.toNat_lt all; (simp [TagwNbArgs.ok] at h; simp [TagwNbArgs.enc, fk] <;> omega)

theorem KqryStArgs.sub_CD {o : KqryStArgs} (h : o.ok = true) : o.enc.1 / 0x1000 % 16 = 0 := by
  rcases o with ⟨d, g⟩; (simp [KqryStArgs.ok] at h; simp [KqryStArgs.enc, fk] <;> omega)

theorem KqryOccArgs.sub_CD {o : KqryOccArgs} (h : o.ok = true) : o.enc.1 / 0x1000 % 16 = 1 := by
  rcases o with ⟨d⟩; (simp [KqryOccArgs.ok] at h; simp [KqryOccArgs.enc, fk] <;> omega)

theorem KqryVerArgs.sub_CD {o : KqryVerArgs} (h : o.ok = true) : o.enc.1 / 0x1000 % 16 = 2 := by
  rcases o with ⟨d, n⟩; (simp [KqryVerArgs.ok] at h; simp [KqryVerArgs.enc, fk] <;> omega)

theorem NoArgs.sub_D3 {o : NoArgs} (_h : o.ok = true) : o.enc.1 / 0x1000 % 16 = 0 := by
  simp [NoArgs.enc, fk]

theorem YieldFArgs.sub_D3 {o : YieldFArgs} (h : o.ok = true) : o.enc.1 / 0x1000 % 16 = 1 := by
  rcases o with ⟨p⟩; (simp [YieldFArgs.ok] at h; simp [YieldFArgs.enc, fk] <;> omega)

theorem NoArgs.sub_D5 {o : NoArgs} (_h : o.ok = true) : o.enc.1 / 0x1000 % 16 = 0 := by
  simp [NoArgs.enc, fk]

theorem Form1Args.sub_D5 {o : Form1Args} (_h : o.ok = true) : o.enc.1 / 0x1000 % 16 = 1 := by
  simp [Form1Args.enc, fk]

theorem RettResArgs.sub_D5 {o : RettResArgs} (h : o.ok = true) : o.enc.1 / 0x1000 % 16 = 2 := by
  rcases o with ⟨g⟩; (simp [RettResArgs.ok] at h; simp [RettResArgs.enc, fk] <;> omega)

theorem RettRefArgs.sub_D5 {o : RettRefArgs} (h : o.ok = true) : o.enc.1 / 0x1000 % 16 = 3 := by
  rcases o with ⟨g⟩; (simp [RettRefArgs.ok] at h; simp [RettRefArgs.enc, fk] <;> omega)

theorem ChkArgs.sub_D6 {o : ChkArgs} (h : o.ok = true) : o.enc.1 / 0x1000 % 16 = 0 := by
  rcases o with ⟨g⟩; (simp [ChkArgs.ok] at h; simp [ChkArgs.enc, fk] <;> omega)

theorem ChkQArgs.sub_D6 {o : ChkQArgs} (h : o.ok = true) : o.enc.1 / 0x1000 % 16 = 1 := by
  rcases o with ⟨q⟩; (simp [ChkQArgs.ok] at h; simp [ChkQArgs.enc, fk] <;> omega)

theorem ChkNbArgs.sub_D6 {o : ChkNbArgs} (h : o.ok = true) : o.enc.1 / 0x1000 % 16 = 2 := by
  rcases o with ⟨p, g⟩; (simp [ChkNbArgs.ok] at h; simp [ChkNbArgs.enc, fk] <;> omega)

theorem TrapArgs.sub_D7 {o : TrapArgs} (h : o.ok = true) : o.enc.1 / 0x1000 % 16 = 0 := by
  rcases o with ⟨code⟩; (simp [TrapArgs.ok] at h; simp [TrapArgs.enc, fk] <;> omega)

theorem AbortReqArgs.sub_D7 {o : AbortReqArgs} (h : o.ok = true) : o.enc.1 / 0x1000 % 16 = 1 := by
  rcases o with ⟨code⟩; (simp [AbortReqArgs.ok] at h; simp [AbortReqArgs.enc, fk] <;> omega)

theorem XlateRArgs.sub_D8 {o : XlateRArgs} (h : o.ok = true) : o.enc.1 / 0x1000 % 16 = 0 := by
  rcases o with ⟨p, a⟩; (simp [XlateRArgs.ok] at h; simp [XlateRArgs.enc, fk] <;> omega)

theorem XlateWArgs.sub_D8 {o : XlateWArgs} (h : o.ok = true) : o.enc.1 / 0x1000 % 16 = 1 := by
  rcases o with ⟨p, a⟩; (simp [XlateWArgs.ok] at h; simp [XlateWArgs.enc, fk] <;> omega)

theorem XlatePArgs.sub_D8 {o : XlatePArgs} (h : o.ok = true) : o.enc.1 / 0x1000 % 16 = 2 := by
  rcases o with ⟨d, a⟩; (simp [XlatePArgs.ok] at h; simp [XlatePArgs.enc, fk] <;> omega)

theorem PtwArgs.sub_DE {o : PtwArgs} (h : o.ok = true) : o.enc.1 / 0x1000 % 16 = 0 := by
  rcases o with ⟨ae, av⟩; (simp [PtwArgs.ok] at h; simp [PtwArgs.enc, fk] <;> omega)

theorem PtwNbArgs.sub_DE {o : PtwNbArgs} (h : o.ok = true) : o.enc.1 / 0x1000 % 16 = 1 := by
  rcases o with ⟨p, ae, av⟩; (simp [PtwNbArgs.ok] at h; simp [PtwNbArgs.enc, fk] <;> omega)

theorem TlbiVaArgs.sub_DF {o : TlbiVaArgs} (h : o.ok = true) : o.enc.1 / 0x1000 % 16 = 0 := by
  rcases o with ⟨vd, a, g⟩; (simp [TlbiVaArgs.ok] at h; simp [TlbiVaArgs.enc, fk] <;> omega)

theorem TlbiVdArgs.sub_DF {o : TlbiVdArgs} (h : o.ok = true) : o.enc.1 / 0x1000 % 16 = 1 := by
  rcases o with ⟨vd⟩; (simp [TlbiVdArgs.ok] at h; simp [TlbiVdArgs.enc, fk] <;> omega)

theorem Form2Args.sub_DF {o : Form2Args} (_h : o.ok = true) : o.enc.1 / 0x1000 % 16 = 2 := by
  simp [Form2Args.enc, fk]

theorem PurgeArgs.sub_E0 {o : PurgeArgs} (h : o.ok = true) : o.enc.1 / 0x1000 % 16 = 0 := by
  rcases o with ⟨g⟩; (simp [PurgeArgs.ok] at h; simp [PurgeArgs.enc, fk] <;> omega)

theorem Form1Args.sub_E0 {o : Form1Args} (_h : o.ok = true) : o.enc.1 / 0x1000 % 16 = 1 := by
  simp [Form1Args.enc, fk]

theorem PurgeClrArgs.sub_E0 {o : PurgeClrArgs} (h : o.ok = true) : o.enc.1 / 0x1000 % 16 = 2 := by
  rcases o with ⟨g⟩; (simp [PurgeClrArgs.ok] at h; simp [PurgeClrArgs.enc, fk] <;> omega)

theorem FrzArmArgs.sub_E2 {o : FrzArmArgs} (h : o.ok = true) : o.enc.1 / 0x1000 % 16 = 0 := by
  rcases o with ⟨p, g, a⟩; (simp [FrzArmArgs.ok] at h; simp [FrzArmArgs.enc, fk] <;> omega)

theorem FrzYArgs.sub_E2 {o : FrzYArgs} (h : o.ok = true) : o.enc.1 / 0x1000 % 16 = 1 := by
  rcases o with ⟨p, g⟩; (simp [FrzYArgs.ok] at h; simp [FrzYArgs.enc, fk] <;> omega)

theorem FrzArgs.sub_E2 {o : FrzArgs} (h : o.ok = true) : o.enc.1 / 0x1000 % 16 = 2 := by
  rcases o with ⟨p, g⟩; (simp [FrzArgs.ok] at h; simp [FrzArgs.enc, fk] <;> omega)

theorem FrzResArgs.sub_E2 {o : FrzResArgs} (h : o.ok = true) : o.enc.1 / 0x1000 % 16 = 3 := by
  rcases o with ⟨p, g, a⟩; (simp [FrzResArgs.ok] at h; simp [FrzResArgs.enc, fk] <;> omega)

theorem FrzDirtyArgs.sub_E2 {o : FrzDirtyArgs} (h : o.ok = true) : o.enc.1 / 0x1000 % 16 = 4 := by
  rcases o with ⟨p, g, a⟩; (simp [FrzDirtyArgs.ok] at h; simp [FrzDirtyArgs.enc, fk] <;> omega)

theorem FrzGoArgs.sub_E2 {o : FrzGoArgs} (h : o.ok = true) : o.enc.1 / 0x1000 % 16 = 5 := by
  rcases o with ⟨p, g⟩; (simp [FrzGoArgs.ok] at h; simp [FrzGoArgs.enc, fk] <;> omega)

theorem FrzDisArgs.sub_E2 {o : FrzDisArgs} (h : o.ok = true) : o.enc.1 / 0x1000 % 16 = 6 := by
  rcases o with ⟨g⟩; (simp [FrzDisArgs.ok] at h; simp [FrzDisArgs.enc, fk] <;> omega)

theorem decodeOp_3E (h : Hdr) (w : Nat) (x : Option Nat) : decodeOp h 0x3E w x =
    if fFn w = 0 then (LdltArgs.dec w x).map (.ldlt h) else (LdltClrArgs.dec w x).map (.ldltClr h) := rfl

theorem LdltArgs.fFn_enc {o : LdltArgs} (h : o.ok = true) : fFn o.enc.1 = 0 := by
  rcases o with ⟨lc, a, v⟩; cases_type* RegImm <;> (simp [LdltArgs.ok, RegImm.ok] at h; simp [LdltArgs.enc, fFn, f3, RegImm.field] <;> omega)

theorem LdltClrArgs.fFn_enc {o : LdltClrArgs} (h : o.ok = true) : fFn o.enc.1 = 1 := by
  rcases o with ⟨lc⟩; simp [LdltClrArgs.ok] at h; simp [LdltClrArgs.enc, fFn, f3]; omega

theorem Laws.RoundTrip.nop (h : Hdr) (o : NoArgs) :
    Laws.RoundTrip.Statement (.nop h o) := by
  intro hw y hy
  obtain ⟨hn, -⟩ := Bool.and_eq_true_iff.mp hw
  cases hy
  refine ⟨Hdr.ok_of_nopOk hn, by show 0 < 256; decide, by show 0 < 2 ^ 32; decide, fun x hx => (by cases hx), ?_⟩
  exact if_pos hn

theorem Laws.RoundTrip.add (h : Hdr) (o : BinArgs) :
    Laws.RoundTrip.Statement (.add h o) :=
  Laws.RoundTrip.of_codec (c := .add h) rfl rfl (by decide) BinArgs.enc_lt BinArgs.dec_enc (fun _ => rfl) rfl

theorem Laws.RoundTrip.sub (h : Hdr) (o : BinArgs) :
    Laws.RoundTrip.Statement (.sub h o) :=
  Laws.RoundTrip.of_codec (c := .sub h) rfl rfl (by decide) BinArgs.enc_lt BinArgs.dec_enc (fun _ => rfl) rfl

theorem Laws.RoundTrip.mul (h : Hdr) (o : BinArgs) :
    Laws.RoundTrip.Statement (.mul h o) :=
  Laws.RoundTrip.of_codec (c := .mul h) rfl rfl (by decide) BinArgs.enc_lt BinArgs.dec_enc (fun _ => rfl) rfl

theorem Laws.RoundTrip.mulh (h : Hdr) (o : BinZArgs) :
    Laws.RoundTrip.Statement (.mulh h o) :=
  Laws.RoundTrip.of_codec (c := .mulh h) rfl rfl (by decide) BinZArgs.enc_lt BinZArgs.dec_enc (fun _ => rfl) rfl

theorem Laws.RoundTrip.div (h : Hdr) (o : BinZArgs) :
    Laws.RoundTrip.Statement (.div h o) :=
  Laws.RoundTrip.of_codec (c := .div h) rfl rfl (by decide) BinZArgs.enc_lt BinZArgs.dec_enc (fun _ => rfl) rfl

theorem Laws.RoundTrip.rem (h : Hdr) (o : BinZArgs) :
    Laws.RoundTrip.Statement (.rem h o) :=
  Laws.RoundTrip.of_codec (c := .rem h) rfl rfl (by decide) BinZArgs.enc_lt BinZArgs.dec_enc (fun _ => rfl) rfl

theorem Laws.RoundTrip.and (h : Hdr) (o : BinArgs) :
    Laws.RoundTrip.Statement (.and h o) :=
  Laws.RoundTrip.of_codec (c := .and h) rfl rfl (by decide) BinArgs.enc_lt BinArgs.dec_enc (fun _ => rfl) rfl

theorem Laws.RoundTrip.or (h : Hdr) (o : BinArgs) :
    Laws.RoundTrip.Statement (.or h o) :=
  Laws.RoundTrip.of_codec (c := .or h) rfl rfl (by decide) BinArgs.enc_lt BinArgs.dec_enc (fun _ => rfl) rfl

theorem Laws.RoundTrip.xor (h : Hdr) (o : BinArgs) :
    Laws.RoundTrip.Statement (.xor h o) :=
  Laws.RoundTrip.of_codec (c := .xor h) rfl rfl (by decide) BinArgs.enc_lt BinArgs.dec_enc (fun _ => rfl) rfl

theorem Laws.RoundTrip.andn (h : Hdr) (o : BinArgs) :
    Laws.RoundTrip.Statement (.andn h o) :=
  Laws.RoundTrip.of_codec (c := .andn h) rfl rfl (by decide) BinArgs.enc_lt BinArgs.dec_enc (fun _ => rfl) rfl

theorem Laws.RoundTrip.shl (h : Hdr) (o : BinArgs) :
    Laws.RoundTrip.Statement (.shl h o) :=
  Laws.RoundTrip.of_codec (c := .shl h) rfl rfl (by decide) BinArgs.enc_lt BinArgs.dec_enc (fun _ => rfl) rfl

theorem Laws.RoundTrip.shr (h : Hdr) (o : BinArgs) :
    Laws.RoundTrip.Statement (.shr h o) :=
  Laws.RoundTrip.of_codec (c := .shr h) rfl rfl (by decide) BinArgs.enc_lt BinArgs.dec_enc (fun _ => rfl) rfl

theorem Laws.RoundTrip.sar (h : Hdr) (o : BinArgs) :
    Laws.RoundTrip.Statement (.sar h o) :=
  Laws.RoundTrip.of_codec (c := .sar h) rfl rfl (by decide) BinArgs.enc_lt BinArgs.dec_enc (fun _ => rfl) rfl

theorem Laws.RoundTrip.rot (h : Hdr) (o : BinArgs) :
    Laws.RoundTrip.Statement (.rot h o) :=
  Laws.RoundTrip.of_codec (c := .rot h) rfl rfl (by decide) BinArgs.enc_lt BinArgs.dec_enc (fun _ => rfl) rfl

theorem Laws.RoundTrip.min (h : Hdr) (o : BinZArgs) :
    Laws.RoundTrip.Statement (.min h o) :=
  Laws.RoundTrip.of_codec (c := .min h) rfl rfl (by decide) BinZArgs.enc_lt BinZArgs.dec_enc (fun _ => rfl) rfl

theorem Laws.RoundTrip.max (h : Hdr) (o : BinZArgs) :
    Laws.RoundTrip.Statement (.max h o) :=
  Laws.RoundTrip.of_codec (c := .max h) rfl rfl (by decide) BinZArgs.enc_lt BinZArgs.dec_enc (fun _ => rfl) rfl

theorem Laws.RoundTrip.adds (h : Hdr) (o : BinZArgs) :
    Laws.RoundTrip.Statement (.adds h o) :=
  Laws.RoundTrip.of_codec (c := .adds h) rfl rfl (by decide) BinZArgs.enc_lt BinZArgs.dec_enc (fun _ => rfl) rfl

theorem Laws.RoundTrip.subs (h : Hdr) (o : BinZArgs) :
    Laws.RoundTrip.Statement (.subs h o) :=
  Laws.RoundTrip.of_codec (c := .subs h) rfl rfl (by decide) BinZArgs.enc_lt BinZArgs.dec_enc (fun _ => rfl) rfl

theorem Laws.RoundTrip.abs (h : Hdr) (o : UnArgs) :
    Laws.RoundTrip.Statement (.abs h o) :=
  Laws.RoundTrip.of_codec (c := .abs h) rfl rfl (by decide) UnArgs.enc_lt UnArgs.dec_enc (fun _ => rfl) rfl

theorem Laws.RoundTrip.clz (h : Hdr) (o : UnArgs) :
    Laws.RoundTrip.Statement (.clz h o) :=
  Laws.RoundTrip.of_codec (c := .clz h) rfl rfl (by decide) UnArgs.enc_lt UnArgs.dec_enc (fun _ => rfl) rfl

theorem Laws.RoundTrip.ctz (h : Hdr) (o : UnArgs) :
    Laws.RoundTrip.Statement (.ctz h o) :=
  Laws.RoundTrip.of_codec (c := .ctz h) rfl rfl (by decide) UnArgs.enc_lt UnArgs.dec_enc (fun _ => rfl) rfl

theorem Laws.RoundTrip.popc (h : Hdr) (o : UnArgs) :
    Laws.RoundTrip.Statement (.popc h o) :=
  Laws.RoundTrip.of_codec (c := .popc h) rfl rfl (by decide) UnArgs.enc_lt UnArgs.dec_enc (fun _ => rfl) rfl

theorem Laws.RoundTrip.brev (h : Hdr) (o : UnArgs) :
    Laws.RoundTrip.Statement (.brev h o) :=
  Laws.RoundTrip.of_codec (c := .brev h) rfl rfl (by decide) UnArgs.enc_lt UnArgs.dec_enc (fun _ => rfl) rfl

theorem Laws.RoundTrip.bfx (h : Hdr) (o : BfxArgs) :
    Laws.RoundTrip.Statement (.bfx h o) :=
  Laws.RoundTrip.of_codec (c := .bfx h) rfl rfl (by decide) BfxArgs.enc_lt BfxArgs.dec_enc (fun _ => rfl) rfl

theorem Laws.RoundTrip.bfi (h : Hdr) (o : BfiArgs) :
    Laws.RoundTrip.Statement (.bfi h o) :=
  Laws.RoundTrip.of_codec (c := .bfi h) rfl rfl (by decide) BfiArgs.enc_lt BfiArgs.dec_enc (fun _ => rfl) rfl

theorem Laws.RoundTrip.sel (h : Hdr) (o : SelArgs) :
    Laws.RoundTrip.Statement (.sel h o) :=
  Laws.RoundTrip.of_codec (c := .sel h) rfl rfl (by decide) SelArgs.enc_lt SelArgs.dec_enc (fun _ => rfl) rfl

theorem Laws.RoundTrip.mov (h : Hdr) (o : MovArgs) :
    Laws.RoundTrip.Statement (.mov h o) :=
  Laws.RoundTrip.of_codec (c := .mov h) rfl rfl (by decide) MovArgs.enc_lt MovArgs.dec_enc (fun _ => rfl) rfl

theorem Laws.RoundTrip.movi (h : Hdr) (o : MoviArgs) :
    Laws.RoundTrip.Statement (.movi h o) :=
  Laws.RoundTrip.of_codec (c := .movi h) rfl rfl (by decide) MoviArgs.enc_lt MoviArgs.dec_enc (fun _ => rfl) rfl

theorem Laws.RoundTrip.movx (h : Hdr) (o : MovxArgs) :
    Laws.RoundTrip.Statement (.movx h o) :=
  Laws.RoundTrip.of_codec (c := .movx h) rfl rfl (by decide) MovxArgs.enc_lt MovxArgs.dec_enc (fun _ => rfl) rfl

theorem Laws.RoundTrip.cmp (h : Hdr) (o : CmpArgs) :
    Laws.RoundTrip.Statement (.cmp h o) :=
  Laws.RoundTrip.of_codec (c := .cmp h) rfl rfl (by decide) CmpArgs.enc_lt CmpArgs.dec_enc (fun _ => rfl) rfl

theorem Laws.RoundTrip.plog (h : Hdr) (o : PlogArgs) :
    Laws.RoundTrip.Statement (.plog h o) :=
  Laws.RoundTrip.of_codec (c := .plog h) rfl rfl (by decide) PlogArgs.enc_lt PlogArgs.dec_enc (fun _ => rfl) rfl

theorem Laws.RoundTrip.pmov (h : Hdr) (o : PmovArgs) :
    Laws.RoundTrip.Statement (.pmov h o) :=
  Laws.RoundTrip.of_codec (c := .pmov h) rfl rfl (by decide) PmovArgs.enc_lt PmovArgs.dec_enc (fun _ => rfl) rfl

theorem Laws.RoundTrip.aadd (h : Hdr) (o : AaddArgs) :
    Laws.RoundTrip.Statement (.aadd h o) :=
  Laws.RoundTrip.of_codec (c := .aadd h) rfl rfl (by decide) AaddArgs.enc_lt AaddArgs.dec_enc (fun _ => rfl) rfl

theorem Laws.RoundTrip.alea (h : Hdr) (o : AleaArgs) :
    Laws.RoundTrip.Statement (.alea h o) :=
  Laws.RoundTrip.of_codec (c := .alea h) rfl rfl (by decide) AleaArgs.enc_lt AleaArgs.dec_enc (fun _ => rfl) rfl

theorem Laws.RoundTrip.amov (h : Hdr) (o : AmovArgs) :
    Laws.RoundTrip.Statement (.amov h o) :=
  Laws.RoundTrip.of_codec (c := .amov h) rfl rfl (by decide) AmovArgs.enc_lt AmovArgs.dec_enc (fun _ => rfl) rfl

theorem Laws.RoundTrip.aget (h : Hdr) (o : AgetArgs) :
    Laws.RoundTrip.Statement (.aget h o) :=
  Laws.RoundTrip.of_codec (c := .aget h) rfl rfl (by decide) AgetArgs.enc_lt AgetArgs.dec_enc (fun _ => rfl) rfl

theorem Laws.RoundTrip.acmp (h : Hdr) (o : AcmpArgs) :
    Laws.RoundTrip.Statement (.acmp h o) :=
  Laws.RoundTrip.of_codec (c := .acmp h) rfl rfl (by decide) AcmpArgs.enc_lt AcmpArgs.dec_enc (fun _ => rfl) rfl

theorem Laws.RoundTrip.fadd (h : Hdr) (o : FpArgs) :
    Laws.RoundTrip.Statement (.fadd h o) :=
  Laws.RoundTrip.of_codec (c := .fadd h) rfl rfl (by decide) FpArgs.enc_lt FpArgs.dec_enc (fun _ => rfl) rfl

theorem Laws.RoundTrip.fsub (h : Hdr) (o : FpArgs) :
    Laws.RoundTrip.Statement (.fsub h o) :=
  Laws.RoundTrip.of_codec (c := .fsub h) rfl rfl (by decide) FpArgs.enc_lt FpArgs.dec_enc (fun _ => rfl) rfl

theorem Laws.RoundTrip.fmul (h : Hdr) (o : FpArgs) :
    Laws.RoundTrip.Statement (.fmul h o) :=
  Laws.RoundTrip.of_codec (c := .fmul h) rfl rfl (by decide) FpArgs.enc_lt FpArgs.dec_enc (fun _ => rfl) rfl

theorem Laws.RoundTrip.fma (h : Hdr) (o : FmaArgs) :
    Laws.RoundTrip.Statement (.fma h o) :=
  Laws.RoundTrip.of_codec (c := .fma h) rfl rfl (by decide) FmaArgs.enc_lt FmaArgs.dec_enc (fun _ => rfl) rfl

theorem Laws.RoundTrip.fmin (h : Hdr) (o : FminArgs) :
    Laws.RoundTrip.Statement (.fmin h o) :=
  Laws.RoundTrip.of_codec (c := .fmin h) rfl rfl (by decide) FminArgs.enc_lt FminArgs.dec_enc (fun _ => rfl) rfl

theorem Laws.RoundTrip.fmax (h : Hdr) (o : FminArgs) :
    Laws.RoundTrip.Statement (.fmax h o) :=
  Laws.RoundTrip.of_codec (c := .fmax h) rfl rfl (by decide) FminArgs.enc_lt FminArgs.dec_enc (fun _ => rfl) rfl

theorem Laws.RoundTrip.fdiv (h : Hdr) (o : FpArgs) :
    Laws.RoundTrip.Statement (.fdiv h o) :=
  Laws.RoundTrip.of_codec (c := .fdiv h) rfl rfl (by decide) FpArgs.enc_lt FpArgs.dec_enc (fun _ => rfl) rfl

theorem Laws.RoundTrip.fsqrt (h : Hdr) (o : FsqrtArgs) :
    Laws.RoundTrip.Statement (.fsqrt h o) :=
  Laws.RoundTrip.of_codec (c := .fsqrt h) rfl rfl (by decide) FsqrtArgs.enc_lt FsqrtArgs.dec_enc (fun _ => rfl) rfl

theorem Laws.RoundTrip.fcmp (h : Hdr) (o : FcmpArgs) :
    Laws.RoundTrip.Statement (.fcmp h o) :=
  Laws.RoundTrip.of_codec (c := .fcmp h) rfl rfl (by decide) FcmpArgs.enc_lt FcmpArgs.dec_enc (fun _ => rfl) rfl

theorem Laws.RoundTrip.fcvt (h : Hdr) (o : FcvtArgs) :
    Laws.RoundTrip.Statement (.fcvt h o) :=
  Laws.RoundTrip.of_codec (c := .fcvt h) rfl rfl (by decide) FcvtArgs.enc_lt FcvtArgs.dec_enc (fun _ => rfl) rfl

theorem Laws.RoundTrip.fsgn (h : Hdr) (o : FsgnArgs) :
    Laws.RoundTrip.Statement (.fsgn h o) :=
  Laws.RoundTrip.of_codec (c := .fsgn h) rfl rfl (by decide) FsgnArgs.enc_lt FsgnArgs.dec_enc (fun _ => rfl) rfl

theorem Laws.RoundTrip.fcls (h : Hdr) (o : FclsArgs) :
    Laws.RoundTrip.Statement (.fcls h o) :=
  Laws.RoundTrip.of_codec (c := .fcls h) rfl rfl (by decide) FclsArgs.enc_lt FclsArgs.dec_enc (fun _ => rfl) rfl

theorem Laws.RoundTrip.pbr (h : Hdr) (o : PbrArgs) :
    Laws.RoundTrip.Statement (.pbr h o) :=
  Laws.RoundTrip.of_codec (c := .pbr h) rfl rfl (by decide) PbrArgs.enc_lt PbrArgs.dec_enc (fun _ => rfl) rfl

theorem Laws.RoundTrip.pbrg (h : Hdr) (o : PbrgArgs) :
    Laws.RoundTrip.Statement (.pbrg h o) :=
  Laws.RoundTrip.of_codec (c := .pbrg h) rfl rfl (by decide) PbrgArgs.enc_lt PbrgArgs.dec_enc (fun _ => rfl) rfl

theorem Laws.RoundTrip.br (h : Hdr) (o : BrArgs) :
    Laws.RoundTrip.Statement (.br h o) :=
  Laws.RoundTrip.of_codec (c := .br h) rfl rfl (by decide) BrArgs.enc_lt BrArgs.dec_enc (fun _ => rfl) rfl

theorem Laws.RoundTrip.call (h : Hdr) (o : CallArgs) :
    Laws.RoundTrip.Statement (.call h o) :=
  Laws.RoundTrip.of_codec (c := .call h) rfl rfl (by decide) CallArgs.enc_lt CallArgs.dec_enc (fun _ => rfl) rfl

theorem Laws.RoundTrip.ret (h : Hdr) (o : BrArgs) :
    Laws.RoundTrip.Statement (.ret h o) :=
  Laws.RoundTrip.of_codec (c := .ret h) rfl rfl (by decide) BrArgs.enc_lt BrArgs.dec_enc (fun _ => rfl) rfl

theorem Laws.RoundTrip.loop (h : Hdr) (o : LoopArgs) :
    Laws.RoundTrip.Statement (.loop h o) :=
  Laws.RoundTrip.of_codec (c := .loop h) rfl rfl (by decide) LoopArgs.enc_lt LoopArgs.dec_enc (fun _ => rfl) rfl

theorem Laws.RoundTrip.ldlt (h : Hdr) (o : LdltArgs) :
    Laws.RoundTrip.Statement (.ldlt h o) :=
  Laws.RoundTrip.of_codec (c := .ldlt h) rfl rfl (by decide) LdltArgs.enc_lt LdltArgs.dec_enc (fun w => by rw [decodeOp_3E, if_pos (LdltArgs.fFn_enc w)]) rfl

theorem Laws.RoundTrip.ldltClr (h : Hdr) (o : LdltClrArgs) :
    Laws.RoundTrip.Statement (.ldltClr h o) :=
  Laws.RoundTrip.of_codec (c := .ldltClr h) rfl rfl (by decide) LdltClrArgs.enc_lt LdltClrArgs.dec_enc (fun w => by rw [decodeOp_3E, if_neg (by rw [LdltClrArgs.fFn_enc w]; decide)]) rfl

theorem Laws.RoundTrip.lbrk (h : Hdr) (o : LbrkArgs) :
    Laws.RoundTrip.Statement (.lbrk h o) :=
  Laws.RoundTrip.of_codec (c := .lbrk h) rfl rfl (by decide) LbrkArgs.enc_lt LbrkArgs.dec_enc (fun _ => rfl) rfl

theorem Laws.RoundTrip.endOp (h : Hdr) (o : NoArgs) :
    Laws.RoundTrip.Statement (.endOp h o) :=
  Laws.RoundTrip.of_codec (c := .endOp h) rfl rfl (by decide) NoArgs.enc_lt NoArgs.dec_enc (fun _ => rfl) rfl

theorem Laws.RoundTrip.ld (h : Hdr) (o : LdArgs) :
    Laws.RoundTrip.Statement (.ld h o) :=
  Laws.RoundTrip.of_codec (c := .ld h) rfl rfl (by decide) LdArgs.enc_lt LdArgs.dec_enc (fun _ => rfl) rfl

theorem Laws.RoundTrip.st (h : Hdr) (o : StArgs) :
    Laws.RoundTrip.Statement (.st h o) :=
  Laws.RoundTrip.of_codec (c := .st h) rfl rfl (by decide) StArgs.enc_lt StArgs.dec_enc (fun _ => rfl) rfl

theorem Laws.RoundTrip.lda (h : Hdr) (o : LdaArgs) :
    Laws.RoundTrip.Statement (.lda h o) :=
  Laws.RoundTrip.of_codec (c := .lda h) rfl rfl (by decide) LdaArgs.enc_lt LdaArgs.dec_enc (fun _ => rfl) rfl

theorem Laws.RoundTrip.sta (h : Hdr) (o : StaArgs) :
    Laws.RoundTrip.Statement (.sta h o) :=
  Laws.RoundTrip.of_codec (c := .sta h) rfl rfl (by decide) StaArgs.enc_lt StaArgs.dec_enc (fun _ => rfl) rfl

theorem Laws.RoundTrip.ldfe (h : Hdr) (o : FeLdArgs) :
    Laws.RoundTrip.Statement (.ldfe h o) :=
  Laws.RoundTrip.of_codec (c := .ldfe h) rfl rfl (by decide) FeLdArgs.enc_lt FeLdArgs.dec_enc (fun _ => rfl) rfl

theorem Laws.RoundTrip.ldff (h : Hdr) (o : FeLdArgs) :
    Laws.RoundTrip.Statement (.ldff h o) :=
  Laws.RoundTrip.of_codec (c := .ldff h) rfl rfl (by decide) FeLdArgs.enc_lt FeLdArgs.dec_enc (fun _ => rfl) rfl

theorem Laws.RoundTrip.stef (h : Hdr) (o : FeStArgs) :
    Laws.RoundTrip.Statement (.stef h o) :=
  Laws.RoundTrip.of_codec (c := .stef h) rfl rfl (by decide) FeStArgs.enc_lt FeStArgs.dec_enc (fun _ => rfl) rfl

theorem Laws.RoundTrip.stff (h : Hdr) (o : FeStArgs) :
    Laws.RoundTrip.Statement (.stff h o) :=
  Laws.RoundTrip.of_codec (c := .stff h) rfl rfl (by decide) FeStArgs.enc_lt FeStArgs.dec_enc (fun _ => rfl) rfl

theorem Laws.RoundTrip.fest (h : Hdr) (o : FeLdArgs) :
    Laws.RoundTrip.Statement (.fest h o) :=
  Laws.RoundTrip.of_codec (c := .fest h) rfl rfl (by decide) FeLdArgs.enc_lt FeLdArgs.dec_enc (fun _ => rfl) rfl

theorem Laws.RoundTrip.feclr (h : Hdr) (o : FeStArgs) :
    Laws.RoundTrip.Statement (.feclr h o) :=
  Laws.RoundTrip.of_codec (c := .feclr h) rfl rfl (by decide) FeStArgs.enc_lt FeStArgs.dec_enc (fun _ => rfl) rfl

theorem Laws.RoundTrip.barr (h : Hdr) (o : BarrArgs) :
    Laws.RoundTrip.Statement (.barr h o) :=
  Laws.RoundTrip.of_codec (c := .barr h) rfl rfl (by decide) BarrArgs.enc_lt BarrArgs.dec_enc (fun _ => rfl) rfl

theorem Laws.RoundTrip.bwait (h : Hdr) (o : BwaitArgs) :
    Laws.RoundTrip.Statement (.bwait h o) :=
  Laws.RoundTrip.of_codec (c := .bwait h) rfl rfl (by decide) BwaitArgs.enc_lt BwaitArgs.dec_enc (fun _ => rfl) rfl

theorem Laws.RoundTrip.notify (h : Hdr) (o : NotifyArgs) :
    Laws.RoundTrip.Statement (.notify h o) :=
  Laws.RoundTrip.of_codec (c := .notify h) rfl rfl (by decide) NotifyArgs.enc_lt NotifyArgs.dec_enc (fun _ => rfl) rfl

theorem Laws.RoundTrip.waitn (h : Hdr) (o : WaitnArgs) :
    Laws.RoundTrip.Statement (.waitn h o) :=
  Laws.RoundTrip.of_codec (c := .waitn h) rfl rfl (by decide) WaitnArgs.enc_lt WaitnArgs.dec_enc (fun _ => rfl) rfl

theorem Laws.RoundTrip.qpop (h : Hdr) (o : QpopArgs) :
    Laws.RoundTrip.Statement (.qpop h o) :=
  Laws.RoundTrip.of_codec (c := .qpop h) rfl rfl (by decide) QpopArgs.enc_lt QpopArgs.dec_enc (fun _ => rfl) rfl

theorem Laws.RoundTrip.qpeek (h : Hdr) (o : QpopArgs) :
    Laws.RoundTrip.Statement (.qpeek h o) :=
  Laws.RoundTrip.of_codec (c := .qpeek h) rfl rfl (by decide) QpopArgs.enc_lt QpopArgs.dec_enc (fun _ => rfl) rfl

theorem Laws.RoundTrip.qpush (h : Hdr) (o : QpushArgs) :
    Laws.RoundTrip.Statement (.qpush h o) :=
  Laws.RoundTrip.of_codec (c := .qpush h) rfl rfl (by decide) QpushArgs.enc_lt QpushArgs.dec_enc (fun _ => rfl) rfl

theorem Laws.RoundTrip.qstat (h : Hdr) (o : QstatArgs) :
    Laws.RoundTrip.Statement (.qstat h o) :=
  Laws.RoundTrip.of_codec (c := .qstat h) rfl rfl (by decide) QstatArgs.enc_lt QstatArgs.dec_enc (fun _ => rfl) rfl

theorem Laws.RoundTrip.qclr (h : Hdr) (o : QclrArgs) :
    Laws.RoundTrip.Statement (.qclr h o) :=
  Laws.RoundTrip.of_codec (c := .qclr h) rfl rfl (by decide) QclrArgs.enc_lt QclrArgs.dec_enc (fun _ => rfl) rfl

theorem Laws.RoundTrip.qst (h : Hdr) (o : QstArgs) :
    Laws.RoundTrip.Statement (.qst h o) :=
  Laws.RoundTrip.of_codec (c := .qst h) rfl rfl (by decide) QstArgs.enc_lt QstArgs.dec_enc (fun _ => rfl) rfl

theorem Laws.RoundTrip.ldq (h : Hdr) (o : LdqArgs) :
    Laws.RoundTrip.Statement (.ldq h o) :=
  Laws.RoundTrip.of_codec (c := .ldq h) rfl rfl (by decide) LdqArgs.enc_lt LdqArgs.dec_enc (fun _ => rfl) rfl

theorem Laws.RoundTrip.ldqs (h : Hdr) (o : LdqsArgs) :
    Laws.RoundTrip.Statement (.ldqs h o) :=
  Laws.RoundTrip.of_codec (c := .ldqs h) rfl rfl (by decide) LdqsArgs.enc_lt LdqsArgs.dec_enc (fun _ => rfl) rfl

theorem Laws.RoundTrip.ldqx (h : Hdr) (o : LdqxArgs) :
    Laws.RoundTrip.Statement (.ldqx h o) :=
  Laws.RoundTrip.of_codec (c := .ldqx h) rfl rfl (by decide) LdqxArgs.enc_lt LdqxArgs.dec_enc (fun _ => rfl) rfl

theorem Laws.RoundTrip.stf (h : Hdr) (o : StfArgs) :
    Laws.RoundTrip.Statement (.stf h o) :=
  Laws.RoundTrip.of_codec (c := .stf h) rfl rfl (by decide) StfArgs.enc_lt StfArgs.dec_enc (fun _ => rfl) rfl

theorem Laws.RoundTrip.stfs (h : Hdr) (o : StfsArgs) :
    Laws.RoundTrip.Statement (.stfs h o) :=
  Laws.RoundTrip.of_codec (c := .stfs h) rfl rfl (by decide) StfsArgs.enc_lt StfsArgs.dec_enc (fun _ => rfl) rfl

theorem Laws.RoundTrip.stfx (h : Hdr) (o : StfxArgs) :
    Laws.RoundTrip.Statement (.stfx h o) :=
  Laws.RoundTrip.of_codec (c := .stfx h) rfl rfl (by decide) StfxArgs.enc_lt StfxArgs.dec_enc (fun _ => rfl) rfl

theorem Laws.RoundTrip.pref (h : Hdr) (o : PrefArgs) :
    Laws.RoundTrip.Statement (.pref h o) :=
  Laws.RoundTrip.of_codec (c := .pref h) rfl rfl (by decide) PrefArgs.enc_lt PrefArgs.dec_enc (fun _ => rfl) rfl

theorem Laws.RoundTrip.cwb (h : Hdr) (o : CwbArgs) :
    Laws.RoundTrip.Statement (.cwb h o) :=
  Laws.RoundTrip.of_codec (c := .cwb h) rfl rfl (by decide) CwbArgs.enc_lt CwbArgs.dec_enc (fun _ => rfl) rfl

theorem Laws.RoundTrip.cinv (h : Hdr) (o : CwbArgs) :
    Laws.RoundTrip.Statement (.cinv h o) :=
  Laws.RoundTrip.of_codec (c := .cinv h) rfl rfl (by decide) CwbArgs.enc_lt CwbArgs.dec_enc (fun _ => rfl) rfl

theorem Laws.RoundTrip.amo (h : Hdr) (o : AmoArgs) :
    Laws.RoundTrip.Statement (.amo h o) :=
  Laws.RoundTrip.of_codec (c := .amo h) rfl rfl (by decide) AmoArgs.enc_lt AmoArgs.dec_enc (fun _ => rfl) rfl

theorem Laws.RoundTrip.acas (h : Hdr) (o : AcasArgs) :
    Laws.RoundTrip.Statement (.acas h o) :=
  Laws.RoundTrip.of_codec (c := .acas h) rfl rfl (by decide) AcasArgs.enc_lt AcasArgs.dec_enc (fun _ => rfl) rfl

theorem Laws.RoundTrip.vamo (h : Hdr) (o : VamoArgs) :
    Laws.RoundTrip.Statement (.vamo h o) :=
  Laws.RoundTrip.of_codec (c := .vamo h) rfl rfl (by decide) VamoArgs.enc_lt VamoArgs.dec_enc (fun _ => rfl) rfl

theorem Laws.RoundTrip.fence (h : Hdr) (o : FenceArgs) :
    Laws.RoundTrip.Statement (.fence h o) :=
  Laws.RoundTrip.of_codec (c := .fence h) rfl rfl (by decide) FenceArgs.enc_lt FenceArgs.dec_enc (fun _ => rfl) rfl

theorem Laws.RoundTrip.xfer (h : Hdr) (o : XferArgs) :
    Laws.RoundTrip.Statement (.xfer h o) :=
  Laws.RoundTrip.of_codec (c := .xfer h) rfl rfl (by decide) XferArgs.enc_lt XferArgs.dec_enc (fun _ => rfl) rfl

theorem Laws.RoundTrip.rclaim (h : Hdr) (o : RclaimArgs) :
    Laws.RoundTrip.Statement (.rclaim h o) :=
  Laws.RoundTrip.of_codec (c := .rclaim h) rfl rfl (by decide) RclaimArgs.enc_lt RclaimArgs.dec_enc (fun _ => rfl) rfl

theorem Laws.RoundTrip.rshare (h : Hdr) (o : RshareArgs) :
    Laws.RoundTrip.Statement (.rshare h o) :=
  Laws.RoundTrip.of_codec (c := .rshare h) rfl rfl (by decide) RshareArgs.enc_lt RshareArgs.dec_enc (fun _ => rfl) rfl

theorem Laws.RoundTrip.vadd (h : Hdr) (o : VIntArgs) :
    Laws.RoundTrip.Statement (.vadd h o) :=
  Laws.RoundTrip.of_codec (c := .vadd h) rfl rfl (by decide) VIntArgs.enc_lt VIntArgs.dec_enc (fun _ => rfl) rfl

theorem Laws.RoundTrip.vsub (h : Hdr) (o : VIntArgs) :
    Laws.RoundTrip.Statement (.vsub h o) :=
  Laws.RoundTrip.of_codec (c := .vsub h) rfl rfl (by decide) VIntArgs.enc_lt VIntArgs.dec_enc (fun _ => rfl) rfl

theorem Laws.RoundTrip.vmul (h : Hdr) (o : VIntArgs) :
    Laws.RoundTrip.Statement (.vmul h o) :=
  Laws.RoundTrip.of_codec (c := .vmul h) rfl rfl (by decide) VIntArgs.enc_lt VIntArgs.dec_enc (fun _ => rfl) rfl

theorem Laws.RoundTrip.vmulh (h : Hdr) (o : VIntZArgs) :
    Laws.RoundTrip.Statement (.vmulh h o) :=
  Laws.RoundTrip.of_codec (c := .vmulh h) rfl rfl (by decide) VIntZArgs.enc_lt VIntZArgs.dec_enc (fun _ => rfl) rfl

theorem Laws.RoundTrip.vmad (h : Hdr) (o : VMadArgs) :
    Laws.RoundTrip.Statement (.vmad h o) :=
  Laws.RoundTrip.of_codec (c := .vmad h) rfl rfl (by decide) VMadArgs.enc_lt VMadArgs.dec_enc (fun _ => rfl) rfl

theorem Laws.RoundTrip.vmin (h : Hdr) (o : VIntZArgs) :
    Laws.RoundTrip.Statement (.vmin h o) :=
  Laws.RoundTrip.of_codec (c := .vmin h) rfl rfl (by decide) VIntZArgs.enc_lt VIntZArgs.dec_enc (fun _ => rfl) rfl

theorem Laws.RoundTrip.vmax (h : Hdr) (o : VIntZArgs) :
    Laws.RoundTrip.Statement (.vmax h o) :=
  Laws.RoundTrip.of_codec (c := .vmax h) rfl rfl (by decide) VIntZArgs.enc_lt VIntZArgs.dec_enc (fun _ => rfl) rfl

theorem Laws.RoundTrip.vabs (h : Hdr) (o : VabsArgs) :
    Laws.RoundTrip.Statement (.vabs h o) :=
  Laws.RoundTrip.of_codec (c := .vabs h) rfl rfl (by decide) VabsArgs.enc_lt VabsArgs.dec_enc (fun _ => rfl) rfl

theorem Laws.RoundTrip.vand (h : Hdr) (o : VIntArgs) :
    Laws.RoundTrip.Statement (.vand h o) :=
  Laws.RoundTrip.of_codec (c := .vand h) rfl rfl (by decide) VIntArgs.enc_lt VIntArgs.dec_enc (fun _ => rfl) rfl

theorem Laws.RoundTrip.vor (h : Hdr) (o : VIntArgs) :
    Laws.RoundTrip.Statement (.vor h o) :=
  Laws.RoundTrip.of_codec (c := .vor h) rfl rfl (by decide) VIntArgs.enc_lt VIntArgs.dec_enc (fun _ => rfl) rfl

theorem Laws.RoundTrip.vxor (h : Hdr) (o : VIntArgs) :
    Laws.RoundTrip.Statement (.vxor h o) :=
  Laws.RoundTrip.of_codec (c := .vxor h) rfl rfl (by decide) VIntArgs.enc_lt VIntArgs.dec_enc (fun _ => rfl) rfl

theorem Laws.RoundTrip.vshl (h : Hdr) (o : VIntArgs) :
    Laws.RoundTrip.Statement (.vshl h o) :=
  Laws.RoundTrip.of_codec (c := .vshl h) rfl rfl (by decide) VIntArgs.enc_lt VIntArgs.dec_enc (fun _ => rfl) rfl

theorem Laws.RoundTrip.vshr (h : Hdr) (o : VIntArgs) :
    Laws.RoundTrip.Statement (.vshr h o) :=
  Laws.RoundTrip.of_codec (c := .vshr h) rfl rfl (by decide) VIntArgs.enc_lt VIntArgs.dec_enc (fun _ => rfl) rfl

theorem Laws.RoundTrip.vsar (h : Hdr) (o : VIntArgs) :
    Laws.RoundTrip.Statement (.vsar h o) :=
  Laws.RoundTrip.of_codec (c := .vsar h) rfl rfl (by decide) VIntArgs.enc_lt VIntArgs.dec_enc (fun _ => rfl) rfl

theorem Laws.RoundTrip.vadds (h : Hdr) (o : VIntZArgs) :
    Laws.RoundTrip.Statement (.vadds h o) :=
  Laws.RoundTrip.of_codec (c := .vadds h) rfl rfl (by decide) VIntZArgs.enc_lt VIntZArgs.dec_enc (fun _ => rfl) rfl

theorem Laws.RoundTrip.vsubs (h : Hdr) (o : VIntZArgs) :
    Laws.RoundTrip.Statement (.vsubs h o) :=
  Laws.RoundTrip.of_codec (c := .vsubs h) rfl rfl (by decide) VIntZArgs.enc_lt VIntZArgs.dec_enc (fun _ => rfl) rfl

theorem Laws.RoundTrip.vcmp (h : Hdr) (o : VcmpArgs) :
    Laws.RoundTrip.Statement (.vcmp h o) :=
  Laws.RoundTrip.of_codec (c := .vcmp h) rfl rfl (by decide) VcmpArgs.enc_lt VcmpArgs.dec_enc (fun _ => rfl) rfl

theorem Laws.RoundTrip.vsel (h : Hdr) (o : VselArgs) :
    Laws.RoundTrip.Statement (.vsel h o) :=
  Laws.RoundTrip.of_codec (c := .vsel h) rfl rfl (by decide) VselArgs.enc_lt VselArgs.dec_enc (fun _ => rfl) rfl

theorem Laws.RoundTrip.vfadd (h : Hdr) (o : VFBinArgs) :
    Laws.RoundTrip.Statement (.vfadd h o) :=
  Laws.RoundTrip.of_codec (c := .vfadd h) rfl rfl (by decide) VFBinArgs.enc_lt VFBinArgs.dec_enc (fun _ => rfl) rfl

theorem Laws.RoundTrip.vfsub (h : Hdr) (o : VFBinArgs) :
    Laws.RoundTrip.Statement (.vfsub h o) :=
  Laws.RoundTrip.of_codec (c := .vfsub h) rfl rfl (by decide) VFBinArgs.enc_lt VFBinArgs.dec_enc (fun _ => rfl) rfl

theorem Laws.RoundTrip.vfmul (h : Hdr) (o : VFBinArgs) :
    Laws.RoundTrip.Statement (.vfmul h o) :=
  Laws.RoundTrip.of_codec (c := .vfmul h) rfl rfl (by decide) VFBinArgs.enc_lt VFBinArgs.dec_enc (fun _ => rfl) rfl

theorem Laws.RoundTrip.vfma (h : Hdr) (o : VFmaArgs) :
    Laws.RoundTrip.Statement (.vfma h o) :=
  Laws.RoundTrip.of_codec (c := .vfma h) rfl rfl (by decide) VFmaArgs.enc_lt VFmaArgs.dec_enc (fun _ => rfl) rfl

theorem Laws.RoundTrip.vfmin (h : Hdr) (o : VFBinArgs) :
    Laws.RoundTrip.Statement (.vfmin h o) :=
  Laws.RoundTrip.of_codec (c := .vfmin h) rfl rfl (by decide) VFBinArgs.enc_lt VFBinArgs.dec_enc (fun _ => rfl) rfl

theorem Laws.RoundTrip.vfmax (h : Hdr) (o : VFBinArgs) :
    Laws.RoundTrip.Statement (.vfmax h o) :=
  Laws.RoundTrip.of_codec (c := .vfmax h) rfl rfl (by decide) VFBinArgs.enc_lt VFBinArgs.dec_enc (fun _ => rfl) rfl

theorem Laws.RoundTrip.vfdiv (h : Hdr) (o : VFBinArgs) :
    Laws.RoundTrip.Statement (.vfdiv h o) :=
  Laws.RoundTrip.of_codec (c := .vfdiv h) rfl rfl (by decide) VFBinArgs.enc_lt VFBinArgs.dec_enc (fun _ => rfl) rfl

theorem Laws.RoundTrip.vfsqrt (h : Hdr) (o : VFUnArgs) :
    Laws.RoundTrip.Statement (.vfsqrt h o) :=
  Laws.RoundTrip.of_codec (c := .vfsqrt h) rfl rfl (by decide) VFUnArgs.enc_lt VFUnArgs.dec_enc (fun _ => rfl) rfl

theorem Laws.RoundTrip.vfexp2 (h : Hdr) (o : VFUnArgs) :
    Laws.RoundTrip.Statement (.vfexp2 h o) :=
  Laws.RoundTrip.of_codec (c := .vfexp2 h) rfl rfl (by decide) VFUnArgs.enc_lt VFUnArgs.dec_enc (fun _ => rfl) rfl

theorem Laws.RoundTrip.vflog2 (h : Hdr) (o : VFUnArgs) :
    Laws.RoundTrip.Statement (.vflog2 h o) :=
  Laws.RoundTrip.of_codec (c := .vflog2 h) rfl rfl (by decide) VFUnArgs.enc_lt VFUnArgs.dec_enc (fun _ => rfl) rfl

theorem Laws.RoundTrip.vfcmp (h : Hdr) (o : VfcmpArgs) :
    Laws.RoundTrip.Statement (.vfcmp h o) :=
  Laws.RoundTrip.of_codec (c := .vfcmp h) rfl rfl (by decide) VfcmpArgs.enc_lt VfcmpArgs.dec_enc (fun _ => rfl) rfl

theorem Laws.RoundTrip.vfsgn (h : Hdr) (o : VfsgnArgs) :
    Laws.RoundTrip.Statement (.vfsgn h o) :=
  Laws.RoundTrip.of_codec (c := .vfsgn h) rfl rfl (by decide) VfsgnArgs.enc_lt VfsgnArgs.dec_enc (fun _ => rfl) rfl

theorem Laws.RoundTrip.vcvt (h : Hdr) (o : VcvtArgs) :
    Laws.RoundTrip.Statement (.vcvt h o) :=
  Laws.RoundTrip.of_codec (c := .vcvt h) rfl rfl (by decide) VcvtArgs.enc_lt VcvtArgs.dec_enc (fun _ => rfl) rfl

theorem Laws.RoundTrip.vqenc (h : Hdr) (o : VqencArgs) :
    Laws.RoundTrip.Statement (.vqenc h o) :=
  Laws.RoundTrip.of_codec (c := .vqenc h) rfl rfl (by decide) VqencArgs.enc_lt VqencArgs.dec_enc (fun _ => rfl) rfl

theorem Laws.RoundTrip.vqdec (h : Hdr) (o : VqdecArgs) :
    Laws.RoundTrip.Statement (.vqdec h o) :=
  Laws.RoundTrip.of_codec (c := .vqdec h) rfl rfl (by decide) VqdecArgs.enc_lt VqdecArgs.dec_enc (fun _ => rfl) rfl

theorem Laws.RoundTrip.vscl (h : Hdr) (o : VsclArgs) :
    Laws.RoundTrip.Statement (.vscl h o) :=
  Laws.RoundTrip.of_codec (c := .vscl h) rfl rfl (by decide) VsclArgs.enc_lt VsclArgs.dec_enc (fun _ => rfl) rfl

theorem Laws.RoundTrip.vred (h : Hdr) (o : VredArgs) :
    Laws.RoundTrip.Statement (.vred h o) :=
  Laws.RoundTrip.of_codec (c := .vred h) rfl rfl (by decide) VredArgs.enc_lt VredArgs.dec_enc (fun _ => rfl) rfl

theorem Laws.RoundTrip.vscan (h : Hdr) (o : VscanArgs) :
    Laws.RoundTrip.Statement (.vscan h o) :=
  Laws.RoundTrip.of_codec (c := .vscan h) rfl rfl (by decide) VscanArgs.enc_lt VscanArgs.dec_enc (fun _ => rfl) rfl

theorem Laws.RoundTrip.vperm (h : Hdr) (o : VpermArgs) :
    Laws.RoundTrip.Statement (.vperm h o) :=
  Laws.RoundTrip.of_codec (c := .vperm h) rfl rfl (by decide) VpermArgs.enc_lt VpermArgs.dec_enc (fun _ => rfl) rfl

theorem Laws.RoundTrip.vshuf (h : Hdr) (o : VshufArgs) :
    Laws.RoundTrip.Statement (.vshuf h o) :=
  Laws.RoundTrip.of_codec (c := .vshuf h) rfl rfl (by decide) VshufArgs.enc_lt VshufArgs.dec_enc (fun _ => rfl) rfl

theorem Laws.RoundTrip.vbcst (h : Hdr) (o : VbcstArgs) :
    Laws.RoundTrip.Statement (.vbcst h o) :=
  Laws.RoundTrip.of_codec (c := .vbcst h) rfl rfl (by decide) VbcstArgs.enc_lt VbcstArgs.dec_enc (fun _ => rfl) rfl

theorem Laws.RoundTrip.vext (h : Hdr) (o : VextArgs) :
    Laws.RoundTrip.Statement (.vext h o) :=
  Laws.RoundTrip.of_codec (c := .vext h) rfl rfl (by decide) VextArgs.enc_lt VextArgs.dec_enc (fun _ => rfl) rfl

theorem Laws.RoundTrip.vins (h : Hdr) (o : VinsArgs) :
    Laws.RoundTrip.Statement (.vins h o) :=
  Laws.RoundTrip.of_codec (c := .vins h) rfl rfl (by decide) VinsArgs.enc_lt VinsArgs.dec_enc (fun _ => rfl) rfl

theorem Laws.RoundTrip.viota (h : Hdr) (o : ViotaArgs) :
    Laws.RoundTrip.Statement (.viota h o) :=
  Laws.RoundTrip.of_codec (c := .viota h) rfl rfl (by decide) ViotaArgs.enc_lt ViotaArgs.dec_enc (fun _ => rfl) rfl

theorem Laws.RoundTrip.vcmprs (h : Hdr) (o : VcmprsArgs) :
    Laws.RoundTrip.Statement (.vcmprs h o) :=
  Laws.RoundTrip.of_codec (c := .vcmprs h) rfl rfl (by decide) VcmprsArgs.enc_lt VcmprsArgs.dec_enc (fun _ => rfl) rfl

theorem Laws.RoundTrip.vexpnd (h : Hdr) (o : VcmprsArgs) :
    Laws.RoundTrip.Statement (.vexpnd h o) :=
  Laws.RoundTrip.of_codec (c := .vexpnd h) rfl rfl (by decide) VcmprsArgs.enc_lt VcmprsArgs.dec_enc (fun _ => rfl) rfl

theorem Laws.RoundTrip.vsort (h : Hdr) (o : VsortArgs) :
    Laws.RoundTrip.Statement (.vsort h o) :=
  Laws.RoundTrip.of_codec (c := .vsort h) rfl rfl (by decide) VsortArgs.enc_lt VsortArgs.dec_enc (fun _ => rfl) rfl

theorem Laws.RoundTrip.vrnd (h : Hdr) (o : VrndArgs) :
    Laws.RoundTrip.Statement (.vrnd h o) :=
  Laws.RoundTrip.of_codec (c := .vrnd h) rfl rfl (by decide) VrndArgs.enc_lt VrndArgs.dec_enc (fun _ => rfl) rfl

theorem Laws.RoundTrip.vdot (h : Hdr) (o : VdotArgs) :
    Laws.RoundTrip.Statement (.vdot h o) :=
  Laws.RoundTrip.of_codec (c := .vdot h) rfl rfl (by decide) VdotArgs.enc_lt VdotArgs.dec_enc (fun _ => rfl) rfl

theorem Laws.RoundTrip.mlog (h : Hdr) (o : MlogArgs) :
    Laws.RoundTrip.Statement (.mlog h o) :=
  Laws.RoundTrip.of_codec (c := .mlog h) rfl rfl (by decide) MlogArgs.enc_lt MlogArgs.dec_enc (fun _ => rfl) rfl

theorem Laws.RoundTrip.mpop (h : Hdr) (o : MpopArgs) :
    Laws.RoundTrip.Statement (.mpop h o) :=
  Laws.RoundTrip.of_codec (c := .mpop h) rfl rfl (by decide) MpopArgs.enc_lt MpopArgs.dec_enc (fun _ => rfl) rfl

theorem Laws.RoundTrip.mff (h : Hdr) (o : MffArgs) :
    Laws.RoundTrip.Statement (.mff h o) :=
  Laws.RoundTrip.of_codec (c := .mff h) rfl rfl (by decide) MffArgs.enc_lt MffArgs.dec_enc (fun _ => rfl) rfl

theorem Laws.RoundTrip.mmov (h : Hdr) (o : MmovArgs) :
    Laws.RoundTrip.Statement (.mmov h o) :=
  Laws.RoundTrip.of_codec (c := .mmov h) rfl rfl (by decide) MmovArgs.enc_lt MmovArgs.dec_enc (fun _ => rfl) rfl

theorem Laws.RoundTrip.vld (h : Hdr) (o : VldArgs) :
    Laws.RoundTrip.Statement (.vld h o) :=
  Laws.RoundTrip.of_codec (c := .vld h) rfl rfl (by decide) VldArgs.enc_lt VldArgs.dec_enc (fun _ => rfl) rfl

theorem Laws.RoundTrip.vlds (h : Hdr) (o : VldsArgs) :
    Laws.RoundTrip.Statement (.vlds h o) :=
  Laws.RoundTrip.of_codec (c := .vlds h) rfl rfl (by decide) VldsArgs.enc_lt VldsArgs.dec_enc (fun _ => rfl) rfl

theorem Laws.RoundTrip.vldx (h : Hdr) (o : VldxArgs) :
    Laws.RoundTrip.Statement (.vldx h o) :=
  Laws.RoundTrip.of_codec (c := .vldx h) rfl rfl (by decide) VldxArgs.enc_lt VldxArgs.dec_enc (fun _ => rfl) rfl

theorem Laws.RoundTrip.vst (h : Hdr) (o : VstArgs) :
    Laws.RoundTrip.Statement (.vst h o) :=
  Laws.RoundTrip.of_codec (c := .vst h) rfl rfl (by decide) VstArgs.enc_lt VstArgs.dec_enc (fun _ => rfl) rfl

theorem Laws.RoundTrip.vsts (h : Hdr) (o : StfsArgs) :
    Laws.RoundTrip.Statement (.vsts h o) :=
  Laws.RoundTrip.of_codec (c := .vsts h) rfl rfl (by decide) StfsArgs.enc_lt StfsArgs.dec_enc (fun _ => rfl) rfl

theorem Laws.RoundTrip.vstx (h : Hdr) (o : StfxArgs) :
    Laws.RoundTrip.Statement (.vstx h o) :=
  Laws.RoundTrip.of_codec (c := .vstx h) rfl rfl (by decide) StfxArgs.enc_lt StfxArgs.dec_enc (fun _ => rfl) rfl

theorem Laws.RoundTrip.vmovx (h : Hdr) (o : VmovxArgs) :
    Laws.RoundTrip.Statement (.vmovx h o) :=
  Laws.RoundTrip.of_codec (c := .vmovx h) rfl rfl (by decide) VmovxArgs.enc_lt VmovxArgs.dec_enc (fun _ => rfl) rfl

theorem Laws.RoundTrip.post (h : Hdr) (o : PostArgs) :
    Laws.RoundTrip.Statement (.post h o) :=
  Laws.RoundTrip.of_codec (c := .post h) rfl rfl (by decide) PostArgs.enc_lt PostArgs.dec_enc (fun _ => rfl) rfl

theorem Laws.RoundTrip.postx (h : Hdr) (o : PostxArgs) :
    Laws.RoundTrip.Statement (.postx h o) :=
  Laws.RoundTrip.of_codec (c := .postx h) rfl rfl (by decide) PostxArgs.enc_lt PostxArgs.dec_enc (fun _ => rfl) rfl

theorem Laws.RoundTrip.fdef (h : Hdr) (o : FdefArgs) :
    Laws.RoundTrip.Statement (.fdef h o) :=
  Laws.RoundTrip.of_codec (c := .fdef h) rfl rfl (by decide) FdefArgs.enc_lt FdefArgs.dec_enc (fun _ => rfl) rfl

theorem Laws.RoundTrip.frel (h : Hdr) (o : FrelArgs) :
    Laws.RoundTrip.Statement (.frel h o) :=
  Laws.RoundTrip.of_codec (c := .frel h) rfl rfl (by decide) FrelArgs.enc_lt FrelArgs.dec_enc (fun _ => rfl) rfl

theorem Laws.RoundTrip.rinit (h : Hdr) (o : RinitArgs) :
    Laws.RoundTrip.Statement (.rinit h o) :=
  Laws.RoundTrip.of_codec (c := .rinit h) rfl rfl (by decide) RinitArgs.enc_lt RinitArgs.dec_enc (fun _ => rfl) rfl

theorem Laws.RoundTrip.cwait (h : Hdr) (o : CwaitArgs) :
    Laws.RoundTrip.Statement (.cwait h o) :=
  Laws.RoundTrip.of_codec (c := .cwait h) rfl rfl (by decide) CwaitArgs.enc_lt CwaitArgs.dec_enc (fun w => decodeOp_C5 h _ _ 0 (CwaitArgs.sub_C5 w)) rfl

theorem Laws.RoundTrip.cwaitNb (h : Hdr) (o : CwaitNbArgs) :
    Laws.RoundTrip.Statement (.cwaitNb h o) :=
  Laws.RoundTrip.of_codec (c := .cwaitNb h) rfl rfl (by decide) CwaitNbArgs.enc_lt CwaitNbArgs.dec_enc (fun w => decodeOp_C5 h _ _ 1 (CwaitNbArgs.sub_C5 w)) rfl

theorem Laws.RoundTrip.csig (h : Hdr) (o : CsigArgs) :
    Laws.RoundTrip.Statement (.csig h o) :=
  Laws.RoundTrip.of_codec (c := .csig h) rfl rfl (by decide) CsigArgs.enc_lt CsigArgs.dec_enc (fun w => decodeOp_C6 h _ _ 0 (CsigArgs.sub_C6 w)) rfl

theorem Laws.RoundTrip.csigR (h : Hdr) (o : CsigRArgs) :
    Laws.RoundTrip.Statement (.csigR h o) :=
  Laws.RoundTrip.of_codec (c := .csigR h) rfl rfl (by decide) CsigRArgs.enc_lt CsigRArgs.dec_enc (fun w => decodeOp_C6 h _ _ 1 (CsigRArgs.sub_C6 w)) rfl

theorem Laws.RoundTrip.cset (h : Hdr) (o : CsigArgs) :
    Laws.RoundTrip.Statement (.cset h o) :=
  Laws.RoundTrip.of_codec (c := .cset h) rfl rfl (by decide) CsigArgs.enc_lt CsigArgs.dec_enc (fun _ => rfl) rfl

theorem Laws.RoundTrip.crd (h : Hdr) (o : CrdArgs) :
    Laws.RoundTrip.Statement (.crd h o) :=
  Laws.RoundTrip.of_codec (c := .crd h) rfl rfl (by decide) CrdArgs.enc_lt CrdArgs.dec_enc (fun _ => rfl) rfl

theorem Laws.RoundTrip.tagw (h : Hdr) (o : TagwArgs) :
    Laws.RoundTrip.Statement (.tagw h o) :=
  Laws.RoundTrip.of_codec (c := .tagw h) rfl rfl (by decide) TagwArgs.enc_lt TagwArgs.dec_enc (fun w => by
      have e := TagwArgs.sub_C9 w
      cases hz : o.all <;> rw [hz] at e <;> exact decodeOp_C9 h _ _ _ e) rfl

theorem Laws.RoundTrip.tagwNb (h : Hdr) (o : TagwNbArgs) :
    Laws.RoundTrip.Statement (.tagwNb h o) :=
  Laws.RoundTrip.of_codec (c := .tagwNb h) rfl rfl (by decide) TagwNbArgs.enc_lt TagwNbArgs.dec_enc (fun w => by
      have e := TagwNbArgs.sub_C9 w
      cases hz : o.all <;> rw [hz] at e <;> exact decodeOp_C9 h _ _ _ e) rfl

theorem Laws.RoundTrip.tagff (h : Hdr) (o : TagffArgs) :
    Laws.RoundTrip.Statement (.tagff h o) :=
  Laws.RoundTrip.of_codec (c := .tagff h) rfl rfl (by decide) TagffArgs.enc_lt TagffArgs.dec_enc (fun _ => rfl) rfl

theorem Laws.RoundTrip.tagclr (h : Hdr) (o : TagclrArgs) :
    Laws.RoundTrip.Statement (.tagclr h o) :=
  Laws.RoundTrip.of_codec (c := .tagclr h) rfl rfl (by decide) TagclrArgs.enc_lt TagclrArgs.dec_enc (fun _ => rfl) rfl

theorem Laws.RoundTrip.kmode (h : Hdr) (o : KmodeArgs) :
    Laws.RoundTrip.Statement (.kmode h o) :=
  Laws.RoundTrip.of_codec (c := .kmode h) rfl rfl (by decide) KmodeArgs.enc_lt KmodeArgs.dec_enc (fun _ => rfl) rfl

theorem Laws.RoundTrip.kqrySt (h : Hdr) (o : KqryStArgs) :
    Laws.RoundTrip.Statement (.kqrySt h o) :=
  Laws.RoundTrip.of_codec (c := .kqrySt h) rfl rfl (by decide) KqryStArgs.enc_lt KqryStArgs.dec_enc (fun w => decodeOp_CD h _ _ 0 (KqryStArgs.sub_CD w)) rfl

theorem Laws.RoundTrip.kqryOcc (h : Hdr) (o : KqryOccArgs) :
    Laws.RoundTrip.Statement (.kqryOcc h o) :=
  Laws.RoundTrip.of_codec (c := .kqryOcc h) rfl rfl (by decide) KqryOccArgs.enc_lt KqryOccArgs.dec_enc (fun w => decodeOp_CD h _ _ 1 (KqryOccArgs.sub_CD w)) rfl

theorem Laws.RoundTrip.kqryVer (h : Hdr) (o : KqryVerArgs) :
    Laws.RoundTrip.Statement (.kqryVer h o) :=
  Laws.RoundTrip.of_codec (c := .kqryVer h) rfl rfl (by decide) KqryVerArgs.enc_lt KqryVerArgs.dec_enc (fun w => decodeOp_CD h _ _ 2 (KqryVerArgs.sub_CD w)) rfl

theorem Laws.RoundTrip.nest (h : Hdr) (o : NestArgs) :
    Laws.RoundTrip.Statement (.nest h o) :=
  Laws.RoundTrip.of_codec (c := .nest h) rfl rfl (by decide) NestArgs.enc_lt NestArgs.dec_enc (fun _ => rfl) rfl

theorem Laws.RoundTrip.settag (h : Hdr) (o : SettagArgs) :
    Laws.RoundTrip.Statement (.settag h o) :=
  Laws.RoundTrip.of_codec (c := .settag h) rfl rfl (by decide) SettagArgs.enc_lt SettagArgs.dec_enc (fun _ => rfl) rfl

theorem Laws.RoundTrip.csrr (h : Hdr) (o : CsrrArgs) :
    Laws.RoundTrip.Statement (.csrr h o) :=
  Laws.RoundTrip.of_codec (c := .csrr h) rfl rfl (by decide) CsrrArgs.enc_lt CsrrArgs.dec_enc (fun _ => rfl) rfl

theorem Laws.RoundTrip.csrw (h : Hdr) (o : CsrwArgs) :
    Laws.RoundTrip.Statement (.csrw h o) :=
  Laws.RoundTrip.of_codec (c := .csrw h) rfl rfl (by decide) CsrwArgs.enc_lt CsrwArgs.dec_enc (fun _ => rfl) rfl

theorem Laws.RoundTrip.csrx (h : Hdr) (o : CsrxArgs) :
    Laws.RoundTrip.Statement (.csrx h o) :=
  Laws.RoundTrip.of_codec (c := .csrx h) rfl rfl (by decide) CsrxArgs.enc_lt CsrxArgs.dec_enc (fun _ => rfl) rfl

theorem Laws.RoundTrip.yield (h : Hdr) (o : NoArgs) :
    Laws.RoundTrip.Statement (.yield h o) :=
  Laws.RoundTrip.of_codec (c := .yield h) rfl rfl (by decide) NoArgs.enc_lt NoArgs.dec_enc (fun w => decodeOp_D3 h _ _ 0 (NoArgs.sub_D3 w)) rfl

theorem Laws.RoundTrip.yieldF (h : Hdr) (o : YieldFArgs) :
    Laws.RoundTrip.Statement (.yieldF h o) :=
  Laws.RoundTrip.of_codec (c := .yieldF h) rfl rfl (by decide) YieldFArgs.enc_lt YieldFArgs.dec_enc (fun w => decodeOp_D3 h _ _ 1 (YieldFArgs.sub_D3 w)) rfl

theorem Laws.RoundTrip.trap (h : Hdr) (o : TrapArgs) :
    Laws.RoundTrip.Statement (.trap h o) :=
  Laws.RoundTrip.of_codec (c := .trap h) rfl rfl (by decide) TrapArgs.enc_lt TrapArgs.dec_enc (fun _ => rfl) rfl

theorem Laws.RoundTrip.rett (h : Hdr) (o : NoArgs) :
    Laws.RoundTrip.Statement (.rett h o) :=
  Laws.RoundTrip.of_codec (c := .rett h) rfl rfl (by decide) NoArgs.enc_lt NoArgs.dec_enc (fun w => decodeOp_D5 h _ _ 0 (NoArgs.sub_D5 w)) rfl

theorem Laws.RoundTrip.rettNx (h : Hdr) (o : Form1Args) :
    Laws.RoundTrip.Statement (.rettNx h o) :=
  Laws.RoundTrip.of_codec (c := .rettNx h) rfl rfl (by decide) Form1Args.enc_lt Form1Args.dec_enc (fun w => decodeOp_D5 h _ _ 1 (Form1Args.sub_D5 w)) rfl

theorem Laws.RoundTrip.rettRes (h : Hdr) (o : RettResArgs) :
    Laws.RoundTrip.Statement (.rettRes h o) :=
  Laws.RoundTrip.of_codec (c := .rettRes h) rfl rfl (by decide) RettResArgs.enc_lt RettResArgs.dec_enc (fun w => decodeOp_D5 h _ _ 2 (RettResArgs.sub_D5 w)) rfl

theorem Laws.RoundTrip.rettRef (h : Hdr) (o : RettRefArgs) :
    Laws.RoundTrip.Statement (.rettRef h o) :=
  Laws.RoundTrip.of_codec (c := .rettRef h) rfl rfl (by decide) RettRefArgs.enc_lt RettRefArgs.dec_enc (fun w => decodeOp_D5 h _ _ 3 (RettRefArgs.sub_D5 w)) rfl

theorem Laws.RoundTrip.chk (h : Hdr) (o : ChkArgs) :
    Laws.RoundTrip.Statement (.chk h o) :=
  Laws.RoundTrip.of_codec (c := .chk h) rfl rfl (by decide) ChkArgs.enc_lt ChkArgs.dec_enc (fun w => decodeOp_D6 h _ _ 0 (ChkArgs.sub_D6 w)) rfl

theorem Laws.RoundTrip.chkQ (h : Hdr) (o : ChkQArgs) :
    Laws.RoundTrip.Statement (.chkQ h o) :=
  Laws.RoundTrip.of_codec (c := .chkQ h) rfl rfl (by decide) ChkQArgs.enc_lt ChkQArgs.dec_enc (fun w => decodeOp_D6 h _ _ 1 (ChkQArgs.sub_D6 w)) rfl

theorem Laws.RoundTrip.chkNb (h : Hdr) (o : ChkNbArgs) :
    Laws.RoundTrip.Statement (.chkNb h o) :=
  Laws.RoundTrip.of_codec (c := .chkNb h) rfl rfl (by decide) ChkNbArgs.enc_lt ChkNbArgs.dec_enc (fun w => decodeOp_D6 h _ _ 2 (ChkNbArgs.sub_D6 w)) rfl

theorem Laws.RoundTrip.abort (h : Hdr) (o : TrapArgs) :
    Laws.RoundTrip.Statement (.abort h o) :=
  Laws.RoundTrip.of_codec (c := .abort h) rfl rfl (by decide) TrapArgs.enc_lt TrapArgs.dec_enc (fun w => decodeOp_D7 h _ _ 0 (TrapArgs.sub_D7 w)) rfl

theorem Laws.RoundTrip.abortReq (h : Hdr) (o : AbortReqArgs) :
    Laws.RoundTrip.Statement (.abortReq h o) :=
  Laws.RoundTrip.of_codec (c := .abortReq h) rfl rfl (by decide) AbortReqArgs.enc_lt AbortReqArgs.dec_enc (fun w => decodeOp_D7 h _ _ 1 (AbortReqArgs.sub_D7 w)) rfl

theorem Laws.RoundTrip.xlateR (h : Hdr) (o : XlateRArgs) :
    Laws.RoundTrip.Statement (.xlateR h o) :=
  Laws.RoundTrip.of_codec (c := .xlateR h) rfl rfl (by decide) XlateRArgs.enc_lt XlateRArgs.dec_enc (fun w => decodeOp_D8 h _ _ 0 (XlateRArgs.sub_D8 w)) rfl

theorem Laws.RoundTrip.xlateW (h : Hdr) (o : XlateWArgs) :
    Laws.RoundTrip.Statement (.xlateW h o) :=
  Laws.RoundTrip.of_codec (c := .xlateW h) rfl rfl (by decide) XlateWArgs.enc_lt XlateWArgs.dec_enc (fun w => decodeOp_D8 h _ _ 1 (XlateWArgs.sub_D8 w)) rfl

theorem Laws.RoundTrip.xlateP (h : Hdr) (o : XlatePArgs) :
    Laws.RoundTrip.Statement (.xlateP h o) :=
  Laws.RoundTrip.of_codec (c := .xlateP h) rfl rfl (by decide) XlatePArgs.enc_lt XlatePArgs.dec_enc (fun w => decodeOp_D8 h _ _ 2 (XlatePArgs.sub_D8 w)) rfl

theorem Laws.RoundTrip.fshare (h : Hdr) (o : FshareArgs) :
    Laws.RoundTrip.Statement (.fshare h o) :=
  Laws.RoundTrip.of_codec (c := .fshare h) rfl rfl (by decide) FshareArgs.enc_lt FshareArgs.dec_enc (fun _ => rfl) rfl

theorem Laws.RoundTrip.fwswap (h : Hdr) (o : FwswapArgs) :
    Laws.RoundTrip.Statement (.fwswap h o) :=
  Laws.RoundTrip.of_codec (c := .fwswap h) rfl rfl (by decide) FwswapArgs.enc_lt FwswapArgs.dec_enc (fun _ => rfl) rfl

theorem Laws.RoundTrip.ptw (h : Hdr) (o : PtwArgs) :
    Laws.RoundTrip.Statement (.ptw h o) :=
  Laws.RoundTrip.of_codec (c := .ptw h) rfl rfl (by decide) PtwArgs.enc_lt PtwArgs.dec_enc (fun w => decodeOp_DE h _ _ 0 (PtwArgs.sub_DE w)) rfl

theorem Laws.RoundTrip.ptwNb (h : Hdr) (o : PtwNbArgs) :
    Laws.RoundTrip.Statement (.ptwNb h o) :=
  Laws.RoundTrip.of_codec (c := .ptwNb h) rfl rfl (by decide) PtwNbArgs.enc_lt PtwNbArgs.dec_enc (fun w => decodeOp_DE h _ _ 1 (PtwNbArgs.sub_DE w)) rfl

theorem Laws.RoundTrip.tlbiVa (h : Hdr) (o : TlbiVaArgs) :
    Laws.RoundTrip.Statement (.tlbiVa h o) :=
  Laws.RoundTrip.of_codec (c := .tlbiVa h) rfl rfl (by decide) TlbiVaArgs.enc_lt TlbiVaArgs.dec_enc (fun w => decodeOp_DF h _ _ 0 (TlbiVaArgs.sub_DF w)) rfl

theorem Laws.RoundTrip.tlbiVd (h : Hdr) (o : TlbiVdArgs) :
    Laws.RoundTrip.Statement (.tlbiVd h o) :=
  Laws.RoundTrip.of_codec (c := .tlbiVd h) rfl rfl (by decide) TlbiVdArgs.enc_lt TlbiVdArgs.dec_enc (fun w => decodeOp_DF h _ _ 1 (TlbiVdArgs.sub_DF w)) rfl

theorem Laws.RoundTrip.tlbiAll (h : Hdr) (o : Form2Args) :
    Laws.RoundTrip.Statement (.tlbiAll h o) :=
  Laws.RoundTrip.of_codec (c := .tlbiAll h) rfl rfl (by decide) Form2Args.enc_lt Form2Args.dec_enc (fun w => decodeOp_DF h _ _ 2 (Form2Args.sub_DF w)) rfl

theorem Laws.RoundTrip.purge (h : Hdr) (o : PurgeArgs) :
    Laws.RoundTrip.Statement (.purge h o) :=
  Laws.RoundTrip.of_codec (c := .purge h) rfl rfl (by decide) PurgeArgs.enc_lt PurgeArgs.dec_enc (fun w => decodeOp_E0 h _ _ 0 (PurgeArgs.sub_E0 w)) rfl

theorem Laws.RoundTrip.purgeL (h : Hdr) (o : Form1Args) :
    Laws.RoundTrip.Statement (.purgeL h o) :=
  Laws.RoundTrip.of_codec (c := .purgeL h) rfl rfl (by decide) Form1Args.enc_lt Form1Args.dec_enc (fun w => decodeOp_E0 h _ _ 1 (Form1Args.sub_E0 w)) rfl

theorem Laws.RoundTrip.purgeClr (h : Hdr) (o : PurgeClrArgs) :
    Laws.RoundTrip.Statement (.purgeClr h o) :=
  Laws.RoundTrip.of_codec (c := .purgeClr h) rfl rfl (by decide) PurgeClrArgs.enc_lt PurgeClrArgs.dec_enc (fun w => decodeOp_E0 h _ _ 2 (PurgeClrArgs.sub_E0 w)) rfl

theorem Laws.RoundTrip.shrd (h : Hdr) (o : ShrdArgs) :
    Laws.RoundTrip.Statement (.shrd h o) :=
  Laws.RoundTrip.of_codec (c := .shrd h) rfl rfl (by decide) ShrdArgs.enc_lt ShrdArgs.dec_enc (fun _ => rfl) rfl

theorem Laws.RoundTrip.frzArm (h : Hdr) (o : FrzArmArgs) :
    Laws.RoundTrip.Statement (.frzArm h o) :=
  Laws.RoundTrip.of_codec (c := .frzArm h) rfl rfl (by decide) FrzArmArgs.enc_lt FrzArmArgs.dec_enc (fun w => decodeOp_E2 h _ _ 0 (FrzArmArgs.sub_E2 w)) rfl

theorem Laws.RoundTrip.frzY (h : Hdr) (o : FrzYArgs) :
    Laws.RoundTrip.Statement (.frzY h o) :=
  Laws.RoundTrip.of_codec (c := .frzY h) rfl rfl (by decide) FrzYArgs.enc_lt FrzYArgs.dec_enc (fun w => decodeOp_E2 h _ _ 1 (FrzYArgs.sub_E2 w)) rfl

theorem Laws.RoundTrip.frz (h : Hdr) (o : FrzArgs) :
    Laws.RoundTrip.Statement (.frz h o) :=
  Laws.RoundTrip.of_codec (c := .frz h) rfl rfl (by decide) FrzArgs.enc_lt FrzArgs.dec_enc (fun w => decodeOp_E2 h _ _ 2 (FrzArgs.sub_E2 w)) rfl

theorem Laws.RoundTrip.frzRes (h : Hdr) (o : FrzResArgs) :
    Laws.RoundTrip.Statement (.frzRes h o) :=
  Laws.RoundTrip.of_codec (c := .frzRes h) rfl rfl (by decide) FrzResArgs.enc_lt FrzResArgs.dec_enc (fun w => decodeOp_E2 h _ _ 3 (FrzResArgs.sub_E2 w)) rfl

theorem Laws.RoundTrip.frzDirty (h : Hdr) (o : FrzDirtyArgs) :
    Laws.RoundTrip.Statement (.frzDirty h o) :=
  Laws.RoundTrip.of_codec (c := .frzDirty h) rfl rfl (by decide) FrzDirtyArgs.enc_lt FrzDirtyArgs.dec_enc (fun w => decodeOp_E2 h _ _ 4 (FrzDirtyArgs.sub_E2 w)) rfl

theorem Laws.RoundTrip.frzGo (h : Hdr) (o : FrzGoArgs) :
    Laws.RoundTrip.Statement (.frzGo h o) :=
  Laws.RoundTrip.of_codec (c := .frzGo h) rfl rfl (by decide) FrzGoArgs.enc_lt FrzGoArgs.dec_enc (fun w => decodeOp_E2 h _ _ 5 (FrzGoArgs.sub_E2 w)) rfl

theorem Laws.RoundTrip.frzDis (h : Hdr) (o : FrzDisArgs) :
    Laws.RoundTrip.Statement (.frzDis h o) :=
  Laws.RoundTrip.of_codec (c := .frzDis h) rfl rfl (by decide) FrzDisArgs.enc_lt FrzDisArgs.dec_enc (fun w => decodeOp_E2 h _ _ 6 (FrzDisArgs.sub_E2 w)) rfl

theorem Laws.RoundTrip.mma (h : Hdr) (o : MmaArgs) :
    Laws.RoundTrip.Statement (.mma h o) :=
  Laws.RoundTrip.of_codec (c := .mma h) rfl rfl (by decide) MmaArgs.enc_lt MmaArgs.dec_enc (fun _ => rfl) rfl

theorem Laws.RoundTrip.mblk (h : Hdr) (o : MblkArgs) :
    Laws.RoundTrip.Statement (.mblk h o) :=
  Laws.RoundTrip.of_codec (c := .mblk h) rfl rfl (by decide) MblkArgs.enc_lt MblkArgs.dec_enc (fun _ => rfl) rfl

theorem Laws.RoundTrip.scacc (h : Hdr) (o : ScaccArgs) :
    Laws.RoundTrip.Statement (.scacc h o) :=
  Laws.RoundTrip.of_codec (c := .scacc h) rfl rfl (by decide) ScaccArgs.enc_lt ScaccArgs.dec_enc (fun _ => rfl) rfl

theorem Laws.RoundTrip.azero (h : Hdr) (o : AzeroArgs) :
    Laws.RoundTrip.Statement (.azero h o) :=
  Laws.RoundTrip.of_codec (c := .azero h) rfl rfl (by decide) AzeroArgs.enc_lt AzeroArgs.dec_enc (fun _ => rfl) rfl

theorem Laws.RoundTrip.aload (h : Hdr) (o : AloadArgs) :
    Laws.RoundTrip.Statement (.aload h o) :=
  Laws.RoundTrip.of_codec (c := .aload h) rfl rfl (by decide) AloadArgs.enc_lt AloadArgs.dec_enc (fun _ => rfl) rfl

theorem Laws.RoundTrip.astore (h : Hdr) (o : AstoreArgs) :
    Laws.RoundTrip.Statement (.astore h o) :=
  Laws.RoundTrip.of_codec (c := .astore h) rfl rfl (by decide) AstoreArgs.enc_lt AstoreArgs.dec_enc (fun _ => rfl) rfl

theorem Laws.RoundTrip.acopy (h : Hdr) (o : AcopyArgs) :
    Laws.RoundTrip.Statement (.acopy h o) :=
  Laws.RoundTrip.of_codec (c := .acopy h) rfl rfl (by decide) AcopyArgs.enc_lt AcopyArgs.dec_enc (fun _ => rfl) rfl

theorem Laws.RoundTrip.rpop (h : Hdr) (o : RpopArgs) :
    Laws.RoundTrip.Statement (.rpop h o) :=
  Laws.RoundTrip.of_codec (c := .rpop h) rfl rfl (by decide) RpopArgs.enc_lt RpopArgs.dec_enc (fun _ => rfl) rfl

theorem Laws.RoundTrip.xpose (h : Hdr) (o : XposeArgs) :
    Laws.RoundTrip.Statement (.xpose h o) :=
  Laws.RoundTrip.of_codec (c := .xpose h) rfl rfl (by decide) XposeArgs.enc_lt XposeArgs.dec_enc (fun _ => rfl) rfl

theorem Laws.RoundTrip.xreq (h : Hdr) (o : XreqArgs) :
    Laws.RoundTrip.Statement (.xreq h o) :=
  Laws.RoundTrip.of_codec (c := .xreq h) rfl rfl (by decide) XreqArgs.enc_lt XreqArgs.dec_enc (fun _ => rfl) rfl

theorem Laws.RoundTrip.xlay (h : Hdr) (o : XlayArgs) :
    Laws.RoundTrip.Statement (.xlay h o) :=
  Laws.RoundTrip.of_codec (c := .xlay h) rfl rfl (by decide) XlayArgs.enc_lt XlayArgs.dec_enc (fun _ => rfl) rfl

theorem Laws.RoundTrip.copy (h : Hdr) (o : CopyArgs) :
    Laws.RoundTrip.Statement (.copy h o) :=
  Laws.RoundTrip.of_codec (c := .copy h) rfl rfl (by decide) CopyArgs.enc_lt CopyArgs.dec_enc (fun _ => rfl) rfl

theorem Laws.RoundTrip.copyg (h : Hdr) (o : CopygArgs) :
    Laws.RoundTrip.Statement (.copyg h o) :=
  Laws.RoundTrip.of_codec (c := .copyg h) rfl rfl (by decide) CopygArgs.enc_lt CopygArgs.dec_enc (fun _ => rfl) rfl

theorem Laws.RoundTrip.copys (h : Hdr) (o : CopygArgs) :
    Laws.RoundTrip.Statement (.copys h o) :=
  Laws.RoundTrip.of_codec (c := .copys h) rfl rfl (by decide) CopygArgs.enc_lt CopygArgs.dec_enc (fun _ => rfl) rfl

theorem Laws.RoundTrip.cfill (h : Hdr) (o : CfillArgs) :
    Laws.RoundTrip.Statement (.cfill h o) :=
  Laws.RoundTrip.of_codec (c := .cfill h) rfl rfl (by decide) CfillArgs.enc_lt CfillArgs.dec_enc (fun _ => rfl) rfl

theorem Laws.RoundTrip.cred (h : Hdr) (o : CredArgs) :
    Laws.RoundTrip.Statement (.cred h o) :=
  Laws.RoundTrip.of_codec (c := .cred h) rfl rfl (by decide) CredArgs.enc_lt CredArgs.dec_enc (fun _ => rfl) rfl

theorem Laws.RoundTrip.cland (h : Hdr) (o : CfillArgs) :
    Laws.RoundTrip.Statement (.cland h o) :=
  Laws.RoundTrip.of_codec (c := .cland h) rfl rfl (by decide) CfillArgs.enc_lt CfillArgs.dec_enc (fun _ => rfl) rfl

theorem Laws.RoundTrip.unassignedOpcode (word : Nat) :
    Laws.RoundTrip.Statement (.unassignedOpcode word) :=
  Laws.RoundTrip.of_none rfl

theorem Laws.RoundTrip.endComplete :
    Laws.RoundTrip.Statement (.endComplete) :=
  Laws.RoundTrip.of_none rfl

theorem Laws.RoundTrip.fwhbHeartbeat (value : Nat) :
    Laws.RoundTrip.Statement (.fwhbHeartbeat value) :=
  Laws.RoundTrip.of_none rfl

theorem Laws.RoundTrip.resultLanding :
    Laws.RoundTrip.Statement (.resultLanding) :=
  Laws.RoundTrip.of_none rfl

theorem Laws.RoundTrip.waitComplete :
    Laws.RoundTrip.Statement (.waitComplete) :=
  Laws.RoundTrip.of_none rfl

theorem Laws.RoundTrip.queueDataArrival (req : Nat) :
    Laws.RoundTrip.Statement (.queueDataArrival req) :=
  Laws.RoundTrip.of_none rfl

theorem Laws.RoundTrip.taskRelease (core : Nat) :
    Laws.RoundTrip.Statement (.taskRelease core) :=
  Laws.RoundTrip.of_none rfl

theorem Laws.RoundTrip.taskRetire (core slot : Nat) :
    Laws.RoundTrip.Statement (.taskRetire core slot) :=
  Laws.RoundTrip.of_none rfl

theorem Laws.RoundTrip.kilnDeadlock (core : Nat) :
    Laws.RoundTrip.Statement (.kilnDeadlock core) :=
  Laws.RoundTrip.of_none rfl

theorem Laws.RoundTrip.iterationStart (core : Nat) :
    Laws.RoundTrip.Statement (.iterationStart core) :=
  Laws.RoundTrip.of_none rfl

theorem Laws.RoundTrip.wheelPlace (die launch : Nat) :
    Laws.RoundTrip.Statement (.wheelPlace die launch) :=
  Laws.RoundTrip.of_none rfl

theorem Laws.RoundTrip.wheelSteal (die launch : Nat) :
    Laws.RoundTrip.Statement (.wheelSteal die launch) :=
  Laws.RoundTrip.of_none rfl

theorem Laws.RoundTrip.nestRecordStart (launch : Nat) :
    Laws.RoundTrip.Statement (.nestRecordStart launch) :=
  Laws.RoundTrip.of_none rfl

theorem Laws.RoundTrip.launchComplete (launch : Nat) :
    Laws.RoundTrip.Statement (.launchComplete launch) :=
  Laws.RoundTrip.of_none rfl

theorem Laws.RoundTrip.accumulatorWrite :
    Laws.RoundTrip.Statement (.accumulatorWrite) :=
  Laws.RoundTrip.of_none rfl

theorem Laws.RoundTrip.passSlotPop :
    Laws.RoundTrip.Statement (.passSlotPop) :=
  Laws.RoundTrip.of_none rfl

theorem Laws.RoundTrip.slotPublish (core ring : Nat) :
    Laws.RoundTrip.Statement (.slotPublish core ring) :=
  Laws.RoundTrip.of_none rfl

theorem Laws.RoundTrip.copyChunkIssue (core copy : Nat) :
    Laws.RoundTrip.Statement (.copyChunkIssue core copy) :=
  Laws.RoundTrip.of_none rfl

theorem Laws.RoundTrip.copyComplete (core copy : Nat) :
    Laws.RoundTrip.Statement (.copyComplete core copy) :=
  Laws.RoundTrip.of_none rfl

theorem Laws.RoundTrip.lineEviction (core line : Nat) (l2 : Bool) :
    Laws.RoundTrip.Statement (.lineEviction core line l2) :=
  Laws.RoundTrip.of_none rfl

theorem Laws.RoundTrip.eccCorrected (site : FaultSite) :
    Laws.RoundTrip.Statement (.eccCorrected site) :=
  Laws.RoundTrip.of_none rfl

theorem Laws.RoundTrip.eccUncorrectable (site : FaultSite) :
    Laws.RoundTrip.Statement (.eccUncorrectable site) :=
  Laws.RoundTrip.of_none rfl

theorem Laws.RoundTrip.bucketLeak (die : Nat) :
    Laws.RoundTrip.Statement (.bucketLeak die) :=
  Laws.RoundTrip.of_none rfl

theorem Laws.RoundTrip.spareSubstitution (core : Nat) (unit : SpareUnit) (index spare : Nat) :
    Laws.RoundTrip.Statement (.spareSubstitution core unit index spare) :=
  Laws.RoundTrip.of_none rfl

theorem Laws.RoundTrip.coreUngate (core : Nat) :
    Laws.RoundTrip.Statement (.coreUngate core) :=
  Laws.RoundTrip.of_none rfl

theorem Laws.RoundTrip.fwShareWindow (core : Nat) :
    Laws.RoundTrip.Statement (.fwShareWindow core) :=
  Laws.RoundTrip.of_none rfl

theorem Laws.RoundTrip.forcedSave (core : Nat) :
    Laws.RoundTrip.Statement (.forcedSave core) :=
  Laws.RoundTrip.of_none rfl

theorem Laws.RoundTrip.corePark (core : Nat) :
    Laws.RoundTrip.Statement (.corePark core) :=
  Laws.RoundTrip.of_none rfl

theorem Laws.RoundTrip.coreSwap (core : Nat) :
    Laws.RoundTrip.Statement (.coreSwap core) :=
  Laws.RoundTrip.of_none rfl

theorem Laws.RoundTrip.freezeReceive (die launch : Nat) :
    Laws.RoundTrip.Statement (.freezeReceive die launch) :=
  Laws.RoundTrip.of_none rfl

theorem Laws.RoundTrip.farStore (msg : Nat) :
    Laws.RoundTrip.Statement (.farStore msg) :=
  Laws.RoundTrip.of_none rfl

theorem Laws.RoundTrip.atomicRequest (msg : Nat) :
    Laws.RoundTrip.Statement (.atomicRequest msg) :=
  Laws.RoundTrip.of_none rfl

theorem Laws.RoundTrip.atomicReply (msg : Nat) :
    Laws.RoundTrip.Statement (.atomicReply msg) :=
  Laws.RoundTrip.of_none rfl

theorem Laws.RoundTrip.loadData (msg : Nat) :
    Laws.RoundTrip.Statement (.loadData msg) :=
  Laws.RoundTrip.of_none rfl

theorem Laws.RoundTrip.loadRequest (msg : Nat) :
    Laws.RoundTrip.Statement (.loadRequest msg) :=
  Laws.RoundTrip.of_none rfl

theorem Laws.RoundTrip.postxRecord (msg : Nat) :
    Laws.RoundTrip.Statement (.postxRecord msg) :=
  Laws.RoundTrip.of_none rfl

theorem Laws.RoundTrip.postxReply (msg : Nat) :
    Laws.RoundTrip.Statement (.postxReply msg) :=
  Laws.RoundTrip.of_none rfl

theorem Laws.RoundTrip.remoteConeSignal (msg : Nat) :
    Laws.RoundTrip.Statement (.remoteConeSignal msg) :=
  Laws.RoundTrip.of_none rfl

theorem Laws.RoundTrip.notifyMessage (msg : Nat) :
    Laws.RoundTrip.Statement (.notifyMessage msg) :=
  Laws.RoundTrip.of_none rfl

theorem Laws.RoundTrip.copyChunk (msg : Nat) (crcOk : Bool) :
    Laws.RoundTrip.Statement (.copyChunk msg crcOk) :=
  Laws.RoundTrip.of_none rfl

theorem Laws.RoundTrip.landingUpdate (msg : Nat) :
    Laws.RoundTrip.Statement (.landingUpdate msg) :=
  Laws.RoundTrip.of_none rfl

theorem Laws.RoundTrip.barrierRequest (msg : Nat) :
    Laws.RoundTrip.Statement (.barrierRequest msg) :=
  Laws.RoundTrip.of_none rfl

theorem Laws.RoundTrip.barrierReply (msg : Nat) :
    Laws.RoundTrip.Statement (.barrierReply msg) :=
  Laws.RoundTrip.of_none rfl

theorem Laws.RoundTrip.acknowledgement (msg : Nat) :
    Laws.RoundTrip.Statement (.acknowledgement msg) :=
  Laws.RoundTrip.of_none rfl

theorem Laws.RoundTrip.cutMarker (msg : Nat) :
    Laws.RoundTrip.Statement (.cutMarker msg) :=
  Laws.RoundTrip.of_none rfl

theorem Laws.RoundTrip.purgeMessage (msg : Nat) :
    Laws.RoundTrip.Statement (.purgeMessage msg) :=
  Laws.RoundTrip.of_none rfl

theorem Laws.RoundTrip.launchPacketMessage (msg : Nat) :
    Laws.RoundTrip.Statement (.launchPacketMessage msg) :=
  Laws.RoundTrip.of_none rfl

theorem Laws.RoundTrip.startArrival (msg : Nat) :
    Laws.RoundTrip.Statement (.startArrival msg) :=
  Laws.RoundTrip.of_none rfl

theorem Laws.RoundTrip.startRelease (msg : Nat) :
    Laws.RoundTrip.Statement (.startRelease msg) :=
  Laws.RoundTrip.of_none rfl

theorem Laws.RoundTrip.parityUpdate (msg : Nat) :
    Laws.RoundTrip.Statement (.parityUpdate msg) :=
  Laws.RoundTrip.of_none rfl

theorem Laws.RoundTrip.sequenceSkip (msg : Nat) :
    Laws.RoundTrip.Statement (.sequenceSkip msg) :=
  Laws.RoundTrip.of_none rfl

theorem Laws.RoundTrip.requestTimeout (req : Nat) :
    Laws.RoundTrip.Statement (.requestTimeout req) :=
  Laws.RoundTrip.of_none rfl

theorem Laws.RoundTrip.linkDown (die dim : Nat) :
    Laws.RoundTrip.Statement (.linkDown die dim) :=
  Laws.RoundTrip.of_none rfl

theorem Laws.RoundTrip.dieLinkFailure (die dim : Nat) :
    Laws.RoundTrip.Statement (.dieLinkFailure die dim) :=
  Laws.RoundTrip.of_none rfl

theorem Laws.RoundTrip.launchArrivalTimeout (launch : Nat) :
    Laws.RoundTrip.Statement (.launchArrivalTimeout launch) :=
  Laws.RoundTrip.of_none rfl

theorem Laws.RoundTrip.spareInstallation (lost pser : Nat) :
    Laws.RoundTrip.Statement (.spareInstallation lost pser) :=
  Laws.RoundTrip.of_none rfl

theorem Laws.RoundTrip.stripeRebuild (group stripe member spare : Nat) :
    Laws.RoundTrip.Statement (.stripeRebuild group stripe member spare) :=
  Laws.RoundTrip.of_none rfl

theorem Laws.RoundTrip.reserve (pkg vdev ring addend : Nat) :
    Laws.RoundTrip.Statement (.reserve pkg vdev ring addend) :=
  Laws.RoundTrip.of_none rfl

theorem Laws.RoundTrip.bar2AtomicRefused (pkg vdev offset : Nat) :
    Laws.RoundTrip.Statement (.bar2AtomicRefused pkg vdev offset) :=
  Laws.RoundTrip.of_none rfl

theorem Laws.RoundTrip.hostNotifyWrite (pkg vdev offset size value : Nat) :
    Laws.RoundTrip.Statement (.hostNotifyWrite pkg vdev offset size value) :=
  Laws.RoundTrip.of_none rfl

theorem Laws.RoundTrip.hostMemoryAccess (pkg vdev offset size : Nat) (write : Option (List (BitVec 8))) :
    Laws.RoundTrip.Statement (.hostMemoryAccess pkg vdev offset size write) :=
  Laws.RoundTrip.of_none rfl

theorem Laws.RoundTrip.hostAtomicop (pkg vdev offset : Nat) (op : HostAtomic) (size operand compare : Nat) :
    Laws.RoundTrip.Statement (.hostAtomicop pkg vdev offset op size operand compare) :=
  Laws.RoundTrip.of_none rfl

theorem Laws.RoundTrip.registerWrite (reg : DevReg) (value : Nat) :
    Laws.RoundTrip.Statement (.registerWrite reg value) :=
  Laws.RoundTrip.of_none rfl

theorem Laws.RoundTrip.cqctlWrite (pkg vdev value : Nat) :
    Laws.RoundTrip.Statement (.cqctlWrite pkg vdev value) :=
  Laws.RoundTrip.of_none rfl

theorem Laws.RoundTrip.cqheadWrite (pkg vdev value : Nat) :
    Laws.RoundTrip.Statement (.cqheadWrite pkg vdev value) :=
  Laws.RoundTrip.of_none rfl

theorem Laws.RoundTrip.rstopWrite (die vdev value : Nat) :
    Laws.RoundTrip.Statement (.rstopWrite die vdev value) :=
  Laws.RoundTrip.of_none rfl

theorem Laws.RoundTrip.nopPacket (pkg vdev ring : Nat) :
    Laws.RoundTrip.Statement (.nopPacket pkg vdev ring) :=
  Laws.RoundTrip.of_none rfl

theorem Laws.RoundTrip.linkPacket (pkg vdev ring : Nat) :
    Laws.RoundTrip.Statement (.linkPacket pkg vdev ring) :=
  Laws.RoundTrip.of_none rfl

theorem Laws.RoundTrip.launchPacket (pkg vdev ring : Nat) :
    Laws.RoundTrip.Statement (.launchPacket pkg vdev ring) :=
  Laws.RoundTrip.of_none rfl

theorem Laws.RoundTrip.launchStart (pkg vdev ring : Nat) :
    Laws.RoundTrip.Statement (.launchStart pkg vdev ring) :=
  Laws.RoundTrip.of_none rfl

theorem Laws.RoundTrip.barePacket (pkg vdev ring : Nat) :
    Laws.RoundTrip.Statement (.barePacket pkg vdev ring) :=
  Laws.RoundTrip.of_none rfl

theorem Laws.RoundTrip.invokePacket (pkg vdev ring : Nat) :
    Laws.RoundTrip.Statement (.invokePacket pkg vdev ring) :=
  Laws.RoundTrip.of_none rfl

theorem Laws.RoundTrip.slotldPacket (pkg vdev ring : Nat) :
    Laws.RoundTrip.Statement (.slotldPacket pkg vdev ring) :=
  Laws.RoundTrip.of_none rfl

theorem Laws.RoundTrip.slotrmPacket (pkg vdev ring : Nat) :
    Laws.RoundTrip.Statement (.slotrmPacket pkg vdev ring) :=
  Laws.RoundTrip.of_none rfl

theorem Laws.RoundTrip.purgePacket (pkg vdev ring : Nat) :
    Laws.RoundTrip.Statement (.purgePacket pkg vdev ring) :=
  Laws.RoundTrip.of_none rfl

theorem Laws.RoundTrip.killPacket (pkg vdev ring : Nat) :
    Laws.RoundTrip.Statement (.killPacket pkg vdev ring) :=
  Laws.RoundTrip.of_none rfl

theorem Laws.RoundTrip.ringSlotTimeout (pkg vdev ring : Nat) :
    Laws.RoundTrip.Statement (.ringSlotTimeout pkg vdev ring) :=
  Laws.RoundTrip.of_none rfl

theorem Laws.RoundTrip.completionRecordWrite (pkg vdev : Nat) :
    Laws.RoundTrip.Statement (.completionRecordWrite pkg vdev) :=
  Laws.RoundTrip.of_none rfl

theorem Laws.RoundTrip.fwWatchdogExpiry (core : Nat) :
    Laws.RoundTrip.Statement (.fwWatchdogExpiry core) :=
  Laws.RoundTrip.of_none rfl

theorem Laws.RoundTrip.fwCommit (die : Nat) :
    Laws.RoundTrip.Statement (.fwCommit die) :=
  Laws.RoundTrip.of_none rfl

theorem Laws.RoundTrip.fwRevert (die : Nat) :
    Laws.RoundTrip.Statement (.fwRevert die) :=
  Laws.RoundTrip.of_none rfl

theorem Laws.RoundTrip.commitDeadlineExpiry (pkg : Nat) :
    Laws.RoundTrip.Statement (.commitDeadlineExpiry pkg) :=
  Laws.RoundTrip.of_none rfl

theorem Laws.RoundTrip.controllerReplacement (ctl : Controller) (die ident : Nat) (alive : Bool) :
    Laws.RoundTrip.Statement (.controllerReplacement ctl die ident alive) :=
  Laws.RoundTrip.of_none rfl

theorem Laws.RoundTrip.packageReset (pkg failStep failReason : Nat) :
    Laws.RoundTrip.Statement (.packageReset pkg failStep failReason) :=
  Laws.RoundTrip.of_none rfl

theorem Laws.RoundTrip.attest (pkg : Nat) (request : List (BitVec 8)) :
    Laws.RoundTrip.Statement (.attest pkg request) :=
  Laws.RoundTrip.of_none rfl

theorem Laws.RoundTrip.bootreport (pkg : Nat) :
    Laws.RoundTrip.Statement (.bootreport pkg) :=
  Laws.RoundTrip.of_none rfl

theorem Laws.RoundTrip.leaves (pkg : Nat) :
    Laws.RoundTrip.Statement (.leaves pkg) :=
  Laws.RoundTrip.of_none rfl

theorem Laws.RoundTrip.railSample (die milliamps : Nat) :
    Laws.RoundTrip.Statement (.railSample die milliamps) :=
  Laws.RoundTrip.of_none rfl

theorem Laws.RoundTrip.thermalLimit (die celsius : Nat) :
    Laws.RoundTrip.Statement (.thermalLimit die celsius) :=
  Laws.RoundTrip.of_none rfl

theorem Laws.RoundTrip.powerCeilingUpdate (die ceiling : Nat) :
    Laws.RoundTrip.Statement (.powerCeilingUpdate die ceiling) :=
  Laws.RoundTrip.of_none rfl

theorem Laws.RoundTrip.flitArrival (msg : Nat) (lcrcOk : Bool) :
    Laws.RoundTrip.Statement (.flitArrival msg lcrcOk) :=
  Laws.RoundTrip.of_none rfl

theorem Laws.RoundTrip.coreGate (core : Nat) :
    Laws.RoundTrip.Statement (.coreGate core) :=
  Laws.RoundTrip.of_none rfl

theorem Laws.RoundTrip.powerLoss (pkg : Nat) :
    Laws.RoundTrip.Statement (.powerLoss pkg) :=
  Laws.RoundTrip.of_none rfl

end Sys2Proof
end

