-- ==== Sys2Proof/Laws/State.lean ====
section
/-! SUPPORT. One lemma for each field and each update of the state, true by definition: no later proof unfolds a record update. -/

set_option Elab.async false

namespace Sys2Proof.Machine

@[simp] theorem State.setStrm_sid (s : State) (f : Stream → Stream) : (s.setStrm f).sid = s.sid := rfl
@[simp] theorem State.setStrm_core (s : State) (f : Stream → Stream) : (s.setStrm f).core = s.core := rfl
@[simp] theorem State.setStrm_streams (s : State) (f : Stream → Stream) : (s.setStrm f).streams = s.streams := rfl
@[simp] theorem State.setStrm_cores (s : State) (f : Stream → Stream) : (s.setStrm f).cores = s.cores := rfl
@[simp] theorem State.setStrm_sys (s : State) (f : Stream → Stream) : (s.setStrm f).sys = s.sys := rfl
@[simp] theorem State.setStrm_agenda (s : State) (f : Stream → Stream) : (s.setStrm f).agenda = s.agenda := rfl
@[simp] theorem State.setStrm_freeCtr (s : State) (f : Stream → Stream) : (s.setStrm f).freeCtr = s.freeCtr := rfl
@[simp] theorem State.setStrm_strm (s : State) (f : Stream → Stream) : (s.setStrm f).strm = f s.strm := rfl
@[simp] theorem State.setCore_sid (s : State) (f : Core → Core) : (s.setCore f).sid = s.sid := rfl
@[simp] theorem State.setCore_strm (s : State) (f : Core → Core) : (s.setCore f).strm = s.strm := rfl
@[simp] theorem State.setCore_streams (s : State) (f : Core → Core) : (s.setCore f).streams = s.streams := rfl
@[simp] theorem State.setCore_cores (s : State) (f : Core → Core) : (s.setCore f).cores = s.cores := rfl
@[simp] theorem State.setCore_sys (s : State) (f : Core → Core) : (s.setCore f).sys = s.sys := rfl
@[simp] theorem State.setCore_agenda (s : State) (f : Core → Core) : (s.setCore f).agenda = s.agenda := rfl
@[simp] theorem State.setCore_freeCtr (s : State) (f : Core → Core) : (s.setCore f).freeCtr = s.freeCtr := rfl
@[simp] theorem State.setCore_core (s : State) (f : Core → Core) : (s.setCore f).core = f s.core := rfl
@[simp] theorem State.setLatch_sid (s : State) (f : Latch → Latch) : (s.setLatch f).sid = s.sid := rfl
@[simp] theorem State.setLatch_core (s : State) (f : Latch → Latch) : (s.setLatch f).core = s.core := rfl
@[simp] theorem State.setLatch_streams (s : State) (f : Latch → Latch) : (s.setLatch f).streams = s.streams := rfl
@[simp] theorem State.setLatch_cores (s : State) (f : Latch → Latch) : (s.setLatch f).cores = s.cores := rfl
@[simp] theorem State.setLatch_sys (s : State) (f : Latch → Latch) : (s.setLatch f).sys = s.sys := rfl
@[simp] theorem State.setLatch_agenda (s : State) (f : Latch → Latch) : (s.setLatch f).agenda = s.agenda := rfl
@[simp] theorem State.setLatch_freeCtr (s : State) (f : Latch → Latch) : (s.setLatch f).freeCtr = s.freeCtr := rfl
@[simp] theorem State.setLatch_strm_cls (s : State) (f : Latch → Latch) : (s.setLatch f).strm.cls = s.strm.cls := rfl
@[simp] theorem State.setLatch_strm_run (s : State) (f : Latch → Latch) : (s.setLatch f).strm.run = s.strm.run := rfl
@[simp] theorem State.setLatch_strm_pos (s : State) (f : Latch → Latch) : (s.setLatch f).strm.pos = s.strm.pos := rfl
@[simp] theorem State.setLatch_strm_g (s : State) (f : Latch → Latch) : (s.setLatch f).strm.g = s.strm.g := rfl
@[simp] theorem State.setLatch_strm_gMark (s : State) (f : Latch → Latch) : (s.setLatch f).strm.gMark = s.strm.gMark := rfl
@[simp] theorem State.setLatch_strm_v (s : State) (f : Latch → Latch) : (s.setLatch f).strm.v = s.strm.v := rfl
@[simp] theorem State.setLatch_strm_a (s : State) (f : Latch → Latch) : (s.setLatch f).strm.a = s.strm.a := rfl
@[simp] theorem State.setLatch_strm_p (s : State) (f : Latch → Latch) : (s.setLatch f).strm.p = s.strm.p := rfl
@[simp] theorem State.setLatch_strm_m (s : State) (f : Latch → Latch) : (s.setLatch f).strm.m = s.strm.m := rfl
@[simp] theorem State.setLatch_strm_b (s : State) (f : Latch → Latch) : (s.setLatch f).strm.b = s.strm.b := rfl
@[simp] theorem State.setLatch_strm_q (s : State) (f : Latch → Latch) : (s.setLatch f).strm.q = s.strm.q := rfl
@[simp] theorem State.setLatch_strm_lc (s : State) (f : Latch → Latch) : (s.setLatch f).strm.lc = s.strm.lc := rfl
@[simp] theorem State.setLatch_strm_fcsr (s : State) (f : Latch → Latch) : (s.setLatch f).strm.fcsr = s.strm.fcsr := rfl
@[simp] theorem State.setLatch_strm_cychi (s : State) (f : Latch → Latch) : (s.setLatch f).strm.cychi = s.strm.cychi := rfl
@[simp] theorem State.setLatch_strm_icnt (s : State) (f : Latch → Latch) : (s.setLatch f).strm.icnt = s.strm.icnt := rfl
@[simp] theorem State.setLatch_strm_tagr (s : State) (f : Latch → Latch) : (s.setLatch f).strm.tagr = s.strm.tagr := rfl
@[simp] theorem State.setLatch_strm_slot (s : State) (f : Latch → Latch) : (s.setLatch f).strm.slot = s.strm.slot := rfl
@[simp] theorem State.setLatch_strm_pctl (s : State) (f : Latch → Latch) : (s.setLatch f).strm.pctl = s.strm.pctl := rfl
@[simp] theorem State.setLatch_strm_tcause (s : State) (f : Latch → Latch) : (s.setLatch f).strm.tcause = s.strm.tcause := rfl
@[simp] theorem State.setLatch_strm_tpc (s : State) (f : Latch → Latch) : (s.setLatch f).strm.tpc = s.strm.tpc := rfl
@[simp] theorem State.setLatch_strm_tval (s : State) (f : Latch → Latch) : (s.setLatch f).strm.tval = s.strm.tval := rfl
@[simp] theorem State.setLatch_strm_tinfo (s : State) (f : Latch → Latch) : (s.setLatch f).strm.tinfo = s.strm.tinfo := rfl
@[simp] theorem State.setLatch_strm_handler (s : State) (f : Latch → Latch) : (s.setLatch f).strm.handler = s.strm.handler := rfl
@[simp] theorem State.setLatch_strm_yctl (s : State) (f : Latch → Latch) : (s.setLatch f).strm.yctl = s.strm.yctl := rfl
@[simp] theorem State.setLatch_strm_fwrev (s : State) (f : Latch → Latch) : (s.setLatch f).strm.fwrev = s.strm.fwrev := rfl
@[simp] theorem State.setLatch_strm_fwvd (s : State) (f : Latch → Latch) : (s.setLatch f).strm.fwvd = s.strm.fwvd := rfl
@[simp] theorem State.setLatch_strm_ordinal (s : State) (f : Latch → Latch) : (s.setLatch f).strm.ordinal = s.strm.ordinal := rfl
@[simp] theorem State.setLatch_strm_flight (s : State) (f : Latch → Latch) : (s.setLatch f).strm.flight = s.strm.flight := rfl
@[simp] theorem State.setLatch_strm_landing (s : State) (f : Latch → Latch) : (s.setLatch f).strm.landing = s.strm.landing := rfl
@[simp] theorem State.setLatch_strm_vamo (s : State) (f : Latch → Latch) : (s.setLatch f).strm.vamo = s.strm.vamo := rfl
@[simp] theorem State.setLatch_strm_first (s : State) (f : Latch → Latch) : (s.setLatch f).strm.first = s.strm.first := rfl
@[simp] theorem State.setLatch_strm_tied (s : State) (f : Latch → Latch) : (s.setLatch f).strm.tied = s.strm.tied := rfl
@[simp] theorem State.setLatch_strm_trapDue (s : State) (f : Latch → Latch) : (s.setLatch f).strm.trapDue = s.strm.trapDue := rfl
@[simp] theorem State.setLatch_strm_fresh (s : State) (f : Latch → Latch) : (s.setLatch f).strm.fresh = s.strm.fresh := rfl
@[simp] theorem State.setLatch_strm_endWait (s : State) (f : Latch → Latch) : (s.setLatch f).strm.endWait = s.strm.endWait := rfl
@[simp] theorem State.setLatch_strm_cyc (s : State) (f : Latch → Latch) : (s.setLatch f).strm.cyc = s.strm.cyc := rfl
@[simp] theorem State.setLatch_strm_stall (s : State) (f : Latch → Latch) : (s.setLatch f).strm.stall = s.strm.stall := rfl
@[simp] theorem State.setLatch_strm_hold (s : State) (f : Latch → Latch) : (s.setLatch f).strm.hold = s.strm.hold := rfl
@[simp] theorem State.setLatch_strm_acAt (s : State) (f : Latch → Latch) : (s.setLatch f).strm.acAt = s.strm.acAt := rfl
@[simp] theorem State.setLatch_strm_divAt (s : State) (f : Latch → Latch) : (s.setLatch f).strm.divAt = s.strm.divAt := rfl
@[simp] theorem State.setLatch_strm_vdivAt (s : State) (f : Latch → Latch) : (s.setLatch f).strm.vdivAt = s.strm.vdivAt := rfl
@[simp] theorem State.setLatch_strm_predictor (s : State) (f : Latch → Latch) : (s.setLatch f).strm.predictor = s.strm.predictor := rfl
@[simp] theorem State.setLatch_strm_lost (s : State) (f : Latch → Latch) : (s.setLatch f).strm.lost = s.strm.lost := rfl
@[simp] theorem State.setLatch_strm_rbar (s : State) (f : Latch → Latch) : (s.setLatch f).strm.rbar = s.strm.rbar := rfl
@[simp] theorem State.setLatch_strm_sysf (s : State) (f : Latch → Latch) : (s.setLatch f).strm.sysf = s.strm.sysf := rfl
@[simp] theorem State.setLatch_strm_eng (s : State) (f : Latch → Latch) : (s.setLatch f).strm.eng = s.strm.eng := rfl
@[simp] theorem State.setLatch_strm_upsets (s : State) (f : Latch → Latch) : (s.setLatch f).strm.upsets = s.strm.upsets := rfl
@[simp] theorem State.setLatch_strm_unit (s : State) (f : Latch → Latch) : (s.setLatch f).strm.unit = s.strm.unit := rfl
@[simp] theorem State.setLatch_latch (s : State) (f : Latch → Latch) : (s.setLatch f).strm.latch = f s.strm.latch := rfl
@[simp] theorem State.queues_sid (s : State) (f : Flight) : (s.queues f).sid = s.sid := rfl
@[simp] theorem State.queues_core (s : State) (f : Flight) : (s.queues f).core = s.core := rfl
@[simp] theorem State.queues_streams (s : State) (f : Flight) : (s.queues f).streams = s.streams := rfl
@[simp] theorem State.queues_cores (s : State) (f : Flight) : (s.queues f).cores = s.cores := rfl
@[simp] theorem State.queues_sys (s : State) (f : Flight) : (s.queues f).sys = s.sys := rfl
@[simp] theorem State.queues_agenda (s : State) (f : Flight) : (s.queues f).agenda = s.agenda := rfl
@[simp] theorem State.queues_freeCtr (s : State) (f : Flight) : (s.queues f).freeCtr = s.freeCtr := rfl
@[simp] theorem State.queues_strm_cls (s : State) (f : Flight) : (s.queues f).strm.cls = s.strm.cls := rfl
@[simp] theorem State.queues_strm_run (s : State) (f : Flight) : (s.queues f).strm.run = s.strm.run := rfl
@[simp] theorem State.queues_strm_pos (s : State) (f : Flight) : (s.queues f).strm.pos = s.strm.pos := rfl
@[simp] theorem State.queues_strm_g (s : State) (f : Flight) : (s.queues f).strm.g = s.strm.g := rfl
@[simp] theorem State.queues_strm_gMark (s : State) (f : Flight) : (s.queues f).strm.gMark = s.strm.gMark := rfl
@[simp] theorem State.queues_strm_v (s : State) (f : Flight) : (s.queues f).strm.v = s.strm.v := rfl
@[simp] theorem State.queues_strm_a (s : State) (f : Flight) : (s.queues f).strm.a = s.strm.a := rfl
@[simp] theorem State.queues_strm_p (s : State) (f : Flight) : (s.queues f).strm.p = s.strm.p := rfl
@[simp] theorem State.queues_strm_m (s : State) (f : Flight) : (s.queues f).strm.m = s.strm.m := rfl
@[simp] theorem State.queues_strm_b (s : State) (f : Flight) : (s.queues f).strm.b = s.strm.b := rfl
@[simp] theorem State.queues_strm_q (s : State) (f : Flight) : (s.queues f).strm.q = s.strm.q := rfl
@[simp] theorem State.queues_strm_lc (s : State) (f : Flight) : (s.queues f).strm.lc = s.strm.lc := rfl
@[simp] theorem State.queues_strm_fcsr (s : State) (f : Flight) : (s.queues f).strm.fcsr = s.strm.fcsr := rfl
@[simp] theorem State.queues_strm_cychi (s : State) (f : Flight) : (s.queues f).strm.cychi = s.strm.cychi := rfl
@[simp] theorem State.queues_strm_icnt (s : State) (f : Flight) : (s.queues f).strm.icnt = s.strm.icnt := rfl
@[simp] theorem State.queues_strm_tagr (s : State) (f : Flight) : (s.queues f).strm.tagr = s.strm.tagr := rfl
@[simp] theorem State.queues_strm_slot (s : State) (f : Flight) : (s.queues f).strm.slot = s.strm.slot := rfl
@[simp] theorem State.queues_strm_pctl (s : State) (f : Flight) : (s.queues f).strm.pctl = s.strm.pctl := rfl
@[simp] theorem State.queues_strm_tcause (s : State) (f : Flight) : (s.queues f).strm.tcause = s.strm.tcause := rfl
@[simp] theorem State.queues_strm_tpc (s : State) (f : Flight) : (s.queues f).strm.tpc = s.strm.tpc := rfl
@[simp] theorem State.queues_strm_tval (s : State) (f : Flight) : (s.queues f).strm.tval = s.strm.tval := rfl
@[simp] theorem State.queues_strm_tinfo (s : State) (f : Flight) : (s.queues f).strm.tinfo = s.strm.tinfo := rfl
@[simp] theorem State.queues_strm_handler (s : State) (f : Flight) : (s.queues f).strm.handler = s.strm.handler := rfl
@[simp] theorem State.queues_strm_yctl (s : State) (f : Flight) : (s.queues f).strm.yctl = s.strm.yctl := rfl
@[simp] theorem State.queues_strm_fwrev (s : State) (f : Flight) : (s.queues f).strm.fwrev = s.strm.fwrev := rfl
@[simp] theorem State.queues_strm_fwvd (s : State) (f : Flight) : (s.queues f).strm.fwvd = s.strm.fwvd := rfl
@[simp] theorem State.queues_strm_ordinal (s : State) (f : Flight) : (s.queues f).strm.ordinal = s.strm.ordinal := rfl
@[simp] theorem State.queues_strm_landing (s : State) (f : Flight) : (s.queues f).strm.landing = s.strm.landing := rfl
@[simp] theorem State.queues_strm_vamo (s : State) (f : Flight) : (s.queues f).strm.vamo = s.strm.vamo := rfl
@[simp] theorem State.queues_strm_first (s : State) (f : Flight) : (s.queues f).strm.first = s.strm.first := rfl
@[simp] theorem State.queues_strm_tied (s : State) (f : Flight) : (s.queues f).strm.tied = s.strm.tied := rfl
@[simp] theorem State.queues_strm_trapDue (s : State) (f : Flight) : (s.queues f).strm.trapDue = s.strm.trapDue := rfl
@[simp] theorem State.queues_strm_fresh (s : State) (f : Flight) : (s.queues f).strm.fresh = s.strm.fresh := rfl
@[simp] theorem State.queues_strm_endWait (s : State) (f : Flight) : (s.queues f).strm.endWait = s.strm.endWait := rfl
@[simp] theorem State.queues_strm_cyc (s : State) (f : Flight) : (s.queues f).strm.cyc = s.strm.cyc := rfl
@[simp] theorem State.queues_strm_stall (s : State) (f : Flight) : (s.queues f).strm.stall = s.strm.stall := rfl
@[simp] theorem State.queues_strm_hold (s : State) (f : Flight) : (s.queues f).strm.hold = s.strm.hold := rfl
@[simp] theorem State.queues_strm_acAt (s : State) (f : Flight) : (s.queues f).strm.acAt = s.strm.acAt := rfl
@[simp] theorem State.queues_strm_divAt (s : State) (f : Flight) : (s.queues f).strm.divAt = s.strm.divAt := rfl
@[simp] theorem State.queues_strm_vdivAt (s : State) (f : Flight) : (s.queues f).strm.vdivAt = s.strm.vdivAt := rfl
@[simp] theorem State.queues_strm_predictor (s : State) (f : Flight) : (s.queues f).strm.predictor = s.strm.predictor := rfl
@[simp] theorem State.queues_strm_lost (s : State) (f : Flight) : (s.queues f).strm.lost = s.strm.lost := rfl
@[simp] theorem State.queues_strm_rbar (s : State) (f : Flight) : (s.queues f).strm.rbar = s.strm.rbar := rfl
@[simp] theorem State.queues_strm_sysf (s : State) (f : Flight) : (s.queues f).strm.sysf = s.strm.sysf := rfl
@[simp] theorem State.queues_strm_eng (s : State) (f : Flight) : (s.queues f).strm.eng = s.strm.eng := rfl
@[simp] theorem State.queues_strm_upsets (s : State) (f : Flight) : (s.queues f).strm.upsets = s.strm.upsets := rfl
@[simp] theorem State.queues_strm_unit (s : State) (f : Flight) : (s.queues f).strm.unit = s.strm.unit := rfl
@[simp] theorem State.queues_strm_latch (s : State) (f : Flight) : (s.queues f).strm.latch = s.strm.latch := rfl
@[simp] theorem State.queues_flight (s : State) (f : Flight) : (s.queues f).strm.flight = s.strm.flight ++ [f] := rfl
@[simp] theorem State.spends_sid (s : State) (n : Nat) : (s.spends n).sid = s.sid := rfl
@[simp] theorem State.spends_core (s : State) (n : Nat) : (s.spends n).core = s.core := rfl
@[simp] theorem State.spends_streams (s : State) (n : Nat) : (s.spends n).streams = s.streams := rfl
@[simp] theorem State.spends_cores (s : State) (n : Nat) : (s.spends n).cores = s.cores := rfl
@[simp] theorem State.spends_sys (s : State) (n : Nat) : (s.spends n).sys = s.sys := rfl
@[simp] theorem State.spends_agenda (s : State) (n : Nat) : (s.spends n).agenda = s.agenda := rfl
@[simp] theorem State.spends_freeCtr (s : State) (n : Nat) : (s.spends n).freeCtr = s.freeCtr := rfl
@[simp] theorem State.spends_strm_cls (s : State) (n : Nat) : (s.spends n).strm.cls = s.strm.cls := rfl
@[simp] theorem State.spends_strm_run (s : State) (n : Nat) : (s.spends n).strm.run = s.strm.run := rfl
@[simp] theorem State.spends_strm_pos (s : State) (n : Nat) : (s.spends n).strm.pos = s.strm.pos := rfl
@[simp] theorem State.spends_strm_g (s : State) (n : Nat) : (s.spends n).strm.g = s.strm.g := rfl
@[simp] theorem State.spends_strm_gMark (s : State) (n : Nat) : (s.spends n).strm.gMark = s.strm.gMark := rfl
@[simp] theorem State.spends_strm_v (s : State) (n : Nat) : (s.spends n).strm.v = s.strm.v := rfl
@[simp] theorem State.spends_strm_a (s : State) (n : Nat) : (s.spends n).strm.a = s.strm.a := rfl
@[simp] theorem State.spends_strm_p (s : State) (n : Nat) : (s.spends n).strm.p = s.strm.p := rfl
@[simp] theorem State.spends_strm_m (s : State) (n : Nat) : (s.spends n).strm.m = s.strm.m := rfl
@[simp] theorem State.spends_strm_b (s : State) (n : Nat) : (s.spends n).strm.b = s.strm.b := rfl
@[simp] theorem State.spends_strm_q (s : State) (n : Nat) : (s.spends n).strm.q = s.strm.q := rfl
@[simp] theorem State.spends_strm_lc (s : State) (n : Nat) : (s.spends n).strm.lc = s.strm.lc := rfl
@[simp] theorem State.spends_strm_fcsr (s : State) (n : Nat) : (s.spends n).strm.fcsr = s.strm.fcsr := rfl
@[simp] theorem State.spends_strm_cychi (s : State) (n : Nat) : (s.spends n).strm.cychi = s.strm.cychi := rfl
@[simp] theorem State.spends_strm_icnt (s : State) (n : Nat) : (s.spends n).strm.icnt = s.strm.icnt := rfl
@[simp] theorem State.spends_strm_tagr (s : State) (n : Nat) : (s.spends n).strm.tagr = s.strm.tagr := rfl
@[simp] theorem State.spends_strm_slot (s : State) (n : Nat) : (s.spends n).strm.slot = s.strm.slot := rfl
@[simp] theorem State.spends_strm_pctl (s : State) (n : Nat) : (s.spends n).strm.pctl = s.strm.pctl := rfl
@[simp] theorem State.spends_strm_tcause (s : State) (n : Nat) : (s.spends n).strm.tcause = s.strm.tcause := rfl
@[simp] theorem State.spends_strm_tpc (s : State) (n : Nat) : (s.spends n).strm.tpc = s.strm.tpc := rfl
@[simp] theorem State.spends_strm_tval (s : State) (n : Nat) : (s.spends n).strm.tval = s.strm.tval := rfl
@[simp] theorem State.spends_strm_tinfo (s : State) (n : Nat) : (s.spends n).strm.tinfo = s.strm.tinfo := rfl
@[simp] theorem State.spends_strm_handler (s : State) (n : Nat) : (s.spends n).strm.handler = s.strm.handler := rfl
@[simp] theorem State.spends_strm_yctl (s : State) (n : Nat) : (s.spends n).strm.yctl = s.strm.yctl := rfl
@[simp] theorem State.spends_strm_fwrev (s : State) (n : Nat) : (s.spends n).strm.fwrev = s.strm.fwrev := rfl
@[simp] theorem State.spends_strm_fwvd (s : State) (n : Nat) : (s.spends n).strm.fwvd = s.strm.fwvd := rfl
@[simp] theorem State.spends_strm_ordinal (s : State) (n : Nat) : (s.spends n).strm.ordinal = s.strm.ordinal := rfl
@[simp] theorem State.spends_strm_flight (s : State) (n : Nat) : (s.spends n).strm.flight = s.strm.flight := rfl
@[simp] theorem State.spends_strm_landing (s : State) (n : Nat) : (s.spends n).strm.landing = s.strm.landing := rfl
@[simp] theorem State.spends_strm_vamo (s : State) (n : Nat) : (s.spends n).strm.vamo = s.strm.vamo := rfl
@[simp] theorem State.spends_strm_first (s : State) (n : Nat) : (s.spends n).strm.first = s.strm.first := rfl
@[simp] theorem State.spends_strm_tied (s : State) (n : Nat) : (s.spends n).strm.tied = s.strm.tied := rfl
@[simp] theorem State.spends_strm_trapDue (s : State) (n : Nat) : (s.spends n).strm.trapDue = s.strm.trapDue := rfl
@[simp] theorem State.spends_strm_fresh (s : State) (n : Nat) : (s.spends n).strm.fresh = s.strm.fresh := rfl
@[simp] theorem State.spends_strm_endWait (s : State) (n : Nat) : (s.spends n).strm.endWait = s.strm.endWait := rfl
@[simp] theorem State.spends_strm_cyc (s : State) (n : Nat) : (s.spends n).strm.cyc = s.strm.cyc := rfl
@[simp] theorem State.spends_strm_stall (s : State) (n : Nat) : (s.spends n).strm.stall = s.strm.stall := rfl
@[simp] theorem State.spends_strm_hold (s : State) (n : Nat) : (s.spends n).strm.hold = s.strm.hold := rfl
@[simp] theorem State.spends_strm_acAt (s : State) (n : Nat) : (s.spends n).strm.acAt = s.strm.acAt := rfl
@[simp] theorem State.spends_strm_divAt (s : State) (n : Nat) : (s.spends n).strm.divAt = s.strm.divAt := rfl
@[simp] theorem State.spends_strm_vdivAt (s : State) (n : Nat) : (s.spends n).strm.vdivAt = s.strm.vdivAt := rfl
@[simp] theorem State.spends_strm_predictor (s : State) (n : Nat) : (s.spends n).strm.predictor = s.strm.predictor := rfl
@[simp] theorem State.spends_strm_lost (s : State) (n : Nat) : (s.spends n).strm.lost = s.strm.lost := rfl
@[simp] theorem State.spends_strm_rbar (s : State) (n : Nat) : (s.spends n).strm.rbar = s.strm.rbar := rfl
@[simp] theorem State.spends_strm_sysf (s : State) (n : Nat) : (s.spends n).strm.sysf = s.strm.sysf := rfl
@[simp] theorem State.spends_strm_eng (s : State) (n : Nat) : (s.spends n).strm.eng = s.strm.eng := rfl
@[simp] theorem State.spends_strm_upsets (s : State) (n : Nat) : (s.spends n).strm.upsets = s.strm.upsets := rfl
@[simp] theorem State.spends_strm_unit (s : State) (n : Nat) : (s.spends n).strm.unit = s.strm.unit := rfl
@[simp] theorem State.spends_extra (s : State) (n : Nat) : (s.spends n).strm.latch.extra = max s.strm.latch.extra n := rfl
@[simp] theorem State.resNext_sid (s : State) (d : Dst) (v : Word) : (s.resNext d v).sid = s.sid := rfl
@[simp] theorem State.resNext_core (s : State) (d : Dst) (v : Word) : (s.resNext d v).core = s.core := rfl
@[simp] theorem State.resNext_streams (s : State) (d : Dst) (v : Word) : (s.resNext d v).streams = s.streams := rfl
@[simp] theorem State.resNext_cores (s : State) (d : Dst) (v : Word) : (s.resNext d v).cores = s.cores := rfl
@[simp] theorem State.resNext_sys (s : State) (d : Dst) (v : Word) : (s.resNext d v).sys = s.sys := rfl
@[simp] theorem State.resNext_agenda (s : State) (d : Dst) (v : Word) : (s.resNext d v).agenda = s.agenda := rfl
@[simp] theorem State.resNext_freeCtr (s : State) (d : Dst) (v : Word) : (s.resNext d v).freeCtr = s.freeCtr := rfl
@[simp] theorem State.resNext_strm_cls (s : State) (d : Dst) (v : Word) : (s.resNext d v).strm.cls = s.strm.cls := rfl
@[simp] theorem State.resNext_strm_run (s : State) (d : Dst) (v : Word) : (s.resNext d v).strm.run = s.strm.run := rfl
@[simp] theorem State.resNext_strm_pos (s : State) (d : Dst) (v : Word) : (s.resNext d v).strm.pos = s.strm.pos := rfl
@[simp] theorem State.resNext_strm_g (s : State) (d : Dst) (v : Word) : (s.resNext d v).strm.g = s.strm.g := rfl
@[simp] theorem State.resNext_strm_gMark (s : State) (d : Dst) (v : Word) : (s.resNext d v).strm.gMark = s.strm.gMark := rfl
@[simp] theorem State.resNext_strm_v (s : State) (d : Dst) (v : Word) : (s.resNext d v).strm.v = s.strm.v := rfl
@[simp] theorem State.resNext_strm_a (s : State) (d : Dst) (v : Word) : (s.resNext d v).strm.a = s.strm.a := rfl
@[simp] theorem State.resNext_strm_p (s : State) (d : Dst) (v : Word) : (s.resNext d v).strm.p = s.strm.p := rfl
@[simp] theorem State.resNext_strm_m (s : State) (d : Dst) (v : Word) : (s.resNext d v).strm.m = s.strm.m := rfl
@[simp] theorem State.resNext_strm_b (s : State) (d : Dst) (v : Word) : (s.resNext d v).strm.b = s.strm.b := rfl
@[simp] theorem State.resNext_strm_q (s : State) (d : Dst) (v : Word) : (s.resNext d v).strm.q = s.strm.q := rfl
@[simp] theorem State.resNext_strm_lc (s : State) (d : Dst) (v : Word) : (s.resNext d v).strm.lc = s.strm.lc := rfl
@[simp] theorem State.resNext_strm_fcsr (s : State) (d : Dst) (v : Word) : (s.resNext d v).strm.fcsr = s.strm.fcsr := rfl
@[simp] theorem State.resNext_strm_cychi (s : State) (d : Dst) (v : Word) : (s.resNext d v).strm.cychi = s.strm.cychi := rfl
@[simp] theorem State.resNext_strm_icnt (s : State) (d : Dst) (v : Word) : (s.resNext d v).strm.icnt = s.strm.icnt := rfl
@[simp] theorem State.resNext_strm_tagr (s : State) (d : Dst) (v : Word) : (s.resNext d v).strm.tagr = s.strm.tagr := rfl
@[simp] theorem State.resNext_strm_slot (s : State) (d : Dst) (v : Word) : (s.resNext d v).strm.slot = s.strm.slot := rfl
@[simp] theorem State.resNext_strm_pctl (s : State) (d : Dst) (v : Word) : (s.resNext d v).strm.pctl = s.strm.pctl := rfl
@[simp] theorem State.resNext_strm_tcause (s : State) (d : Dst) (v : Word) : (s.resNext d v).strm.tcause = s.strm.tcause := rfl
@[simp] theorem State.resNext_strm_tpc (s : State) (d : Dst) (v : Word) : (s.resNext d v).strm.tpc = s.strm.tpc := rfl
@[simp] theorem State.resNext_strm_tval (s : State) (d : Dst) (v : Word) : (s.resNext d v).strm.tval = s.strm.tval := rfl
@[simp] theorem State.resNext_strm_tinfo (s : State) (d : Dst) (v : Word) : (s.resNext d v).strm.tinfo = s.strm.tinfo := rfl
@[simp] theorem State.resNext_strm_handler (s : State) (d : Dst) (v : Word) : (s.resNext d v).strm.handler = s.strm.handler := rfl
@[simp] theorem State.resNext_strm_yctl (s : State) (d : Dst) (v : Word) : (s.resNext d v).strm.yctl = s.strm.yctl := rfl
@[simp] theorem State.resNext_strm_fwrev (s : State) (d : Dst) (v : Word) : (s.resNext d v).strm.fwrev = s.strm.fwrev := rfl
@[simp] theorem State.resNext_strm_fwvd (s : State) (d : Dst) (v : Word) : (s.resNext d v).strm.fwvd = s.strm.fwvd := rfl
@[simp] theorem State.resNext_strm_ordinal (s : State) (d : Dst) (v : Word) : (s.resNext d v).strm.ordinal = s.strm.ordinal := rfl
@[simp] theorem State.resNext_strm_landing (s : State) (d : Dst) (v : Word) : (s.resNext d v).strm.landing = s.strm.landing := rfl
@[simp] theorem State.resNext_strm_vamo (s : State) (d : Dst) (v : Word) : (s.resNext d v).strm.vamo = s.strm.vamo := rfl
@[simp] theorem State.resNext_strm_first (s : State) (d : Dst) (v : Word) : (s.resNext d v).strm.first = s.strm.first := rfl
@[simp] theorem State.resNext_strm_tied (s : State) (d : Dst) (v : Word) : (s.resNext d v).strm.tied = s.strm.tied := rfl
@[simp] theorem State.resNext_strm_trapDue (s : State) (d : Dst) (v : Word) : (s.resNext d v).strm.trapDue = s.strm.trapDue := rfl
@[simp] theorem State.resNext_strm_fresh (s : State) (d : Dst) (v : Word) : (s.resNext d v).strm.fresh = s.strm.fresh := rfl
@[simp] theorem State.resNext_strm_endWait (s : State) (d : Dst) (v : Word) : (s.resNext d v).strm.endWait = s.strm.endWait := rfl
@[simp] theorem State.resNext_strm_cyc (s : State) (d : Dst) (v : Word) : (s.resNext d v).strm.cyc = s.strm.cyc := rfl
@[simp] theorem State.resNext_strm_stall (s : State) (d : Dst) (v : Word) : (s.resNext d v).strm.stall = s.strm.stall := rfl
@[simp] theorem State.resNext_strm_hold (s : State) (d : Dst) (v : Word) : (s.resNext d v).strm.hold = s.strm.hold := rfl
@[simp] theorem State.resNext_strm_acAt (s : State) (d : Dst) (v : Word) : (s.resNext d v).strm.acAt = s.strm.acAt := rfl
@[simp] theorem State.resNext_strm_divAt (s : State) (d : Dst) (v : Word) : (s.resNext d v).strm.divAt = s.strm.divAt := rfl
@[simp] theorem State.resNext_strm_vdivAt (s : State) (d : Dst) (v : Word) : (s.resNext d v).strm.vdivAt = s.strm.vdivAt := rfl
@[simp] theorem State.resNext_strm_predictor (s : State) (d : Dst) (v : Word) : (s.resNext d v).strm.predictor = s.strm.predictor := rfl
@[simp] theorem State.resNext_strm_lost (s : State) (d : Dst) (v : Word) : (s.resNext d v).strm.lost = s.strm.lost := rfl
@[simp] theorem State.resNext_strm_rbar (s : State) (d : Dst) (v : Word) : (s.resNext d v).strm.rbar = s.strm.rbar := rfl
@[simp] theorem State.resNext_strm_sysf (s : State) (d : Dst) (v : Word) : (s.resNext d v).strm.sysf = s.strm.sysf := rfl
@[simp] theorem State.resNext_strm_eng (s : State) (d : Dst) (v : Word) : (s.resNext d v).strm.eng = s.strm.eng := rfl
@[simp] theorem State.resNext_strm_upsets (s : State) (d : Dst) (v : Word) : (s.resNext d v).strm.upsets = s.strm.upsets := rfl
@[simp] theorem State.resNext_strm_unit (s : State) (d : Dst) (v : Word) : (s.resNext d v).strm.unit = s.strm.unit := rfl
@[simp] theorem State.resNext_strm_latch (s : State) (d : Dst) (v : Word) : (s.resNext d v).strm.latch = s.strm.latch := rfl
@[simp] theorem State.putQ_sid (s : State) (n : Nat) (q : List QEntry) : (s.putQ n q).sid = s.sid := rfl
@[simp] theorem State.putQ_core (s : State) (n : Nat) (q : List QEntry) : (s.putQ n q).core = s.core := rfl
@[simp] theorem State.putQ_streams (s : State) (n : Nat) (q : List QEntry) : (s.putQ n q).streams = s.streams := rfl
@[simp] theorem State.putQ_cores (s : State) (n : Nat) (q : List QEntry) : (s.putQ n q).cores = s.cores := rfl
@[simp] theorem State.putQ_sys (s : State) (n : Nat) (q : List QEntry) : (s.putQ n q).sys = s.sys := rfl
@[simp] theorem State.putQ_agenda (s : State) (n : Nat) (q : List QEntry) : (s.putQ n q).agenda = s.agenda := rfl
@[simp] theorem State.putQ_freeCtr (s : State) (n : Nat) (q : List QEntry) : (s.putQ n q).freeCtr = s.freeCtr := rfl
@[simp] theorem State.putQ_strm_cls (s : State) (n : Nat) (q : List QEntry) : (s.putQ n q).strm.cls = s.strm.cls := rfl
@[simp] theorem State.putQ_strm_run (s : State) (n : Nat) (q : List QEntry) : (s.putQ n q).strm.run = s.strm.run := rfl
@[simp] theorem State.putQ_strm_pos (s : State) (n : Nat) (q : List QEntry) : (s.putQ n q).strm.pos = s.strm.pos := rfl
@[simp] theorem State.putQ_strm_g (s : State) (n : Nat) (q : List QEntry) : (s.putQ n q).strm.g = s.strm.g := rfl
@[simp] theorem State.putQ_strm_gMark (s : State) (n : Nat) (q : List QEntry) : (s.putQ n q).strm.gMark = s.strm.gMark := rfl
@[simp] theorem State.putQ_strm_v (s : State) (n : Nat) (q : List QEntry) : (s.putQ n q).strm.v = s.strm.v := rfl
@[simp] theorem State.putQ_strm_a (s : State) (n : Nat) (q : List QEntry) : (s.putQ n q).strm.a = s.strm.a := rfl
@[simp] theorem State.putQ_strm_p (s : State) (n : Nat) (q : List QEntry) : (s.putQ n q).strm.p = s.strm.p := rfl
@[simp] theorem State.putQ_strm_m (s : State) (n : Nat) (q : List QEntry) : (s.putQ n q).strm.m = s.strm.m := rfl
@[simp] theorem State.putQ_strm_b (s : State) (n : Nat) (q : List QEntry) : (s.putQ n q).strm.b = s.strm.b := rfl
@[simp] theorem State.putQ_strm_lc (s : State) (n : Nat) (q : List QEntry) : (s.putQ n q).strm.lc = s.strm.lc := rfl
@[simp] theorem State.putQ_strm_fcsr (s : State) (n : Nat) (q : List QEntry) : (s.putQ n q).strm.fcsr = s.strm.fcsr := rfl
@[simp] theorem State.putQ_strm_cychi (s : State) (n : Nat) (q : List QEntry) : (s.putQ n q).strm.cychi = s.strm.cychi := rfl
@[simp] theorem State.putQ_strm_icnt (s : State) (n : Nat) (q : List QEntry) : (s.putQ n q).strm.icnt = s.strm.icnt := rfl
@[simp] theorem State.putQ_strm_tagr (s : State) (n : Nat) (q : List QEntry) : (s.putQ n q).strm.tagr = s.strm.tagr := rfl
@[simp] theorem State.putQ_strm_slot (s : State) (n : Nat) (q : List QEntry) : (s.putQ n q).strm.slot = s.strm.slot := rfl
@[simp] theorem State.putQ_strm_pctl (s : State) (n : Nat) (q : List QEntry) : (s.putQ n q).strm.pctl = s.strm.pctl := rfl
@[simp] theorem State.putQ_strm_tcause (s : State) (n : Nat) (q : List QEntry) : (s.putQ n q).strm.tcause = s.strm.tcause := rfl
@[simp] theorem State.putQ_strm_tpc (s : State) (n : Nat) (q : List QEntry) : (s.putQ n q).strm.tpc = s.strm.tpc := rfl
@[simp] theorem State.putQ_strm_tval (s : State) (n : Nat) (q : List QEntry) : (s.putQ n q).strm.tval = s.strm.tval := rfl
@[simp] theorem State.putQ_strm_tinfo (s : State) (n : Nat) (q : List QEntry) : (s.putQ n q).strm.tinfo = s.strm.tinfo := rfl
@[simp] theorem State.putQ_strm_handler (s : State) (n : Nat) (q : List QEntry) : (s.putQ n q).strm.handler = s.strm.handler := rfl
@[simp] theorem State.putQ_strm_yctl (s : State) (n : Nat) (q : List QEntry) : (s.putQ n q).strm.yctl = s.strm.yctl := rfl
@[simp] theorem State.putQ_strm_fwrev (s : State) (n : Nat) (q : List QEntry) : (s.putQ n q).strm.fwrev = s.strm.fwrev := rfl
@[simp] theorem State.putQ_strm_fwvd (s : State) (n : Nat) (q : List QEntry) : (s.putQ n q).strm.fwvd = s.strm.fwvd := rfl
@[simp] theorem State.putQ_strm_ordinal (s : State) (n : Nat) (q : List QEntry) : (s.putQ n q).strm.ordinal = s.strm.ordinal := rfl
@[simp] theorem State.putQ_strm_flight (s : State) (n : Nat) (q : List QEntry) : (s.putQ n q).strm.flight = s.strm.flight := rfl
@[simp] theorem State.putQ_strm_landing (s : State) (n : Nat) (q : List QEntry) : (s.putQ n q).strm.landing = s.strm.landing := rfl
@[simp] theorem State.putQ_strm_vamo (s : State) (n : Nat) (q : List QEntry) : (s.putQ n q).strm.vamo = s.strm.vamo := rfl
@[simp] theorem State.putQ_strm_first (s : State) (n : Nat) (q : List QEntry) : (s.putQ n q).strm.first = s.strm.first := rfl
@[simp] theorem State.putQ_strm_tied (s : State) (n : Nat) (q : List QEntry) : (s.putQ n q).strm.tied = s.strm.tied := rfl
@[simp] theorem State.putQ_strm_trapDue (s : State) (n : Nat) (q : List QEntry) : (s.putQ n q).strm.trapDue = s.strm.trapDue := rfl
@[simp] theorem State.putQ_strm_fresh (s : State) (n : Nat) (q : List QEntry) : (s.putQ n q).strm.fresh = s.strm.fresh := rfl
@[simp] theorem State.putQ_strm_endWait (s : State) (n : Nat) (q : List QEntry) : (s.putQ n q).strm.endWait = s.strm.endWait := rfl
@[simp] theorem State.putQ_strm_cyc (s : State) (n : Nat) (q : List QEntry) : (s.putQ n q).strm.cyc = s.strm.cyc := rfl
@[simp] theorem State.putQ_strm_stall (s : State) (n : Nat) (q : List QEntry) : (s.putQ n q).strm.stall = s.strm.stall := rfl
@[simp] theorem State.putQ_strm_hold (s : State) (n : Nat) (q : List QEntry) : (s.putQ n q).strm.hold = s.strm.hold := rfl
@[simp] theorem State.putQ_strm_acAt (s : State) (n : Nat) (q : List QEntry) : (s.putQ n q).strm.acAt = s.strm.acAt := rfl
@[simp] theorem State.putQ_strm_divAt (s : State) (n : Nat) (q : List QEntry) : (s.putQ n q).strm.divAt = s.strm.divAt := rfl
@[simp] theorem State.putQ_strm_vdivAt (s : State) (n : Nat) (q : List QEntry) : (s.putQ n q).strm.vdivAt = s.strm.vdivAt := rfl
@[simp] theorem State.putQ_strm_predictor (s : State) (n : Nat) (q : List QEntry) : (s.putQ n q).strm.predictor = s.strm.predictor := rfl
@[simp] theorem State.putQ_strm_lost (s : State) (n : Nat) (q : List QEntry) : (s.putQ n q).strm.lost = s.strm.lost := rfl
@[simp] theorem State.putQ_strm_rbar (s : State) (n : Nat) (q : List QEntry) : (s.putQ n q).strm.rbar = s.strm.rbar := rfl
@[simp] theorem State.putQ_strm_sysf (s : State) (n : Nat) (q : List QEntry) : (s.putQ n q).strm.sysf = s.strm.sysf := rfl
@[simp] theorem State.putQ_strm_eng (s : State) (n : Nat) (q : List QEntry) : (s.putQ n q).strm.eng = s.strm.eng := rfl
@[simp] theorem State.putQ_strm_upsets (s : State) (n : Nat) (q : List QEntry) : (s.putQ n q).strm.upsets = s.strm.upsets := rfl
@[simp] theorem State.putQ_strm_unit (s : State) (n : Nat) (q : List QEntry) : (s.putQ n q).strm.unit = s.strm.unit := rfl
@[simp] theorem State.putQ_strm_latch (s : State) (n : Nat) (q : List QEntry) : (s.putQ n q).strm.latch = s.strm.latch := rfl
@[simp] theorem State.putLc_sid (s : State) (n : Nat) (l : Loop) : (s.putLc n l).sid = s.sid := rfl
@[simp] theorem State.putLc_core (s : State) (n : Nat) (l : Loop) : (s.putLc n l).core = s.core := rfl
@[simp] theorem State.putLc_streams (s : State) (n : Nat) (l : Loop) : (s.putLc n l).streams = s.streams := rfl
@[simp] theorem State.putLc_cores (s : State) (n : Nat) (l : Loop) : (s.putLc n l).cores = s.cores := rfl
@[simp] theorem State.putLc_sys (s : State) (n : Nat) (l : Loop) : (s.putLc n l).sys = s.sys := rfl
@[simp] theorem State.putLc_agenda (s : State) (n : Nat) (l : Loop) : (s.putLc n l).agenda = s.agenda := rfl
@[simp] theorem State.putLc_freeCtr (s : State) (n : Nat) (l : Loop) : (s.putLc n l).freeCtr = s.freeCtr := rfl
@[simp] theorem State.putLc_strm_cls (s : State) (n : Nat) (l : Loop) : (s.putLc n l).strm.cls = s.strm.cls := rfl
@[simp] theorem State.putLc_strm_run (s : State) (n : Nat) (l : Loop) : (s.putLc n l).strm.run = s.strm.run := rfl
@[simp] theorem State.putLc_strm_pos (s : State) (n : Nat) (l : Loop) : (s.putLc n l).strm.pos = s.strm.pos := rfl
@[simp] theorem State.putLc_strm_g (s : State) (n : Nat) (l : Loop) : (s.putLc n l).strm.g = s.strm.g := rfl
@[simp] theorem State.putLc_strm_gMark (s : State) (n : Nat) (l : Loop) : (s.putLc n l).strm.gMark = s.strm.gMark := rfl
@[simp] theorem State.putLc_strm_v (s : State) (n : Nat) (l : Loop) : (s.putLc n l).strm.v = s.strm.v := rfl
@[simp] theorem State.putLc_strm_a (s : State) (n : Nat) (l : Loop) : (s.putLc n l).strm.a = s.strm.a := rfl
@[simp] theorem State.putLc_strm_p (s : State) (n : Nat) (l : Loop) : (s.putLc n l).strm.p = s.strm.p := rfl
@[simp] theorem State.putLc_strm_m (s : State) (n : Nat) (l : Loop) : (s.putLc n l).strm.m = s.strm.m := rfl
@[simp] theorem State.putLc_strm_b (s : State) (n : Nat) (l : Loop) : (s.putLc n l).strm.b = s.strm.b := rfl
@[simp] theorem State.putLc_strm_q (s : State) (n : Nat) (l : Loop) : (s.putLc n l).strm.q = s.strm.q := rfl
@[simp] theorem State.putLc_strm_fcsr (s : State) (n : Nat) (l : Loop) : (s.putLc n l).strm.fcsr = s.strm.fcsr := rfl
@[simp] theorem State.putLc_strm_cychi (s : State) (n : Nat) (l : Loop) : (s.putLc n l).strm.cychi = s.strm.cychi := rfl
@[simp] theorem State.putLc_strm_icnt (s : State) (n : Nat) (l : Loop) : (s.putLc n l).strm.icnt = s.strm.icnt := rfl
@[simp] theorem State.putLc_strm_tagr (s : State) (n : Nat) (l : Loop) : (s.putLc n l).strm.tagr = s.strm.tagr := rfl
@[simp] theorem State.putLc_strm_slot (s : State) (n : Nat) (l : Loop) : (s.putLc n l).strm.slot = s.strm.slot := rfl
@[simp] theorem State.putLc_strm_pctl (s : State) (n : Nat) (l : Loop) : (s.putLc n l).strm.pctl = s.strm.pctl := rfl
@[simp] theorem State.putLc_strm_tcause (s : State) (n : Nat) (l : Loop) : (s.putLc n l).strm.tcause = s.strm.tcause := rfl
@[simp] theorem State.putLc_strm_tpc (s : State) (n : Nat) (l : Loop) : (s.putLc n l).strm.tpc = s.strm.tpc := rfl
@[simp] theorem State.putLc_strm_tval (s : State) (n : Nat) (l : Loop) : (s.putLc n l).strm.tval = s.strm.tval := rfl
@[simp] theorem State.putLc_strm_tinfo (s : State) (n : Nat) (l : Loop) : (s.putLc n l).strm.tinfo = s.strm.tinfo := rfl
@[simp] theorem State.putLc_strm_handler (s : State) (n : Nat) (l : Loop) : (s.putLc n l).strm.handler = s.strm.handler := rfl
@[simp] theorem State.putLc_strm_yctl (s : State) (n : Nat) (l : Loop) : (s.putLc n l).strm.yctl = s.strm.yctl := rfl
@[simp] theorem State.putLc_strm_fwrev (s : State) (n : Nat) (l : Loop) : (s.putLc n l).strm.fwrev = s.strm.fwrev := rfl
@[simp] theorem State.putLc_strm_fwvd (s : State) (n : Nat) (l : Loop) : (s.putLc n l).strm.fwvd = s.strm.fwvd := rfl
@[simp] theorem State.putLc_strm_ordinal (s : State) (n : Nat) (l : Loop) : (s.putLc n l).strm.ordinal = s.strm.ordinal := rfl
@[simp] theorem State.putLc_strm_flight (s : State) (n : Nat) (l : Loop) : (s.putLc n l).strm.flight = s.strm.flight := rfl
@[simp] theorem State.putLc_strm_landing (s : State) (n : Nat) (l : Loop) : (s.putLc n l).strm.landing = s.strm.landing := rfl
@[simp] theorem State.putLc_strm_vamo (s : State) (n : Nat) (l : Loop) : (s.putLc n l).strm.vamo = s.strm.vamo := rfl
@[simp] theorem State.putLc_strm_first (s : State) (n : Nat) (l : Loop) : (s.putLc n l).strm.first = s.strm.first := rfl
@[simp] theorem State.putLc_strm_tied (s : State) (n : Nat) (l : Loop) : (s.putLc n l).strm.tied = s.strm.tied := rfl
@[simp] theorem State.putLc_strm_trapDue (s : State) (n : Nat) (l : Loop) : (s.putLc n l).strm.trapDue = s.strm.trapDue := rfl
@[simp] theorem State.putLc_strm_fresh (s : State) (n : Nat) (l : Loop) : (s.putLc n l).strm.fresh = s.strm.fresh := rfl
@[simp] theorem State.putLc_strm_endWait (s : State) (n : Nat) (l : Loop) : (s.putLc n l).strm.endWait = s.strm.endWait := rfl
@[simp] theorem State.putLc_strm_cyc (s : State) (n : Nat) (l : Loop) : (s.putLc n l).strm.cyc = s.strm.cyc := rfl
@[simp] theorem State.putLc_strm_stall (s : State) (n : Nat) (l : Loop) : (s.putLc n l).strm.stall = s.strm.stall := rfl
@[simp] theorem State.putLc_strm_hold (s : State) (n : Nat) (l : Loop) : (s.putLc n l).strm.hold = s.strm.hold := rfl
@[simp] theorem State.putLc_strm_acAt (s : State) (n : Nat) (l : Loop) : (s.putLc n l).strm.acAt = s.strm.acAt := rfl
@[simp] theorem State.putLc_strm_divAt (s : State) (n : Nat) (l : Loop) : (s.putLc n l).strm.divAt = s.strm.divAt := rfl
@[simp] theorem State.putLc_strm_vdivAt (s : State) (n : Nat) (l : Loop) : (s.putLc n l).strm.vdivAt = s.strm.vdivAt := rfl
@[simp] theorem State.putLc_strm_predictor (s : State) (n : Nat) (l : Loop) : (s.putLc n l).strm.predictor = s.strm.predictor := rfl
@[simp] theorem State.putLc_strm_lost (s : State) (n : Nat) (l : Loop) : (s.putLc n l).strm.lost = s.strm.lost := rfl
@[simp] theorem State.putLc_strm_rbar (s : State) (n : Nat) (l : Loop) : (s.putLc n l).strm.rbar = s.strm.rbar := rfl
@[simp] theorem State.putLc_strm_sysf (s : State) (n : Nat) (l : Loop) : (s.putLc n l).strm.sysf = s.strm.sysf := rfl
@[simp] theorem State.putLc_strm_eng (s : State) (n : Nat) (l : Loop) : (s.putLc n l).strm.eng = s.strm.eng := rfl
@[simp] theorem State.putLc_strm_upsets (s : State) (n : Nat) (l : Loop) : (s.putLc n l).strm.upsets = s.strm.upsets := rfl
@[simp] theorem State.putLc_strm_unit (s : State) (n : Nat) (l : Loop) : (s.putLc n l).strm.unit = s.strm.unit := rfl
@[simp] theorem State.putLc_strm_latch (s : State) (n : Nat) (l : Loop) : (s.putLc n l).strm.latch = s.strm.latch := rfl
@[simp] theorem State.setEng_sid (s : State) (f : Engine → Engine) : (s.setEng f).sid = s.sid := rfl
@[simp] theorem State.setEng_core (s : State) (f : Engine → Engine) : (s.setEng f).core = s.core := rfl
@[simp] theorem State.setEng_streams (s : State) (f : Engine → Engine) : (s.setEng f).streams = s.streams := rfl
@[simp] theorem State.setEng_cores (s : State) (f : Engine → Engine) : (s.setEng f).cores = s.cores := rfl
@[simp] theorem State.setEng_sys (s : State) (f : Engine → Engine) : (s.setEng f).sys = s.sys := rfl
@[simp] theorem State.setEng_agenda (s : State) (f : Engine → Engine) : (s.setEng f).agenda = s.agenda := rfl
@[simp] theorem State.setEng_freeCtr (s : State) (f : Engine → Engine) : (s.setEng f).freeCtr = s.freeCtr := rfl
@[simp] theorem State.setEng_strm_cls (s : State) (f : Engine → Engine) : (s.setEng f).strm.cls = s.strm.cls := rfl
@[simp] theorem State.setEng_strm_run (s : State) (f : Engine → Engine) : (s.setEng f).strm.run = s.strm.run := rfl
@[simp] theorem State.setEng_strm_pos (s : State) (f : Engine → Engine) : (s.setEng f).strm.pos = s.strm.pos := rfl
@[simp] theorem State.setEng_strm_g (s : State) (f : Engine → Engine) : (s.setEng f).strm.g = s.strm.g := rfl
@[simp] theorem State.setEng_strm_gMark (s : State) (f : Engine → Engine) : (s.setEng f).strm.gMark = s.strm.gMark := rfl
@[simp] theorem State.setEng_strm_v (s : State) (f : Engine → Engine) : (s.setEng f).strm.v = s.strm.v := rfl
@[simp] theorem State.setEng_strm_a (s : State) (f : Engine → Engine) : (s.setEng f).strm.a = s.strm.a := rfl
@[simp] theorem State.setEng_strm_p (s : State) (f : Engine → Engine) : (s.setEng f).strm.p = s.strm.p := rfl
@[simp] theorem State.setEng_strm_m (s : State) (f : Engine → Engine) : (s.setEng f).strm.m = s.strm.m := rfl
@[simp] theorem State.setEng_strm_b (s : State) (f : Engine → Engine) : (s.setEng f).strm.b = s.strm.b := rfl
@[simp] theorem State.setEng_strm_q (s : State) (f : Engine → Engine) : (s.setEng f).strm.q = s.strm.q := rfl
@[simp] theorem State.setEng_strm_lc (s : State) (f : Engine → Engine) : (s.setEng f).strm.lc = s.strm.lc := rfl
@[simp] theorem State.setEng_strm_fcsr (s : State) (f : Engine → Engine) : (s.setEng f).strm.fcsr = s.strm.fcsr := rfl
@[simp] theorem State.setEng_strm_cychi (s : State) (f : Engine → Engine) : (s.setEng f).strm.cychi = s.strm.cychi := rfl
@[simp] theorem State.setEng_strm_icnt (s : State) (f : Engine → Engine) : (s.setEng f).strm.icnt = s.strm.icnt := rfl
@[simp] theorem State.setEng_strm_tagr (s : State) (f : Engine → Engine) : (s.setEng f).strm.tagr = s.strm.tagr := rfl
@[simp] theorem State.setEng_strm_slot (s : State) (f : Engine → Engine) : (s.setEng f).strm.slot = s.strm.slot := rfl
@[simp] theorem State.setEng_strm_pctl (s : State) (f : Engine → Engine) : (s.setEng f).strm.pctl = s.strm.pctl := rfl
@[simp] theorem State.setEng_strm_tcause (s : State) (f : Engine → Engine) : (s.setEng f).strm.tcause = s.strm.tcause := rfl
@[simp] theorem State.setEng_strm_tpc (s : State) (f : Engine → Engine) : (s.setEng f).strm.tpc = s.strm.tpc := rfl
@[simp] theorem State.setEng_strm_tval (s : State) (f : Engine → Engine) : (s.setEng f).strm.tval = s.strm.tval := rfl
@[simp] theorem State.setEng_strm_tinfo (s : State) (f : Engine → Engine) : (s.setEng f).strm.tinfo = s.strm.tinfo := rfl
@[simp] theorem State.setEng_strm_handler (s : State) (f : Engine → Engine) : (s.setEng f).strm.handler = s.strm.handler := rfl
@[simp] theorem State.setEng_strm_yctl (s : State) (f : Engine → Engine) : (s.setEng f).strm.yctl = s.strm.yctl := rfl
@[simp] theorem State.setEng_strm_fwrev (s : State) (f : Engine → Engine) : (s.setEng f).strm.fwrev = s.strm.fwrev := rfl
@[simp] theorem State.setEng_strm_fwvd (s : State) (f : Engine → Engine) : (s.setEng f).strm.fwvd = s.strm.fwvd := rfl
@[simp] theorem State.setEng_strm_ordinal (s : State) (f : Engine → Engine) : (s.setEng f).strm.ordinal = s.strm.ordinal := rfl
@[simp] theorem State.setEng_strm_flight (s : State) (f : Engine → Engine) : (s.setEng f).strm.flight = s.strm.flight := rfl
@[simp] theorem State.setEng_strm_landing (s : State) (f : Engine → Engine) : (s.setEng f).strm.landing = s.strm.landing := rfl
@[simp] theorem State.setEng_strm_vamo (s : State) (f : Engine → Engine) : (s.setEng f).strm.vamo = s.strm.vamo := rfl
@[simp] theorem State.setEng_strm_first (s : State) (f : Engine → Engine) : (s.setEng f).strm.first = s.strm.first := rfl
@[simp] theorem State.setEng_strm_tied (s : State) (f : Engine → Engine) : (s.setEng f).strm.tied = s.strm.tied := rfl
@[simp] theorem State.setEng_strm_trapDue (s : State) (f : Engine → Engine) : (s.setEng f).strm.trapDue = s.strm.trapDue := rfl
@[simp] theorem State.setEng_strm_fresh (s : State) (f : Engine → Engine) : (s.setEng f).strm.fresh = s.strm.fresh := rfl
@[simp] theorem State.setEng_strm_endWait (s : State) (f : Engine → Engine) : (s.setEng f).strm.endWait = s.strm.endWait := rfl
@[simp] theorem State.setEng_strm_cyc (s : State) (f : Engine → Engine) : (s.setEng f).strm.cyc = s.strm.cyc := rfl
@[simp] theorem State.setEng_strm_stall (s : State) (f : Engine → Engine) : (s.setEng f).strm.stall = s.strm.stall := rfl
@[simp] theorem State.setEng_strm_hold (s : State) (f : Engine → Engine) : (s.setEng f).strm.hold = s.strm.hold := rfl
@[simp] theorem State.setEng_strm_acAt (s : State) (f : Engine → Engine) : (s.setEng f).strm.acAt = s.strm.acAt := rfl
@[simp] theorem State.setEng_strm_divAt (s : State) (f : Engine → Engine) : (s.setEng f).strm.divAt = s.strm.divAt := rfl
@[simp] theorem State.setEng_strm_vdivAt (s : State) (f : Engine → Engine) : (s.setEng f).strm.vdivAt = s.strm.vdivAt := rfl
@[simp] theorem State.setEng_strm_predictor (s : State) (f : Engine → Engine) : (s.setEng f).strm.predictor = s.strm.predictor := rfl
@[simp] theorem State.setEng_strm_lost (s : State) (f : Engine → Engine) : (s.setEng f).strm.lost = s.strm.lost := rfl
@[simp] theorem State.setEng_strm_rbar (s : State) (f : Engine → Engine) : (s.setEng f).strm.rbar = s.strm.rbar := rfl
@[simp] theorem State.setEng_strm_sysf (s : State) (f : Engine → Engine) : (s.setEng f).strm.sysf = s.strm.sysf := rfl
@[simp] theorem State.setEng_strm_upsets (s : State) (f : Engine → Engine) : (s.setEng f).strm.upsets = s.strm.upsets := rfl
@[simp] theorem State.setEng_strm_unit (s : State) (f : Engine → Engine) : (s.setEng f).strm.unit = s.strm.unit := rfl
@[simp] theorem State.setEng_strm_latch (s : State) (f : Engine → Engine) : (s.setEng f).strm.latch = s.strm.latch := rfl
@[simp] theorem State.setEng_eng (s : State) (f : Engine → Engine) : (s.setEng f).strm.eng = f s.strm.eng := rfl
@[simp] theorem State.setHbm_sid (s : State) (m : Memory) : (s.setHbm m).sid = s.sid := rfl
@[simp] theorem State.setHbm_strm (s : State) (m : Memory) : (s.setHbm m).strm = s.strm := rfl
@[simp] theorem State.setHbm_core (s : State) (m : Memory) : (s.setHbm m).core = s.core := rfl
@[simp] theorem State.setHbm_streams (s : State) (m : Memory) : (s.setHbm m).streams = s.streams := rfl
@[simp] theorem State.setHbm_cores (s : State) (m : Memory) : (s.setHbm m).cores = s.cores := rfl
@[simp] theorem State.setHbm_agenda (s : State) (m : Memory) : (s.setHbm m).agenda = s.agenda := rfl
@[simp] theorem State.setHbm_freeCtr (s : State) (m : Memory) : (s.setHbm m).freeCtr = s.freeCtr := rfl
@[simp] theorem State.setHbm_sys_hbmPoison (s : State) (m : Memory) : (s.setHbm m).sys.hbmPoison = s.sys.hbmPoison := rfl
@[simp] theorem State.setHbm_sys_host (s : State) (m : Memory) : (s.setHbm m).sys.host = s.sys.host := rfl
@[simp] theorem State.setHbm_sys_dies (s : State) (m : Memory) : (s.setHbm m).sys.dies = s.sys.dies := rfl
@[simp] theorem State.setHbm_sys_pkgs (s : State) (m : Memory) : (s.setHbm m).sys.pkgs = s.sys.pkgs := rfl
@[simp] theorem State.setHbm_sys_launches (s : State) (m : Memory) : (s.setHbm m).sys.launches = s.sys.launches := rfl
@[simp] theorem State.setHbm_sys_images (s : State) (m : Memory) : (s.setHbm m).sys.images = s.sys.images := rfl
@[simp] theorem State.setHbm_sys_msgs (s : State) (m : Memory) : (s.setHbm m).sys.msgs = s.sys.msgs := rfl
@[simp] theorem State.setHbm_sys_reqs (s : State) (m : Memory) : (s.setHbm m).sys.reqs = s.sys.reqs := rfl
@[simp] theorem State.setHbm_sys_reqId (s : State) (m : Memory) : (s.setHbm m).sys.reqId = s.sys.reqId := rfl
@[simp] theorem State.setHbm_sys_sherds (s : State) (m : Memory) : (s.setHbm m).sys.sherds = s.sys.sherds := rfl
@[simp] theorem State.setHbm_sys_dc (s : State) (m : Memory) : (s.setHbm m).sys.dc = s.sys.dc := rfl
@[simp] theorem State.setHbm_sys_purges (s : State) (m : Memory) : (s.setHbm m).sys.purges = s.sys.purges := rfl
@[simp] theorem State.setHbm_sys_ptwBusy (s : State) (m : Memory) : (s.setHbm m).sys.ptwBusy = s.sys.ptwBusy := rfl
@[simp] theorem State.setHbm_sys_parityOut (s : State) (m : Memory) : (s.setHbm m).sys.parityOut = s.sys.parityOut := rfl
@[simp] theorem State.setHbm_sys_planes (s : State) (m : Memory) : (s.setHbm m).sys.planes = s.sys.planes := rfl
@[simp] theorem State.setHbm_sys_wiring (s : State) (m : Memory) : (s.setHbm m).sys.wiring = s.sys.wiring := rfl
@[simp] theorem State.setHbm_hbm (s : State) (m : Memory) : (s.setHbm m).sys.hbm = m := rfl
@[simp] theorem State.putDie_sid (s : State) (r : Nat) (d : Die) : (s.putDie r d).sid = s.sid := rfl
@[simp] theorem State.putDie_strm (s : State) (r : Nat) (d : Die) : (s.putDie r d).strm = s.strm := rfl
@[simp] theorem State.putDie_core (s : State) (r : Nat) (d : Die) : (s.putDie r d).core = s.core := rfl
@[simp] theorem State.putDie_streams (s : State) (r : Nat) (d : Die) : (s.putDie r d).streams = s.streams := rfl
@[simp] theorem State.putDie_cores (s : State) (r : Nat) (d : Die) : (s.putDie r d).cores = s.cores := rfl
@[simp] theorem State.putDie_agenda (s : State) (r : Nat) (d : Die) : (s.putDie r d).agenda = s.agenda := rfl
@[simp] theorem State.putDie_freeCtr (s : State) (r : Nat) (d : Die) : (s.putDie r d).freeCtr = s.freeCtr := rfl
@[simp] theorem State.putDie_sys_hbm (s : State) (r : Nat) (d : Die) : (s.putDie r d).sys.hbm = s.sys.hbm := rfl
@[simp] theorem State.putDie_sys_hbmPoison (s : State) (r : Nat) (d : Die) : (s.putDie r d).sys.hbmPoison = s.sys.hbmPoison := rfl
@[simp] theorem State.putDie_sys_host (s : State) (r : Nat) (d : Die) : (s.putDie r d).sys.host = s.sys.host := rfl
@[simp] theorem State.putDie_sys_pkgs (s : State) (r : Nat) (d : Die) : (s.putDie r d).sys.pkgs = s.sys.pkgs := rfl
@[simp] theorem State.putDie_sys_launches (s : State) (r : Nat) (d : Die) : (s.putDie r d).sys.launches = s.sys.launches := rfl
@[simp] theorem State.putDie_sys_images (s : State) (r : Nat) (d : Die) : (s.putDie r d).sys.images = s.sys.images := rfl
@[simp] theorem State.putDie_sys_msgs (s : State) (r : Nat) (d : Die) : (s.putDie r d).sys.msgs = s.sys.msgs := rfl
@[simp] theorem State.putDie_sys_reqs (s : State) (r : Nat) (d : Die) : (s.putDie r d).sys.reqs = s.sys.reqs := rfl
@[simp] theorem State.putDie_sys_reqId (s : State) (r : Nat) (d : Die) : (s.putDie r d).sys.reqId = s.sys.reqId := rfl
@[simp] theorem State.putDie_sys_sherds (s : State) (r : Nat) (d : Die) : (s.putDie r d).sys.sherds = s.sys.sherds := rfl
@[simp] theorem State.putDie_sys_dc (s : State) (r : Nat) (d : Die) : (s.putDie r d).sys.dc = s.sys.dc := rfl
@[simp] theorem State.putDie_sys_purges (s : State) (r : Nat) (d : Die) : (s.putDie r d).sys.purges = s.sys.purges := rfl
@[simp] theorem State.putDie_sys_ptwBusy (s : State) (r : Nat) (d : Die) : (s.putDie r d).sys.ptwBusy = s.sys.ptwBusy := rfl
@[simp] theorem State.putDie_sys_parityOut (s : State) (r : Nat) (d : Die) : (s.putDie r d).sys.parityOut = s.sys.parityOut := rfl
@[simp] theorem State.putDie_sys_planes (s : State) (r : Nat) (d : Die) : (s.putDie r d).sys.planes = s.sys.planes := rfl
@[simp] theorem State.putDie_sys_wiring (s : State) (r : Nat) (d : Die) : (s.putDie r d).sys.wiring = s.sys.wiring := rfl
@[simp] theorem State.putPkg_sid (s : State) (p : Nat) (x : Pkg) : (s.putPkg p x).sid = s.sid := rfl
@[simp] theorem State.putPkg_strm (s : State) (p : Nat) (x : Pkg) : (s.putPkg p x).strm = s.strm := rfl
@[simp] theorem State.putPkg_core (s : State) (p : Nat) (x : Pkg) : (s.putPkg p x).core = s.core := rfl
@[simp] theorem State.putPkg_streams (s : State) (p : Nat) (x : Pkg) : (s.putPkg p x).streams = s.streams := rfl
@[simp] theorem State.putPkg_cores (s : State) (p : Nat) (x : Pkg) : (s.putPkg p x).cores = s.cores := rfl
@[simp] theorem State.putPkg_agenda (s : State) (p : Nat) (x : Pkg) : (s.putPkg p x).agenda = s.agenda := rfl
@[simp] theorem State.putPkg_freeCtr (s : State) (p : Nat) (x : Pkg) : (s.putPkg p x).freeCtr = s.freeCtr := rfl
@[simp] theorem State.putPkg_sys_hbm (s : State) (p : Nat) (x : Pkg) : (s.putPkg p x).sys.hbm = s.sys.hbm := rfl
@[simp] theorem State.putPkg_sys_hbmPoison (s : State) (p : Nat) (x : Pkg) : (s.putPkg p x).sys.hbmPoison = s.sys.hbmPoison := rfl
@[simp] theorem State.putPkg_sys_host (s : State) (p : Nat) (x : Pkg) : (s.putPkg p x).sys.host = s.sys.host := rfl
@[simp] theorem State.putPkg_sys_dies (s : State) (p : Nat) (x : Pkg) : (s.putPkg p x).sys.dies = s.sys.dies := rfl
@[simp] theorem State.putPkg_sys_launches (s : State) (p : Nat) (x : Pkg) : (s.putPkg p x).sys.launches = s.sys.launches := rfl
@[simp] theorem State.putPkg_sys_images (s : State) (p : Nat) (x : Pkg) : (s.putPkg p x).sys.images = s.sys.images := rfl
@[simp] theorem State.putPkg_sys_msgs (s : State) (p : Nat) (x : Pkg) : (s.putPkg p x).sys.msgs = s.sys.msgs := rfl
@[simp] theorem State.putPkg_sys_reqs (s : State) (p : Nat) (x : Pkg) : (s.putPkg p x).sys.reqs = s.sys.reqs := rfl
@[simp] theorem State.putPkg_sys_reqId (s : State) (p : Nat) (x : Pkg) : (s.putPkg p x).sys.reqId = s.sys.reqId := rfl
@[simp] theorem State.putPkg_sys_sherds (s : State) (p : Nat) (x : Pkg) : (s.putPkg p x).sys.sherds = s.sys.sherds := rfl
@[simp] theorem State.putPkg_sys_dc (s : State) (p : Nat) (x : Pkg) : (s.putPkg p x).sys.dc = s.sys.dc := rfl
@[simp] theorem State.putPkg_sys_purges (s : State) (p : Nat) (x : Pkg) : (s.putPkg p x).sys.purges = s.sys.purges := rfl
@[simp] theorem State.putPkg_sys_ptwBusy (s : State) (p : Nat) (x : Pkg) : (s.putPkg p x).sys.ptwBusy = s.sys.ptwBusy := rfl
@[simp] theorem State.putPkg_sys_parityOut (s : State) (p : Nat) (x : Pkg) : (s.putPkg p x).sys.parityOut = s.sys.parityOut := rfl
@[simp] theorem State.putPkg_sys_planes (s : State) (p : Nat) (x : Pkg) : (s.putPkg p x).sys.planes = s.sys.planes := rfl
@[simp] theorem State.putPkg_sys_wiring (s : State) (p : Nat) (x : Pkg) : (s.putPkg p x).sys.wiring = s.sys.wiring := rfl
@[simp] theorem State.putLaunch_sid (s : State) (l : Nat) (x : Option Launch) : (s.putLaunch l x).sid = s.sid := rfl
@[simp] theorem State.putLaunch_strm (s : State) (l : Nat) (x : Option Launch) : (s.putLaunch l x).strm = s.strm := rfl
@[simp] theorem State.putLaunch_core (s : State) (l : Nat) (x : Option Launch) : (s.putLaunch l x).core = s.core := rfl
@[simp] theorem State.putLaunch_streams (s : State) (l : Nat) (x : Option Launch) : (s.putLaunch l x).streams = s.streams := rfl
@[simp] theorem State.putLaunch_cores (s : State) (l : Nat) (x : Option Launch) : (s.putLaunch l x).cores = s.cores := rfl
@[simp] theorem State.putLaunch_agenda (s : State) (l : Nat) (x : Option Launch) : (s.putLaunch l x).agenda = s.agenda := rfl
@[simp] theorem State.putLaunch_freeCtr (s : State) (l : Nat) (x : Option Launch) : (s.putLaunch l x).freeCtr = s.freeCtr := rfl
@[simp] theorem State.putLaunch_sys_hbm (s : State) (l : Nat) (x : Option Launch) : (s.putLaunch l x).sys.hbm = s.sys.hbm := rfl
@[simp] theorem State.putLaunch_sys_hbmPoison (s : State) (l : Nat) (x : Option Launch) : (s.putLaunch l x).sys.hbmPoison = s.sys.hbmPoison := rfl
@[simp] theorem State.putLaunch_sys_host (s : State) (l : Nat) (x : Option Launch) : (s.putLaunch l x).sys.host = s.sys.host := rfl
@[simp] theorem State.putLaunch_sys_dies (s : State) (l : Nat) (x : Option Launch) : (s.putLaunch l x).sys.dies = s.sys.dies := rfl
@[simp] theorem State.putLaunch_sys_pkgs (s : State) (l : Nat) (x : Option Launch) : (s.putLaunch l x).sys.pkgs = s.sys.pkgs := rfl
@[simp] theorem State.putLaunch_sys_images (s : State) (l : Nat) (x : Option Launch) : (s.putLaunch l x).sys.images = s.sys.images := rfl
@[simp] theorem State.putLaunch_sys_msgs (s : State) (l : Nat) (x : Option Launch) : (s.putLaunch l x).sys.msgs = s.sys.msgs := rfl
@[simp] theorem State.putLaunch_sys_reqs (s : State) (l : Nat) (x : Option Launch) : (s.putLaunch l x).sys.reqs = s.sys.reqs := rfl
@[simp] theorem State.putLaunch_sys_reqId (s : State) (l : Nat) (x : Option Launch) : (s.putLaunch l x).sys.reqId = s.sys.reqId := rfl
@[simp] theorem State.putLaunch_sys_sherds (s : State) (l : Nat) (x : Option Launch) : (s.putLaunch l x).sys.sherds = s.sys.sherds := rfl
@[simp] theorem State.putLaunch_sys_dc (s : State) (l : Nat) (x : Option Launch) : (s.putLaunch l x).sys.dc = s.sys.dc := rfl
@[simp] theorem State.putLaunch_sys_purges (s : State) (l : Nat) (x : Option Launch) : (s.putLaunch l x).sys.purges = s.sys.purges := rfl
@[simp] theorem State.putLaunch_sys_ptwBusy (s : State) (l : Nat) (x : Option Launch) : (s.putLaunch l x).sys.ptwBusy = s.sys.ptwBusy := rfl
@[simp] theorem State.putLaunch_sys_parityOut (s : State) (l : Nat) (x : Option Launch) : (s.putLaunch l x).sys.parityOut = s.sys.parityOut := rfl
@[simp] theorem State.putLaunch_sys_planes (s : State) (l : Nat) (x : Option Launch) : (s.putLaunch l x).sys.planes = s.sys.planes := rfl
@[simp] theorem State.putLaunch_sys_wiring (s : State) (l : Nat) (x : Option Launch) : (s.putLaunch l x).sys.wiring = s.sys.wiring := rfl
@[simp] theorem Core.setRing_launch (c : Core) (k : Nat) (r : Ring) : (c.setRing k r).launch = c.launch := rfl
@[simp] theorem Core.setRing_lcore (c : Core) (k : Nat) (r : Ring) : (c.setRing k r).lcore = c.lcore := rfl
@[simp] theorem Core.setRing_pool (c : Core) (k : Nat) (r : Ring) : (c.setRing k r).pool = c.pool := rfl
@[simp] theorem Core.setRing_ac (c : Core) (k : Nat) (r : Ring) : (c.setRing k r).ac = c.ac := rfl
@[simp] theorem Core.setRing_loc (c : Core) (k : Nat) (r : Ring) : (c.setRing k r).loc = c.loc := rfl
@[simp] theorem Core.setRing_feEmpty (c : Core) (k : Nat) (r : Ring) : (c.setRing k r).feEmpty = c.feEmpty := rfl
@[simp] theorem Core.setRing_poison (c : Core) (k : Nat) (r : Ring) : (c.setRing k r).poison = c.poison := rfl
@[simp] theorem Core.setRing_code (c : Core) (k : Nat) (r : Ring) : (c.setRing k r).code = c.code := rfl
@[simp] theorem Core.setRing_codeLen (c : Core) (k : Nat) (r : Ring) : (c.setRing k r).codeLen = c.codeLen := rfl
@[simp] theorem Core.setRing_fwCode (c : Core) (k : Nat) (r : Ring) : (c.setRing k r).fwCode = c.fwCode := rfl
@[simp] theorem Core.setRing_fwLen (c : Core) (k : Nat) (r : Ring) : (c.setRing k r).fwLen = c.fwLen := rfl
@[simp] theorem Core.setRing_cones (c : Core) (k : Nat) (r : Ring) : (c.setRing k r).cones = c.cones := rfl
@[simp] theorem Core.setRing_conePend (c : Core) (k : Nat) (r : Ring) : (c.setRing k r).conePend = c.conePend := rfl
@[simp] theorem Core.setRing_deferred (c : Core) (k : Nat) (r : Ring) : (c.setRing k r).deferred = c.deferred := rfl
@[simp] theorem Core.setRing_tags (c : Core) (k : Nat) (r : Ring) : (c.setRing k r).tags = c.tags := rfl
@[simp] theorem Core.setRing_tagSet (c : Core) (k : Nat) (r : Ring) : (c.setRing k r).tagSet = c.tagSet := rfl
@[simp] theorem Core.setRing_tagClr (c : Core) (k : Nat) (r : Ring) : (c.setRing k r).tagClr = c.tagClr := rfl
@[simp] theorem Core.setRing_notify (c : Core) (k : Nat) (r : Ring) : (c.setRing k r).notify = c.notify := rfl
@[simp] theorem Core.setRing_notifyOr (c : Core) (k : Nat) (r : Ring) : (c.setRing k r).notifyOr = c.notifyOr := rfl
@[simp] theorem Core.setRing_latches (c : Core) (k : Nat) (r : Ring) : (c.setRing k r).latches = c.latches := rfl
@[simp] theorem Core.setRing_bankLast (c : Core) (k : Nat) (r : Ring) : (c.setRing k r).bankLast = c.bankLast := rfl
@[simp] theorem Core.setRing_waitnLast (c : Core) (k : Nat) (r : Ring) : (c.setRing k r).waitnLast = c.waitnLast := rfl
@[simp] theorem Core.setRing_gated (c : Core) (k : Nat) (r : Ring) : (c.setRing k r).gated = c.gated := rfl
@[simp] theorem Core.setRing_frames (c : Core) (k : Nat) (r : Ring) : (c.setRing k r).frames = c.frames := rfl
@[simp] theorem Core.setRing_window (c : Core) (k : Nat) (r : Ring) : (c.setRing k r).window = c.window := rfl
@[simp] theorem Core.setRing_kseq (c : Core) (k : Nat) (r : Ring) : (c.setRing k r).kseq = c.kseq := rfl
@[simp] theorem Core.setRing_age (c : Core) (k : Nat) (r : Ring) : (c.setRing k r).age = c.age := rfl
@[simp] theorem Core.setRing_occSeen (c : Core) (k : Nat) (r : Ring) : (c.setRing k r).occSeen = c.occSeen := rfl
@[simp] theorem Core.setRing_kSeen (c : Core) (k : Nat) (r : Ring) : (c.setRing k r).kSeen = c.kSeen := rfl
@[simp] theorem Core.setRing_verSeen (c : Core) (k : Nat) (r : Ring) : (c.setRing k r).verSeen = c.verSeen := rfl
@[simp] theorem Core.setRing_deadlock (c : Core) (k : Nat) (r : Ring) : (c.setRing k r).deadlock = c.deadlock := rfl
@[simp] theorem Core.setRing_kmodes (c : Core) (k : Nat) (r : Ring) : (c.setRing k r).kmodes = c.kmodes := rfl
@[simp] theorem Core.setRing_kmodePend (c : Core) (k : Nat) (r : Ring) : (c.setRing k r).kmodePend = c.kmodePend := rfl
@[simp] theorem Core.setRing_engfl (c : Core) (k : Nat) (r : Ring) : (c.setRing k r).engfl = c.engfl := rfl
@[simp] theorem Core.setRing_iterQ (c : Core) (k : Nat) (r : Ring) : (c.setRing k r).iterQ = c.iterQ := rfl
@[simp] theorem Core.setRing_iter (c : Core) (k : Nat) (r : Ring) : (c.setRing k r).iter = c.iter := rfl
@[simp] theorem Core.setRing_inbound (c : Core) (k : Nat) (r : Ring) : (c.setRing k r).inbound = c.inbound := rfl
@[simp] theorem Core.setRing_commit (c : Core) (k : Nat) (r : Ring) : (c.setRing k r).commit = c.commit := rfl
@[simp] theorem Core.setRing_l1 (c : Core) (k : Nat) (r : Ring) : (c.setRing k r).l1 = c.l1 := rfl
@[simp] theorem Core.setRing_tlb (c : Core) (k : Nat) (r : Ring) : (c.setRing k r).tlb = c.tlb := rfl
@[simp] theorem Core.setRing_copies (c : Core) (k : Nat) (r : Ring) : (c.setRing k r).copies = c.copies := rfl
@[simp] theorem Core.setRing_copyId (c : Core) (k : Nat) (r : Ring) : (c.setRing k r).copyId = c.copyId := rfl
@[simp] theorem Core.setRing_passes (c : Core) (k : Nat) (r : Ring) : (c.setRing k r).passes = c.passes := rfl
@[simp] theorem Core.setRing_rowOff (c : Core) (k : Nat) (r : Ring) : (c.setRing k r).rowOff = c.rowOff := rfl
@[simp] theorem Core.setRing_laneMap (c : Core) (k : Nat) (r : Ring) : (c.setRing k r).laneMap = c.laneMap := rfl
@[simp] theorem Core.setRing_bankMap (c : Core) (k : Nat) (r : Ring) : (c.setRing k r).bankMap = c.bankMap := rfl
@[simp] theorem Core.setRing_buckets (c : Core) (k : Nat) (r : Ring) : (c.setRing k r).buckets = c.buckets := rfl
@[simp] theorem Core.setRing_marked (c : Core) (k : Nat) (r : Ring) : (c.setRing k r).marked = c.marked := rfl
@[simp] theorem Core.setRing_yreq (c : Core) (k : Nat) (r : Ring) : (c.setRing k r).yreq = c.yreq := rfl
@[simp] theorem Core.setRing_yrem (c : Core) (k : Nat) (r : Ring) : (c.setRing k r).yrem = c.yrem := rfl
@[simp] theorem Core.setRing_fshare (c : Core) (k : Nat) (r : Ring) : (c.setRing k r).fshare = c.fshare := rfl
@[simp] theorem Core.setRing_fwUsed (c : Core) (k : Nat) (r : Ring) : (c.setRing k r).fwUsed = c.fwUsed := rfl
@[simp] theorem Core.setRing_cuAc (c : Core) (k : Nat) (r : Ring) : (c.setRing k r).cuAc = c.cuAc := rfl
@[simp] theorem Core.setRing_fwst (c : Core) (k : Nat) (r : Ring) : (c.setRing k r).fwst = c.fwst := rfl
@[simp] theorem Core.setRing_fwShadow (c : Core) (k : Nat) (r : Ring) : (c.setRing k r).fwShadow = c.fwShadow := rfl
@[simp] theorem Core.setRing_fwDue (c : Core) (k : Nat) (r : Ring) : (c.setRing k r).fwDue = c.fwDue := rfl
@[simp] theorem Core.setRing_fwBundles (c : Core) (k : Nat) (r : Ring) : (c.setRing k r).fwBundles = c.fwBundles := rfl
@[simp] theorem Core.setRing_fwRecord (c : Core) (k : Nat) (r : Ring) : (c.setRing k r).fwRecord = c.fwRecord := rfl
@[simp] theorem Core.setRing_fwOldRev (c : Core) (k : Nat) (r : Ring) : (c.setRing k r).fwOldRev = c.fwOldRev := rfl
@[simp] theorem Core.setRing_fwOldCode (c : Core) (k : Nat) (r : Ring) : (c.setRing k r).fwOldCode = c.fwOldCode := rfl
@[simp] theorem Core.setRing_fwOldLen (c : Core) (k : Nat) (r : Ring) : (c.setRing k r).fwOldLen = c.fwOldLen := rfl
@[simp] theorem Core.setRing_fwPd (c : Core) (k : Nat) (r : Ring) : (c.setRing k r).fwPd = c.fwPd := rfl
@[simp] theorem Core.setRing_sysQ (c : Core) (k : Nat) (r : Ring) : (c.setRing k r).sysQ = c.sysQ := rfl
@[simp] theorem Core.setRing_sysCur (c : Core) (k : Nat) (r : Ring) : (c.setRing k r).sysCur = c.sysCur := rfl
@[simp] theorem Core.setRing_heldBw (c : Core) (k : Nat) (r : Ring) : (c.setRing k r).heldBw = c.heldBw := rfl
@[simp] theorem Core.setRing_bwDone (c : Core) (k : Nat) (r : Ring) : (c.setRing k r).bwDone = c.bwDone := rfl
@[simp] theorem Core.setRing_commitFe (c : Core) (k : Nat) (r : Ring) : (c.setRing k r).commitFe = c.commitFe := rfl
@[simp] theorem Core.setRing_relAc (c : Core) (k : Nat) (r : Ring) : (c.setRing k r).relAc = c.relAc := rfl
@[simp] theorem Core.setRing_fwWin (c : Core) (k : Nat) (r : Ring) : (c.setRing k r).fwWin = c.fwWin := rfl
@[simp] theorem Core.setRing_sysOver (c : Core) (k : Nat) (r : Ring) : (c.setRing k r).sysOver = c.sysOver := rfl
@[simp] theorem Core.setRing_ahead (c : Core) (k : Nat) (r : Ring) : (c.setRing k r).ahead = c.ahead := rfl
@[simp] theorem Core.setRing_parking (c : Core) (k : Nat) (r : Ring) : (c.setRing k r).parking = c.parking := rfl
@[simp] theorem Core.setFrame_launch (c : Core) (n : Nat) (f : Option Frame) : (c.setFrame n f).launch = c.launch := rfl
@[simp] theorem Core.setFrame_lcore (c : Core) (n : Nat) (f : Option Frame) : (c.setFrame n f).lcore = c.lcore := rfl
@[simp] theorem Core.setFrame_pool (c : Core) (n : Nat) (f : Option Frame) : (c.setFrame n f).pool = c.pool := rfl
@[simp] theorem Core.setFrame_ac (c : Core) (n : Nat) (f : Option Frame) : (c.setFrame n f).ac = c.ac := rfl
@[simp] theorem Core.setFrame_loc (c : Core) (n : Nat) (f : Option Frame) : (c.setFrame n f).loc = c.loc := rfl
@[simp] theorem Core.setFrame_feEmpty (c : Core) (n : Nat) (f : Option Frame) : (c.setFrame n f).feEmpty = c.feEmpty := rfl
@[simp] theorem Core.setFrame_poison (c : Core) (n : Nat) (f : Option Frame) : (c.setFrame n f).poison = c.poison := rfl
@[simp] theorem Core.setFrame_code (c : Core) (n : Nat) (f : Option Frame) : (c.setFrame n f).code = c.code := rfl
@[simp] theorem Core.setFrame_codeLen (c : Core) (n : Nat) (f : Option Frame) : (c.setFrame n f).codeLen = c.codeLen := rfl
@[simp] theorem Core.setFrame_fwCode (c : Core) (n : Nat) (f : Option Frame) : (c.setFrame n f).fwCode = c.fwCode := rfl
@[simp] theorem Core.setFrame_fwLen (c : Core) (n : Nat) (f : Option Frame) : (c.setFrame n f).fwLen = c.fwLen := rfl
@[simp] theorem Core.setFrame_cones (c : Core) (n : Nat) (f : Option Frame) : (c.setFrame n f).cones = c.cones := rfl
@[simp] theorem Core.setFrame_conePend (c : Core) (n : Nat) (f : Option Frame) : (c.setFrame n f).conePend = c.conePend := rfl
@[simp] theorem Core.setFrame_deferred (c : Core) (n : Nat) (f : Option Frame) : (c.setFrame n f).deferred = c.deferred := rfl
@[simp] theorem Core.setFrame_tags (c : Core) (n : Nat) (f : Option Frame) : (c.setFrame n f).tags = c.tags := rfl
@[simp] theorem Core.setFrame_tagSet (c : Core) (n : Nat) (f : Option Frame) : (c.setFrame n f).tagSet = c.tagSet := rfl
@[simp] theorem Core.setFrame_tagClr (c : Core) (n : Nat) (f : Option Frame) : (c.setFrame n f).tagClr = c.tagClr := rfl
@[simp] theorem Core.setFrame_notify (c : Core) (n : Nat) (f : Option Frame) : (c.setFrame n f).notify = c.notify := rfl
@[simp] theorem Core.setFrame_notifyOr (c : Core) (n : Nat) (f : Option Frame) : (c.setFrame n f).notifyOr = c.notifyOr := rfl
@[simp] theorem Core.setFrame_latches (c : Core) (n : Nat) (f : Option Frame) : (c.setFrame n f).latches = c.latches := rfl
@[simp] theorem Core.setFrame_bankLast (c : Core) (n : Nat) (f : Option Frame) : (c.setFrame n f).bankLast = c.bankLast := rfl
@[simp] theorem Core.setFrame_waitnLast (c : Core) (n : Nat) (f : Option Frame) : (c.setFrame n f).waitnLast = c.waitnLast := rfl
@[simp] theorem Core.setFrame_gated (c : Core) (n : Nat) (f : Option Frame) : (c.setFrame n f).gated = c.gated := rfl
@[simp] theorem Core.setFrame_rings (c : Core) (n : Nat) (f : Option Frame) : (c.setFrame n f).rings = c.rings := rfl
@[simp] theorem Core.setFrame_window (c : Core) (n : Nat) (f : Option Frame) : (c.setFrame n f).window = c.window := rfl
@[simp] theorem Core.setFrame_kseq (c : Core) (n : Nat) (f : Option Frame) : (c.setFrame n f).kseq = c.kseq := rfl
@[simp] theorem Core.setFrame_age (c : Core) (n : Nat) (f : Option Frame) : (c.setFrame n f).age = c.age := rfl
@[simp] theorem Core.setFrame_occSeen (c : Core) (n : Nat) (f : Option Frame) : (c.setFrame n f).occSeen = c.occSeen := rfl
@[simp] theorem Core.setFrame_kSeen (c : Core) (n : Nat) (f : Option Frame) : (c.setFrame n f).kSeen = c.kSeen := rfl
@[simp] theorem Core.setFrame_verSeen (c : Core) (n : Nat) (f : Option Frame) : (c.setFrame n f).verSeen = c.verSeen := rfl
@[simp] theorem Core.setFrame_deadlock (c : Core) (n : Nat) (f : Option Frame) : (c.setFrame n f).deadlock = c.deadlock := rfl
@[simp] theorem Core.setFrame_kmodes (c : Core) (n : Nat) (f : Option Frame) : (c.setFrame n f).kmodes = c.kmodes := rfl
@[simp] theorem Core.setFrame_kmodePend (c : Core) (n : Nat) (f : Option Frame) : (c.setFrame n f).kmodePend = c.kmodePend := rfl
@[simp] theorem Core.setFrame_engfl (c : Core) (n : Nat) (f : Option Frame) : (c.setFrame n f).engfl = c.engfl := rfl
@[simp] theorem Core.setFrame_iterQ (c : Core) (n : Nat) (f : Option Frame) : (c.setFrame n f).iterQ = c.iterQ := rfl
@[simp] theorem Core.setFrame_iter (c : Core) (n : Nat) (f : Option Frame) : (c.setFrame n f).iter = c.iter := rfl
@[simp] theorem Core.setFrame_inbound (c : Core) (n : Nat) (f : Option Frame) : (c.setFrame n f).inbound = c.inbound := rfl
@[simp] theorem Core.setFrame_commit (c : Core) (n : Nat) (f : Option Frame) : (c.setFrame n f).commit = c.commit := rfl
@[simp] theorem Core.setFrame_l1 (c : Core) (n : Nat) (f : Option Frame) : (c.setFrame n f).l1 = c.l1 := rfl
@[simp] theorem Core.setFrame_tlb (c : Core) (n : Nat) (f : Option Frame) : (c.setFrame n f).tlb = c.tlb := rfl
@[simp] theorem Core.setFrame_copies (c : Core) (n : Nat) (f : Option Frame) : (c.setFrame n f).copies = c.copies := rfl
@[simp] theorem Core.setFrame_copyId (c : Core) (n : Nat) (f : Option Frame) : (c.setFrame n f).copyId = c.copyId := rfl
@[simp] theorem Core.setFrame_passes (c : Core) (n : Nat) (f : Option Frame) : (c.setFrame n f).passes = c.passes := rfl
@[simp] theorem Core.setFrame_rowOff (c : Core) (n : Nat) (f : Option Frame) : (c.setFrame n f).rowOff = c.rowOff := rfl
@[simp] theorem Core.setFrame_laneMap (c : Core) (n : Nat) (f : Option Frame) : (c.setFrame n f).laneMap = c.laneMap := rfl
@[simp] theorem Core.setFrame_bankMap (c : Core) (n : Nat) (f : Option Frame) : (c.setFrame n f).bankMap = c.bankMap := rfl
@[simp] theorem Core.setFrame_buckets (c : Core) (n : Nat) (f : Option Frame) : (c.setFrame n f).buckets = c.buckets := rfl
@[simp] theorem Core.setFrame_marked (c : Core) (n : Nat) (f : Option Frame) : (c.setFrame n f).marked = c.marked := rfl
@[simp] theorem Core.setFrame_yreq (c : Core) (n : Nat) (f : Option Frame) : (c.setFrame n f).yreq = c.yreq := rfl
@[simp] theorem Core.setFrame_yrem (c : Core) (n : Nat) (f : Option Frame) : (c.setFrame n f).yrem = c.yrem := rfl
@[simp] theorem Core.setFrame_fshare (c : Core) (n : Nat) (f : Option Frame) : (c.setFrame n f).fshare = c.fshare := rfl
@[simp] theorem Core.setFrame_fwUsed (c : Core) (n : Nat) (f : Option Frame) : (c.setFrame n f).fwUsed = c.fwUsed := rfl
@[simp] theorem Core.setFrame_cuAc (c : Core) (n : Nat) (f : Option Frame) : (c.setFrame n f).cuAc = c.cuAc := rfl
@[simp] theorem Core.setFrame_fwst (c : Core) (n : Nat) (f : Option Frame) : (c.setFrame n f).fwst = c.fwst := rfl
@[simp] theorem Core.setFrame_fwShadow (c : Core) (n : Nat) (f : Option Frame) : (c.setFrame n f).fwShadow = c.fwShadow := rfl
@[simp] theorem Core.setFrame_fwDue (c : Core) (n : Nat) (f : Option Frame) : (c.setFrame n f).fwDue = c.fwDue := rfl
@[simp] theorem Core.setFrame_fwBundles (c : Core) (n : Nat) (f : Option Frame) : (c.setFrame n f).fwBundles = c.fwBundles := rfl
@[simp] theorem Core.setFrame_fwRecord (c : Core) (n : Nat) (f : Option Frame) : (c.setFrame n f).fwRecord = c.fwRecord := rfl
@[simp] theorem Core.setFrame_fwOldRev (c : Core) (n : Nat) (f : Option Frame) : (c.setFrame n f).fwOldRev = c.fwOldRev := rfl
@[simp] theorem Core.setFrame_fwOldCode (c : Core) (n : Nat) (f : Option Frame) : (c.setFrame n f).fwOldCode = c.fwOldCode := rfl
@[simp] theorem Core.setFrame_fwOldLen (c : Core) (n : Nat) (f : Option Frame) : (c.setFrame n f).fwOldLen = c.fwOldLen := rfl
@[simp] theorem Core.setFrame_fwPd (c : Core) (n : Nat) (f : Option Frame) : (c.setFrame n f).fwPd = c.fwPd := rfl
@[simp] theorem Core.setFrame_sysQ (c : Core) (n : Nat) (f : Option Frame) : (c.setFrame n f).sysQ = c.sysQ := rfl
@[simp] theorem Core.setFrame_sysCur (c : Core) (n : Nat) (f : Option Frame) : (c.setFrame n f).sysCur = c.sysCur := rfl
@[simp] theorem Core.setFrame_heldBw (c : Core) (n : Nat) (f : Option Frame) : (c.setFrame n f).heldBw = c.heldBw := rfl
@[simp] theorem Core.setFrame_bwDone (c : Core) (n : Nat) (f : Option Frame) : (c.setFrame n f).bwDone = c.bwDone := rfl
@[simp] theorem Core.setFrame_commitFe (c : Core) (n : Nat) (f : Option Frame) : (c.setFrame n f).commitFe = c.commitFe := rfl
@[simp] theorem Core.setFrame_relAc (c : Core) (n : Nat) (f : Option Frame) : (c.setFrame n f).relAc = c.relAc := rfl
@[simp] theorem Core.setFrame_fwWin (c : Core) (n : Nat) (f : Option Frame) : (c.setFrame n f).fwWin = c.fwWin := rfl
@[simp] theorem Core.setFrame_sysOver (c : Core) (n : Nat) (f : Option Frame) : (c.setFrame n f).sysOver = c.sysOver := rfl
@[simp] theorem Core.setFrame_ahead (c : Core) (n : Nat) (f : Option Frame) : (c.setFrame n f).ahead = c.ahead := rfl
@[simp] theorem Core.setFrame_parking (c : Core) (n : Nat) (f : Option Frame) : (c.setFrame n f).parking = c.parking := rfl
@[simp] theorem Core.setEntry_launch (c : Core) (n : Nat) (e : Option KEntry) : (c.setEntry n e).launch = c.launch := rfl
@[simp] theorem Core.setEntry_lcore (c : Core) (n : Nat) (e : Option KEntry) : (c.setEntry n e).lcore = c.lcore := rfl
@[simp] theorem Core.setEntry_pool (c : Core) (n : Nat) (e : Option KEntry) : (c.setEntry n e).pool = c.pool := rfl
@[simp] theorem Core.setEntry_ac (c : Core) (n : Nat) (e : Option KEntry) : (c.setEntry n e).ac = c.ac := rfl
@[simp] theorem Core.setEntry_loc (c : Core) (n : Nat) (e : Option KEntry) : (c.setEntry n e).loc = c.loc := rfl
@[simp] theorem Core.setEntry_feEmpty (c : Core) (n : Nat) (e : Option KEntry) : (c.setEntry n e).feEmpty = c.feEmpty := rfl
@[simp] theorem Core.setEntry_poison (c : Core) (n : Nat) (e : Option KEntry) : (c.setEntry n e).poison = c.poison := rfl
@[simp] theorem Core.setEntry_code (c : Core) (n : Nat) (e : Option KEntry) : (c.setEntry n e).code = c.code := rfl
@[simp] theorem Core.setEntry_codeLen (c : Core) (n : Nat) (e : Option KEntry) : (c.setEntry n e).codeLen = c.codeLen := rfl
@[simp] theorem Core.setEntry_fwCode (c : Core) (n : Nat) (e : Option KEntry) : (c.setEntry n e).fwCode = c.fwCode := rfl
@[simp] theorem Core.setEntry_fwLen (c : Core) (n : Nat) (e : Option KEntry) : (c.setEntry n e).fwLen = c.fwLen := rfl
@[simp] theorem Core.setEntry_cones (c : Core) (n : Nat) (e : Option KEntry) : (c.setEntry n e).cones = c.cones := rfl
@[simp] theorem Core.setEntry_conePend (c : Core) (n : Nat) (e : Option KEntry) : (c.setEntry n e).conePend = c.conePend := rfl
@[simp] theorem Core.setEntry_deferred (c : Core) (n : Nat) (e : Option KEntry) : (c.setEntry n e).deferred = c.deferred := rfl
@[simp] theorem Core.setEntry_tags (c : Core) (n : Nat) (e : Option KEntry) : (c.setEntry n e).tags = c.tags := rfl
@[simp] theorem Core.setEntry_tagSet (c : Core) (n : Nat) (e : Option KEntry) : (c.setEntry n e).tagSet = c.tagSet := rfl
@[simp] theorem Core.setEntry_tagClr (c : Core) (n : Nat) (e : Option KEntry) : (c.setEntry n e).tagClr = c.tagClr := rfl
@[simp] theorem Core.setEntry_notify (c : Core) (n : Nat) (e : Option KEntry) : (c.setEntry n e).notify = c.notify := rfl
@[simp] theorem Core.setEntry_notifyOr (c : Core) (n : Nat) (e : Option KEntry) : (c.setEntry n e).notifyOr = c.notifyOr := rfl
@[simp] theorem Core.setEntry_latches (c : Core) (n : Nat) (e : Option KEntry) : (c.setEntry n e).latches = c.latches := rfl
@[simp] theorem Core.setEntry_bankLast (c : Core) (n : Nat) (e : Option KEntry) : (c.setEntry n e).bankLast = c.bankLast := rfl
@[simp] theorem Core.setEntry_waitnLast (c : Core) (n : Nat) (e : Option KEntry) : (c.setEntry n e).waitnLast = c.waitnLast := rfl
@[simp] theorem Core.setEntry_gated (c : Core) (n : Nat) (e : Option KEntry) : (c.setEntry n e).gated = c.gated := rfl
@[simp] theorem Core.setEntry_frames (c : Core) (n : Nat) (e : Option KEntry) : (c.setEntry n e).frames = c.frames := rfl
@[simp] theorem Core.setEntry_rings (c : Core) (n : Nat) (e : Option KEntry) : (c.setEntry n e).rings = c.rings := rfl
@[simp] theorem Core.setEntry_kseq (c : Core) (n : Nat) (e : Option KEntry) : (c.setEntry n e).kseq = c.kseq := rfl
@[simp] theorem Core.setEntry_age (c : Core) (n : Nat) (e : Option KEntry) : (c.setEntry n e).age = c.age := rfl
@[simp] theorem Core.setEntry_occSeen (c : Core) (n : Nat) (e : Option KEntry) : (c.setEntry n e).occSeen = c.occSeen := rfl
@[simp] theorem Core.setEntry_kSeen (c : Core) (n : Nat) (e : Option KEntry) : (c.setEntry n e).kSeen = c.kSeen := rfl
@[simp] theorem Core.setEntry_verSeen (c : Core) (n : Nat) (e : Option KEntry) : (c.setEntry n e).verSeen = c.verSeen := rfl
@[simp] theorem Core.setEntry_deadlock (c : Core) (n : Nat) (e : Option KEntry) : (c.setEntry n e).deadlock = c.deadlock := rfl
@[simp] theorem Core.setEntry_kmodes (c : Core) (n : Nat) (e : Option KEntry) : (c.setEntry n e).kmodes = c.kmodes := rfl
@[simp] theorem Core.setEntry_kmodePend (c : Core) (n : Nat) (e : Option KEntry) : (c.setEntry n e).kmodePend = c.kmodePend := rfl
@[simp] theorem Core.setEntry_engfl (c : Core) (n : Nat) (e : Option KEntry) : (c.setEntry n e).engfl = c.engfl := rfl
@[simp] theorem Core.setEntry_iterQ (c : Core) (n : Nat) (e : Option KEntry) : (c.setEntry n e).iterQ = c.iterQ := rfl
@[simp] theorem Core.setEntry_iter (c : Core) (n : Nat) (e : Option KEntry) : (c.setEntry n e).iter = c.iter := rfl
@[simp] theorem Core.setEntry_inbound (c : Core) (n : Nat) (e : Option KEntry) : (c.setEntry n e).inbound = c.inbound := rfl
@[simp] theorem Core.setEntry_commit (c : Core) (n : Nat) (e : Option KEntry) : (c.setEntry n e).commit = c.commit := rfl
@[simp] theorem Core.setEntry_l1 (c : Core) (n : Nat) (e : Option KEntry) : (c.setEntry n e).l1 = c.l1 := rfl
@[simp] theorem Core.setEntry_tlb (c : Core) (n : Nat) (e : Option KEntry) : (c.setEntry n e).tlb = c.tlb := rfl
@[simp] theorem Core.setEntry_copies (c : Core) (n : Nat) (e : Option KEntry) : (c.setEntry n e).copies = c.copies := rfl
@[simp] theorem Core.setEntry_copyId (c : Core) (n : Nat) (e : Option KEntry) : (c.setEntry n e).copyId = c.copyId := rfl
@[simp] theorem Core.setEntry_passes (c : Core) (n : Nat) (e : Option KEntry) : (c.setEntry n e).passes = c.passes := rfl
@[simp] theorem Core.setEntry_rowOff (c : Core) (n : Nat) (e : Option KEntry) : (c.setEntry n e).rowOff = c.rowOff := rfl
@[simp] theorem Core.setEntry_laneMap (c : Core) (n : Nat) (e : Option KEntry) : (c.setEntry n e).laneMap = c.laneMap := rfl
@[simp] theorem Core.setEntry_bankMap (c : Core) (n : Nat) (e : Option KEntry) : (c.setEntry n e).bankMap = c.bankMap := rfl
@[simp] theorem Core.setEntry_buckets (c : Core) (n : Nat) (e : Option KEntry) : (c.setEntry n e).buckets = c.buckets := rfl
@[simp] theorem Core.setEntry_marked (c : Core) (n : Nat) (e : Option KEntry) : (c.setEntry n e).marked = c.marked := rfl
@[simp] theorem Core.setEntry_yreq (c : Core) (n : Nat) (e : Option KEntry) : (c.setEntry n e).yreq = c.yreq := rfl
@[simp] theorem Core.setEntry_yrem (c : Core) (n : Nat) (e : Option KEntry) : (c.setEntry n e).yrem = c.yrem := rfl
@[simp] theorem Core.setEntry_fshare (c : Core) (n : Nat) (e : Option KEntry) : (c.setEntry n e).fshare = c.fshare := rfl
@[simp] theorem Core.setEntry_fwUsed (c : Core) (n : Nat) (e : Option KEntry) : (c.setEntry n e).fwUsed = c.fwUsed := rfl
@[simp] theorem Core.setEntry_cuAc (c : Core) (n : Nat) (e : Option KEntry) : (c.setEntry n e).cuAc = c.cuAc := rfl
@[simp] theorem Core.setEntry_fwst (c : Core) (n : Nat) (e : Option KEntry) : (c.setEntry n e).fwst = c.fwst := rfl
@[simp] theorem Core.setEntry_fwShadow (c : Core) (n : Nat) (e : Option KEntry) : (c.setEntry n e).fwShadow = c.fwShadow := rfl
@[simp] theorem Core.setEntry_fwDue (c : Core) (n : Nat) (e : Option KEntry) : (c.setEntry n e).fwDue = c.fwDue := rfl
@[simp] theorem Core.setEntry_fwBundles (c : Core) (n : Nat) (e : Option KEntry) : (c.setEntry n e).fwBundles = c.fwBundles := rfl
@[simp] theorem Core.setEntry_fwRecord (c : Core) (n : Nat) (e : Option KEntry) : (c.setEntry n e).fwRecord = c.fwRecord := rfl
@[simp] theorem Core.setEntry_fwOldRev (c : Core) (n : Nat) (e : Option KEntry) : (c.setEntry n e).fwOldRev = c.fwOldRev := rfl
@[simp] theorem Core.setEntry_fwOldCode (c : Core) (n : Nat) (e : Option KEntry) : (c.setEntry n e).fwOldCode = c.fwOldCode := rfl
@[simp] theorem Core.setEntry_fwOldLen (c : Core) (n : Nat) (e : Option KEntry) : (c.setEntry n e).fwOldLen = c.fwOldLen := rfl
@[simp] theorem Core.setEntry_fwPd (c : Core) (n : Nat) (e : Option KEntry) : (c.setEntry n e).fwPd = c.fwPd := rfl
@[simp] theorem Core.setEntry_sysQ (c : Core) (n : Nat) (e : Option KEntry) : (c.setEntry n e).sysQ = c.sysQ := rfl
@[simp] theorem Core.setEntry_sysCur (c : Core) (n : Nat) (e : Option KEntry) : (c.setEntry n e).sysCur = c.sysCur := rfl
@[simp] theorem Core.setEntry_heldBw (c : Core) (n : Nat) (e : Option KEntry) : (c.setEntry n e).heldBw = c.heldBw := rfl
@[simp] theorem Core.setEntry_bwDone (c : Core) (n : Nat) (e : Option KEntry) : (c.setEntry n e).bwDone = c.bwDone := rfl
@[simp] theorem Core.setEntry_commitFe (c : Core) (n : Nat) (e : Option KEntry) : (c.setEntry n e).commitFe = c.commitFe := rfl
@[simp] theorem Core.setEntry_relAc (c : Core) (n : Nat) (e : Option KEntry) : (c.setEntry n e).relAc = c.relAc := rfl
@[simp] theorem Core.setEntry_fwWin (c : Core) (n : Nat) (e : Option KEntry) : (c.setEntry n e).fwWin = c.fwWin := rfl
@[simp] theorem Core.setEntry_sysOver (c : Core) (n : Nat) (e : Option KEntry) : (c.setEntry n e).sysOver = c.sysOver := rfl
@[simp] theorem Core.setEntry_ahead (c : Core) (n : Nat) (e : Option KEntry) : (c.setEntry n e).ahead = c.ahead := rfl
@[simp] theorem Core.setEntry_parking (c : Core) (n : Nat) (e : Option KEntry) : (c.setEntry n e).parking = c.parking := rfl

end Sys2Proof.Machine
end

