-- ==== Sys2Proof/Laws/Vector.lean ====
section
/-! SUPPORT. The elements of vector registers: what an element of a built or a masked register is, and the bits of a lane mask. -/

namespace Sys2Proof.Machine

/-- The bits of a number. -/
theorem bit_eq (w i : Nat) : bit w i = w.testBit i := by
  rw [bit, Nat.testBit_eq_decide_div_mod_eq]; cases h : decide (w / 2 ^ i % 2 = 1) <;> simp_all

/-- A bit of an element is a bit of the register. -/
theorem elem_testBit (v : VReg) (w e i : Nat) (lt : i < w) : (elem v w e).testBit i = v.getLsbD (w * e + i) := by
  simp [elem, Nat.testBit_mod_two_pow, lt, Nat.testBit_div_two_pow, BitVec.getLsbD, Nat.add_comm]

theorem elem_lt (v : VReg) (w e : Nat) : elem v w e < 2 ^ w := Nat.mod_lt _ (Nat.two_pow_pos w)

/-- An element is determined by its bits. -/
theorem elem_eq_of_bits {v : VReg} {w e x : Nat} (hx : x < 2 ^ w) (h : ∀ i, i < w → v.getLsbD (w * e + i) = x.testBit i) : elem v w e = x := by
  apply Nat.eq_of_testBit_eq
  intro i
  by_cases lt : i < w
  · rw [elem_testBit _ _ _ _ lt, h i lt]
  · rw [Nat.testBit_lt_two_pow (Nat.lt_of_lt_of_le (elem_lt v w e) (Nat.pow_le_pow_right (by omega) (by omega))),
      Nat.testBit_lt_two_pow (Nat.lt_of_lt_of_le hx (Nat.pow_le_pow_right (by omega) (by omega)))]

/-- A lane of a register is its element of 32 bits. -/
theorem lane_toNat (v : VReg) (i : Nat) : (lane v i).toNat = elem v 32 i := by
  simp [lane, elem, Nat.shiftRight_eq_div_pow]

theorem ofLanes_getLsbD (f : Nat → Word) (j : Nat) (lt : j < 1024) : (ofLanes f).getLsbD j = (f (j / 32)).getLsbD (j % 32) := by
  have key : ∀ n, ((List.range n).foldl (fun v i => v ||| inLane (f i) i) (0 : VReg)).getLsbD j =
      (decide (j / 32 < n) && (f (j / 32)).getLsbD (j % 32)) := by
    intro n
    induction n with
    | zero => simp
    | succ n ih =>
      rw [List.range_succ, List.foldl_append, List.foldl_cons, List.foldl_nil, BitVec.getLsbD_or, ih]
      simp only [inLane, BitVec.getLsbD_shiftLeft, BitVec.getLsbD_setWidth, lt, decide_true, Bool.true_and]
      by_cases h : j / 32 = n
      · subst h
        have e : j - 32 * (j / 32) = j % 32 := by omega
        have g : ¬ j < 32 * (j / 32) := by omega
        simp [e, g]; omega
      · by_cases g : j < 32 * n
        · have : j / 32 < n := by omega
          simp [g, this, Nat.lt_succ_of_lt this]
        · have h1 : ¬ j / 32 < n := by omega
          have h2 : ¬ j / 32 < n + 1 := by omega
          have h3 : (f n).getLsbD (j - 32 * n) = false := BitVec.getLsbD_of_ge _ _ (by omega)
          simp [g, h1, h2, h3]
  have := key 32
  rw [ofLanes, this]
  simp; omega

/-- A bit of a lane mask is the bit of its lane. -/
theorem laneBits_getLsbD (m : Word) (j : Nat) (lt : j < 1024) : (laneBits m).getLsbD j = m.getLsbD (j / 32) := by
  rw [laneBits, ofLanes_getLsbD _ _ lt]
  have b : bit m.toNat (j / 32) = m.getLsbD (j / 32) := by
    rw [bit_eq]; rfl
  rw [b]
  have : j % 32 < 32 := Nat.mod_lt _ (by omega)
  cases m.getLsbD (j / 32)
  · simp
  · rw [if_pos rfl, BitVec.getLsbD_allOnes, decide_eq_true this]

/-- A masked register has the elements of its active lanes and zeros in the others. -/
theorem elem_mask (v : VReg) (gm : Word) (w e : Nat) (hw : w = 32 ∨ w = 16 ∨ w = 8) (lt : e < 1024 / w) :
    elem (v &&& laneBits gm) w e = if elemActive gm w e then elem v w e else 0 := by
  have p : 0 < w := by omega
  have bound : ∀ i, i < w → w * e + i < 1024 := by rcases hw with rfl | rfl | rfl <;> omega
  have ln : ∀ i, i < w → (w * e + i) / 32 = w * e / 32 := by rcases hw with rfl | rfl | rfl <;> omega
  have act : elemActive gm w e = gm.getLsbD (w * e / 32) := by rw [elemActive, bit_eq]; rfl
  apply elem_eq_of_bits
  · split
    · exact elem_lt v w e
    · exact Nat.two_pow_pos w
  · intro i li
    rw [BitVec.getLsbD_and, laneBits_getLsbD _ _ (bound i li), ln i li, act]
    by_cases h : gm.getLsbD (w * e / 32)
    · simp [h, elem_testBit _ _ _ _ li]
    · simp [h]

theorem ofElems_sum (w n : Nat) (f : Nat → Nat) :
    (List.range n).foldl (fun acc e => acc + f e % 2 ^ w * 2 ^ (w * e)) 0 < 2 ^ (w * n) ∧
    ∀ e, e < n → (List.range n).foldl (fun acc e => acc + f e % 2 ^ w * 2 ^ (w * e)) 0 / 2 ^ (w * e) % 2 ^ w = f e % 2 ^ w := by
  induction n with
  | zero => simp
  | succ n ih =>
    rw [List.range_succ, List.foldl_append, List.foldl_cons, List.foldl_nil]
    generalize hs : (List.range n).foldl (fun acc e => acc + f e % 2 ^ w * 2 ^ (w * e)) 0 = s at ih
    have q : f n % 2 ^ w < 2 ^ w := Nat.mod_lt _ (Nat.two_pow_pos w)
    refine ⟨?_, fun e he => ?_⟩
    · have : f n % 2 ^ w * 2 ^ (w * n) ≤ (2 ^ w - 1) * 2 ^ (w * n) := Nat.mul_le_mul_right _ (by omega)
      rw [Nat.mul_succ, Nat.pow_add, Nat.mul_comm (2 ^ (w * n))]
      have h2 : (2 ^ w - 1) * 2 ^ (w * n) + 2 ^ (w * n) = 2 ^ w * 2 ^ (w * n) := by
        rw [← Nat.succ_mul, Nat.succ_eq_add_one, Nat.sub_add_cancel (Nat.two_pow_pos w)]
      omega
    · by_cases h : e = n
      · subst h
        rw [Nat.add_mul_div_right _ _ (Nat.two_pow_pos _), Nat.div_eq_of_lt ih.1, Nat.zero_add, Nat.mod_mod]
      · have le : e < n := by omega
        rw [← ih.2 e le]
        have e1 : w * n = w * e + (w + w * (n - e - 1)) := by
          rw [show w + w * (n - e - 1) = w * (n - e) by rw [show n - e = (n - e - 1) + 1 by omega, Nat.mul_succ]; simp [Nat.add_comm], ← Nat.mul_add]
          congr 1; omega
        rw [e1, Nat.pow_add, ← Nat.mul_assoc, Nat.mul_comm (f n % 2 ^ w), Nat.mul_assoc, Nat.add_mul_div_left _ _ (Nat.two_pow_pos _),
          Nat.pow_add, ← Nat.mul_assoc, Nat.mul_comm (f n % 2 ^ w), Nat.mul_assoc, Nat.add_mul_mod_self_left]

/-- An element of a register built from its elements. -/
theorem elem_ofElems (w n : Nat) (f : Nat → Nat) (e : Nat) (lt : e < n) (fit : w * n ≤ 1024) : elem (ofElems w n f) w e = f e % 2 ^ w := by
  have h := ofElems_sum w n f
  rw [elem, ofElems, BitVec.toNat_ofNat, Nat.mod_eq_of_lt (Nat.lt_of_lt_of_le h.1 (Nat.pow_le_pow_right (by omega) fit))]
  exact h.2 e lt

end Sys2Proof.Machine
end

