-- ==== Sys2Proof/Laws/VectorMem.lean ====
section
/-! SUPPORT. The bytes that a vector load gathers and that a vector store writes. -/

namespace Sys2Proof.Machine

/-- A byte of a number made of bytes. -/
theorem natOfBytes_byte (bs : List Byte) (i : Nat) (lt : i < bs.length) : natOfBytes bs / 256 ^ i % 256 = (bs.getD i 0).toNat := by
  induction bs generalizing i with
  | nil => simp at lt
  | cons b t ih =>
    cases i with
    | zero => simp [natOfBytes]; omega
    | succ i =>
      simp only [List.length_cons] at lt
      rw [natOfBytes, List.getD_cons_succ, ← ih i (by omega), Nat.pow_succ, Nat.mul_comm _ 256, ← Nat.div_div_eq_div_mul]
      congr 2; omega

theorem natOfBytes_lt (bs : List Byte) : natOfBytes bs < 256 ^ bs.length := by
  induction bs with
  | nil => simp [natOfBytes]
  | cons b t ih => simp only [natOfBytes, List.length_cons, Nat.pow_succ]; omega

theorem State.localNat_byte (s : State) (a n i : Nat) (lt : i < n) : s.localNat a n / 256 ^ i % 256 = (s.localByte (a + i)).toNat := by
  rw [State.localNat, natOfBytes_byte _ _ (by simp [State.localBytes, lt])]
  simp [State.localBytes, lt]

theorem State.localNat_lt (s : State) (a n : Nat) : s.localNat a n < 2 ^ (8 * n) := by
  have := natOfBytes_lt (s.localBytes a n)
  rw [show (256 : Nat) = 2 ^ 8 from rfl, ← Nat.pow_mul] at this
  simpa [State.localNat, State.localBytes] using this

/-- The register that a load gathers from the parts of its access. -/
def State.gather (s : State) (parts : List FarPart) : VReg :=
  parts.foldl (fun v p => v ||| BitVec.ofNat 1024 (s.localNat p.va p.n * 2 ^ (8 * p.off))) 0

theorem State.gather_bit (s : State) (parts : List FarPart) (i : Nat) (lt : i < 1024) : (s.gather parts).getLsbD i =
    parts.any fun p => decide (8 * p.off ≤ i) && (s.localNat p.va p.n).testBit (i - 8 * p.off) := by
  have key : ∀ (ps : List FarPart) (v : VReg), (ps.foldl (fun v p => v ||| BitVec.ofNat 1024 (s.localNat p.va p.n * 2 ^ (8 * p.off))) v).getLsbD i =
      (v.getLsbD i || ps.any fun p => decide (8 * p.off ≤ i) && (s.localNat p.va p.n).testBit (i - 8 * p.off)) := by
    intro ps
    induction ps with
    | nil => simp
    | cons p t ih =>
      intro v
      rw [List.foldl_cons, ih, BitVec.getLsbD_or, List.any_cons, Bool.or_assoc]
      congr 2
      rw [BitVec.getLsbD_ofNat, Nat.mul_comm, Nat.testBit_two_pow_mul]
      simp [lt]
  rw [State.gather, key]; simp

/-- A byte of a part lies in the gathered register at the part's offset, where no other part reaches that byte. -/
theorem State.gather_byte (s : State) {parts : List FarPart} {p : FarPart} {j : Nat} (mem : p ∈ parts) (lt : j < p.n) (fit : p.off + j < 128)
    (apart : ∀ q ∈ parts, q.off ≤ p.off + j → p.off + j < q.off + q.n → q = p) :
    elem (s.gather parts) 8 (p.off + j) = (s.localByte (p.va + j)).toNat := by
  apply elem_eq_of_bits (s.localByte (p.va + j)).isLt
  intro i li
  rw [s.gather_bit parts _ (by omega), ← s.localNat_byte p.va p.n j lt]
  have e : (256 : Nat) = 2 ^ 8 := rfl
  have h1 : (s.localNat p.va p.n / 256 ^ j % 256).testBit i = (s.localNat p.va p.n).testBit (8 * j + i) := by
    rw [e, ← Nat.pow_mul, Nat.testBit_mod_two_pow, Nat.testBit_div_two_pow]; simp [li, Nat.add_comm]
  rw [h1]
  have mine : (decide (8 * p.off ≤ 8 * (p.off + j) + i) && (s.localNat p.va p.n).testBit (8 * (p.off + j) + i - 8 * p.off)) =
      (s.localNat p.va p.n).testBit (8 * j + i) := by
    rw [show 8 * (p.off + j) + i - 8 * p.off = 8 * j + i by omega]; simp; intro _; omega
  rw [Bool.eq_iff_iff, List.any_eq_true]
  constructor
  · rintro ⟨q, hq, hb⟩
    by_cases h : p.off + j < q.off + q.n
    · have le : q.off ≤ p.off + j := by
        have := (Bool.and_eq_true _ _ ▸ hb).1
        simp only [decide_eq_true_eq] at this; omega
      rw [apart q hq le h, mine] at hb; exact hb
    · have : (s.localNat q.va q.n).testBit (8 * (p.off + j) + i - 8 * q.off) = false :=
        Nat.testBit_lt_two_pow (Nat.lt_of_lt_of_le (s.localNat_lt _ _) (Nat.pow_le_pow_right (by omega) (by omega)))
      rw [this] at hb; simp at hb
  · intro h
    exact ⟨p, mem, by rw [mine]; exact h⟩

/-- A store of parts writes the bytes of the last part that names an address, and no byte that none names. -/
theorem State.writeParts_spec {s u : State} {v : VReg} {parts : List FarPart} (up : s.strm.upsets = []) (h : s.writeParts v parts = some u) :
    s.SameButLocal u ∧ u.specSlot = s.specSlot ∧
    ∀ a, u.localByte a = match (parts.filter fun p => p.va ≤ a && a < p.va + p.n).getLast? with
      | some p => BitVec.ofNat 8 (v.toNat / 256 ^ (p.off + (a - p.va)))
      | none => s.localByte a := by
  induction parts generalizing s with
  | nil => simp only [State.writeParts, Option.some.injEq] at h; subst h; exact ⟨rfl, rfl, fun a => rfl⟩
  | cons p ps ih =>
    simp only [State.writeParts] at h
    cases hw : s.localWrite p.va (partBytes v p) with
    | none => simp [hw] at h
    | some t =>
      simp only [hw] at h
      have sp := State.localWrite_spec up hw
      have i := ih (by rw [sp.1]; exact up) h
      refine ⟨?_, i.2.1.trans sp.2.1, fun a => ?_⟩
      · have e := i.1; rw [sp.1] at e; exact e
      · have lb : (partBytes v p).length = p.n := leBytes_length _ _
        rw [i.2.2 a, sp.2.2 a, lb, List.filter_cons]
        generalize hf : (ps.filter fun p => p.va ≤ a && a < p.va + p.n) = fs
        by_cases c : p.va ≤ a ∧ a < p.va + p.n
        · rw [if_pos c, if_pos (by simpa using c), List.getLast?_cons]
          cases hl : fs.getLast? with
          | some q => rfl
          | none =>
            simp only [Option.getD_none]
            rw [partBytes, leBytes_getD _ _ _ (by omega), Nat.div_div_eq_div_mul, Nat.pow_mul, ← Nat.pow_add]
        · rw [if_neg c, if_neg (by simpa using c)]

end Sys2Proof.Machine
end

