-- ==== Sys2Proof/Tests/Slice0.lean ====
section
/-! SUPPORT. Tests: words of the spec's examples and what they decode to, a term that each check of well-formedness refuses, small
results worked out from the spec, and for every statement with hypotheses a state that meets them. -/

set_option Elab.async false

namespace Sys2Proof.Tests
open Sys2Proof Sys2Proof.Machine

/-- The header of a plain, unguarded instruction of slot A, and of slot B (R63). -/
def hA : Hdr := ⟨0, 0, 0, 0⟩
def hB : Hdr := ⟨0, 1, 0, 0⟩

/-! ## Words written out in the spec -/

-- 03 "Example", 04 "Encodings at a glance", 06 and 08 listings.
theorem test_decode_scalar :
    decodeTableWord 48 0x000181000064 = some (.add hA { d := 1, a := 0, b := .imm 100 }) ∧
    decodeTableWord 48 0x490283020001 = some (.sub ⟨1, 0, 1, 1⟩ { d := 3, a := 2, b := .imm 1 }) ∧
    decodeTableWord 48 0x000505060700 = some (.div hA { d := 5, a := 6, b := .reg 7, z := false }) ∧
    decodeTableWord 48 0x000FC102012C = some (.min hA { d := 1, a := 2, b := .imm 300, z := true }) ∧
    decodeTableWord 48 0x2019ED2D0001 = some (.subs hB { d := 45, a := 45, b := .imm 1, z := true }) ∧
    decodeTableWord 48 0x201CF0008000 = some (.movi hB { d := 48, imm := .high 0x8000 }) ∧
    decodeTableWord 48 0x201D29020000 = some (.movx hB { d := 41, a := 2 }) ∧
    decodeTableWord 96 0x0000FFFFFFFB101E02030002 = some (.cmp hA { p := 2, a := 3, b := .imm 0xFFFFFFFB, cond := .ltS }) ∧
    decodeTableWord 48 0x002301000001 = some (.amov hA (.fromG 1 0)) := by decide
theorem test_decode_float :
    decodeTableWord 48 0x002B08090A09 = some (.fma hA { d := 8, a := 9, b := 10, rm := .rtz }) ∧
    decodeTableWord 48 0x002F02030000 = some (.fsqrt hA { d := 2, a := 3, rm := .dyn }) ∧
    decodeTableWord 48 0x003001030703 = some (.fcmp hA { p := 1, a := 3, b := 7, cond := .le }) := by decide
theorem test_decode_flow :
    decodeTableWord 48 0x003870000024 = some (.pbr hA { b := 3, loff := 2, slot := 4, h := true }) ∧
    decodeTableWord 48 0x013A00060000 = some (.br ⟨0, 0, 0, 1⟩ { b := 6 }) ∧
    decodeTableWord 48 0x203D01280300 = some (.loop hB { lc := 1, g := 40, b := 3 }) ∧
    decodeTableWord 48 0x004000000000 = some (.endOp hA {}) := by decide
theorem test_decode_local :
    decodeTableWord 48 0x204428020010 = some (.ld hB { d := 40, a := 0, sz := 2, z := false, m := false, off := .field16 16 }) ∧
    decodeTableWord 48 0x204461150004 = some (.ld hB { d := 33, a := 2, sz := 1, z := true, m := true, off := .field16 4 }) ∧
    decodeTableWord 48 0x20B625260080 = some (.vst hB { v := 37, a := 4, m := true, off := .field16 128 }) ∧
    decodeTableWord 48 0xA0B3200E0080 = some (.vld ⟨2, 1, 0, 0⟩ { v := 32, a := 1, m := true, off := .field16 128 }) ∧
    decodeTableWord 48 0x20B726224004 = some (.vsts hB { v := 38, a := 4, km := 2, stride := .field13 4 }) := by decide
theorem test_decode_sync :
    decodeTableWord 48 0x204E241300C0 = some (.barr hB { g := 36, a := 2, sp := false, m := false, off := 0xC0 }) ∧
    decodeTableWord 48 0x204F241300C0 = some (.bwait hB { g := 36, a := 2, sp := false, par := false, m := false, off := 0xC0 }) ∧
    decodeTableWord 48 0x205420000001 = some (.qpop hB { d := 32, q := 0, v := true }) ∧
    decodeTableWord 48 0x205427000000 = some (.qpop hB { d := 39, q := 0, v := false }) := by decide
theorem test_decode_far :
    decodeTableWord 48 0x205D000A2004 = some (.ldqs hB { q := 0, a := 1, km := 1, s := false, stride := .field13 4 }) ∧
    decodeTableWord 48 0x205C00150002 = some (.ldq hB { q := 0, a := 2, sz := 1, z := false, s := false, m := true, off := .field16 2 }) ∧
    decodeTableWord 48 0x205F251A001C = some (.stf hB { s := 37, a := 3, sz := 2, m := false, off := .field16 28 }) ∧
    decodeTableWord 48 0x206803052AB8 = some (.amo hB { q := 3, a := 5, g := 42, nr := false, sp := false, scope := .dom, ord := .ar, op := .add }) ∧
    decodeTableWord 48 0x206901462CBA = some (.acas hB { q := 1, a := 6, g := 44, sp := true, scope := .dom, ord := .ar, ford := .acq }) ∧
    decodeTableWord 48 0x206B000000A0 = some (.fence hB { scope := .dom }) := by decide
theorem test_decode_vector :
    decodeTableWord 48 0x00A904000000 = some (.viota hA { d := 4, km := 0, mz := false }) ∧
    decodeTableWord 96 0x000000000010108104040008 = some (.vsub hA { d := 4, a := 4, b := .imm 16, km := 0, mz := false, w := .w32 }) ∧
    decodeTableWord 48 0x009001040504 = some (.vcmp hA { m := 1, a := 4, b := 5, km := 0, mz := false, cond := .gtS }) ∧
    decodeTableWord 48 0x20B128010000 = some (.mff hB { d := 40, m := 1, last := false }) ∧
    decodeTableWord 48 0x00AA06040030 = some (.vcmprs hA { d := 6, a := 4, km := 1, mz := true }) ∧
    decodeTableWord 48 0x20A22320002A = some (.vred hB { d := 35, a := 32, km := 1, op := .max, ty := .f32 }) ∧
    decodeTableWord 48 0x20A7282C2708 = some (.vext hB { d := 40, a := 44, idx := .gs 39, w := .w32, z := false }) ∧
    decodeTableWord 48 0x20AC26242126 = some (.vsort hB { d := 38, a := 36, b := 33, km := 1, ty := .f32, dn := true }) := by decide
theorem test_decode_vector_float :
    decodeTableWord 48 0x209820202908 = some (.vfdiv hB { d := 32, a := 32, b := .gs 41, km := 0, mz := false, f := .f32 }) ∧
    decodeTableWord 48 0xA09422202208 = some (.vfmul ⟨2, 1, 0, 0⟩ { d := 34, a := 32, b := .gs 34, km := 0, mz := false, f := .f32 }) ∧
    decodeTableWord 48 0x20952221270A = some (.vfma hB { d := 34, a := 33, b := .gs 39, km := 0, mz := false, f := .f16 }) ∧
    decodeTableWord 48 0x209A24230030 = some (.vfexp2 hB { d := 36, a := 35, km := 1, mz := true, f := .f32 }) ∧
    decodeTableWord 48 0x009E0A093830 =
      some (.vcvt hA { d := 10, a := 9, part := 1, dto := .e4m3, frm := .f32, rm := .rne, sat := true }) ∧
    decodeTableWord 48 0x20AD29282201 = some (.vrnd hB { d := 41, a := 40, key := .reg 34, km := 0, mz := false, f := true }) ∧
    decodeTableWord 48 0x20A32C240002 = some (.vscan hB { d := 44, a := 36, km := 0, mz := false, op := .add, ty := .f32 }) := by decide
theorem test_decode_control :
    decodeTableWord 48 0x20C200020002 = some (.fdef hB { n := 2, a := 2 }) ∧
    decodeTableWord 48 0x20C021014000 = some (.post hB { a := 1, hw := some 33, nb := none, s := false }) ∧
    decodeTableWord 48 0x20C021016000 = some (.post hB { a := 1, hw := some 33, nb := none, s := true }) ∧
    decodeTableWord 48 0x20C000090000 = some (.post hB { a := 9, hw := none, nb := none, s := false }) ∧
    decodeTableWord 96 0x00000000000210C500000007 = some (.cwait hA { c := 7, t := .imm 2 }) ∧
    decodeTableWord 48 0x20C900241000 = some (.tagw hB { g := 36, all := true }) ∧
    decodeTableWord 48 0x20CD26220000 = some (.kqrySt hB { d := 38, g := 34 }) ∧
    decodeTableWord 48 0x01D300000000 = some (.yield ⟨0, 0, 0, 1⟩ {}) ∧
    decodeTableWord 48 0x00D301001000 = some (.yieldF hA { p := 1 }) := by decide
theorem test_decode_system :
    decodeTableWord 48 0x00D400000007 = some (.trap hA { code := 7 }) ∧
    decodeTableWord 48 0x00D500001000 = some (.rettNx hA {}) ∧
    decodeTableWord 48 0x00D505002000 = some (.rettRes hA { g := 5 }) ∧
    decodeTableWord 48 0x20D622000000 = some (.chk hB { g := 34 }) ∧
    decodeTableWord 48 0x00D700000003 = some (.abort hA { code := 3 }) ∧
    decodeTableWord 48 0x20D802050000 = some (.xlateR hB { p := 2, a := 5 }) ∧
    decodeTableWord 48 0x20DF04280003 = some (.tlbiVa hB { vd := 3, a := 4, g := 40 }) ∧
    decodeTableWord 48 0x00DC00000008 = some (.fshare hA { n := 8 }) ∧
    decodeTableWord 48 0x20DD00040001 = some (.fwswap hB { p := 1, a := 4 }) ∧
    decodeTableWord 48 0x20E100040000 = some (.shrd hB { a := 4 }) ∧
    decodeTableWord 48 0x20E228050002 = some (.frzArm hB { p := 2, g := 40, a := 5 }) ∧
    decodeTableWord 48 0x20E228002001 = some (.frz hB { p := 1, g := 40 }) := by decide
theorem test_decode_engines :
    decodeTableWord 48 0x00E800080300 =
      some (.mma hA { t := 0, ka := 0, kb := 1, k1 := 3, keep := false, ta := false, tb := false, fmt := .e4m3 }) ∧
    decodeTableWord 48 0x00E803120753 =
      some (.mma hA { t := 3, ka := 2, kb := 2, k1 := 7, keep := true, ta := true, tb := false, fmt := .bf16 }) ∧
    decodeTableWord 48 0x00E904080104 = some (.mblk hA { t := 4, ka := 0, kb := 1, k1 := 1, keep := false, fmt := .e4m3 }) ∧
    decodeTableWord 48 0x00EA02042102 = some (.scacc hA { td := 2, ts := 4, nb1 := 1, aa := 1, ab := 2, fmt := .e4m3 }) ∧
    decodeTableWord 48 0x00ED02030032 = some (.astore hA { t := 2, a := 3, stride := none, sat := true, i := false, fmt := .e4m3 }) ∧
    decodeTableWord 48 0x00ED00010121 = some (.astore hA { t := 0, a := 1, stride := some 1, sat := false, i := false, fmt := .f16 }) ∧
    decodeTableWord 48 0x00EF01010000 = some (.rpop hA { k := 1, n1 := 1 }) ∧
    decodeTableWord 48 0x00F209020200 = some (.xlay hA { dst := .ring 1, a := 2, g := 2, frm := .lin, dto := .lin }) ∧
    decodeTableWord 48 0x00F445010001 = some (.copy hA { ct := 5, te := true, a := 1, l := true }) ∧
    decodeTableWord 48 0x00F700010100 = some (.cfill hA { ct := 0, te := false, a := 1, g := 1, l := false }) := by decide
/-! ## Each bound of a field refuses a term that breaks it (R25, R66, R68 to R75) -/

theorem test_wf_refuses_0 : [
    (Instr.add hA ⟨0x1000000000000, 0, (.reg 0)⟩).wf,
    (Instr.add hA ⟨0, 0x1000000000000, (.reg 0)⟩).wf,
    (Instr.mulh hA ⟨0x1000000000000, 0, (.reg 0), false⟩).wf,
    (Instr.mulh hA ⟨0, 0x1000000000000, (.reg 0), false⟩).wf,
    (Instr.abs hA ⟨0x1000000000000, 0⟩).wf,
    (Instr.abs hA ⟨0, 0x1000000000000⟩).wf,
    (Instr.bfx hA ⟨0x1000000000000, 0, 0, 0, false⟩).wf,
    (Instr.bfx hA ⟨0, 0x1000000000000, 0, 0, false⟩).wf,
    (Instr.bfx hA ⟨0, 0, 0x1000000000000, 0, false⟩).wf,
    (Instr.bfx hA ⟨0, 0, 0, 0x1000000000000, false⟩).wf,
    (Instr.bfi hA ⟨0x1000000000000, 0, 0, 0⟩).wf,
    (Instr.bfi hA ⟨0, 0x1000000000000, 0, 0⟩).wf,
    (Instr.bfi hA ⟨0, 0, 0x1000000000000, 0⟩).wf,
    (Instr.bfi hA ⟨0, 0, 0, 0x1000000000000⟩).wf,
    (Instr.sel hA ⟨0x1000000000000, 0, 0, 0, false⟩).wf,
    (Instr.sel hA ⟨0, 0x1000000000000, 0, 0, false⟩).wf,
    (Instr.sel hA ⟨0, 0, 0x1000000000000, 0, false⟩).wf,
    (Instr.sel hA ⟨0, 0, 0, 0x1000000000000, false⟩).wf,
    (Instr.mov hA (.fromG 0x1000000000000 0)).wf,
    (Instr.mov hA (.fromG 0 0x1000000000000)).wf,
    (Instr.mov hA (.fromB 0x1000000000000 0)).wf,
    (Instr.mov hA (.fromB 0 0x1000000000000)).wf,
    (Instr.movi hA ⟨0x1000000000000, (.low 0)⟩).wf,
    (Instr.movx hA ⟨0x1000000000000, 0⟩).wf,
    (Instr.movx hA ⟨0, 0x1000000000000⟩).wf,
    (Instr.cmp hA ⟨0x1000000000000, 0, (.reg 0), .eq⟩).wf,
    (Instr.cmp hA ⟨0, 0x1000000000000, (.reg 0), .eq⟩).wf,
    (Instr.plog hA ⟨0x1000000000000, 0, 0, .and⟩).wf,
    (Instr.plog hA ⟨0, 0x1000000000000, 0, .and⟩).wf,
    (Instr.plog hA ⟨0, 0, 0x1000000000000, .and⟩).wf,
    (Instr.pmov hA (.pp 0x1000000000000 0)).wf,
    (Instr.pmov hA (.pp 0 0x1000000000000)).wf,
    (Instr.pmov hA (.gAll 0x1000000000000)).wf,
    (Instr.pmov hA (.allG 0x1000000000000)).wf,
    (Instr.pmov hA (.pg 0x1000000000000 0)).wf,
    (Instr.pmov hA (.pg 0 0x1000000000000)).wf,
    (Instr.aadd hA ⟨0x1000000000000, 0, (.reg 0), false⟩).wf,
    (Instr.aadd hA ⟨0, 0x1000000000000, (.reg 0), false⟩).wf,
    (Instr.alea hA ⟨0x1000000000000, 0, 0, 0, false⟩).wf,
    (Instr.alea hA ⟨0, 0x1000000000000, 0, 0, false⟩).wf,
    (Instr.alea hA ⟨0, 0, 0x1000000000000, 0, false⟩).wf,
    (Instr.alea hA ⟨0, 0, 0, 0x1000000000000, false⟩).wf,
    (Instr.amov hA (.fromA 0x1000000000000 0)).wf,
    (Instr.amov hA (.fromA 0 0x1000000000000)).wf,
    (Instr.amov hA (.fromG 0x1000000000000 0)).wf,
    (Instr.amov hA (.fromG 0 0x1000000000000)).wf,
    (Instr.amov hA (.fromGG 0x1000000000000 0 0)).wf,
    (Instr.amov hA (.fromGG 0 0x1000000000000 0)).wf,
    (Instr.amov hA (.fromGG 0 0 0x1000000000000)).wf,
    (Instr.amov hA (.imm 0x1000000000000 0)).wf,
    (Instr.amov hA (.imm 0 0x1000000000000)).wf,
    (Instr.aget hA ⟨0x1000000000000, 0, false⟩).wf,
    (Instr.aget hA ⟨0, 0x1000000000000, false⟩).wf,
    (Instr.acmp hA ⟨0x1000000000000, 0, 0, .eq⟩).wf,
    (Instr.acmp hA ⟨0, 0x1000000000000, 0, .eq⟩).wf,
    (Instr.acmp hA ⟨0, 0, 0x1000000000000, .eq⟩).wf,
    (Instr.fadd hA ⟨0x1000000000000, 0, 0, .dyn⟩).wf,
    (Instr.fadd hA ⟨0, 0x1000000000000, 0, .dyn⟩).wf,
    (Instr.fadd hA ⟨0, 0, 0x1000000000000, .dyn⟩).wf,
    (Instr.fma hA ⟨0x1000000000000, 0, 0, .dyn⟩).wf].all (· = false) = true := by decide
theorem test_wf_refuses_1 : [
    (Instr.fma hA ⟨0, 0x1000000000000, 0, .dyn⟩).wf,
    (Instr.fma hA ⟨0, 0, 0x1000000000000, .dyn⟩).wf,
    (Instr.fmin hA ⟨0x1000000000000, 0, 0⟩).wf,
    (Instr.fmin hA ⟨0, 0x1000000000000, 0⟩).wf,
    (Instr.fmin hA ⟨0, 0, 0x1000000000000⟩).wf,
    (Instr.fsqrt hA ⟨0x1000000000000, 0, .dyn⟩).wf,
    (Instr.fsqrt hA ⟨0, 0x1000000000000, .dyn⟩).wf,
    (Instr.fcmp hA ⟨0x1000000000000, 0, 0, .eq⟩).wf,
    (Instr.fcmp hA ⟨0, 0x1000000000000, 0, .eq⟩).wf,
    (Instr.fcmp hA ⟨0, 0, 0x1000000000000, .eq⟩).wf,
    (Instr.fcvt hA ⟨0x1000000000000, 0, .f32, .f32, .dyn, false⟩).wf,
    (Instr.fcvt hA ⟨0, 0x1000000000000, .f32, .f32, .dyn, false⟩).wf,
    (Instr.fsgn hA ⟨0x1000000000000, 0, 0, .cpy⟩).wf,
    (Instr.fsgn hA ⟨0, 0x1000000000000, 0, .cpy⟩).wf,
    (Instr.fsgn hA ⟨0, 0, 0x1000000000000, .cpy⟩).wf,
    (Instr.fcls hA ⟨0x1000000000000, 0, .f32⟩).wf,
    (Instr.fcls hA ⟨0, 0x1000000000000, .f32⟩).wf,
    (Instr.pbr hA ⟨0x1000000000000, 0, 0, false⟩).wf,
    (Instr.pbr hA ⟨0, 0x1000000000000, 0, false⟩).wf,
    (Instr.pbr hA ⟨0, 0, 0x1000000000000, false⟩).wf,
    (Instr.pbrg hA ⟨0x1000000000000, 0, false⟩).wf,
    (Instr.pbrg hA ⟨0, 0x1000000000000, false⟩).wf,
    (Instr.br hA ⟨0x1000000000000⟩).wf,
    (Instr.call hA ⟨0x1000000000000, 0⟩).wf,
    (Instr.call hA ⟨0, 0x1000000000000⟩).wf,
    (Instr.loop hA ⟨0x1000000000000, 0, 0⟩).wf,
    (Instr.loop hA ⟨0, 0x1000000000000, 0⟩).wf,
    (Instr.loop hA ⟨0, 0, 0x1000000000000⟩).wf,
    (Instr.ldlt hA ⟨0x1000000000000, 0, (.reg 0)⟩).wf,
    (Instr.ldlt hA ⟨0, 0x1000000000000, (.reg 0)⟩).wf,
    (Instr.ldltClr hA ⟨0x1000000000000⟩).wf,
    (Instr.lbrk hA ⟨0x1000000000000⟩).wf,
    (Instr.ld hA ⟨0x1000000000000, 0, 0, false, false, (.field16 0)⟩).wf,
    (Instr.ld hA ⟨0, 0x1000000000000, 0, false, false, (.field16 0)⟩).wf,
    (Instr.ld hA ⟨0, 0, 0x1000000000000, false, false, (.field16 0)⟩).wf,
    (Instr.st hA ⟨0x1000000000000, 0, 0, false, (.field16 0)⟩).wf,
    (Instr.st hA ⟨0, 0x1000000000000, 0, false, (.field16 0)⟩).wf,
    (Instr.st hA ⟨0, 0, 0x1000000000000, false, (.field16 0)⟩).wf,
    (Instr.lda hA ⟨0x1000000000000, 0, false, (.field16 0)⟩).wf,
    (Instr.lda hA ⟨0, 0x1000000000000, false, (.field16 0)⟩).wf,
    (Instr.sta hA ⟨0x1000000000000, 0, false, (.field16 0)⟩).wf,
    (Instr.sta hA ⟨0, 0x1000000000000, false, (.field16 0)⟩).wf,
    (Instr.ldfe hA ⟨0x1000000000000, 0, false, (.field16 0)⟩).wf,
    (Instr.ldfe hA ⟨0, 0x1000000000000, false, (.field16 0)⟩).wf,
    (Instr.stef hA ⟨0x1000000000000, 0, false, (.field16 0)⟩).wf,
    (Instr.stef hA ⟨0, 0x1000000000000, false, (.field16 0)⟩).wf,
    (Instr.barr hA ⟨0x1000000000000, 0, false, false, 0⟩).wf,
    (Instr.barr hA ⟨0, 0x1000000000000, false, false, 0⟩).wf,
    (Instr.bwait hA ⟨0x1000000000000, 0, false, false, false, 0⟩).wf,
    (Instr.bwait hA ⟨0, 0x1000000000000, false, false, false, 0⟩).wf,
    (Instr.notify hA ⟨0x1000000000000, 0⟩).wf,
    (Instr.notify hA ⟨0, 0x1000000000000⟩).wf,
    (Instr.waitn hA ⟨0x1000000000000, 0, 0, false⟩).wf,
    (Instr.waitn hA ⟨0, 0x1000000000000, 0, false⟩).wf,
    (Instr.waitn hA ⟨0, 0, 0x1000000000000, false⟩).wf,
    (Instr.qpop hA ⟨0x1000000000000, 0, false⟩).wf,
    (Instr.qpop hA ⟨0, 0x1000000000000, false⟩).wf,
    (Instr.qpush hA ⟨0x1000000000000, 0, false⟩).wf,
    (Instr.qpush hA ⟨0, 0x1000000000000, false⟩).wf,
    (Instr.qstat hA ⟨0x1000000000000, 0⟩).wf].all (· = false) = true := by decide
theorem test_wf_refuses_2 : [
    (Instr.qstat hA ⟨0, 0x1000000000000⟩).wf,
    (Instr.qclr hA ⟨0x1000000000000⟩).wf,
    (Instr.qst hA ⟨0x1000000000000, 0⟩).wf,
    (Instr.qst hA ⟨0, 0x1000000000000⟩).wf,
    (Instr.ldq hA ⟨0x1000000000000, 0, 0, false, false, false, (.field16 0)⟩).wf,
    (Instr.ldq hA ⟨0, 0x1000000000000, 0, false, false, false, (.field16 0)⟩).wf,
    (Instr.ldq hA ⟨0, 0, 0x1000000000000, false, false, false, (.field16 0)⟩).wf,
    (Instr.ldqs hA ⟨0x1000000000000, 0, 0, false, (.field13 0)⟩).wf,
    (Instr.ldqs hA ⟨0, 0x1000000000000, 0, false, (.field13 0)⟩).wf,
    (Instr.ldqs hA ⟨0, 0, 0x1000000000000, false, (.field13 0)⟩).wf,
    (Instr.ldqx hA ⟨0x1000000000000, 0, 0, 0, 0, false, false⟩).wf,
    (Instr.ldqx hA ⟨0, 0x1000000000000, 0, 0, 0, false, false⟩).wf,
    (Instr.ldqx hA ⟨0, 0, 0x1000000000000, 0, 0, false, false⟩).wf,
    (Instr.ldqx hA ⟨0, 0, 0, 0x1000000000000, 0, false, false⟩).wf,
    (Instr.ldqx hA ⟨0, 0, 0, 0, 0x1000000000000, false, false⟩).wf,
    (Instr.stf hA ⟨0x1000000000000, 0, 0, false, (.field16 0)⟩).wf,
    (Instr.stf hA ⟨0, 0x1000000000000, 0, false, (.field16 0)⟩).wf,
    (Instr.stf hA ⟨0, 0, 0x1000000000000, false, (.field16 0)⟩).wf,
    (Instr.stfs hA ⟨0x1000000000000, 0, 0, (.field13 0)⟩).wf,
    (Instr.stfs hA ⟨0, 0x1000000000000, 0, (.field13 0)⟩).wf,
    (Instr.stfs hA ⟨0, 0, 0x1000000000000, (.field13 0)⟩).wf,
    (Instr.stfx hA ⟨0x1000000000000, 0, 0, 0, 0, false⟩).wf,
    (Instr.stfx hA ⟨0, 0x1000000000000, 0, 0, 0, false⟩).wf,
    (Instr.stfx hA ⟨0, 0, 0x1000000000000, 0, 0, false⟩).wf,
    (Instr.stfx hA ⟨0, 0, 0, 0x1000000000000, 0, false⟩).wf,
    (Instr.stfx hA ⟨0, 0, 0, 0, 0x1000000000000, false⟩).wf,
    (Instr.pref hA ⟨0x1000000000000, false, 0⟩).wf,
    (Instr.cwb hA ⟨0x1000000000000, 0, 0⟩).wf,
    (Instr.cwb hA ⟨0, 0x1000000000000, 0⟩).wf,
    (Instr.amo hA ⟨0x1000000000000, 0, 0, false, false, .part, .rlx, .add⟩).wf,
    (Instr.amo hA ⟨0, 0x1000000000000, 0, false, false, .part, .rlx, .add⟩).wf,
    (Instr.amo hA ⟨0, 0, 0x1000000000000, false, false, .part, .rlx, .add⟩).wf,
    (Instr.acas hA ⟨0x1000000000000, 0, 0, false, .part, .rlx, .rlx⟩).wf,
    (Instr.acas hA ⟨0, 0x1000000000000, 0, false, .part, .rlx, .rlx⟩).wf,
    (Instr.acas hA ⟨0, 0, 0x1000000000000, false, .part, .rlx, .rlx⟩).wf,
    (Instr.vamo hA ⟨0x1000000000000, 0, 0, false, false, .part, .rlx, .addI32⟩).wf,
    (Instr.vamo hA ⟨0, 0x1000000000000, 0, false, false, .part, .rlx, .addI32⟩).wf,
    (Instr.vamo hA ⟨0, 0, 0x1000000000000, false, false, .part, .rlx, .addI32⟩).wf,
    (Instr.xfer hA ⟨0x1000000000000, 0⟩).wf,
    (Instr.xfer hA ⟨0, 0x1000000000000⟩).wf,
    (Instr.rclaim hA ⟨0x1000000000000, 0⟩).wf,
    (Instr.rclaim hA ⟨0, 0x1000000000000⟩).wf,
    (Instr.rshare hA ⟨0x1000000000000⟩).wf,
    (Instr.vadd hA ⟨0x1000000000000, 0, (.vec 0), 0, false, .w32⟩).wf,
    (Instr.vadd hA ⟨0, 0x1000000000000, (.vec 0), 0, false, .w32⟩).wf,
    (Instr.vadd hA ⟨0, 0, (.vec 0), 0x1000000000000, false, .w32⟩).wf,
    (Instr.vmulh hA ⟨0x1000000000000, 0, (.vec 0), 0, false, .w32, false⟩).wf,
    (Instr.vmulh hA ⟨0, 0x1000000000000, (.vec 0), 0, false, .w32, false⟩).wf,
    (Instr.vmulh hA ⟨0, 0, (.vec 0), 0x1000000000000, false, .w32, false⟩).wf,
    (Instr.vmad hA ⟨0x1000000000000, 0, (.vec 0), 0, false, .w32⟩).wf,
    (Instr.vmad hA ⟨0, 0x1000000000000, (.vec 0), 0, false, .w32⟩).wf,
    (Instr.vmad hA ⟨0, 0, (.vec 0), 0x1000000000000, false, .w32⟩).wf,
    (Instr.vabs hA ⟨0x1000000000000, 0, 0, false, .w32⟩).wf,
    (Instr.vabs hA ⟨0, 0x1000000000000, 0, false, .w32⟩).wf,
    (Instr.vabs hA ⟨0, 0, 0x1000000000000, false, .w32⟩).wf,
    (Instr.vcmp hA ⟨0x1000000000000, 0, 0, 0, false, .eq⟩).wf,
    (Instr.vcmp hA ⟨0, 0x1000000000000, 0, 0, false, .eq⟩).wf,
    (Instr.vcmp hA ⟨0, 0, 0x1000000000000, 0, false, .eq⟩).wf,
    (Instr.vcmp hA ⟨0, 0, 0, 0x1000000000000, false, .eq⟩).wf,
    (Instr.vsel hA ⟨0x1000000000000, 0, (.vec 0), 0, .w32⟩).wf].all (· = false) = true := by decide
theorem test_wf_refuses_3 : [
    (Instr.vsel hA ⟨0, 0x1000000000000, (.vec 0), 0, .w32⟩).wf,
    (Instr.vsel hA ⟨0, 0, (.vec 0), 0x1000000000000, .w32⟩).wf,
    (Instr.vfadd hA ⟨0x1000000000000, 0, (.vec 0), 0, false, .f32⟩).wf,
    (Instr.vfadd hA ⟨0, 0x1000000000000, (.vec 0), 0, false, .f32⟩).wf,
    (Instr.vfadd hA ⟨0, 0, (.vec 0), 0x1000000000000, false, .f32⟩).wf,
    (Instr.vfma hA ⟨0x1000000000000, 0, (.vec 0), 0, false, .f32⟩).wf,
    (Instr.vfma hA ⟨0, 0x1000000000000, (.vec 0), 0, false, .f32⟩).wf,
    (Instr.vfma hA ⟨0, 0, (.vec 0), 0x1000000000000, false, .f32⟩).wf,
    (Instr.vfsqrt hA ⟨0x1000000000000, 0, 0, false, .f32⟩).wf,
    (Instr.vfsqrt hA ⟨0, 0x1000000000000, 0, false, .f32⟩).wf,
    (Instr.vfsqrt hA ⟨0, 0, 0x1000000000000, false, .f32⟩).wf,
    (Instr.vfcmp hA ⟨0x1000000000000, 0, 0, 0, false, .eq⟩).wf,
    (Instr.vfcmp hA ⟨0, 0x1000000000000, 0, 0, false, .eq⟩).wf,
    (Instr.vfcmp hA ⟨0, 0, 0x1000000000000, 0, false, .eq⟩).wf,
    (Instr.vfcmp hA ⟨0, 0, 0, 0x1000000000000, false, .eq⟩).wf,
    (Instr.vfsgn hA ⟨0x1000000000000, 0, 0, 0, false, .f32, .cpy⟩).wf,
    (Instr.vfsgn hA ⟨0, 0x1000000000000, 0, 0, false, .f32, .cpy⟩).wf,
    (Instr.vfsgn hA ⟨0, 0, 0x1000000000000, 0, false, .f32, .cpy⟩).wf,
    (Instr.vfsgn hA ⟨0, 0, 0, 0x1000000000000, false, .f32, .cpy⟩).wf,
    (Instr.vcvt hA ⟨0x1000000000000, 0, 0, .f32, .f32, .dyn, false⟩).wf,
    (Instr.vcvt hA ⟨0, 0x1000000000000, 0, .f32, .f32, .dyn, false⟩).wf,
    (Instr.vcvt hA ⟨0, 0, 0x1000000000000, .f32, .f32, .dyn, false⟩).wf,
    (Instr.vqenc hA ⟨0x1000000000000, 0, 0, 0, .e4m3⟩).wf,
    (Instr.vqenc hA ⟨0, 0x1000000000000, 0, 0, .e4m3⟩).wf,
    (Instr.vqenc hA ⟨0, 0, 0x1000000000000, 0, .e4m3⟩).wf,
    (Instr.vqenc hA ⟨0, 0, 0, 0x1000000000000, .e4m3⟩).wf,
    (Instr.vqdec hA ⟨0x1000000000000, 0, 0, 0, .e4m3⟩).wf,
    (Instr.vqdec hA ⟨0, 0x1000000000000, 0, 0, .e4m3⟩).wf,
    (Instr.vqdec hA ⟨0, 0, 0x1000000000000, 0, .e4m3⟩).wf,
    (Instr.vqdec hA ⟨0, 0, 0, 0x1000000000000, .e4m3⟩).wf,
    (Instr.vscl hA ⟨0x1000000000000, 0, (.vec 0), 0, false, .f32⟩).wf,
    (Instr.vscl hA ⟨0, 0x1000000000000, (.vec 0), 0, false, .f32⟩).wf,
    (Instr.vscl hA ⟨0, 0, (.vec 0), 0x1000000000000, false, .f32⟩).wf,
    (Instr.vred hA ⟨0x1000000000000, 0, 0, .add, .i32⟩).wf,
    (Instr.vred hA ⟨0, 0x1000000000000, 0, .add, .i32⟩).wf,
    (Instr.vred hA ⟨0, 0, 0x1000000000000, .add, .i32⟩).wf,
    (Instr.vscan hA ⟨0x1000000000000, 0, 0, false, .add, .i32⟩).wf,
    (Instr.vscan hA ⟨0, 0x1000000000000, 0, false, .add, .i32⟩).wf,
    (Instr.vscan hA ⟨0, 0, 0x1000000000000, false, .add, .i32⟩).wf,
    (Instr.vperm hA ⟨0x1000000000000, 0, 0, 0, false, .w32⟩).wf,
    (Instr.vperm hA ⟨0, 0x1000000000000, 0, 0, false, .w32⟩).wf,
    (Instr.vperm hA ⟨0, 0, 0x1000000000000, 0, false, .w32⟩).wf,
    (Instr.vperm hA ⟨0, 0, 0, 0x1000000000000, false, .w32⟩).wf,
    (Instr.vshuf hA ⟨0x1000000000000, 0, 0, 0, false, .w32⟩).wf,
    (Instr.vshuf hA ⟨0, 0x1000000000000, 0, 0, false, .w32⟩).wf,
    (Instr.vshuf hA ⟨0, 0, 0x1000000000000, 0, false, .w32⟩).wf,
    (Instr.vshuf hA ⟨0, 0, 0, 0x1000000000000, false, .w32⟩).wf,
    (Instr.vbcst hA ⟨0x1000000000000, (.elem 0 0), 0, false, .w32⟩).wf,
    (Instr.vbcst hA ⟨0, (.elem 0 0), 0x1000000000000, false, .w32⟩).wf,
    (Instr.vext hA ⟨0x1000000000000, 0, (.imm 0), .w32, false⟩).wf,
    (Instr.vext hA ⟨0, 0x1000000000000, (.imm 0), .w32, false⟩).wf,
    (Instr.vins hA ⟨0x1000000000000, 0, (.imm 0), .w32⟩).wf,
    (Instr.vins hA ⟨0, 0x1000000000000, (.imm 0), .w32⟩).wf,
    (Instr.viota hA ⟨0x1000000000000, 0, false⟩).wf,
    (Instr.viota hA ⟨0, 0x1000000000000, false⟩).wf,
    (Instr.vcmprs hA ⟨0x1000000000000, 0, 0, false⟩).wf,
    (Instr.vcmprs hA ⟨0, 0x1000000000000, 0, false⟩).wf,
    (Instr.vcmprs hA ⟨0, 0, 0x1000000000000, false⟩).wf,
    (Instr.vsort hA ⟨0x1000000000000, 0, 0, 0, .i32, false⟩).wf,
    (Instr.vsort hA ⟨0, 0x1000000000000, 0, 0, .i32, false⟩).wf].all (· = false) = true := by decide
theorem test_wf_refuses_4 : [
    (Instr.vsort hA ⟨0, 0, 0x1000000000000, 0, .i32, false⟩).wf,
    (Instr.vsort hA ⟨0, 0, 0, 0x1000000000000, .i32, false⟩).wf,
    (Instr.vrnd hA ⟨0x1000000000000, 0, (.reg 0), 0, false, false⟩).wf,
    (Instr.vrnd hA ⟨0, 0x1000000000000, (.reg 0), 0, false, false⟩).wf,
    (Instr.vrnd hA ⟨0, 0, (.reg 0), 0x1000000000000, false, false⟩).wf,
    (Instr.vdot hA ⟨0x1000000000000, 0, 0, 0, false, .bf16⟩).wf,
    (Instr.vdot hA ⟨0, 0x1000000000000, 0, 0, false, .bf16⟩).wf,
    (Instr.vdot hA ⟨0, 0, 0x1000000000000, 0, false, .bf16⟩).wf,
    (Instr.vdot hA ⟨0, 0, 0, 0x1000000000000, false, .bf16⟩).wf,
    (Instr.mlog hA ⟨0x1000000000000, 0, 0, .and⟩).wf,
    (Instr.mlog hA ⟨0, 0x1000000000000, 0, .and⟩).wf,
    (Instr.mlog hA ⟨0, 0, 0x1000000000000, .and⟩).wf,
    (Instr.mpop hA ⟨0x1000000000000, 0⟩).wf,
    (Instr.mpop hA ⟨0, 0x1000000000000⟩).wf,
    (Instr.mff hA ⟨0x1000000000000, 0, false⟩).wf,
    (Instr.mff hA ⟨0, 0x1000000000000, false⟩).wf,
    (Instr.mmov hA (.mm 0x1000000000000 0)).wf,
    (Instr.mmov hA (.mm 0 0x1000000000000)).wf,
    (Instr.mmov hA (.mg 0x1000000000000 0)).wf,
    (Instr.mmov hA (.mg 0 0x1000000000000)).wf,
    (Instr.mmov hA (.gm 0x1000000000000 0)).wf,
    (Instr.mmov hA (.gm 0 0x1000000000000)).wf,
    (Instr.mmov hA (.imm 0x1000000000000 0)).wf,
    (Instr.mmov hA (.imm 0 0x1000000000000)).wf,
    (Instr.vld hA ⟨0x1000000000000, 0, false, (.field16 0)⟩).wf,
    (Instr.vld hA ⟨0, 0x1000000000000, false, (.field16 0)⟩).wf,
    (Instr.vlds hA ⟨0x1000000000000, 0, 0, (.field13 0)⟩).wf,
    (Instr.vlds hA ⟨0, 0x1000000000000, 0, (.field13 0)⟩).wf,
    (Instr.vlds hA ⟨0, 0, 0x1000000000000, (.field13 0)⟩).wf,
    (Instr.vldx hA ⟨0x1000000000000, 0, 0, 0, 0, false⟩).wf,
    (Instr.vldx hA ⟨0, 0x1000000000000, 0, 0, 0, false⟩).wf,
    (Instr.vldx hA ⟨0, 0, 0x1000000000000, 0, 0, false⟩).wf,
    (Instr.vldx hA ⟨0, 0, 0, 0x1000000000000, 0, false⟩).wf,
    (Instr.vldx hA ⟨0, 0, 0, 0, 0x1000000000000, false⟩).wf,
    (Instr.vst hA ⟨0x1000000000000, 0, false, (.field16 0)⟩).wf,
    (Instr.vst hA ⟨0, 0x1000000000000, false, (.field16 0)⟩).wf,
    (Instr.vmovx hA ⟨0x1000000000000, 0, 0, false⟩).wf,
    (Instr.vmovx hA ⟨0, 0x1000000000000, 0, false⟩).wf,
    (Instr.vmovx hA ⟨0, 0, 0x1000000000000, false⟩).wf,
    (Instr.post hA ⟨0x1000000000000, none, none, false⟩).wf,
    (Instr.postx hA ⟨0x1000000000000, 0, 0⟩).wf,
    (Instr.postx hA ⟨0, 0x1000000000000, 0⟩).wf,
    (Instr.postx hA ⟨0, 0, 0x1000000000000⟩).wf,
    (Instr.fdef hA ⟨0x1000000000000, 0⟩).wf,
    (Instr.fdef hA ⟨0, 0x1000000000000⟩).wf,
    (Instr.frel hA ⟨0x1000000000000⟩).wf,
    (Instr.rinit hA ⟨0x1000000000000, 0⟩).wf,
    (Instr.rinit hA ⟨0, 0x1000000000000⟩).wf,
    (Instr.cwait hA ⟨0x1000000000000, (.reg 0)⟩).wf,
    (Instr.cwaitNb hA ⟨0x1000000000000, 0, (.reg 0)⟩).wf,
    (Instr.cwaitNb hA ⟨0, 0x1000000000000, (.reg 0)⟩).wf,
    (Instr.csig hA ⟨0x1000000000000, (.reg 0)⟩).wf,
    (Instr.csigR hA ⟨0x1000000000000, (.reg 0), 0⟩).wf,
    (Instr.csigR hA ⟨0, (.reg 0), 0x1000000000000⟩).wf,
    (Instr.crd hA ⟨0x1000000000000, 0⟩).wf,
    (Instr.crd hA ⟨0, 0x1000000000000⟩).wf,
    (Instr.tagw hA ⟨0x1000000000000, false⟩).wf,
    (Instr.tagwNb hA ⟨0x1000000000000, 0, false⟩).wf,
    (Instr.tagwNb hA ⟨0, 0x1000000000000, false⟩).wf,
    (Instr.tagff hA ⟨0x1000000000000, 0⟩).wf].all (· = false) = true := by decide
theorem test_wf_refuses_5 : [
    (Instr.tagff hA ⟨0, 0x1000000000000⟩).wf,
    (Instr.tagclr hA ⟨0x1000000000000⟩).wf,
    (Instr.kqrySt hA ⟨0x1000000000000, 0⟩).wf,
    (Instr.kqrySt hA ⟨0, 0x1000000000000⟩).wf,
    (Instr.kqryOcc hA ⟨0x1000000000000⟩).wf,
    (Instr.kqryVer hA ⟨0x1000000000000, 0⟩).wf,
    (Instr.kqryVer hA ⟨0, 0x1000000000000⟩).wf,
    (Instr.nest hA ⟨0x1000000000000, 0, 0⟩).wf,
    (Instr.nest hA ⟨0, 0x1000000000000, 0⟩).wf,
    (Instr.nest hA ⟨0, 0, 0x1000000000000⟩).wf,
    (Instr.csrr hA ⟨0x1000000000000, 0⟩).wf,
    (Instr.csrr hA ⟨0, 0x1000000000000⟩).wf,
    (Instr.csrw hA ⟨0x1000000000000, (.reg 0)⟩).wf,
    (Instr.csrx hA ⟨0x1000000000000, 0, 0⟩).wf,
    (Instr.csrx hA ⟨0, 0x1000000000000, 0⟩).wf,
    (Instr.csrx hA ⟨0, 0, 0x1000000000000⟩).wf,
    (Instr.yieldF hA ⟨0x1000000000000⟩).wf,
    (Instr.trap hA ⟨0x1000000000000⟩).wf,
    (Instr.rettRes hA ⟨0x1000000000000⟩).wf,
    (Instr.rettRef hA ⟨0x1000000000000⟩).wf,
    (Instr.chk hA ⟨0x1000000000000⟩).wf,
    (Instr.chkQ hA ⟨0x1000000000000⟩).wf,
    (Instr.chkNb hA ⟨0x1000000000000, 0⟩).wf,
    (Instr.chkNb hA ⟨0, 0x1000000000000⟩).wf,
    (Instr.abortReq hA ⟨0x1000000000000⟩).wf,
    (Instr.xlateR hA ⟨0x1000000000000, 0⟩).wf,
    (Instr.xlateR hA ⟨0, 0x1000000000000⟩).wf,
    (Instr.xlateW hA ⟨0x1000000000000, 0⟩).wf,
    (Instr.xlateW hA ⟨0, 0x1000000000000⟩).wf,
    (Instr.xlateP hA ⟨0x1000000000000, 0⟩).wf,
    (Instr.xlateP hA ⟨0, 0x1000000000000⟩).wf,
    (Instr.fshare hA ⟨0x1000000000000⟩).wf,
    (Instr.fwswap hA ⟨0x1000000000000, 0⟩).wf,
    (Instr.fwswap hA ⟨0, 0x1000000000000⟩).wf,
    (Instr.ptw hA ⟨0x1000000000000, 0⟩).wf,
    (Instr.ptw hA ⟨0, 0x1000000000000⟩).wf,
    (Instr.ptwNb hA ⟨0x1000000000000, 0, 0⟩).wf,
    (Instr.ptwNb hA ⟨0, 0x1000000000000, 0⟩).wf,
    (Instr.ptwNb hA ⟨0, 0, 0x1000000000000⟩).wf,
    (Instr.tlbiVa hA ⟨0x1000000000000, 0, 0⟩).wf,
    (Instr.tlbiVa hA ⟨0, 0x1000000000000, 0⟩).wf,
    (Instr.tlbiVa hA ⟨0, 0, 0x1000000000000⟩).wf,
    (Instr.tlbiVd hA ⟨0x1000000000000⟩).wf,
    (Instr.purge hA ⟨0x1000000000000⟩).wf,
    (Instr.purgeClr hA ⟨0x1000000000000⟩).wf,
    (Instr.shrd hA ⟨0x1000000000000⟩).wf,
    (Instr.frzArm hA ⟨0x1000000000000, 0, 0⟩).wf,
    (Instr.frzArm hA ⟨0, 0x1000000000000, 0⟩).wf,
    (Instr.frzArm hA ⟨0, 0, 0x1000000000000⟩).wf,
    (Instr.frzY hA ⟨0x1000000000000, 0⟩).wf,
    (Instr.frzY hA ⟨0, 0x1000000000000⟩).wf,
    (Instr.frz hA ⟨0x1000000000000, 0⟩).wf,
    (Instr.frz hA ⟨0, 0x1000000000000⟩).wf,
    (Instr.frzRes hA ⟨0x1000000000000, 0, 0⟩).wf,
    (Instr.frzRes hA ⟨0, 0x1000000000000, 0⟩).wf,
    (Instr.frzRes hA ⟨0, 0, 0x1000000000000⟩).wf,
    (Instr.frzDirty hA ⟨0x1000000000000, 0, 0⟩).wf,
    (Instr.frzDirty hA ⟨0, 0x1000000000000, 0⟩).wf,
    (Instr.frzDirty hA ⟨0, 0, 0x1000000000000⟩).wf,
    (Instr.frzGo hA ⟨0x1000000000000, 0⟩).wf].all (· = false) = true := by decide
theorem test_wf_refuses_6 : [
    (Instr.frzGo hA ⟨0, 0x1000000000000⟩).wf,
    (Instr.frzDis hA ⟨0x1000000000000⟩).wf,
    (Instr.mma hA ⟨0x1000000000000, 0, 0, 0, false, false, false, .e4m3⟩).wf,
    (Instr.mma hA ⟨0, 0x1000000000000, 0, 0, false, false, false, .e4m3⟩).wf,
    (Instr.mma hA ⟨0, 0, 0x1000000000000, 0, false, false, false, .e4m3⟩).wf,
    (Instr.mma hA ⟨0, 0, 0, 0x1000000000000, false, false, false, .e4m3⟩).wf,
    (Instr.mblk hA ⟨0x1000000000000, 0, 0, 0, false, .e4m3⟩).wf,
    (Instr.mblk hA ⟨0, 0x1000000000000, 0, 0, false, .e4m3⟩).wf,
    (Instr.mblk hA ⟨0, 0, 0x1000000000000, 0, false, .e4m3⟩).wf,
    (Instr.mblk hA ⟨0, 0, 0, 0x1000000000000, false, .e4m3⟩).wf,
    (Instr.scacc hA ⟨0x1000000000000, 0, 0, 0, 0, .e4m3⟩).wf,
    (Instr.scacc hA ⟨0, 0x1000000000000, 0, 0, 0, .e4m3⟩).wf,
    (Instr.scacc hA ⟨0, 0, 0x1000000000000, 0, 0, .e4m3⟩).wf,
    (Instr.scacc hA ⟨0, 0, 0, 0x1000000000000, 0, .e4m3⟩).wf,
    (Instr.scacc hA ⟨0, 0, 0, 0, 0x1000000000000, .e4m3⟩).wf,
    (Instr.azero hA ⟨0x1000000000000⟩).wf,
    (Instr.aload hA ⟨0x1000000000000, 0, none⟩).wf,
    (Instr.aload hA ⟨0, 0x1000000000000, none⟩).wf,
    (Instr.astore hA ⟨0x1000000000000, 0, none, false, false, .f32⟩).wf,
    (Instr.astore hA ⟨0, 0x1000000000000, none, false, false, .f32⟩).wf,
    (Instr.acopy hA ⟨0x1000000000000, 0⟩).wf,
    (Instr.acopy hA ⟨0, 0x1000000000000⟩).wf,
    (Instr.rpop hA ⟨0x1000000000000, 0⟩).wf,
    (Instr.rpop hA ⟨0, 0x1000000000000⟩).wf,
    (Instr.xpose hA ⟨(.addr 0), 0x1000000000000, 0, .w8⟩).wf,
    (Instr.xpose hA ⟨(.addr 0), 0, 0x1000000000000, .w8⟩).wf,
    (Instr.xreq hA ⟨(.addr 0), 0x1000000000000, 0, .e4m3⟩).wf,
    (Instr.xreq hA ⟨(.addr 0), 0, 0x1000000000000, .e4m3⟩).wf,
    (Instr.xlay hA ⟨(.addr 0), 0x1000000000000, 0, .lin, .lin⟩).wf,
    (Instr.xlay hA ⟨(.addr 0), 0, 0x1000000000000, .lin, .lin⟩).wf,
    (Instr.copy hA ⟨0x1000000000000, false, 0, false⟩).wf,
    (Instr.copy hA ⟨0, false, 0x1000000000000, false⟩).wf,
    (Instr.copyg hA ⟨0x1000000000000, false, 0, 0, false⟩).wf,
    (Instr.copyg hA ⟨0, false, 0x1000000000000, 0, false⟩).wf,
    (Instr.copyg hA ⟨0, false, 0, 0x1000000000000, false⟩).wf,
    (Instr.cfill hA ⟨0x1000000000000, false, 0, 0, false⟩).wf,
    (Instr.cfill hA ⟨0, false, 0x1000000000000, 0, false⟩).wf,
    (Instr.cfill hA ⟨0, false, 0, 0x1000000000000, false⟩).wf,
    (Instr.cred hA ⟨0x1000000000000, false, 0, false, .addF32⟩).wf,
    (Instr.cred hA ⟨0, false, 0x1000000000000, false, .addF32⟩).wf].all (· = false) = true := by decide
/-- The checks that relate fields, and those of the header and of operand kinds. -/
theorem test_wf_relations : [
    (Instr.add ⟨3, 0, 0, 0⟩ ⟨0, 0, .reg 0⟩).wf, (Instr.add ⟨0, 2, 0, 0⟩ ⟨0, 0, .reg 0⟩).wf, (Instr.add ⟨0, 0, 2, 1⟩ ⟨0, 0, .reg 0⟩).wf,
    (Instr.add ⟨0, 0, 0, 8⟩ ⟨0, 0, .reg 0⟩).wf, (Instr.add ⟨0, 0, 1, 0⟩ ⟨0, 0, .reg 0⟩).wf, (Instr.nop ⟨1, 0, 0, 0⟩ {}).wf,
    (Instr.nop ⟨0, 0, 0, 1⟩ {}).wf, (Instr.add hA ⟨0, 0, .reg 64⟩).wf, (Instr.add hA ⟨0, 0, .imm 0x10000⟩).wf,
    (Instr.add hA ⟨0, 0, .ext 0x100000000⟩).wf, (Instr.cmp hA ⟨0, 0, .reg 64, .eq⟩).wf, (Instr.cmp hA ⟨0, 0, .imm 0x100000000, .eq⟩).wf,
    (Instr.movi hA ⟨0, .low 0x10000⟩).wf, (Instr.movi hA ⟨0, .high 0x10000⟩).wf, (Instr.movi hA ⟨0, .ext 0x100000000⟩).wf,
    (Instr.ld hA ⟨0, 0, 3, false, false, .field16 0⟩).wf, (Instr.ld hA ⟨0, 0, 2, true, false, .field16 0⟩).wf,
    (Instr.ld hA ⟨0, 16, 0, false, true, .field16 0⟩).wf, (Instr.ld hA ⟨0, 0, 0, false, false, .field16 0x10000⟩).wf,
    (Instr.ld hA ⟨0, 0, 0, false, false, .ext 0x100000000⟩).wf, (Instr.vlds hA ⟨0, 0, 0, .field13 0x2000⟩).wf,
    (Instr.vlds hA ⟨0, 0, 0, .ext 0x100000000⟩).wf, (Instr.vadd hA ⟨0, 0, .vec 256, 0, false, .w32⟩).wf,
    (Instr.vadd hA ⟨0, 0, .gs 64, 0, false, .w32⟩).wf, (Instr.vadd hA ⟨0, 0, .imm 256, 0, false, .w8⟩).wf,
    (Instr.vbcst hA ⟨0, .elem 0 32, 0, false, .w32⟩).wf, (Instr.vext hA ⟨0, 0, .imm 32, .w32, false⟩).wf,
    (Instr.fcvt hA ⟨0, 0, .e8, .f32, .rne, false⟩).wf, (Instr.fcvt hA ⟨0, 0, .f16, .e8, .rne, false⟩).wf,
    (Instr.tagw hA ⟨1, true⟩).wf].all (· = false) = true := by decide

/-! ## States that meet the hypotheses of the statements -/

def st (f : Stream → Stream) (c : Core → Core) (y : Sys → Sys) : State :=
  { State.reset with strm := f State.reset.strm, core := c State.reset.core, sys := y State.reset.sys }
def stS (f : Stream → Stream) : State := st f id id
def stC (c : Core → Core) : State := st id c id

/-- An unguarded plain instruction is clear in every state without marks and physical errors: the states below have none. -/
theorem clear_of (s : State) (us : List RegUse) (u : s.strm.upsets = []) (m : s.strm.gMark = []) : s.Clear hA us := by
  refine ⟨?_, u, fun n _ => ?_⟩
  · simp [State.guardOn, State.rdP, State.struck_clean u, hA]
  · unfold State.markG; rw [m]; rfl

/-- The statements of scalar, floating-point and vector results, of control registers and of every other clause whose one hypothesis is
that the instruction is clear: State.reset is such a state, for every register that an instruction names. -/
theorem witness_Clear (us : List RegUse) : State.reset.Clear hA us := clear_of _ us rfl rfl

/-- A launch of two logical cores on die 0 of package 0. -/
def aLaunch : Launch where
  vdev := 0
  pkg := 0
  phase := .running
  prio := 0
  pool := 0
  image := 0
  param := 0
  lb := []
  repl := false
  tbrk := false
  tpol := 0
  multi := false
  spanBase := 0
  dmask := 1
  cores := [2]
  ranks := [0]
  maps := [(0, some 0), (1, some 1)]
  nests := []
  nest0 := []
  run := none
  nestIdx := 0
  filters := []
  purgeList := []
  npurge := 0
  purgeOut := []
  replays := 0
  bare := none
  ring := 0
  cookie := 0
  pseq := 0
  slot := none
  lent := []
  pages := []
  relocs := []
  saggar := []
  sagPool := []
  paramCopy := []
  dirty := []
  area := none
  parked := []
  cut := []
  freezing := []
  gen := 1
  arrivals := []
  sentAt := 0
  yieldAsked := []
  goes := false

/-- Core 0 runs logical core 0 of the launch; `l` is the launch. -/
def inLaunch (l : Launch) (f : Stream → Stream) (c : Core → Core) (y : Sys → Sys) : State :=
  st f (fun k => c { k with launch := launchKey 0 1, lcore := 0 }) fun x => y { x with launches := [(launchKey 0 1, some l)] }

/-- The firmware context of core 0 issues. -/
def fw (f : Stream → Stream) (c : Core → Core) (y : Sys → Sys) : State :=
  { st id c y with sid := sidOf 0 8, strm := f { Stream.reset 8 .firmware with run := .running } }

theorem witness_FwClear (us : List RegUse) : (fw id id id).FwClear hA us := ⟨clear_of _ us rfl rfl, by decide⟩

/-! ### Scalar flow and local memory -/

theorem witness_BranchAndLoopInstructions :
    (stS fun x => { x with g := [(1, 5)] }).rdG 1 ≠ 0 ∧ State.reset.rdG 1 = 0 ∧ (State.reset.rdLc 0).active = false ∧
    ((stS fun x => { x with lc := [(0, { Loop.idle with active := true })] }).rdLc 0).active = true ∧ State.reset.strm.lost = [] ∧
    (stS fun x => { x with lost := [(3, 28)] }).strm.lost = (3, 28) :: [] := by decide +kernel
-- The slot of a packed target: 10 is the last valid one, 11 the first that PBRG refuses (R112).
theorem witness_BranchTargets : ((10 : Nat) % 16 ≤ 10) ∧ (10 < (11 : Nat) % 16) := by decide
def loopAt (count : Word) : State := stS fun x => { x with lc := [(0, { Loop.idle with active := true, count := count, last := ⟨1, 4⟩ })] }
def LoopEnds (count : Word) (s : State) : Prop := s.strm.latch.taken = none ∧ s.strm.latch.ended = false ∧ s.strm.handler = false ∧
  s.strm.latch.lcNew = [] ∧ (s.rdLc 1).active = false ∧ (s.rdLc 2).active = false ∧ (s.rdLc 0).active = true ∧ (s.rdLc 0).last = ⟨1, 4⟩ ∧
  (s.rdLc 0).count = count
theorem witness_ProgramOrder :
    (stS fun x => { x with latch := { Latch.clear with taken := some ⟨1, 0⟩ } }).strm.latch.taken = some ⟨1, 0⟩ ∧
    (State.reset.strm.latch.taken = none ∧ ∀ n, n < 3 → (State.reset.rdLc n).active = false) ∧ LoopEnds 1 (loopAt 1) ∧ LoopEnds 2 (loopAt 2) := by
  unfold LoopEnds; decide +kernel
/-- Two levels that end at one bundle: the inner one, level 2, is in its last round, and the outer one goes back (R119). -/
def nested : State := stS fun x => { x with lc := [(0, ⟨true, 5, ⟨0, 3⟩, ⟨1, 4⟩, [(2, 64)]⟩), (2, ⟨true, 1, ⟨1, 0⟩, ⟨1, 4⟩, []⟩)] }
theorem witness_LoopBack :
    (nested.strm.upsets = [] ∧ nested.strm.latch.taken = none ∧ nested.strm.latch.ended = false ∧ nested.strm.handler = false ∧
      1 < (nested.rdLc 0).count.toNat ∧
      ((nested.rdLc 2).active && decide ((nested.rdLc 2).last = ⟨1, 4⟩) && !(nested.strm.latch.lcNew.contains 2)) = true ∧
      (nested.rdLc 2).count.toNat ≤ 1) ∧
    (loopAt 1).strm.upsets = [] ∧ LoopEnds 1 (loopAt 1) ∧
    (nested.moveOn ⟨1, 4⟩ 5).strm.pos = ⟨0, 3⟩ ∧ ((nested.moveOn ⟨1, 4⟩ 5).rdLc 2).active = false ∧
    ((nested.moveOn ⟨1, 4⟩ 5).rdLc 0).count = 4 ∧ (nested.moveOn ⟨1, 4⟩ 5).strm.flight.map (·.dst) = [.a 2] := by
  unfold LoopEnds; decide +kernel

/-- The window ends at byte `winSize`, and the tiles of the widest pool fill 2 MiB from 0x1000000 (R27, R229). -/
theorem witness_ScalarLocalLoads :
    (∀ n ∈ [1, 2, 4, 8], Claims.Readable State.reset (winSize 0 - n) n) ∧
    Claims.Readable (stC fun c => { c with pool := widePool }) (0x1000000 + 0x200000 - 8) 8 := by
  unfold Claims.Readable Claims.Loads; decide +kernel
theorem witness_LocalFaults : Claims.Mapped State.reset (winSize 0 - 1) ∧ ¬ Claims.Mapped State.reset (winSize 0) ∧
    ¬ Claims.Mapped State.reset 0x1000000 ∧ winSize 0 < (winSize 0 - 3) + 2 ^ 2 := by
  unfold Claims.Mapped; decide
/-- A speculative task that unit 0 runs. -/
def aTask : KEntry := ⟨[], 1, .running, 0, 0, [], true, [], true, true, 1, some 0, [], none, 0, [], 0⟩
theorem witness_LocalStores : (∀ n ∈ [1, 2, 4, 8, 128], Claims.Writable State.reset (winSize 0 - n) n) ∧
    (inLaunch aLaunch id (fun c => { c with window := [(0, some aTask)] }) id).specSlot = some 0 := by
  unfold Claims.Writable; decide
def lanesAt (s : State) (step : Nat) : List FarPart := Claims.laneParts s 0 fun i => BitVec.ofNat 64 (step * i)
/-- All in the window, up to its last byte; all in tiles; some in the window and others above it. -/
theorem witness_VectorLoads :
    State.reset.acquiring = false ∧
    (∀ p ∈ [(⟨0, winSize 0 - 128, 128⟩ : FarPart)], p.va + p.n ≤ winSize State.reset.core.pool ∧ State.reset.core.poisoned p.va p.n = false) ∧
    (∀ p ∈ lanesAt State.reset 4, p.va + p.n ≤ winSize State.reset.core.pool ∧ State.reset.core.poisoned p.va p.n = false) ∧
    (let s := stC fun c => { c with pool := widePool }
     ∀ p ∈ [(⟨0, 0x1000000 + 0x200000 - 128, 128⟩ : FarPart)], winSize s.core.pool < p.va + p.n ∧ Claims.Loads s p.va p.n ∧
       s.core.poisoned p.va p.n = false) ∧
    (∃ p ∈ lanesAt State.reset 0x80000, p.va + p.n ≤ winSize State.reset.core.pool) ∧
    (∃ p ∈ lanesAt State.reset 0x80000, winSize State.reset.core.pool < p.va + p.n) := by
  unfold Claims.Loads; decide +kernel
theorem witness_VectorStores :
    State.reset.acquiring = false ∧ State.reset.specSlot = none ∧
    (∀ p ∈ lanesAt State.reset 4, p.va + p.n ≤ winSize State.reset.core.pool) ∧
    (let s := inLaunch aLaunch id (fun c => { c with window := [(0, some aTask)] }) id
     s.specSlot = some 0 ∧ (s.writeParts 0 (lanesAt s 4)).isSome) := by decide +kernel

/-! ### Synchronisation and queues -/

/-- A speculative task that has emptied word 1 itself: the others still see it full (R273). -/
def specEmpty : State := inLaunch aLaunch id (fun c => { c with window := [(0, some aTask)], commitFe := [(0, [(1, some true)])] }) id
theorem witness_FullEmptyInstructions :
    (winSize 0 - 4) % 4 = 0 ∧ winSize 0 - 4 + 4 ≤ winSize State.reset.core.pool ∧ State.reset.acquiring = false ∧
    State.reset.emptyWord 4 = false ∧ (stC fun c => { c with feEmpty := [(1, true)] }).emptyWord 4 = true ∧
    specEmpty.emptyWord 4 = true ∧ specEmpty.core.feEmpty = [] ∧ specEmpty.specSlot ≠ none ∧
    State.reset.core.poisoned 4 4 = false ∧ State.reset.released false = true ∧ State.reset.specSlot = none := by decide +kernel
theorem witness_BarrierInstructions :
    State.reset.spCheck false 0 false (.field16 8) 8 8 = .ok (none, 8) ∧ State.reset.released true = true ∧ State.reset.specSlot = none ∧
    (stC fun c => { c with loc := [(12, 1)] }).spCheck false 0 false (.field16 8) 8 8 = .ok (none, 8) ∧
    (inLaunch aLaunch (fun x => { x with rbar := .answered 7, a := [(1, 0x1000000000000)] }) id id).spCheck true 1 false (.field16 0) 8 8 =
      .ok (some (1, 0), 0) ∧
    (inLaunch aLaunch id id id).lcoreAt 1 ≠ .nowhere ∧ (inLaunch aLaunch id id id).strm.lost = [] ∧ (inLaunch aLaunch id id id).specSlot = none ∧
    (SMap.get 0 3 (stC fun c => { c with notify := [(3, 5)] }).core.notify &&& 4 : Word) ≠ 0 ∧
    (SMap.get 0 3 State.reset.core.notify &&& 4 : Word) = 0 := by decide +kernel
/-- An entry of a queue whose data, 7, is there; and one that a run-ahead has allocated. -/
def anEntry : QEntry := ⟨1, some 7, 0, .none, false, false, 0, Pos.zero, none⟩
def queued (n : Nat) : State := stS fun x => { x with q := [(0, List.replicate n anEntry)] }
theorem witness_Queues :
    (∃ e rest x, (queued 1).rdQ 0 = e :: rest ∧ e.spec = false ∧ e.data = some x ∧ e.readyAt ≤ (queued 1).core.ac ∧ e.mark = .none) ∧
    (∀ e ∈ (stS fun x => { x with q := [(0, [{ anEntry with spec := true }])] }).rdQ 0, e.spec = true) ∧ State.reset.rdQ 0 = [] ∧
    (((queued 7).rdQ 0).filter fun e => !e.spec).length < 8 ∧ 8 ≤ (((queued 8).rdQ 0).filter fun e => !e.spec).length := by
  refine ⟨⟨_, _, _, rfl, rfl, rfl, by decide, rfl⟩, by decide⟩
def ringed (c : Core) : Core := c.setRing 0 { Ring.zero with init := true, slotsz := 1, nslot := 1 }
theorem witness_QueueToRing :
    let s := { queued 1 with core := ringed State.reset.core }
    let r : Ring := s.core.ring 0
    s.specSlot = none ∧ r.fill = 0 ∧ r.published + r.freed + r.reserved.length + 1 ≤ r.nslot ∧
    (Ring.slotsOf { r with reserved := r.reserved ++ [(⟨qstOwner, s.strm.tagr.toNat, false, false⟩ : RingRes)] } qstOwner).head? = some 0 := by decide

/-! ### Far memory and atomics -/

/-- Page 0 of virtual device 0 is mapped, uncached (`nc`) or cached, and logical core 0 owns the region that it is. -/
def aPage (nc : Bool) : Tlb := ⟨0x10000, true, nc, false, 16, []⟩
def aRegion (state : Nat) : Region := ⟨0, 0, 1, 0, 16, state, true⟩
def far (nc : Bool) (f : Stream → Stream) : State :=
  inLaunch aLaunch f (fun c => { c with tlb := [(0, some (aPage nc))] }) fun y =>
    { y with pkgs := [(0, { Pkg.reset with regions := [(0, (aRegion 1).bits)] })] }
def farPiece (nc : Bool) (va n : Nat) : FarPiece := ⟨⟨0, va, n⟩, ⟨0x10000 + va, !nc, false⟩⟩

theorem witness_FarLoads :
    let s := far true id
    let x := s.farCtx s.sid
    (∀ n ∈ [1, 2, 4, 128], Claims.FarReady s 0 [⟨0, 0x10000 - n, n⟩] false [farPiece true (0x10000 - n) n]) ∧
    s.missRoom s.ck (s.l1Misses x [farPiece true 0 4]) = true ∧
    (far false id).missRoom s.ck ((far false id).l1Misses x [farPiece false 0 4]) = true ∧ (farPiece true 0 4).remote x = false ∧
    isDieReg (farPiece true 0 4).hit.addr = false ∧ s.farPoisoned x.core (farPiece true 0 4).hit 4 = false ∧ s.sys.reqs = [] ∧
    s.adoptLoad 0 = none ∧ (Claims.ordinary s 0).length < 8 ∧ 8 ≤ (Claims.ordinary (queued 8) 0).length ∧ s.farBlocked x [⟨0, 0x10000, 4⟩] = false ∧
    s.farPieces x 0 [⟨0, 0x10000, 4⟩] false = .error (18, 0x10000) ∧ s.farPieces x 0 [⟨0, 2, 4⟩] false = .error (7, 2) ∧
    -- the base register holds an address beyond the space, however the effective address wraps (R240)
    s.farPieces x 0x100000000000000 [⟨0, 0, 4⟩] false = .error (18, 0) ∧ (s.linesOf x.core).length < l1Lines := by
  refine ⟨?_, ?_⟩
  · unfold Claims.FarReady; decide +kernel
  · decide +kernel
theorem witness_FarStoresAndBytes :
    let s := far true id
    let x := s.farCtx s.sid
    Claims.FarReady s 0 [⟨0, 0xFFFC, 4⟩] true [farPiece true 0xFFFC 4] ∧ (s.takePages x [⟨0, 0xFFFC, 4⟩]).toBool = true ∧
    (∀ s1, s.takePages x [⟨0, 0xFFFC, 4⟩] = .ok s1 → s1.farPieces x 0 [⟨0, 0xFFFC, 4⟩] true = .ok [farPiece true 0xFFFC 4]) ∧
    s.farPieces x 0 [⟨0, 0x10000, 4⟩] true = .error (18, 0x10000) ∧ x.core = s.ck ∧
    ((aPage false).nc = false ∧ (farPiece false 0 4).hit.cached = true ∧ ((far false id).linesOf x.core).length + 4 / 128 + 2 ≤ l1Lines) := by
  refine ⟨?_, by decide +kernel, ?_, by decide +kernel⟩
  · unfold Claims.FarReady; decide +kernel
  · intro s1 e
    have h : State.takePages (far true id) ((far true id).farCtx (far true id).sid) [⟨0, 0xFFFC, 4⟩] = .ok (far true id) := by rfl
    cases h.symm.trans e; decide +kernel
theorem witness_CachesAndOwnership :
    let s := far false id
    let x := s.farCtx s.sid
    (2 ^ 56 - 1 : Nat) < 2 ^ 56 ∧ s.farBlocked x [⟨0, 0xFFFF, 1⟩] = false ∧
    s.farPieces x 0 [⟨0, 0xFFFF, 1⟩] false = .ok [farPiece false 0xFFFF 1] ∧
    (far true id).farPieces x 0 [⟨0, 0xFFFF, 1⟩] false = .ok [farPiece true 0xFFFF 1] ∧ (s.farPieces x 0 [⟨0, 0x10000, 1⟩] false).toBool = false ∧
    s.missRoom s.ck (s.l1Misses x [farPiece false 0xFFFF 1]) = true ∧ s.strm.lost = [] ∧ s.acquiring = false ∧
    s.ownedRegion x 0xFFFF = some (0, aRegion 1) ∧ s.ownedRegion x 0x10000 = none ∧ s.lcoreAt 0 ≠ .nowhere ∧ s.lcoreAt 1 ≠ .nowhere ∧
    s.core.frameMeets (aRegion 1) = false ∧ s.regionQuiet s.ck x.vdev (aRegion 1) = true ∧
    s.regionMatch x.pkg x.vdev (launchId s.core.launch) 0 = [(0, aRegion 1)] ∧ s.regionMatch x.pkg x.vdev (launchId s.core.launch) 0x10000 = [] ∧
    ({ s with sys := { s.sys with pkgs := [(0, { Pkg.reset with regions := [(0, (aRegion 0).bits)] })] } }).regionMatch x.pkg x.vdev 1 0 =
      [(0, aRegion 0)] ∧
    (({ s with sys := { s.sys with pkgs := [(0, { Pkg.reset with regions := [(0, (aRegion 1).bits), (1, (aRegion 2).bits)] })] } }).regionMatch x.pkg
      x.vdev 1 0).length = 2 := by decide +kernel
/-- A firmware context in physical-address mode. -/
def physFw : State := fw (fun y => { y with fwvd := 16 }) id id
def physPiece (a : Nat) : FarPiece := ⟨⟨0, a, 4⟩, ⟨a, false, false⟩⟩
theorem witness_Atomics :
    let s := far true fun x => { x with a := [(1, 0x1000000000000)] }
    let x := s.farCtx s.sid
    (Claims.ordinary s 0).length < 8 ∧ s.acquiring = false ∧ s.released true = true ∧ s.strm.lost = [] ∧ s.specSlot = none ∧
    (∀ n ∈ [4, 32], s.spCheck true 0 false (.field16 0) n n = .ok (none, 0) ∧ s.spCheck true 1 false (.field16 0) n n = .ok (some (1, 0), 0)) ∧
    s.atomRoom s.rank = true ∧ s.atomRoom 0 = true ∧ s.farBlocked x [⟨0, 0xFFFC, 4⟩] = false ∧
    s.farPieces x 0 [⟨0, 0xFFFC, 4⟩] true = .ok [farPiece true 0xFFFC 4] ∧ isDieReg (farPiece true 0xFFFC 4).hit.addr = false ∧
    s.farWait x [farPiece true 0xFFFC 4] = false ∧ (farPiece true 0xFFFC 4).remote x = false ∧
    (s.takePages x [(farPiece true 0xFFFC 4).part]).toBool = true ∧
    -- an ACAS on a zero word: it writes where it expects 0, and fails where it expects another value
    natOfBytes (Memory.readBytes s.sys.hbm 0x1FFFC 4) = 0 ∧
    -- a firmware context in physical-address mode addresses a die register, and HBM of package 1
    (let y := physFw.farCtx physFw.sid
     physFw.farPieces y 0 [⟨0, 0x3F0000003000, 4⟩] true = .ok [physPiece 0x3F0000003000] ∧ isDieReg 0x3F0000003000 = true ∧
     (physPiece 0x3F0000003000).remote y = false ∧ physFw.regReady 0 0x3F0000003000 4 = true ∧ physFw.atomRoom 0 = true ∧
     physFw.farBlocked y [⟨0, 0x1000000000000, 4⟩] = false ∧ physFw.farWait y [physPiece 0x1000000000000] = false ∧
     physFw.farPieces y 0x1000000000000 [⟨0, 0x1000000000000, 4⟩] true = .ok [physPiece 0x1000000000000] ∧
     (physPiece 0x1000000000000).remote y = true ∧ physFw.atomRoom 4 = true) := by decide +kernel
/-- The saggar pages of an access in physical-address mode: none, so the state and the translation stay. -/
theorem witness_AtomicPages : let y := physFw.farCtx physFw.sid
    physFw.takePages y [⟨0, 0x1000000000000, 4⟩] = .ok physFw ∧ physFw.takePages y [⟨0, 0x3F0000003000, 4⟩] = .ok physFw := ⟨rfl, rfl⟩

/-! ### The control unit -/

/-- Local memory whose byte `a` is `b`, and frame 1 over local byte 0. -/
def withByte (a b : Nat) : State := stC fun c => { c with loc := [(a, b)] }
def aFrame (space : Word) : Frame := ⟨[0, 0, space, 0, 0, 0, 0, 0], 0, true, [], none⟩
def framed (space : Word) : State := inLaunch aLaunch id (fun c => { c with frames := [(1, some (aFrame space))] }) id
/-- The waiting record `words`, which slot 0 of the window holds. -/
def inWindow (words : List Word) (c : Core) : Core :=
  { c with window := [(0, some { aTask with words := words, state := .waiting, spec := false, unit := none })] }

/-- Virtual device 0 with a tree of one leaf of 1 GiB, and the region that is page 0. -/
def treed (y : Sys) : Sys := { y with
  hbm := Memory.writeBytes 0x1000 (leBytes 8 0x40000007) (Memory.writeBytes 0x2000 (leBytes 8 0x1001) [])
  pkgs := [(0, { Pkg.reset with regions := [(0, (aRegion 1).bits)], vdevs := [(0, { Vdev.reset with root := 0x2000 })] })] }

theorem witness_Frames :
    let d := fun (s : State) => FrameD.of (s.localWords 0 8)
    State.reset.core.frame 1 = none ∧ ((framed 0).core.frame 1).isSome ∧ State.reset.acquiring = false ∧ (0 : Nat) + 32 ≤ winSize 0 ∧
    State.reset.core.poisoned 0 32 = false ∧
    (d State.reset).bad (State.reset.localWords 0 8) State.reset.core = false ∧ (d State.reset).space = 0 ∧
    ((d State.reset).hull State.reset.core).2 ≤ winSize 0 ∧ (d State.reset).overlaps State.reset.core = false ∧
    (d (framed 0)).overlaps (framed 0).core = true ∧ (d (withByte 8 3)).bad ((withByte 8 3).localWords 0 8) (withByte 8 3).core = true ∧
    State.reset.pinTry [] = .ok State.reset ∧ (framed 0).core.entries = [] ∧
    -- a frame over a page of far memory
    (let s := inLaunch aLaunch id (fun c => { c with loc := [(8, 1)] }) treed
     (d s).space = 1 ∧ (d s).bad (s.localWords 0 8) s.core = false ∧ (d s).overlaps s.core = false ∧ (d s).deferred = false ∧
     (let pages := pagesOf s.vdev ((d s).hull s.core).1 (((d s).hull s.core).2 - ((d s).hull s.core).1)
      pages = [(0, 0)] ∧ (s.walkVa s.pkg 0 0).isSome ∧ s.pagesBlocked pages = false ∧ (s.pinTry pages).toBool = true) ∧
     s.foreignByte ((d s).hull s.core).1 ((d s).hull s.core).2 = none) := by decide +kernel
theorem witness_Rings :
    State.reset.ringBusy 0 = false ∧ (stC ringed).ringBusy 0 = false ∧ State.reset.core.poisoned 0 16 = false ∧
    (stC fun c => (ringed c).setRing 0 { Ring.zero with init := true, slotsz := 1, nslot := 1, fill := 1 }).ringBusy 0 = true ∧
    (let s := stC fun c => { c with loc := [(4, 1), (6, 1)] }
     s.localNat 4 4 % 0x10000 = 1 ∧ s.localNat 4 4 / 0x10000 = 1 ∧ s.localNat 0 4 + 1 * 1 * 128 ≤ winSize 0) := by decide +kernel
/-- A window of `n` waiting records. -/
def windowOf (n : Nat) : State := stC fun c =>
  { c with window := (List.range n).map fun i => (i, some { aTask with state := .waiting, spec := false, unit := none }) }
theorem witness_Posts :
    State.reset.acquiring = false ∧ State.reset.resolvedRun = none ∧ 224 ≤ (windowOf 224).core.localEntries ∧
    (windowOf 223).core.localEntries < 224 ∧ (windowOf 223).core.freeSlot = some 223 ∧ (0 : Nat) + 64 ≤ winSize 0 ∧
    State.reset.core.poisoned 0 64 = false ∧ State.reset.pagesBlocked (State.reset.core.lazyPages State.reset.vdev (State.reset.localWords 0 16)) = false ∧
    State.reset.core.taskFormat (State.reset.localWords 0 16) = false ∧
    (withByte 0 7).core.taskFormat ((withByte 0 7).localWords 0 16) = true ∧ recordBad ((withByte 0 7).localWords 0 16) = true ∧
    recordBad (State.reset.localWords 0 16) = false ∧
    (State.reset.postCheck (State.reset.localWords 0 16)).toBool = true ∧
    State.reset.filtered State.reset.core.launch (recTag (State.reset.localWords 0 16)) = false ∧
    (let s := inLaunch { aLaunch with filters := [(0, [1])] } id (fun c => { c with loc := [(2, 1)] }) id
     s.filtered s.core.launch (recTag (s.localWords 0 16)) = true) ∧
    (inLaunch aLaunch id id id).lcoreAt 1 ≠ .nowhere ∧ (inLaunch aLaunch id id id).lcoreAt 2 = .nowhere ∧ State.reset.strm.lost = [] := by
  decide +kernel
theorem witness_ConesTagsAndModes :
    (65535 % 65536 ≤ (SMap.get 0 3 (stC fun c => { c with cones := [(3, 65535)] }).core.cones).toNat % 65536) ∧
    ¬(65535 % 65536 ≤ (SMap.get 0 3 (stC fun c => { c with cones := [(3, 65534)] }).core.cones).toNat % 65536) ∧
    ((stC fun c => { c with tags := 0x8000000000000000 }).core.tags &&& 0x8000000000000000 = 0x8000000000000000) ∧
    (State.reset.core.tags &&& 1 = 0) ∧ State.reset.acquiring = false := by decide
/-- A task that waits for cone 5 to reach 2. The cone stands at 2: the wait is over in this clock, at whose end a CSET to 1 and an
increment give 2 (R184, R193). -/
def waiter : KEntry := ⟨[0, 0, 0x01000205], 1, .waiting, 0, 0, [], false, [], true, false, 1, none, [], none, 0, [], 0⟩
theorem witness_Cones :
    let c := ({ State.reset.core with cones := [(5, 2)], conePend := [.add 5 1, .set 5 1], window := [(9, some waiter)] }).acTick fun _ => false
    (∃ e', SMap.get none 9 c.window = some e' ∧ e'.waitOk = true) ∧ SMap.get 0 5 c.cones = 2 :=
  ⟨⟨{ waiter with waitOk := true, state := .ready }, by decide, rfl⟩, by decide⟩
theorem witness_ControlRegisters : csrRefuses 0 0x400 = true ∧ csrRefuses 0 0x3F4 = false ∧ csrRefuses 0 5 = true := by decide
/-- An indexed nest, of two iterations, whose table lies in page 0. -/
def tabled : State := inLaunch aLaunch id (fun c => { c with loc := [(0, 16), (12, 2)] }) treed
theorem witness_NestAndTranslate :
    let nest := fun (k : Nat) => inLaunch { aLaunch with nests := List.replicate k ⟨[], 0, 0, []⟩ } id (fun c => { c with loc := [(12, 1)] }) id
    nestBad ((nest 15).localWords 0 16) = false ∧ nestBad (State.reset.localWords 0 16) = true ∧ (0 : Nat) + 64 ≤ winSize 0 ∧
    State.reset.core.poisoned 0 64 = false ∧
    (((nest 15).localWords 0 16).getD 0 0).toNat / 4 % 4 = 0 ∧ (((nest 15).localWords 0 16).getD 0 0).toNat / 16 % 4 = 0 ∧
    (nest 15).launch.any (fun l => l.nests.length < 16) ∧ (nest 16).launch.any (fun l => 16 ≤ l.nests.length) ∧
    -- an affinity frame of far space: word 0 is 8, word 12 names frame 1
    ((framed 1).core.frame 1 = some (aFrame 1) ∧ (FrameD.of (aFrame 1).words).space = 1) ∧
    nestBad (tabled.localWords 0 16) = false ∧ ((tabled.localWords 0 16).getD 0 0).toNat / 16 % 4 = 1 ∧
    pagesOf tabled.vdev 0 4 = [(0, 0)] ∧ (tabled.walkVa tabled.pkg 0 0).isSome ∧
    State.reset.walkBlocked 0 0 0 0 = false := by decide +kernel

/-! ### Exceptions and firmware -/

/-- An image of two lines whose line 1, of the class, is the class's handler. -/
def handled (cls : Cls) : Memory := Memory.writeBytes 67 [BitVec.ofNat 8 (16 * cls.code)] (Memory.writeBytes (16 + 4 * cls.code) [1] [])
def coded (cls : Cls) (f : Stream → Stream) : State :=
  st (fun x => f { x with cls := cls }) (fun c => { c with code := handled cls, codeLen := 2, fwCode := handled .firmware, fwLen := 2 }) id
theorem witness_ExceptionEntry : ∀ cls ∈ [Cls.control, .vector, .firmware], let s := coded cls id
    s.strm.handler = false ∧ s.core.fwst ≠ .probation ∧ s.core.fwst ≠ .alive ∧ (delivery cls 1 = .handler ∨ cls = .control) ∧
    handlerLine (s.core.codeFor cls).1 (s.core.codeFor cls).2 cls = some 1 ∧ s.strm.latch.b2 = false ∧ s.strm.flight.length < 2 ^ 13 ∧
    s.strm.unit < 16 := by decide
/-- Core 0 whose vector stream of unit 1 waits for the firmware, which runs and has been told of the fault. -/
def anEvent (copy : Option Nat) : SysEvent := ⟨if copy = none then 1 else 7, 18, false, 0x1000, 0, 0, copy⟩
def waiting (copy : Option Nat) : State :=
  fw id (fun c => { c with sysCur := [anEvent copy] }) id |> fun s =>
    { s with streams := if copy = none then [(sidOf 0 1, { Stream.reset 1 .vector with run := .faulted, sysf := true })] else [] }
theorem witness_FirmwareDelivery :
    let s := { coded .vector id with streams := [(8, { Stream.reset 8 .firmware with run := .running })], sid := sidOf 0 1 }
    s.strm.handler = false ∧ delivery .vector 18 = .firmware ∧ s.strm.unit < 8 ∧ s.strm.latch.b2 = false ∧
    (s.strmOf (sidOf s.ck 8)).run = .running ∧ (s.strmOf (sidOf s.ck 8)).handler = false ∧ s.core.fwst ≠ .probation ∧ s.core.fwst ≠ .alive ∧
    s.core.sysQ = [] ∧ handlerLine s.core.fwCode s.core.fwLen .firmware = some 1 ∧
    (State.reset.strmOf (sidOf 0 8)).run ≠ .running ∧
    (fw (fun x => { x with handler := true }) id id).sid = sidOf (fw (fun x => { x with handler := true }) id id).ck 8 := by decide
theorem witness_TrapsAndReturns :
    (coded .vector fun x => { x with handler := true }).strm.handler = true ∧ State.reset.strm.endWait = false ∧
    (waiting none).waitingUnit 1 = some 1 ∧ (waiting none).core.sysEvent 1 false = some (anEvent none) ∧
    (waiting none).waitingUnit 0 = none ∧ (waiting none).asyncFault 8 = none ∧ (waiting none).waitingUnit 8 = none ∧
    (waiting (some 3)).waitingUnit 7 = none ∧ (waiting (some 3)).asyncFault 7 = some (anEvent (some 3)) ∧ (anEvent (some 3)).copyId = some 3 := by
  decide
/-- Queue 0 holds `e` behind an entry that a run-ahead has allocated. -/
def headed (e : QEntry) : State := stS fun x => { x with q := [(0, [{ anEntry with spec := true }, e])] }
theorem witness_CheckAndAbort :
    (stS fun x => { x with gMark := [(3, .poison)] }).markG 3 = .poison ∧ (stS fun x => { x with gMark := [(3, .deferred 18 64)] }).markG 3 = .deferred 18 64 ∧
    (∀ e ∈ [anEntry, { anEntry with mark := .poison }, { anEntry with mark := .deferred 18 64 }, { anEntry with data := none }],
      (((headed e).rdQ 0).filter fun e => !e.spec) = [e]) ∧
    anEntry.data ≠ none ∧ anEntry.readyAt ≤ State.reset.core.ac ∧
    (fw id id id).strm.cls = .firmware ∧ (coded .control id).strm.cls = .control ∧ (coded .control id).strm.lost = [] ∧
    (coded .vector id).strm.cls ≠ .control := by
  refine ⟨by decide, by decide, by decide +kernel, by decide⟩
theorem witness_FirmwareCommands :
    (fw id id id).strm.rbar = .none ∧ (fw (fun x => { x with rbar := .sent 0 }) id id).strm.rbar ≠ .none ∧
    (((fw id id id).purge 0 5 33 0).sendPurges 8 0).sys.reqs = [] ∧
    (fw id id id).core.poisoned 0 64 = false ∧ (fw id id id).acquiring = false ∧
    (inLaunch { aLaunch with multi := true } id id id).launch.any (fun l => l.multi) ∧
    (∃ l, ({ fw id (fun c => { c with launch := 1 }) fun y => { y with launches := [(1, some aLaunch)] } with } : State).launch = some l) ∧
    (0 : Nat) % 8 = 0 ∧ (0 : Nat) + 64 ≤ winSize 0 := by
  refine ⟨by decide, by decide, by decide, by decide, by decide, by decide, ⟨aLaunch, by decide⟩, by decide⟩
/-- A pinned page and a page table entry that no page is translated through. -/
def pinned : State := fw id id fun y => { y with dies := [(0, { Die.reset with pins := [(5, 1)] })] }
theorem witness_TranslationCommands :
    (8 : Nat) % 8 = 0 ∧ isHbm 8 = true ∧ physPkg 8 = (fw id id id).pkg ∧ (fw id id id).recordProtected 8 = false ∧
    (fw id id id).pinnedThrough 8 = false ∧ (fw id (fun c => { c with fwRecord := some (0, 64) }) id).recordProtected 8 = true ∧
    isHbm 0x1800000000 = false ∧ (fw id id id).pinnedPages 0 = [] ∧ pinned.pinnedPages 0 = [(0, 0x50000)] ∧ isParkKey (fw id id id).ck = false ∧
    (∀ x ∈ pinned.pinnedPages pinned.pkg, decide (x.1 = 0 ∧ 4 ≤ x.2 / 0x10000 ∧ x.2 / 0x10000 < 4 + 1) = false) := by decide
/-- A hand-over record of one granule at HBM address 0 of die 0, and an armed standby image. -/
def swapping (armed : Nat) : State := fw id id fun y =>
  { y with hbm := Memory.writeBytes 0 [0x48, 0x4F, 0x56, 0x52, 1, 0, 0, 0, 0, 0, 0, 0, 64] [], dies := [(0, { Die.reset with fwstby := BitVec.ofNat 64 armed })] }
theorem witness_ImageSwap :
    let s := swapping 1
    s.onDie 0 64 = true ∧ handoverLen (Memory.readBytes s.sys.hbm 0 64) (coreInDie s.ck) = some 64 ∧ (s.dieOf s.rank).fwstby.toNat % 2 = 1 ∧
    ((swapping 0).dieOf 0).fwstby.toNat % 2 = 0 ∧ s.released true = true ∧ s.strm.flight = [] ∧
    handoverLen (Memory.readBytes (s.flushRange s.ck 0 64 true).sys.hbm 0 64) 0 = some 64 := by decide

/-- Seven and eight faults pend for the firmware of core 0. -/
theorem witness_FaultRoom : let full := fun (n : Nat) (c : Core) => { c with sysQ := List.replicate n (anEvent none) }
    ((((coded .vector id).core |> full 7).sysQ).filter SysEvent.isFault).length < 8 ∧
    ¬ ((((coded .vector id).core |> full 8).sysQ).filter SysEvent.isFault).length < 8 ∧ (coded .vector id).core.sysOver = [] := by decide
theorem witness_TrapDue : let s := stS fun x => { x with trapDue := some (0xFFF + 0x1000 * 1 + 0x2000 * 3) }
    s.strm.trapDue = some (0xFFF + 0x1000 * 1 + 0x2000 * 3 + if s.strm.handler then 0x8000 else 0) := by decide
/-- A page counted that is translated through the entry at 0x1000, which a PTW of 0 would invalidate. -/
theorem witness_PtwBusy : let s := fw id id fun y => { treed y with dies := [(0, { Die.reset with pins := [(0, 1)] })] }
    (ptwGuarded (Memory.readNat s.sys.hbm 0x1000 8) 0 && s.pinnedThrough 0x1000) = true ∧ isHbm 0x1000 = true ∧ physPkg 0x1000 = s.pkg ∧
    s.recordProtected 0x1000 = false := by decide +kernel

/-! ### FRZ and the engines -/

/-- The firmware context of core 0 with a running launch of identifier 1 that it keeps, whose area is armed, and die 0's stage of its freeze. -/
def anArea : Area := ⟨0, 0x10000, 0x1000, 0, [], [], 512⟩
def freezing (armed : Bool) (stage : Nat) : State := fw id (fun c => { c with launch := launchKey 0 1 }) fun y =>
  { y with launches := [(launchKey 0 1, some { aLaunch with area := if armed then some anArea else none, freezing := [(0, stage)] })] }
theorem witness_FreezeCommands :
    let all := fun (s : State) (p : Launch → Bool) => (s.launchParts (launchKey 0 1)).all fun j => (s.launchOf j).any p
    (0 : Nat) + 64 ≤ winSize 0 ∧ (1 : Nat) % 2 ^ 28 ≠ 0 ∧ (2 ^ 28 : Nat) % 2 ^ 28 = 0 ∧ (freezing true 0).frzLaunch 1 ≠ none ∧ (freezing true 0).frzLaunch 2 = none ∧
    (freezing true 0).areaOf [] 0 0 ≠ none ∧ (freezing true 0).areaOf [] 1 0 = none ∧
    ((freezing true 0).frzLaunch 1).any (·.area ≠ none) ∧ ((freezing false 0).frzLaunch 1).any (·.area = none) ∧
    (State.reset.vdevOf 0 1).devArea = none ∧ ((State.reset.modVdev 0 1 fun v => { v with devArea := some anArea }).vdevOf 0 1).devArea = some anArea ∧
    all (freezing true 3) (fun l => l.wave.all fun r => l.stage r = 3) ∧ all (freezing true 1) (fun l => l.wave.all fun r => l.stage r ≠ 0) ∧
    all ({ fw id id fun y => { y with launches := [(launchKey 0 1, some { aLaunch with area := some anArea })] } with } : State)
      (fun l => l.area ≠ none ∧ l.phase = .running ∧ l.freezing = [] ∧ l.bare = none) ∧
    (freezing true 0).imageAt 0 0 0 = none := by decide

/-- Two full rings of two slots of 32 × 128 bytes. -/
def opRings (c : Core) : Core :=
  let r := { Ring.zero with init := true, slotsz := 32, nslot := 2, pcnt := 2 }
  { c with rings := [(0, r), (1, { r with base := 8192 })] }
def engine (f : Stream → Stream) : State := st (fun _ => f { Stream.reset 5 .matrix with run := .running }) opRings id
/-- A stream of the matrix engine with full rings may issue a pass over K = 32 in 8-bit integers, over two rings or over one with two
published slots; with the buffers all taken none issues. -/
theorem witness_MatrixPasses : Claims.PassReady (engine id) .i8 0 1 32 [0] ∧ Claims.PassReady (engine id) .i8 0 0 32 [31] := by
  unfold Claims.PassReady; decide +kernel
theorem witness_Tiles :
    (engine id).formatBarred .e4m3 = false ∧ (0 : Nat) + 128 * 16 ≤ winSize 0 ∧ (engine id).tileBusy [0, 1] = none ∧ (engine id).bufferFree = true ∧
    (engine id).core.poisoned 0 2048 = false ∧ (engine id).core.poisoned (tileAddr 31) 0x10000 = false ∧
    ({ engine id with streams := [(sidOf 0 6, Stream.reset 6 .transpose)] } : State).tileBusy [0] = none ∧
    alignRow 0 512 4 = none ∧ alignRow 2 512 4 = some 2 ∧ alignRow 0 511 4 ≠ none ∧ alignRow 0 508 4 = none ∧ (508 : Nat) < 512 ∧
    (∀ i ∈ [0, 127], rowAddr 0 512 i + 512 ≤ winSize 0) ∧ rowAddr 0 512 128 + 512 ≤ winSize 0 ∧ (engine id).commitRoom (128 * 512 + 512) = true ∧
    (engine id).strm.eng.portFree ≤ (engine id).strm.cyc ∧ ((engine id).core.ring 0).init = true ∧ ((engine id).core.ring 2).init = false ∧
    ((engine id).core.ring 0).published < ((engine id).core.ring 0).claimed + 3 ∧ ((engine id).core.ring 0).claimed + 2 ≤ ((engine id).core.ring 0).published ∧
    (engine id).strm.eng.pops = [] := by decide +kernel
/-- A tile that another task's writes are due to. -/
theorem witness_TileBusy : (engine fun x => { x with eng := { x.eng with tiles := [(3, 9)] } }).tileBusy [3] = some 3 := by decide +kernel
theorem witness_TransposeInstructions :
    -- one byte from address 0 to 1; a matrix without elements; into a ring with a free slot
    (0 : Nat) + 1 ≤ winSize 0 ∧ State.reset.core.poisoned 0 1 = false ∧ (State.reset.localWrite 1 [0]).isSome ∧ State.reset.specSlot = none ∧
    (let r := (ringed State.reset.core).ring 0
     r.init = true ∧ 1 ≤ 128 * r.slotsz ∧ r.published + r.freed + r.reserved.length + 1 ≤ r.nslot ∧
      r.slotAt ((r.pcnt + r.reserved.length) % 2 ^ 32) + 128 * r.slotsz ≤ 128) ∧
    -- XREQ at the least and the greatest sizes
    (scaledData .e4m3 32 32 + 32 * 32 / 32 ≤ winSize 0 ∧ scaledData .e4m3 512 512 + 512 * 512 / 32 ≤ winSize 0) := by decide +kernel
/-- Core 0 whose descriptor at local address 0 copies the byte at 0 to address 1, or the byte at 128 to ring 0. -/
def copying (ring : Bool) : State := stC fun c => { ringed c with loc := if ring then [(0, 12), (20, 128)] else [(28, 1)] }
/-- The hypotheses of `Claims.CopyEnters` for COPY of the descriptor at local address 0. -/
def CopyReady (s : State) : Prop :=
  let own := s.core.lcore
  let ws := s.localWords 0 16
  let d := CopyD.of ws
  let r := s.core.ring d.dring
  let need := if 128 * r.slotsz = 0 then 0 else (d.total + 128 * r.slotsz - 1) / (128 * r.slotsz)
  let seq := s.taskSeq s.sid
  s.core.copies = [] ∧ s.acquiring = false ∧ s.core.poisoned 0 64 = false ∧ d.bad 0xF4 0 false ws = false ∧
  (s.core.endP s.strm.slot seq d.sk d.sorg d.sref d.sstr d false false).any fun se =>
    (if d.dk = 3 then (if r.init && need ≤ r.nslot then some ⟨false, none, r.base, [], none⟩ else none)
      else s.core.endP s.strm.slot seq d.dk d.dorg d.dref d.dstr d true false).any fun de =>
    let to_ := if d.dk = 3 then (List.range need).map fun j => (r.slotAt ((((r.pcnt + r.reserved.length) % 2 ^ 32) + j) % 2 ^ 32), 128 * r.slotsz)
      else de.spans d some
    (se.mem own != de.mem own || !(spansMeet (se.spans d some) to_)) && se.sp.isNone && de.sp.isNone &&
    (s.hullFault se (se.hull d)).isNone && (d.dk = 3 || (s.hullFault de (de.hull d)).isNone) &&
    (s.specSlot.isNone || (d.dk != 3 && !de.far && de.mem own = own + 1)) && (d.dk != 3 || (r.reserve 1 0 need).isSome)
theorem witness_CopyInstructions : CopyReady (copying false) ∧ CopyReady (copying true) ∧
    -- a speculative task copies to its own core's scratchpad
    (let s := inLaunch aLaunch id (fun c => { c with loc := [(28, 1)], window := [(0, some aTask)] }) id
     s.specSlot = some 0 ∧ CopyReady s) ∧
    (inLaunch aLaunch id id id).lcoreAt 1 ≠ .nowhere ∧ (inLaunch aLaunch id id id).lcoreAt 2 = .nowhere ∧ (4 : Nat) % 4 = 0 ∧
    State.reset.core.copiesFull = false := by
  unfold CopyReady; decide +kernel
def aCopy : CopyProg := ⟨0, 0, 0xF4, 0, 0, 0, 0, [], 0, 0, some 63, false, 0, 0, [], [], 0, false, 0, Pos.zero, none⟩
def copies (p : CopyProg) (rs : List Req) : State := st id (fun c => { c with copies := [p], copyId := 1 }) fun y => { y with reqs := rs }
def chunkReq : Req := ⟨5, sidOf 0 7, .chunkRead 0 0, none, 0, 0, true, [], [], false, [], 0, 0, false⟩
def aWrite : TileWrite := ⟨0, [(3, [List.replicate 16384 0])], .put, 0, none, none, [], 8, false, 0, Pos.zero, 0⟩
theorem witness_EngineSteps :
    let s := engine fun x => { x with eng := { x.eng with writes := [aWrite], buffers := [0], pops := [(x.cyc, 0, 1)] } }
    s.strm.eng.buffers = [aWrite.at_] ∧ s.strm.eng.rows = [] ∧ aWrite.at_ ≤ s.strm.cyc ∧ aWrite.mode = .put ∧ aWrite.errors = [] ∧
    aWrite.spareRow = none ∧ aWrite.flags = 0 ∧
    s.strm.eng.pops = [(s.strm.cyc, 0, 1)] ∧ (State.reset.strm.eng.writes = []) ∧
    ((copies aCopy [chunkReq]).readyChunk 0 0).isSome ∧ (copies aCopy []).readyChunk 0 0 = none ∧ aCopy.nextChunk = some 0 ∧
    (copies aCopy []).mayCopy 0 = true ∧ ((copies aCopy []).coreOf 0).chunksOut < 256 ∧ aCopy.fault = none ∧
    ((copies aCopy []).coreOf 0).entries = [] ∧ CopyProg.dataDone { aCopy with performed := [0] } = true ∧ aCopy.land_ = false ∧ aCopy.flags = 0 := by
  decide +kernel

/-! ### The hardware's own steps -/

/-- The vector stream of unit 0 runs the record in window slot 0. -/
def withTask (state : KState) (words : List Word) (f : Stream → Stream) : State :=
  inLaunch aLaunch (fun x => f { x with run := .running }) (fun c => { c with window := [(0, some { aTask with words := words, state := state, spec := false })] }) id
theorem witness_ResultsLand :
    let s := stS fun x => { x with run := .running, flight := [⟨.g 5, 1, [⟨7, 0, .none, lowBits 32, 0, true⟩], Pos.zero, 0, 0, 1, false⟩] }
    s.strm.fresh = false ∧ s.strm.stall = 0 ∧ s.strm.run.active = true ∧ (∀ f ∈ s.strm.flight, f.prot = 0 ∧ f.isNext = false) ∧
    State.reset.strm.run.active = false := by decide
theorem witness_StreamEvents :
    let s := withTask .running [] fun x => { x with run := .ending, q := [(0, [anEntry])] }
    s.strm.run = .ending ∧ s.strm.flight = [] ∧ (∀ q ∈ s.strm.q, ∀ e ∈ q.2, e.data.isSome = true) ∧ (s.launch.any fun l => l.bare = none) ∧
    ((s.core.entry s.strm.slot).any fun e => e.unit = some s.strm.unit ∧ e.state = .running) ∧
    (State.reset.strm.run ≠ .ending) ∧ (fw id (fun c => { c with fwst := .probation }) id).core.fwst = .probation := by decide
/-- A core in probation; die 0 has an armed image. -/
def inProbation (st : FwState) (dc : Nat) : State := fw id (fun c => { c with fwst := st, fwDue := 5, fwShadow := some (Stream.reset 8 .firmware) }) fun y =>
  { y with dc := dc, dies := [(0, { Die.reset with fwstby := 1 })], pkgs := [(0, { Pkg.reset with working := 1 })] }
theorem witness_FirmwareEvents :
    State.reset.core.ac % 64 = 0 ∧ State.reset.core.fwWin = State.reset.core.ac ∧
    (stC fun c => { c with ac := 128, fwWin := 64 }).core.fwWin ≠ 128 ∧ (129 : Nat) % 64 ≠ 0 ∧
    ((inProbation .probation 6).coreOf 0).fwst = .probation ∧ ((inProbation .probation 6).coreOf 0).fwDue < (inProbation .probation 6).sys.dc ∧
    (inProbation .probation 5).sys.dc ≤ ((inProbation .probation 5).coreOf 0).fwDue ∧ (State.reset.coreOf 0).fwst ≠ .probation ∧
    ((inProbation .alive 5).dieOf 0).fwstby.toNat % 2 = 1 ∧ (inProbation .alive 5).sys.dc ≤ ((inProbation .alive 5).dieOf 0).armedAt + 2 ^ 30 ∧
    ((inProbation .alive (2 ^ 30 + 1)).dieOf 0).armedAt + 2 ^ 30 < (inProbation .alive (2 ^ 30 + 1)).sys.dc ∧
    (∀ r ∈ [0, 1, 2, 3], ((inProbation .alive 5).dieOf r).fwstby.toNat % 2 = 1 → r = 0) ∧
    (∀ k ∈ coresOfDie 0, bit ((inProbation .alive 5).pkgOf 0).working (coreInPkg k) = true → ((inProbation .alive 5).coreOf k).fwst = .alive) ∧
    ((inProbation .alive 5).coreOf 0).fwShadow.isSome ∧ (State.reset.dieOf 0).fwstby.toNat % 2 = 0 := by decide +kernel
/-- The CU waits at a POST while 224 records wait for a cone. -/
def stuck : State :=
  let code := Memory.writeBytes 4 (encodeBytes (.post hA ⟨0, none, none, false⟩)) []
  inLaunch aLaunch id (fun c => { c with code := code, codeLen := 1, window := (List.range 224).map fun i =>
    (i, some { aTask with state := .waiting, spec := false, unit := none, waitOk := false }) }) id |> fun s => { s with streams := [(sidOf 0 4, { Stream.reset 4 .control with run := .running, latch := { Latch.clear with wait := true } })] }
theorem witness_Tasks :
    let k := launchKey 0 1
    (State.reset.launchRuns 0 0 = false) ∧ ((withTask .ready [] id).coreOf 0).yreq = false ∧ (withTask .ready [] id).launchRuns k 0 = true ∧
    (firstEntry ((withTask .ready [] id).releasable 0 0)).isSome ∧ optGet 0 (withTask .ready [] id).core.relAc ≠ some 0 ∧
    optGet 0 (stC fun c => { c with relAc := [(0, some 0)] }).core.relAc = some State.reset.core.ac ∧ (kindUnits 0).find? (fun u => ((withTask .ready [] id).strmOf (sidOf 0 u)).run = .off) ≠ none ∧ ((withTask .ready [] id).strmOf (sidOf 0 0)).unit = 0 ∧
    (State.reset.coreOf 0).entry 0 = none ∧ (withTask .draining [] id).taskQuiet 0 1 = true ∧
    ((withTask .draining [] id).core.entry 0).any (fun e => e.state = .draining ∧ e.spec = false ∧ recKind e.words ≠ 4 ∧ e.seq = 1) ∧
    ((withTask .ready [4] id).core.entry 0).any (fun e => e.state = .ready ∧ recKind e.words = 4) ∧
    ((withTask .ready [5] id).core.entry 0).any (fun e => e.state = .ready ∧ 5 ≤ recKind e.words) ∧ ((withTask .held [] id).core.entry 0).any (·.state = .held) ∧
    State.reset.kilnStuck 0 = false ∧ (State.reset.coreOf 0).deadlock = 0 := by decide +kernel
theorem witness_KilnStuck : stuck.kilnStuck 0 = true ∧ (stuck.coreOf 0).deadlock = 0 ∧
    ((stuck.modCore 0 fun c => { c with deadlock := 1 }).coreOf 0).deadlock ≠ 0 ∧
    (({ stuck with sys := { stuck.sys with dc := 65536 } } : State).modCore 0 fun c => { c with deadlock := 1 }).kilnStuck 0 = true ∧
    (1 : Nat) + 65536 ≤ 65536 + 1 ∧ (65535 : Nat) + 1 < 1 + 65536 := by decide +kernel

/-- A launch with a nest of 8 iterations of which die 0 holds `r`. -/
def aNest : Nest := ⟨[0, 0, 0, 8], 0, 0, []⟩
def wheeling (r : NestRun) (q : List Iter) : State :=
  inLaunch { aLaunch with ranks := [0, 1], run := some r, nestIdx := 1 } id (fun c => { c with iterQ := q }) id
def aRun (r : SMap (Nat × Nat)) : NestRun := ⟨aNest, r, [], 0, []⟩
def anIter : Iter := ⟨[0, 0, 0, 0], 0, 0, 0, 0, 1⟩
theorem witness_WheelEvents :
    let s := wheeling (aRun [(0, (0, 8))]) []
    let k := launchKey 0 1
    let l := { aLaunch with ranks := [0, 1], run := some (aRun [(0, (0, 8))]), nestIdx := 1 }
    ((wheeling (aRun []) [anIter]).coreOf 0).iterQ = [anIter] ∧ (s.coreOf 0).iter = none ∧ (s.strmOf (sidOf 0 4)).run = .off ∧ (s.coreOf 0).yreq = false ∧
    (s.coreOf 0).parking = false ∧ s.launchRuns (s.coreOf 0).launch (rankOfCore 0) = true ∧ anIter.idx.length = 4 ∧ s.launchOf k = some l ∧
    (inLaunch { aLaunch with nests := [aNest] } id id id).launchOf k = some { aLaunch with nests := [aNest] } ∧
    Launch.recordDone { aLaunch with nests := [aNest] } = true ∧ Launch.readyFor { aLaunch with nests := [aNest] } 0 = true ∧ aLaunch.bare = none ∧
    (aRun [(0, (0, 8))]).next 0 ≠ none ∧ (s.dieOf 0).handed ≠ (s.dieOf 0).acs + 1 ∧
    (State.dieOf ({ s with sys := { s.sys with dies := [(0, { Die.reset with handed := 1 })] } } : State) 0).handed = 0 + 1 ∧ s.nestTag l aNest 0 = 0 ∧ nestAffinity aNest 0 = none ∧
    s.placeOn k l 0 none = .on 0 none ∧ (wheeling (aRun [(0, (0, 8))]) [anIter]).placeOn k l 1 none = .waits ∧ State.reset.launchOf k = none ∧
    SMap.get (0, 0) 1 (aRun [(0, (0, 8))]).ranges = (0, 0) ∧ SMap.get [] 1 (aRun [(0, (0, 8))]).fwd = [] ∧ (1 : Nat) / 4 = l.pkg ∧
    s.launchRuns k 1 = true ∧ (aRun [(0, (0, 8))]).victim 1 = some (0, 0, 8) ∧ (aRun [(0, (0, 1))]).victim 1 = none := by decide +kernel

/-- Core 0 in the course of a freeze of its die. -/
def stopping (stage : Nat) (f : Stream → Stream) (c : Core → Core) : State := inLaunch { aLaunch with freezing := [(0, stage)] } f c id
def aMarker : Msg := { Msg.of 14 1 0 0 (launchKey 0 1) with here := 0 }
theorem witness_FreezeEvents :
    let y := stopping 1 id fun c => { c with yreq := true }
    (y.coreOf 0).yreq = true ∧ (y.coreOf 0).yrem = 0 ∧
    ((stopping 1 (fun x => { x with run := .running }) id).strmOf (sidOf 0 0)).run = .running ∧
    ((stopping 1 (fun x => { x with run := .running }) id).strmOf (sidOf 0 0)).latch.wait = false ∧
    (y.launchOf (launchKey 0 1)).any (fun l => l.stage 0 = 1) ∧ ((stopping 2 id id).launchOf (launchKey 0 1)).any (fun l => l.stage 0 ≠ 1 ∧ 2 ≤ l.stage 0) ∧
    (State.reset.coreOf 0).yreq = false ∧ (y.coreOf 0).launch ≠ 0 ∧ (∀ u, u < 5 → (y.strmOf (sidOf 0 u)).stopped = true) ∧
    (let s1 := (y.putCore 0 { y.coreOf 0 with parking := true }).stopEngines 0
     (∀ u ∈ [5, 6, 7], (s1.strmOf (sidOf 0 u)).stopped = true) ∧ s1.enginesDone 0 true = true) ∧
    (let l := { aLaunch with maps := [(0, some 0)], parked := [(1, some (0, 3))] }
     let s := inLaunch l id id id
     s.launchOf (s.coreOf 0).launch = some l ∧ l.oldestParked (rankOfCore 0) = some 1 ∧ s.launchRuns (s.coreOf 0).launch 0 = true ∧
       (l.parked.any fun x => x.1 = 1 && x.2.isSome) = true ∧ s.coreBlocked 0 = true) ∧
    aLaunch.oldestParked 0 = none ∧ State.reset.sys.msgs[0]? = none ∧ aMarker.kind = 14 ∧ launchKey (aMarker.dst / 4) (launchId aMarker.launch) = launchKey 0 1 := by
  decide +kernel
/-- A nest whose affinity address is 0, in a region of logical core `o`; core 0's queue is full. -/
def affine (o : Nat) (cores : List Nat) (maps : SMap (Option Nat)) : State × Launch :=
  let l := { aLaunch with ranks := [0, 1], cores := cores, maps := maps }
  (inLaunch l id (fun c => { c with iterQ := [anIter, anIter] }) fun y =>
    { y with pkgs := [(0, { Pkg.reset with regions := [(0, ({ aRegion 1 with owner := o } : Region).bits)] })] }, l)
/-- The owner is on die 1, to which the Wheel of die 0 forwards; or it is core 0, whose region moves to the idle core 1 (R197). -/
theorem witness_Affinity :
    nestAffinity ⟨[4, 0, 0, 8], 0, 0, []⟩ 7 = some 0 ∧
    (let z := affine 1 [1, 1] [(0, some 0), (1, (coresOfDie 1).head?)]
     z.1.forwardTo (launchKey 0 1) z.2 0 0 = some 1) ∧
    (let z := affine 0 [2] [(0, some 0), (1, some 1)]
     z.1.forwardTo (launchKey 0 1) z.2 0 0 = none ∧ z.1.placeOn (launchKey 0 1) z.2 0 (some 0) = .on 1 (some (0, 1, 0, aRegion 1))) := by
  decide +kernel

/-! ### The fabric and the host link -/

/-- A state with messages, requests, launches and dies. -/
def wired (y : Sys → Sys) : State := st id id y
def aMsg : Msg := { Msg.of 1 0 5 0 0 with addr := 0x2000, data := [1, 2], args := [0x5 * 0x400000000000 + 0x2000, 2, 1, 0] }
theorem witness_LinksAndMessages :
    let s := wired fun y => { y with msgs := [aMsg, { aMsg with here := 5 }] }
    s.sys.msgs[0]? = some aMsg ∧ nextDim aMsg.here aMsg.dst = some 0 ∧ s.inOrder 0 aMsg = true ∧ s.ackWaits aMsg = false ∧ s.wired 0 0 = true ∧ s.inOrder 1 { aMsg with here := 5 } = true ∧
    (SMap.get ⟨0, false⟩ 0 (s.dieOf 0).links : Link).down = false ∧
    (SMap.get ⟨0, false⟩ 0 ((s.modDie 0 fun d => { d with links := [(0, ⟨15, false⟩)] }).dieOf 0).links : Link).fails + 1 = 16 ∧
    (SMap.get ⟨0, false⟩ 0 ((s.modDie 0 fun d => { d with links := [(0, ⟨16, true⟩)] }).dieOf 0).links : Link).down = true ∧
    0 < s.sys.msgs.length ∧ (st (fun x => { x with vamo := some ⟨0, false, 0, 0, 0, [], [], false⟩ }) id id).vamos[0]? = some 0 ∧
    State.reset.sys.launches = [] ∧ (1 : Nat) < 2 ∧ (0 : Nat) ∈ freezeRanks [0, 1] ∧ 0 ^^^ 2 ^ 0 ∈ freezeRanks [0, 1] ∧
    -- an external dimension through a plane that maps one end of it to no port; an acknowledgement behind a parity update
    (wired fun y => { y with wiring := [(2, 2)], planes := [(0, ⟨[], [(0, some 0)]⟩)] }).wired 0 2 = false ∧
    (wired fun y => { y with parityOut := [{ Msg.of 20 5 8 0 0 with args := [] }] }).ackWaits { Msg.of 13 5 0 0 0 with here := 5 } = true := by decide +kernel
/-- An AMO of one word to a far address of rank 5, and a message to a core of the launch. -/
def anAtomic : Msg := AtomOp.message ⟨0, 0, leBytes 4 1, 0⟩ { aMsg with kind := 2, args := [0x5 * 0x400000000000 + 0x2000, 4, 1, 0] } false false
def toCore (kind lc : Nat) : Msg := { Msg.of kind 1 0 0 (launchKey 0 1) with dlc := lc }
theorem witness_RequestEffects :
    let s := inLaunch aLaunch id id fun y => { y with pkgs := [(1, { Pkg.reset with regions := [(0, { (aRegion 1) with launch := 0 }.bits)] })] }
    aMsg.launchHere = 0 ∧ s.filtered aMsg.launchHere aMsg.tag = false ∧ isDieReg aMsg.pa = false ∧ aMsg.checked = true ∧
    s.msgAllowed aMsg aMsg.vdev aMsg.addr true = true ∧ State.reset.msgAllowed aMsg aMsg.vdev aMsg.addr true = false ∧ aMsg.poison = false ∧
    anAtomic.launchHere = 0 ∧ anAtomic.atomSp = false ∧ isDieReg anAtomic.pa = false ∧ anAtomic.args.length = 9 ∧
    s.msgAllowed anAtomic anAtomic.vdev anAtomic.addr true = true ∧ (AtomOp.ofMsg anAtomic).kind ≠ 2 ∧ (Msg.of 20 1 0 0 0).launchHere = 0 ∧
    (let m := toCore 7 0
     s.launchOf m.launchHere = some aLaunch ∧ s.filtered m.launchHere m.tag = false ∧ s.coreFor m.launchHere m.dlc = some 0 ∧ isParkKey 0 = false ∧
       ((s.modCore 0 fun c => { c with inbound := [m] }).coreOf 0).inbound = [m] ∧ s.coreFor m.launchHere 2 = none ∧ (s.coreOf 0).gated = false ∧
       ((s.modCore 0 fun c => { c with gated := true }).coreOf 0).gated = true) := by decide +kernel
def late (dc tries : Nat) : State := wired fun y => { y with dc := dc, reqs := [⟨5, 0, .store, some aMsg, 0, tries, false, [], [], false, [], 0, 0, false⟩] }
theorem witness_DeliveryAndSpares :
    (1 : Nat) ≠ (State.reset.dieOf 5).inc + 1 ∧
    (let w : Window := ⟨1, 4, [], [(3, aMsg)], [], []⟩
     let s := (wired fun y => { y with msgs := [{ Msg.of 21 0 5 0 0 with here := 5, args := [3, 0, 1] }] }).modDie 5 fun d => { d with windows := [(0, some w)] }
     SMap.get none 0 (s.dieOf 5).windows = some w ∧ w.sinc = 1 ∧ w.replies.find? (·.1 = 3) = some (3, aMsg) ∧
       (s.taken 0 [21]).any (fun x => x.1.args.getD 0 0 = 3 ∧ x.1.args.getD 2 0 = w.sinc)) ∧
    State.reset.taken 0 [21] = none ∧ ((late (2 ^ 20) 2).reqOf 5).any (fun r => (late (2 ^ 20) 2).timed r = some aMsg ∧ r.tries < 3) ∧
    ((late (2 ^ 20) 3).reqOf 5).any (fun r => 3 ≤ r.tries) ∧ ((State.reset.dieOf 0).ftmo.toNat / 2 ^ 28 = 3) ∧
    ((late (2 ^ 20 - 1) 2).reqOf 5).any (fun r => (late (2 ^ 20 - 1) 2).timed r = none) ∧
    (let p : Parity := ⟨1, 0x10000, 0x20000, 0, [0, 1, 2, 3], [1], false⟩
     let s := State.reset.modDie 8 fun d => { d with parity := some p }
     (s.dieOf 8).parity = some p ∧ p.group = 1 ∧ p.member = 0 ∧ 1 ∈ p.blocked ∧ s.parityOpen = false) ∧ (State.reset.dieOf 8).parity = none := by decide +kernel

/-- Package 0 in a domain of one package, no rank of which has an external dimension; or its ranks are wired through plane `d` in dimension
`d`, all of which face package 7. Without planes no spare takes over. -/
def alone : State := wired fun y => { y with wiring := (List.range 4).flatMap fun j => externalDims.map fun d => (16 * j + d, 1) }
def planed : State := wired fun y => { y with wiring := (List.range 4).flatMap fun j => externalDims.map fun d => (16 * j + d, d + 2)
                                              planes := externalDims.map fun d => (d, ⟨(List.range 4).map fun i => (128 + i, some (28 + i)), []⟩) }
theorem witness_Spares : (∀ j, j < 4 → alone.spareReaches (4 * 0 + j) 7 = true) ∧ (∀ j, j < 4 → planed.spareReaches (4 * 0 + j) 7 = true) ∧
    SMap.get 0 (16 * (4 * 0 + 3) + 9) planed.sys.wiring = 9 + 2 ∧ (SMap.get ⟨[], []⟩ 9 planed.sys.planes : Plane).portTo 7 3 = some 131 ∧
    planed.spareReaches 0 8 = false ∧ State.reset.spareReaches 0 7 = false := by decide +kernel

/-- Virtual device 0 of package 0, whose first GiB is the first GiB of die 0, uncached, writable and open to the host's atomics (or not);
`bs` are bytes of HBM, and its rings lie at 1 MiB. -/
def hosted (sa : Bool) (bs : List (Nat × List Byte)) (v : Vdev → Vdev) (y : Sys → Sys) : State := st id id fun z => y { z with
  hbm := bs.foldl (fun m x => Memory.writeBytes x.1 x.2 m) [(0x1000, 5), (0x1001, 0x20), (0x2000, if sa then 0x1F else 0xF)]
  pkgs := [(0, { Pkg.reset with svcl := 4, vdevs := [(0, v { Vdev.reset with root := 0x1000, poolb := 0x100000, cmask := 3 })] })] }
theorem witness_HostLink :
    let s := hosted true [] id id
    s.bridgeOk 0 0 0 8 false = true ∧ (s.vaBytes 0 0 0 8).isSome ∧ s.bridgeOk 0 0 0 8 true = true ∧ s.bridgeOk 0 0 0x40000000 8 false = false ∧
    (s.walkVa 0 0 0).any (fun w => w.sa) ∧ ((hosted false [] id id).walkVa 0 0 0).any (fun w => w.sa = false) ∧
    (0x7FF : Nat) < 0x800 ∧ aLaunch.phase = .running ∧ (aLaunch.lcoreRank 1).isSome ∧ aLaunch.coreAt (launchKey 0 1) 1 = some 1 ∧
    (0x104 : Nat) % 32 = 4 ∧ (0x110 : Nat) % 32 = 16 ∧ (0 : Nat) % 256 = 0 ∧
    (let v := (hosted true [] (fun v => { v with held := [List.replicate 64 7], cqctl := 0x104, cqtail := 15 }) id).vdevOf 0 0
     v.held = [List.replicate 64 7] ∧ v.cqctl / 256 % 2 = 1 ∧ (v.cqtail + 2 ^ 32 - v.cqhead) % 2 ^ 32 < 2 ^ (v.cqctl % 32)) ∧
    (let v := (hosted true [] (fun v => { v with held := [List.replicate 64 7], cqctl := 0x104, cqtail := 16 }) id).vdevOf 0 0
     2 ^ (v.cqctl % 32) ≤ (v.cqtail + 2 ^ 32 - v.cqhead) % 2 ^ 32) := by decide +kernel
/-- A packet at the head of ring 0, whose slot carries its sequence number. -/
def packeted (bs : List Byte) (more : List (Nat × List Byte)) (v : Vdev → Vdev) (y : Sys → Sys) : State :=
  hosted false ((0x100000, bs) :: (0x100007, [0x80]) :: more) v y
theorem witness_RingReservations :
    let s := packeted [] [] id id
    s.stopped 0 0 = false ∧ (s.setRstop 0 0 true).stopped 0 0 = true ∧ ((s.vdevOf 0 0).ring 0).tail + 16 ≤ 1023 ∧
    (let t := packeted [] [] (fun v => { v with rings := [(0, { HRing.reset 0 with tail := 1008 })], free := [4] }) id
     1023 < ((t.vdevOf 0 0).ring 0).tail + 16 ∧ (t.vdevOf 0 0).free = [4] ∧ (s.vdevOf 0 0).free = []) ∧
    (hosted false [] id id).packetAt 0 0 0 = none ∧ s.serves 0 0 = true ∧ (s.packetAt 0 0 0).any (fun bs => fld bs 0 4 = 0) ∧ s.ringTurn 0 0 0 = true ∧
    knownOpc 8 = false ∧
    (let t := hosted false [(0x100000 + 64 * 1023, [0x7F]), (0x100000 + 64 * 1023 + 7, [0x80])] (fun v => { v with rings := [(0, { HRing.reset 0 with cslot := 1023 })] }) id
     (t.packetAt 0 0 0).any (fun bs => fld bs 0 1 = 0x7F) ∧ t.ringTurn 0 0 0 = true) ∧
    (let t := hosted false [] (fun v => { v with rings := [(0, { HRing.reset 0 with rseq := 1, resv := [(0, 1, 0)] })] }) id
     (((t.vdevOf 0 0).ring 0).resv.find? fun x => seq30 (((t.vdevOf 0 0).ring 0).rcons + 0x40000000 - x.1) < x.2.1) = some (0, 1, 0) ∧
       t.sys.dc < 0 + 2 ^ ((t.vdevOf 0 0).ring 0).rto) := by decide +kernel
/-- An image of one line at virtual address 0x200000. -/
def anImage : Nat × List Byte := (0x200004, [0x52, 0x59, 0x55, 0x4C, 1, 0, 0, 0, 1])
/-- The bytes of a virtual range in a page of virtual device 0, from the page's address and those of memory. -/
theorem bytes_of {s : State} {va n p : Nat} {bs : List Byte} (hw : (s.walkVa 0 0 va).map (·.phys) = some p) (hn : va % 0x10000 + n ≤ 0x10000)
    (hb : Memory.readBytes s.sys.hbm (p + va % 0x10000) n = bs) : s.vaBytes 0 0 va n = some bs := by
  cases h : s.walkVa 0 0 va with
  | none => rw [h] at hw; cases hw
  | some t => rw [h] at hw; cases hw; rw [vaBytes_in_page n va hn h, hb]
/-- The packet that stands in a slot at a virtual address, from the slot's bytes and the packet's. -/
theorem packetAt_of (s : State) (pkg vdev q va n : Nat) (h bs : List Byte)
    (hv : slotVa (s.vdevOf pkg vdev).poolb ((s.vdevOf pkg vdev).ring q).cseg ((s.vdevOf pkg vdev).ring q).cslot = va)
    (h1 : s.vaBytes pkg vdev va 64 = some h) (h2 : fld h 4 4 = 0x80000000 + ((s.vdevOf pkg vdev).ring q).rcons)
    (hn : 64 * (fld h 0 4 / 256 % 16 + 1) = n) (h3 : s.vaBytes pkg vdev va n = some bs) : s.packetAt pkg vdev q = some bs := by
  subst hv hn
  simp [State.packetAt, h1, h2, h3]
/-- The slot a packet begins with: an opcode, the count of further slots, the valid word, then zeros but for byte `at_`. -/
def slot0 (opc n : Byte) (at_ : Nat) (b : Byte) : List Byte :=
  [opc, n, 0, 0, 0, 0, 0, 0x80] ++ List.replicate (at_ - 8) 0 ++ [b] ++ List.replicate (63 - at_) 0
/-- A slot of zeros but for one byte. -/
def slot1 (at_ : Nat) (b : Byte) : List Byte := List.replicate at_ 0 ++ [b] ++ List.replicate (63 - at_) 0

/-- The packet of `64 n` bytes that stands at the head of ring 0 of a hosted device. -/
theorem packet_of {s : State} {bs : List Byte} (n : Nat) (hv : slotVa (s.vdevOf 0 0).poolb ((s.vdevOf 0 0).ring 0).cseg ((s.vdevOf 0 0).ring 0).cslot = 0x100000)
    (hw : (s.walkVa 0 0 0x100000).map (·.phys) = some 0x100000) (hn : 64 * n ≤ 0x10000)
    (hb : Memory.readBytes s.sys.hbm 0x100000 (64 * n) = bs) (hh : Memory.readBytes s.sys.hbm 0x100000 64 = bs.take 64)
    (h2 : fld (bs.take 64) 4 4 = 0x80000000 + ((s.vdevOf 0 0).ring 0).rcons) (h3 : fld (bs.take 64) 0 4 / 256 % 16 + 1 = n) : s.packetAt 0 0 0 = some bs :=
  packetAt_of s 0 0 0 0x100000 (64 * n) (bs.take 64) bs hv (bytes_of hw (by decide) hh) h2 (by rw [h3]) (bytes_of hw (by omega) hb)

/-- A LAUNCH packet of one nest that is accepted. -/
def goodLaunch : State := packeted [1, 4] [anImage, (0x100022, [0x20]), (0x100040, [1]), (0x10010C, [1])] id id
def goodBytes : List Byte := slot0 1 4 0x22 0x20 ++ (slot1 0 1 ++ (slot1 0 0 ++ (slot1 0 0 ++ slot1 0xC 1)))
theorem goodLaunch_packet : goodLaunch.packetAt 0 0 0 = some goodBytes :=
  packet_of 5 (by decide +kernel) (by decide +kernel) (by decide) (by decide +kernel) (by decide +kernel) (by decide +kernel) (by decide +kernel)
/-- One whose image is none. -/
def badLaunch : State := packeted [1, 4] [] id id
def badBytes : List Byte := slot0 1 4 8 0 ++ (List.replicate 128 0 ++ List.replicate 128 0)
theorem badLaunch_packet : badLaunch.packetAt 0 0 0 = some badBytes :=
  packet_of 5 (by decide +kernel) (by decide +kernel) (by decide) (by decide +kernel) (by decide +kernel) (by decide +kernel) (by decide +kernel)
/-- A BARE packet that is accepted. -/
def goodBare : State := packeted [2, 3] [anImage, (0x100012, [0x20])] id id
def bareBytes : List Byte := slot0 2 3 0x12 0x20 ++ (slot1 0 0 ++ (slot1 0 0 ++ slot1 0 0))
theorem goodBare_packet : goodBare.packetAt 0 0 0 = some bareBytes :=
  packet_of 4 (by decide +kernel) (by decide +kernel) (by decide) (by decide +kernel) (by decide +kernel) (by decide +kernel) (by decide +kernel)
/-- A LAUNCH packet whose count of slots is wrong, and one that is accepted. -/
theorem witness_LaunchFormat :
    let s := packeted [1] [] id id
    s.servesLaunch 0 0 = true ∧ s.waitingLaunch 0 0 0 true = none ∧ s.ringTurn 0 0 0 = true ∧
    (s.packetAt 0 0 0).any (fun bs => fld bs 0 1 = 1 ∧ launchFormatBad bs 0 = true) := by decide +kernel
theorem witness_LaunchPackets :
    goodLaunch.servesLaunch 0 0 = true ∧ goodLaunch.waitingLaunch 0 0 0 true = none ∧ goodLaunch.ringTurn 0 0 0 = true ∧
    goodLaunch.packetAt 0 0 0 = some goodBytes ∧ fld goodBytes 0 1 = 1 ∧ ((goodLaunch.vdevOf 0 0).ring 0).cslot + 5 ≤ 1023 ∧
    launchFormatBad goodBytes 0 = false ∧ (goodLaunch.checkLaunch goodBytes 0 0 ⟨0, 0⟩).toBool = true :=
  ⟨by decide +kernel, by decide +kernel, by decide +kernel, goodLaunch_packet, by decide +kernel, by decide +kernel, by decide +kernel,
    by decide +kernel⟩
/-- One that is refused. -/
theorem witness_LaunchRefused :
    badLaunch.servesLaunch 0 0 = true ∧ badLaunch.waitingLaunch 0 0 0 true = none ∧ badLaunch.ringTurn 0 0 0 = true ∧
    badLaunch.packetAt 0 0 0 = some badBytes ∧ launchFormatBad badBytes 0 = false ∧
    (badLaunch.checkLaunch badBytes 0 0 ⟨0, 0⟩).toBool = false :=
  ⟨by decide +kernel, by decide +kernel, by decide +kernel, badLaunch_packet, by decide +kernel, by decide +kernel⟩
theorem witness_BarePackets :
    goodBare.servesLaunch 0 0 = true ∧ goodBare.waitingLaunch 0 0 0 true = none ∧ goodBare.ringTurn 0 0 0 = true ∧
    goodBare.packetAt 0 0 0 = some bareBytes ∧ fld bareBytes 0 1 = 2 ∧ bareFormatBad bareBytes = false ∧
    (goodBare.checkBare bareBytes 0 0 ⟨0, 0⟩).toBool = true :=
  ⟨by decide +kernel, by decide +kernel, by decide +kernel, goodBare_packet, by decide +kernel, by decide +kernel, by decide +kernel⟩
theorem witness_PurgePackets :
    (let t := packeted [6] [(0x100010, [1])] id fun y => { y with launches := [(launchKey 0 1, some aLaunch)] }
     (t.packetAt 0 0 0).any (fun bs => fld bs 0 4 = 6 ∧ t.named 0 0 bs = some (launchKey 0 1)) ∧ 3 ≤ (t.pkgOf 0).svcl) ∧
    (let t := packeted [] [] id fun y => { y with launches := [(launchKey 0 1, some { aLaunch with phase := .waiting })] }
     t.waitingLaunch 0 0 0 true = some (launchKey 0 1)) ∧
    (let l := { aLaunch with phase := .starting, sentAt := 0 }
     l.sentAt + (State.reset.dieOf 0).timeout * ((State.reset.dieOf 0).retries + 1) ≤ 2 ^ 22) := by decide +kernel
/-- An image of two lines, the second of which is the header of a slot with one buffer and one nest, of one iteration. -/
def slotBytes : List (Nat × List Byte) :=
  [(0x200004, [0x52, 0x59, 0x55, 0x4C, 1, 0, 0, 0, 2]), (0x200028, [1]), (0x200040, [0xFF, 0xFF, 0xFF, 0xFF, 1, 0, 0, 1]),
    (0x200051, [0x10, 0x20]), (0x20100C, [1])]
/-- INVOKE of slot 0, which holds the image, with the writable buffer that is page 0; `y` is the rest of the system. -/
def invoking (y : Sys → Sys) : State :=
  packeted [3, 1] (slotBytes ++ [(0x100010, [0, 1, 5]), (0x100047, [0x90])]) (fun v => { v with slots := [(0, ⟨5, true, none, 0x200000, 0, []⟩)] })
    fun z => y { z with pkgs := z.pkgs.map fun p => (p.1, { p.2 with regions := [(0, { (aRegion 1) with launch := 0 }.bits)] }) }
/-- A launch of the device, of which core 0 has an access to page 0 outstanding. -/
def accessing (y : Sys) : Sys := { y with
  launches := [(launchKey 0 1, some aLaunch)]
  reqs := [⟨5, 0, .store, none, 0, 0, false, [(0, 0)], [], false, [], 0, 0, false⟩] }
def invokeSlot : List Byte := [3, 1, 0, 0, 0, 0, 0, 0x80] ++ List.replicate 8 0 ++ [0, 1, 5] ++ List.replicate 45 0
def invokeBytes : List Byte := invokeSlot ++ slot1 7 0x90
theorem invoking_packet : (invoking id).packetAt 0 0 0 = some invokeBytes :=
  packet_of 2 (by decide +kernel) (by decide +kernel) (by decide) (by decide +kernel) (by decide +kernel) (by decide +kernel) (by decide +kernel)
theorem accessing_packet : (invoking accessing).packetAt 0 0 0 = some invokeBytes :=
  packet_of 2 (by decide +kernel) (by decide +kernel) (by decide) (by decide +kernel) (by decide +kernel) (by decide +kernel) (by decide +kernel)
/-- The two lines of the image. -/
def imageBytes : List Byte := [0, 0, 0, 0, 0x52, 0x59, 0x55, 0x4C, 1, 0, 0, 0, 2] ++ List.replicate 27 0 ++ [1] ++ List.replicate 23 0 ++
  [0xFF, 0xFF, 0xFF, 0xFF, 1, 0, 0, 1] ++ List.replicate 9 0 ++ [0x10, 0x20] ++ List.replicate 45 0
theorem image_of {s : State} (hw : (s.walkVa 0 0 0x200000).map (·.phys) = some 0x200000)
    (hb : Memory.readBytes s.sys.hbm 0x200000 128 = imageBytes) (hh : Memory.readBytes s.sys.hbm 0x200000 64 = imageBytes.take 64) :
    s.goodImage 0 0 0x200000 = some imageBytes := by
  have h1 := bytes_of hw (by decide) hh
  have h2 := bytes_of hw (by decide) hb
  have h3 : fld (imageBytes.take 64) 4 4 = 0x4C555952 ∧ fld (imageBytes.take 64) 8 2 = 1 := by decide +kernel
  have h4 : 64 * fld (imageBytes.take 64) 12 4 = 128 := by decide +kernel
  simp [State.goodImage, h1, h3, h4, h2]
theorem image_header : slotHeader imageBytes = some (imageBytes.drop 64) ∧ fld (imageBytes.drop 64) 16 8 = 0x201000 ∧ fld (imageBytes.drop 64) 7 1 = 1 := by
  decide +kernel
theorem invoking_image : (invoking id).goodImage 0 0 0x200000 = some imageBytes := image_of (by decide +kernel) (by decide +kernel) (by decide +kernel)
theorem accessing_image : (invoking accessing).goodImage 0 0 0x200000 = some imageBytes :=
  image_of (by decide +kernel) (by decide +kernel) (by decide +kernel)
theorem invoking_nests : (invoking id).vaBytes 0 0 0x201000 (64 * 1) = some (slot1 0xC 1) :=
  bytes_of (p := 0x200000) (by decide +kernel) (by decide) (by decide +kernel)
theorem accessing_nests : (invoking accessing).vaBytes 0 0 0x201000 (64 * 1) = some (slot1 0xC 1) :=
  bytes_of (p := 0x200000) (by decide +kernel) (by decide) (by decide +kernel)
theorem invoke_slot : fld invokeBytes 16 1 % 64 = 0 := by decide +kernel
theorem maskCores_two : maskCores 3 = [0, 1] := by decide +kernel
theorem invoke_buffers : invokeBuffers invokeBytes (fld invokeBytes 17 1) = [(true, 16, 0, 0)] := by decide +kernel
def slotNest : Nest := ⟨[0, 0, 0, 1] ++ List.replicate 12 0, 0, 0, []⟩
theorem slot_nests : nestsOf (slot1 12 1) 0 1 0 (BitVec.ofNat 64 ((List.map (fun x => x.2.2.1) [(true, 16, 0, 0)]).headD 0)) (some (fld invokeBytes 20 2)) =
    [slotNest] := by decide +kernel
theorem slotNest_refused (s : State) : s.nestRefused 0 slotNest = false := by
  have h : nestBad slotNest.words = false ∧ wordAt slotNest.words 0 / 4 % 4 = 0 := by decide +kernel
  simp only [State.nestRefused, h]; rfl
theorem not_lent {s : State} (hr : (s.pkgOf 0).regions = [(0, { (aRegion 1) with launch := 0 }.bits)]) : s.bufferLent 0 0 (true, 16, 0, 0) = false := by
  simp only [State.bufferLent, hr]; decide +kernel
theorem slot_weights : weightRegions (List.drop 64 imageBytes) = [] := by decide +kernel
/-- The INVOKE packet is accepted where its slot, the slot's image and nest, and the buffer's region entry are there. -/
theorem checkInvoke_ok {s : State} (hs : SMap.get RSlot.free 0 (s.vdevOf 0 0).slots = ⟨5, true, none, 0x200000, 0, []⟩)
    (hi : s.goodImage 0 0 0x200000 = some imageBytes) (hn : s.vaBytes 0 0 0x201000 (64 * 1) = some (slot1 0xC 1)) (hm : (s.vdevOf 0 0).cmask = 3)
    (hv : (s.pkgOf 0).svcl = 4) (hr : (s.pkgOf 0).regions = [(0, { (aRegion 1) with launch := 0 }.bits)]) :
    (s.checkInvoke invokeBytes 0 0 ⟨0, 0⟩).toBool = true := by
  simp only [State.checkInvoke, invoke_slot, hs, hi, Option.getD_some, image_header, hn, State.launchRefusal, Launch.withCores,
    Launch.fresh, hm, hv, maskCores_two, invoke_buffers, not_lent hr, List.filter_cons, List.filter_nil, State.bufferEntry, State.freeRegions, hr, slot_nests, List.any_cons,
    List.any_nil, slotNest_refused, State.weightsMatch, slot_weights, List.all_nil]
  decide +kernel
theorem invoking_ok : ((invoking id).checkInvoke invokeBytes 0 0 ⟨0, 0⟩).toBool = true :=
  checkInvoke_ok (by decide +kernel) invoking_image invoking_nests (by decide +kernel) (by decide +kernel) (by decide +kernel)
theorem accessing_ok : ((invoking accessing).checkInvoke invokeBytes 0 0 ⟨0, 0⟩).toBool = true :=
  checkInvoke_ok (by decide +kernel) accessing_image accessing_nests (by decide +kernel) (by decide +kernel) (by decide +kernel)
/-- INVOKE is accepted; waits for the buffer's former owner; or names a slot of another generation and is refused. -/
theorem witness_InvokePackets :
    (invoking id).servesLaunch 0 0 = true ∧ (invoking id).waitingLaunch 0 0 0 true = none ∧ (invoking id).ringTurn 0 0 0 = true ∧
    (invoking id).packetAt 0 0 0 = some invokeBytes ∧ fld invokeBytes 0 1 = 3 ∧ invokeFormatBad invokeBytes = false ∧
    ((invoking id).checkInvoke invokeBytes 0 0 ⟨0, 0⟩).toBool = true ∧
    (invoking id).buffersReady 0 0 2 (invokeBuffers invokeBytes (fld invokeBytes 17 1)) = true :=
  ⟨by decide +kernel, by decide +kernel, by decide +kernel, invoking_packet, by decide +kernel, by decide +kernel, invoking_ok, by decide +kernel⟩
theorem witness_InvokeWaits :
    (invoking accessing).servesLaunch 0 0 = true ∧ (invoking accessing).waitingLaunch 0 0 0 true = none ∧ (invoking accessing).ringTurn 0 0 0 = true ∧
    (invoking accessing).packetAt 0 0 0 = some invokeBytes ∧ ((invoking accessing).checkInvoke invokeBytes 0 0 ⟨0, 0⟩).toBool = true ∧
    (invoking accessing).buffersReady 0 0 2 (invokeBuffers invokeBytes (fld invokeBytes 17 1)) = false :=
  ⟨by decide +kernel, by decide +kernel, by decide +kernel, accessing_packet, accessing_ok, by decide +kernel⟩
theorem witness_InvokeRefused : let s := (invoking id).modVdev 0 0 fun v => { v with slots := [(0, ⟨6, true, none, 0x200000, 0, []⟩)] }
    (s.checkInvoke invokeBytes 0 0 ⟨0, 0⟩).toBool = false := by decide +kernel
/-- SLOTLD of the image into slot 0. -/
def loading : State := packeted [4] (slotBytes ++ [(0x10001A, [0x20])]) id id
theorem loading_packet : loading.packetAt 0 0 0 = some (slot0 4 0 0x1A 0x20) :=
  packet_of 1 (by decide +kernel) (by decide +kernel) (by decide) (by decide +kernel) (by decide +kernel) (by decide +kernel) (by decide +kernel)
theorem loading_image : loading.goodImage 0 0 0x200000 = some imageBytes := image_of (by decide +kernel) (by decide +kernel) (by decide +kernel)
theorem witness_Slots :
    loading.serves 0 0 = true ∧ loading.ringTurn 0 0 0 = true ∧ loading.packetAt 0 0 0 = some (slot0 4 0 0x1A 0x20) ∧
    fld (slot0 4 0 0x1A 0x20) 0 4 = 4 ∧ fld (slot0 4 0 0x1A 0x20) 24 8 = 0x200000 :=
  ⟨by decide +kernel, by decide +kernel, loading_packet, by decide +kernel, by decide +kernel⟩
theorem witness_SlotImage :
    loading.goodImage 0 0 0x200000 = some imageBytes ∧ slotHeader imageBytes = some (imageBytes.drop 64) ∧ fld imageBytes 44 4 = 0 ∧
    slotHeaderBad (imageBytes.drop 64) = false ∧ pagesOf 0 0x201000 64 = [(0, 0x200000)] ∧ loading.weightsMatch 0 0 (imageBytes.drop 64) = true ∧
    (loading.walkVa 0 0 0x200000).isSome ∧ (SMap.get RSlot.free 0 (loading.vdevOf 0 0).slots).resident = false ∧ (RSlot.free.resident = false) ∧
    ({ RSlot.free with resident := true, running := 1 } : RSlot).removing = none :=
  ⟨loading_image, image_header.1, by decide +kernel⟩

/-- R463's example: the packages 8, 10, 0 and 2 of a launch; 8 sends to 10 and 0, and 10 to 2. A purge goes along the same tree (R461). -/
theorem test_tree_of_packages :
    (let l := { Launch.fresh 8 0 with ranks := [32, 33, 34, 35, 40, 41, 42, 43, 0, 1, 2, 3, 8, 9, 10, 11] }
     l.treeNbrs = [10, 0] ∧ { l with pkg := 10 }.treeNbrs = [8, 2] ∧ { l with pkg := 2 }.treeNbrs = [10]) := by decide +kernel

/-- R517: an MC image below the minimum SVN fails the boot; an accepted image runs in place of the old one and raises the minimum. -/
theorem test_minimum_svn :
    ({ Pkg.reset with images := [(1, 3, 7, 1)], minSvn := [(1, 4)] }.svnFail = some (2, 3) ∧ Pkg.reset.svnFail = none) ∧
    (let p := { Pkg.reset with images := [(3, 2, 9, 2), (3, 1, 8, 1)] }.runs 3 9
     p.images = [(3, 2, 9, 1), (3, 1, 8, 2)] ∧ SMap.get 0 3 p.minSvn = 2 ∧ p.admits 3 8 = false ∧ p.admits 3 9 = true) := by decide +kernel

/-- R430, R469: an area without the translation of a page is not sound; a write that sets bit 0 makes a protected partition. -/
theorem test_area_and_partition :
    ({ base := 0x10000, length := 0x20000, required := 0, vdev := 0, trans := [(1, 0x50000)], pages := [], dirtyOff := 0 : Area }.sound = false) ∧
    (({ Die.reset with regs := Memory.writeNat (parityOff + 16) 8 0x40000 [] }.parityWrite 0x200000031).parity.map fun (p : Parity) =>
      (p.group, p.member, p.base, p.size)) = some (2, 3, 0, 0x40000) := by decide +kernel

/-! ### Memory, errors, boot, and the whole machine -/

theorem witness_MemoryAndErrorEvents :
    let load := fun (ready : Bool) => wired fun y => { y with reqs := [⟨5, 0, .entry 0, none, 0, 0, ready, [], [], false, [], 0, 0, false⟩] }
    let atom := wired fun y => { y with reqs := [⟨5, 0, .atomic 0 true 0, none, 0, 0, true, [], [], false, [], 0, 0, false⟩] }
    let parts := wired fun y => { y with reqs := [⟨5, 0, .entry 0, none, 0, 0, true, [], [], false, [], 0, 0, false⟩,
      ⟨6, 0, .part 5 64, none, 0, 0, false, [], [], false, [], 0, 0, false⟩] }
    ((load true).strmOf 0).upsets = [] ∧ (atom.reqOf 5).any (fun r => r.wait = .atomic 0 true 0 ∧ r.ready = true) ∧
    parts.sys.reqs.any (fun p => p.wait = .part 5 64) ∧ (parts.reqOf 5).any (fun r => r.ready) ∧
    (load true).reqOf 4 = none ∧ ((load true).reqOf 5).any (fun r => r.wait = .entry 0 ∧ r.ready = true) ∧ ((load false).reqOf 5).any (fun r => r.ready = false) ∧
    (∀ p ∈ (load true).sys.reqs, p.wait ≠ .part 5 0) ∧
    (stS fun x => { x with run := .running }).strm.run.active = true ∧ (∀ u, u < 9 → (State.reset.strmOf (sidOf 0 u)).run.active = false) ∧
    (let g := stC fun c => { c with gated := true, latches := [(3, 1)] }
     (g.coreOf 0).gated = true ∧ (g.coreOf 0).latches = [(3, 1)]) ∧ (State.reset.coreOf 0).gated = false ∧
    ((withTask .ready [] id).coreOf 0).entry 0 ≠ none ∧
    (let b := wired fun y => { y with dies := [(0, { Die.reset with buckets := [(0, 9)] })] }
     (b.dieOf 0).buckets = [(0, 9)] ∧ b.cores = [] ∧ b.core.buckets = [] ∧ b.sys.dc % 2 ^ (b.dieOf 0).leakOf 0 = 0) ∧
    ((withTask .running [] id).coreOf 0).unitBusy [0] = true ∧ (State.reset.coreOf 0).unitBusy [5] = false ∧ (State.reset.coreOf 0).rowOff = none ∧
    (127 : Nat) < 128 ∧ (128 : Nat) ≤ 128 ∧ (stC fun c => { c with rowOff := some 127 }).core.rowOff ≠ none ∧ (State.reset.coreOf 0).laneMap = [] := by
  decide +kernel
theorem witness_PowerEvents :
    (List.replicate 32 (0 : Byte)).length = 32 ∧ (State.reset.pkgOf 0).leafIdx < 2 ^ 20 ∧
    2 ^ 20 ≤ ((State.reset.modPkg 0 fun p => { p with leafIdx := 2 ^ 20 }).pkgOf 0).leafIdx ∧ { Die.reset with hot := 20 }.hot = 20 ∧ Die.reset.hot < 20 ∧
    (State.reset.pkgOf 0).manifest = [] ∧ ((State.reset.modPkg 0 fun p => { p with manifest := [1, 2] }).pkgOf 0).manifest ≠ [] ∧
    99 ≤ { Die.reset with calm := 99 }.calm ∧ (105 : Nat) ≤ 105 ∧ (114 : Nat) < 115 := by decide

/-- ADD g1 = g0 + 5 stands where State.reset fetches its next instruction. -/
def addWord : Nat := 0x000181000005
def placed : State := State.reset.withFetchWord 48 addWord
theorem witness_StepRunsDecoded :
    let s := placed
    let c := s.coreOf (coreOfSid s.sid)
    let s1 := match exec .resultLanding (((s.setStrm fun x => { x with acAt := some c.ac }).ptwDone s.sid).setStrm fun x => { x with latch := Latch.clear }) with
      | .next t => t
      | _ => s
    let m := (s1.core.codeFor s1.strm.cls).1
    s.agenda = [] ∧ s.turnOpen s.sid = true ∧ s1.strm.cls.single = false ∧ s1.strm.trapDue = none ∧ s.coreLive (coreOfSid s.sid) = true ∧ c.gated = false ∧ unitOfSid s.sid < 4 ∧ s.strm.run = .running ∧ s.strm.stall = 0 ∧
    s.strm.acAt ≠ some c.ac ∧ s1.strm.latch.trapped = false ∧ s1.strm.latch.wait = false ∧ s1.strm.fresh = true ∧ s1.strm.hold = 0 ∧
    s1.strm.run = .running ∧ s1.strm.unit < 4 ∧ s1.strm.cls = .vector ∧
    settle m (s1.core.codeFor s1.strm.cls).2 s1.strm.cls ((s1.core.codeFor s1.strm.cls).2 + 1) s1.strm.pos = .stands s1.strm.pos ∧
    (let f := fetchBundle m false s1.strm.pos.line s1.strm.pos.slot
     f.1 = .add hA ⟨1, 0, .imm 5⟩ ∧ f.2.1 = none ∧
      illegalIn s1.strm.cls s1.core.pool m s1.strm.pos.line s1.strm.pos.slot f.1 none (fetchOne m s1.strm.pos.line s1.strm.pos.slot).2 = none ∧
      s1.strm.divBusy f.1 none = false) := by decide +kernel
/-- A bundle of ADD in slot A and SUB in slot B: it too is legal, and neither stops. -/
theorem witness_BundleOfTwo :
    let m := Memory.writeBytes 68 (encodeBytes (.add hA ⟨1, 0, .imm 5⟩) ++ encodeBytes (.sub hB ⟨33, 32, .imm 1⟩)) []
    let f := fetchBundle m false 1 0
    f.1 = .add hA ⟨1, 0, .imm 5⟩ ∧ f.2.1 = some (.sub hB ⟨33, 32, .imm 1⟩) ∧ f.2.2 = 2 ∧
    illegalIn .vector 0 m 1 0 f.1 f.2.1 (fetchOne m 1 0).2 = none := by decide +kernel
/-- The step runs it: 5 is in flight to g1 and lands in the next issue cycle. -/
theorem test_step_add : (match step placed with
    | .next t => (t.strm.flight.map (·.dst), t.strm.icnt, t.strm.pos.slot)
    | _ => ([], 0, 0)) = ([.g 1], 1, 1) := by decide +kernel
theorem witness_GuardOff : (Instr.syl (.add ⟨1, 0, 1, 0⟩ ⟨1, 0, .imm 5⟩)).any (fun y => State.reset.rdP y.h.gp = decide (y.h.gneg = 1)) ∧
    (stS fun x => { x with run := .running }).strm.run = .running ∧ State.reset.strm.upsets = [] ∧
    State.reset.strm.divBusy (.add ⟨1, 0, 1, 0⟩ ⟨1, 0, .imm 5⟩) none = false ∧
    State.reset.strm.cls = .vector ∧ State.reset.strm.latch = Latch.clear ∧ State.reset.strm.inFlight ≤ 32 ∧
    (∀ n, n < 3 → (State.reset.rdLc n).active = false) := by decide +kernel
/-- A reserved syllable (OP 0x26 in a vector stream, R75) at the place from which the next step fetches. -/
theorem witness_IllegalBundle :
    let s := State.reset.withFetchWord 48 0x002600000000
    let m := (s.core.codeFor s.strm.cls).1
    let len := (s.core.codeFor s.strm.cls).2
    settle m len s.strm.cls (len + 1) s.strm.pos = .stands s.strm.pos ∧
    illegalIn s.strm.cls s.core.pool m s.strm.pos.line s.strm.pos.slot (fetchBundle m s.strm.cls.single s.strm.pos.line s.strm.pos.slot).1 none
      (fetchOne m s.strm.pos.line s.strm.pos.slot).2 = some 0x002600000000 := by decide +kernel
theorem witness_MarkedOperands :
    let s := stS fun x => { x with gMark := [(3, .poison), (4, .deferred 18 64)] }
    s.strm.upsets = [] ∧ s.guardOn hA = true ∧ ((markReads (Instr.regs (.add hA ⟨1, 4, .reg 3⟩))).map s.markG).find? (· != .none) = some (.deferred 18 64) ∧
    ((markReads (Instr.regs (.add hA ⟨1, 3, .reg 4⟩))).map s.markG).find? (· != .none) = some .poison := by decide +kernel
theorem witness_MemoryForm : Memory.wf [(3, 1), (7, 2)] = true ∧ Memory.wf [(3, 0)] = false ∧ Memory.wf [(7, 1), (3, 1)] = false ∧
    Claims.Writable State.reset (winSize 0 - 128) 128 := by
  refine ⟨by decide, by decide, by decide, ?_⟩
  unfold Claims.Writable; decide
theorem witness_RoundTrip : Instr.wf (.add hA ⟨31, 31, .ext 0xFFFFFFFF⟩) = true ∧ (Instr.syl (.add hA ⟨31, 31, .ext 0xFFFFFFFF⟩)).isSome := by
  decide
theorem witness_DecodeExact : ∃ i rest, decode (natBytes 6 addWord ++ [7]) = .ok (i, rest) := ⟨.add hA ⟨1, 0, .imm 5⟩, [7], by decide⟩
/-- R39: 1.0625 lies between two values of E4M3 (1 and 1.125), a tie, and goes to the even one under RNE. -/
theorem witness_Rounding :
    (fmtE4m3.round 0 false (.fin false 17 (-4))).flags.testBit 6 = false ∧ (fmtE4m3.round 0 false (.fin false 17 (-4))).bits = 0x38 ∧
    (fmtE4m3.round 4 false (.fin false 17 (-4))).bits = 0x39 ∧ (fmtE4m3.round 1 false (.fin false 17 (-4))).bits = 0x38 ∧
    (fmtE4m3.round 3 false (.fin false 17 (-4))).bits = 0x39 := by decide +kernel

/-! ## Results that the spec works out -/

-- 01, example of window sizes.
theorem test_window_sizes : winSize 1 = 0x3EF000 ∧ winSize 18 = 0x39F000 := by decide
-- 02, table of worked encodings: 1.0 and -2.5 in FP32, BF16, FP16, E4M3, E5M2.
theorem test_encodings : ([fmtF32, fmtBf16, fmtF16, fmtE4m3, fmtE5m2].map fun f => ((f.round 0 false (.fin false 1 0)).bits, (f.round 0 false (.fin true 5 (-1))).bits)) =
    [(0x3F800000, 0xC0200000), (0x3F80, 0xC020), (0x3C00, 0xC100), (0x38, 0xC2), (0x3C, 0xC1)] := by decide +kernel
-- 02, example of overflow into E4M3: 500.0 with and without saturation, 460.0.
theorem test_overflow : ((fmtE4m3.round 0 false (.fin false 500 0)).bits, (fmtE4m3.round 0 false (.fin false 500 0)).flags) = (0x7F, flOF + flNX + flNV) ∧
    ((fmtE4m3.round 0 true (.fin false 500 0)).bits, (fmtE4m3.round 0 true (.fin false 500 0)).flags) = (0x7E, flOF + flNX) ∧
    ((fmtE4m3.round 0 false (.fin false 460 0)).bits, (fmtE4m3.round 0 false (.fin false 460 0)).flags) = (0x7E, flNX) := by decide +kernel
-- 02, example of integer conversions, as the register results of R108.
theorem test_fcvt_integers :
    extendTo .u32 (convert .u32 .i8 0 false 0xFF).bits = 0xFFFFFFFF ∧ extendTo .u32 (convert .u32 .i8 0 true 0xFF).bits = 0 ∧
    extendTo .i32 (convert .i32 .u8 0 false 0xFF).bits = 0xFF ∧ extendTo .i8 (convert .i8 .i32 0 false 0x180).bits = 0xFFFFFF80 ∧
    extendTo .i8 (convert .i8 .i32 0 true 0x180).bits = 0x7F := by decide +kernel
-- 04, example of conversions.
theorem test_fcvt_floats :
    (extendTo .i8 (convert .i8 .f32 1 true 0xC3008000).bits, (convert .i8 .f32 1 true 0xC3008000).flags) = (0xFFFFFF80, flNX) ∧
    (extendTo .i8 (convert .i8 .f32 1 false 0xC3010000).bits, (convert .i8 .f32 1 false 0xC3010000).flags) = (0xFFFFFF80, flNV) ∧
    ((convert .f32 .u16 0 false 0x1234FFFF).bits, (convert .f32 .u16 0 false 0x1234FFFF).flags) = (0x477FFF00, 0) := by decide +kernel
-- 02, example of one L4X block: scale 0x7E, bytes as listed; -3.5 is element 2 and 12.0 element 4.
theorem test_l4x_block : (decodeL4x ([0x7E, 0x05, 0x21, 0xF9, 0xC8] ++ List.replicate 13 0)).1 = 0x7E ∧
    (((decodeL4x ([0x7E, 0x05, 0x21, 0xF9, 0xC8] ++ List.replicate 13 0)).2.1.map fun v => (fmtF32.round 0 false (v.e8 0x7E)).bits).take 7) =
      [0x3F000000, 0x3F800000, 0xC0600000, 0xBF000000, 0x41400000, 0, 0] ∧
    (decodeL4x ([0x7E, 0x05, 0x21, 0xF9, 0xC8] ++ List.replicate 13 0)).2.2 = 0 ∧
    (decodeL4x ([0x7E, 0x05, 0x21, 0xF9, 0xC8, 0x88] ++ List.replicate 12 0)).2.2 = flFMT := by decide +kernel
-- 02, example of a tree and a scan on the same data: 2^24 and thirty-one times 1.0.
theorem test_tree_and_scan :
    (redLevel .add .f32 (redLevel .add .f32 (redLevel .add .f32 (redLevel .add .f32 (redLevel .add .f32
      ((0x4B800000 :: List.replicate 31 0x3F800000).map fun x => ⟨x, 0⟩)))))).map (·.bits) = [0x4B80000F] ∧
    ((scanFrom .add .f32 0x4B800000 (List.replicate 31 0x3F800000)).map (·.bits)).getLast? = some 0x4B800000 := by decide +kernel
-- 02, example of generator values: counter 0 with key 0.
theorem test_generate : generate 0 0 = 0 := by decide +kernel
-- 20, example of a route: 37 to 610 takes the dimensions 0, 1, 2, 6, 9.
theorem test_route : nextDim 37 610 = some 0 ∧ nextDim 36 610 = some 1 ∧ nextDim 38 610 = some 2 ∧ nextDim 34 610 = some 6 ∧ nextDim 98 610 = some 9 ∧
    nextDim 610 610 = none := by decide
-- 09, example of a translated access: the walk of 0x8080651234.
theorem test_walk : (walk (Memory.writeBytes 0x9800100102028 (leBytes 8 0x9400234560007) (Memory.writeBytes 0x9800100101018 (leBytes 8 0x9800100102001)
    (Memory.writeBytes 0x9800100100010 (leBytes 8 0x9800100101001) (Memory.writeBytes 0x9800100000008 (leBytes 8 0x9800100100001) []))))
    9 0x8080651234 4 0x9800100000000 true []).map (fun t => (t.phys + 0x1234, t.nc, t.sa)) = some (0x9400234561234, false, false) := by decide +kernel
/-- R231, R281: a bank that last served VP0 serves VP1 first, and at launch start VP0 comes first. -/
theorem test_rotation :
    (∀ u ∈ [0, 1, 2, 3], ∀ w ∈ [0, 1, 2, 3], Core.goesBefore { Core.reset with bankLast := [(4, 0)] } (fun _ => ([4], [])) u w =
      decide ([1, 2, 3, 0].idxOf u < [1, 2, 3, 0].idxOf w)) ∧
    (∀ u ∈ [0, 1, 2, 3], ∀ w ∈ [0, 1, 2, 3], Core.reset.goesBefore (fun _ => ([4], [])) u w = decide (u < w)) ∧
    partBanks ⟨0, 0x200, 4⟩ = [4] ∧ partBanks ⟨0, 0x1000 + 8192 * 3, 4⟩ = [32] := by decide
end Sys2Proof.Tests
end

section
/-! SUPPORT. The landing of results at the start of an issue cycle (01 R14 to R16, 17 R407), and O17. -/

namespace Sys2Proof.Machine

/-! ### A result of one copy takes effect as it is -/

/-- A single copy agrees with itself in every lane. -/
theorem vote_one {α : Type} [DecidableEq α] (tbrk : Bool) (act : List Nat) (it : Nat → Nat → α) :
    vote 1 tbrk act it = ⟨act.map fun i => (i, 0), true, false, [], []⟩ := by
  have agree : (act.filter fun i => (List.range 1).any fun k => it k i ≠ it 0 i) = [] := by simp
  simp only [vote, agree, List.isEmpty_nil, if_true]

theorem Flight.verdict_unprotected {f : Flight} (h : f.prot = 0) (tbrk : Bool) :
    (f.verdict tbrk).lanes = [] ∧ (f.verdict tbrk).tie = false := by
  simp only [Flight.verdict, h, if_true, vote_one, and_self]

/-- A result that is neither protected nor a write for the next cycle lands its plain copy. -/
theorem State.landOne_unprotected (s : State) {f : Flight} (hp : f.prot = 0) (hn : f.isNext = false) :
    s.landOne f = (s.setStrm fun x => x.land f f.copy0, none) := by
  obtain ⟨hl, -⟩ := Flight.verdict_unprotected hp s.strm.tbrk
  unfold State.landOne
  split
  · next n hd => simp [Flight.isNext, hd] at hn
  · simp [hl]

/-- Such results land one after the other. -/
theorem State.landAll_unprotected (fs : List Flight) (s : State) (h : ∀ f ∈ fs, f.prot = 0 ∧ f.isNext = false) :
    State.landAll fs s = (s.setStrm fun x => fs.foldl (fun x f => x.land f f.copy0) x, none) := by
  induction fs generalizing s with
  | nil => rfl
  | cons f fs ih =>
    obtain ⟨⟨hp, hn⟩, hfs⟩ := List.forall_mem_cons.mp h
    simp only [State.landAll, State.landOne_unprotected s hp hn, ih _ hfs, List.foldl_cons]
    rfl

/-! ### The issue cycle begins -/

/-- The stream at the start of its next issue cycle, before the results due in it land (R16). -/
def Stream.nextCycle (x : Stream) : Stream :=
  { x with cyc := x.cyc + 1, fresh := true, flight := (x.flight.filter fun f => 1 < f.k).map fun f => { f with k := f.k - 1 } }

theorem State.beginCycle_unprotected (s : State) (h : ∀ f ∈ s.strm.flight, f.prot = 0 ∧ f.isNext = false) :
    s.beginCycle = s.setStrm fun x => (x.flight.filter fun f => f.k ≤ 1).foldl (fun x f => x.land f f.copy0) x.nextCycle := by
  have due : ∀ f ∈ s.strm.flight.filter (·.k ≤ 1), f.prot = 0 ∧ f.isNext = false := fun f m => h f (List.mem_of_mem_filter m)
  have noTie : ((s.strm.flight.filter (·.k ≤ 1)).filter fun f => (f.verdict s.strm.tbrk).tie) = [] :=
    List.filter_eq_nil_iff.mpr fun f m => by simp [Flight.verdict_unprotected (due f m).1]
  have noNext : (s.strm.flight.filter (·.k ≤ 1)).filter Flight.isNext = [] :=
    List.filter_eq_nil_iff.mpr fun f m => by simp [(due f m).2]
  have results : ((s.strm.flight.filter (·.k ≤ 1)).filter fun f => !f.isNext) = s.strm.flight.filter (·.k ≤ 1) :=
    List.filter_eq_self.mpr fun f m => by simp [(due f m).2]
  simp only [State.beginCycle, noTie, noNext, results, List.isEmpty_nil, Bool.not_true, Bool.false_eq_true, if_false, List.nil_append,
    State.landAll_unprotected _ _ due]
  rfl

/-- RESULT_LANDING of a stalled stream, one that issues nothing, or one whose issue cycle has begun. -/
theorem exec_resultLanding_idle (s : State) (h : s.strm.fresh = true ∨ s.strm.stall ≠ 0 ∨ s.strm.run.active = false) :
    exec .resultLanding s = .next s := by
  rw [exec_resultLanding, execResultLanding, if_pos]
  rcases h with h | h | h <;> simp [h]

theorem exec_resultLanding_begins (s : State) (fresh : s.strm.fresh = false) (stall : s.strm.stall = 0) (active : s.strm.run.active = true) :
    exec .resultLanding s = .next s.beginCycle := by
  rw [exec_resultLanding, execResultLanding, if_neg]
  simp [fresh, stall, active]

/-! ### The bits that a result writes (R130) -/

theorem lowBits_getLsbD (n i : Nat) : (lowBits n).getLsbD i = (decide (i < n) && decide (i < 1024)) := by
  rw [lowBits, BitVec.getLsbD_ofNat, Nat.testBit_two_pow_sub_one, Bool.and_comm]

theorem mergeBits_getLsbD (old bits val : VReg) {i : Nat} (lt : i < 1024) :
    (mergeBits old bits val).getLsbD i = if bits.getLsbD i then val.getLsbD i else old.getLsbD i := by
  simp only [mergeBits, BitVec.getLsbD_or, BitVec.getLsbD_and, BitVec.getLsbD_not, lt, decide_true, Bool.true_and]
  cases bits.getLsbD i <;> simp

/-- A result that writes all bits of a register of `n` bits replaces its value. -/
theorem mergeBits_lowBits {n : Nat} (fit : n ≤ 1024) (old val : VReg) : (mergeBits old (lowBits n) val).setWidth n = val.setWidth n := by
  apply BitVec.eq_of_getLsbD_eq
  intro i lt
  rw [BitVec.getLsbD_setWidth, BitVec.getLsbD_setWidth, mergeBits_getLsbD _ _ _ (by omega), lowBits_getLsbD]
  simp [lt, show i < 1024 by omega]

/-! ### Landing in a register: one equation for each kind of destination (R10, R16) -/

section
variable (x : Stream) {f : Flight} {c : RCopy} {n : Nat}

theorem Stream.land_off (off : c.on = false) : x.land f c = x := by simp [Stream.land, off]

theorem Stream.land_g (on : c.on = true) (d : f.dst = .g n) (all : c.bits = lowBits 32) : x.land f c =
    { x with g := SMap.set 0 n (c.val.setWidth 32) x.g, gMark := SMap.set .none n c.mark x.gMark, fcsr := x.fcsr ||| c.flags } := by
  simp [Stream.land, on, d, all, mergeBits_lowBits]

theorem Stream.land_a (on : c.on = true) (d : f.dst = .a n) (all : c.bits = lowBits 64) : x.land f c =
    { x with a := SMap.set 0 n (c.val.setWidth 64) x.a, fcsr := x.fcsr ||| c.flags } := by
  simp [Stream.land, on, d, all, mergeBits_lowBits]

theorem Stream.land_v (on : c.on = true) (d : f.dst = .v n) : x.land f c =
    { x with v := SMap.set 0 n (mergeBits (SMap.get 0 n x.v) c.bits c.val) x.v, fcsr := x.fcsr ||| c.flags } := by
  simp [Stream.land, on, d]

theorem Stream.land_p (on : c.on = true) (d : f.dst = .p n) : x.land f c =
    { x with p := if n = 0 then x.p else SMap.set false n (c.val.getLsbD 0) x.p, fcsr := x.fcsr ||| c.flags } := by
  by_cases z : n = 0 <;> simp [Stream.land, on, d, z]

theorem Stream.land_m (on : c.on = true) (d : f.dst = .m n) (all : c.bits = lowBits 32) : x.land f c =
    { x with m := if n = 0 then x.m else SMap.set 0 n (c.val.setWidth 32) x.m, fcsr := x.fcsr ||| c.flags } := by
  by_cases z : n = 0 <;> simp [Stream.land, on, d, z, all, mergeBits_lowBits]

theorem Stream.land_b (on : c.on = true) (d : f.dst = .b n) : x.land f c =
    { x with b := SMap.set BReg.zero n ⟨Pos.ofPacked (c.val.toNat % 2 ^ 32), c.val.getLsbD 32, some x.cyc⟩ x.b, fcsr := x.fcsr ||| c.flags } := by
  simp [Stream.land, on, d]

end

/-- Settles O17: a cycle that does not begin changes nothing; one that begins lands the due results in issue order, each by the equation
of its destination. -/
theorem resultsLand : Obligations.ResultsLand := by
  unfold Obligations.ResultsLand
  refine ⟨exec_resultLanding_idle, fun s fresh stall active plain => ?_, fun x f c n => ?_, fun s n v => ⟨rfl, rfl, rfl, rfl, rfl, rfl, rfl⟩⟩
  · rw [exec_resultLanding_begins s fresh stall active, State.beginCycle_unprotected s plain]
    rfl
  · refine ⟨x.land_off, fun on => ⟨fun d all => ?_, fun d all => ?_, fun d => ?_, fun d => ?_, fun d all => ?_, fun d => ?_⟩⟩
    · rw [x.land_g on d all]
      exact ⟨SMap.get_set_self .., SMap.get_set_self .., fun j ne => ⟨SMap.get_set_ne _ _ _ ne, SMap.get_set_ne _ _ _ ne⟩, rfl⟩
    · rw [x.land_a on d all]
      exact ⟨SMap.get_set_self .., fun j ne => SMap.get_set_ne _ _ _ ne, rfl⟩
    · rw [x.land_v on d]
      exact ⟨fun i lt => by rw [SMap.get_set_self, mergeBits_getLsbD _ _ _ lt], fun j ne => SMap.get_set_ne _ _ _ ne, rfl⟩
    · rw [x.land_p on d]
      exact ⟨fun nz => by simp [nz], fun j ne => by split <;> simp [SMap.get_set_ne, ne], fun z => by simp [z], rfl⟩
    · rw [x.land_m on d all]
      exact ⟨fun nz => by simp [nz], fun j ne => by split <;> simp [SMap.get_set_ne, ne], fun z => by simp [z], rfl⟩
    · rw [x.land_b on d]
      exact ⟨SMap.get_set_self .., fun j ne => SMap.get_set_ne _ _ _ ne, rfl⟩

end Sys2Proof.Machine
end

section
/-! SUPPORT. One step of the device: the instruction in a slot (03 R58, R64), the end of a bundle (01 R15, R18), the turn of a partition
(01 R22), and O30. -/

namespace Sys2Proof.Machine

/-! ### The instruction in a slot -/

theorem Memory.readBytes_add (m : Memory) (a j k : Nat) : readBytes m a (j + k) = readBytes m a j ++ readBytes m (a + j) k := by
  induction j generalizing a with
  | zero => simp [readBytes]
  | succ j ih => rw [Nat.succ_add, readBytes, readBytes, ih, List.cons_append, Nat.add_right_comm, Nat.add_assoc]

theorem Memory.bytesNat_readBytes (m : Memory) (a n : Nat) : bytesNat (readBytes m a n) = readNat m a n := by
  induction n generalizing a with
  | zero => rfl
  | succ n ih => simp only [readBytes, bytesNat, readNat, ih]

/-- The decoder on the bytes of one slot (R58). -/
theorem decode_readBytes_six (m : Memory) (a : Nat) :
    decode (Memory.readBytes m a 6) =
      if sylX (Memory.readNat m a 6) then .error .truncated else (decodeSyl (Memory.readNat m a 6) none).map fun i => (i, []) := by
  have len := Memory.readBytes_length m a 6
  have word : bytesNat ((Memory.readBytes m a 6).take 6) = Memory.readNat m a 6 := by
    rw [List.take_of_length_le len.le, Memory.bytesNat_readBytes]
  have after : (Memory.readBytes m a 6).drop 6 = [] := List.drop_of_length_le len.le
  simp [decode, word, len, after]

/-- The decoder on the bytes of two slots: those of the second are the extension's, or follow the instruction (R64). -/
theorem decode_readBytes_twelve (m : Memory) (a : Nat) :
    decode (Memory.readBytes m a 12) =
      if sylX (Memory.readNat m a 6) then (decodeSyl (Memory.readNat m a 6) (some (Memory.readNat m (a + 6) 6))).map fun i => (i, [])
      else (decodeSyl (Memory.readNat m a 6) none).map fun i => (i, Memory.readBytes m (a + 6) 6) := by
  have len := Memory.readBytes_length m a 6
  have cut : Memory.readBytes m a 12 = Memory.readBytes m a 6 ++ Memory.readBytes m (a + 6) 6 := Memory.readBytes_add m a 6 6
  have first : (Memory.readBytes m a 12).take 6 = Memory.readBytes m a 6 := by rw [cut, List.take_left' len]
  have second : (Memory.readBytes m a 12).drop 6 = Memory.readBytes m (a + 6) 6 := by rw [cut, List.drop_left' len]
  have after : (Memory.readBytes m a 12).drop 12 = [] := List.drop_of_length_le (Memory.readBytes_length m a 12).le
  simp [decode, first, second, after, Memory.readBytes_length, Memory.bytesNat_readBytes, List.take_of_length_le]

theorem decodeTotal_of_ok {w : Nat} {x : Option Nat} {i : Instr} (h : decodeSyl w x = .ok i) : decodeTotal w x = i := by
  rw [decodeTotal, h]

theorem decodeSyl_of_map {α : Type} {w : Nat} {x : Option Nat} {r r' : α} {i : Instr}
    (h : ((decodeSyl w x).map fun i => (i, r)) = .ok (i, r')) : decodeSyl w x = .ok i ∧ r = r' := by
  cases d : decodeSyl w x with
  | error e => rw [d] at h; cases h
  | ok j => rw [d] at h; cases h; exact ⟨rfl, rfl⟩

/-- Bit 44 of a syllable is its X bit (R63). -/
theorem bit_44_eq_sylX (w : Nat) : bit w 44 = sylX w := rfl

theorem sylAt_succ (m : Memory) (line slot : Nat) : sylAt m line (slot + 1) = Memory.readNat m (64 * line + 4 + 6 * slot + 6) 6 := by
  rw [sylAt, Nat.mul_succ, ← Nat.add_assoc]

theorem fetchOne_of_decode_twelve {m : Memory} {line slot : Nat} {i : Instr} {rest : List Byte} (lt : slot < 9)
    (h : decode (Memory.readBytes m (64 * line + 4 + 6 * slot) 12) = .ok (i, rest)) :
    fetchOne m line slot = (i, slot + 2 - rest.length / 6) := by
  rw [decode_readBytes_twelve] at h
  rw [fetchOne, bit_44_eq_sylX, sylAt_succ, sylAt]
  split at h
  · next x =>
    obtain ⟨ok, rfl⟩ := decodeSyl_of_map h
    simp [x, show ¬ 9 ≤ slot by omega, decodeTotal_of_ok ok]
  · next x =>
    obtain ⟨ok, rfl⟩ := decodeSyl_of_map h
    simp [x, decodeTotal_of_ok ok, Memory.readBytes_length]

theorem fetchOne_of_decode_six {m : Memory} {line : Nat} {i : Instr} {rest : List Byte}
    (h : decode (Memory.readBytes m (64 * line + 4 + 6 * 9) 6) = .ok (i, rest)) : fetchOne m line 9 = (i, 10) := by
  rw [decode_readBytes_six] at h
  rw [fetchOne, bit_44_eq_sylX, sylAt]
  split at h
  · cases h
  · next x =>
    obtain ⟨ok, -⟩ := decodeSyl_of_map h
    simp [x, decodeTotal_of_ok ok]

/-! ### The end of a bundle -/

/-- No hardware loop ends at a position: the state stays as it is (R119). -/
theorem loopEnd_of_no_end (p : Pos) (skip : List Nat) (ns : List Nat) (s : State) (h : ∀ n ∈ ns, (s.rdLc n).active = false ∨ (s.rdLc n).last ≠ p) :
    loopEnd p skip ns s = (s, none) := by
  induction ns with
  | nil => rfl
  | cons n ns ih =>
    obtain ⟨hn, hns⟩ := List.forall_mem_cons.mp h
    have idle : ((s.rdLc n).active && decide ((s.rdLc n).last = p) && !(skip.contains n)) = false := by
      rcases hn with hn | hn <;> simp [hn]
    rw [loopEnd]
    simp only [idle, Bool.false_eq_true, if_false, ih hns]

/-- A bundle without a branch, at which no loop ends, is followed by the next one. -/
theorem State.moveOn_next {s : State} {p : Pos} {nxt : Nat} (taken : s.strm.latch.taken = none)
    (loops : s.strm.handler = true ∨ ∀ n, n < 3 → (s.rdLc n).active = false ∨ (s.rdLc n).last ≠ p) :
    s.moveOn p nxt = s.setStrm fun x => { x with pos := ⟨p.line, nxt⟩ } := by
  rw [State.moveOn]
  simp only [taken]
  split
  · rfl
  · next h =>
    have noEnd : ∀ n ∈ [2, 1, 0], (s.rdLc n).active = false ∨ (s.rdLc n).last ≠ p := fun n m => by
      rcases loops with hd | hl
      · simp [hd] at h
      · exact hl n (by simp at m; omega)
    rw [loopEnd_of_no_end p _ _ s noEnd]

theorem State.fwCount_of_ne {s : State} (h : s.strm.cls ≠ .firmware) : s.fwCount = s := by simp [State.fwCount, h]
theorem State.aheadIssue_of_ne {s : State} (h : s.strm.cls ≠ .control) (l : Latch) : s.aheadIssue l = s := by simp [State.aheadIssue, h]

/-- The stream after a bundle that neither branches nor ends its work, with the next bundle's position (R15). -/
def Stream.issued (x : Stream) (q : Pos) : Stream :=
  { x with pos := q, hold := x.latch.extra, latch := { Latch.clear with issued := true }, fresh := false, icnt := x.icnt + 1 }

theorem finishBundle_vector {t : State} {p : Pos} {nxt : Nat} (cls : t.strm.cls = .vector) (run : t.strm.run = .running)
    (wait : t.strm.latch.wait = false) (taken : t.strm.latch.taken = none) (ended : t.strm.latch.ended = false)
    (stopAfter : t.strm.latch.stopAfter = false) (trapAfter : t.strm.latch.trapAfter = none)
    (loops : t.strm.handler = true ∨ ∀ n, n < 3 → (t.rdLc n).active = false ∨ (t.rdLc n).last ≠ p) :
    finishBundle p nxt t = .next (t.setStrm fun x => x.issued ⟨p.line, nxt⟩) := by
  have next : ((t.moveOn p nxt).setStrm fun x => { x with hold := t.strm.latch.extra, latch := { Latch.clear with issued := true } }).endCycle
      = t.setStrm fun x => x.issued ⟨p.line, nxt⟩ := by rw [State.moveOn_next taken loops]; rfl
  have sameRun : (t.setStrm fun x => x.issued ⟨p.line, nxt⟩).strm.run = .running := run
  rw [finishBundle, next, State.fwCount_of_ne (by simp [Stream.issued, cls]), State.aheadIssue_of_ne (by simp [Stream.issued, cls])]
  simp only [wait, ended, stopAfter, trapAfter, Bool.false_eq_true, if_false, andThen, sameRun]

/-- A bundle that neither stops nor waits finishes, where the results in flight leave room (R402); its divide units take it (R18). -/
theorem closeBundle_issues {was : Bool} {s1 s2 t : State} {p : Pos} {a : Instr} {b : Option Instr} {nxt : Nat}
    (trapped : t.strm.latch.trapped = false) (wait : t.strm.latch.wait = false) (cycleWait : t.strm.latch.cycleWait = false)
    (room : t.strm.inFlight ≤ 32) : closeBundle was s1 s2 p a b nxt t =
      finishBundle p nxt (t.setStrm fun x => { x.takeDiv a b with latch := { x.latch with wait := was } }) := by
  simp [closeBundle, trapped, wait, cycleWait, Nat.not_lt.mpr room]

/-- The issue cycle of a vector stream whose bundle neither stops, branches nor ends its work. -/
theorem closeBundle_vector {s1 s2 t : State} {p : Pos} {a : Instr} {b : Option Instr} {nxt : Nat} (cls : t.strm.cls = .vector)
    (run : t.strm.run = .running) (trapped : t.strm.latch.trapped = false) (wait : t.strm.latch.wait = false)
    (cycleWait : t.strm.latch.cycleWait = false) (taken : t.strm.latch.taken = none) (ended : t.strm.latch.ended = false)
    (stopAfter : t.strm.latch.stopAfter = false) (trapAfter : t.strm.latch.trapAfter = none) (room : t.strm.inFlight ≤ 32)
    (loops : t.strm.handler = true ∨ ∀ n, n < 3 → (t.rdLc n).active = false ∨ (t.rdLc n).last ≠ p) :
    closeBundle false s1 s2 p a b nxt t = .next (t.setStrm fun x => (x.takeDiv a b).issued ⟨p.line, nxt⟩) :=
  (closeBundle_issues trapped wait cycleWait room).trans (finishBundle_vector
    (t := t.setStrm fun x => { x.takeDiv a b with latch := { x.latch with wait := false } }) cls run rfl taken ended stopAfter trapAfter loops)

/-! ### The turn of a partition -/

theorem sidOf_coreOfSid_unitOfSid (sid : Nat) : sidOf (coreOfSid sid) (unitOfSid sid) = sid := Nat.div_add_mod' sid 16

theorem State.strmOf_own (s : State) : s.strmOf s.sid = s.strm := if_pos rfl

theorem State.ptwDone_strm (s : State) (sid : Nat) : (s.ptwDone sid).strm = s.strm := by
  rw [State.ptwDone]; split <;> rfl

/-- A running partition that has not had its turn in this arithmetic clock, on a live core that is not gated. -/
structure State.PartitionReady (s : State) : Prop where
  live : s.coreLive (coreOfSid s.sid) = true
  ungated : (s.coreOf (coreOfSid s.sid)).gated = false
  unit : unitOfSid s.sid < 4
  run : s.strm.run = .running
  turn : s.strm.acAt ≠ some (s.coreOf (coreOfSid s.sid)).ac

/-- The issuing stream and its core stand in their own fields and nowhere else in the state. -/
def State.ListedOnce (s : State) : Prop := (∀ e ∈ s.streams, e.1 ≠ s.sid) ∧ ∀ e ∈ s.cores, e.1 ≠ s.ck

theorem SMap.erase_of_unlisted {α : Type} {k : Nat} {m : SMap α} (h : ∀ e ∈ m, e.1 ≠ k) : SMap.erase k m = m := by
  induction m with
  | nil => rfl
  | cons e t ih =>
    obtain ⟨he, ht⟩ := List.forall_mem_cons.mp h
    rw [SMap.erase, if_neg he, ih ht]

theorem SMap.erase_insert_of_unlisted {α : Type} {k : Nat} (v : α) {m : SMap α} (h : ∀ e ∈ m, e.1 ≠ k) :
    SMap.erase k (SMap.insert k v m) = m := by
  induction m with
  | nil => simp [SMap.insert, SMap.erase]
  | cons e t ih =>
    obtain ⟨he, ht⟩ := List.forall_mem_cons.mp h
    by_cases lt : e.1 < k
    · simp [SMap.insert, SMap.erase, lt, he, ih ht]
    · simp [SMap.insert, SMap.erase, lt, he, SMap.erase_of_unlisted ht]

theorem SMap.erase_set_of_unlisted {α : Type} [DecidableEq α] (d : α) {k : Nat} (v : α) {m : SMap α} (h : ∀ e ∈ m, e.1 ≠ k) :
    SMap.erase k (SMap.set d k v m) = m := by
  unfold SMap.set
  split
  · rw [SMap.erase_of_unlisted h, SMap.erase_of_unlisted h]
  · exact SMap.erase_insert_of_unlisted v h

/-- To make the issuing stream the issuing one changes nothing. -/
theorem State.ListedOnce.focus_own {s : State} (once : s.ListedOnce) : s.focus s.sid = s := by
  obtain ⟨streams, cores⟩ := once
  have core : s.cores = SMap.erase (coreOfSid s.sid) (SMap.set Core.reset s.ck s.core s.cores) := (SMap.erase_set_of_unlisted _ _ cores).symm
  simp only [State.focus, SMap.get_set_self, SMap.erase_set_of_unlisted _ _ streams, ← core]
  rw [show coreOfSid s.sid = s.ck from rfl, SMap.get_set_self]

/-- The turn of such a partition is an issue attempt of it. -/
theorem serveUnit_partition {s : State} (r : s.PartitionReady) (once : s.ListedOnce) :
    serveUnit s.sid s = attempt (s.setStrm fun x => { x with acAt := some (s.coreOf (coreOfSid s.sid)).ac }) := by
  obtain ⟨live, ungated, unit, run, turn⟩ := r
  have notCu : unitOfSid s.sid ≠ 4 ∧ unitOfSid s.sid ≠ 8 := by omega
  have notDone : s.unitDone (coreOfSid s.sid) (unitOfSid s.sid) = false := by
    simp [State.unitDone, notCu, sidOf_coreOfSid_unitOfSid, State.strmOf_own, run, turn, Run.active]
  simp [serveUnit, notDone, live, ungated, andThen, notCu, once.focus_own, run, Run.active]

/-- The state in which an attempt's results land. -/
def State.attempted (s : State) : State :=
  ((s.setStrm fun x => { x with acAt := some (s.coreOf (coreOfSid s.sid)).ac }).ptwDone s.sid).setStrm fun x => { x with latch := Latch.clear }

/-- What the landing must leave for a running stream without an engine to issue. -/
structure State.MayIssue (s : State) : Prop where
  untrapped : s.strm.latch.trapped = false
  awake : s.strm.latch.wait = false
  fresh : s.strm.fresh = true
  hold : s.strm.hold = 0
  run : s.strm.run = .running
  unit : s.strm.unit < 4
  noTrapDue : s.strm.trapDue = none

theorem attempt_issues {s s1 : State} (stall : s.strm.stall = 0)
    (landed : exec .resultLanding ((s.ptwDone s.sid).setStrm fun x => { x with latch := Latch.clear }) = .next s1) (ok : s1.MayIssue) :
    attempt s = issueCycle s.strm.latch.wait s1 s1 := by
  obtain ⟨untrapped, awake, fresh, hold, run, unit, noTrapDue⟩ := ok
  have noEngine : engineCycle s1 = .next s1 := by
    simp [engineCycle, show s1.strm.unit ≠ 5 ∧ s1.strm.unit ≠ 6 by omega]
  simp [attempt, State.ptwDone_strm, stall, landed, andThen, untrapped, fresh, noEngine, awake, hold, run, State.takeTrapDue, noTrapDue]

/-- The stream stands at a position. -/
def State.standAt (s : State) (p : Pos) : State := s.setStrm fun x => { x with pos := p }

theorem issueCycle_stands {was : Bool} {s1 s2 : State} {p : Pos} {a : Instr} {b : Option Instr} {nxt : Nat}
    (stands : settle (s2.core.codeFor s2.strm.cls).1 (s2.core.codeFor s2.strm.cls).2 s2.strm.cls ((s2.core.codeFor s2.strm.cls).2 + 1)
      s2.strm.pos = .stands p)
    (fetched : fetchBundle (s2.core.codeFor s2.strm.cls).1 s2.strm.cls.single p.line p.slot = (a, b, nxt))
    (legal : illegalIn s2.strm.cls s2.core.pool (s2.core.codeFor s2.strm.cls).1 p.line p.slot a b
      (fetchOne (s2.core.codeFor s2.strm.cls).1 p.line p.slot).2 = none) :
    issueCycle was s1 s2 = issueBundle was (s1.standAt p) (s2.standAt p) p a b nxt := by
  simp only [issueCycle, State.standAt, stands, fetched, legal]

theorem issueBundle_one {was : Bool} {s1 s2 : State} {p : Pos} {a : Instr} {nxt : Nat} (free : s2.strm.divBusy a none = false)
    (multi : s2.strm.cls.single = false) : issueBundle was s1 s2 p a none nxt =
      andThen (exec a s2) fun t => closeBundle was s1 s2 p a none nxt (t.servedFrom s2 a none) := by
  simp [issueBundle, free, multi]

/-- Of a bundle of two neither of which stops, slot A's runs and slot B's after it (R22). -/
theorem issueBundle_two {was : Bool} {s1 s2 sa sb : State} {p : Pos} {a b : Instr} {nxt : Nat} (free : s2.strm.divBusy a (some b) = false)
    (multi : s2.strm.cls.single = false) (runB : exec b s2 = .next sb) (goesB : sb.halted = false)
    (runA : exec a (s2.setLatch fun l => { l with b2 := false }) = .next sa) (goesA : sa.halted = false) :
    issueBundle was s1 s2 p a (some b) nxt = andThen (exec b (sa.setLatch fun l => { l with b2 := false }))
      fun t => closeBundle was s1 s2 p a (some b) nxt (t.servedFrom s2 a (some b)) := by
  have noTrapB : sb.strm.latch.trapped = false := by simp only [State.halted, Bool.or_eq_false_iff] at goesB; exact goesB.1.1
  simp [issueBundle, free, multi, runPair, runB, andThen, noTrapB, runA, goesA, goesB]

/-- With an empty agenda it is the turn of a ready partition, listed once with its core; its results land in `s1`, and then flow stands
at the legal bundle of `a` and `b` at `p`. -/
structure State.IssuesBundle (s s1 : State) (p : Pos) (a : Instr) (b : Option Instr) (nxt : Nat) : Prop where
  agenda : s.agenda = []
  turn : s.turnOpen s.sid = true
  ready : s.PartitionReady
  once : s.ListedOnce
  stall : s.strm.stall = 0
  landed : exec .resultLanding s.attempted = .next s1
  mayIssue : s1.MayIssue
  multi : s1.strm.cls.single = false
  stands : settle (s1.core.codeFor s1.strm.cls).1 (s1.core.codeFor s1.strm.cls).2 s1.strm.cls ((s1.core.codeFor s1.strm.cls).2 + 1)
    s1.strm.pos = .stands p
  fetched : fetchBundle (s1.core.codeFor s1.strm.cls).1 s1.strm.cls.single p.line p.slot = (a, b, nxt)
  legal : illegalIn s1.strm.cls s1.core.pool (s1.core.codeFor s1.strm.cls).1 p.line p.slot a b
    (fetchOne (s1.core.codeFor s1.strm.cls).1 p.line p.slot).2 = none

section
variable {s s1 : State} {p : Pos} {a b : Instr} {nxt : Nat}

/-- The step issues the bundle and ends the die cycle. -/
theorem State.IssuesBundle.step_eq {b : Option Instr} (h : s.IssuesBundle s1 p a b nxt) :
    step s = andThen (issueBundle s.strm.latch.wait (s1.standAt p) (s1.standAt p) p a b nxt) tick := by
  have turnOf : issueTurn s.sid s = issueCycle s.strm.latch.wait s1 s1 := by
    rw [issueTurn, if_pos h.turn, serveUnit_partition h.ready h.once]
    exact attempt_issues h.stall h.landed h.mayIssue
  rw [step, takeTurn]
  simp only [h.agenda, turnOf, issueCycle_stands h.stands h.fetched h.legal]

/-- The second claim of O30 with the hypothesis that it lacks, for a bundle of one. -/
theorem step_runs_one (h : s.IssuesBundle s1 p a none nxt) (free : (s1.standAt p).strm.divBusy a none = false) :
    let t := s1.standAt p
    step s = andThen (andThen (exec a t) fun u => closeBundle s.strm.latch.wait t t p a none nxt (u.servedFrom t a none)) tick := by
  simp only [h.step_eq, issueBundle_one free h.multi]

/-- The second claim of O30 with the hypothesis that it lacks, for a bundle of two neither of which stops. -/
theorem step_runs_two {sa sb : State} (h : s.IssuesBundle s1 p a (some b) nxt) (free : (s1.standAt p).strm.divBusy a (some b) = false)
    (runB : exec b (s1.standAt p) = .next sb) (goesB : sb.halted = false)
    (runA : exec a ((s1.standAt p).setLatch fun l => { l with b2 := false }) = .next sa) (goesA : sa.halted = false) :
    let t := s1.standAt p
    step s = andThen (andThen (exec b (sa.setLatch fun l => { l with b2 := false })) fun u =>
      closeBundle s.strm.latch.wait t t p a (some b) nxt (u.servedFrom t a (some b))) tick := by
  simp only [h.step_eq, issueBundle_two free h.multi runB goesB runA goesA]

end

/-- ADD g1 = g0 + 5, and the state in which partition 0 of core 0 fetches it next. -/
def addFive : Instr := .add ⟨0, 0, 0, 0⟩ ⟨1, 0, .imm 5⟩
def State.addPlaced : State := State.reset.withFetchWord 48 0x000181000005

/-- The hypotheses of `step_runs_one` can be met: the step issues the ADD. -/
theorem addPlaced_issuesBundle : State.addPlaced.IssuesBundle State.addPlaced.attempted.beginCycle ⟨1, 0⟩ addFive none 1 where
  agenda := rfl
  turn := by decide +kernel
  ready := ⟨by decide +kernel, by decide +kernel, by decide +kernel, by decide +kernel, by decide +kernel⟩
  once := ⟨by decide +kernel, by decide +kernel⟩
  stall := by decide +kernel
  landed := exec_resultLanding_begins _ (by decide +kernel) (by decide +kernel) (by decide +kernel)
  mayIssue := ⟨by decide +kernel, by decide +kernel, by decide +kernel, by decide +kernel, by decide +kernel, by decide +kernel,
    by decide +kernel⟩
  multi := by decide +kernel
  stands := by decide +kernel
  fetched := by decide +kernel
  legal := by decide +kernel

/-! ### A core that is listed twice -/

/-- The ADD is fetched next. The core stands in its own field, with 2 in a leaky bucket, and is listed a second time among the others; the
buckets leak at the end of this die cycle. -/
def State.twiceListed : State :=
  let s := State.addPlaced
  { s with core := { s.core with buckets := [(0, 2)] }, cores := [(0, Core.reset)], sys := { s.sys with dc := 2 ^ 31 - 1 } }

/-- The state after the landing. -/
def State.twiceListedIssuing : State := State.twiceListed.attempted.beginCycle

theorem twiceListed_lands : exec .resultLanding State.twiceListed.attempted = .next State.twiceListedIssuing :=
  exec_resultLanding_begins _ (by decide +kernel) (by decide +kernel) (by decide +kernel)

/-- What a step leaves in the bucket of core 0. -/
def bucketAfter : Out → Option Nat
  | .next t => some (SMap.get 0 0 (t.coreOf 0).buckets).toNat
  | _ => none

/-- The step makes the partition the issuing stream anew, which unlists the second entry, and the bucket leaks once. -/
theorem bucketAfter_step_twiceListed : bucketAfter (step State.twiceListed) = some 1 := by decide +kernel

/-- The bundle's effect and the end of the die cycle as O30 names them keep the second entry, and BUCKET_LEAK goes over both (R392). -/
theorem bucketAfter_bundle_twiceListed :
    let t := State.twiceListedIssuing.standAt ⟨1, 0⟩
    bucketAfter (andThen (andThen (exec addFive t) fun u =>
      closeBundle State.twiceListed.strm.latch.wait t t ⟨1, 0⟩ addFive none 1 (u.servedFrom t addFive none)) tick) = some 0 := by
  decide +kernel

/-- The start of O30's step: every hypothesis about it. -/
theorem twiceListed_ready :
    let s := State.twiceListed
    let c := s.coreOf (coreOfSid s.sid)
    s.agenda = [] ∧ s.turnOpen s.sid = true ∧ s.coreLive (coreOfSid s.sid) = true ∧ c.gated = false ∧ unitOfSid s.sid < 4 ∧
    s.strm.run = .running ∧ s.strm.stall = 0 ∧ s.strm.acAt ≠ some c.ac := by decide +kernel

/-- The state after the landing: every hypothesis about it. -/
theorem twiceListedIssuing_ready :
    let s := State.twiceListedIssuing
    s.strm.latch.trapped = false ∧ s.strm.latch.wait = false ∧ s.strm.fresh = true ∧ s.strm.hold = 0 ∧ s.strm.run = .running ∧
    s.strm.unit < 4 ∧ s.strm.cls.single = false ∧ s.strm.trapDue = none := by decide +kernel

/-- ADD alone is the legal bundle at which flow stands. -/
theorem twiceListedIssuing_fetches :
    let s := State.twiceListedIssuing
    let m := (s.core.codeFor s.strm.cls).1
    let len := (s.core.codeFor s.strm.cls).2
    settle m len s.strm.cls (len + 1) s.strm.pos = .stands ⟨1, 0⟩ ∧ fetchBundle m s.strm.cls.single 1 0 = (addFive, none, 1) ∧
    illegalIn s.strm.cls s.core.pool m 1 0 addFive none (fetchOne m 1 0).2 = none ∧
    (s.standAt ⟨1, 0⟩).strm.divBusy addFive none = false := by decide +kernel

/-- Refutes O30: its second claim speaks of every state, and so of one that lists the issuing stream's core a second time among the other
cores. The step unlists it, the claim's right-hand side does not, and the core's bucket leaks once in the one and twice in the other.
Where the core and the stream are listed once, the claim holds (`step_runs_one`, `step_runs_two`); the first claim (`fetchOne_of_decode_twelve`,
`fetchOne_of_decode_six`) and the third (`closeBundle_vector`) hold of every state. -/
theorem not_stepRunsDecoded : ¬ Obligations.StepRunsDecoded := by
  unfold Obligations.StepRunsDecoded
  rintro ⟨-, claim, -⟩
  obtain ⟨agenda, turn, live, ungated, unit, run, stall, acAt⟩ := twiceListed_ready
  obtain ⟨untrapped, awake, fresh, hold, run', unit', multi, noTrapDue⟩ := twiceListedIssuing_ready
  obtain ⟨stands, fetched, legal, free⟩ := twiceListedIssuing_fetches
  obtain ⟨one, -⟩ := claim State.twiceListed State.twiceListedIssuing ⟨1, 0⟩ addFive 1 agenda turn live ungated unit run stall acAt
    twiceListed_lands untrapped awake fresh hold run' unit' multi noTrapDue stands
  have leaks : some 1 = some 0 := by
    rw [← bucketAfter_step_twiceListed, one fetched legal free]
    exact bucketAfter_bundle_twiceListed
  exact absurd leaks (by decide)

end Sys2Proof.Machine
end

section
/-! SUPPORT. Rounding to a format (02 R32, R39 to R42), and O34. -/

namespace Sys2Proof.Machine

/-! ### The demands on a rounded value -/

/-- Whether a rounding mode takes a magnitude of this sign to the nearest one not above it, or not below it (R39). -/
def RoundsDown (rm : Nat) (neg : Bool) : Prop := rm = 1 ∨ (rm = 2 ∧ neg = false) ∨ (rm = 3 ∧ neg = true)
def RoundsUp (rm : Nat) (neg : Bool) : Prop := (rm = 2 ∧ neg = true) ∨ (rm = 3 ∧ neg = false)

/-- What R39 asks of the rounded magnitude `v` of an exact magnitude `x` in view of another magnitude `w` of the format; `even` says
that `v` has an even encoding. All three are integers on one exponent. -/
def RoundedAgainst (rm : Nat) (neg : Bool) (even : Prop) (v x w : Int) : Prop :=
  (rm = 0 ∨ rm = 4 → (v - x).natAbs ≤ (w - x).natAbs) ∧
  (rm = 0 → (v - x).natAbs = (w - x).natAbs → v ≠ w → even) ∧
  (rm = 4 → (v - x).natAbs = (w - x).natAbs → v ≠ w → w < v) ∧
  (RoundsDown rm neg → v ≤ x ∧ (w ≤ x → w ≤ v)) ∧
  (RoundsUp rm neg → x ≤ v ∧ (x ≤ w → v ≤ w))

section
variable {rm : Nat} {neg : Bool} {even : Prop} {v x w : Int}

/-- Every mode either is one of the nearest modes or has a direction. -/
theorem roundingMode_cases (lt : rm < 5) (neg : Bool) : (rm = 0 ∨ rm = 4) ∨ RoundsDown rm neg ∨ RoundsUp rm neg := by
  have : rm = 0 ∨ rm = 4 ∨ rm = 1 ∨ rm = 2 ∨ rm = 3 := by omega
  rcases this with rfl | rfl | rfl | rfl | rfl <;> cases neg <;> simp [RoundsDown, RoundsUp]

/-- The demands do not depend on the exponent on which the values are compared. -/
theorem roundedAgainst_mul {c : Int} (pos : 0 < c) :
    RoundedAgainst rm neg even (v * c) (x * c) (w * c) ↔ RoundedAgainst rm neg even v x w := by
  have posAbs : 0 < c.natAbs := by omega
  simp only [RoundedAgainst, ← Int.sub_mul, Int.natAbs_mul, Nat.mul_le_mul_right_iff posAbs, Nat.mul_left_inj posAbs.ne',
    Int.mul_le_mul_iff_of_pos_right pos, Int.mul_lt_mul_right pos, ne_eq, Int.mul_eq_mul_right_iff pos.ne']

/-- An exact value is the best one. -/
theorem roundedAgainst_exact : RoundedAgainst rm neg even x x w := by
  refine ⟨by omega, by omega, by omega, fun _ => by omega, fun _ => by omega⟩

/-- Rounding does not pass a value of the format: from above, and from below. -/
theorem RoundedAgainst.ge (h : RoundedAgainst rm neg even v x w) (lt : rm < 5) (le : w ≤ x) : w ≤ v := by
  obtain ⟨near, -, -, down, up⟩ := h
  rcases roundingMode_cases lt neg with n | d | u
  · have := near n; omega
  · exact (down d).2 le
  · exact le.trans (up u).1

theorem RoundedAgainst.le (h : RoundedAgainst rm neg even v x w) (lt : rm < 5) (le : x ≤ w) : v ≤ w := by
  obtain ⟨near, -, -, down, up⟩ := h
  rcases roundingMode_cases lt neg with n | d | u
  · have := near n; omega
  · exact (down d).1.trans le
  · exact (up u).2 le

/-- A value farther below is worse than the one that was compared. -/
theorem RoundedAgainst.below {l : Int} (h : RoundedAgainst rm neg even v x l) (lt : rm < 5) (wl : w < l) (lx : l ≤ x) :
    RoundedAgainst rm neg even v x w := by
  have lv := h.ge lt lx
  obtain ⟨near, -, -, down, up⟩ := h
  refine ⟨fun n => ?_, fun n => ?_, fun n => ?_, fun d => ⟨(down d).1, fun _ => by omega⟩, fun u => ⟨(up u).1, fun _ => by omega⟩⟩
  · have := near n; omega
  · have := near (.inl n); omega
  · omega

end

/-! ### Rounding to the multiples of a power of two -/

/-- Scaling to a lower exponent in two steps. -/
theorem scaled_trans (m : Nat) {e q b : Int} (bq : b ≤ q) (qe : q ≤ e) : scaled m e b = scaled (scaled m e q) q b := by
  rw [scaled, scaled, scaled, Nat.mul_assoc, ← Nat.pow_add]
  congr 2; omega

/-- The demands hold on every exponent if they hold on a lower one. -/
theorem RoundedAgainst.of_lower {rm : Nat} {neg : Bool} {even : Prop} {v x w : Nat} {q e u b c : Int} (cb : c ≤ b) (bq : b ≤ q) (be : b ≤ e)
    (bu : b ≤ u) (h : RoundedAgainst rm neg even (scaled v q c) (scaled x e c) (scaled w u c)) :
    RoundedAgainst rm neg even (scaled v q b) (scaled x e b) (scaled w u b) := by
  rw [scaled_trans v cb bq, scaled_trans x cb be, scaled_trans w cb bu] at h
  simp only [scaled.eq_def _ b c, Nat.cast_mul] at h
  exact (roundedAgainst_mul (by exact_mod_cast Nat.two_pow_pos _)).1 h

theorem scaled_inj {v x : Nat} {q e b c : Int} (cb : c ≤ b) (bq : b ≤ q) (be : b ≤ e) :
    scaled v q c = scaled x e c ↔ scaled v q b = scaled x e b := by
  rw [scaled_trans v cb bq, scaled_trans x cb be]
  exact Nat.mul_left_inj (Nat.two_pow_pos _).ne'

/-- The decision of `roundTo` to take the next multiple of `D` above `n × D + r`. -/
def goesUp (rm : Nat) (neg : Bool) (n r D : Nat) : Bool := match rm with
  | 0 => D < 2 * r || (2 * r = D && n % 2 = 1)
  | 1 => false
  | 2 => neg && r != 0
  | 3 => !neg && r != 0
  | _ => D ≤ 2 * r

/-- The multiple of `D` that a mode takes for `n × D + r`. -/
def roundQuotient (rm : Nat) (neg : Bool) (n r D : Nat) : Nat := if goesUp rm neg n r D then n + 1 else n

section
variable {rm : Nat} {neg : Bool} {n r D : Nat}

/-- The nearest modes go to the nearer side; at a tie RNE goes to the even one and RNA up (R39). -/
theorem goesUp_rne : goesUp 0 neg n r D = true ↔ D < 2 * r ∨ (2 * r = D ∧ n % 2 = 1) := by simp [goesUp]
theorem goesUp_rna : goesUp 4 neg n r D = true ↔ D ≤ 2 * r := by simp [goesUp]
theorem goesUp_down (h : RoundsDown rm neg) : goesUp rm neg n r D = false := by
  rcases h with rfl | ⟨rfl, rfl⟩ | ⟨rfl, rfl⟩ <;> simp [goesUp]
theorem goesUp_up (h : RoundsUp rm neg) : goesUp rm neg n r D = true ↔ r ≠ 0 := by
  rcases h with ⟨rfl, rfl⟩ | ⟨rfl, rfl⟩ <;> simp [goesUp]

/-- An exact quotient stays. -/
theorem goesUp_zero (lt : rm < 5) (pos : 0 < D) : goesUp rm neg n 0 D = false := by
  rw [Bool.eq_false_iff]
  rcases roundingMode_cases lt neg with (rfl | rfl) | d | u
  · rw [ne_eq, goesUp_rne]; omega
  · rw [ne_eq, goesUp_rna]; omega
  · simp [goesUp_down d]
  · simp [goesUp_up u]

theorem roundQuotient_mul : roundQuotient rm neg n r D * D = if goesUp rm neg n r D then n * D + D else n * D := by
  unfold roundQuotient; split <;> simp [Nat.add_mul]

/-- That multiple is the best one. -/
theorem roundQuotient_best (lt : rm < 5) (rD : r < D) (k : Nat) :
    RoundedAgainst rm neg (roundQuotient rm neg n r D % 2 = 0) ((roundQuotient rm neg n r D * D : Nat) : Int) ((n * D + r : Nat) : Int)
      ((k * D : Nat) : Int) := by
  have apart : k * D ≤ n * D ∨ n * D + D ≤ k * D := by
    rcases Nat.lt_or_ge n k with h | h
    · exact .inr (by simpa [Nat.add_mul] using Nat.mul_le_mul_right D h)
    · exact .inl (Nat.mul_le_mul_right D h)
  have rne : rm = 0 → (goesUp rm neg n r D = true ↔ D < 2 * r ∨ (2 * r = D ∧ n % 2 = 1)) := by rintro rfl; exact goesUp_rne
  have rna : rm = 4 → (goesUp rm neg n r D = true ↔ D ≤ 2 * r) := by rintro rfl; exact goesUp_rna
  have down : RoundsDown rm neg → ¬ goesUp rm neg n r D = true := fun h => by simp [goesUp_down h]
  have up : RoundsUp rm neg → (goesUp rm neg n r D = true ↔ r ≠ 0) := goesUp_up
  rw [roundQuotient_mul]
  generalize n * D = A at *
  generalize k * D = W at *
  unfold RoundedAgainst roundQuotient
  split
  · next u =>
    simp only [u, true_iff, not_true_eq_false, imp_false] at rne rna down up
    exact ⟨by omega, by omega, by omega, fun d => absurd d down, fun d => by have := up d; omega⟩
  · next u =>
    simp only [u, false_iff, Bool.false_eq_true] at rne rna up
    exact ⟨by omega, by omega, by omega, fun d => by omega, fun d => by have := up d; omega⟩

theorem roundQuotient_inexact (lt : rm < 5) (rD : r < D) :
    r ≠ 0 ↔ ((roundQuotient rm neg n r D * D : Nat) : Int) ≠ ((n * D + r : Nat) : Int) := by
  rw [roundQuotient_mul]
  by_cases z : r = 0
  · subst z; simp [goesUp_zero lt rD]
  · split <;> omega

end

section
variable {q e : Int} (rm : Nat) (neg : Bool) (m : Nat)

theorem roundTo_of_le (h : q ≤ e) : roundTo rm neg m e q = (scaled m e q, false) := if_pos h
theorem roundTo_of_lt (h : e < q) : roundTo rm neg m e q =
    (roundQuotient rm neg (m / 2 ^ (q - e).toNat) (m % 2 ^ (q - e).toNat) (2 ^ (q - e).toNat), m % 2 ^ (q - e).toNat != 0) :=
  if_neg (Int.not_le.2 h)

end

/-- The result of `roundTo` is the best multiple of `2^q`, and its flag tells whether it is inexact. -/
theorem roundTo_best {rm : Nat} (lt : rm < 5) (neg : Bool) (m : Nat) {e q b : Int} (be : b ≤ e) (bq : b ≤ q) (k : Nat) :
    RoundedAgainst rm neg ((roundTo rm neg m e q).1 % 2 = 0) (scaled (roundTo rm neg m e q).1 q b) (scaled m e b) (scaled k q b) ∧
    ((roundTo rm neg m e q).2 = true ↔ (scaled (roundTo rm neg m e q).1 q b : Int) ≠ scaled m e b) := by
  rcases le_or_gt q e with le | gt
  · rw [roundTo_of_le rm neg m le, ← scaled_trans m bq le]
    exact ⟨roundedAgainst_exact, by simp⟩
  · have pos : (0 : Int) < ((2 ^ (e - b).toNat : Nat) : Int) := by exact_mod_cast Nat.two_pow_pos _
    have fine (n : Nat) : (scaled n q b : Int) = ((n * 2 ^ (q - e).toNat : Nat) : Int) * ((2 ^ (e - b).toNat : Nat) : Int) := by
      rw [scaled_trans n be gt.le, scaled, scaled, Nat.cast_mul]
    have source : (scaled m e b : Int) =
        ((m / 2 ^ (q - e).toNat * 2 ^ (q - e).toNat + m % 2 ^ (q - e).toNat : Nat) : Int) * ((2 ^ (e - b).toNat : Nat) : Int) := by
      rw [Nat.div_add_mod', scaled, Nat.cast_mul]
    have rD : m % 2 ^ (q - e).toNat < 2 ^ (q - e).toNat := Nat.mod_lt _ (Nat.two_pow_pos _)
    rw [fine, fine, source, roundedAgainst_mul pos, ne_eq, Int.mul_eq_mul_right_iff pos.ne', roundTo_of_lt rm neg m gt]
    exact ⟨roundQuotient_best lt rD k, bne_iff_ne.trans (roundQuotient_inexact lt rD)⟩

/-! ### The formats -/

/-- What the five formats have in common: a mantissa, an exponent field of two bits or more, and finite magnitudes up to the exponent
field of all ones, or in E4M3 up to the last but one. -/
structure FFmt.Regular (f : FFmt) : Prop where
  mantissa : 1 ≤ f.mb
  exponent : f.mb + 3 ≤ f.width
  largest : if f.e4m3 then f.maxBits + 2 = 2 ^ (f.width - 1) else f.maxBits + 1 = f.emax * 2 ^ f.mb

theorem FFmt.regular_of_mem {f : FFmt} (h : f ∈ [fmtF32, fmtBf16, fmtF16, fmtE4m3, fmtE5m2]) : f.Regular := by
  have : ∀ f ∈ [fmtF32, fmtBf16, fmtF16, fmtE4m3, fmtE5m2], 1 ≤ f.mb ∧ f.mb + 3 ≤ f.width ∧
    if f.e4m3 then f.maxBits + 2 = 2 ^ (f.width - 1) else f.maxBits + 1 = f.emax * 2 ^ f.mb := by decide
  obtain ⟨a, b, c⟩ := this f h
  exact ⟨a, b, c⟩

/-- The significand and the exponent of a finite value are in the format's range (R32). -/
theorem FFmt.decode_range {f : FFmt} {c j : Nat} {neg : Bool} {u : Int} (h : f.decode c = .fin neg j u) :
    j < 2 ^ (f.mb + 1) ∧ 1 - (f.bias : Int) - f.mb ≤ u := by
  have man : c % 2 ^ f.mb < 2 ^ f.mb := Nat.mod_lt _ (Nat.two_pow_pos _)
  unfold FFmt.decode at h
  simp only at h
  split at h
  · cases h
  split at h
  · split at h <;> cases h
  split at h
  · cases h; rw [Nat.pow_succ]; omega
  · cases h; rw [Nat.pow_succ]; omega

/-- The value of the magnitude `g` of a finite encoding (R32, R33). -/
def FFmt.ofMagnitude (f : FFmt) (neg : Bool) (g : Nat) : FVal :=
  if g / 2 ^ f.mb = 0 then .fin neg (g % 2 ^ f.mb) (1 - (f.bias : Int) - f.mb)
  else .fin neg (g % 2 ^ f.mb + 2 ^ f.mb) (((g / 2 ^ f.mb : Nat) : Int) - f.bias - f.mb)

/-- The magnitude `n × 2^q` of a rounding at the binade of exponent field `E` (of 1 for the subnormal numbers), carried to the next binade
where `n` is full: the fields of its encoding simply add up. -/
theorem FFmt.ofMagnitude_of_carry (f : FFmt) (neg : Bool) {E n g : Nat} (hg : g + 2 ^ f.mb = E * 2 ^ f.mb + n) (le : n ≤ 2 ^ (f.mb + 1))
    (normal : 2 ^ f.mb ≤ n ∨ E = 1) (field : E ≠ 0 ∨ n = 2 ^ (f.mb + 1)) :
    ∃ (k : Nat) (u : Int), f.ofMagnitude neg g = .fin neg k u ∧ (E : Int) - f.bias - f.mb ≤ u ∧
      scaled k u ((E : Int) - f.bias - f.mb) = n := by
  have pos := Nat.two_pow_pos f.mb
  rw [Nat.pow_succ] at le field
  rcases Nat.lt_or_ge n (2 ^ f.mb) with sub | nsub
  · obtain rfl : E = 1 := by omega
    obtain rfl : g = n := by omega
    refine ⟨g, _, ?_, le_rfl, by simp [scaled]⟩
    rw [FFmt.ofMagnitude, if_pos (Nat.div_eq_of_lt sub), Nat.mod_eq_of_lt sub]; rfl
  · rcases Nat.lt_or_ge n (2 * 2 ^ f.mb) with fits | full
    · obtain rfl : g = n - 2 ^ f.mb + E * 2 ^ f.mb := by omega
      have lt : n - 2 ^ f.mb < 2 ^ f.mb := by omega
      refine ⟨n, _, ?_, le_rfl, by simp [scaled]⟩
      rw [FFmt.ofMagnitude, Nat.add_mul_div_right _ _ pos, Nat.div_eq_of_lt lt, Nat.add_mul_mod_self_right, Nat.mod_eq_of_lt lt,
        Nat.sub_add_cancel nsub, Nat.zero_add, if_neg (by omega)]
    · obtain rfl : g = (E + 1) * 2 ^ f.mb := by rw [Nat.add_mul]; omega
      refine ⟨2 ^ f.mb, (E : Int) + 1 - f.bias - f.mb, ?_, by omega, ?_⟩
      · rw [FFmt.ofMagnitude, Nat.mul_div_cancel _ pos, Nat.mul_mod_left, if_neg (by omega), Nat.zero_add, Nat.cast_succ]
      · rw [scaled, show ((E : Int) + 1 - f.bias - f.mb - (E - f.bias - f.mb)).toNat = 1 by omega]; omega

theorem FFmt.signBit_eq (f : FFmt) (neg : Bool) : f.signBit neg = neg.toNat * 2 ^ (f.width - 1) := by cases neg <;> simp [FFmt.signBit]

section
variable {f : FFmt} (reg : f.Regular)
include reg

/-- An encoding without its sign bit is an exponent field and a mantissa. -/
theorem FFmt.Regular.two_pow_width : 2 ^ (f.width - 1) = (f.emax + 1) * 2 ^ f.mb := by
  obtain ⟨-, e, -⟩ := reg
  rw [FFmt.emax, Nat.sub_add_cancel (Nat.two_pow_pos _), ← Nat.pow_add]
  congr 1; omega

theorem FFmt.Regular.maxBits_lt : f.maxBits < 2 ^ (f.width - 1) := by
  have w := reg.two_pow_width
  obtain ⟨-, -, l⟩ := reg
  rw [Nat.add_mul] at w
  split at l <;> omega

/-- A subnormal magnitude rounds to a finite one. -/
theorem FFmt.Regular.two_pow_le_maxBits : 2 ^ f.mb ≤ f.maxBits := by
  have w := reg.two_pow_width
  obtain ⟨m, e, l⟩ := reg
  have two : 2 ^ 1 ≤ 2 ^ f.mb := Nat.pow_le_pow_right (by omega) m
  have four : 2 ^ 2 ≤ 2 ^ (f.width - 1 - f.mb) := Nat.pow_le_pow_right (by omega) (by omega)
  have : 3 * 2 ^ f.mb ≤ f.emax * 2 ^ f.mb := Nat.mul_le_mul_right _ (by rw [FFmt.emax]; omega)
  rw [Nat.add_mul] at w
  split at l <;> omega

/-- The encodings up to the largest finite magnitude are finite. -/
theorem FFmt.Regular.decode_signBit_add (neg : Bool) {g : Nat} (le : g ≤ f.maxBits) :
    f.decode (f.signBit neg + g) = f.ofMagnitude neg g := by
  have w := reg.two_pow_width
  have small := Nat.lt_of_le_of_lt le reg.maxBits_lt
  have parts := Nat.div_add_mod' g (2 ^ f.mb)
  have pos := Nat.two_pow_pos f.mb
  have field : g / 2 ^ f.mb < f.emax + 1 := Nat.div_lt_of_lt_mul (by rw [Nat.mul_comm, ← w]; exact small)
  have sign : (f.signBit neg + g) / 2 ^ (f.width - 1) % 2 = neg.toNat := by
    rw [FFmt.signBit_eq, Nat.add_comm, Nat.add_mul_div_right _ _ (Nat.two_pow_pos _), Nat.div_eq_of_lt small]
    cases neg <;> rfl
  have expo : (f.signBit neg + g) / 2 ^ f.mb % (f.emax + 1) = g / 2 ^ f.mb := by
    rw [FFmt.signBit_eq, w, ← Nat.mul_assoc, Nat.add_comm, Nat.add_mul_div_right _ _ pos, Nat.add_mul_mod_self_right, Nat.mod_eq_of_lt field]
  have mant : (f.signBit neg + g) % 2 ^ f.mb = g % 2 ^ f.mb := by
    rw [FFmt.signBit_eq, w, ← Nat.mul_assoc, Nat.add_comm, Nat.add_mul_mod_self_right]
  have notNan : ¬ (f.e4m3 = true ∧ g / 2 ^ f.mb = f.emax ∧ g % 2 ^ f.mb + 1 = 2 ^ f.mb) := by
    rintro ⟨e, x, m⟩
    have l := reg.largest
    rw [if_pos e, w, Nat.add_mul] at l
    rw [x] at parts
    omega
  have notInf : ¬ (f.e4m3 = false ∧ g / 2 ^ f.mb = f.emax) := by
    rintro ⟨e, x⟩
    have l := reg.largest
    rw [e, if_neg Bool.false_ne_true] at l
    rw [x] at parts
    omega
  have negative : decide (neg.toNat = 1) = neg := by cases neg <;> rfl
  simp only [FFmt.decode, sign, expo, mant, FFmt.ofMagnitude]
  rw [if_neg (by simpa using notNan), if_neg (by simpa using notInf), negative]

end

/-! ### The binade of an exact value -/

section
variable {m : Nat} {e q b : Int} {a : Nat}

theorem scaled_two_pow (bq : b ≤ q) (a : Nat) : scaled (2 ^ a) q b = 2 ^ ((a : Int) + q - b).toNat := by
  rw [scaled, ← Nat.pow_add]; congr 1; omega

theorem scaled_two_pow_le (pos : m ≠ 0) (be : b ≤ e) (bq : b ≤ q) (le : q + a ≤ e + Nat.log2 m) : scaled (2 ^ a) q b ≤ scaled m e b :=
  calc scaled (2 ^ a) q b ≤ scaled (2 ^ Nat.log2 m) e b := by
        rw [scaled_two_pow bq, scaled_two_pow be]; exact Nat.pow_le_pow_right (by omega) (by omega)
    _ ≤ scaled m e b := Nat.mul_le_mul_right _ (Nat.log2_self_le pos)

theorem scaled_le_two_pow (be : b ≤ e) (bq : b ≤ q) (lt : e + Nat.log2 m < q + a) : scaled m e b ≤ scaled (2 ^ a) q b :=
  calc scaled m e b ≤ scaled (2 ^ (Nat.log2 m + 1)) e b := Nat.mul_le_mul_right _ Nat.lt_log2_self.le
    _ ≤ scaled (2 ^ a) q b := by
        rw [scaled_two_pow bq, scaled_two_pow be]; exact Nat.pow_le_pow_right (by omega) (by omega)

theorem le_of_scaled_le {n k : Nat} (h : scaled n q b ≤ scaled k q b) : n ≤ k := Nat.le_of_mul_le_mul_right h (Nat.two_pow_pos _)

/-- Rounding does not leave the binade of the exact value but for its upper end. -/
theorem two_pow_le_roundTo {rm : Nat} (lt : rm < 5) (neg : Bool) (pos : m ≠ 0) (le : q + a ≤ e + Nat.log2 m) :
    2 ^ a ≤ (roundTo rm neg m e q).1 := by
  have best := (roundTo_best lt neg m (min_le_left e q) (min_le_right e q) (2 ^ a)).1
  have := best.ge lt (by exact_mod_cast scaled_two_pow_le pos (min_le_left e q) (min_le_right e q) le)
  exact le_of_scaled_le (by exact_mod_cast this)

theorem roundTo_le_two_pow {rm : Nat} (lt : rm < 5) (neg : Bool) (top : e + Nat.log2 m < q + a) : (roundTo rm neg m e q).1 ≤ 2 ^ a := by
  have best := (roundTo_best lt neg m (min_le_left e q) (min_le_right e q) (2 ^ a)).1
  have := best.le lt (by exact_mod_cast scaled_le_two_pow (min_le_left e q) (min_le_right e q) top)
  exact le_of_scaled_le (by exact_mod_cast this)

end

/-! ### Rounding to a format -/

/-- A result is a rounding of `±m × 2^e` to the format: it is finite, NX tells whether it is inexact, and it meets the demands of the mode
in view of every finite value of the format of its sign. -/
def FFmt.IsRounding (f : FFmt) (rm : Nat) (neg : Bool) (m : Nat) (e : Int) (r : FRes) : Prop :=
  ∃ (k : Nat) (q : Int), f.decode r.bits = .fin neg k q ∧
    ∀ (c j : Nat) (u b : Int), c < 2 ^ f.width → f.decode c = .fin neg j u → b ≤ e → b ≤ q → b ≤ u →
      r.flags.testBit 8 = decide ((scaled k q b : Int) ≠ scaled m e b) ∧
      RoundedAgainst rm neg (r.bits % 2 = 0) (scaled k q b) (scaled m e b) (scaled j u b)

section
variable (f : FFmt) (rm : Nat) (neg : Bool) (m : Nat) (e : Int)

/-- `m × 2^e` rounded to the precision of a format as if its exponent had no bound (R41). -/
def FFmt.precise : Nat × Bool := roundTo rm neg m e (e + Nat.log2 m - f.mb)
/-- `m × 2^e` rounded to a multiple of the smallest subnormal number (R41). -/
def FFmt.subnormal : Nat × Bool := roundTo rm neg m e (1 - (f.bias : Int) - f.mb)
/-- Whether the value of `precise` lies below the normal numbers (R41). -/
def FFmt.Tiny : Prop :=
  if 2 ^ (f.mb + 1) ≤ (f.precise rm neg m e).1 then e + Nat.log2 m + 1 < 1 - (f.bias : Int) else e + Nat.log2 m < 1 - (f.bias : Int)
/-- The magnitude of a normal number's encoding, where the exponent field has room for it. -/
def FFmt.normal : Nat := (e + Nat.log2 m + f.bias).toNat * 2 ^ f.mb + ((f.precise rm neg m e).1 - 2 ^ f.mb)

end

section
variable {f : FFmt} {rm m : Nat} {neg sat : Bool} {e : Int}

theorem FFmt.Tiny.lt (h : f.Tiny rm neg m e) : e + Nat.log2 m < 1 - (f.bias : Int) := by
  unfold FFmt.Tiny at h; split at h <;> omega

theorem FFmt.ge_of_not_tiny (h : ¬ f.Tiny rm neg m e) : 1 - (f.bias : Int) ≤ e + Nat.log2 m ∨
    (1 - (f.bias : Int) ≤ e + Nat.log2 m + 1 ∧ 2 ^ (f.mb + 1) ≤ (f.precise rm neg m e).1) := by
  unfold FFmt.Tiny at h; split at h <;> omega

variable (hm : m ≠ 0)
include hm

theorem FFmt.round_of_tiny (tiny : f.Tiny rm neg m e) : f.round rm sat (.fin neg m e) =
    ⟨f.signBit neg + (f.subnormal rm neg m e).1, if (f.subnormal rm neg m e).2 then flUF + flNX else 0⟩ := by
  obtain ⟨m, rfl⟩ := Nat.exists_eq_succ_of_ne_zero hm
  exact if_pos tiny

variable (nt : ¬ f.Tiny rm neg m e)
include nt

theorem FFmt.round_of_fits (fits : f.normal rm neg m e ≤ f.maxBits) : f.round rm sat (.fin neg m e) =
    ⟨f.signBit neg + f.normal rm neg m e, if (f.precise rm neg m e).2 then flNX else 0⟩ := by
  obtain ⟨m, rfl⟩ := Nat.exists_eq_succ_of_ne_zero hm
  exact (if_neg nt).trans (if_pos fits)

/-- Every overflow raises OF (R40). -/
theorem FFmt.round_of_overflow (big : ¬ f.normal rm neg m e ≤ f.maxBits) : (f.round rm sat (.fin neg m e)).flags.testBit 6 = true := by
  have infinite : (flOF + flNX).testBit 6 = true := by decide
  have invalid : (flOF + flNX + flNV).testBit 6 = true := by decide
  obtain ⟨m, rfl⟩ := Nat.exists_eq_succ_of_ne_zero hm
  rw [show f.round rm sat (.fin neg m.succ e) = _ from (if_neg nt).trans (if_neg big)]
  split
  · exact infinite
  · split
    · exact invalid
    · exact infinite

end

/-- Every value of the format is a multiple of `2^q` or lies below the binade of the exact value. -/
theorem FFmt.roundTo_against {f : FFmt} {rm : Nat} (lt : rm < 5) (neg : Bool) {m c j : Nat} {e q b u : Int} (hm : m ≠ 0)
    (sub : q ≤ 1 - (f.bias : Int) - f.mb ∨ q + f.mb ≤ e + Nat.log2 m) (hc : f.decode c = .fin neg j u)
    (be : b ≤ e) (bq : b ≤ q) (bu : b ≤ u) :
    RoundedAgainst rm neg ((roundTo rm neg m e q).1 % 2 = 0) (scaled (roundTo rm neg m e q).1 q b) (scaled m e b) (scaled j u b) := by
  obtain ⟨hj, hu⟩ := FFmt.decode_range hc
  rcases le_or_gt q u with qu | uq
  · rw [scaled_trans j bq qu]
    exact (roundTo_best lt neg m be bq _).1
  · have inBinade : q + f.mb ≤ e + Nat.log2 m := by omega
    have below : scaled j u b < scaled (2 ^ f.mb) q b :=
      calc scaled j u b < scaled (2 ^ (f.mb + 1)) u b := Nat.mul_lt_mul_of_pos_right hj (Nat.two_pow_pos _)
        _ ≤ scaled (2 ^ f.mb) q b := by
          rw [scaled_two_pow bq, scaled_two_pow bu]; exact Nat.pow_le_pow_right (by omega) (by omega)
    exact (roundTo_best lt neg m be bq (2 ^ f.mb)).1.below lt (by exact_mod_cast below)
      (by exact_mod_cast scaled_two_pow_le hm be bq inBinade)

section
variable {f : FFmt} (reg : f.Regular) (neg : Bool)
include reg

/-- The encoding is even when the significand is. -/
theorem FFmt.Regular.signBit_add_even {E n g : Nat} (hg : g + 2 ^ f.mb = E * 2 ^ f.mb + n) : (f.signBit neg + g) % 2 = 0 ↔ n % 2 = 0 := by
  obtain ⟨man, exp, -⟩ := reg
  have unit : 2 ^ f.mb % 2 = 0 := by rw [show f.mb = f.mb - 1 + 1 by omega, Nat.pow_succ, Nat.mul_mod_left]
  have sign : f.signBit neg % 2 = 0 := by
    rw [FFmt.signBit_eq, show f.width - 1 = f.width - 2 + 1 by omega, Nat.pow_succ, ← Nat.mul_assoc, Nat.mul_mod_left]
  have field : E * 2 ^ f.mb % 2 = 0 := by rw [Nat.mul_mod, unit]; rfl
  omega

theorem FFmt.Regular.isRounding_zero (rm : Nat) (e : Int) : f.IsRounding rm neg 0 e ⟨f.signBit neg, 0⟩ := by
  refine ⟨0, 1 - (f.bias : Int) - f.mb, ?_, fun c j u b _ _ _ _ _ => ?_⟩
  · simpa [FFmt.ofMagnitude] using reg.decode_signBit_add neg (Nat.zero_le f.maxBits)
  · rw [show scaled 0 (1 - (f.bias : Int) - f.mb) b = scaled 0 e b by simp [scaled]]
    exact ⟨by simp, roundedAgainst_exact⟩

variable {rm : Nat} (lt : rm < 5) {m : Nat} {e : Int}
include lt

/-- A result whose magnitude is that of `roundTo` at the exponent field `E` of the exact value's binade (1 for a subnormal number) is a
rounding. -/
theorem FFmt.Regular.isRounding_of_roundTo {E n g fl : Nat} {q : Int} {nx : Bool} (hr : roundTo rm neg m e q = (n, nx)) (hm : m ≠ 0)
    (hq : q = (E : Int) - f.bias - f.mb) (top : e + Nat.log2 m < q + (f.mb + 1)) (binade : E = 1 ∨ q + f.mb ≤ e + Nat.log2 m)
    (field : E ≠ 0 ∨ 2 ^ (f.mb + 1) ≤ n) (hg : g + 2 ^ f.mb = E * 2 ^ f.mb + n) (fits : g ≤ f.maxBits) (hfl : fl.testBit 8 = nx) :
    f.IsRounding rm neg m e ⟨f.signBit neg + g, fl⟩ := by
  have full : (roundTo rm neg m e q).1 ≤ 2 ^ (f.mb + 1) := roundTo_le_two_pow lt neg (by exact_mod_cast top)
  have normal : 2 ^ f.mb ≤ (roundTo rm neg m e q).1 ∨ E = 1 := binade.symm.imp_left (two_pow_le_roundTo lt neg hm)
  rw [hr] at full normal
  obtain ⟨k, v, hk, qv, value⟩ := FFmt.ofMagnitude_of_carry f neg hg full normal (field.imp_right full.antisymm)
  rw [← hq] at qv value
  refine ⟨k, v, (reg.decode_signBit_add neg fits).trans hk, fun c j u b _ hc be bv bu => ?_⟩
  have ab : min b q ≤ b := min_le_left b q
  have aq : min b q ≤ q := min_le_right b q
  have same : scaled k v (min b q) = scaled n q (min b q) := by rw [scaled_trans k aq qv, value]
  have against := FFmt.roundTo_against lt neg (e := e) hm (binade.imp_left fun h => by omega) hc (ab.trans be) aq (ab.trans bu)
  have inexact := (roundTo_best lt neg m (ab.trans be) aq 0).2
  rw [hr, ← same] at against
  rw [hr, ← same, ne_eq, Nat.cast_inj, scaled_inj ab bv be] at inexact
  refine ⟨?_, ?_⟩
  · rw [Bool.eq_iff_iff, decide_eq_true_iff, hfl, ne_eq, Nat.cast_inj]
    exact inexact
  · rw [reg.signBit_add_even neg hg]
    exact against.of_lower ab bv be bu

/-- Where OF stays clear, the rounding of a finite value is one in the sense of R39, for every mode. -/
theorem FFmt.Regular.isRounding_round (noOF : (f.round rm false (.fin neg m e)).flags.testBit 6 = false) :
    f.IsRounding rm neg m e (f.round rm false (.fin neg m e)) := by
  by_cases hm : m = 0
  · subst hm
    exact reg.isRounding_zero neg rm e
  by_cases tiny : f.Tiny rm neg m e
  · have low := tiny.lt
    have le : (f.subnormal rm neg m e).1 ≤ 2 ^ f.mb := roundTo_le_two_pow lt neg (by omega)
    have fits := le.trans reg.two_pow_le_maxBits
    rw [FFmt.round_of_tiny hm tiny]
    refine reg.isRounding_of_roundTo (E := 1) (nx := (f.subnormal rm neg m e).2) neg lt rfl hm rfl (by omega) (.inl rfl)
      (.inl one_ne_zero) (by rw [Nat.one_mul, Nat.add_comm]; rfl) fits ?_
    cases (f.subnormal rm neg m e).2 <;> decide
  · have high := FFmt.ge_of_not_tiny tiny
    have ge : 2 ^ f.mb ≤ (f.precise rm neg m e).1 := two_pow_le_roundTo lt neg hm (by omega)
    by_cases fits : f.normal rm neg m e ≤ f.maxBits
    · have fields : f.normal rm neg m e + 2 ^ f.mb = (e + Nat.log2 m + f.bias).toNat * 2 ^ f.mb + (f.precise rm neg m e).1 := by
        rw [FFmt.normal]; omega
      have field : (e + Nat.log2 m + f.bias).toNat ≠ 0 ∨ 2 ^ (f.mb + 1) ≤ (f.precise rm neg m e).1 := by omega
      rw [FFmt.round_of_fits hm tiny fits]
      refine reg.isRounding_of_roundTo (nx := (f.precise rm neg m e).2) neg lt rfl hm (by omega) (by omega) (.inr (by omega)) field fields
        fits ?_
      cases (f.precise rm neg m e).2 <;> decide
    · rw [FFmt.round_of_overflow hm tiny fits] at noOF
      cases noOF

end

/-- Settles O34: a magnitude of the format is a multiple of the unit that the exact value is rounded to, or lies below the exact value's
binade (`FFmt.roundTo_against`), and among those multiples `roundTo` takes the best one (`roundTo_best`). -/
theorem rounding : Obligations.Rounding := by
  unfold Obligations.Rounding
  intro f mem rm neg m e lt r noOF
  exact (FFmt.regular_of_mem mem).isRounding_round neg lt noOF

end Sys2Proof.Machine
end

section
/-! SUPPORT. The lane moves, reductions, scans and sorts of the vector block (05 R152 to R158), and O38. -/

namespace Sys2Proof.Machine

/-! ### Elements and masks -/

theorem bit_toNat (m : Word) (i : Nat) : bit m.toNat i = m.getLsbD i := bit_eq _ _

theorem elemActive_lane (gm : Word) (i : Nat) : elemActive gm 32 i = gm.getLsbD i := by
  rw [elemActive, bit_toNat, Nat.mul_div_cancel_left _ (by omega)]

theorem onesBelow_eq_countP (gm : Word) (i : Nat) : onesBelow gm i = (List.range i).countP fun j => gm.getLsbD j := by
  simp only [onesBelow, bit_toNat, List.countP_eq_length_filter]

theorem widthOf_cases (w : VWidth) : widthOf w = 32 ∨ widthOf w = 16 ∨ widthOf w = 8 := by cases w <;> simp [widthOf]

theorem elemInt_of_lt {w x : Nat} (z : Bool) (lt : x < 2 ^ w) : elemInt w z x = Claims.asInt w z x := by
  cases z <;> simp [elemInt, Claims.asInt, sextNat, Nat.mod_eq_of_lt lt]

theorem laneBits_allOnes : laneBits (BitVec.allOnes 32) = BitVec.allOnes 1024 := by
  apply BitVec.eq_of_getLsbD_eq
  intro i lt
  rw [laneBits_getLsbD _ _ lt, BitVec.getLsbD_allOnes, BitVec.getLsbD_allOnes, decide_eq_decide]
  omega

/-- The bits of a sum of powers of two. -/
theorem natSum_two_pow (f : Nat → Bool) (n : Nat) : natSum ((List.range n).map fun i => if f i then 2 ^ i else 0) < 2 ^ n ∧
    ∀ i, i < n → (natSum ((List.range n).map fun i => if f i then 2 ^ i else 0)).testBit i = f i := by
  induction n with
  | zero => exact ⟨by simp [natSum], by omega⟩
  | succ n ih =>
    have step : natSum ((List.range (n + 1)).map fun i => if f i then 2 ^ i else 0) =
        natSum ((List.range n).map fun i => if f i then 2 ^ i else 0) + if f n then 2 ^ n else 0 := by
      simp [natSum, List.range_succ]
    rw [step, Nat.pow_succ]
    obtain ⟨bound, bits⟩ := ih
    refine ⟨by split <;> omega, fun i lt => ?_⟩
    rcases Nat.lt_succ_iff_lt_or_eq.1 lt with lower | rfl
    · split
      · rw [Nat.add_comm, Nat.testBit_two_pow_add_gt lower, bits i lower]
      · exact bits i lower
    · split
      · next on => rw [Nat.add_comm, Nat.testBit_two_pow_add_eq, Nat.testBit_lt_two_pow bound, on]; rfl
      · next off => rw [Nat.add_zero, Nat.testBit_lt_two_pow bound]; simpa using off

theorem laneWord_getLsbD (f : Nat → Bool) {i : Nat} (lt : i < 32) : (laneWord f).getLsbD i = f i := by
  rw [laneWord, BitVec.getLsbD_ofNat, (natSum_two_pow f 32).2 i lt, decide_eq_true lt, Bool.true_and]

theorem packElems_lt (w : Nat) (l : List Nat) : packElems w l < 2 ^ (w * l.length) := by
  induction l with
  | nil => simp [packElems]
  | cons x l ih =>
    have low : x % 2 ^ w < 2 ^ w := Nat.mod_lt _ (Nat.two_pow_pos w)
    have high : 2 ^ w * (packElems w l + 1) ≤ 2 ^ w * 2 ^ (w * l.length) := Nat.mul_le_mul_left _ ih
    rw [List.length_cons, Nat.mul_succ, Nat.pow_add, Nat.mul_comm (2 ^ (w * l.length))]
    change x % 2 ^ w + 2 ^ w * packElems w l < _
    rw [Nat.mul_succ] at high
    omega

/-- Packing puts the list's numbers into the elements. -/
theorem packElems_div_mod (w : Nat) (l : List Nat) (e : Nat) : packElems w l / 2 ^ (w * e) % 2 ^ w = l.getD e 0 % 2 ^ w := by
  have pos := Nat.two_pow_pos w
  induction l generalizing e with
  | nil => simp [packElems]
  | cons x l ih =>
    change (x % 2 ^ w + 2 ^ w * packElems w l) / 2 ^ (w * e) % 2 ^ w = _
    cases e with
    | zero => simp
    | succ e =>
      rw [Nat.mul_succ, Nat.add_comm (w * e), Nat.pow_add, ← Nat.div_div_eq_div_mul, Nat.add_mul_div_left _ _ pos,
        Nat.div_eq_of_lt (Nat.mod_lt _ pos), Nat.zero_add, ih, List.getD_cons_succ]

theorem elem_packElems {w : Nat} {l : List Nat} (fit : w * l.length ≤ 1024) (e : Nat) :
    elem (BitVec.ofNat 1024 (packElems w l)) w e = l.getD e 0 % 2 ^ w := by
  rw [elem, BitVec.toNat_ofNat, Nat.mod_eq_of_lt ((packElems_lt w l).trans_le (Nat.pow_le_pow_right (by omega) fit)), packElems_div_mod]

/-! ### Results of the vector block where no physical error struck -/

section
variable {s : State} {h : Hdr} {us : List RegUse} {eff : State → Eff} {i : Instr}

theorem State.resV_clean (u : s.strm.upsets = []) (h : Hdr) (d : Nat) (gm : Word) (mz : Bool) (val : VReg) (lat fl : Nat) :
    s.resV h d gm mz val lat fl =
      s.queues (s.resultV1 h gm (.v d) (Claims.writes gm mz) (val &&& laneBits gm) lat (BitVec.ofNat 32 fl) .none) := by
  rw [State.resV, State.result_clean u]; rfl

/-- An effect on all lanes. -/
theorem State.resV_allOnes (u : s.strm.upsets = []) (h : Hdr) (d : Nat) (val : VReg) (lat fl : Nat) :
    s.resV h d (BitVec.allOnes 32) false val lat fl =
      s.queues (s.resultV1 h (BitVec.allOnes 32) (.v d) (BitVec.allOnes 1024) val lat (BitVec.ofNat 32 fl) .none) := by
  rw [State.resV_clean u, Claims.writes, if_neg Bool.false_ne_true, laneBits_allOnes, BitVec.and_allOnes]

theorem exec_of_ok (c : s.Clear h us) (hi : exec i s = runV h (markReads us) s eff) {t : State} (he : eff s = .ok t) :
    exec i s = .next (t.spends (addedCycles true h.prot)) := by
  rw [hi, runV_clear c, he]; rfl

theorem exec_of_resV (c : s.Clear h us) (hi : exec i s = runV h (markReads us) s eff) {d lat fl : Nat} {gm : Word} {mz : Bool} {val : VReg}
    (he : eff s = .ok (s.resV h d gm mz val lat fl)) :
    exec i s = .next (s.givesV h gm d (Claims.writes gm mz) (val &&& laneBits gm) lat (BitVec.ofNat 32 fl)) := by
  rw [exec_of_ok c hi he, State.resV_clean c.upsets]; rfl

theorem vecScalar_of_resVG (c : s.Clear h us) (hi : exec i s = runV h (markReads us) s eff) {d lat fl : Nat} {gm v : Word}
    (he : eff s = .ok (s.resVG h d gm v lat fl)) : Claims.VecScalar i s h d gm v lat (BitVec.ofNat 32 fl) := by
  rw [Claims.VecScalar, exec_of_ok c hi he, State.resVG, State.result_clean c.upsets]; rfl

/-- A masked result without flags, by the elements of its value. -/
theorem vecResult_of_resV (c : s.Clear h us) (hi : exec i s = runV h (markReads us) s eff) {d lat w : Nat} {gm : Word} {mz : Bool}
    {val : VReg} {f : Nat → Nat} (he : eff s = .ok (s.resV h d gm mz val lat 0)) (hw : w = 32 ∨ w = 16 ∨ w = 8)
    (hf : ∀ e, e < 1024 / w → elem val w e = f e % 2 ^ w) : Claims.VecResult i s h d gm mz lat w f := by
  refine ⟨val &&& laneBits gm, exec_of_resV c hi he, fun e lt => ?_⟩
  rw [elem_mask _ _ _ _ hw lt, hf e lt]

theorem vecResult_of_ofElems (c : s.Clear h us) (hi : exec i s = runV h (markReads us) s eff) {d lat w : Nat} {gm : Word} {mz : Bool}
    {f : Nat → Nat} (he : eff s = .ok (s.resV h d gm mz (ofElems w (1024 / w) f) lat 0)) (hw : w = 32 ∨ w = 16 ∨ w = 8) :
    Claims.VecResult i s h d gm mz lat w f :=
  vecResult_of_resV c hi he hw fun e lt => elem_ofElems w _ f e lt (Nat.mul_div_le _ _)

end

/-! ### Lane moves (R155 to R158) -/

/-- VINS writes its element alone (R156). -/
theorem vins_gives (h : Hdr) (o : VinsArgs) (s : State) (c : s.Clear h o.regs) : exec (.vins h o) s = .next (s.givesV h (BitVec.allOnes 32) o.d
    (BitVec.ofNat 1024 ((2 ^ widthOf o.w - 1) * 2 ^ (widthOf o.w * s.vidx o.idx (1024 / widthOf o.w))))
    (BitVec.ofNat 1024 ((s.rdG o.g).toNat % 2 ^ widthOf o.w * 2 ^ (widthOf o.w * s.vidx o.idx (1024 / widthOf o.w)))) 2) := by
  rw [exec_of_ok c (exec_vins h o s) rfl, State.result_clean c.upsets, elemBits, Nat.mul_one]; rfl

/-- VCMPRS writes as many of the lowest lanes as the mask has ones. -/
theorem vcmprs_moves (h : Hdr) (o : VcmprsArgs) (s : State) (c : s.Clear h o.regs) :
    let act := (List.range 32).filter fun i => (s.rdM o.km).getLsbD i
    ∃ low : Word, (∀ i, i < 32 → low.getLsbD i = decide (i < act.length)) ∧
      Claims.VecResult (.vcmprs h o) s h o.d low o.mz 2 32 fun i => elem (s.rdV o.a) 32 (act.getD i 0) := by
  intro act
  have same : (List.range 32).filter (fun i => bit (s.rdM o.km).toNat i) = act := by simp only [bit_toNat, act]
  have result := vecResult_of_ofElems c (exec_vcmprs h o s) rfl (.inl rfl)
  rw [same] at result
  exact ⟨_, fun i lt => laneWord_getLsbD _ lt, result⟩

theorem vectorLaneMoves : Claims.VectorLaneMoves := by
  refine ⟨fun h o s c => ?vperm, fun h o s c => ?vshuf, fun h o s c => ?vbcst, fun h o s c => ?vext, vins_gives, fun h o s c => ?viota,
    fun h o s c => ⟨vcmprs_moves h o s c, ?vexpnd⟩, fun h o s c => ?vmovx⟩
  case vperm => exact vecResult_of_ofElems c (exec_vperm h o s) rfl (widthOf_cases o.w)
  case vshuf => exact vecResult_of_ofElems c (exec_vshuf h o s) rfl (widthOf_cases o.w)
  case vbcst => exact vecResult_of_ofElems c (exec_vbcst h o s) rfl (widthOf_cases o.w)
  case vext =>
    intro w
    rw [← elemInt_of_lt o.z (elem_lt _ _ _)]
    exact vecScalar_of_resVG c (exec_vext h o s) rfl
  case viota =>
    simp only [← onesBelow_eq_countP]
    exact vecResult_of_ofElems c (exec_viota h o s) rfl (.inl rfl)
  case vexpnd =>
    simp only [← onesBelow_eq_countP]
    exact vecResult_of_ofElems c (exec_vexpnd h o s) rfl (.inl rfl)
  case vmovx => exact vecResult_of_resV c (exec_vmovx h o s) rfl (.inl rfl) fun e _ => (Nat.mod_eq_of_lt (elem_lt _ _ _)).symm

/-! ### Reductions and scans (R50, R51, R152, R153) -/

theorem redLevel_length (op : RedOp) (ty : RedTy) : ∀ l : List FRes, (redLevel op ty l).length = (l.length + 1) / 2
  | [] => rfl
  | [_] => by simp [redLevel]
  | a :: b :: rest => by
    rw [redLevel, List.length_cons, redLevel_length op ty rest, List.length_cons, List.length_cons]
    omega

/-- Five levels reduce the 32 leaves to one value. -/
theorem redLevel_tree (op : RedOp) (ty : RedTy) {l : List FRes} (len : l.length = 32) :
    ∃ r, redLevel op ty (redLevel op ty (redLevel op ty (redLevel op ty (redLevel op ty l)))) = [r] :=
  List.length_eq_one_iff.1 (by simp only [redLevel_length, len])

theorem redInputs_length (op : RedOp) (ty : RedTy) (gm : Word) (v : VReg) : (redInputs op ty gm v).length = 32 := by
  simp [redInputs]

theorem scanFrom_length (op : RedOp) (ty : RedTy) (acc : Nat) (xs : List Nat) : (scanFrom op ty acc xs).length = xs.length := by
  induction xs generalizing acc with
  | nil => rfl
  | cons x xs ih => rw [scanFrom, List.length_cons, ih, List.length_cons]

theorem vred_reduces (h : Hdr) (o : VredArgs) (s : State) (c : s.Clear h o.regs) :
    let step := redLevel o.op o.ty
    let leaves : List FRes := (redInputs o.op o.ty (s.rdM o.km) (s.rdV o.a)).map fun x => ⟨x, 0⟩
    ∃ r : FRes, step (step (step (step (step leaves)))) = [r] ∧
      Claims.VecScalar (.vred h o) s h o.d (s.rdM o.km) (BitVec.ofNat 32 r.bits) 9 (BitVec.ofNat 32 r.flags) := by
  intro step leaves
  obtain ⟨r, hr⟩ := redLevel_tree o.op o.ty (l := leaves) ((List.length_map _).trans (redInputs_length _ _ _ _))
  have result := vecScalar_of_resVG c (exec_vred h o s) rfl
  rw [hr] at result
  exact ⟨r, hr, result⟩

theorem vscan_scans (h : Hdr) (o : VscanArgs) (s : State) (c : s.Clear h o.regs) :
    let gm := s.rdM o.km
    let rs := scanFrom o.op o.ty (redIdentity o.op o.ty) (redInputs o.op o.ty gm (s.rdV o.a))
    ∃ (r : VReg) (fl : Word), exec (.vscan h o) s = .next (s.givesV h gm o.d (Claims.writes gm o.mz) r 12 fl) ∧
      ∀ i, i < 32 → elem r 32 i = if gm.getLsbD i then (rs.getD i ⟨0, 0⟩).bits % 2 ^ 32 else 0 := by
  intro gm rs
  refine ⟨_, _, exec_of_resV c (exec_vscan h o s) rfl, fun i lt => ?_⟩
  have fit : 32 * (rs.map (·.bits)).length ≤ 1024 := by
    rw [List.length_map, scanFrom_length, redInputs_length]
  have bits : (rs.map (·.bits)).getD i 0 = (rs.getD i ⟨0, 0⟩).bits := List.getD_map _ ⟨0, 0⟩ FRes.bits
  rw [elem_mask _ _ _ _ (.inl rfl) lt, elemActive_lane, elem_packElems fit, bits]

/-! ### Sorting (R154) -/

/-- Lane `i` comes before lane `j` by its key, or with the same key by its number. -/
def sortBefore (dn : Bool) (key : Nat → Int) (i j : Nat) : Prop :=
  (if dn then key j < key i else key i < key j) ∨ (key i = key j ∧ i < j)

section
variable {dn : Bool} {key : Nat → Int} {i j k : Nat}

theorem sortBefore_trans (ij : sortBefore dn key i j) (jk : sortBefore dn key j k) :
    sortBefore dn key i k := by
  unfold sortBefore at *
  cases dn <;> simp only [if_true, Bool.false_eq_true, if_false] at * <;> omega

/-- The test by which a lower lane is inserted decides the order. -/
theorem sortBefore_of_le (lt : i < j) (le : if dn then key j ≤ key i else key i ≤ key j) : sortBefore dn key i j := by
  unfold sortBefore
  cases dn <;> simp only [if_true, Bool.false_eq_true, if_false] at * <;> omega

theorem sortBefore_of_not_le (gt : ¬ if dn then key j ≤ key i else key i ≤ key j) : sortBefore dn key j i := by
  unfold sortBefore
  cases dn <;> simp only [if_true, Bool.false_eq_true, if_false] at * <;> omega

end

/-- A lane before all the others goes in where the list stays in order. -/
theorem sortInsert_lane (dn : Bool) (key : Nat → Int) (p : Nat → Nat × Nat) (i : Nat) (l : List Nat) (lt : ∀ j ∈ l, i < j)
    (ord : l.Pairwise (sortBefore dn key)) : ∃ l' : List Nat, l'.Perm (i :: l) ∧ l'.Pairwise (sortBefore dn key) ∧
      sortInsert dn (key i) (p i) (l.map fun j => (key j, p j)) = l'.map fun j => (key j, p j) := by
  induction l with
  | nil => exact ⟨[i], .rfl, List.pairwise_singleton _ _, rfl⟩
  | cons j l ih =>
    obtain ⟨ltj, ltl⟩ := List.forall_mem_cons.1 lt
    obtain ⟨ordj, ordl⟩ := List.pairwise_cons.1 ord
    rw [List.map_cons, sortInsert]
    by_cases first : if dn then key j ≤ key i else key i ≤ key j
    · have ij : sortBefore dn key i j := sortBefore_of_le ltj first
      refine ⟨i :: j :: l, .rfl, List.pairwise_cons.2 ⟨List.forall_mem_cons.2 ⟨ij, fun k m => sortBefore_trans ij (ordj k m)⟩, ord⟩, ?_⟩
      rw [if_pos first]; rfl
    · obtain ⟨l', perm, ord', eq⟩ := ih ltl ordl
      refine ⟨j :: l', (perm.cons j).trans (.swap i j l), List.pairwise_cons.2 ⟨fun k m => ?_, ord'⟩, ?_⟩
      · rcases List.mem_cons.1 (perm.mem_iff.1 m) with rfl | m
        · exact sortBefore_of_not_le first
        · exact ordj k m
      · rw [if_neg first, eq]; rfl

/-- The model's insertion of all numbers, from the last lane on, puts them in order. -/
theorem sortInsert_lanes (dn : Bool) (key : Nat → Option Int) (p : Nat → Nat × Nat) (l : List Nat) (asc : l.Pairwise (· < ·)) :
    ∃ l' : List Nat, l'.Perm (l.filter fun i => (key i).isSome) ∧ l'.Pairwise (sortBefore dn fun i => (key i).getD 0) ∧
      l.foldr (fun i acc => (key i).elim acc fun k => sortInsert dn k (p i) acc) [] = l'.map fun i => ((key i).getD 0, p i) := by
  induction l with
  | nil => exact ⟨[], .rfl, .nil, rfl⟩
  | cons i l ih =>
    obtain ⟨lt, ascl⟩ := List.pairwise_cons.1 asc
    obtain ⟨l', perm, ord, eq⟩ := ih ascl
    rw [List.foldr_cons, eq, List.filter_cons]
    cases ki : key i with
    | none => exact ⟨l', by simpa [ki] using perm, ord, rfl⟩
    | some k =>
      obtain ⟨l2, perm2, ord2, eq2⟩ := sortInsert_lane dn (fun i => (key i).getD 0) p i l'
        (fun j m => lt j (List.mem_of_mem_filter (perm.mem_iff.1 m))) ord
      refine ⟨l2, by simpa [ki] using perm2.trans (perm.cons i), ord2, ?_⟩
      rw [← eq2, ki]; rfl


section
variable (gm : Word) (dn : Bool) (key : Nat → Option Int)

/-- The classes that a sort keeps apart: 0 for lanes with numbers, 1 for those with NaN keys, 2 for inactive lanes. -/
def sortClass (j : Nat) : Nat := if !gm.getLsbD j then 2 else if (key j).isNone then 1 else 0

/-- The order of a sort's lanes: by class, numbers then by key, and lanes that these leave equal by number. -/
def SortOrder (i j : Nat) : Prop :=
  sortClass gm key i < sortClass gm key j ∨ (sortClass gm key i = sortClass gm key j ∧
    if sortClass gm key i = 0 ∧ key i ≠ key j then ∃ x ∈ key i, ∃ y ∈ key j, (if dn then y < x else x < y) else i < j)

/-- The active lanes in ascending order, those of them with NaN keys, and the inactive lanes. -/
def activeLanes : List Nat := (List.range 32).filter fun i => gm.getLsbD i
def nanLanes : List Nat := (activeLanes gm).filter fun i => (key i).isNone
def inactiveLanes : List Nat := (List.range 32).filter fun i => !gm.getLsbD i

variable {gm dn key} {i j : Nat}

theorem sortClass_number (m : i ∈ (activeLanes gm).filter fun i => (key i).isSome) : sortClass gm key i = 0 := by
  simp only [activeLanes, List.mem_filter] at m
  rw [sortClass, m.1.2, Option.isNone_eq_false_iff.2 m.2]; rfl

theorem sortClass_nan (m : i ∈ nanLanes gm key) : sortClass gm key i = 1 := by
  simp only [nanLanes, activeLanes, List.mem_filter] at m
  rw [sortClass, m.1.2, m.2]; rfl

theorem sortClass_inactive (m : i ∈ inactiveLanes gm) : sortClass gm key i = 2 := by
  simp only [inactiveLanes, List.mem_filter] at m
  rw [sortClass, m.2]; rfl

theorem sortClass_eq_zero (h : sortClass gm key i = 0) : ∃ x, key i = some x := by
  unfold sortClass at h
  split at h
  · cases h
  · split at h
    · cases h
    · next some => exact Option.ne_none_iff_exists'.1 (by simpa using some)

theorem sortOrder_of_before (hi : sortClass gm key i = 0) (hj : sortClass gm key j = 0)
    (b : sortBefore dn (fun i => (key i).getD 0) i j) : SortOrder gm dn key i j := by
  refine .inr ⟨hi.trans hj.symm, ?_⟩
  obtain ⟨x, hx⟩ := sortClass_eq_zero hi
  obtain ⟨y, hy⟩ := sortClass_eq_zero hj
  rw [sortBefore] at b
  simp only [hx, hy, Option.getD_some] at b
  split
  · next ne => exact ⟨x, hx, y, hy, b.resolve_right fun eq => ne.2 (by rw [hx, hy, eq.1])⟩
  · next eq =>
    have same : x = y := by simpa [hi, hx, hy] using eq
    subst same
    simpa using b

theorem sortOrder_of_lt {c : Nat} (hc : c ≠ 0) (hi : sortClass gm key i = c) (hj : sortClass gm key j = c) (lt : i < j) :
    SortOrder gm dn key i j := by
  refine .inr ⟨hi.trans hj.symm, ?_⟩
  rw [if_neg (by omega)]
  exact lt

theorem ascending_filter (p : Nat → Bool) : ((List.range 32).filter p).Pairwise (· < ·) := List.pairwise_lt_range.filter p

/-- The numbers in order, the NaN keys and the inactive lanes make a sorted list of all lanes. -/
theorem sortedLanes {nums : List Nat} (perm : nums.Perm ((activeLanes gm).filter fun i => (key i).isSome))
    (ord : nums.Pairwise (sortBefore dn fun i => (key i).getD 0)) :
    (nums ++ nanLanes gm key ++ inactiveLanes gm).Perm (List.range 32) ∧
    (nums ++ nanLanes gm key ++ inactiveLanes gm).Pairwise (SortOrder gm dn key) := by
  have number : ∀ i ∈ nums, sortClass gm key i = 0 := fun i m => sortClass_number (perm.mem_iff.1 m)
  have nan : ∀ i ∈ nanLanes gm key, sortClass gm key i = 1 := fun i => sortClass_nan
  have inactive : ∀ i ∈ inactiveLanes gm, sortClass gm key i = 2 := fun i => sortClass_inactive
  constructor
  · have active : (nums ++ nanLanes gm key).Perm (activeLanes gm) := by
      refine (perm.append_right _).trans ?_
      simpa [nanLanes, Option.not_isSome] using List.filter_append_perm (fun i => (key i).isSome) (activeLanes gm)
    exact (active.append_right _).trans (List.filter_append_perm _ _)
  · refine List.pairwise_append.2 ⟨List.pairwise_append.2 ⟨?_, ?_, ?_⟩, ?_, ?_⟩
    · exact ord.imp_of_mem fun mi mj => sortOrder_of_before (number _ mi) (number _ mj)
    · exact ((ascending_filter _).filter _).imp_of_mem fun mi mj => sortOrder_of_lt one_ne_zero (nan _ mi) (nan _ mj)
    · intro i mi j mj
      exact .inl (by rw [number i mi, nan j mj]; omega)
    · exact (ascending_filter _).imp_of_mem fun mi mj => sortOrder_of_lt two_ne_zero (inactive _ mi) (inactive _ mj)
    · intro i mi j mj
      refine .inl ?_
      rw [inactive j mj]
      rcases List.mem_append.1 mi with mi | mi
      · rw [number i mi]; omega
      · rw [nan i mi]; omega

end

theorem lane_packElems {l : List Nat} (len : l.length = 32) (g : Nat → Nat) {i : Nat} (lt : i < 32) :
    lane (BitVec.ofNat 1024 (packElems 32 (l.map g))) i = BitVec.ofNat 32 (g (l.getD i 0)) := by
  apply BitVec.eq_of_toNat_eq
  rw [lane_toNat, elem_packElems (by rw [List.length_map, len]), BitVec.toNat_ofNat]
  simp [len, lt]

section
variable (gm : Word) (dn : Bool) (key : Nat → Option Int) (a b : VReg)

/-- What a sort writes, as the model computes it: the numbers as inserted, the NaN keys and the inactive lanes, with their values. -/
def sortOutput : List (Nat × Nat) :=
  ((activeLanes gm).foldr (fun i acc => (key i).elim acc fun k => sortInsert dn k ((lane a i).toNat, (lane b i).toNat) acc) []).map Prod.snd ++
    (nanLanes gm key).map (fun i => (0x7FC00000, (lane b i).toNat)) ++ (inactiveLanes gm).map fun i => ((lane a i).toNat, (lane b i).toNat)

/-- The key and the value that a sort writes for a lane. -/
def sortLane (j : Nat) : Nat × Nat := (if sortClass gm key j = 1 then 0x7FC00000 else (lane a j).toNat, (lane b j).toNat)

theorem ofNat_sortLane_key (j : Nat) :
    BitVec.ofNat 32 (sortLane gm key a b j).1 = if sortClass gm key j = 1 then 0x7FC00000 else lane a j := by
  rw [sortLane, apply_ite (BitVec.ofNat 32), BitVec.ofNat_toNat, BitVec.setWidth_eq]; rfl

theorem ofNat_sortLane_value (j : Nat) : BitVec.ofNat 32 (sortLane gm key a b j).2 = lane b j := BitVec.ofNat_toNat _ _

/-- The output is that of all lanes in their order. -/
theorem sortOutput_eq : ∃ l : List Nat, l.Perm (List.range 32) ∧ l.Pairwise (SortOrder gm dn key) ∧
    sortOutput gm dn key a b = l.map (sortLane gm key a b) := by
  obtain ⟨nums, perm, ord, eq⟩ := sortInsert_lanes dn key (fun i => ((lane a i).toNat, (lane b i).toNat)) (activeLanes gm) (ascending_filter _)
  obtain ⟨all, sorted⟩ := sortedLanes perm ord
  refine ⟨_, all, sorted, ?_⟩
  rw [sortOutput, eq, List.map_map, List.map_append, List.map_append]
  congr 1
  · congr 1
    · exact List.map_congr_left fun i m => by simp [sortLane, sortClass_number (perm.mem_iff.1 m)]
    · exact List.map_congr_left fun i m => by simp [sortLane, sortClass_nan m]
  · exact List.map_congr_left fun i m => by simp [sortLane, sortClass_inactive m]

end

/-- VSORT writes its output into two registers, with NV for a NaN key (R154). -/
theorem exec_vsort_output (h : Hdr) (o : VsortArgs) (s : State) (c : s.Clear h o.regs) :
    let key := fun (j : Nat) => sortKey o.ty (lane (s.rdV o.a) j).toNat
    let out := sortOutput (s.rdM o.km) o.dn key (s.rdV o.a) (s.rdV o.b)
    exec (.vsort h o) s = .next (((s.resV h o.d (BitVec.allOnes 32) false (BitVec.ofNat 1024 (packElems 32 (out.map Prod.fst))) 16
      (if (nanLanes (s.rdM o.km) key).isEmpty then 0 else flNV)).resV h (o.d + 1) (BitVec.allOnes 32) false
      (BitVec.ofNat 1024 (packElems 32 (out.map Prod.snd))) 16 0).spends (addedCycles true h.prot)) := by
  intro key out
  rw [exec_vsort, execVsort, runV_clear c]
  simp only [List.filter_map, List.map_map, List.foldr_map, bit_toNat, Function.comp_def, List.isEmpty_map]
  rw [List.foldr_ext (g := fun i acc => (key i).elim acc fun k =>
    sortInsert o.dn k ((lane (s.rdV o.a) i).toNat, (lane (s.rdV o.b) i).toNat) acc) (H := ?step)]
  case step =>
    intro i _ acc
    change _ = (sortKey o.ty (lane (s.rdV o.a) i).toNat).elim _ _
    cases sortKey o.ty (lane (s.rdV o.a) i).toNat <;> rfl
  rfl

/-- What VSORT writes is a sorted permutation of the lanes. -/
theorem vsort_sorts (h : Hdr) (o : VsortArgs) (s : State) (c : s.Clear h o.regs) :
    let key := fun (j : Nat) => sortKey o.ty (lane (s.rdV o.a) j).toNat
    let cls := sortClass (s.rdM o.km) key
    ∃ (ks vs : VReg) (fl : Word) (at_ : List Nat), at_.Perm (List.range 32) ∧ at_.Pairwise (SortOrder (s.rdM o.km) o.dn key) ∧
      (∀ i, i < 32 → let j := at_.getD i 0
        lane vs i = lane (s.rdV o.b) j ∧ lane ks i = if cls j = 1 then 0x7FC00000 else lane (s.rdV o.a) j) ∧
      exec (.vsort h o) s = .next (((s.queues (s.resultV1 h (BitVec.allOnes 32) (.v o.d) (BitVec.allOnes 1024) ks 16 fl .none)).queues
        (s.resultV1 h (BitVec.allOnes 32) (.v (o.d + 1)) (BitVec.allOnes 1024) vs 16 0 .none)).spends (addedCycles true h.prot)) := by
  intro key cls
  obtain ⟨at_, all, sorted, out⟩ := sortOutput_eq (s.rdM o.km) o.dn key (s.rdV o.a) (s.rdV o.b)
  have len : at_.length = 32 := all.length_eq.trans List.length_range
  have run := exec_vsort_output h o s c
  simp only [out, List.map_map, key] at run
  rw [State.resV_allOnes c.upsets, State.resV_allOnes ((State.queues_upsets _ _).trans c.upsets)] at run
  refine ⟨_, _, _, at_, all, sorted, fun i lt => ⟨?_, ?_⟩, run⟩
  · rw [lane_packElems len _ lt]
    exact ofNat_sortLane_value ..
  · rw [lane_packElems len _ lt]
    exact ofNat_sortLane_key ..

theorem vectorReductions : Claims.VectorReductions := ⟨vred_reduces, vscan_scans, vsort_sorts⟩

/-- Settles O38: each lane move and reduction is the effect that its `exec` names, by the rule for its result; VSORT is sorted because every
number goes in before a list of higher lanes in order (`sortInsert_lane`), and the classes follow one another (`sortedLanes`). -/
theorem vectorLaneResults : Obligations.VectorLaneResults := ⟨vectorLaneMoves, vectorReductions⟩

end Sys2Proof.Machine
end

section
/-! SUPPORT. The decoder and the encoder of whole instructions (03 R58, R63, R64, R68 to R75): O26 and O27. -/

namespace Sys2Proof

/-! ### Numbers as bytes (R3) -/

theorem natBytes_length (n v : Nat) : (natBytes n v).length = n := by
  induction n generalizing v with
  | zero => rfl
  | succ n ih => rw [natBytes, List.length_cons, ih]

theorem bytesNat_natBytes {n v : Nat} (lt : v < 256 ^ n) : bytesNat (natBytes n v) = v := by
  induction n generalizing v with
  | zero => simp only [Nat.pow_zero, Nat.lt_one_iff] at lt; rw [lt]; rfl
  | succ n ih =>
    rw [natBytes, bytesNat, ih (by rw [Nat.pow_succ] at lt; omega), BitVec.toNat_ofNat]
    omega

theorem natBytes_bytesNat (bs : List (BitVec 8)) : natBytes bs.length (bytesNat bs) = bs := by
  induction bs with
  | nil => rfl
  | cons b bs ih =>
    have low : (b.toNat + 256 * bytesNat bs) % 256 = b.toNat := by omega
    have high : (b.toNat + 256 * bytesNat bs) / 256 = bytesNat bs := by omega
    rw [List.length_cons, bytesNat, natBytes, high, ih]
    congr 1
    exact BitVec.eq_of_toNat_eq (by rw [BitVec.toNat_ofNat]; exact low)

theorem bytesNat_lt (bs : List (BitVec 8)) : bytesNat bs < 256 ^ bs.length := by
  induction bs with
  | nil => simp [bytesNat]
  | cons b bs ih => rw [List.length_cons, bytesNat, Nat.pow_succ]; omega

/-- Six bytes are the bytes of the number that they hold. -/
theorem natBytes_six {bs : List (BitVec 8)} (len : bs.length = 6) : natBytes 6 (bytesNat bs) = bs := len ▸ natBytes_bytesNat bs

/-! ### The fields of a syllable (R63) -/

/-- The fields of an encoded instruction have their widths. -/
structure Syl.Fits (y : Syl) : Prop where
  hdr : y.h.ok = true
  op : y.op < 256
  w : y.w < 2 ^ 32
  x : ∀ x, y.x = some x → x < 2 ^ 48

theorem Hdr.ok_lt {h : Hdr} (ok : h.ok = true) : h.prot < 4 ∧ h.slot < 2 ∧ h.gneg < 2 ∧ h.gp < 8 := by
  simp only [Hdr.ok, Bool.and_eq_true, decide_eq_true_eq] at ok
  omega

/-- The fields are read back from the packed word. -/
theorem Syl.Fits.word_fields {y : Syl} (f : y.Fits) :
    y.word < 2 ^ 48 ∧ sylHdr y.word = y.h ∧ sylX y.word = y.x.isSome ∧ sylOp y.word = y.op ∧ y.word % 2 ^ 32 = y.w := by
  obtain ⟨h, op, w, x⟩ := y
  obtain ⟨prot, slot, gneg, gp⟩ := h
  obtain ⟨hprot, hslot, hgneg, hgp⟩ := Hdr.ok_lt f.hdr
  have hop := f.op
  have hw := f.w
  have hx := Bool.toNat_lt x.isSome
  simp only at hprot hslot hgneg hgp hop hw
  refine ⟨?_, ?_, beq_of ?_, ?_, ?_⟩
  · simp only [Syl.word]; omega
  · simp only [Syl.word, sylHdr, Hdr.mk.injEq]; omega
  · simp only [Syl.word]; omega
  · simp only [Syl.word, sylOp]; omega
  · simp only [Syl.word]; omega

/-- The word is packed again from the fields that are read from it: no bit of the 48 is ignored. -/
theorem Syl.word_of_fields {s : Nat} (lt : s < 2 ^ 48) {x : Option Nat} (hx : sylX s = x.isSome) :
    Syl.word ⟨sylHdr s, sylOp s, s % 2 ^ 32, x⟩ = s := by
  have bit : x.isSome.toNat = s / 0x100000000000 % 2 := by
    rw [← hx, sylX]
    rcases Nat.mod_two_eq_zero_or_one (s / 0x100000000000) with e | e <;> rw [e] <;> rfl
  simp only [Syl.word, sylHdr, sylOp, bit]
  omega

/-! ### The bytes of a syllable and its extension (R58, R64) -/

/-- The bytes of a syllable with the payload of its extension. -/
def Syl.bytes (y : Syl) : List (BitVec 8) := natBytes 6 y.word ++ y.x.elim [] (natBytes 6)

theorem encodeBytes_of_syl {i : Instr} {y : Syl} (e : i.syl = some y) : encodeBytes i = y.bytes := by
  obtain ⟨h, op, w, _ | x⟩ := y <;> simp [encodeBytes, encode, e, Syl.bytes]

/-- The decoder on bytes that begin with a syllable and its extension. -/
theorem decode_bytes {y : Syl} (f : y.Fits) (rest : List (BitVec 8)) :
    decode (y.bytes ++ rest) = (decodeOp y.h y.op y.w y.x).map fun i => (i, rest) := by
  obtain ⟨lt, hdr, ext, op, w⟩ := f.word_fields
  have len := natBytes_length 6 y.word
  have word : bytesNat (natBytes 6 y.word) = y.word := bytesNat_natBytes (by omega)
  have syl : decodeSyl y.word y.x = decodeOp y.h y.op y.w y.x := by
    simp only [decodeSyl, hdr, f.hdr, ext, op, beq_self_eq_true, if_true]
    rw [← w]
    rfl
  rw [← syl]
  cases hx : y.x with
  | none =>
    rw [hx] at ext
    simp [decode, Syl.bytes, hx, len, word, ext]
  | some x =>
    rw [hx] at ext
    have len' := natBytes_length 6 x
    have word' : bytesNat (natBytes 6 x) = x := bytesNat_natBytes (by have := f.x x hx; omega)
    simp [decode, Syl.bytes, hx, len, len', word, word', ext, List.drop_append, List.drop_of_length_le, show ¬ 6 + (6 + rest.length) < 12 by omega]

theorem exists_of_map_eq_ok {ε α β : Type} {f : α → β} {d : Except ε α} {b : β} (h : d.map f = .ok b) : ∃ a, d = .ok a ∧ f a = b := by
  cases d with
  | error e => cases h
  | ok a => cases h; exact ⟨a, rfl, rfl⟩

/-- A decoded syllable is one whose fields fit, packed. -/
theorem decodeSyl_fields {s : Nat} {x : Option Nat} {i : Instr} (lt : s < 2 ^ 48) (hx : ∀ v, x = some v → v < 2 ^ 48)
    (e : decodeSyl s x = .ok i) : ∃ y : Syl, y.Fits ∧ y.word = s ∧ y.x = x ∧ decodeOp y.h y.op y.w y.x = .ok i := by
  rw [decodeSyl] at e
  split at e
  · next hdr =>
    split at e
    · next ext =>
      refine ⟨⟨sylHdr s, sylOp s, s % 2 ^ 32, x⟩, ⟨hdr, ?_, ?_, hx⟩, Syl.word_of_fields lt (beq_iff_eq.mp ext), rfl, e⟩
      · exact Nat.mod_lt _ (by decide)
      · exact Nat.mod_lt _ (by decide)
    · cases e
  · cases e

/-- What the decoder accepts begins with the bytes of a syllable whose fields it decodes. -/
theorem bytes_of_decode {bs rest : List (BitVec 8)} {i : Instr} (e : decode bs = .ok (i, rest)) :
    ∃ y : Syl, y.Fits ∧ decodeOp y.h y.op y.w y.x = .ok i ∧ y.bytes ++ rest = bs := by
  rw [decode] at e
  split at e
  · cases e
  · next long =>
    have len : (bs.take 6).length = 6 := by rw [List.length_take]; omega
    have lt : bytesNat (bs.take 6) < 2 ^ 48 := by have := bytesNat_lt (bs.take 6); rw [len] at this; omega
    dsimp only at e
    split at e
    · split at e
      · cases e
      · next longer =>
        have len' : ((bs.drop 6).take 6).length = 6 := by rw [List.length_take, List.length_drop]; omega
        have lt' : bytesNat ((bs.drop 6).take 6) < 2 ^ 48 := by have := bytesNat_lt ((bs.drop 6).take 6); rw [len'] at this; omega
        obtain ⟨j, dec, eq⟩ := exists_of_map_eq_ok e
        cases eq
        obtain ⟨y, fits, word, ext, ok⟩ := decodeSyl_fields lt (fun v hv => by cases hv; exact lt') dec
        refine ⟨y, fits, ok, ?_⟩
        rw [Syl.bytes, word, ext, natBytes_six len, Option.elim_some, natBytes_six len', List.append_assoc]
        rw [show bs.drop 12 = (bs.drop 6).drop 6 by rw [List.drop_drop], List.take_append_drop, List.take_append_drop]
    · obtain ⟨j, dec, eq⟩ := exists_of_map_eq_ok e
      cases eq
      obtain ⟨y, fits, word, ext, ok⟩ := decodeSyl_fields lt (fun v hv => by cases hv) dec
      refine ⟨y, fits, ok, ?_⟩
      rw [Syl.bytes, word, ext, natBytes_six len, Option.elim_none, List.append_nil, List.take_append_drop]

/-! ### What a decoder accepts (R75) -/

/-- Every answer of a decoder has a property. -/
def Answers {α : Type} (P : α → Prop) (d : Except DecodeErr α) : Prop := ∀ o, d = .ok o → P o

/-- The instructions that have these fields and are well formed. -/
def Instr.Reads (h : Hdr) (op w : Nat) (x : Option Nat) (i : Instr) : Prop := i.wf = true ∧ i.syl = some ⟨h, op, w, x⟩

namespace Answers

theorem error {α : Type} {P : α → Prop} {e : DecodeErr} : Answers P (.error e) := fun _ h => nomatch h

/-- A decoder that ends in `accept` answers legal records whose own words are the words read. -/
theorem accept {α : Type} {ok : α → Bool} {enc : α → Nat × Option Nat} {w : Nat} {x : Option Nat} (o : α) :
    Answers (fun o => ok o = true ∧ enc o = (w, x)) (Sys2Proof.accept o (ok o) (enc o) w x) := by
  intro p h
  rw [Sys2Proof.accept] at h
  split at h
  · next legal =>
    split at h
    · next own => cases h; exact ⟨legal, own⟩
    · cases h
  · cases h

theorem operand {α β : Type} {P : β → Prop} {c : Option α} {k : α → Except DecodeErr β} (each : ∀ v, Answers P (k v)) :
    Answers P (Sys2Proof.operand c k) := by
  cases c with
  | none => exact error
  | some v => exact each v

/-- One form of the opcode map: the records of `C`'s operands, in an instruction of this opcode. -/
theorem form {α : Type} {h : Hdr} {op w : Nat} {x : Option Nat} {C : α → Instr} {hdrOk : Bool} {ok : α → Bool}
    {enc : α → Nat × Option Nat} {d : Except DecodeErr α} (hdr : hdrOk = true) (wf : ∀ o, (C o).wf = (hdrOk && ok o))
    (syl : ∀ o, (C o).syl = some ⟨h, op, (enc o).1, (enc o).2⟩) (record : Answers (fun o => ok o = true ∧ enc o = (w, x)) d) :
    Answers (Instr.Reads h op w x) (d.map C) := by
  intro i e
  obtain ⟨o, dec, rfl⟩ := exists_of_map_eq_ok e
  obtain ⟨legal, own⟩ := record o dec
  exact ⟨by rw [wf, hdr, legal]; rfl, by rw [syl, own]⟩

end Answers

section
variable {h : Hdr} (hdr : h.ok = true) (op w : Nat) (x : Option Nat)
include hdr

/-! Every range of the opcode map (R73): an unassigned opcode answers nothing, a form its own records, whose decoder is a chain of
`operand`s, one for each code field, that ends in an `accept`. -/

theorem decodeScalar_reads : Answers (Instr.Reads h op w x) (decodeScalar h op w x) := by
  unfold decodeScalar
  repeat' split
  any_goals exact .error
  any_goals exact .form ‹h.nopOk = true› (fun _ => rfl) (fun _ => rfl) (.accept _)
  all_goals
    refine .form hdr (fun _ => rfl) (fun _ => rfl) ?_
    repeat' refine .operand fun _ => ?_
    exact .accept _

theorem decodeFp_reads : Answers (Instr.Reads h op w x) (decodeFp h op w x) := by
  unfold decodeFp
  split
  any_goals exact .error
  all_goals
    refine .form hdr (fun _ => rfl) (fun _ => rfl) ?_
    repeat' refine .operand fun _ => ?_
    exact .accept _

theorem decodeFlow_reads : Answers (Instr.Reads h op w x) (decodeFlow h op w x) := by
  unfold decodeFlow
  repeat' split
  any_goals exact .error
  all_goals exact .form hdr (fun _ => rfl) (fun _ => rfl) (.accept _)

theorem decodeLocal_reads : Answers (Instr.Reads h op w x) (decodeLocal h op w x) := by
  unfold decodeLocal
  split
  any_goals exact .error
  all_goals exact .form hdr (fun _ => rfl) (fun _ => rfl) (.accept _)

theorem decodeFar_reads : Answers (Instr.Reads h op w x) (decodeFar h op w x) := by
  unfold decodeFar
  split
  any_goals exact .error
  all_goals
    refine .form hdr (fun _ => rfl) (fun _ => rfl) ?_
    repeat' refine .operand fun _ => ?_
    exact .accept _

theorem decodeVecA_reads : Answers (Instr.Reads h op w x) (decodeVecA h op w x) := by
  unfold decodeVecA
  split
  any_goals exact .error
  all_goals
    refine .form hdr (fun _ => rfl) (fun _ => rfl) ?_
    repeat' refine .operand fun _ => ?_
    exact .accept _

theorem decodeVecB_reads : Answers (Instr.Reads h op w x) (decodeVecB h op w x) := by
  unfold decodeVecB
  split
  any_goals exact .error
  all_goals
    refine .form hdr (fun _ => rfl) (fun _ => rfl) ?_
    repeat' refine .operand fun _ => ?_
    exact .accept _

theorem decodeCtl_reads : Answers (Instr.Reads h op w x) (decodeCtl h op w x) := by
  unfold decodeCtl
  repeat' split
  any_goals exact .error
  all_goals
    refine .form hdr (fun _ => rfl) (fun _ => rfl) ?_
    repeat' refine .operand fun _ => ?_
    exact .accept _

theorem decodeEng_reads : Answers (Instr.Reads h op w x) (decodeEng h op w x) := by
  unfold decodeEng
  split
  any_goals exact .error
  all_goals
    refine .form hdr (fun _ => rfl) (fun _ => rfl) ?_
    repeat' refine .operand fun _ => ?_
    exact .accept _

theorem decodeOp_reads : Answers (Instr.Reads h op w x) (decodeOp h op w x) := by
  unfold decodeOp
  split_ifs
  · exact decodeScalar_reads hdr op w x
  · exact decodeFp_reads hdr op w x
  · exact decodeFlow_reads hdr op w x
  · exact decodeLocal_reads hdr op w x
  · exact decodeFar_reads hdr op w x
  · exact decodeVecA_reads hdr op w x
  · exact decodeVecB_reads hdr op w x
  · exact decodeCtl_reads hdr op w x
  · exact decodeEng_reads hdr op w x

end

/-- Settles O27: what the decoder accepts begins with a packed syllable (`bytes_of_decode`), and every form of the opcode map gives back
exactly its record's words (`decodeOp_reads`). -/
theorem decodeExact : Obligations.DecodeExact := by
  intro bs rest i e
  obtain ⟨y, fits, dec, rfl⟩ := bytes_of_decode e
  obtain ⟨wf, syl⟩ := decodeOp_reads fits.hdr _ _ _ i dec
  exact ⟨wf, by rw [encodeBytes_of_syl syl]⟩

namespace Laws.RoundTrip

/-- Every instruction has its round trip: the lemma of its constructor. -/
theorem all (i : Instr) : Statement i :=
  Instr.casesOn i nop add sub mul mulh div rem and or xor andn shl shr sar rot min max adds subs abs clz ctz popc brev bfx bfi sel mov
    movi movx cmp plog pmov aadd alea amov aget acmp fadd fsub fmul fma fmin fmax fdiv fsqrt fcmp fcvt fsgn fcls pbr pbrg br call ret loop
    ldlt ldltClr lbrk endOp ld st lda sta ldfe ldff stef stff fest feclr barr bwait notify waitn qpop qpeek qpush qstat qclr qst ldq ldqs
    ldqx stf stfs stfx pref cwb cinv amo acas vamo fence xfer rclaim rshare vadd vsub vmul vmulh vmad vmin vmax vabs vand vor vxor vshl
    vshr vsar vadds vsubs vcmp vsel vfadd vfsub vfmul vfma vfmin vfmax vfdiv vfsqrt vfexp2 vflog2 vfcmp vfsgn vcvt vqenc vqdec vscl vred
    vscan vperm vshuf vbcst vext vins viota vcmprs vexpnd vsort vrnd vdot mlog mpop mff mmov vld vlds vldx vst vsts vstx vmovx post postx
    fdef frel rinit cwait cwaitNb csig csigR cset crd tagw tagwNb tagff tagclr kmode kqrySt kqryOcc kqryVer nest settag csrr csrw csrx
    yield yieldF trap rett rettNx rettRes rettRef chk chkQ chkNb abort abortReq xlateR xlateW xlateP fshare fwswap ptw ptwNb tlbiVa tlbiVd
    tlbiAll purge purgeL purgeClr shrd frzArm frzY frz frzRes frzDirty frzGo frzDis mma mblk scacc azero aload astore acopy rpop xpose
    xreq xlay copy copyg copys cfill cred cland unassignedOpcode endComplete fwhbHeartbeat resultLanding waitComplete queueDataArrival
    taskRelease taskRetire kilnDeadlock iterationStart wheelPlace wheelSteal nestRecordStart launchComplete accumulatorWrite passSlotPop
    slotPublish copyChunkIssue copyComplete lineEviction eccCorrected eccUncorrectable bucketLeak spareSubstitution coreUngate
    fwShareWindow forcedSave corePark coreSwap freezeReceive farStore atomicRequest atomicReply loadData loadRequest postxRecord
    postxReply remoteConeSignal notifyMessage copyChunk landingUpdate barrierRequest barrierReply acknowledgement cutMarker purgeMessage
    launchPacketMessage startArrival startRelease parityUpdate sequenceSkip requestTimeout linkDown dieLinkFailure launchArrivalTimeout
    spareInstallation stripeRebuild reserve bar2AtomicRefused hostNotifyWrite hostMemoryAccess hostAtomicop registerWrite cqctlWrite
    cqheadWrite rstopWrite nopPacket linkPacket launchPacket launchStart barePacket invokePacket slotldPacket slotrmPacket purgePacket
    killPacket ringSlotTimeout completionRecordWrite fwWatchdogExpiry fwCommit fwRevert commitDeadlineExpiry controllerReplacement
    packageReset attest bootreport leaves railSample thermalLimit powerCeilingUpdate flitArrival coreGate powerLoss

end Laws.RoundTrip

/-- Settles O26: the fields of a well-formed instruction fit the syllable and decode to it (`Laws.RoundTrip.all`), and the decoder reads
them from its bytes (`decode_bytes`). -/
theorem roundTrip : Obligations.RoundTrip := by
  intro i rest wf enc
  obtain ⟨y, syl⟩ := Option.isSome_iff_exists.mp enc
  obtain ⟨hdr, op, w, x, dec⟩ := Laws.RoundTrip.all i wf y syl
  rw [encodeBytes_of_syl syl, decode_bytes ⟨hdr, op, w, x⟩, dec]
  rfl

end Sys2Proof
end

section
/-! SUPPORT. The hardware steps of a stream's work (03 R75, 04 R123, 08 R203, 23 R502), and O18. -/

namespace Sys2Proof.Machine

/-! ### A launch changes and nothing else does -/

section
variable (s : State) (l : Nat) (f : Launch → Launch)

theorem State.modLaunch_strm : (s.modLaunch l f).strm = s.strm := by rw [State.modLaunch]; split <;> rfl
theorem State.modLaunch_core : (s.modLaunch l f).core = s.core := by rw [State.modLaunch]; split <;> rfl
theorem State.modLaunch_hbm : (s.modLaunch l f).sys.hbm = s.sys.hbm := by rw [State.modLaunch]; split <;> rfl

end

/-! ### The end of a stream's work, by what the stream runs (R20, R123, R165, R172, R184) -/

theorem Stream.endReady_of {x : Stream} (landed : x.flight = []) (filled : ∀ q ∈ x.q, ∀ e ∈ q.2, e.data.isSome = true) :
    x.endReady = true := by
  simpa [Stream.endReady, landed] using fun n es m => filled (n, es) m

theorem exec_endComplete_ready {s : State} (run : s.strm.run = .ending) (ready : s.strm.endReady = true) :
    exec .endComplete s = .next s.endWork := by
  rw [exec_endComplete, execEndComplete, run, ready]; rfl

theorem exec_endComplete_waits {s : State} (h : s.strm.run ≠ .ending ∨ s.strm.endReady = false) : exec .endComplete s = .next s := by
  rw [exec_endComplete, execEndComplete, if_neg]
  rcases h with h | h <;> simp [h]

theorem State.endWork_firmware {s : State} (cls : s.strm.cls = .firmware) : s.endWork = { s with strm := s.strm.finish } := by
  simp only [State.endWork, cls]

theorem State.endWork_control {s : State} (cls : s.strm.cls = .control) :
    s.endWork = ({ s with strm := s.strm.finish, core := { s.core with iter := none } }).modLaunch s.core.launch fun l => l.iterDone 1 := by
  simp only [State.endWork, cls]

/-- The entry of a task whose stream has ended its work: it drains, or it is held where its cause is. -/
def KEntry.ended (e : KEntry) : KEntry := { e with state := if e.heldCause.isSome then .held else .draining }

theorem Core.entry_setEntry (c : Core) (n : Nat) (e : Option KEntry) : (c.setEntry n e).entry n = e := SMap.get_set_self ..

/-- What the end of a task's stream does to the task's core. -/
def State.endedCore (s : State) : Core := match s.core.entry s.strm.slot with
  | some e => if e.unit = some s.strm.unit && e.state = .running then s.core.setEntry s.strm.slot (some e.ended) else s.core
  | none => s.core

theorem State.endWork_task {s : State} (control : s.strm.cls ≠ .control) (firmware : s.strm.cls ≠ .firmware)
    (notBare : ∀ l, s.launch = some l → l.bare = none) : s.endWork = { s with strm := s.strm.finish, core := s.endedCore } := by
  rw [State.endWork]
  dsimp only
  split
  · next cls => exact absurd cls firmware
  · next cls => exact absurd cls control
  · rw [if_neg]
    case hnc =>
      split
      · next l found => simp [notBare l found]
      · simp
    cases entry : s.core.entry s.strm.slot with
    | none => simp only [State.endedCore, entry]
    | some e =>
      simp only [State.endedCore, entry]
      split <;> rfl

theorem State.endedCore_loc (s : State) : s.endedCore.loc = s.core.loc := by
  rw [State.endedCore]
  split
  · split <;> rfl
  · rfl

theorem State.endedCore_entry {s : State} {e : KEntry} (entry : s.core.entry s.strm.slot = some e) (unit : e.unit = some s.strm.unit)
    (running : e.state = .running) : s.endedCore.entry s.strm.slot = some e.ended := by
  rw [State.endedCore, entry]
  simp [unit, running, Core.entry_setEntry]

/-! ### The heartbeat (R502) -/

theorem exec_fwhbHeartbeat_idle {s : State} {v : Nat} (h : s.core.fwst ≠ .probation ∨ v ≠ s.strm.fwrev.toNat ∨ s.core.fwDue < s.sys.dc) :
    exec (.fwhbHeartbeat v) s = .next s := by
  rw [exec_fwhbHeartbeat, execFwhbHeartbeat, State.heartbeat, if_neg]
  rcases h with h | h | h <;> simp [h]

theorem exec_fwhbHeartbeat_alive {s : State} {v : Nat} (probation : s.core.fwst = .probation) (rev : v = s.strm.fwrev.toNat)
    (due : s.sys.dc ≤ s.core.fwDue) : exec (.fwhbHeartbeat v) s = .next (({ s with core := { s.core with fwst := .alive } }).modDie s.rank
      fun d => { d with fwsst := SMap.set 0 (coreInDie s.ck) 2 d.fwsst }) := by
  rw [exec_fwhbHeartbeat, execFwhbHeartbeat, State.heartbeat, if_pos]
  simp [probation, rev, due]

/-- Settles O18: END_COMPLETE is `endWork` once END can complete, which does to the stream, its iteration or its task what its class says. -/
theorem streamEvents : Obligations.StreamEvents := by
  refine ⟨fun s w => ?_, fun s => exec_waitComplete s, fun s => exec_endComplete_waits, fun s run landed filled => ?_, fun x => ?_,
    fun s v => ⟨fun probation rev due => ?_, exec_fwhbHeartbeat_idle⟩⟩
  · rw [exec_unassignedOpcode]; rfl
  · refine ⟨s.endWork, exec_endComplete_ready run (Stream.endReady_of landed filled), State.endWork_firmware, fun which => ?_, fun control => ?_,
      fun e control firmware notBare entry unit running => ?_⟩
    · by_cases control : s.strm.cls = .control
      · rw [State.endWork_control control, State.modLaunch_strm, State.modLaunch_core, State.modLaunch_hbm]
        exact ⟨rfl, rfl, rfl⟩
      by_cases firmware : s.strm.cls = .firmware
      · rw [State.endWork_firmware firmware]
        exact ⟨rfl, rfl, rfl⟩
      · rw [State.endWork_task control firmware ((which.resolve_left control).resolve_left firmware)]
        exact ⟨rfl, s.endedCore_loc, rfl⟩
    · rw [State.endWork_control control, State.modLaunch_core]
    · rw [State.endWork_task control firmware notBare]
      exact State.endedCore_entry entry unit running
  · exact ⟨rfl, rfl, rfl, rfl, rfl, rfl, rfl, rfl⟩
  · refine ⟨_, exec_fwhbHeartbeat_alive probation rev due, rfl, rfl, ?_⟩
    simp [State.modDie, State.dieOf, State.putDie]

end Sys2Proof.Machine
end

section
/-! SUPPORT. Guards (03 R66): what every instruction does with its own, and O31. -/

namespace Sys2Proof.Machine

/-- Every encoded instruction goes through `run` with its header's guard. -/
theorem exec_eq_run {i : Instr} {y : Syl} (syl : i.syl = some y) (s : State) :
    ∃ (reads : List Nat) (m : Meet) (eff : State → Eff), exec i s = run y.h reads m s eff := by
  cases i
  all_goals cases syl
  all_goals exact ⟨_, _, _, rfl⟩

theorem State.guardOn_eq_false {s : State} {h : Hdr} (off : s.rdP h.gp = decide (h.gneg = 1)) : s.guardOn h = false := by
  simp [State.guardOn, off]

/-- A guarded-off instruction leaves the state as it is. -/
theorem exec_guardedOff {i : Instr} {y : Syl} {s : State} (syl : i.syl = some y) (clean : s.strm.upsets = [])
    (off : s.guardOn y.h = false) : exec i s = .next s := by
  obtain ⟨reads, m, eff, run⟩ := exec_eq_run syl s
  rw [run, run_off clean off]

/-- It needs no bank and no notify register, so none keeps its number. -/
theorem State.needsOf_guardedOff {i : Instr} {y : Syl} {s : State} (syl : i.syl = some y) (off : s.guardOn y.h = false) :
    s.needsOf i = ([], []) := by
  simp [State.needsOf, syl, off]

theorem State.servedFrom_guardedOff {i : Instr} {y : Syl} {s : State} (syl : i.syl = some y) (off : s.guardOn y.h = false)
    (wait : s.strm.latch.wait = false) : s.servedFrom s i none = s := by
  rw [State.servedFrom]
  split
  · rfl
  · simp only [wait, Option.toList_none, Bool.false_eq_true, if_false, List.foldl_cons, List.foldl_nil, State.needsOf_guardedOff syl off]
    rfl

/-- An issue that asks for no further issue cycle holds the stream for none. -/
theorem Stream.issued_of_clear {x : Stream} (latch : x.latch = Latch.clear) (q : Pos) : x.issued q =
    { x with pos := q, hold := 0, latch := { Latch.clear with issued := true }, fresh := false, icnt := x.icnt + 1 } := by
  rw [Stream.issued, latch]
  rfl

/-- A bundle of one guarded-off instruction takes its issue cycle. -/
theorem issueBundle_guardedOff {s1 s : State} {p : Pos} {i : Instr} {y : Syl} {nxt : Nat} (syl : i.syl = some y)
    (off : s.guardOn y.h = false) (cls : s.strm.cls = .vector) (run : s.strm.run = .running) (clean : s.strm.upsets = [])
    (latch : s.strm.latch = Latch.clear) (room : s.strm.inFlight ≤ 32) (free : s.strm.divBusy i none = false)
    (loops : s.strm.handler = true ∨ ∀ n, n < 3 → (s.rdLc n).active = false ∨ (s.rdLc n).last ≠ p) :
    issueBundle false s1 s p i none nxt = .next (s.setStrm fun x => (x.takeDiv i none).issued ⟨p.line, nxt⟩) := by
  have wait : s.strm.latch.wait = false := by rw [latch]; rfl
  rw [issueBundle_one free (by rw [cls]; rfl), exec_guardedOff syl clean off, andThen, State.servedFrom_guardedOff syl off wait]
  apply closeBundle_vector cls run (wait := wait) (room := room) (loops := loops)
  all_goals rw [latch]; rfl

theorem Hdr.ok_negated_p0 {h : Hdr} (gneg : h.gneg = 1) (gp : h.gp = 0) : h.ok = false := by simp [Hdr.ok, gneg, gp]

/-- Settles O31: every instruction goes through `run`, which does nothing where the guard is off; so its bundle only takes its issue cycle.
A bundle that fails a check of `illegalIn` is answered before any guard is read. -/
theorem guardOff : Obligations.GuardOff := by
  refine ⟨fun i y s syl clean off => exec_guardedOff syl clean (State.guardOn_eq_false off),
    fun s1 s p i y nxt syl off cls run clean latch room free loops => ?_,
    fun was s1 s p a b nxt w stands fetched illegal => ?_, fun w x gneg gp => ?_⟩
  · rw [issueBundle_guardedOff syl (State.guardOn_eq_false off) cls run clean latch room free loops]
    rw [State.setStrm, Stream.issued_of_clear (x := s.strm.takeDiv i none) latch]
    rfl
  · simp only [issueCycle, stands, fetched, illegal]
  · rw [decodeSyl, Hdr.ok_negated_p0 gneg gp]
    rfl

end Sys2Proof.Machine
end

section
/-! SUPPORT. Moves and predicates of the scalar unit (03 R67, 04 R91 to R97), and O36. -/

namespace Sys2Proof.Machine

/-! ### The effect of a clear scalar instruction is its result -/

section
variable {s : State} {h : Hdr} {us : List RegUse}

theorem runL_ok {t : State} {eff : State → Eff} (c : s.Clear h us) (ok : eff s = .ok t) :
    runL h (markReads us) s eff = .next (t.spends (addedCycles false h.prot)) := by
  rw [runL_clear c, ok]; rfl

theorem runL_resG {n lat : Nat} {v : Word} {eff : State → Eff} (c : s.Clear h us) (ok : eff s = .ok (s.resG h n v lat)) :
    runL h (markReads us) s eff = .next (s.givesG h n v lat) := by
  rw [runL_ok c ok, State.resG_clean c.upsets]

theorem runL_resP {n lat : Nat} {v : Bool} {eff : State → Eff} (c : s.Clear h us) (ok : eff s = .ok (s.resP h n v lat)) :
    runL h (markReads us) s eff = .next (s.givesP h n v lat) := by
  rw [runL_ok c ok, State.resP_clean c.upsets]

/-- A g register moves with its mark. -/
theorem runL_moves {d a lat : Nat} {eff : State → Eff} (c : s.Clear h us)
    (ok : eff s = .ok (s.result h false 0 (.g d) (lowBits 32) ((s.rdG a).setWidth 1024) lat 0 (s.markG a))) :
    runL h (markReads us) s eff = .next (s.givesG h d (s.rdG a) lat 0 (s.markG a)) := by
  rw [runL_ok c ok, State.result_clean c.upsets]; rfl

end

/-! ### Values -/

theorem sextNat_eq_toInt (n v : Nat) : sextNat n v = (BitVec.ofNat n v).toInt := by
  rw [BitVec.toInt_eq_toNat_cond, BitVec.toNat_ofNat, sextNat]
  split <;> split <;> omega

theorem intCond_ne (a b : Word) : intCond .ne a b = decide (a ≠ b) := (decide_not (p := a = b)).symm

theorem logicFn_xnor (a b : Bool) : logicFn .xnor a b = !(xor a b) := by cases a <;> cases b <;> rfl

/-! ### PMOV of a g register to all predicates (R97) -/

/-- Further issue cycles that a bundle takes already add nothing. -/
theorem State.spends_spends (s : State) (n : Nat) : (s.spends n).spends n = s.spends n := by
  simp only [State.spends, Nat.max_assoc, Nat.max_self]

theorem State.givesP_spends (s : State) (h : Hdr) (n : Nat) (v : Bool) (lat : Nat) :
    (s.spends (addedCycles false h.prot)).givesP h n v lat = s.givesP h n v lat := 
  State.spends_spends (s.queues _) _

theorem foldl_givesP_spends {s : State} (clean : s.strm.upsets = []) (h : Hdr) (lat : Nat) (f : Nat → Bool) (ns : List Nat) :
    ns.foldl (fun t i => t.givesP h (i + 1) (f i) lat) (s.spends (addedCycles false h.prot)) =
      (ns.foldl (fun t i => t.resP h (i + 1) (f i) lat) s).spends (addedCycles false h.prot) := by
  induction ns generalizing s with
  | nil => rfl
  | cons n ns ih =>
    rw [List.foldl_cons, List.foldl_cons, State.givesP_spends, ← State.resP_clean clean, ih (s := s.resP h (n + 1) (f n) lat) clean]

/-- The results of an instruction one after the other, each with the issue cycles that the instruction takes. -/
theorem foldl_givesP {s : State} (clean : s.strm.upsets = []) (h : Hdr) (lat : Nat) (f : Nat → Bool) {ns : List Nat} (ne : ns ≠ []) :
    ns.foldl (fun t i => t.givesP h (i + 1) (f i) lat) s =
      (ns.foldl (fun t i => t.resP h (i + 1) (f i) lat) s).spends (addedCycles false h.prot) := by
  obtain ⟨n, ns, rfl⟩ := List.exists_cons_of_ne_nil ne
  rw [← foldl_givesP_spends clean, List.foldl_cons, List.foldl_cons, State.givesP_spends]

/-! ### The instructions -/

theorem scalarMoves : Claims.ScalarMoves := by
  refine ⟨fun h o s c => runL_ok c rfl, fun h o s c => ?_, fun h d a s c => ⟨runL_moves c rfl, runL_resG c rfl⟩,
    fun h d v s c => ⟨?_, runL_resG c rfl⟩, fun h d v s c => runL_resG c rfl, fun h o s c => runL_moves c rfl⟩
  · exact runL_resG c rfl
  · refine runL_resG c ?_
    rw [BitVec.signExtend, ← sextNat_eq_toInt]

theorem predicateResults : Claims.PredicateResults := by
  refine ⟨fun h ⟨p, a, b, cond⟩ s c => (runL_resP c rfl).trans ?_, fun h ⟨p, a, b, f⟩ s c => (runL_resP c rfl).trans ?_,
    fun h p a s c => ⟨runL_resP c rfl, _, runL_resG c rfl, ?_, fun i lt => ?_⟩, fun h p a s c => ⟨(runL_resP c rfl).trans ?_, ?_⟩⟩
  · cases cond
    case ne => rw [intCond_ne]
    all_goals rfl
  · cases f
    case xnor => rw [logicFn_xnor]
    all_goals rfl
  · have bound := (natSum_two_pow s.rdP 8).1
    rw [BitVec.toNat_ofNat]
    omega
  · rw [BitVec.getLsbD_ofNat, (natSum_two_pow s.rdP 8).2 i lt, decide_eq_true (by omega), Bool.true_and]
  · rw [← intCond_ne]
    rfl
  · rw [foldl_givesP c.upsets h 1 (fun i => (s.rdG a).getLsbD (i + 1)) (by decide)]
    exact runL_ok c rfl

/-- Settles O36: each instruction's effect is one result, which `run` passes on where nothing stops it; the results of PMOV to all
predicates add the further issue cycle of a triad once (`foldl_givesP`). -/
theorem scalarMovesAndPredicates : Obligations.ScalarMovesAndPredicates := ⟨scalarMoves, predicateResults⟩

end Sys2Proof.Machine
end

section
/-! SUPPORT. The integer operations of the scalar unit (04 R85 to R90), and O35. -/

namespace Sys2Proof.Machine

/-! ### Binary operations by numbers (R86) -/

theorem subWord_eq_ofInt (a b : Word) : a - b = BitVec.ofInt 32 ((a.toNat : Int) - b.toNat) := by
  rw [Int.sub_eq_add_neg, BitVec.ofInt_add, BitVec.ofInt_neg, BitVec.ofInt_natCast, BitVec.ofInt_natCast, BitVec.sub_eq_add_neg]
  simp only [BitVec.ofNat_toNat, BitVec.setWidth_eq]

theorem mulWord_eq_ofNat (a b : Word) : a * b = BitVec.ofNat 32 (a.toNat * b.toNat) := by
  apply BitVec.eq_of_toNat_eq
  rw [BitVec.toNat_mul, BitVec.toNat_ofNat]

theorem shlWord_eq (a u : Word) : (if u.toNat < 32 then a <<< u.toNat else 0) =
    if 32 ≤ u.toNat then 0 else BitVec.ofNat 32 (a.toNat * 2 ^ u.toNat) := by
  by_cases small : u.toNat < 32
  · rw [if_pos small, if_neg (by omega)]
    apply BitVec.eq_of_toNat_eq
    rw [BitVec.toNat_shiftLeft, Nat.shiftLeft_eq, BitVec.toNat_ofNat]
  · rw [if_neg small, if_pos (by omega)]

theorem shrWord_eq (a u : Word) : (if u.toNat < 32 then a >>> u.toNat else 0) =
    if 32 ≤ u.toNat then 0 else BitVec.ofNat 32 (a.toNat / 2 ^ u.toNat) := by
  by_cases small : u.toNat < 32
  · rw [if_pos small, if_neg (by omega), ← Nat.shiftRight_eq_div_pow, ← BitVec.toNat_ushiftRight, BitVec.ofNat_toNat, BitVec.setWidth_eq]
  · rw [if_neg small, if_pos (by omega)]

/-- From a count of 31 on the quotient is 0 or -1. -/
theorem sarWord_eq (a u : Word) : a.sshiftRight (min u.toNat 31) =
    if 32 ≤ u.toNat then (if a.msb then BitVec.allOnes 32 else 0) else BitVec.ofInt 32 (a.toInt / 2 ^ u.toNat) := by
  rw [BitVec.sshiftRight, Int.shiftRight_eq_div_pow]
  by_cases small : u.toNat < 32
  · rw [if_neg (by omega), min_eq_left (by omega)]
    norm_cast
  · have range := a.isLt
    have sign := a.toInt_eq_msb_cond
    rw [if_pos (by omega), min_eq_right (by omega)]
    cases neg : a.msb
    · rw [neg, if_neg Bool.false_ne_true] at sign
      rw [show a.toInt / ((2 ^ 31 : Nat) : Int) = 0 by have := BitVec.msb_eq_false_iff_two_mul_lt.1 neg; omega]
      rfl
    · rw [neg, if_pos rfl] at sign
      rw [show a.toInt / ((2 ^ 31 : Nat) : Int) = -1 by have := BitVec.msb_eq_true_iff_two_mul_ge.1 neg; omega]
      rfl

/-- The two parts of a rotation share no bit, so they add up. -/
theorem rotWord_eq (a u : Word) : a.rotateLeft (u.toNat % 32) =
    BitVec.ofNat 32 (a.toNat * 2 ^ (u.toNat % 32) % 2 ^ 32 + a.toNat / 2 ^ (32 - u.toNat % 32)) := by
  have apart (k : Nat) : a <<< k &&& a >>> (32 - k) = 0 := by
    apply BitVec.eq_of_getLsbD_eq
    intro i lt
    rcases Nat.lt_or_ge i k with low | high
    · simp [low]
    · simp [show 32 ≤ 32 - k + i by omega]
  rw [BitVec.rotateLeft_def, Nat.mod_mod, ← BitVec.add_eq_or_of_and_eq_zero _ _ (apart _), BitVec.add_def, BitVec.toNat_shiftLeft,
    BitVec.toNat_ushiftRight, Nat.shiftLeft_eq, Nat.shiftRight_eq_div_pow]

section
variable (z : Bool) (a b : Word)

theorem remWord_eq : remWord z a b = if b = 0 then a else BitVec.ofInt 32 (wordInt z a - wordInt z b * (wordInt z a).tdiv (wordInt z b)) := by
  rw [remWord, Int.tmod_def]

theorem ofInt_wordInt : BitVec.ofInt 32 (wordInt z a) = a := by
  cases z
  · exact BitVec.ofInt_toInt
  · exact (BitVec.ofInt_natCast ..).trans (BitVec.ofNat_toNat ..)

theorem minWord_eq : minWord z a b = BitVec.ofInt 32 (min (wordInt z a) (wordInt z b)) := by
  by_cases lt : wordInt z b < wordInt z a
  · rw [minWord, if_pos lt, min_eq_right lt.le, ofInt_wordInt]
  · rw [minWord, if_neg lt, min_eq_left (not_lt.1 lt), ofInt_wordInt]

theorem maxWord_eq : maxWord z a b = BitVec.ofInt 32 (max (wordInt z a) (wordInt z b)) := by
  by_cases lt : wordInt z a < wordInt z b
  · rw [maxWord, if_pos lt, max_eq_right lt.le, ofInt_wordInt]
  · rw [maxWord, if_neg lt, max_eq_left (not_lt.1 lt), ofInt_wordInt]

theorem satWord_eq (v : Int) : satWord z v = BitVec.ofInt 32 (max (if z then 0 else -2 ^ 31) (min v (if z then 2 ^ 32 - 1 else 2 ^ 31 - 1))) := by
  cases z <;> rfl

end

theorem scalarBinaryResults : Claims.ScalarBinaryResults := by
  refine ⟨fun h o s c => ?_, fun h o s c => ?_⟩
  · intro a b u
    refine ⟨?add, ?sub, ?mul, runL_resG c rfl, runL_resG c rfl, runL_resG c rfl, runL_resG c rfl, ?shl, ?shr, ?sar, ?rot⟩
    case add => rw [← BitVec.add_def]; exact runL_resG c rfl
    case sub => rw [← subWord_eq_ofInt]; exact runL_resG c rfl
    case mul => rw [← mulWord_eq_ofNat]; exact runL_resG c rfl
    case shl => rw [← shlWord_eq]; exact runL_resG c rfl
    case shr => rw [← shrWord_eq]; exact runL_resG c rfl
    case sar => rw [← sarWord_eq]; exact runL_resG c rfl
    case rot => rw [← rotWord_eq]; exact runL_resG c rfl
  · intro a b x y lo hi
    refine ⟨runL_resG c rfl, runL_resG c rfl, ?rem, ?min, ?max, ?adds, ?subs⟩
    case rem => exact (runL_resG c rfl).trans (by rw [remWord_eq]; rfl)
    case min => exact (runL_resG c rfl).trans (by rw [minWord_eq]; rfl)
    case max => exact (runL_resG c rfl).trans (by rw [maxWord_eq]; rfl)
    case adds => exact (runL_resG c rfl).trans (by rw [addSat, satWord_eq]; rfl)
    case subs => exact (runL_resG c rfl).trans (by rw [subSat, satWord_eq]; rfl)

/-! ### Unary and bit-field operations by the bits of the word (R88, R90) -/

theorem absWord_eq (a : Word) : (if a.toInt < 0 then -a else a) = BitVec.ofNat 32 a.toInt.natAbs := by
  rw [← BitVec.ofInt_natCast]
  by_cases neg : a.toInt < 0
  · rw [if_pos neg, Int.ofNat_natAbs_of_nonpos neg.le, BitVec.ofInt_neg, BitVec.ofInt_toInt]
  · rw [if_neg neg, Int.natAbs_of_nonneg (not_lt.1 neg), BitVec.ofInt_toInt]

/-- The zeros above the highest one bit among the low `n` bits, and that bit. -/
theorem leadingZerosFrom_spec (a : Word) (n : Nat) : leadingZerosFrom a n ≤ n ∧
    (∀ i, i < leadingZerosFrom a n → a.getLsbD (n - 1 - i) = false) ∧
    (leadingZerosFrom a n < n → a.getLsbD (n - 1 - leadingZerosFrom a n) = true) := by
  induction n with
  | zero => simp [leadingZerosFrom]
  | succ n ih =>
    obtain ⟨le, zeros, one⟩ := ih
    rw [leadingZerosFrom]
    split
    · next top => exact ⟨Nat.zero_le _, by omega, fun _ => top⟩
    · next top =>
      refine ⟨by omega, fun i lt => ?_, fun lt => ?_⟩
      · cases i with
        | zero => simpa using top
        | succ i => rw [show n + 1 - 1 - (i + 1) = n - 1 - i by omega, zeros i (by omega)]
      · rw [show n + 1 - 1 - (leadingZerosFrom a n + 1) = n - 1 - leadingZerosFrom a n by omega, one (by omega)]

theorem trailingZeros_spec (a : Word) : trailingZeros a ≤ 32 ∧ (∀ i, i < trailingZeros a → a.getLsbD i = false) ∧
    (trailingZeros a < 32 → a.getLsbD (trailingZeros a) = true) := by
  rw [trailingZeros]
  cases found : (List.range 32).find? fun i => a.getLsbD i with
  | none =>
    have zeros := List.find?_range_eq_none.1 found
    exact ⟨le_rfl, fun i lt => by simpa using zeros i lt, fun lt => absurd lt (Nat.lt_irrefl _)⟩
  | some n =>
    obtain ⟨one, mem, zeros⟩ := List.find?_range_eq_some.1 found
    exact ⟨(List.mem_range.1 mem).le, fun i lt => by simpa using zeros i lt, fun _ => one⟩

theorem natSum_eq_sum (l : List Nat) : natSum l = l.sum := by
  rw [natSum, List.sum_eq_foldl]

/-- BREV adds the same powers of two in the opposite order. -/
theorem bitReverse_eq_laneWord (a : Word) : bitReverse a = laneWord fun i => a.getLsbD (31 - i) := by
  have mirror : (List.range 32).reverse = (List.range 32).map (31 - ·) := by decide
  have terms : ((List.range 32).map fun i => if a.getLsbD i then 2 ^ (31 - i) else 0) =
      (((List.range 32).map fun i => if a.getLsbD (31 - i) then 2 ^ i else 0)).reverse := by
    rw [← List.map_reverse, mirror, List.map_map]
    refine List.map_congr_left fun i m => ?_
    have lt := List.mem_range.1 m
    simp only [Function.comp_apply, show 31 - (31 - i) = i by omega]
  rw [bitReverse, laneWord, terms, natSum_eq_sum, natSum_eq_sum, List.sum_reverse]

theorem bitReverse_getLsbD (a : Word) {i : Nat} (lt : i < 32) : (bitReverse a).getLsbD i = a.getLsbD (31 - i) := by
  rw [bitReverse_eq_laneWord, laneWord_getLsbD _ lt]

theorem testBit_top_iff {f n : Nat} (lt : f < 2 ^ (n + 1)) : f.testBit n = true ↔ 2 ^ n ≤ f := by
  have bit : f / 2 ^ n < 2 := Nat.div_lt_of_lt_mul (by rwa [← Nat.pow_succ])
  have one : 1 ≤ f / 2 ^ n ↔ 1 * 2 ^ n ≤ f := Nat.le_div_iff_mul_le (Nat.two_pow_pos n)
  rw [Nat.testBit_eq_decide_div_mod_eq, decide_eq_true_iff, Nat.mod_eq_of_lt bit]
  omega

/-- A field is negative where its top bit is set. -/
theorem sextNat_succ {f n : Nat} (lt : f < 2 ^ (n + 1)) : sextNat (n + 1) f = if f.testBit n then (f : Int) - 2 ^ (n + 1) else f := by
  have top := testBit_top_iff lt
  rw [sextNat, Nat.mod_eq_of_lt lt, Nat.cast_pow, Nat.cast_ofNat]
  refine if_congr ?_ rfl rfl
  rw [top, Nat.pow_succ]
  omega

theorem extendField_eq (sgn : Bool) {f n : Nat} (lt : f < 2 ^ (n + 1)) :
    (if sgn then BitVec.ofInt 32 (sextNat (n + 1) f) else BitVec.ofNat 32 f) =
      if sgn ∧ f.testBit n then BitVec.ofInt 32 ((f : Int) - 2 ^ (n + 1)) else BitVec.ofNat 32 f := by
  cases sgn
  · simp
  · cases top : f.testBit n <;> simp [sextNat_succ lt, top]

/-- The bits of a field of `n` ones from `pos` on. -/
theorem ones_getLsbD (n pos : Nat) {i : Nat} (lt : i < 32) :
    (BitVec.ofNat 32 ((2 ^ n - 1) * 2 ^ pos)).getLsbD i = decide (pos ≤ i ∧ i < pos + n) := by
  rw [BitVec.getLsbD_ofNat, Nat.testBit_mul_two_pow, Nat.testBit_two_pow_sub_one, decide_eq_true lt, Bool.true_and, ← Bool.decide_and,
    decide_eq_decide]
  omega

/-- A masked insertion takes the shifted word where the mask has ones. -/
theorem insert_getLsbD (d a m : Word) (pos : Nat) {i : Nat} (lt : i < 32) (pm : m.getLsbD i = true → pos ≤ i) :
    ((d &&& ~~~m) ||| ((a <<< pos) &&& m)).getLsbD i = if m.getLsbD i then a.getLsbD (i - pos) else d.getLsbD i := by
  simp only [BitVec.getLsbD_or, BitVec.getLsbD_and, BitVec.getLsbD_not, BitVec.getLsbD_shiftLeft, lt, decide_true, Bool.true_and]
  cases on : m.getLsbD i
  · simp
  · simp [Nat.not_lt.2 (pm on)]

theorem scalarUnaryResults : Claims.ScalarUnaryResults := by
  refine ⟨fun h o s c => ?_, fun h o s c => ?_, fun h o s c => ⟨_, runL_resG c rfl, fun i lt => ?_⟩⟩
  · intro a
    refine ⟨?abs, ⟨_, runL_resG c rfl, leadingZerosFrom_spec a 32⟩, ⟨_, runL_resG c rfl, trailingZeros_spec a⟩, ?popc,
      ⟨_, runL_resG c rfl, fun i lt => bitReverse_getLsbD a lt⟩⟩
    case abs => rw [← absWord_eq]; exact runL_resG c rfl
    case popc => rw [List.countP_eq_length_filter]; exact runL_resG c rfl
  · intro f
    rw [← extendField_eq o.sgn (Nat.mod_lt _ (Nat.two_pow_pos _))]
    exact runL_resG c rfl
  · have ones := ones_getLsbD (o.wm1 + 1) o.pos lt
    rw [insert_getLsbD _ _ _ _ lt (fun on => by rw [ones, decide_eq_true_iff] at on; exact on.1), ones]
    simp only [decide_eq_true_iff, Nat.add_assoc]

/-- Settles O35: each instruction's effect is one result, whose value is the stated one by the lemma of its operation. -/
theorem scalarIntegerResults : Obligations.ScalarIntegerResults := ⟨scalarBinaryResults, scalarUnaryResults⟩

end Sys2Proof.Machine
end

section
/-! SUPPORT. The address registers (04 R98, R99) and scalar floating point (04 R100 to R108), and O1 and O2. -/

namespace Sys2Proof.Machine

section
variable {s : State} {h : Hdr} {us : List RegUse}

theorem runL_resA {n lat : Nat} {v : Addr} {eff : State → Eff} (c : s.Clear h us) (ok : eff s = .ok (s.resA h n v lat)) :
    runL h (markReads us) s eff = .next (s.givesA h n v lat) := by
  rw [runL_ok c ok, State.resA_clean c.upsets]

theorem runL_resGF {n lat : Nat} {v flags : Word} {eff : State → Eff} (c : s.Clear h us) (ok : eff s = .ok (s.resGF h n v lat flags)) :
    runL h (markReads us) s eff = .next (s.givesG h n v lat flags) := by
  rw [runL_ok c ok, State.resGF_clean c.upsets]

end

/-! ### Address registers -/

theorem addr_shiftLeft_eq_mul (a : Addr) (n : Nat) : a <<< n = a * BitVec.ofNat 64 (2 ^ n) := by
  apply BitVec.eq_of_toNat_eq
  rw [BitVec.toNat_shiftLeft, Nat.shiftLeft_eq, BitVec.toNat_mul, BitVec.toNat_ofNat, Nat.mul_mod_mod]

/-- A pair of words is their concatenation, the second in bits 63:32. -/
theorem appendWord_eq_ofNat (hi lo : Word) : hi ++ lo = BitVec.ofNat 64 (hi.toNat * 0x100000000 + lo.toNat) := by
  apply BitVec.eq_of_toNat_eq
  rw [BitVec.toNat_append, ← Nat.shiftLeft_add_eq_or_of_lt lo.isLt, Nat.shiftLeft_eq, BitVec.toNat_ofNat]
  have := hi.isLt
  have := lo.isLt
  omega

/-- The halves of an address register. -/
theorem half_eq_extractLsb' (a : Addr) (high : Bool) :
    (if high then (a >>> 32).setWidth 32 else a.setWidth 32) = if high then a.extractLsb' 32 32 else a.extractLsb' 0 32 := by
  cases high
  · exact BitVec.setWidth_eq_extractLsb' (by decide)
  · exact BitVec.setWidth_ushiftRight_eq_extractLsb

/-- Settles O1: each instruction's effect is one result; an AMOV that reads fewer g registers is clear where one of two is. -/
theorem addressResults : Obligations.AddressResults := by
  refine ⟨fun h o s c => runL_resA c rfl, fun h o s c => ?alea, fun h d a b v s c => ?amov, fun h o s c => ?aget, fun h o s c => ?acmp⟩
  case alea =>
    rw [← addr_shiftLeft_eq_mul]
    exact runL_resA c rfl
  case amov =>
    have noReads : s.Clear h [] := c.mono (fun _ m => absurd m List.not_mem_nil)
    have oneRead : s.Clear h (AmovArgs.regs (.fromG d a)) := c.mono (fun _ m => List.mem_cons.2 (.inl (List.mem_singleton.1 m)))
    refine ⟨runL_resA noReads rfl, runL_resA oneRead rfl, ?_, ?_⟩
    · rw [appendWord_eq_ofNat]; exact runL_resA c rfl
    · rw [BitVec.signExtend, ← sextNat_eq_toInt]; exact runL_resA noReads rfl
  case aget =>
    rw [← half_eq_extractLsb']
    exact runL_resG c rfl
  case acmp =>
    refine (runL_resP c rfl).trans ?_
    cases o.cond <;> rfl

/-! ### Floating point -/

theorem FFmt.isNan_decode {f : FFmt} (ieee : f.e4m3 = false) (a : Nat) :
    (f.decode a).isNan = decide (a / 2 ^ f.mb % (f.emax + 1) = f.emax ∧ a % 2 ^ f.mb ≠ 0) := by
  simp only [FFmt.decode, ieee, Bool.false_and, Bool.not_false, Bool.true_and, Bool.false_eq_true, if_false, decide_eq_true_eq]
  by_cases top : a / 2 ^ f.mb % (f.emax + 1) = f.emax
  · by_cases zero : a % 2 ^ f.mb = 0
    · simp [top, zero, FVal.isNan]
    · simp [top, zero, FVal.isNan]
  · simp only [top, if_false, false_and, decide_false]
    split <;> rfl

/-- An encoding is a NaN where its magnitude is above that of an infinity (R33). -/
theorem isNan_decode_f32 (a : Nat) : (fmtF32.decode a).isNan = decide (0x7F800000 < a % 2 ^ 31) := by
  rw [FFmt.isNan_decode rfl, decide_eq_decide]
  change a / 2 ^ 23 % 256 = 255 ∧ a % 2 ^ 23 ≠ 0 ↔ _
  omega

/-- The sign function on sign bits. -/
def signFn : SignFn → Bool → Bool → Bool
  | .cpy, _, b => b
  | .neg, _, b => !b
  | .xor, a, b => xor a b

theorem toNat_sign (a : Word) : a.toNat / 2 ^ 31 % 2 = a.msb.toNat := by
  have lt := a.isLt
  rw [BitVec.msb_eq_decide]
  by_cases h : 2 ^ 31 ≤ a.toNat
  · rw [decide_eq_true h, Bool.toNat_true]; omega
  · rw [decide_eq_false h, Bool.toNat_false]; omega

theorem sgn_f32 (f : SignFn) (a b : Word) : fmtF32.sgn (signCode f) a.toNat b.toNat =
    if 0x7F800000 < a.toNat % 2 ^ 31 then ⟨0x7FC00000, 16⟩
    else ⟨a.toNat % 2 ^ 31 + if signFn f a.msb b.msb then 2 ^ 31 else 0, 0⟩ := by
  rw [FFmt.sgn, isNan_decode_f32]
  by_cases nan : 0x7F800000 < a.toNat % 2 ^ 31
  · simp only [decide_eq_true nan, if_true, if_pos nan]; rfl
  · simp only [decide_eq_false nan, if_neg nan, Bool.false_eq_true, if_false, show fmtF32.width - 1 = 31 from rfl, toNat_sign]
    cases f <;> cases a.msb <;> cases b.msb <;> rfl

theorem fsgn_gives (h : Hdr) (o : FsgnArgs) (s : State) (c : s.Clear h o.regs) : exec (.fsgn h o) s = .next
    (if 0x7F800000 < (s.rdG o.a).toNat % 2 ^ 31 then s.givesG h o.d 0x7FC00000 2 16
    else s.givesG h o.d (BitVec.ofNat 32 ((s.rdG o.a).toNat % 2 ^ 31 + if signFn o.f (s.rdG o.a).msb (s.rdG o.b).msb then 2 ^ 31 else 0)) 2) := by
  refine (runL_resGF c rfl).trans ?_
  rw [sgn_f32]
  split <;> rfl

/-- Settles O2: each instruction's effect is one result; FSGN's is that of the sign bits (`sgn_f32`). -/
theorem scalarFloatResults : Obligations.ScalarFloatResults := by
  refine ⟨fun h o s c => ?binary, fun h o s c => runL_resGF c rfl, fun h o s c => ⟨runL_resGF c rfl, runL_resGF c rfl⟩,
    fun h o s c => runL_resGF c rfl, fun h o s c => runL_resP c rfl, fun h o s c => runL_resGF c rfl, fun h o s c => ?fsgn,
    fun h o s c => runL_resG c rfl⟩
  case binary => exact ⟨runL_resGF c rfl, runL_resGF c rfl, runL_resGF c rfl, runL_resGF c rfl⟩
  case fsgn =>
    refine (fsgn_gives h o s c).trans ?_
    cases o.f <;> rfl

end Sys2Proof.Machine
end

section
/-! SUPPORT. Branches, hardware loops and END (04 R110 to R123), and O40 and O41. -/

namespace Sys2Proof.Machine

/-! ### Instructions whose copies meet at issue -/

section
variable {s t : State} {h : Hdr} {us : List RegUse} {items : State → Items} {eff : State → Eff}

theorem runI_ok (c : s.Clear h us) (ok : eff s = .ok t) :
    runI h (markReads us) items s eff = .next (t.spends (addedCycles false h.prot)) := by
  rw [runI_clear c, ok]; rfl

theorem runI_trap {cause val : Nat} (c : s.Clear h us) (trap : eff s = .trap cause val) :
    runI h (markReads us) items s eff = .next (s.takeTrap cause val false h.slot h.prot false) := by
  rw [runI_clear c, trap]; rfl

theorem runI_trapIn {cause val : Nat} (c : s.Clear h us) (trap : eff s = .trapIn t cause val) :
    runI h (markReads us) items s eff = .next (t.takeTrap cause val false h.slot h.prot false) := by
  rw [runI_clear c, trap]; rfl

end

/-! ### Branches (R110 to R116) -/

theorem State.resB_plain {s : State} (clean : s.strm.upsets = []) (h : Hdr) (b : Nat) (t : Pos) (hint : Bool) :
    s.resB (plainHdr h) b t hint = s.queues ⟨.b b, 1,
      [⟨BitVec.ofNat 1024 (t.line * 16 + t.slot + if hint then 2 ^ 32 else 0), 0, .none, lowBits 33, 0, true⟩],
      s.strm.pos, 0, h.slot, 1, false⟩ := by
  rw [State.resB, State.result_clean clean]; rfl

theorem State.preparedB_eq (s : State) (n : Nat) : s.preparedB n = (s.rdB n).landed.all fun c => decide (c + 3 ≤ s.strm.cyc) := by
  rw [State.preparedB]
  cases (s.rdB n).landed <;> rfl

/-- A line offset is signed and wraps (R72, R111). -/
theorem fbTarget_eq (line loff slot : Nat) :
    fbTarget line loff slot = ⟨(((line : Int) + (BitVec.ofNat 24 loff).toInt) % 2 ^ 28).toNat, slot⟩ := by
  rw [fbTarget, sextNat_eq_toInt]; rfl

/-- A word holds a line of 28 bits. -/
theorem ofPacked_toNat (a : Word) : Pos.ofPacked a.toNat = ⟨a.toNat / 16, a.toNat % 16⟩ := by
  have line : a.toNat / 16 < 0x10000000 := Nat.div_lt_of_lt_mul a.isLt
  rw [Pos.ofPacked, Nat.mod_eq_of_lt line]

section
variable {s : State} {h : Hdr}

theorem runI_resB {us : List RegUse} {items : State → Items} {eff : State → Eff} {b : Nat} {t : Pos} {hint : Bool} (c : s.Clear h us)
    (ok : eff s = .ok (s.resB (plainHdr h) b t hint)) : runI h (markReads us) items s eff = .next (Claims.givesB s h b t hint) := by
  rw [runI_ok c ok, State.resB_plain c.upsets]; rfl

/-- The return predictor is empty, or its newest entry matches the target, or it does not (R116). -/
theorem exec_ret_empty {o : BrArgs} (c : s.Clear h o.regs) (empty : s.strm.predictor = []) :
    exec (.ret h o) s = .next (Claims.branches s h (s.rdB o.b).target (s.preparedB o.b)) :=
  runI_ok c (by simp only [empty])

theorem exec_ret_match {o : BrArgs} {p : Pos} {rest : List Pos} (c : s.Clear h o.regs) (newest : s.strm.predictor = p :: rest)
    (hit : p = (s.rdB o.b).target) : exec (.ret h o) s =
      .next ((Claims.branches s h (s.rdB o.b).target true).setStrm fun x => { x with predictor := rest }) :=
  runI_ok (t := (s.take (s.rdB o.b).target true).setStrm fun x => { x with predictor := rest }) c (by simp only [newest, if_pos hit])

theorem exec_ret_mismatch {o : BrArgs} {p : Pos} {rest : List Pos} (c : s.Clear h o.regs) (newest : s.strm.predictor = p :: rest)
    (miss : p ≠ (s.rdB o.b).target) : exec (.ret h o) s =
      .next ((Claims.branches s h (s.rdB o.b).target (s.preparedB o.b)).setStrm fun x => { x with predictor := [] }) :=
  runI_ok (t := (s.take (s.rdB o.b).target (s.preparedB o.b)).setStrm fun x => { x with predictor := [] }) c
    (by simp only [newest, if_neg miss])

theorem exec_call_clear {o : CallArgs} (c : s.Clear h o.regs) : exec (.call h o) s =
    .next ((Claims.givesB (s.take (s.rdB o.b).target (s.preparedB o.b)) h o.d s.afterBundle false).setStrm fun x =>
      { x with predictor := (s.afterBundle :: s.strm.predictor).take 8 }) := by
  have linked := State.resB_plain (s := s.take (s.rdB o.b).target (s.preparedB o.b)) c.upsets h o.d s.afterBundle false
  simp only [exec_call, execCall, runI_clear c, linked]
  rfl

end

theorem branchInstructions : Claims.BranchInstructions := by
  refine ⟨fun h o s c => ?pbr, fun h o s c => ?pbrg, fun h o s c => ?branches, fun h o s c => ?call⟩
  case pbr => rw [← fbTarget_eq]; exact runI_resB c rfl
  case pbrg =>
    intro v
    split
    · next reserved => exact runI_trap c (if_pos reserved)
    · next slot => rw [← ofPacked_toNat]; exact runI_resB c (if_neg slot)
  case branches =>
    simp only [← State.preparedB_eq]
    refine ⟨runI_ok c rfl, ?_⟩
    split
    · next empty => exact exec_ret_empty c empty
    · next newest =>
      split
      · next hit => exact exec_ret_match c newest hit
      · next miss => exact exec_ret_mismatch c newest miss
  case call =>
    simp only [← State.preparedB_eq]
    exact exec_call_clear c

/-! ### Hardware loops and END (R117 to R123) -/

theorem exec_ldltClr_clear {s : State} {h : Hdr} {o : LdltClrArgs} (c : s.Clear h o.regs) : exec (.ldltClr h o) s =
    .next ((s.queues ⟨.deltaClr o.lc, 1, [⟨0, 0, .none, lowBits 32, 0, true⟩], s.strm.pos, 0, 0, 1, false⟩).spends
      (addedCycles false h.prot)) := by
  refine runI_ok c ?_
  rw [State.resNext, show (0 : Word).setWidth 1024 = 0 from BitVec.setWidth_zero ..]
  rfl

theorem loopInstructions : Claims.LoopInstructions := by
  refine ⟨fun h o s c => ⟨fun rounds => ?loop, fun noRounds => ?skip⟩, fun h o s c => ⟨fun idle => ?idle, fun active => ?leave⟩,
    fun h o s c => runI_ok c rfl, fun h o s c => exec_ldltClr_clear c, fun h o s c => ⟨fun kept => ?ends, fun r cause rest lost => ?lost⟩⟩
  case loop => exact runI_ok c (if_neg rounds)
  case skip =>
    cases next : s.following (s.rdB o.b).target with
    | none => exact runI_trap c (by simp only [if_pos noRounds, next])
    | some p => exact runI_ok c (by simp only [if_pos noRounds, next])
  case idle => exact runI_ok c (by simp only [idle, Bool.not_false, if_true])
  case leave =>
    cases next : s.following (s.rdLc o.lc).last with
    | none => exact runI_trap c (by simp [active, next])
    | some p => exact runI_ok c (by simp [active, next])
  case ends => exact runI_ok c (by simp only [State.lostFor, kept, List.find?_nil])
  case lost => exact runI_trapIn c (by simp [State.lostFor, lost, State.setStrm])

/-- Settles O40: the effect of each instruction is one change of the issuing bundle, of a level or of a b register, or a trap, by the cases
of its own definition. -/
theorem branchAndLoopInstructions : Obligations.BranchAndLoopInstructions := ⟨branchInstructions, loopInstructions⟩

/-! ### The end of a bundle, by what its instructions left (R110, R119) -/

section
variable {s : State} (p : Pos) (nxt : Nat)

theorem State.moveOn_taken {q : Pos} (taken : s.strm.latch.taken = some q) : s.moveOn p nxt =
    s.setStrm fun x => { x with stall := x.stall + (if s.strm.latch.prepared then 0 else 3), pos := q } := by
  simp only [State.moveOn, taken]

theorem State.moveOn_straight (taken : s.strm.latch.taken = none) (straight : s.strm.latch.ended = true ∨ s.strm.handler = true) :
    s.moveOn p nxt = s.setStrm fun x => { x with pos := ⟨p.line, nxt⟩ } := by
  simp only [State.moveOn, taken, Bool.or_eq_true, if_pos straight]

theorem State.moveOn_loops (taken : s.strm.latch.taken = none) (ended : s.strm.latch.ended = false) (handler : s.strm.handler = false) :
    s.moveOn p nxt = (loopEnd p s.strm.latch.lcNew [2, 1, 0] s).1.setStrm fun x =>
      { x with pos := (loopEnd p s.strm.latch.lcNew [2, 1, 0] s).2.getD ⟨p.line, nxt⟩ } := by
  simp only [State.moveOn, taken, ended, handler, Bool.or_self, Bool.false_eq_true, if_false]
  split
  · next e => rw [e]; rfl
  · next e => rw [e]; rfl

end

theorem nextPosition : Claims.NextPosition :=
  fun _ p nxt => ⟨fun _ taken => State.moveOn_taken p nxt taken, fun taken loops => State.moveOn_next taken loops⟩

/-! ### The levels at an end bundle (R119, R120) -/

theorem State.rdLc_clean {s : State} (clean : s.strm.upsets = []) (n : Nat) : s.rdLc n = SMap.get Loop.idle n s.strm.lc := by
  simp only [State.rdLc, State.struck_clean clean, BitVec.ofNat_eq_ofNat, BitVec.toNat_ofNat, Nat.zero_mod, if_true]

theorem State.rdLc_setPos (s : State) (q : Pos) (n : Nat) : (s.setStrm fun x => { x with pos := q }).rdLc n = s.rdLc n := rfl

theorem State.rdLc_putLc {s : State} (clean : s.strm.upsets = []) (n : Nat) (l : Loop) (m : Nat) :
    (s.putLc n l).rdLc m = if m = n then l else s.rdLc m := by
  rw [State.rdLc_clean clean, State.rdLc_clean (s := s.putLc n l) clean, State.putLc, SMap.get_set]

section
variable (p : Pos) (skip : List Nat)

/-- A level takes part at the end of a bundle: it is active, ends there and did not begin there. -/
def State.endsAt (s : State) (n : Nat) : Bool := (s.rdLc n).active && decide ((s.rdLc n).last = p) && !(skip.contains n)

/-- A level after a bundle that ends its last round. -/
def State.exited (s : State) (n : Nat) : Loop := if s.endsAt p skip n then { s.rdLc n with active := false } else s.rdLc n

/-- The levels that take part become inactive, one after the other. -/
def State.exitLevel (s : State) (n : Nat) : State := if s.endsAt p skip n then s.putLc n { s.rdLc n with active := false } else s
def State.exitLevels (ns : List Nat) (s : State) : State := ns.foldl (State.exitLevel p skip) s

/-- The results that add a level's deltas to the a registers. -/
def State.deltaFlights (s : State) (n : Nat) : List Flight := (s.rdLc n).delta.map fun (j, d) =>
  ⟨.a j, 1, [⟨(s.rdA j + d.signExtend 64).setWidth 1024, 0, .none, lowBits 64, 0, true⟩], s.strm.pos, 0, 0, 1, false⟩

/-- A level begins its next round. -/
def State.goesBack (s : State) (n : Nat) : State :=
  (s.putLc n { s.rdLc n with count := (s.rdLc n).count - 1 }).setStrm fun x => { x with flight := x.flight ++ s.deltaFlights n }

variable {p skip} {s : State}

theorem State.endsAt_congr {t : State} {n : Nat} (same : t.rdLc n = s.rdLc n) : t.endsAt p skip n = s.endsAt p skip n := by
  simp only [State.endsAt, same]

/-- One level at the end of a bundle: it goes back, exits, or stays (R119). -/
theorem loopEnd_cons (n : Nat) (ns : List Nat) : loopEnd p skip (n :: ns) s =
    if s.endsAt p skip n then
      if 1 < (s.rdLc n).count.toNat then (s.goesBack n, some (s.rdLc n).first)
      else loopEnd p skip ns (s.putLc n { s.rdLc n with active := false })
    else loopEnd p skip ns s := rfl

theorem loopEnd_goesBack {n : Nat} (ns : List Nat) (hit : s.endsAt p skip n = true) (more : 1 < (s.rdLc n).count.toNat) :
    loopEnd p skip (n :: ns) s = (s.goesBack n, some (s.rdLc n).first) := by
  rw [loopEnd_cons, if_pos hit, if_pos more]

theorem loopEnd_exits {n : Nat} (ns : List Nat) (last : s.endsAt p skip n = true → (s.rdLc n).count.toNat ≤ 1) :
    loopEnd p skip (n :: ns) s = loopEnd p skip ns (s.exitLevel p skip n) := by
  rw [loopEnd_cons, State.exitLevel]
  split
  · next hit => rw [if_neg (Nat.not_lt.2 (last hit))]
  · rfl

theorem State.exitLevel_upsets (n : Nat) : (s.exitLevel p skip n).strm.upsets = s.strm.upsets := by
  rw [State.exitLevel]; split <;> rfl

variable (p skip) in
/-- The exit of one level leaves the others as they were. -/
theorem State.rdLc_exitLevel (clean : s.strm.upsets = []) (n m : Nat) :
    (s.exitLevel p skip n).rdLc m = if m = n then s.exited p skip n else s.rdLc m := by
  rw [State.exited, State.exitLevel]
  split
  · exact State.rdLc_putLc clean ..
  · split
    · next same => rw [same]
    · rfl

/-- Levels of which none has a round left are passed over. -/
theorem loopEnd_append {ns : List Nat} (rest : List Nat) (distinct : ns.Nodup) (clean : s.strm.upsets = [])
    (last : ∀ n ∈ ns, s.endsAt p skip n = true → (s.rdLc n).count.toNat ≤ 1) :
    loopEnd p skip (ns ++ rest) s = loopEnd p skip rest (State.exitLevels p skip ns s) := by
  induction ns generalizing s with
  | nil => rfl
  | cons n ns ih =>
    obtain ⟨notMem, distinct⟩ := List.nodup_cons.1 distinct
    obtain ⟨lastN, last⟩ := List.forall_mem_cons.1 last
    rw [List.cons_append, loopEnd_exits _ lastN, ih distinct ((State.exitLevel_upsets n).trans clean)]
    · rfl
    · intro m mem
      have same := State.rdLc_exitLevel p skip clean n m
      rw [if_neg (ne_of_mem_of_not_mem mem notMem)] at same
      rw [State.endsAt_congr same, same]
      exact last m mem

variable (p skip) in
/-- The exits change nothing but the levels. -/
theorem State.exitLevels_frame (ns : List Nat) : ∃ lc, State.exitLevels p skip ns s = s.setStrm fun x => { x with lc := lc } := by
  induction ns generalizing s with
  | nil => exact ⟨_, rfl⟩
  | cons n ns ih =>
    obtain ⟨lc, frame⟩ := ih (s := s.exitLevel p skip n)
    refine ⟨lc, frame.trans ?_⟩
    rw [State.exitLevel]
    split <;> rfl

variable (p skip) in
theorem State.exitLevels_upsets (ns : List Nat) : (State.exitLevels p skip ns s).strm.upsets = s.strm.upsets := by
  obtain ⟨lc, frame⟩ := State.exitLevels_frame p skip (s := s) ns
  rw [frame]; rfl

variable (p skip) in
theorem State.rdLc_exitLevels {ns : List Nat} (distinct : ns.Nodup) (clean : s.strm.upsets = []) (n : Nat) :
    (State.exitLevels p skip ns s).rdLc n = if n ∈ ns then s.exited p skip n else s.rdLc n := by
  induction ns generalizing s with
  | nil => rfl
  | cons m ns ih =>
    obtain ⟨notMem, distinct⟩ := List.nodup_cons.1 distinct
    have one := State.rdLc_exitLevel p skip clean m n
    refine (ih (s := s.exitLevel p skip m) distinct ((State.exitLevel_upsets m).trans clean)).trans ?_
    by_cases same : n = m
    · subst same
      rw [if_neg notMem, one, if_pos rfl, if_pos List.mem_cons_self]
    · rw [if_neg same] at one
      simp only [State.exited, State.endsAt_congr one, one, List.mem_cons, same, false_or]

theorem State.rdLc_goesBack (clean : s.strm.upsets = []) (k n : Nat) :
    (s.goesBack k).rdLc n = if n = k then { s.rdLc k with count := (s.rdLc k).count - 1 } else s.rdLc n :=
  State.rdLc_putLc clean ..

/-- The next round of a level changes the levels and adds results, also after exits of others. -/
theorem State.goesBack_frame {t : State} {k : Nat} {lc : SMap Loop} (frame : t = s.setStrm fun x => { x with lc := lc })
    (same : t.rdLc k = s.rdLc k) :
    ∃ lc', t.goesBack k = s.setStrm fun x => { x with lc := lc', flight := x.flight ++ s.deltaFlights k } := by
  have deltas : t.deltaFlights k = s.deltaFlights k := by
    rw [State.deltaFlights, same, frame]; rfl
  rw [State.goesBack, deltas, frame]
  exact ⟨_, rfl⟩

end

/-! ### The next round, or the bundle after the loops -/

/-- The levels above `k`, which are examined before it. -/
def levelsAbove (k : Nat) : List Nat := [2, 1, 0].filter (k < ·)

theorem mem_levels {n : Nat} : n ∈ [2, 1, 0] ↔ n < 3 := by
  simp only [List.mem_cons, List.not_mem_nil, or_false]; omega

theorem mem_levelsAbove {k n : Nat} : n ∈ levelsAbove k ↔ k < n ∧ n < 3 := by
  rw [levelsAbove, List.mem_filter, mem_levels, decide_eq_true_iff, and_comm]

theorem levelsAbove_nodup (k : Nat) : (levelsAbove k).Nodup := List.Nodup.filter _ (by decide)

theorem levels_split : ∀ k < 3, [2, 1, 0] = levelsAbove k ++ k :: [2, 1, 0].filter (· < k) := by decide

/-- A level is as it was when its turn comes. -/
theorem State.rdLc_exitLevels_above {s : State} (p : Pos) (skip : List Nat) (clean : s.strm.upsets = []) (k : Nat) :
    (State.exitLevels p skip (levelsAbove k) s).rdLc k = s.rdLc k := by
  rw [State.rdLc_exitLevels _ _ (levelsAbove_nodup k) clean, if_neg (by simp [mem_levelsAbove])]

section
variable {s : State} (p : Pos) (nxt : Nat) (clean : s.strm.upsets = []) (taken : s.strm.latch.taken = none)
  (ended : s.strm.latch.ended = false) (handler : s.strm.handler = false)
include clean taken ended handler

theorem State.moveOn_goesBack {k : Nat} (lt : k < 3) (hit : s.endsAt p s.strm.latch.lcNew k = true) (more : 1 < (s.rdLc k).count.toNat)
    (last : ∀ m, k < m → m < 3 → s.endsAt p s.strm.latch.lcNew m = true → (s.rdLc m).count.toNat ≤ 1) :
    s.moveOn p nxt = ((State.exitLevels p s.strm.latch.lcNew (levelsAbove k) s).goesBack k).setStrm fun x => { x with pos := (s.rdLc k).first } := by
  have same := State.rdLc_exitLevels_above p s.strm.latch.lcNew clean k
  rw [State.moveOn_loops p nxt taken ended handler, levels_split k lt,
    loopEnd_append _ (levelsAbove_nodup k) clean fun m mem => last m (mem_levelsAbove.1 mem).1 (mem_levelsAbove.1 mem).2,
    loopEnd_goesBack _ ((State.endsAt_congr same).trans hit) (by rwa [same]), same]
  rfl

theorem State.moveOn_exits (last : ∀ m, m < 3 → s.endsAt p s.strm.latch.lcNew m = true → (s.rdLc m).count.toNat ≤ 1) :
    s.moveOn p nxt = (State.exitLevels p s.strm.latch.lcNew [2, 1, 0] s).setStrm fun x => { x with pos := ⟨p.line, nxt⟩ } := by
  have passed := loopEnd_append (ns := [2, 1, 0]) [] (by decide) clean fun m mem => last m (mem_levels.1 mem)
  rw [State.moveOn_loops p nxt taken ended handler, ← List.append_nil [2, 1, 0], passed]
  rfl

end

theorem loopBack : Claims.LoopBack := by
  intro s p nxt clean hit exits t
  refine ⟨fun taken ended handler => ⟨fun k lt hitK more last => ?back, fun last => ?leave⟩, ?straight⟩
  case back =>
    have moved : t = _ := State.moveOn_goesBack p nxt clean taken ended handler lt hitK more last
    have same := State.rdLc_exitLevels_above p s.strm.latch.lcNew clean k
    refine ⟨?_, fun n => ?_⟩
    · obtain ⟨_, frame⟩ := State.exitLevels_frame p s.strm.latch.lcNew (s := s) (levelsAbove k)
      obtain ⟨lc, back⟩ := State.goesBack_frame frame same
      rw [moved, back]
      rfl
    · have round := State.rdLc_goesBack ((State.exitLevels_upsets p s.strm.latch.lcNew (levelsAbove k)).trans clean) k n
      simp only [same, State.rdLc_exitLevels _ _ (levelsAbove_nodup k) clean, mem_levelsAbove] at round
      rw [moved, State.rdLc_setPos]
      exact round
  case leave =>
    have moved : t = _ := State.moveOn_exits p nxt clean taken ended handler last
    refine ⟨?_, fun n => ?_⟩
    · obtain ⟨lc, frame⟩ := State.exitLevels_frame p s.strm.latch.lcNew (s := s) [2, 1, 0]
      rw [moved, frame]
      rfl
    · have left := State.rdLc_exitLevels p s.strm.latch.lcNew (ns := [2, 1, 0]) (by decide) clean n
      simp only [mem_levels] at left
      rw [moved, State.rdLc_setPos]
      exact left
  case straight =>
    cases taken : s.strm.latch.taken with
    | some q =>
      rw [show t = _ from State.moveOn_taken p nxt taken]
      exact fun _ => ⟨rfl, rfl⟩
    | none =>
      intro h
      rw [show t = _ from State.moveOn_straight p nxt taken (h.resolve_left (by simp))]
      exact ⟨rfl, rfl⟩

/-- Settles O41: the levels above the one that goes back exit first (`loopEnd_append`), which leaves that one as it was; where none goes back
all of them exit. -/
theorem programOrder : Obligations.ProgramOrder := ⟨nextPosition, loopBack⟩

end Sys2Proof.Machine
end

section
/-! SUPPORT. Scalar accesses of local memory (04 R124 to R126, 09 R229), and O3, O42. -/

namespace Sys2Proof.Machine

/-! ### Where an access faults (R229) -/

/-- The window ends below the tiles. -/
theorem winSize_le (w : Word) : winSize w ≤ 0x400000 := by rw [winSize]; omega

section
variable {s : State} {a n : Nat}

theorem State.localFault_loads (h : Claims.Loads s a n) : s.localFault a n true = none := by
  rcases h with window | ⟨low, high, idle⟩
  · exact State.localFault_window window true
  · rw [State.localFault_eq]
    split
    · rfl
    · rw [if_pos ⟨rfl, low, high⟩, Option.map_eq_none_iff, List.find?_range_eq_none]
      exact fun i lt => by rw [Bool.not_eq_true']; exact idle i lt

/-- The fault of a load is at its first byte that lies in a hole. -/
theorem State.localFault_hole {v : Nat} (le : a ≤ v) (lt : v < a + n) (hole : ¬ Claims.Mapped s v)
    (first : ∀ b, a ≤ b → b < v → Claims.Mapped s b) : s.localFault a n true = some (9, v) := by
  have low := winSize_le s.core.pool
  simp only [Claims.Mapped] at hole first
  rw [State.localFault_eq, if_neg (by omega), if_neg (by simp only [tileBase]; omega)]
  simp only [tileBase, true_and]
  split
  · next tile =>
    have top := first (0x1000000 + 65536 * poolT s.core.pool) tile.2.le
    rw [show 0x1000000 + 65536 * poolT s.core.pool = v by omega]
  · next noTile =>
    split
    · next below =>
      have edge := first (winSize s.core.pool) below.le
      rw [show winSize s.core.pool = v by omega]
    · next above =>
      have start := first a le_rfl
      rw [show a = v by omega]

theorem State.localFault_store (past : winSize s.core.pool < a + n) :
    s.localFault a n false = some (9, max a (winSize s.core.pool)) := by
  rw [State.localFault_eq, if_neg (by omega), if_neg (by simp), if_neg (by simp)]
  split
  · next below => rw [max_eq_right below.le]
  · next above => rw [max_eq_left (not_lt.1 above)]

end

/-! ### Loads and stores that perform -/

section
variable {s : State} {ea : Addr} {n : Nat}

theorem localLoad_readable {go : Nat → State} (ok : Claims.Readable s ea.toNat n) :
    localLoad s ea n go = .ok (go (natOfBytes ((List.range n).map fun i => s.localByte (ea.toNat + i)))) := by
  obtain ⟨loads, clean, free⟩ := ok
  simp only [localLoad, State.localFault_loads loads, clean, free, Bool.false_eq_true, if_false]
  rfl

theorem localLoad_hole {go : Nat → State} {v : Nat} (le : ea.toNat ≤ v) (lt : v < ea.toNat + n) (hole : ¬ Claims.Mapped s v)
    (first : ∀ b, ea.toNat ≤ b → b < v → Claims.Mapped s b) : localLoad s ea n go = .trap 9 v := by
  simp only [localLoad, State.localFault_hole le lt hole first]

theorem localStore_past {bs : List Byte} {go : State → State} (past : winSize s.core.pool < ea.toNat + bs.length) :
    localStore s ea bs go = .trap 9 (max ea.toNat (winSize s.core.pool)) := by
  simp only [localStore, State.localFault_store past]

/-- A store that performs writes its bytes and no other byte of local memory. -/
theorem localStore_writable {bs : List Byte} {go : State → State} (clean : s.strm.upsets = []) (ok : Claims.Writable s ea.toNat bs.length) :
    ∃ u : State, localStore s ea bs go = .ok (go u) ∧ s.SameButLocal u ∧
      ∀ x, u.localByte x = if ea.toNat ≤ x ∧ x < ea.toNat + bs.length then bs.getD (x - ea.toNat) 0 else s.localByte x := by
  obtain ⟨window, free, room⟩ := ok
  obtain ⟨u, written⟩ := State.localWrite_room (a := ea.toNat) room
  obtain ⟨same, -, bytes⟩ := State.localWrite_spec clean written
  refine ⟨u, ?_, same, bytes⟩
  simp only [localStore, State.localFault_window window, free, written, Bool.false_eq_true, if_false]

theorem State.SameButLocal.strm {t : State} (same : s.SameButLocal t) : t.strm = s.strm := by
  rw [same]

end

/-- A store that performs: the bytes of a number, and the update of the base register. -/
theorem runI_store {s : State} {h : Hdr} {us : List RegUse} {items : State → Items} {ea : Addr} {n v b : Nat} {m : Bool} {off : Off}
    {eff : State → Eff} (c : s.Clear h us) (ok : Claims.Writable s ea.toNat n)
    (he : eff s = localStore s ea (leBytes n v) fun t => t.postInc h false b m off) : ∃ u : State,
      runI h (markReads us) items s eff =
        .next ((u.bumps h false b m off).spends (addedCycles false h.prot)) ∧
      s.SameButLocal u ∧ ∀ x, u.localByte x = if ea.toNat ≤ x ∧ x < ea.toNat + n then BitVec.ofNat 8 (v / 256 ^ (x - ea.toNat))
        else s.localByte x := by
  have len := leBytes_length n v
  rw [← len] at ok
  obtain ⟨u, stores, same, bytes⟩ := localStore_writable (bs := leBytes n v) (go := fun t => t.postInc h false b m off) c.upsets ok
  have clean : u.strm.upsets = [] := by rw [same.strm]; exact c.upsets
  rw [len] at bytes
  refine ⟨u, ?_, same, fun x => ?_⟩
  · rw [← State.postInc_clean clean]; exact runI_ok c (he.trans stores)
  · rw [bytes]
    split
    · next inside => rw [leBytes_getD _ _ _ (by omega)]
    · rfl

/-- Settles O3: the store performs (`localStore_writable`), and its bytes are those of the register's number. -/
theorem localStores : Obligations.LocalStores := by
  refine ⟨fun h o s c => ?_, fun h o s c => ?_⟩
  · intro n ea ok
    exact runI_store c ok rfl
  · intro ea ok
    exact runI_store c ok rfl

theorem State.bumps_pos (s : State) (h : Hdr) (vec : Bool) (a : Nat) (m : Bool) (off : Off) : (s.bumps h vec a m off).strm.pos = s.strm.pos := by
  cases m <;> rfl

/-- The result of an access joins the update of its base register. -/
theorem State.postInc_result {s : State} (clean : s.strm.upsets = []) (h : Hdr) (b : Nat) (m : Bool) (off : Off) (dst : Dst) (bits val : VReg)
    (lat : Nat) (flags : Word) (mark : Mark) : (s.postInc h false b m off).result h false 0 dst bits val lat flags mark =
      (s.bumps h false b m off).queues (s.result1 h dst bits val lat flags mark) := by
  rw [State.postInc_clean clean, State.result_clean ((State.bumps_upsets ..).trans clean), State.bumps_pos]
  rfl

theorem localLoads : Claims.LocalLoads := by
  refine ⟨fun h o s c => ?_, fun h o s c => ?_⟩
  · intro n ea v ok
    refine (runI_ok c (localLoad_readable ok)).trans ?_
    rw [State.resG, State.postInc_result c.upsets]
    rfl
  · intro ea v ok
    refine (runI_ok c (localLoad_readable ok)).trans ?_
    rw [State.resA, State.postInc_result c.upsets]

theorem localFaults : Claims.LocalFaults := by
  refine ⟨fun h o s c => ?_, fun h o s c => ?_⟩
  · intro ea v le lt hole first
    exact runI_trap c (localLoad_hole le lt hole first)
  · intro ea past
    exact runI_trap c (localStore_past (by rw [leBytes_length]; exact past))

/-- Settles O42: a load that is not stopped gives the bytes of its range (`localLoad_readable`), and the faults are those of `localFault`. -/
theorem scalarLocalLoads : Obligations.ScalarLocalLoads := ⟨localLoads, localFaults⟩

end Sys2Proof.Machine
end

section
/-! SUPPORT. The words of the spec's examples (04 R126, 18 R425, 23 R499, R501), and O28. -/

namespace Sys2Proof

/-- Settles O28: each word is closed, and the decoder runs on it. -/
theorem decodeWords : Obligations.DecodeWords := by
  unfold Obligations.DecodeWords
  decide

end Sys2Proof
end

section
/-! SUPPORT. The integer elements of vector registers and the masks (05 R136 to R139, R145, R161), and O37. -/

namespace Sys2Proof.Machine

/-! ### Elements by their integers (R136, R137) -/

theorem State.vsrc_lt (s : State) (b : VSrc) (w e : Nat) : s.vsrc b w e < 2 ^ w := by
  cases b with
  | vec n => exact elem_lt _ _ _
  | gs n => exact Nat.mod_lt _ (Nat.two_pow_pos w)
  | imm v => exact Nat.mod_lt _ (Nat.two_pow_pos w)

section
variable {w : Nat}

theorem wrap_eq_low (v : Int) : wrap w v = Claims.low w v := by
  rw [wrap, Claims.low, Nat.cast_pow, Nat.cast_ofNat]

theorem low_mod (v : Int) : Claims.low w v % 2 ^ w = Claims.low w v := by
  refine Nat.mod_eq_of_lt ?_
  have range := Int.emod_lt_of_pos v (show (0 : Int) < 2 ^ w by positivity)
  rw [Claims.low, Int.toNat_lt' (Nat.two_pow_pos w), Nat.cast_pow, Nat.cast_ofNat]
  exact range

theorem low_natCast (x : Nat) : Claims.low w x = x % 2 ^ w := by
  rw [← wrap_eq_low, wrap, ← Int.natCast_mod, Int.toNat_natCast]

/-- An element has the low bits of its integer. -/
theorem low_asInt (z : Bool) {x : Nat} (lt : x < 2 ^ w) : Claims.low w (Claims.asInt w z x) = x := by
  have plain : Claims.low w x = x := by rw [low_natCast, Nat.mod_eq_of_lt lt]
  rw [Claims.asInt]
  split
  · rwa [Claims.low, Int.sub_emod_right]
  · exact plain

theorem satElem_eq_low (z : Bool) (v : Int) : satElem w z v = Claims.low w (Claims.clamp w z v) := wrap_eq_low _

variable {a b : Nat}

theorem subElem_mod (lt : b < 2 ^ w) : (a + 2 ^ w - b) % 2 ^ w = Claims.low w ((a : Int) - b) := by
  have shift : ((a + 2 ^ w - b : Nat) : Int) = (a : Int) - b + 2 ^ w := by
    rw [Nat.cast_sub (by omega), Nat.cast_add, Nat.cast_pow, Nat.cast_ofNat]; omega
  rw [← low_natCast, shift, Claims.low, Int.add_emod_right]; rfl

theorem shlElem_mod (a k : Nat) : (if k < w then a * 2 ^ k else 0) % 2 ^ w = (if w ≤ k then 0 else a * 2 ^ k % 2 ^ w) % 2 ^ w := by
  by_cases small : k < w
  · rw [if_pos small, if_neg (Nat.not_le.2 small), Nat.mod_mod]
  · rw [if_neg small, if_pos (Nat.not_lt.1 small)]

theorem shrElem_mod (a k : Nat) : (if k < w then a / 2 ^ k else 0) % 2 ^ w = (if w ≤ k then 0 else a / 2 ^ k) % 2 ^ w := by
  simp only [← Nat.not_lt, ite_not]

theorem sarElem_mod (k : Nat) (la : a < 2 ^ w) : wrap w (sextNat w a / ((2 ^ min k w : Nat) : Int)) % 2 ^ w =
    Claims.low w (Claims.asInt w false a / 2 ^ min k w) % 2 ^ w := by
  rw [wrap_eq_low, ← elemInt_of_lt false la, Nat.cast_pow, Nat.cast_ofNat]; rfl

theorem minElem_mod (z : Bool) (la : a < 2 ^ w) (lb : b < 2 ^ w) : (if elemInt w z b < elemInt w z a then b else a) % 2 ^ w =
    Claims.low w (min (Claims.asInt w z a) (Claims.asInt w z b)) := by
  rw [elemInt_of_lt z la, elemInt_of_lt z lb]
  by_cases less : Claims.asInt w z b < Claims.asInt w z a
  · rw [if_pos less, min_eq_right less.le, low_asInt z lb, Nat.mod_eq_of_lt lb]
  · rw [if_neg less, min_eq_left (not_lt.1 less), low_asInt z la, Nat.mod_eq_of_lt la]

theorem maxElem_mod (z : Bool) (la : a < 2 ^ w) (lb : b < 2 ^ w) : (if elemInt w z a < elemInt w z b then b else a) % 2 ^ w =
    Claims.low w (max (Claims.asInt w z a) (Claims.asInt w z b)) := by
  rw [elemInt_of_lt z la, elemInt_of_lt z lb]
  by_cases less : Claims.asInt w z a < Claims.asInt w z b
  · rw [if_pos less, max_eq_right less.le, low_asInt z lb, Nat.mod_eq_of_lt lb]
  · rw [if_neg less, max_eq_left (not_lt.1 less), low_asInt z la, Nat.mod_eq_of_lt la]

end

/-! ### An element operation gives its elements -/

section
variable {s : State} {h : Hdr} {us : List RegUse} {i : Instr}

theorem vecResult_of_vmap (c : s.Clear h us) {d a km w : Nat} {b : VSrc} {mz : Bool} {g : Nat → Nat → Nat → Nat} {f : Nat → Nat}
    (hi : exec i s = vmap h us d a b km mz w g s) (hw : w = 32 ∨ w = 16 ∨ w = 8)
    (hf : ∀ e, g (elem (s.rdV a) w e) (s.vsrc b w e) (elem (s.rdV d) w e) % 2 ^ w = f e % 2 ^ w) :
    Claims.VecResult i s h d (s.rdM km) mz 2 w f :=
  vecResult_of_resV c hi rfl hw fun e lt => (elem_ofElems w _ _ e lt (Nat.mul_div_le _ _)).trans (hf e)

theorem vecResult_of_vint {o : VIntArgs} (c : s.Clear h o.regs) {g : Nat → Nat → Nat → Nat} {f : Nat → Nat → Nat}
    (hi : exec i s = vint h o g s)
    (hf : ∀ a b, a < 2 ^ widthOf o.w → b < 2 ^ widthOf o.w → g (widthOf o.w) a b % 2 ^ widthOf o.w = f a b % 2 ^ widthOf o.w) :
    Claims.VecResult i s h o.d (s.rdM o.km) o.mz 2 (widthOf o.w) fun e =>
      f (elem (s.rdV o.a) (widthOf o.w) e) (s.vsrc o.b (widthOf o.w) e) :=
  vecResult_of_vmap c hi (widthOf_cases o.w) fun _ => hf _ _ (elem_lt _ _ _) (s.vsrc_lt _ _ _)

/-- The same of signed or unsigned elements. -/
theorem vecResult_of_vintZ {o : VIntZArgs} (c : s.Clear h o.regs) {g : Nat → Bool → Nat → Nat → Nat} {f : Int → Int → Int}
    (hi : exec i s = vintZ h o g s)
    (hf : ∀ a b, a < 2 ^ widthOf o.w → b < 2 ^ widthOf o.w → g (widthOf o.w) o.z a b % 2 ^ widthOf o.w =
      Claims.low (widthOf o.w) (f (Claims.asInt (widthOf o.w) o.z a) (Claims.asInt (widthOf o.w) o.z b))) :
    Claims.VecResult i s h o.d (s.rdM o.km) o.mz 2 (widthOf o.w) fun e => Claims.low (widthOf o.w)
      (f (Claims.asInt (widthOf o.w) o.z (elem (s.rdV o.a) (widthOf o.w) e)) (Claims.asInt (widthOf o.w) o.z (s.vsrc o.b (widthOf o.w) e))) :=
  vecResult_of_vmap c hi (widthOf_cases o.w) fun _ => (hf _ _ (elem_lt _ _ _) (s.vsrc_lt _ _ _)).trans (low_mod _).symm

end

theorem vectorIntegerResults : Claims.VectorIntegerResults := by
  refine ⟨fun h o s c => ⟨?vadd, ?vsub, ?vmul, ?vand, ?vor, ?vxor, ?vshl, ?vshr, ?vsar⟩,
    fun h o s c => ⟨?vmulh, ?vmin, ?vmax, ?vadds, ?vsubs⟩, fun h o s c => ?vmad, fun h o s c => ?vabs⟩
  case vadd => exact vecResult_of_vint c (exec_vadd h o s) fun a b _ _ => (Nat.mod_mod _ _).symm
  case vsub => exact vecResult_of_vint c (exec_vsub h o s) fun a b _ lb => (subElem_mod lb).trans (low_mod _).symm
  case vmul => exact vecResult_of_vint c (exec_vmul h o s) fun a b _ _ => (Nat.mod_mod _ _).symm
  case vand => exact vecResult_of_vint c (exec_vand h o s) fun a b _ _ => rfl
  case vor => exact vecResult_of_vint c (exec_vor h o s) fun a b _ _ => rfl
  case vxor => exact vecResult_of_vint c (exec_vxor h o s) fun a b _ _ => rfl
  case vshl => exact vecResult_of_vint c (exec_vshl h o s) fun a k _ _ => shlElem_mod a k
  case vshr => exact vecResult_of_vint c (exec_vshr h o s) fun a k _ _ => shrElem_mod a k
  case vsar => exact vecResult_of_vint c (exec_vsar h o s) fun a k la _ => sarElem_mod k la
  case vmulh =>
    refine vecResult_of_vintZ c (exec_vmulh h o s) (f := fun a b => a * b / 2 ^ widthOf o.w) fun a b la lb => ?_
    rw [wrap_eq_low, low_mod, elemInt_of_lt _ la, elemInt_of_lt _ lb, Nat.cast_pow, Nat.cast_ofNat]
  case vmin => exact vecResult_of_vintZ c (exec_vmin h o s) fun a b la lb => minElem_mod o.z la lb
  case vmax => exact vecResult_of_vintZ c (exec_vmax h o s) fun a b la lb => maxElem_mod o.z la lb
  case vadds =>
    refine vecResult_of_vintZ c (exec_vadds h o s) (f := fun a b => Claims.clamp _ o.z (a + b)) fun a b la lb => ?_
    rw [satElem_eq_low, low_mod, elemInt_of_lt _ la, elemInt_of_lt _ lb]
  case vsubs =>
    refine vecResult_of_vintZ c (exec_vsubs h o s) (f := fun a b => Claims.clamp _ o.z (a - b)) fun a b la lb => ?_
    rw [satElem_eq_low, low_mod, elemInt_of_lt _ la, elemInt_of_lt _ lb]
  case vmad => exact vecResult_of_vmap c (exec_vmad h o s) (widthOf_cases o.w) fun e => (Nat.mod_mod _ _).symm
  case vabs =>
    refine vecResult_of_vmap c (exec_vabs h o s) (widthOf_cases o.w) fun e => ?_
    rw [← elemInt_of_lt false (elem_lt _ _ _)]; rfl

/-! ### Results in m registers (R138, R145, R161) -/

theorem maskResult_of_resM {s : State} {h : Hdr} {us : List RegUse} {eff : State → Eff} {i : Instr} {d lat : Nat} {bits val : Word}
    {f : Nat → Bool} (c : s.Clear h us) (hi : exec i s = runV h (markReads us) s eff) (he : eff s = .ok (s.resM h d bits val lat))
    (hf : ∀ k, k < 32 → val.getLsbD k = f k) : Claims.MaskResult i s h d bits lat f := by
  refine ⟨val, ?_, hf⟩
  rw [exec_of_ok c hi he, State.resM, State.result_clean c.upsets]; rfl

/-- The truth values of the active lanes. -/
theorem laneWord_and_getLsbD (f : Nat → Bool) (gm : Word) {k : Nat} (lt : k < 32) :
    (laneWord f &&& gm).getLsbD k = (gm.getLsbD k && f k) := by
  rw [BitVec.getLsbD_and, laneWord_getLsbD f lt, Bool.and_comm]

/-- VSEL takes the elements of the lanes that its selector names from the one register, and the others from the other (R139). -/
theorem elem_mergeBits_laneBits (old val : VReg) (gm : Word) {w e : Nat} (hw : w = 32 ∨ w = 16 ∨ w = 8) (lt : e < 1024 / w) :
    elem (mergeBits old (laneBits gm) val) w e = if elemActive gm w e then elem val w e else elem old w e := by
  refine elem_eq_of_bits (by split <;> exact elem_lt _ _ _) fun i li => ?_
  have bound : w * e + i < 1024 := by rcases hw with rfl | rfl | rfl <;> omega
  have lane : (w * e + i) / 32 = w * e / 32 := by rcases hw with rfl | rfl | rfl <;> omega
  rw [mergeBits_getLsbD _ _ _ bound, laneBits_getLsbD _ _ bound, lane, elemActive, bit_toNat]
  split <;> exact (elem_testBit _ _ _ _ li).symm

theorem vsel_selects (h : Hdr) (o : VselArgs) (s : State) (c : s.Clear h o.regs) :
    Claims.VecResult (.vsel h o) s h o.d (BitVec.allOnes 32) false 2 (widthOf o.w) fun e =>
      if elemActive (s.rdM o.ms) (widthOf o.w) e then elem (s.rdV o.a) (widthOf o.w) e else s.vsrc o.b (widthOf o.w) e := by
  refine vecResult_of_resV c (exec_vsel h o s) rfl (widthOf_cases o.w) fun e lt => ?_
  rw [elem_mergeBits_laneBits _ _ _ (widthOf_cases o.w) lt, elem_ofElems _ _ _ _ lt (Nat.mul_div_le _ _)]
  split
  · exact (Nat.mod_eq_of_lt (elem_lt _ _ _)).symm
  · rfl

/-! ### The first one bit of a mask (R161) -/

theorem eq_zero_of_bits {m : Word} (zeros : ∀ i, i < 32 → m.getLsbD i = false) : m = 0 :=
  BitVec.eq_of_getLsbD_eq fun i lt => (zeros i lt).trans BitVec.getLsbD_zero.symm

theorem trailingZeros_lt {m : Word} (ne : m ≠ 0) : trailingZeros m < 32 := by
  obtain ⟨-, zeros, -⟩ := trailingZeros_spec m
  exact Nat.lt_of_not_le fun all => ne (eq_zero_of_bits fun i lt => zeros i (lt.trans_le all))

theorem leadingZeros_lt {m : Word} (ne : m ≠ 0) : leadingZeros m < 32 := by
  obtain ⟨-, zeros, -⟩ := leadingZerosFrom_spec m 32
  refine Nat.lt_of_not_le fun all => ne (eq_zero_of_bits fun i lt => ?_)
  rw [show i = 32 - 1 - (31 - i) by omega]
  exact zeros _ (Nat.lt_of_lt_of_le (by omega) all)

theorem trailingZeros_first {m : Word} (ne : m ≠ 0) :
    trailingZeros m < 32 ∧ m.getLsbD (trailingZeros m) = true ∧ ∀ i, i < 32 → m.getLsbD i = true → trailingZeros m ≤ i := by
  obtain ⟨-, zeros, one⟩ := trailingZeros_spec m
  refine ⟨trailingZeros_lt ne, one (trailingZeros_lt ne), fun i _ on => Nat.le_of_not_lt fun lt => ?_⟩
  rw [zeros i lt] at on; cases on

theorem leadingZeros_last {m : Word} (ne : m ≠ 0) :
    31 - leadingZeros m < 32 ∧ m.getLsbD (31 - leadingZeros m) = true ∧ ∀ i, i < 32 → m.getLsbD i = true → i ≤ 31 - leadingZeros m := by
  obtain ⟨-, zeros, one⟩ := leadingZerosFrom_spec m 32
  refine ⟨by omega, one (leadingZeros_lt ne), fun i lt on => Nat.le_of_not_lt fun above => ?_⟩
  have off := zeros (31 - i) (show 31 - i < leadingZeros m by omega)
  rw [show 32 - 1 - (31 - i) = i by omega, on] at off
  cases off

theorem mff_finds (h : Hdr) (o : MffArgs) (s : State) (c : s.Clear h o.regs) :
    let m := s.rdM o.m
    ∃ n : Nat, Claims.VecScalar (.mff h o) s h o.d (BitVec.allOnes 32) (BitVec.ofNat 32 n) 1 0 ∧
      (m = 0 → n = 32) ∧ (m ≠ 0 → n < 32 ∧ m.getLsbD n = true ∧
        ∀ i, i < 32 → m.getLsbD i = true → if o.last then i ≤ n else n ≤ i) := by
  intro m
  refine ⟨_, vecScalar_of_resVG c (exec_mff h o s) rfl, fun zero => if_pos zero, fun ne => ?_⟩
  rw [if_neg ne]
  cases o.last
  · exact trailingZeros_first ne
  · exact leadingZeros_last ne

theorem vectorMaskResults : Claims.VectorMaskResults := by
  refine ⟨fun h o s c => ?vcmp, fun h o s c => ?vfcmp, vsel_selects, fun h o s c => ?mlog, fun h o s c => ?mpop, mff_finds,
    fun h d a v s c => ?mmov⟩
  case vcmp => exact maskResult_of_resM c (exec_vcmp h o s) rfl fun k lt => laneWord_and_getLsbD _ _ lt
  case vfcmp => exact maskResult_of_resM c (exec_vfcmp h o s) rfl fun k lt => laneWord_and_getLsbD _ _ lt
  case mlog =>
    refine maskResult_of_resM c (exec_mlog h o s) rfl fun k lt => ?_
    rw [laneWord_getLsbD _ lt, bit_toNat, bit_toNat]
  case mpop =>
    rw [List.countP_eq_length_filter]
    exact vecScalar_of_resVG c (exec_mpop h o s) rfl
  case mmov =>
    have unmarked : s.Clear h [] := c.mono fun n mem => absurd mem List.not_mem_nil
    refine ⟨maskResult_of_resM unmarked (exec_mmov h _ s) rfl fun k _ => rfl, maskResult_of_resM c (exec_mmov h _ s) rfl fun k _ => rfl,
      vecScalar_of_resVG (us := MmovArgs.regs (.gm d a)) unmarked (exec_mmov h _ s) rfl,
      maskResult_of_resM unmarked (exec_mmov h _ s) rfl fun k lt => ?_⟩
    rw [BitVec.getLsbD_ofNat, decide_eq_true lt, Bool.true_and]

/-- Settles O37: each element operation gives the elements that `vmap` computes, which are the low bits of the stated integers; the mask
instructions give their truth values bit by bit. -/
theorem vectorIntegerAndMaskResults : Obligations.VectorIntegerAndMaskResults := ⟨vectorIntegerResults, vectorMaskResults⟩

end Sys2Proof.Machine
end

section
/-! SUPPORT. Vector floating point, conversions, block formats and dot products (05 R140 to R151, R159, R160), and O39. -/

namespace Sys2Proof.Machine

/-! ### Elements with flags (R129) -/

theorem vfmt_width_cases (f : VFloat) : (vfmt f).width = 32 ∨ (vfmt f).width = 16 ∨ (vfmt f).width = 8 := by
  cases f <;> simp [vfmt, fmtF32, fmtBf16, fmtF16]

theorem zipIdx_map_range {α : Type} (n : Nat) (f : Nat → α) : ((List.range n).map f).zipIdx = (List.range n).map fun e => (f e, e) := by
  apply List.ext_getElem
  · simp
  · intro e _ _
    simp

theorem State.resElems_map_range (s : State) (h : Hdr) (d : Nat) (gm : Word) (mz : Bool) (w lat n : Nat) (f : Nat → FRes) :
    s.resElems h d gm mz w lat ((List.range n).map f) = s.resV h d gm mz (BitVec.ofNat 1024 (packElems w ((List.range n).map fun e => (f e).bits)))
      lat (orFlags ((List.range n).map fun e => if elemActive gm w e then (f e).flags else 0)) := by
  rw [State.resElems, zipIdx_map_range, List.map_map, List.map_map]; rfl

section
variable {s : State} {h : Hdr} {us : List RegUse} {i : Instr} {d lat : Nat} {gm : Word} {mz : Bool}

/-- The elements of a result with flags, of which the active ones set theirs. -/
theorem vecFloat_of_resElems {eff : State → Eff} {w : Nat} {f : Nat → FRes} (c : s.Clear h us) (hi : exec i s = runV h (markReads us) s eff)
    (he : eff s = .ok (s.resElems h d gm mz w lat ((List.range (1024 / w)).map f))) (hw : w = 32 ∨ w = 16 ∨ w = 8) :
    Claims.VecFloat i s h d gm mz lat w f := by
  have fit : w * ((List.range (1024 / w)).map fun e => (f e).bits).length ≤ 1024 := by
    rw [List.length_map, List.length_range]; exact Nat.mul_div_le _ _
  refine ⟨_, exec_of_resV c hi (he.trans (by rw [State.resElems_map_range])), fun e lt => ?_⟩
  rw [elem_mask _ _ _ _ hw lt, elem_packElems fit]
  simp [lt]

theorem vecFloat_of_vfmap {a km : Nat} {b : VSrc} {v : VFloat} {op : FFmt → Nat → Nat → Nat → Nat → FRes} (c : s.Clear h us)
    (hi : exec i s = vfmap h us d a b km mz v lat op s) :
    Claims.VecFloat i s h d (s.rdM km) mz lat (vfmt v).width fun e =>
      op (vfmt v) s.vrm (elem (s.rdV a) (vfmt v).width e) (s.vsrc b (vfmt v).width e) (elem (s.rdV d) (vfmt v).width e) :=
  vecFloat_of_resElems c hi rfl (vfmt_width_cases v)

theorem vecFloat_of_vfbin {o : VFBinArgs} (c : s.Clear h o.regs) (op : FFmt → Nat → Nat → Nat → FRes) (hi : exec i s = vfbin h o lat op s) :
    Claims.VecFloat i s h o.d (s.rdM o.km) o.mz lat (vfmt o.f).width fun e =>
      op (vfmt o.f) s.vrm (elem (s.rdV o.a) (vfmt o.f).width e) (s.vsrc o.b (vfmt o.f).width e) :=
  vecFloat_of_vfmap (op := fun f rm a b _ => op f rm a b) c hi

theorem vecFloat_of_vfun {o : VFUnArgs} (c : s.Clear h o.regs) (op : FFmt → Nat → Nat → FRes) (hi : exec i s = vfun h o lat op s) :
    Claims.VecFloat i s h o.d (s.rdM o.km) o.mz lat (vfmt o.f).width fun e => op (vfmt o.f) s.vrm (elem (s.rdV o.a) (vfmt o.f).width e) :=
  vecFloat_of_vfmap (b := .imm 0) (op := fun f rm a _ _ => op f rm a) c hi

end

theorem vectorFloatResults : Claims.VectorFloatResults := by
  refine ⟨fun h o s c => ⟨?vfadd, ?vfsub, ?vfmul, ?vfmin, ?vfmax, ?vfdiv⟩, fun h o s c => ?vfma, fun h o s c => ⟨?vfsqrt, ?vfexp2, ?vflog2⟩,
    fun h o s c => ?vfsgn⟩
  case vfadd => exact vecFloat_of_vfbin c FFmt.addOp (exec_vfadd h o s)
  case vfsub => exact vecFloat_of_vfbin c FFmt.subOp (exec_vfsub h o s)
  case vfmul => exact vecFloat_of_vfbin c FFmt.mulOp (exec_vfmul h o s)
  case vfmin => exact vecFloat_of_vfbin c (fun f _ => f.minMax false) (exec_vfmin h o s)
  case vfmax => exact vecFloat_of_vfbin c (fun f _ => f.minMax true) (exec_vfmax h o s)
  case vfdiv => exact vecFloat_of_vfbin c FFmt.divOp (exec_vfdiv h o s)
  case vfma => exact vecFloat_of_vfmap (op := FFmt.fmaOp) c (exec_vfma h o s)
  case vfsqrt => exact vecFloat_of_vfun c FFmt.sqrtOp (exec_vfsqrt h o s)
  case vfexp2 => exact vecFloat_of_vfun c (fun f rm a => f.round rm false (f.decode a).exp2) (exec_vfexp2 h o s)
  case vflog2 => exact vecFloat_of_vfun c FFmt.log2Op (exec_vflog2 h o s)
  case vfsgn => exact vecFloat_of_vfmap (b := .vec o.b) (op := fun f _ a b _ => f.sgn (signCode o.op) a b) c (exec_vfsgn h o s)

/-! ### Conversions and blocks (R147 to R150) -/

/-- A conversion writes its part of the register alone (R148). -/
theorem vcvt_converts (h : Hdr) (o : VcvtArgs) (s : State) (c : s.Clear h o.regs) :
    let wf := fmtWidth o.frm
    let wt := fmtWidth o.dto
    let rs := (List.range 32).map fun e => convert o.dto o.frm (s.rmode o.rm) o.sat (elem (s.rdV o.a) wf (partIndex wf o.part e))
    let at_ := wt * partIndex wt o.part 0
    exec (.vcvt h o) s = .next (s.givesV h (BitVec.allOnes 32) o.d (BitVec.ofNat 1024 ((2 ^ (wt * 32) - 1) * 2 ^ at_))
      (BitVec.ofNat 1024 (packElems wt (rs.map (·.bits)) * 2 ^ at_)) 5 (BitVec.ofNat 32 (orFlags (rs.map (·.flags))))) := by
  intro wf wt rs at_
  rw [exec_of_ok c (exec_vcvt h o s) rfl, State.result_clean c.upsets]
  rfl

theorem elemBits_bytes (m k n : Nat) : elemBits 8 (m * k) n = BitVec.ofNat 1024 ((2 ^ (8 * n) - 1) * 2 ^ (8 * m * k)) := by
  rw [elemBits, Nat.mul_assoc]

theorem bytesAt_block (m k : Nat) (bs : List Nat) : bytesAt (m * k) bs = BitVec.ofNat 1024 (packElems 8 bs * 2 ^ (8 * m * k)) := by
  rw [bytesAt, Nat.mul_assoc]

section
variable {h : Hdr} {o : VqencArgs} {s : State} (c : s.Clear h o.regs)
include c

/-- An L4X block holds its scale itself (R149). -/
theorem vqenc_encodes_l4x (l4x : o.fmt = .l4x) :
    let b := encodeL4x (requantRm (s.strm.fcsr.toNat % 8)) ((List.range 32).map fun i => (lane (s.rdV o.a) i).toNat)
    exec (.vqenc h o) s = .next (s.givesV h (BitVec.allOnes 32) o.d (BitVec.ofNat 1024 ((2 ^ 144 - 1) * 2 ^ (144 * o.k)))
      (BitVec.ofNat 1024 (packElems 8 (b.1.map (·.toNat)) * 2 ^ (144 * o.k))) 5 (BitVec.ofNat 32 b.2)) := by
  intro b
  rw [exec_of_ok c (exec_vqenc h o s) (if_pos l4x), State.result_clean c.upsets, elemBits_bytes, bytesAt_block]
  rfl

/-- The scale of another block goes to a g register (R149). -/
theorem vqenc_encodes_block (other : o.fmt ≠ .l4x) :
    let all := BitVec.allOnes 32
    let b := encodeBlock (blockFmt o.fmt) (requantRm (s.strm.fcsr.toNat % 8)) ((List.range 32).map fun i => (lane (s.rdV o.a) i).toNat)
    exec (.vqenc h o) s = .next (((s.queues (s.resultV1 h all (.v o.d) (BitVec.ofNat 1024 ((2 ^ 256 - 1) * 2 ^ (256 * o.k)))
      (BitVec.ofNat 1024 (packElems 8 b.elems * 2 ^ (256 * o.k))) 5 (BitVec.ofNat 32 b.flags) .none)).queues
      (s.resultV1 h all (.g o.g) (lowBits 32) ((BitVec.ofNat 32 b.scale).setWidth 1024) 5 0 .none)).spends (addedCycles true h.prot)) := by
  intro all b
  rw [exec_of_ok c (exec_vqenc h o s) (if_neg other), State.resVG, State.result_clean c.upsets, State.result_clean (s := s.queues _) c.upsets,
    elemBits_bytes, bytesAt_block]
  rfl

end

/-- VQDEC writes all the lanes of its register (R150). -/
theorem vqdec_decodes (h : Hdr) (o : VqdecArgs) (s : State) (c : s.Clear h o.regs) :
    let v := s.rdV o.a
    let blk := if o.fmt = .l4x then decodeL4x ((List.range 18).map fun i => BitVec.ofNat 8 (elem v 8 (18 * o.k + i)))
      else ((s.rdG o.g).toNat % 256, (List.range 32).map fun e => blockElem o.fmt (elem v 8 (32 * o.k + e)), 0)
    let rs := blk.2.1.map fun x => fmtF32.round s.vrm false (x.e8 blk.1)
    exec (.vqdec h o) s = .next (s.givesV h (BitVec.allOnes 32) o.d (BitVec.allOnes 1024)
      (BitVec.ofNat 1024 (packElems 32 (rs.map (·.bits)))) 5 (BitVec.ofNat 32 (orFlags (blk.2.2 :: rs.map (·.flags))))) := by
  intro v blk rs
  rw [exec_of_ok c (exec_vqdec h o s) rfl, State.resV_allOnes c.upsets]
  rfl

theorem vectorConversionResults : Claims.VectorConversionResults := by
  refine ⟨vcvt_converts, fun h o s c => ⟨vqenc_encodes_l4x c, vqenc_encodes_block c⟩, vqdec_decodes, fun h o s c => ?vscl,
    fun h o s c => ?vrnd, fun h o s c => ?vdot⟩
  case vscl => exact vecFloat_of_resElems c (exec_vscl h o s) rfl (vfmt_width_cases o.f)
  case vrnd => exact vecResult_of_ofElems c (exec_vrnd h o s) rfl (.inl rfl)
  case vdot => exact vecFloat_of_resElems c (exec_vdot h o s) rfl (.inl rfl)

/-- Settles O39: an operation on elements gives the bits and the flags that it lists (`vecFloat_of_resElems`), and a conversion or a block
is a result in its part of the register. -/
theorem vectorFloatAndConversionResults : Obligations.VectorFloatAndConversionResults := ⟨vectorFloatResults, vectorConversionResults⟩

end Sys2Proof.Machine
end

section
/-! SUPPORT. Vector loads and stores (05 R162 to R164, 09 R229 to R231), and O43. -/

namespace Sys2Proof.Machine

/-! ### A vector access where nothing stops it -/

section
variable {s : State} {h : Hdr} {us : List RegUse} {mask : State → Word} {parts : State → List FarPart} {v : State → Option VReg}
  {eff : State → Eff}

theorem vecRun_ok {t : State} (c : s.Clear h us) (ok : eff s = .ok t) :
    vecRun h us mask parts v s eff = .next (t.spends (addedCycles true h.prot)) := by
  rw [vecRun, run_clear c, ok]; rfl

theorem vecRun_trap {cause val : Nat} (c : s.Clear h us) (trap : eff s = .trap cause val) :
    vecRun h us mask parts v s eff = .next (s.takeTrap cause val false h.slot h.prot false) := by
  rw [vecRun, run_clear c, trap]; rfl

end

/-! ### The parts of an access in its register (R162, R163) -/

theorem State.strideParts_eq (s : State) (a km : Nat) (st : Stride) :
    s.strideParts a km st = Claims.laneParts s km fun i => s.rdA a + BitVec.ofInt 64 (i * strideVal st) := by
  simp only [State.strideParts, State.lanesOf, bit_toNat]; rfl

theorem State.indexParts_eq (s : State) (a vi sh km : Nat) (z : Bool) : s.indexParts a vi sh km z =
    Claims.laneParts s km fun i => s.rdA a + (if z then (lane (s.rdV vi) i).setWidth 64 else (lane (s.rdV vi) i).signExtend 64) <<< sh := by
  simp only [State.indexParts, State.lanesOf, bit_toNat]; rfl

/-- The bytes of every part lie in active lanes of the register, and no two parts share a byte of it. -/
structure Placed (gm : Word) (parts : List FarPart) : Prop where
  active : ∀ p ∈ parts, ∀ j, j < p.n → gm.getLsbD ((p.off + j) / 4) = true
  apart : ∀ p ∈ parts, ∀ j, j < p.n → ∀ q ∈ parts, q.off ≤ p.off + j → p.off + j < q.off + q.n → q = p

theorem placed_whole (a : Nat) : Placed (BitVec.allOnes 32) [⟨0, a, 128⟩] where
  active p mem j lt := by
    obtain rfl := List.mem_singleton.1 mem
    rw [BitVec.getLsbD_allOnes, decide_eq_true_iff]
    simp only at lt ⊢
    omega
  apart p mem j _ q memq _ _ := (List.mem_singleton.1 memq).trans (List.mem_singleton.1 mem).symm

theorem mem_laneParts {s : State} {km : Nat} {addr : Nat → Addr} {p : FarPart} :
    p ∈ Claims.laneParts s km addr ↔ ∃ i, (s.rdM km).getLsbD i = true ∧ ⟨4 * i, (addr i).toNat, 4⟩ = p := by
  rw [Claims.laneParts, List.mem_map]
  refine exists_congr fun i => and_congr_left fun _ => ?_
  rw [List.mem_filter, List.mem_range]
  exact ⟨fun m => m.2, fun on => ⟨BitVec.lt_of_getLsbD on, on⟩⟩

theorem placed_laneParts (s : State) (km : Nat) (addr : Nat → Addr) : Placed (s.rdM km) (Claims.laneParts s km addr) where
  active p mem j lt := by
    obtain ⟨i, on, rfl⟩ := mem_laneParts.1 mem
    simp only at lt ⊢
    rwa [show (4 * i + j) / 4 = i by omega]
  apart p mem j lt q memq low high := by
    obtain ⟨i, -, rfl⟩ := mem_laneParts.1 mem
    obtain ⟨k, -, rfl⟩ := mem_laneParts.1 memq
    simp only at lt low high
    rw [show k = i by omega]

theorem placed_strideParts (s : State) (a km : Nat) (st : Stride) : Placed (s.rdM km) (s.strideParts a km st) :=
  s.strideParts_eq a km st ▸ placed_laneParts s km _

theorem placed_indexParts (s : State) (a vi sh km : Nat) (z : Bool) : Placed (s.rdM km) (s.indexParts a vi sh km z) :=
  s.indexParts_eq a vi sh km z ▸ placed_laneParts s km _

/-- A load puts the bytes of its parts into the active lanes. -/
theorem Placed.elem_gather {gm : Word} {parts : List FarPart} (placed : Placed gm parts) (s : State) {p : FarPart} (mem : p ∈ parts) {j : Nat}
    (lt : j < p.n) : elem (s.gather parts &&& laneBits gm) 8 (p.off + j) = (s.localByte (p.va + j)).toNat := by
  have on := placed.active p mem j lt
  have lane := BitVec.lt_of_getLsbD on
  have active : elemActive gm 8 (p.off + j) = true := by
    rw [elemActive, bit_toNat, show 8 * (p.off + j) / 32 = (p.off + j) / 4 by omega, on]
  rw [elem_mask _ _ _ _ (.inr (.inr rfl)) (by omega), if_pos active, s.gather_byte mem lt (by omega) (placed.apart p mem j lt)]

/-! ### Where a vector load faults (R163, R229) -/

section
variable {s : State} {parts : List FarPart}

theorem State.partsFault_window (inside : ∀ p ∈ parts, p.va + p.n ≤ winSize s.core.pool) : s.partsFault parts = none := by
  have none_beyond : parts.find? (fun p => s.core.win < p.va + p.n) = none :=
    List.find?_eq_none.2 fun p mem => by
      rw [decide_eq_true_iff]; exact Nat.not_lt.2 (inside p mem)
  rw [State.partsFault, none_beyond]

theorem State.inAperture_of_loads {a n : Nat} (beyond : winSize s.core.pool < a + n) (loads : Claims.Loads s a n) : s.inAperture a n = true := by
  obtain ⟨low, high, -⟩ := loads.resolve_left (Nat.not_le.2 beyond)
  simp only [State.inAperture, Bool.and_eq_true, decide_eq_true_iff]
  exact ⟨low, high⟩

theorem State.partsFault_tiles (tiles : ∀ p ∈ parts, winSize s.core.pool < p.va + p.n ∧ Claims.Loads s p.va p.n) :
    s.partsFault parts = none := by
  have within : parts.all (fun p => s.inAperture p.va p.n) = true :=
    List.all_eq_true.2 fun p mem => State.inAperture_of_loads (tiles p mem).1 (tiles p mem).2
  rw [State.partsFault]
  split
  · rfl
  · rw [if_pos within]
    exact List.findSome?_eq_none_iff.2 fun p mem => State.localFault_loads (tiles p mem).2

/-- An access that ends in the window does not lie in the aperture above it. -/
theorem State.inAperture_window {a n : Nat} (inside : a + n ≤ winSize s.core.pool) : s.inAperture a n = false := by
  have low := winSize_le s.core.pool
  rw [State.inAperture, Bool.and_eq_false_iff, decide_eq_false_iff_not]
  exact .inl (by rw [tileBase]; omega)

theorem State.partsFault_crosses (inside : ∃ p ∈ parts, p.va + p.n ≤ winSize s.core.pool)
    (beyond : ∃ p ∈ parts, winSize s.core.pool < p.va + p.n) : ∃ v, s.partsFault parts = some (9, v) := by
  obtain ⟨p, mem, window⟩ := inside
  obtain ⟨q, memq, past⟩ := beyond
  have some_outside : ¬ parts.all (fun p => s.inAperture p.va p.n) = true := fun within => by
    have tile := List.all_eq_true.1 within p mem
    rw [State.inAperture_window window] at tile
    cases tile
  rw [State.partsFault]
  split
  · next none_beyond => exact absurd (decide_eq_true past) (List.find?_eq_none.1 none_beyond q memq)
  · rw [if_neg some_outside]
    exact ⟨_, rfl⟩

end

/-! ### Vector loads (R162, R163) -/

section
variable {s : State} {h : Hdr} {us : List RegUse} {mask : State → Word} {ps : State → List FarPart} {v : State → Option VReg} {d : Nat}
  {gm : Word} {parts : List FarPart} {eff : State → Eff} {go bump : State → State}

/-- A load that performs; `go` is the update of its base register, if it has one. -/
theorem vecRun_load (c : s.Clear h us) (he : eff s = vecLoad h s d gm parts go) (hgo : ∀ t, t.strm.upsets = [] → go t = bump t)
    (placed : Placed gm parts) (clean : ∀ p ∈ parts, s.core.poisoned p.va p.n = false) (free : s.acquiring = false)
    (reached : (∀ p ∈ parts, p.va + p.n ≤ winSize s.core.pool) ∨
      ∀ p ∈ parts, winSize s.core.pool < p.va + p.n ∧ Claims.Loads s p.va p.n) :
    ∃ r : VReg, vecRun h us mask ps v s eff = .next (((bump (s.queues (s.resultV1 h gm (.v d) (laneBits gm) r 8 0 .none))).stallFor
        (parts.map fun p => (p.va, p.n))).spends (addedCycles true h.prot)) ∧
      ∀ p ∈ parts, ∀ j, j < p.n → elem r 8 (p.off + j) = (s.localByte (p.va + j)).toNat := by
  have unfaulted : s.partsFault parts = none := reached.elim State.partsFault_window State.partsFault_tiles
  have unpoisoned : (parts.any fun p => s.core.poisoned p.va p.n) = false := List.any_eq_false.2 fun p mem => by simp [clean p mem]
  refine ⟨s.gather parts &&& laneBits gm, vecRun_ok c (he.trans ?_), fun p mem j lt => placed.elem_gather s mem lt⟩
  simp only [vecLoad, unfaulted, free, unpoisoned, Bool.false_eq_true, if_false]
  rw [State.resV_clean c.upsets, hgo (s.queues _) c.upsets]
  rfl

/-- A load that lies in the window with some of its parts alone performs nothing. -/
theorem vecRun_load_crosses (c : s.Clear h us) (he : eff s = vecLoad h s d gm parts go)
    (inside : ∃ p ∈ parts, p.va + p.n ≤ winSize s.core.pool) (beyond : ∃ p ∈ parts, winSize s.core.pool < p.va + p.n) :
    ∃ val, vecRun h us mask ps v s eff = .next (s.takeTrap 9 val false h.slot h.prot false) := by
  obtain ⟨val, fault⟩ := State.partsFault_crosses inside beyond
  refine ⟨val, vecRun_trap c (he.trans ?_)⟩
  simp only [vecLoad, fault]

end

theorem vectorLoads : Claims.VectorLoads := by
  refine ⟨fun h o s c => ?vld, fun h o s c => ?vlds, fun h o s c => ?vldx⟩
  case vld => exact ⟨vecRun_load c rfl (fun t clean => State.postInc_clean clean ..) (placed_whole _), vecRun_load_crosses c rfl⟩
  case vlds =>
    rw [← State.strideParts_eq]
    exact ⟨vecRun_load c rfl (fun _ _ => rfl) (placed_strideParts ..), vecRun_load_crosses c rfl⟩
  case vldx =>
    rw [← State.indexParts_eq]
    exact ⟨vecRun_load c rfl (fun _ _ => rfl) (placed_indexParts ..), vecRun_load_crosses c rfl⟩

/-! ### Vector stores (R162 to R164) -/

section
variable {s : State} {v : VReg} {parts : List FarPart}

theorem State.writeParts_plain (plain : s.specSlot = none) (up : s.strm.upsets = []) : (s.writeParts v parts).isSome := by
  induction parts generalizing s with
  | nil => rfl
  | cons p ps ih =>
    obtain ⟨t, written⟩ := State.localWrite_room (a := p.va) (bs := partBytes v p) (.inl plain)
    obtain ⟨same, slot, -⟩ := State.localWrite_spec up written
    simp only [State.writeParts, written]
    exact ih (slot.trans plain) (same.strm ▸ up)

/-- A store that performs; `go` is the update of its base register, if it has one. -/
theorem vecRun_store {h : Hdr} {us : List RegUse} {mask : State → Word} {ps : State → List FarPart} {vs : State → Option VReg}
    {eff : State → Eff} {go bump : State → State} (c : s.Clear h us) (he : eff s = vecStore s v parts go)
    (hgo : ∀ t, t.strm.upsets = [] → go t = bump t) (inside : ∀ p ∈ parts, p.va + p.n ≤ winSize s.core.pool) (free : s.acquiring = false)
    (room : s.specSlot = none ∨ (s.writeParts v parts).isSome) :
    ∃ u : State, vecRun h us mask ps vs s eff =
        .next (((bump u).stallFor (parts.map fun p => (p.va, p.n))).spends (addedCycles true h.prot)) ∧ s.SameButLocal u ∧
      ∀ a, u.localByte a = match (parts.filter fun p => p.va ≤ a && a < p.va + p.n).getLast? with
        | some p => BitVec.ofNat 8 (v.toNat / 256 ^ (p.off + (a - p.va)))
        | none => s.localByte a := by
  obtain ⟨u, written⟩ := Option.isSome_iff_exists.1 (room.elim (State.writeParts_plain · c.upsets) id)
  obtain ⟨same, -, bytes⟩ := State.writeParts_spec c.upsets written
  have unfaulted : parts.findSome? (fun p => s.localFault p.va p.n false) = none :=
    List.findSome?_eq_none_iff.2 fun p mem => State.localFault_window (inside p mem) false
  refine ⟨u, vecRun_ok c (he.trans ?_), same, bytes⟩
  simp only [vecStore, unfaulted, free, written, Bool.false_eq_true, if_false]
  rw [hgo u (same.strm ▸ c.upsets)]

end

theorem vectorStores : Claims.VectorStores := by
  refine ⟨fun h o s c => ?vst, fun h o s c => ?vsts, fun h o s c => ?vstx⟩
  case vst => exact vecRun_store c rfl fun t clean => State.postInc_clean clean ..
  case vsts =>
    rw [← State.strideParts_eq]
    exact vecRun_store c rfl fun _ _ => rfl
  case vstx =>
    rw [← State.indexParts_eq]
    exact vecRun_store c rfl fun _ _ => rfl

/-- Settles O43: a load whose parts do not fault gathers their bytes in its active lanes (`Placed.elem_gather`), one whose parts lie on both
sides of the window's end faults, and a store writes its parts in order (`State.writeParts_spec`). -/
theorem vectorLocalAccesses : Obligations.VectorLocalAccesses := ⟨vectorLoads, vectorStores⟩

end Sys2Proof.Machine
end

section
/-! SUPPORT. Streams, cores and sparse maps by their keys: what a read finds after a write, and the steps that leave every stream and every
core as it is. -/

namespace Sys2Proof.Machine

/-! ### Several keys of a map -/

namespace SMap

/-- A map whose values are all changed by one function. -/
theorem get_map {α β : Type} {d : α} (f : α → β) (m : SMap α) (i : Nat) : get (f d) i (m.map fun (n, v) => (n, f v)) = f (get d i m) := by
  induction m with
  | nil => rfl
  | cons e m ih =>
    obtain ⟨j, v⟩ := e
    by_cases eq : j = i <;> simp [get, eq, ih]

variable {α : Type} [DecidableEq α] {d : α}

/-- Keys that writes do not name keep their value. -/
theorem get_foldl_set_of_notMem {i : Nat} {kvs : List (Nat × α)} (notMem : i ∉ kvs.map Prod.fst) (m : SMap α) :
    get d i (kvs.foldl (fun m e => set d e.1 e.2 m) m) = get d i m := by
  induction kvs generalizing m with
  | nil => rfl
  | cons e kvs ih =>
    rw [List.map_cons, List.mem_cons, not_or] at notMem
    rw [List.foldl_cons, ih notMem.2, get_set_ne _ _ _ notMem.1]

/-- A key that writes name once reads as what they write to it. -/
theorem get_foldl_set_of_mem {i : Nat} {v : α} {kvs : List (Nat × α)} (once : (kvs.map Prod.fst).Nodup) (mem : (i, v) ∈ kvs) (m : SMap α) :
    get d i (kvs.foldl (fun m e => set d e.1 e.2 m) m) = v := by
  induction kvs generalizing m with
  | nil => cases mem
  | cons e kvs ih =>
    rw [List.map_cons, List.nodup_cons] at once
    rw [List.foldl_cons]
    rcases List.mem_cons.1 mem with rfl | mem
    · rw [get_foldl_set_of_notMem once.1, get_set_self]
    · exact ih once.2 mem _

/-- Every listed key is updated from its own value. -/
theorem get_foldl_update (f : Nat → α → α) {ks : List Nat} (once : ks.Nodup) (m : SMap α) (i : Nat) :
    get d i (ks.foldl (fun m k => set d k (f k (get d k m)) m) m) = if i ∈ ks then f i (get d i m) else get d i m := by
  induction ks generalizing m with
  | nil => rfl
  | cons k ks ih =>
    rw [List.nodup_cons] at once
    rw [List.foldl_cons, ih once.2, get_set]
    by_cases eq : i = k
    · subst eq; simp [once.1]
    · simp [eq]

end SMap

/-! ### Reads after writes -/

section
variable (s : State) (k sid : Nat) (c : Core) (x : Stream) (f : Core → Core) (g : Stream → Stream)

@[simp] theorem State.coreOf_putCore_self : (s.putCore k c).coreOf k = c := by
  by_cases own : k = s.ck
  · simp only [State.putCore, if_pos own]; exact if_pos own
  · simp only [State.putCore, if_neg own]; exact (if_neg own).trans (SMap.get_set_self ..)

@[simp] theorem State.strmOf_putStrm_self : (s.putStrm sid x).strmOf sid = x := by
  by_cases own : sid = s.sid
  · simp only [State.putStrm, if_pos own]; exact if_pos own
  · simp only [State.putStrm, if_neg own]; exact (if_neg own).trans (SMap.get_set_self ..)

@[simp] theorem State.strmOf_putCore : (s.putCore k c).strmOf sid = s.strmOf sid := by unfold State.putCore; split <;> rfl
@[simp] theorem State.coreOf_putStrm : (s.putStrm sid x).coreOf k = s.coreOf k := by unfold State.putStrm; split <;> rfl
@[simp] theorem State.coreOf_modCore_self : (s.modCore k f).coreOf k = f (s.coreOf k) := State.coreOf_putCore_self ..
@[simp] theorem State.strmOf_modCore : (s.modCore k f).strmOf sid = s.strmOf sid := State.strmOf_putCore ..
@[simp] theorem State.strmOf_modStrm_self : (s.modStrm sid g).strmOf sid = g (s.strmOf sid) := State.strmOf_putStrm_self ..
@[simp] theorem State.coreOf_modStrm : (s.modStrm sid g).coreOf k = s.coreOf k := State.coreOf_putStrm ..

@[simp] theorem State.sys_putCore : (s.putCore k c).sys = s.sys := by unfold State.putCore; split <;> rfl
@[simp] theorem State.sys_putStrm : (s.putStrm sid x).sys = s.sys := by unfold State.putStrm; split <;> rfl

end

/-! ### Steps that change nothing but what the domain holds -/

/-- Every stream and every core of `t` is as in `s`. -/
def State.SameButSys (s t : State) : Prop := t = { s with sys := t.sys }

namespace State.SameButSys

variable {s t u : State}

theorem refl (s : State) : s.SameButSys s := rfl

theorem trans (st : s.SameButSys t) (tu : t.SameButSys u) : s.SameButSys u := by
  rw [State.SameButSys] at st tu ⊢
  rw [tu, st]

theorem foldl {α : Type} {f : State → α → State} (step : ∀ (t : State) a, t.SameButSys (f t a)) (l : List α) (s : State) :
    s.SameButSys (l.foldl f s) := by
  induction l generalizing s with
  | nil => exact refl s
  | cons a l ih => exact (step s a).trans (ih _)

theorem coreOf (same : s.SameButSys t) (k : Nat) : t.coreOf k = s.coreOf k := by rw [same]; rfl
theorem strmOf (same : s.SameButSys t) (sid : Nat) : t.strmOf sid = s.strmOf sid := by rw [same]; rfl

end State.SameButSys

theorem State.sameButSys_modDie (s : State) (r : Nat) (f : Die → Die) : s.SameButSys (s.modDie r f) := by
  unfold State.SameButSys State.modDie State.putDie; rfl
theorem State.sameButSys_modPkg (s : State) (p : Nat) (f : Pkg → Pkg) : s.SameButSys (s.modPkg p f) := by
  unfold State.SameButSys State.modPkg State.putPkg; rfl

theorem State.sameButSys_ptwDone (s : State) (sid : Nat) : s.SameButSys (s.ptwDone sid) := by
  unfold State.ptwDone
  split <;> rfl

theorem State.sameButSys_unpin (s : State) (pkg vdev va : Nat) : s.SameButSys (s.unpin pkg vdev va) := by
  unfold State.unpin
  dsimp only
  split
  · exact s.sameButSys_modDie _ _
  · exact .refl s

theorem State.sameButSys_unpinAll (s : State) (pkg : Nat) (ps : List (Nat × Nat)) : s.SameButSys (s.unpinAll pkg ps) := by
  unfold State.unpinAll
  exact .foldl (fun t ⟨v, a⟩ => t.sameButSys_unpin pkg v a) ps s

theorem State.sameButSys_markDirty (s : State) (lk va : Nat) : s.SameButSys (s.markDirty lk va) := by
  unfold State.markDirty
  split
  · split <;> rfl
  · rfl

theorem State.sameButSys_markDevDirty (s : State) (pkg vdev va : Nat) : s.SameButSys (s.markDevDirty pkg vdev va) := by
  unfold State.markDevDirty
  split <;> rfl

end Sys2Proof.Machine
end

section
/-! SUPPORT. The values at reset (07 R170, 08 R225, 20 R456, 22 R476, 23 R499, R500), and O29. -/

namespace Sys2Proof.Machine

theorem dieOf_reset (r : Nat) : State.reset.dieOf r = Die.reset := rfl
theorem pkgOf_reset (p : Nat) : State.reset.pkgOf p = Pkg.reset := rfl
theorem vdevOf_reset (p v : Nat) : State.reset.vdevOf p v = Vdev.reset := by rw [State.vdevOf, pkgOf_reset]; rfl

theorem coreOf_reset (k : Nat) : State.reset.coreOf k = Core.reset := by
  unfold State.coreOf
  split <;> rfl

theorem strmOf_reset (sid : Nat) : State.reset.strmOf sid = Stream.blank sid := by
  unfold State.strmOf
  split
  · next own => rw [own]; rfl
  · rfl

/-- Settles O29: at reset every die, package, virtual device, core and stream is the one that its type names as its reset value. -/
theorem resetState : Obligations.ResetState := by
  refine ⟨fun r => ?_, fun p v => ?_, fun k => ?_⟩
  · rw [dieOf_reset]
    exact ⟨rfl, rfl, rfl, rfl, fun c => rfl⟩
  · rw [pkgOf_reset, vdevOf_reset]
    exact ⟨rfl, rfl, rfl, rfl, rfl, rfl, rfl, fun q => ⟨rfl, rfl, rfl⟩⟩
  · rw [coreOf_reset, strmOf_reset]
    exact ⟨rfl, rfl⟩

end Sys2Proof.Machine
end

section
/-! SUPPORT. The firmware's share and the replacement of images (07 R170, 23 R502 to R508, 25 R517), and O19. -/

namespace Sys2Proof.Machine

theorem bit_zero (w : Nat) : bit w 0 = decide (w % 2 = 1) := by rw [bit_eq, Nat.testBit_zero]

/-! ### The share window and the budget (R170, R502, R503) -/

theorem exec_fwShareWindow_begins {s : State} {k : Nat} (window : (s.coreOf k).ac % 64 = 0) (first : (s.coreOf k).fwWin ≠ (s.coreOf k).ac) :
    exec (.fwShareWindow k) s = .next (s.putCore k { s.coreOf k with fwUsed := 0, fwWin := (s.coreOf k).ac }) := by
  rw [exec_fwShareWindow, execFwShareWindow, if_pos (by simp [window, first])]

theorem exec_fwShareWindow_idle {s : State} {k : Nat} (h : (s.coreOf k).ac % 64 ≠ 0 ∨ (s.coreOf k).fwWin = (s.coreOf k).ac) :
    exec (.fwShareWindow k) s = .next s := by
  rw [exec_fwShareWindow, execFwShareWindow, if_neg (by rcases h with h | h <;> simp [h])]

theorem exec_fwWatchdogExpiry_fails {s : State} {k : Nat} (probation : (s.coreOf k).fwst = .probation) (past : (s.coreOf k).fwDue < s.sys.dc) :
    exec (.fwWatchdogExpiry k) s = .next (s.fwFail k) := by
  rw [exec_fwWatchdogExpiry, execFwWatchdogExpiry, if_pos (by simp [probation, past])]

theorem exec_fwWatchdogExpiry_idle {s : State} {k : Nat} (h : (s.coreOf k).fwst ≠ .probation ∨ s.sys.dc ≤ (s.coreOf k).fwDue) :
    exec (.fwWatchdogExpiry k) s = .next s := by
  rw [exec_fwWatchdogExpiry, execFwWatchdogExpiry, if_neg (by rcases h with h | h <;> simp [h])]

/-- The failure of a context in probation. -/
theorem State.fwFail_probation {s : State} {k : Nat} (probation : (s.coreOf k).fwst = .probation) :
    s.fwFail k = ((s.modStrm (sidOf k 8) fun x => { x with run := .failed }).putCore k { s.coreOf k with fwst := .reverted }).modDie
      (rankOfCore k) fun d => { d with fwsst := SMap.set 0 (coreInDie k) 3 d.fwsst } := by
  rw [State.fwFail]
  dsimp only
  rw [if_pos (by simp [probation])]

theorem State.run_fwFail_probation {s : State} {k : Nat} (probation : (s.coreOf k).fwst = .probation) :
    ((s.fwFail k).strmOf (sidOf k 8)).run = .failed := by
  rw [State.fwFail_probation probation, (State.sameButSys_modDie ..).strmOf, State.strmOf_putCore, State.strmOf_modStrm_self]

theorem State.coreOf_fwFail_probation {s : State} {k : Nat} (probation : (s.coreOf k).fwst = .probation) :
    (s.fwFail k).coreOf k = { s.coreOf k with fwst := .reverted } := by
  rw [State.fwFail_probation probation, (State.sameButSys_modDie ..).coreOf, State.coreOf_putCore_self]

/-! ### Commit (R505) -/

/-- Whether every working context of the armed dies of a die's package shows itself alive. -/
def State.armedAlive (s : State) (die : Nat) : Bool := [0, 1, 2, 3].all fun i =>
  let r := die / 4 * 4 + i
  !(bit (s.dieOf r).fwstby.toNat 0) || (coresOfDie r).all fun k => !(bit (s.pkgOf (die / 4)).working (coreInPkg k)) || (s.coreOf k).fwst = .alive

theorem State.armedAlive_of {s : State} {die : Nat} (alive : ∀ r, r / 4 = die / 4 → (s.dieOf r).fwstby.toNat % 2 = 1 →
    ∀ k ∈ coresOfDie r, bit (s.pkgOf (die / 4)).working (coreInPkg k) = true → (s.coreOf k).fwst = .alive) : s.armedAlive die = true := by
  refine List.all_eq_true.2 fun i mem => ?_
  have lt : i < 4 := by revert i; decide
  have ofPkg := alive (die / 4 * 4 + i) (by omega)
  by_cases armed : (s.dieOf (die / 4 * 4 + i)).fwstby.toNat % 2 = 1
  · simp only [bit_zero, armed, decide_true, Bool.not_true, Bool.false_or, List.all_eq_true, Bool.or_eq_true, Bool.not_eq_true']
    intro k mem
    cases working : bit (s.pkgOf (die / 4)).working (coreInPkg k)
    · exact .inl rfl
    · exact .inr (decide_eq_true (ofPkg armed k mem working))
  · simp only [bit_zero, armed, decide_false, Bool.not_false, Bool.true_or]

theorem exec_fwCommit_eq (die : Nat) (s : State) : exec (.fwCommit die) s = .next
    (if !(bit (s.dieOf die).fwstby.toNat 0) || !(s.armedAlive die) || (s.dieOf die).armedAt + 0x40000000 < s.sys.dc then s
      else (s.swapped die).foldl (fun t k => (t.modCore k Core.settled).fwDeliver k)
        ((s.putDie die (s.dieOf die).disarmed).modPkg (die / 4) fun p => p.runs 2 ((s.dieOf die).fwsent.toNat / 0x100000000))) := rfl

theorem exec_fwCommit_idle {s : State} {die : Nat} (h : (s.dieOf die).fwstby.toNat % 2 = 0 ∨ (s.dieOf die).armedAt + 2 ^ 30 < s.sys.dc) :
    exec (.fwCommit die) s = .next s := by
  rw [exec_fwCommit_eq, if_pos]
  rcases h with unarmed | late
  · simp [bit_zero, unarmed]
  · simp [show (s.dieOf die).armedAt + 0x40000000 < s.sys.dc from late]

theorem exec_fwCommit_armed {s : State} {die : Nat} (armed : (s.dieOf die).fwstby.toNat % 2 = 1)
    (inTime : s.sys.dc ≤ (s.dieOf die).armedAt + 2 ^ 30) (alive : s.armedAlive die = true) : exec (.fwCommit die) s = .next
      ((s.swapped die).foldl (fun t k => (t.modCore k Core.settled).fwDeliver k)
        ((s.putDie die (s.dieOf die).disarmed).modPkg (die / 4) fun p => p.runs 2 ((s.dieOf die).fwsent.toNat / 0x100000000))) := by
  rw [exec_fwCommit_eq, if_neg]
  simp [bit_zero, armed, alive, show s.sys.dc ≤ (s.dieOf die).armedAt + 0x40000000 from inTime]

theorem Die.disarmed_fwstby (d : Die) : d.disarmed.fwstby.getLsbD 0 = false := by
  rw [Die.disarmed, BitVec.getLsbD_and, BitVec.getLsbD_not]
  simp

/-! ### Revert (R505) -/

/-- The context that a core's shadow holds, resumed after its FWSWAP. -/
def State.shadowResumed (s : State) (k : Nat) (x : Stream) : Stream :=
  let c := s.coreOf k
  let now := (s.ptwDone (sidOf k 8)).strmOf (sidOf k 8)
  { x with
    run := .running, fwrev := c.fwOldRev, p := if c.fwPd = 0 then x.p else SMap.set false c.fwPd false x.p, cyc := now.cyc
    acAt := some c.ac, upsets := now.upsets, icnt := x.icnt + 1, fresh := false }

theorem State.revertCore_shadow {s : State} {k : Nat} {x : Stream} (shadow : (s.coreOf k).fwShadow = some x) : s.revertCore k =
    (((s.ptwDone (sidOf k 8)).putStrm (sidOf k 8) (s.shadowResumed k x)).putCore k
      { s.coreOf k with fwCode := (s.coreOf k).fwOldCode, fwLen := (s.coreOf k).fwOldLen }).modCore k Core.settled := by
  simp only [State.revertCore, shadow]
  rfl

theorem State.coreOf_revertCore {s : State} {k : Nat} {x : Stream} (shadow : (s.coreOf k).fwShadow = some x) : (s.revertCore k).coreOf k =
    Core.settled { s.coreOf k with fwCode := (s.coreOf k).fwOldCode, fwLen := (s.coreOf k).fwOldLen } := by
  rw [State.revertCore_shadow shadow, State.coreOf_modCore_self, State.coreOf_putCore_self]

theorem State.strmOf_revertCore {s : State} {k : Nat} {x : Stream} (shadow : (s.coreOf k).fwShadow = some x) :
    (s.revertCore k).strmOf (sidOf k 8) = s.shadowResumed k x := by
  rw [State.revertCore_shadow shadow, State.strmOf_modCore, State.strmOf_putCore, State.strmOf_putStrm_self]

/-- Whether the deadline of an armed die of a package has passed. -/
def State.commitLate (s : State) (pkg : Nat) : Bool := ([0, 1, 2, 3].map (4 * pkg + ·)).any fun r =>
  bit (s.dieOf r).fwstby.toNat 0 && (s.dieOf r).armedAt + 0x40000000 < s.sys.dc

theorem State.commitLate_eq (s : State) (pkg : Nat) : s.commitLate pkg = [0, 1, 2, 3].any fun i =>
    bit (s.dieOf (4 * pkg + i)).fwstby.toNat 0 && decide ((s.dieOf (4 * pkg + i)).armedAt + 2 ^ 30 < s.sys.dc) := by
  rw [State.commitLate, List.any_map]
  rfl

theorem exec_commitDeadlineExpiry_eq (pkg : Nat) (s : State) : exec (.commitDeadlineExpiry pkg) s = .next
    (if s.commitLate pkg && !(s.allAlive pkg) then ([0, 1, 2, 3].map (4 * pkg + ·)).foldl State.revertDie s else s) := rfl

/-! ### Other controllers and accepted images (R508, R517) -/

/-- An image of a class that the package accepts as far as its SVN goes. -/
theorem Pkg.admits_iff (p : Pkg) (cls ident : Nat) : p.admits cls ident = true ↔
    ∀ x ∈ p.images, x.1 = cls → x.2.2.1 = ident → SMap.get 0 cls p.minSvn ≤ x.2.1 := by
  simp only [Pkg.admits, List.all_eq_true]
  refine forall₂_congr fun x _ => ?_
  by_cases ofClass : x.1 = cls <;> by_cases named : x.2.2.1 = ident <;> simp [ofClass, named]

theorem exec_controllerReplacement_accepted (ctl : Controller) {die ident : Nat} {s : State}
    (admits : (s.pkgOf (die / 4)).admits (controllerCls ctl) ident = true) : exec (.controllerReplacement ctl die ident true) s = .next
      (let put := s.modPkg (die / 4) fun p => p.runs (controllerCls ctl) ident
       match ctl with
       | .wheel => put.modDie die fun d => { d with wheelImg := ident }
       | .fabricManager => put.modDie die fun d => { d with fmImg := ident }
       | .mc => put) := by
  rw [exec_controllerReplacement, execControllerReplacement, if_neg (by simp [admits])]
  cases ctl <;> rfl

theorem exec_controllerReplacement_refused (ctl : Controller) {die ident : Nat} {s : State}
    (refuses : ¬ (s.pkgOf (die / 4)).admits (controllerCls ctl) ident = true) : exec (.controllerReplacement ctl die ident true) s = .next s := by
  rw [exec_controllerReplacement, execControllerReplacement, if_pos (by simp [refuses])]

/-- An accepted image: it is the class's running one, and the class's minimum SVN rises to its own. -/
theorem Pkg.runs_spec {p : Pkg} {cls ident : Nat} (listed : ∃ x ∈ p.images, x.1 = cls ∧ x.2.2.1 = ident) : ∃ svn, p.runs cls ident = { p with
    images := p.images.map fun (c, v, i, st) => (c, v, i, if c = cls then (if i = ident then 1 else if st = 1 then 2 else st) else st)
    minSvn := SMap.set 0 cls (max svn (SMap.get 0 cls p.minSvn)) p.minSvn } := by
  rw [Pkg.runs]
  cases found : p.images.find? fun (c, _, i, _) => c = cls && i = ident with
  | none =>
    obtain ⟨x, mem, ofClass, named⟩ := listed
    have := List.find?_eq_none.1 found x mem
    simp [ofClass, named] at this
  | some image => exact ⟨image.2.1, rfl⟩

theorem Pkg.runs_image {p : Pkg} {cls ident : Nat} (listed : ∃ x ∈ p.images, x.1 = cls ∧ x.2.2.1 = ident) :
    ∀ x ∈ (p.runs cls ident).images, x.1 = cls → x.2.2.1 = ident → x.2.2.2 = 1 := by
  obtain ⟨svn, runs⟩ := Pkg.runs_spec listed
  rw [runs]
  rintro x mem ofClass named
  obtain ⟨⟨c, v, i, st⟩, -, rfl⟩ := List.mem_map.1 mem
  simp only at ofClass named ⊢
  rw [if_pos ofClass, if_pos named]

theorem Pkg.runs_minSvn {p : Pkg} {cls ident : Nat} (listed : ∃ x ∈ p.images, x.1 = cls ∧ x.2.2.1 = ident) :
    SMap.get 0 cls p.minSvn ≤ SMap.get 0 cls (p.runs cls ident).minSvn := by
  obtain ⟨svn, runs⟩ := Pkg.runs_spec listed
  rw [runs, SMap.get_set_self]
  exact Nat.le_max_right ..

/-- Settles O19: each event answers `next` with its effect where its condition holds and with the state itself where it does not; what
failure, revert and an accepted image leave behind are `fwFail_probation`, `revertCore_shadow` and `Pkg.runs_spec`. -/
theorem firmwareEvents : Obligations.FirmwareEvents := by
  refine ⟨fun s k => ⟨exec_fwShareWindow_begins, exec_fwShareWindow_idle⟩,
    fun s k => ⟨fun probation past => ?fails, exec_fwWatchdogExpiry_idle⟩,
    fun s die => exec_fwCommit_idle, fun s die armed inTime alive => exec_fwCommit_armed armed inTime (State.armedAlive_of alive),
    fun c => ⟨rfl, rfl, rfl, rfl, rfl⟩, fun d => ⟨d.disarmed_fwstby, rfl, rfl⟩, fun s die => exec_fwRevert die s,
    fun s k x shadow => ?reverts, fun s pkg => ?deadline, fun ctl die ident s => ?dead, fun s die ident => ?replaces, fun p cls ident listed =>
      ⟨Pkg.runs_image listed, Pkg.runs_minSvn listed⟩⟩
  case fails =>
    refine ⟨_, exec_fwWatchdogExpiry_fails probation past, State.run_fwFail_probation probation, ?_⟩
    rw [State.coreOf_fwFail_probation probation]
    exact ⟨rfl, rfl⟩
  case reverts =>
    rw [State.coreOf_revertCore shadow, State.strmOf_revertCore shadow]
    exact ⟨rfl, rfl, rfl, rfl, rfl⟩
  case deadline =>
    rw [exec_commitDeadlineExpiry_eq, State.commitLate_eq]
    rfl
  case dead => rfl
  case replaces =>
    have accepted := fun ctl good => exec_controllerReplacement_accepted ctl ((Pkg.admits_iff (s.pkgOf (die / 4)) (controllerCls ctl) ident).2 good)
    exact ⟨accepted .wheel, accepted .fabricManager, accepted .mc,
      fun bad => exec_controllerReplacement_refused .wheel fun admits => bad ((Pkg.admits_iff _ _ _).1 admits)⟩

end Sys2Proof.Machine
end

section
/-! SUPPORT. Tasks (07 R176, R177, R184, R185, R188 to R191): their release, their retirement and KILN_DEADLOCK, and O56. -/

namespace Sys2Proof.Machine

/-! ### The order of release (R189, R191) -/

/-- Nothing about `z` brings it before `w` in the order of release. -/
def KEntry.NotBefore (z w : KEntry) : Prop := z.prio < w.prio ∨ (z.prio = w.prio ∧ w.age ≤ z.age)

theorem KEntry.before_eq_false_iff (z w : KEntry) : z.before w = false ↔ z.NotBefore w := by
  simp only [KEntry.before, KEntry.NotBefore, Bool.or_eq_false_iff, Bool.and_eq_false_iff, decide_eq_false_iff_not]
  omega

theorem KEntry.NotBefore.trans {x y z : KEntry} (xy : x.NotBefore y) (yz : y.NotBefore z) : x.NotBefore z := by
  simp only [KEntry.NotBefore] at *
  omega

theorem KEntry.notBefore_of_before {x y : KEntry} (h : y.before x = true) : x.NotBefore y := by
  simp only [KEntry.before, KEntry.NotBefore, Bool.or_eq_true, Bool.and_eq_true, decide_eq_true_eq] at *
  omega

theorem firstEntry_eq_none {l : List (Nat × KEntry)} (h : firstEntry l = none) : l = [] := by
  cases l with
  | nil => rfl
  | cons x xs =>
    rw [firstEntry] at h
    split at h
    · split at h <;> cases h
    · cases h

theorem firstEntry_spec {l : List (Nat × KEntry)} {w : Nat × KEntry} (first : firstEntry l = some w) :
    w ∈ l ∧ ∀ z ∈ l, z.2.NotBefore w.2 := by
  have self : ∀ x : KEntry, x.NotBefore x := fun x => .inr ⟨rfl, le_rfl⟩
  induction l generalizing w with
  | nil => cases first
  | cons x xs ih =>
    rw [firstEntry] at first
    cases rest : firstEntry xs with
    | none =>
      rw [rest] at first
      cases first
      rw [firstEntry_eq_none rest]
      exact ⟨List.mem_singleton_self _, fun z mem => by rw [List.mem_singleton.1 mem]; exact self _⟩
    | some y =>
      obtain ⟨mem, least⟩ := ih rest
      rw [rest] at first
      dsimp only at first
      cases before : y.2.before x.2 with
      | true =>
        rw [before, if_pos rfl] at first
        cases first
        exact ⟨List.mem_cons_of_mem _ mem, List.forall_mem_cons.2 ⟨KEntry.notBefore_of_before before, least⟩⟩
      | false =>
        rw [before, if_neg Bool.false_ne_true] at first
        cases first
        have yx := (KEntry.before_eq_false_iff _ _).1 before
        exact ⟨List.mem_cons_self, List.forall_mem_cons.2 ⟨self _, fun z m => (least z m).trans yx⟩⟩

/-! ### Release (R177, R189, R190) -/

theorem exec_taskRelease_eq (k : Nat) (s : State) : exec (.taskRelease k) s =
    .next (if (s.coreOf k).yreq || (s.coreOf k).parking || !(s.launchRuns (s.coreOf k).launch (rankOfCore k)) then s
      else (((s.releaseClass k 0).releaseClass k 1).releaseClass k 2).releaseClass k 3) := rfl

theorem exec_taskRelease_stands {s : State} {k : Nat} (h : (s.coreOf k).yreq = true ∨ (s.coreOf k).parking = true ∨
    s.launchRuns (s.coreOf k).launch (rankOfCore k) = false) : exec (.taskRelease k) s = .next s := by
  rw [exec_taskRelease_eq, if_pos]
  rcases h with h | h | h <;> simp [h]

theorem exec_taskRelease_releases {s : State} {k : Nat} (yreq : (s.coreOf k).yreq = false) (parking : (s.coreOf k).parking = false)
    (runs : s.launchRuns (s.coreOf k).launch (rankOfCore k) = true) :
    exec (.taskRelease k) s = .next ((((s.releaseClass k 0).releaseClass k 1).releaseClass k 2).releaseClass k 3) := by
  rw [exec_taskRelease_eq, if_neg]
  simp [yreq, parking, runs]

theorem State.releaseClass_again {s : State} {k kind : Nat} (already : optGet kind (s.coreOf k).relAc = some (s.coreOf k).ac) :
    s.releaseClass k kind = s := by
  rw [State.releaseClass, if_pos already]

theorem State.releaseClass_first {s : State} {k kind slot u : Nat} {e : KEntry} (new : optGet kind (s.coreOf k).relAc ≠ some (s.coreOf k).ac)
    (first : firstEntry (s.releasable k kind) = some (slot, e))
    (free : (kindUnits kind).find? (fun u => (s.strmOf (sidOf k u)).run = .off) = some u) :
    s.releaseClass k kind = (((s.releasable k kind).foldl (fun t z => if z.1 = slot then t else
      t.modCore k fun c => c.setEntry z.1 (some z.2.pass)) s).modCore k fun c =>
        { c with relAc := SMap.set none kind (some (s.coreOf k).ac) c.relAc }).startTask k slot u e := by
  rw [State.releaseClass, if_neg new]
  simp only [first, free]

/-- The window of a core in which a unit takes a new task: an entry that the unit's last task left draining keeps the flags of its
stream (R225). -/
def State.windowAtStart (s : State) (k slot u : Nat) : SMap (Option KEntry) :=
  let keep : Nat → KEntry → KEntry := fun n y =>
    if n != slot && u ≥ 5 && y.seq = s.taskSeq (sidOf k u) && y.state = .draining then { y with flags := y.flags ||| (s.strmOf (sidOf k u)).fcsr }
    else y
  (s.coreOf k).window.map fun (n, o) => (n, o.map (keep n))

/-- Release enters the task in the window and starts its stream; beyond that only pages become dirty. -/
theorem State.startTask_sameButSys (s : State) (k slot u : Nat) (e : KEntry) :
    State.SameButSys ((s.putCore k (Core.setEntry { s.coreOf k with window := s.windowAtStart k slot u } slot
      (some { e with state := .running, unit := some u }))).putStrm (sidOf k u)
        ((s.strmOf (sidOf k u)).taskStart e slot (SMap.get 0 (recKind e.words) (s.coreOf k).kmodes))) (s.startTask k slot u e) := by
  unfold State.startTask
  exact .foldl (fun t ⟨v, a⟩ => (t.sameButSys_markDirty _ a).trans (State.sameButSys_markDevDirty _ _ v a)) _ _

theorem State.entry_startTask (s : State) (k slot u : Nat) (e : KEntry) :
    ((s.startTask k slot u e).coreOf k).entry slot = some { e with state := .running, unit := some u } := by
  rw [(s.startTask_sameButSys k slot u e).coreOf, State.coreOf_putStrm, State.coreOf_putCore_self, Core.entry_setEntry]

theorem State.strmOf_startTask (s : State) (k slot u : Nat) (e : KEntry) : (s.startTask k slot u e).strmOf (sidOf k u) =
    (s.strmOf (sidOf k u)).taskStart e slot (SMap.get 0 (recKind e.words) (s.coreOf k).kmodes) := by
  rw [(s.startTask_sameButSys k slot u e).strmOf, State.strmOf_putStrm_self]

/-- The g registers that the release of a task to a unit writes. -/
def KEntry.startRegs (e : KEntry) (slot unit : Nat) : List (Nat × Word) :=
  ((List.range 4).map fun i => (i, e.words.getD (4 + i) 0)) ++ (4, BitVec.ofNat 32 slot) ::
    if unit < 4 then [(5, BitVec.ofNat 32 e.tag), (6, BitVec.ofNat 32 unit)] else []

theorem KEntry.startRegs_nodup (e : KEntry) (slot unit : Nat) : ((e.startRegs slot unit).map Prod.fst).Nodup := by
  unfold KEntry.startRegs
  split <;> simp [List.range_succ]

theorem Stream.taskStart_g {x : Stream} {e : KEntry} {slot rm n : Nat} {v : Word} (mem : (n, v) ∈ e.startRegs slot x.unit) :
    SMap.get 0 n (x.taskStart e slot rm).g = v :=
  SMap.get_foldl_set_of_mem (e.startRegs_nodup slot x.unit) mem x.g

theorem taskRelease : Claims.TaskRelease := by
  refine ⟨fun s k => exec_taskRelease_stands, fun s k => exec_taskRelease_releases, fun s k kind ac clock => ?classes,
    fun l w => firstEntry_spec, fun s k slot u e unit own => ?starts⟩
  case classes =>
    subst clock
    exact ⟨State.releaseClass_again, fun slot e u => State.releaseClass_first⟩
  case starts =>
    dsimp only
    rw [s.entry_startTask, s.strmOf_startTask]
    refine ⟨rfl, rfl, rfl, fun i lt => Stream.taskStart_g ?_, Stream.taskStart_g ?_, fun part => ⟨Stream.taskStart_g ?_, Stream.taskStart_g ?_⟩,
      rfl, rfl, rfl, rfl, rfl, rfl⟩
    · exact List.mem_append_left _ (List.mem_map.2 ⟨i, List.mem_range.2 lt, rfl⟩)
    all_goals simp [KEntry.startRegs, *]

/-! ### Retirement (R176, R184, R185, R270) -/

section
variable {s : State} {k slot : Nat} {e : KEntry}

theorem exec_taskRetire_none (free : (s.coreOf k).entry slot = none) : exec (.taskRetire k slot) s = .next s := by
  rw [exec_taskRetire, execTaskRetire, free]

theorem exec_taskRetire_some (found : (s.coreOf k).entry slot = some e) : exec (.taskRetire k slot) s =
    if e.state = .ready && recKind e.words ≥ 4 && e.spec then
      .next (s.modCore k fun c => c.setEntry slot (some { e with state := .draining }))
    else if (e.state = .ready && recKind e.words ≥ 4) || (e.state = .draining && !e.spec && s.taskQuiet k e.seq) then
      .next (State.retire (if recKind e.words = 4 then (s.retireEngine k e).modCore k fun c =>
          { c with kmodes := SMap.set 0 ((e.words.getD 4 0).toNat % 4) ((e.words.getD 5 0).toNat % 8) c.kmodes }
        else s.retireEngine k e) k slot)
    else .next s := by
  rw [exec_taskRetire, execTaskRetire, found]

theorem exec_taskRetire_draining (found : (s.coreOf k).entry slot = some e) (draining : e.state = .draining) (plain : e.spec = false)
    (quiet : s.taskQuiet k e.seq = true) (kind : recKind e.words ≠ 4) :
    exec (.taskRetire k slot) s = .next ((s.retireEngine k e).retire k slot) := by
  rw [exec_taskRetire_some found, if_neg (by simp [draining]), if_pos (by simp [draining, plain, quiet]), if_neg kind]

theorem exec_taskRetire_marker (found : (s.coreOf k).entry slot = some e) (ready : e.state = .ready) (kind : 5 ≤ recKind e.words)
    (plain : e.spec = false) : exec (.taskRetire k slot) s = .next ((s.retireEngine k e).retire k slot) := by
  rw [exec_taskRetire_some found, if_neg (by simp [plain]), if_pos (by simp [ready]; omega), if_neg (by omega)]

theorem exec_taskRetire_modeChange (found : (s.coreOf k).entry slot = some e) (ready : e.state = .ready) (kind : recKind e.words = 4)
    (plain : e.spec = false) : exec (.taskRetire k slot) s = .next (((s.retireEngine k e).modCore k fun c =>
      { c with kmodes := SMap.set 0 ((e.words.getD 4 0).toNat % 4) ((e.words.getD 5 0).toNat % 8) c.kmodes }).retire k slot) := by
  rw [exec_taskRetire_some found, if_neg (by simp [plain]), if_pos (by simp [ready, kind]), if_pos kind]

theorem exec_taskRetire_stays (found : (s.coreOf k).entry slot = some e) (state : e.state = .waiting ∨ e.state = .running ∨ e.state = .held) :
    exec (.taskRetire k slot) s = .next s := by
  have unready : e.state ≠ .ready := by rintro h; simp [h] at state
  have undrained : e.state ≠ .draining := by rintro h; simp [h] at state
  rw [exec_taskRetire_some found, if_neg (by simp [unready]), if_neg (by simp [unready, undrained])]

end

/-- A core after an entry of its window has retired. -/
def Core.retired (c : Core) (slot : Nat) (e : KEntry) : Core :=
  let w3 := (e.words.getD 3 0).toNat
  { c.dropEntry slot with
    conePend := if bit w3 24 then c.conePend ++ [.add (w3 % 256) (w3 / 256 % 65536)] else c.conePend
    tagSet := if bit w3 31 then c.tagSet ||| (1 : BitVec 64) <<< (w3 / 2 ^ 25 % 64) else c.tagSet }

theorem State.coreOf_retire {s : State} {k slot : Nat} {e : KEntry} (found : (s.coreOf k).entry slot = some e) :
    (s.retire k slot).coreOf k = (s.coreOf k).retired slot e := by
  rw [State.retire]
  simp only [found]
  rw [(State.sameButSys_unpinAll ..).coreOf, State.coreOf_putCore_self]
  rfl

theorem Core.entry_dropEntry (c : Core) (slot n : Nat) : (c.dropEntry slot).entry n =
    if n = slot then none else (c.entry n).map fun x => { x with edges := x.edges.filter (· ≠ slot) } := by
  have mapped := SMap.get_map (d := none) (Option.map fun x : KEntry => { x with edges := x.edges.filter (· != slot) })
    (SMap.set none slot none c.window) n
  rw [SMap.get_set] at mapped
  refine Eq.trans mapped ?_
  split
  · rfl
  · simp only [Core.entry, ne_eq, decide_not]
    rfl

theorem Core.tagSet_retired (c : Core) (slot : Nat) (e : KEntry) (i : Nat) : (c.retired slot e).tagSet.getLsbD i =
    (c.tagSet.getLsbD i || ((e.words.getD 3 0).toNat.testBit 31 && decide ((e.words.getD 3 0).toNat / 2 ^ 25 % 64 = i))) := by
  simp only [Core.retired, bit_eq]
  split
  · next tagged =>
    rw [tagged, BitVec.getLsbD_or]
    refine congrArg _ ((BitVec.getLsbD_twoPow ..).trans ?_)
    rw [decide_eq_true (Nat.mod_lt _ (by decide))]
  · next untagged => rw [Bool.eq_false_iff.2 untagged, Bool.false_and, Bool.or_false]

/-! ### KILN_DEADLOCK (R188) -/

theorem exec_kilnDeadlock_eq (k : Nat) (s : State) : exec (.kilnDeadlock k) s =
    if !(s.kilnStuck k) then .next (if (s.coreOf k).deadlock = 0 then s else s.putCore k { s.coreOf k with deadlock := 0 })
    else if (s.coreOf k).deadlock = 0 then .next (s.putCore k { s.coreOf k with deadlock := s.sys.dc + 1 })
    else if s.sys.dc + 1 < (s.coreOf k).deadlock + 0x10000 then .next s
    else .next ((s.putCore k { s.coreOf k with deadlock := 2 ^ 128 }).fwQueue k
      ⟨4, 27, false, 0, (s.strmOf (sidOf k 4)).pos.packed, 0, none⟩) := rfl

theorem taskRetirement : Claims.TaskRetirement := by
  refine ⟨fun s k slot => exec_taskRetire_none, fun s k slot e found => ⟨exec_taskRetire_draining found, exec_taskRetire_marker found,
    fun ready kind plain => ⟨_, exec_taskRetire_modeChange found ready kind plain, ?mode⟩, exec_taskRetire_stays found⟩,
    fun s k slot e found => ?retires, fun s k => ?deadlock⟩
  case mode => rw [State.coreOf_modCore_self, SMap.get_set_self]
  case retires =>
    dsimp only
    rw [State.coreOf_retire found]
    refine ⟨(Core.entry_dropEntry ..).trans (if_pos rfl), fun n ne => (Core.entry_dropEntry ..).trans (if_neg ne), ?_,
      fun i _ => Core.tagSet_retired _ _ _ i, rfl⟩
    simp only [Core.retired, bit_eq]
  case deadlock =>
    rw [exec_kilnDeadlock_eq]
    refine ⟨fun free zero => ?_, fun free onset => ?_, fun stuck zero => ?_, fun stuck onset early => ?_, fun stuck onset due => ?_⟩
    · rw [free, zero]; rfl
    · rw [free, if_pos (by decide), if_neg onset]
    · rw [stuck, if_neg (by decide), if_pos zero]
    · rw [stuck, if_neg (by decide), if_neg onset, if_pos early]
    · rw [stuck, if_neg (by decide), if_neg onset, if_neg (Nat.not_lt.2 due)]

/-- Settles O56: the release order is `firstEntry_spec`, a released task's stream is `taskStart`, and a retirement leaves `Core.retired`. -/
theorem tasks : Obligations.Tasks := ⟨taskRelease, taskRetirement⟩

end Sys2Proof.Machine
end

section
/-! SUPPORT. Cones, copy tags, window queries, SETTAG, KMODE and YIELD (07 R192, R193, 08 R217 to R220, R222, R223, R226), and O51. -/

namespace Sys2Proof.Machine

section
variable {s : State} {h : Hdr} {us : List RegUse} {items : State → Items} {eff : State → Eff}

theorem runI_wait (c : s.Clear h us) (wait : eff s = .wait s) :
    runI h (markReads us) items s eff = .next (s.setLatch fun l => { l with wait := true }) := by
  rw [runI_clear c, wait]; rfl

theorem runI_resG {n lat : Nat} {v : Word} (c : s.Clear h us) (ok : eff s = .ok (s.resG h n v lat)) :
    runI h (markReads us) items s eff = .next (s.givesG h n v lat) := by
  rw [runI_ok c ok, State.resG_clean c.upsets]

theorem runI_resP {n lat : Nat} {v : Bool} (c : s.Clear h us) (ok : eff s = .ok (s.resP h n v lat)) :
    runI h (markReads us) items s eff = .next (s.givesP h n v lat) := by
  rw [runI_ok c ok, State.resP_clean c.upsets]

end

theorem State.resP_queues {s : State} (clean : s.strm.upsets = []) (h : Hdr) (n : Nat) (v : Bool) (lat : Nat) :
    s.resP h n v lat = s.queues (s.result1 h (.p n) (lowBits 1) (if v then 1 else 0) lat 0 .none) := State.result_clean clean ..

/-! ### One cone in one clock (R192, R193) -/

/-- The value that an update sets in a cone. -/
def ConeUpd.setTo (n : Nat) : ConeUpd → Option Nat
  | .set d x => if d = n then some (x % 65536) else none
  | .add _ _ => none

/-- What an update adds to a cone. -/
def ConeUpd.addTo (n : Nat) : ConeUpd → Option Nat
  | .add d x => if d = n then some (x % 65536) else none
  | .set _ _ => none

/-- The last CSET of a cone. -/
theorem foldl_setTo {n : Nat} {f : Option Nat → ConeUpd → Option Nat} (step : ∀ b u, f b u = (u.setTo n).or b) (ups : List ConeUpd)
    (b : Option Nat) : ups.foldl f b = (ups.filterMap (ConeUpd.setTo n)).getLast?.or b := by
  induction ups generalizing b with
  | nil => rfl
  | cons u ups ih =>
    rw [List.foldl_cons, ih, step, List.filterMap_cons]
    cases u.setTo n with
    | none => rfl
    | some x =>
      rw [List.getLast?_cons]
      cases (ups.filterMap (ConeUpd.setTo n)).getLast? <;> rfl

/-- The increments of a cone. -/
theorem natSum_addTo {n : Nat} {f : ConeUpd → Nat} (step : ∀ u, f u = (u.addTo n).getD 0) (ups : List ConeUpd) :
    natSum (ups.map f) = (ups.filterMap (ConeUpd.addTo n)).sum := by
  rw [natSum_eq_sum]
  induction ups with
  | nil => rfl
  | cons u ups ih =>
    rw [List.map_cons, List.sum_cons, ih, step, List.filterMap_cons]
    cases u.addTo n with
    | none => exact Nat.zero_add _
    | some x => exact List.sum_cons.symm

/-- The sum that a cone reaches in a clock, before it saturates. -/
def coneSum (ups : List ConeUpd) (n : Nat) (v : BitVec 17) : Nat :=
  (ups.filterMap (ConeUpd.setTo n)).getLast?.getD (v.toNat % 65536) + (ups.filterMap (ConeUpd.addTo n)).sum

/-- Whether the overflow bit of a cone is set after a clock. -/
def coneOver (ups : List ConeUpd) (n : Nat) (v : BitVec 17) : Bool :=
  ((ups.filterMap (ConeUpd.setTo n)).isEmpty && v.getLsbD 16) || decide (65535 < coneSum ups n v)

theorem coneTick_eq (ups : List ConeUpd) (n : Nat) (v : BitVec 17) :
    coneTick ups n v = BitVec.ofNat 17 (min (coneSum ups n v) 65535 + if coneOver ups n v then 65536 else 0) := by
  unfold coneTick
  dsimp only
  rw [foldl_setTo (n := n), natSum_addTo (n := n), Option.or_none]
  · unfold coneOver coneSum
    cases sets : ups.filterMap (ConeUpd.setTo n) with
    | nil => rfl
    | cons x xs => simp [List.getLast?_cons]
  · rintro (⟨d, x⟩ | ⟨d, x⟩)
    · rfl
    · by_cases own : d = n <;> simp [ConeUpd.addTo, own]
  · rintro b (⟨d, x⟩ | ⟨d, x⟩)
    · by_cases own : d = n <;> simp [ConeUpd.setTo, own]
    · rfl

theorem coneTick_value (ups : List ConeUpd) (n : Nat) (v : BitVec 17) : (coneTick ups n v).toNat % 65536 = min (coneSum ups n v) 65535 := by
  rw [coneTick_eq, BitVec.toNat_ofNat]
  split <;> omega

theorem coneTick_over (ups : List ConeUpd) (n : Nat) (v : BitVec 17) : (coneTick ups n v).getLsbD 16 = coneOver ups n v := by
  rw [coneTick_eq, BitVec.getLsbD_ofNat, Nat.testBit_eq_decide_div_mod_eq]
  cases coneOver ups n v <;> simp <;> omega

/-- A cone that no update names stays as it is. -/
theorem coneTick_of_unnamed {ups : List ConeUpd} {n : Nat} (unnamed : ∀ u ∈ ups, u.setTo n = none ∧ u.addTo n = none) (v : BitVec 17) :
    coneTick ups n v = v := by
  have sets : ups.filterMap (ConeUpd.setTo n) = [] := List.filterMap_eq_nil_iff.2 fun u mem => (unnamed u mem).1
  have adds : ups.filterMap (ConeUpd.addTo n) = [] := List.filterMap_eq_nil_iff.2 fun u mem => (unnamed u mem).2
  have sum : coneSum ups n v = v.toNat % 65536 := by rw [coneSum, sets, adds]; rfl
  have overflow : coneOver ups n v = v.getLsbD 16 := by
    rw [coneOver, sets, sum, decide_eq_false (by omega)]
    simp
  rw [coneTick_eq, sum, overflow, BitVec.getLsbD, Nat.testBit_eq_decide_div_mod_eq]
  have := v.isLt
  apply BitVec.eq_of_toNat_eq
  rw [BitVec.toNat_ofNat]
  by_cases set : v.toNat / 2 ^ 16 % 2 = 1
  · rw [if_pos (decide_eq_true set)]
    omega
  · rw [if_neg (by simpa using set)]
    omega

/-! ### The cones and the window of a core in a clock -/

/-- The updates of a core's cones that take effect in this clock. -/
def Core.coneUpds (c : Core) (out : Nat → Bool) : List ConeUpd := c.conePend ++ c.deferred.filterMap (Deferred.coneNow out c.ac)

/-- The cone that an update names. -/
def ConeUpd.cone : ConeUpd → Nat
  | .set d _ => d
  | .add d _ => d

theorem ConeUpd.unnamed {u : ConeUpd} {n : Nat} (ne : u.cone ≠ n) : u.setTo n = none ∧ u.addTo n = none := by
  cases u <;> simp_all [ConeUpd.setTo, ConeUpd.addTo, ConeUpd.cone]

theorem nodup_eraseDups : ∀ l : List Nat, l.eraseDups.Nodup
  | [] => List.nodup_nil
  | a :: l => by
    rw [List.eraseDups_cons, List.nodup_cons, List.mem_eraseDups]
    exact ⟨by simp, nodup_eraseDups _⟩
termination_by l => l.length
decreasing_by exact Nat.lt_succ_of_le (List.length_filter_le ..)

theorem Core.cones_acTick (c : Core) (out : Nat → Bool) (n : Nat) :
    SMap.get 0 n (c.acTick out).cones = coneTick (c.coneUpds out) n (SMap.get 0 n c.cones) := by
  have folded : SMap.get 0 n (c.acTick out).cones = _ :=
    SMap.get_foldl_update (coneTick (c.coneUpds out)) (nodup_eraseDups ((c.coneUpds out).map ConeUpd.cone)) c.cones n
  rw [folded]
  split
  · rfl
  · next unnamed =>
    rw [List.mem_eraseDups, List.mem_map] at unnamed
    exact (coneTick_of_unnamed (fun u mem => ConeUpd.unnamed fun eq => unnamed ⟨u, mem, eq⟩) _).symm

/-- Whether the cone wait of an entry is satisfied by a core's cones. -/
def Core.hears (c : Core) (e : KEntry) : Bool :=
  let w := (e.words.getD 2 0).toNat
  e.waitOk || !(bit w 24) || w / 256 % 0x10000 ≤ (SMap.get 0 (w % 256) c.cones).toNat % 0x10000

def Core.heard (c : Core) (e : KEntry) : KEntry := if c.hears e then { e with waitOk := true } else e

/-- An entry that waits for nothing more is Ready. -/
def Core.woken (c : Core) (e : KEntry) : KEntry := if e.state = .waiting && c.entryReady e then { e with state := .ready } else e

/-- A core once its entries have heard its cones. -/
def Core.allHeard (c : Core) : Core := { c with window := c.window.map fun (n, o) => (n, o.map c.heard) }

theorem Core.kilnTick_eq (c : Core) :
    c.kilnTick = { c.allHeard with window := c.allHeard.window.map fun (n, o) => (n, o.map c.allHeard.woken) } := rfl

theorem Core.entry_kilnTick (c : Core) (n : Nat) : c.kilnTick.entry n = (c.entry n).map fun e => c.allHeard.woken (c.heard e) := by
  have heard : c.allHeard.entry n = (c.entry n).map c.heard := SMap.get_map (d := none) (Option.map c.heard) c.window n
  have woken : c.kilnTick.entry n = (c.allHeard.entry n).map c.allHeard.woken :=
    SMap.get_map (d := none) (Option.map c.allHeard.woken) c.allHeard.window n
  rw [woken, heard, Option.map_map]
  rfl

theorem Core.waitOk_heard (c : Core) (e : KEntry) : (c.heard e).waitOk = c.hears e := by
  unfold Core.heard
  split
  · next hears => exact hears.symm
  · next deaf =>
    rw [Bool.not_eq_true] at deaf
    have : e.waitOk = false := by
      simp only [Core.hears, Bool.or_eq_false_iff] at deaf
      exact deaf.1.1
    rw [this, deaf]

theorem Core.waitOk_woken (c : Core) (e : KEntry) : (c.woken e).waitOk = e.waitOk := by
  unfold Core.woken
  split <;> rfl

theorem Core.waitOk_acTick {c : Core} {n : Nat} {e : KEntry} (out : Nat → Bool) (found : SMap.get none n c.window = some e) :
    ∃ e', SMap.get none n (c.acTick out).window = some e' ∧ e'.waitOk = c.hears e := by
  refine ⟨c.allHeard.woken (c.heard e), (c.entry_kilnTick n).trans ?_, ?_⟩
  · rw [Core.entry, found]
    rfl
  · rw [Core.waitOk_woken, Core.waitOk_heard]

/-! ### Cones and tags (R218 to R220) -/

section
variable {s : State} {h : Hdr}

theorem State.pairG_eq (s : State) (g : Nat) : s.pairG g = (s.rdG (g + 1) ++ s.rdG g : BitVec 64).toNat := by
  have := (s.rdG g).isLt
  have := (s.rdG (g + 1)).isLt
  rw [appendWord_eq_ofNat, BitVec.toNat_ofNat, State.pairG, Nat.mod_eq_of_lt (by omega)]
  omega

/-- The condition of TAGW on the tags that the mask names. -/
theorem State.tagTest_eq (s : State) (g : Nat) (all : Bool) :
    let mask := (s.rdG (g + 1) ++ s.rdG g : BitVec 64)
    s.tagTest g all = decide (mask = 0 ∨ (if all then s.core.tags &&& mask = mask else s.core.tags &&& mask ≠ 0)) := by
  simp only [State.tagTest, State.pairG_eq, BitVec.ofNat_toNat, BitVec.setWidth_eq, Bool.decide_or]
  cases all <;> simp

/-- The lowest tag of a mask that is set, 64 for none. -/
theorem lowestTag_spec (tags mask : BitVec 64) : ∃ n, ((List.range 64).find? (bit (tags.toNat &&& mask.toNat) ·)).getD 64 = n ∧ n ≤ 64 ∧
    (∀ i, i < n → (tags &&& mask).getLsbD i = false) ∧ (n < 64 → (tags &&& mask).getLsbD n = true) := by
  have bits : ∀ i, bit (tags.toNat &&& mask.toNat) i = (tags &&& mask).getLsbD i := fun i => by rw [bit_eq, ← BitVec.toNat_and]; rfl
  refine ⟨_, rfl, ?_⟩
  simp only [bits]
  cases found : (List.range 64).find? fun i => (tags &&& mask).getLsbD i with
  | none =>
    have zeros := List.find?_eq_none.1 found
    exact ⟨le_rfl, fun i lt => by simpa using zeros i (List.mem_range.2 lt), fun lt => absurd lt (lt_irrefl _)⟩
  | some n =>
    obtain ⟨one, mem, zeros⟩ := List.find?_range_eq_some.1 found
    exact ⟨(List.mem_range.1 mem).le, fun i lt => by simpa only [Bool.not_eq_true'] using zeros i lt, fun _ => one⟩

theorem tags_clear {g d p : Nat} {all : Bool} (c : s.Clear h (TagwArgs.regs ⟨g, all⟩)) :
    let mask := (s.rdG (g + 1) ++ s.rdG g : BitVec 64)
    let met := mask = 0 ∨ (if all then s.core.tags &&& mask = mask else s.core.tags &&& mask ≠ 0)
    (s.acquiring = false → met → exec (.tagw h ⟨g, all⟩) s = .next (s.spends (addedCycles false h.prot))) ∧
    (¬ met → exec (.tagw h ⟨g, all⟩) s = .next (s.setLatch fun l => { l with wait := true })) ∧
    exec (.tagwNb h ⟨p, g, all⟩) s = .next (s.givesP h p (decide met) 1) ∧
    (∃ n, exec (.tagff h ⟨d, g⟩) s = .next (s.givesG h d (BitVec.ofNat 32 n) 2) ∧ n ≤ 64 ∧
      (∀ i, i < n → (s.core.tags &&& mask).getLsbD i = false) ∧ (n < 64 → (s.core.tags &&& mask).getLsbD n = true)) ∧
    exec (.tagclr h ⟨g⟩) s = .next ((s.setCore fun c => { c with deferred := c.deferred ++ [.tags mask.toNat] }).spends
      (addedCycles false h.prot)) := by
  intro mask met
  have test : s.tagTest g all = decide met := s.tagTest_eq g all
  refine ⟨fun free set => ?_, fun unset => ?_, ?_, ?_, ?_⟩
  · rw [exec_tagw, execTagw, runI_ok (t := s) c (by simp [free, test, set])]
  · rw [exec_tagw, execTagw, runI_wait c (by simp [test, unset])]
  · rw [exec_tagwNb, execTagwNb, ← test]
    exact runI_resP c rfl
  · obtain ⟨n, lowest, spec⟩ := lowestTag_spec s.core.tags mask
    refine ⟨n, ?_, spec⟩
    rw [exec_tagff, execTagff]
    refine runI_resG c ?_
    dsimp only
    rw [State.pairG_eq, lowest]
  · have pair : s.pairG g = mask.toNat := s.pairG_eq g
    rw [← pair]
    exact runI_ok c rfl

end

theorem conesAndTags : Claims.ConesAndTags := by
  refine ⟨fun h o s c free => ?cwait, fun h o s c => runI_resP c rfl, fun h o s c => ⟨runI_ok c rfl, runI_ok c rfl⟩, fun h o s c => ?crd,
    fun h g d all p s c => tags_clear c, fun ups n v => ⟨coneTick_value ups n v, coneTick_over ups n v⟩,
    fun c out n => ⟨c.cones_acTick out n, fun e found => ?window⟩⟩
  case cwait =>
    refine ⟨fun met => ?_, fun unmet => ?_⟩
    · exact runI_ok c (if_neg (by simpa [free] using show s.coneArg o.t ≤ s.cone o.c % 65536 from met))
    · exact runI_wait c (if_pos (by simpa [free] using show ¬ s.coneArg o.t ≤ s.cone o.c % 65536 from unmet))
  case crd =>
    rw [← BitVec.ofNat_toNat]
    exact runI_resG c rfl
  case window =>
    obtain ⟨e', found', waitOk⟩ := Core.waitOk_acTick out found
    refine ⟨e', found', waitOk.trans ?_⟩
    simp only [Core.hears, bit_eq]

/-! ### Window queries, SETTAG, KMODE and YIELD (R217, R222, R223, R226) -/

theorem windowQueriesAndModes : Claims.WindowQueriesAndModes := by
  refine ⟨fun h o s c => ?st, fun h d n s c => ⟨?occ, ?ver⟩, fun h o s c => runI_ok c rfl, fun h o s c => ?kmode,
    fun h p s c => ⟨?yield, ?yieldF⟩⟩
  case st =>
    refine runI_resG c ?_
    dsimp only
    rw [apply_ite (BitVec.ofNat 32)]
    rfl
  case occ =>
    rw [Nat.mul_comm]
    exact runI_resG c rfl
  case ver =>
    refine runI_resG c ?_
    cases version : optGet n s.core.verSeen with
    | none => rw [show SMap.get none n s.core.verSeen = none from version]; rfl
    | some v => rw [show SMap.get none n s.core.verSeen = some v from version]; rfl
  case kmode => exact runI_ok c rfl
  case yield => exact runI_ok c rfl
  case yieldF =>
    dsimp only
    rw [← State.resP_queues c.upsets h p (s.core.yreq && s.strm.cls != .firmware && !s.strm.handler) 1]
    exact runI_ok c rfl

/-- Settles O51: an instruction that nothing stops answers by its effect (`runI_ok`, `runI_wait`), one cone in one clock is `coneTick_eq`,
and a clock updates every named cone once (`cones_acTick`). -/
theorem conesTagsAndModes : Obligations.ConesTagsAndModes := ⟨conesAndTags, windowQueriesAndModes⟩

end Sys2Proof.Machine
end

section
/-! SUPPORT. The Wheels (07 R169, R172, R195 to R199): the start of an iteration and of a record, the ranges of the dies, placement,
stealing and the end of a launch, and O20. -/

namespace Sys2Proof.Machine

/-! ### The start of an iteration (R172) -/

theorem exec_iterationStart_starts {s : State} {k : Nat} {it : Iter} {rest : List Iter} {l : Launch} (queue : (s.coreOf k).iterQ = it :: rest)
    (found : s.launchOf (s.coreOf k).launch = some l) (free : (s.coreOf k).iter = none) (off : (s.strmOf (sidOf k 4)).run = .off)
    (yreq : (s.coreOf k).yreq = false) (parking : (s.coreOf k).parking = false)
    (runs : s.launchRuns (s.coreOf k).launch (rankOfCore k) = true) : exec (.iterationStart k) s =
      .next ((s.putCore k { s.coreOf k with iter := some it, iterQ := rest }).modStrm (sidOf k 4) fun x =>
        x.iterStart it (s.coreOf k).lcore l.lb (s.coreOf k).ac) := by
  rw [exec_iterationStart, execIterationStart]
  simp only [queue, found]
  rw [if_neg]
  simp [free, off, yreq, parking, runs]

/-- The g registers that the start of an iteration writes. -/
def Iter.startRegs (it : Iter) (lcore : Nat) : List (Nat × Word) :=
  (it.idx.zipIdx.map fun (v, n) => (n, v)) ++ [(4, BitVec.ofNat 32 it.ord), (5, BitVec.ofNat 32 lcore)]

section
variable {it : Iter} (four : it.idx.length = 4) (x : Stream) (lcore : Nat) (lb : SMap Addr) (ac : Nat)
include four

theorem Iter.startRegs_nodup : ((it.startRegs lcore).map Prod.fst).Nodup := by
  have keys : (it.idx.zipIdx.map fun (v, n) => (n, v)).map Prod.fst = List.range 4 := by
    rw [List.map_map, ← four, List.range_eq_range', ← List.zipIdx_map_snd 0 it.idx]
    rfl
  rw [Iter.startRegs, List.map_append, keys]
  simp [List.range_succ]

theorem Stream.iterStart_g {n : Nat} {v : Word} (mem : (n, v) ∈ it.startRegs lcore) : SMap.get 0 n (x.iterStart it lcore lb ac).g = v :=
  SMap.get_foldl_set_of_mem (it.startRegs_nodup four lcore) mem x.g

theorem Iter.index_mem_startRegs {i : Nat} (lt : i < 4) : (i, it.idx.getD i 0) ∈ it.startRegs lcore := by
  refine List.mem_append_left _ (List.mem_map.2 ⟨(it.idx.getD i 0, i), ?_, rfl⟩)
  have : i < it.idx.length := by omega
  simp [List.mk_mem_zipIdx_iff_getElem?, this]

end

/-- The bases of the launch and the parameter address in the a registers. -/
theorem Stream.iterStart_a (x : Stream) (it : Iter) (lcore : Nat) (lb : SMap Addr) (ac : Nat) :
    SMap.get 0 0 (x.iterStart it lcore lb ac).a = it.param ∧
    ∀ i, i < 16 → SMap.get 0 (16 + i) (x.iterStart it lcore lb ac).a = SMap.get 0 i lb := by
  have bases : (x.iterStart it lcore lb ac).a =
      ((List.range 16).map fun n => (n + 16, SMap.get 0 n lb)).foldl (fun m e => SMap.set 0 e.1 e.2 m) (SMap.set 0 0 it.param x.a) := by
    rw [List.foldl_map]
    rfl
  rw [bases]
  constructor
  · rw [SMap.get_foldl_set_of_notMem (by simp), SMap.get_set_self]
  · intro i lt
    refine SMap.get_foldl_set_of_mem ?_ (List.mem_map.2 ⟨i, List.mem_range.2 lt, by rw [Nat.add_comm]⟩) _
    rw [List.map_map]
    exact List.nodup_range.map fun a b eq => Nat.add_right_cancel eq

/-! ### Records and their ranges (R169, R197) -/

theorem exec_nestRecordStart_begins {s : State} {lk : Nat} {l : Launch} (found : s.launchOf lk = some l) (running : l.phase = .running)
    (done : l.recordDone = true) (more : l.nests ≠ []) (plain : l.bare = none)
    (ready : ∀ j ∈ s.launchParts lk, ∀ p, s.launchOf j = some p → p.readyFor l.nestIdx = true) :
    exec (.nestRecordStart lk) s = .next ((s.putLaunch lk (some l.nextRecord)).handedOut lk) := by
  have others : ((s.launchParts lk).all fun j => (s.launchOf j).all fun p => p.readyFor l.nestIdx) = true := by
    refine List.all_eq_true.2 fun j mem => ?_
    cases part : s.launchOf j with
    | none => rfl
    | some p => exact ready j mem p part
  rw [exec_nestRecordStart, execNestRecordStart]
  simp only [found]
  rw [if_pos]
  simp [running, done, more, plain, others]

/-- The ordinals of the dies before the `i`-th. -/
theorem natSum_dieSizes (n d i : Nat) : natSum ((List.range i).map fun j => n / d + if j < n % d then 1 else 0) = i * (n / d) + min i (n % d) := by
  rw [natSum_eq_sum]
  induction i with
  | zero => simp
  | succ i ih =>
    rw [List.range_succ, List.map_append, List.sum_append, ih, List.map_singleton, List.sum_singleton, Nat.succ_mul]
    split <;> omega

theorem dieRange_eq (n d i : Nat) : dieRange n d i = (i * (n / d) + min i (n % d), (i + 1) * (n / d) + min (i + 1) (n % d)) := by
  have next : natSum ((List.range (i + 1)).map fun j => n / d + if j < n % d then 1 else 0) =
      natSum ((List.range i).map fun j => n / d + if j < n % d then 1 else 0) + (n / d + if i < n % d then 1 else 0) := by
    rw [natSum_eq_sum, natSum_eq_sum, List.range_succ, List.map_append, List.sum_append, List.map_singleton, List.sum_singleton]
  rw [dieRange, ← natSum_dieSizes, ← natSum_dieSizes, next]

/-- The ranges of the dies follow one another from 0 to the number of ordinals. -/
theorem dieRange_contiguous (n d i : Nat) : (dieRange n d 0).1 = 0 ∧ (dieRange n d i).1 ≤ (dieRange n d i).2 ∧
    (i + 1 < d → (dieRange n d (i + 1)).1 = (dieRange n d i).2) ∧ (i + 1 = d → (dieRange n d i).2 = n) := by
  simp only [dieRange_eq]
  refine ⟨by simp, ?_, fun _ => trivial, fun last => ?_⟩
  · exact Nat.add_le_add (Nat.mul_le_mul_right _ (Nat.le_succ i)) (min_le_min_right _ (Nat.le_succ i))
  · have mod := Nat.mod_lt n ((Nat.succ_pos i).trans_eq last)
    rw [last, Nat.min_eq_right mod.le, Nat.mul_comm]
    exact Nat.div_add_mod' n d

/-! ### Placement (R197, R198) -/

/-- Nothing is passed over where the next iteration's tag has not been purged. -/
theorem NestRun.skip_stands {r r1 : NestRun} {gone : Nat → Bool} {die ord : Nat} {came : Bool} (next : r.next die = some (ord, came, r1))
    (kept : gone ord = false) (n : Nat) : r.skip gone die n = r := by
  cases n with
  | zero => rfl
  | succ n => simp [NestRun.skip, next, kept]

/-- What a Wheel does with its next iteration. -/
def State.wheelTakes (s : State) (die lk : Nat) (l : Launch) (r r1 : NestRun) (ord : Nat) (came : Bool) : Out :=
  let put := fun (t : State) (y : NestRun) => t.modLaunch lk fun z => { z with run := some y }
  let hand := fun (t : State) => t.modDie die fun d => { d with handed := d.acs + 1 }
  let tag := s.nestTag l r.nest ord
  let aff := nestAffinity r.nest ord
  match if came then none else aff.bind fun a => s.forwardTo lk l die a with
  | some d => .next (hand (put (s.affRecord lk l die tag aff) { r1 with fwd := SMap.set [] d (SMap.get [] d r1.fwd ++ [ord]) r1.fwd }))
  | none => match s.placeOn lk l die aff with
    | .waits => .next (put s r)
    | .on k mv =>
      let idx := (nestIdx r.nest.words ord).map fun i => BitVec.ofInt 32 i
      let it : Iter := ⟨idx ++ List.replicate (4 - idx.length) 0, ord, tag, wordAt r.nest.words 1 % 0x10000000, r.nest.param, l.nestIdx⟩
      let s1 := s.affRecord lk l die tag aff
      let s2 := match mv with
        | some m => s1.moveRegion lk l k m
        | none => s1
      .next (hand (((put s2 { r1 with inFlight := r1.inFlight + 1 }).modCore k fun c =>
        { c with iterQ := c.iterQ ++ [it] }).handedOut lk))

section
variable {s : State} {die lk : Nat} {l : Launch} {r r1 : NestRun} {ord : Nat} {came : Bool}

theorem exec_wheelPlace_takes (found : s.launchOf lk = some l) (run : l.run = some r) (runs : s.launchRuns lk die = true)
    (once : (s.dieOf die).handed ≠ (s.dieOf die).acs + 1) (next : r.next die = some (ord, came, r1))
    (kept : s.nestTag l r.nest ord = 0 ∨ s.filtered lk (s.nestTag l r.nest ord) = false ∧ s.nestTag l r.nest ord ∉ r.gone) :
    exec (.wheelPlace die lk) s = s.wheelTakes die lk l r r1 ord came := by
  have stands := fun n => NestRun.skip_stands (gone := fun ord => s.nestTag l r.nest ord != 0 &&
    (s.filtered lk (s.nestTag l r.nest ord) || r.gone.contains (s.nestTag l r.nest ord))) next
      (by rcases kept with zero | ⟨unfiltered, stays⟩ <;> simp [*]) n
  rw [exec_wheelPlace, execWheelPlace]
  simp only [found, run]
  rw [if_neg (by simp [runs, once]), stands]
  simp only [next]
  rfl

theorem exec_wheelPlace_idle (found : s.launchOf lk = some l)
    (h : s.launchRuns lk die = false ∨ (s.dieOf die).handed = (s.dieOf die).acs + 1) : exec (.wheelPlace die lk) s = .next s := by
  rw [exec_wheelPlace, execWheelPlace]
  simp only [found]
  cases l.run with
  | none => rfl
  | some r =>
    dsimp only
    rw [if_pos]
    rcases h with h | h <;> simp [h]

/-- A Wheel forwards its next iteration, holds it, or hands it out. -/
theorem State.wheelTakes_cases :
    let tag := s.nestTag l r.nest ord
    let aff := nestAffinity r.nest ord
    let hand := fun (t : State) => t.modDie die fun d => { d with handed := d.acs + 1 }
    let away := if came then none else aff.bind fun a => s.forwardTo lk l die a
    let seen := s.affRecord lk l die tag aff
    (∀ d, away = some d → s.wheelTakes die lk l r r1 ord came = .next (hand (seen.modLaunch lk fun z =>
      { z with run := some { r1 with fwd := SMap.set [] d (SMap.get [] d r1.fwd ++ [ord]) r1.fwd } }))) ∧
    (away = none → s.placeOn lk l die aff = .waits →
      s.wheelTakes die lk l r r1 ord came = .next (s.modLaunch lk fun z => { z with run := some r })) ∧
    ∀ k mv, away = none → s.placeOn lk l die aff = .on k mv →
      let moved := match mv with
        | some m => seen.moveRegion lk l k m
        | none => seen
      s.wheelTakes die lk l r r1 ord came = .next (hand (((moved.modLaunch lk fun z =>
        { z with run := some { r1 with inFlight := r1.inFlight + 1 } }).modCore k fun c => { c with iterQ := c.iterQ ++
          [⟨((nestIdx r.nest.words ord).map fun i => BitVec.ofInt 32 i) ++ List.replicate (4 - (nestIdx r.nest.words ord).length) 0, ord, tag,
            (r.nest.words.getD 1 0).toNat % 2 ^ 28, r.nest.param, l.nestIdx⟩] }).handedOut lk)) := by
  dsimp only
  unfold State.wheelTakes
  dsimp only
  refine ⟨fun d forward => ?_, fun stays waits => ?_, fun k mv stays on => ?_⟩
  · rw [forward]
  · rw [stays]
    dsimp only
    rw [waits]
  · rw [stays]
    dsimp only
    rw [on]
    dsimp only
    rw [List.length_map]
    rfl

end

/-! ### Stealing and the end (R169, R199) -/

theorem exec_wheelSteal_steals {s : State} {die lk : Nat} {l : Launch} {r : NestRun} {d a b : Nat} (found : s.launchOf lk = some l)
    (run : l.run = some r) (handedOut : (SMap.get (0, 0) die r.ranges).2 ≤ (SMap.get (0, 0) die r.ranges).1) (noneCame : SMap.get [] die r.fwd = [])
    (mine : die ∈ l.ranks) (own : die / 4 = l.pkg) (runs : s.launchRuns lk die = true) (victim : r.victim die = some (d, a, b)) :
    exec (.wheelSteal die lk) s = .next (s.modLaunch lk fun z => { z with run := some { r with
      ranges := SMap.set (0, 0) die (b - (b - a) / 2, b) (SMap.set (0, 0) d (a, b - (b - a) / 2) r.ranges) } }) := by
  rw [exec_wheelSteal, execWheelSteal]
  simp only [found, run]
  rw [if_neg (by simp [noneCame, mine, own, runs]; omega)]
  simp only [victim]

theorem exec_launchComplete_eq (s : State) (lk : Nat) :
    let done := (s.launchParts lk).all fun j => (s.launchOf j).any fun l =>
      l.phase = .running && l.bare.isNone && l.nests.isEmpty && l.recordDone && (l.allCores j).all s.coreDone
    exec (.launchComplete lk) s = .next (if done then (s.launchParts lk).foldl (fun t j => t.endLaunch j 0 0 0) s else s) := by
  rw [exec_launchComplete, execLaunchComplete]
  dsimp only
  congr 4
  funext j
  cases s.launchOf j <;> rfl

/-- Settles O20: each event of the Wheels answers `next` with its effect under its conditions; the next iteration that a Wheel takes is
handed out, forwarded or held by `wheelTakes_cases`, and the ranges of the dies are `dieRange_eq`. -/
theorem wheelEvents : Obligations.WheelEvents := by
  refine ⟨fun s k it rest l queue found free off yreq parking runs four => ?iteration, fun s lk l => exec_nestRecordStart_begins,
    fun n d i _ => dieRange_contiguous n d i, fun s die lk l r r1 ord came found run runs once next => ?place, fun s die lk l => exec_wheelPlace_idle,
    fun s die lk gone => ?ended, fun s die lk l r d a b => exec_wheelSteal_steals, exec_launchComplete_eq⟩
  case iteration =>
    refine ⟨_, exec_iterationStart_starts queue found free off yreq parking runs, ?_⟩
    rw [State.coreOf_modStrm, State.coreOf_putCore_self, State.strmOf_modStrm_self]
    obtain ⟨param, bases⟩ := Stream.iterStart_a ((s.putCore k { s.coreOf k with iter := some it, iterQ := rest }).strmOf (sidOf k 4)) it
      (s.coreOf k).lcore l.lb (s.coreOf k).ac
    refine ⟨rfl, rfl, rfl, rfl, fun i lt => ?_, ?_, ?_, param, bases, rfl⟩
    · exact Stream.iterStart_g four _ _ _ _ (Iter.index_mem_startRegs four _ lt)
    all_goals exact Stream.iterStart_g four _ _ _ _ (List.mem_append_right _ (by simp))
  case place =>
    intro tag aff hand away seen kept
    rw [exec_wheelPlace_takes found run runs once next kept]
    exact State.wheelTakes_cases
  case ended =>
    rw [exec_wheelPlace, execWheelPlace, exec_wheelSteal, execWheelSteal, gone]
    exact ⟨rfl, rfl⟩

end Sys2Proof.Machine
end

section
/-! SUPPORT. Results that join those of a changed state, control and status registers (08 R224, R225), and O6. -/

namespace Sys2Proof.Machine
section
variable {s t : State} {h : Hdr} {us : List RegUse} {items : State → Items} {eff : State → Eff}

theorem runI_resG_in {n lat : Nat} {v : Word} (c : s.Clear h us) (clean : t.strm.upsets = []) (ok : eff s = .ok (t.resG h n v lat)) :
    runI h (markReads us) items s eff = .next (t.givesG h n v lat) := by
  rw [runI_ok c ok, State.resG_clean clean]

theorem runI_resP_in {n lat : Nat} {v : Bool} (c : s.Clear h us) (clean : t.strm.upsets = []) (ok : eff s = .ok (t.resP h n v lat)) :
    runI h (markReads us) items s eff = .next (t.givesP h n v lat) := by
  rw [runI_ok c ok, State.resP_clean clean]

end

/-- A result takes nothing of the state but the place of the bundle. -/
theorem State.result1_of_pos {s t : State} (pos : t.strm.pos = s.strm.pos) : t.result1 = s.result1 := by
  funext
  rw [State.result1, pos]
  rfl

/-- A result that joins those in flight of a state whose bundle stands where that of `s` does. -/
theorem State.result_queues {s t : State} (clean : t.strm.upsets = []) (pos : t.strm.pos = s.strm.pos) (h : Hdr) (dst : Dst) (bits val : VReg)
    (lat : Nat) (flags : Word) (mark : Mark) :
    t.result h false 0 dst bits val lat flags mark = t.queues (s.result1 h dst bits val lat flags mark) := by
  rw [State.result_clean clean, ← State.result1_of_pos pos]
  rfl

/-! ### Control and status registers (R224, R225) -/

section
variable (s : State) (n : Nat)

theorem State.csrRead_upsets : (s.csrRead n).strm.upsets = s.strm.upsets := by
  unfold State.csrRead
  split <;> rfl
theorem State.csrRead_pos : (s.csrRead n).strm.pos = s.strm.pos := by
  unfold State.csrRead
  split <;> rfl

/-- A read of a register other than CYCLO changes nothing. -/
theorem State.csrRead_of_ne (ne : n ≠ 1) : s.csrRead n = s := if_neg ne

/-- A read of CYCLO latches the upper half of the clock count. -/
theorem State.csrRead_cyclo :
    s.csrRead 1 = s.setStrm fun x => { x with cychi := BitVec.ofNat 32 (s.cycles s.rank / 2 ^ 32) } := if_pos rfl

theorem State.csrVal_cyclo : BitVec.ofNat 32 (s.csrVal 1) = BitVec.ofNat 32 (s.cycles s.rank) :=
  BitVec.eq_of_toNat_eq (Nat.mod_mod _ _)

/-- YSTAT and YREM show a yield request to a stream that is neither the firmware's nor in its handler. -/
theorem State.csrVal_ystat : s.csrVal 7 = if s.core.yreq ∧ s.strm.cls ≠ .firmware ∧ s.strm.handler = false then 1 else 0 := by
  simp [State.csrVal, Bool.toNat, and_assoc, cond_eq_ite]

theorem State.csrVal_yrem :
    s.csrVal 8 = if s.core.yreq ∧ s.strm.cls ≠ .firmware ∧ s.strm.handler = false then s.core.yrem.toNat else 0 := by
  simp [State.csrVal, and_assoc]

end

section
variable {s : State} {h : Hdr}

theorem exec_csrr_clear {o : CsrrArgs} (c : s.Clear h []) :
    exec (.csrr h o) s = .next ((s.csrRead o.csr).givesG h o.d (BitVec.ofNat 32 (s.csrVal o.csr)) 1) :=
  runI_resG_in c ((s.csrRead_upsets _).trans c.upsets) rfl

/-- A register that a read does not change gives its value. -/
theorem exec_csrr_value {d csr v : Nat} (c : s.Clear h []) (ne : csr ≠ 1) (value : s.csrVal csr = v) :
    exec (.csrr h ⟨d, csr⟩) s = .next (s.givesG h d (BitVec.ofNat 32 v) 1) := by
  rw [exec_csrr_clear c, s.csrRead_of_ne csr ne, value]

end

/-- Settles O6: CSRR reads (`exec_csrr_value`, and CYCLO by `csrRead_cyclo`), and CSRW and CSRX write what `csrRefuses` lets pass. -/
theorem controlRegisters : Obligations.ControlRegisters := by
  refine ⟨fun h d s c => ?values, fun h o s c => exec_csrr_clear c, fun h o s c => ⟨fun refused => ?_, fun passes => ?_⟩,
    fun h o s c => ⟨fun refused => ?_, fun passes => ?_⟩⟩
  case values =>
    intro reads
    have gives : ∀ csr, csr ≠ 1 → reads csr (s.csrVal csr) := fun _ ne => exec_csrr_value c ne rfl
    refine ⟨gives 0x000 ?_, gives 0x002 ?_, gives 0x003 ?_, gives 0x004 ?_, gives 0x005 ?_, gives 0x006 ?_, gives 0x009 ?_, gives 0x011 ?_,
      exec_csrr_value c ?_ s.csrVal_ystat, exec_csrr_value c ?_ s.csrVal_yrem, gives 0x010 ?_, gives 0x012 ?_, gives 0x014 ?_, gives 0x015 ?_,
      gives 0x040 ?_, gives 0x041 ?_, gives 0x042 ?_, gives 0x043 ?_, gives 0x044 ?_, gives 0x100 ?_, gives 0x101 ?_, gives 0x102 ?_,
      gives 0x104 ?_, ?cyclo⟩
    case cyclo => rw [exec_csrr_clear c, State.csrRead_cyclo, State.csrVal_cyclo]
    all_goals decide
  · exact runI_trap c (if_pos refused)
  · exact runI_ok c (if_neg (by simp [passes]))
  · exact runI_trap c (if_pos refused)
  · rw [← State.result_queues ((s.csrRead_upsets _).trans c.upsets) (s.csrRead_pos _)]
    exact runI_ok c (if_neg (by simp [passes]))

end Sys2Proof.Machine
end

section
/-! SUPPORT. Images of words in local memory, the counts of pages, NEST and XLATE (08 R221, R227), and O7. -/

namespace Sys2Proof.Machine

/-! ### What an image of words in local memory gives -/

section
variable {s : State} {a : Addr} {n : Nat} {go : List Word → Eff} {ws : List Word}

theorem withImage_reads (free : s.acquiring = false) (inside : a.toNat + 4 * n ≤ winSize s.core.pool)
    (clean : s.core.poisoned a.toNat (4 * n) = false) (image : s.localWords a.toNat n = ws) : withImage s a n go = go ws := by
  simp only [withImage, State.localFault_window inside, free, clean, Bool.false_eq_true, if_false, image]

end

/-! ### Pages of a list -/

/-- In a list of mapped pages none is unmapped. -/
theorem State.find?_unwalked {s : State} {pages : List (Nat × Nat)} (mapped : ∀ x ∈ pages, (s.walkVa s.pkg x.1 x.2).isSome) :
    pages.find? (fun (v, a) => (s.walkVa s.pkg v a).isNone) = none :=
  List.find?_eq_none.2 fun x mem => by simpa [Option.isNone_iff_eq_none, Option.isSome_iff_ne_none] using mapped x mem

/-! ### Steps that change nothing but the counts of pages -/

theorem State.SameButSys.strm {s t : State} (same : s.SameButSys t) : t.strm = s.strm := by rw [same]
theorem State.SameButSys.core {s t : State} (same : s.SameButSys t) : t.core = s.core := by rw [same]

theorem State.sameButSys_pin (s : State) (pkg vdev va : Nat) : s.SameButSys (s.pin pkg vdev va) := s.sameButSys_modDie _ _

theorem State.sameButSys_pinAll (s : State) (pkg : Nat) (ps : List (Nat × Nat)) : s.SameButSys (s.pinAll pkg ps) :=
  .foldl (fun t ⟨v, a⟩ => t.sameButSys_pin pkg v a) ps s

theorem State.sameButSys_modLaunch (s : State) (l : Nat) (f : Launch → Launch) : s.SameButSys (s.modLaunch l f) := by
  unfold State.modLaunch
  split <;> rfl

/-! ### NEST (R221) -/

/-- The state once a nest stands in the list of every part of the launch. -/
def State.nestAdded (s : State) (n : Nest) : State :=
  (s.launchParts s.core.launch).foldl (fun t j => (t.pinAll (launchPkg j) n.tab).modLaunch j fun l => { l with nests := l.nests ++ [n] }) s

theorem State.sameButSys_nestAdded (s : State) (n : Nest) : s.SameButSys (s.nestAdded n) :=
  .foldl (fun t j => (t.sameButSys_pinAll (launchPkg j) n.tab).trans (State.sameButSys_modLaunch ..)) _ s

section
variable {s : State} {h : Hdr} {o : NestArgs}

/-- A well-formed record whose frame is a far one and whose table is mapped is appended where there is room. -/
theorem exec_nest_appends {l : Launch} {ws : List Word} {tab : List (Nat × Nat)} (c : s.Clear h o.regs) (free : s.acquiring = false)
    (inside : (s.rdA o.ar).toNat + 64 ≤ winSize s.core.pool) (clean : s.core.poisoned (s.rdA o.ar).toNat 64 = false)
    (image : s.localWords (s.rdA o.ar).toNat 16 = ws) (table : nestTab ws s.vdev (s.rdA o.ap) = tab) (running : s.launch = some l)
    (good : nestBad ws = false)
    (far : wordAt ws 0 / 4 % 4 = 2 → ∃ f, s.core.frame (wordAt ws 12 % 64) = some f ∧ (FrameD.of f.words).space = 1)
    (mapped : ∀ x ∈ tab, (s.walkVa s.pkg x.1 x.2).isSome) :
    exec (.nest h o) s = .next ((if l.nests.length < 16 then s.nestAdded ⟨ws, s.rdA o.ap, nestBase ws s.core.frame, tab⟩ else s).givesP h o.p
      (l.nests.length < 16) 1) := by
  have framed : (wordAt ws 0 / 4 % 4 = 2 && !((s.core.frame (wordAt ws 12 % 64)).any fun f => (FrameD.of f.words).space = 1)) = false := by
    by_cases named : wordAt ws 0 / 4 % 4 = 2
    · obtain ⟨f, found, space⟩ := far named
      simp [found, space]
    · simp [named]
  refine runI_resP_in c ?clean ((withImage_reads free inside clean image).trans ?_)
  case clean =>
    split
    · exact (congrArg _ (s.sameButSys_nestAdded _).strm).trans c.upsets
    · exact c.upsets
  simp only [good, framed, table, State.find?_unwalked mapped, running, Option.any_some, decide_eq_true_eq, Bool.false_eq_true, if_false]
  rfl

end

/-! ### XLATE (R227) -/

section
variable (s : State) (x : FarCtx) (va : Nat)

theorem State.tlbFill_strm : (s.tlbFill x va).strm = s.strm := by
  unfold State.tlbFill
  split
  · rfl
  · split
    · rfl
    · unfold State.modCore State.putCore
      split <;> rfl

theorem State.mayAccess_eq (write : Bool) : s.mayAccess x va write = (s.farTranslate x va write).toBool := by
  unfold State.mayAccess
  cases s.farTranslate x va write <;> rfl

end

/-- Settles O7: NEST of a well-formed record appends it where there is room (`exec_nest_appends`) and changes no stream and no core
(`sameButSys_nestAdded`); the XLATE forms answer by their effect once nothing blocks the walk. -/
theorem nestAndTranslate : Obligations.NestAndTranslate := by
  refine ⟨fun h o s c free inside clean => ?nest, fun h p a s c free => ?xlate⟩
  case nest =>
    intro ws
    refine ⟨fun bad => runI_trap c ((withImage_reads free inside clean rfl).trans (if_pos bad)), fun good far => ?_⟩
    intro tab mapped l running
    have eff := exec_nest_appends (tab := tab) c free inside clean rfl rfl running good far mapped
    refine ⟨fun full => ?_, fun room => ?_⟩
    · rw [eff, if_neg (by omega), decide_eq_false (by omega)]
    · have same := s.sameButSys_nestAdded ⟨ws, s.rdA o.ap, nestBase ws s.core.frame, tab⟩
      refine ⟨_, ?_, same.strm, same.core, rfl⟩
      rw [eff, if_pos room, decide_eq_true room]
  case xlate =>
    intro x va walks
    have unblocked : ¬ (s.acquiring || s.walkBlocked x.core x.pkg x.vdev va) = true := by rw [free, walks]; exact Bool.false_ne_true
    have filled : ∀ y, (s.tlbFill y va).strm.upsets = [] := fun y => (congrArg _ (s.tlbFill_strm y va)).trans c.upsets
    refine ⟨runI_resP_in c (filled x) ?_, runI_resP_in c (filled x) ?_, ?_⟩
    · rw [← s.mayAccess_eq]
      exact if_neg unblocked
    · rw [← s.mayAccess_eq]
      exact if_neg unblocked
    · intro y
      rw [← State.resA_clean (filled y)]
      exact runI_ok c (if_neg unblocked)

end Sys2Proof.Machine
end

section
/-! SUPPORT. Frames and rings (08 R207 to R211), and O49. -/

namespace Sys2Proof.Machine

/-! ### FDEF and FREL (R207 to R209) -/

/-- A frame of local memory whose hull fits does not cross the window. -/
theorem State.hull_fits {s : State} {f : FrameD} {hi : Nat} (fits : f.space = 0 → hi ≤ winSize s.core.pool) :
    (decide (f.space = 0) && decide (s.core.win < hi)) = false := by
  rw [← Bool.not_eq_true, Bool.and_eq_true, decide_eq_true_eq, decide_eq_true_eq, not_and, not_lt]
  exact fits

section
variable {s : State} {h : Hdr} {o : FdefArgs} {ws : List Word} (undefined : s.core.frame o.n = none) (free : s.acquiring = false)
  (inside : (s.rdA o.a).toNat + 32 ≤ winSize s.core.pool) (clean : s.core.poisoned (s.rdA o.a).toNat 32 = false)
  (image : s.localWords (s.rdA o.a).toNat 8 = ws)
include undefined free inside clean image

/-- FDEF of a frame that is not defined does what its descriptor makes of it. -/
theorem fdef_reads {go : List Word → Eff} {e : Eff} (goes : go ws = e) :
    (if (s.core.frame o.n).isSome then Eff.trap 12 0 else withImage s (s.rdA o.a) 8 go) = e := by
  rw [undefined]
  exact (withImage_reads free inside clean image).trans goes

/-- A descriptor that nothing refuses enters its frame, at version 0, once its pages are counted. -/
theorem exec_fdef_defines {f : FrameD} {lo hi : Nat} {pages : List (Nat × Nat)} {t : State} (c : s.Clear h o.regs) (desc : FrameD.of ws = f)
    (hull : f.hull s.core = (lo, hi)) (list : (if f.space = 1 ∧ f.deferred = false then pagesOf s.vdev lo (hi - lo) else []) = pages)
    (good : f.bad ws s.core = false) (fits : f.space = 0 → hi ≤ winSize s.core.pool) (apart : f.overlaps s.core = false)
    (unblocked : s.pagesBlocked pages = false) (own : f.space = 1 → s.foreignByte lo hi = none)
    (mapped : ∀ x ∈ pages, (s.walkVa s.pkg x.1 x.2).isSome) (pinned : s.pinTry pages = .ok t) :
    exec (.fdef h o) s = .next ((t.setCore fun c => c.setFrame o.n (some ⟨ws, 0,
      f.space ≠ 1 ∨ s.ownCovers (s.regionsIn lo hi) hi ((s.regionsIn lo hi).length + (hi - lo) / 0x10000 + 2) lo = true, pages, none⟩)).spends
        (addedCycles false h.prot)) := by
  have writable : ∀ b, (f.space != 1 || b) = decide (f.space ≠ 1 ∨ b = true) := fun b => Bool.eq_iff_iff.2 (by simp)
  have counted : (if (decide (f.space = 1) && !f.deferred) = true then pagesOf s.vdev lo (hi - lo) else []) = pages := by simpa using list
  refine runI_ok c (fdef_reads undefined free inside clean image ?_)
  simp only [desc, hull, good, State.hull_fits fits, apart, counted, unblocked, State.find?_unwalked mapped, pinned, Bool.false_eq_true, if_false]
  by_cases far : f.space = 1
  · simp only [own far, writable]
  · cases s.foreignByte lo hi <;> simp only [far, if_false, writable]

end

theorem frameInstructions : Claims.FrameInstructions := by
  refine ⟨fun h o s c => ⟨fun defined => runI_trap c (if_pos defined), fun undefined free inside clean => ?fdef⟩,
    fun h o s c => ⟨fun undefined => ?undefined, fun f found => ⟨fun bound => ?bound, fun unbound => ?unbound⟩⟩⟩
  case fdef =>
    intro ws f lo hi pages
    refine ⟨fun bad => runI_trap c (fdef_reads undefined free inside clean rfl (if_pos bad)), fun good fits => ?_⟩
    refine ⟨fun met => runI_trap c (fdef_reads undefined free inside clean rfl ?_), fun apart unblocked own mapped t pinned =>
      exec_fdef_defines undefined free inside clean rfl c rfl rfl rfl good fits apart unblocked own mapped pinned⟩
    exact (if_neg (ne_true_of_eq_false good)).trans ((if_neg (ne_true_of_eq_false (State.hull_fits fits))).trans (if_pos met))
  case undefined =>
    refine runI_trap c ?_
    dsimp only
    rw [undefined]
  case bound =>
    refine runI_wait c ?_
    dsimp only
    rw [found]
    exact if_pos (by simpa using bound)
  case unbound =>
    refine runI_ok c ?_
    dsimp only
    rw [found]
    exact if_neg (by simpa using unbound)

/-! ### RINIT (R210, R211) -/

/-- A word of an image, by its bytes. -/
theorem State.wordAt_localWords (s : State) (a : Nat) {n i : Nat} (lt : i < n) : wordAt (s.localWords a n) i = s.localNat (a + 4 * i) 4 := by
  have bound := s.localNat_lt (a + 4 * i) 4
  rw [wordAt, State.localWords, List.getD_eq_getElem _ _ (by simpa using lt), List.getElem_map, List.getElem_range, BitVec.toNat_ofNat,
    Nat.mod_eq_of_lt (by simpa using bound)]

theorem ringInstruction : Claims.RingInstruction := by
  intro h o s c named
  refine ⟨fun used => runI_trap c (if_pos (Bool.or_eq_true_iff.2 used)), fun unnamed idle free inside clean => ?_⟩
  intro w sz n good
  have unused : ¬ (named || s.ringBusy o.k) = true := by rw [unnamed, idle]; exact Bool.false_ne_true
  have word : ∀ i, i < 4 → wordAt (s.localWords (s.rdA o.a).toNat 4) i = w i := fun i lt => s.wordAt_localWords _ lt
  have refuses : (w 0 % 128 != 0 || sz = 0 || n = 0 || 256 < n || w 2 != 0 || w 3 != 0) = true ↔ ¬ good := by
    simp only [good, Bool.or_eq_true, bne_iff_ne, decide_eq_true_eq]
    omega
  refine ⟨fun bad => runI_trap c ?_, fun ok fits => runI_ok c ?_⟩
  all_goals
    refine (if_neg unused).trans ((withImage_reads free inside clean rfl).trans ?_)
    dsimp only
    rw [word 0 (by decide), word 1 (by decide), word 2 (by decide), word 3 (by decide)]
  · exact if_pos (refuses.2 bad)
  · exact (if_neg fun refused => refuses.1 refused ok).trans (if_neg (Nat.not_lt.2 fits))

/-- Settles O49: FDEF does what its descriptor makes of it (`fdef_reads`, `exec_fdef_defines`), FREL goes by whether a reference is bound to
the frame, and RINIT by the words of its descriptor (`wordAt_localWords`). -/
theorem framesAndRings : Obligations.FramesAndRings := ⟨frameInstructions, ringInstruction⟩

end Sys2Proof.Machine
end

section
/-! SUPPORT. Posts to the own core and to others (08 R212 to R215, R219), and O50. -/

namespace Sys2Proof.Machine

/-! ### Steps that change nothing but the dies -/

/-- Every stream, every core, and all that the domain holds but its dies is in `t` as in `s`. -/
def State.SameButDies (s t : State) : Prop := t = { s with sys := { s.sys with dies := t.sys.dies } }

section
variable {s t u : State}

theorem State.SameButDies.trans (st : s.SameButDies t) (tu : t.SameButDies u) : s.SameButDies u := by
  rw [State.SameButDies] at st tu ⊢
  rw [tu, st]

theorem State.SameButDies.strm (same : s.SameButDies t) : t.strm = s.strm := by rw [same]
theorem State.SameButDies.core (same : s.SameButDies t) : t.core = s.core := by rw [same]
theorem State.SameButDies.filtered (same : s.SameButDies t) : t.filtered = s.filtered := by rw [same]; rfl

theorem State.sameButDies_pin (s : State) (pkg vdev va : Nat) : s.SameButDies (s.pin pkg vdev va) := by
  unfold State.SameButDies State.pin State.modDie State.putDie
  rfl

/-- Counting the pages of a list changes nothing but the counts. -/
theorem State.sameButDies_of_pinTry {pages : List (Nat × Nat)} (ok : s.pinTry pages = .ok t) : s.SameButDies t := by
  induction pages generalizing s with
  | nil =>
    cases ok
    rfl
  | cons page pages ih =>
    rw [State.pinTry] at ok
    split at ok
    · exact (s.sameButDies_pin ..).trans (ih ok)
    · cases ok

/-- A record that POST finds valid has its pages counted, and nothing else changes. -/
theorem State.sameButDies_of_postCheck {ws : List Word} {pages : List (Nat × Nat)} (ok : s.postCheck ws = .ok (t, pages)) :
    s.SameButDies t := by
  unfold State.postCheck at ok
  dsimp only at ok
  split at ok
  · cases ok
  split at ok
  · cases ok
    rfl
  split at ok
  · cases ok
  · cases ok
  split at ok
  · cases ok
  · next pinned =>
    cases ok
    exact State.sameButDies_of_pinTry pinned

end

/-! ### The entry of a record (R213) -/

section
variable (c : Core) (slot : Nat) (ws : List Word) (own spec : Bool) (pages : List (Nat × Nat)) (after : List Nat)

theorem Core.enterRecord_kseq : (c.enterRecord slot ws own spec pages after).kseq = c.nextSeq := rfl

/-- The entry of a record waits, with the next sequence number, bound to no unit. -/
theorem Core.enterRecord_entry : ∃ e, (c.enterRecord slot ws own spec pages after).entry slot = some e ∧
    e.words = ws.set 0 (ws.getD 0 0 &&& ~~~0x800) ∧ e.state = .waiting ∧ e.seq = c.nextSeq ∧ e.prio = (ws.getD 0 0).toNat / 16 % 128 ∧
    e.passes = 0 ∧ e.ownPost = own ∧ e.spec = spec ∧ e.pages = pages ∧ e.after = after :=
  ⟨_, SMap.get_set_self none slot (some _) (c.bindRefs ws spec).1.window, rfl, rfl, rfl, rfl, rfl, rfl, rfl, rfl, rfl⟩

end

section
variable {s : State} {ws : List Word} {n : Nat} (slot : s.core.freeSlot = some n)
include slot

/-- A record whose tag the purge filter holds takes a number and no slot. -/
theorem State.enterLocal_filtered (filtered : s.filtered s.core.launch (recTag ws) = true) (pages : List (Nat × Nat)) (spec : Bool) :
    s.enterLocal ws pages spec = (s.setCore Core.discardRecord, s.core.nextSeq * 256 + n) := by
  rw [State.enterLocal]
  simp only [filtered, slot]
  rfl

/-- A record whose tag the filter does not hold takes the free slot. -/
theorem State.enterLocal_enters (unfiltered : s.filtered s.core.launch (recTag ws) = false) (pages : List (Nat × Nat)) (spec : Bool) :
    s.enterLocal ws pages spec =
      ({ s with core := s.core.enterRecord n ws true spec pages (s.outstanding s.sid false) }, s.core.nextSeq * 256 + n) := by
  rw [State.enterLocal]
  simp only [unfiltered, slot]
  rfl

end

/-! ### The results of a POST (R213) -/

/-- The state `t` with the results of a POST that issues in `s`: the handle, and with .nb whether the record was taken. -/
def State.postGives (s t : State) (h : Hdr) (o : PostArgs) (handle : Word) (mark : Mark) (ok : Bool) : State :=
  let given := o.hw.elim t fun d => t.queues (s.result1 h (.g d) (lowBits 32) (handle.setWidth 1024) 1 0 mark)
  let told := o.nb.elim given fun p => given.queues (s.result1 h (.p p) (lowBits 1) (if ok then 1 else 0) 1 0 .none)
  told.spends (addedCycles false h.prot)

section
variable {s t : State} (clean : t.strm.upsets = []) (pos : t.strm.pos = s.strm.pos) (h : Hdr) (o : PostArgs)
include clean pos

/-- A second result of the same bundle. -/
theorem State.result_queues_after (f : Flight) (dst : Dst) (bits val : VReg) (lat : Nat) (flags : Word) (mark : Mark) :
    (t.queues f).result h false 0 dst bits val lat flags mark = (t.queues f).queues (s.result1 h dst bits val lat flags mark) :=
  State.result_queues (t := t.queues f) clean pos ..

theorem postResults_eq (n : Nat) (ok : Bool) :
    (postResults t h o n ok).spends (addedCycles false h.prot) = s.postGives t h o (BitVec.ofNat 32 n) .none ok := by
  unfold postResults State.postGives
  rcases o.hw with _ | d <;> rcases o.nb with _ | p <;>
    simp only [State.resG, State.resP, Option.elim, State.result_queues clean pos, State.result_queues_after clean pos]

end

/-! ### POST (R212, R213) -/

section
variable {s : State} {h : Hdr} {o : PostArgs}

/-- Where no run-ahead has resolved, POST enters its record. -/
theorem exec_post_eq (c : s.Clear h o.regs) (free : s.acquiring = false) (alone : s.resolvedRun = none) :
    exec (.post h o) s = (postEnter s h o (s.rdA o.a).toNat).close h (addedCycles false h.prot) s := by
  rw [exec_post, execPost, runI_clear c]
  simp only [free, alone, Bool.false_eq_true, if_false]

theorem exec_post_ok {t : State} {n : Nat} {ok : Bool} (c : s.Clear h o.regs) (free : s.acquiring = false) (alone : s.resolvedRun = none)
    (clean : t.strm.upsets = []) (pos : t.strm.pos = s.strm.pos) (enters : postEnter s h o (s.rdA o.a).toNat = .ok (postResults t h o n ok)) :
    exec (.post h o) s = .next (s.postGives t h o (BitVec.ofNat 32 n) .none ok) := by
  rw [exec_post_eq c free alone, enters, ← postResults_eq clean pos]
  rfl

theorem postFull_iff :
    (decide (224 ≤ s.core.localEntries) || s.core.freeSlot.isNone) = true ↔ 224 ≤ s.core.localEntries ∨ s.core.freeSlot = none := by
  rw [Bool.or_eq_true, decide_eq_true_eq, Option.isNone_iff_eq_none]

/-- Without room POST waits, or with .nb tells so. -/
theorem postEnter_full {a : Nat} (full : 224 ≤ s.core.localEntries ∨ s.core.freeSlot = none) :
    postEnter s h o a = if o.nb.isSome then .ok (postResults s h o 0xFFFFFFFF false) else .wait s :=
  if_pos (postFull_iff.2 full)

section
variable {a : Nat} {ws : List Word} (room : (decide (224 ≤ s.core.localEntries) || s.core.freeSlot.isNone) = false)
  (inside : a + 64 ≤ winSize s.core.pool) (clean : s.core.poisoned a 64 = false) (image : s.localWords a 16 = ws)
include room inside clean image

/-- A malformed record raises TASK_FORMAT, or with .s marks the handle. -/
theorem postEnter_malformed (unstruck : s.strm.upsets = []) (bad : s.core.taskFormat ws = true) :
    (postEnter s h o a).close h (addedCycles false h.prot) s = .next (if o.s then s.postGives s h o 0xFFFFFFFF (.deferred 11 0) false
      else s.takeTrap 11 0 false h.slot h.prot false) := by
  have fault : s.postCheck ws = .error (11, 0) := if_pos bad
  simp only [postEnter, room, State.localFault_window inside, clean, image, fault, bad, Bool.not_true, Bool.false_and, Bool.false_eq_true,
    if_false]
  cases o.s
  · rfl
  · have ones : (0xFFFFFFFF : Word).setWidth 1024 = (0xFFFFFFFF : VReg) := by simp
    refine congrArg Host.Outcome.next (a₁ := State.spends _ (addedCycles false h.prot)) ?_
    unfold State.postGives
    rcases o.hw with _ | d <;> rcases o.nb with _ | p <;>
      simp only [if_true, State.resP, Option.elim, State.result_queues unstruck rfl, State.result_queues_after unstruck rfl, ones]

/-- A record that is valid, and whose pages no walk blocks, is entered or discarded. -/
theorem postEnter_valid {t : State} {pages : List (Nat × Nat)} (unblocked : s.pagesBlocked (s.core.lazyPages s.vdev ws) = false)
    (valid : s.postCheck ws = .ok (t, pages)) :
    postEnter s h o a = .ok (postResults (t.enterLocal ws pages false).1 h o (t.enterLocal ws pages false).2 true) := by
  simp only [postEnter, room, State.localFault_window inside, clean, image, valid, unblocked, Bool.and_false, Bool.false_eq_true, if_false]

end
end

theorem postInstruction : Claims.PostInstruction := by
  intro h o s c free alone a ws gives full
  have given : ∀ t handle mark ok, gives t handle mark ok = s.postGives t h o handle mark ok := fun t handle mark ok => by
    simp only [gives, State.postGives]
    rcases o.hw with _ | d <;> rcases o.nb with _ | p <;> rfl
  simp only [given]
  refine ⟨fun noRoom => ?full, fun someRoom inside clean => ⟨fun bad => ?bad, fun n slot unblocked => ?record⟩⟩
  case full =>
    rw [exec_post_eq c free alone, postEnter_full noRoom]
    split
    · exact congrArg Host.Outcome.next (postResults_eq c.upsets rfl ..)
    · rfl
  all_goals have room := Bool.eq_false_iff.2 (mt postFull_iff.1 someRoom)
  case bad =>
    rw [exec_post_eq c free alone, postEnter_malformed room inside clean rfl c.upsets bad]
  case record =>
    refine ⟨fun good filtered => ?_, fun t pages valid unfiltered => ?_⟩
    · have valid : s.postCheck ws = .ok (s, []) := (if_neg (ne_true_of_eq_false good)).trans (if_pos filtered)
      have enters := postEnter_valid (h := h) (o := o) room inside clean rfl unblocked valid
      rw [State.enterLocal_filtered slot filtered] at enters
      exact exec_post_ok c free alone (t := s.setCore Core.discardRecord) c.upsets rfl enters
    · have same := State.sameButDies_of_postCheck valid
      have enters := postEnter_valid (h := h) (o := o) room inside clean rfl unblocked valid
      rw [State.enterLocal_enters (by rw [same.core]; exact slot) (by rw [same.filtered, same.core]; exact unfiltered), same.core] at enters
      refine ⟨s.core.enterRecord n ws true false pages (t.outstanding t.sid false), ?_, rfl, Core.enterRecord_entry ..⟩
      exact exec_post_ok c free alone ((congrArg _ same.strm).trans c.upsets) (congrArg _ same.strm) enters

/-! ### POSTX and CSIG.R (R215, R219) -/

section
variable {s : State} {lc : Nat} {go : Eff}

theorem toCore_nowhere (nowhere : s.lcoreAt lc = .nowhere) : toCore s lc go = .trap 8 lc := by
  rw [toCore, nowhere]

/-- A request to a logical core of the launch goes on where no earlier one was lost and no acquire is outstanding. -/
theorem toCore_reached (reached : s.lcoreAt lc ≠ .nowhere) (kept : s.strm.lost = []) (free : s.acquiring = false) : toCore s lc go = go := by
  unfold toCore
  cases found : s.lcoreAt lc with
  | nowhere => exact absurd found reached
  | here => simp only [free, Bool.false_eq_true, if_false]
  | rank r => simp only [State.lostFor, kept, List.find?_nil, free, Bool.false_eq_true, if_false]

end

/-- POSTX that finds room in its queue does what its record makes of it. -/
theorem postx_reads {s : State} {o : PostxArgs} {ws : List Word} {go : List Word → Eff} {e : Eff} (room : (s.ownQ o.q).length < 8)
    (free : s.acquiring = false) (inside : (s.rdA o.a).toNat + 64 ≤ winSize s.core.pool) (clean : s.core.poisoned (s.rdA o.a).toNat 64 = false)
    (image : s.localWords (s.rdA o.a).toNat 16 = ws) (goes : go ws = e) :
    (if (s.ownQ o.q).length ≥ 8 then Eff.trap 5 0 else withImage s (s.rdA o.a) 16 go) = e :=
  (if_neg (Nat.not_le.2 room)).trans ((withImage_reads free inside clean image).trans goes)

theorem remotePosts : Claims.RemotePosts := by
  refine ⟨fun h o s c => ⟨fun full => runI_trap c (if_pos full), fun room free inside clean => ?postx⟩, fun h o s c => ?csigR⟩
  case postx =>
    intro ws lc
    have reads {go : List Word → Eff} {e : Eff} : go ws = e → _ := postx_reads room free inside clean rfl
    have valid (good : recordBad ws = false) {x y : Eff} : (if recordBad ws then x else y) = y := if_neg (ne_true_of_eq_false good)
    refine ⟨fun bad => runI_trap c (reads (if_pos bad)),
      fun good nowhere => runI_trap c (reads ((valid good).trans (toCore_nowhere nowhere))), fun good reached kept => ?_⟩
    exact ⟨_, runI_ok c (reads ((valid good).trans (toCore_reached reached kept free))), SMap.get_set_self ..,
      fun q ne => SMap.get_set_ne _ _ _ ne, rfl, rfl, rfl, rfl, rfl⟩
  case csigR =>
    intro lc
    exact ⟨fun nowhere => runI_trap c (toCore_nowhere nowhere), fun reached kept free => runI_ok c (toCore_reached reached kept free)⟩

/-- Settles O50: POST goes by the room that it finds (`postEnter_full`, `postEnter_malformed`, `postEnter_valid`) and changes nothing but its core,
its results and the counts of pages (`sameButDies_of_postCheck`); POSTX and CSIG.R go by where the logical core is (`toCore_nowhere`,
`toCore_reached`). -/
theorem posts : Obligations.Posts := ⟨postInstruction, remotePosts⟩

end Sys2Proof.Machine
end

section
/-! SUPPORT. What the shared updates of the domain leave as it was: writes of HBM, records of the log rings, packages and virtual devices
(09 R236, R252, 16 R394 to R396, 22 R476). -/

namespace Sys2Proof.Machine

section
variable (s : State) (p v k a : Nat)

/-! ### Virtual devices -/

@[simp] theorem State.pkgOf_modPkg_self (f : Pkg → Pkg) : (s.modPkg p f).pkgOf p = f (s.pkgOf p) := SMap.get_set_self ..

@[simp] theorem State.vdevOf_modVdev_self (f : Vdev → Vdev) : (s.modVdev p v f).vdevOf p v = f (s.vdevOf p v) := by
  rw [State.modVdev, State.vdevOf, State.pkgOf_modPkg_self]
  exact SMap.get_set_self ..

/-- Two updates that agree on the virtual device as it is are one. -/
theorem State.modVdev_congr {f g : Vdev → Vdev} (same : f (s.vdevOf p v) = g (s.vdevOf p v)) : s.modVdev p v f = s.modVdev p v g := by
  unfold State.modVdev State.modPkg SMap.modify
  exact congrArg (fun x => s.putPkg p { s.pkgOf p with vdevs := SMap.set Vdev.reset v x (s.pkgOf p).vdevs }) same

/-- An update of a core looks at that core alone. -/
theorem State.modCore_congr {f g : Core → Core} (same : f (s.coreOf k) = g (s.coreOf k)) : s.modCore k f = s.modCore k g := by
  unfold State.modCore
  rw [same]

/-! ### HBM -/

@[simp] theorem State.modDie_hbm (f : Die → Die) : (s.modDie k f).sys.hbm = s.sys.hbm := rfl
@[simp] theorem State.modCore_sys (f : Core → Core) : (s.modCore k f).sys = s.sys := State.sys_putCore ..

/-- A write of HBM changes bytes, poison and the parity updates that are to be sent, and nothing else. -/
theorem State.hbmWrite_eq (bs : List Byte) : s.hbmWrite a bs = { s with sys := { s.sys with
    hbm := Memory.writeBytes a bs s.sys.hbm, hbmPoison := (s.hbmWrite a bs).sys.hbmPoison, parityOut := (s.hbmWrite a bs).sys.parityOut } } := by
  unfold State.hbmWrite
  dsimp only
  split
  · split <;> rfl
  · rfl

@[simp] theorem State.hbmWrite_hbm (bs : List Byte) : (s.hbmWrite a bs).sys.hbm = Memory.writeBytes a bs s.sys.hbm := by rw [State.hbmWrite_eq]
@[simp] theorem State.hbmWrite_strm (bs : List Byte) : (s.hbmWrite a bs).strm = s.strm := by rw [State.hbmWrite_eq]

theorem State.read_hbmWrite (bs : List Byte) (x : Nat) : Memory.read (s.hbmWrite a bs).sys.hbm x =
    if a ≤ x ∧ x < a + bs.length then bs.getD (x - a) 0 else Memory.read s.sys.hbm x := by
  rw [State.hbmWrite_hbm, Memory.read_writeBytes]

@[simp] theorem State.markDirty_hbm : (s.markDirty k a).sys.hbm = s.sys.hbm := by
  unfold State.markDirty
  split
  · split <;> rfl
  · rfl

@[simp] theorem State.markDevDirty_hbm : (s.markDevDirty p v a).sys.hbm = s.sys.hbm := by
  unfold State.markDevDirty
  split <;> rfl

@[simp] theorem State.granuleCount_hbm : (s.granuleCount k a).sys.hbm = s.sys.hbm := by
  unfold State.granuleCount
  split <;> rfl

/-! ### Records of the log rings -/

theorem State.sameButSys_hbmWrite (bs : List Byte) : s.SameButSys (s.hbmWrite a bs) := by
  rw [State.SameButSys, State.hbmWrite_eq]

@[simp] theorem State.hbmWrite_pkgs (bs : List Byte) : (s.hbmWrite a bs).sys.pkgs = s.sys.pkgs := by rw [State.hbmWrite_eq]

/-- A record goes to the log of its die, or is lost. -/
theorem State.sherd_cases (r : Sherd) : (∃ d, s.sherd k r = s.putDie k d) ∨
    ∃ d addr bs rec, s.sherd k r = { (s.putDie k d).hbmWrite addr bs with
      sys := { ((s.putDie k d).hbmWrite addr bs).sys with sherds := ((s.putDie k d).hbmWrite addr bs).sys.sherds ++ [rec] } } := by
  unfold State.sherd State.sherdSeq State.logRecord
  dsimp only
  split
  · exact .inl ⟨_, rfl⟩
  · exact .inr ⟨_, _, _, _, rfl⟩

theorem State.sameButSys_sherd (r : Sherd) : s.SameButSys (s.sherd k r) := by
  obtain ⟨d, eq⟩ | ⟨d, addr, bs, rec, eq⟩ := s.sherd_cases k r
  · rw [eq]; rfl
  · rw [eq]
    exact (show s.SameButSys (s.putDie k d) from rfl).trans ((State.sameButSys_hbmWrite ..).trans rfl)

@[simp] theorem State.sherd_pkgs (r : Sherd) : (s.sherd k r).sys.pkgs = s.sys.pkgs := by
  obtain ⟨d, eq⟩ | ⟨d, addr, bs, rec, eq⟩ := s.sherd_cases k r
  · rw [eq]; rfl
  · rw [eq]
    exact State.hbmWrite_pkgs ..

end

end Sys2Proof.Machine
end

section
/-! SUPPORT. The canonical form of memories under stores (09 R229, R236, R239, log 3), and O33. -/

namespace Sys2Proof.Machine

/-! ### A canonical map is determined by what it reads as -/

namespace SMap

variable {α : Type} [DecidableEq α] {d : α}

theorem wfFrom_cons {lo i : Nat} {v : α} {m : SMap α} :
    wfFrom d lo ((i, v) :: m) = true ↔ lo ≤ i ∧ v ≠ d ∧ wfFrom d (i + 1) m = true := by
  simp only [wfFrom, Bool.and_eq_true, decide_eq_true_eq, and_assoc]

theorem get_of_lt {lo k : Nat} {m : SMap α} (form : wfFrom d lo m = true) (lt : k < lo) : get d k m = d := by
  induction m generalizing lo with
  | nil => rfl
  | cons e m ih =>
    obtain ⟨i, v⟩ := e
    obtain ⟨low, -, tail⟩ := wfFrom_cons.1 form
    rw [get, if_neg (by omega), ih tail (by omega)]

/-- The first key of a map reads as an entry, so no map that reads alike begins above it. -/
theorem not_lt_of_get_eq {lo i j : Nat} {v w : α} {m n : SMap α} (formM : wfFrom d lo ((i, v) :: m) = true)
    (formN : wfFrom d lo ((j, w) :: n) = true) (same : get d i ((i, v) :: m) = get d i ((j, w) :: n)) : ¬ i < j := fun lt => by
  obtain ⟨-, entry, -⟩ := wfFrom_cons.1 formM
  obtain ⟨-, rest⟩ := wfFrom_cons.1 formN
  rw [get, if_pos rfl, get_of_lt (wfFrom_cons.2 ⟨le_rfl, rest⟩) lt] at same
  exact entry same

theorem eq_of_get_eq {lo : Nat} {m n : SMap α} (formM : wfFrom d lo m = true) (formN : wfFrom d lo n = true)
    (same : ∀ k, get d k m = get d k n) : m = n := by
  induction m generalizing lo n with
  | nil =>
    cases n with
    | nil => rfl
    | cons e n =>
      obtain ⟨-, entry, -⟩ := wfFrom_cons.1 formN
      exact absurd ((if_pos rfl).symm.trans (same e.1).symm) entry
  | cons e m ih =>
    obtain ⟨i, v⟩ := e
    obtain ⟨-, entry, tailM⟩ := wfFrom_cons.1 formM
    cases n with
    | nil => exact absurd ((if_pos rfl).symm.trans (same i)) entry
    | cons e' n =>
      obtain ⟨j, w⟩ := e'
      obtain ⟨-, -, tailN⟩ := wfFrom_cons.1 formN
      obtain rfl : i = j := le_antisymm (not_lt.1 (not_lt_of_get_eq formN formM (same j).symm)) (not_lt.1 (not_lt_of_get_eq formM formN (same i)))
      obtain rfl : v = w := by simpa [get] using same i
      refine congrArg _ (ih tailM tailN fun k => ?_)
      by_cases beyond : i < k
      · simpa [get, Nat.ne_of_lt beyond] using same k
      · rw [get_of_lt tailM (by omega), get_of_lt tailN (by omega)]

end SMap

/-! ### Local stores (R229) -/

theorem Core.wf_writeLocal {c : Core} (form : Memory.wf c.loc = true) (a : Nat) (bs : List Byte) :
    Memory.wf (c.writeLocal a bs).loc = true := by
  rw [Core.writeLocal, Core.testHeld_eq]
  exact Memory.wf_writeBytes form a bs

section
variable {s u : State}

/-- A store writes local memory, or the commit buffer and not local memory. -/
theorem State.wf_localWrite {a : Nat} {bs : List Byte} (written : s.localWrite a bs = some u) (form : Memory.wf s.core.loc = true) :
    Memory.wf u.core.loc = true := by
  cases slot : s.specSlot with
  | none =>
    obtain rfl := Option.some.inj ((State.localWrite_plain slot a bs).symm.trans written)
    exact Core.wf_writeLocal form a bs
  | some n =>
    simp only [State.localWrite, slot, Option.ite_none_left_eq_some, Option.some.injEq] at written
    rw [← written.2]
    exact form

theorem localStore_wf {ea : Addr} {bs : List Byte} {go : State → State} (ok : Claims.Writable s ea.toNat bs.length)
    (form : Memory.wf s.core.loc = true) : ∃ u : State, localStore s ea bs go = .ok (go u) ∧ Memory.wf u.core.loc = true := by
  obtain ⟨window, free, room⟩ := ok
  obtain ⟨u, written⟩ := State.localWrite_room (a := ea.toNat) room
  refine ⟨u, ?_, State.wf_localWrite written form⟩
  simp only [localStore, State.localFault_window window, free, written, Bool.false_eq_true, if_false]

@[simp] theorem State.postInc_core (s : State) (h : Hdr) (vec : Bool) (a : Nat) (m : Bool) (off : Off) :
    (s.postInc h vec a m off).core = s.core := by
  unfold State.postInc
  split <;> rfl

end

/-- A scalar store keeps local memory canonical. -/
theorem runI_store_wf {s t : State} {h : Hdr} {us : List RegUse} {items : State → Items} {ea : Addr} {bs : List Byte} {n b : Nat} {m : Bool}
    {off : Off} {eff : State → Eff} (c : s.Clear h us) (ok : Claims.Writable s ea.toNat n) (len : bs.length = n)
    (he : eff s = localStore s ea bs fun t => t.postInc h false b m off) (runs : runI h (markReads us) items s eff = .next t)
    (form : Memory.wf s.core.loc = true) : Memory.wf t.core.loc = true := by
  obtain ⟨u, stores, kept⟩ := localStore_wf (go := fun t => t.postInc h false b m off) (len ▸ ok) form
  obtain rfl := Host.Outcome.next.inj ((runI_ok c (he.trans stores)).symm.trans runs)
  rwa [State.spends_core, State.postInc_core]

/-- A store of a whole register performs, and keeps local memory canonical. -/
theorem vecStore_whole_wf {s : State} {v : VReg} {a : Nat} {m : Bool} {off : Off} {go : State → State}
    (ok : Claims.Writable s (s.ea a m off).toNat 128) (form : Memory.wf s.core.loc = true) : ∃ u : State,
      vecStore s v (s.wholePart a m off) go = .ok ((go u).stallFor ((s.wholePart a m off).map fun p => (p.va, p.n))) ∧
      Memory.wf u.core.loc = true := by
  obtain ⟨window, free, room⟩ := ok
  obtain ⟨u, written⟩ := State.localWrite_room (a := (s.ea a m off).toNat) (bs := partBytes v ⟨0, (s.ea a m off).toNat, 128⟩)
    (by rwa [partBytes, leBytes_length])
  refine ⟨u, ?_, State.wf_localWrite written form⟩
  simp only [vecStore, State.wholePart, List.findSome?_cons, List.findSome?_nil, State.localFault_window window, free, State.writeParts, written,
    Bool.false_eq_true, if_false]

theorem State.stallFor_core (s : State) (as : List (Nat × Nat)) : (s.stallFor as).core = s.core := rfl

/-! ### Far stores (R236, R239) -/

/-- HBM stays canonical from `s` to `t`. -/
structure State.KeepsHbmForm (s t : State) : Prop where
  wf : Memory.wf s.sys.hbm = true → Memory.wf t.sys.hbm = true

namespace State.KeepsHbmForm

variable {s t u : State}

theorem of_eq (same : t.sys.hbm = s.sys.hbm) : s.KeepsHbmForm t := ⟨fun form => by rwa [same]⟩

theorem trans (st : s.KeepsHbmForm t) (tu : t.KeepsHbmForm u) : s.KeepsHbmForm u := ⟨fun form => tu.wf (st.wf form)⟩

theorem foldl {α : Type} {f : State → α → State} (step : ∀ (t : State) a, t.KeepsHbmForm (f t a)) (l : List α) (s : State) :
    s.KeepsHbmForm (l.foldl f s) := by
  induction l generalizing s with
  | nil => exact of_eq rfl
  | cons a l ih => exact (step s a).trans (ih _)

end State.KeepsHbmForm

section
variable (s : State)

theorem State.keepsHbmForm_hbmWrite (a : Nat) (bs : List Byte) : s.KeepsHbmForm (s.hbmWrite a bs) where
  wf form := by
    rw [State.hbmWrite_hbm]
    exact Memory.wf_writeBytes form a bs

theorem State.keepsHbmForm_backDirty (k a : Nat) : s.KeepsHbmForm (s.backDirty k a) := by
  unfold State.backDirty
  refine .foldl (fun t ⟨v, _⟩ => .foldl (fun u ⟨va, pa⟩ => ?_) _ _) _ _
  dsimp only
  split
  · exact .of_eq (u.markDevDirty_hbm ..)
  · exact .of_eq rfl

/-- Pieces of memory that are written once a line has been counted and its pages marked. -/
theorem State.keepsHbmForm_pieces (r n k : Nat) (l : List (Nat × List Byte)) :
    s.KeepsHbmForm (l.foldl (fun t x => t.hbmWrite x.1 x.2) ((s.granuleCount r n).backDirty k n)) :=
  ((State.KeepsHbmForm.of_eq (s.granuleCount_hbm r n)).trans ((s.granuleCount r n).keepsHbmForm_backDirty k n)).trans
    (.foldl (fun t x => t.keepsHbmForm_hbmWrite x.1 x.2) l _)

/-- A dirty line of the slice goes to memory by writes of HBM. -/
theorem State.keepsHbmForm_l2Back (k line : Nat) : s.KeepsHbmForm (s.l2Back k line) := by
  have written : ∀ d l, s.KeepsHbmForm (List.foldl (fun t (x : Nat × List Byte) => t.hbmWrite x.1 x.2)
      (((s.putDie (rankOfCore k) d).granuleCount (rankOfCore k) (128 * line)).backDirty k (128 * line)) l) := fun d l =>
    (State.KeepsHbmForm.of_eq (s.putDie_sys_hbm (rankOfCore k) d)).trans (State.keepsHbmForm_pieces _ _ _ _ l)
  unfold State.l2Back
  dsimp only
  split
  · exact .of_eq rfl
  · split
    · exact written _ _
    · exact .trans (written _ _) (.of_eq rfl)

theorem State.keepsHbmForm_l2Evict (k line : Nat) : s.KeepsHbmForm (s.l2Evict k line) := by
  unfold State.l2Evict
  dsimp only
  split
  · split
    · exact (s.keepsHbmForm_l2Back ..).trans (.of_eq rfl)
    · exact .of_eq rfl
  · exact .of_eq rfl

theorem State.keepsHbmForm_l1Back (k line : Nat) : s.KeepsHbmForm (s.l1Back k line) := by
  unfold State.l1Back
  dsimp only
  have moved : ∀ (c : Core) (f : Die → Die), s.KeepsHbmForm ((s.putCore k c).modDie (rankOfCore k) f) := fun c f =>
    .of_eq (by rw [State.modDie_hbm, State.sys_putCore])
  split
  · exact moved _ _
  · exact ((moved _ _).trans (State.keepsHbmForm_backDirty ..)).trans (State.keepsHbmForm_l2Evict ..)

theorem State.keepsHbmForm_l1Evict (k line : Nat) : s.KeepsHbmForm (s.l1Evict k line) := by
  unfold State.l1Evict
  dsimp only
  split
  · split
    · exact (s.keepsHbmForm_l1Back ..).trans (.of_eq (by rw [State.l1Drop, State.modCore_sys]))
    · exact .of_eq rfl
  · exact .of_eq rfl

theorem State.keepsHbmForm_l1Write (k a : Nat) (bs : List Byte) : s.KeepsHbmForm (s.l1Write k a bs) := by
  unfold State.l1Write
  exact (State.KeepsHbmForm.of_eq (by rw [State.modCore_sys])).trans (.foldl (fun t l => t.keepsHbmForm_l1Evict k l) _ _)

/-- A far store writes L1, whose full cache gives lines back, or HBM. -/
theorem State.keepsHbmForm_farPut (x : FarCtx) (va : Nat) (p : FarHit) (bs : List Byte) : s.KeepsHbmForm (s.farPut x va p bs) := by
  have put : s.KeepsHbmForm (if p.cached then s.l1Write x.core p.addr bs else s.hbmWrite p.addr bs) := by
    split
    · exact s.keepsHbmForm_l1Write ..
    · exact s.keepsHbmForm_hbmWrite ..
  unfold State.farPut
  dsimp only
  split
  · exact put
  · exact put.trans (.of_eq (by rw [State.markDevDirty_hbm, State.markDirty_hbm]))

theorem State.keepsHbmForm_farWrite (x : FarCtx) (va : Nat) (p : FarHit) (bs : List Byte) : s.KeepsHbmForm (s.farWrite x va p bs) := by
  unfold State.farWrite
  dsimp only
  split
  · exact s.keepsHbmForm_farPut ..
  · exact (s.keepsHbmForm_farPut ..).trans (.of_eq (State.granuleCount_hbm ..))

end

/-- Settles O33: canonical maps that read alike are equal (`SMap.eq_of_get_eq`), a local store writes local memory or leaves it
(`State.wf_localWrite`), and a far store changes HBM by writes of it alone (`State.keepsHbmForm_farWrite`). -/
theorem memoryForm : Obligations.MemoryForm := by
  refine ⟨fun m n => SMap.eq_of_get_eq, ⟨rfl, rfl, rfl⟩, fun h o s t c ok runs => ?st, fun h o s t c ok runs => ?sta,
    fun h o s t c ok runs form => ?vst, fun s x va p bs => (s.keepsHbmForm_farWrite x va p bs).wf⟩
  case st => exact runI_store_wf c ok (leBytes_length ..) rfl runs
  case sta => exact runI_store_wf c ok (leBytes_length ..) rfl runs
  case vst =>
    obtain ⟨u, stores, kept⟩ := vecStore_whole_wf (go := fun t => t.postInc h true o.a o.m o.off) (v := s.rdV o.v) ok form
    obtain rfl := Host.Outcome.next.inj ((vecRun_ok c stores).symm.trans runs)
    rwa [State.spends_core, State.stallFor_core, State.postInc_core]

end Sys2Proof.Machine
end

section
/-! SUPPORT. Page-table writes and the invalidation of translations (09 R247, R248), and O11. -/

namespace Sys2Proof.Machine

/-! ### A firmware-privileged instruction that nothing stops (23 R504) -/

section
variable {s t : State} {h : Hdr} {i : Instr} {us : List RegUse} {items : State → Items} {eff : State → Eff}

theorem runFw_clear (c : s.FwClear h us) :
    runFw h i (markReads us) items s eff = (eff s).close h (addedCycles false h.prot) s := by
  obtain ⟨clear, committed, settled, free⟩ := c
  rw [runFw, runI_clear clear, if_neg (by simp [committed, settled]), if_neg (by simp [free])]

theorem runFw_ok (c : s.FwClear h us) (ok : eff s = .ok t) :
    runFw h i (markReads us) items s eff = .next (t.spends (addedCycles false h.prot)) := by
  rw [runFw_clear c, ok]; rfl

theorem runFw_wait (c : s.FwClear h us) (wait : eff s = .wait t) :
    runFw h i (markReads us) items s eff = .next (t.setLatch fun l => { l with wait := true }) := by
  rw [runFw_clear c, wait]; rfl

theorem runFw_trap {cause val : Nat} (c : s.FwClear h us) (trap : eff s = .trap cause val) :
    runFw h i (markReads us) items s eff = .next (s.takeTrap cause val false h.slot h.prot false) := by
  rw [runFw_clear c, trap]; rfl

theorem runFw_resP {n lat : Nat} {v : Bool} (c : s.FwClear h us) (clean : t.strm.upsets = []) (ok : eff s = .ok (t.resP h n v lat)) :
    runFw h i (markReads us) items s eff = .next (t.givesP h n v lat) := by
  rw [runFw_ok c ok, State.resP_clean clean]

end

/-! ### Translations that are dropped -/

/-- A core without the translations that a test names. -/
def Core.withoutTlb (hit : Nat → Tlb → Bool) (c : Core) : Core := { c with tlb := c.tlb.filter fun (key, e) => match e with
  | some x => !(hit key x)
  | none => false }

theorem SMap.mem_of_get_eq_some {α : Type} {k : Nat} {v : α} {m : SMap (Option α)} (found : SMap.get none k m = some v) : (k, some v) ∈ m := by
  induction m with
  | nil => cases found
  | cons e m ih =>
    obtain ⟨j, w⟩ := e
    rw [SMap.get] at found
    split at found
    · next eq => rw [eq, found]; exact List.mem_cons_self
    · exact List.mem_cons_of_mem _ (ih found)

theorem Core.unhit_of_withoutTlb {hit : Nat → Tlb → Bool} {c : Core} {key : Nat} {e : Tlb}
    (found : SMap.get none key (c.withoutTlb hit).tlb = some e) : hit key e = false := by
  simpa using (List.mem_filter.1 (SMap.mem_of_get_eq_some found)).2

section
variable (s : State) (k : Nat) (f : Core → Core) (pkg : Nat) (hit : Nat → Tlb → Bool)

/-- The cores of a package that hold translations. -/
def State.tlbCores : List Nat := (s.ck :: s.cores.map Prod.fst).filter fun k => pkgOfCore k = pkg && !(isParkKey k)

theorem State.tlbDrop_eq : s.tlbDrop pkg hit = (s.tlbCores pkg).foldl (fun t k => t.modCore k (Core.withoutTlb hit)) s := rfl

theorem State.modCore_strm : (s.modCore k f).strm = s.strm := by unfold State.modCore State.putCore; split <;> rfl
theorem State.modCore_ck : (s.modCore k f).ck = s.ck := by unfold State.modCore State.putCore; split <;> rfl

theorem State.modCore_core : (s.modCore k f).core = if k = s.ck then f s.core else s.core := by
  unfold State.modCore State.putCore
  split
  · next own => rw [State.coreOf, if_pos own]
  · rfl

/-- An update of cores, the issuing stream's own among them, leaves it with what the update makes of every core. -/
theorem State.core_foldl_modCore {P : Core → Prop} (makes : ∀ c, P (f c)) {ks : List Nat} {t : State} (start : P t.core ∨ t.ck ∈ ks) :
    P (ks.foldl (fun t k => t.modCore k f) t).core := by
  induction ks generalizing t with
  | nil => exact start.resolve_right List.not_mem_nil
  | cons k ks ih =>
    refine ih ?_
    rw [State.modCore_core, State.modCore_ck]
    split
    · exact .inl (makes _)
    · next other => exact start.imp_right fun mem => (List.mem_cons.1 mem).resolve_left fun eq => other eq.symm

theorem State.foldl_modCore_frame (ks : List Nat) : (ks.foldl (fun t k => t.modCore k f) s).strm = s.strm ∧
    (ks.foldl (fun t k => t.modCore k f) s).sys = s.sys := by
  induction ks generalizing s with
  | nil => exact ⟨rfl, rfl⟩
  | cons k ks ih =>
    obtain ⟨strm, sys⟩ := ih (s.modCore k f)
    exact ⟨strm.trans (s.modCore_strm k f), sys.trans (s.modCore_sys k f)⟩

theorem State.tlbDrop_strm : (s.tlbDrop pkg hit).strm = s.strm := by
  rw [State.tlbDrop_eq, (s.foldl_modCore_frame _ _).1]

theorem State.tlbDrop_sys : (s.tlbDrop pkg hit).sys = s.sys := by
  rw [State.tlbDrop_eq, (s.foldl_modCore_frame _ _).2]

end

/-- The issuing core is one of its package, and keeps no translation that the test names. -/
theorem State.unhit_of_tlbDrop {s : State} {hit : Nat → Tlb → Bool} (own : isParkKey s.ck = false) {key : Nat} {e : Tlb}
    (found : SMap.get none key (s.tlbDrop s.pkg hit).core.tlb = some e) : hit key e = false := by
  have mem : s.ck ∈ s.tlbCores s.pkg := List.mem_filter.2 ⟨List.mem_cons_self, by simp [State.pkg, own]⟩
  rw [State.tlbDrop_eq] at found
  exact State.core_foldl_modCore (P := fun c => SMap.get none key c.tlb = some e → hit key e = false)
    _ (fun _ => Core.unhit_of_withoutTlb) (.inr mem) found

/-! ### PTW (R247) -/

section
variable {s : State} {ae av ea new : Nat} {busy : Nat → Eff} {done : State → State} (addr : (s.rdA ae).toNat = ea)
include addr

theorem ptw_misaligned (odd : ea % 8 ≠ 0) : ptw s ae av busy done = .trap 7 ea := by
  subst addr
  exact if_pos odd

theorem ptw_outside (aligned : ea % 8 = 0) (outside : ¬ (isHbm ea = true ∧ physPkg ea = s.pkg)) : ptw s ae av busy done = .trap 17 ea := by
  subst addr
  refine (if_neg (not_not.2 aligned)).trans (if_pos ?_)
  rw [Bool.or_eq_true, Bool.not_eq_true', decide_eq_true_eq]
  exact (not_and_or.1 outside).imp_left Bool.eq_false_of_not_eq_true

variable (aligned : ea % 8 = 0) (hbm : isHbm ea = true) (ofPkg : physPkg ea = s.pkg)
include aligned hbm ofPkg

theorem ptw_protected (guarded : s.recordProtected ea = true) : ptw s ae av busy done = .trap 18 ea := by
  subst addr
  exact (if_neg (not_not.2 aligned)).trans ((if_neg (by simp [hbm, ofPkg])).trans (if_pos guarded))

/-- The write of an entry of the package waits for the pages that are translated through it, or is made. -/
theorem ptw_inside (value : (s.rdA av).toNat = new) (unguarded : s.recordProtected ea = false) : ptw s ae av busy done =
    if (ptwGuarded (Memory.readNat s.sys.hbm ea 8) new && s.pinnedThrough ea) = true then busy ea
    else .ok (done ((s.hbmWrite ea (leBytes 8 new)).tlbDrop s.pkg fun _ t => t.path.contains ea)) := by
  subst addr value
  exact (if_neg (not_not.2 aligned)).trans ((if_neg (by simp [hbm, ofPkg])).trans (if_neg (by simp [unguarded])))

end

/-- The bytes of an entry that is written, and of no other. -/
theorem State.read_hbmWrite_leBytes (s : State) (a n v x : Nat) : Memory.read (s.hbmWrite a (leBytes n v)).sys.hbm x =
    if a ≤ x ∧ x < a + n then BitVec.ofNat 8 (v / 256 ^ (x - a)) else Memory.read s.sys.hbm x := by
  rw [State.read_hbmWrite, leBytes_length]
  split
  · rw [leBytes_getD _ _ _ (by omega)]
  · rfl

/-! ### TLBI (R248) -/

section
variable {s : State} {named : Nat × Nat → Bool}

theorem tlbi_drops (free : ∀ x ∈ s.pinnedPages s.pkg, named x = false) :
    tlbi s named = .ok (s.tlbDrop s.pkg fun key _ => named (keyPage key)) :=
  if_neg (by simpa using free)

theorem tlbi_waits (pinned : ∃ x ∈ s.pinnedPages s.pkg, named x = true) : tlbi s named = .wait s :=
  if_pos (List.any_eq_true.2 pinned)

end

/-- Settles O11: PTW goes by its address (`ptw_misaligned`, `ptw_outside`, `ptw_protected`, `ptw_inside`), TLBI by the counted pages, and the
issuing core keeps no translation that is dropped (`State.unhit_of_tlbDrop`). -/
theorem translationCommands : Obligations.TranslationCommands := by
  refine ⟨fun h o p s c => ?ptw, fun h s named free => ?tlbi, fun h o s c => ?all, fun s hit key e own => State.unhit_of_tlbDrop own⟩
  case ptw =>
    intro ea new busy
    refine ⟨fun odd => runFw_trap c (ptw_misaligned rfl odd), fun aligned outside => runFw_trap c (ptw_outside rfl aligned outside),
      fun aligned hbm ofPkg guarded => runFw_trap c (ptw_protected rfl aligned hbm ofPkg guarded), fun aligned hbm ofPkg unguarded => ?_⟩
    have inside {wait : Nat → Eff} {done : State → State} := ptw_inside (av := o.av) (busy := wait) (done := done) rfl aligned hbm ofPkg rfl unguarded
    refine ⟨fun waits => ?_, fun idle => ⟨_, ?_, ?_, rfl, fun x => ?_⟩⟩
    · exact ⟨runFw_wait c (inside.trans (if_pos waits)), runFw_resP c c.1.upsets (inside.trans (if_pos waits))⟩
    · exact runFw_ok c (inside.trans (if_neg (ne_true_of_eq_false idle)))
    · refine runFw_resP c ?_ (inside.trans (if_neg (ne_true_of_eq_false idle)))
      rw [State.tlbDrop_strm, State.hbmWrite_strm]
      exact c.1.upsets
    · rw [State.tlbDrop_sys, State.read_hbmWrite_leBytes]
  case tlbi =>
    intro t
    refine ⟨fun o c eq => ?_, fun o c eq => ?_⟩
    · have names : (fun (x : Nat × Nat) => decide (x.1 = o.vd) && decide ((s.rdA o.a).toNat / 0x10000 ≤ x.2 / 0x10000) &&
          decide (x.2 / 0x10000 < (s.rdA o.a).toNat / 0x10000 + (s.rdG o.g).toNat)) = named := by
        rw [eq]
        funext x
        simp only [Bool.decide_and, Bool.and_assoc]
      exact runFw_ok c ((congrArg (tlbi s) names).trans (tlbi_drops free))
    · subst eq
      exact runFw_ok c (tlbi_drops free)
  case all =>
    refine ⟨fun empty => runFw_ok c (tlbi_drops (by simp [empty])), fun counted => runFw_wait c (tlbi_waits ?_)⟩
    obtain ⟨x, mem⟩ := List.exists_mem_of_ne_nil _ counted
    exact ⟨x, mem, rfl⟩

end Sys2Proof.Machine
end

section
/-! SUPPORT. Queue data, evictions and gating, errors, leaky buckets and spares (09 R235, R236, R238, 11 R287, 16 R388 to R393, 25 R520),
and O58. -/

namespace Sys2Proof.Machine

/-! ### Queue data (R287) -/

/-- Whether a request is a part of another. -/
def Req.isPart (id : Nat) (p : Req) : Bool := match p.wait with
  | .part x _ => x = id
  | _ => false

theorem Req.isPart_iff {id : Nat} {p : Req} : p.isPart id = true ↔ ∃ at_, p.wait = .part id at_ := by
  unfold Req.isPart
  split
  · next x at_ eq => simp [eq]
  · next other => exact iff_of_false Bool.false_ne_true fun ⟨at_, eq⟩ => other id at_ eq

section
variable {s : State} {id : Nat} {r : Req}

theorem anyPart_iff : s.sys.reqs.any (Req.isPart id) = true ↔ ∃ p ∈ s.sys.reqs, ∃ at_, p.wait = .part id at_ := by
  simp only [List.any_eq_true, Req.isPart_iff]

theorem exec_queueDataArrival_none (gone : s.reqOf id = none) : exec (.queueDataArrival id) s = .next s := by
  rw [exec_queueDataArrival, execQueueDataArrival, gone]

theorem exec_queueDataArrival_waits (found : s.reqOf id = some r)
    (waits : r.ready = false ∨ ∃ p ∈ s.sys.reqs, ∃ at_, p.wait = .part id at_) : exec (.queueDataArrival id) s = .next s := by
  rw [exec_queueDataArrival, execQueueDataArrival, found]
  have stays : (s.sys.reqs.any (Req.isPart id) || !r.ready) = true := by
    rw [Bool.or_eq_true, anyPart_iff, Bool.not_eq_true']
    exact waits.symm
  exact congrArg _ (if_pos stays)

theorem complete_of_ready (ready : r.ready = true) (alone : ∀ p ∈ s.sys.reqs, ∀ at_, p.wait ≠ .part id at_) :
    ¬ (s.sys.reqs.any (Req.isPart id) || !r.ready) = true := by
  rw [Bool.or_eq_true, anyPart_iff, ready]
  simpa using alone

section
variable (found : s.reqOf id = some r) (ready : r.ready = true) (alone : ∀ p ∈ s.sys.reqs, ∀ at_, p.wait ≠ .part id at_)
include found ready alone

/-- Data that is complete enters the entry that waits for it. -/
theorem exec_queueDataArrival_entry {q : Nat} (wait : r.wait = .entry q) : exec (.queueDataArrival id) s =
    .next ((s.arriveData r (BitVec.ofNat 1024 (natOfBytes (Memory.readBytes r.data 0 128)))).dropReq id) := by
  rw [exec_queueDataArrival, execQueueDataArrival, found]
  refine congrArg _ ((if_neg (complete_of_ready ready alone)).trans ?_)
  rw [wait]
  rfl

theorem exec_queueDataArrival_atomic {q dst : Nat} {vec : Bool} (wait : r.wait = .atomic q vec dst) : exec (.queueDataArrival id) s =
    .next ((s.fillEntry r.sid id (BitVec.ofNat 1024 (natOfBytes (Memory.readBytes r.data 0 (if vec then 32 else 4)))) .none).dropReq id) := by
  rw [exec_queueDataArrival, execQueueDataArrival, found]
  refine congrArg _ ((if_neg (complete_of_ready ready alone)).trans ?_)
  rw [wait]
  rfl

end

/-- Data whose copies no physical error struck enters its entry as it is. -/
theorem State.arriveData_clean (clean : (s.strmOf r.sid).upsets = []) (data : VReg) : s.arriveData r data = s.fillEntry r.sid r.id data .none := by
  unfold State.arriveData
  have unstruck : (s.strmOf r.sid).upsets.filter (·.site = .data) = [] := by rw [clean]; rfl
  dsimp only
  rw [unstruck]
  split
  · next struck => cases struck
  · rfl

end

/-! ### Evictions (R236) -/

/-- A filter that drops what reads as an entry of a key. -/
theorem SMap.get_filter_of_dropped {α : Type} {d : α} {k : Nat} {p : Nat × α → Bool} (dropped : ∀ v, p (k, v) = false) (m : SMap α) :
    SMap.get d k (m.filter p) = d := by
  induction m with
  | nil => rfl
  | cons e m ih =>
    obtain ⟨i, v⟩ := e
    by_cases keeps : p (i, v) = true
    · have ne : i ≠ k := fun eq => by rw [eq, dropped v] at keeps; cases keeps
      rw [List.filter_cons_of_pos keeps, SMap.get, if_neg ne, ih]
    · rw [List.filter_cons_of_neg keeps, ih]

theorem State.dieOf_modDie_self (s : State) (r : Nat) (f : Die → Die) : (s.modDie r f).dieOf r = f (s.dieOf r) := SMap.get_set_self ..

theorem l2Key_line (k line : Nat) {j : Nat} (lt : j < 128) : l2Key k (128 * line + j) / 128 = l2Key k (128 * line) / 128 := by
  unfold l2Key
  omega

section
variable (s : State) (k line : Nat) {j : Nat} (lt : j < 128)
include lt

theorem State.l1Drop_get : SMap.get none (128 * line + j) ((s.l1Drop k line).coreOf k).l1 = none := by
  rw [State.l1Drop, State.coreOf_modCore_self]
  exact SMap.get_filter_of_dropped (fun _ => by simp only [bne_eq_false_iff_eq]; omega) _

theorem State.l2Drop_get : SMap.get none (l2Key k (128 * line + j)) ((s.l2Drop k line).dieOf (rankOfCore k)).l2 = none := by
  rw [State.l2Drop, State.dieOf_modDie_self]
  exact SMap.get_filter_of_dropped (fun _ => by simp only [bne_eq_false_iff_eq, l2Key_line k line lt]) _

end

/-! ### Gating (R235) -/

section
variable {s : State} {k : Nat}

theorem exec_coreGate_runs (runs : ∃ u, u < 9 ∧ (s.strmOf (sidOf k u)).run.active = true) : exec (.coreGate k) s = .next s := by
  rw [exec_coreGate, execCoreGate, if_pos (by simpa using runs)]

theorem exec_coreGate_gates (idle : ∀ u, u < 9 → (s.strmOf (sidOf k u)).run.active = false) :
    exec (.coreGate k) s = .next (s.modCore k fun c => { c with gated := true }) := by
  rw [exec_coreGate, execCoreGate, if_neg (by simpa using idle)]

theorem exec_coreUngate_open (notGated : (s.coreOf k).gated = false) : exec (.coreUngate k) s = .next (s.modCore k id) := by
  rw [exec_coreUngate, execCoreUngate]
  exact congrArg _ (s.modCore_congr k (if_neg (by simp [notGated])))

/-- Each latch of a gated core is ORed into its register. -/
theorem exec_coreUngate_gated (gated : (s.coreOf k).gated = true) : ∃ t : State, exec (.coreUngate k) s = .next t ∧
    t.coreOf k = { s.coreOf k with
      gated := false, latches := []
      notify := (s.coreOf k).latches.foldl (fun m x => SMap.set 0 x.1 (SMap.get 0 x.1 m ||| x.2) m) (s.coreOf k).notify } :=
  ⟨_, rfl, (State.coreOf_modCore_self ..).trans (if_pos gated)⟩

end

theorem memoryEvents : Claims.MemoryEvents := by
  refine ⟨fun s id => exec_queueDataArrival_none, fun s id q r found wait => ⟨exec_queueDataArrival_waits found, fun ready alone => ?entry⟩,
    fun x id f => rfl, fun s id q dst vec r found wait ready alone => exec_queueDataArrival_atomic found ready alone wait,
    fun s k line => ⟨rfl, rfl⟩, fun s k line j lt => ⟨s.l1Drop_get k line lt, s.l2Drop_get k line lt⟩,
    fun s k => ⟨exec_coreGate_runs, exec_coreGate_gates⟩, fun s k n v => ⟨exec_coreUngate_open, fun gated latched => ?ungate⟩⟩
  case entry =>
    intro data
    have arrives := exec_queueDataArrival_entry found ready alone wait
    exact ⟨arrives, fun clean own => by rw [arrives, State.arriveData_clean clean, own]⟩
  case ungate =>
    obtain ⟨t, runs, core⟩ := exec_coreUngate_gated gated
    refine ⟨t, runs, ?_⟩
    rw [core, latched]
    exact ⟨rfl, rfl, SMap.get_set_self .., fun j ne => SMap.get_set_ne _ _ _ ne⟩

/-! ### Errors (R238, R388 to R391) -/

section
variable (s : State) (kind flags : Nat) (f : FaultSite)

/-- The record of an error goes to the log of the die of its site. -/
theorem State.eccRecord_eq : ∃ r, s.eccRecord kind flags f = s.sherd (siteOf f).1 r := ⟨_, rfl⟩

theorem State.coreOf_eccRecord (k : Nat) : (s.eccRecord kind flags f).coreOf k = s.coreOf k := by
  obtain ⟨r, eq⟩ := s.eccRecord_eq kind flags f
  rw [eq, (s.sameButSys_sherd ..).coreOf]

/-- The word that holds an address is the one that is poisoned. -/
theorem foldl_poison_word (a : Nat) (m : SMap Bool) : (List.range ((a / 4 * 4 + 4 - 1) / 4 + 1 - a / 4 * 4 / 4)).foldl
    (fun m i => SMap.set false (a / 4 * 4 / 4 + i) true m) m = SMap.set false (a / 4) true m := by
  rw [show (a / 4 * 4 + 4 - 1) / 4 + 1 - a / 4 * 4 / 4 = 1 by omega, show a / 4 * 4 / 4 = a / 4 by omega]
  rfl

theorem State.poisonHbm_word (a : Nat) : (s.poisonHbm (a / 4 * 4) 4).sys.hbmPoison = SMap.set false (a / 4) true s.sys.hbmPoison :=
  foldl_poison_word a _

theorem Core.poison_word (c : Core) (a : Nat) : (c.poison_ (a / 4 * 4) 4).poison = SMap.set false (a / 4) true c.poison :=
  foldl_poison_word a _

end

theorem exec_eccUncorrectable_kilnEntry {s : State} {k n : Nat} {e : KEntry} (found : (s.coreOf k).entry n = some e) (good : Bool) :
    exec (.eccUncorrectable (.kilnEntry k n good)) s =
      .next ((s.eccRecord 0x11 2 (.kilnEntry k n good)).tagError (s.coreOf k).launch e.tag (rankOfCore k) good) := by
  rw [exec_eccUncorrectable, execEccUncorrectable]
  simp only [found]

/-! ### Leaky buckets (R392) -/

section
variable {s : State} {die key : Nat} {v : BitVec 16}

/-- The one bucket of a die whose class leaks in this die cycle. -/
theorem leakMap_one {dc : Nat} {d : Die} (leaks : dc % 2 ^ d.leakOf (key / 65536) = 0) (marked : SMap Bool) :
    ∃ mk, leakMap dc d [(key, v)] marked = (SMap.set 0 key (v - 1) [(key, v)], mk) := by
  simp only [leakMap, List.foldl_cons, List.foldl_nil, leaks, bne_self_eq_false, Bool.false_eq_true, if_false]
  exact ⟨_, rfl⟩

/-- Where no core of the domain holds a bucket, the die's alone leak. -/
theorem exec_bucketLeak_die (alone : s.cores = []) (empty : s.core.buckets = []) (filled : (s.dieOf die).buckets = [(key, v)])
    (leaks : s.sys.dc % 2 ^ (s.dieOf die).leakOf (key / 65536) = 0) : ∃ mk, exec (.bucketLeak die) s =
      .next (s.putDie die { s.dieOf die with buckets := SMap.set 0 key (v - 1) [(key, v)], marked := mk }) := by
  obtain ⟨mk, leaked⟩ := leakMap_one (v := v) leaks (s.dieOf die).marked
  refine ⟨mk, ?_⟩
  have unfilled : (s.dieOf die).buckets.isEmpty = false := by rw [filled]; rfl
  have still : ∀ k, (s.coreOf k).buckets = [] := fun k => by
    unfold State.coreOf
    split
    · exact empty
    · rw [alone]; rfl
  rw [exec_bucketLeak, execBucketLeak]
  dsimp only
  rw [unfilled, filled, leaked]
  exact congrArg _ (List.foldl_fixed' (fun k => if_pos (List.isEmpty_iff.2 (still k))) _)

theorem State.dieOf_putDie_self (s : State) (r : Nat) (d : Die) : (s.putDie r d).dieOf r = d := SMap.get_set_self ..

end

/-! ### Spares (R393, R520) -/

/-- The state in which a map of core `k` has taken a spare: the core is `d`, a record tells unit and row, and the repair log has an entry of seven
bytes (logs 58, 106). -/
def State.substituted (s : State) (k : Nat) (d : Core) (u row code index spare : Nat) : State :=
  ((s.putCore k d).sherd (rankOfCore k) { kind := 0x17, launch := (s.coreOf k).launch, core := k, unit := u, src1 := row }).modPkg (pkgOfCore k)
    fun p => { p with repairs := p.repairs ++ leBytes 1 code ++ leBytes 2 (coreInPkg k) ++ leBytes 2 index ++ leBytes 2 spare }

section
variable {s : State} {k i n : Nat}

theorem State.coreOf_substituted (d : Core) (u row code : Nat) : (s.substituted k d u row code i n).coreOf k = d := by
  rw [State.substituted, (State.sameButSys_modPkg ..).coreOf, (State.sameButSys_sherd ..).coreOf, State.coreOf_putCore_self]

theorem State.repairs_substituted (d : Core) (u row code : Nat) : ((s.substituted k d u row code i n).pkgOf (pkgOfCore k)).repairs =
    (s.pkgOf (pkgOfCore k)).repairs ++ leBytes 1 code ++ leBytes 2 (coreInPkg k) ++ leBytes 2 i ++ leBytes 2 n := by
  rw [State.substituted, State.pkgOf_modPkg_self, State.pkgOf, State.sherd_pkgs, State.sys_putCore]
  rfl

theorem exec_spareSubstitution_row_stays (refused : 128 ≤ i ∨ (s.coreOf k).unitBusy [5] = true ∨ (s.coreOf k).rowOff ≠ none) :
    exec (.spareSubstitution k .row i n) s = .next s := by
  refine if_pos ?_
  rw [Bool.or_eq_true, Bool.or_eq_true, decide_eq_true_eq, Option.isSome_iff_ne_none]
  tauto

theorem exec_spareSubstitution_row (lt : i < 128) (idle : (s.coreOf k).unitBusy [5] = false) (free : (s.coreOf k).rowOff = none) :
    exec (.spareSubstitution k .row i n) s = .next (s.substituted k { s.coreOf k with rowOff := some i } 5 i 1 i n) :=
  if_neg (by simp [idle, free, lt])

/-- A lane map takes spare lane 32 or 33 that no lane of its partition has taken. -/
theorem exec_spareSubstitution_lane {u : Nat} (unit : u < 4) (lt : i < 32) (spare : n = 32 ∨ n = 33) (idle : (s.coreOf k).unitBusy [u] = false)
    (unused : ∀ x ∈ (s.coreOf k).laneMap, x.1 / 64 = u → x.2 ≠ some n) : exec (.spareSubstitution k (.lane u) i n) s =
      .next (s.substituted k { s.coreOf k with laneMap := SMap.set none (u * 64 + i) (some n) (s.coreOf k).laneMap } u n (16 * u) i n) := by
  have free : ((s.coreOf k).laneMap.any fun (j, v) => j / 64 = u && v = some n) = false := by
    simpa only [List.any_eq_false, Bool.and_eq_true, decide_eq_true_eq, not_and] using unused
  refine if_neg ?_
  simp only [free, idle, Bool.false_or, Bool.or_false, Bool.or_eq_true, decide_eq_true_eq]
  omega

end

theorem errorEvents : Claims.ErrorEvents := by
  refine ⟨fun s f => rfl, fun s a => ⟨_, rfl, ?_, fun w ne => ?_⟩, fun s k a => ⟨_, rfl, ?_, ?_⟩, fun s k l => ⟨rfl, rfl, rfl⟩,
    fun s k n e found => ⟨exec_eccUncorrectable_kilnEntry found true, exec_eccUncorrectable_kilnEntry found false⟩, fun s k n => rfl,
    fun s die key v filled nonzero alone empty leaks => ?leak, fun s k i n refused => ?stays, fun s k i n lt idle free => ?row,
    fun s k u i n unit lane spare idle unused => ?lane⟩
  · rw [State.poisonHbm_word, SMap.get_set_self]
  · rw [State.poisonHbm_word, SMap.get_set_ne _ _ _ ne]
  · rw [State.coreOf_modCore_self, Core.poison_word, SMap.get_set_self]
  · rw [State.coreOf_modCore_self, State.coreOf_eccRecord]
    rfl
  case leak =>
    obtain ⟨mk, leaked⟩ := exec_bucketLeak_die alone empty filled leaks
    refine ⟨_, leaked, ?_, rfl, rfl⟩
    rw [State.dieOf_putDie_self, SMap.get_set_self]
  case stays => exact exec_spareSubstitution_row_stays refused
  case row =>
    refine ⟨_, exec_spareSubstitution_row lt idle free, ?_, ?_, State.repairs_substituted ..⟩
    · rw [State.coreOf_substituted]
    · rw [State.coreOf_substituted]
  case lane =>
    refine ⟨_, exec_spareSubstitution_lane unit lane spare idle unused, ?_, ?_⟩
    · rw [State.coreOf_substituted]
      exact SMap.get_set_self none (u * 64 + i) (some n) _
    · rw [State.coreOf_substituted]

/-- Settles O58: each event answers `next` with its effect under its condition; the data of a queue load enters its entry
(`State.arriveData_clean`), a line that is dropped reads as absent (`SMap.get_filter_of_dropped`), and a spare enters the map and the repair log
(`State.coreOf_substituted`, `State.repairs_substituted`). -/
theorem memoryAndErrorEvents : Obligations.MemoryAndErrorEvents := ⟨memoryEvents, errorEvents⟩

end Sys2Proof.Machine
end

section
/-! SUPPORT. The host's accesses, the registers of a virtual device and of a die, doorbells and completion records (09 R244, R254,
22 R475 to R479, R495 to R497, 24 R513, 25 R519), and O60. -/

namespace Sys2Proof.Machine

/-! ### Accesses through BAR4 (R244, R479) -/

section
variable {s : State} {pkg vdev off size va : Nat} {bs : List Byte} (addr : (s.vdevOf pkg vdev).wbase + off = va)
include addr

theorem exec_hostMemoryAccess_refused {write : Option (List Byte)} (refused : s.bridgeOk pkg vdev va (match write with
      | some bs => bs.length
      | none => size) write.isSome = false) :
    exec (.hostMemoryAccess pkg vdev off size write) s = .next (s.bridgeFault pkg vdev va) := by
  subst addr
  exact congrArg _ (if_pos (by rw [Bool.not_eq_true']; exact refused))

theorem exec_hostMemoryAccess_read (ok : s.bridgeOk pkg vdev va size false = true) (bytes : s.vaBytes pkg vdev va size = some bs) :
    exec (.hostMemoryAccess pkg vdev off size none) s = .next (s.hostAnswers pkg 0 bs) := by
  subst addr
  refine congrArg _ ((if_neg (by simpa using ok)).trans ?_)
  rw [bytes]
  rfl

theorem exec_hostMemoryAccess_write (ok : s.bridgeOk pkg vdev va bs.length true = true) :
    exec (.hostMemoryAccess pkg vdev off size (some bs)) s = .next ((s.vaWrite pkg vdev va bs).hostAnswers pkg 0 []) := by
  subst addr
  exact congrArg _ (if_neg (by simpa using ok))

end

/-- An access inside a page touches that page alone. -/
theorem pagesOf_in_page {vdev lo n : Nat} (nonzero : n ≠ 0) (inside : lo / 0x10000 = (lo + n - 1) / 0x10000) :
    pagesOf vdev lo n = [(vdev, lo / 0x10000 * 0x10000)] := by
  rw [pagesOf, if_neg nonzero, ← inside, Nat.add_sub_cancel_left]
  rfl

/-- A write inside a mapped page is a write of HBM, and marks the page. -/
theorem State.vaWrite_in_page {s : State} {pkg vdev va : Nat} {bs : List Byte} {w : Tlb} (nonempty : bs ≠ [])
    (inside : va / 0x10000 = (va + bs.length - 1) / 0x10000) (mapped : s.walkVa pkg vdev (va / 0x10000 * 0x10000) = some w) :
    s.vaWrite pkg vdev va bs = (s.hbmWrite (w.phys + va % 0x10000) bs).markDevDirty pkg vdev (va / 0x10000 * 0x10000) := by
  have pos : 0 < bs.length := List.length_pos_iff.2 nonempty
  rw [State.vaWrite, pagesOf_in_page pos.ne' inside]
  simp only [List.foldl_cons, List.foldl_nil, mapped]
  rw [show max va (va / 0x10000 * 0x10000) = va by omega, show min (va + bs.length) (va / 0x10000 * 0x10000 + 0x10000) = va + bs.length by omega,
    Nat.sub_self, Nat.add_sub_cancel_left, List.drop_zero, List.take_length]

/-! ### AtomicOps (R254, R478) -/

/-- What an AtomicOp of the host leaves in a word of `size` bytes. -/
def hostAtomicResult (op : HostAtomic) (size old operand compare : Nat) : Nat := match op with
  | .fetchAdd => old + operand
  | .swap => operand
  | .cas => if old = compare % 256 ^ size then operand else old

section
variable {s : State} {pkg vdev off size operand compare va : Nat} {op : HostAtomic} {w : Tlb}
  (addr : (s.vdevOf pkg vdev).wbase + off = va) (ok : s.bridgeOk pkg vdev va size true = true) (mapped : s.walkVa pkg vdev va = some w)
include addr ok mapped

theorem exec_hostAtomicop_performs (sa : w.sa = true) (aligned : va % size = 0) : exec (.hostAtomicop pkg vdev off op size operand compare) s =
    .next (((s.hbmWrite (w.phys + va % 0x10000) (leBytes size (hostAtomicResult op size (Memory.readNat s.sys.hbm (w.phys + va % 0x10000) size)
      operand compare))).markDevDirty pkg vdev va).hostAnswers pkg 0
        (leBytes size (Memory.readNat s.sys.hbm (w.phys + va % 0x10000) size))) := by
  subst addr
  refine congrArg _ ((if_neg (by simpa using ok)).trans ?_)
  rw [mapped]
  exact if_neg (by simp [sa, aligned])

theorem exec_hostAtomicop_refused (refused : w.sa = false ∨ va % size ≠ 0) : exec (.hostAtomicop pkg vdev off op size operand compare) s =
    .next ((s.sherd (s.feRank pkg vdev) { kind := 0x19, core := s.feCore pkg vdev, unit := 13, addr := va }).hostAnswers pkg 2 []) := by
  subst addr
  refine congrArg _ ((if_neg (by simpa using ok)).trans ?_)
  rw [mapped]
  exact if_pos (by simpa using refused)

end

theorem hostAccesses : Claims.HostAccesses := by
  refine ⟨fun s pkg vdev off size => ⟨exec_hostMemoryAccess_refused (write := none) rfl, fun bs => exec_hostMemoryAccess_read rfl,
      fun bs => exec_hostMemoryAccess_refused (write := some bs) rfl, fun bs => exec_hostMemoryAccess_write rfl⟩,
    fun s pkg vdev va bs w nonempty inside mapped x => ?_, fun s pkg vdev off size operand compare op w => ?_, fun s pkg vdev off => rfl⟩
  · rw [State.vaWrite_in_page nonempty inside mapped, State.markDevDirty_hbm, State.read_hbmWrite]
  · intro va ok mapped a old new
    exact ⟨fun sa aligned => (exec_hostAtomicop_performs rfl ok mapped sa aligned).trans rfl, exec_hostAtomicop_refused rfl ok mapped⟩

/-! ### The notify window (R477) -/

theorem exec_hostNotifyWrite_outside (s : State) (pkg vdev : Nat) {off size : Nat} (v : Nat)
    (outside : off < 0x800 ∨ 0x880 ≤ off ∨ off % 8 ≠ 0 ∨ size ≠ 8) : exec (.hostNotifyWrite pkg vdev off size v) s =
      .next (s.modVdev pkg vdev fun x => { x with ndrop := min 0xFFFFFFFF (x.ndrop + 1) }) :=
  congrArg _ (if_pos (by simpa [or_assoc] using outside))

/-- A write that names a core of a running launch of the device reaches that core's register. -/
theorem exec_hostNotifyWrite_reaches {s : State} {pkg vdev n v lk k : Nat} {l : Launch} (reg : n < 16) (word : v < 2 ^ 64)
    (only : s.sys.launches = [(lk, some l)]) (ofPkg : l.pkg = pkg) (ofDevice : l.vdev = vdev) (named : lk % 65536 = v / 2 ^ 32 % 65536)
    (runs : l.phase = .running) (ranked : (l.lcoreRank (v / 2 ^ 48)).isSome) (stands : l.coreAt lk (v / 2 ^ 48) = some k) :
    exec (.hostNotifyWrite pkg vdev (0x800 + 8 * n) 8 v) s = .next (s.modCore k fun c => c.notified n (BitVec.ofNat 32 v)) := by
  obtain ⟨r, rank⟩ := Option.isSome_iff_exists.1 ranked
  have lcore : v / 0x1000000000000 % 0x10000 = v / 2 ^ 48 := by omega
  have window : ¬ (0x800 + 8 * n < 0x800 || 0x880 ≤ 0x800 + 8 * n || (0x800 + 8 * n) % 8 != 0 || (8 : Nat) != 8) = true := by
    simp only [Bool.or_eq_true, decide_eq_true_eq, bne_iff_ne]
    omega
  have index : (0x800 + 8 * n - 0x800) / 8 = n := by omega
  have value : BitVec.ofNat 32 (v % 0x100000000) = BitVec.ofNat 32 v := by
    apply BitVec.eq_of_toNat_eq
    simp
  have low : lk % 0x10000 = v / 0x100000000 % 0x10000 := named
  refine congrArg _ ((if_neg window).trans ?_)
  simp only [only, List.find?_cons, Option.any_some, ofPkg, ofDevice, runs, low, decide_true, Bool.and_self, lcore, rank, stands, index, value]

/-! ### A notify write at its core (R234, R235) -/

theorem Core.notified_open {c : Core} (notGated : c.gated = false) (n : Nat) (v : Word) :
    c.notified n v = { c with notifyOr := c.notifyOr ++ [(n, v)] } := if_neg (by simp [notGated])

theorem Core.notified_gated {c : Core} (gated : c.gated = true) (n : Nat) (v : Word) :
    c.notified n v = { c with latches := SMap.modify 0 n (· ||| v) c.latches } := if_pos gated

/-! ### Registers (R456, R476, R496, R497, R519) -/

/-- A package whose mailbox answers DONE with BADCMD. -/
def Pkg.badCommand (p : Pkg) : Pkg := { p with
  mbst := 2 + 0x100 + 0x10000 * p.svcl + 0x100000 * p.bootStep + 0x1000000 * p.bootReason, mbrsp := [], mbrlen := 0 }

theorem Pkg.badCommand_mbst (p : Pkg) : p.badCommand.mbst % 65536 = 0x102 := by
  rw [Pkg.badCommand]
  dsimp only
  omega

theorem exec_registerWrite_badCommand {s : State} {pkg v : Nat} (unnamed : v % 256 = 0 ∨ 4 ≤ v % 256) :
    exec (.registerWrite (.mailbox pkg) v) s = .next (s.modPkg pkg Pkg.badCommand) := by
  rw [exec_registerWrite, execRegisterWrite]
  refine congrArg _ (if_neg ?_)
  rw [Bool.and_eq_true, decide_eq_true_eq, decide_eq_true_eq]
  omega

theorem bit_cqctl (v : Vdev) : bit v.cqctl 8 = decide (v.cqctl / 256 % 2 = 1) := by
  rw [bit_eq, Nat.testBit_eq_decide_div_mod_eq]

section
variable {v : Vdev} {x : Nat}

theorem Vdev.bar0Write_wbase (aligned : x % 2 ^ 40 = 0) (lt : x < 2 ^ 56) : v.bar0Write 0x10 x = { v with wbase := x } :=
  (if_pos rfl).trans (if_pos (by rw [Bool.and_eq_true, decide_eq_true_eq, decide_eq_true_eq]; exact ⟨aligned, lt⟩))

theorem Vdev.bar0Write_wbase_ignored (bad : x % 2 ^ 40 ≠ 0 ∨ 2 ^ 56 ≤ x) : v.bar0Write 0x10 x = v :=
  (if_pos rfl).trans (if_neg (by rw [Bool.and_eq_true, decide_eq_true_eq, decide_eq_true_eq]; omega))

theorem Vdev.bar0Write_cqbase_enabled (on : v.cqctl / 256 % 2 = 1) : v.bar0Write 0x100 x = v :=
  (if_neg (by decide)).trans ((if_pos rfl).trans (if_pos (by rw [bit_cqctl, on]; rfl)))

theorem Vdev.bar0Write_cqbase (off : v.cqctl / 256 % 2 = 0) : v.bar0Write 0x100 x = { v with cqbase := x } :=
  (if_neg (by decide)).trans ((if_pos rfl).trans (if_neg (by rw [bit_cqctl, off]; decide)))

end

section
variable {s : State} {pkg vdev v : Nat}

theorem exec_cqctlWrite_ignored (bad : v % 32 < 4 ∨ 16 < v % 32) : exec (.cqctlWrite pkg vdev v) s = .next (s.modVdev pkg vdev id) := by
  rw [exec_cqctlWrite, execCqctlWrite]
  exact congrArg _ (s.modVdev_congr pkg vdev (if_pos (by simpa using bad)))

/-- CQCTL takes EN and the size, which an enabled queue keeps. -/
theorem exec_cqctlWrite_takes (low : 4 ≤ v % 32) (high : v % 32 ≤ 16) : ∃ t : State, exec (.cqctlWrite pkg vdev v) s = .next t ∧
    (t.vdevOf pkg vdev).cqctl = v / 0x10000 % 0x800 * 0x10000 + v / 256 % 2 * 256 +
      (if (s.vdevOf pkg vdev).cqctl / 256 % 2 = 1 then (s.vdevOf pkg vdev).cqctl % 32 else v % 32) ∧ t.sys.hbm = s.sys.hbm := by
  refine ⟨_, rfl, ?_, rfl⟩
  rw [State.vdevOf_modVdev_self]
  dsimp only
  rw [if_neg (by simp only [Bool.or_eq_true, decide_eq_true_eq]; omega)]
  simp only [bit_cqctl, decide_eq_true_eq]

end

/-! ### Completion records (R495 to R497) -/

section
variable {s : State} {pkg vdev : Nat}

theorem exec_completionRecordWrite_none (empty : (s.vdevOf pkg vdev).held = []) : exec (.completionRecordWrite pkg vdev) s = .next s := by
  rw [exec_completionRecordWrite, execCompletionRecordWrite]
  simp only [empty]

section
variable {r : List Byte} {rest : List (List Byte)} (held : (s.vdevOf pkg vdev).held = r :: rest)
include held

theorem exec_completionRecordWrite_stays (stays : (s.vdevOf pkg vdev).cqctl / 256 % 2 = 0 ∨
    2 ^ ((s.vdevOf pkg vdev).cqctl % 32) ≤ ((s.vdevOf pkg vdev).cqtail + 2 ^ 32 - (s.vdevOf pkg vdev).cqhead) % 2 ^ 32) :
    exec (.completionRecordWrite pkg vdev) s = .next s := by
  rw [exec_completionRecordWrite, execCompletionRecordWrite]
  dsimp only
  rw [held]
  refine congrArg _ (if_pos ?_)
  rw [Bool.or_eq_true, bit_cqctl, Bool.not_eq_true', decide_eq_false_iff_not, decide_eq_true_eq]
  omega

/-- The bytes of a record with the phase of its pass. -/
def Vdev.phased (v : Vdev) (r : List Byte) : List Byte := patch 1 (leBytes 1 (fld r 1 1 + if bit v.cqtail (v.cqctl % 32) then 0 else 0x80)) r

/-- The oldest record goes to its place in the queue, and the tail moves on. -/
theorem exec_completionRecordWrite_writes (on : (s.vdevOf pkg vdev).cqctl / 256 % 2 = 1)
    (room : ((s.vdevOf pkg vdev).cqtail + 2 ^ 32 - (s.vdevOf pkg vdev).cqhead) % 2 ^ 32 < 2 ^ ((s.vdevOf pkg vdev).cqctl % 32)) :
    let v := s.vdevOf pkg vdev
    ∃ (t : State), exec (.completionRecordWrite pkg vdev) s = .next t ∧ (t.vdevOf pkg vdev).held = rest ∧
      (t.vdevOf pkg vdev).cqtail = (v.cqtail + 1) % 2 ^ 32 ∧ t.sys.hbm = s.sys.hbm ∧
      t.sys.host = Memory.writeBytes (v.cqbase + 64 * (v.cqtail % 2 ^ (v.cqctl % 32))) (v.phased r) s.sys.host := by
  rw [exec_completionRecordWrite, execCompletionRecordWrite]
  dsimp only
  rw [held]
  refine ⟨_, congrArg _ (if_neg ?_), ?_, ?_, rfl, rfl⟩
  · rw [Bool.or_eq_true, bit_cqctl, Bool.not_eq_true', decide_eq_false_iff_not, decide_eq_true_eq]
    omega
  · rw [State.vdevOf_modVdev_self]
  · rw [State.vdevOf_modVdev_self]
    rfl

end
end

section
variable {r : List Byte} (len : r.length = 64) (v : Vdev)
include len

theorem Vdev.phased_length : (v.phased r).length = 64 := by
  simp only [Vdev.phased, patch, List.length_append, List.length_take, List.length_drop, leBytes_length, len]
  rfl

/-- The phase is a bit of the second byte; the other bytes are those of the record. -/
theorem Vdev.phased_getD (i : Nat) : (v.phased r).getD i 0 =
    if i = 1 then BitVec.ofNat 8 ((r.getD 1 0).toNat + if v.cqtail.testBit (v.cqctl % 32) then 0 else 0x80) else r.getD i 0 := by
  obtain _ | ⟨a, _ | ⟨b, tail⟩⟩ := r
  · cases len
  · cases len
  · simp only [Vdev.phased, bit_eq]
    obtain _ | _ | i := i <;> simp [patch, fld, leBytes, natOfBytes]

theorem read_writeBytes_phased (m : Memory) (a x : Nat) : Memory.read (Memory.writeBytes a (v.phased r) m) x =
    if x = a + 1 then BitVec.ofNat 8 ((r.getD 1 0).toNat + if v.cqtail.testBit (v.cqctl % 32) then 0 else 0x80)
    else if a ≤ x ∧ x < a + 64 then r.getD (x - a) 0 else Memory.read m x := by
  rw [Memory.read_writeBytes, v.phased_length len, v.phased_getD len]
  by_cases second : x = a + 1
  · rw [if_pos second, if_pos (by omega), if_pos (by omega)]
  · rw [if_neg second]
    split
    · rw [if_neg (by omega)]
    · rfl

end

theorem hostRegisters : Claims.HostRegisters := by
  refine ⟨fun s pkg vdev off size v => exec_hostNotifyWrite_outside s pkg vdev v,
    fun s pkg vdev n v lk k l => exec_hostNotifyWrite_reaches,
    fun c n v => ⟨fun notGated => Core.notified_open notGated n v, fun gated => ?notified⟩,
    fun s pkg vdev die off v => ⟨rfl, rfl, fun unnamed => ?mailbox⟩,
    fun v => ⟨fun x => Vdev.bar0Write_wbase, fun x => Vdev.bar0Write_wbase_ignored, fun x => Vdev.bar0Write_cqbase_enabled,
      fun x => Vdev.bar0Write_cqbase⟩,
    fun s pkg vdev v => ⟨exec_cqctlWrite_ignored, fun low high => ?cqctl, rfl⟩, fun s die vdev v => rfl, fun s pkg vdev => ?record⟩
  case notified =>
    rw [Core.notified_gated gated]
    exact ⟨SMap.get_set_self .., rfl⟩
  case mailbox =>
    refine ⟨_, exec_registerWrite_badCommand unnamed, ?_, ?_, rfl⟩
    · rw [State.pkgOf_modPkg_self, Pkg.badCommand_mbst]
    · rw [State.pkgOf_modPkg_self]
      rfl
  case cqctl =>
    obtain ⟨t, runs, value, hbm⟩ := exec_cqctlWrite_takes (s := s) (pkg := pkg) (vdev := vdev) low high
    refine ⟨t, runs, ?_, ?_, hbm⟩
    · rw [value]
      split <;> omega
    · rw [value]
      split <;> omega
  case record =>
    intro v size
    refine ⟨fun stays => ?_, fun r rest held on room => ?_⟩
    · cases held : v.held with
      | nil => exact exec_completionRecordWrite_none held
      | cons r rest => exact exec_completionRecordWrite_stays held (stays.resolve_left (by rw [held]; exact List.cons_ne_nil _ _))
    · obtain ⟨t, runs, kept, tail, hbm, host⟩ := exec_completionRecordWrite_writes held on room
      refine ⟨t, runs, kept, tail, hbm, fun len x => ?_⟩
      rw [host]
      exact read_writeBytes_phased len v _ _ x

/-- Settles O60: each access answers `next` with its effect under its condition; a write inside a page is one write of HBM
(`State.vaWrite_in_page`), and a record is written with the phase of its pass alone changed (`Vdev.phased_getD`). -/
theorem hostLink : Obligations.HostLink := ⟨hostAccesses, hostRegisters⟩

end Sys2Proof.Machine
end

section
/-! SUPPORT. Numbers held as bytes, and what a read of memory finds after a write of bytes (00 R3). -/

namespace Sys2Proof.Machine

theorem natOfBytes_eq_bytesNat (bs : List Byte) : natOfBytes bs = bytesNat bs := by
  induction bs with
  | nil => rfl
  | cons b bs ih => rw [natOfBytes, bytesNat, ih]

theorem natOfBytes_readBytes (m : Memory) (a n : Nat) : natOfBytes (Memory.readBytes m a n) = Memory.readNat m a n :=
  (natOfBytes_eq_bytesNat _).trans (m.bytesNat_readBytes a n)

theorem natOfBytes_leBytes (n v : Nat) : natOfBytes (leBytes n v) = v % 256 ^ n := by
  induction n generalizing v with
  | zero => rw [Nat.pow_zero, Nat.mod_one]; rfl
  | succ n ih => rw [leBytes, natOfBytes, ih, BitVec.toNat_ofNat, show 256 ^ (n + 1) = 256 * 256 ^ n from Nat.pow_succ', Nat.mod_mul]

/-- The bytes of a number from one place on are those of its high part, and the first ones those of its low part. -/
theorem slice_leBytes {n i z : Nat} (inside : i + z ≤ n) (v : Nat) : ((leBytes n v).drop i).take z = leBytes z (v / 256 ^ i) := by
  induction i generalizing n v with
  | zero =>
    rw [List.drop_zero, Nat.pow_zero, Nat.div_one]
    induction z generalizing n v with
    | zero => rfl
    | succ z ih =>
      obtain ⟨n, rfl⟩ := Nat.exists_eq_add_of_le' (show 1 ≤ n by omega)
      rw [leBytes, List.take_succ_cons, ih (by omega), leBytes]
  | succ i ih =>
    obtain ⟨n, rfl⟩ := Nat.exists_eq_add_of_le' (show 1 ≤ n by omega)
    rw [leBytes, List.drop_succ_cons, ih (by omega), Nat.div_div_eq_div_mul, Nat.pow_succ']

theorem word_leBytes (w : Word) : BitVec.ofNat 32 (w.toNat % 256 ^ 4) = w := by
  rw [Nat.mod_eq_of_lt (show w.toNat < 256 ^ 4 from w.isLt), BitVec.ofNat_toNat, BitVec.setWidth_eq]

theorem readBytes_writeBytes_self (m : Memory) (a : Nat) (bs : List Byte) : Memory.readBytes (Memory.writeBytes a bs m) a bs.length = bs := by
  induction bs generalizing a m with
  | nil => rfl
  | cons b bs ih =>
    rw [List.length_cons, Memory.readBytes, Memory.writeBytes, ih, Memory.read_writeBytes, if_neg (by omega), Memory.read_write, if_pos rfl]

/-- A read inside bytes that were written finds those bytes. -/
theorem readBytes_writeBytes_inside (m : Memory) (a : Nat) {bs : List Byte} {i n : Nat} (inside : i + n ≤ bs.length) :
    Memory.readBytes (Memory.writeBytes a bs m) (a + i) n = (bs.drop i).take n := by
  obtain ⟨r, len⟩ := Nat.exists_eq_add_of_le inside
  have whole := readBytes_writeBytes_self m a bs
  rw [len, Nat.add_assoc, Memory.readBytes_add, Memory.readBytes_add] at whole
  have cut := congrArg (fun l => (l.drop i).take n) whole
  rwa [List.drop_left' (Memory.readBytes_length ..), List.take_left' (Memory.readBytes_length ..)] at cut

theorem readNat_writeBytes_leBytes (m : Memory) (a n v : Nat) :
    Memory.readNat (Memory.writeBytes a (leBytes n v) m) a n = v % 256 ^ n := by
  have found := readBytes_writeBytes_self m a (leBytes n v)
  rw [leBytes_length] at found
  rw [← natOfBytes_readBytes, found, natOfBytes_leBytes]

theorem read_writeBytes_outside (m : Memory) {a x : Nat} {bs : List Byte} (outside : x < a ∨ a + bs.length ≤ x) :
    Memory.read (Memory.writeBytes a bs m) x = Memory.read m x := by
  rw [Memory.read_writeBytes, if_neg (by omega)]

theorem Core.loc_writeLocal (c : Core) (a : Nat) (bs : List Byte) : (c.writeLocal a bs).loc = Memory.writeBytes a bs c.loc := by
  rw [Core.writeLocal, Core.testHeld_eq]

end Sys2Proof.Machine
end

section
/-! SUPPORT. Atomics (10 R265 to R267, 11 R296 to R300), and O48. -/

namespace Sys2Proof.Machine

/-! ### The elements of an atomic at a core's bank unit (R266, R298 to R300) -/

/-- What an element writes has the element's size. -/
theorem AtomOp.length_elem (a : AtomOp) (len : a.operand.length = a.width) {e : Nat} {old new : List Byte} (stores : a.elem e old = some new) :
    new.length = a.size := by
  obtain ⟨kind, op, operand, expected⟩ := a
  match kind with
  | 0 => exact Option.some.inj stores ▸ leBytes_length ..
  | 1 =>
    obtain ⟨-, same⟩ := Option.ite_none_right_eq_some.1 stores
    exact Option.some.inj same ▸ len
  | kind + 2 => exact Option.some.inj stores ▸ leBytes_length ..

section
variable {c : Core} {o e : Nat} {a : AtomOp}

theorem Core.atomElem_fails (fails : a.elem e (Memory.readBytes c.loc (o + a.size * e) a.size) = none) : (c.atomElem o a e).1 = c := by
  simp only [Core.atomElem, fails]

/-- An element that stores leaves its bytes in its place, and every other byte as it was. -/
theorem Core.loc_atomElem {new : List Byte} (stores : a.elem e (Memory.readBytes c.loc (o + a.size * e) a.size) = some new) :
    (c.atomElem o a e).1.loc = Memory.writeBytes (o + a.size * e) new c.loc := by
  simp only [Core.atomElem, stores]
  split
  · exact c.loc_writeLocal _ _
  · exact c.loc_writeLocal _ _

theorem Core.readNat_atomElem {v : Nat} (stores : a.elem e (Memory.readBytes c.loc (o + a.size * e) a.size) = some (leBytes a.size v)) :
    Memory.readNat (c.atomElem o a e).1.loc (o + a.size * e) a.size = v % 256 ^ a.size := by
  rw [Core.loc_atomElem stores, readNat_writeBytes_leBytes]

/-- A word that an element stores is the word that a read finds. -/
theorem Core.word_atomElem {w : Word}
    (stores : a.elem e (Memory.readBytes c.loc (o + a.size * e) a.size) = some (leBytes 4 w.toNat)) :
    BitVec.ofNat 32 (Memory.readNat (c.atomElem o a e).1.loc (o + a.size * e) 4) = w := by
  rw [Core.loc_atomElem stores, readNat_writeBytes_leBytes, word_leBytes]

theorem Core.read_atomElem {x : Nat} (outside : x < o + a.size * e ∨ o + a.size * e + a.size ≤ x)
    (len : a.operand.length = a.width) : Memory.read (c.atomElem o a e).1.loc x = Memory.read c.loc x := by
  cases found : a.elem e (Memory.readBytes c.loc (o + a.size * e) a.size) with
  | none => rw [Core.atomElem_fails found]
  | some new => rw [Core.loc_atomElem found, read_writeBytes_outside _ (by rwa [a.length_elem len found])]

end

theorem natOfBytes_operand (w : Word) : BitVec.ofNat 32 (natOfBytes (((leBytes 4 w.toNat).drop 0).take 4)) = w := by
  rw [slice_leBytes (by decide), natOfBytes_leBytes, Nat.pow_zero, Nat.div_one, word_leBytes]

theorem AtomOp.elem_amo (op : Nat) (w : Word) (old : List Byte) : AtomOp.elem ⟨0, op, leBytes 4 w.toNat, 0⟩ 0 old =
    some (leBytes 4 (amoApply op (BitVec.ofNat 32 (natOfBytes old)) w).toNat) := by
  conv_rhs => rw [← natOfBytes_operand w]
  rfl

theorem AtomOp.elem_vamo {op k : Nat} (inside : k < 32 / vamoWidth op) (x : VReg) (old : List Byte) :
    AtomOp.elem ⟨2, op, leBytes 32 x.toNat, 0⟩ k old = some (leBytes (vamoWidth op) (vamoElem op (natOfBytes old)
      (x.toNat / 256 ^ (vamoWidth op * k) % 256 ^ vamoWidth op))) := by
  have fits : vamoWidth op * k + vamoWidth op ≤ 32 := by
    have := (Nat.mul_le_mul_left (vamoWidth op) inside).trans (Nat.mul_div_le 32 _)
    rwa [Nat.mul_succ] at this
  rw [← natOfBytes_leBytes, ← slice_leBytes fits]
  rfl

theorem atomicWords : Claims.AtomicWords := by
  intro c o op w e word old
  have oldBytes : BitVec.ofNat 32 (natOfBytes (Memory.readBytes c.loc o 4)) = old := by rw [natOfBytes_readBytes]
  refine ⟨?amo, ?acas, ?vamo⟩
  case amo =>
    intro r
    have stores := AtomOp.elem_amo op w (Memory.readBytes c.loc o 4)
    rw [oldBytes] at stores
    refine ⟨rfl, ?_, fun a outside => Core.read_atomElem outside (leBytes_length ..)⟩
    calc word r.1 = amoApply op old w := Core.word_atomElem (e := 0) stores
      _ = _ := rfl
  case acas =>
    intro r
    have expects : natOfBytes (Memory.readBytes c.loc o 4) = e.toNat ↔ old = e := by
      have lt := natOfBytes_lt (Memory.readBytes c.loc o 4)
      rw [Memory.readBytes_length] at lt
      rw [← oldBytes, ← BitVec.toNat_inj, BitVec.toNat_ofNat, Nat.mod_eq_of_lt (show _ < 2 ^ 32 from lt)]
    refine ⟨rfl, fun ne => Core.atomElem_fails (if_neg (mt expects.1 ne)), fun eq => ?_,
      fun a outside => Core.read_atomElem outside (leBytes_length ..)⟩
    have stores : AtomOp.elem ⟨1, 0, leBytes 4 w.toNat, e.toNat⟩ 0 (Memory.readBytes c.loc o 4) = some (leBytes 4 w.toNat) :=
      if_pos (expects.2 eq)
    exact Core.word_atomElem (e := 0) stores
  case vamo =>
    intro x k z r inside
    have stores := AtomOp.elem_vamo inside x (Memory.readBytes c.loc (o + z * k) z)
    have bits (i : Nat) : 256 ^ i = 2 ^ (8 * i) := (Nat.pow_mul 2 8 i).symm
    refine ⟨rfl, ?_, fun a outside => Core.read_atomElem outside (leBytes_length ..)⟩
    rw [natOfBytes_readBytes, bits (_ * k), bits (vamoWidth op), ← Nat.mul_assoc] at stores
    exact (Core.readNat_atomElem (a := ⟨2, op, leBytes 32 x.toNat, 0⟩) stores).trans (congrArg _ (bits z))

/-! ### The parts of a far access and their pages (R245, R308) -/

theorem part_mem_of_farPieces {s : State} {x : FarCtx} {base : Addr} {parts : List FarPart} {write : Bool} {ps : List FarPiece}
    (pieces : s.farPieces x base parts write = .ok ps) {p : FarPiece} (mem : p ∈ ps) : p.part ∈ parts := by
  unfold State.farPieces at pieces
  split at pieces
  · cases pieces
  dsimp only at pieces
  split at pieces
  · cases pieces
  obtain rfl := Except.ok.inj pieces
  obtain ⟨⟨part, hit⟩, memAll, translated⟩ := List.mem_filterMap.1 mem
  obtain ⟨part', memParts, rfl, -⟩ := by simpa only [List.mem_map, Prod.mk.injEq] using memAll
  dsimp only at translated
  split at translated
  · obtain rfl := Option.some.inj translated
    exact memParts
  · cases translated

theorem farPages_single (x : FarCtx) (p : FarPart) : farPages x [p] = if x.phys then [] else pagesOf x.vdev p.va p.n := by
  rw [farPages, List.flatMap_singleton]

/-! ### What an atomic waits for (R296, R297) -/

/-- An atomic of a stream finds room in its queue, no acquire is outstanding, what it releases has performed, and none of the stream's
requests was lost. -/
structure AtomFree (s : State) (q : Nat) (nr : Bool) (scope : Scope) (ord : MemOrder) : Prop where
  room : nr = true ∨ (Claims.ordinary s q).length < 8
  free : s.acquiring = false
  released : ord = .rel ∨ ord = .ar → scope ≠ .part → s.released (scope = .dom) = true
  kept : s.strm.lost = []

section
variable {s : State} {h : Hdr} {q addr : Nat} {nr : Bool} {scope : Scope} {ord : MemOrder} {a : AtomOp}

theorem AtomFree.notFull (f : AtomFree s q nr scope ord) : ¬ (!nr && decide ((s.ownQ q).length ≥ 8)) = true := by
  rw [Bool.and_eq_true, Bool.not_eq_true', decide_eq_true_iff]
  rintro ⟨returns, full⟩
  rcases f.room with none | room
  · exact Bool.false_ne_true (returns.symm.trans none)
  · exact absurd room (Nat.not_lt.2 full)

theorem AtomFree.notBlocked (f : AtomFree s q nr scope ord) :
    (s.acquiring || ((decide (ord = .rel) || decide (ord = .ar)) && scope != .part && !(s.released (scope = .dom)))) = false := by
  rw [f.free, Bool.false_or, Bool.and_eq_false_iff, Bool.and_eq_false_iff, Bool.not_eq_false']
  by_cases outer : (ord = .rel ∨ ord = .ar) ∧ scope ≠ .part
  · exact .inr (f.released outer.1 outer.2)
  · simp only [not_and_or, not_or, not_not] at outer
    rcases outer with ⟨notRel, notAr⟩ | part
    · simp [notRel, notAr]
    · simp [part]

theorem AtomFree.notLost (f : AtomFree s q nr scope ord) (r : Nat) : s.lostFor (some r) = none := by
  rw [State.lostFor, f.kept, List.find?_nil]

theorem atomic_ownCore (f : AtomFree s q nr scope ord) {o : Nat}
    (here : s.spCheck true addr false (.field16 0) (if a.kind = 2 then 32 else 4) a.width = .ok (none, o)) (sure : s.specSlot = none)
    (room : s.atomRoom s.rank = true) : atomic s h q addr nr true scope ord a = .ok (if a.kind = 2 then s.vamoStart h q s.rank nr true o 0 [] a
      else ({ s with core := (s.core.atomElem o a 0).1 }).atomReturn h q s.rank nr [] (s.core.atomElem o a 0).2.1 (s.core.atomElem o a 0).2.2) := by
  unfold atomic
  dsimp only
  rw [if_neg f.notFull, if_pos rfl]
  simp only [here, f.notBlocked, sure, room, Option.isSome_none, Bool.or_false, Bool.not_true, Bool.false_eq_true, if_false]
  split <;> rfl

theorem atomic_otherCore (f : AtomFree s q nr scope ord) {lc r o : Nat}
    (there : s.spCheck true addr false (.field16 0) (if a.kind = 2 then 32 else 4) a.width = .ok (some (lc, r), o))
    (room : s.atomRoom r = true) : atomic s h q addr nr true scope ord a =
      .ok (s.atomSend h q nr (a.kind = 2) (ord = .acq ∨ ord = .ar) (a.message { Msg.of 2 s.rank r s.strm.tagr.toNat s.core.launch with
        slc := s.core.lcore, dlc := lc, addr := o, args := [o, a.width, 0, 0] } true nr) []) := by
  unfold atomic
  dsimp only
  rw [if_neg f.notFull, if_pos rfl]
  simp [there, f.notBlocked, f.notLost, room]

section
variable {p p1 : FarPiece} {s1 : State}
  (opened : s.farBlocked (s.farCtx s.sid) [⟨0, (s.rdA addr).toNat, a.width⟩] = false)
  (pieces : s.farPieces (s.farCtx s.sid) (s.rdA addr) [⟨0, (s.rdA addr).toNat, a.width⟩] true = .ok [p])
  (ready : s.farWait (s.farCtx s.sid) [p] = false) (room : s.atomRoom (physRank p.hit.addr) = true)
include opened pieces ready room

theorem atomic_remote (f : AtomFree s q nr scope ord) (remote : p.remote (s.farCtx s.sid) = true)
    (taken : s.takePages (s.farCtx s.sid) [⟨0, (s.rdA addr).toNat, a.width⟩] = .ok s1)
    (pieces1 : s1.farPieces (s.farCtx s.sid) (s.rdA addr) [⟨0, (s.rdA addr).toNat, a.width⟩] true = .ok [p1])
    (remote1 : p1.remote (s.farCtx s.sid) = true) : atomic s h q addr nr false scope ord a =
      .ok (s1.atomSend h q nr (a.kind = 2) (ord = .acq ∨ ord = .ar) (a.message (s1.farMsg 2 (s.farCtx s.sid) p1) false nr)
        (farPages (s.farCtx s.sid) [⟨0, (s.rdA addr).toNat, a.width⟩])) := by
  unfold atomic
  dsimp only
  rw [if_neg f.notFull, if_neg Bool.false_ne_true, if_neg (ne_true_of_eq_false opened), pieces]
  simp [f.notBlocked, f.notLost, remote, ready, room, taken, pieces1, remote1]

theorem atomic_register (f : AtomFree s q nr scope ord) (near : p.remote (s.farCtx s.sid) = false) (register : isDieReg p.hit.addr = true)
    (regReady : s.regReady (physRank p.hit.addr) (physOff p.hit.addr) a.width = true) : atomic s h q addr nr false scope ord a =
      .ok ((s.atomReg p.hit.addr a).1.atomReturn h q (physRank p.hit.addr) nr
        (farPages (s.farCtx s.sid) [⟨0, (s.rdA addr).toNat, a.width⟩]) (s.atomReg p.hit.addr a).2 false) := by
  unfold atomic
  dsimp only
  rw [if_neg f.notFull, if_neg Bool.false_ne_true, if_neg (ne_true_of_eq_false opened), pieces]
  simp [f.notBlocked, near, ready, room, register, regReady]

theorem atomic_hbm (f : AtomFree s q nr scope ord) (near : p.remote (s.farCtx s.sid) = false) (memory : isDieReg p.hit.addr = false) :
    atomic s h q addr nr false scope ord a = s.atomHbm h q nr (s.farCtx s.sid) (s.rdA addr) p a := by
  unfold atomic
  dsimp only
  rw [if_neg f.notFull, if_neg Bool.false_ne_true, if_neg (ne_true_of_eq_false opened), pieces]
  simp [f.notBlocked, near, ready, room, memory]

end
end

/-! ### An atomic on a word of HBM (R297) -/

/-- The word's line is written back and leaves the core's caches. -/
def State.lineOut (s : State) (core : Nat) (hit : FarHit) : State := if hit.cached then
  ((s.lineBack core (hit.addr / 128)).l1Drop core (hit.addr / 128)).l2Drop core (hit.addr / 128) else s

/-- The state in which an atomic performs on a word of HBM. -/
def State.atomReady (s : State) (x : FarCtx) (va : Nat) (hit : FarHit) : State :=
  let t := ((s.tlbFill x va).lineOut x.core hit).granuleCount (rankOfCore x.core) hit.addr
  if x.phys then t else (t.markDirty x.launch va).markDevDirty x.pkg x.vdev va

section
variable {s s1 : State} {h : Hdr} {q : Nat} {nr : Bool} {x : FarCtx} {base : Addr} {p p1 : FarPiece} {part : FarPart} {a : AtomOp}
  (isPart : p.part = part)
include isPart

theorem State.atomHbm_fails (kind : a.kind = 1)
    (other : natOfBytes (Memory.readBytes (s.lineOut x.core p.hit).sys.hbm p.hit.addr 4) ≠ a.expected) :
    s.atomHbm h q nr x base p a = .ok ((((s.lineOut x.core p.hit).granuleCount (rankOfCore x.core) p.hit.addr).tlbFill x part.va).atomReturn h q
      (physRank p.hit.addr) nr (farPages x [part]) (Memory.readBytes (s.lineOut x.core p.hit).sys.hbm p.hit.addr 4)
      ((s.lineOut x.core p.hit).hbmPoisoned p.hit.addr 4)) := by
  subst isPart
  have fails : a.elem 0 (Memory.readBytes (s.lineOut x.core p.hit).sys.hbm p.hit.addr 4) = none := by
    simp only [AtomOp.elem, kind, if_neg other]
  exact if_pos (by rw [Bool.and_eq_true, decide_eq_true_iff, Option.isNone_iff_eq_none]; exact ⟨kind, fails⟩)

theorem State.atomHbm_performs
    (writes : a.kind = 1 → natOfBytes (Memory.readBytes (s.lineOut x.core p.hit).sys.hbm p.hit.addr 4) = a.expected)
    (taken : s.takePages x [part] = .ok s1) (pieces1 : s1.farPieces x base [part] true = .ok [p1]) :
    s.atomHbm h q nr x base p a = .ok (
      let t := s1.atomReady x part.va p1.hit
      if a.kind = 2 then t.vamoStart h q (physRank p1.hit.addr) nr false p1.hit.addr part.va (farPages x [part]) a
      else (t.atomElem p1.hit.addr a 0).1.atomReturn h q (physRank p1.hit.addr) nr (farPages x [part]) (t.atomElem p1.hit.addr a 0).2.1
        (t.atomElem p1.hit.addr a 0).2.2) := by
  subst isPart
  have stores : ¬ (decide (a.kind = 1) && (a.elem 0 (Memory.readBytes (s.lineOut x.core p.hit).sys.hbm p.hit.addr 4)).isNone) = true := by
    rw [Bool.and_eq_true, decide_eq_true_iff]
    rintro ⟨kind, fails⟩
    simp only [AtomOp.elem, kind, if_pos (writes kind)] at fails
    cases fails
  refine (if_neg stores).trans ?_
  rw [taken]
  dsimp only
  rw [pieces1]
  dsimp only
  split
  · rfl
  · rfl

end

/-! ### AMO, ACAS and VAMO -/

theorem atomicInstructions : Claims.AtomicInstructions := by
  unfold Claims.AtomicInstructions
  intro atoms
  have performs {i : Instr} {s : State} {h : Hdr} {q addr : Nat} {nr sp : Bool} {scope : Scope} {ord : MemOrder} {a : AtomOp}
      (runs : ∀ t, atomic s h q addr nr sp scope ord a = .ok t → exec i s = .next (t.spends (addedCycles false h.prot))) :
      atoms i s h q addr nr sp scope ord a := by
    intro room free released kept
    have f : AtomFree s q nr scope ord := ⟨room, free, released, kept⟩
    refine ⟨fun own o here sure room => ?own, fun other lc r o there room => ?other, fun far p opened pieces ready room => ?far⟩
    case own =>
      subst own
      exact runs _ (atomic_ownCore f here sure room)
    case other =>
      subst other
      exact runs _ (atomic_otherCore f there room)
    case far =>
      subst far
      intro pages flush
      have counts : farPages (s.farCtx s.sid) [⟨0, (s.rdA addr).toNat, a.width⟩] = pages := farPages_single ..
      have isPart := List.mem_singleton.1 (part_mem_of_farPieces pieces (List.mem_singleton_self p))
      refine ⟨fun s1 p1 remote taken pieces1 remote1 => ?remote, fun near register regReady => ?register, fun near memory => ?memory⟩
      case remote =>
        rw [← counts]
        exact runs _ (atomic_remote opened pieces ready room f remote taken pieces1 remote1)
      case register =>
        intro r
        rw [← counts]
        exact runs _ (atomic_register opened pieces ready room f near register regReady)
      case memory =>
        have hbm := atomic_hbm (h := h) (a := a) opened pieces ready room f near memory
        refine ⟨fun kind other => runs _ (hbm.trans ?fails), fun s1 p1 writes taken pieces1 => runs _ (hbm.trans ?stores)⟩
        case fails =>
          rw [State.atomHbm_fails isPart kind other, counts]
          rfl
        case stores =>
          rw [State.atomHbm_performs isPart writes taken pieces1, counts]
          rfl
  exact ⟨fun h o s c => performs fun t ok => runI_ok c ok, fun h o s c => performs fun t ok => runI_ok c ok,
    fun h o s c => performs fun t ok => runI_ok c ok⟩

/-- Settles O48: an atomic that nothing stops performs or is sent by where its word lies (`atomic_ownCore`, `atomic_otherCore`, `atomic_remote`,
`atomic_register`, `atomic_hbm`), and what an element stores is what a read then finds in its place (`Core.readNat_atomElem`). -/
theorem atomics : Obligations.Atomics := ⟨atomicInstructions, atomicWords⟩

end Sys2Proof.Machine
end

section
/-! SUPPORT. The engines' own steps: tile writes, pops, publication, chunks and the completion of copies (10 R275, 13 R314, R321, R322, 14 R351,
R356), and O16. -/

namespace Sys2Proof.Machine

/-- No flags of a task's late work change nothing. -/
theorem State.taskFlags_zero (s : State) (sid own : Nat) : s.taskFlags sid own 0#32 = s := if_pos rfl

/-! ### Tile writes (R275, R314) -/

/-- An instruction whose cells no error strikes forms its blocks as they are. -/
theorem formCells_clean (c : Core) (prot : Nat) (tied : Bool) (bs : List (List Word)) : formCells c [] prot tied bs = (bs, none) := by
  unfold formCells
  split
  · rfl
  · rfl

theorem TileWrite.formed_clean {w : TileWrite} (clean : w.errors = []) (c : Core) : w.formed c = (w.parts.flatMap Prod.snd, none) := by
  rw [TileWrite.formed, clean, formCells_clean]

theorem regroup_flatMap (ps : List (Nat × List (List Word))) : regroup ps (ps.flatMap Prod.snd) = ps := by
  induction ps with
  | nil => rfl
  | cons p ps ih => rw [List.flatMap_cons, regroup, List.take_left, List.drop_left, ih]

/-- A write whose copies agree and whose spare row matched meets its tiles one after the other. -/
theorem State.performTile_clean {w : TileWrite} (clean : w.errors = []) (spare : w.spareRow = none) (s : State) :
    s.performTile w = w.parts.foldl (State.performPart w.mode w.own) (s.taskFlags s.sid w.own w.flags) := by
  unfold State.performTile State.spareRecord
  simp only [spare, w.formed_clean clean, Option.any_none, Bool.false_eq_true, if_false, regroup_flatMap]

theorem orFlags_replicate_zero (n : Nat) : orFlags (List.replicate n 0) = 0 := by
  unfold orFlags
  induction n with
  | zero => rfl
  | succ n ih => rw [List.replicate_succ, List.foldl_cons, Nat.or_zero, ih]

/-- A block that is put replaces the cells, without flags. -/
theorem mixBlocks_put (old b : List Word) (fl : Nat) : mixBlocks .put old fl [b] = (b, fl) := by
  simp [mixBlocks, mixCells, Function.comp_def, orFlags_replicate_zero]

theorem State.performPart_put (s : State) (own tile : Nat) (b : List Word) :
    State.performPart .put own s (tile, [b]) = s.setCore fun c => c.writeLocal (tileAddr tile) (cellBytes b) := by
  refine (if_neg Bool.false_ne_true).trans ?_
  rw [mixBlocks_put]
  exact congrArg (fun t : State => t.setCore _) (s.taskFlags_zero s.sid own)

theorem exec_accumulatorWrite_none {s : State} (none : ∀ w ∈ s.strm.eng.writes, s.strm.cyc < w.at_) : exec .accumulatorWrite s =
    .next (State.performRows (s.setStrm fun x => { x with eng := { x.eng with
      writes := x.eng.writes.filter (s.strm.cyc < ·.at_), buffers := x.eng.buffers.filter (s.strm.cyc < ·) } })) := by
  have noneDue : s.strm.eng.writes.filter (·.at_ ≤ s.strm.cyc) = [] := by simpa using none
  rw [exec_accumulatorWrite, execAccumulatorWrite]
  dsimp only
  rw [noneDue]
  rfl

theorem Engine.rows_filter {e : Engine} (none : e.rows = []) (f : RowTask → Bool) : { e with rows := e.rows.filter f } = e := by
  obtain ⟨arrayFree, buffers, writes, rows, portFree, pops, tiles⟩ := e
  subst none
  rfl

theorem State.performRows_none {s : State} (none : s.strm.eng.rows = []) : s.performRows = s := by
  rw [State.performRows, none]
  dsimp only [List.filter_nil, List.foldl_nil, State.setEng, State.setStrm]
  rw [Engine.rows_filter none]

/-- One due write that needs no tie-break leaves the engine with its buffer and performs. -/
theorem exec_accumulatorWrite_one {s : State} {w : TileWrite} (only : s.strm.eng.writes = [w]) (rows : s.strm.eng.rows = [])
    (buffer : s.strm.eng.buffers = [w.at_]) (due : w.at_ ≤ s.strm.cyc) (clean : w.errors = []) : exec .accumulatorWrite s =
      .next ((s.setEng fun e => { e with writes := [], buffers := [] }).performTile w) := by
  have dueNow : s.strm.eng.writes.filter (·.at_ ≤ s.strm.cyc) = [w] := by simp [only, due]
  have left : s.strm.eng.writes.filter (s.strm.cyc < ·.at_) = [] := by simp [only, due]
  have freed : s.strm.eng.buffers.filter (s.strm.cyc < ·) = [] := by simp [buffer, due]
  have noTie : [w].filter (fun w => decide (w.prot = 1) && !w.tied && (w.formed s.core).2.isSome) = [] := by simp [w.formed_clean clean]
  rw [exec_accumulatorWrite, execAccumulatorWrite]
  dsimp only
  rw [dueNow, noTie, State.performRows_none]
  · dsimp only [State.setEng, State.setStrm]
    rw [left, freed]
    rfl
  · exact rows

theorem length_cellBytes (cs : List Word) : (cellBytes cs).length = 4 * cs.length := by
  simp [cellBytes, List.length_flatMap, leBytes_length, Nat.mul_comm]

/-- The bytes of a cell among those of a tile. -/
theorem slice_cellBytes {cs : List Word} {i : Nat} (lt : i < cs.length) : ((cellBytes cs).drop (4 * i)).take 4 = leBytes 4 cs[i].toNat := by
  induction cs generalizing i with
  | nil => cases lt
  | cons w cs ih =>
    have cons : cellBytes (w :: cs) = leBytes 4 w.toNat ++ cellBytes cs := List.flatMap_cons
    cases i with
    | zero => rw [cons, Nat.mul_zero, List.drop_zero, List.take_left' (leBytes_length ..)]; rfl
    | succ i =>
      rw [cons, Nat.mul_succ, Nat.add_comm, ← List.drop_drop, List.drop_left' (leBytes_length ..), ih (Nat.lt_of_succ_lt_succ lt)]
      rfl

theorem Core.tileCells_writeLocal (c : Core) (tile : Nat) {b : List Word} (whole : b.length = 16384) :
    (c.writeLocal (tileAddr tile) (cellBytes b)).tileCells tile = b := by
  refine List.ext_getElem (by simp [Core.tileCells, whole]) fun i _ lt => ?_
  have inside : 4 * i + 4 ≤ (cellBytes b).length := by rw [length_cellBytes]; omega
  simp only [Core.tileCells, List.getElem_map, List.getElem_range]
  rw [Core.loc_writeLocal, ← natOfBytes_readBytes, readBytes_writeBytes_inside _ _ inside, slice_cellBytes lt, natOfBytes_leBytes, word_leBytes]

/-! ### Slots of rings (R321, R322) -/

/-- The slots at the tail that are wholly written are published, up to the first that is not. -/
theorem publishSlots_eq (rs : List RingRes) (r : Ring) : publishSlots rs r = { r with
    pcnt := if (rs.takeWhile (·.done)).length = 0 then r.pcnt else (r.pcnt + (rs.takeWhile (·.done)).length) % 2 ^ 32
    reserved := rs.drop (rs.takeWhile (·.done)).length, poison := (publishSlots rs r).poison } := by
  induction rs generalizing r with
  | nil => rfl
  | cons v rs ih =>
    rw [publishSlots]
    by_cases done : v.done = true
    · have counts (m : Nat) : (if m = 0 then (r.pcnt + 1) % 2 ^ 32 else ((r.pcnt + 1) % 2 ^ 32 + m) % 2 ^ 32) =
          if m + 1 = 0 then r.pcnt else (r.pcnt + (m + 1)) % 2 ^ 32 := by
        rw [if_neg m.succ_ne_zero]
        split <;> omega
      rw [if_pos done, ih, List.takeWhile_cons_of_pos done]
      dsimp only [List.length_cons, List.drop_succ_cons]
      congr 1
      exact counts _
    · rw [if_neg done, List.takeWhile_cons_of_neg done]
      rfl

/-! ### Copies (R351, R356) -/

section
variable {s : State} {core copy : Nat} {p : CopyProg} (found : (s.coreOf core).copies.find? (·.id = copy) = some p) (sound : p.fault = none)
  (sure : ∀ e ∈ (s.coreOf core).entries, e.2.seq = p.tseq → e.2.spec = false)

theorem Core.slotOfSeq_sure {c : Core} {seq : Nat} (sure : ∀ e ∈ c.entries, e.2.seq = seq → e.2.spec = false) :
    c.slotOfSeq seq = none ∨ ∃ n e, c.slotOfSeq seq = some (n, e) ∧ e.spec = false := by
  cases slot : c.slotOfSeq seq with
  | none => exact .inl rfl
  | some e => exact .inr ⟨e.1, e.2, rfl, sure e (List.mem_of_find?_eq_some slot) (by simpa using List.find?_some slot)⟩

include found

theorem CopyProg.id_of_found : p.id = copy := by simpa using List.find?_some found

include sound sure

theorem exec_copyChunkIssue_ready {r : Req} {n : Nat} (ready : s.readyChunk core copy = some (r, n)) : exec (.copyChunkIssue core copy) s =
    .next ((s.dropReq r.id).chunkWrite core copy n (Memory.readBytes r.data 0 (p.desc.size * (p.desc.chunkElems n).length)) r.poison) := by
  rw [exec_copyChunkIssue, execCopyChunkIssue]
  rcases Core.slotOfSeq_sure sure with slot | ⟨i, e, slot, spec⟩
  · simp [found, sound, ready, slot]
  · simp [found, sound, ready, slot, spec]

theorem exec_copyChunkIssue_next {n : Nat} (unready : s.readyChunk core copy = none) (next : p.nextChunk = some n)
    (may : s.mayCopy core = true) (room : (s.coreOf core).chunksOut < 256) : exec (.copyChunkIssue core copy) s = .next (s.chunkRead core p n) := by
  rw [exec_copyChunkIssue, execCopyChunkIssue]
  rcases Core.slotOfSeq_sure sure with slot | ⟨i, e, slot, spec⟩
  · simp [found, sound, unready, slot, next, may, room]
  · simp [found, sound, unready, slot, spec, next, may, room]

theorem exec_copyComplete_ends (all : p.dataDone = true)
    (earlier : p.opc = 0xF9 → ∀ q ∈ (s.coreOf core).copies, q.id < copy → q.dataDone = true) (landed : p.land_ = false ∨ p.landed = true)
    (quiet : ∀ r ∈ s.sys.reqs, coreOfSid r.sid = core → r.wait ≠ .copyLand copy) :
    exec (.copyComplete core copy) s = .next (s.copyEnd core p) := by
  have noEarlier : (decide (p.opc = 0xF9) && (s.coreOf core).copies.any fun q => decide (q.id < p.id) && !q.dataDone) = false := by
    rw [CopyProg.id_of_found found, Bool.and_eq_false_imp, decide_eq_true_iff]
    simpa using earlier
  have notSent : (s.sys.reqs.any fun r => decide (coreOfSid r.sid = core) && decide (r.wait = .copyLand copy)) = false := by simpa using quiet
  have ends : (!p.land_ || p.landed) = true := by simpa using landed
  rw [exec_copyComplete, execCopyComplete]
  rcases Core.slotOfSeq_sure sure with slot | ⟨i, e, slot, spec⟩
  · simp [found, sound, slot, all, noEarlier, notSent, ends]
  · simp [found, sound, slot, spec, all, noEarlier, notSent, ends]

end

/-- A core after a copy has left its engine, with the copy's tag set. -/
def Core.withoutCopy (c : Core) (p : CopyProg) : Core := { c with
  copies := c.copies.filter (·.id != p.id)
  tagSet := match p.ct with
    | some t => c.tagSet ||| (1 : BitVec 64) <<< t
    | none => c.tagSet }

theorem State.copyEnd_unflagged {p : CopyProg} (unflagged : p.flags = 0) (s : State) (core : Nat) :
    s.copyEnd core p = s.modCore core fun c => c.withoutCopy p := by
  rw [State.copyEnd, unflagged]
  exact State.taskFlags_zero ..

theorem Core.copies_withoutCopy (c : Core) (p : CopyProg) : (c.withoutCopy p).copies = c.copies.filter (·.id ≠ p.id) := by
  refine List.filter_congr fun q _ => ?_
  rw [decide_not]
  rfl

theorem Core.tagSet_withoutCopy (c : Core) (p : CopyProg) {i : Nat} (lt : i < 64) :
    (c.withoutCopy p).tagSet.getLsbD i = (c.tagSet.getLsbD i || decide (p.ct = some i)) := by
  unfold Core.withoutCopy
  dsimp only
  cases p.ct with
  | none => rw [decide_eq_false (Option.some_ne_none i).symm, Bool.or_false]
  | some t =>
    rw [BitVec.getLsbD_or]
    refine congrArg _ ((BitVec.getLsbD_twoPow ..).trans ?_)
    by_cases same : t = i
    · rw [same, decide_eq_true lt, Bool.true_and, decide_eq_true rfl, decide_eq_true rfl]
    · rw [decide_eq_false same, Bool.and_false, decide_eq_false (mt Option.some.inj same)]

/-! ### The engines' steps -/

/-- Settles O16: a due tile write that needs no tie-break performs (`exec_accumulatorWrite_one`, `State.performTile_clean`) and its tile then holds
its cells (`Core.tileCells_writeLocal`), slots are published by `publishSlots_eq`, and a copy goes on or ends by its chunks
(`exec_copyChunkIssue_ready`, `exec_copyChunkIssue_next`, `exec_copyComplete_ends`). -/
theorem engineSteps : Obligations.EngineSteps := by
  refine ⟨fun s none => exec_accumulatorWrite_none none, fun s w b only rows buffer due put clean spare flags tile parts => ?write,
    fun s k n due => ?pop, fun s => rfl, fun s core k => ?publish, fun s core copy p found sound sure => ?copy⟩
  case write =>
    refine ⟨_, (exec_accumulatorWrite_one only rows buffer due clean).trans (congrArg _ ?_), rfl,
      fun whole => Core.tileCells_writeLocal s.core tile whole⟩
    rw [State.performTile_clean clean spare, put, flags, parts, List.foldl_cons, List.foldl_nil, State.performPart_put]
    exact congrArg (fun t : State => t.setCore _) (State.taskFlags_zero ..)
  case pop =>
    rw [exec_passSlotPop, execPassSlotPop, State.popSlots, due]
    simp [duePops]
  case publish =>
    refine ⟨_, rfl, ?_⟩
    intro r n
    have ring : ((s.modCore core fun c => c.setRing k (publishSlots (c.ring k).reserved (c.ring k))).coreOf core).ring k =
        publishSlots r.reserved r := by
      rw [State.coreOf_modCore_self]
      exact SMap.get_set_self ..
    rw [ring, State.coreOf_modCore_self]
    exact ⟨publishSlots_eq .., fun j ne => SMap.get_set_ne _ _ _ ne, rfl⟩
  case copy =>
    refine ⟨fun r n ready => exec_copyChunkIssue_ready found sound sure ready,
      fun n unready next may room => exec_copyChunkIssue_next found sound sure unready next may room,
      fun all earlier landed quiet flags => ⟨_, exec_copyComplete_ends found sound sure all earlier landed quiet, ?_⟩⟩
    rw [State.copyEnd_unflagged flags, State.coreOf_modCore_self, Core.copies_withoutCopy, CopyProg.id_of_found found]
    exact ⟨rfl, fun i lt => Core.tagSet_withoutCopy _ p lt, rfl, State.sys_putCore ..⟩

end Sys2Proof.Machine
end

section
/-! SUPPORT. Passes of the matrix engine (13 R311, R312, R316, 14 R332, R333, 02 R52, R53), and O13. -/

namespace Sys2Proof.Machine

/-- A matrix instruction that nothing stops answers by its effect: it takes no further issue cycles. -/
theorem runM_ok {s t : State} {h : Hdr} {us : List RegUse} {eff : State → Eff} (c : s.Clear h us) (ok : eff s = .ok t) :
    runM h (markReads us) s eff = .next t := by
  rw [runM, run_clear c, ok]
  dsimp only [Eff.close, State.setLatch]
  rw [Nat.max_zero]

/-! ### The issue of a pass (R312, R313, R332) -/

/-- No error makes the spare row differ from the row that it checks. -/
theorem spareCheck_clean (c : Core) (count blocks : Nat) : spareCheck c [] count blocks = none := by
  unfold spareCheck
  split
  · rfl
  · have agrees : (List.range 128).filter (fun j => (List.range blocks).any fun b =>
        cellFlip [] 0 (16384 * b + 128 * (count % 128) + j) != cellFlip [] 3 (128 * b + j)) = [] := by
      simp [cellFlip]
    dsimp only
    rw [agrees]

/-- The tile write of an instruction without errors joins those in flight, and takes a buffer. -/
theorem State.schedule_clean {s : State} (clean : s.strm.upsets = []) (h : Hdr) (off tie : Nat) (mode : TileMode)
    (tiles : List (Nat × List (List Word))) (flags : Nat) (load : Option (Nat × Nat)) (check : Option (Nat × List Nat)) :
    s.schedule h off tie mode tiles flags load check = s.setEng fun e => { e.markTiles (tiles.map Prod.fst) (s.taskSeq s.sid) with
      buffers := e.buffers ++ [s.strm.cyc + off]
      writes := e.writes ++ [⟨s.strm.cyc + off, tiles, mode, BitVec.ofNat 32 flags, load, check, [], tie, false, h.prot, s.strm.pos,
        s.taskSeq s.sid⟩] } := by
  unfold State.schedule State.setEng State.setStrm
  dsimp only
  rw [clean, List.filter_nil, List.filter_nil]

/-- What a pass does to the core: it counts, and claims the head slots of its rings unless it keeps them. -/
def Core.passClaims (c : Core) (ka kb : Nat) (keep : Bool) : Core :=
  let d := { c with passes := c.passes + 1 }
  let claim := fun (c : Core) (k : Nat) => c.setRing k { c.ring k with claimed := (c.ring k).claimed + 1 }
  if keep then d else claim (claim d ka) kb

/-- The state after a pass issues, with the tiles that it forms, their partials and the flags of forming them. -/
def State.passIssued (s : State) (h : Hdr) (f : MFmt) (ka kb kk : Nat) (keep : Bool) (mode : TileMode) (ps : List (Nat × List Word × Nat)) : State :=
  let cycles := passCycles f kk
  ((s.schedule h (cycles * (1 + h.prot) + 140) (cycles + 8) mode (ps.map fun x => (x.1, [x.2.1])) (orFlags (ps.map fun x => x.2.2)) none
    none).setEng fun e => { e with
      arrayFree := s.strm.cyc + cycles * (1 + h.prot)
      pops := if keep then e.pops else e.pops ++ [(s.strm.cyc + cycles, ka, 1), (s.strm.cyc + cycles, kb, 1)] }).setCore
        fun c => c.passClaims ka kb keep

theorem matrixPass_ready {s : State} {f : MFmt} {ka kb kk : Nat} {named : List Nat} (clean : s.strm.upsets = [])
    (ready : Claims.PassReady s f ka kb kk named) (h : Hdr) (keep : Bool) (mode : TileMode)
    (parts : Memory → Nat → Nat → List (Nat × List Word × Nat)) :
    matrixPass s h f ka kb kk keep mode parts named = .ok (s.passIssued h f ka kb kk keep mode (parts s.core.loc
      ((s.core.ring ka).slotAt (((s.core.ring ka).ccnt + (s.core.ring ka).claimed) % 2 ^ 32))
      ((s.core.ring kb).slotAt (((s.core.ring kb).ccnt + (s.core.ring kb).claimed + if ka = kb then 1 else 0) % 2 ^ 32)))) := by
  obtain ⟨runs, initA, initB, fitsA, fitsB, freeTiles, slotsA, slotsB, array, buffer, soundA, soundB, readA, readB⟩ := ready
  unfold matrixPass
  dsimp only
  rw [if_neg (by simp [runs, initA, initB, fitsA, fitsB]), freeTiles]
  dsimp only
  rw [if_neg (by simpa using And.intro slotsA slotsB), if_neg (by simp [array, buffer]),
    if_neg (by simpa using And.intro (And.intro (And.intro soundA soundB) readA) readB), clean, spareCheck_clean]
  rfl

/-! ### The cells of a partial (R52, R53) -/

theorem getD_cellsOf (f : Nat → Nat → FRes) {i j : Nat} (li : i < 128) (lj : j < 128) :
    (cellsOf f).1.getD (128 * i + j) 0 = BitVec.ofNat 32 (f i j).bits := by
  have lt : 128 * i + j < 16384 := by omega
  have row : (128 * i + j) / 128 = i := by omega
  have col : (128 * i + j) % 128 = j := by omega
  simp [cellsOf, lt, row, col]

theorem getD_map_range {α : Type} (f : Nat → α) (d : α) {n i : Nat} (lt : i < n) : ((List.range n).map f).getD i d = f i := by
  simp [lt]

theorem take_lineRaw (m : Memory) (base bits : Nat) (along : Bool) (kk i : Nat) :
    ((lineRaw m base bits along kk i).drop 0).take kk = lineRaw m base bits along kk i := by
  rw [List.drop_zero, List.take_of_length_le (by simp [lineRaw])]

theorem ofNat_wrap (v : Int) : BitVec.ofNat 32 (wrap 32 v) = BitVec.ofInt 32 v := by
  refine BitVec.eq_of_toNat_eq ?_
  rw [BitVec.toNat_ofNat, BitVec.toNat_ofInt, wrap]
  omega

section
variable {m : Memory} {f : MFmt} {pa pb kk i j : Nat} {ta tb : Bool} (li : i < 128) (lj : j < 128)
include li lj

theorem partialCells_float {fa fb : FFmt} (float : mFloat f = some (fa, fb)) :
    (partialCells m f pa pb ta tb kk 0 kk).1.getD (128 * i + j) 0 = BitVec.ofNat 32 (floatDot
      ((lineRaw m pa (mBits f) (!ta) kk i).map fa.decode) ((lineRaw m pb (mBits f) tb kk j).map fb.decode)).bits := by
  simp only [partialCells, float]
  rw [getD_cellsOf _ li lj, List.map_map, List.map_map, getD_map_range _ _ li, getD_map_range _ _ lj]
  simp only [Function.comp, take_lineRaw]

theorem partialCells_int (int : mFloat f = none) (plain : f ≠ .l4x) :
    (partialCells m f pa pb ta tb kk 0 kk).1.getD (128 * i + j) 0 = BitVec.ofInt 32 ((List.zipWith (· * ·)
      ((lineRaw m pa (mBits f) (!ta) kk i).map (sextNat (mBits f)))
      ((lineRaw m pb (mBits f) tb kk j).map (sextNat (mBits f)))).foldl (· + ·) 0) := by
  simp only [partialCells, int, if_neg plain]
  rw [getD_cellsOf _ li lj, List.map_map, List.map_map, getD_map_range _ _ li, getD_map_range _ _ lj]
  simp only [Function.comp, take_lineRaw]
  exact ofNat_wrap _

end

/-! ### MMA and MBLK -/

/-- Settles O13: a pass that is ready issues (`matrixPass_ready`), whose tile write is that of an instruction without errors
(`State.schedule_clean`), and a cell of a partial over all of K is the sum over its row and column (`partialCells_float`, `partialCells_int`). -/
theorem matrixPasses : Obligations.MatrixPasses := by
  refine ⟨fun h f t ka kb k1 keep s => ?passes, fun m f pa pb kk i j ta tb li lj => ?cells⟩
  case passes =>
    intro kk cycles ra rb pa pb core passes
    have issues {out : Host.Outcome State Fault Refusal} {mode : TileMode} {ps : List (Nat × List Word × Nat)}
        {parts : List (Nat × List (List Word))} (clean : s.strm.upsets = []) (tiles : ps.map (fun x => (x.1, [x.2.1])) = parts)
        (runs : out = .next (s.passIssued h f ka kb kk keep mode ps)) : passes out mode parts := by
      subst tiles
      refine ⟨BitVec.ofNat 32 (orFlags (ps.map fun x => x.2.2)), runs.trans (congrArg _ ?_)⟩
      rw [State.passIssued, State.schedule_clean clean]
      rfl
    refine ⟨fun o isF isT isA isB isK isKeep c ready => ?mma, fun o isF isT isA isB isK isKeep c ready => ?mblk⟩
    case mma =>
      subst isF isT isA isB isK isKeep
      exact issues c.upsets rfl (runM_ok c (matrixPass_ready c.upsets ready ..))
    case mblk =>
      subst isF isT isA isB isK isKeep
      exact issues c.upsets List.map_map (runM_ok c (matrixPass_ready c.upsets ready ..))
  case cells =>
    refine ⟨fun fa fb float => partialCells_float li lj float, fun int => ?_, fun int => ?_⟩
    · subst int
      exact partialCells_int li lj rfl nofun
    · subst int
      exact partialCells_int li lj rfl nofun

end Sys2Proof.Machine
end

section
/-! SUPPORT. Full/empty words (11 R281, 10 R259, R273), and O4. -/

namespace Sys2Proof.Machine

/-! ### Full/empty bits (R273) -/

section
variable (s : State) (a b : Nat) (e : Bool)

/-- A change of a full/empty bit is one of the core's bits or of those that its speculative tasks hold. -/
theorem State.setEmpty_eq : s.setEmpty a e = { s with core := { s.core with
    feEmpty := (s.setEmpty a e).core.feEmpty, commitFe := (s.setEmpty a e).core.commitFe } } := by
  unfold State.setEmpty
  split <;> rfl

theorem State.specSlot_setEmpty : (s.setEmpty a e).specSlot = s.specSlot := by
  rw [State.setEmpty_eq]
  rfl

variable {s}

theorem State.emptyWord_plain (plain : s.specSlot = none) : s.emptyWord b = SMap.get false (b / 4) s.core.feEmpty := by
  rw [State.emptyWord, plain]

theorem State.emptyWord_held {n : Nat} (slot : s.specSlot = some n) : s.emptyWord b =
    (SMap.get none (b / 4) (SMap.get [] n s.core.commitFe)).getD (SMap.get false (b / 4) s.core.feEmpty) := by
  rw [State.emptyWord, slot]
  rfl

theorem State.setEmpty_plain (plain : s.specSlot = none) :
    s.setEmpty a e = s.setCore fun c => { c with feEmpty := SMap.set false (a / 4) e c.feEmpty } := by
  rw [State.setEmpty, plain]

theorem State.setEmpty_held {n : Nat} (slot : s.specSlot = some n) : s.setEmpty a e =
    s.setCore fun c => { c with commitFe := SMap.modify [] n (SMap.set none (a / 4) (some e)) c.commitFe } := by
  rw [State.setEmpty, slot]

variable (s)

theorem State.emptyWord_setEmpty : (s.setEmpty a e).emptyWord b = if b / 4 = a / 4 then e else s.emptyWord b := by
  have same := s.specSlot_setEmpty a e
  cases slot : s.specSlot with
  | none =>
    rw [State.emptyWord_plain b (same.trans slot), State.emptyWord_plain b slot, State.setEmpty_plain a e slot]
    exact SMap.get_set ..
  | some n =>
    rw [State.emptyWord_held b (same.trans slot), State.emptyWord_held b slot, State.setEmpty_held a e slot]
    simp only [State.setCore, SMap.modify, SMap.get_set_self, SMap.get_set]
    split <;> rfl

end

/-- The `n` words from an address become empty. -/
def State.emptyWords (s : State) (a n : Nat) : State := (List.range n).foldl (fun t i => t.setEmpty (a + 4 * i) true) s

section
variable (s : State) (a n : Nat)

theorem State.emptyWords_succ : s.emptyWords a (n + 1) = (s.emptyWords a n).setEmpty (a + 4 * n) true := by
  rw [State.emptyWords, List.range_succ, List.foldl_append]
  rfl

theorem State.emptyWords_eq : s.emptyWords a n = { s with core := { s.core with
    feEmpty := (s.emptyWords a n).core.feEmpty, commitFe := (s.emptyWords a n).core.commitFe } } := by
  induction n with
  | zero => rfl
  | succ n ih => rw [State.emptyWords_succ, State.setEmpty_eq, ih]

theorem State.emptyWord_emptyWords {a : Nat} (aligned : a % 4 = 0) (b : Nat) :
    (s.emptyWords a n).emptyWord b = if a / 4 ≤ b / 4 ∧ b / 4 < a / 4 + n then true else s.emptyWord b := by
  induction n with
  | zero => rw [if_neg (by omega)]; rfl
  | succ n ih =>
    rw [State.emptyWords_succ, State.emptyWord_setEmpty, ih, show (a + 4 * n) / 4 = a / 4 + n by omega]
    by_cases last : b / 4 = a / 4 + n
    · rw [if_pos last, if_pos (by omega)]
    · simp only [if_neg last, show b / 4 < a / 4 + (n + 1) ↔ b / 4 < a / 4 + n by omega]

end

theorem State.emptyWord_bumps (s : State) (h : Hdr) (vec : Bool) (a : Nat) (m : Bool) (off : Off) (b : Nat) :
    (s.bumps h vec a m off).emptyWord b = s.emptyWord b := by
  cases m <;> rfl

/-! ### The instructions -/

theorem feFault_window {s : State} {ea : Addr} {n : Nat} (aligned : ea.toNat % 4 = 0) (inside : ea.toNat + n ≤ winSize s.core.pool) :
    feFault s ea n = none :=
  (if_neg (not_not.2 aligned)).trans (State.localFault_window inside false)

section
variable {s : State} {h : Hdr} {o : FeLdArgs} {take : Bool} (c : s.Clear h o.regs) (aligned : (s.ea o.a o.m o.off).toNat % 4 = 0)
  (inside : (s.ea o.a o.m o.off).toNat + 4 ≤ winSize s.core.pool)
include c aligned inside

/-- A load of a full word gives the word, and may empty it. -/
theorem feLoad_full (free : s.acquiring = false) (full : s.emptyWord (s.ea o.a o.m o.off).toNat = false)
    (clean : s.core.poisoned (s.ea o.a o.m o.off).toNat 4 = false) :
    let got := (s.bumps h false o.a o.m o.off).queues (s.result1 h (.g o.d) (lowBits 32)
      ((BitVec.ofNat 32 (s.localNat (s.ea o.a o.m o.off).toNat 4)).setWidth 1024) 8 0 .none)
    feLoad h o take s = .next ((if take then got.setEmpty (s.ea o.a o.m o.off).toNat true else got).spends (addedCycles false h.prot)) := by
  refine runI_ok c ?_
  simp only [feFault_window aligned inside, free, full, clean, Bool.or_self, Bool.false_eq_true, if_false]
  rw [State.resG, State.postInc_result c.upsets]

theorem feLoad_empty (empty : s.emptyWord (s.ea o.a o.m o.off).toNat = true) :
    feLoad h o take s = .next (s.setLatch fun l => { l with wait := true }) := by
  refine runI_wait c ?_
  simp only [feFault_window aligned inside, empty, Bool.or_true, if_true]

theorem execFest_reads (free : s.acquiring = false) :
    execFest h o s = .next (((s.bumps h false o.a o.m o.off).queues (s.result1 h (.g o.d) (lowBits 32)
      ((if s.emptyWord (s.ea o.a o.m o.off).toNat then 0 else 1 : Word).setWidth 1024) 8 0 .none)).spends (addedCycles false h.prot)) := by
  refine runI_ok c ?_
  simp only [feFault_window aligned inside, free, Bool.false_eq_true, if_false]
  rw [State.resG, State.postInc_result c.upsets]

end

section
variable {s : State} {h : Hdr} {o : FeStArgs} {empty : Bool} (c : s.Clear h o.regs) (aligned : (s.ea o.a o.m o.off).toNat % 4 = 0)
include c aligned

/-- A store whose word is in the state that it asks for writes it and fills it. -/
theorem feStore_fills {u : State} (inside : (s.ea o.a o.m o.off).toNat + 4 ≤ winSize s.core.pool) (free : s.acquiring = false)
    (released : s.released false = true) (asked : empty = true → s.emptyWord (s.ea o.a o.m o.off).toNat = true)
    (written : s.localWrite (s.ea o.a o.m o.off).toNat (leBytes 4 (s.rdG o.g).toNat) = some u) :
    feStore h o empty s =
      .next (((u.bumps h false o.a o.m o.off).setEmpty (s.ea o.a o.m o.off).toNat false).spends (addedCycles false h.prot)) := by
  have same := (State.localWrite_spec c.upsets written).1
  have met : (empty && !s.emptyWord (s.ea o.a o.m o.off).toNat) = false := by
    cases empty
    · rfl
    · rw [asked rfl]; rfl
  rw [← State.postInc_clean (same.strm ▸ c.upsets)]
  refine runI_ok c ?_
  simp only [feFault_window aligned inside, free, released, met, written, Bool.not_true, Bool.or_self, Bool.false_eq_true, if_false]

/-- STEF waits for an empty word. -/
theorem feStore_waits (inside : (s.ea o.a o.m o.off).toNat + 4 ≤ winSize s.core.pool)
    (full : s.emptyWord (s.ea o.a o.m o.off).toNat = false) :
    feStore h o true s = .next (s.setLatch fun l => { l with wait := true }) := by
  refine runI_wait c ?_
  simp only [feFault_window aligned inside, full, Bool.not_false, Bool.and_self, Bool.or_true, if_true]

theorem execFeclr_empties {n : Nat} (count : (s.rdG o.g).toNat % 0x1000 + 1 = n)
    (inside : (s.ea o.a o.m o.off).toNat + 4 * n ≤ winSize s.core.pool) (free : s.acquiring = false) :
    execFeclr h o s = .next ((((s.bumps h false o.a o.m o.off).emptyWords (s.ea o.a o.m o.off).toNat n).stallFor
      [((s.ea o.a o.m o.off).toNat, 4 * n)]).spends (addedCycles false h.prot)) := by
  subst count
  rw [← State.postInc_clean c.upsets]
  refine runI_ok c ?_
  simp only [feFault_window aligned inside, free, Bool.false_eq_true, if_false]
  rfl

end

/-- Settles O4: the loads go by the word's bit (`feLoad_full`, `feLoad_empty`), the stores write and fill it (`feStore_fills`) or wait, FECLR
empties its words one by one (`State.emptyWord_emptyWords`), and a changed bit is what its own stream sees (`State.emptyWord_setEmpty`). -/
theorem fullEmptyInstructions : Obligations.FullEmptyInstructions := by
  refine ⟨fun h o s c => ?load, fun h o s c => ?store, fun s a b e => ?bits⟩
  case load =>
    intro ea aligned inside free got
    exact ⟨fun full clean => ⟨feLoad_full (take := true) c aligned inside free full clean,
        feLoad_full (take := false) c aligned inside free full clean⟩,
      fun empty => ⟨feLoad_empty c aligned inside empty, feLoad_empty c aligned inside empty⟩, execFest_reads c aligned inside free⟩
  case store =>
    intro ea n aligned free
    refine ⟨fun inside released room => ?fill, fun inside => ?clear⟩
    case fill =>
      obtain ⟨u, written⟩ := State.localWrite_room (a := ea) (bs := leBytes 4 (s.rdG o.g).toNat) (by rwa [leBytes_length])
      obtain ⟨same, -, bytes⟩ := State.localWrite_spec c.upsets written
      refine ⟨u, same, fun a => ?_, feStore_fills c aligned inside free released (fun e => nomatch e) written,
        fun empty => feStore_fills c aligned inside free released (fun _ => empty) written, feStore_waits c aligned inside⟩
      rw [bytes, leBytes_length]
      split
      · next within => rw [leBytes_getD _ _ _ (by omega)]
      · rfl
    case clear =>
      refine ⟨_, execFeclr_empties c aligned rfl inside free, State.emptyWords_eq .., fun a => ?_⟩
      rw [← State.emptyWord_bumps s h false o.a o.m o.off a]
      exact State.emptyWord_emptyWords _ n aligned a
  case bits =>
    intro t
    refine ⟨s.setEmpty_eq a e, s.emptyWord_setEmpty a b e, fun plain => ⟨State.emptyWord_plain b plain, fun w => ?_⟩, fun spec => ?_⟩
    · rw [show t = _ from State.setEmpty_plain a e plain]
      exact SMap.get_set ..
    · obtain ⟨n, slot⟩ := Option.ne_none_iff_exists'.1 spec
      rw [show t = _ from State.setEmpty_held a e slot]
      rfl

end Sys2Proof.Machine
end

section
/-! SUPPORT. Barrier words and notify registers (11 R282 to R286), and O5. -/

namespace Sys2Proof.Machine

/-! ### Arrivals and phases (R283, R284) -/

/-- A barrier word after an arrival that finds it at `count` and `phase`, with `t` arrivals to a phase. -/
def barrNext (t count phase : Nat) : Nat × Nat := if t ≤ count then (0, (phase + 1) % 2 ^ 32) else (count, phase)

/-- An arrival leaves the next count and phase in the word, and gives the old phase. -/
theorem Core.barrArrive_eq (c : Core) (o t : Nat) {count phase : Nat} (counted : (Memory.readNat c.loc o 4 + 1) % 2 ^ 32 = count)
    (phased : Memory.readNat c.loc (o + 4) 4 = phase) : c.barrArrive o t =
      (c.writeLocal o (leBytes 4 (barrNext t count phase).1 ++ leBytes 4 (barrNext t count phase).2), phase) := by
  simp only [Core.barrArrive, barrNext, phased, show (Memory.readNat c.loc o 4 + 1) % 0x100000000 = count from counted]
  split <;> rfl

/-- The condition of BWAIT, and the value that it gives where the condition holds. -/
theorem bwaitTest_eq (par : Bool) (phase tok : Nat) : bwaitTest par phase tok =
    if (if par then phase % 2 ≠ tok % 2 else 1 ≤ (phase + 2 ^ 32 - tok) % 2 ^ 32 ∧ (phase + 2 ^ 32 - tok) % 2 ^ 32 < 2 ^ 31) then
      some (if par then 1 else min ((phase + 2 ^ 32 - tok) % 2 ^ 32) 255) else none := by
  cases par
  · simp [bwaitTest]
  · simp [bwaitTest]

section
variable {s : State} {h : Hdr} {o : BarrArgs} {w : BwaitArgs} {a : Nat}

theorem execBarr_arrives {core : Core} {old : Nat} (c : s.Clear h o.regs)
    (here : s.spCheck o.sp o.a o.m (.field16 o.off) 8 8 = .ok (none, a)) (free : s.acquiring = false) (sure : s.specSlot = none)
    (released : s.released true = true) (arrives : s.core.barrArrive a (s.rdG o.g).toNat = (core, old)) :
    execBarr h o s = .next ((((s.setCore fun _ => core).bumps h false o.a o.m (.field16 o.off)).queues
      (s.result1 h (.g o.g) (lowBits 32) ((BitVec.ofNat 32 old).setWidth 1024) 8 0 .none)).spends (addedCycles false h.prot)) := by
  refine runI_ok c ?_
  simp only [here, free, sure, released, arrives, Option.isSome_none, Bool.not_true, Bool.or_self, Bool.false_eq_true, if_false]
  rw [State.resG, State.postInc_result (s := s.setCore _) c.upsets]
  rfl

theorem execBwait_done {v : Nat} (c : s.Clear h w.regs) (here : s.spCheck w.sp w.a w.m (.field16 w.off) 8 8 = .ok (none, a))
    (free : s.acquiring = false) (moved : bwaitTest w.par (Memory.readNat s.core.loc (a + 4) 4) (s.rdG w.g).toNat = some v) :
    execBwait h w s = .next (((s.bumps h false w.a w.m (.field16 w.off)).queues
      (s.result1 h (.g w.g) (lowBits 32) ((BitVec.ofNat 32 v).setWidth 1024) 1 0 .none)).spends (addedCycles false h.prot)) := by
  refine runI_ok c ?_
  simp only [here, free, moved, Bool.false_eq_true, if_false]
  rw [State.resG, State.postInc_result c.upsets]

theorem execBwait_waits (c : s.Clear h w.regs) (here : s.spCheck w.sp w.a w.m (.field16 w.off) 8 8 = .ok (none, a))
    (stands : bwaitTest w.par (Memory.readNat s.core.loc (a + 4) 4) (s.rdG w.g).toNat = none) :
    execBwait h w s = .next (s.setLatch fun l => { l with wait := true }) := by
  refine runI_wait c ?_
  simp only [here, stands]

/-- The answer of a remote barrier gives its value. -/
theorem remoteBarrier_answered {lc r op : Nat} {args : List Nat} {ready : Bool} {go : Nat → State → State} {v : Word}
    (answered : s.strm.rbar = .answered v) :
    remoteBarrier s h lc r op a args ready go = .ok (go v.toNat (s.setStrm fun x => { x with rbar := .none })) := by
  rw [remoteBarrier, answered]

theorem barrierAnswer_gives {us : List RegUse} {items : State → Items} {eff : State → Eff} {g : Nat} {v : Word} (c : s.Clear h us)
    (ok : eff s = .ok ((s.setStrm fun x => { x with rbar := .none }).resG h g (BitVec.ofNat 32 v.toNat) 1)) :
    runI h (markReads us) items s eff = .next ((s.setStrm fun x => { x with rbar := .none }).givesG h g v 1) := by
  rw [BitVec.ofNat_toNat, BitVec.setWidth_eq] at ok
  exact runI_resG_in c c.upsets ok

/-- NOTIFY to a logical core of the launch joins what waits for the stream's earlier accesses. -/
theorem execNotify_sends {n : NotifyArgs} (c : s.Clear h n.regs) (free : s.acquiring = false) (sure : s.specSlot = none)
    (kept : s.strm.lost = []) (reached : s.lcoreAt ((s.rdA n.a).toNat / 2 ^ 48) ≠ .nowhere) :
    execNotify h n s = .next ((s.setCore fun k => { k with deferred := k.deferred ++ [.notify s.sid (s.outstanding s.sid true)
      ((s.rdA n.a).toNat / 2 ^ 48) ((s.rdA n.a).toNat % 16) (s.rdG n.g).toNat s.strm.tagr.toNat (s.taskSeq s.sid)] }).spends
        (addedCycles false h.prot)) := by
  refine runI_ok c ?_
  dsimp only
  cases found : s.lcoreAt ((s.rdA n.a).toNat / 0x1000000000000) with
  | nowhere => exact absurd found reached
  | here => simp only [free, sure, Option.isSome_none, Bool.or_self, Bool.false_eq_true, if_false]; rfl
  | rank r =>
    simp only [State.lostFor, kept, List.find?_nil, free, sure, Option.isSome_none, Bool.or_self, Bool.false_eq_true, if_false]
    rfl

end

/-- Settles O5: an arrival leaves the next count and phase (`Core.barrArrive_eq`), BWAIT goes by the phase (`bwaitTest_eq`), a remote barrier gives
its answer (`remoteBarrier_answered`), NOTIFY joins what waits to be sent (`execNotify_sends`), and WAITN goes by the awaited bits. -/
theorem barrierInstructions : Obligations.BarrierInstructions := by
  refine ⟨fun h o s c a here free sure released => ?barr, fun h o s c a here free => ?bwait,
    fun h o w s lc r a v answered => ⟨fun c there => ?remoteBarr, fun c there => ?remoteBwait⟩,
    fun h o s c free sure kept => execNotify_sends c free sure kept, fun h o s c free => ?waitn⟩
  case barr => exact execBarr_arrives c here free sure released (Core.barrArrive_eq _ _ _ rfl rfl)
  case bwait =>
    intro phase gap done
    have test := bwaitTest_eq o.par phase (s.rdG o.g).toNat
    exact ⟨fun moved => execBwait_done c here free (test.trans (if_pos moved)),
      fun stands => execBwait_waits c here (test.trans (if_neg stands))⟩
  case remoteBarr =>
    refine barrierAnswer_gives c ?_
    simp only [there, remoteBarrier_answered answered]
  case remoteBwait =>
    refine barrierAnswer_gives c ?_
    simp only [there, remoteBarrier_answered answered]
  case waitn =>
    intro old x
    have waits : (s.acquiring || (x = 0 && s.rdG o.g ≠ 0 && !o.nb)) = true ↔ x = 0 ∧ s.rdG o.g ≠ 0 ∧ o.nb = false := by
      simp [free, and_assoc]
    refine ⟨fun met => runI_resG_in c c.upsets (if_neg (mt waits.1 ?_)),
      fun none asked blocking => runI_wait c (if_pos (waits.2 ⟨none, asked, blocking⟩))⟩
    rintro ⟨none, asked, blocking⟩
    rcases met with taken | nothing | noBlock
    · exact taken none
    · exact asked nothing
    · exact Bool.false_ne_true (blocking.symm.trans noBlock)

end Sys2Proof.Machine
end

section
/-! SUPPORT. Queue registers and the ring slots that QST fills (11 R287 to R291, 13 R321), and O44. -/

namespace Sys2Proof.Machine

/-! ### The head of a queue (R288, R378) -/

/-- The head of a queue holds data that has come and carries no mark, before the entries `rest`. -/
structure HeadReady (s : State) (q : Nat) (e : QEntry) (rest : List QEntry) (x : VReg) : Prop where
  queue : s.rdQ q = e :: rest
  own : e.spec = false
  data : e.data = some x
  come : e.readyAt ≤ s.core.ac
  unmarked : e.mark = .none

section
variable {s : State} {q : Nat} {e : QEntry} {rest : List QEntry} {x : VReg} {go : VReg → Eff}

theorem HeadReady.tail (ready : HeadReady s q e rest x) : (s.rdQ q).tail = rest := by rw [ready.queue, List.tail_cons]

theorem useHead_ready (ready : HeadReady s q e rest x) (clean : s.strm.upsets = []) : useHead s q go = go x := by
  have own : s.ownQ q = e :: rest.filter (fun e => !e.spec) := by rw [State.ownQ, ready.queue, List.filter_cons_of_pos (by simp [ready.own])]
  simp only [useHead, State.head, own, ready.data, if_neg (Nat.not_lt.2 ready.come), ready.unmarked, State.struck_clean clean]
  exact congrArg go BitVec.xor_zero

theorem ownQ_nil_of_spec (spec : ∀ e ∈ s.rdQ q, e.spec = true) : s.ownQ q = [] :=
  List.filter_eq_nil_iff.2 fun e mem => by simp [spec e mem]

theorem useHead_empty (spec : ∀ e ∈ s.rdQ q, e.spec = true) : useHead s q go = .trap 6 0 := by
  simp only [useHead, State.head, ownQ_nil_of_spec spec]

end

/-- A head's value in its register. -/
theorem State.resHead_queues {s t : State} (clean : t.strm.upsets = []) (pos : t.strm.pos = s.strm.pos) (h : Hdr) (v : Bool) (d : Nat) (x : VReg) :
    t.resHead h v d x = t.queues (if v then s.result1 h (.v d) (BitVec.allOnes 1024) x 2 0 .none
      else s.result1 h (.g d) (lowBits 32) ((x.setWidth 32).setWidth 1024) 1 0 .none) := by
  cases v <;> exact State.result_queues clean pos ..

/-! ### QPOP, QPEEK, QPUSH, QSTAT and QCLR -/

theorem queueInstructions : Claims.QueueInstructions := by
  refine ⟨fun h o s c => ?pop, fun h o s c => ?push, fun h o s c => ?stat, fun h o s c => runI_ok c rfl⟩
  case pop =>
    intro gives
    refine ⟨fun e rest x queue own data come unmarked => ?_, fun spec => ⟨runI_trap c (useHead_empty spec), runI_trap c (useHead_empty spec)⟩⟩
    have ready : HeadReady s o.q e rest x := ⟨queue, own, data, come, unmarked⟩
    refine ⟨runI_ok c ((useHead_ready ready c.upsets).trans ?_), runI_ok c ((useHead_ready ready c.upsets).trans ?_)⟩
    · rw [ready.tail, State.resHead_queues (s := s) (t := s.putQ o.q rest) c.upsets rfl]
    · rw [State.resHead_queues (s := s) c.upsets rfl]
  case push =>
    intro x es
    exact ⟨fun room => runI_ok c (if_neg (Nat.not_le.2 room)), fun full => runI_trap c (if_pos full)⟩
  case stat =>
    intro es there
    have marked : (fun e : QEntry => e.mark != .none) = fun e => decide (e.mark ≠ .none) := funext fun _ => Bool.eq_iff_iff.2 (by simp)
    refine (runI_resG c rfl).trans ?_
    rw [← List.countP_eq_length_filter, marked]
    rfl

/-! ### QST (R291, R321) -/

/-- The ring once QST has the tail slot: it reserves one at the slot's first entry. -/
def qstRing (s : State) (r : Ring) : Ring :=
  if r.fill = 0 then { r with reserved := r.reserved ++ [⟨qstOwner, s.strm.tagr.toNat, false, false⟩] } else r

theorem fill_qstRing (s : State) (r : Ring) : (qstRing s r).fill = r.fill := by unfold qstRing; split <;> rfl
theorem slotsz_qstRing (s : State) (r : Ring) : (qstRing s r).slotsz = r.slotsz := by unfold qstRing; split <;> rfl

theorem qstRing_opens (s : State) (r : Ring) (room : r.fill = 0 → r.published + r.freed + r.reserved.length + 1 ≤ r.nslot) :
    (if r.fill = 0 then r.reserve qstOwner s.strm.tagr.toNat 1 else some r) = some (qstRing s r) := by
  unfold qstRing
  split
  · next first => exact if_pos (room first)
  · rfl

theorem queueToRing : Claims.QueueToRing := by
  intro h o s c e rest x queue own data come unmarked sure r r1 room n oldest a last
  have ready : HeadReady s o.q e rest x := ⟨queue, own, data, come, unmarked⟩
  refine runI_ok c ((useHead_ready ready c.upsets).trans ?_)
  have tailSlot : ((qstRing s (s.core.ring o.k)).slotsOf qstOwner).head? = some n := oldest
  simp only [sure, Option.isSome_none, Bool.false_eq_true, if_false, qstRing_opens s (s.core.ring o.k) room, tailSlot, State.localWrite_plain sure,
    fill_qstRing, slotsz_qstRing]
  rw [← ready.tail]
  rfl

/-- Settles O44: an instruction that uses a head goes by what stands there (`useHead_ready`, `useHead_empty`); QST writes the place at which the
ring's tail slot is filled. -/
theorem queues : Obligations.Queues := ⟨queueInstructions, queueToRing⟩

end Sys2Proof.Machine
end

section
/-! SUPPORT. The caches of a core (09 R236, log 87): when a full cache gives no line up, what its operations leave of the issuing stream, and what
a core sees through them. -/

namespace Sys2Proof.Machine

/-! ### The listed entries of a map after writes -/

namespace SMap

variable {α : Type} {d : α} {k : Nat} {v : α} {m : SMap α} {p : Nat × α}

theorem mem_of_mem_insert (mem : p ∈ insert k v m) : p.1 = k ∨ p ∈ m := by
  induction m with
  | nil => exact .inl (congrArg Prod.fst (List.mem_singleton.1 mem))
  | cons e m ih =>
    unfold insert at mem
    split at mem
    · rcases List.mem_cons.1 mem with rfl | mem
      · exact .inr List.mem_cons_self
      · exact (ih mem).imp_right (List.mem_cons_of_mem _)
    · split at mem
      · exact (List.mem_cons.1 mem).imp (congrArg Prod.fst) (List.mem_cons_of_mem _)
      · exact (List.mem_cons.1 mem).imp_left (congrArg Prod.fst)

theorem mem_of_mem_erase (mem : p ∈ erase k m) : p ∈ m := by
  induction m with
  | nil => exact mem
  | cons e m ih =>
    unfold erase at mem
    split at mem
    · exact List.mem_cons_of_mem _ (ih mem)
    · exact (List.mem_cons.1 mem).elim (fun eq => eq ▸ List.mem_cons_self) fun mem => List.mem_cons_of_mem _ (ih mem)

/-- An entry of a written map is of the written key, or stood there before. -/
theorem mem_of_mem_set [DecidableEq α] (mem : p ∈ set d k v m) : p.1 = k ∨ p ∈ m := by
  unfold set at mem
  split at mem
  · exact .inr (mem_of_mem_erase mem)
  · exact mem_of_mem_insert mem

/-- After steps that each list at most one new key, an entry is of one of those keys, or stood there before. -/
theorem mem_of_mem_foldl {β : Type} {f : SMap α → β → SMap α} {key : β → Nat} (step : ∀ m b, p ∈ f m b → p.1 = key b ∨ p ∈ m)
    {l : List β} (mem : p ∈ l.foldl f m) : (∃ b ∈ l, p.1 = key b) ∨ p ∈ m := by
  induction l generalizing m with
  | nil => exact .inr mem
  | cons b l ih =>
    rcases ih mem with ⟨c, memc, eq⟩ | mem
    · exact .inl ⟨c, List.mem_cons_of_mem _ memc, eq⟩
    · exact (step m b mem).imp_left fun eq => ⟨b, List.mem_cons_self, eq⟩

end SMap

/-! ### The lines that a core's caches hold (R236, log 87) -/

theorem length_eraseDups_le {l m extra : List Nat} (sub : l ⊆ m ++ extra) : l.eraseDups.length ≤ m.eraseDups.length + extra.length := by
  have cover : l.eraseDups ⊆ m.eraseDups ++ extra := fun x mem => by
    rw [List.mem_append, List.mem_eraseDups]
    exact List.mem_append.1 (sub (List.mem_eraseDups.1 mem))
  simpa using ((nodup_eraseDups l).subperm cover).length_le

/-- The lines of a core's L1 and those of its cluster's L2 slice, as often as they hold bytes. -/
def State.nearLines (s : State) (k : Nat) : List Nat := (s.coreOf k).l1.map fun (p : Nat × Option CByte) => p.1 / 128
def State.sliceLines (s : State) (k : Nat) : List Nat := (s.dieOf (rankOfCore k)).l2.filterMap fun (p : Nat × Option CByte) =>
  if l2Key k 0 ≤ p.1 && p.1 < l2Key k 0 + 0x100000000000000 then some ((p.1 - l2Key k 0) / 128) else none

section
variable {s : State} {k : Nat}

theorem State.length_nearLines_le : (s.nearLines k).eraseDups.length ≤ (s.linesOf k).length :=
  length_eraseDups_le (m := s.nearLines k ++ s.sliceLines k) (extra := []) (by simp)

theorem State.length_sliceLines_le : (s.sliceLines k).eraseDups.length ≤ (s.linesOf k).length :=
  length_eraseDups_le (m := s.nearLines k ++ s.sliceLines k) (extra := []) (by simp)

/-- An L1 that holds no more lines than it can gives none up. -/
theorem State.l1Evict_stays (few : (s.nearLines k).eraseDups.length ≤ l1Lines) (line : Nat) : s.l1Evict k line = s := by
  unfold State.l1Evict
  dsimp only
  split
  · exact if_neg (Nat.not_lt.2 few)
  · rfl

theorem State.l2Evict_stays (few : (s.sliceLines k).eraseDups.length ≤ l2Lines) (line : Nat) : s.l2Evict k line = s := by
  unfold State.l2Evict
  dsimp only
  split
  · exact if_neg (Nat.not_lt.2 few)
  · rfl

end

/-! ### A line that finds room -/

/-- The addresses of the bytes of the line of `a`. -/
def lineBytes (a : Nat) : List Nat := (List.range 128).map (a / 128 * 128 + ·)

theorem mem_lineBytes {a b : Nat} (mem : b ∈ lineBytes a) : b / 128 = a / 128 := by
  obtain ⟨i, inside, rfl⟩ := List.mem_map.1 mem
  rw [List.mem_range] at inside
  omega

/-- A byte that a cache lacks joins it. -/
def fillByte (key : Nat → Nat) (cell : Nat → CByte) (m : SMap (Option CByte)) (b : Nat) : SMap (Option CByte) :=
  if (optGet (key b) m).isSome then m else SMap.set none (key b) (some (cell b)) m

theorem mem_fillBytes {key : Nat → Nat} {cell : Nat → CByte} {m : SMap (Option CByte)} {bs : List Nat} {p : Nat × Option CByte}
    (mem : p ∈ bs.foldl (fillByte key cell) m) : (∃ b ∈ bs, p.1 = key b) ∨ p ∈ m :=
  SMap.mem_of_mem_foldl (fun m b mem => by
    unfold fillByte at mem
    split at mem
    · exact .inr mem
    · exact SMap.mem_of_mem_set mem) mem

/-- The bytes of the line of `a` that the slice lacks, and those that L1 lacks, join them. -/
def State.sliceFilled (s : State) (k a : Nat) : State := (s.modDie (rankOfCore k) fun d => { d with
  l2 := (lineBytes a).foldl (fillByte (l2Key k) fun b => ⟨Memory.read s.sys.hbm b, false, SMap.get false (b / 4) s.sys.hbmPoison⟩) d.l2
  }).granuleCount (rankOfCore k) (a / 128 * 128)
def State.nearFilled (s : State) (k a : Nat) : State := s.modCore k fun c =>
  { c with l1 := (lineBytes a).foldl (fillByte (fun b => b) fun b => { s.cachedCell k b with dirty := false }) c.l1 }

/-- A fetch fills the slice, then L1, and each then gives a line up where it holds too many. -/
theorem State.fillLine_cases (s : State) (k a : Nat) (l1 : Bool) : s.fillLine k a l1 = s ∨
    ∃ t, (t = s ∨ t = (s.sliceFilled k a).l2Evict k (a / 128 * 128 / 128)) ∧
      s.fillLine k a l1 = if l1 then (t.nearFilled k a).l1Evict k (a / 128 * 128 / 128) else t := by
  unfold State.fillLine
  dsimp only
  split
  · exact .inl rfl
  · refine .inr ⟨_, ?_, rfl⟩
    split
    · exact .inl rfl
    · exact .inr rfl

section
variable (s : State) (k a : Nat)

theorem State.nearLines_nearFilled_subset : (s.nearFilled k a).nearLines k ⊆ s.nearLines k ++ [a / 128] := by
  intro line mem
  rw [State.nearLines, State.nearFilled, State.coreOf_modCore_self] at mem
  obtain ⟨p, listed, rfl⟩ := List.mem_map.1 mem
  dsimp only at listed
  rcases mem_fillBytes listed with ⟨b, memb, eq⟩ | listed
  · rw [eq, mem_lineBytes memb]
    exact List.mem_append_right _ List.mem_cons_self
  · exact List.mem_append_left _ (List.mem_map_of_mem listed)

theorem State.l2_modDie {r : Nat} {f : Die → Die} (keeps : ∀ d, (f d).l2 = d.l2) (i : Nat) : ((s.modDie r f).dieOf i).l2 = (s.dieOf i).l2 := by
  by_cases same : i = r
  · rw [same, State.dieOf_modDie_self, keeps]
  · exact congrArg Die.l2 (SMap.get_set_ne _ _ _ same)

theorem State.l2_granuleCount (from_ r : Nat) : ((s.granuleCount from_ a).dieOf r).l2 = (s.dieOf r).l2 := by
  unfold State.granuleCount
  split
  · rfl
  · exact s.l2_modDie (fun _ => by rfl) r

theorem State.sliceLines_sliceFilled_subset : (s.sliceFilled k a).sliceLines k ⊆ s.sliceLines k ++ [a / 128] := by
  intro line mem
  rw [State.sliceLines, State.sliceFilled, State.l2_granuleCount, State.dieOf_modDie_self] at mem
  obtain ⟨p, listed, named⟩ := List.mem_filterMap.1 mem
  dsimp only at listed
  rcases mem_fillBytes listed with ⟨b, memb, eq⟩ | listed
  · have own : p.1 - l2Key k 0 = b := by rw [eq, l2Key, l2Key]; omega
    rw [own, mem_lineBytes memb] at named
    obtain ⟨-, same⟩ := Option.ite_none_right_eq_some.1 named
    rw [← Option.some.inj same]
    exact List.mem_append_right _ List.mem_cons_self
  · exact List.mem_append_left _ (List.mem_filterMap.2 ⟨p, listed, named⟩)

theorem State.coreOf_granuleCount (from_ : Nat) : (s.granuleCount from_ a).coreOf k = s.coreOf k := by
  unfold State.granuleCount
  split <;> rfl

@[simp] theorem State.nearFilled_hbm : (s.nearFilled k a).sys.hbm = s.sys.hbm := by rw [State.nearFilled, State.modCore_sys]
@[simp] theorem State.sliceFilled_hbm : (s.sliceFilled k a).sys.hbm = s.sys.hbm := by rw [State.sliceFilled, State.granuleCount_hbm, State.modDie_hbm]
theorem State.coreOf_sliceFilled : (s.sliceFilled k a).coreOf k = s.coreOf k := State.coreOf_granuleCount ..

variable {s k}

/-- Where the caches have room for one line more, a fetch writes nothing back. -/
theorem State.hbm_fillLine (room : (s.linesOf k).length < l1Lines) (l1 : Bool) : (s.fillLine k a l1).sys.hbm = s.sys.hbm := by
  have slice : ((s.sliceFilled k a).sliceLines k).eraseDups.length ≤ l2Lines := by
    have filled := length_eraseDups_le (s.sliceLines_sliceFilled_subset k a)
    have held := State.length_sliceLines_le (s := s) (k := k)
    simp only [l1Lines, l2Lines, List.length_singleton] at *
    omega
  have near (t : State) (core : t.coreOf k = s.coreOf k) : ((t.nearFilled k a).nearLines k).eraseDups.length ≤ l1Lines := by
    have filled := length_eraseDups_le (t.nearLines_nearFilled_subset k a)
    have held := State.length_nearLines_le (s := s) (k := k)
    simp only [State.nearLines, core, List.length_singleton] at *
    omega
  rcases s.fillLine_cases k a l1 with same | ⟨t, fetched, eq⟩
  · rw [same]
  · rw [State.l2Evict_stays slice] at fetched
    have core : t.coreOf k = s.coreOf k := fetched.elim (fun eq => eq ▸ rfl) fun eq => eq ▸ s.coreOf_sliceFilled k a
    have hbm : t.sys.hbm = s.sys.hbm := fetched.elim (fun eq => eq ▸ rfl) fun eq => eq ▸ s.sliceFilled_hbm k a
    rw [eq]
    split
    · rw [State.l1Evict_stays (near t core), State.nearFilled_hbm, hbm]
    · exact hbm

end

/-! ### What the caches' operations leave of the issuing stream -/

/-- The issuing stream, the local memory of its core, and the requests of the domain with the number of the next one, are in `t` as in `s`. -/
structure State.KeepsIssue (s t : State) : Prop where
  sid : t.sid = s.sid
  strm : t.strm = s.strm
  loc : t.core.loc = s.core.loc
  reqs : t.sys.reqs = s.sys.reqs
  reqId : t.sys.reqId = s.sys.reqId

namespace State.KeepsIssue

variable {s t u : State}

theorem refl (s : State) : s.KeepsIssue s := ⟨rfl, rfl, rfl, rfl, rfl⟩

theorem trans (st : s.KeepsIssue t) (tu : t.KeepsIssue u) : s.KeepsIssue u :=
  ⟨tu.sid.trans st.sid, tu.strm.trans st.strm, tu.loc.trans st.loc, tu.reqs.trans st.reqs, tu.reqId.trans st.reqId⟩

theorem foldl {α : Type} {f : State → α → State} (step : ∀ (t : State) a, t.KeepsIssue (f t a)) (l : List α) (s : State) :
    s.KeepsIssue (l.foldl f s) := by
  induction l generalizing s with
  | nil => exact refl s
  | cons a l ih => exact (step s a).trans (ih _)

end State.KeepsIssue

section
variable (s : State) (k line a r : Nat)

theorem State.keepsIssue_modCore {f : Core → Core} (loc : (f (s.coreOf k)).loc = (s.coreOf k).loc) : s.KeepsIssue (s.modCore k f) := by
  by_cases own : k = s.ck
  · have core : s.coreOf k = s.core := if_pos own
    rw [core] at loc
    have eq : s.modCore k f = { s with core := f s.core } := (if_pos own).trans (by rw [core])
    rw [eq]
    exact ⟨rfl, rfl, loc, rfl, rfl⟩
  · have eq : s.modCore k f = { s with cores := SMap.set Core.reset k (f (s.coreOf k)) s.cores } := if_neg own
    rw [eq]
    exact ⟨rfl, rfl, rfl, rfl, rfl⟩

theorem State.keepsIssue_modDie (f : Die → Die) : s.KeepsIssue (s.modDie r f) := ⟨rfl, rfl, rfl, rfl, rfl⟩

theorem State.keepsIssue_hbmWrite (bs : List Byte) : s.KeepsIssue (s.hbmWrite a bs) := by
  rw [State.hbmWrite_eq]
  exact ⟨rfl, rfl, rfl, rfl, rfl⟩

theorem State.keepsIssue_granuleCount : s.KeepsIssue (s.granuleCount r a) := by
  unfold State.granuleCount
  split
  · exact .refl s
  · exact s.keepsIssue_modDie ..

theorem State.keepsIssue_markDirty (va : Nat) : s.KeepsIssue (s.markDirty k va) := by
  unfold State.markDirty
  split
  · split
    · exact ⟨rfl, rfl, rfl, rfl, rfl⟩
    · exact .refl s
  · exact .refl s

theorem State.keepsIssue_markDevDirty (pkg v va : Nat) : s.KeepsIssue (s.markDevDirty pkg v va) := by
  unfold State.markDevDirty
  split
  · exact ⟨rfl, rfl, rfl, rfl, rfl⟩
  · exact .refl s

theorem State.keepsIssue_backDirty : s.KeepsIssue (s.backDirty k a) := by
  unfold State.backDirty
  refine .foldl (fun t ⟨v, _⟩ => .foldl (fun u ⟨va, pa⟩ => ?_) _ _) _ _
  dsimp only
  split
  · exact u.keepsIssue_markDevDirty ..
  · exact .refl u

/-- A dirty line of the slice goes to memory by counts, marks and writes of HBM. -/
theorem State.keepsIssue_l2Back : s.KeepsIssue (s.l2Back k line) := by
  have written (d : Die) (l : List (Nat × List Byte)) : s.KeepsIssue (l.foldl (fun t x => t.hbmWrite x.1 x.2)
      (((s.putDie (rankOfCore k) d).granuleCount (rankOfCore k) (128 * line)).backDirty k (128 * line))) :=
    ((s.keepsIssue_modDie (rankOfCore k) fun _ => d).trans
      ((State.keepsIssue_granuleCount ..).trans (State.keepsIssue_backDirty ..))).trans (.foldl (fun t x => t.keepsIssue_hbmWrite ..) l _)
  unfold State.l2Back
  dsimp only
  split
  · exact s.keepsIssue_modDie (rankOfCore k) fun _ => _
  · split
    · exact written ..
    · exact (written ..).trans ⟨rfl, rfl, rfl, rfl, rfl⟩

theorem State.keepsIssue_l2Evict : s.KeepsIssue (s.l2Evict k line) := by
  unfold State.l2Evict
  dsimp only
  split
  · split
    · exact (s.keepsIssue_l2Back ..).trans (State.keepsIssue_modDie ..)
    · exact .refl s
  · exact .refl s

theorem State.keepsIssue_l1Back : s.KeepsIssue (s.l1Back k line) := by
  have moved (m : SMap (Option CByte)) (f : Die → Die) :
      s.KeepsIssue ((s.putCore k { s.coreOf k with l1 := m }).modDie (rankOfCore k) f) :=
    (s.keepsIssue_modCore k (f := fun c => { c with l1 := m }) rfl).trans (State.keepsIssue_modDie ..)
  unfold State.l1Back
  dsimp only
  split
  · exact moved ..
  · exact (moved ..).trans ((State.keepsIssue_backDirty ..).trans (State.keepsIssue_l2Evict ..))

theorem State.keepsIssue_l1Evict : s.KeepsIssue (s.l1Evict k line) := by
  unfold State.l1Evict
  dsimp only
  split
  · split
    · exact (s.keepsIssue_l1Back ..).trans (State.keepsIssue_modCore _ _ rfl)
    · exact .refl s
  · exact .refl s

theorem State.keepsIssue_fillLine (l1 : Bool) : s.KeepsIssue (s.fillLine k a l1) := by
  rcases s.fillLine_cases k a l1 with same | ⟨t, fetched, eq⟩
  · rw [same]
    exact .refl s
  · have mid : s.KeepsIssue t := by
      rcases fetched with rfl | rfl
      · exact .refl t
      · exact ((s.keepsIssue_modDie ..).trans (State.keepsIssue_granuleCount ..)).trans (State.keepsIssue_l2Evict ..)
    rw [eq]
    split
    · exact mid.trans ((State.keepsIssue_modCore _ _ rfl).trans (State.keepsIssue_l1Evict ..))
    · exact mid

theorem State.keepsIssue_tlbFill (x : FarCtx) (va : Nat) : s.KeepsIssue (s.tlbFill x va) := by
  unfold State.tlbFill
  split
  · exact .refl s
  · split
    · exact .refl s
    · exact s.keepsIssue_modCore _ rfl

theorem State.keepsIssue_pinAll (pkg : Nat) (ps : List (Nat × Nat)) : s.KeepsIssue (s.pinAll pkg ps) :=
  .foldl (fun t _ => t.keepsIssue_modDie ..) ps s

end

/-! ### What a core sees of memory -/

/-- A core's L1, its cluster's L2 slice, and HBM with its poison are in `t` as in `s`. -/
structure State.SameView (k : Nat) (s t : State) : Prop where
  l1 : (t.coreOf k).l1 = (s.coreOf k).l1
  l2 : (t.dieOf (rankOfCore k)).l2 = (s.dieOf (rankOfCore k)).l2
  hbm : t.sys.hbm = s.sys.hbm
  poison : t.sys.hbmPoison = s.sys.hbmPoison

namespace State.SameView

variable {k : Nat} {s t u : State}

theorem refl (k : Nat) (s : State) : SameView k s s := ⟨rfl, rfl, rfl, rfl⟩

theorem trans (st : SameView k s t) (tu : SameView k t u) : SameView k s u :=
  ⟨tu.l1.trans st.l1, tu.l2.trans st.l2, tu.hbm.trans st.hbm, tu.poison.trans st.poison⟩

theorem foldl {α : Type} {f : State → α → State} (step : ∀ (t : State) a, SameView k t (f t a)) (l : List α) (s : State) :
    SameView k s (l.foldl f s) := by
  induction l generalizing s with
  | nil => exact refl k s
  | cons a l ih => exact (step s a).trans (ih _)

theorem cachedCell (same : SameView k s t) (a : Nat) : t.cachedCell k a = s.cachedCell k a := by
  rw [State.cachedCell, State.cachedCell, same.l1, same.l2, same.hbm, same.poison]

theorem farBytes (same : SameView k s t) (hit : FarHit) (n : Nat) : t.farBytes k hit n = s.farBytes k hit n := by
  simp only [State.farBytes, State.cachedBytes, State.cachedByte, same.cachedCell, same.hbm]

theorem farPoisoned (same : SameView k s t) (hit : FarHit) (n : Nat) : t.farPoisoned k hit n = s.farPoisoned k hit n := by
  simp only [State.farPoisoned, State.hbmPoisoned, same.cachedCell, same.poison]

theorem linesOf (same : SameView k s t) : t.linesOf k = s.linesOf k := by
  rw [State.linesOf, State.linesOf, same.l1, same.l2]

end State.SameView

section
variable (s : State)

theorem State.sameView_tlbFill (x : FarCtx) (va : Nat) : SameView x.core s (s.tlbFill x va) := by
  unfold State.tlbFill
  split
  · exact .refl ..
  · split
    · exact .refl ..
    · refine ⟨by rw [State.coreOf_modCore_self], ?_, ?_, ?_⟩
      · rw [State.dieOf, State.modCore_sys]
        rfl
      · rw [State.modCore_sys]
      · rw [State.modCore_sys]

theorem State.sameView_markDirty (k lk va : Nat) : SameView k s (s.markDirty lk va) := by
  unfold State.markDirty
  split
  · split
    · exact ⟨rfl, rfl, rfl, rfl⟩
    · exact .refl ..
  · exact .refl ..

theorem State.sameView_markDevDirty (k pkg v va : Nat) : SameView k s (s.markDevDirty pkg v va) := by
  unfold State.markDevDirty
  split
  · exact ⟨rfl, rfl, rfl, rfl⟩
  · exact .refl ..

theorem State.sameView_modDie (k r : Nat) {f : Die → Die} (keeps : ∀ d, (f d).l2 = d.l2) : SameView k s (s.modDie r f) :=
  ⟨rfl, s.l2_modDie keeps _, rfl, rfl⟩

theorem State.sameView_pinAll (k pkg : Nat) (ps : List (Nat × Nat)) : SameView k s (s.pinAll pkg ps) :=
  .foldl (fun t _ => t.sameView_modDie k _ fun _ => by rfl) ps s

end
end Sys2Proof.Machine
end

section
/-! SUPPORT. Queue loads (11 R292, R293, 09 R237, R255, R443), and O45. -/

namespace Sys2Proof.Machine

/-! ### Instructions with far data whose copies meet at issue (R443) -/

section
variable {s t : State} {h : Hdr} {us : List RegUse} {wide : Bool} {items : State → Items} {eff : State → Eff}

theorem runF_ok (c : s.Clear h us) (ok : eff s = .ok t) :
    runF h (markReads us) wide items s eff = .next (t.spends (addedCycles wide h.prot)) := by
  rw [runF_clear c, ok]; rfl

theorem runF_trap {cause val : Nat} (c : s.Clear h us) (trap : eff s = .trap cause val) :
    runF h (markReads us) wide items s eff = .next (s.takeTrap cause val false h.slot h.prot false) := by
  rw [runF_clear c, trap]; rfl

theorem runF_trapIn {cause val : Nat} (c : s.Clear h us) (trap : eff s = .trapIn t cause val) :
    runF h (markReads us) wide items s eff = .next (t.takeTrap cause val false h.slot h.prot false) := by
  rw [runF_clear c, trap]; rfl

end

theorem State.farLost_none {s : State} (kept : s.strm.lost = []) (x : FarCtx) (ps : List FarPiece) : s.farLost x ps = none :=
  List.findSome?_eq_none_iff.2 fun p _ => by rw [State.lostFor, kept, List.find?_nil, ite_self]

/-! ### The request of a queue load (R292) -/

/-- The state once the pages of a load are in the TLB. -/
def State.pagesFilled (s : State) (x : FarCtx) (ps : List FarPiece) : State := ps.foldl (fun t p => t.tlbFill x p.part.va) s

/-- The request of a queue load, before its parts have joined it. -/
def State.loadReq (s : State) (h : Hdr) (q : Nat) (parts : List FarPart) (ps : List FarPiece) : Req :=
  let x := s.farCtx s.sid
  let t := s.pagesFilled x ps
  ⟨s.sys.reqId, s.sid, .entry q, none, t.sys.dc, 0, true, farPages x parts, [], false, s.l1Misses x ps, h.prot, t.taskSeq s.sid, false⟩

/-- A request joins those of the domain, and its pages are counted. -/
def State.withRequest (t : State) (r : Req) (pkg : Nat) : State :=
  ({ t with sys := { t.sys with reqs := t.sys.reqs ++ [r], reqId := r.id + 1 } } : State).pinAll pkg r.pages

/-- The state in which a queue load has its request and its entry. -/
def State.loadBegun (s : State) (h : Hdr) (q : Nat) (parts : List FarPart) (ps : List FarPiece) (mask : Option Word) : State :=
  Claims.withEntry ((s.pagesFilled (s.farCtx s.sid) ps).withRequest (s.loadReq h q parts ps) s.pkg) q
    ⟨s.sys.reqId, none, 0, .none, false, false, h.prot, s.strm.pos, mask⟩

section
variable (s : State) (x : FarCtx) (ps : List FarPiece)

theorem State.keepsIssue_pagesFilled : s.KeepsIssue (s.pagesFilled x ps) := by
  unfold State.pagesFilled
  exact .foldl (fun t p => t.keepsIssue_tlbFill x p.part.va) ps s

theorem State.sameView_pagesFilled : SameView x.core s (s.pagesFilled x ps) := by
  unfold State.pagesFilled
  exact .foldl (fun t p => t.sameView_tlbFill x p.part.va) ps s

end

section
variable {s : State} {h : Hdr} {q ext : Nat} {base : Addr} {parts : List FarPart} {ps : List FarPiece} {spec : Bool} {mask : Option Word}
  {after : State → State}

theorem queueLoad_full (full : 8 ≤ (Claims.ordinary s q).length) : queueLoad s h q base parts ext spec mask after = .trap 5 0 := if_pos full

theorem queueLoad_faults {cause val : Nat} (room : (Claims.ordinary s q).length < 8) (opened : s.farBlocked (s.farCtx s.sid) parts = false)
    (faults : s.farPieces (s.farCtx s.sid) base parts false = .error (cause, val)) : queueLoad s h q base parts ext spec mask after =
      if spec then .ok (after (Claims.withEntry s q ⟨0, some 0, s.core.ac + 1, .deferred cause val, false, false, 0, Pos.zero, none⟩))
      else .trapIn (s.multiRecord (s.farCtx s.sid) cause val) cause val := by
  unfold queueLoad
  dsimp only
  rw [if_neg (show ¬ (s.ownQ q).length ≥ 8 from Nat.not_le.2 room), if_neg (ne_true_of_eq_false opened), faults]
  rfl

/-- A load that nothing holds back begins its request, which every part joins. -/
theorem queueLoad_ready (room : (Claims.ordinary s q).length < 8) (ready : Claims.FarReady s base parts false ps)
    (misses : s.missRoom s.ck (s.l1Misses (s.farCtx s.sid) ps) = true) : queueLoad s h q base parts ext spec mask after =
      .ok (after (ps.foldl (State.loadPart h (s.farCtx s.sid) s.sys.reqId ext) (s.loadBegun h q parts ps mask))) := by
  obtain ⟨pieces, kept, goes, opened, -⟩ := ready
  have filled := s.keepsIssue_pagesFilled (s.farCtx s.sid) ps
  unfold queueLoad
  dsimp only
  rw [if_neg (show ¬ (s.ownQ q).length ≥ 8 from Nat.not_le.2 room), if_neg (ne_true_of_eq_false opened), pieces]
  simp only [State.farLost_none kept, goes, misses, Bool.not_true, Bool.or_self, Bool.false_eq_true, if_false]
  rw [show List.foldl _ s ps = s.pagesFilled (s.farCtx s.sid) ps from rfl]
  simp only [State.loadBegun, State.withRequest, State.loadReq, State.localReq, State.pkg, State.ck, filled.reqId, filled.sid]
  rfl

end

/-! ### LDQ, LDQS and LDQX -/

/-- LDQ that adopts nothing is a queue load of one part. -/
theorem execLdq_eq {s : State} {h : Hdr} {o : LdqArgs} (c : s.Clear h o.regs) (alone : o.s = true → s.adoptLoad o.q = none) :
    execLdq h o s = (queueLoad s h o.q (s.rdA o.a) [⟨0, Claims.ea s o.a o.m o.off, if o.sz = 3 then 128 else 2 ^ o.sz⟩]
      (if o.sz < 2 && !o.z then 1 else 0) o.s (if o.sz = 3 then some (BitVec.allOnes 32) else none)
      fun t => t.postInc h false o.a o.m o.off).close h (addedCycles (o.sz = 3) h.prot) s := by
  have adopts : (if o.s then s.adoptLoad o.q else none) = none := by
    split
    · next spec => exact alone spec
    · rfl
  rw [execLdq, runF_clear c]
  simp only [adopts]
  rfl

theorem queueLoads : Claims.QueueLoads := by
  unfold Claims.QueueLoads
  intro loads
  have performs {i : Instr} {s : State} {h : Hdr} {q : Nat} {base : Addr} {ext : Nat} {spec wide : Bool} {mask : Option Word}
      {parts : List FarPart} {bump : State → State}
      (runs : exec i s = (queueLoad s h q base parts ext spec mask bump).close h (addedCycles wide h.prot) s) :
      loads i s h q base ext spec wide mask parts bump := by
    refine ⟨fun full => ?full, fun cause val room opened faults => ?faults, fun ps room ready misses => ?ready⟩
    case full =>
      rw [runs, queueLoad_full full]
      rfl
    case faults =>
      rw [runs, queueLoad_faults room opened faults]
      cases spec <;> rfl
    case ready =>
      rw [runs, queueLoad_ready room ready misses]
      rfl
  refine ⟨fun h o s c alone => performs (i := .ldq h o) (execLdq_eq c alone), fun h o s c => ?_, fun h o s c => ?_⟩
  · rw [← State.strideParts_eq]
    exact performs (i := .ldqs h o) (runF_clear c ..)
  · rw [← State.indexParts_eq]
    exact performs (i := .ldqx h o) (runF_clear c ..)

/-! ### A load of one part in the own package (R255) -/

/-- A read of a byte fetches its line, or its home counts it. -/
def State.readAt (s : State) (k : Nat) (hit : FarHit) : State :=
  if hit.cached then s.fillLine k hit.addr true else s.granuleCount (rankOfCore k) hit.addr

section
variable {s : State} {k : Nat} {hit : FarHit}

theorem State.keepsIssue_readAt (s : State) (k : Nat) (hit : FarHit) : s.KeepsIssue (s.readAt k hit) := by
  unfold State.readAt
  split
  · exact s.keepsIssue_fillLine ..
  · exact s.keepsIssue_granuleCount ..

theorem State.hbm_readAt (room : hit.cached = false ∨ (s.linesOf k).length < l1Lines) : (s.readAt k hit).sys.hbm = s.sys.hbm := by
  unfold State.readAt
  split
  · next cached => exact State.hbm_fillLine _ (room.resolve_left (ne_false_of_eq_true cached)) true
  · exact State.granuleCount_hbm ..

theorem State.length_farBytes (s : State) (k : Nat) (hit : FarHit) (n : Nat) : (s.farBytes k hit n).length = n := by
  unfold State.farBytes
  split
  · simp [State.cachedBytes]
  · exact Memory.readBytes_length ..

end

/-- The bytes of a part of a load from HBM of the own package join its request. -/
theorem State.loadPart_near {s : State} {h : Hdr} {x : FarCtx} {id : Nat} {p : FarPiece} (near : p.remote x = false)
    (memory : isDieReg p.hit.addr = false) (clean : s.farPoisoned x.core p.hit p.part.n = false) : State.loadPart h x id 0 s p =
      (s.modReq id fun r => { r with data := Memory.writeBytes p.part.off (s.farBytes x.core p.hit p.part.n) r.data }).readAt x.core p.hit := by
  unfold State.loadPart State.pieceBytes
  simp only [near, memory, clean, Bool.and_false, Bool.false_eq_true, if_false]
  rfl

section
variable (s : State) (r : Req) (pkg : Nat)

theorem State.withRequest_strm : (s.withRequest r pkg).strm = s.strm := (State.keepsIssue_pinAll ..).strm
theorem State.withRequest_loc : (s.withRequest r pkg).core.loc = s.core.loc := (State.keepsIssue_pinAll ..).loc
theorem State.withRequest_reqs : (s.withRequest r pkg).sys.reqs = s.sys.reqs ++ [r] := (State.keepsIssue_pinAll ..).reqs
theorem State.sameView_withRequest (k : Nat) : SameView k s (s.withRequest r pkg) := by
  unfold State.withRequest
  refine .trans ?_ (State.sameView_pinAll ..)
  exact ⟨rfl, rfl, rfl, rfl⟩

end

/-- An entry joins a queue by what the stream holds alone. -/
theorem withEntry_strm {s t : State} (same : t.strm = s.strm) (q : Nat) (e : QEntry) :
    (Claims.withEntry t q e).strm = (Claims.withEntry s q e).strm := by
  simp only [Claims.withEntry, Claims.ordinary, State.putQ, State.rdQ, same]

section
variable (s : State) (h : Hdr) (q : Nat) (parts : List FarPart) (ps : List FarPiece) (mask : Option Word)

theorem State.loadBegun_strm : (s.loadBegun h q parts ps mask).strm =
    (Claims.withEntry s q ⟨s.sys.reqId, none, 0, .none, false, false, h.prot, s.strm.pos, mask⟩).strm :=
  withEntry_strm ((State.withRequest_strm ..).trans (s.keepsIssue_pagesFilled ..).strm) ..

theorem State.loadBegun_loc : (s.loadBegun h q parts ps mask).core.loc = s.core.loc :=
  (State.withRequest_loc ..).trans (s.keepsIssue_pagesFilled ..).loc

theorem State.loadBegun_reqs : (s.loadBegun h q parts ps mask).sys.reqs = s.sys.reqs ++ [s.loadReq h q parts ps] :=
  (State.withRequest_reqs ..).trans (congrArg (· ++ _) (s.keepsIssue_pagesFilled ..).reqs)

theorem State.sameView_loadBegun : SameView (s.farCtx s.sid).core s (s.loadBegun h q parts ps mask) :=
  ((s.sameView_pagesFilled ..).trans (State.sameView_withRequest ..)).trans ⟨rfl, rfl, rfl, rfl⟩

end

/-- The queue that got an entry, and the others. -/
theorem rdQ_withEntry (s : State) (q : Nat) (e : QEntry) : (Claims.withEntry s q e).rdQ q = Claims.ordinary s q ++ e :: (s.rdQ q).filter (·.spec) :=
  SMap.get_set_self ..
theorem rdQ_withEntry_ne (s : State) {q k : Nat} (ne : k ≠ q) (e : QEntry) : (Claims.withEntry s q e).rdQ k = s.rdQ k :=
  SMap.get_set_ne _ _ _ ne

/-- A queue load of one part in the own package, once its bytes have joined its request. -/
def State.loadDone (s : State) (h : Hdr) (q : Nat) (part : FarPart) (hit : FarHit) (mask : Option Word) : State :=
  let k := (s.farCtx s.sid).core
  ((s.loadBegun h q [part] [⟨part, hit⟩] mask).modReq s.sys.reqId fun r =>
    { r with data := Memory.writeBytes part.off (s.farBytes k hit part.n) r.data }).readAt k hit

section
variable (s : State) (h : Hdr) (q : Nat) (part : FarPart) (hit : FarHit) (mask : Option Word)

theorem State.loadDone_strm : (s.loadDone h q part hit mask).strm =
    (Claims.withEntry s q ⟨s.sys.reqId, none, 0, .none, false, false, h.prot, s.strm.pos, mask⟩).strm :=
  (State.keepsIssue_readAt ..).strm.trans (s.loadBegun_strm ..)

theorem State.loadDone_loc : (s.loadDone h q part hit mask).core.loc = s.core.loc :=
  (State.keepsIssue_readAt ..).loc.trans (s.loadBegun_loc h q [part] [⟨part, hit⟩] mask)

theorem State.loadDone_rdQ (i : Nat) : (s.loadDone h q part hit mask).rdQ i =
    (Claims.withEntry s q ⟨s.sys.reqId, none, 0, .none, false, false, h.prot, s.strm.pos, mask⟩).rdQ i := by
  rw [State.rdQ, State.loadDone_strm]
  rfl

/-- The load's request holds its bytes. -/
theorem State.mem_reqs_loadDone : { s.loadReq h q [part] [⟨part, hit⟩] with
    data := Memory.writeBytes part.off (s.farBytes (s.farCtx s.sid).core hit part.n) [] } ∈ (s.loadDone h q part hit mask).sys.reqs := by
  rw [State.loadDone, (State.keepsIssue_readAt ..).reqs, State.modReq, State.loadBegun_reqs]
  exact List.mem_map.2 ⟨_, List.mem_append_right _ (List.mem_singleton_self _), if_pos rfl⟩

variable {s hit}

theorem State.loadDone_hbm (room : hit.cached = false ∨ (s.linesOf (s.farCtx s.sid).core).length < l1Lines) :
    (s.loadDone h q part hit mask).sys.hbm = s.sys.hbm := by
  have view := s.sameView_loadBegun h q [part] [⟨part, hit⟩] mask
  refine (State.hbm_readAt ?_).trans view.hbm
  rw [← view.linesOf] at room
  exact room

end

/-- A load of one part in HBM of the own package reads its bytes at its issue (log 34). -/
theorem queueLoad_near {s : State} {h : Hdr} {q : Nat} {base : Addr} {part : FarPart} {hit : FarHit} {mask : Option Word} {after : State → State}
    (room : (Claims.ordinary s q).length < 8) (ready : Claims.FarReady s base [part] false [⟨part, hit⟩])
    (misses : s.missRoom s.ck (s.l1Misses (s.farCtx s.sid) [⟨part, hit⟩]) = true)
    (near : FarPiece.remote (s.farCtx s.sid) ⟨part, hit⟩ = false) (memory : isDieReg hit.addr = false)
    (clean : s.farPoisoned (s.farCtx s.sid).core hit part.n = false) :
    queueLoad s h q base [part] 0 false mask after = .ok (after (s.loadDone h q part hit mask)) := by
  have view := s.sameView_loadBegun h q [part] [⟨part, hit⟩] mask
  rw [queueLoad_ready room ready misses, List.foldl_cons, List.foldl_nil,
    State.loadPart_near near memory ((view.farPoisoned hit part.n).trans clean), view.farBytes]
  rfl

theorem queueLoadData : Claims.QueueLoadData := by
  intro h o s ⟨part, hit⟩ c plain fixed wide n x room ready misses near memory clean _
  obtain rfl : part = ⟨0, Claims.ea s o.a o.m o.off, n⟩ := List.mem_singleton.1 (part_mem_of_farPieces ready.1 (List.mem_singleton_self _))
  let part : FarPart := ⟨0, Claims.ea s o.a o.m o.off, n⟩
  let mask := if o.sz = 3 then some (BitVec.allOnes 32) else none
  have runs : exec (.ldq h o) s = .next ((s.loadDone h o.q part hit mask).spends (addedCycles (o.sz = 3) h.prot)) := by
    have unextended : (if o.sz < 2 && !o.z then 1 else 0) = 0 := if_neg (by simp; omega)
    have based (t : State) : t.postInc h false o.a o.m o.off = t := if_neg (by simp [fixed])
    refine (execLdq_eq c (by simp [plain])).trans ?_
    rw [unextended, plain, queueLoad_near room ready misses near memory clean, based]
    rfl
  have strm := s.loadDone_strm h o.q part hit mask
  have queue := s.loadDone_rdQ h o.q part hit mask
  have keeps {α : Type} (f : Stream → α) (unnamed : f (Claims.withEntry s o.q ⟨s.sys.reqId, none, 0, .none, false, false, h.prot, s.strm.pos,
      mask⟩).strm = f s.strm) : f (s.loadDone h o.q part hit mask).strm = f s.strm := (congrArg f strm).trans unnamed
  refine ⟨_, runs, ⟨_, (queue o.q).trans (rdQ_withEntry ..), rfl, rfl, rfl⟩,
    ⟨_, s.mem_reqs_loadDone h o.q part hit mask, rfl, rfl, fun j lt => ?_⟩, fun k ne => (queue k).trans (rdQ_withEntry_ne s ne _),
    keeps (·.g) rfl, keeps (·.v) rfl, keeps (·.a) rfl, keeps (·.p) rfl, keeps (·.m) rfl, keeps (·.flight) rfl,
    s.loadDone_loc h o.q part hit mask, fun room => State.loadDone_hbm h o.q part mask room⟩
  refine (Memory.read_writeBytes ..).trans (if_pos ⟨Nat.zero_le j, ?_⟩)
  rw [State.length_farBytes, Nat.zero_add]
  exact lt

/-- Settles O45: a queue load that nothing holds back begins its request, which every part joins (`queueLoad_ready`); one of the own package reads its
bytes at its issue (`queueLoad_near`), and leaves what it does not name (`State.KeepsIssue`, `State.loadDone_hbm`). -/
theorem farLoads : Obligations.FarLoads := ⟨queueLoads, queueLoadData⟩

end Sys2Proof.Machine
end

section
/-! SUPPORT. Far stores (11 R294, 09 R236, R255, 16 R383), and O46. -/

namespace Sys2Proof.Machine

/-! ### STF, STFS and STFX -/

section
variable {s : State} {h : Hdr} {base : Addr} {parts : List FarPart} {bytes : List Byte} {after : State → State}

theorem farStore_faults {cause val : Nat} (opened : s.farBlocked (s.farCtx s.sid) parts = false)
    (faults : s.farPieces (s.farCtx s.sid) base parts true = .error (cause, val)) :
    farStore s h base parts bytes after = .trapIn (s.multiRecord (s.farCtx s.sid) cause val) cause val := by
  unfold farStore
  dsimp only
  rw [if_neg (ne_true_of_eq_false opened), faults]

/-- A store that nothing holds back takes its saggar pages, and then each part performs or is sent. -/
theorem farStore_ready {ps qs : List FarPiece} {s1 : State} (ready : Claims.FarReady s base parts true ps)
    (taken : s.takePages (s.farCtx s.sid) parts = .ok s1) (pieces : s1.farPieces (s.farCtx s.sid) base parts true = .ok qs) :
    farStore s h base parts bytes after =
      .ok (after (qs.foldl (State.storePart h (s.farCtx s.sid) bytes) (s1.pagesFilled (s.farCtx s.sid) qs))) := by
  obtain ⟨pieces0, kept, goes, opened, owners⟩ := ready
  have quiet : (ps.any fun p => isDieReg p.hit.addr && !(p.remote (s.farCtx s.sid)) &&
      !(s.regReady (physRank p.hit.addr) (physOff p.hit.addr) p.part.n)) = false := List.any_eq_false.2 fun p mem => by
    have owned := owners rfl p mem
    simpa using owned
  unfold farStore
  dsimp only
  rw [if_neg (ne_true_of_eq_false opened), pieces0]
  simp only [State.farLost_none kept, goes, quiet, taken, pieces, Bool.or_self, Bool.false_eq_true, if_false]
  rfl

end

theorem farStores : Claims.FarStores := by
  unfold Claims.FarStores
  intro stores
  have performs {i : Instr} {s : State} {h : Hdr} {base : Addr} {wide : Bool} {parts : List FarPart} {bytes : List Byte} {bump : State → State}
      (runs : exec i s = (farStore s h base parts bytes bump).close h (addedCycles wide h.prot) s) : stores i s h base wide parts bytes bump := by
    refine ⟨fun cause val opened faults => ?faults, fun ps s1 qs ready taken pieces => ?ready⟩
    case faults =>
      rw [runs, farStore_faults opened faults]
      rfl
    case ready =>
      rw [runs, farStore_ready ready taken pieces]
      rfl
  refine ⟨fun h o s c => performs (i := .stf h o) (runF_clear c ..), fun h o s c => ?_, fun h o s c => ?_⟩
  · rw [← State.strideParts_eq]
    exact performs (i := .stfs h o) (runF_clear c ..)
  · rw [← State.indexParts_eq]
    exact performs (i := .stfx h o) (runF_clear c ..)

/-! ### The bytes that a far store changes (R236, R255) -/

/-- Entries written for bytes at consecutive addresses. -/
def storedCells (a : Nat) (bs : List Byte) (cell : Byte → Nat → CByte) : List (Nat × Option CByte) :=
  bs.zipIdx.map fun (b, i) => (a + i, some (cell b (a + i)))

section
variable (a : Nat) (bs : List Byte) (cell : Byte → Nat → CByte)

theorem keys_storedCells : (storedCells a bs cell).map Prod.fst = List.range' a bs.length := by
  have keys : (storedCells a bs cell).map Prod.fst = (bs.zipIdx.map Prod.snd).map (a + ·) := by rw [storedCells, List.map_map, List.map_map]; rfl
  rw [keys, List.zipIdx_map_snd, List.map_add_range', Nat.add_zero]

/-- What a map reads as once the bytes have been written to it. -/
theorem get_storedCells (m : SMap (Option CByte)) (x : Nat) :
    SMap.get none x ((storedCells a bs cell).foldl (fun m e => SMap.set none e.1 e.2 m) m) =
      if a ≤ x ∧ x < a + bs.length then some (cell (bs.getD (x - a) 0) x) else SMap.get none x m := by
  have keys := keys_storedCells a bs cell
  split
  · next inside =>
    have lt : x - a < bs.length := by omega
    refine SMap.get_foldl_set_of_mem (keys ▸ List.nodup_range') (List.mem_map.2 ⟨(bs.getD (x - a) 0, x - a), ?_, ?_⟩) m
    · rw [List.mk_mem_zipIdx_iff_getElem?, List.getD_eq_getElem _ _ lt, List.getElem?_eq_getElem lt]
    · simp only [show a + (x - a) = x by omega]
  · next outside => exact SMap.get_foldl_set_of_notMem (by rw [keys, List.mem_range'_1]; exact outside) m

end

/-- L1 once bytes have been written into it from `a` on; those that `bad` names stay poisoned. -/
def State.l1Stored (s : State) (k a : Nat) (bs : List Byte) (bad : Nat → Bool) : State := s.modCore k fun c =>
  { c with l1 := bs.zipIdx.foldl (fun m (b, i) => SMap.set none (a + i) (some ⟨b, true, bad (a + i)⟩) m) c.l1 }

section
variable (s : State) (k a : Nat) (bs : List Byte) (bad : Nat → Bool)

theorem State.l1_l1Stored : ((s.l1Stored k a bs bad).coreOf k).l1 =
    (storedCells a bs fun b x => ⟨b, true, bad x⟩).foldl (fun m e => SMap.set none e.1 e.2 m) (s.coreOf k).l1 := by
  rw [State.l1Stored, State.coreOf_modCore_self, storedCells, List.foldl_map]

/-- The core reads the stored bytes at their addresses, and elsewhere what it read before. -/
theorem State.cachedByte_l1Stored (x : Nat) : (s.l1Stored k a bs bad).cachedByte k x =
    if a ≤ x ∧ x < a + bs.length then bs.getD (x - a) 0 else s.cachedByte k x := by
  have near : optGet x ((s.l1Stored k a bs bad).coreOf k).l1 =
      if a ≤ x ∧ x < a + bs.length then some ⟨bs.getD (x - a) 0, true, bad x⟩ else optGet x (s.coreOf k).l1 := by
    rw [optGet, State.l1_l1Stored, get_storedCells]
    rfl
  have sys : (s.l1Stored k a bs bad).sys = s.sys := State.modCore_sys ..
  rw [State.cachedByte, State.cachedCell, near]
  by_cases inside : a ≤ x ∧ x < a + bs.length
  · rw [if_pos inside, if_pos inside]
  · rw [if_neg inside, if_neg inside, State.cachedByte, State.cachedCell, State.dieOf, sys]
    rfl

theorem State.keepsIssue_l1Stored : s.KeepsIssue (s.l1Stored k a bs bad) := by
  unfold State.l1Stored
  exact s.keepsIssue_modCore k rfl

theorem State.nearLines_l1Stored_subset : (s.l1Stored k a bs bad).nearLines k ⊆
    s.nearLines k ++ (List.range ((a + bs.length - 1) / 128 + 1 - a / 128)).map (a / 128 + ·) := by
  intro line mem
  rw [State.nearLines, State.l1_l1Stored] at mem
  obtain ⟨p, listed, rfl⟩ := List.mem_map.1 mem
  rcases SMap.mem_of_mem_foldl (key := Prod.fst) (fun m e => SMap.mem_of_mem_set) listed with ⟨e, meme, eq⟩ | listed
  · have key := List.mem_map_of_mem (f := Prod.fst) meme
    rw [keys_storedCells, List.mem_range'_1] at key
    refine List.mem_append_right _ (List.mem_map.2 ⟨p.1 / 128 - a / 128, List.mem_range.2 ?_, ?_⟩)
    · omega
    · omega
  · exact List.mem_append_left _ (List.mem_map_of_mem listed)

variable {s k bs}

/-- A store for whose lines L1 has room gives no line up. -/
theorem State.l1Write_room (room : (s.linesOf k).length + bs.length / 128 + 2 ≤ l1Lines) : ∃ bad, s.l1Write k a bs = s.l1Stored k a bs bad := by
  have few (bad : Nat → Bool) : ((s.l1Stored k a bs bad).nearLines k).eraseDups.length ≤ l1Lines := by
    have stored := length_eraseDups_le (s.nearLines_l1Stored_subset k a bs bad)
    have held := State.length_nearLines_le (s := s) (k := k)
    rw [List.length_map, List.length_range] at stored
    omega
  let bad := fun x => !(a ≤ x / 4 * 4 && x / 4 * 4 + 4 ≤ a + bs.length) && (s.cachedCell k x).poison
  refine ⟨bad, ?_⟩
  unfold State.l1Write
  exact List.foldl_fixed' (a := s.l1Stored k a bs bad) (fun line => State.l1Evict_stays (few bad) line) _

end

/-- A store marks the page that it writes. -/
def State.pageMarked (s : State) (x : FarCtx) (va : Nat) : State :=
  if x.phys then s else (s.markDirty x.launch va).markDevDirty x.pkg x.vdev va

section
variable (s : State) (x : FarCtx) (va : Nat)

theorem State.keepsIssue_pageMarked : s.KeepsIssue (s.pageMarked x va) := by
  unfold State.pageMarked
  split
  · exact .refl s
  · exact (s.keepsIssue_markDirty ..).trans (State.keepsIssue_markDevDirty ..)

theorem State.sameView_pageMarked (k : Nat) : SameView k s (s.pageMarked x va) := by
  unfold State.pageMarked
  split
  · exact .refl ..
  · exact (s.sameView_markDirty ..).trans (State.sameView_markDevDirty ..)

end

section
variable {s : State} (x : FarCtx) (va : Nat) {p : FarHit} {bs : List Byte}

theorem State.farWrite_cached (cached : p.cached = true) : s.farWrite x va p bs = (s.l1Write x.core p.addr bs).pageMarked x va := by
  unfold State.farWrite State.farPut
  simp only [cached, if_true]
  rfl

theorem State.farWrite_uncached (uncached : p.cached = false) :
    s.farWrite x va p bs = ((s.hbmWrite p.addr bs).pageMarked x va).granuleCount (rankOfCore x.core) p.addr := by
  unfold State.farWrite State.farPut
  simp only [uncached, Bool.false_eq_true, if_false]
  rfl

end

theorem farStoreBytes : Claims.FarStoreBytes := by
  intro s x va p bs _ room t
  cases cached : p.cached with
  | true =>
    obtain ⟨bad, stored⟩ := State.l1Write_room p.addr (room cached)
    have eq : t = (s.l1Stored x.core p.addr bs bad).pageMarked x va := by rw [← stored]; exact State.farWrite_cached x va cached
    have view := (s.l1Stored x.core p.addr bs bad).sameView_pageMarked x va x.core
    have kept := (s.keepsIssue_l1Stored x.core p.addr bs bad).trans (State.keepsIssue_pageMarked _ x va)
    rw [eq]
    refine ⟨fun a => ?_, fun _ a => ?_, kept.strm, kept.loc⟩
    · rw [if_neg (by simp), view.hbm, State.l1Stored, State.modCore_sys]
    · rw [State.cachedByte, view.cachedCell]
      exact State.cachedByte_l1Stored ..
  | false =>
    have eq : t = ((s.hbmWrite p.addr bs).pageMarked x va).granuleCount (rankOfCore x.core) p.addr := State.farWrite_uncached x va cached
    have kept := ((s.keepsIssue_hbmWrite p.addr bs).trans (State.keepsIssue_pageMarked _ x va)).trans
      (State.keepsIssue_granuleCount _ p.addr (rankOfCore x.core))
    rw [eq]
    refine ⟨fun a => ?_, fun no => (Bool.false_ne_true no).elim, kept.strm, kept.loc⟩
    rw [State.granuleCount_hbm, (State.sameView_pageMarked _ x va x.core).hbm, State.read_hbmWrite]
    simp only [true_and]

/-- Settles O46: a far store that nothing holds back performs or is sent part by part (`farStore_ready`); in the own package it changes L1, which
gives nothing up where it has room (`State.l1Write_room`, `State.cachedByte_l1Stored`), or HBM (`State.read_hbmWrite`), and nothing of the
stream. -/
theorem farStoresAndBytes : Obligations.FarStoresAndBytes := ⟨farStores, farStoreBytes⟩

end Sys2Proof.Machine
end

section
/-! SUPPORT. Cache operations, fences and the ownership events (11 R295, R301 to R303, 09 R237, R247), and O47. -/

namespace Sys2Proof.Machine

/-! ### PREF, CWB and CINV (R295) -/

theorem cacheAndFence : Claims.CacheAndFence := by
  refine ⟨fun h o s c => ?pref, fun h o s c => ?range, fun h o s c => ⟨fun part => ?part, fun outer kept => ?fence⟩⟩
  case pref =>
    intro x va opened
    have addr : (addrAdd (s.rdA o.a) (offVal (.field16 o.off))).toNat = va := rfl
    have opens : ¬ s.farBlocked x [⟨0, va, 1⟩] = true := ne_true_of_eq_false opened
    refine ⟨fun p pieces cached room => runI_ok c ((if_neg opens).trans ?_), fun p pieces uncached => runI_ok c ((if_neg opens).trans ?_),
      fun e faults => runI_ok c ((if_neg opens).trans ?_)⟩
    · have found : ¬ (!o.l2 && !(s.missRoom s.ck (s.l1Misses x [p]))) = true := by simpa [or_iff_not_imp_left] using room
      dsimp only [x] at pieces ⊢
      rw [addr, pieces]
      exact (if_neg (by simp [cached])).trans (if_neg found)
    · dsimp only [x] at pieces ⊢
      rw [addr, pieces]
      exact if_pos (by simp [uncached])
    · dsimp only [x] at faults ⊢
      rw [addr, faults]
  case range =>
    intro x va
    refine ⟨fun low base opened => ?_, fun high => ?_⟩
    · have inside : ¬ (decide (0x100000000000000 ≤ va) || decide (0x100000000000000 ≤ (s.rdA o.a).toNat)) = true := by simp; omega
      have goes (drop : Bool) : (if decide (0x100000000000000 ≤ va) || decide (0x100000000000000 ≤ (s.rdA o.a).toNat) then Eff.trap 18 va
        else if s.farBlocked x ((pagesOf x.vdev va (s.rdG o.g).toNat).map fun p => ⟨0, p.2, 1⟩) then .wait s
        else .ok (s.flushVirtual [x.core] x va (s.rdG o.g).toNat drop)) = .ok (s.flushVirtual [x.core] x va (s.rdG o.g).toNat drop) :=
        (if_neg inside).trans (if_neg (ne_true_of_eq_false opened))
      exact ⟨runI_ok c (goes false), runI_ok c (goes true)⟩
    · have outside : (decide (0x100000000000000 ≤ va) || decide (0x100000000000000 ≤ (s.rdA o.a).toNat)) = true := by simpa using high
      exact ⟨runI_trap c (if_pos outside), runI_trap c (if_pos outside)⟩
  case part => exact runI_ok c (if_pos part)
  case fence =>
    intro busy
    have nothingLost : (if o.scope = .dom then s.lostFor none else none) = none := by simp [State.lostFor, kept]
    cases held : busy with
    | true =>
      refine runI_wait c ((if_neg outer).trans ?_)
      dsimp only
      rw [nothingLost]
      exact if_pos held
    | false =>
      refine runI_ok c ((if_neg outer).trans ?_)
      dsimp only
      rw [nothingLost]
      exact if_neg (ne_true_of_eq_false held)

/-! ### XFER, RSHARE and RCLAIM (R302, R303) -/

theorem ownershipEvents : Claims.OwnershipEvents := by
  refine ⟨fun h o s c => ?xfer, fun h o s c => ?rshare, fun h o s c free => ?rclaim⟩
  case xfer =>
    intro x va lc
    refine ⟨fun foreign => runI_trapIn c ?_, fun i r owned reached apart free quiet => runI_ok c ?_⟩
    · dsimp only
      rw [foreign]
    · dsimp only
      rw [owned]
      have leaves : ¬ s.core.frameMeets r = true := ne_true_of_eq_false apart
      have performed : ¬ (s.acquiring || !s.regionQuiet s.ck x.vdev r) = true := by simp [free, quiet]
      cases place : s.lcoreAt lc with
      | nowhere => exact absurd place reached
      | here => exact (if_neg leaves).trans ((if_neg performed).trans (apply_ite Eff.ok _ _ _).symm)
      | rank k => exact (if_neg leaves).trans ((if_neg performed).trans (apply_ite Eff.ok _ _ _).symm)
  case rshare =>
    intro x va
    refine ⟨fun foreign => runI_trapIn c ?_, fun i r owned apart free quiet => runI_ok c ?_⟩
    · dsimp only
      rw [foreign]
    · dsimp only
      rw [owned]
      simp [apart, free, quiet, x]
  case rclaim =>
    intro x va ms
    refine ⟨fun unmatched => runI_resP c ?_, fun i r one taken => runI_resP c ?_, fun i r one claimable => runI_ok c ?_,
      fun many => runI_trapIn c ?_⟩
    · dsimp only [ms, x, va] at unmatched ⊢
      rw [unmatched]
    · dsimp only [ms, x, va] at one ⊢
      rw [one]
      simp [free, taken]
    · dsimp only [ms, x, va] at one ⊢
      rw [one]
      simp [free, claimable]
    · obtain ⟨m, n, rest, several⟩ : ∃ m n rest, ms = m :: n :: rest := by
        match ms, many with
        | m :: n :: rest, _ => exact ⟨m, n, rest, rfl⟩
      dsimp only [ms, x, va] at several ⊢
      rw [several]

/-- Settles O47: where no PTW blocks the translation and no access of the stream is lost, the effect of each instruction takes the one
branch that its operands and the regions name. -/
theorem cachesAndOwnership : Obligations.CachesAndOwnership := ⟨cacheAndFence, ownershipEvents⟩

end Sys2Proof.Machine
end

section
/-! SUPPORT. The tile instructions of the matrix engine and the pops of ring slots (13 R335 to R341, R322), and O55. -/

namespace Sys2Proof.Machine

/-! ### Instructions whose effect nothing stops, whatever their copies compare -/

theorem State.spends_zero (s : State) : s.spends 0 = s := by
  rw [State.spends, Nat.max_zero]

section
variable {s t : State} {h : Hdr} {us : List RegUse} {m : Meet} {eff : State → Eff}

theorem run_ok (c : s.Clear h us) (ok : eff s = .ok t) : run h (markReads us) m s eff = .next (t.spends m.extra) := by
  rw [run_clear c, ok]; rfl

theorem run_trap {cause val : Nat} (c : s.Clear h us) (trap : eff s = .trap cause val) :
    run h (markReads us) m s eff = .next (s.takeTrap cause val false h.slot h.prot false) := by
  rw [run_clear c, trap]; rfl

theorem run_wait (c : s.Clear h us) (wait : eff s = .wait s) :
    run h (markReads us) m s eff = .next (s.setLatch fun l => { l with wait := true }) := by
  rw [run_clear c, wait]; rfl

/-- An instruction of the engines that takes no further issue cycles. -/
theorem run_ok_alone (c : s.Clear h us) (alone : m.extra = 0) (ok : eff s = .ok t) : run h (markReads us) m s eff = .next t := by
  rw [run_ok c ok, alone, State.spends_zero]

end

/-- The modulus of slot numbers as the statements and as the model write it. -/
theorem two_pow_32 : (2 : Nat) ^ 32 = 0x100000000 := by norm_num

/-! ### SCACC, AZERO and ACOPY (R335 to R338) -/

/-- The scaled partials of one block, as SCACC forms them from a tile and two rows of scale bytes (R335). -/
def State.scaledBlock (s : State) (int : Bool) (tile sa sb : Nat) : List Word × Nat :=
  cellsOf fun i j => scalePartial int ((s.core.tileCells tile).getD (128 * i + j) 0) (s.localByte (sa + i)).toNat (s.localByte (sb + j)).toNat

theorem tileInstructions : Claims.TileInstructions := by
  intro h s writes
  have scheduled {out : Host.Outcome State Fault Refusal} {tile off tie : Nat} {mode : TileMode} {blocks : List (List Word)}
      (flags : Nat) (clean : s.strm.upsets = []) (runs : out = .next (s.schedule h off tie mode [(tile, blocks)] flags none none)) :
      writes out tile off tie mode blocks := ⟨BitVec.ofNat 32 flags, by rw [runs, State.schedule_clean clean]; rfl⟩
  refine ⟨fun o c => ?scacc, fun o c => ?azero, fun o c idle buffer sound => ?acopy⟩
  case scacc =>
    intro nb sa sb allowed insideA insideB
    have reached : (s.localFault sa (128 * nb) false).or (s.localFault sb (128 * nb) false) = none := by
      rw [State.localFault_window insideA, State.localFault_window insideB]; rfl
    refine ⟨fun t busy => run_trap c ?_, fun idle buffer soundA soundB soundTiles => ?_⟩
    · dsimp only
      rw [allowed, reached, busy]
      rfl
    · let blocks := (List.range nb).map fun b => s.scaledBlock (o.fmt = .i8) (o.ts + b) (sa + 128 * b) (sb + 128 * b)
      refine ⟨blocks.map Prod.fst, scheduled (orFlags (blocks.map Prod.snd)) c.upsets (runM_ok c ?_), by simp [blocks], fun b i j lb li lj => ?_⟩
      · have soundAll : ((List.range nb).map (o.ts + ·)).any (fun t => s.core.poisoned (tileAddr t) 0x10000) = false := by
          refine List.any_eq_false.2 fun t mem => ?_
          obtain ⟨b, lt, rfl⟩ := List.mem_map.1 mem
          exact ne_true_of_eq_false (soundTiles b (List.mem_range.1 lt))
        dsimp only [sa, sb, nb, blocks, State.scaledBlock] at reached idle soundA soundB soundAll ⊢
        simp only [allowed, reached, idle, buffer, soundA, soundB, soundAll, Bool.not_true, Bool.or_false, Bool.false_eq_true, if_false]
      · rw [List.map_map, getD_map_range _ _ lb]
        exact getD_cellsOf _ li lj
  case azero =>
    refine ⟨fun t busy => run_trap c ?_, fun idle buffer => scheduled 0 c.upsets (runM_ok c ?_)⟩
    · rw [busy]; rfl
    · rw [idle, buffer]; rfl
  case acopy =>
    refine scheduled 0 c.upsets (runM_ok c ?_)
    rw [idle, buffer, sound]
    rfl

/-! ### ALOAD and ASTORE (R338 to R340) -/

theorem State.rowFault_none {s : State} {a : Addr} {stride n : Nat} (inside : ∀ i, i < 128 → rowAddr a stride i + n ≤ winSize s.core.pool) :
    s.rowFault a stride n = none :=
  List.findSome?_eq_none_iff.2 fun i mem => State.localFault_window (inside i (List.mem_range.1 mem)) false

/-- The statements and the instructions each write out the stride of their operands: the check of one is that of the other. -/
theorem alignRow_eq {a : Addr} {stride n size : Nat} {fault : Option Nat} (at_ : alignRow a stride size = fault) (is : n = stride) :
    alignRow a n size = fault := is ▸ at_

/-- The rows that ASTORE writes, as it forms them from the tile (R339). -/
def State.storedRows (s : State) (o : AstoreArgs) : List (List Byte × List Nat × Nat) :=
  (List.range 128).map fun i => storeRow o.fmt o.i o.sat (s.strm.fcsr.toNat % 8) (((s.core.tileCells o.t).drop (128 * i)).take 128)

/-- The flags of forming those rows. -/
def State.storeFlags (s : State) (o : AstoreArgs) : Word := BitVec.ofNat 32 (orFlags ((s.storedRows o).map fun r => r.2.2))

theorem length_scaleVector (rows : List (List Byte × List Nat × Nat)) : (scaleVector rows).length = 512 := by
  rw [scaleVector, List.length_map, List.length_range]

/-- The scale vector holds the scales of one block of every row after another (R340). -/
theorem getD_scaleVector (f : Nat → List Byte × List Nat × Nat) {i k : Nat} (li : i < 128) (lk : k < 4) :
    (scaleVector ((List.range 128).map f)).getD (128 * k + i) 0 = BitVec.ofNat 8 ((f i).2.1.getD k 0) := by
  have row : (128 * k + i) % 128 = i := by omega
  have block : (128 * k + i) / 128 = k := by omega
  rw [scaleVector, getD_map_range _ _ (by omega), row, block, getD_map_range _ _ li]

theorem struckCells_nil : struckCells [] = [] := rfl

/-- The engine once ASTORE has issued: its flags, its rows and the scale bytes are to be performed (R339, R340). -/
def State.storing (s : State) (h : Hdr) (o : AstoreArgs) (a : Addr) (stride : Nat) : Engine :=
  let t0 := s.strm.cyc + h.prot
  let own := s.taskSeq s.sid
  { s.strm.eng with
    portFree := t0 + 129
    rows := s.strm.eng.rows ++ RowTask.flags (t0 + 1) (s.storeFlags o) own ::
        ((s.storedRows o).zipIdx.map fun (r, i) => RowTask.store (t0 + 1 + i) (rowAddr a stride i) r.1 own) ++
      if scaledFmt o.fmt then [RowTask.store (t0 + 128) (rowAddr a stride 128) (scaleVector (s.storedRows o)) own] else [] }

/-! ### RPOP (R322, R341) -/

theorem SMap.insert_insert {α : Type} (k : Nat) (v w : α) (m : SMap α) : SMap.insert k v (SMap.insert k w m) = SMap.insert k v m := by
  induction m with
  | nil => simp [SMap.insert]
  | cons e m ih =>
    obtain ⟨j, x⟩ := e
    by_cases lt : j < k
    · simp [SMap.insert, lt, ih]
    · by_cases eq : j = k <;> simp [SMap.insert, lt, eq]

theorem SMap.set_set {α : Type} [DecidableEq α] {d v w : α} (listedV : v ≠ d) (listedW : w ≠ d) (k : Nat) (m : SMap α) :
    SMap.set d k v (SMap.set d k w m) = SMap.set d k v m := by
  simp only [SMap.set, if_neg listedV, if_neg listedW, SMap.insert_insert]

theorem Ring.ne_zero {r : Ring} (init : r.init = true) : r ≠ Ring.zero := fun zero => by rw [zero] at init; cases init

theorem Core.setRing_setRing {r q : Ring} (initR : r.init = true) (initQ : q.init = true) (c : Core) (k : Nat) :
    (c.setRing k q).setRing k r = c.setRing k r :=
  congrArg (fun rings => ({ c with rings := rings } : Core)) (SMap.set_set (Ring.ne_zero initR) (Ring.ne_zero initQ) ..)

theorem Core.ring_setRing (c : Core) (k : Nat) (r : Ring) : (c.setRing k r).ring k = r := SMap.get_set_self ..
theorem Core.ring_setRing_ne {j k : Nat} (ne : j ≠ k) (c : Core) (r : Ring) : (c.setRing k r).ring j = c.ring j := SMap.get_set_ne _ _ _ ne

/-- Pops change no ring that they do not name. -/
theorem ring_duePops (now : Nat) {ps : List (Nat × Nat × Nat)} {j : Nat} (unnamed : ∀ p ∈ ps, p.2.1 ≠ j) (blocked : List Nat) (c : Core) :
    (duePops now ps blocked c).2.ring j = c.ring j := by
  induction ps generalizing blocked c with
  | nil => rfl
  | cons p ps ih =>
    obtain ⟨ne, rest⟩ := List.forall_mem_cons.1 unnamed
    rw [duePops]
    split
    · rw [ih rest, Core.ring_setRing_ne ne.symm]
    · exact ih rest ..

theorem loc_duePops (now : Nat) (ps : List (Nat × Nat × Nat)) (blocked : List Nat) (c : Core) : (duePops now ps blocked c).2.loc = c.loc := by
  induction ps generalizing blocked c with
  | nil => rfl
  | cons p ps ih =>
    rw [duePops]
    split
    · exact ih ..
    · exact ih ..

/-- A ring whose next `n` slots are claimed. -/
def Ring.claims (r : Ring) (n : Nat) : Ring := { r with claimed := r.claimed + n }

/-- Claimed slots that leave the ring are claimed no more. -/
theorem Ring.pop_claims (r : Ring) (n : Nat) : (r.claims n).pop n = { r with
    ccnt := (r.ccnt + n) % 2 ^ 32, freed := r.freed + n
    poison := r.poison.filter fun k => !((List.range n).any fun i => (r.ccnt + i) % 2 ^ 32 = k) } := by
  rw [Ring.pop, Ring.claims, Nat.add_sub_cancel]
  rfl

theorem Engine.pops_nil {e : Engine} (none : e.pops = []) : { e with pops := [] } = e := by
  rw [← none]

/-- The state in which RPOP of `n` slots of ring `k` has claimed them and added their pop to those in flight. -/
def State.popClaimed (s : State) (k n : Nat) : State :=
  (s.setCore fun c => c.setRing k ((c.ring k).claims n)).setEng fun e =>
    { e with pops := e.pops ++ [(s.strm.cyc, k, n)] }

/-- Where no pop is in flight the slots leave the ring at once. -/
theorem State.popClaimed_popSlots {s : State} {k n : Nat} (none : s.strm.eng.pops = []) (init : (s.core.ring k).init = true) :
    (s.popClaimed k n).popSlots = s.setCore fun c => c.setRing k { s.core.ring k with
      ccnt := ((s.core.ring k).ccnt + n) % 2 ^ 32, freed := (s.core.ring k).freed + n
      poison := (s.core.ring k).poison.filter fun p => !((List.range n).any fun i => ((s.core.ring k).ccnt + i) % 2 ^ 32 = p) } := by
  have pops : (s.popClaimed k n).strm.eng.pops = [(s.strm.cyc, k, n)] := congrArg (· ++ [(s.strm.cyc, k, n)]) none
  have now : (s.popClaimed k n).strm.cyc = s.strm.cyc := rfl
  have claimed : (s.popClaimed k n).core = s.core.setRing k ((s.core.ring k).claims n) := rfl
  have due : duePops (s.popClaimed k n).strm.cyc [(s.strm.cyc, k, n)] [] (s.popClaimed k n).core =
      ([], s.core.setRing k (((s.core.ring k).claims n).pop n)) := by
    rw [claimed, now, duePops, if_pos (by simp), duePops, Core.ring_setRing,
      Core.setRing_setRing (q := (s.core.ring k).claims n) (r := ((s.core.ring k).claims n).pop n) init init]
  rw [State.popSlots, pops, due, Ring.pop_claims]
  exact congrArg (fun e => ({ s with core := s.core.setRing k _, strm := { s.strm with eng := e } } : State)) (Engine.pops_nil none)

theorem tileTransfers : Claims.TileTransfers := by
  refine ⟨fun h o s c => ?aload, fun h o s c => ?astore, fun h o s c => ?rpop⟩
  case aload =>
    intro a stride off
    have rows (inside : ∀ i, i < 128 → rowAddr a stride i + 512 ≤ winSize s.core.pool) (n : Nat) (is : n = stride) :
        s.rowFault (s.rdA o.a) n 512 = none := is ▸ State.rowFault_none inside
    refine ⟨fun v misaligned => run_trap c ?_, fun aligned near => run_trap c ?_, fun aligned apart inside idle port buffer => runM_ok c ?_⟩
    · dsimp only [a] at misaligned ⊢
      rw [alignRow_eq misaligned ?_]
      rfl
    · dsimp only [a] at aligned ⊢
      rw [alignRow_eq aligned ?is]
      case is => rfl
      exact if_pos near
    · dsimp only [a] at aligned ⊢
      rw [alignRow_eq aligned ?is]
      case is => rfl
      rw [rows inside _ ?is, idle, State.schedule_clean c.upsets]
      case is => rfl
      refine (if_neg (Nat.not_lt.2 apart)).trans ((if_neg ?_).trans rfl)
      simp [port, buffer]
  case astore =>
    intro a b stride t0 scaled
    refine ⟨fun aligned near => run_trap c ?_, fun aligned apart inside insideScales idle port room sound => ?_⟩
    · dsimp only [a] at aligned ⊢
      rw [alignRow_eq aligned ?is]
      case is => rfl
      exact if_pos near
    · intro row
      have reached (n : Nat) (is : n = stride) : (s.rowFault (s.rdA o.a) n (stSize o.fmt).2).or
          (if scaledFmt o.fmt = true then s.localFault (rowAddr (s.rdA o.a) n 128) 512 false else none) = none := by
        subst is
        rw [State.rowFault_none inside]
        exact ite_eq_right_iff.2 fun scaled => State.localFault_window (insideScales scaled) false
      refine ⟨s.storing h o a stride, s.storeFlags o, scaleVector (s.storedRows o), runM_ok c ?_, rfl, ?_, length_scaleVector _,
        fun i k li lk => getD_scaleVector _ li lk⟩
      · dsimp only [a, b] at aligned room ⊢
        rw [alignRow_eq aligned ?is]
        case is => rfl
        refine (if_neg (Nat.not_lt.2 apart)).trans ?_
        rw [reached _ ?is, idle]
        case is => rfl
        simp only [Nat.not_lt.2 port, room, sound, c.upsets, if_false, Bool.not_true, Bool.false_eq_true, List.filter_nil, List.isEmpty_nil,
          Bool.or_true, if_true, Option.elim_none, struckCells_nil, List.foldl_nil, List.headD_cons, State.setStrm, Nat.add_zero]
        rfl
      · rw [State.storing, State.storedRows, zipIdx_map_range, List.map_map]
        rfl
  case rpop =>
    intro r n
    refine ⟨fun unset => run_trap c ?_, fun init few => run_wait c ?_, fun init enough => ⟨(s.popClaimed o.k n).popSlots, run_ok_alone c rfl ?_,
      fun none => State.popClaimed_popSlots none init, fun j ne unnamed => ?_, ?_, rfl⟩⟩
    · dsimp only [r, n] at unset ⊢
      rw [unset]; rfl
    · dsimp only [r, n] at init few ⊢
      rw [init]
      exact (if_neg Bool.false_ne_true).trans (if_pos few)
    · dsimp only [r, n] at init enough ⊢
      rw [init]
      exact (if_neg Bool.false_ne_true).trans (if_neg (Nat.not_lt.2 enough))
    · refine (ring_duePops _ (List.forall_mem_append.2 ⟨unnamed, by simpa using ne.symm⟩) ..).trans ?_
      exact Core.ring_setRing_ne ne ..
    · exact loc_duePops ..

/-- Settles O55: a tile instruction that finds its tiles and a buffer free schedules one tile write (`State.schedule_clean`), whose cells SCACC forms
block by block (`getD_cellsOf`); rows in the window do not fault (`State.rowFault_none`), ASTORE adds its rows and its scales (`State.storing`,
`getD_scaleVector`), and slots that RPOP claims leave their ring at once where no pop is in flight (`State.popClaimed_popSlots`). -/
theorem tiles : Obligations.Tiles := ⟨tileInstructions, tileTransfers⟩

end Sys2Proof.Machine
end

section
/-! SUPPORT. The transpose engine's instructions (14 R343 to R347), and O14. -/

namespace Sys2Proof.Machine

/-! ### What a transpose does once its checks pass (R343, R347) -/

theorem not_rangesMeet {a n b m : Nat} (apart : n = 0 ∨ m = 0 ∨ a + n ≤ b ∨ b + m ≤ a) :
    (n != 0 && m != 0 && rangesMeet (a, a + n) (b, b + m)) = false := by
  simp only [rangesMeet, Bool.and_eq_false_imp, bne_iff_ne, ne_eq, Bool.and_eq_true, decide_eq_true_eq, decide_eq_false_iff_not]
  omega

/-- A range without bytes, or one in the window, does not fault. -/
theorem State.localFault_range {s : State} {a n : Nat} (inside : n = 0 ∨ a + n ≤ winSize s.core.pool) :
    (if n = 0 then none else s.localFault a n false) = none := by
  split
  · rfl
  · next bytes => exact State.localFault_window (inside.resolve_left bytes) false

theorem State.xeOut_clean {s : State} (clean : s.strm.upsets = []) (a : Nat) (x : XForm) :
    s.xeOut a x = x.form (s.strm.fcsr.toNat % 8) (s.localBytes (s.rdA a).toNat x.inLen) := by
  rw [State.xeOut, clean]
  rfl

/-- The checks of R347 one after the other, each passed by a hypothesis, and then the write of the output to local memory or to a ring's slot. -/
theorem transposeOp_transposed {s : State} {h : Hdr} {us : List RegUse} {dst : XDst} {a : Nat} {xf : State → XForm} {out : List Byte}
    {fl : Nat} (c : s.Clear h us) (good : (xf s).bad = false)
    (forms : (xf s).form (s.strm.fcsr.toNat % 8) (s.localBytes (s.rdA a).toNat (xf s).inLen) = (out, fl)) :
    Claims.Transposed s h dst (s.rdA a).toNat (xf s).inLen (xf s).outLen out fl (xf s).c (transposeOp h us dst a xf s) := by
  have formed : s.xeOut a (xf s) = (out, fl) := (State.xeOut_clean c.upsets ..).trans forms
  intro inside sound
  have source := State.localFault_range inside
  cases dst with
  | addr n =>
    intro insideOut apart t written
    refine run_ok_alone c rfl ?_
    simp only [good, not_rangesMeet apart, source, State.localFault_range insideOut, formed, sound, written, Bool.or_false, Bool.false_or,
      Option.isSome_none, Option.or_none, Bool.false_eq_true, if_false, decide_eq_true_eq]
  | ring k =>
    intro init fits apart sure room
    have reserved : (s.core.ring k).reserve xposeOwner s.strm.tagr.toNat 1 = some { s.core.ring k with
        reserved := (s.core.ring k).reserved ++ [⟨xposeOwner, s.strm.tagr.toNat, false, false⟩] } := if_pos room
    refine run_ok_alone c rfl ?_
    rw [two_pow_32] at apart ⊢
    simp only [good, not_rangesMeet apart, source, formed, sound, init, Nat.not_lt.2 fits, reserved, sure, Bool.or_false, Bool.not_true,
      Option.isSome_none, Option.isSome_some, Bool.true_or, Option.or_none, Bool.false_eq_true, if_false, if_true, decide_false]

/-! ### Blocks of one length, laid one after the other -/

theorem length_sub {bs : List Byte} {i n : Nat} (inside : i + n ≤ bs.length) : (sub bs i n).length = n := by
  rw [sub, List.length_take, List.length_drop]
  omega

theorem getD_sub (bs : List Byte) (i : Nat) {n b : Nat} (lt : b < n) : (sub bs i n).getD b 0 = bs.getD (i + b) 0 := by
  simp [sub, List.getD_eq_getElem?_getD, lt]

theorem State.length_localBytes (s : State) (a n : Nat) : (s.localBytes a n).length = n := by simp [State.localBytes]

theorem length_flatMap_blocks {α β : Type} {f : α → List β} {n : Nat} {l : List α} (blocks : ∀ a ∈ l, (f a).length = n) :
    (l.flatMap f).length = l.length * n := by
  rw [List.length_flatMap, List.map_congr_left blocks, List.map_const', List.sum_replicate, smul_eq_mul]

theorem getD_flatMap_blocks {α β : Type} {f : α → List β} {n : Nat} {l : List α} (blocks : ∀ a ∈ l, (f a).length = n) (d : β) {k b : Nat}
    (lk : k < l.length) (lb : b < n) : (l.flatMap f).getD (k * n + b) d = (f l[k]).getD b d := by
  induction l generalizing k with
  | nil => cases lk
  | cons a l ih =>
    obtain ⟨first, rest⟩ := List.forall_mem_cons.1 blocks
    rw [List.flatMap_cons]
    cases k with
    | zero => rw [Nat.zero_mul, Nat.zero_add, List.getD_append _ _ _ _ (first.symm ▸ lb)]; rfl
    | succ k =>
      rw [List.getD_append_right _ _ _ _ (by rw [first, Nat.succ_mul]; omega), first,
        show (k + 1) * n + b - n = k * n + b by rw [Nat.succ_mul]; omega, ih rest (Nat.lt_of_succ_lt_succ lk)]
      rfl

/-- The elements of `n` bytes that a transpose takes from its source, one after the other: element `p` is the source's element `pick p`. -/
def pickElems (pick : Nat → Nat) (n total : Nat) (src : List Byte) : List Byte :=
  (List.range total).flatMap fun p => sub src (n * pick p) n

section
variable {pick : Nat → Nat} {n total : Nat} {src : List Byte} (len : src.length = total * n) (within : ∀ p, p < total → pick p < total)
include len within

theorem length_picked {p : Nat} (mem : p ∈ List.range total) : (sub src (n * pick p) n).length = n := by
  refine length_sub ?_
  calc n * pick p + n = (pick p + 1) * n := by rw [Nat.succ_mul, Nat.mul_comm]
    _ ≤ total * n := Nat.mul_le_mul_right n (within p (List.mem_range.1 mem))
    _ = src.length := len.symm

theorem length_pickElems : (pickElems pick n total src).length = total * n := by
  rw [pickElems, length_flatMap_blocks fun p => length_picked len within, List.length_range]

theorem getD_pickElems {p b : Nat} (lp : p < total) (lb : b < n) : (pickElems pick n total src).getD (p * n + b) 0 = src.getD (pick p * n + b) 0 := by
  rw [pickElems, getD_flatMap_blocks (fun p => length_picked len within) 0 (by rwa [List.length_range]) lb, getD_sub _ _ lb, List.getElem_range,
    Nat.mul_comm]

end

/-! ### Places in a matrix -/

theorem place_lt {r n i j : Nat} (li : i < r) (lj : j < n) : i * n + j < r * n :=
  calc i * n + j < (i + 1) * n := by rw [Nat.succ_mul]; omega
    _ ≤ r * n := Nat.mul_le_mul_right n li

theorem place_div {n i j : Nat} (lj : j < n) : (i * n + j) / n = i := by
  rw [Nat.mul_comm, Nat.mul_add_div (by omega), Nat.div_eq_of_lt lj, Nat.add_zero]

theorem place_mod {n i j : Nat} (lj : j < n) : (i * n + j) % n = j := by
  rw [Nat.mul_comm, Nat.mul_add_mod, Nat.mod_eq_of_lt lj]

/-! ### The orders of XLAY (R345) -/

/-- A unit's position lies among those of the matrix. -/
theorem layoutPos_lt {l : Layout} {r un i u : Nat} (whole : l = .blk → r % 32 = 0) (li : i < r) (lu : u < un) : layoutPos l un i u < r * un := by
  cases l with
  | lin => exact place_lt li lu
  | rot => exact place_lt li (Nat.mod_lt _ (by omega))
  | blk =>
    have rows : r / 32 * (32 * un) = r * un := by
      rw [← Nat.mul_assoc, Nat.div_mul_cancel (Nat.dvd_of_mod_eq_zero (whole rfl))]
    rw [← rows]
    calc i / 32 * (32 * un) + 32 * u + i % 32 = i / 32 * (32 * un) + (32 * u + i % 32) := Nat.add_assoc ..
      _ < r / 32 * (32 * un) := place_lt (by have := whole rfl; omega) (by omega)

/-- No two units have one position. -/
theorem layoutPos_inj {l : Layout} {un i j u v : Nat} (lu : u < un) (lv : v < un) (same : layoutPos l un i u = layoutPos l un j v) :
    i = j ∧ u = v := by
  have split {n a b x y : Nat} (lx : x < n) (ly : y < n) (eq : a * n + x = b * n + y) : a = b ∧ x = y :=
    ⟨by rw [← place_div (i := a) lx, eq, place_div ly], by rw [← place_mod (i := a) lx, eq, place_mod ly]⟩
  cases l with
  | lin => exact split lu lv same
  | rot =>
    obtain ⟨rfl, turned⟩ := split (Nat.mod_lt _ (by omega)) (Nat.mod_lt _ (by omega)) same
    refine ⟨rfl, ?_⟩
    have := Nat.ModEq.add_right_cancel' i turned
    rwa [Nat.ModEq, Nat.mod_eq_of_lt lu, Nat.mod_eq_of_lt lv] at this
  | blk =>
    rw [layoutPos, layoutPos, Nat.add_assoc, Nat.add_assoc] at same
    obtain ⟨block, inBlock⟩ := split (by omega) (by omega) same
    omega

/-- The unit of the source that XLAY puts at a position. -/
def layoutFrom (dto frm : Layout) (r un p : Nat) : Nat :=
  ((((List.range (r * un)).map fun i => (layoutPos dto un (i / un) (i % un), layoutPos frm un (i / un) (i % un))).find?
    fun m => m.1 = p).getD (p, p)).2

theorem layoutFrom_lt {dto frm : Layout} {r un p : Nat} (whole : frm = .blk → r % 32 = 0) (lt : p < r * un) :
    layoutFrom dto frm r un p < r * un := by
  unfold layoutFrom
  cases found : List.find? _ _ with
  | none => exact lt
  | some m =>
    obtain ⟨i, mem, rfl⟩ := List.mem_map.1 (List.mem_of_find?_eq_some found)
    have li : i < un * r := Nat.mul_comm r un ▸ List.mem_range.1 mem
    have units : 0 < un := Nat.pos_of_ne_zero fun zero => by simp [zero] at li
    exact layoutPos_lt whole (Nat.div_lt_of_lt_mul li) (Nat.mod_lt _ units)

theorem layoutFrom_layoutPos {dto frm : Layout} {r un i u : Nat} (li : i < r) (lu : u < un) :
    layoutFrom dto frm r un (layoutPos dto un i u) = layoutPos frm un i u := by
  unfold layoutFrom
  rw [List.find?_map]
  cases found : List.find? _ _ with
  | none =>
    refine absurd ?_ (List.find?_eq_none.1 found (i * un + u) (List.mem_range.2 (place_lt li lu)))
    simp [place_div lu, place_mod lu]
  | some j =>
    have same : layoutPos dto un (j / un) (j % un) = layoutPos dto un i u := by simpa using List.find?_some found
    obtain ⟨row, unit⟩ := layoutPos_inj (Nat.mod_lt _ (by omega)) lu same
    simp [row, unit]

/-! ### XPOSE, XLAY and XREQ -/

/-- The element that XPOSE takes to place `p` (R344). -/
def transposeFrom (r c p : Nat) : Nat := p % r * c + p / r

/-- What XPOSE does with its dimensions. -/
def xposeForm (o : XposeArgs) (s : State) : XForm :=
  let n := xwidth o.w
  let r := dimR (s.rdG o.g)
  let c := dimC (s.rdG o.g)
  ⟨r * c * n, r * c * n, (r * c * 8 * n + 1023) / 1024 + 16, false, fun _ bs => (pickElems (transposeFrom r c) n (r * c) bs, 0)⟩

/-- What XLAY does with its dimensions. -/
def xlayForm (o : XlayArgs) (s : State) : XForm :=
  let r := dimR (s.rdG o.g)
  let un := dimC (s.rdG o.g)
  ⟨r * un * 128, r * un * 128, r * un + 8, (o.frm = .blk || o.dto = .blk) && r % 32 != 0,
    fun _ bs => (pickElems (layoutFrom o.dto o.frm r un) 128 (r * un) bs, 0)⟩

/-- What XREQ does with its dimensions (R346). -/
def xreqForm (o : XreqArgs) (s : State) : XForm :=
  let r := dimR (s.rdG o.g)
  let c := dimC (s.rdG o.g)
  let data := scaledData o.fmt r c
  ⟨if o.fmt = .l4x then data else data + r * c / 32, data + r * c / 32, (data + 63) / 64 + 32,
    !(r % 32 = 0 && 32 ≤ r && r ≤ 512) || !(c % 32 = 0 && 32 ≤ c && c ≤ 512), fun rm bs =>
      let rows := decodeScaled o.fmt r c bs
      let out := encodeScaled o.fmt (requantRm rm) (transposeRows rows.1 c) r
      (out.1, rows.2 ||| out.2)⟩

section
variable (h : Hdr) (s : State)

theorem exec_xpose_eq (o : XposeArgs) : exec (.xpose h o) s = transposeOp h o.regs o.dst o.a (xposeForm o) s := rfl
theorem exec_xlay_eq (o : XlayArgs) : exec (.xlay h o) s = transposeOp h o.regs o.dst o.a (xlayForm o) s := rfl
theorem exec_xreq_eq (o : XreqArgs) : exec (.xreq h o) s = transposeOp h o.regs o.dst o.a (xreqForm o) s := rfl

end

/-- Settles O14: each instruction is `transposeOp` with what it does with its dimensions, and answers as that does (`transposeOp_transposed`); the
elements of its output are those of the source at the places it takes them from (`getD_pickElems`), which for XLAY are found by
`layoutFrom_layoutPos`. -/
theorem transposeInstructions : Obligations.TransposeInstructions := by
  refine ⟨fun h o s c => ?xpose, fun h o s c => ?xlay, fun h o s c => ?xreq⟩
  case xpose =>
    intro r cc n src
    have len : src.length = r * cc * n := s.length_localBytes ..
    have within : ∀ p, p < r * cc → transposeFrom r cc p < r * cc := fun p lt => place_lt
      (Nat.mod_lt _ (Nat.pos_of_ne_zero fun zero => by simp [zero] at lt)) (Nat.div_lt_of_lt_mul lt)
    refine ⟨pickElems (transposeFrom r cc) n (r * cc) src, length_pickElems len within, fun i j b li lj lb => ?_, ?_⟩
    · rw [getD_pickElems len within (by rw [Nat.mul_comm r]; exact place_lt lj li) lb, transposeFrom, place_mod li, place_div li]
    · rw [exec_xpose_eq]
      exact transposeOp_transposed (xf := xposeForm o) c rfl rfl
  case xlay =>
    intro r un src whole
    have len : src.length = r * un * 128 := s.length_localBytes ..
    have within : ∀ p, p < r * un → layoutFrom o.dto o.frm r un p < r * un := fun p => layoutFrom_lt fun blk => whole (.inl blk)
    have good : ((o.frm = .blk || o.dto = .blk) && r % 32 != 0) = false := by simpa using whole
    refine ⟨pickElems (layoutFrom o.dto o.frm r un) 128 (r * un) src, length_pickElems len within, fun i u b li lu lb => ?_, ?_⟩
    · rw [getD_pickElems len within (layoutPos_lt (fun blk => whole (.inr blk)) li lu) lb, layoutFrom_layoutPos li lu]
    · rw [exec_xlay_eq]
      exact transposeOp_transposed (xf := xlayForm o) c good rfl
  case xreq =>
    intro r cc data inLen rows out r32 rlo rhi c32 clo chi
    rw [exec_xreq_eq]
    refine transposeOp_transposed (xf := xreqForm o) c ?_ rfl
    show (!(decide (r % 32 = 0) && decide (32 ≤ r) && decide (r ≤ 512)) ||
      !(decide (cc % 32 = 0) && decide (32 ≤ cc) && decide (cc ≤ 512))) = false
    simp [r32, rlo, rhi, c32, clo, chi]

end Sys2Proof.Machine
end

section
/-! SUPPORT. The copy instructions (14 R350 to R355, R357, R359), and O15. -/

namespace Sys2Proof.Machine

theorem Core.copiesFull_eq_false {c : Core} (few : (c.copies.filter (·.opc != 0xF9)).length < 16) : c.copiesFull = false :=
  decide_eq_false (Nat.not_le.2 few)

/-- The checks of R359 one after the other, each passed by a hypothesis: overlap, alignment of the landing word and of the list, the cores that
the endpoints name, the windows, a speculative task's destination, and the slots of a ring. -/
theorem copyOp_enters {s : State} {h : Hdr} {i : Instr} {us : List RegUse} {opc mode : Nat} {ct : Option Nat} {a : Nat} {l : Bool}
    {gval : CopyD → Option Nat} {gv : Nat} {idx : Option Nat} (c : s.Clear h us)
    (value : gval (CopyD.of (s.localWords (s.rdA a).toNat 16)) = some gv) :
    Claims.CopyEnters s h i opc mode ct a l gv idx (copyOp h i us opc mode ct a l gval idx s) := by
  intro few inside free sound good se de source dest sh dh first from_ to_ apart landing aligned listed srcCore dstCore srcHull dstHull sure
    r1 reserved p
  refine run_ok c ?_
  refine (if_neg (ne_true_of_eq_false (Core.copiesFull_eq_false few))).trans ((withImage_reads free inside sound rfl).trans ?_)
  dsimp only [sh, dh, first, from_, to_, p] at apart srcHull dstHull ⊢
  rw [value]
  refine (if_neg (ne_true_of_eq_false sound)).trans ((if_neg (ne_true_of_eq_false good)).trans ?_)
  generalize CopyD.of (s.localWords (s.rdA a).toNat 16) = d at *
  simp only [Bool.and_eq_true, Bool.or_eq_true, decide_eq_true_eq, bne_iff_ne, two_pow_32] at source dest apart ⊢
  rw [source, dest]
  refine (if_neg ?meet).trans ((if_neg ?update).trans ((if_neg (not_not_intro aligned)).trans ?_))
  case meet => exact fun ⟨⟨⟨⟨copies, same⟩, _⟩, _⟩, meet⟩ => ne_true_of_eq_false (apart copies same) meet
  case update => exact fun ⟨lands, odd⟩ => odd (landing lands).1
  have listWindow (list : Nat) (listed : idx ≠ none → list + 4 * d.n.getD 1 1 ≤ winSize s.core.pool) :
      (if idx.isSome = true then s.localFault list (4 * d.n.getD 1 1) false else none) = none :=
    ite_eq_right_iff.2 fun there => State.localFault_window (listed (Option.isSome_iff_ne_none.1 there)) false
  have landWindow : (if l = true then s.localFault d.loff 4 false else none) = none :=
    ite_eq_right_iff.2 fun lands => State.localFault_window (landing lands).2 false
  have reached : ∀ x ∈ [(opc != 0xF7, se), (true, de)], x.1 = true → ∀ lc, x.2.sp = some lc → s.lcoreAt lc ≠ .nowhere := by
    simpa using And.intro (fun copies lc => srcCore lc copies) dstCore
  rw [listWindow, landWindow, Option.bind_eq_none_iff.2 srcHull, Option.bind_eq_none_iff.2 dstHull, ite_self]
  case listed => exact listed
  cases missing : List.findSome? _ [(opc != 0xF7, se), (true, de)] with
  | some lc =>
    obtain ⟨x, mem, found⟩ := List.exists_of_findSome?_eq_some missing
    cases place : x.2.sp with
    | none => rw [place] at found; cases found
    | some n =>
      rw [place] at found
      obtain ⟨⟨used, nowhere⟩, -⟩ := Option.ite_none_right_eq_some.1 found
      exact absurd nowhere (reached x mem used n place)
  | none =>
    refine (if_neg ?_).trans ?_
    · rcases sure with certain | ⟨plain, near, own⟩
      · simp [certain]
      · simp [plain, near, own]
    · rw [reserved]
      rfl

/-! ### COPY, COPYG, COPYS, CFILL, CRED and CLAND -/

/-- Settles O15: each copy instruction is `copyOp` with its operands, whose copy enters the engine once its checks pass (`copyOp_enters`); CLAND goes
by its own checks. -/
theorem copyInstructions : Obligations.CopyInstructions := by
  refine ⟨fun h o s c => ?copy, fun h o s c => ⟨?gather, ?scatter⟩, fun h o s c => ?fill, fun h o s c => ?reduce, fun h o s c room => ?land⟩
  case copy => rw [exec_copy, execCopy]; exact copyOp_enters c rfl
  case gather => rw [exec_copyg, execCopyg]; exact copyOp_enters c rfl
  case scatter => rw [exec_copys, execCopys]; exact copyOp_enters c rfl
  case reduce => rw [exec_cred, execCred]; exact copyOp_enters c rfl
  case fill =>
    intro d gv value
    rw [exec_cfill, execCfill]
    have pair : s.pairG o.g = (s.rdG (o.g + 1)).toNat * 2 ^ 32 + (s.rdG o.g).toNat := by rw [State.pairG]; omega
    rw [pair]
    exact copyOp_enters c value
  case land =>
    intro name lc off
    refine ⟨fun odd => run_trap c ?_, fun aligned nowhere => run_trap c ?_, fun aligned reached inside sure => run_ok_alone c rfl ?_⟩
    · exact (if_neg (ne_true_of_eq_false room)).trans (if_pos odd)
    · exact (if_neg (ne_true_of_eq_false room)).trans ((if_neg (not_not_intro aligned)).trans (if_pos nowhere))
    · refine (if_neg (ne_true_of_eq_false room)).trans ((if_neg (not_not_intro aligned)).trans ((if_neg reached).trans ?_))
      have window : s.localFault ((s.rdA o.a).toNat % 0x100000000) 4 false = none := State.localFault_window inside false
      rw [window]
      refine (if_neg ?_).trans ?_
      · rcases sure with certain | own
        · simp [certain]
        · rw [Bool.and_eq_true, bne_iff_ne]
          exact fun both => both.2 own
      · cases o.l <;> rfl

end Sys2Proof.Machine
end

section
/-! SUPPORT. Exceptions and their return (16 R364 to R376): where they go, what they save, and the instructions that raise them or
return from them; and O8, O9, O32, O52 and O53. -/

namespace Sys2Proof.Machine

/-! ### Marked operands (R376) -/

/-- Every encoded instruction goes through `run` with the marks of the g registers that its form reads. -/
theorem exec_eq_run_regs {i : Instr} {y : Syl} (syl : i.syl = some y) (s : State) :
    ∃ (m : Meet) (eff : State → Eff), exec i s = run y.h (markReads i.regs) m s eff := by
  cases i
  all_goals cases syl
  all_goals exact ⟨_, _, rfl⟩

/-- Settles O32: every encoded instruction goes through `run`, which raises the first mark before any effect. -/
theorem markedOperands : Obligations.MarkedOperands := by
  unfold Obligations.MarkedOperands
  refine ⟨fun i y s syl clean on => ?_, fun h d a n o c => ⟨rfl, rfl, rfl, rfl⟩⟩
  obtain ⟨m, eff, run⟩ := exec_eq_run_regs syl s
  exact ⟨fun c v first => run.trans (run_marked clean on first m eff), fun first => run.trans (run_poisoned clean on first m eff)⟩

/-! ### Entry at the stream's own handler (R367, R370) -/

/-- Adding the mode bit above the lower fields of TINFO sets it, and the unit number above is not touched. -/
theorem tinfo_or_mode {low : Nat} (lt : low < 2 ^ 17) (unit : Nat) :
    BitVec.ofNat 32 (low + unit * 0x100000) ||| 0x20000 = BitVec.ofNat 32 (low + 0x20000 + unit * 0x100000) := by
  have mode : low + 0x20000 = low ||| 0x20000 := by
    simpa [Nat.add_comm, Nat.or_comm] using Nat.two_pow_add_eq_or_of_lt lt 1
  have below : ∀ n < 2 ^ 20, n + unit * 0x100000 = n ||| unit * 0x100000 := fun n small => by
    simpa [Nat.add_comm, Nat.or_comm, Nat.mul_comm] using Nat.two_pow_add_eq_or_of_lt small unit
  have value : low + unit * 0x100000 ||| 0x20000 = low + 0x20000 + unit * 0x100000 := by
    rw [below _ (by omega), below _ (by omega), mode, Nat.or_right_comm]
  rw [← value]
  apply BitVec.eq_of_toNat_eq
  simp

/-- The issuing stream in its handler: the trap CSRs are set, and TINFO names the handler mode. -/
def Stream.handling (x : Stream) (cause : Nat) (d : Bool) (val info line : Nat) : Stream :=
  let y := x.trapCsrs cause d x.pos.packed val info
  { y.enter line with tinfo := y.tinfo ||| 0x20000, run := .running, first := cause }

theorem State.enterHandler_of_line {s : State} {line : Nat} (out : s.strm.handler = false)
    (names : handlerLine (s.core.codeFor s.strm.cls).1 (s.core.codeFor s.strm.cls).2 s.strm.cls = some line) (cause : Nat) (d : Bool)
    (val info : Nat) : s.enterHandler cause d val info = { s with
      strm := s.strm.handling cause d val (info + s.strm.unit * 0x100000 + s.strm.flight.length) line } := by
  simp [State.enterHandler, Stream.handling, out, names]

/-- A stream whose exception begins: none of its bundle has any effect, and its return predictor is empty (R116). -/
def Stream.cutShort (x : Stream) : Stream := { x with predictor := [], latch := { Latch.clear with trapped := true } }

/-- A stream outside its handler, which the class delivers the cause to, enters it. -/
theorem State.takeTrap_enters {s : State} {cause : Nat} (out : s.strm.handler = false)
    (committed : s.strm.cls = .firmware → s.core.fwst ≠ .probation ∧ s.core.fwst ≠ .alive)
    (own : delivery s.strm.cls cause = .handler) (val : Nat) (d : Bool) (slot prot : Nat) (b2 : Bool) :
    s.takeTrap cause val d slot prot b2 =
      ({ s with strm := s.strm.cutShort } : State).enterHandler cause d val (trapInfo slot prot (b2 || s.strm.latch.b2)) := by
  rw [State.takeTrap]
  dsimp only
  split
  · next fw => rw [if_neg (by simp [out, committed fw])]; rfl
  · rw [own]; dsimp only; rw [if_neg (by simp [out])]; rfl

theorem Stream.tinfo_handling {x : Stream} {slot prot : Nat} (b2 : Bool) (slotFits : slot < 2) (protFits : prot < 4)
    (few : x.flight.length < 2 ^ 13) (cause : Nat) (d : Bool) (val line : Nat) :
    (x.handling cause d val (trapInfo slot prot b2 + x.unit * 0x100000 + x.flight.length) line).tinfo =
      BitVec.ofNat 32 (x.flight.length + prot * 0x2000 + slot * 0x8000 + (if b2 then 0x10000 else 0) + 0x20000 + x.unit * 0x100000) := by
  have low : trapInfo slot prot b2 + x.flight.length < 2 ^ 17 := by
    rw [trapInfo]; split <;> omega
  calc BitVec.ofNat 32 (trapInfo slot prot b2 + x.unit * 0x100000 + x.flight.length) ||| 0x20000
      = BitVec.ofNat 32 (trapInfo slot prot b2 + x.flight.length + x.unit * 0x100000) ||| 0x20000 := by rw [Nat.add_right_comm]
    _ = BitVec.ofNat 32 (trapInfo slot prot b2 + x.flight.length + 0x20000 + x.unit * 0x100000) := tinfo_or_mode low _
    _ = _ := by rw [trapInfo]; congr 1; omega

/-- Settles O8: a stream outside its handler enters it at the line that the image names. -/
theorem exceptionEntry : Obligations.ExceptionEntry := by
  unfold Obligations.ExceptionEntry
  intro s cause val d b2 slot prot line out committed own names latch slotFits protFits few _
  rw [State.takeTrap_enters out committed own, State.enterHandler_of_line (s := { s with strm := s.strm.cutShort }) out names, latch,
    Bool.or_false]
  exact ⟨_, rfl, rfl, rfl, rfl, rfl, rfl, rfl, rfl, rfl, rfl,
    Stream.tinfo_handling (x := s.strm.cutShort) b2 slotFits protFits few cause d val line,
    rfl, rfl, rfl, rfl, rfl, rfl, rfl, rfl, rfl, rfl, rfl, rfl, rfl⟩

/-! ### TRAP and the returns (R372, R373) -/

/-- A due TRAP gives back its code, slot and protection class (R372). -/
theorem takeTrapDue_eq {s : State} {code slot prot : Nat} (codeFits : code < 0x1000) (slotFits : slot < 2) (protFits : prot < 4)
    (due : s.strm.trapDue = some (code + 0x1000 * slot + 0x2000 * prot + if s.strm.handler then 0x8000 else 0)) :
    s.takeTrapDue = some ((s.setStrm fun x => { x with trapDue := none }).takeTrap 4 code false slot prot false) := by
  have mode : (code + 0x1000 * slot + 0x2000 * prot + if s.strm.handler then 0x8000 else 0) =
      code + 0x1000 * slot + 0x2000 * prot + 0x8000 * s.strm.modeBit := by rw [Stream.modeBit]; split <;> rfl
  have bit : s.strm.modeBit ≤ 1 := by rw [Stream.modeBit]; split <;> decide
  rw [State.takeTrapDue, due, mode, Option.bind_some, if_pos (by omega)]
  generalize s.strm.modeBit = m at bit
  rw [show (code + 0x1000 * slot + 0x2000 * prot + 0x8000 * m) % 0x1000 = code by omega,
    show (code + 0x1000 * slot + 0x2000 * prot + 0x8000 * m) / 0x1000 % 2 = slot by omega,
    show (code + 0x1000 * slot + 0x2000 * prot + 0x8000 * m) / 0x2000 % 4 = prot by omega]

theorem ownReturn_inside {s : State} (inside : s.strm.handler = true) (i : Instr) (next : Bool) :
    ownReturn i next s = .ok (s.setStrm fun x => { x with run := .returning next }) := if_neg (by simp [inside])

theorem ownReturn_outside {s : State} (outside : s.strm.handler = false) (i : Instr) (next : Bool) :
    ownReturn i next s = .trap 1 (sylVal i) := if_pos (by simp [outside])

theorem trapAndReturn : Claims.TrapAndReturn := by
  unfold Claims.TrapAndReturn
  refine ⟨fun h o s c => runI_ok c rfl, fun h o n s c => ⟨fun inside => ?_, fun outside => ?_⟩, fun s next ending => ?_,
    fun s code slot prot codeFits slotFits protFits due => takeTrapDue_eq codeFits slotFits protFits due⟩
  · exact ⟨runI_ok c (ownReturn_inside inside ..), runI_ok c (ownReturn_inside inside ..)⟩
  · exact ⟨runI_trap c (ownReturn_outside outside ..), runI_trap c (ownReturn_outside outside ..)⟩
  · refine ⟨_, rfl, by simp [ending], rfl, rfl, rfl, rfl, ?_, rfl, rfl, rfl, rfl, rfl, rfl, rfl⟩
    simp

/-! ### The firmware's decisions (R373) -/

section
variable {s : State} {h : Hdr} {u : Nat} {e : SysEvent}

theorem exec_rettRes_waiting {o : RettResArgs} (c : s.Clear h o.regs) (waits : s.waitingUnit (s.rdG o.g) = some u)
    (pending : s.core.sysEvent u false = some e) : exec (.rettRes h o) s =
      .next (((s.setCore fun c => c.dropEvent e).resumeStream (sidOf s.ck u)).spends (addedCycles false h.prot)) :=
  runI_ok c (by simp only [waits, pending])

theorem exec_rettRes_settled {o : RettResArgs} (c : s.Clear h o.regs) (waits : s.waitingUnit (s.rdG o.g) = some u)
    (settled : s.core.sysEvent u false = none) : exec (.rettRes h o) s =
      .next ((s.resumeStream (sidOf s.ck u)).spends (addedCycles false h.prot)) :=
  runI_ok c (by simp only [waits, settled])

theorem exec_rettRes_copy {o : RettResArgs} {id : Nat} (c : s.Clear h o.regs) (idle : s.waitingUnit (s.rdG o.g) = none)
    (failed : s.asyncFault (s.rdG o.g) = some e) (copy : e.copyId = some id) : exec (.rettRes h o) s =
      .next ((s.setCore fun c => (c.dropEvent e).retryCopy id).spends (addedCycles false h.prot)) :=
  runI_ok c (by simp only [idle, failed, copy, Option.getD_some])

theorem exec_rettRes_nothing {o : RettResArgs} (c : s.Clear h o.regs) (idle : s.waitingUnit (s.rdG o.g) = none)
    (whole : s.asyncFault (s.rdG o.g) = none) : exec (.rettRes h o) s = .next (s.takeTrap 31 0 false h.slot h.prot false) :=
  runI_trap c (by simp only [idle, whole])

theorem exec_rettRef_waiting {o : RettRefArgs} (c : s.Clear h o.regs) (waits : s.waitingUnit (s.rdG o.g) = some u)
    (pending : s.core.sysEvent u false = some e) : exec (.rettRef h o) s =
      .next (((s.setCore fun c => c.dropEvent e).referStream (sidOf s.ck u) e).spends (addedCycles false h.prot)) :=
  runI_ok c (by simp only [waits, pending])

theorem exec_rettRef_nothing {o : RettRefArgs} (c : s.Clear h o.regs)
    (nothing : ∀ u, s.waitingUnit (s.rdG o.g) = some u → s.core.sysEvent u false = none) :
    exec (.rettRef h o) s = .next (s.takeTrap 31 0 false h.slot h.prot false) := by
  refine runI_trap c ?_
  cases waits : s.waitingUnit (s.rdG o.g) with
  | none => rfl
  | some u => simp only [nothing u waits]

end

theorem firmwareReturns : Claims.FirmwareReturns := by
  unfold Claims.FirmwareReturns
  refine ⟨fun h o s c => ⟨fun u waits => ⟨fun e pending => exec_rettRes_waiting c waits pending, exec_rettRes_settled c waits⟩,
    fun idle => ⟨fun e id failed copy => exec_rettRes_copy c idle failed copy, exec_rettRes_nothing c idle⟩⟩, fun h o s c => ?_⟩
  refine ⟨fun u e waits pending => exec_rettRef_waiting c waits pending, fun u waits settled => exec_rettRef_nothing c fun v names => ?_,
    fun idle => exec_rettRef_nothing c fun v names => absurd (idle.symm.trans names) nofun⟩
  obtain rfl := Option.some.inj (waits.symm.trans names)
  exact settled

/-- Settles O53: each instruction answers by its effect, and a return gives back what the entry had parked. -/
theorem trapsAndReturns : Obligations.TrapsAndReturns := ⟨trapAndReturn, firmwareReturns⟩

/-! ### CHK and ABORT (R374, R375) -/

section
variable {s : State} {h : Hdr} {items : State → Items} {eff : State → Eff}

/-- The effect of CHK on a mark. -/
def checkMark (s : State) : Mark → Eff
  | .none => .ok s
  | .deferred c v => .deferred c v
  | .poison => .trap 25 0

/-- CHK of a queue whose head has its data. -/
theorem execChkQ_head {o : ChkQArgs} {e : QEntry} {rest : List QEntry} (c : s.Clear h [])
    (head : ((s.rdQ o.q).filter fun e => !e.spec) = e :: rest) (data : e.data ≠ none) (ready : e.readyAt ≤ s.core.ac) :
    exec (.chkQ h o) s = (checkMark s e.mark).close h (addedCycles false h.prot) s := by
  refine (runI_clear c _ _).trans (congrArg (Eff.close h _ s) ?_)
  rw [State.ownQ, head]
  dsimp only
  rw [if_neg (by simp [data, ready])]
  cases e.mark <;> rfl

theorem execChkQ_waits {o : ChkQArgs} {e : QEntry} {rest : List QEntry} (c : s.Clear h [])
    (head : ((s.rdQ o.q).filter fun e => !e.spec) = e :: rest) (early : e.data = none ∨ s.core.ac < e.readyAt) :
    exec (.chkQ h o) s = .next (s.setLatch fun l => { l with wait := true }) := by
  refine runI_wait c ?_
  rw [State.ownQ, head]
  exact if_pos (by simpa using early)

theorem exec_chk_clear {g : Nat} (c : s.Clear h []) :
    exec (.chk h ⟨g⟩) s = (checkMark s (s.markG g)).close h (addedCycles false h.prot) s := by
  refine (runI_clear c _ _).trans (congrArg (Eff.close h _ s) ?_)
  cases s.markG g <;> rfl

theorem exec_abort_clear {o : TrapArgs} (c : s.Clear h []) (task : s.strm.cls ≠ .firmware ∧ s.strm.cls ≠ .control) :
    exec (.abort h o) s =
      .next (((s.abortRecord o.code).setStrm fun x => { x with run := .aborting }).spends (addedCycles false h.prot)) :=
  runI_ok c ((if_neg task.1).trans (if_neg task.2))

theorem exec_abort_control {o : TrapArgs} (c : s.Clear h []) (cls : s.strm.cls = .control) (kept : s.strm.lost = []) :
    exec (.abort h o) s =
      .next (((s.abortRecord o.code).setLatch fun l => { l with ended := true }).spends (addedCycles false h.prot)) :=
  runI_ok c (by simp [cls, State.lostFor, kept])

end

/-- Settles O9: CHK's effect is that of the mark, and ABORT's that of the stream's class. -/
theorem checkAndAbort : Obligations.CheckAndAbort := by
  unfold Obligations.CheckAndAbort
  refine ⟨fun h p g s c => ⟨?_, ?_, ?_, ?_⟩, fun h o s c => ⟨?_, fun e rest head => ⟨execChkQ_waits c head, fun data ready => ?_⟩⟩,
    fun h o s c => ⟨fun fw => runI_trap c (if_pos fw), exec_abort_control c, fun a b => exec_abort_clear c ⟨a, b⟩⟩,
    fun h o s c => runI_ok c rfl⟩
  · intro mark; rw [exec_chk_clear c, mark]; rfl
  · intro _ _ mark; rw [exec_chk_clear c, mark]; rfl
  · intro mark; rw [exec_chk_clear c, mark]; rfl
  · refine (runI_resP (v := s.markG g != .none) c rfl).trans ?_
    congr 2
    cases s.markG g <;> simp
  · intro empty
    exact runI_ok c (by rw [State.ownQ, empty])
  · rw [execChkQ_head c head data ready]
    refine ⟨?_, ?_, ?_⟩
    · intro mark; rw [mark]; rfl
    · intro _ _ mark; rw [mark]; rfl
    · intro mark; rw [mark]; rfl

/-! ### System faults and the firmware context's failure (R364, R368, R369) -/

theorem State.modCore_own {s : State} (f : Core → Core) : s.modCore s.ck f = { s with core := f s.core } := by
  rw [State.modCore, State.putCore, if_pos rfl, State.coreOf, if_pos rfl]

/-- Only the causes 18 to 21 and 29 of a control-program or vector stream go to the firmware. -/
theorem cause_of_delivery_firmware {cls : Cls} {cause : Nat} (task : cls = .control ∨ cls = .vector)
    (system : delivery cls cause = .firmware) : cause ≠ 27 ∧ cause ≠ 28 ∧ cause ≠ 32 := by
  rw [delivery] at system
  rcases task with rfl | rfl <;> simp [Cls.single] at system <;> grind

/-- A fault joins those that are queued where fewer than eight are pending, and waits where not. -/
theorem Core.refill_one {c : Core} {e : SysEvent} (none : c.sysOver = []) : ({ c with sysOver := c.sysOver ++ [e] } : Core).refill =
    if c.pendingFaults < 8 then { c with sysQ := c.sysQ ++ [e], sysOver := [] } else { c with sysOver := [e] } := by
  have pending : Core.pendingFaults { c with sysOver := c.sysOver ++ [e] } = c.pendingFaults := rfl
  rw [Core.refill, pending, none]
  split
  · next room => obtain ⟨k, eq⟩ : ∃ k, 8 - c.pendingFaults = k + 1 := ⟨7 - c.pendingFaults, by omega⟩
                 simp [eq]
  · next full => simp [show 8 - c.pendingFaults = 0 by omega]

/-- A stream that waits for the firmware with its trap CSRs set (R369). -/
def Stream.faulting (x : Stream) (cause : Nat) (d : Bool) (val info : Nat) : Stream :=
  ({ x.cutShort with run := .faulted, sysf := true } : Stream).trapCsrs cause d x.pos.packed val
    (info + x.unit * 0x100000 + x.flight.length)

/-- The fault of a control program or a vector stream outside its handler stops it and is queued for the firmware. -/
theorem State.takeTrap_system {s : State} {cause : Nat} (out : s.strm.handler = false) (task : s.strm.cls = .control ∨ s.strm.cls = .vector)
    (system : delivery s.strm.cls cause = .firmware) (val : Nat) (d : Bool) (slot prot : Nat) (b2 : Bool) :
    let info := trapInfo slot prot (b2 || s.strm.latch.b2)
    s.takeTrap cause val d slot prot b2 = ({ s with strm := s.strm.faulting cause d val info } : State).fwQueue s.ck
      ⟨s.strm.unit, cause, d, val, s.strm.pos.packed, info, none⟩ := by
  have several : s.strm.cls.single = false := by rcases task with cls | cls <;> rw [cls] <;> rfl
  rw [State.takeTrap]
  dsimp only
  rw [if_neg (by rcases task with cls | cls <;> simp [cls]), system]
  have inside : (s.strm.handler = true) = False := by simp [out]
  have dflag : (d && !s.strm.handler) = d := by simp [out]
  simp only [inside, several, dflag, Bool.false_eq_true, if_false]
  rfl

theorem State.fwQueue_fault {s : State} {k : Nat} {e : SysEvent} (own : k = s.ck) (fault : e.isFault = true) :
    s.fwQueue k e = { s with core := { s.core with sysOver := s.core.sysOver ++ [e] }.refill } := by
  rw [own, State.fwQueue, State.modCore_own, if_pos fault]

theorem foldl_min_unit {es : List SysEvent} {m n : Nat} (start : n ≤ m) (least : ∀ e ∈ es, n ≤ e.unit) (found : m = n ∨ ∃ e ∈ es, e.unit = n) :
    es.foldl (fun m e => min m e.unit) m = n := by
  induction es generalizing m with
  | nil => simpa using found
  | cons e es ih =>
    have first := least e List.mem_cons_self
    refine ih (m := min m e.unit) (le_min start first) (fun e mem => least e (List.mem_cons_of_mem _ mem)) ?_
    rcases found with eq | ⟨f, mem, eq⟩
    · exact .inl (by omega)
    · rcases List.mem_cons.1 mem with rfl | rest
      · exact .inl (by omega)
      · exact .inr ⟨f, rest, eq⟩

/-- A firmware context that runs outside its handler, with its image committed, takes the event of the lowest-numbered unit. -/
theorem State.fwDeliver_eq {s : State} {k line : Nat} {e : SysEvent}
    (first : (s.coreOf k).sysQ.find? (fun f => decide (f.unit = e.unit)) = some e) (least : ∀ f ∈ (s.coreOf k).sysQ, e.unit ≤ f.unit)
    (unit : e.unit ≤ 16) (run : (s.strmOf (sidOf k 8)).run = .running) (out : (s.strmOf (sidOf k 8)).handler = false)
    (tried : (s.coreOf k).fwst ≠ .probation) (settled : (s.coreOf k).fwst ≠ .alive)
    (names : handlerLine (s.coreOf k).fwCode (s.coreOf k).fwLen .firmware = some line) :
    s.fwDeliver k = ((s.ptwDone (sidOf k 8)).putCore k { s.coreOf k with
      sysQ := (s.coreOf k).sysQ.erase e, sysCur := (s.coreOf k).sysCur ++ [e] }).putStrm (sidOf k 8)
        (((s.strmOf (sidOf k 8)).enter line).trapCsrs e.cause e.dflag (s.strmOf (sidOf k 8)).pos.packed e.val
          (e.info + e.unit * 0x100000 + 0x20000 + (s.strmOf (sidOf k 8)).flight.length)) := by
  have lowest := foldl_min_unit unit least (.inr ⟨e, List.mem_of_find?_eq_some first, rfl⟩)
  rw [State.fwDeliver]
  dsimp only
  rw [lowest, first]
  dsimp only
  rw [if_neg (by simp [run, out, tried, settled]), names]

theorem systemFaultEntry : Claims.SystemFaultEntry := by
  unfold Claims.SystemFaultEntry
  refine ⟨fun s cause val d b2 slot prot out task system unit latch none => ?_,
    ?_⟩
  · have fault : cause ≠ 27 ∧ cause ≠ 28 ∧ cause ≠ 32 := cause_of_delivery_firmware task system
    have eq := (State.takeTrap_system out task system val d slot prot b2).trans
      (State.fwQueue_fault rfl (by simp [SysEvent.isFault, fault]))
    rw [Core.refill_one none, latch, Bool.or_false] at eq
    dsimp only
    rw [eq]
    refine ⟨rfl, rfl, rfl, rfl, rfl, rfl, rfl, rfl, rfl, ?_, rfl, ?_, fun room => ?_, fun full => ?_⟩
    · dsimp only; split <;> rfl
    · dsimp only; split <;> rfl
    · rw [if_pos (show s.core.pendingFaults < 8 from room)]; exact ⟨rfl, rfl⟩
    · rw [if_neg (show ¬ s.core.pendingFaults < 8 from full)]; exact ⟨rfl, rfl⟩
  · intro s k line e fw c t first least unit run out tried settled names
    have eq := State.fwDeliver_eq first least unit run out tried settled names
    simp only [t, eq, State.coreOf_putStrm, State.coreOf_putCore_self, State.strmOf_putStrm_self]
    exact ⟨rfl, rfl, rfl, rfl, rfl, rfl, rfl⟩

/-- The failure of the issuing firmware context. -/
theorem State.fwFail_own {s : State} (own : s.sid = sidOf s.ck 8) : (s.fwFail s.ck).strm = { s.strm with run := .failed } ∧
    (s.core.fwst = .probation ∨ s.core.fwst = .alive → (s.fwFail s.ck).core.fwst = .reverted) := by
  have core : s.coreOf s.ck = s.core := if_pos rfl
  have stops : (s.modStrm (sidOf s.ck 8) fun x => { x with run := .failed }) = { s with strm := { s.strm with run := .failed } } := by
    rw [← own, State.modStrm, State.putStrm, if_pos rfl, State.strmOf_own]
  have same : ({ s with strm := { s.strm with run := .failed } } : State).ck = s.ck := rfl
  rw [State.fwFail]
  dsimp only
  rw [stops, core, State.putCore, if_pos same.symm]
  split
  · exact ⟨rfl, fun _ => rfl⟩
  · next neither => exact ⟨rfl, fun tried => absurd (by simpa using tried) neither⟩

theorem firmwareFailure : Claims.FirmwareFailure := by
  unfold Claims.FirmwareFailure
  intro s cause val d b2 slot prot fw own fails
  have stops : s.takeTrap cause val d slot prot b2 = ({ s with strm := s.strm.cutShort } : State).fwFail s.ck := by
    rw [State.takeTrap]
    dsimp only
    rw [if_pos fw, if_pos (by simpa [or_assoc] using fails)]
    rfl
  obtain ⟨strm, core⟩ := State.fwFail_own (s := { s with strm := s.strm.cutShort }) own
  rw [stops]
  exact ⟨congrArg Stream.run strm, core⟩

/-- Settles O52: a system fault is queued for the firmware context, which takes the one of the lowest unit, or fails. -/
theorem firmwareDelivery : Obligations.FirmwareDelivery := ⟨systemFaultEntry, firmwareFailure⟩

end Sys2Proof.Machine
end

section
/-! SUPPORT. The firmware's commands and the swap of its image (16 R382, R397, 23 R499, R501, R506), and O10 and O12. -/

namespace Sys2Proof.Machine

/-! ### FSHARE, PURGE and SHRD -/

theorem State.FwClear.mono {s : State} {h : Hdr} {us vs : List RegUse} (c : s.FwClear h us) (le : ∀ n ∈ markReads vs, n ∈ markReads us) :
    s.FwClear h vs := ⟨c.1.mono le, c.2⟩

section
variable {s : State} {h : Hdr} {tag status : Nat}

/-- What orders a purge answers: it completes at once where the launch is on one package, and waits where on several (R461). -/
def State.orderPurge (s : State) (h : Hdr) (tag status : Nat) : State :=
  let t := s.purge s.core.launch tag status s.rank
  if s.launch.any fun l => l.multi then (t.setStrm fun x => { x with rbar := .sent s.core.launch }).setLatch fun l => { l with wait := true }
  else t.spends (addedCycles false h.prot)

/-- What an ordered purge answers until every package has acknowledged it. -/
def State.awaitPurge (s : State) (h : Hdr) (lk tag : Nat) : State :=
  if s.purging lk tag then s.setLatch fun l => { l with wait := true }
  else (s.setStrm fun x => { x with rbar := .none }).spends (addedCycles false h.prot)

theorem purgeAll_orders (free : s.strm.rbar = .none) :
    (purgeAll tag status s).close h (addedCycles false h.prot) s = .next (s.orderPurge h tag status) := by
  rw [purgeAll, free, State.orderPurge]
  dsimp only
  split <;> rfl

theorem purgeAll_awaits {lk : Nat} (sent : s.strm.rbar = .sent lk) :
    (purgeAll tag status s).close h (addedCycles false h.prot) s = .next (s.awaitPurge h lk tag) := by
  rw [purgeAll, sent, State.awaitPurge]
  dsimp only
  split <;> rfl

theorem exec_purge_clear {o : PurgeArgs} (c : s.FwClear h o.regs) :
    exec (.purge h o) s = (purgeAll ((s.rdG o.g).toNat % 65536) 33 s).close h (addedCycles false h.prot) s := runFw_clear c

theorem exec_purgeL_clear {o : Form1Args} (c : s.FwClear h o.regs) : exec (.purgeL h o) s =
    (purgeAll 0 (if s.core.sysCur.any fun e => decide (e.cause = 27) then 27 else 33) s).close h (addedCycles false h.prot) s :=
  runFw_clear c

theorem State.modLaunch_of {lk : Nat} {l : Launch} (known : s.launchOf lk = some l) (f : Launch → Launch) :
    s.modLaunch lk f = s.putLaunch lk (some (f l)) := by rw [State.modLaunch, known]

theorem exec_shrd_misaligned {o : ShrdArgs} (c : s.Clear h o.regs) (odd : (s.rdA o.a).toNat % 8 ≠ 0) :
    exec (.shrd h o) s = .next (s.takeTrap 7 (s.rdA o.a).toNat false h.slot h.prot false) := runI_trap c (if_pos odd)

theorem exec_shrd_appends {o : ShrdArgs} (c : s.Clear h o.regs) (aligned : (s.rdA o.a).toNat % 8 = 0)
    (inside : (s.rdA o.a).toNat + 64 ≤ winSize s.core.pool) (free : s.acquiring = false)
    (clean : s.core.poisoned (s.rdA o.a).toNat 64 = false) :
    exec (.shrd h o) s = .next ((s.logRecord s.rank (s.localBytes (s.rdA o.a).toNat 64)).1.spends (addedCycles false h.prot)) := by
  refine runI_ok c ((if_neg (not_not.2 aligned)).trans ?_)
  rw [State.localFault_window inside]
  dsimp only
  rw [if_neg (ne_true_of_eq_false free), if_neg (ne_true_of_eq_false clean)]

end

/-- Settles O10: each instruction answers by its effect; a purge orders it where none is outstanding, and else awaits it. -/
theorem firmwareCommands : Obligations.FirmwareCommands := by
  unfold Obligations.FirmwareCommands
  refine ⟨fun h o s c => runFw_ok c rfl, fun h o f s c => ?purge, fun h o s c l known => ?clear,
    fun h o s c => ⟨exec_shrd_misaligned c, exec_shrd_appends c⟩⟩
  case purge =>
    have c0 : s.FwClear h f.regs := c.mono nofun
    refine ⟨fun free => ⟨?_, ?_⟩, fun j sent => ⟨?_, ?_⟩, rfl⟩
    · exact (exec_purge_clear c).trans (purgeAll_orders free)
    · exact (exec_purgeL_clear c0).trans (purgeAll_orders free)
    · exact (exec_purge_clear c).trans (purgeAll_awaits sent)
    · exact (exec_purgeL_clear c0).trans (purgeAll_awaits sent)
  case clear =>
    refine ⟨_, _, runFw_ok c rfl, State.modLaunch_of known _, fun tag => ?_, rfl, rfl, rfl⟩
    rw [SMap.get_set_self, List.mem_filter, bne_iff_ne]

/-! ### What the write-back of a line leaves of the dies (09 R236, R252) -/

/-- The clock, and every die but for its counts of granules and the lines of its L2 slices, are in `t` as in `s`. -/
structure State.KeepsDies (s t : State) : Prop where
  dc : t.sys.dc = s.sys.dc
  die : ∀ r, ∃ g l, t.dieOf r = { s.dieOf r with granules := g, l2 := l }

namespace State.KeepsDies

variable {s t u : State}

theorem of_dies (dc : t.sys.dc = s.sys.dc) (dies : t.sys.dies = s.sys.dies) : s.KeepsDies t :=
  ⟨dc, fun r => ⟨_, _, by rw [State.dieOf, dies]; rfl⟩⟩

theorem refl (s : State) : s.KeepsDies s := of_dies rfl rfl

theorem trans (st : s.KeepsDies t) (tu : t.KeepsDies u) : s.KeepsDies u := by
  refine ⟨tu.dc.trans st.dc, fun r => ?_⟩
  obtain ⟨_, _, first⟩ := st.die r
  obtain ⟨g, l, second⟩ := tu.die r
  exact ⟨g, l, by rw [second, first]⟩

theorem foldl {α : Type} {f : State → α → State} (step : ∀ (t : State) a, t.KeepsDies (f t a)) (l : List α) (s : State) :
    s.KeepsDies (l.foldl f s) := by
  induction l generalizing s with
  | nil => exact refl s
  | cons a l ih => exact (step s a).trans (ih _)

end State.KeepsDies

theorem State.dieOf_modDie (s : State) (r j : Nat) (f : Die → Die) :
    (s.modDie r f).dieOf j = if j = r then f (s.dieOf r) else s.dieOf j := SMap.get_set ..

section
variable (s : State) (k line a r : Nat)

theorem State.keepsDies_modDie {f : Die → Die} (only : ∀ d, ∃ g l, f d = { d with granules := g, l2 := l }) : s.KeepsDies (s.modDie r f) := by
  refine ⟨rfl, fun j => ?_⟩
  rw [State.dieOf_modDie]
  split
  · next eq => rw [eq]; exact only _
  · exact ⟨_, _, rfl⟩

theorem State.keepsDies_modCore (f : Core → Core) : s.KeepsDies (s.modCore k f) :=
  .of_dies (by rw [State.modCore_sys]) (by rw [State.modCore_sys])

theorem State.keepsDies_hbmWrite (bs : List Byte) : s.KeepsDies (s.hbmWrite a bs) := by
  rw [State.hbmWrite_eq]
  exact .of_dies rfl rfl

theorem State.keepsDies_granuleCount : s.KeepsDies (s.granuleCount r a) := by
  unfold State.granuleCount
  split
  · exact .refl s
  · exact s.keepsDies_modDie _ fun d => ⟨_, _, rfl⟩

theorem State.keepsDies_backDirty : s.KeepsDies (s.backDirty k a) := by
  unfold State.backDirty
  refine .foldl (fun t ⟨v, _⟩ => .foldl (fun u ⟨va, pa⟩ => ?_) _ _) _ _
  dsimp only
  split
  · unfold State.markDevDirty
    split
    · exact .of_dies rfl rfl
    · exact .refl u
  · exact .refl u

theorem State.keepsDies_l2Back : s.KeepsDies (s.l2Back k line) := by
  have cleaned (m : SMap (Option CByte)) : s.KeepsDies (s.putDie (rankOfCore k) { s.dieOf (rankOfCore k) with l2 := m }) :=
    s.keepsDies_modDie (f := fun d => { d with l2 := m }) _ fun d => ⟨_, _, rfl⟩
  have written (m : SMap (Option CByte)) (l : List (Nat × List Byte)) : s.KeepsDies (l.foldl (fun t x => t.hbmWrite x.1 x.2)
      (((s.putDie (rankOfCore k) { s.dieOf (rankOfCore k) with l2 := m }).granuleCount (rankOfCore k) (128 * line)).backDirty k (128 * line))) :=
    ((cleaned m).trans ((State.keepsDies_granuleCount ..).trans (State.keepsDies_backDirty ..))).trans
      (.foldl (fun t x => t.keepsDies_hbmWrite ..) l _)
  unfold State.l2Back
  dsimp only
  split
  · exact cleaned _
  · split
    · exact written ..
    · exact (written ..).trans (.of_dies rfl rfl)

theorem State.keepsDies_l2Drop : s.KeepsDies (s.l2Drop k line) := s.keepsDies_modDie _ fun _ => ⟨_, _, rfl⟩

theorem State.keepsDies_l2Evict : s.KeepsDies (s.l2Evict k line) := by
  unfold State.l2Evict
  dsimp only
  split
  · split
    · exact (s.keepsDies_l2Back ..).trans (State.keepsDies_l2Drop ..)
    · exact .refl s
  · exact .refl s

theorem State.keepsDies_l1Back : s.KeepsDies (s.l1Back k line) := by
  have moved (m : SMap (Option CByte)) (f : Die → Die) (only : ∀ d, ∃ g l, f d = { d with granules := g, l2 := l }) :
      s.KeepsDies ((s.putCore k { s.coreOf k with l1 := m }).modDie (rankOfCore k) f) :=
    (s.keepsDies_modCore k fun c => { c with l1 := m }).trans (State.keepsDies_modDie _ _ only)
  unfold State.l1Back
  dsimp only
  split
  · exact moved _ _ fun _ => ⟨_, _, rfl⟩
  · exact (moved _ _ fun _ => ⟨_, _, rfl⟩).trans ((State.keepsDies_backDirty ..).trans (State.keepsDies_l2Evict ..))

/-- Writing back and dropping the lines of a range changes no die but for its counts and its slices. -/
theorem State.keepsDies_flushRange (lo n : Nat) (drop : Bool) : s.KeepsDies (s.flushRange k lo n drop) := by
  refine .foldl (fun t l => ?_) _ _
  have back : t.KeepsDies (t.lineBack k l) := (t.keepsDies_l1Back k l).trans (State.keepsDies_l2Back ..)
  dsimp only
  split
  · exact back.trans ((State.keepsDies_modCore ..).trans (State.keepsDies_l2Drop ..))
  · exact back

/-- Nor does it touch the issuing stream. -/
theorem State.keepsIssue_flushRange (lo n : Nat) (drop : Bool) : s.KeepsIssue (s.flushRange k lo n drop) := by
  refine .foldl (fun t l => ?_) _ _
  have back : t.KeepsIssue (t.lineBack k l) := (t.keepsIssue_l1Back k l).trans (State.keepsIssue_l2Back ..)
  dsimp only
  split
  · exact back.trans ((State.keepsIssue_modCore _ _ rfl).trans (State.keepsIssue_modDie ..))
  · exact back

end

/-! ### FWSWAP (R501, R506) -/

section
variable {s : State} {h : Hdr} {o : FwswapArgs}

/-- LENGTH of the hand-over record that stands at an address of memory, for the issuing core. -/
def State.recordLen (s : State) (m : Memory) (ah : Nat) : Option Nat := handoverLen (Memory.readBytes m ah 64) (coreInDie s.ck)

/-- The record is closed: its CRC-32C, and FROZEN = 1. -/
def State.closeRecord (s : State) (ah n : Nat) : State :=
  let bs := Memory.readBytes s.sys.hbm ah n
  s.hbmWrite (ah + 24) (leBytes 4 (crc32c (patch 24 [0, 0, 0, 0] bs)) ++ [bs.getD 28 0 ||| 1])

theorem State.rdG_spends (s : State) (k n : Nat) : (s.spends k).rdG n = s.rdG n := rfl
theorem State.rdA_spends (s : State) (k n : Nat) : (s.spends k).rdA n = s.rdA n := rfl

theorem Eff.close_ok (h : Hdr) (n : Nat) (s t : State) : (Eff.ok t).close h n s = .next (t.spends n) := rfl

/-- The effect of FWSWAP once the record's lines are in memory. -/
def swapEffect (h : Hdr) (o : FwswapArgs) (s1 : State) (ah core : Nat) : Eff :=
  match handoverLen (Memory.readBytes s1.sys.hbm ah 64) core with
  | none => .ok (s1.resP h o.p false 1)
  | some n => .ok ((s1.closeRecord ah n).swapImage o.p ah n)

theorem swapEffect_none {s1 : State} {ah core : Nat} (bad : handoverLen (Memory.readBytes s1.sys.hbm ah 64) core = none) :
    swapEffect h o s1 ah core = .ok (s1.resP h o.p false 1) := by rw [swapEffect, bad]

theorem swapEffect_some {s1 : State} {ah core n : Nat} (good : handoverLen (Memory.readBytes s1.sys.hbm ah 64) core = some n) :
    swapEffect h o s1 ah core = .ok ((s1.closeRecord ah n).swapImage o.p ah n) := by rw [swapEffect, good]

theorem exec_fwswap_misaligned (c : s.FwClear h o.regs) (odd : (s.rdA o.a).toNat % 64 ≠ 0) :
    exec (.fwswap h o) s = .next (s.takeTrap 7 (s.rdA o.a).toNat false h.slot h.prot false) := runFw_trap c (if_pos odd)

section
variable (c : s.FwClear h o.regs) (aligned : (s.rdA o.a).toNat % 64 = 0) (header : s.onDie (s.rdA o.a).toNat 64 = true)
  (whole : s.onDie (s.rdA o.a).toNat ((s.recordLen s.sys.hbm (s.rdA o.a).toNat).getD 64) = true)
include c aligned header whole

theorem exec_fwswap_unarmed (unarmed : (s.dieOf s.rank).fwstby.toNat % 2 = 0) : exec (.fwswap h o) s = .next (s.givesP h o.p false 1) := by
  refine runFw_resP c c.1.upsets ?_
  dsimp only
  rw [if_neg (not_not.2 aligned), if_neg (by simp [header]), if_neg (by simpa [State.recordLen] using whole),
    if_pos (by simp [bit_zero, unarmed])]

theorem exec_fwswap_armed (armed : (s.dieOf s.rank).fwstby.toNat % 2 = 1) (released : s.released true = true)
    (own : ∀ f ∈ s.strm.flight, f.pos = s.strm.pos ∧ f.k = f.lat) : exec (.fwswap h o) s =
      (swapEffect h o (s.flushRange s.ck (s.rdA o.a).toNat ((s.recordLen s.sys.hbm (s.rdA o.a).toNat).getD 64) true) (s.rdA o.a).toNat
        (coreInDie s.ck)).close h (addedCycles false h.prot) s := by
  refine (runFw_clear c).trans (congrArg (Eff.close h _ s) ?_)
  have empty : (s.strm.flight.any fun f => !(f.pos = s.strm.pos && f.k = f.lat)) = false := by
    simpa [List.any_eq_false] using own
  dsimp only
  rw [if_neg (not_not.2 aligned), if_neg (by simp [header]), if_neg (by simpa [State.recordLen] using whole),
    if_neg (by simp [bit_zero, armed]), if_neg (by simp [released]), if_neg (ne_true_of_eq_false empty), swapEffect]
  simp only [State.closeRecord, show leBytes 4 0 = [0, 0, 0, 0] from rfl]
  rfl

end

theorem State.rdG_clean (clean : s.strm.upsets = []) (n : Nat) : s.rdG n = SMap.get 0 n s.strm.g := by
  rw [State.rdG, State.struck_clean clean]; simp
theorem State.rdA_clean (clean : s.strm.upsets = []) (n : Nat) : s.rdA n = SMap.get 0 n s.strm.a := by
  rw [State.rdA, State.struck_clean clean]; simp

/-- The registers of a new image: its hand-over record, the old revision and the core's number (R501). -/
theorem State.swapImage_registers (clean : s.strm.upsets = []) (pd ah n : Nat) :
    let t := s.swapImage pd ah n
    t.rdA 0 = BitVec.ofNat 64 ah ∧ t.rdG 0 = s.strm.fwrev ∧ t.rdG 1 = BitVec.ofNat 32 (coreInDie s.ck) ∧ (∀ i, 2 ≤ i → t.rdG i = 0) ∧
      ∀ i, 1 ≤ i → t.rdA i = 0 := by
  intro t
  have g (i : Nat) : t.rdG i = SMap.get 0 i (SMap.set 0 0 s.strm.fwrev (SMap.set 0 1 (BitVec.ofNat 32 (coreInDie s.ck)) [])) :=
    State.rdG_clean (s := t) clean i
  have a (i : Nat) : t.rdA i = SMap.get 0 i [(0, BitVec.ofNat 64 ah)] := State.rdA_clean (s := t) clean i
  refine ⟨a 0, ?_, ?_, fun i large => ?_, fun i large => ?_⟩
  · rw [g, SMap.get_set_self]
  · rw [g, SMap.get_set_ne _ _ _ (by decide), SMap.get_set_self]
  · rw [g, SMap.get_set_ne _ _ _ (by omega), SMap.get_set_ne _ _ _ (by omega)]; rfl
  · rw [a]; exact if_neg (by omega)

/-- What the swap leaves and sets besides the registers. -/
theorem State.swapImage_context (pd ah n : Nat) :
    let t := s.swapImage pd ah n
    let d := s.dieOf s.rank
    t.core.fwst = .probation ∧ (∃ x, t.core.fwShadow = some x ∧ x.g = s.strm.g ∧ x.a = s.strm.a ∧ x.p = s.strm.p) ∧
      t.core.fwRecord = some (ah, n) ∧ t.core.fwDue = s.sys.dc + d.fwwd.toNat / 2 ^ 32 ∧ t.core.fwPd = pd ∧ t.strm.run = .running ∧
      t.strm.latch.taken = some ⟨d.fwsent.toNat % 2 ^ 28, 0⟩ ∧ t.strm.fwrev = BitVec.ofNat 32 (d.fwsent.toNat / 2 ^ 32) ∧
      t.core.loc = s.core.loc ∧ t.sys.hbm = s.sys.hbm := by
  refine ⟨rfl, ⟨_, rfl, rfl, rfl, rfl⟩, rfl, rfl, rfl, rfl, rfl, rfl, rfl, rfl⟩

theorem State.read_closeRecord (ah n x : Nat) (outside : x < ah + 24 ∨ ah + 29 ≤ x) :
    Memory.read (s.closeRecord ah n).sys.hbm x = Memory.read s.sys.hbm x := by
  rw [State.closeRecord, State.read_hbmWrite, if_neg (by simp [leBytes_length]; omega)]

/-- The record is closed by a write of HBM. -/
theorem State.closeRecord_frame (ah n : Nat) : (s.closeRecord ah n).strm = s.strm ∧ (s.closeRecord ah n).core = s.core ∧
    (s.closeRecord ah n).sid = s.sid ∧ s.KeepsDies (s.closeRecord ah n) := by
  refine ⟨State.hbmWrite_strm .., ?_, ?_, State.keepsDies_hbmWrite ..⟩
  · rw [State.closeRecord, State.hbmWrite_eq]
  · rw [State.closeRecord, State.hbmWrite_eq]

end

/-- Settles O12: FWSWAP's effect, on what the write-back of the record's lines leaves of the stream and of the die's image registers. -/
theorem imageSwap : Obligations.ImageSwap := by
  unfold Obligations.ImageSwap
  intro h o s c ah d len
  refine ⟨exec_fwswap_misaligned c, fun aligned header whole => ⟨exec_fwswap_unarmed c aligned header whole, fun armed released own => ?_⟩⟩
  intro s1
  have runs : exec (.fwswap h o) s = (swapEffect h o s1 ah (coreInDie s.ck)).close h (addedCycles false h.prot) s :=
    exec_fwswap_armed c aligned header whole armed released own
  have issue : s.KeepsIssue s1 := s.keepsIssue_flushRange ..
  have dies : s.KeepsDies s1 := s.keepsDies_flushRange ..
  refine ⟨fun bad => ?_, ?_⟩
  · rw [runs, swapEffect_none bad, ← State.resP_clean (by rw [issue.strm]; exact c.1.upsets)]
    rfl
  · intro n good bs t
    obtain ⟨strm, core, sid, closed⟩ := s1.closeRecord_frame ah n
    have clean : (s1.closeRecord ah n).strm.upsets = [] := by rw [strm, issue.strm]; exact c.1.upsets
    obtain ⟨a0, g0, g1, gs, as⟩ := State.swapImage_registers clean o.p ah n
    obtain ⟨fwst, shadow, record, due, pd, run, taken, rev, loc, hbm⟩ := (s1.closeRecord ah n).swapImage_context o.p ah n
    have ck : (s1.closeRecord ah n).ck = s.ck := by rw [State.ck, sid, issue.sid]; rfl
    have rank : (s1.closeRecord ah n).rank = s.rank := congrArg rankOfCore ck
    obtain ⟨_, _, die⟩ := (dies.trans closed).die s.rank
    rw [strm, issue.strm] at shadow g0
    rw [rank, die] at due taken rev
    rw [(dies.trans closed).dc] at due
    rw [ck] at g1
    have swapped : t = ((s1.closeRecord ah n).swapImage o.p ah n).spends (addedCycles false h.prot) := rfl
    clear_value t
    subst swapped
    simp only [State.rdG_spends, State.rdA_spends]
    refine ⟨?_, fwst, shadow, record, due, pd, run, taken, a0, g0, g1, gs, as, rev, loc.trans (congrArg Core.loc core), fun x outside => ?_⟩
    · rw [runs, swapEffect_some good]
      exact Eff.close_ok ..
    · exact (congrArg (Memory.read · x) hbm).trans (s1.read_closeRecord ah n x outside)

end Sys2Proof.Machine
end

section
/-! SUPPORT. FRZ (18 R424 to R441, 23 R509), and O54. -/

namespace Sys2Proof.Machine

/-! ### What pins, areas and descriptors leave unchanged -/

theorem State.SameButDies.refl (s : State) : s.SameButDies s := rfl

theorem State.SameButDies.foldl {α : Type} {f : State → α → State} (step : ∀ (t : State) a, t.SameButDies (f t a)) (l : List α) (s : State) :
    s.SameButDies (l.foldl f s) := by
  induction l generalizing s with
  | nil => exact .refl s
  | cons a l ih => exact (step s a).trans (ih _)

theorem State.SameButDies.hbm {s t : State} (same : s.SameButDies t) : t.sys.hbm = s.sys.hbm := by rw [same]
theorem State.SameButDies.launches {s t : State} (same : s.SameButDies t) : t.sys.launches = s.sys.launches := by rw [same]

section
variable (s : State) (pkg : Nat)

theorem State.sameButDies_unpin (vdev va : Nat) : s.SameButDies (s.unpin pkg vdev va) := by
  unfold State.unpin
  dsimp only
  split
  · exact rfl
  · exact .refl s

theorem State.sameButDies_pinAll (ps : List (Nat × Nat)) : s.SameButDies (s.pinAll pkg ps) :=
  .foldl (fun t _ => t.sameButDies_pin ..) ps s
theorem State.sameButDies_unpinAll (ps : List (Nat × Nat)) : s.SameButDies (s.unpinAll pkg ps) :=
  .foldl (fun t _ => t.sameButDies_unpin ..) ps s

/-- The pins of an area in place of those of an earlier one. -/
theorem State.sameButDies_repin (ps qs : List (Nat × Nat)) : s.SameButDies ((s.pinAll pkg ps).unpinAll pkg qs) :=
  (s.sameButDies_pinAll pkg ps).trans (State.sameButDies_unpinAll ..)

theorem State.sameButSys_hbmReplace (a n : Nat) (m : Memory) : s.SameButSys (s.hbmReplace a n m) :=
  State.SameButSys.trans (t := { s with sys := { s.sys with hbm := s.sys.hbm.filter fun (b, _) => b < a || a + n ≤ b } }) rfl
    (.foldl (fun t _ => t.sameButSys_hbmWrite ..) _ _)

theorem State.sameButSys_areaWrite (a : Area) (off : Nat) (b : Blob) : s.SameButSys (s.areaWrite a off b) := by
  refine .foldl (fun t ⟨_, p⟩ => ?_) _ _
  dsimp only
  split
  · exact .refl t
  · exact t.sameButSys_hbmReplace ..

/-- REQUIRED goes to local memory, or to the commit buffer of a speculative task. -/
theorem State.writeRequired_frame (a n : Nat) : (s.writeRequired a n).strm = s.strm ∧ (s.writeRequired a n).sys = s.sys := by
  unfold State.writeRequired State.localWrite
  split
  · exact ⟨rfl, rfl⟩
  · dsimp only
    split
    · exact ⟨rfl, rfl⟩
    · exact ⟨rfl, rfl⟩

/-- Arming leaves the issuing stream as it is. -/
theorem State.armLaunch_strm (lk : Nat) (l : Launch) (a : Area) (table : List (Sect × Nat)) : (s.armLaunch lk l a table).strm = s.strm := by
  have put (t : State) (x : Option Launch) : (t.putLaunch lk x).strm = t.strm := rfl
  rw [State.armLaunch, put, (State.sameButSys_areaWrite ..).strm, (State.sameButDies_repin ..).strm]

end

theorem State.launchOf_putLaunch (s : State) (lk : Nat) (x : Option Launch) : (s.putLaunch lk x).launchOf lk = x := SMap.get_set_self ..

/-- An armed launch has its area, and goes on as it was. -/
theorem State.armLaunch_launch (s : State) (lk : Nat) (l : Launch) (a : Area) (table : List (Sect × Nat)) :
    ∃ m, (s.armLaunch lk l a table).launchOf lk = some m ∧ m.area = some a ∧ m.phase = l.phase ∧ m.maps = l.maps :=
  ⟨_, State.launchOf_putLaunch _ lk (some _), rfl, rfl, rfl⟩

/-- A descriptor of 64 bytes within the window that no poison touches is read. -/
theorem State.descriptor_inside {s : State} {a : Nat} (inside : a + 64 ≤ winSize s.core.pool) (clean : s.core.poisoned a 64 = false)
    (go : List Byte → Eff) : s.descriptor a go = go (s.localBytes a 64) := by
  rw [State.descriptor, State.localFault_window inside]
  dsimp only
  rw [if_neg (ne_true_of_eq_false clean)]

/-- A field of a block of local memory is the number that stands there. -/
theorem State.fld_localBytes (s : State) (a : Nat) {n off k : Nat} (fits : off + k ≤ n) : fld (s.localBytes a n) off k = s.localNat (a + off) k := by
  rw [fld, State.localNat]
  refine congrArg natOfBytes (List.ext_getElem (by simp [State.localBytes]; omega) fun i lt _ => ?_)
  simp [State.localBytes, Nat.add_assoc]

/-! ### FRZ.arm, FRZ.dirty and FRZ.dis (R424 to R426, R509) -/

section
variable {s : State} {h : Hdr}

/-- What arming answers, where the area that the descriptor names can be had or not. -/
def armAnswer (h : Hdr) (p : Nat) (s1 : State) (arm : Area → State) : Option Area → Eff
  | none => .ok (s1.resP h p false 1)
  | some a => .ok ((arm a).resP h p true 1)

theorem armAnswer_refused {p : Nat} {s1 : State} {arm : Area → State} {found : Option Area} (clean : s1.strm.upsets = []) (none : found = none) :
    (armAnswer h p s1 arm found).close h (addedCycles false h.prot) s = .next (s1.givesP h p false 1) := by
  rw [none, armAnswer, Eff.close_ok, State.resP_clean clean]

theorem armAnswer_arms {p : Nat} {s1 : State} {arm : Area → State} {found : Option Area} {a : Area} (clean : (arm a).strm.upsets = [])
    (some : found = some a) :
    (armAnswer h p s1 arm found).close h (addedCycles false h.prot) s = .next ((arm a).givesP h p true 1) := by
  rw [some, armAnswer, Eff.close_ok, State.resP_clean clean]

section
variable {o : FrzArmArgs} (c : s.FwClear h o.regs) (inside : (s.rdA o.a).toNat + 64 ≤ winSize s.core.pool)
  (clean : s.core.poisoned (s.rdA o.a).toNat 64 = false)
include c inside clean

theorem exec_frzArm_unknown (launch : (s.rdG o.g).toNat % 2 ^ 28 ≠ 0) (unknown : s.frzLaunch (s.rdG o.g).toNat = none) :
    exec (.frzArm h o) s = .next (s.givesP h o.p false 1) := by
  refine runFw_resP c c.1.upsets ((State.descriptor_inside inside clean _).trans ((if_neg (by simpa [isDeviceId] using launch)).trans ?_))
  rw [unknown]

theorem exec_frzArm_launch (launch : (s.rdG o.g).toNat % 2 ^ 28 ≠ 0) {l : Launch} (known : s.frzLaunch (s.rdG o.g).toNat = some l) :
    let gl := (s.rdG o.g).toNat
    let ab := (s.rdA o.a).toNat
    let table := (layout (s.sections l gl)).1
    let req := (layout (s.sections l gl)).2
    let off := match table.find? (·.1.typ = 4) with
      | some (_, n) => n
      | none => 0
    exec (.frzArm h o) s = (armAnswer h o.p (s.writeRequired ab req)
      (fun a => (s.writeRequired ab req).armLaunch (launchKey s.pkg gl) l a table) (s.areaOf (s.localBytes ab 64) req off)).close h
        (addedCycles false h.prot) s := by
  intro gl ab table req off
  refine (runFw_clear c).trans (congrArg (Eff.close h _ s) ?_)
  refine (State.descriptor_inside inside clean _).trans ((if_neg (by simpa [isDeviceId] using launch)).trans ?_)
  rw [known]
  dsimp only
  split
  · next area =>
    have found : s.areaOf (s.localBytes ab 64) req off = none := area
    rw [found, armAnswer]
  · next a area =>
    have found : s.areaOf (s.localBytes ab 64) req off = some a := area
    rw [found, armAnswer]

theorem exec_frzArm_device (device : (s.rdG o.g).toNat % 2 ^ 28 = 0) :
    let v := (s.rdG o.g).toNat / 0x10000000
    let ab := (s.rdA o.a).toNat
    let req := natSum ((s.deviceRanges s.pkg v).map fun x => pad64 (16 + (x.2 + 7) / 8))
    let old := match (s.vdevOf s.pkg v).devArea with
      | some b => b.pages
      | none => []
    exec (.frzArm h o) s = (armAnswer h o.p (s.writeRequired ab req) (fun a =>
      (((s.writeRequired ab req).pinAll s.pkg a.pages).unpinAll s.pkg old).modVdev s.pkg v fun x =>
        { x with devArea := some a, devDirty := if x.devArea.isSome then x.devDirty else [] })
      (s.areaOf (s.localBytes ab 64) req 0)).close h (addedCycles false h.prot) s := by
  refine (runFw_clear c).trans (congrArg (Eff.close h _ s) ?_)
  refine (State.descriptor_inside inside clean _).trans ((if_pos (by simpa [isDeviceId] using device)).trans ?_)
  dsimp only
  split
  · next area => rw [area]; rfl
  · next area => rw [area]; rfl

end

section
variable {o : FrzDirtyArgs} (c : s.FwClear h o.regs) (inside : (s.rdA o.a).toNat + 64 ≤ winSize s.core.pool)
  (clean : s.core.poisoned (s.rdA o.a).toNat 64 = false)
include c inside clean

theorem exec_frzDirty_unarmed (launch : (s.rdG o.g).toNat % 2 ^ 28 ≠ 0)
    (unarmed : ∀ l, s.launchOf (launchKey s.pkg (s.rdG o.g).toNat) = some l → l.area = none) :
    exec (.frzDirty h o) s = .next (s.givesP h o.p false 1) := by
  refine runFw_resP c c.1.upsets ((State.descriptor_inside inside clean _).trans ((if_neg (by simpa [isDeviceId] using launch)).trans ?_))
  split
  · rfl
  · next l known => rw [unarmed l known]

theorem exec_frzDirty_launch (launch : (s.rdG o.g).toNat % 2 ^ 28 ≠ 0) {l : Launch} {a : Area}
    (known : s.launchOf (launchKey s.pkg (s.rdG o.g).toNat) = some l) (armed : l.area = some a) : exec (.frzDirty h o) s =
      .next (((s.areaWrite a a.dirtyOff (blobOf (s.launchDirty l (s.rdG o.g).toNat))).putLaunch (launchKey s.pkg (s.rdG o.g).toNat)
        (some { l with dirty := [] })).givesP h o.p true 1) := by
  have strm := (s.sameButSys_areaWrite a a.dirtyOff (blobOf (s.launchDirty l (s.rdG o.g).toNat))).strm
  refine runFw_resP c ((congrArg Stream.upsets strm).trans c.1.upsets)
    ((State.descriptor_inside inside clean _).trans ((if_neg (by simpa [isDeviceId] using launch)).trans ?_))
  rw [known]
  dsimp only
  rw [armed]

theorem exec_frzDirty_deviceUnarmed (device : (s.rdG o.g).toNat % 2 ^ 28 = 0)
    (unarmed : (s.vdevOf s.pkg ((s.rdG o.g).toNat / 0x10000000)).devArea = none) :
    exec (.frzDirty h o) s = .next (s.givesP h o.p false 1) := by
  refine runFw_resP c c.1.upsets ((State.descriptor_inside inside clean _).trans ((if_pos (by simpa [isDeviceId] using device)).trans ?_))
  dsimp only
  rw [unarmed]

theorem exec_frzDirty_device (device : (s.rdG o.g).toNat % 2 ^ 28 = 0) {a : Area}
    (armed : (s.vdevOf s.pkg ((s.rdG o.g).toNat / 0x10000000)).devArea = some a) :
    let v := (s.rdG o.g).toNat / 0x10000000
    exec (.frzDirty h o) s = .next (((s.areaWrite a 0 (blobOf (s.deviceDirty s.pkg v (s.vdevOf s.pkg v).devDirty))).modVdev s.pkg v fun x =>
      { x with devDirty := [] }).givesP h o.p true 1) := by
  intro v
  have strm := (s.sameButSys_areaWrite a 0 (blobOf (s.deviceDirty s.pkg v (s.vdevOf s.pkg v).devDirty))).strm
  refine runFw_resP c ((congrArg Stream.upsets strm).trans c.1.upsets)
    ((State.descriptor_inside inside clean _).trans ((if_pos (by simpa [isDeviceId] using device)).trans ?_))
  dsimp only
  rw [armed]

end

/-- What FRZ.dis makes of the state. -/
def State.disarm (s : State) (gl : Nat) : State :=
  if isDeviceId gl then match (s.vdevOf s.pkg (gl / 0x10000000)).devArea with
    | some a => (s.unpinAll s.pkg a.pages).modVdev s.pkg (gl / 0x10000000) fun x => { x with devArea := none, devDirty := [] }
    | none => s
  else match s.launchOf (launchKey s.pkg gl) with
    | some l => match l.area with
      | some a => (s.unpinAll s.pkg a.pages).putLaunch (launchKey s.pkg gl) (some { l with area := none, dirty := if l.repl then l.dirty else [] })
      | none => s
    | none => s

theorem State.disarm_device {gl : Nat} (device : gl % 2 ^ 28 = 0) : (s.disarm gl).strm = s.strm ∧ (s.disarm gl).core = s.core ∧
    (s.disarm gl).sys.hbm = s.sys.hbm ∧ ((s.disarm gl).vdevOf s.pkg (gl / 0x10000000)).devArea = none := by
  rw [State.disarm, if_pos (by simpa [isDeviceId] using device)]
  split
  · next a armed =>
    have same := s.sameButDies_unpinAll s.pkg a.pages
    exact ⟨same.strm, same.core, same.hbm, congrArg Vdev.devArea (State.vdevOf_modVdev_self ..)⟩
  · next unarmed => exact ⟨rfl, rfl, rfl, unarmed⟩

theorem State.disarm_launch {gl : Nat} (launch : gl % 2 ^ 28 ≠ 0) : (s.disarm gl).strm = s.strm ∧ (s.disarm gl).core = s.core ∧
    (s.disarm gl).sys.hbm = s.sys.hbm ∧ ∀ l, (s.disarm gl).launchOf (launchKey s.pkg gl) = some l → l.area = none := by
  rw [State.disarm, if_neg (by simpa [isDeviceId] using launch)]
  split
  · next l known =>
    split
    · next a armed =>
      have same := s.sameButDies_unpinAll s.pkg a.pages
      refine ⟨same.strm, same.core, same.hbm, fun m found => ?_⟩
      rw [State.launchOf_putLaunch] at found
      obtain rfl := Option.some.inj found
      rfl
    · next unarmed =>
      refine ⟨rfl, rfl, rfl, fun m found => ?_⟩
      obtain rfl := Option.some.inj (known.symm.trans found)
      exact unarmed
  · next unknown => exact ⟨rfl, rfl, rfl, fun l found => absurd (unknown.symm.trans found) nofun⟩

theorem exec_frzDis_clear {o : FrzDisArgs} (c : s.FwClear h o.regs) :
    exec (.frzDis h o) s = .next ((s.disarm (s.rdG o.g).toNat).spends (addedCycles false h.prot)) := runFw_ok c rfl

end

theorem freezeArming : Claims.FreezeArming := by
  unfold Claims.FreezeArming
  refine ⟨fun h o s c inside clean => ⟨fun launch => ⟨exec_frzArm_unknown c inside clean launch, fun l known => ?arm⟩, fun device => ?armDevice⟩,
    fun h o s c inside clean => ?dirty, fun h o s c => ?dis⟩
  case arm =>
    have runs := exec_frzArm_launch c inside clean launch known
    have upsets (n : Nat) : (s.writeRequired (s.rdA o.a).toNat n).strm.upsets = [] := by rw [(s.writeRequired_frame _ n).1]; exact c.1.upsets
    refine ⟨fun none => runs.trans (armAnswer_refused (upsets _) none), fun a found => ⟨_, runs.trans (armAnswer_arms ?_ found), rfl,
      State.armLaunch_launch ..⟩⟩
    rw [State.armLaunch_strm]
    exact upsets _
  case armDevice =>
    have runs := exec_frzArm_device c inside clean device
    intro v req
    obtain ⟨strm, sys⟩ := s.writeRequired_frame (s.rdA o.a).toNat req
    refine ⟨fun none => runs.trans (armAnswer_refused ((congrArg Stream.upsets strm).trans c.1.upsets) none), fun a found => ?_⟩
    have same (old : List (Nat × Nat)) := (s.writeRequired (s.rdA o.a).toNat req).sameButDies_repin s.pkg a.pages old
    exact ⟨_, runs.trans (armAnswer_arms ((congrArg Stream.upsets ((same _).strm.trans strm)).trans c.1.upsets) found),
      (same _).strm.trans strm, congrArg Vdev.devArea (State.vdevOf_modVdev_self ..), (same _).hbm.trans (congrArg Sys.hbm sys),
      (same _).launches.trans (congrArg Sys.launches sys)⟩
  case dirty =>
    exact ⟨exec_frzDirty_unarmed c inside clean, fun l a launch known armed => exec_frzDirty_launch c inside clean launch known armed,
      exec_frzDirty_deviceUnarmed c inside clean, fun a device armed => exec_frzDirty_device c inside clean device armed⟩
  case dis =>
    refine ⟨_, exec_frzDis_clear c, ?_⟩
    by_cases device : (s.rdG o.g).toNat % 2 ^ 28 = 0
    · obtain ⟨strm, core, hbm, area⟩ := s.disarm_device device
      exact ⟨strm, core, hbm, fun launch => absurd device launch, fun _ => area⟩
    · obtain ⟨strm, core, hbm, area⟩ := s.disarm_launch device
      exact ⟨strm, core, hbm, fun _ => area, fun same => absurd same device⟩

/-! ### Yield requests (R417, R421) -/

theorem State.coreOf_putCore_ne {s : State} {k j : Nat} (ne : j ≠ k) (c : Core) : (s.putCore k c).coreOf j = s.coreOf j := by
  unfold State.putCore
  split
  · next own =>
    have other : j ≠ s.ck := own ▸ ne
    exact (if_neg other).trans (if_neg other).symm
  · by_cases own : j = s.ck
    · exact (if_pos own).trans (if_pos own).symm
    · exact (if_neg own).trans ((SMap.get_set_ne _ _ _ ne).trans (if_neg own).symm)

theorem State.coreOf_modCore (s : State) (k j : Nat) (f : Core → Core) :
    (s.modCore k f).coreOf j = if j = k then f (s.coreOf j) else s.coreOf j := by
  split
  · next eq => rw [eq, State.coreOf_modCore_self]
  · next ne => exact State.coreOf_putCore_ne ne _

/-- A yield request with its deadline (R417). -/
def Core.asked (due : Word) (c : Core) : Core := { c with yreq := true, yrem := due }

/-- The deadline that a core's firmware context sets. -/
def State.deadline (s : State) (k : Nat) : Word := BitVec.ofNat 32 ((s.strmOf (sidOf k 8)).yctl.toNat % 0x2000000)

/-- The request is raised on every core of a list. -/
def State.askAll (s : State) (rs : List (Nat × Nat)) : State := rs.foldl (fun t r => t.modCore r.2 (Core.asked (t.deadline r.2))) s

theorem State.askAll_frame (rs : List (Nat × Nat)) (s : State) :
    (s.askAll rs).strm = s.strm ∧ (s.askAll rs).streams = s.streams ∧ (s.askAll rs).sys = s.sys ∧
      ∀ j, (s.askAll rs).coreOf j = if j ∈ rs.map Prod.snd then (s.coreOf j).asked (s.deadline j) else s.coreOf j := by
  induction rs generalizing s with
  | nil => exact ⟨rfl, rfl, rfl, fun j => rfl⟩
  | cons r rs ih =>
    obtain ⟨strm, streams, sys, core⟩ := ih (s.modCore r.2 (Core.asked (s.deadline r.2)))
    have head : (s.modCore r.2 (Core.asked (s.deadline r.2))).streams = s.streams := by
      unfold State.modCore State.putCore; split <;> rfl
    have deadline (j : Nat) : (s.modCore r.2 (Core.asked (s.deadline r.2))).deadline j = s.deadline j := by
      rw [State.deadline, State.strmOf_modCore, State.deadline]
    refine ⟨strm.trans (State.modCore_strm ..), streams.trans head, sys.trans (State.modCore_sys ..), fun j => (core j).trans ?_⟩
    rw [deadline, State.coreOf_modCore, List.map_cons]
    by_cases own : j = r.2
    · rw [if_pos own, if_pos (List.mem_cons.2 (.inl own)), own]
      split <;> rfl
    · rw [if_neg own]
      simp only [List.mem_cons, own, false_or]

section
variable {s : State} {h : Hdr}

theorem exec_frzY_unarmed {o : FrzYArgs} (c : s.FwClear h o.regs)
    (unarmed : ∀ l, s.frzLaunch (s.rdG o.g).toNat = some l → l.area = none) : exec (.frzY h o) s = .next (s.givesP h o.p false 1) := by
  refine runFw_resP c c.1.upsets ?_
  dsimp only
  split
  · rfl
  · next l known => rw [if_pos (by rw [unarmed l known]; rfl)]

theorem exec_frzY_armed {o : FrzYArgs} (c : s.FwClear h o.regs) {l : Launch} (known : s.frzLaunch (s.rdG o.g).toNat = some l)
    (armed : l.area ≠ none) : exec (.frzY h o) s = .next (((s.askAll l.residents).putLaunch (launchKey s.pkg (s.rdG o.g).toNat)
      (some { l with goes := false })).givesP h o.p true 1) := by
  refine runFw_resP c ((congrArg Stream.upsets (s.askAll_frame l.residents |>.1)).trans c.1.upsets) ?_
  dsimp only
  rw [known]
  exact if_neg (by simpa using armed)

theorem exec_frzGo_unknown {o : FrzGoArgs} (c : s.FwClear h o.regs) (unknown : s.frzLaunch (s.rdG o.g).toNat = none) :
    exec (.frzGo h o) s = .next (s.givesP h o.p false 1) := by
  refine runFw_resP c c.1.upsets ?_
  dsimp only
  rw [unknown]

theorem exec_frzGo_known {o : FrzGoArgs} (c : s.FwClear h o.regs) {l : Launch} (known : s.frzLaunch (s.rdG o.g).toNat = some l) :
    let lk := launchKey s.pkg (s.rdG o.g).toNat
    exec (.frzGo h o) s = .next (((((l.residents.foldl (fun t c => t.withdrawYield c.2) s).modLaunch lk
      fun y => { y with goes := true }).restoreFree lk).resP h o.p true 1).spends (addedCycles false h.prot)) := by
  refine runFw_ok c ?_
  dsimp only
  rw [known]

/-! ### FRZ (R427 to R430) -/

/-- Whether every part of a launch is known and passes a test. -/
def State.partsPass (s : State) (lk : Nat) (test : Launch → Bool) : Bool := (s.launchParts lk).all fun j => (s.launchOf j).any test

theorem State.partsPass_iff {lk : Nat} {test : Launch → Bool} {p : Launch → Prop} (same : ∀ l, test l = true ↔ p l) :
    s.partsPass lk test = true ↔ ∀ j ∈ s.launchParts lk, ∃ l, s.launchOf j = some l ∧ p l := by
  simp only [State.partsPass, List.all_eq_true, Option.any_eq_true, same]

/-- FRZ answers, and is no longer outstanding. -/
def State.frzEnds (s : State) (h : Hdr) (p : Nat) (ok : Bool) : State :=
  ((s.setStrm fun x => { x with rbar := .none }).resP h p ok 1).spends (addedCycles false h.prot)

/-- The freeze goes to every die of the launch, and the instruction waits. -/
def State.frzSent (s : State) (lk : Nat) : State :=
  (((s.launchParts lk).foldl (fun t j => t.modLaunch j fun p => p.wave.foldl (fun q r => q.setFreeze r 1 0 0) p) s).setStrm fun x =>
    { x with rbar := .sent 0 }).setLatch fun y => { y with wait := true }

/-- A part that can be frozen. -/
def Launch.freezable (p : Launch) : Bool := p.area.isSome && p.phase = .running && p.freezing.isEmpty
def Launch.reached (p : Launch) : Bool := p.wave.all fun r => p.stage r != 0
def Launch.completed (p : Launch) : Bool := p.wave.all fun r => p.stage r = 3
def Launch.sound (p : Launch) : Bool := p.area.all Area.sound

theorem Launch.freezable_iff (p : Launch) : p.freezable = true ↔ p.area ≠ none ∧ p.phase = .running ∧ p.freezing = [] := by
  simp [Launch.freezable, Option.isSome_iff_ne_none, and_assoc]
theorem Launch.reached_iff (p : Launch) : p.reached = true ↔ ∀ r ∈ p.wave, p.stage r ≠ 0 := by simp [Launch.reached]
theorem Launch.completed_iff (p : Launch) : p.completed = true ↔ ∀ r ∈ p.wave, p.stage r = 3 := by simp [Launch.completed]
theorem Launch.sound_iff (p : Launch) : p.sound = true ↔ ∀ a, p.area = some a → a.sound = true := by
  simp [Launch.sound, Option.all_eq_true]

/-- The parts whose save area has lost a page fail (R430). -/
def State.failUnsound (s : State) (lk : Nat) : State := (s.launchParts lk).foldl (fun t j =>
  if (s.launchOf j).any Launch.sound then t else t.unsaveable j (64 * (4 * launchPkg j))) s

section
variable {o : FrzArgs} (c : s.FwClear h o.regs) {l : Launch}
include c

theorem exec_frz_unknown (unknown : s.frzLaunch (s.rdG o.g).toNat = none) : exec (.frz h o) s = .next (s.frzEnds h o.p false) := by
  refine runFw_ok c ?_
  dsimp only
  rw [unknown]

theorem exec_frz_sends (known : s.frzLaunch (s.rdG o.g).toNat = some l) (free : s.strm.rbar = .none) (plain : l.bare = none)
    (ready : s.partsPass (launchKey s.pkg (s.rdG o.g).toNat) Launch.freezable = true) :
    exec (.frz h o) s = .next (s.frzSent (launchKey s.pkg (s.rdG o.g).toNat)) := by
  refine runFw_wait c ?_
  dsimp only
  rw [known]
  dsimp only
  rw [if_pos free]
  have passed : (!(s.partsPass (launchKey s.pkg (s.rdG o.g).toNat) Launch.freezable)) = false := by rw [ready]; rfl
  refine if_neg ?_
  rw [plain]
  exact ne_true_of_eq_false passed

theorem exec_frz_refused (known : s.frzLaunch (s.rdG o.g).toNat = some l) (free : s.strm.rbar = .none)
    (barred : l.bare ≠ none ∨ s.partsPass (launchKey s.pkg (s.rdG o.g).toNat) Launch.freezable = false) :
    exec (.frz h o) s = .next (s.frzEnds h o.p false) := by
  refine runFw_ok c ?_
  dsimp only
  rw [known]
  dsimp only
  rw [if_pos free]
  refine if_pos ?_
  rcases barred with bare | unready
  · simp [Option.isSome_iff_ne_none.2 bare]
  · rw [Bool.or_eq_true, Bool.not_eq_true']; exact .inr unready

section
variable (known : s.frzLaunch (s.rdG o.g).toNat = some l) (sent : s.strm.rbar ≠ .none)
include known sent

theorem exec_frz_lost (lost : s.partsPass (launchKey s.pkg (s.rdG o.g).toNat) Launch.reached = false) :
    exec (.frz h o) s = .next (s.frzEnds h o.p false) := by
  refine runFw_ok c ?_
  dsimp only
  rw [known]
  dsimp only
  rw [if_neg sent]
  refine if_pos ?_
  rw [Bool.not_eq_true']; exact lost

section
variable (reached : s.partsPass (launchKey s.pkg (s.rdG o.g).toNat) Launch.reached = true)
include reached

theorem exec_frz_waits (open_ : s.partsPass (launchKey s.pkg (s.rdG o.g).toNat) Launch.completed = false) :
    exec (.frz h o) s = .next (s.setLatch fun y => { y with wait := true }) := by
  refine runFw_wait c ?_
  dsimp only
  rw [known]
  dsimp only
  rw [if_neg sent]
  refine (if_neg ?_).trans (if_neg (ne_true_of_eq_false open_))
  rw [Bool.not_eq_true', Bool.not_eq_false]; exact reached

section
variable (done : s.partsPass (launchKey s.pkg (s.rdG o.g).toNat) Launch.completed = true)
include done

theorem exec_frz_finishes (sound : s.partsPass (launchKey s.pkg (s.rdG o.g).toNat) Launch.sound = true) : exec (.frz h o) s =
    .next (((s.launchParts (launchKey s.pkg (s.rdG o.g).toNat)).foldl State.finishFreeze s).frzEnds h o.p true) := by
  refine runFw_ok c ?_
  dsimp only
  rw [known]
  dsimp only
  rw [if_neg sent]
  refine (if_neg ?_).trans ((if_pos done).trans (if_pos sound))
  rw [Bool.not_eq_true', Bool.not_eq_false]; exact reached

/-- A part whose save area has lost a page fails with the launch (R430). -/
theorem exec_frz_unsaveable (unsound : s.partsPass (launchKey s.pkg (s.rdG o.g).toNat) Launch.sound = false) :
    exec (.frz h o) s = .next ((s.failUnsound (launchKey s.pkg (s.rdG o.g).toNat)).frzEnds h o.p false) := by
  refine runFw_ok c ?_
  dsimp only
  rw [known]
  dsimp only
  rw [if_neg sent]
  refine (if_neg ?_).trans ((if_pos done).trans (if_neg (ne_true_of_eq_false unsound)))
  rw [Bool.not_eq_true', Bool.not_eq_false]; exact reached

end
end
end
end

/-! ### FRZ.res (R438) -/

/-- Whether an image can be resumed under a launch key. -/
def State.resumeBarred (s : State) (gl vdev mask : Nat) (i : Image) : Bool :=
  ((s.launchOf (launchKey s.pkg gl)).any fun l => l.phase != .frozen) || 16 ≤ vdev || isDeviceId gl ||
    (maskDies mask s.pkg).length < i.ndie || !(s.framesFit i s.pkg vdev) || !(s.regionsFit s.pkg vdev gl (i.entries vdev gl))

theorem State.resumeBarred_iff {gl vdev mask : Nat} {i : Image} : s.resumeBarred gl vdev mask i = false ↔
    (∀ l, s.launchOf (launchKey s.pkg gl) = some l → l.phase = .frozen) ∧ vdev < 16 ∧ gl % 2 ^ 28 ≠ 0 ∧
      i.ndie ≤ (maskDies mask s.pkg).length ∧ s.framesFit i s.pkg vdev = true ∧ s.regionsFit s.pkg vdev gl (i.entries vdev gl) = true := by
  simp [State.resumeBarred, isDeviceId, and_assoc, Option.any_eq_false]

section
variable {o : FrzResArgs} (c : s.FwClear h o.regs) (inside : (s.rdA o.a).toNat + 64 ≤ winSize s.core.pool)
  (clean : s.core.poisoned (s.rdA o.a).toNat 64 = false)
include c inside clean

/-- FRZ.res reads the image's base, virtual device and dies from the descriptor. -/
theorem exec_frzRes_clear :
    let gl := (s.rdG o.g).toNat
    let vdev := s.localNat ((s.rdA o.a).toNat + 24) 4
    let mask := s.localNat ((s.rdA o.a).toNat + 32) 32
    exec (.frzRes h o) s = ((match s.imageAt s.pkg vdev (s.localNat (s.rdA o.a).toNat 8) with
      | none => .ok (s.resP h o.p false 1)
      | some i => if s.resumeBarred gl vdev mask i then .ok (s.resP h o.p false 1)
        else .ok ((s.resume (launchKey s.pkg gl) mask vdev i).resP h o.p true 1)) : Eff).close h (addedCycles false h.prot) s := by
  refine (runFw_clear c).trans (congrArg (Eff.close h _ s) ((State.descriptor_inside inside clean _).trans ?_))
  dsimp only
  rw [s.fld_localBytes _ (by decide), s.fld_localBytes _ (by decide), s.fld_localBytes _ (by decide)]
  rfl

end

end

theorem freezeInstructions : Claims.FreezeInstructions := by
  unfold Claims.FreezeInstructions
  refine ⟨fun h o s c => ⟨exec_frzY_unarmed c, fun l known armed => ?yields⟩, fun h o s c => ⟨exec_frzGo_unknown c, fun l known => exec_frzGo_known c known⟩,
    fun h o s c => ⟨exec_frz_unknown c, fun l known free => ?orders, fun l known sent => ?completes⟩, fun h o s c inside clean => ?resumes⟩
  case yields =>
    obtain ⟨strm, streams, sys, core⟩ := s.askAll_frame l.residents
    refine ⟨_, exec_frzY_armed c known armed, strm, streams, (congrArg Sys.hbm sys :), fun r mem => ?_⟩
    have asked := (core r.2).trans (if_pos (List.mem_map_of_mem mem))
    have same (t : State) (x : Option Launch) (j : Nat) : (t.putLaunch (launchKey s.pkg (s.rdG o.g).toNat) x).coreOf j = t.coreOf j := rfl
    rw [same, asked]
    exact ⟨rfl, rfl, rfl⟩
  case orders =>
    have ready := s.partsPass_iff (lk := launchKey s.pkg (s.rdG o.g).toNat) Launch.freezable_iff
    refine ⟨fun plain all => exec_frz_sends c known free plain (ready.2 all), fun barred => exec_frz_refused c known free ?_⟩
    exact barred.imp_right fun some => Bool.eq_false_iff.2 fun pass => some (ready.1 pass)
  case completes =>
    have reached := s.partsPass_iff (lk := launchKey s.pkg (s.rdG o.g).toNat) Launch.reached_iff
    have completed := s.partsPass_iff (lk := launchKey s.pkg (s.rdG o.g).toNat) Launch.completed_iff
    have sound := s.partsPass_iff (lk := launchKey s.pkg (s.rdG o.g).toNat) Launch.sound_iff
    refine ⟨fun all => ?_, fun done unsound => ⟨s.failUnsound (launchKey s.pkg (s.rdG o.g).toNat), ?_⟩, fun all open_ => ?_, fun lost => ?_⟩
    · have done := completed.2 fun j mem => (all j mem).imp fun p ⟨found, stage, _⟩ => ⟨found, stage⟩
      have pass := reached.2 fun j mem => (all j mem).imp fun p ⟨found, stage, _⟩ => ⟨found, fun r w => by rw [stage r w]; decide⟩
      exact exec_frz_finishes c known sent pass done (sound.2 fun j mem => (all j mem).imp fun p ⟨found, _, a⟩ => ⟨found, a⟩)
    · have pass := reached.2 fun j mem => (done j mem).imp fun p ⟨found, stage⟩ => ⟨found, fun r w => by rw [stage r w]; decide⟩
      exact exec_frz_unsaveable c known sent pass (completed.2 done) (Bool.eq_false_iff.2 fun all => unsound (sound.1 all))
    · exact exec_frz_waits c known sent (reached.2 all) (Bool.eq_false_iff.2 fun done => open_ (completed.1 done))
    · exact exec_frz_lost c known sent (Bool.eq_false_iff.2 fun pass => lost (reached.1 pass))
  case resumes =>
    have runs := exec_frzRes_clear c inside clean
    dsimp only at runs ⊢
    refine ⟨fun none => ?_, fun i found => ⟨fun barred => ?_, fun fits => ?_⟩⟩
    · rw [runs, none, ← State.resP_clean c.1.upsets]
      rfl
    · rw [runs, found]
      dsimp only
      rw [if_pos (Bool.not_eq_false _ ▸ fun open_ => barred (State.resumeBarred_iff.1 open_)), ← State.resP_clean c.1.upsets]
      rfl
    · rw [runs, found]
      dsimp only
      rw [if_neg (ne_true_of_eq_false (State.resumeBarred_iff.2 fits))]
      rfl

/-- Settles O54: each instruction's effect by the cases of the launch and of its area. -/
theorem freezeCommands : Obligations.FreezeCommands := ⟨freezeArming, freezeInstructions⟩

end Sys2Proof.Machine
end

section
/-! SUPPORT. Pre-emption and freeze (18 R417 to R421, R427, R440), and O21. -/

namespace Sys2Proof.Machine

section
variable {s : State} {k : Nat}

theorem exec_forcedSave_eq (s : State) (k : Nat) : exec (.forcedSave k) s =
    .next (if (s.coreOf k).yreq = true ∧ (s.coreOf k).yrem = 0 then
      ((((s.forceStream k 0).forceStream k 1).forceStream k 2).forceStream k 3).forceStream k 4 else s) := by
  rw [exec_forcedSave, execForcedSave]
  simp only [Bool.and_eq_true, decide_eq_true_eq, show List.range 5 = [0, 1, 2, 3, 4] from rfl, List.foldl_cons, List.foldl_nil]

/-- A running vector stream that nothing holds stops where it stands. -/
theorem State.strmOf_forceStream {u : Nat} (vector : u < 4) (run : (s.strmOf (sidOf k u)).run = .running)
    (wait : (s.strmOf (sidOf k u)).latch.wait = false) (untied : ∀ f ∈ (s.strmOf (sidOf k u)).flight, f.prot ≠ 3) :
    (s.forceStream k u).strmOf (sidOf k u) = (s.strmOf (sidOf k u)).stopForced := by
  have noTie : ((s.strmOf (sidOf k u)).flight.any fun f => decide (f.prot = 3)) = false := by
    simpa [List.any_eq_false] using untied
  rw [State.forceStream]
  dsimp only
  rw [if_pos (by simp [run, wait, noTie]), if_neg (by omega), State.fwQueue, State.strmOf_modCore, State.strmOf_putStrm_self]

theorem exec_freezeReceive_idle {die lk : Nat} {l : Launch} (known : s.launchOf lk = some l) (stage : l.stage die ≠ 1) :
    exec (.freezeReceive die lk) s = .next s := by
  rw [exec_freezeReceive, execFreezeReceive, known]
  exact if_pos (by simpa using stage)

theorem exec_freezeReceive_takes {die lk : Nat} {l : Launch} (known : s.launchOf lk = some l) (stage : l.stage die = 1) :
    exec (.freezeReceive die lk) s = .next (((l.onDie die).foldl (fun t c =>
      (List.range 5).foldl (fun v n => v.forceStream c.2 n) ((t.dropAhead c.2).modCore c.2 fun x => { x with yreq := true, yrem := 0 }))
      (s.putLaunch lk (some (l.setFreeze die 2 0 0)))).freezeAdvance lk die) := by
  rw [exec_freezeReceive, execFreezeReceive, known]
  exact if_neg (by simpa using stage)

/-! ### Parking (R420, R421) -/

theorem exec_corePark_idle (idle : (s.coreOf k).yreq = false ∨ (s.coreOf k).launch = 0) : exec (.corePark k) s = .next s := by
  rw [exec_corePark, execCorePark]
  exact if_pos (by rcases idle with unasked | free <;> simp [*])

/-- A core whose streams have stopped, with its engines stopping. -/
def State.parkingCore (s : State) (k : Nat) : State := (s.putCore k { s.coreOf k with parking := true }).stopEngines k

/-- Whether its engines have come to rest. -/
def State.engineRest (s s1 : State) (k : Nat) : Bool := ([5, 6, 7].all fun u => (s1.strmOf (sidOf k u)).stopped) &&
  s1.enginesDone k ((s.launchOf (s.coreOf k).launch).any fun l => SMap.get 0 (rankOfCore k) l.freezing != 0)

theorem exec_corePark_parks (asked : (s.coreOf k).yreq = true) (busy : (s.coreOf k).launch ≠ 0)
    (stopped : ∀ u, u < 5 → (s.strmOf (sidOf k u)).stopped = true) :
    exec (.corePark k) s = .next (if s.engineRest (s.parkingCore k) k then
      ((s.parkingCore k).parkCore k).freezeAdvance (s.coreOf k).launch (rankOfCore k) else s.parkingCore k) := by
  rw [exec_corePark, execCorePark]
  refine if_neg ?_
  simp [asked, busy, stopped]

theorem State.engineRest_iff (s s1 : State) (k : Nat) : s.engineRest s1 k = true ↔ (∀ u, 5 ≤ u → u < 8 → (s1.strmOf (sidOf k u)).stopped = true) ∧
    s1.enginesDone k ((s.launchOf (s.coreOf k).launch).any fun l => SMap.get 0 (rankOfCore k) l.freezing != 0) = true := by
  rw [State.engineRest, Bool.and_eq_true]
  refine and_congr_left' ⟨fun all u low high => ?_, fun all => ?_⟩
  · exact List.all_eq_true.1 all u (by simp; omega)
  · simp [all]

/-! ### Swaps (R440) -/

theorem exec_coreSwap_idle {l : Launch} (known : s.launchOf (s.coreOf k).launch = some l) (empty : l.oldestParked (rankOfCore k) = none) :
    exec (.coreSwap k) s = .next s := by
  rw [exec_coreSwap, execCoreSwap]
  dsimp only
  rw [known]
  dsimp only
  rw [empty]

/-- The engines of a core that swaps are stopping. -/
def State.swapping (s : State) (k : Nat) : State :=
  let x := s.strmOf (sidOf k 4)
  ((if x.run = .running then (s.putStrm (sidOf k 4) x.stopForced).dropAhead k else s).stopEngines k).modCore k fun d => { d with parking := true }

theorem exec_coreSwap_swaps {l : Launch} {lc : Nat} (known : s.launchOf (s.coreOf k).launch = some l)
    (oldest : l.oldestParked (rankOfCore k) = some lc) (unasked : (s.coreOf k).yreq = false)
    (runs : s.launchRuns (s.coreOf k).launch (rankOfCore k) = true) (parked : (l.parked.any fun x => x.1 = lc && x.2.isSome) = true)
    (blocked : (s.coreOf k).parking = true ∨ s.coreBlocked k = true) : exec (.coreSwap k) s =
      .next (if (s.swapping k).enginesDone k false then (((s.swapping k).parkCore k).modLaunch (s.coreOf k).launch fun y =>
        { y with maps := SMap.set none (s.coreOf k).lcore none y.maps }).restoreCore (s.coreOf k).launch lc k else s.swapping k) := by
  rw [exec_coreSwap, execCoreSwap]
  dsimp only
  rw [known]
  dsimp only
  rw [oldest]
  dsimp only
  rw [if_neg, if_neg]
  · rw [State.swapping, apply_ite Host.Outcome.next]
  · rcases blocked with parking | blocked <;> simp [*]
  · have there : (!(l.parked.any fun (n, x) => n = lc && x.isSome)) = false := by rw [Bool.not_eq_false']; exact parked
    rw [unasked, runs, there]; decide

/-! ### Cut markers (R427) -/

/-- The first message of the fabric is a cut marker of a die that takes part in the cut. -/
theorem exec_cutMarker_first {m : Msg} {l : Launch} (first : s.sys.msgs[0]? = some m) (kind : m.kind = 14)
    (known : s.launchOf (launchKey (m.dst / 4) (launchId m.launch)) = some l) (stage : 2 ≤ l.stage m.dst) :
    exec (.cutMarker 0) s = .next ((State.putLaunch { s with sys := { s.sys with msgs := s.sys.msgs.eraseIdx 0 } }
      (launchKey (m.dst / 4) (launchId m.launch)) (some (l.setFreeze m.dst (l.stage m.dst) (l.sentDims m.dst)
        (l.heldDims m.dst ||| 2 ^ m.op)))).freezeAdvance (launchKey (m.dst / 4) (launchId m.launch)) m.dst) := by
  rw [exec_cutMarker, execCutMarker, first]
  dsimp only
  rw [known]
  refine if_neg ?_
  simp only [kind, List.take_zero, List.any_nil]
  simpa using (show 1 < l.stage m.dst from stage)

end

/-- Settles O21: each event answers by its cases; the stop of a stream is `strmOf_forceStream`. -/
theorem freezeEvents : Obligations.FreezeEvents := by
  unfold Obligations.FreezeEvents
  refine ⟨exec_forcedSave_eq, fun s k u vector run wait untied => ?_, fun s die lk l known =>
      ⟨exec_freezeReceive_idle known, exec_freezeReceive_takes known⟩,
    fun s k idle => exec_corePark_idle idle, fun s k asked busy stopped => ?_, fun s k lc l known oldest unasked runs parked blocked =>
      exec_coreSwap_swaps known oldest unasked runs parked blocked, fun s k l known empty => exec_coreSwap_idle known empty,
    fun s i gone => ?_, fun s m l first kind known stage => exec_cutMarker_first first kind known stage⟩
  · rw [State.strmOf_forceStream vector run wait untied]
    exact ⟨rfl, rfl, rfl, rfl⟩
  · have parks := exec_corePark_parks asked busy stopped
    refine ⟨fun rests => parks.trans (congrArg _ (if_pos ?_)), fun moving => parks.trans (congrArg _ (if_neg ?_))⟩
    · exact (State.engineRest_iff ..).2 rests
    · exact fun rests => moving ((State.engineRest_iff ..).1 rests)
  · rw [exec_cutMarker, execCutMarker, gone]

end Sys2Proof.Machine
end

section
/-! SUPPORT. What a request does at its destination (20 R451, 10 R234, 11 R284, 12 R297, 14 R356, 20 R470), and O22. -/

namespace Sys2Proof.Machine

/-! ### Far stores and parity updates: what they leave of the state, and the bytes that they write -/

section
variable {s : State} {m : Msg}

theorem State.sameButSys_granuleCount (s : State) (r a : Nat) : s.SameButSys (s.granuleCount r a) := by
  unfold State.granuleCount
  split
  · exact .refl s
  · exact s.sameButSys_modDie ..

theorem State.sameButSys_msgWrite (s : State) (m : Msg) (vdev va pa : Nat) (bs : List Byte) (poison : Bool) :
    s.SameButSys (s.msgWrite m vdev va pa bs poison) := by
  have clean : s.SameButSys ((((s.hbmWrite pa bs).granuleCount m.src pa).markDirty m.launchHere va).markDevDirty (m.dst / 4) vdev va) :=
    (((s.sameButSys_hbmWrite pa bs).trans (State.sameButSys_granuleCount ..)).trans (State.sameButSys_markDirty ..)).trans
      (State.sameButSys_markDevDirty ..)
  unfold State.msgWrite
  dsimp only
  split
  · exact clean.trans rfl
  · exact clean

theorem State.read_msgWrite (s : State) (m : Msg) (vdev va pa : Nat) (bs : List Byte) (poison : Bool) (x : Nat) :
    Memory.read (s.msgWrite m vdev va pa bs poison).sys.hbm x = if pa ≤ x ∧ x < pa + bs.length then bs.getD (x - pa) 0
      else Memory.read s.sys.hbm x := by
  have hbm : (s.msgWrite m vdev va pa bs poison).sys.hbm = (s.hbmWrite pa bs).sys.hbm := by
    have marked : ((((s.hbmWrite pa bs).granuleCount m.src pa).markDirty m.launchHere va).markDevDirty (m.dst / 4) vdev va).sys.hbm =
        (s.hbmWrite pa bs).sys.hbm := by rw [State.markDevDirty_hbm, State.markDirty_hbm, State.granuleCount_hbm]
    unfold State.msgWrite
    dsimp only
    split
    · exact marked
    · exact marked
  rw [hbm, State.read_hbmWrite]

/-! ### A request of a launch that is there, under a tag that is not purged -/

section
variable (live : m.launchHere = 0 ∨ ∃ l, s.launchOf m.launchHere = some l) (kept : s.filtered m.launchHere m.tag = false)
include live kept

theorem applies : ¬ (m.launchHere != 0 && (s.launchOf m.launchHere).isNone) = true ∧
    ¬ (purgeable m.kind && m.launchHere != 0 && s.filtered m.launchHere m.tag) = true := by
  refine ⟨?_, by simp [kept]⟩
  rcases live with none | ⟨l, known⟩
  · simp [none]
  · simp [known]

theorem State.applyReq_store (kind : m.kind = 1) (memory : isDieReg m.pa = false)
    (allowed : m.checked = true → s.msgAllowed m m.vdev m.addr true = true) :
    s.applyReq m = (s.msgWrite m m.vdev m.addr m.pa m.data m.poison, some (m.reply 0 0 [])) := by
  obtain ⟨there, unpurged⟩ := applies live kept
  rw [State.applyReq]
  dsimp only
  rw [if_neg there, if_neg unpurged, kind]
  exact (if_neg (ne_true_of_eq_false memory)).trans (if_neg (by simpa using allowed))

theorem State.applyReq_storeRefused (kind : m.kind = 1) (memory : isDieReg m.pa = false) (checked : m.checked = true)
    (barred : s.msgAllowed m m.vdev m.addr true = false) : s.applyReq m = (s, some (m.reply 2 0 [])) := by
  obtain ⟨there, unpurged⟩ := applies live kept
  rw [State.applyReq]
  dsimp only
  rw [if_neg there, if_neg unpurged, kind]
  exact (if_neg (ne_true_of_eq_false memory)).trans (if_pos (by rw [checked, barred]; rfl))

theorem State.applyReq_atomic (kind : m.kind = 2) (far : m.atomSp = false) (memory : isDieReg m.pa = false)
    (allowed : m.checked = true → s.msgAllowed m m.vdev m.addr true = true) :
    let r := s.msgAtoms (AtomOp.ofMsg m).count m none
    s.applyReq m = (r.1, some { m.reply 0 0 (r.2.atomOld (AtomOp.ofMsg m)) with poison := r.2.poison }) := by
  obtain ⟨there, unpurged⟩ := applies live kept
  rw [State.applyReq]
  dsimp only
  rw [if_neg there, if_neg unpurged, kind]
  exact (if_neg (ne_true_of_eq_false far)).trans ((if_neg (ne_true_of_eq_false memory)).trans (if_neg (by simpa using allowed)))

theorem State.applyReq_parity (kind : m.kind = 20) : s.applyReq m = (s.setHbm (Memory.writeBytes (m.dst * 0x400000000000 + m.addr)
    (List.zipWith (fun (a b : Byte) => a ^^^ b) (Memory.readBytes s.sys.hbm (m.dst * 0x400000000000 + m.addr) m.data.length) m.data) s.sys.hbm),
      some (m.reply 0 0 [])) := by
  obtain ⟨there, unpurged⟩ := applies live kept
  rw [State.applyReq]
  dsimp only
  rw [if_neg there, if_neg unpurged, kind]
  rfl

theorem State.applyReq_post (kind : m.kind = 5 ∨ m.kind = 7) {k : Nat} (core : s.coreFor m.launchHere m.dlc = some k) :
    s.applyReq m = (s.inboundPost k m, none) := by
  obtain ⟨there, unpurged⟩ := applies live kept
  rw [State.applyReq]
  dsimp only
  rw [if_neg there, if_neg unpurged, core]
  rcases kind with kind | kind
  · rw [kind]; rfl
  · rw [kind]; rfl

theorem State.applyReq_notify (kind : m.kind = 8) {k : Nat} (core : s.coreFor m.launchHere m.dlc = some k) :
    s.applyReq m = (s.modCore k fun c => if c.gated then
        { c with latches := SMap.modify 0 (m.args.getD 0 0) (· ||| BitVec.ofNat 32 (m.args.getD 1 0)) c.latches }
      else { c with notifyOr := c.notifyOr ++ [(m.args.getD 0 0, BitVec.ofNat 32 (m.args.getD 1 0))] }, some (m.reply 0 0 [])) := by
  obtain ⟨there, unpurged⟩ := applies live kept
  rw [State.applyReq]
  dsimp only
  rw [if_neg there, if_neg unpurged, core, kind]
  rfl

theorem State.applyReq_landing (kind : m.kind = 10) {k : Nat} (core : s.coreFor m.launchHere m.dlc = some k) :
    s.applyReq m = (s.modCore k fun c => c.landWord m.addr (m.args.getD 0 0) (m.op = 1), some (m.reply 0 0 [])) := by
  obtain ⟨there, unpurged⟩ := applies live kept
  rw [State.applyReq]
  dsimp only
  rw [if_neg there, if_neg unpurged, core, kind]
  rfl

theorem State.applyReq_arrival (kind : m.kind = 11) (op : m.op = 0) {k : Nat} (core : s.coreFor m.launchHere m.dlc = some k) :
    let r := (s.coreOf k).barrArrive m.addr (m.args.getD 0 0)
    s.applyReq m = (s.putCore k r.1, some (m.reply 0 0 (leBytes 4 r.2))) := by
  obtain ⟨there, unpurged⟩ := applies live kept
  rw [State.applyReq]
  dsimp only
  rw [if_neg there, if_neg unpurged, core, kind]
  exact if_pos op

theorem State.applyReq_nowhere (kind : m.kind = 5 ∨ m.kind = 7 ∨ m.kind = 8 ∨ m.kind = 10 ∨ m.kind = 11)
    (nowhere : s.coreFor m.launchHere m.dlc = none) : s.applyReq m = (s, some (m.reply 1 0 [])) := by
  obtain ⟨there, unpurged⟩ := applies live kept
  rw [State.applyReq]
  dsimp only
  rw [if_neg there, if_neg unpurged, nowhere]
  rcases kind with kind | kind | kind | kind | kind <;> rw [kind] <;> rfl

end

/-! ### Elements of an atomic (R265 to R267, R297) -/

theorem Msg.atomNext_atomStep (whole : 9 ≤ m.args.length) (old : List Byte) (bad : Bool) : (m.atomStep old bad).atomNext = m.atomNext + 1 := by
  have len : (m.args.take 9).length = 9 := by rw [List.length_take]; omega
  simp [Msg.atomStep, Msg.atomNext, List.getD_eq_getElem?_getD, len]

/-- What one element makes of HBM, before its marks and counts. -/
theorem State.hbm_atomElem (s : State) (pa : Nat) (a : AtomOp) (e : Nat) :
    (s.atomElem pa a e).1.sys.hbm = match a.elem e (Memory.readBytes s.sys.hbm (pa + a.size * e) a.size) with
      | none => s.sys.hbm
      | some new => Memory.writeBytes (pa + a.size * e) new s.sys.hbm := by
  rw [State.atomElem]
  cases a.elem e (Memory.readBytes s.sys.hbm (pa + a.size * e) a.size) with
  | none => rfl
  | some new =>
    dsimp only
    split
    · exact State.hbmWrite_hbm ..
    · exact State.hbmWrite_hbm ..

theorem State.hbm_msgAtom (s : State) (m : Msg) : (s.msgAtom m none).1.sys.hbm = (s.atomElem m.pa (AtomOp.ofMsg m) m.atomNext).1.sys.hbm := by
  rw [State.msgAtom]
  dsimp only
  rw [State.granuleCount_hbm]
  split
  · rw [State.markDevDirty_hbm, State.markDirty_hbm]
  · rfl

/-- The bytes of HBM after one element. -/
def atomAfter (s : State) (m : Msg) (x : Nat) : Byte :=
  let a := AtomOp.ofMsg m
  let at_ := m.pa + a.size * m.atomNext
  match a.elem m.atomNext (Memory.readBytes s.sys.hbm at_ a.size) with
  | none => Memory.read s.sys.hbm x
  | some new => if at_ ≤ x ∧ x < at_ + new.length then new.getD (x - at_) 0 else Memory.read s.sys.hbm x

theorem State.read_msgAtom (s : State) (m : Msg) (x : Nat) : Memory.read (s.msgAtom m none).1.sys.hbm x = atomAfter s m x := by
  rw [State.hbm_msgAtom, State.hbm_atomElem, atomAfter]
  cases (AtomOp.ofMsg m).elem m.atomNext
      (Memory.readBytes s.sys.hbm (m.pa + (AtomOp.ofMsg m).size * m.atomNext) (AtomOp.ofMsg m).size) with
  | none => rfl
  | some new => exact Memory.read_writeBytes ..

theorem AtomOp.size_scalar {a : AtomOp} (scalar : a.kind ≠ 2) : a.size = 4 ∧ a.count = 1 := by
  simp [AtomOp.count, AtomOp.size, AtomOp.width, scalar]

theorem leBytes_natOfBytes (bs : List Byte) : leBytes bs.length (natOfBytes bs) = bs := by
  induction bs with
  | nil => rfl
  | cons b bs ih =>
    have low : (b.toNat + 256 * natOfBytes bs) / 256 = natOfBytes bs := by have := b.isLt; omega
    rw [List.length_cons, natOfBytes, leBytes, low, ih]
    congr 1
    apply BitVec.eq_of_toNat_eq
    have := b.isLt
    simp only [BitVec.toNat_ofNat]
    omega

/-- An atomic of one word: its one element, with the old word and its poison in the message. -/
theorem State.msgAtoms_scalar {a : AtomOp} (op : AtomOp.ofMsg m = a) (scalar : a.kind ≠ 2) (first : m.args.length = 9) :
    let old := Memory.readBytes s.sys.hbm m.pa 4
    (s.msgAtoms 1 m none).1 = (s.msgAtom m none).1 ∧ (s.msgAtoms 1 m none).2.atomOld a = old ∧
      (s.msgAtoms 1 m none).2.poison = (m.poison || s.hbmPoisoned m.pa 4) := by
  obtain ⟨size, count⟩ := AtomOp.size_scalar scalar
  have next : m.atomNext = 0 := by simp [Msg.atomNext, List.getD_eq_getElem?_getD, first]
  have one : s.msgAtoms 1 m none = s.msgAtom m none := by
    rw [State.msgAtoms, if_pos (by rw [op, count, next]; decide)]
    rfl
  have message : (s.msgAtom m none).2 = m.atomStep (Memory.readBytes s.sys.hbm m.pa 4) (s.hbmPoisoned m.pa 4) := by
    rw [State.msgAtom, op, next]
    simp only [State.atomElem, Msg.atomOld, next, size, Nat.mul_zero, List.take_zero, List.nil_append, Nat.add_zero]
  intro old
  rw [one, message]
  refine ⟨rfl, ?_, rfl⟩
  have width : a.width = 4 := by simp [AtomOp.width, scalar]
  have len : (m.args.take 9).length = 9 := by rw [List.length_take]; omega
  have kept : (m.atomStep old (s.hbmPoisoned m.pa 4)).args.getD 10 0 = natOfBytes old := by
    simp [Msg.atomStep, List.getD_eq_getElem?_getD, len]
  rw [Msg.atomOld, Msg.atomNext_atomStep (by omega), next, kept, width, size]
  have whole : old.length = 4 := Memory.readBytes_length ..
  rw [← whole, leBytes_natOfBytes]
  simp

/-! ### Words of local memory: landing words and barrier words (R284, R356) -/

theorem Core.landWord_spec (c : Core) (a value : Nat) (add : Bool) :
    Memory.readNat (c.landWord a value add).loc a 4 = ((if add then Memory.readNat c.loc a 4 else 0) + value) % 2 ^ 32 ∧
    SMap.get false (a / 4) (c.landWord a value add).feEmpty = false ∧
    ∀ x, x < a ∨ a + 4 ≤ x → Memory.read (c.landWord a value add).loc x = Memory.read c.loc x := by
  have loc : (c.landWord a value add).loc =
      Memory.writeBytes a (leBytes 4 (((if add then Memory.readNat c.loc a 4 else 0) + value) % 2 ^ 32)) c.loc := Core.loc_writeLocal ..
  refine ⟨?_, ?_, fun x outside => ?_⟩
  · rw [loc, readNat_writeBytes_leBytes]
    exact Nat.mod_mod ..
  · simp only [Core.landWord, SMap.get_set_self]
  · rw [loc]
    exact read_writeBytes_outside _ (by rwa [leBytes_length])

theorem readNat_append_leBytes (mem : Memory) (a v w : Nat) :
    Memory.readNat (Memory.writeBytes a (leBytes 4 v ++ leBytes 4 w) mem) a 4 = v % 2 ^ 32 ∧
    Memory.readNat (Memory.writeBytes a (leBytes 4 v ++ leBytes 4 w) mem) (a + 4) 4 = w % 2 ^ 32 := by
  have len : (leBytes 4 v ++ leBytes 4 w).length = 8 := by simp [leBytes_length]
  have first := readBytes_writeBytes_inside mem a (bs := leBytes 4 v ++ leBytes 4 w) (i := 0) (n := 4) (by omega)
  have second := readBytes_writeBytes_inside mem a (bs := leBytes 4 v ++ leBytes 4 w) (i := 4) (n := 4) (by omega)
  rw [Nat.add_zero, List.drop_zero, List.take_left' (leBytes_length 4 v)] at first
  rw [List.drop_left' (leBytes_length 4 v), List.take_of_length_le (Nat.le_of_eq (leBytes_length 4 w))] at second
  rw [← natOfBytes_readBytes, ← natOfBytes_readBytes, first, second, natOfBytes_leBytes, natOfBytes_leBytes]
  exact ⟨rfl, rfl⟩

theorem Core.barrArrive_word (c : Core) (o t : Nat) :
    let count := (Memory.readNat c.loc o 4 + 1) % 2 ^ 32
    let phase := Memory.readNat c.loc (o + 4) 4
    (c.barrArrive o t).2 = phase ∧ Memory.readNat (c.barrArrive o t).1.loc o 4 = (if t ≤ count then 0 else count) ∧
    Memory.readNat (c.barrArrive o t).1.loc (o + 4) 4 = if t ≤ count then (phase + 1) % 2 ^ 32 else phase := by
  intro count phase
  have small : phase < 2 ^ 32 := by
    have bound := natOfBytes_lt (Memory.readBytes c.loc (o + 4) 4)
    rwa [natOfBytes_readBytes, Memory.readBytes_length] at bound
  rw [Core.barrArrive_eq c o t rfl rfl, Core.loc_writeLocal]
  obtain ⟨first, second⟩ := readNat_append_leBytes c.loc o (barrNext t count phase).1 (barrNext t count phase).2
  refine ⟨rfl, first.trans ?_, second.trans ?_⟩
  · rw [barrNext]
    split
    · rfl
    · exact Nat.mod_mod ..
  · rw [barrNext]
    split
    · exact Nat.mod_mod ..
    · exact Nat.mod_eq_of_lt small

/-! ### Cone signals (R193, R460) -/

theorem State.inboundPost_signal (kind : m.kind = 7) {k : Nat} (resident : isParkKey k = false) :
    s.inboundPost k m = s.putCore k { s.coreOf k with inbound := (s.coreOf k).inbound ++ [m] } := by
  rw [State.inboundPost]
  dsimp only
  rw [if_pos kind, if_neg (by simp [resident])]

/-- A signal that is the only message of the reserve is not held back. -/
theorem Core.inboundHeld_signal (kind : m.kind = 7) {c : Core} (only : c.inbound = [m]) : c.inboundHeld = [] := by
  simp [Core.inboundHeld, only, kind]

theorem State.drainInbound_signal (kind : m.kind = 7) {k : Nat} (resident : isParkKey k = false) (only : (s.coreOf k).inbound = [m]) :
    s.drainInbound k = (s.putCore k { s.coreOf k with
      inbound := [], conePend := (s.coreOf k).conePend ++ [.add (m.args.getD 0 0) (m.args.getD 1 0)] }).answer m (m.reply 0 0 []) := by
  rw [State.drainInbound, if_neg (ne_true_of_eq_false resident), only, List.foldl_cons, List.foldl_nil]
  dsimp only
  rw [Core.inboundHeld_signal kind only, if_neg (by simp), if_pos kind, only, List.erase_cons_head]

end

/-- Settles O22: a request is applied by its kind, and each kind's effect is that of its operation on the words that it names. -/
theorem requestEffects : Obligations.RequestEffects := by
  unfold Obligations.RequestEffects
  intro s m live kept
  refine ⟨fun kind memory allowed clean => ?store, State.applyReq_storeRefused live kept, fun kind far memory allowed whole => ?atomic,
    fun k core => ⟨fun kind => State.applyReq_post live kept kind core, fun kind resident =>
      ⟨State.inboundPost_signal kind resident, State.drainInbound_signal kind resident⟩, fun kind => ?notify, fun kind => ?landing,
      fun kind op => ?arrival⟩, fun kind => ?parity, State.applyReq_nowhere live kept⟩
  case store =>
    rw [State.applyReq_store live kept kind memory allowed]
    have same := s.sameButSys_msgWrite m m.vdev m.addr m.pa m.data m.poison
    exact ⟨rfl, by rw [same], same.strm, fun x => s.read_msgWrite m m.vdev m.addr m.pa m.data m.poison x⟩
  case atomic =>
    refine ⟨Msg.atomNext_atomStep whole _ _, fun x => s.read_msgAtom m x, fun scalar first => ?_⟩
    obtain ⟨size, count⟩ := AtomOp.size_scalar scalar
    obtain ⟨memory', old, poison⟩ := State.msgAtoms_scalar (s := s) (m := m) rfl scalar first
    have next : m.atomNext = 0 := by simp [Msg.atomNext, List.getD_eq_getElem?_getD, first]
    have runs := State.applyReq_atomic live kept kind far memory allowed
    rw [count] at runs
    have at_ : m.pa + (AtomOp.ofMsg m).size * m.atomNext = m.pa := by rw [next, Nat.mul_zero, Nat.add_zero]
    refine ⟨?_, fun x => ?_⟩
    · rw [runs, old, poison, at_, size]
    · rw [runs, memory']
      exact s.read_msgAtom m x
  case notify =>
    refine ⟨_, State.applyReq_notify live kept kind core, fun awake => s.modCore_congr k (if_neg (ne_true_of_eq_false awake)), fun gated => ?_⟩
    rw [State.coreOf_modCore_self, if_pos gated]
    exact SMap.get_set_self ..
  case landing =>
    refine ⟨_, State.applyReq_landing live kept kind core, ?_⟩
    rw [State.coreOf_modCore_self]
    obtain ⟨word, full, others⟩ := (s.coreOf k).landWord_spec m.addr (m.args.getD 0 0) (decide (m.op = 1))
    exact ⟨by simpa using word, full, others⟩
  case arrival =>
    obtain ⟨old, count, phase⟩ := (s.coreOf k).barrArrive_word m.addr (m.args.getD 0 0)
    refine ⟨_, (State.applyReq_arrival live kept kind op core).trans (by rw [old]), ?_⟩
    rw [State.coreOf_putCore_self]
    exact ⟨count, phase⟩
  case parity =>
    rw [State.applyReq_parity live kept kind]
    refine ⟨rfl, fun j lt => ?_⟩
    have len : (List.zipWith (fun (a b : Byte) => a ^^^ b) (Memory.readBytes s.sys.hbm (m.dst * 0x400000000000 + m.addr) m.data.length)
        m.data).length = m.data.length := by rw [List.length_zipWith, Memory.readBytes_length, Nat.min_self]
    refine (Memory.read_writeBytes ..).trans ((if_pos (by omega)).trans ?_)
    rw [Nat.add_sub_cancel_left, List.getD_eq_getElem _ _ (by omega), List.getElem_zipWith, List.getD_eq_getElem _ _ lt]
    congr 1
    rw [← Memory.readBytes_getD _ _ _ _ lt, List.getD_eq_getElem _ _ (by rw [Memory.readBytes_length]; exact lt)]

end Sys2Proof.Machine
end

section
/-! SUPPORT. Links and the arrival of messages (20 R446 to R455), and O57. -/

namespace Sys2Proof.Machine

/-! ### Links (R446 to R449, R453) -/

/-- The lowest of the ten dimensions in which two ranks differ (R447). -/
theorem nextDim_some {here dst d : Nat} (next : nextDim here dst = some d) :
    d < 10 ∧ here.testBit d ≠ dst.testBit d ∧ ∀ e, e < d → here.testBit e = dst.testBit e := by
  have differs (e : Nat) : bit (here ^^^ dst) e = true ↔ here.testBit e ≠ dst.testBit e := by
    rw [bit_eq, Nat.testBit_xor, bne_iff_ne]
  obtain ⟨found, i, lt, at_, before⟩ := List.find?_eq_some_iff_getElem.1 next
  rw [List.getElem_range] at at_
  subst at_
  refine ⟨by simpa using lt, (differs _).1 found, fun e less => ?_⟩
  have same := before e less
  rw [List.getElem_range, Bool.not_eq_true'] at same
  by_contra other
  exact absurd ((differs e).2 other) (ne_true_of_eq_false same)

section
variable {s : State} {i d : Nat} {m : Msg}

/-- The oldest message of its channel stands before the lowest dimension in which it has to move. -/
structure State.Crosses (s : State) (i : Nat) (m : Msg) (d : Nat) : Prop where
  there : s.sys.msgs[i]? = some m
  next : nextDim m.here m.dst = some d
  oldest : s.inOrder i m = true
  sent : s.ackWaits m = false
  wired : s.wired m.here d = true

theorem State.link_set (s : State) (r d : Nat) (l : Link) :
    SMap.get ⟨0, false⟩ d ((s.modDie r fun x => { x with links := SMap.set ⟨0, false⟩ d l x.links }).dieOf r).links = l := by
  rw [State.dieOf_modDie_self]
  exact SMap.get_set_self ..

/-- The link that the message crosses. -/
def State.linkOf (s : State) (m : Msg) (d : Nat) : Link := SMap.get ⟨0, false⟩ d (s.dieOf m.here).links

theorem exec_flitArrival_eq (c : s.Crosses i m d) (ok : Bool) : exec (.flitArrival i ok) s = .next (
    if (s.linkOf m d).down then (s.dropMsg i).lossRecord m.here m.dst m.launch
    else if !ok then if (s.linkOf m d).fails + 1 ≥ 16 then s.downLink m.here d
      else s.modDie m.here fun x => { x with links := SMap.set ⟨0, false⟩ d ⟨(s.linkOf m d).fails + 1, false⟩ x.links }
    else
      let s1 := s.modDie m.here fun x => { x with links := SMap.set ⟨0, false⟩ d ⟨0, false⟩ x.links }
      { s1 with sys := { s1.sys with msgs := s1.sys.msgs.set i { m with here := m.here ^^^ 2 ^ d } } }) := by
  rw [exec_flitArrival, execFlitArrival, c.there]
  dsimp only
  rw [c.next]
  dsimp only
  rw [if_neg (by simp [c.oldest, c.sent, c.wired])]
  simp only [apply_ite Host.Outcome.next]
  rfl

theorem exec_flitArrival_stays (there : s.sys.msgs[i]? = some m) (next : nextDim m.here m.dst = some d) (ok : Bool)
    (held : s.inOrder i m = false ∨ s.ackWaits m = true ∨ s.wired m.here d = false) : exec (.flitArrival i ok) s = .next s := by
  rw [exec_flitArrival, execFlitArrival, there]
  dsimp only
  rw [next]
  exact if_pos (by rcases held with h | h | h <;> simp [h])

/-! ### The failure of a link inside a package (R453) -/

theorem State.sherd_launches (s : State) (k : Nat) (r : Sherd) : (s.sherd k r).sys.launches = s.sys.launches := by
  obtain ⟨d, eq⟩ | ⟨d, addr, bs, rec, eq⟩ := s.sherd_cases k r
  · rw [eq]; rfl
  · rw [eq, State.hbmWrite_eq]; rfl

/-- The failed link is down, with its record. -/
def State.linkFailed (s : State) (die dim : Nat) : State := (s.downLink die dim).lossRecord die (die ^^^ 2 ^ dim) 0

/-- Whether a launch uses a link of its package. -/
def Launch.usesLink (l : Launch) (die dim : Nat) : Bool :=
  l.pkg = die / 4 && (freezeRanks l.ranks).contains die && (freezeRanks l.ranks).contains (die ^^^ 2 ^ dim)

theorem exec_dieLinkFailure_inside {die dim : Nat} (inside : dim < 2) : exec (.dieLinkFailure die dim) s =
    .next ((s.sys.launches.filterMap fun (lk, o) => match o with
      | some l => if l.usesLink die dim then some lk else none
      | none => none).foldl (fun t lk => t.teardown lk 24 die) (s.linkFailed die dim)) := by
  have launches : (s.linkFailed die dim).sys.launches = s.sys.launches := State.sherd_launches ..
  rw [exec_dieLinkFailure, execDieLinkFailure, if_neg (by omega), ← launches]
  rfl

end

theorem linkEvents : Claims.LinkEvents := by
  unfold Claims.LinkEvents
  refine ⟨fun s i m d ok there next oldest sent wired => ?crosses, fun s i m d ok there next held => exec_flitArrival_stays there next ok held,
    fun here dst d next => nextDim_some next, fun s die dim => rfl, fun s die dim => ⟨fun outside => if_pos outside, fun inside none => ?idle,
      fun lk l inside one pkg first second => ?ends⟩⟩
  case crosses =>
    have runs := exec_flitArrival_eq ⟨there, next, oldest, sent, wired⟩ ok
    refine ⟨fun up passed => ⟨_, runs.trans (congrArg _ ((if_neg (ne_true_of_eq_false up)).trans (if_neg (by simp [passed])))), rfl, ?_, rfl, rfl, rfl⟩,
      fun up failed few => runs.trans (congrArg _ ((if_neg (ne_true_of_eq_false up)).trans ((if_pos (by simp [failed])).trans (if_neg (by
        exact Nat.not_le.2 few))))),
      fun up failed many => runs.trans (congrArg _ ((if_neg (ne_true_of_eq_false up)).trans ((if_pos (by simp [failed])).trans (if_pos many)))),
      fun down => runs.trans (congrArg _ (if_pos down))⟩
    exact s.link_set ..
  case idle => rw [exec_dieLinkFailure_inside inside, none]; rfl
  case ends =>
    have uses : l.usesLink die dim = true := by
      rw [Launch.usesLink, Bool.and_eq_true, Bool.and_eq_true, List.contains_iff_mem, List.contains_iff_mem]
      exact ⟨⟨decide_eq_true pkg, first⟩, second⟩
    rw [exec_dieLinkFailure_inside inside, one]
    simp only [List.filterMap_cons, uses, if_true, List.filterMap_nil, List.foldl_cons, List.foldl_nil]
    rfl

/-! ### The arrival of messages (R449 to R451, R455) -/

section
variable {s : State} {i : Nat} {m : Msg} {kind : Nat}

/-- A message of a kind that has reached its destination in the order of its channel is taken from the fabric. -/
theorem State.taken_arrived (there : s.sys.msgs[i]? = some m) (same : m.kind = kind) (here : m.here = m.dst) (oldest : s.inOrder i m = true)
    (sent : s.ackWaits m = false) : s.taken i [kind] = some (m, { s with sys := { s.sys with msgs := s.sys.msgs.eraseIdx i } }) := by
  rw [State.taken, there]
  exact if_pos (by simp [same, here, oldest, sent])

theorem State.taken_none (there : s.sys.msgs[i]? = some m)
    (held : m.kind ≠ kind ∨ m.here ≠ m.dst ∨ s.inOrder i m = false ∨ s.ackWaits m = true) : s.taken i [kind] = none := by
  rw [State.taken, there]
  exact if_neg (by rcases held with h | h | h | h <;> simp [h])

theorem State.kind_of_taken {t : State} (taken : s.taken i [kind] = some (m, t)) : m.kind = kind := by
  rw [State.taken] at taken
  split at taken
  · split at taken
    · next passed =>
      obtain ⟨rfl, -⟩ := Prod.mk.inj (Option.some.inj taken)
      simp only [Bool.and_eq_true] at passed
      simpa using passed.1.1.1
    · cases taken
  · cases taken

/-- A chunk of a copy never waits for region entries (R263). -/
theorem exec_copyChunk_whole : exec (.copyChunk i true) s = .next (match s.taken i [9] with
    | some (m, t) => if t.regWaits m then s else t.arrive m
    | none => s) := by
  rw [exec_copyChunk, execCopyChunk]
  cases taken : s.taken i [9] with
  | none => rfl
  | some p =>
    have kind : p.1.kind = 9 := State.kind_of_taken taken
    exact congrArg Host.Outcome.next ((if_pos rfl).trans (if_neg (by simp [State.regWaits, kind])).symm)

/-- The numbers after those of the messages stand for the VAMOs of the streams. -/
theorem exec_atomicRequest_vamo {j sid : Nat} (vamo : s.vamos[j]? = some sid) :
    exec (.atomicRequest (s.sys.msgs.length + j)) s = .next (s.vamoStep sid) := by
  rw [exec_atomicRequest, execAtomicRequest, if_pos (Nat.le_add_right ..), Nat.add_sub_cancel_left, vamo]

end

theorem messageArrivals : Claims.MessageArrivals := by
  unfold Claims.MessageArrivals
  intro s i requests replies
  refine ⟨rfl, rfl, rfl, rfl, rfl, rfl, rfl, exec_copyChunk_whole, rfl, rfl, rfl, rfl, rfl, rfl, rfl, rfl, rfl, rfl, rfl, fun j sid => exec_atomicRequest_vamo,
    fun inside => ?_, fun m kind => State.taken_arrived, fun m kind => State.taken_none⟩
  exact if_neg (Nat.not_le.2 inside)

/-- Settles O57: a message crosses its link, or arrives, by the cases of the link and of its channel. -/
theorem linksAndMessages : Obligations.LinksAndMessages := ⟨linkEvents, messageArrivals⟩

end Sys2Proof.Machine
end

section
/-! SUPPORT. Reliable delivery, spare packages and stripes (20 R455 to R458, R466 to R473), and O59. -/

namespace Sys2Proof.Machine

/-! ### Numbered requests and their time-outs (R455 to R458) -/

section
variable {s : State} {m : Msg}

/-- A request whose reply the window keeps only has its reply sent again. -/
theorem State.receive_applied {seq sinc : Nat} {w : Window} {r : Msg} (known : SMap.get none m.src (s.dieOf m.dst).windows = some w)
    (same : w.sinc = sinc) (applied : w.replies.find? (·.1 = seq) = some (seq, r)) :
    s.receive m seq (s.dieOf m.dst).inc sinc = (s.setWindow m.dst m.src w).send { r with req := m.req } := by
  have window : optGet m.src (s.dieOf m.dst).windows = some w := known
  rw [State.receive]
  dsimp only
  rw [if_neg (by simp)]
  simp only [window, if_pos same, applied]

section
variable {id : Nat} {r : Req} (known : s.reqOf id = some r)
include known

theorem exec_requestTimeout_waits (early : s.timed r = none) : exec (.requestTimeout id) s = .next s := by
  rw [exec_requestTimeout, execRequestTimeout]
  simp only [known, early]

theorem exec_requestTimeout_again (due : s.timed r = some m) (few : r.tries < (s.dieOf m.src).retries) : exec (.requestTimeout id) s =
    .next ((s.modReq id fun q => { q with tries := q.tries + 1, sentAt := s.sys.dc }).send m) := by
  rw [exec_requestTimeout, execRequestTimeout]
  simp only [known, due]
  exact congrArg _ (if_neg (Nat.not_le.2 few))

theorem exec_requestTimeout_lost (due : s.timed r = some m) (last : (s.dieOf m.src).retries ≤ r.tries) : exec (.requestTimeout id) s =
    .next (s.loseReq r m) := by
  rw [exec_requestTimeout, execRequestTimeout]
  simp only [known, due]
  exact congrArg _ (if_pos last)

end

/-- A time-out meets a request to another package that has waited its time (R457). -/
theorem State.timed_some {r : Req} (timed : s.timed r = some m) : r.msg = some m ∧ m.src / 4 ≠ m.dst / 4 ∧
    r.sentAt + 2 ^ ((s.dieOf m.src).ftmo.toNat % 32) ≤ s.sys.dc := by
  rw [State.timed] at timed
  cases found : r.msg with
  | none => rw [found] at timed; cases timed
  | some q =>
    rw [found] at timed
    obtain ⟨due, same⟩ := Option.ite_none_right_eq_some.1 timed
    obtain rfl := Option.some.inj same
    simp only [Bool.and_eq_true, bne_iff_ne, decide_eq_true_eq] at due
    exact ⟨rfl, due.1.1, due.1.2⟩

theorem exec_sequenceSkip_applied {t : State} {i : Nat} {w : Window} {r : Msg} (taken : s.taken i [21] = some (m, t))
    (known : SMap.get none m.src (t.dieOf m.dst).windows = some w) (same : w.sinc = m.args.getD 2 0)
    (applied : w.replies.find? (·.1 = m.args.getD 0 0) = some (m.args.getD 0 0, r)) :
    exec (.sequenceSkip i) s = .next (t.send (m.reply 0 0 [])) := by
  have window : optGet m.src (t.dieOf m.dst).windows = some w := known
  have there : (w.replies.any fun x => decide (x.1 = m.args.getD 0 0)) = true := by
    have := List.find?_some applied
    exact List.any_eq_true.2 ⟨_, List.mem_of_find?_eq_some applied, this⟩
  rw [exec_sequenceSkip, execSequenceSkip, taken]
  simp only [window, if_pos same]
  rw [if_pos (by rw [there]; simp)]

end

theorem reliableDelivery : Claims.ReliableDelivery := by
  unfold Claims.ReliableDelivery
  refine ⟨fun s m seq einc sinc older => if_pos (by simpa using older), fun s m seq sinc w r known same applied => ?_,
    fun s id r m known => ⟨exec_requestTimeout_waits known, exec_requestTimeout_again known, exec_requestTimeout_lost known⟩, fun s r m timed => State.timed_some timed,
    fun s i none => ?_, fun s t i m w r taken known same applied => exec_sequenceSkip_applied taken known same applied⟩
  · rw [State.receive_applied known same applied]
    exact ⟨rfl, rfl, rfl⟩
  · rw [exec_sequenceSkip, execSequenceSkip, none]

/-! ### A spare in place of a lost package (R466 to R468, R473) -/

/-- A memory without the bytes that a test names. -/
theorem Memory.read_filter (keep : Nat → Bool) (mem : Memory) (a : Nat) :
    Memory.read (mem.filter fun (x, _) => keep x) a = if keep a then Memory.read mem a else 0 := by
  induction mem with
  | nil => split <;> rfl
  | cons e mem ih =>
    obtain ⟨x, b⟩ := e
    have head : Memory.read ((x, b) :: mem) a = if x = a then b else Memory.read mem a := rfl
    by_cases kept : keep x = true
    · have first : (((x, b) :: mem : Memory).filter fun (x, _) => keep x) = (x, b) :: mem.filter fun (x, _) => keep x :=
        List.filter_cons_of_pos (a := (x, b)) kept
      have rest : Memory.read ((x, b) :: mem.filter fun (x, _) => keep x) a = if x = a then b else
        Memory.read (mem.filter fun (x, _) => keep x) a := rfl
      rw [first, rest, ih, head]
      by_cases eq : x = a
      · rw [if_pos eq, if_pos eq, if_pos (eq ▸ kept)]
      · rw [if_neg eq, if_neg eq]
    · have first : (((x, b) :: mem : Memory).filter fun (x, _) => keep x) = mem.filter fun (x, _) => keep x :=
        List.filter_cons_of_neg (a := (x, b)) kept
      rw [first, ih, head]
      by_cases eq : x = a
      · rw [if_neg (eq ▸ kept), if_neg (eq ▸ kept)]
      · rw [if_neg eq]

/-- The cores and streams of a package restart. -/
def State.blankCores (s : State) (keys : List Nat) : State :=
  keys.foldl (fun t k => (List.range 9).foldl (fun u n => u.putStrm (sidOf k n) (Stream.blank (sidOf k n))) (t.putCore k Core.reset)) s

theorem State.sys_foldl {f : State → Nat → State} (keeps : ∀ t k, (f t k).sys = t.sys) (ks : List Nat) (s : State) :
    (ks.foldl f s).sys = s.sys := by
  induction ks generalizing s with
  | nil => rfl
  | cons k ks ih => rw [List.foldl_cons, ih, keeps]

theorem State.sys_blankCores (s : State) (keys : List Nat) : (s.blankCores keys).sys = s.sys :=
  State.sys_foldl (fun _ _ => (State.sys_foldl (fun _ _ => State.sys_putStrm ..) _ _).trans (State.sys_putCore ..)) keys s

/-- What a die of the spare begins with. -/
def State.freshDie (s : State) (r : Nat) : Die :=
  { Die.reset with
    inc := nextInc (s.dieOf r).inc, origin := s.sys.dc, parity := (s.dieOf r).parity.map fun p => { p with blocked := p.stripes, ready := false } }

/-- The dies of a package begin anew. -/
def State.freshDies (s : State) (pkg : Nat) : State :=
  [0, 1, 2, 3].foldl (fun t i => t.putDie (4 * pkg + i) (s.freshDie (4 * pkg + i))) s

theorem State.dieOf_putDie (s : State) (r j : Nat) (d : Die) : (s.putDie r d).dieOf j = if j = r then d else s.dieOf j := SMap.get_set ..

theorem State.dieOf_freshDies (s : State) (pkg : Nat) {i : Nat} (lt : i < 4) :
    (s.freshDies pkg).dieOf (4 * pkg + i) = s.freshDie (4 * pkg + i) := by
  simp only [State.freshDies, List.foldl_cons, List.foldl_nil, State.dieOf_putDie]
  interval_cases i <;> simp

theorem State.freshDies_rest (s : State) (pkg : Nat) : (s.freshDies pkg).sys.wiring = s.sys.wiring ∧
    (s.freshDies pkg).sys.planes = s.sys.planes ∧ (s.freshDies pkg).sys.hbm = s.sys.hbm := by
  have put (t : State) (r : Nat) (d : Die) : (t.putDie r d).sys = { t.sys with dies := (t.putDie r d).sys.dies } := rfl
  rw [State.freshDies, List.foldl_cons, List.foldl_cons, List.foldl_cons, List.foldl_cons, List.foldl_nil, put, put, put, put]
  exact ⟨rfl, rfl, rfl⟩

/-- The domain after a spare's installation, before its cores restart. -/
def State.spareDomain (s : State) (lost pser : Nat) : State :=
  let u := (s.freshDies lost).putPkg lost { Pkg.reset with serial := pser }
  let mine := fun (a : Nat) => physPkg a = lost && a < 0x100000000000000
  { u with sys := { u.sys with
    hbm := u.sys.hbm.filter fun (a, _) => !(mine a)
    hbmPoison := u.sys.hbmPoison.filter fun (a, _) => !(mine (4 * a))
    launches := u.sys.launches.filter fun (lk, _) => launchPkg lk != lost
    msgs := u.sys.msgs.filter fun m => m.src / 4 != lost && m.here / 4 != lost
    parityOut := u.sys.parityOut.filter fun m => m.src / 4 != lost
    reqs := u.sys.reqs.filter fun r => pkgOfCore (coreOfSid r.sid) != lost } }

/-- The cores of a package that the state lists. -/
def State.coresListed (s : State) (pkg : Nat) : List Nat :=
  ((s.ck :: s.cores.map Prod.fst) ++ (s.streams.map fun (e : Nat × Stream) => coreOfSid e.1)).eraseDups.filter fun k => pkgOfCore k = pkg

theorem State.spareFor_eq (s : State) (lost pser : Nat) :
    s.spareFor lost pser = (s.spareDomain lost pser).blankCores ((s.spareDomain lost pser).coresListed lost) := rfl

theorem State.sys_spareFor (s : State) (lost pser : Nat) : (s.spareFor lost pser).sys = (s.spareDomain lost pser).sys := by
  rw [State.spareFor_eq, State.sys_blankCores]

/-- What the spare's installation leaves in the domain: its dies, its package, the wiring, and the memory of the other packages. -/
theorem State.spareFor_spec (s : State) (lost pser : Nat) : (s.spareFor lost pser).sys.dies = (s.freshDies lost).sys.dies ∧
    ((s.spareFor lost pser).pkgOf lost).serial = pser ∧ (s.spareFor lost pser).sys.wiring = s.sys.wiring ∧
    (s.spareFor lost pser).sys.planes = s.sys.planes ∧
    (s.spareFor lost pser).sys.hbm = s.sys.hbm.filter fun (a, _) => !(physPkg a = lost && a < 0x100000000000000) := by
  rw [State.pkgOf, State.sys_spareFor]
  obtain ⟨wiring, planes, hbm⟩ := s.freshDies_rest lost
  exact ⟨rfl, congrArg Pkg.serial (SMap.get_set_self ..), wiring, planes, congrArg _ hbm⟩

/-! ### Relabel tables (R468) -/

/-- The planes that serve a rank name the spare's port in their relabel tables: one dimension. -/
def State.relabelOne (pser rank : Nat) (t : State) (d : Nat) : State :=
  match SMap.get 0 (16 * rank + d) t.sys.wiring with
  | n + 2 =>
    let p := SMap.get ⟨[], []⟩ n t.sys.planes
    { t with sys := { t.sys with
      planes := SMap.set ⟨[], []⟩ n { p with relabel := SMap.set none rank (p.portTo pser (rank % 4)) p.relabel } t.sys.planes } }
  | _ => t

/-- Only planes change, and of a plane only what it names. -/
structure State.Relabels (s t : State) : Prop where
  rest : t = { s with sys := { s.sys with planes := t.sys.planes } }
  faces : ∀ n, (SMap.get ⟨[], []⟩ n t.sys.planes).faces = (SMap.get ⟨[], []⟩ n s.sys.planes).faces

/-- A plane names the spare's port for a rank. -/
def State.Names (s : State) (pser rank n : Nat) : Prop :=
  optGet rank (SMap.get ⟨[], []⟩ n s.sys.planes).relabel = (SMap.get ⟨[], []⟩ n s.sys.planes).portTo pser (rank % 4)

theorem State.relabelOne_relabels (pser rank : Nat) (t : State) (d : Nat) : t.Relabels (t.relabelOne pser rank d) := by
  unfold State.relabelOne
  split
  · refine ⟨rfl, fun n => ?_⟩
    dsimp only
    rw [SMap.get_set]
    split
    · next eq => rw [eq]
    · rfl
  · exact ⟨rfl, fun n => rfl⟩

/-- A plane that relabels keeps what it names: each entry is the rank's port. -/
theorem State.relabelOne_keeps {pser rank : Nat} {t : State} {d other n : Nat} (named : t.Names pser other n) :
    (t.relabelOne pser rank d).Names pser other n := by
  unfold State.relabelOne
  split
  · next k plane =>
    unfold State.Names at named ⊢
    dsimp only
    rw [SMap.get_set]
    split
    · next eq =>
      subst eq
      rw [optGet, SMap.get_set]
      split
      · next eq => rw [eq]; rfl
      · exact named
    · exact named
  · exact named

/-- The plane of one dimension then names the rank's port. -/
theorem State.relabelOne_names {pser rank : Nat} {t : State} {d n : Nat} (plane : SMap.get 0 (16 * rank + d) t.sys.wiring = n + 2) :
    (t.relabelOne pser rank d).Names pser rank n := by
  unfold State.relabelOne
  rw [plane]
  unfold State.Names
  dsimp only
  rw [SMap.get_set_self, optGet, SMap.get_set_self]
  rfl

theorem State.Relabels.refl (s : State) : s.Relabels s := ⟨rfl, fun _ => rfl⟩

theorem State.Relabels.trans {s t u : State} (st : s.Relabels t) (tu : t.Relabels u) : s.Relabels u :=
  ⟨by rw [tu.rest, st.rest], fun n => (tu.faces n).trans (st.faces n)⟩

/-- Relabelling for pairs of a rank and a dimension: a pair of the list has its plane name the rank's port. -/
def State.relabelPairs (s : State) (pser : Nat) (ps : List (Nat × Nat)) : State := ps.foldl (fun t p => t.relabelOne pser p.1 p.2) s

theorem State.relabelPairs_relabels (pser : Nat) (ps : List (Nat × Nat)) (s : State) : s.Relabels (s.relabelPairs pser ps) := by
  induction ps generalizing s with
  | nil => exact .refl s
  | cons p ps ih => exact (s.relabelOne_relabels pser p.1 p.2).trans (ih _)

theorem State.relabelPairs_keeps {pser other n : Nat} (ps : List (Nat × Nat)) {s : State} (named : s.Names pser other n) :
    (s.relabelPairs pser ps).Names pser other n := by
  induction ps generalizing s with
  | nil => exact named
  | cons p ps ih => exact ih (State.relabelOne_keeps named)

theorem State.relabelPairs_names {pser rank d n : Nat} {ps : List (Nat × Nat)} {s : State} (mem : (rank, d) ∈ ps)
    (plane : SMap.get 0 (16 * rank + d) s.sys.wiring = n + 2) : (s.relabelPairs pser ps).Names pser rank n := by
  induction ps generalizing s with
  | nil => cases mem
  | cons p ps ih =>
    rcases List.mem_cons.1 mem with rfl | rest
    · exact State.relabelPairs_keeps ps (State.relabelOne_names plane)
    · have wiring : (s.relabelOne pser p.1 p.2).sys.wiring = s.sys.wiring := by rw [(s.relabelOne_relabels pser p.1 p.2).rest]
      exact ih rest (by rw [wiring]; exact plane)

/-- The pairs of four ranks and the external dimensions. -/
def sparePairs (ranks : List Nat) : List (Nat × Nat) := ranks.flatMap fun r => externalDims.map fun d => (r, d)

theorem State.relabelFor_pairs (s : State) (rank pser : Nat) :
    s.relabelFor rank pser = s.relabelPairs pser (externalDims.map fun d => (rank, d)) := by
  rw [State.relabelPairs, List.foldl_map]
  rfl

theorem State.relabelFor_eq (ranks : List Nat) (s : State) (pser : Nat) :
    ranks.foldl (fun t r => t.relabelFor r pser) s = s.relabelPairs pser (sparePairs ranks) := by
  induction ranks generalizing s with
  | nil => rfl
  | cons r ranks ih => rw [List.foldl_cons, ih, State.relabelFor_pairs, State.relabelPairs, State.relabelPairs, ← List.foldl_append]; rfl

/-! ### Rank tables (R466) -/

/-- Every rank table of the domain names the spare's dies. -/
def State.nameRanks (s : State) (entries : List (Nat × BitVec 64)) : State := (List.range 1024).foldl (fun t r => t.modDie r fun d => { d with
  rankTab := entries.foldl (fun m (n, e) => SMap.set 0 n e m) d.rankTab
  dead := entries.foldl (fun m (n, _) => SMap.set false n false m) d.dead }) s

theorem State.foldl_modDie (f : Die → Die) (rs : List Nat) (once : rs.Nodup) (s : State) :
    (rs.foldl (fun t r => t.modDie r f) s) = { s with sys := { s.sys with dies := (rs.foldl (fun t r => t.modDie r f) s).sys.dies } } ∧
    ∀ r, (rs.foldl (fun t r => t.modDie r f) s).dieOf r = if r ∈ rs then f (s.dieOf r) else s.dieOf r := by
  induction rs generalizing s with
  | nil => exact ⟨rfl, fun r => rfl⟩
  | cons k rs ih =>
    rw [List.nodup_cons] at once
    obtain ⟨rest, dies⟩ := ih once.2 (s.modDie k f)
    refine ⟨by rw [List.foldl_cons, rest]; rfl, fun r => ?_⟩
    rw [List.foldl_cons, dies, State.dieOf_modDie]
    by_cases eq : r = k
    · subst eq; simp [once.1]
    · simp [eq]

/-- The entries that name a spare's dies. -/
def spareEntries (lost pser : Nat) (inc : Nat → Nat) : List (Nat × BitVec 64) :=
  [0, 1, 2, 3].map fun i => (4 * lost + i, rankEntry (inc i) pser i)

theorem spareEntries_nodup (lost pser : Nat) (inc : Nat → Nat) : ((spareEntries lost pser inc).map Prod.fst).Nodup := by
  simp [spareEntries]

theorem mem_spareEntries {lost pser i : Nat} {inc : Nat → Nat} (lt : i < 4) :
    (4 * lost + i, rankEntry (inc i) pser i) ∈ spareEntries lost pser inc :=
  List.mem_map.2 ⟨i, by interval_cases i <;> simp, rfl⟩

theorem State.nameRanks_spec {s : State} {n : Nat} {e : BitVec 64} {entries : List (Nat × BitVec 64)}
    (once : (entries.map Prod.fst).Nodup) (mem : (n, e) ∈ entries) {r : Nat} (rank : r < 1024) :
    SMap.get 0 n ((s.nameRanks entries).dieOf r).rankTab = e ∧ SMap.get false n ((s.nameRanks entries).dieOf r).dead = false ∧
    ((s.nameRanks entries).dieOf r).inc = (s.dieOf r).inc := by
  rw [State.nameRanks, (State.foldl_modDie _ _ List.nodup_range s).2, if_pos (List.mem_range.2 rank)]
  refine ⟨SMap.get_foldl_set_of_mem once mem _, ?_, rfl⟩
  have folded (m : SMap Bool) : entries.foldl (fun m (n, _) => SMap.set false n false m) m =
      (entries.map fun e => (e.1, false)).foldl (fun m e => SMap.set false e.1 e.2 m) m := by
    rw [List.foldl_map]
  dsimp only
  rw [folded]
  refine SMap.get_foldl_set_of_mem (kvs := entries.map fun e => (e.1, false)) (v := false) ?_ (List.mem_map.2 ⟨(n, e), mem, rfl⟩) _
  rw [List.map_map]
  exact once

theorem State.nameRanks_rest (s : State) (entries : List (Nat × BitVec 64)) : (s.nameRanks entries).sys.pkgs = s.sys.pkgs ∧
    (s.nameRanks entries).sys.planes = s.sys.planes ∧ (s.nameRanks entries).sys.hbm = s.sys.hbm := by
  have once := List.nodup_range (n := 1024)
  unfold State.nameRanks
  generalize List.range 1024 = ranks at once
  rw [(State.foldl_modDie _ _ once s).1]
  exact ⟨rfl, rfl, rfl⟩

/-! ### The installation -/

theorem State.reachesAll_iff (s : State) (lost pser : Nat) :
    (([0, 1, 2, 3].map (4 * lost + ·)).all fun r => s.spareReaches r pser) = true ↔ ∀ j, j < 4 → s.spareReaches (4 * lost + j) pser = true := by
  rw [List.all_eq_true]
  refine ⟨fun all j lt => all _ (List.mem_map.2 ⟨j, by interval_cases j <;> simp, rfl⟩), fun all r mem => ?_⟩
  obtain ⟨j, listed, rfl⟩ := List.mem_map.1 mem
  refine all j ?_
  simp only [List.mem_cons, List.not_mem_nil, or_false] at listed
  omega

/-- The relabelled domain of a spare. -/
def State.spareWired (s : State) (lost pser : Nat) : State :=
  (s.spareFor lost pser).relabelPairs pser (sparePairs ([0, 1, 2, 3].map (4 * lost + ·)))

theorem State.relabels_spareWired (s : State) (lost pser : Nat) : (s.spareFor lost pser).Relabels (s.spareWired lost pser) :=
  State.relabelPairs_relabels ..

/-- A domain with a spare in a lost package's place. -/
def State.spareInstalled (s : State) (lost pser : Nat) : State :=
  (s.spareWired lost pser).nameRanks (spareEntries lost pser fun i => ((s.spareWired lost pser).dieOf (4 * lost + i)).inc)

theorem exec_spareInstallation_eq {s : State} {lost pser : Nat} (reaches : ∀ j, j < 4 → s.spareReaches (4 * lost + j) pser = true) :
    exec (.spareInstallation lost pser) s = .next (s.spareInstalled lost pser) := by
  have all := (State.reachesAll_iff s lost pser).2 reaches
  rw [exec_spareInstallation, execSpareInstallation]
  dsimp only
  rw [all, State.relabelFor_eq]
  exact if_neg (by decide)

theorem exec_spareInstallation_idle {s : State} {lost pser j : Nat} (lt : j < 4) (unreached : s.spareReaches (4 * lost + j) pser = false) :
    exec (.spareInstallation lost pser) s = .next s := by
  rw [exec_spareInstallation, execSpareInstallation]
  refine if_pos ?_
  rw [Bool.not_eq_true', Bool.eq_false_iff]
  intro all
  rw [(State.reachesAll_iff s lost pser).1 all j lt] at unreached
  cases unreached

theorem mem_sparePairs {lost i d : Nat} (lt : i < 4) (external : d ∈ externalDims) :
    (4 * lost + i, d) ∈ sparePairs ([0, 1, 2, 3].map (4 * lost + ·)) :=
  List.mem_flatMap.2 ⟨_, List.mem_map.2 ⟨i, by interval_cases i <;> simp, rfl⟩, List.mem_map.2 ⟨d, external, rfl⟩⟩

theorem State.inc_spareWired (s : State) (lost pser : Nat) {i : Nat} (lt : i < 4) :
    ((s.spareWired lost pser).dieOf (4 * lost + i)).inc = nextInc (s.dieOf (4 * lost + i)).inc := by
  have dies : (s.spareWired lost pser).sys.dies = (s.freshDies lost).sys.dies := by
    rw [(s.relabels_spareWired lost pser).rest]
    exact (State.spareFor_spec s lost pser).1
  have fresh := State.dieOf_freshDies s lost lt
  rw [State.dieOf, ← dies] at fresh
  rw [State.dieOf, fresh]
  rfl

/-- The planes of a rank name the ports by which they face the spare. -/
theorem State.names_spareWired (s : State) (lost pser : Nat) {i d n : Nat} (lt : i < 4) (external : d ∈ externalDims)
    (plane : SMap.get 0 (16 * (4 * lost + i) + d) s.sys.wiring = n + 2) :
    optGet (4 * lost + i) (SMap.get ⟨[], []⟩ n (s.spareWired lost pser).sys.planes).relabel = (SMap.get ⟨[], []⟩ n s.sys.planes).portTo pser i := by
  obtain ⟨-, -, wiring, planes, -⟩ := State.spareFor_spec s lost pser
  have named : (s.spareWired lost pser).Names pser (4 * lost + i) n :=
    State.relabelPairs_names (mem_sparePairs lt external) (by rw [wiring]; exact plane)
  have faces := (s.relabels_spareWired lost pser).faces n
  rw [planes] at faces
  have die : (4 * lost + i) % 4 = i := by omega
  rw [State.Names, die] at named
  refine named.trans ?_
  rw [Plane.portTo, faces, ← Plane.portTo]

theorem State.read_spareWired (s : State) (lost pser : Nat) {a : Nat} (physical : a < 2 ^ 56) :
    Memory.read (s.spareWired lost pser).sys.hbm a = if physPkg a = lost then 0 else Memory.read s.sys.hbm a := by
  obtain ⟨-, -, -, -, hbm⟩ := State.spareFor_spec s lost pser
  have same : (s.spareWired lost pser).sys.hbm = (s.spareFor lost pser).sys.hbm := by
    rw [(s.relabels_spareWired lost pser).rest]
  have below : a < 0x100000000000000 := physical
  rw [same, hbm, Memory.read_filter fun a => !(decide (physPkg a = lost) && decide (a < 0x100000000000000))]
  by_cases mine : physPkg a = lost
  · rw [if_pos mine, if_neg (by simp [mine, below])]
  · rw [if_neg mine, if_pos (by simp [mine])]

theorem State.spareInstalled_names (s : State) (lost pser : Nat) {i r : Nat} (lt : i < 4) (package : lost < 256) (rank : r < 1024) :
    ((s.spareInstalled lost pser).dieOf (4 * lost + i)).inc = nextInc (s.dieOf (4 * lost + i)).inc ∧
    SMap.get 0 (4 * lost + i) ((s.spareInstalled lost pser).dieOf r).rankTab =
      BitVec.ofNat 64 (nextInc (s.dieOf (4 * lost + i)).inc * 2 ^ 48 + pser * 2 ^ 16 + i * 2 ^ 14 + 1) ∧
    SMap.get false (4 * lost + i) ((s.spareInstalled lost pser).dieOf r).dead = false := by
  have once := spareEntries_nodup lost pser fun i => ((s.spareWired lost pser).dieOf (4 * lost + i)).inc
  have mem := mem_spareEntries (lost := lost) (pser := pser) (inc := fun i => ((s.spareWired lost pser).dieOf (4 * lost + i)).inc) lt
  obtain ⟨entry, alive, -⟩ := State.nameRanks_spec (s := s.spareWired lost pser) once mem rank
  obtain ⟨-, -, inc⟩ := State.nameRanks_spec (s := s.spareWired lost pser) once mem (r := 4 * lost + i) (by omega)
  rw [State.inc_spareWired s lost pser lt] at entry inc
  exact ⟨inc, entry, alive⟩

theorem State.spareInstalled_rest (s : State) (lost pser : Nat) : ((s.spareInstalled lost pser).pkgOf lost).serial = pser ∧
    (s.spareInstalled lost pser).sys.planes = (s.spareWired lost pser).sys.planes ∧
    (s.spareInstalled lost pser).sys.hbm = (s.spareWired lost pser).sys.hbm := by
  have serial := (State.spareFor_spec s lost pser).2.1
  have same : (s.spareWired lost pser).sys.pkgs = (s.spareFor lost pser).sys.pkgs := by rw [(s.relabels_spareWired lost pser).rest]
  obtain ⟨pkgs, planes, hbm⟩ := State.nameRanks_rest (s.spareWired lost pser)
    (spareEntries lost pser fun i => ((s.spareWired lost pser).dieOf (4 * lost + i)).inc)
  rw [State.pkgOf, ← same, ← pkgs] at serial
  rw [State.pkgOf, State.spareInstalled]
  exact ⟨serial, planes, hbm⟩

/-! ### Stripes (R470, R473) -/

/-- The XOR of blocks, byte by byte. -/
theorem getD_foldl_xor {n : Nat} {block : Nat → List Byte} (whole : ∀ r, (block r).length = n) (rs : List Nat) {acc : List Byte}
    (len : acc.length = n) :
    (rs.foldl (fun acc r => List.zipWith (fun (a b : Byte) => a ^^^ b) acc (block r)) acc).length = n ∧ ∀ j, j < n →
    (rs.foldl (fun acc r => List.zipWith (fun (a b : Byte) => a ^^^ b) acc (block r)) acc).getD j 0 =
      (rs.map fun r => (block r).getD j 0).foldl (· ^^^ ·) (acc.getD j 0) := by
  induction rs generalizing acc with
  | nil => exact ⟨len, fun j _ => rfl⟩
  | cons r rs ih =>
    have zip : (List.zipWith (fun (a b : Byte) => a ^^^ b) acc (block r)).length = n := by rw [List.length_zipWith, len, whole, min_self]
    obtain ⟨length, bytes⟩ := ih zip
    refine ⟨length, fun j lt => (bytes j lt).trans ?_⟩
    have first : (List.zipWith (fun (a b : Byte) => a ^^^ b) acc (block r)).getD j 0 = acc.getD j 0 ^^^ (block r).getD j 0 := by
      simp [List.getD_eq_getElem?_getD, len ▸ lt, whole r ▸ lt]
    rw [first, List.map_cons, List.foldl_cons]

section
variable {s : State} {group stripe member spare : Nat}

/-- The XOR of the other members' blocks of a stripe. -/
def State.stripeSum (s : State) (p : Parity) (member off : Nat) : List Byte :=
  ((p.ranks.zipIdx.filter fun (_, i) => i != member).map Prod.fst).foldl
    (fun acc r => List.zipWith (fun (a b : Byte) => a ^^^ b) acc (Memory.readBytes s.sys.hbm (r * 0x400000000000 + off) 0x10000))
    (List.replicate 0x10000 0)

theorem State.stripeSum_spec (s : State) (p : Parity) (member off : Nat) : (s.stripeSum p member off).length = 0x10000 ∧
    ∀ j, j < 0x10000 → (s.stripeSum p member off).getD j 0 =
      ((p.ranks.zipIdx.filter fun x => x.2 ≠ member).map fun x => Memory.read s.sys.hbm (x.1 * 0x400000000000 + off + j)).foldl (· ^^^ ·) 0 := by
  unfold State.stripeSum
  generalize 0x10000 = n
  obtain ⟨length, bytes⟩ := getD_foldl_xor (block := fun r => Memory.readBytes s.sys.hbm (r * 0x400000000000 + off) n)
    (fun r => Memory.readBytes_length ..) ((p.ranks.zipIdx.filter fun (_, i) => i != member).map Prod.fst)
    (List.length_replicate (n := n) (a := (0 : Byte)))
  refine ⟨length, fun j lt => (bytes j lt).trans ?_⟩
  have zero : (List.replicate n (0 : Byte)).getD j 0 = 0 := by simp [List.getD_eq_getElem?_getD, lt]
  have others : (p.ranks.zipIdx.filter fun (_, i) => i != member) = p.ranks.zipIdx.filter fun x => x.2 ≠ member :=
    List.filter_congr fun x _ => (decide_not (p := x.2 = member)).symm ▸ rfl
  rw [zero, List.map_map, others]
  congr 1
  exact List.map_congr_left fun x _ => Memory.readBytes_getD _ _ _ _ lt

theorem exec_stripeRebuild_eq {p : Parity} (parity : (s.dieOf spare).parity = some p) (ofGroup : p.group = group) (ofMember : p.member = member)
    (blocked : stripe ∈ p.blocked) (quiet : s.parityOpen = false) :
    exec (.stripeRebuild group stripe member spare) s = .next ((s.setHbm (Memory.writeBytes (spare * 0x400000000000 + (p.base + 0x10000 * stripe))
      (s.stripeSum p member (p.base + 0x10000 * stripe)) s.sys.hbm)).modDie spare fun d =>
        { d with parity := some { p with blocked := p.blocked.filter (· != stripe), ready := (p.blocked.filter (· != stripe)).isEmpty } }) := by
  rw [exec_stripeRebuild, execStripeRebuild, parity]
  refine if_neg ?_
  rw [quiet, ofGroup, ofMember]
  simp [blocked]

theorem exec_stripeRebuild_idle (unready : (s.dieOf spare).parity = none ∨ s.parityOpen = true) :
    exec (.stripeRebuild group stripe member spare) s = .next s := by
  rw [exec_stripeRebuild, execStripeRebuild]
  cases parity : (s.dieOf spare).parity with
  | none => rfl
  | some p =>
    rw [parity] at unready
    refine if_pos ?_
    rw [unready.resolve_left (by simp), Bool.or_true]

end

theorem sparesAndStripes : Claims.SparesAndStripes := by
  unfold Claims.SparesAndStripes
  refine ⟨fun s lost pser j lt unreached => exec_spareInstallation_idle lt unreached,
    fun s lost pser i r lt rank package reaches => ⟨_, exec_spareInstallation_eq reaches, ?_⟩,
    fun s group stripe member spare p parity ofGroup ofMember blocked quiet =>
      ⟨_, exec_stripeRebuild_eq parity ofGroup ofMember blocked quiet, fun j lt => ?_, fun a outside => ?_, ?_⟩,
    fun s group stripe member spare unready => exec_stripeRebuild_idle unready⟩
  · obtain ⟨inc, entry, alive⟩ := State.spareInstalled_names s lost pser lt package rank
    obtain ⟨serial, planes, hbm⟩ := State.spareInstalled_rest s lost pser
    refine ⟨inc, entry, alive, serial, fun d n external plane => ?_, fun a physical => ?_⟩
    · rw [planes]
      exact State.names_spareWired s lost pser lt external plane
    · rw [hbm]
      exact State.read_spareWired s lost pser physical
  · obtain ⟨length, bytes⟩ := State.stripeSum_spec s p member (p.base + 0x10000 * stripe)
    refine (Memory.read_writeBytes ..).trans ?_
    rw [length, if_pos (by omega), show spare * 0x400000000000 + p.base + 0x10000 * stripe + j - (spare * 0x400000000000 +
      (p.base + 0x10000 * stripe)) = j by omega, bytes j lt]
    simp only [Nat.add_assoc]
  · obtain ⟨length, -⟩ := State.stripeSum_spec s p member (p.base + 0x10000 * stripe)
    refine (Memory.read_writeBytes ..).trans (if_neg ?_)
    rw [length]
    omega
  · rw [State.dieOf_modDie_self]
    have left : (p.blocked.filter (· != stripe)) = p.blocked.filter (· ≠ stripe) :=
      List.filter_congr fun x _ => (decide_not (p := x = stripe)).symm ▸ rfl
    rw [left]

/-- Settles O59: what receiving, timing out and skipping do, and the installation as relabelling and rank tables over a fresh package. -/
theorem deliveryAndSpares : Obligations.DeliveryAndSpares := ⟨reliableDelivery, sparesAndStripes⟩

end Sys2Proof.Machine
end

section
/-! SUPPORT. Command rings: reservations, and packets that are consumed or skipped (22 R480 to R487, 24 R513), and O23. -/

namespace Sys2Proof.Machine

/-! ### Fields of packets -/

theorem fld_one_of_four (bs : List Byte) (off : Nat) : fld bs off 1 = fld bs off 4 % 256 := by
  unfold fld
  cases bs.drop off with
  | nil => rfl
  | cons b t => simp only [List.take_succ_cons, List.take_zero, natOfBytes]; omega

/-! ### Reservations (R480 to R482, R513) -/

section
variable {s : State} {pkg vdev q n : Nat}

theorem State.ring_putRing (s : State) (pkg vdev q : Nat) (r : HRing) : ((s.putRing pkg vdev q r).vdevOf pkg vdev).ring q = r := by
  rw [State.putRing, State.vdevOf_modVdev_self]
  exact SMap.get_set_self ..

theorem exec_reserve_addend (ring : q < 4) (bad : n = 0 ∨ 16 < n) :
    exec (.reserve pkg vdev q n) s = .next (s.hostAnswers pkg 0 (reserveWord 3 ((s.vdevOf pkg vdev).ring q).rseq 0 0)) :=
  congrArg _ ((if_neg (Nat.not_le.2 ring)).trans (if_pos (by simpa [Nat.lt_one_iff] using bad)))

variable (ring : q < 4) (one : 1 ≤ n) (most : n ≤ 16)
include ring one most

theorem exec_reserve_stopped (stopped : s.stopped pkg vdev = true) :
    exec (.reserve pkg vdev q n) s = .next (s.hostAnswers pkg 0 (reserveWord 2 ((s.vdevOf pkg vdev).ring q).rseq 0 0)) :=
  congrArg _ ((if_neg (Nat.not_le.2 ring)).trans ((if_neg (by simp; omega)).trans (if_pos stopped)))

variable (runs : s.stopped pkg vdev = false)
include runs

theorem exec_reserve_fits (fits : ((s.vdevOf pkg vdev).ring q).tail + n ≤ 1023) :
    exec (.reserve pkg vdev q n) s = .next (s.takeSlots pkg vdev q n 0 ((s.vdevOf pkg vdev).ring q)) :=
  congrArg _ ((if_neg (Nat.not_le.2 ring)).trans ((if_neg (by simp; omega)).trans ((if_neg (by simp [runs])).trans (if_pos fits))))

variable (beyond : 1023 < ((s.vdevOf pkg vdev).ring q).tail + n)
include beyond

theorem exec_reserve_grows {g : Nat} {rest : List Nat} (free : (s.vdevOf pkg vdev).free = g :: rest) : exec (.reserve pkg vdev q n) s =
    .next ((s.growRing pkg vdev g ((s.vdevOf pkg vdev).ring q)).1.takeSlots pkg vdev q n 1
      (s.growRing pkg vdev g ((s.vdevOf pkg vdev).ring q)).2) := by
  rw [exec_reserve, execReserve]
  dsimp only
  rw [if_neg (Nat.not_le.2 ring), if_neg (by simp; omega), if_neg (by simp [runs]), if_neg (Nat.not_le.2 beyond), free]

theorem exec_reserve_full (free : (s.vdevOf pkg vdev).free = []) :
    exec (.reserve pkg vdev q n) s = .next (s.hostAnswers pkg 0 (reserveWord 2 ((s.vdevOf pkg vdev).ring q).rseq 0 0)) := by
  rw [exec_reserve, execReserve]
  dsimp only
  rw [if_neg (Nat.not_le.2 ring), if_neg (by simp; omega), if_neg (by simp [runs]), if_neg (Nat.not_le.2 beyond), free]

end

/-- The slots that a requester takes: the ring's reservation, and the answer. -/
theorem State.takeSlots_spec (s : State) (pkg vdev q n st : Nat) (r : HRing) :
    ((s.takeSlots pkg vdev q n st r).vdevOf pkg vdev).ring q =
      { r with rseq := (r.rseq + n) % 2 ^ 30, tail := r.tail + n, resv := r.resv ++ [(r.rseq, n, s.sys.dc)] } ∧
    ((s.takeSlots pkg vdev q n st r).pkgOf pkg).hostReply = some (0, reserveWord st r.rseq r.seg r.tail) ∧
    (s.takeSlots pkg vdev q n st r).sys.hbm = s.sys.hbm := by
  have vdev : (s.takeSlots pkg vdev q n st r).vdevOf pkg vdev = (s.putRing pkg vdev q
      { r with rseq := seq30 (r.rseq + n), tail := r.tail + n, resv := r.resv ++ [(r.rseq, n, s.sys.dc)] }).vdevOf pkg vdev := by
    rw [State.takeSlots, State.hostAnswers, State.vdevOf, State.pkgOf_modPkg_self, State.pkgOf, State.modCore, State.sys_putCore]
    rfl
  refine ⟨?_, ?_, ?_⟩
  · rw [vdev, State.ring_putRing]
    rfl
  · rw [State.takeSlots, State.hostAnswers, State.pkgOf_modPkg_self]
  · rw [State.takeSlots, State.hostAnswers, State.modPkg, State.putPkg, State.modCore, State.sys_putCore]
    rfl

/-! ### Packets (R483 to R487) -/

section
variable {s : State} {pkg vdev q : Nat}

section
variable (none_ : s.packetAt pkg vdev q = none)
include none_

theorem State.served_none (opc : Nat) : s.served pkg vdev q opc = none := by rw [State.served, none_]

theorem State.command_none (opc : Nat) (bad : List Byte → Bool) (go : List Byte → State → State) : s.command pkg vdev q opc bad go = s := by
  rw [State.command, State.served_none none_]
  exact ite_self _

theorem State.launchCommand_none (opc : Nat) (bad : List Byte → Bool) (tag : List Byte → Nat) (check : List Byte → From → Except Nat Launch)
    (more : List Byte → Nat → Launch → State → State × Launch) : s.launchCommand pkg vdev q opc bad tag check more = s := by
  rw [State.launchCommand, State.served_none none_]
  exact ite_self _

theorem exec_packets_none : exec (.nopPacket pkg vdev q) s = .next s ∧ exec (.linkPacket pkg vdev q) s = .next s ∧
    exec (.slotldPacket pkg vdev q) s = .next s ∧ exec (.slotrmPacket pkg vdev q) s = .next s ∧ exec (.purgePacket pkg vdev q) s = .next s ∧
    exec (.killPacket pkg vdev q) s = .next s ∧ exec (.launchPacket pkg vdev q) s = .next s ∧ exec (.barePacket pkg vdev q) s = .next s ∧
    exec (.invokePacket pkg vdev q) s = .next s := by
  refine ⟨?_, ?_, congrArg _ (State.command_none none_ ..), congrArg _ (State.command_none none_ ..), congrArg _ (State.command_none none_ ..),
    congrArg _ (State.command_none none_ ..), congrArg _ (State.launchCommand_none none_ ..), congrArg _ (State.launchCommand_none none_ ..),
    congrArg _ ((ite_congr rfl (fun _ => rfl) fun _ => State.launchCommand_none none_ ..).trans (ite_self _))⟩
  · rw [exec_nopPacket, execNopPacket, none_]
    exact congrArg _ (ite_self _)
  · rw [exec_linkPacket, execLinkPacket, State.served_none none_]
    exact congrArg _ (ite_self _)

end

section
variable {bs : List Byte} (serves : s.serves pkg vdev = true) (packet : s.packetAt pkg vdev q = some bs) (turn : s.ringTurn pkg vdev q = true)
include packet turn

theorem State.served_some {opc : Nat} (code : fld bs 0 1 = opc) : s.served pkg vdev q opc = some (bs, fld bs 0 4 / 256 % 16 + 1) := by
  rw [State.served, packet]
  exact if_pos (by rw [turn, code]; simp)

include serves

theorem exec_nopPacket_nop (nop : fld bs 0 4 = 0) : exec (.nopPacket pkg vdev q) s = .next (s.consume pkg vdev q 1) := by
  have code : fld bs 0 1 = 0 := by rw [fld_one_of_four, nop]
  rw [exec_nopPacket, execNopPacket, serves, packet]
  dsimp only
  rw [turn, code, nop]
  rfl

theorem exec_nopPacket_unknown (unknown : knownOpc (fld bs 0 1) = false) : exec (.nopPacket pkg vdev q) s =
    .next ((s.packetRecord pkg vdev q 3 0x101 0 0 bs).consume pkg vdev q (fld bs 0 4 / 256 % 16 + 1)) := by
  have code : fld bs 0 1 ≠ 0 := fun zero => by rw [zero] at unknown; cases unknown
  rw [exec_nopPacket, execNopPacket, serves, packet]
  dsimp only
  rw [turn, unknown]
  refine congrArg _ ((if_neg (by decide)).trans ((if_neg (by simp)).trans ?_))
  rw [if_pos (by simp [code])]

theorem exec_linkPacket_eq (code : fld bs 0 1 = 0x7F) (last : ((s.vdevOf pkg vdev).ring q).cslot = 1023) :
    exec (.linkPacket pkg vdev q) s = .next ((s.putRing pkg vdev q ({ (s.vdevOf pkg vdev).ring q with
      rcons := seq30 (((s.vdevOf pkg vdev).ring q).rcons + 1), cslot := 0, cseg := fld bs 16 2
      chain := ((s.vdevOf pkg vdev).ring q).chain.filter (· != ((s.vdevOf pkg vdev).ring q).cseg) } : HRing).trim).modVdev pkg vdev fun v =>
        { v with free := v.free ++ [((s.vdevOf pkg vdev).ring q).cseg], last := q }) := by
  rw [exec_linkPacket, execLinkPacket, serves, State.served_some packet turn code]
  exact congrArg _ ((if_neg (by decide)).trans (if_neg (by simp [last])))

end

theorem exec_ringSlotTimeout_eq {a n t0 : Nat} (found : (((s.vdevOf pkg vdev).ring q).resv.find? fun x =>
      seq30 (((s.vdevOf pkg vdev).ring q).rcons + 0x40000000 - x.1) < x.2.1) = some (a, n, t0))
    (runs : s.stopped pkg vdev = false) (serves : s.serves pkg vdev = true) (empty : s.packetAt pkg vdev q = none) :
    exec (.ringSlotTimeout pkg vdev q) s = .next (if s.sys.dc < t0 + 2 ^ ((s.vdevOf pkg vdev).ring q).rto then s
      else (s.pushRecord pkg vdev { kind := 3, ring := q, status := 0x108, seq := a }).consume pkg vdev q
        (seq30 (a + n + 0x40000000 - ((s.vdevOf pkg vdev).ring q).rcons))) := by
  rw [exec_ringSlotTimeout, execRingSlotTimeout]
  dsimp only
  rw [found]
  dsimp only
  rw [runs, serves, empty]
  simp

end

/-- Settles O23: reservations, packets that are missing, NOP and link packets, and skipped reservations. -/
theorem ringReservations : Obligations.RingReservations := by
  unfold Obligations.RingReservations
  refine ⟨fun s pkg vdev q n ring => ⟨exec_reserve_addend ring, fun one most => exec_reserve_stopped ring one most, fun one most runs fits =>
      ⟨_, exec_reserve_fits ring one most runs fits, ?_⟩, fun g rest one most runs beyond => exec_reserve_grows ring one most runs beyond,
      fun one most runs => exec_reserve_full ring one most runs⟩,
    fun s pkg vdev q none_ => exec_packets_none none_, fun s pkg vdev q bs serves packet turn => ⟨exec_nopPacket_nop serves packet turn,
      exec_nopPacket_unknown serves packet turn, fun code last => ⟨_, exec_linkPacket_eq serves packet turn code last, ?_⟩⟩,
    fun s pkg vdev q a n t0 => ?_⟩
  · obtain ⟨reserved, answer, hbm⟩ := s.takeSlots_spec pkg vdev q n 0 ((s.vdevOf pkg vdev).ring q)
    refine ⟨reserved, answer.trans ?_, hbm⟩
    rw [reserveWord, Nat.zero_mul, Nat.zero_add]
    rfl
  · have ring (r : HRing) (free : List Nat) : (((s.putRing pkg vdev q r).modVdev pkg vdev fun v =>
        { v with free := v.free ++ free, last := q }).vdevOf pkg vdev).ring q = r := by
      rw [State.vdevOf_modVdev_self]
      exact s.ring_putRing pkg vdev q r
    rw [ring]
    refine ⟨rfl, rfl, rfl, ?_⟩
    rw [State.vdevOf_modVdev_self, State.putRing, State.vdevOf_modVdev_self]
  · intro r found runs serves empty
    rw [exec_ringSlotTimeout_eq found runs serves empty]
    exact ⟨fun early => congrArg _ (if_pos early), fun due => congrArg _ (if_neg (Nat.not_lt.2 due))⟩

end Sys2Proof.Machine
end

section
/-! SUPPORT. Packets that start launches, and the packets of slots, purges and kills (20 R463, R464, 22 R487 to R494, R504), and O24. -/

namespace Sys2Proof.Machine

/-! ### Packets that start a launch (R488 to R490, R493) -/

section
variable {s : State} {pkg vdev q : Nat} {bs : List Byte}

section
variable (serves : s.servesLaunch pkg vdev = true) (free : s.waitingLaunch pkg vdev q true = none) (packet : s.packetAt pkg vdev q = some bs)
  (turn : s.ringTurn pkg vdev q = true) {opc : Nat} (code : fld bs 0 1 = opc) {bad : List Byte → Bool} {tag : List Byte → Nat}
  {check : List Byte → From → Except Nat Launch} {more : List Byte → Nat → Launch → State → State × Launch}
include serves free packet turn code

theorem State.launchCommand_format (wrong : 1023 < ((s.vdevOf pkg vdev).ring q).cslot + (fld bs 0 4 / 256 % 16 + 1) ∨ bad bs = true) :
    s.launchCommand pkg vdev q opc bad tag check more =
      (s.packetRecord pkg vdev q 3 0x101 0 0 bs).consume pkg vdev q (fld bs 0 4 / 256 % 16 + 1) := by
  rw [State.launchCommand, serves, free, State.served_some packet turn code]
  exact (if_neg (by decide)).trans (if_pos (by rw [Bool.or_eq_true, decide_eq_true_eq]; exact wrong))

variable (fits : ((s.vdevOf pkg vdev).ring q).cslot + (fld bs 0 4 / 256 % 16 + 1) ≤ 1023) (good : bad bs = false)
include fits good

theorem State.launchCommand_refused {st : Nat} (refused : check bs ⟨q, ((s.vdevOf pkg vdev).ring q).rcons⟩ = .error st) :
    s.launchCommand pkg vdev q opc bad tag check more =
      (s.packetRecord pkg vdev q 3 st (tag bs) 0 bs).consume pkg vdev q (fld bs 0 4 / 256 % 16 + 1) := by
  rw [State.launchCommand, serves, free, State.served_some packet turn code]
  refine (if_neg (by decide)).trans ((if_neg (by simp [good, fits])).trans ?_)
  rw [refused]

theorem State.launchCommand_accepted {l : Launch} (accepted : check bs ⟨q, ((s.vdevOf pkg vdev).ring q).rcons⟩ = .ok l) :
    s.launchCommand pkg vdev q opc bad tag check more =
      ((more bs (s.takeId pkg vdev).2 l (s.takeId pkg vdev).1).1.accept (launchKey pkg (s.takeId pkg vdev).2)
        (more bs (s.takeId pkg vdev).2 l (s.takeId pkg vdev).1).2).goOn (launchKey pkg (s.takeId pkg vdev).2) pkg vdev q
          (fld bs 0 4 / 256 % 16 + 1) bs := by
  rw [State.launchCommand, serves, free, State.served_some packet turn code]
  refine (if_neg (by decide)).trans ((if_neg (by simp [good, fits])).trans ?_)
  rw [accepted]

end

/-- An INVOKE whose buffers are not ready waits (R263). -/
theorem exec_invokePacket_waits (packet : s.packetAt pkg vdev q = some bs) (turn : s.ringTurn pkg vdev q = true) (code : fld bs 0 1 = 3)
    (good : invokeFormatBad bs = false) {l : Launch} (checked : s.checkInvoke bs pkg vdev ⟨q, 0⟩ = .ok l)
    (unready : s.buffersReady pkg vdev l.ncores (invokeBuffers bs (fld bs 17 1)) = false) : exec (.invokePacket pkg vdev q) s = .next s := by
  rw [exec_invokePacket, execInvokePacket, State.served_some packet turn code]
  refine congrArg _ (if_pos ?_)
  dsimp only
  rw [good, checked]
  dsimp only
  rw [unready]
  rfl

/-- What an accepted INVOKE does before its launch: it borrows its buffers, and its slot runs one more. -/
def State.invoked (pkg vdev : Nat) (bs : List Byte) (id : Nat) (l : Launch) (t : State) : State × Launch :=
  let (u, lent) := t.lendBuffers pkg vdev id l.ncores (invokeBuffers bs (fld bs 17 1))
  let n := fld bs 16 1 % 64
  let more : RSlot → RSlot := fun r => { r with running := r.running + 1 }
  (u.modVdev pkg vdev fun v => { v with slots := SMap.modify RSlot.free n more v.slots }, { l with lent := lent })

theorem exec_invokePacket_goes (packet : s.packetAt pkg vdev q = some bs) (turn : s.ringTurn pkg vdev q = true) (code : fld bs 0 1 = 3)
    (good : invokeFormatBad bs = false) (ready : ∀ l, s.checkInvoke bs pkg vdev ⟨q, 0⟩ = .ok l →
      s.buffersReady pkg vdev l.ncores (invokeBuffers bs (fld bs 17 1)) = true) :
    exec (.invokePacket pkg vdev q) s = .next (s.launchCommand pkg vdev q 3 invokeFormatBad (fun bs => fld bs 20 2) (s.checkInvoke · pkg vdev)
      (State.invoked pkg vdev)) := by
  rw [exec_invokePacket, execInvokePacket, State.served_some packet turn code]
  refine congrArg _ (if_neg ?_)
  dsimp only
  rw [good]
  cases checked : s.checkInvoke bs pkg vdev ⟨q, 0⟩ with
  | error st => simp
  | ok l => simp [ready l checked]

end

/-! ### Starts (R463, R464, R490) -/

section
variable {s : State} {pkg vdev q lk : Nat}

theorem exec_launchStart_mine (serves : s.servesLaunch pkg vdev = true) (waits : s.waitingLaunch pkg vdev q true = some lk) :
    exec (.launchStart pkg vdev q) s = .next (s.goOn lk pkg vdev q (fld ((s.packetAt pkg vdev q).getD []) 0 4 / 256 % 16 + 1)
      ((s.packetAt pkg vdev q).getD [])) := by
  rw [exec_launchStart, execLaunchStart, waits]
  exact congrArg _ (if_neg (by simp [serves]))

theorem exec_launchStart_peer (none_ : s.waitingLaunch pkg vdev q true = none) (waits : s.waitingLaunch pkg vdev q false = some lk) :
    exec (.launchStart pkg vdev q) s = .next (s.tryTake lk []).1 := by
  rw [exec_launchStart, execLaunchStart, none_]
  dsimp only
  rw [waits]

theorem exec_launchStart_idle (mine : s.waitingLaunch pkg vdev q true = none) (peer : s.waitingLaunch pkg vdev q false = none) :
    exec (.launchStart pkg vdev q) s = .next s := by
  rw [exec_launchStart, execLaunchStart, mine]
  dsimp only
  rw [peer]

variable {l : Launch} (known : s.launchOf lk = some l)
include known

theorem exec_launchArrivalTimeout_early (early : l.phase ≠ .starting ∨ l.pkg ≠ l.spanBase ∨
      s.sys.dc < l.sentAt + (s.dieOf (4 * l.pkg)).timeout * ((s.dieOf (4 * l.pkg)).retries + 1)) :
    exec (.launchArrivalTimeout lk) s = .next s := by
  rw [exec_launchArrivalTimeout, execLaunchArrivalTimeout, known]
  refine congrArg _ (if_pos ?_)
  rw [Bool.or_eq_true, Bool.or_eq_true, bne_iff_ne, bne_iff_ne, decide_eq_true_eq, or_assoc]
  exact early

theorem exec_launchArrivalTimeout_due (starting : l.phase = .starting) (base : l.pkg = l.spanBase)
    (due : l.sentAt + (s.dieOf (4 * l.pkg)).timeout * ((s.dieOf (4 * l.pkg)).retries + 1) ≤ s.sys.dc) :
    exec (.launchArrivalTimeout lk) s = .next ((s.sendReleases (launchId lk) l true).endLaunch lk 24 0 0) := by
  rw [exec_launchArrivalTimeout, execLaunchArrivalTimeout, known]
  refine congrArg _ (if_neg ?_)
  rw [Bool.or_eq_true, Bool.or_eq_true, bne_iff_ne, bne_iff_ne, decide_eq_true_eq, or_assoc]
  rintro (other | other | early)
  · exact other starting
  · exact other base
  · exact absurd due (Nat.not_le.2 early)

end

/-! ### Command packets (R487, R492, R385) -/

section
variable {s : State} {pkg vdev q : Nat} {bs : List Byte}

/-- The launch that a packet names is a launch of its device that runs or starts. -/
theorem State.named_some {lk : Nat} (names : s.named pkg vdev bs = some lk) : lk = launchKey pkg (fld bs 16 4) ∧
    ∃ l, s.launchOf lk = some l ∧ l.vdev = vdev ∧ (l.phase = .running ∨ l.phase = .starting) := by
  rw [State.named] at names
  cases found : s.launchOf (launchKey pkg (fld bs 16 4)) with
  | none => rw [found] at names; cases names
  | some l =>
    rw [found] at names
    obtain ⟨live, same⟩ := Option.ite_none_right_eq_some.1 names
    obtain rfl := Option.some.inj same
    simp only [Bool.and_eq_true, Bool.or_eq_true, decide_eq_true_eq] at live
    exact ⟨rfl, l, found, live⟩

variable (serves : s.serves pkg vdev = true) (packet : s.packetAt pkg vdev q = some bs) (turn : s.ringTurn pkg vdev q = true)
  (fits : ((s.vdevOf pkg vdev).ring q).cslot < 1023) (level : 3 ≤ (s.pkgOf pkg).svcl)
include serves packet turn fits level

/-- A packet of one slot that is served has its effect and is consumed. -/
theorem State.command_one {opc : Nat} (code : fld bs 0 4 = opc) (lt : opc < 256) (go : List Byte → State → State) :
    s.command pkg vdev q opc oneSlotBad go = (go bs s).consume pkg vdev q 1 := by
  have low : fld bs 0 1 = opc := by rw [fld_one_of_four, code, Nat.mod_eq_of_lt lt]
  have high : fld bs 0 4 / 256 = 0 := by rw [code, Nat.div_eq_of_lt lt]
  have good : oneSlotBad bs = false := by rw [oneSlotBad, high]; rfl
  rw [State.command, serves, State.served_some packet turn low]
  refine (if_neg (by decide)).trans ?_
  dsimp only
  rw [high, good, if_neg (by simp; omega), if_neg (Nat.not_lt.2 level)]

theorem exec_purgePacket_named (code : fld bs 0 4 = 6) {lk : Nat} (names : s.named pkg vdev bs = some lk) : exec (.purgePacket pkg vdev q) s =
    .next ((((s.purge lk (fld bs 20 2) 0 (s.feRank pkg vdev)).sendPurges (s.feSid pkg vdev) lk).packetRecord pkg vdev q 4 0
      (fld bs 20 2) 0 bs).consume pkg vdev q 1) := by
  refine congrArg _ ((State.command_one serves packet turn fits level code (by decide) _).trans ?_)
  simp only [names]

theorem exec_purgePacket_unnamed (code : fld bs 0 4 = 6) (names : s.named pkg vdev bs = none) : exec (.purgePacket pkg vdev q) s =
    .next ((s.packetRecord pkg vdev q 3 0x10C 0 0 bs).consume pkg vdev q 1) := by
  refine congrArg _ ((State.command_one serves packet turn fits level code (by decide) _).trans ?_)
  simp only [names]

theorem exec_killPacket_named (code : fld bs 0 4 = 7) {lk : Nat} (names : s.named pkg vdev bs = some lk) : exec (.killPacket pkg vdev q) s =
    .next (((s.teardown lk 0x10A (s.feRank pkg vdev)).packetRecord pkg vdev q 4 0 0 0 bs).consume pkg vdev q 1) := by
  refine congrArg _ ((State.command_one serves packet turn fits level code (by decide) _).trans ?_)
  simp only [names]

theorem exec_killPacket_unnamed (code : fld bs 0 4 = 7) (names : s.named pkg vdev bs = none) : exec (.killPacket pkg vdev q) s =
    .next ((s.packetRecord pkg vdev q 3 0x10C 0 0 bs).consume pkg vdev q 1) := by
  refine congrArg _ ((State.command_one serves packet turn fits level code (by decide) _).trans ?_)
  simp only [names]

variable {slot : RSlot} (of_slot : SMap.get RSlot.free (fld bs 16 1 % 64) (s.vdevOf pkg vdev).slots = slot)
include of_slot

theorem exec_slotrmPacket_refused (code : fld bs 0 4 = 5) (refused : slot.resident = false ∨ slot.removing ≠ none) :
    exec (.slotrmPacket pkg vdev q) s = .next ((s.packetRecord pkg vdev q 3 0x105 0 0 bs).consume pkg vdev q 1) := by
  refine congrArg _ ((State.command_one serves packet turn fits level code (by decide) _).trans ?_)
  dsimp only
  rw [of_slot]
  refine congrArg (State.consume · pkg vdev q 1) (if_pos ?_)
  rw [Bool.or_eq_true, Bool.not_eq_true', Option.isSome_iff_ne_none]
  exact refused

theorem exec_slotrmPacket_marks (code : fld bs 0 4 = 5) (resident : slot.resident = true) (kept : slot.removing = none) (runs : slot.running ≠ 0) :
    exec (.slotrmPacket pkg vdev q) s = .next ((s.modVdev pkg vdev fun v => { v with
      slots := SMap.set RSlot.free (fld bs 16 1 % 64) { slot with removing := some (q, ((s.vdevOf pkg vdev).ring q).rcons, fld bs 8 8) }
        v.slots }).consume pkg vdev q 1) := by
  refine congrArg _ ((State.command_one serves packet turn fits level code (by decide) _).trans ?_)
  dsimp only
  rw [of_slot]
  refine congrArg (State.consume · pkg vdev q 1) ((if_neg (by simp [resident, kept])).trans ((if_neg runs).trans ?_))
  exact State.modVdev_congr _ _ _ rfl

theorem exec_slotldPacket_pins (code : fld bs 0 4 = 4) {img h : List Byte} (image : s.goodImage pkg vdev (fld bs 24 8) = some img)
    (header : slotHeader img = some h) (some_img : img ≠ []) (some_h : h ≠ []) (good : slotHeaderBad h = false) (whole : fld img 44 4 = 0)
    (mapped : ∀ p ∈ pagesOf vdev (fld h 16 8) (64 * fld h 7 1), (s.walkVa pkg p.1 p.2).isSome) (free : slot.resident = false)
    (weights : s.weightsMatch pkg vdev h = true) :
    let gen := if (slot.gen + 1) % 65536 = 0 then 1 else (slot.gen + 1) % 65536
    let pages := pagesOf vdev (fld bs 24 8) img.length ++ pagesOf vdev (fld h 16 8) (64 * fld h 7 1)
    exec (.slotldPacket pkg vdev q) s = .next ((((s.pinAll pkg pages).modVdev pkg vdev fun v => { v with
      slots := SMap.set RSlot.free (fld bs 16 1 % 64) ⟨gen, true, none, fld bs 24 8, 0, pages⟩ v.slots }).packetRecord pkg vdev q 4 0 0
        gen bs).consume pkg vdev q 1) := by
  intro gen pages
  refine congrArg _ ((State.command_one serves packet turn fits level code (by decide) _).trans ?_)
  have reachable : ((pagesOf vdev (fld h 16 8) (64 * fld h 7 1)).any fun (v, a) => (s.walkVa pkg v a).isNone) = false := by
    rw [List.any_eq_false]
    rintro ⟨v, a⟩ mem
    rw [Option.isNone_iff_eq_none]
    exact Option.isSome_iff_ne_none.1 (mapped (v, a) mem)
  dsimp only
  rw [of_slot, image, Option.getD_some, header, Option.getD_some]
  refine congrArg (State.consume · pkg vdev q 1) ((if_neg ?_).trans (if_neg (by simp [free, weights])))
  rw [reachable, good, whole]
  simp [some_img, some_h]

end

/-- Settles O24: the packets that start launches, launches that wait, the command packets, and the arrival that does not come. -/
theorem launchPackets : Obligations.LaunchPackets := by
  unfold Obligations.LaunchPackets
  refine ⟨fun s pkg vdev q bs serves free packet turn => ⟨fun code => ⟨fun wrong => ?_, fun fits good => ⟨fun st refused => ?_, fun l accepted => ?_⟩⟩,
      fun code fits good => ⟨fun st refused => ?_, fun l accepted => ?_⟩, fun code good l checked unready => ?_,
      fun code fits good ready => ⟨fun st refused => ?_, fun l accepted => ?_⟩⟩,
    fun s pkg vdev q serves => ⟨fun lk => exec_launchStart_mine serves, fun lk => exec_launchStart_peer, exec_launchStart_idle⟩,
    fun s pkg vdev q bs serves packet turn fits level one =>
      ⟨fun code => ⟨fun lk => exec_purgePacket_named serves packet turn fits level code, exec_purgePacket_unnamed serves packet turn fits level code⟩,
      fun code => ⟨fun lk => exec_killPacket_named serves packet turn fits level code, exec_killPacket_unnamed serves packet turn fits level code⟩,
      fun lk names => State.named_some names, fun code =>
        ⟨exec_slotrmPacket_refused serves packet turn fits level rfl code, exec_slotrmPacket_marks serves packet turn fits level rfl code⟩,
      fun code img h image header some_img some_h good whole => ?_⟩,
    fun s lk l known => ⟨exec_launchArrivalTimeout_early known, exec_launchArrivalTimeout_due known⟩⟩
  · exact congrArg _ (State.launchCommand_format serves free packet turn code wrong)
  · exact congrArg _ (State.launchCommand_refused serves free packet turn code fits good refused)
  · exact congrArg _ (State.launchCommand_accepted serves free packet turn code fits good accepted)
  · exact congrArg _ (State.launchCommand_refused serves free packet turn code fits good refused)
  · exact congrArg _ (State.launchCommand_accepted serves free packet turn code fits good accepted)
  · exact exec_invokePacket_waits packet turn code good checked unready
  · exact (exec_invokePacket_goes packet turn code good ready).trans
      (congrArg _ (State.launchCommand_refused serves free packet turn code fits good refused))
  · exact (exec_invokePacket_goes packet turn code good ready).trans
      (congrArg _ (State.launchCommand_accepted serves free packet turn code fits good accepted))
  · intro nests mapped free weights
    exact exec_slotldPacket_pins serves packet turn fits level rfl code image header some_img some_h good whole mapped free weights

end Sys2Proof.Machine
end

section
/-! SUPPORT. The management controller: boots, losses of power, mailbox commands and the clock step of a die (25 R515 to R523), and O25. -/

namespace Sys2Proof.Machine

/-! ### What a boot keeps of a package (R515, R517, R520) -/

/-- Two packages with one identity, one place among the leaves, and the same regions and virtual devices. -/
structure Pkg.SameId (p q : Pkg) : Prop where
  serial : q.serial = p.serial
  working : q.working = p.working
  leafIdx : q.leafIdx = p.leafIdx
  regions : q.regions = p.regions
  vdevs : q.vdevs = p.vdevs

theorem Pkg.SameId.refl (p : Pkg) : p.SameId p := ⟨rfl, rfl, rfl, rfl, rfl⟩

theorem Pkg.SameId.trans {p q r : Pkg} (pq : p.SameId q) (qr : q.SameId r) : p.SameId r :=
  ⟨qr.serial.trans pq.serial, qr.working.trans pq.working, qr.leafIdx.trans pq.leafIdx, qr.regions.trans pq.regions, qr.vdevs.trans pq.vdevs⟩

theorem Pkg.sameId_runs (p : Pkg) (cls ident : Nat) : p.SameId (p.runs cls ident) := by
  unfold Pkg.runs
  split
  · exact .refl p
  · exact ⟨rfl, rfl, rfl, rfl, rfl⟩

theorem Pkg.sameId_accepted (p : Pkg) (step : Nat) : p.SameId (p.accepted step) := by
  unfold Pkg.accepted
  refine List.foldlRecOn _ _ ?_ fun q same cls _ => same.trans ⟨rfl, rfl, rfl, rfl, rfl⟩
  split
  · split
    · exact p.sameId_runs ..
    · exact .refl p
  · exact .refl p

/-- What flash keeps of a package. -/
def Pkg.flash (p : Pkg) : Pkg := { Pkg.reset with
  serial := p.serial, working := p.working, leafIdx := p.leafIdx, minSvn := p.minSvn, images := p.images
  manifest := p.manifest, repairs := p.repairs, repairSkip := p.repairSkip }

theorem State.pkgOf_wipePkg (s : State) (p : Nat) : (s.wipePkg p).pkgOf p = (s.pkgOf p).flash := SMap.get_set_self ..

/-- A package whose manifest names its serial number and its working cores. -/
def Pkg.mapped (p : Pkg) : Pkg := if p.manifest.isEmpty then p else { p with working := p.harvestMap, serial := natOfBytes (p.manifest.take 3) }

theorem State.sameId_applyRepair (s : State) (pkg : Nat) (e : List Byte) : (s.pkgOf pkg).SameId ((s.applyRepair pkg e).pkgOf pkg) := by
  unfold State.applyRepair
  dsimp only
  split
  · rw [State.pkgOf_modPkg_self]
    exact ⟨rfl, rfl, rfl, rfl, rfl⟩
  · rw [State.pkgOf, State.pkgOf, State.modCore_sys]
    exact .refl _

theorem State.sameId_applyMaps (s : State) (pkg : Nat) : (s.pkgOf pkg).mapped.SameId ((s.applyMaps pkg).pkgOf pkg) := by
  unfold State.applyMaps
  refine List.foldlRecOn _ _ (motive := fun t : State => (s.pkgOf pkg).mapped.SameId (t.pkgOf pkg)) ?_
    fun t same i _ => same.trans (t.sameId_applyRepair pkg _)
  have skip (q : Pkg) : q.SameId { q with repairSkip := false } := ⟨rfl, rfl, rfl, rfl, rfl⟩
  rw [State.pkgOf_modPkg_self, Pkg.mapped]
  refine Pkg.SameId.trans ?_ (skip _)
  split
  · exact .refl _
  · rw [State.pkgOf, State.pkgOf, State.sys_foldl fun t n => State.modCore_sys ..]
    refine Eq.subst (motive := Pkg.SameId _) (State.pkgOf_modPkg_self s pkg _).symm ?_
    exact .refl _

theorem State.pkgs_loadRanks (s : State) (pkg : Nat) : (s.loadRanks pkg).sys.pkgs = s.sys.pkgs := by
  unfold State.loadRanks
  exact List.foldlRecOn _ _ (motive := fun t : State => t.sys.pkgs = s.sys.pkgs) rfl fun t same p _ =>
    List.foldlRecOn _ _ (motive := fun t : State => t.sys.pkgs = s.sys.pkgs) same fun u same i _ => same

/-! ### Boots (R515, R517, R519) -/

/-- The package that a boot starts from: as flash keeps it, with the maps of the manifest from step 4 on or at a whole boot. -/
def State.bootBase (s : State) (pkg step : Nat) : State := if 1 ≤ step && step ≤ 3 then s.wipePkg pkg else (s.wipePkg pkg).applyMaps pkg

/-- A package after a boot that stops at a step for a reason. -/
def Pkg.bootedAt (p : Pkg) (step reason : Nat) : Pkg := { p.accepted step with
  svcl := bootLevel step, bootStep := step, bootReason := reason, bootMbst := mbstWord 0 0 0 (bootLevel step) step reason, booted := true
  mbst := mbstWord 0 0 0 (bootLevel step) step reason }

theorem Pkg.sameId_bootedAt (p : Pkg) (step reason : Nat) : p.SameId (p.bootedAt step reason) :=
  (p.sameId_accepted step).trans ⟨rfl, rfl, rfl, rfl, rfl⟩

theorem exec_packageReset_boots {s : State} {pkg failStep failReason step reason : Nat}
    (stops : (s.pkgOf pkg).bootStop failStep failReason = (step, reason)) : ∃ t : State, exec (.packageReset pkg failStep failReason) s = .next t ∧
    t.pkgOf pkg = ((s.bootBase pkg step).pkgOf pkg).bootedAt step reason := by
  rw [exec_packageReset, execPackageReset, stops]
  refine ⟨_, rfl, ?_⟩
  dsimp only
  split
  · rw [State.pkgOf, State.pkgs_loadRanks]
    exact State.pkgOf_modPkg_self ..
  · exact State.pkgOf_modPkg_self ..

theorem Pkg.bootStop_outside {p : Pkg} (good : p.svnFail = none) {step : Nat} (reason : Nat) (one : 1 ≤ step) (most : step ≤ 6) :
    p.bootStop step reason = (step, reason % 16) := by
  rw [Pkg.bootStop, good, if_pos most]
  dsimp only
  rw [if_neg (by omega)]

theorem Pkg.bootStop_whole {p : Pkg} (good : p.svnFail = none) (reason : Nat) : p.bootStop 0 reason = (0, 0) := by
  rw [Pkg.bootStop, good]
  rfl

theorem Pkg.bootStop_svn {p : Pkg} {n r step : Nat} (bad : p.svnFail = some (n, r)) (before : step = 0 ∨ n < step) (most : step ≤ 6) (reason : Nat) :
    p.bootStop step reason = (n, r) := by
  rw [Pkg.bootStop, bad, if_pos most]
  exact if_pos (by simpa using before)

/-- Images fail a boot at a step, never at none. -/
theorem Pkg.svnFail_step {p : Pkg} {n r : Nat} (bad : p.svnFail = some (n, r)) : n ≠ 0 := by
  rintro rfl
  unfold Pkg.svnFail at bad
  split_ifs at bad
  all_goals cases bad

theorem bootLevel_step {step : Nat} (some_ : step ≠ 0) : bootLevel step = if step ≤ 4 then 1 else if step = 5 then 2 else 3 := if_neg some_

theorem mbstWord_boot (level step reason : Nat) :
    mbstWord 0 0 0 level step reason = level * 2 ^ 16 + step * 2 ^ 20 + reason * 2 ^ 24 := by
  unfold mbstWord
  omega

/-- No image of the management controller is good where each is below the minimum. -/
theorem Pkg.svnFail_mc {p : Pkg} (present : ∃ x ∈ p.images, x.1 = 1) (below : ∀ x ∈ p.images, x.1 = 1 → x.2.1 < SMap.get 0 1 p.minSvn) :
    p.svnFail = some (2, 3) := by
  have no_good : (p.images.filter fun (c, v, _, _) => c = 1 && SMap.get 0 1 p.minSvn ≤ v) = [] := by
    rw [List.filter_eq_nil_iff]
    rintro ⟨c, v, i, st⟩ mem
    have := below _ mem
    simp only [Bool.and_eq_true, decide_eq_true_eq, not_and, Nat.not_le]
    exact this
  have no_best : p.bestMc = none := by rw [Pkg.bestMc, no_good]; rfl
  have listed : (p.images.any fun (c, _, _, _) => c = 1) = true := by
    obtain ⟨x, mem, one⟩ := present
    exact List.any_eq_true.2 ⟨x, mem, decide_eq_true one⟩
  rw [Pkg.svnFail, no_best, listed]
  rfl

/-- What a boot that stops at a step (0: at none) starts from: flash, and from step 4 on the maps of the manifest. -/
def Pkg.bootBase (p : Pkg) (step : Nat) : Pkg := if 1 ≤ step && step ≤ 3 then p.flash else p.flash.mapped

theorem Pkg.bootBase_early {p : Pkg} {step : Nat} (one : 1 ≤ step) (early : ¬ 3 < step) : p.bootBase step = p.flash := if_pos (by simp; omega)

theorem Pkg.bootBase_late {p : Pkg} {step : Nat} (late : 3 < step) : p.bootBase step = p.flash.mapped := if_neg (by simp; omega)

theorem Pkg.mapped_manifest {p : Pkg} (some_ : p.manifest ≠ []) :
    p.mapped = { p with working := p.harvestMap, serial := natOfBytes (p.manifest.take 3) } := if_neg (by simpa using some_)

theorem Pkg.mapped_none {p : Pkg} (none_ : p.manifest = []) : p.mapped = p := if_pos (by rw [none_]; rfl)

theorem Pkg.serial_bootBase (p : Pkg) {step : Nat} (one : 1 ≤ step) :
    (p.bootBase step).serial = if 3 < step ∧ p.manifest ≠ [] then natOfBytes (p.manifest.take 3) else p.serial := by
  by_cases late : 3 < step
  · rw [Pkg.bootBase_late late]
    by_cases none_ : p.manifest = []
    · rw [Pkg.mapped_none (p := p.flash) none_, if_neg fun both => both.2 none_]
      rfl
    · rw [Pkg.mapped_manifest (p := p.flash) none_, if_pos ⟨late, none_⟩]
      rfl
  · rw [Pkg.bootBase_early one late, if_neg fun both => late both.1]
    rfl

theorem Pkg.working_bootBase {p : Pkg} {step : Nat} (late : 3 < step) (some_ : p.manifest ≠ []) :
    (p.bootBase step).working = natOfBytes ((p.manifest.drop 3).take 32) := by
  rw [Pkg.bootBase_late late, Pkg.mapped_manifest (p := p.flash) some_]
  rfl

theorem Pkg.bootBase_rest (p : Pkg) (step : Nat) :
    (p.bootBase step).leafIdx = p.leafIdx ∧ (p.bootBase step).regions = [] ∧ (p.bootBase step).vdevs = [] := by
  unfold Pkg.bootBase Pkg.mapped
  split
  · exact ⟨rfl, rfl, rfl⟩
  · split <;> exact ⟨rfl, rfl, rfl⟩

/-- The package that a boot starts from has what flash kept, and from step 4 on what the manifest names. -/
theorem State.sameId_bootBase (s : State) (pkg step : Nat) :
    ((s.pkgOf pkg).bootBase step).SameId ((s.bootBase pkg step).pkgOf pkg) := by
  unfold State.bootBase Pkg.bootBase
  split
  · rw [State.pkgOf_wipePkg]
    exact .refl _
  · exact State.pkgOf_wipePkg s pkg ▸ (s.wipePkg pkg).sameId_applyMaps pkg

/-! ### Loss of power (R515, R518, R522) -/

/-- The dies of a package are without power. -/
def State.unpowered (s : State) (pkg : Nat) : State :=
  [0, 1, 2, 3].foldl (fun t i => t.modDie (4 * pkg + i) fun d => { d with powered := false }) s

theorem State.powered_unpowered (s : State) (pkg : Nat) {i : Nat} (lt : i < 4) : ((s.unpowered pkg).dieOf (4 * pkg + i)).powered = false := by
  simp only [State.unpowered, List.foldl_cons, List.foldl_nil, State.dieOf_modDie]
  interval_cases i <;> simp

theorem State.pkgOf_unpowered (s : State) (pkg p : Nat) : (s.unpowered pkg).pkgOf p = s.pkgOf p := by
  have pkgs : (s.unpowered pkg).sys.pkgs = s.sys.pkgs :=
    List.foldlRecOn _ _ (motive := fun t : State => t.sys.pkgs = s.sys.pkgs) rfl fun t same i _ => same
  rw [State.pkgOf, State.pkgOf, pkgs]

theorem exec_powerLoss_eq (s : State) (pkg : Nat) : exec (.powerLoss pkg) s = .next ((s.wipePkg pkg).unpowered pkg) := rfl

/-! ### The mailbox (R518, R519) -/

section
variable {s : State} {pkg : Nat} {req : List Byte}

theorem exec_attest_length (bad : req.length ≠ 32) : exec (.attest pkg req) s = .next (s.putPkg pkg ((s.pkgOf pkg).mailDone 4 [])) :=
  congrArg _ (if_pos (by simpa using bad))

theorem exec_attest_exhausted (good : req.length = 32) (used : 2 ^ 20 ≤ (s.pkgOf pkg).leafIdx) :
    exec (.attest pkg req) s = .next (s.putPkg pkg ((s.pkgOf pkg).mailDone 3 [])) :=
  congrArg _ ((if_neg (by simpa using good)).trans (if_pos (Nat.sub_eq_zero_of_le used)))

/-- A package after an attestation with the signatures' values from a counter on. -/
def Pkg.attested (p : Pkg) (req : List Byte) (ctr : Nat) : Pkg :=
  { p with leafIdx := p.leafIdx + 1 }.mailDone 0 (p.report req ++ signature ctr 96 ++ signature (ctr + 1) 1772)

theorem exec_attest_signs (good : req.length = 32) (left : (s.pkgOf pkg).leafIdx < 2 ^ 20) : exec (.attest pkg req) s =
    .next { s.putPkg pkg ((s.pkgOf pkg).attested req s.freeCtr) with freeCtr := s.freeCtr + 2 } :=
  congrArg _ ((if_neg (by simpa using good)).trans (if_neg (Nat.sub_ne_zero_of_lt left)))

theorem Pkg.attested_spec (p : Pkg) (req : List Byte) (ctr : Nat) : (p.attested req ctr).leafIdx = p.leafIdx + 1 ∧
    (p.attested req ctr).mbrsp.take (p.report req).length = p.report req ∧
    (p.attested req ctr).mbrlen = (p.report req).length + 96 + 1772 ∧
    (p.attested req ctr).mbst / 2 % 2 = 1 ∧ (p.attested req ctr).mbst / 256 % 256 = 0 := by
  unfold Pkg.attested
  generalize p.report req = report
  have signed (c n : Nat) : (signature c n).length = n := by rw [signature, List.length_map, List.length_range]
  refine ⟨rfl, ?_, ?_, ?_, ?_⟩
  · exact (congrArg _ (List.append_assoc ..)).trans (List.take_left ..)
  · refine (List.length_append ..).trans ?_
    rw [List.length_append, signed, signed]
  · rw [Pkg.mailDone]
    unfold mbstWord
    dsimp only
    omega
  · rw [Pkg.mailDone]
    unfold mbstWord
    dsimp only
    omega

end

/-! ### The clock step (R522) -/

section
variable {d : Die} {ma : Nat}

theorem Die.sample_hot (hot : 1500000 < ma) : d.sample ma =
    { (if d.hot = 20 || (20 < d.hot && 1875000 < ma) then d.stepDown else d) with
      hot := if 1875000 < ma then min 21 (d.hot + 1) else 0, calm := 0 } := by
  unfold Die.sample
  dsimp only
  rw [if_pos hot]

theorem Die.sample_calm (few : d.hot < 20) (cool : ma ≤ 1500000) : d.sample ma =
    if d.calm + 1 < 100 then { d with hot := 0, calm := d.calm + 1 } else { d with
      hot := 0, calm := 0, step := max d.step (min (min 16 d.ceiling) (d.step + 1)) } := by
  unfold Die.sample
  have below : (d.hot = 20 || (20 < d.hot && 1875000 < ma)) = false := by simp; omega
  dsimp only
  rw [if_neg (Nat.not_lt.2 cool), below, if_neg (by omega : ¬ 1875000 < ma)]
  rfl

theorem Die.hot_sample : (d.sample ma).hot = if 1875000 < ma then min 21 (d.hot + 1) else 0 := by
  unfold Die.sample
  dsimp only
  generalize (if (d.hot = 20 || (20 < d.hot && 1875000 < ma)) = true then d.stepDown else d) = e
  split
  · rfl
  · split <;> rfl

end

/-- The clock step over the samples of the rail monitor. -/
theorem Die.sample_spec (d : Die) (ma : Nat) :
    (d.hot = 20 → 1500000 < ma → (d.sample ma).step = max 1 (d.step - 1)) ∧
    (d.hot < 20 → 1500000 < ma → (d.sample ma).step = d.step) ∧
    (1875000 < ma → (d.sample ma).calm = 0 ∧ (d.sample ma).hot = min 21 (d.hot + 1)) ∧
    (ma ≤ 1875000 → (d.sample ma).hot = 0) ∧
    (d.hot < 20 → ma ≤ 1500000 → d.calm + 1 < 100 → (d.sample ma).step = d.step ∧ (d.sample ma).calm = d.calm + 1) ∧
    (d.hot < 20 → ma ≤ 1500000 → 99 ≤ d.calm → (d.sample ma).step = max d.step (min (min 16 d.ceiling) (d.step + 1)) ∧ (d.sample ma).calm = 0) := by
  refine ⟨fun twenty hot => ?_, fun few hot => ?_, fun over_ => ⟨?_, ?_⟩, fun cool => ?_, fun few cool wait => ?_, fun few cool done => ?_⟩
  · rw [Die.sample_hot hot, twenty]
    rfl
  · rw [Die.sample_hot hot, if_neg (by simp; omega)]
  · rw [Die.sample_hot (by omega)]
  · rw [Die.hot_sample, if_pos over_]
  · rw [Die.hot_sample, if_neg (Nat.not_lt.2 cool)]
  · rw [Die.sample_calm few cool, if_pos wait]
    exact ⟨rfl, rfl⟩
  · rw [Die.sample_calm few cool, if_neg (by omega)]
    exact ⟨rfl, rfl⟩

section
variable {s : State} {die c : Nat}

theorem exec_thermalLimit_cool (cool : c ≤ 105) : exec (.thermalLimit die c) s = .next s := congrArg _ (if_pos cool)

theorem exec_thermalLimit_warm (above : 105 < c) (below : c < 115) :
    exec (.thermalLimit die c) s = .next (s.modDie die fun d => d.withCeiling (max 1 (d.ceiling - 1))) :=
  congrArg _ ((if_neg (Nat.not_le.2 above)).trans (if_pos below))

theorem exec_thermalLimit_trips (trips : 115 ≤ c) : ∃ t : State, exec (.thermalLimit die c) s = .next (t.unpowered (die / 4)) := by
  rw [exec_thermalLimit, execThermalLimit, if_neg (by omega)]
  dsimp only
  rw [if_neg (Nat.not_lt.2 trips)]
  exact ⟨_, rfl⟩

end

/-- Settles O25: a boot starts from what flash keeps (`State.sameId_bootBase`), the mailbox answers, and the clock step by its samples. -/
theorem powerEvents : Obligations.PowerEvents := by
  unfold Obligations.PowerEvents
  refine ⟨fun s pkg reason package good => ⟨fun step one most => ?_, ?_⟩, fun s pkg step reason n r package bad before most => ?_,
    fun p present below => Pkg.svnFail_mc present below, fun s pkg i package lt => ⟨_, exec_powerLoss_eq s pkg, State.powered_unpowered _ _ lt, ?_, ?_⟩,
    fun s pkg req => ⟨exec_attest_length, exec_attest_exhausted, fun good left => ⟨_, exec_attest_signs good left, ?_⟩⟩,
    fun s pkg => ⟨rfl, rfl⟩, fun s die ma c n => ⟨rfl, exec_thermalLimit_cool, exec_thermalLimit_warm, fun trips i lt => ?_, _, rfl, ?_, ?_⟩,
    Die.sample_spec⟩
  · obtain ⟨t, boots, booted⟩ := exec_packageReset_boots (Pkg.bootStop_outside good reason one most)
    have same := (s.sameId_bootBase pkg step).trans (Pkg.sameId_bootedAt _ step (reason % 16))
    rw [← booted] at same
    obtain ⟨leaf, regions, vdevs⟩ := (s.pkgOf pkg).bootBase_rest step
    refine ⟨t, boots, ?_, ?_, same.serial.trans (Pkg.serial_bootBase _ one), fun late some_ => same.working.trans (Pkg.working_bootBase late some_),
      same.leafIdx.trans leaf, same.regions.trans regions, same.vdevs.trans vdevs⟩
    · rw [booted]
      exact bootLevel_step (by omega)
    · rw [booted]
      exact mbstWord_boot ..
  · obtain ⟨t, boots, booted⟩ := exec_packageReset_boots (Pkg.bootStop_whole good reason)
    exact ⟨t, boots, by rw [booted]; rfl, by rw [booted]; rfl⟩
  · obtain ⟨t, boots, booted⟩ := exec_packageReset_boots (Pkg.bootStop_svn bad before most reason)
    exact ⟨t, boots, by rw [booted]; exact bootLevel_step (Pkg.svnFail_step bad), by rw [booted]; rfl, by rw [booted]; rfl⟩
  · rw [State.pkgOf_unpowered, State.pkgOf_wipePkg]
    rfl
  · rw [State.pkgOf_unpowered, State.pkgOf_wipePkg]
    rfl
  · have signed : State.pkgOf { s.putPkg pkg ((s.pkgOf pkg).attested req s.freeCtr) with freeCtr := s.freeCtr + 2 } pkg =
      (s.pkgOf pkg).attested req s.freeCtr := SMap.get_set_self ..
    rw [signed]
    exact Pkg.attested_spec ..
  · obtain ⟨t, trip⟩ := exec_thermalLimit_trips (s := s) (die := die) trips
    exact ⟨_, trip, State.powered_unpowered _ _ lt⟩
  · rw [State.dieOf_modDie_self]
    rfl
  · rw [State.dieOf_modDie_self]
    exact min_le_right ..

end Sys2Proof.Machine
end
